-- ==== Sys2Proof/Word.lean ====
section
/-! DEFINITION. The word types of the package and the plain index types of its numbered resources
(spec 01 R9, Table 1-2). Nothing here is arithmetic of a unit: that stands in Machine/. -/

namespace Sys2Proof

/-- One byte of memory or of a message. -/
abbrev Byte := BitVec 8

/-- A 64-bit register, field word or in-memory word (00 R4, R5). -/
abbrev W64 := BitVec 64

/-- A 52-bit physical address (01 Table 1-5). -/
abbrev PAddr := BitVec 52

/-- Numbered resources of Table 1-2. -/
abbrev CoreId := Fin 128
abbrev ArrayId := Fin 16
abbrev StackId := Fin 24
abbrev PcId := Fin 1536
abbrev CisternId := Fin 4
abbrev QueueId := Fin 256
abbrev LinkId := Fin 96
abbrev EthId := Fin 16
abbrev PortId := Fin 2
abbrev EngId := Fin 2
abbrev MbxId := Fin 4
abbrev GroupId := Fin 4096
abbrev NodeId := BitVec 16

end Sys2Proof
end

