-- ==== Sys2Proof/Syntax.lean ====
section
/-! DEFINITION. The commands and events the block takes: one constructor of `Instr` for every row of
spec/opcode_table.json, in the table's order, with the operands the row needs. Operands that name a
numbered resource have that resource's index type; what the physical world or another package decides
(a sensor's value, the outcome of a training, the contents of a message) is an operand. -/

namespace Sys2Proof

/-- The paths by which a register access arrives (21 Table 21-7). -/
inductive Path where
  | port (p : PortId)
  | core (c : CoreId)
  | debug
  deriving DecidableEq, Repr

/-- Loads of a core (08 R188, R192): scalar, vector, instruction fetch, load-reserved. -/
inductive LoadKind where
  | scalar | vector | fetch | reserved
  deriving DecidableEq, Repr

/-- Atomic memory operations of the A extension (08 Table 8-3). -/
inductive AmoOp where
  | swap | add | xor | and | or | min | max | minu | maxu
  deriving DecidableEq, Repr

/-- Stores of a core (08 R188, R192). -/
inductive StoreKind where
  | scalar | vector | conditional | amo (op : AmoOp)
  deriving DecidableEq, Repr

/-- An engine that runs streams: matrix array n or vector engine n (04, 06). -/
inductive StreamEng where
  | arr (n : ArrayId)
  | vec (n : ArrayId)
  deriving DecidableEq, Repr

/-- Holders a directory entry can name (08 R183). -/
inductive Holder where
  | pdie (h : EngId)
  | remote
  deriving DecidableEq, Repr

/-- A packet of the fabric (14 Table 14-6); LEN is the length of `payload`. -/
structure Packet where
  dst : NodeId
  src : NodeId
  typ : BitVec 8
  ordered : Bool
  hops : BitVec 7
  poison : BitVec 32
  txn : BitVec 32
  arg : W64
  payload : List Byte
  deriving DecidableEq, Repr

/-- A permit message (16 Table 16-4); the kind is the row it arrives as. -/
structure PermitMsg where
  src : NodeId
  pgroup : BitVec 16
  seq : BitVec 32
  time : Nat
  level : Nat
  amount : Int
  slope : Nat
  dutyCap : Nat
  cause : BitVec 8
  flags : BitVec 16
  floorW : Nat
  ceilingW : Nat
  workW : Nat
  ballastW : Nat
  epoch : BitVec 32
  refSeq : BitVec 32
  deriving DecidableEq, Repr

/-- A signature-round message of a collective (11 R254, R255). -/
structure SigMsg where
  group : GroupId
  seq : BitVec 20
  round : Nat
  src : Nat
  signature : BitVec 128
  agree : Bool
  value : W64
  earliest : Nat
  latest : Nat
  latestIdx : Nat
  deriving DecidableEq, Repr

/-- What the elements of a data-phase message are: block codes on their way and agreed, partial results, and
complete elements (11 R251-R253). -/
inductive CollPart where
  | codePart | codeFull | part | full
  deriving DecidableEq, Repr

/-- A data-phase message from member `src`: elements `first ..` of the vector, each as its bits, and the
arithmetic flags raised for them so far (11 R250-R253, log 33). -/
structure DataMsg where
  group : GroupId
  seq : BitVec 20
  src : Nat
  kind : CollPart
  first : Nat
  elems : List W64
  flags : BitVec 5
  deriving DecidableEq, Repr

/-- The cause an abort notice carries (11 Table 11-12). -/
inductive AbortCause where
  | mismatch | timeout | translation | poisoned | stateLate
  deriving DecidableEq, Repr

/-- What a received Ethernet frame is (14 R315). -/
inductive EthFrame where
  | roce (qpn : BitVec 12) (ce : Bool) (bytes : List Byte)
  | ptp (offset : Int)
  | other (bytes : List Byte)
  deriving DecidableEq, Repr

/-- An incoming RDMA request (14 R316, R317). -/
inductive RdmaReq where
  | write (va : W64) (rkey : BitVec 32) (data : List Byte)
  | writeImm (va : W64) (rkey : BitVec 32) (data : List Byte) (imm : BitVec 32)
  | read (va : W64) (rkey : BitVec 32) (len : Nat)
  | unsupported
  deriving DecidableEq, Repr

/-- An incoming RDMA response for a posted work request (14 R317). -/
inductive RdmaRsp where
  | ack
  | readData (data : List Byte)
  deriving DecidableEq, Repr

/-- How a read of attach-host memory completed (15 R329). -/
inductive HostStatus where
  | ok | unsupportedRequest | completerAbort | poisoned
  deriving DecidableEq, Repr

/-- What a timed-out request of a port was (15 R329, R331). -/
inductive TimedOut where
  | hostRead (addr : Nat) (len : Nat)
  | flushRead (q : QueueId)
  deriving DecidableEq, Repr

/-- A PCIe configuration request (15 R320, R333; 19 R393). -/
inductive CfgReq where
  | read (offset : BitVec 12)
  | writeBusMaster (on : Bool)
  | writeMsix (enable : Bool) (functionMask : Bool)
  /-- A dword of BAR0, or of BAR2: the low one, or the high one. -/
  | writeBar (bar2 high : Bool) (v : BitVec 32)
  deriving DecidableEq, Repr

/-- What DEBUG_PATH_ACCESS asks: the access's width in bits (00 R5), and the value of a write. -/
structure DebugOp where
  width : Nat
  value : Option W64
  deriving DecidableEq, Repr

/-- Operations of the test port (22 R453, 21 R438). -/
inductive TestOp where
  | boundaryScan | internalScan | managerHalt | readCause
  deriving DecidableEq, Repr

/-- Activity the Weigh-house counts in one 10 us interval, in 0.1 W (17 R363, R369): the raw estimate,
its ballast part, and for each array its own draw above idle and its memory traffic's draw. -/
structure Activity where
  rawDw : Nat
  ballastDw : Nat
  arrays : List (ArrayId × Nat × Nat)
  deriving DecidableEq, Repr

/-- The hottest junction sensor of each region and each stack's temperature, in degrees C (17 R372). -/
structure Temps where
  tdie : List Nat
  pdie : List Nat
  xdie : List Nat
  stks : List Nat
  deriving DecidableEq, Repr

/-- The Steward state a SNAPSHOT carries (16 Table 16-5): waiting requests, ramps in progress and
floors, by node. -/
structure SnapBody where
  queue : List PermitMsg
  /-- Member, amount, slope, first slot, and whether it covers a loss. -/
  ramps : List (NodeId × Int × Nat × Nat × Bool)
  floors : List (NodeId × Nat)
  deriving DecidableEq, Repr

/-- The commands and events, one constructor per row of spec/opcode_table.json. -/
inductive Instr where
  /-- REGISTER_WRITE (R5): a write of `width` bits at a register-space offset. -/
  | registerWrite (path : Path) (offset : BitVec 24) (width : Nat) (value : W64)
  /-- DEVICE_TIME_COMPARE (R16): `drift` is what half B's counter gained since the last compare. -/
  | deviceTimeCompare (drift : Int)
  /-- CORE_LOAD (R192). -/
  | coreLoad (c : CoreId) (pa : PAddr) (bytes : Nat) (kind : LoadKind)
  /-- CORE_STORE (R192). -/
  | coreStore (c : CoreId) (pa : PAddr) (data : List Byte) (kind : StoreKind)
  /-- CBO_CLEAN (R187). -/
  | cboClean (c : CoreId) (pa : PAddr)
  /-- CBO_FLUSH (R187). -/
  | cboFlush (c : CoreId) (pa : PAddr)
  /-- CBO_INVAL (R187). -/
  | cboInval (c : CoreId) (pa : PAddr)
  /-- CBO_ZERO (R187). -/
  | cboZero (c : CoreId) (pa : PAddr)
  /-- MIPISEND (R190). -/
  | mipisend (c : CoreId) (value : W64)
  /-- SIPISEND (R190). -/
  | sipisend (c : CoreId) (value : W64)
  /-- MERRINFO_READ (R190). -/
  | merrinfoRead (c : CoreId)
  /-- MACHINE_TIMER (R191): `cmp` is the value the core's mtimecmp CSR holds. -/
  | machineTimer (c : CoreId) (cmp : W64)
  /-- HOME_CORE_READ (R184): `depth` is the controller queue's depth met by a prefetch (R180). -/
  | homeCoreRead (c : CoreId) (pa : PAddr) (depth : Nat)
  /-- HOME_CORE_WRITE (R184). -/
  | homeCoreWrite (c : CoreId) (pa : PAddr)
  /-- HOME_ENGINE_READ (R184): `eng` is a code of Table 9-12. -/
  | homeEngineRead (eng : BitVec 8) (pa : PAddr) (bytes : Nat) (streaming noRemote : Bool) (depth : Nat)
  /-- HOME_ENGINE_WRITE (R184). -/
  | homeEngineWrite (eng : BitVec 8) (pa : PAddr) (data : List Byte) (poison : Bool) (streaming : Bool)
  /-- HOLDER_ACKNOWLEDGE (R184). -/
  | holderAcknowledge (pa : PAddr) (holder : Holder)
  /-- EVICTION_BUFFER_DRAIN (R177). -/
  | evictionBufferDrain (cis : CisternId)
  /-- SECTOR_READ (R154): `errs` are the failing symbols (0-31 DQ, 32-35 ECC) with their error values. -/
  | sectorRead (pc : PcId) (sector : Nat) (errs : List (Fin 36 × Byte))
  /-- CORRECTED_WRITE_BACK (R155). -/
  | correctedWriteBack (pc : PcId) (sector : Nat)
  /-- WCB_ENTRY_TIMEOUT (R151). -/
  | wcbEntryTimeout (stack : StackId)
  /-- PATROL_SCRUB (R158). -/
  | patrolScrub (stack : StackId) (errs : List (Fin 36 × Byte))
  /-- RETUNE_SCHEDULE (R162): the stack's temperature as now reported. -/
  | retuneSchedule (stack : StackId) (tempC : BitVec 8)
  /-- RETUNE_START (R161). -/
  | retuneStart (pc : PcId)
  /-- RETUNE_END (R163). -/
  | retuneEnd (pc : PcId) (ok : Bool)
  /-- MEM_CONFIG (R146), served from mailbox m. -/
  | memConfig (m : MbxId)
  /-- MEM_ERROR_LOG (R159). -/
  | memErrorLog (m : MbxId)
  /-- PC_RETUNE (R162). -/
  | pcRetune (m : MbxId)
  /-- STACK_MARGIN (R165). -/
  | stackMargin (m : MbxId)
  /-- STACK_OFFLINE (R164). -/
  | stackOffline (m : MbxId)
  /-- STACK_ONLINE (R166). -/
  | stackOnline (m : MbxId)
  /-- CACHE_LOCK (R181). -/
  | cacheLock (m : MbxId)
  /-- CACHE_UNLOCK (R182). -/
  | cacheUnlock (m : MbxId)
  /-- STREAM_LAUNCH (R80): the launch descriptor next in the start order of queue q starts. -/
  | streamLaunch (q : QueueId)
  /-- STREAM_LOAD_COMPLETE (R81). -/
  | streamLoadComplete (e : StreamEng)
  /-- LOCK_GROUP_START (R97): the group of engine e starts. -/
  | lockGroupStart (e : StreamEng)
  /-- BUNDLE_ISSUE (R86): one issuing array clock cycle of array n. -/
  | bundleIssue (n : ArrayId)
  /-- ACCUMULATOR_ROW_WRITE (R58). -/
  | accumulatorRowWrite (n : ArrayId)
  /-- PRELOAD_END (R59). -/
  | preloadEnd (n : ArrayId) (buf : Bool)
  /-- TRIGGER_COMPLETE (R92): outstanding trigger number k, oldest first. -/
  | triggerComplete (e : StreamEng) (k : Fin 32)
  /-- SEMAPHORE_WAIT_PASS (R94). -/
  | semaphoreWaitPass (e : StreamEng)
  /-- GROUP_WAIT_RELEASE (R99). -/
  | groupWaitRelease (e : StreamEng)
  /-- WITHHELD_CYCLE (R69). -/
  | withheldCycle (n : ArrayId)
  /-- DUTY_BOUNDARY (R370). -/
  | dutyBoundary (n : ArrayId)
  /-- DROOP_STRETCH (R374): T-die t, by Cistern number. -/
  | droopStretch (t : CisternId)
  /-- STREAM_COMPLETE (R85). -/
  | streamComplete (e : StreamEng)
  /-- ARY_COUNTER_CLEAR (R78). -/
  | aryCounterClear (n : ArrayId) (value : W64)
  /-- ARY_STREAM_CLEAR (R102). -/
  | aryStreamClear (n : ArrayId) (value : W64)
  /-- VECTOR_BUNDLE_ISSUE (R119). -/
  | vectorBundleIssue (n : ArrayId)
  /-- VECTOR_RESULT_WRITE (R121): every result of engine n that is due in its present stream cycle. -/
  | vectorResultWrite (n : ArrayId)
  /-- VEC_COUNTER_CLEAR (R143). -/
  | vecCounterClear (n : ArrayId) (value : W64)
  /-- DOORBELL (R228): a write to QDB_TAIL. -/
  | doorbell (q : QueueId) (value : W64)
  /-- DESCRIPTOR_FETCH_RETURN (R229). -/
  | descriptorFetchReturn (q : QueueId)
  /-- DESCRIPTOR_REFETCH (R230). -/
  | descriptorRefetch (q : QueueId)
  /-- QUEUE_ENABLE (R223). -/
  | queueEnable (q : QueueId)
  /-- QUEUE_DISABLE (R243). -/
  | queueDisable (q : QueueId)
  /-- QUEUE_DRAIN_END (R243). -/
  | queueDrainEnd (q : QueueId)
  /-- QUEUE_STOP (R242). -/
  | queueStop (q : QueueId)
  /-- QUEUE_RESUME (R243). -/
  | queueResume (q : QueueId)
  /-- CQ_HEAD_WRITE (R236). -/
  | cqHeadWrite (q : QueueId) (value : W64)
  /-- IRQ_HOLDOFF_EXPIRY (R240). -/
  | irqHoldoffExpiry (q : QueueId)
  /-- QDB_COUNTER_CLEAR (R244). -/
  | qdbCounterClear (q : QueueId) (value : W64)
  /-- NOP (R227). -/
  | nop (q : QueueId)
  /-- COPY (R232). -/
  | copy (q : QueueId)
  /-- COPY_2D (R232). -/
  | copy2d (q : QueueId)
  /-- FILL (R232). -/
  | fill (q : QueueId)
  /-- WRITE_IMM (R232). -/
  | writeImm (q : QueueId)
  /-- TRANSFER_COMPLETE (R238). -/
  | transferComplete (q : QueueId)
  /-- INVALIDATE (R233). -/
  | invalidate (q : QueueId)
  /-- INVALIDATE_COMPLETE (R215). -/
  | invalidateComplete (q : QueueId)
  /-- MIGRATION_SERVICE (R209). -/
  | migrationService
  /-- MIGRATION_COPY_COMPLETE (R209): `ok` is false when the backing page could not be read (R210). -/
  | migrationCopyComplete (vpage : PAddr) (ok : Bool)
  /-- FAULT_TIMEOUT (R211). -/
  | faultTimeout (vpage : PAddr)
  /-- XLT_NOTIFY_RING (R213). -/
  | xltNotifyRing (m : MbxId)
  /-- PAGE_SUPPLY (R212). -/
  | pageSupply (m : MbxId)
  /-- PAGE_MIGRATE (R214). -/
  | pageMigrate (m : MbxId)
  /-- KEY_MAP (R217). -/
  | keyMap (m : MbxId)
  /-- XLT_COUNTER_CLEAR (R221). -/
  | xltCounterClear (value : W64)
  /-- ALL_REDUCE (R250). -/
  | allReduce (q : QueueId)
  /-- REDUCE_SCATTER (R250). -/
  | reduceScatter (q : QueueId)
  /-- ALL_GATHER (R250). -/
  | allGather (q : QueueId)
  /-- BROADCAST (R250). -/
  | broadcast (q : QueueId)
  /-- REDUCE (R250). -/
  | reduce (q : QueueId)
  /-- ALL_TO_ALL (R250). -/
  | allToAll (q : QueueId)
  /-- BARRIER (R250). -/
  | barrier (q : QueueId)
  /-- FLAG_REDUCE (R250). -/
  | flagReduce (q : QueueId)
  /-- COLLECTIVE_START_TIME (R260). -/
  | collectiveStartTime (g : GroupId)
  /-- SIGNATURE_MESSAGE (R255). -/
  | signatureMessage (msg : SigMsg)
  /-- COLLECTIVE_DATA_MESSAGE (R251). -/
  | collectiveDataMessage (msg : DataMsg)
  /-- ABORT_NOTICE (R258): from member `src` for the group's collective `seq`. -/
  | abortNotice (g : GroupId) (seq : BitVec 20) (src : Nat) (cause : AbortCause)
  /-- MEMBER_TIMEOUT (R258): the member not arrived, or lost. -/
  | memberTimeout (g : GroupId) (member : Nat)
  /-- COLLECTIVE_DONE (R261). -/
  | collectiveDone (g : GroupId)
  /-- GROUP_TABLE_SET (R246). -/
  | groupTableSet (m : MbxId)
  /-- GROUP_LOAD (R247). -/
  | groupLoad (m : MbxId)
  /-- GROUP_UNLOAD (R247). -/
  | groupUnload (m : MbxId)
  /-- TALLY_CLEAR (R262). -/
  | tallyClear (m : MbxId)
  /-- GROUP_STATUS (R392). -/
  | groupStatus (m : MbxId)
  /-- UPD_APPLY (R271). -/
  | updApply (q : QueueId)
  /-- GRADIENT_DELIVERY (R274): one reduced element, as raw bits of the collective's TYPE. -/
  | gradientDelivery (u : EngId) (bits : BitVec 32)
  /-- STATE_ARRIVAL (R281): fetched state and weights up to element `upto` of the shard have arrived. -/
  | stateArrival (u : EngId) (upto : Nat)
  /-- STALL_BOUND_EXPIRY (R282). -/
  | stallBoundExpiry (u : EngId)
  /-- APPLY_STAGED (R277). -/
  | applyStaged (u : EngId)
  /-- UPD_COMMIT (R278). -/
  | updCommit (q : QueueId)
  /-- UPD_COUNTER_CLEAR (R286). -/
  | updCounterClear (u : EngId) (value : W64)
  /-- SLOT_OPEN (R287). -/
  | slotOpen (q : QueueId)
  /-- SLOT_CLOSE (R288). -/
  | slotClose (q : QueueId)
  /-- KV_GATHER (R291). -/
  | kvGather (q : QueueId)
  /-- KV_PUT (R291). -/
  | kvPut (q : QueueId)
  /-- SAMPLE (R294). -/
  | sample (q : QueueId)
  /-- SEQ_RING_HEAD_WRITE (R296). -/
  | seqRingHeadWrite (e : EngId) (value : W64)
  /-- SEQ_RING_CFG_WRITE (R296). -/
  | seqRingCfgWrite (e : EngId) (value : W64)
  /-- SEQ_COUNTER_CLEAR (R298). -/
  | seqCounterClear (e : EngId) (value : W64)
  /-- LINK_TRAINING_END (R299): the generation trained at less one (in Ethernet mode the rate's code less
  one), none on failure. -/
  | linkTrainingEnd (n : LinkId) (gen : Option (Fin 3))
  /-- FLIT_RECEIVE (R300, R302): the 128 bytes of a flit, and the codewords it overlaps, each by its number in the
  direction's stream with the symbols found in error. -/
  | flitReceive (n : LinkId) (bytes : List Byte) (words : List (Nat × Nat))
  /-- RETRY_REQ (R302). -/
  | retryReq (n : LinkId) (fseq : BitVec 12)
  /-- RETRY_REQ_REPEAT (R302). -/
  | retryReqRepeat (n : LinkId)
  /-- IDENT (R301). -/
  | ident (n : LinkId) (node : NodeId) (link : BitVec 7) (gen : BitVec 2) (part : BitVec 2)
  /-- WITHDRAW (R311). -/
  | withdraw (n : LinkId)
  /-- WITHDRAW_ACK (R311). -/
  | withdrawAck (n : LinkId)
  /-- RESTORE (R311). -/
  | restore (n : LinkId)
  /-- CREDIT_STALL (R303). -/
  | creditStall (n : LinkId) (vl : Fin 4)
  /-- PACKET_ROUTE (R307): a packet header, with the link it arrived on (none: this package's own). -/
  | packetRoute (from_ : Option LinkId) (pkt : Packet)
  /-- WRITE (R305). -/
  | write (pkt : Packet)
  /-- WRITE_ACK (R305). -/
  | writeAck (txn : BitVec 32) (status : BitVec 16)
  /-- UNREACHABLE (R305). -/
  | unreachable (txn : BitVec 32) (node : NodeId)
  /-- WRITE_ACK_TIMEOUT (R305). -/
  | writeAckTimeout (txn : BitVec 32)
  /-- LINK_DOWN (R309): the cause code of Table 14-15, 1 to 4. -/
  | linkDown (n : LinkId) (cause : BitVec 8)
  /-- NODE_DOWN_TIMER (R310). -/
  | nodeDownTimer (node : NodeId)
  /-- NODE_DOWN (R310): the notice for `node`, arriving on link n. -/
  | nodeDown (n : LinkId) (node : NodeId)
  /-- AUTO_RETRAIN_ATTEMPT (R312). -/
  | autoRetrainAttempt (n : LinkId)
  /-- NODE_ID_SET (R306). -/
  | nodeIdSet (m : MbxId)
  /-- ROUTE_WRITE (R307). -/
  | routeWrite (m : MbxId)
  /-- ROUTE_READ (R307). -/
  | routeRead (m : MbxId)
  /-- LINK_CONFIG (R314). -/
  | linkConfig (m : MbxId)
  /-- LINK_WITHDRAW (R311). -/
  | linkWithdraw (m : MbxId)
  /-- LINK_RETRAIN (R311). -/
  | linkRetrain (m : MbxId)
  /-- LINK_RESTORE (R311). -/
  | linkRestore (m : MbxId)
  /-- ETH_CONFIG (R315). -/
  | ethConfig (m : MbxId)
  /-- RDMA_MR_REG (R316). -/
  | rdmaMrReg (m : MbxId)
  /-- RDMA_QP_SET (R316). -/
  | rdmaQpSet (m : MbxId)
  /-- ETH_FRAME_RECEIVE (R315). -/
  | ethFrameReceive (p : EthId) (frame : EthFrame)
  /-- PFC_FRAME (R315): priority mask, and whether it pauses or releases. -/
  | pfcFrame (p : EthId) (mask : BitVec 8) (pause : Bool)
  /-- CNP_RECEIVE (R315). -/
  | cnpReceive (p : EthId) (qpn : BitVec 12)
  /-- ROCE_RATE_INCREASE (R315). -/
  | roceRateIncrease (p : EthId) (qpn : BitVec 12)
  /-- ETH_DOORBELL (R317). -/
  | ethDoorbell (p : EthId) (value : W64)
  /-- RDMA_REQUEST_RECEIVE (R316). -/
  | rdmaRequestReceive (p : EthId) (qpn : BitVec 12) (req : RdmaReq)
  /-- RDMA_NAK (R317). -/
  | rdmaNak (p : EthId) (qpn : BitVec 12) (syndrome : BitVec 8)
  /-- RDMA_RETRY_EXCEEDED (R317). -/
  | rdmaRetryExceeded (p : EthId) (qpn : BitVec 12)
  /-- LNK_COUNTER_CLEAR (R318). -/
  | lnkCounterClear (value : W64)
  /-- WIN_BASE_WRITE (R322). -/
  | winBaseWrite (p : PortId) (value : W64)
  /-- WINDOW_READ (R323). -/
  | windowRead (p : PortId) (offset : BitVec 32) (bytes : Nat)
  /-- WINDOW_WRITE (R323): `ep` is the EP bit of the TLP. -/
  | windowWrite (p : PortId) (offset : BitVec 32) (data : List Byte) (ep : Bool)
  /-- PORT_LINK_UP (R319): width, rate code and CXL code of Table 15-6. -/
  | portLinkUp (p : PortId) (width : BitVec 5) (rate : BitVec 3) (cxl : BitVec 2)
  /-- PORT_LINK_DOWN (R327). -/
  | portLinkDown (p : PortId)
  /-- PORT_HOT_RESET (R406). -/
  | portHotReset (p : PortId)
  /-- HOST_SNOOP (R328). -/
  | hostSnoop (p : PortId) (addr : BitVec 43)
  /-- ATTACH_READ_COMPLETION (R329). -/
  | attachReadCompletion (p : PortId) (addr : BitVec 43) (data : List Byte) (status : HostStatus)
      (streaming : Bool)
  /-- FLUSH_READ_COMPLETION (R331): a flush read of queue q on port p has completed, or failed. -/
  | flushReadCompletion (q : QueueId) (p : PortId) (ok : Bool)
  /-- MSIX_PENDING_SEND (R333). -/
  | msixPendingSend (p : PortId) (vec : BitVec 8)
  /-- WIN_COUNTER_CLEAR (R334). -/
  | winCounterClear (value : W64)
  /-- TIME_SOURCE_SET (R336). -/
  | timeSourceSet (m : MbxId)
  /-- TIME_STEP (R338). -/
  | timeStep (m : MbxId)
  /-- TIME_SYNC_SEND (R337). -/
  | timeSyncSend
  /-- TIME_SYNC_MESSAGE (R337): the offset from the neighbour measured over link n. -/
  | timeSyncMessage (n : LinkId) (offset : Int)
  /-- PPS_EDGE (R450): whether the edge met the pulse and 10 MHz conditions, and the measured offset. -/
  | ppsEdge (clean : Bool) (offset : Int)
  /-- TIME_COUNTER_CLEAR (R360). -/
  | timeCounterClear (value : W64)
  /-- WEIGH_HOUSE_ESTIMATE (R363). -/
  | weighHouseEstimate (act : Activity)
  /-- RAMP_STEP (R341). -/
  | rampStep
  /-- START_GRANT (R346). -/
  | startGrant
  /-- RESERVATION_EXPIRY (R345). -/
  | reservationExpiry
  /-- HELD_BELOW_NEED (R347): the draw, in W, the held work lacks. -/
  | heldBelowNeed (needW : Nat)
  /-- DOWN_REQUEST (R348). -/
  | downRequest
  /-- BALLAST_SHORT (R344): the draw, in W, the package can hold, and the energy not covered, in mJ. -/
  | ballastShort (holdW : Nat) (milliJ : Nat)
  /-- STEWARD_SLOT (R352). -/
  | stewardSlot
  /-- REQUEST (R352). -/
  | request (msg : PermitMsg)
  /-- GRANT (R352). -/
  | grant (msg : PermitMsg)
  /-- REPORT (R354). -/
  | report (msg : PermitMsg)
  /-- ENVELOPE (R350). -/
  | envelope (msg : PermitMsg)
  /-- HEARTBEAT (R355). -/
  | heartbeat (msg : PermitMsg)
  /-- EXCURSION (R359). -/
  | excursion (msg : PermitMsg)
  /-- SNAPSHOT (R355). -/
  | snapshot (msg : PermitMsg) (body : SnapBody)
  /-- CLAIM (R355). -/
  | claim (msg : PermitMsg)
  /-- REPORT_INTERVAL (R351). -/
  | reportInterval
  /-- HEARTBEAT_INTERVAL (R351). -/
  | heartbeatInterval
  /-- SNAPSHOT_INTERVAL (R351). -/
  | snapshotInterval
  /-- ENVELOPE_INTERVAL (R351). -/
  | envelopeInterval
  /-- REQUEST_RESEND (R351). -/
  | requestResend
  /-- HEAD_SHARE_INTERVAL (R353). -/
  | headShareInterval
  /-- HEARTBEAT_TIMEOUT (R355). -/
  | heartbeatTimeout
  /-- SNAPSHOT_TIMEOUT (R355). -/
  | snapshotTimeout
  /-- MEMBER_REPORT_TIMEOUT (R357). -/
  | memberReportTimeout (node : NodeId)
  /-- PACE_HOLD_EXPIRY (R354). -/
  | paceHoldExpiry (set : Fin 64)
  /-- DUTY_CAP_RAISE (R354). -/
  | dutyCapRaise (set : Fin 64)
  /-- ENVELOPE_SET (R350). -/
  | envelopeSet (m : MbxId)
  /-- POWER_GROUP_JOIN (R350). -/
  | powerGroupJoin (m : MbxId)
  /-- STEWARD_ROLE (R350). -/
  | stewardRole (m : MbxId)
  /-- STEWARD_HANDOVER (R356). -/
  | stewardHandover (m : MbxId)
  /-- PACE_SET (R354). -/
  | paceSet (m : MbxId)
  /-- ENVELOPE_STATUS (R392). -/
  | envelopeStatus (m : MbxId)
  /-- PWR_ENV_COUNTER_CLEAR (R360). -/
  | pwrEnvCounterClear (value : W64)
  /-- INPUT_POWER_SAMPLE (R362): the measured input power, in 0.1 W. -/
  | inputPowerSample (dw : Nat)
  /-- INPUT_STAGE_FAULT (R362). -/
  | inputStageFault
  /-- PEAK_CLAMP (R371): the input power, in W. -/
  | peakClamp (watts : Nat)
  /-- PEAK_CLAMP_END (R371). -/
  | peakClampEnd
  /-- OVER_RATED_END (R371). -/
  | overRatedEnd
  /-- WEIGH_HOUSE_COMPARE (R364). -/
  | weighHouseCompare
  /-- DELTA_RECOMPUTE (R366). -/
  | deltaRecompute
  /-- MEASUREMENT_ABSENT (R365). -/
  | measurementAbsent
  /-- RECALIBRATION_ATTEMPT (R367). -/
  | recalibrationAttempt
  /-- RECALIBRATION_END (R367). -/
  | recalibrationEnd
  /-- THERMAL_SENSOR_READ (R372). -/
  | thermalSensorRead (t : Temps)
  /-- THERMAL_TRIP (R372): the sensor's value. -/
  | thermalTrip (tempC : Nat)
  /-- MARGIN_EVALUATION (R373): the least slack of each T-die, in ps. -/
  | marginEvaluation (slack : List Nat)
  /-- POWER_TRIM (R373). -/
  | powerTrim (m : MbxId)
  /-- CAP_TAGS (R369). -/
  | capTags (m : MbxId)
  /-- FIXED_RATE (R376). -/
  | fixedRate (m : MbxId)
  /-- DROOP_MODE (R374). -/
  | droopMode (m : MbxId)
  /-- WEIGH_CALIBRATE (R367). -/
  | weighCalibrate (m : MbxId)
  /-- PWR_COUNTER_CLEAR (R377). -/
  | pwrCounterClear (value : W64)
  /-- MBX_DOORBELL_GO (R383). -/
  | mbxDoorbellGo (m : MbxId) (value : W64)
  /-- MBX_OP_DONE_WRITE (R387). -/
  | mbxOpDoneWrite (m : MbxId) (value : W64)
  /-- LONG_OPERATION_END (R387): the operation in slot `slot` of mailbox m (none: a WAIT = 1 command)
  ends; `ok` is the physical outcome and `data` what was measured. -/
  | longOperationEnd (m : MbxId) (slot : Option (Fin 8)) (ok : Bool) (data : List Byte)
  /-- MBX_COUNTER_CLEAR (R380). -/
  | mbxCounterClear (m : MbxId) (value : W64)
  /-- MAILBOX2_COMMAND (R389): header and payload arriving from node `src`. -/
  | mailbox2Command (src : NodeId) (bytes : List Byte)
  /-- FABRIC_MAILBOX (R389). -/
  | fabricMailbox (m : MbxId)
  /-- FABRIC_MAILBOX_RESPONSE (R389). -/
  | fabricMailboxResponse (src : NodeId) (bytes : List Byte)
  /-- FABRIC_MAILBOX_TIMEOUT (R389). -/
  | fabricMailboxTimeout
  /-- WATCHDOG_EXPIRY (R379). -/
  | watchdogExpiry
  /-- IDENTITY_READ (R392). -/
  | identityRead (m : MbxId)
  /-- GEOMETRY_READ (R25). -/
  | geometryRead (m : MbxId)
  /-- BLOCK_READ (R392). -/
  | blockRead (m : MbxId)
  /-- BLOCK_WRITE (R392). -/
  | blockWrite (m : MbxId)
  /-- EVENT_ROUTE (R433). -/
  | eventRoute (m : MbxId)
  /-- EVENT_LOG_READ (R432). -/
  | eventLogRead (m : MbxId)
  /-- TELEMETRY_WINDOW (R392). -/
  | telemetryWindow (m : MbxId)
  /-- TELEMETRY_PERIOD (R392). -/
  | telemetryPeriod (w : Fin 16)
  /-- EVENT_LOG_WRITE (R431). -/
  | eventLogWrite
  /-- FW_LOAD (R398): `readOk` is whether the reads through port A completed. -/
  | fwLoad (m : MbxId) (readOk : Bool)
  /-- FW_ACTIVATE (R408). -/
  | fwActivate (m : MbxId)
  /-- FIRMWARE_START (R409): whether the new firmware accepts the handover state. -/
  | firmwareStart (accepts : Bool)
  /-- ACTIVATION_COMPLETE (R409). -/
  | activationComplete
  /-- ACTIVATION_TIMEOUT (R410). -/
  | activationTimeout
  /-- FW_STATUS (R399). -/
  | fwStatus (m : MbxId)
  /-- FW_START_TIMEOUT (R395). -/
  | fwStartTimeout
  /-- DEVICE_RESET (R400). -/
  | deviceReset (m : MbxId)
  /-- DEVICE_RESET_BEGIN (R401). -/
  | deviceResetBegin
  /-- POWER_ON_RESET (R393). -/
  | powerOnReset
  /-- RESET_N_ASSERT (R451). -/
  | resetNAssert
  /-- RESET_N_RELEASE (R451). -/
  | resetNRelease
  /-- RESET_WRITE_BACK_END (R403). -/
  | resetWriteBackEnd
  /-- STACK_TRAINING_END (R394): the set of stacks that failed. -/
  | stackTrainingEnd (failed : BitVec 24)
  /-- POOL_READY (R396). -/
  | poolReady
  /-- FIRMWARE_READY (R393). -/
  | firmwareReady
  /-- BOOT_COUNTER_CLEAR (R411). -/
  | bootCounterClear (value : W64)
  /-- CERT_READ (R418). -/
  | certRead (m : MbxId)
  /-- ATTEST (R419). -/
  | attest (m : MbxId)
  /-- DEBUG_CHALLENGE (R415). -/
  | debugChallenge (m : MbxId)
  /-- DEBUG_AUTH (R425). -/
  | debugAuth (m : MbxId)
  /-- ROOT_REVOKE (R416). -/
  | rootRevoke (m : MbxId)
  /-- SVN_ADVANCE (R424). -/
  | svnAdvance (m : MbxId)
  /-- KEY_LOAD (R421). -/
  | keyLoad (m : MbxId)
  /-- KEY_ERASE (R423). -/
  | keyErase (m : MbxId)
  /-- DEBUG_END (R425): a write to DBG_CTRL. -/
  | debugEnd (value : W64)
  /-- NOT_AFTER_EXPIRY (R425). -/
  | notAfterExpiry
  /-- CHALLENGE_EXPIRY (R415). -/
  | challengeExpiry
  /-- DBG_COUNTER_CLEAR (R427). -/
  | dbgCounterClear (value : W64)
  /-- BRIDGE_SEGMENT_DOWN (R429). -/
  | bridgeSegmentDown (segment : Fin 2)
  /-- CNT_COUNTER_CLEAR (R436). -/
  | cntCounterClear (value : W64)
  /-- HBM_COUNTER_CLEAR (R168). -/
  | hbmCounterClear (value : W64)
  /-- INPUT_UNDERVOLTAGE (R445). -/
  | inputUndervoltage
  /-- REFCLK_LOSS (R449). -/
  | refclkLoss
  /-- REGISTER_READ (R5). -/
  | registerRead (path : Path) (offset : BitVec 24) (width : Nat)
  /-- DEBUG_PATH_ACCESS (R74): `sub` 1 is an array's stream control block. -/
  | debugPathAccess (eng : BitVec 8) (sub : Bool) (offset : BitVec 12) (op : DebugOp)
  /-- TEST_PORT_ACCESS (R453). -/
  | testPortAccess (op : TestOp)
  /-- CONFIGURATION_REQUEST (R333). -/
  | configurationRequest (p : PortId) (req : CfgReq)
  /-- RDMA_RESPONSE_RECEIVE (R317). -/
  | rdmaResponseReceive (p : EthId) (qpn : BitVec 12) (rsp : RdmaRsp)
  /-- COMPLETION_TIMEOUT (R329). -/
  | completionTimeout (p : PortId) (req : TimedOut)
  /-- WATCHDOG_RESTART (R379). -/
  | watchdogRestart
  /-- PPS_OUT_EDGE (R450). -/
  | ppsOutEdge
  deriving DecidableEq, Repr

end Sys2Proof
end

