-- ==== Sys2Proof/Machine/Num.lean ====
section
/-! DEFINITION. Number formats, rounding and the noise generator (spec 02). A finite non-zero value is
kept as a sign, a natural number and a power of two, so every operation is exact until its one rounding. -/

namespace Sys2Proof.Machine

/-- A binary floating format by its exponent and fraction widths (02 Table 2-1). -/
structure Fmt where
  ebits : Nat
  fbits : Nat
  deriving DecidableEq, Repr

namespace Fmt
def f19 : Fmt := ⟨8, 10⟩
def fp32 : Fmt := ⟨8, 23⟩
def fp64 : Fmt := ⟨11, 52⟩
def bf16 : Fmt := ⟨8, 7⟩
def fp16 : Fmt := ⟨5, 10⟩

def bias (f : Fmt) : Nat := 2 ^ (f.ebits - 1) - 1
/-- Exponent of the smallest normal value. -/
def emin (f : Fmt) : Int := 1 - (f.bias : Int)
def width (f : Fmt) : Nat := 1 + f.ebits + f.fbits
def infBits (f : Fmt) : Nat := (2 ^ f.ebits - 1) * 2 ^ f.fbits
/-- The canonical NaN (02 R31, R43). -/
def nanBits (f : Fmt) : Nat := f.infBits + 2 ^ (f.fbits - 1)
def signBit (f : Fmt) : Nat := 2 ^ (f.ebits + f.fbits)
def withSign (f : Fmt) (s : Bool) (b : Nat) : Nat := if s then b + f.signBit else b
end Fmt

/-- A floating value: a NaN (signalling or not), an infinity, a zero, or ±m·2^e with m ≠ 0. -/
inductive FVal where
  | nan (signalling : Bool)
  | inf (s : Bool)
  | zero (s : Bool)
  | fin (s : Bool) (m : Nat) (e : Int)
  deriving DecidableEq, Repr

/-- The value a bit pattern encodes (02 R30, R37). F19 distinguishes no signalling NaN (R31);
a BF16 one is quiet only towards F19 (R49), which takes no flag from it. -/
def decodeF (f : Fmt) (w : Nat) : FVal :=
  let s := (w / f.signBit) % 2 == 1
  let e := (w / 2 ^ f.fbits) % 2 ^ f.ebits
  let m := w % 2 ^ f.fbits
  if e = 2 ^ f.ebits - 1 then
    if m = 0 then .inf s
    else if f = Fmt.f19 then .nan false
    else .nan (m / 2 ^ (f.fbits - 1) == 0)
  else if e = 0 then
    if m = 0 then .zero s else .fin s m (f.emin - f.fbits)
  else .fin s (m + 2 ^ f.fbits) ((e : Int) - f.bias - f.fbits)

/-- Exception flags in the layout of 02 Table 2-5: NV, DZ, OF, UF, NX. -/
abbrev FFlags := BitVec 5
def flagNV : FFlags := 16
def flagDZ : FFlags := 8
def flagOF : FFlags := 4
def flagUF : FFlags := 2
def flagNX : FFlags := 1

/-- Rounding-direction attributes (02 Table 2-6). -/
inductive Rm where
  | rne | rtz | rdn | rup | rmm
  deriving DecidableEq, Repr

/-- The attribute of a 3-bit code; 0b101, 0b110 and 0b111 name none (02 R44). -/
def Rm.ofCode (c : Nat) : Option Rm :=
  match c with
  | 0 => some .rne | 1 => some .rtz | 2 => some .rdn | 3 => some .rup | 4 => some .rmm | _ => none

/-- floor(log2(n/d)) for n, d > 0. -/
def ilog2Ratio (n d : Nat) : Int :=
  let k : Int := (n.log2 : Int) - d.log2
  -- 2^(k-1) < n/d < 2^(k+1)
  if 0 ≤ k then (if n < d <<< k.toNat then k - 1 else k)
  else (if n <<< (-k).toNat < d then k - 1 else k)

/-- n/d·2^e divided by the quantum 2^qe: quotient, remainder and divisor. -/
def divQuantum (n d : Nat) (e qe : Int) : Nat × Nat × Nat :=
  let N := n <<< (e - qe).toNat
  let D := d <<< (qe - e).toNat
  (N / D, N % D, D)

/-- Does the attribute round the magnitude t + r/D away from zero? -/
def roundsUp (rm : Rm) (s : Bool) (t r D : Nat) : Bool :=
  match rm with
  | .rne => 2 * r > D || (2 * r == D && t % 2 == 1)
  | .rtz => false
  | .rdn => s && r != 0
  | .rup => !s && r != 0
  | .rmm => 2 * r ≥ D && r != 0

/-- The overflow result of an attribute: infinity or the largest finite value. -/
def overflowBits (f : Fmt) (rm : Rm) (s : Bool) : Nat :=
  let toInf := match rm with
    | .rne | .rmm => true
    | .rtz => false
    | .rdn => s
    | .rup => !s
  f.withSign s (if toInf then f.infBits else f.infBits - 1)

/-- Rounds ±(n/d)·2^e, n > 0, to the format (02 R38-R41); tininess after rounding (R40). -/
def roundIeee (f : Fmt) (rm : Rm) (s : Bool) (n d : Nat) (e : Int) : Nat × FFlags :=
  let L := ilog2Ratio n d + e
  let qe := max L f.emin - f.fbits
  let (t, r, D) := divQuantum n d e qe
  let t' := if roundsUp rm s t r D then t + 1 else t
  let b := t' + (qe - (f.emin - f.fbits)).toNat * 2 ^ f.fbits
  if b ≥ f.infBits then (overflowBits f rm s, flagOF ||| flagNX)
  else
    let inexact := r != 0
    let (t2, r2, D2) := divQuantum n d e (L - f.fbits)
    let t2' := if roundsUp rm s t2 r2 D2 then t2 + 1 else t2
    let tiny := L < f.emin && !(L == f.emin - 1 && t2' == 2 ^ (f.fbits + 1))
    (f.withSign s b,
      (if inexact then flagNX else 0) ||| (if inexact && tiny then flagUF else 0))

/-- The sum of two dyadic values as one integer and exponent. -/
def dyAdd (m1 : Int) (e1 : Int) (m2 : Int) (e2 : Int) : Int × Int :=
  let e := min e1 e2
  (m1 * 2 ^ (e1 - e).toNat + m2 * 2 ^ (e2 - e).toNat, e)

def signed (s : Bool) (m : Nat) : Int := if s then -(m : Int) else m

/-- Rounds m·2^e; an exact zero takes the sign of the attribute. -/
def roundDyad (f : Fmt) (rm : Rm) (m : Int) (e : Int) : Nat × FFlags :=
  if m = 0 then (f.withSign (rm == .rdn) 0, 0)
  else roundIeee f rm (m < 0) m.natAbs 1 e

def FVal.isNan : FVal → Bool
  | .nan _ => true
  | _ => false

def FVal.isSnan : FVal → Bool
  | .nan s => s
  | _ => false

def FVal.isZero : FVal → Bool
  | .zero _ => true
  | _ => false

def FVal.isInf : FVal → Bool
  | .inf _ => true
  | _ => false

/-- Sign; a NaN counts as positive. -/
def FVal.sign : FVal → Bool
  | .nan _ => false
  | .inf s => s
  | .zero s => s
  | .fin s _ _ => s

def FVal.neg : FVal → FVal
  | .nan s => .nan s
  | .inf s => .inf !s
  | .zero s => .zero !s
  | .fin s m e => .fin (!s) m e

/-- Re-encodes a value the format holds exactly; a NaN becomes the canonical NaN. -/
def encodeExact (f : Fmt) : FVal → Nat
  | .nan _ => f.nanBits
  | .inf s => f.withSign s f.infBits
  | .zero s => f.withSign s 0
  | .fin s m e => (roundIeee f .rne s m 1 e).1

def snanFlag (vs : List FVal) : FFlags := if vs.any FVal.isSnan then flagNV else 0

/-- IEEE addition of two values with one rounding. -/
def addF (f : Fmt) (rm : Rm) (a b : FVal) : Nat × FFlags :=
  match a, b with
  | .nan _, _ => (f.nanBits, snanFlag [a, b])
  | _, .nan _ => (f.nanBits, snanFlag [a, b])
  | .inf s, .inf t => if s = t then (f.withSign s f.infBits, 0) else (f.nanBits, flagNV)
  | .inf s, _ => (f.withSign s f.infBits, 0)
  | _, .inf s => (f.withSign s f.infBits, 0)
  | .zero s, .zero t => (f.withSign (if s = t then s else rm == .rdn) 0, 0)
  | .zero _, .fin s m e => roundIeee f rm s m 1 e
  | .fin s m e, .zero _ => roundIeee f rm s m 1 e
  | .fin s m e, .fin t n g =>
    let (q, h) := dyAdd (signed s m) e (signed t n) g
    roundDyad f rm q h

def subF (f : Fmt) (rm : Rm) (a b : FVal) : Nat × FFlags := addF f rm a b.neg

/-- IEEE multiplication. -/
def mulF (f : Fmt) (rm : Rm) (a b : FVal) : Nat × FFlags :=
  if a.isNan || b.isNan then (f.nanBits, snanFlag [a, b])
  else if (a.isInf && b.isZero) || (a.isZero && b.isInf) then (f.nanBits, flagNV)
  else
    let s := a.sign != b.sign
    match a, b with
    | .fin _ m e, .fin _ n g => roundIeee f rm s (m * n) 1 (e + g)
    | _, _ => if a.isInf || b.isInf then (f.withSign s f.infBits, 0) else (f.withSign s 0, 0)

/-- The exact product of two values that are not NaN and not 0·∞. -/
def mulExact (a b : FVal) : FVal :=
  let s := a.sign != b.sign
  match a, b with
  | .fin _ m e, .fin _ n g => .fin s (m * n) (e + g)
  | _, _ => if a.isInf || b.isInf then .inf s else .zero s

/-- IEEE fused multiply-add a·b + c; 0·∞ raises NV even beside a quiet NaN addend (02 R43). -/
def fmaF (f : Fmt) (rm : Rm) (a b c : FVal) : Nat × FFlags :=
  let bad := (a.isInf && b.isZero) || (a.isZero && b.isInf)
  if bad then (f.nanBits, flagNV)
  else if a.isNan || b.isNan || c.isNan then (f.nanBits, snanFlag [a, b, c])
  else addF f rm (mulExact a b) c

/-- IEEE division. -/
def divF (f : Fmt) (rm : Rm) (a b : FVal) : Nat × FFlags :=
  if a.isNan || b.isNan then (f.nanBits, snanFlag [a, b])
  else
    let s := a.sign != b.sign
    match a, b with
    | .inf _, .inf _ => (f.nanBits, flagNV)
    | .zero _, .zero _ => (f.nanBits, flagNV)
    | .inf _, _ => (f.withSign s f.infBits, 0)
    | _, .inf _ => (f.withSign s 0, 0)
    | .zero _, _ => (f.withSign s 0, 0)
    | _, .zero _ => (f.withSign s f.infBits, flagDZ)
    | .fin _ m e, .fin _ n g => roundIeee f rm s m n (e - g)
    | _, _ => (f.nanBits, 0)

/-- Integer square root by bits, most significant first: `k` bits of result. -/
def isqrt (n : Nat) : Nat → Nat → Nat
  | 0, acc => acc
  | k + 1, acc =>
    let c := acc + 2 ^ k
    isqrt n k (if c * c ≤ n then c else acc)

/-- IEEE square root; an inexact root is handed to the rounding with a half below its last kept bit. -/
def sqrtF (f : Fmt) (rm : Rm) (a : FVal) : Nat × FFlags :=
  match a with
  | .nan s => (f.nanBits, if s then flagNV else 0)
  | .zero s => (f.withSign s 0, 0)
  | .inf s => if s then (f.nanBits, flagNV) else (f.infBits, 0)
  | .fin true _ _ => (f.nanBits, flagNV)
  | .fin false m e =>
    let odd := e % 2 = 1
    let m1 := if odd then 2 * m else m
    let e1 := if odd then e - 1 else e
    let k := f.fbits + 4
    let N := m1 <<< (2 * k)
    let r := isqrt N (N.log2 / 2 + 1) 0
    let n2 := if r * r = N then 2 * r else 2 * r + 1
    roundIeee f rm false n2 1 (e1 / 2 - k - 1)

/-- Magnitude rounded to an integer, and whether that was inexact. -/
def roundToInt (rm : Rm) (s : Bool) (m : Nat) (e : Int) : Nat × Bool :=
  let (t, r, D) := divQuantum m 1 e 0
  (if roundsUp rm s t r D then t + 1 else t, r != 0)

/-- convertToInteger to a signed width, saturating, NV when out of range (02 Table 2-9); a NaN gives 0
with NV, and no other flag is raised (06 Table 6-8). -/
def toIntF (w : Nat) (rm : Rm) (a : FVal) : Int × FFlags :=
  let hi : Int := 2 ^ (w - 1) - 1
  let lo : Int := -2 ^ (w - 1)
  match a with
  | .nan _ => (0, flagNV)
  | .inf s => (if s then lo else hi, flagNV)
  | .zero _ => (0, 0)
  | .fin s m e =>
    let v := signed s (roundToInt rm s m e).1
    if v > hi then (hi, flagNV) else if v < lo then (lo, flagNV) else (v, 0)

/-- convertFromInt. -/
def ofIntF (f : Fmt) (rm : Rm) (v : Int) : Nat × FFlags :=
  if v = 0 then (0, 0) else roundIeee f rm (v < 0) v.natAbs 1 0

/-- Conversion between floating formats. -/
def cvtF (f : Fmt) (rm : Rm) (a : FVal) : Nat × FFlags :=
  match a with
  | .nan s => (f.nanBits, if s then flagNV else 0)
  | .fin s m e => roundIeee f rm s m 1 e
  | v => (encodeExact f v, 0)

/-- roundToIntegral, raising NX when the value changes, as roundToIntegralExact does (DESIGN CHOICE, log 98). -/
def roundIntegralF (f : Fmt) (rm : Rm) (a : FVal) : Nat × FFlags :=
  match a with
  | .nan s => (f.nanBits, if s then flagNV else 0)
  | .fin s m e =>
    let (t, nx) := roundToInt rm s m e
    (if t = 0 then f.withSign s 0 else (roundIeee f .rne s t 1 0).1, if nx then flagNX else 0)
  | v => (encodeExact f v, 0)

/-- scaleB: a·2^k. -/
def scaleF (f : Fmt) (rm : Rm) (a : FVal) (k : Int) : Nat × FFlags :=
  match a with
  | .nan s => (f.nanBits, if s then flagNV else 0)
  | .fin s m e => roundIeee f rm s m 1 (e + k)
  | v => (encodeExact f v, 0)

/-- Order of two values that are not NaN: a < b. -/
def ltF (a b : FVal) : Bool :=
  match a, b with
  | .nan _, _ => false
  | _, .nan _ => false
  | .inf s, .inf t => s && !t
  | .inf s, _ => s
  | _, .inf t => !t
  | .zero _, .zero _ => false
  | .zero _, .fin t _ _ => !t
  | .fin s _ _, .zero _ => s
  | .fin s m e, .fin t n g => (dyAdd (signed s m) e (-(signed t n)) g).1 < 0

/-- Equality of values that are not NaN; zeros of either sign are equal. -/
def eqF (a b : FVal) : Bool := !a.isNan && !b.isNan && !ltF a b && !ltF b a

/-- minimum/maximum (a NaN wins) and minimumNumber/maximumNumber (a NaN loses); −0 orders below +0.
`wantMax` and `numForm` select the operation. -/
def minmaxF (f : Fmt) (wantMax numForm : Bool) (a b : FVal) : Nat × FFlags :=
  let fl := snanFlag [a, b]
  match a.isNan, b.isNan with
  | true, true => (f.nanBits, fl)
  | true, false => (if numForm then encodeExact f b else f.nanBits, fl)
  | false, true => (if numForm then encodeExact f a else f.nanBits, fl)
  | false, false =>
    let aLess := ltF a b || (a.isZero && b.isZero && a.sign && !b.sign)
    (encodeExact f (if aLess != wantMax then a else b), fl)

/-! ## The rounding noise generator (02 R51) -/

def rorW (x : BitVec 32) (n : Nat) : BitVec 32 := x.rotateRight n
def rolW (x : BitVec 32) (n : Nat) : BitVec 32 := x.rotateLeft n

/-- One round of the generator with key word `w` and round number i. -/
def noiseRound (i : Nat) (w : BitVec 32) (xy : BitVec 32 × BitVec 32) : BitVec 32 × BitVec 32 :=
  let k := w ^^^ BitVec.ofNat 32 ((i + 1) * 0x9E3779B9)
  let x := (rorW xy.1 8 + xy.2) ^^^ k
  (x, rolW xy.2 3 ^^^ x)

/-- noise(seed, stream, index) of R51. -/
def noise (seed : W64) (stream : BitVec 32) (index : W64) : BitVec 32 :=
  let w0 := seed.truncate 32
  let w1 := (seed >>> 32).truncate 32
  let s0 := ((index >>> 32).truncate 32, index.truncate 32)
  (noiseRound 5 stream (noiseRound 4 w1 (noiseRound 3 w0
    (noiseRound 2 stream (noiseRound 1 w1 (noiseRound 0 w0 s0)))))).2

/-! ## Tensor-path conversions (02 R45-R49) -/

/-- Tensor-path rounding modes (Table 2-7); SR carries its noise value. -/
inductive Tm where
  | rn | rz | sr (noise : BitVec 32)
  deriving DecidableEq, Repr

/-- Rounding of the quotient t + r/D under a tensor mode (R46, R47). -/
def tensorStep (m : Tm) (t r D : Nat) : Nat :=
  match m with
  | .rn => if 2 * r > D || (2 * r == D && t % 2 == 1) then t + 1 else t
  | .rz => t
  | .sr z => if z.toNat < (r * 2 ^ 32) / D then t + 1 else t

/-- round_tensor to F19: the 19-bit pattern and flags (R46, Table 2-8). -/
def tensorF19 (m : Tm) (a : FVal) : Nat × FFlags :=
  let f := Fmt.f19
  match a with
  | .nan s => (f.nanBits, if s then flagNV else 0)
  | .inf s => (f.withSign s f.infBits, 0)
  | .zero s => (f.withSign s 0, 0)
  | .fin s n e =>
    let L := ilog2Ratio n 1 + e
    let overs := (f.withSign s (if m = .rz then f.infBits - 1 else f.infBits), flagOF ||| flagNX)
    if L ≥ 128 then overs
    else
      let qe := max L f.emin - f.fbits
      let (t, r, D) := divQuantum n 1 e qe
      let t' := tensorStep m t r D
      let b := t' + (qe - (f.emin - f.fbits)).toNat * 2 ^ f.fbits
      if b ≥ f.infBits then overs
      else
        let inexact := (t' <<< (qe - e).toNat) ≠ (n <<< (e - qe).toNat)
        (f.withSign s b, (if inexact then flagNX else 0)
          ||| (if inexact ∧ b < 2 ^ f.fbits then flagUF else 0))

/-- round_tensor to a two's-complement integer of `w` bits, 8 or 4 (R46, R48, Table 2-8). -/
def tensorInt (w : Nat) (m : Tm) (a : FVal) : Int × FFlags :=
  let hi : Nat := 2 ^ (w - 1) - 1
  let lo : Nat := 2 ^ (w - 1)
  match a with
  | .nan _ => (0, flagNV)
  | .inf s => (if s then -(lo : Int) else hi, flagNV)
  | .zero _ => (0, 0)
  | .fin s n e =>
    let (t, r, D) := divQuantum n 1 e 0
    let t' := tensorStep m t r D
    if !s && t' > hi then ((hi : Int), flagNV)
    else if s && t' > lo then (-(lo : Int), flagNV)
    else (signed s t', if r = 0 then 0 else flagNX)

/-! ## Packed storage (02 R33-R35) -/

/-- Sign extension of the low `w` bits. -/
def sext (w n : Nat) : Int :=
  let m := n % 2 ^ w
  if m ≥ 2 ^ (w - 1) then (m : Int) - 2 ^ w else m

/-- The low `w` bits of an integer as a natural number. -/
def wrapNat (w : Nat) (v : Int) : Nat := (v % (2 ^ w : Int)).toNat

/-- A little-endian number (00 R4). -/
def leNat : List Byte → Nat
  | [] => 0
  | b :: bs => b.toNat + 256 * leNat bs

/-- The `n` low bytes of a number, little-endian. -/
def leBytes : Nat → Nat → List Byte
  | 0, _ => []
  | n + 1, v => BitVec.ofNat 8 v :: leBytes n (v / 256)

/-- Bytes `off .. off + len - 1` of a list as a number; bytes past its end read as zero. -/
def leAt (bs : List Byte) (off len : Nat) : Nat := leNat ((bs.drop off).take len)

/-- Splits a list into pieces of `k`, at most `n` of them. -/
def chunk {α : Type} (k : Nat) : Nat → List α → List (List α)
  | 0, _ => []
  | n + 1, l => l.take k :: chunk k n (l.drop k)

/-- Packed F19 or S11 slots: value i is bits of the 24-bit word at byte 3i (R33, R34). -/
def unpackSlots (n : Nat) (bs : List Byte) : List Nat := (chunk 3 n bs).map leNat

def packF19 (vs : List Nat) : List Byte := vs.flatMap fun v => leBytes 3 (v % 2 ^ 19)
def packS11 (vs : List Int) : List Byte := vs.flatMap fun v => leBytes 3 (wrapNat 11 v)

/-- INT4 elements of a byte, low nibble first (R35). -/
def nibbles (bs : List Byte) : List Int :=
  bs.flatMap fun b => [sext 4 b.toNat, sext 4 (b.toNat / 16)]

def int8s (bs : List Byte) : List Int := bs.map fun b => sext 8 b.toNat

/-- Container form of an F19 pattern (R32). -/
def f19ToContainer (p : Nat) : Nat := p * 2 ^ 13
def containerToF19 (w : Nat) : Nat := w / 2 ^ 13 % 2 ^ 19

/-- CRC-32 of the IEEE 802.3 frame check sequence: one bit. -/
def crcBit (c : BitVec 32) : BitVec 32 :=
  if c.getLsbD 0 then (c >>> 1) ^^^ 0xEDB88320#32 else c >>> 1

def crcByte (c : BitVec 32) (b : Byte) : BitVec 32 :=
  crcBit (crcBit (crcBit (crcBit (crcBit (crcBit (crcBit (crcBit (c ^^^ b.zeroExtend 32))))))))

def crc32 (bs : List Byte) : BitVec 32 := ~~~ (bs.foldl crcByte 0xFFFFFFFF#32)

end Sys2Proof.Machine
end

