-- ==== Sys2Proof/Machine/Sparse.lean ====
section
/-! DEFINITION. Maps and memories as plain data: a list of key and value pairs in one canonical form,
keys strictly rising and no entry equal to the map's default. A memory of bytes is the case
`Sparse Byte` with default zero, the host's list of cells. -/

namespace Sys2Proof.Machine

/-- A map from natural keys; keys not listed hold the map's default. -/
abbrev Sparse (α : Type) := List (Nat × α)

namespace Sparse
variable {α : Type}

/-- The value at key k. -/
def get (d : α) : Sparse α → Nat → α
  | [], _ => d
  | (j, v) :: m, k => if k = j then v else get d m k

/-- The map with key k left out. -/
def erase (m : Sparse α) (k : Nat) : Sparse α := m.filter fun e => decide (e.1 ≠ k)

/-- The map with key k listed at v. -/
def insert : Sparse α → Nat → α → Sparse α
  | [], k, v => [(k, v)]
  | (j, w) :: m, k, v =>
    if k = j then (k, v) :: m else if k < j then (k, v) :: (j, w) :: m else (j, w) :: insert m k v

/-- The map with key k at v, kept canonical: the default is not listed. -/
def set [DecidableEq α] (d : α) (m : Sparse α) (k : Nat) (v : α) : Sparse α :=
  if v = d then erase m k else insert m k v

/-- Keys strictly rising, above every key of `lo`. -/
def sortedAbove : Option Nat → Sparse α → Bool
  | _, [] => true
  | lo, (j, _) :: m => lo.all (fun l => decide (l < j)) && sortedAbove (some j) m

/-- The canonical form. -/
def wf [DecidableEq α] (d : α) (m : Sparse α) : Bool :=
  sortedAbove none m && m.all fun e => decide (e.2 ≠ d)

/-- The keys listed. -/
def keys (m : Sparse α) : List Nat := m.map Prod.fst

/-- Every listed value changed by f where `p` holds of its key, kept canonical. -/
def updateWhere [DecidableEq α] (d : α) (p : Nat → Bool) (f : α → α) (m : Sparse α) : Sparse α :=
  m.filterMap fun e =>
    if p e.1 then (if f e.2 = d then none else some (e.1, f e.2)) else some e

/-- The entries whose key does not meet `p`. -/
def dropWhere (p : Nat → Bool) (m : Sparse α) : Sparse α := m.filter fun e => !p e.1

end Sparse

/-- A byte memory: unlisted bytes read as zero. -/
abbrev Mem := Sparse Byte

namespace Mem

/-- One byte. -/
def read (m : Mem) (a : Nat) : Byte := Sparse.get 0 m a

/-- `n` bytes from address a upwards. -/
def readN (m : Mem) (a : Nat) : Nat → List Byte
  | 0 => []
  | n + 1 => m.read a :: m.readN (a + 1) n

/-- One byte written. -/
def write (m : Mem) (a : Nat) (b : Byte) : Mem := Sparse.set 0 m a b

/-- The bytes written from address a upwards. -/
def writeN (m : Mem) (a : Nat) : List Byte → Mem
  | [] => m
  | b :: bs => (m.write a b).writeN (a + 1) bs

/-- A little-endian number of `n` bytes. -/
def word (m : Mem) (a n : Nat) : Nat := (m.readN a n).foldr (fun b r => b.toNat + 256 * r) 0

end Mem

end Sys2Proof.Machine
end

