-- ==== Sys2Proof/Machine/EngTypes.lean ====
section
/-! DEFINITION. The state of the 16 matrix arrays and 16 vector engines, with the stream unit both
share (spec 03, 04, 06). Registers that count or latch events are in State's counter and event maps. -/

namespace Sys2Proof.Machine

/-- A descriptor in progress: its queue and its number since the queue was enabled (10 R229). -/
structure DescId where
  q : Nat
  n : Nat
  deriving DecidableEq, Repr

/-- Table 3-9. -/
inductive RunState where
  | idle | running | waitingForPermit | waitingForLock | ballast | halted
  deriving DecidableEq, Repr

def RunState.code : RunState → Nat
  | .idle => 0 | .running => 1 | .waitingForPermit => 2 | .waitingForLock => 3 | .ballast => 4
  | .halted => 5

/-- The fields of a stream launch (04 Table 4-1). -/
structure Launch where
  id : DescId
  bundleVa : Nat
  bundleCount : Nat
  trigVa : Nat
  trigCount : Nat
  phaseTag : BitVec 6
  hazard : Bool
  lockMask : BitVec 32
  startTime : Nat
  deriving DecidableEq, Repr

/-- Table 4-8. -/
inductive TrigDir where
  | poolToTile | tileToPool | poolToAcc | accToPool
  deriving DecidableEq, Repr

/-- A trigger table entry with its resolved target: physical pieces (start, bytes) in order (04 R81). -/
structure Trig where
  dir : TrigDir
  semEn : Bool
  sem : Nat
  va : Nat
  loc : Nat
  sectors : Nat
  streaming : Bool
  segs : List (Nat × Nat)
  deriving DecidableEq, Repr

/-- An outstanding trigger (04 R93). `moved`: its data has been written, its visibility is awaited. -/
structure OutTrig where
  id : Nat
  t : Trig
  cascade : Bool
  moved : Bool
  /-- Stream cycle it issued in. -/
  cyc : Nat
  /-- Issued by a stream whose results are undefined and that the engine has left since. -/
  free : Bool
  deriving DecidableEq, Repr

/-- A stream in a bundle-store half: being loaded (`loaded = false`) or ready. -/
structure Strm where
  launch : Launch
  loaded : Bool
  bundles : List (BitVec 128)
  trigs : List Trig
  deriving DecidableEq, Repr

/-- What a held stream holds at (04 R94). -/
inductive HoldAt where
  | none | wait | groupWait | trigQueue
  deriving DecidableEq, Repr

/-- A place a stream has written, for R91 and 06 R122: accumulator units, tile sectors, pool ranges, or
registers of a vector engine. -/
inductive Touch where
  | accUnits (first count : Nat)
  | tileSectors (first count : Nat)
  | pool (segs : List (Nat × Nat))
  | vreg (r : Nat)
  | mreg (r : Nat)
  | sreg (r : Nat)
  | vl
  deriving DecidableEq, Repr

/-- What incremented a semaphore: trigger `id`, the partner engine in its stream cycle `c`, or a sequence
engine. -/
inductive IncSrc where
  | ext
  | trig (id : Nat)
  | sig (c : Nat)
  deriving DecidableEq, Repr

/-- A stream that another continued under R83 and whose record is still to be written. -/
structure PrevStrm where
  id : DescId
  /-- Stream cycle by which its last row or result is written. -/
  due : Nat
  trigs : List Nat
  status : BitVec 16
  /-- 64 MiB units whose translations it holds (R82). -/
  units : List Nat
  deriving DecidableEq, Repr

/-- The stream unit of an array or vector engine (04 R80-R102, 06 R124). -/
structure StreamUnit where
  status : RunState := .idle
  cur : Option Strm := none
  nxt : Option Strm := none
  /-- Bundle store half of the current stream. -/
  half : Bool := false
  idx : Nat := 0
  rep : Nat := 0
  /-- The wait of the present bundle has passed; the cycle holds at its trigger. -/
  waitPassed : Bool := false
  holding : HoldAt := .none
  /-- All cycles of the stream have issued. -/
  lastIssued : Bool := false
  /-- Stream cycles since the first bundle after idle. -/
  cycle : Nat := 0
  sems : Sparse Nat := []
  /-- Increments under way from the partner engine: semaphore, array cycles left, and the
  partner's stream cycle (06 R133). -/
  semIn : List (Nat × Nat × Nat) := []
  /-- Unconsumed increments in order of arrival: semaphore, and what made it (04 R101). -/
  incs : List (Nat × IncSrc) := []
  trigs : List OutTrig := []
  nextTrig : Nat := 0
  /-- Triggers whose target and source count as pending for rules 8 and 11. -/
  pend : List OutTrig := []
  permit : Bool := false
  readyAt : Option Nat := none
  lockMask : BitVec 32 := 0
  inGroup : Bool := false
  aligned : Bool := false
  lockStart : W64 := 0
  hazardInfo : W64 := 0
  haltCause : Byte := 0
  /-- Completion status of a halted stream, until its record is written. -/
  haltStatus : Option (BitVec 16) := none
  /-- The queue whose halted stream keeps the engine HALTED (10 R242). -/
  haltQueue : Option Nat := none
  prev : List PrevStrm := []
  /-- Stream cycle from which what the stream issues is undefined: a timing rule was broken outside
  hazard-check mode (04 R91, 06 R122), or a location it touches was written from outside (01 R23). -/
  taintAt : Option Nat := none
  /-- Stream cycles of earlier streams that this one continues (R83) and whose results are undefined. -/
  taintPast : List (Nat × Nat) := []
  /-- Stream cycle of the present stream's first bundle. -/
  base : Nat := 0
  /-- What the stream has written, with the stream cycle that issued it. -/
  touched : List (Nat × Touch) := []
  /-- Locations written from outside while the stream ran (01 R23): byte ranges of the slot. -/
  raced : List (Nat × Nat) := []
  /-- Bundles begun: stream cycle of their first cycle, and the byte ranges of the slot they touch. -/
  ran : List (Nat × List (Nat × Nat)) := []
  deriving DecidableEq, Repr

/-- Operand modes (03 Table 3-2). -/
inductive AryMode where
  | f19 | int8 | int4 | cascade
  deriving DecidableEq, Repr

def AryMode.ofCode (n : Nat) : AryMode :=
  match n % 4 with
  | 0 => .f19 | 1 => .int8 | 2 => .int4 | _ => .cascade

def AryMode.code : AryMode → Nat
  | .f19 => 0 | .int8 => 1 | .int4 => 2 | .cascade => 3

/-- A stationary buffer (03 R59-R61, R72). -/
structure StatBuf where
  valid : Bool := false
  mode : AryMode := .f19
  data : List Byte := []
  poisoned : Bool := false
  /-- A preload in progress: the stream cycle it began in and the block's first sector. -/
  busy : Option (Nat × Nat) := none
  deriving DecidableEq, Repr

/-- What a stream issued in cycle c is undefined. -/
def StreamUnit.undef (u : StreamUnit) (c : Nat) : Bool :=
  (u.taintPast.any fun r => r.1 ≤ c && decide (c < r.2)) || match u.taintAt with
    | some k => decide (k ≤ c)
    | none => false

/-- A step issued and not yet written (03 R58); `free` when its result is undefined. -/
structure FlyStep where
  due : Nat
  row : Nat
  mode : AryMode
  acc : Bool
  a : List Byte
  b : List Byte
  free : Bool
  deriving DecidableEq, Repr

/-- What hazard checks remember of the stream (04 R101). -/
structure AryHist where
  /-- 128-byte unit → stream cycle of its last step, plus one. -/
  unitStep : Sparse Nat := []
  lastStep : Option (Nat × AryMode) := none
  stepped : Option Bool := none
  /-- Tile sectors read: first, count, and the cycle until which rule 9 protects them. -/
  reads : List (Nat × Nat × Nat) := []
  deriving DecidableEq, Repr

/-- A matrix array with its tile and accumulator stores. -/
structure AryState where
  mode : AryMode := .f19
  phaseTag : BitVec 6 := 0
  duty : Nat := 64
  dutyNext : Option Nat := none
  /-- Position j modulo 64 (03 R69). -/
  pos : Nat := 0
  lastBuf : Bool := false
  buf0 : StatBuf := {}
  buf1 : StatBuf := {}
  fly : List FlyStep := []
  hist : AryHist := {}
  tile : Mem := []
  /-- Poison bit per tile sector. -/
  poison : Sparse Bool := []
  acc : Mem := []
  /-- Written bit per 128-byte unit (03 R63). -/
  written : Sparse Bool := []
  su : StreamUnit := {}
  deriving DecidableEq, Repr

/-- Where a vector instruction's result goes. -/
inductive VDest where
  /-- Bytes of vector register `r`, by byte offset. -/
  | vec (r : Nat) (bytes : List (Nat × Byte))
  /-- INT4 elements of vector register `r`, by element number: one nibble each (06 R118). -/
  | nib (r : Nat) (elems : List (Nat × Nat))
  /-- The bits of mask register `r` selected by `sel`. -/
  | mask (r : Nat) (sel v : BitVec 1024)
  | scalar (r : Nat) (v : W64)
  | vl (n : Nat)
  | fcsr (v : Byte)
  /-- Bytes of the tile store from an address upwards. -/
  | store (addr : Nat) (bytes : List Byte)
  deriving DecidableEq, Repr

/-- A result on its way (06 R121): the cycle it is written in, and the flags it raises. -/
structure VResult where
  due : Nat
  dest : VDest
  flags : FFlags
  /-- Stream cycle it issued in. -/
  cyc : Nat
  /-- Issued by a stream whose results are undefined and that the engine has left since. -/
  free : Bool
  deriving DecidableEq, Repr

/-- A running loop (06 R123): first and last bundle of its body and the passes left. -/
structure VLoop where
  first : Nat
  last : Nat
  left : Nat
  deriving DecidableEq, Repr

/-- A vector engine (06). -/
structure VecState where
  /-- Vector registers by byte: register r holds keys 4096·r .. 4096·r + 4095. -/
  v : Mem := []
  m : Sparse (BitVec 1024) := []
  sr : Sparse W64 := []
  vl : Nat := 0
  rm : BitVec 3 := 0
  results : List VResult := []
  loops : List VLoop := []
  /-- Row of Table 6-5 → stream cycle of the row's last issue, plus one. -/
  rowIssue : Sparse Nat := []
  /-- Stream cycle of the last array signal consumed, for rule 7 (06 R133). -/
  accOk : Option Nat := none
  /-- Issue duty and position j within a lock group, as an array's (04 R98, R124). -/
  duty : Nat := 64
  dutyNext : Option Nat := none
  pos : Nat := 0
  /-- VL as VEC_STATUS shows it while the stream's results are undefined (R122). -/
  vlShown : Option Nat := none
  /-- Tick in which a vfwr took effect, until the engine's next cycle (R126). -/
  fwrAt : Option Nat := none
  su : StreamUnit := {}
  deriving DecidableEq, Repr

end Sys2Proof.Machine
end

