-- ==== Sys2Proof/Machine/ArrayMath.lean ====
section
/-! DEFINITION. What one array computes (spec 03): the F19 accumulation rule, the integer and Cascade
steps; the bundle word of an array stream, its legality and the timing contract (spec 04). -/

namespace Sys2Proof.Machine

/-! ## Modes (03 Table 3-1) -/

def AryMode.isInt : AryMode → Bool
  | .int8 | .int4 => true
  | _ => false

/-- Sectors of one A row. -/
def AryMode.rowSectors (m : AryMode) : Nat := if m.isInt then 128 else 96
/-- Sectors of one stationary block. -/
def AryMode.blockSectors (m : AryMode) : Nat := if m.isInt then 4096 else 3072
/-- Preload cycles P. -/
def AryMode.preloadCycles (m : AryMode) : Nat := if m.isInt then 64 else 32
/-- Sectors of a preload's share in one cycle (04 Table 4-5). -/
def AryMode.shareSectors (m : AryMode) : Nat := if m.isInt then 64 else 96
/-- Accumulator rows. -/
def AryMode.rows (m : AryMode) : Nat := if m = .cascade then 4096 else 8192
/-- 128-byte units of accumulator row r: first and count (03 R63). -/
def AryMode.units (m : AryMode) (r : Nat) : Nat × Nat := if m = .cascade then (2 * r, 2) else (r, 1)

def latRowAcc : Nat := 14
def tileSectorCount : Nat := 786432

/-! ## The accumulation rule (03 R64) -/

/-- ARY_FLAGS bits raised by steps (03 Table 3-11). -/
def aryNX : Nat := 0
def aryUF : Nat := 1
def aryOF : Nat := 2
def aryNV : Nat := 4
def aryNAN : Nat := 5
def arySAT : Nat := 6

/-- A term of a column: a NaN, an infinity, a zero of a sign, or an exact value. -/
abbrev Term := FVal

/-- The product term of one K-position and the flags it sets. -/
def productTerm (a b : FVal) : Term × List Nat :=
  if a.isNan || b.isNan then (.nan false, [aryNAN])
  else if (a.isInf && b.isZero) || (a.isZero && b.isInf) then (.nan false, [aryNV])
  else (mulExact a b, [])

def termExp : Term → Option Int
  | .fin _ m e => some ((m.log2 : Int) + e)
  | _ => none

/-- Largest exponent of the non-zero finite terms. -/
def maxExp (ts : List Term) : Option Int :=
  ts.foldl (fun acc t => match termExp t, acc with
    | none, a => a
    | some x, none => some x
    | some x, some y => some (max x y)) none

/-- Quotient of a term by 2^w, rounded to minus infinity, and whether it was inexact. -/
def windowPart (w : Int) : Term → Int × Bool
  | .fin s m e =>
    if e ≥ w then (signed s m * 2 ^ (e - w).toNat, false)
    else
      let D : Int := 2 ^ (w - e).toNat
      (signed s m / D, signed s m % D != 0)
  | _ => (0, false)

/-- The result of a column from its terms: FP32 bits and the flags set. -/
def sumTerms (ts : List Term) : Nat × List Nat :=
  let f := Fmt.fp32
  if ts.any FVal.isNan then (f.nanBits, [])
  else
    let pos := ts.any fun t => t.isInf && !t.sign
    let neg := ts.any fun t => t.isInf && t.sign
    if pos && neg then (f.nanBits, [aryNV])
    else if pos then (f.infBits, [])
    else if neg then (f.withSign true f.infBits, [])
    else match maxExp ts with
      | none => (f.withSign (ts.all FVal.sign) 0, [])
      | some emax =>
        let w := emax - 64
        let parts := ts.map (windowPart w)
        let n := parts.foldl (fun acc p => acc + p.1) 0
        let s := parts.any (·.2)
        if n = 0 ∧ ¬s then (0, [])
        else
          let v : Int := 2 * n + (if s then 1 else 0)
          let r := roundIeee f .rne (v < 0) v.natAbs 1 (w - 1)
          let nx := s || (r.2 &&& flagNX) != 0
          let mag := r.1 % f.signBit
          let isInf := mag == f.infBits
          (r.1, (if nx || isInf then [aryNX] else []) ++ (if isInf then [aryOF] else [])
            ++ (if nx && mag < 2 ^ f.fbits then [aryUF] else []))

/-- step_f19: operands as 19-bit patterns, the accumulator as FP32 bits (none for INIT). -/
def stepF19 (a b : List Nat) (c : Option Nat) : Nat × List Nat :=
  let ps := (a.zip b).map fun p => productTerm (decodeF .f19 p.1) (decodeF .f19 p.2)
  let ts := ps.map Prod.fst ++ (match c with
    | none => []
    | some x => [decodeF .fp32 x])
  let r := sumTerms ts
  (r.1, ps.flatMap Prod.snd ++ r.2)

/-- One column of an integer step (03 R67). -/
def stepInt (a b : List Int) (c : Option Int) : Int × List Nat :=
  let t := (a.zip b).foldl (fun acc p => acc + p.1 * p.2) (c.getD 0)
  if t > 2 ^ 31 - 1 then (2 ^ 31 - 1, [arySAT])
  else if t < -2 ^ 31 then (-2 ^ 31, [arySAT])
  else (t, [])

/-- One column of a Cascade step, modulo 2^64 (03 R68). -/
def stepCascade (a b : List Int) (c : Option Int) : Int :=
  (a.zip b).foldl (fun acc p => acc + p.1 * p.2) (c.getD 0)

/-- The 32 columns of one step: bytes of its accumulator row and the flags set. `old` is the row. -/
def stepRow (m : AryMode) (acc : Bool) (a b old : List Byte) : List Byte × List Nat :=
  let cols := List.range 32
  match m with
  | .f19 =>
    let av := (unpackSlots 1024 a).map (· % 2 ^ 19)
    let rs := cols.map fun c =>
      stepF19 av ((unpackSlots 1024 (b.drop (3072 * c))).map (· % 2 ^ 19))
        (if acc then some (leAt old (4 * c) 4) else none)
    (rs.flatMap fun r => leBytes 4 r.1, rs.flatMap Prod.snd)
  | .int8 =>
    let rs := cols.map fun c => stepInt (int8s a) (int8s ((b.drop (4096 * c)).take 4096))
      (if acc then some (sext 32 (leAt old (4 * c) 4)) else none)
    (rs.flatMap fun r => leBytes 4 (wrapNat 32 r.1), rs.flatMap Prod.snd)
  | .int4 =>
    let rs := cols.map fun c => stepInt (nibbles a) (nibbles ((b.drop (4096 * c)).take 4096))
      (if acc then some (sext 32 (leAt old (4 * c) 4)) else none)
    (rs.flatMap fun r => leBytes 4 (wrapNat 32 r.1), rs.flatMap Prod.snd)
  | .cascade =>
    let av := (unpackSlots 1024 a).map (sext 11)
    (cols.flatMap fun c => leBytes 8 (wrapNat 64 (stepCascade av
        ((unpackSlots 1024 (b.drop (3072 * c))).map (sext 11))
        (if acc then some (sext 64 (leAt old (8 * c) 8)) else none))), [])

/-! ## Bundles (04 Tables 4-2 and 4-3) -/

structure Bundle where
  mode : AryMode
  stepEn : Bool
  acc : Bool
  buf : Bool
  preEn : Bool
  preBuf : Bool
  last : Bool
  accRow : Nat
  aAddr : Nat
  aStride : Nat
  preAddr : Nat
  rep : Nat
  waitEn : Bool
  waitGroup : Bool
  waitSem : Nat
  trigEn : Bool
  trigIndex : Nat
  sigEn : Bool
  sigSem : Nat
  phaseEn : Bool
  phaseTag : BitVec 6
  reserved : Nat
  deriving DecidableEq, Repr

/-- Bits lo .. lo+n-1 of a number. -/
def field (w lo n : Nat) : Nat := w / 2 ^ lo % 2 ^ n

def Bundle.ofWord (b : BitVec 128) : Bundle :=
  let w := b.toNat
  { mode := AryMode.ofCode (field w 126 2)
    stepEn := field w 125 1 == 1
    acc := field w 124 1 == 1
    buf := field w 123 1 == 1
    preEn := field w 122 1 == 1
    preBuf := field w 121 1 == 1
    last := field w 120 1 == 1
    accRow := field w 107 13
    aAddr := field w 87 20
    aStride := field w 77 10
    preAddr := field w 57 20
    rep := field w 45 12
    waitEn := field w 44 1 == 1
    waitGroup := field w 43 1 == 1
    waitSem := field w 40 3
    trigEn := field w 39 1 == 1
    trigIndex := field w 31 8
    sigEn := field w 30 1 == 1
    sigSem := field w 27 3
    phaseEn := field w 26 1 == 1
    phaseTag := BitVec.ofNat 6 (field w 20 6)
    reserved := field w 0 20 }

/-- INT_ARRAY_MASK of the geometry table: arrays 0, 4, 8, 12 (03 R57). -/
def intCapable (n : ArrayId) : Bool := n.val % 4 == 0

/-- The illegal cases of 04 R87; `isLast`: the bundle is the last of BUNDLE_COUNT. -/
def Bundle.illegal (b : Bundle) (trigCount : Nat) (isLast : Bool) : Bool :=
  b.reserved != 0
  || (b.stepEn && b.aAddr + b.rep * b.aStride + b.mode.rowSectors - 1 > 786431)
  || (b.preEn && b.preAddr + b.mode.blockSectors - 1 > 786431)
  || (b.stepEn && b.accRow + b.rep > b.mode.rows - 1)
  || (b.trigEn && b.trigIndex ≥ trigCount)
  || (isLast && !b.last)

def TrigDir.isAcc : TrigDir → Bool
  | .poolToAcc | .accToPool => true
  | _ => false

def TrigDir.toPool : TrigDir → Bool
  | .tileToPool | .accToPool => true
  | _ => false

/-- A trigger of an accumulator direction that Cascade mode does not allow (04 R92). -/
def Trig.cascadeIllegal (t : Trig) : Bool :=
  t.dir.isAcc && (t.sectors % 8 != 0 || 8 * t.loc + t.sectors > 32768)

/-- Accumulator units a trigger covers: first and count, in the layout of the mode at issue. -/
def Trig.accUnits (t : Trig) (cascade : Bool) : Nat × Nat :=
  ((if cascade then 2 * t.loc else t.loc), t.sectors / 4)

/-! ## The timing contract (04 Table 4-6, R101) -/

def overlap (a n b k : Nat) : Bool := a < b + k && b < a + n

/-- The local range of an outstanding trigger: is it in the accumulator, first, count. -/
def OutTrig.range (o : OutTrig) : Bool × Nat × Nat :=
  if o.t.dir.isAcc then let u := o.t.accUnits o.cascade; (true, u.1, u.2)
  else (false, o.t.loc, o.t.sectors)

/-- Is some unit of the range still to be written by a step issued less than LAT_ROW_ACC ago? -/
def unitsBusy (h : AryHist) (first count cyc : Nat) : Bool :=
  h.unitStep.any fun e => first ≤ e.1 && e.1 < first + count && cyc < e.2 - 1 + latRowAcc && e.2 != 0

def StatBuf.until (b : StatBuf) : Nat :=
  match b.busy with
  | none => 0
  | some (p, _) => p + b.mode.preloadCycles

def AryState.buf (s : AryState) (k : Bool) : StatBuf := if k then s.buf1 else s.buf0

/-- A pending trigger conflicts with a local access: writes by it for rule 8, sources for rule 11. -/
def pendHit (ps : List OutTrig) (wantPool : Bool) (inAcc : Bool) (first count : Nat) : Bool :=
  ps.any fun o =>
    let r := o.range
    o.t.dir.toPool == wantPool && r.1 == inAcc && overlap r.2.1 r.2.2 first count

/-- Most sectors any bank serves for the ranges read in one cycle (04 R88). -/
def bankLoad (ranges : List (Nat × Nat)) : Nat :=
  ((List.range 64).map fun k => (ranges.map fun r =>
    (r.2 + 63 - (k + 64 - r.1 % 64) % 64) / 64).foldl (· + ·) 0).foldl max 0

/-- The rules broken by the actions of one stream cycle, as codes of Table 4-9 in rule order: the
cycle `cyc`, repeat index i, and the trigger issued in it. Rule 8 or 11 broken on tile-store sectors and on
accumulator rows in one cycle is recorded as TILE_PENDING (DESIGN CHOICE, log 100). -/
def hazards (s : AryState) (b : Bundle) (i cyc : Nat) (trig : Option Trig) : List Nat :=
  let h := s.hist
  let row := b.accRow + i
  let u := b.mode.units row
  let aSec := b.aAddr + i * b.aStride
  let cascadeNow := s.mode == .cascade
  let tr : Option OutTrig := trig.map fun t => ⟨0, t, cascadeNow, false, cyc, false⟩
  let pend := s.su.pend ++ tr.toList
  let rule1 := b.stepEn && unitsBusy h u.1 u.2 cyc
  let bufS := s.buf b.buf
  let rule2 := b.stepEn && (!(bufS.valid || bufS.busy.isSome) || cyc < bufS.until)
  let preNow := b.preEn && i == 0
  let lastBuf := if b.stepEn then some b.buf else h.stepped
  let rule3 := preNow && ((s.buf0.busy.isSome && cyc < s.buf0.until) || (s.buf1.busy.isSome && cyc < s.buf1.until)
    || lastBuf == some b.preBuf)
  let rule4 : Bool := b.stepEn && ((match h.lastStep with
      | some (t, m) => m != b.mode && cyc < t + latRowAcc
      | none => false) || ((bufS.valid || bufS.busy.isSome) && bufS.mode != b.mode))
  let rule5 := b.stepEn && b.acc && !((List.range u.2).all fun k => Sparse.get false s.written (u.1 + k))
    && !(s.fly.any fun f => f.due ≤ cyc && f.mode.units f.row == u)
  let trigAcc (d : TrigDir) : Bool := match tr with
    | some o => o.t.dir == d && (let r := o.range; unitsBusy h r.2.1 r.2.2 cyc)
    | none => false
  let rule6 := trigAcc .accToPool
  let rule10 := trigAcc .poolToAcc
  let blk := b.mode.blockSectors
  let rule8tile := (b.stepEn && pendHit pend false false aSec b.mode.rowSectors)
    || (preNow && pendHit pend false false b.preAddr blk)
  let rule8acc := b.stepEn && pendHit pend false true u.1 u.2
  let rule9 : Bool := match tr with
    | some o => o.t.dir == .poolToTile &&
        ((h.reads.any fun r => cyc < r.2.2 && overlap r.1 r.2.1 o.t.loc o.t.sectors))
    | none => false
  let rule11 (inAcc : Bool) : Bool := match tr with
    | some o =>
      let r := o.range
      !o.t.dir.toPool && r.1 == inAcc && pendHit s.su.pend true inAcc r.2.1 r.2.2
    | none => false
  let rule11step := b.stepEn && pendHit pend true true u.1 u.2
  let share (x : StatBuf) : List (Nat × Nat) := match x.busy with
    | some (p, first) => if cyc < p + x.mode.preloadCycles then
        [(first + x.mode.shareSectors * (cyc - p), x.mode.shareSectors)] else []
    | none => []
  let reads := (if b.stepEn then [(aSec, b.mode.rowSectors)] else [])
    ++ share s.buf0 ++ share s.buf1
    ++ (if preNow then [(b.preAddr, b.mode.shareSectors)] else [])
  let rule12 := reads.length > 1 && bankLoad reads > 3
  (if rule1 then [1] else []) ++ (if rule2 then [2] else []) ++ (if rule3 then [3] else [])
    ++ (if rule4 then [4] else []) ++ (if rule5 then [5] else []) ++ (if rule6 then [1] else [])
    ++ (if rule8tile then [6] else []) ++ (if rule8acc then [7] else []) ++ (if rule9 then [6] else [])
    ++ (if rule10 then [1] else []) ++ (if rule11 false then [6] else [])
    ++ (if rule11 true || rule11step then [7] else []) ++ (if rule12 then [8] else [])

/-- Is array cycle j an issuing cycle at duty d (03 R69)? -/
def issuingCycle (d j : Nat) : Bool := (j + 1) * d / 64 - j * d / 64 == 1

end Sys2Proof.Machine
end

