-- ==== Sys2Proof/Config.lean ====
section
/-! DEFINITION. What one implementation fixes and the spec leaves open: free values (opaque constants
without a body, so nothing can be proved of them) and the part's own constants. Each names its log entry. -/

namespace Sys2Proof.Config

/-- A fresh undefined byte: applied to the counter `fresh` of State (log 2). -/
opaque freeByte : Nat → Byte

/-- A fresh undefined 64-bit value (log 2). -/
opaque freeWord : Nat → W64

/-- Which allowed neighbour of the exact value an approximate function (0 exp2, 1 log2, 2 rcp, 3 rsqrt)
gives for an operand (06 R127, log 15). -/
opaque approxPick : Nat → BitVec 32 → BitVec 2

/-- Screening grade of the part: `true` is "E" (0x45), `false` "C" (0x43) (00 R1, log 12). -/
opaque gradeExtended : Bool

/-- Unique serial number and root digests in the fuses (20 R412, log 12). -/
opaque fuseSerial : W64
/-- Dword number, counted from 0x100 and taken modulo 957, of the Device Serial Number capability (15 R320). -/
opaque dsnSlot : Nat
opaque rootDigest : Fin 4 → List Byte

/-- SHA-384 of the boot ROM, and the certificates of the identity chain (20 R418, R419, log 12). -/
opaque romDigest : List Byte
opaque certificate : Fin 3 → List Byte

/-- The device secret of the fuses: 48 bytes (20 R412, log 12). -/
opaque deviceSecret : List Byte

/-- Cryptographic primitives named by the spec through their standards (log 16). -/
opaque sha384 : List Byte → List Byte
opaque ecdsaVerify : (key digest signature : List Byte) → Bool
opaque ecdsaSign : (key digest : List Byte) → List Byte
opaque publicKey : (secret : List Byte) → List Byte
opaque hkdf : (secret salt info : List Byte) → List Byte
opaque ecdh : (secret peer : List Byte) → List Byte
/-- The point of the curve with this parity of Y and this X, none when there is none (20 R421). -/
opaque decompress : (parity : Nat) → (x : List Byte) → Option (List Byte)
opaque hmacSha384 : (key msg : List Byte) → List Byte
/-- What a sector that stood in its page when KEY_MAP changed the page's selector reads as (09 R217, log 16). -/
opaque oldSector : (key : List Byte) → (sector : Nat) → List Byte → List Byte
/-- What vlacc.w makes of a 64-bit cell, and vlacc.l of a 32-bit cell (06 R132, log 99). -/
opaque laccOther : (wide : Bool) → W64 → W64

/-- Directory set of a pool line, below 262,144 (08 R183 gives no function, log 20). -/
opaque dirSet : Nat → Nat

/-- Set of an 8-way engine TLB for a page number, below 64 (09 R204 gives no function, log 20). -/
opaque tlbSet : Nat → Nat

/-- Set of a host-line cache for a 64-byte line, below 4,096 (15 R328 gives no function, log 20). -/
opaque hostSet : Nat → Nat

/-- The rkey given to the n-th registered memory region (14 R316, log 38). -/
opaque rkey : Nat → BitVec 32

/-- Output of the random generator, by draw number (20). -/
opaque random : Nat → List Byte

/-- Draw of the package at reset, in W: the measured H of 16 R349 (log 11). -/
opaque idleDrawW : Nat

/-- Order in which a floating collective outside reproducible mode adds its members' values:
which pair of partial results is added next (11 R251, log 18). -/
opaque sumPick : (group step : Nat) → Nat

end Sys2Proof.Config
end

