-- ==== Sys2Proof/Machine/MemTypes.lean ====
section
/-! DEFINITION. State of the stacked memory (07), of the Cisterns, directory, core copies and cores (08),
of engine address translation (09) and of the command queues (10). -/

namespace Sys2Proof.Machine

/-! ## Stacked memory -/

/-- Table 7-10. -/
inductive StackMode where
  | active | offline | training | margin | initialising
  deriving DecidableEq, Repr

def StackMode.code : StackMode → Nat
  | .active => 0 | .offline => 1 | .training => 2 | .margin => 3 | .initialising => 4

/-- One stack (07 Table 7-9). -/
structure StackSt where
  mode : StackMode := .training
  temp : Byte := 0
  tune : Byte := 0
  /-- Device time of the last retune start (R162). -/
  lastStart : Option Nat := none
  /-- Position of patrol scrubbing, in sectors of the stack (R158). -/
  scrubPos : Nat := 0
  /-- Cycle of the manager clock at which the present pass began (R158). -/
  scrubFrom : Nat := 0
  deriving DecidableEq, Repr

/-- Who asked for a retune. -/
inductive RetuneBy where
  | auto
  | cmd (m : MbxId) (slot : Option (Fin 8))
  deriving DecidableEq, Repr

/-- One pseudo-channel (07 Table 7-11). -/
structure PcSt where
  sched : List (Nat × RetuneBy) := []
  active : Option (Nat × RetuneBy) := none
  degraded : Bool := false
  fails : Nat := 0
  pins : BitVec 36 := 0
  deriving DecidableEq, Repr

/-- What a stored sector carries besides its 32 bytes: the poison form of its check symbols and the
key it was written under, [] for plaintext (07 R156, 09 R217-R219). -/
structure SecMark where
  poison : Bool := false
  key : List Byte := []
  /-- Change of its page's selector after which it was written (09 R217). -/
  epoch : Nat := 0
  /-- Failed symbols that stand in the stored sector until it is written: symbol and value (R154, log 107). -/
  errs : List (Nat × Nat) := []
  deriving DecidableEq, Repr

/-- A write-combining entry: its line number, the valid bytes by offset, its allocation time (R151). -/
structure WcbEntry where
  line : Nat
  bytes : List (Nat × Byte)
  born : Nat
  deriving DecidableEq, Repr

/-- Kinds of error records (07 R159). -/
inductive ErrKind where
  | corrected | uncorrectable | poisonWritten | retuneFail
  deriving DecidableEq, Repr

structure ErrRec where
  time : Nat
  addr : Nat
  pc : Nat
  kind : ErrKind
  mask : BitVec 36
  deriving DecidableEq, Repr

structure HbmState where
  spread : Bool := false
  iso : BitVec 24 := 0
  /-- Configuration set by MEM_CONFIG for the next reset. -/
  nextCfg : Option (Bool × BitVec 24) := none
  scrubHours : Nat := 24
  scrubEn : Bool := true
  stks : Sparse StackSt := []
  pcs : Sparse PcSt := []
  /-- Stack contents by pool address, and what each sector (address div 32) carries. -/
  cells : Mem := []
  marks : Sparse SecMark := []
  /-- Write-combining buffer of each stack, oldest entry first. -/
  wcb : Sparse (List WcbEntry) := []
  /-- Corrected sectors to be written back: sector number and data (R155). -/
  writeBacks : List (Nat × List Byte) := []
  errLog : List ErrRec := []
  /-- Corrections of the last 24 h: time and page; time, pseudo-channel and pin (R160). -/
  pageCorr : List (Nat × Nat) := []
  pinCorr : List (Nat × Nat × Nat) := []
  /-- Sector reads held by a retune's stall: pseudo-channel and sector (R161). -/
  heldReads : List (Nat × Nat) := []
  /-- What the controller last delivered for a SECTOR_READ: data and poison. -/
  delivered : Option (List Byte × Bool) := none
  deriving DecidableEq, Repr

/-! ## Cisterns, directory, core copies -/

/-- One sector of a Cistern line (08 R169). -/
structure CSec where
  valid : Bool := false
  dirty : Bool := false
  poison : Bool := false
  data : List Byte := []
  deriving DecidableEq, Repr

/-- One way: the line it holds and its four sectors. -/
structure CLine where
  line : Nat := 0
  s0 : CSec := {}
  s1 : CSec := {}
  s2 : CSec := {}
  s3 : CSec := {}
  age : Nat := 0
  lock : Bool := false
  remote : Bool := false
  deriving DecidableEq, Repr

/-- A stride tracker (08 R179). -/
structure Tracker where
  req : Nat
  page : Nat
  last : Nat
  step : Int
  /-- Consecutive misses spaced by `step`. -/
  seen : Nat
  deriving DecidableEq, Repr

structure CisState where
  /-- Key: 16·set + way. -/
  ways : Sparse CLine := []
  /-- Eviction buffer, oldest first. -/
  evict : List CLine := []
  /-- Most recently used first. -/
  trackers : List Tracker := []
  depth : Nat := 8
  remoteWays : Nat := 4
  nextLine : Bool := true
  strideEn : Bool := true
  deriving DecidableEq, Repr

/-- A directory entry; no holder means no entry (08 R183). -/
structure DirEntry where
  owned : Bool := false
  pA : Bool := false
  pB : Bool := false
  remote : Bool := false
  order : Nat := 0
  deriving DecidableEq, Repr

/-- A line held by the caches of a P-die. -/
structure PLine where
  held : Bool := false
  modified : Bool := false
  data : List Byte := []
  /-- Sectors (0-3) held poisoned. -/
  poison : List Nat := []
  deriving DecidableEq, Repr

/-- Whose write is held at a home. -/
inductive HoldTag where
  | none
  | desc (d : DescId)
  | trig (e : StreamEng) (id : Nat)
  | record (q m : Nat)
  | inWrite (serial : Nat)
  | notice
  deriving DecidableEq, Repr

/-- An engine write waiting for its holders' acknowledgements (08 R184). -/
structure HeldWrite where
  line : Nat
  writes : List (Nat × List Byte × Bool)
  streaming : Bool
  acks : List Holder
  tag : HoldTag
  deriving DecidableEq, Repr

/-- A request waiting at the home behind a held write. -/
inductive HomeReq where
  | read (c : CoreId) (pa : PAddr) (depth : Nat)
  | own (c : CoreId) (pa : PAddr)
  | load (c : CoreId) (pa : PAddr) (bytes : Nat) (kind : LoadKind)
  | store (c : CoreId) (pa : PAddr) (data : List Byte) (kind : StoreKind)
  | zero (c : CoreId) (pa : PAddr)
  | clean (c : CoreId) (pa : PAddr)
  | flush (c : CoreId) (pa : PAddr)
  /-- What an engine's read does to the caches once it is served; its data it has had (R184). -/
  | engine (req line : Nat) (ks : List Nat) (streaming noRemote : Bool) (depth : Nat)
  deriving DecidableEq, Repr

structure CohState where
  cis : Sparse CisState := []
  /-- Directory of all four T-dies, by line number. -/
  dir : Sparse DirEntry := []
  nextOrder : Nat := 1
  /-- Copies of P-die h, by line number. -/
  pA : Sparse PLine := []
  pB : Sparse PLine := []
  held : List HeldWrite := []
  waiting : List HomeReq := []
  deriving DecidableEq, Repr

/-- Modes of a core (08 R186). -/
inductive CoreMode where
  | user | supervisor | machine
  deriving DecidableEq, Repr

def CoreMode.level : CoreMode → Nat
  | .user => 0 | .supervisor => 1 | .machine => 3

/-- A processor core, as far as the rest of the package acts on it (08 R186-R192). -/
structure CoreState where
  /-- The mode it runs in; no command changes it (log 95). -/
  mode : CoreMode := .machine
  /-- satp.MODE: 0 Bare, 10 Sv57. -/
  satpMode : Nat := 0
  /-- menvcfg.CBIE and senvcfg.CBIE. -/
  menvcfgCbie : Nat := 0
  senvcfgCbie : Nat := 0
  /-- Exceptions that supervisor mode takes, by cause. -/
  delegated : W64 := 0
  machineFile : BitVec 256 := 0
  supervisorFile : BitVec 256 := 0
  mtimecmp : W64 := BitVec.allOnes 64
  mtip : Bool := false
  merrinfo : W64 := 0
  /-- The faulting address, and the cause of the last fault: 1 fetch, 5 load, 7 store/AMO access, 2 illegal instruction. -/
  mtval : W64 := 0
  stval : W64 := 0
  faultCause : Nat := 0
  faults : Nat := 0
  /-- Data of the last load, register read or conditional store's result. -/
  loaded : List Byte := []
  reservation : Option Nat := none
  released : Bool := false
  startPc : W64 := 0
  clock : Nat := 36
  deriving DecidableEq, Repr

/-! ## Engine address translation -/

/-- A cached translation: page base, whether 2 GiB, and the leaf. -/
structure TlbEntry where
  base : Nat
  big : Bool
  leaf : W64
  deriving DecidableEq, Repr

/-- What serves a record (09 R209, R214). -/
inductive FaultPhase where
  | posted
  | noPage (since : Nat)
  | copying (pa : Nat) (leaf : W64)
  /-- A move out: its old translation is being withdrawn; it has been, and the data is copied. -/
  | withdrawing
  | moving
  deriving DecidableEq, Repr

/-- A move asked for by PAGE_MIGRATE. -/
structure MoveReq where
  m : MbxId
  slot : Option (Fin 8)
  toPool : Bool
  attach : Bool
  dest : Nat
  /-- Where the leaf stands, for a move out. -/
  leafAt : Nat
  deriving DecidableEq, Repr

/-- A fault or move record (09 R208). -/
structure FaultRec where
  vpage : Nat
  big : Bool
  engines : BitVec 32
  waiters : Nat
  first : Nat
  phase : FaultPhase
  move : Option MoveReq
  deriving DecidableEq, Repr

/-- An invalidation in progress with the transfers it waits for (09 R215). -/
structure Inval where
  id : DescId
  base : Nat
  span : Nat
  descs : List DescId
  launches : List DescId
  queues : List Nat
  /-- Incoming WRITEs not yet visible, by serial number. -/
  writes : List Nat
  /-- One of `descs` has written attach-host memory, which must be visible there. -/
  attach : Bool
  deriving DecidableEq, Repr

/-- A notice (09 Table 9-7). -/
structure Notice where
  kind : Nat
  big : Bool
  vpage : Nat
  newPa : Nat
  oldPa : Nat
  waiters : Nat
  engines : BitVec 32
  deriving DecidableEq, Repr

/-- The notice ring (09 R213). -/
structure NoticeRing where
  va : Nat
  entries : Nat
  m : Nat
  deriving DecidableEq, Repr

structure XltState where
  root : W64 := 0
  en : Bool := false
  timeoutMs : Nat := 100
  errInfo : W64 := 0x00FF000000000000
  keyMap : Sparse Nat := []
  /-- Changes of each page's selector since the page was last written whole: what it held before reads as
  undefined values (R217). -/
  keyEpoch : Sparse Nat := []
  streamBits : Sparse W64 := []
  /-- TLB of each engine code, most recently used first. -/
  tlb : Sparse (List TlbEntry) := []
  /-- Walk cache of each half: entry address and entry. -/
  walkCache : Sparse (List (Nat × W64)) := []
  records : List FaultRec := []
  /-- Transfers holding at an ABSENT page without a record (R207), in order, with the page and its size. -/
  ninth : List (DescId × Nat × Bool) := []
  supply : List (Nat × Bool) := []
  ring : Option NoticeRing := none
  /-- Notices not written yet: the one before them is not visible (R213). -/
  notices : List Notice := []
  invals : List Inval := []
  deriving DecidableEq, Repr

/-! ## Command queues -/

/-- Table 10-10. -/
inductive QMode where
  | disabled | active | halted | draining
  deriving DecidableEq, Repr

def QMode.code : QMode → Nat
  | .disabled => 0 | .active => 1 | .halted => 2 | .draining => 3

/-- A descriptor consumed and not started: its number, its eight words, and whether read poisoned. -/
structure Fetched where
  n : Nat
  w : List W64
  poisoned : Bool
  deriving DecidableEq, Repr

/-- How far a started descriptor is. -/
inductive ProgPhase where
  /-- Waits for its permit at Sluice. -/
  | waitingForPermit
  | running
  /-- Waits on the fault record of a page (09 R207), or holds without one. -/
  | waitingOnPage (vpage : Nat)
  /-- Ended: its final record awaits visibility and ring order. -/
  | ended
  deriving DecidableEq, Repr

/-- A descriptor in progress. -/
structure Prog where
  n : Nat
  w : List W64
  phase : ProgPhase
  status : BitVec 16
  result : W64
  /-- Bytes moved so far, for a copy. -/
  pos : Nat
  /-- Virtual pages (64 MiB units) whose translations it has used. -/
  pages : List Nat
  /-- Completion entries it holds reserved. -/
  reserved : Nat
  /-- WRITE transactions to other nodes not yet acknowledged. -/
  txns : List (BitVec 32)
  /-- Ports whose flush read is still out (ATTACH domain). -/
  flush : List PortId
  flushed : Bool
  /-- A flush read failed, or none could be sent: ATTACH is not reached (15 R331). -/
  flushFail : Bool
  endTime : Nat
  /-- The descriptor was read poisoned: OPCODE 0xFF and the expected SEQ stand in its record. -/
  unread : Bool
  /-- Physical pieces it has read and written so far, for overlap (10 R232). -/
  src : List (Nat × Nat)
  dst : List (Nat × Nat)
  /-- The group whose sequence number a collective has taken (11 R255). -/
  coll : Option Nat
  /-- Device time at which it left the start order. -/
  begun : Nat
  /-- Bytes of WRITEs that their destination has written, and that it has refused (10 R232). -/
  acked : Nat
  refused : Nat
  /-- It has written attach-host memory. -/
  host : Bool
  deriving DecidableEq, Repr

structure QState where
  tail : Nat := 0
  head : Nat := 0
  cqHead : Nat := 0
  cqTail : Nat := 0
  ringBase : Nat := 0
  cqBase : Nat := 0
  seqStart : BitVec 16 := 0
  engine : Byte := 0xFF
  cqLog2 : Nat := 6
  log2 : Nat := 6
  retries : Nat := 8
  enable : Bool := false
  mode : QMode := .disabled
  cause : Byte := 0
  cqWait : Bool := false
  staleWait : Bool := false
  irq : W64 := 0
  /-- Descriptors consumed and records written since enable. -/
  fetched : Nat := 0
  written : Nat := 0
  window : List Fetched := []
  tries : Nat := 0
  refetchAt : Option Nat := none
  progs : List Prog := []
  /-- A STALE_DESCRIPTOR record waits for completion space; device time at which its state began. -/
  stalePending : Bool := false
  staleTime : Nat := 0
  /-- An enable that waits for an invalidation of its ring pages (R223, 09 R215). -/
  enabling : Bool := false
  holdUntil : Option Nat := none
  qualified : Bool := false
  /-- Physical pieces of the descriptor ring and the completion ring (R223). -/
  ringSegs : List (Nat × Nat) := []
  cqSegs : List (Nat × Nat) := []
  deriving DecidableEq, Repr

end Sys2Proof.Machine
end

