-- ==== Sys2Proof/Machine/CollTypes.lean ====
section
/-! DEFINITION. State of the collective engines and groups (spec 11), of the update engines (12) and of
the sequence engines (13). -/

namespace Sys2Proof.Machine

/-! ## Groups and collectives -/

/-- A loaded group (11 R246, R247): its entry's fields and its member list. -/
structure GroupSt where
  coreMode : Bool
  engine : Nat
  algorithm : Nat
  self : Nat
  timeoutMs : Nat
  members : List NodeId
  /-- Next sequence number (R255). -/
  nextSeq : BitVec 20
  deriving DecidableEq, Repr

/-- How far a collective is on this member. -/
inductive CollPhase where
  /-- Holds its signature round until START_TIME (R260). -/
  | waiting
  | signing
  /-- Its round has closed; its data phase waits for the group's earlier one. -/
  | closed
  | data
  /-- It has ended on this member but for its final record. -/
  | ended
  deriving DecidableEq, Repr

/-- One exchange of a data phase: the elements lo .. hi-1 go to a member or come from one, the agreed block codes
set the scale of this member's contributions, complete elements are rounded, or the block of an all-to-all goes
out. -/
inductive CollStep where
  | send (peer lo hi : Nat) (k : CollPart)
  | recv (peer lo hi : Nat) (k : CollPart)
  | scale
  | fix (lo hi : Nat)
  | give (peer : Nat)
  deriving DecidableEq, Repr

/-- A collective that has started on this member and whose final record is not written. -/
structure CollRun where
  id : DescId
  group : Nat
  seq : BitVec 20
  op : Nat
  redop : Nat
  ty : Nat
  repro : Bool
  sink : Bool
  root : Nat
  count : Nat
  startTime : Nat
  started : Nat
  lateStart : Bool
  signature : BitVec 128
  phase : CollPhase
  /-- Signature rounds received. -/
  round : Nat
  agree : Bool
  /-- A member of the first failed comparison that reached this member. -/
  wrong : Nat
  value : W64
  earliest : Nat
  latest : Nat
  latestIdx : Nat
  /-- This member's contribution, once read, as raw elements. -/
  own : List W64
  /-- Block codes of a reproducible sum. -/
  codes : List Nat
  /-- The vector worked on: parts, then complete elements, each with the flags raised for it. -/
  acc : List (Nat × BitVec 5)
  /-- Exchanges still to come. -/
  todo : List CollStep
  /-- Data received and not yet taken. -/
  got : List DataMsg
  /-- Physical pieces of both buffers, held from the data phase on (R250, 09 R215). -/
  srcSegs : List (Nat × Nat)
  dstSegs : List (Nat × Nat)
  /-- SLOWEST and its lateness before this collective ended DONE. -/
  slowBefore : Nat × Nat
  /-- Device time of the last data, or of the beginning of the data phase. -/
  heard : Nat
  /-- SINK: an APPLY has been paired with it (12 R272). -/
  paired : Bool
  /-- SINK: elements of the shard the update engine has accepted. -/
  fed : Nat
  deriving DecidableEq, Repr

/-- An abort notice held for a collective this member has not entered (R258). -/
structure HeldAbort where
  group : Nat
  seq : BitVec 20
  src : Nat
  cause : AbortCause
  deriving DecidableEq, Repr

/-- The counters of a Tally record (Table 11-13). -/
structure Tally where
  lateNs : Nat := 0
  waitNs : Nat := 0
  doneCount : Nat := 0
  lastCount : Nat := 0
  slowest : Nat := 0
  slowestLate : Nat := 0
  mismatch : Nat := 0
  abort : Nat := 0
  binOvf : Nat := 0
  ovf : Nat := 0
  bins : Sparse Nat := []
  deriving DecidableEq, Repr

structure CollState where
  /-- Group table and Tally region, once registered (R246). -/
  table : Option (Nat × Nat) := none
  groups : Sparse (Option GroupSt) := []
  runs : List CollRun := []
  heldSigs : List SigMsg := []
  heldData : List DataMsg := []
  heldAborts : List HeldAbort := []
  tallies : Sparse Tally := []
  /-- Groups whose Tally record an invalidation keeps from the region. -/
  tallyDue : List Nat := []
  deriving DecidableEq, Repr

/-! ## Update engines -/

/-- An update table entry (Table 12-4). -/
structure UpdEntry where
  opt : Nat
  slow : Bool
  start : Nat
  cols : Nat
  elems : Nat
  state0 : Nat
  state1 : Nat
  decay : Nat
  lr : Nat
  beta2 : Nat
  beta1 : Nat
  gscale : Nat
  eps : Nat
  c2 : Nat
  c1 : Nat
  /-- OMB1 and OMB2, rounded when the APPLY started (R274), and RBAR (R271). -/
  omb1 : Nat
  omb2 : Nat
  rbar : Nat
  deriving DecidableEq, Repr

/-- An armed APPLY (R266, R271). -/
structure Armed where
  id : DescId
  group : Nat
  count : Nat
  wVa : Nat
  stageVa : Nat
  epochVa : Nat
  limit : Nat
  stallUs : Nat
  epoch : W64
  entries : List UpdEntry
  /-- First element of the shard and one past its last. -/
  lo : Nat
  hi : Nat
  /-- Elements of the shard consumed. -/
  pos : Nat
  /-- How far into the shard state and weights have arrived, of SLOW entries and of the other elements (R281). -/
  slowTo : Nat
  fastTo : Nat
  /-- Physical pieces of the ranges it uses, held until its final record (R271): address, bytes, pieces. -/
  maps : List (Nat × Nat × List (Nat × Nat))
  /-- The reduce-scatter it is paired with (R272). -/
  paired : Option DescId
  nonfinite : Nat
  absurd : Nat
  bad : Bool
  /-- The gs values of the present factored entry, and the v values of the present block of 128. -/
  gs : List Nat
  vs : List Nat
  /-- Some of its state lies in attach-host memory, so that staging ends in domain ATTACH (R277). -/
  attach : Bool
  deriving DecidableEq, Repr

structure UpdState where
  armed : Option Armed := none
  /-- Since when the engine has been stalled, and the reduce-scatter that waits (R282). -/
  stall : Option Nat := none
  stalledBy : Option DescId := none
  deriving DecidableEq, Repr

/-! ## Sequence engines -/

/-- Table 13-1. -/
inductive SlotMode where
  | free | open | finished
  deriving DecidableEq, Repr

def SlotMode.code : SlotMode → Nat
  | .free => 0 | .open => 1 | .finished => 2

structure SlotSt where
  mode : SlotMode := .free
  pos : Nat := 0
  table : Nat := 0
  capacity : Nat := 0
  stream : BitVec 32 := 0
  seed : W64 := 0
  maxPos : Nat := 0
  stops : List (BitVec 20) := []
  stopEn : BitVec 4 := 0
  deriving DecidableEq, Repr

/-- A token chosen whose record is still to be written (R295, R296): the token (none: −1), and whether
the row held a NaN, the slot was FINISHED. -/
structure SeqToken where
  token : Option Nat
  nan : Bool
  skipped : Bool
  deriving DecidableEq, Repr

/-- A descriptor of a sequence engine whose final record is not yet written: the global slots it names,
how far it is (list positions or rows), and what it has found. -/
structure SeqRun where
  id : DescId
  op : Nat
  slots : List Nat
  at_ : Nat := 0
  /-- Bytes of the present row already moved. -/
  part : Nat := 0
  chosen : Nat := 0
  poisoned : Bool := false
  /-- Block table entries read: slot, block, entry (R290). -/
  ents : List (Nat × Nat × W64) := []
  token : Option SeqToken := none
  /-- It holds on a full ring. -/
  held : Bool := false
  /-- Its data has been written; the semaphore waits for its visibility, with this status (R292). -/
  landing : Option (BitVec 16) := none
  deriving DecidableEq, Repr

structure SeqState where
  slots : Sparse SlotSt := []
  ringBase : Nat := 0
  en : Bool := false
  log2 : Nat := 6
  head : Nat := 0
  /-- Records written since EN was set. -/
  tail : Nat := 0
  live : List SeqRun := []
  deriving DecidableEq, Repr

end Sys2Proof.Machine
end

