-- ==== Sys2Proof/Machine/MgrTypes.lean ====
section
/-! DEFINITION. State of the manager, its mailboxes and operations (spec 18), of start-up, reset and
firmware (19), identity and keys (20), events and the log (21), and the pins (22). -/

namespace Sys2Proof.Machine

/-! ## Mailboxes -/

/-- An operation slot (Table 18-4). -/
structure OpSlot where
  valid : Bool := false
  ended : Bool := false
  id : Nat := 0
  status : BitVec 16 := 0
  tag : BitVec 32 := 0
  time : Nat := 0
  result : List Byte := []
  deriving DecidableEq, Repr

/-- A mailbox (18 Tables 18-1 to 18-3). -/
structure MbxSt where
  cmd : Mem := []
  /-- The last response, header and payload; none before the first. -/
  rsp : Option (List Byte) := none
  ctrl : W64 := 0
  busy : Bool := false
  done : Bool := false
  overrun : Bool := false
  slots : Sparse OpSlot := []
  deriving DecidableEq, Repr

/-- A long command's operation in progress (R387): its mailbox, its slot (none under WAIT = 1), ID, TAG,
payload, and its outcome once the work it stands for has ended. -/
structure RunOp where
  m : MbxId
  slot : Option (Fin 8)
  id : Nat
  tag : BitVec 32
  pay : List Byte
  result : Option (BitVec 16 × List Byte)
  deriving DecidableEq, Repr

/-- A FABRIC_MAILBOX waiting for its response (R389). -/
structure FabricWait where
  m : MbxId
  tag : BitVec 32
  node : NodeId
  inner : BitVec 32
  until_ : Nat
  deriving DecidableEq, Repr

/-- Where an event source's interrupts go (R433): target 1 MSI-X, 2 core, 0 none. -/
structure EvRoute where
  target : Nat
  port : Nat
  core : Nat
  vec : Nat
  deriving DecidableEq, Repr

/-- An event record (Table 21-3). -/
structure EvRec where
  time : Nat
  seq : BitVec 32
  src : BitVec 16
  bit : Nat
  delayed : Bool
  value : W64
  arg : W64
  deriving DecidableEq, Repr

/-- A telemetry window (R392). -/
structure TelWin where
  on : Bool := false
  start : Nat := 0
  periodUs : Nat := 0
  periods : Nat := 0
  ringVa : Nat := 0
  entries : Nat := 0
  regs : List (BitVec 32) := []
  /-- Periods past and records written. -/
  passed : Nat := 0
  written : Nat := 0
  deriving DecidableEq, Repr

structure MgrState where
  mbx : Sparse MbxSt := []
  /-- Doorbells accepted and not served, oldest first (R386). -/
  order : List MbxId := []
  ops : List RunOp := []
  /-- Whom mailbox 2 answers. -/
  from2 : NodeId := 0xFFFF
  fabric : List FabricWait := []
  fabricSeq : BitVec 32 := 0
  routes : List (Nat × EvRoute) := []
  log : List EvRec := []
  nextSeq : BitVec 32 := 0
  windows : Sparse TelWin := []
  deriving DecidableEq, Repr

/-! ## Start-up, reset and firmware -/

/-- A segment of an image (Table 19-3). -/
structure Seg where
  kind : Nat
  load : Nat
  data : List Byte
  deriving DecidableEq, Repr

/-- A firmware image that has passed its checks (Table 19-2). -/
structure Image where
  digest : List Byte
  version : Nat
  svn : Nat
  slot : Nat
  liveOk : Bool
  accept : Nat
  emit : Nat
  entry : Nat
  segs : List Seg
  deriving DecidableEq, Repr

/-- What the checks of R398 made of an image: an image that passed, or the final status and error code. -/
inductive Verdict where
  | pass (img : Image)
  | fail (status : BitVec 16) (error : Byte)
  deriving DecidableEq, Repr

/-- A live activation (Table 19-9): its start, its mailbox and slot, and whether the new firmware has started. -/
structure Activ where
  start : Nat
  m : MbxId
  slot : Option (Fin 8)
  started : Bool
  deriving DecidableEq, Repr

/-- A reset in progress: its kind, the preserve option, and how far it is. -/
inductive ResetPhase where
  | none
  /-- RESET_N is held asserted and the write-back runs or has run. -/
  | writeBack (kind : Byte)
  /-- Stacks retune from their stored settings. -/
  | retuning
  /-- Stacks train in full. -/
  | training
  deriving DecidableEq, Repr

structure BootState where
  stage : Nat := 1
  error : Byte := 0
  preserved : Bool := false
  poolFault : Bool := false
  poolReady : Bool := false
  kind : Byte := 1
  dropped : Bool := false
  pinPreserve : Bool := false
  /-- The firmware has reported ready and serves the mailboxes (R388). -/
  fwReady : Bool := false
  running : Option Image := none
  staged : Option Image := none
  /-- Format of the handover state left in the manager's RAM (R410). -/
  handover : Option Nat := none
  /-- Device time at which an image was started that has not reported ready. -/
  fwStart : Option Nat := none
  activ : Option Activ := none
  /-- Outcome of the FW_LOAD in progress, and the last activation pause: from, to. -/
  verdict : Option Verdict := none
  lastPause : Nat × Nat := (0, 0)
  /-- Device time of the start of this power-on or reset sequence. -/
  began : Nat := 0
  phase : ResetPhase := .training
  /-- The links have begun their start-up training. -/
  linksBegun : Bool := false
  /-- Stack training of this start has ended. -/
  trained : Bool := false
  /-- Time and preserve option of a DEVICE_RESET that has been answered. -/
  resetAt : Option (Nat × Bool) := none
  /-- POOL_READY has been 1 since the last power-on reset (R402). -/
  everReady : Bool := false
  /-- Device time of the last watchdog restart (R379). -/
  dog : Nat := 0
  /-- Segments of the cross-half bridge that are down (R429). -/
  bridgeDown : BitVec 2 := 0
  /-- The non-volatile shutdown record, and the registers loaded from it (R438). -/
  record : Option (Byte × Nat) := none
  lastShut : Byte := 0
  shutTime : Nat := 0
  deriving DecidableEq, Repr

/-! ## Pins and the input (22) -/

structure PinState where
  /-- The 48 V input is present, and the converters run. -/
  input : Bool := true
  converters : Bool := true
  pwrgood : Bool := true
  thermtripN : Bool := true
  resetN : Bool := true
  refclk : Bool := true
  ppsOut : Bool := false
  /-- Device time at which the PPS output pulse ends. -/
  ppsUntil : Nat := 0
  /-- The manager processor is halted from the test port (R453). -/
  halted : Bool := false
  /-- What the test port last read: the shutdown cause. -/
  testOut : Byte := 0
  deriving DecidableEq, Repr

/-! ## Identity and keys (20) -/

/-- A mailbox's transport key: the generator's draw that made it, and the NONCE of its report. -/
structure Transport where
  draw : Nat
  nonce : List Byte
  deriving DecidableEq, Repr

structure SecState where
  revoked : BitVec 4 := 0
  svn : Nat := 0
  /-- The challenge held and its time of issue. -/
  challenge : Option (List Byte × Nat) := none
  draws : Nat := 0
  transport : Sparse (Option Transport) := []
  level : Nat := 0
  signer : Nat := 0
  notAfter : Nat := 0
  deriving DecidableEq, Repr

end Sys2Proof.Machine
end

