-- ==== Sys2Proof/Machine/PowTypes.lean ====
section
/-! DEFINITION. State of device time and its sources (16 R335-R340), of the load envelope: level, ramps,
Sluice, Steward (16 R341-R360), and of power regulation: Weigh-house, cap controller, thermal and
voltage margin (17). Power is held in watts or tenths of a watt (dW). -/

namespace Sys2Proof.Machine

/-! ## Device time -/

/-- An entry of the source list (Table 16-1): 1 PTP, 2 FABRIC, 3 PPS. -/
structure TimeSrc where
  kind : Nat
  port : Nat
  locked : Bool := false
  /-- Consecutive measurements above 1 us. -/
  bad : Nat := 0
  deriving DecidableEq, Repr

structure TimeState where
  srcs : List TimeSrc := []
  /-- Index of the source in use. -/
  active : Option Nat := none
  everLocked : Bool := false
  set : Bool := false
  offset : Int := 0
  /-- Nanoseconds still to be slewed, and ticks since the last slewed one. -/
  slew : Int := 0
  slewTicks : Nat := 0
  /-- TAI time of the next PPS edge (R336). -/
  ppsSecond : Nat := 0
  /-- Half B's counter less half A's (01 R16). -/
  halfB : Int := 0
  /-- Device time of the last compare, time-sync message and PPS output edge. -/
  lastCompare : Nat := 0
  lastSync : Nat := 0
  lastPps : Nat := 0
  deriving DecidableEq, Repr

/-! ## Level, ramps and Sluice -/

/-- A granted ramp of this package (R341): whole amount, slope, first slot, and what it has changed so far. -/
structure Ramp where
  amount : Int
  slope : Nat
  first : Nat
  applied : Int := 0
  /-- Loss cover: raises the floor too (R358). -/
  cover : Bool := false
  /-- A down ramp asked for by the window rule (R348). -/
  window : Bool := false
  deriving DecidableEq, Repr

/-- What starts (R345): a stream or lock group by its members, or a descriptor on an idle engine. -/
inductive StartId where
  | stream (mask : BitVec 32)
  | engine (code : Nat)
  deriving DecidableEq, Repr

structure Start where
  id : StartId
  demand : Nat
  deriving DecidableEq, Repr

/-- A request outstanding at the Steward (R347, R348). -/
structure Ask where
  msg : PermitMsg
  down : Bool
  window : Bool
  sent : Nat
  deriving DecidableEq, Repr

structure EnvState where
  member : Bool := false
  /-- 0 none, 1 Steward, 2 standby, 3 head Steward. -/
  role : Nat := 0
  pgroup : BitVec 16 := 0
  steward : NodeId := 0xFFFF
  standby : NodeId := 0xFFFF
  /-- H, F, C in W and S in W/ms. -/
  level : Nat := min Config.idleDrawW 3200
  floorW : Nat := 0
  ceilW : Nat := 3200
  slope : Nat := 20
  ramps : List Ramp := []
  starts : List Start := []
  /-- Groups whose permit is granted and which have not started. -/
  permits : List (BitVec 32) := []
  /-- Reservations: watts and the time they end. -/
  resv : List (Nat × Nat) := []
  asks : List Ask := []
  workDw : Nat := 0
  ballastDw : Nat := 0
  hold : Bool := false
  epoch : BitVec 32 := 0
  nextSeq : BitVec 32 := 0
  /-- Messages accepted: node and SEQ (R351). -/
  seen : List (NodeId × BitVec 32) := []
  pace : Nat := 64
  cause : Byte := 0
  delayMs : Nat := 100
  marginW : Nat := 200
  /-- Ballast samples of the down-request window: time and dW (R348). -/
  window : List (Nat × Nat) := []
  lastBeat : Nat := 0
  lastReport : Nat := 0
  /-- Ballast is short (R344). -/
  short : Bool := false
  deriving DecidableEq, Repr

/-! ## The Steward (R350-R358) -/

/-- What a Steward knows of a member. -/
structure MemberRec where
  level : Nat := 0
  floorW : Nat := 0
  slope : Nat := 0
  dutyCap : Nat := 64
  cause : Byte := 0
  waiting : Nat := 0
  epoch : BitVec 32 := 0
  /-- Device time of the last REPORT. -/
  reported : Option Nat := none
  lost : Bool := false
  /-- Floor added by loss cover (R358). -/
  extra : Nat := 0
  /-- Since when every REPORT has shown a duty below its set's, or no throttle. -/
  below : Option Nat := none
  clear : Option Nat := none
  deriving DecidableEq, Repr

/-- A ramp a Steward has granted. -/
structure SRamp where
  node : NodeId
  amount : Int
  slope : Nat
  first : Nat
  cover : Bool
  deriving DecidableEq, Repr

structure PaceSet where
  members : List NodeId := []
  cap : Nat := 64
  slow : Option NodeId := none
  raised : Nat := 0
  deriving DecidableEq, Repr

structure StewardState where
  list : List NodeId := []
  recs : Sparse MemberRec := []
  queue : List PermitMsg := []
  ramps : List SRamp := []
  sg : Nat := 0
  cg : Nat := 0
  memF : Nat := 0
  memC : Nat := 3200
  memS : Nat := 20
  lossCover : Bool := true
  head : NodeId := 0xFFFF
  sets : Sparse PaceSet := []
  paceHoldMs : Nat := 50
  excursions : List PermitMsg := []
  /-- Cause to pass on to the head Steward (R359). -/
  passOn : Byte := 0
  /-- Slot evaluated last, plus one. -/
  lastSlot : Nat := 0
  /-- A final SNAPSHOT has been sent: nothing more is granted (R356). -/
  handing : Bool := false
  /-- Device time of the STEWARD_HANDOVER. -/
  handAt : Nat := 0
  lastBeat : Nat := 0
  lastSnap : Nat := 0
  lastEnvelope : Nat := 0
  lastShare : Nat := 0
  /-- A standby's last snapshot. -/
  snap : Option SnapBody := none
  finalSnap : Bool := false
  deriving DecidableEq, Repr

/-! ## Power regulation -/

/-- A learnt entry in 1/4096 dW, with its updates (R369). -/
structure TagEntry where
  array : Nat := 0
  mem : Nat := 0
  samples : Nat := 0
  deriving DecidableEq, Repr

/-- States of the Weigh-house (Table 17-3). -/
inductive WhState where
  | trusted | untrusted | fault
  deriving DecidableEq, Repr

def WhState.code : WhState → Nat
  | .trusted => 0 | .untrusted => 1 | .fault => 2

/-- Thermal state of a region (Table 17-5). -/
inductive Therm where
  | normal | hold | critical
  deriving DecidableEq, Repr

def Therm.code : Therm → Nat
  | .normal => 0 | .hold => 1 | .critical => 2

/-- A recalibration attempt (R367): when it began, the raw estimates and samples of its first 100 ms,
the comparisons made, and the command it answers. -/
structure Recal where
  start : Nat
  rawSum : Nat := 0
  rawN : Nat := 0
  mSum : Nat := 0
  mN : Nat := 0
  gainSet : Bool := false
  compares : Nat := 0
  bad : Bool := false
  cmd : Option (MbxId × Option (Fin 8)) := none
  deriving DecidableEq, Repr

structure PwrState where
  /-- G in 1/16384. -/
  gain : Nat := 16384
  wh : WhState := .trusted
  /-- Estimates (dW × 16384), newest first, up to 1,000; samples of M (dW) with their times, up to 10. -/
  ests : List Nat := []
  samples : List (Nat × Nat) := []
  over8 : Nat := 0
  over25 : Nat := 0
  dPermille : Nat := 0
  /-- Delta, in dW × 16384. -/
  delta : Int := 0
  nextTry : Nat := 0
  recal : Option Recal := none
  commonDuty : Nat := 64
  fixedRate : Bool := false
  droop : Bool := false
  tags : Sparse TagEntry := []
  /-- Ballast duty by array, and the tick up to which its steps are counted. -/
  ballast : Sparse Nat := []
  spillAt : Nat := 0
  /-- Thermal state by region: T-dies 0-3 by Cistern, P-dies 4-5. -/
  therm : Sparse Therm := []
  /-- Duty limit of a T-die in HOLD, 64 when absent. -/
  thermDuty : Sparse Nat := []
  temps : Sparse Byte := []
  lastHoldAsk : Nat := 0
  lastClock : Nat := 0
  clampUntil : Option Nat := none
  overRun : Nat := 0
  overUntil : Option Nat := none
  /-- Margin of each T-die in mV less 50, as an integer. -/
  margins : Sparse Int := []
  slack : List Nat := [0, 0, 0, 0]
  evalTime : Nat := 0
  nextEval : Nat := 86400000000000
  /-- Since when work has been held below its need for lack of H (R347). -/
  heldSince : Option Nat := none
  /-- The throttled duty and cause of the next REPORT (R354). -/
  throttle : Nat := 64
  throttleCause : Byte := 0
  /-- FIXED_RATE with a duty below REF_ISSUE_DUTY (R376). -/
  fixedLost : Bool := false
  /-- Tenths of a millijoule of input energy, and microjoules of ballast, not yet counted. -/
  energyRem : Nat := 0
  ballastRem : Nat := 0
  deriving DecidableEq, Repr

/-- What leaves the package. -/
inductive Output where
  | msix (p : PortId) (vec : Nat)
  | hostWrite (p : PortId) (addr : Nat) (data : List Byte) (ep : Bool)
  | hostRead (p : PortId) (addr : Nat) (bytes : Nat)
  /-- A completion of a port read: data, and the EP bit. -/
  | completion (p : PortId) (data : List Byte) (ep : Bool)
  /-- Data of a read through the debug path. -/
  | debugData (data : List Byte)
  /-- A completion with Unsupported Request; the data reads all ones. -/
  | unsupported (p : PortId) (bytes : Nat)
  /-- A completion with Configuration Request Retry Status (19 R393). -/
  | retryStatus (p : PortId)
  /-- A zero-length read for domain ATTACH (15 R331). -/
  | flushRead (p : PortId)
  /-- The 128 bytes of a flit sent on a link (14 R301). -/
  | flit (n : LinkId) (bytes : List Byte)
  /-- What a SNAPSHOT carries beside its permit message (16 Table 16-5; log 113). -/
  | snapshot (dst : NodeId) (msg : PermitMsg) (body : SnapBody)
  /-- What an Ethernet port sends: a frame of software, an RDMA request, response or NAK, a congestion
  notification (14 R315-R317). -/
  | ethFrame (p : EthId) (bytes : List Byte)
  | rdma (p : EthId) (qpn : BitVec 12) (req : RdmaReq)
  | rdmaResponse (p : EthId) (qpn : BitVec 12) (rsp : RdmaRsp)
  | rdmaNak (p : EthId) (qpn : BitVec 12) (syndrome : Byte)
  | cnp (p : EthId) (qpn : BitVec 12)
  deriving DecidableEq, Repr

end Sys2Proof.Machine
end

