-- ==== Sys2Proof/Machine/NetTypes.lean ====
section
/-! DEFINITION. State of the Llynvan links, the route table, remote writes and the Ethernet ports with
their RDMA transport (spec 14). -/

namespace Sys2Proof.Machine

/-- Table 14-16. -/
inductive LinkMode where
  | down | training | up | withdrawn | disabled | ethernet
  deriving DecidableEq, Repr

def LinkMode.code : LinkMode → Nat
  | .down => 0 | .training => 1 | .up => 2 | .withdrawn => 3 | .disabled => 4 | .ethernet => 5

/-- What a link's training was begun by (R311, R312, R314). -/
inductive TrainBy where
  | startup | auto
  | cmd (m : MbxId) (slot : Option (Fin 8))
  deriving DecidableEq, Repr

/-- Receive buffer slots that a packet holds until it has been sent on: link, lane and flits (R303). -/
abbrev HeldSlots := Nat × Nat × Nat

/-- A packet waiting on a lane of a link: its serial number, the bytes left, whether it has begun, and the receive
buffer slots it holds where it came from. -/
structure TxPkt where
  serial : Nat
  bytes : List Byte
  begun : Bool
  back : Option HeldSlots
  deriving DecidableEq, Repr

/-- A DATA flit sent and not acknowledged: FSEQ, lane, SOP, payload, and the packets it carries bytes of. -/
structure SentFlit where
  fseq : Nat
  vl : Nat
  sop : Nat
  payload : List Byte
  serials : List Nat
  deriving DecidableEq, Repr

structure LinkSt where
  mode : LinkMode := .down
  /-- Generation 1 or 2, 0 when not trained. -/
  gen : Nat := 0
  cause : Byte := 0
  peer : NodeId := 0
  peerLink : BitVec 7 := 0
  peerPart : BitVec 2 := 0
  peerGen : BitVec 2 := 0
  /-- Configured as an Ethernet port; the highest generation or rate offered. -/
  eth : Bool := false
  maxGen : Nat := 2
  off : Bool := false
  ethRate : Nat := 0
  nextFseq : Nat := 0
  expect : Nat := 0
  /-- Waiting for a replay: the device time of the last RETRY_REQ sent. -/
  retryAt : Option Nat := none
  nextSerial : Nat := 0
  /-- Waiting packets by lane. -/
  tx : Sparse (List TxPkt) := []
  sent : List SentFlit := []
  /-- Credits in use at the peer, and credits owed to it, by lane. -/
  used : Sparse Nat := []
  owed : Sparse Nat := []
  /-- Since when a lane with a flit ready has had no credit, and since when a lane has had none, plus one. -/
  dry : Sparse Nat := []
  bare : Sparse Nat := []
  /-- COLL was served last of COLL and REQ. -/
  collLast : Bool := false
  /-- Bytes of a packet being received, and the flits that hold them, by lane. -/
  rx : Sparse (List Byte) := []
  rxHeld : Sparse Nat := []
  /-- The first codeword of the receive direction not yet counted (R300). -/
  nextWord : Nat := 0
  /-- Transmit timestamp of the last time-sync message (16 R337). -/
  syncAt : Nat := 0
  /-- Device times of replays within the last millisecond. -/
  replays : List Nat := []
  downAt : Nat := 0
  train : Option TrainBy := none
  /-- When this end sent WITHDRAW, until WITHDRAW_ACK arrives (R311). -/
  withdrawing : Option Nat := none
  /-- The peer has sent WITHDRAW; this end has sent its WITHDRAW_ACK. -/
  peerWithdrew : Bool := false
  ackSent : Bool := false
  lastTry : Nat := 0
  deriving DecidableEq, Repr

/-- A route table entry (Table 14-8). -/
structure RouteEntry where
  valid : Bool := false
  unreach : Bool := false
  prim : BitVec 96 := 0
  sec : BitVec 96 := 0
  deriving DecidableEq, Repr

/-- A WRITE sent and not acknowledged (R305). -/
structure OutWrite where
  txn : BitVec 32
  id : DescId
  node : NodeId
  sent : Nat
  bytes : Nat
  deriving DecidableEq, Repr

/-- A WRITE received whose data is not yet visible: what is acknowledged once it is. -/
structure InWrite where
  serial : Nat
  src : NodeId
  txn : BitVec 32
  /-- 64 MiB units of its destination. -/
  units : List Nat
  deriving DecidableEq, Repr

/-- A WRITE that waits for an invalidation of its destination (09 R215); `own` is the descriptor of this
package that sent it, none when it came by a link. -/
structure ParkedWrite where
  p : Packet
  own : Option DescId
  deriving DecidableEq, Repr

structure NetState where
  ackMs : Nat := 50
  spillNs : Nat := 500
  stallMs : Nat := 10
  retryLimit : Nat := 64
  autoRetrain : Bool := true
  links : Sparse LinkSt := []
  routes : Sparse RouteEntry := []
  writes : List OutWrite := []
  nextTxn : BitVec 32 := 0
  acks : List InWrite := []
  parked : List ParkedWrite := []
  nextIn : Nat := 0
  /-- COLL credits withheld on the links of a half (12 R282). -/
  collHold : Sparse Bool := []
  /-- Packets delivered here whose content the package takes by other commands: COLL messages, time
  synchronisation and SNAPSHOT. -/
  arrived : List Packet := []
  deriving DecidableEq, Repr

/-! ## Ethernet ports -/

/-- A work request taken from a send ring and not ended (R317). -/
structure WorkReq where
  n : Nat
  w : List W64
  poisoned : Bool
  deriving DecidableEq, Repr

/-- A queue pair (R316, R317). -/
structure QpSt where
  valid : Bool := false
  error : Bool := false
  peerQpn : BitVec 32 := 0
  peerIp : List Byte := []
  mac : List Byte := []
  mtu : Nat := 0
  retry : Nat := 0
  sqVa : Nat := 0
  sqEntries : Nat := 0
  cqLog2 : Nat := 0
  sqPsn : BitVec 32 := 0
  cqVa : Nat := 0
  rqPsn : BitVec 32 := 0
  tail : Nat := 0
  /-- Requests consumed, requests sent and records written. -/
  head : Nat := 0
  written : Nat := 0
  out : List WorkReq := []
  tries : Nat := 0
  refetchAt : Option Nat := none
  stale : Bool := false
  /-- Send rate in Mb/s, 0 for the line rate. -/
  rate : Nat := 0
  lastCnpRx : Nat := 0
  lastCnpTx : Option Nat := none
  deriving DecidableEq, Repr

structure EthSt where
  configured : Bool := false
  mac : List Byte := []
  ip : List Byte := []
  vlan : BitVec 16 := 0xFFFF
  pfcMask : Byte := 0
  prio : Byte := 0
  xoff : Nat := 0
  rxVa : Nat := 0
  rxEntries : Nat := 0
  txVa : Nat := 0
  txEntries : Nat := 0
  /-- Frames written to the raw receive ring, and taken from the raw transmit ring. -/
  rxCount : Nat := 0
  txCount : Nat := 0
  paused : Byte := 0
  /-- What waits to be sent on a paused priority, oldest first. -/
  waiting : List (Nat × Output) := []
  qps : Sparse QpSt := []
  deriving DecidableEq, Repr

/-- A registered memory region (R316). -/
structure MemRegion where
  va : Nat := 0
  len : Nat := 0
  read : Bool := false
  write : Bool := false
  valid : Bool := false
  deriving DecidableEq, Repr

structure EthState where
  ports : Sparse EthSt := []
  regions : Sparse MemRegion := []
  /-- Regions registered so far. -/
  nextKey : Nat := 0
  deriving DecidableEq, Repr

end Sys2Proof.Machine
end

