-- ==== Sys2Proof/Machine/State.lean ====
section
/-! DEFINITION. The state of the block: every register, store, buffer and flag the spec gives it, the
queue of commands waiting, and what has left the package. Per-unit state is held in maps whose default
is the unit's reset record, so the reset state lists nothing. -/

namespace Sys2Proof.Machine

/-- An events register and its enable register (21 R431). -/
structure EvReg where
  bits : W64 := 0
  en : W64 := 0
  /-- Bits that hardware set in the register's present clock cycle, and the tick of that cycle (00 R6). -/
  setBits : W64 := 0
  setTick : Nat := 0
  deriving DecidableEq, Repr

/-- An event raised and not yet logged (21 R431). -/
structure Edge where
  time : Nat
  src : BitVec 16
  bit : Nat
  arg : W64
  deriving DecidableEq, Repr

/-- Why a step stops with a fault. The block has none: every command completes (safe). -/
inductive Fault where
  /-- Raised by nothing; kept so that the type is inhabited (safe). -/
  | none
  deriving DecidableEq, Repr

/-- Why a command is refused. -/
inductive Refusal where
  /-- The command has no meaning yet; raised only by the dispatch (safe). -/
  | notModelled (mnemonic : String)
  deriving DecidableEq, Repr

/-- An MSI-X table entry (15 R333). -/
structure MsixEntry where
  addr : W64 := 0
  data : BitVec 32 := 0
  /-- Vector control as written; `none` is its state after reset, masked. -/
  masked : Bool := true
  deriving DecidableEq, Repr

/-- A port (15). -/
structure PortSt where
  /-- WIN_BASEp.BASE, in 64 MiB units. -/
  winBase : Nat := 0
  width : Nat := 0
  rate : Nat := 0
  cxl : Nat := 0
  cacheEn : Bool := false
  bme : Bool := false
  linkUp : Bool := false
  msixEnable : Bool := false
  functionMask : Bool := false
  /-- Base addresses of BAR0 and BAR2 (15 R321). -/
  bar0 : W64 := 0
  bar2 : W64 := 0
  msix : Sparse MsixEntry := []
  /-- Pending bit array. -/
  pba : Sparse Bool := []
  /-- Host-line cache of the port's X-die, newest line first: 64-byte line number and data. -/
  cache : List (Nat × List Byte) := []
  /-- AER has recorded a poisoned TLP sent, and one received (15 R326). -/
  aerSent : Bool := false
  aerReceived : Bool := false
  deriving DecidableEq, Repr

/-- Attach-host memory and peer ranges (15 R327, R332). -/
structure HostState where
  ports : Sparse PortSt := []
  /-- Bytes of the aperture as the TY9 last saw or wrote them, by physical address. -/
  mem : Mem := []
  /-- Sectors (address div 32) whose last read delivered poison. -/
  poison : Sparse Bool := []
  p2pBase : Sparse W64 := []
  p2pLimit : Sparse W64 := []
  deriving DecidableEq, Repr

structure State where
  /-- Commands waiting, first in, first out. -/
  pending : List Instr := []
  /-- Draws of free values so far (log 2). -/
  fresh : Nat := 0
  /-- Messages, packets and interrupts sent, oldest first (log 4). -/
  outbox : List Output := []
  /-- Device time in nanoseconds (16 R335). -/
  now : Nat := 0
  /-- Cycles of the 1 GHz manager clock since power-on: nanoseconds that no step of device time moves. -/
  ticks : Nat := 0
  /-- Events registers by source code (21 Table 21-4). -/
  events : Sparse EvReg := []
  edges : List Edge := []
  /-- Counters by register key (see `ctrKey`). -/
  counters : Sparse W64 := []
  arrays : Sparse AryState := []
  vecs : Sparse VecState := []
  hbm : HbmState := {}
  coh : CohState := {}
  cores : Sparse CoreState := []
  xlt : XltState := {}
  host : HostState := {}
  queues : Sparse QState := []
  /-- By engine code, one more than the queue it served last (10 R224). -/
  served : Sparse Nat := []
  /-- Node ID, 0xFFFF before NODE_ID_SET (14 R306). -/
  node : NodeId := 0xFFFF
  boot : BootState := {}
  mgr : MgrState := {}
  pins : PinState := {}
  sec : SecState := {}
  /-- CNT_ACCESS_ERR_INFO (Table 21-7). -/
  accInfo : W64 := 0
  coll : CollState := {}
  upd : Sparse UpdState := []
  seqs : Sparse SeqState := []
  net : NetState := {}
  eth : EthState := {}
  time : TimeState := {}
  env : EnvState := {}
  stew : StewardState := {}
  pwr : PwrState := {}
  /-- Loaded memory keys by selector, 64 bytes each; [] when none is loaded (20 R421). -/
  keys : Sparse (List Byte) := []
  deriving DecidableEq, Repr

/-- The block right after power-on reset. -/
def State.reset : State := {}

end Sys2Proof.Machine
end

