-- ==== Sys2Proof/Machine/Ops.lean ====
section
/-! DEFINITION. Operations every unit shares: accessors of per-unit state, events, counters, free values,
outputs, the numbering of engines, and the physical address map (spec 01, 21 R431, R434). -/

namespace Sys2Proof.Machine

/-! ## Per-unit state -/

def State.arr (s : State) (n : Nat) : AryState := Sparse.get {} s.arrays n
def State.setArr (s : State) (n : Nat) (a : AryState) : State := { s with arrays := Sparse.set {} s.arrays n a }
def State.modArr (s : State) (n : Nat) (f : AryState → AryState) : State := s.setArr n (f (s.arr n))

def State.vec (s : State) (n : Nat) : VecState := Sparse.get {} s.vecs n
def State.setVec (s : State) (n : Nat) (v : VecState) : State := { s with vecs := Sparse.set {} s.vecs n v }
def State.modVec (s : State) (n : Nat) (f : VecState → VecState) : State := s.setVec n (f (s.vec n))

def State.queue (s : State) (q : Nat) : QState := Sparse.get {} s.queues q
def State.setQueue (s : State) (q : Nat) (v : QState) : State := { s with queues := Sparse.set {} s.queues q v }
def State.modQueue (s : State) (q : Nat) (f : QState → QState) : State := s.setQueue q (f (s.queue q))

def State.core (s : State) (c : Nat) : CoreState := Sparse.get {} s.cores c
def State.setCore (s : State) (c : Nat) (v : CoreState) : State := { s with cores := Sparse.set {} s.cores c v }
def State.modCore (s : State) (c : Nat) (f : CoreState → CoreState) : State := s.setCore c (f (s.core c))

def State.stack (s : State) (k : Nat) : StackSt := Sparse.get {} s.hbm.stks k
def State.modStack (s : State) (k : Nat) (f : StackSt → StackSt) : State :=
  { s with hbm := { s.hbm with stks := Sparse.set {} s.hbm.stks k (f (s.stack k)) } }

def State.pc (s : State) (p : Nat) : PcSt := Sparse.get {} s.hbm.pcs p
def State.modPc (s : State) (p : Nat) (f : PcSt → PcSt) : State :=
  { s with hbm := { s.hbm with pcs := Sparse.set {} s.hbm.pcs p (f (s.pc p)) } }

def State.cis (s : State) (c : Nat) : CisState := Sparse.get {} s.coh.cis c
def State.modCis (s : State) (c : Nat) (f : CisState → CisState) : State :=
  { s with coh := { s.coh with cis := Sparse.set {} s.coh.cis c (f (s.cis c)) } }

def State.modEnv (s : State) (f : EnvState → EnvState) : State := { s with env := f s.env }
def State.modStew (s : State) (f : StewardState → StewardState) : State := { s with stew := f s.stew }
def State.modPwr (s : State) (f : PwrState → PwrState) : State := { s with pwr := f s.pwr }
def State.modTime (s : State) (f : TimeState → TimeState) : State := { s with time := f s.time }

/-! ## Time and numbers -/

/-- Device time as a 64-bit register value. -/
def State.time64 (s : State) : W64 := BitVec.ofNat 64 s.now

def w64 (n : Nat) : W64 := BitVec.ofNat 64 n

/-- Bits lo .. lo+n-1 of a word as a number. -/
def fieldOf (w : W64) (lo n : Nat) : Nat := w.toNat / 2 ^ lo % 2 ^ n

def bitOf (w : W64) (k : Nat) : Bool := w.getLsbD k

def b2n (b : Bool) : Nat := if b then 1 else 0

/-- A word with bit k set. -/
def oneBit (k : Nat) : W64 := BitVec.ofNat 64 (2 ^ k)

/-! ## Free values (log 2) -/

/-- A fresh undefined byte. -/
def freshByte (s : State) : Byte × State := (Config.freeByte s.fresh, { s with fresh := s.fresh + 1 })

def freshWord (s : State) : W64 × State := (Config.freeWord s.fresh, { s with fresh := s.fresh + 1 })

/-- `n` fresh undefined bytes. -/
def freshBytes (n : Nat) (s : State) : List Byte × State :=
  ((List.range n).map fun k => Config.freeByte (s.fresh + k), { s with fresh := s.fresh + n })

/-- A string of exactly n bytes: what a primitive gives, cut or filled with zeros. -/
def fit (n : Nat) (l : List Byte) : List Byte := (l ++ List.replicate n 0).take n

/-! ## The manager (18 R378, 19 R409, R410) -/

/-- The firmware runs with all its duties. -/
def fwRuns (s : State) : Bool :=
  s.boot.fwReady && s.boot.activ.isNone && !s.pins.halted && s.pins.converters && s.pins.refclk

/-- The firmware sends permit and time messages and holds its roles: also from step 5 of an activation on. -/
def fwRoles (s : State) : Bool :=
  s.boot.fwReady && (match s.boot.activ with | none => true | some a => a.started)
    && !s.pins.halted && s.pins.converters && s.pins.refclk

/-- The dies are powered and clocked. -/
def powered (s : State) : Bool := s.pins.input && s.pins.converters && s.pins.refclk

/-- What a unit of the package does: nothing without power or without the clock tree root (01 R15, 22 R449). -/
def clocked (f : State → State) (s : State) : State := if powered s then f s else s

/-! ## Outputs -/

def emit (o : Output) (s : State) : State := { s with outbox := s.outbox ++ [o] }

/-! ## Events (21 R431) -/

/-- Source codes of Table 21-4. -/
def srcBoot : BitVec 16 := 0x0000
def srcMbx (m : Nat) : BitVec 16 := BitVec.ofNat 16 (0x0100 + m)
def srcWin : BitVec 16 := 0x0200
def srcQdb (q : Nat) : BitVec 16 := BitVec.ofNat 16 (0x0300 + q)
def srcTime : BitVec 16 := 0x0400
def srcPwr : BitVec 16 := 0x0500
def srcEnv : BitVec 16 := 0x0600
def srcCnt : BitVec 16 := 0x0700
def srcXlt : BitVec 16 := 0x0800
def srcLnk : BitVec 16 := 0x0900
def srcHbm : BitVec 16 := 0x0A00
def srcDbg : BitVec 16 := 0x0B00
def srcAry (n : Nat) : BitVec 16 := BitVec.ofNat 16 (0x1000 + n)
def srcAryStream (n : Nat) : BitVec 16 := BitVec.ofNat 16 (0x1100 + n)
def srcVec (n : Nat) : BitVec 16 := BitVec.ofNat 16 (0x1200 + n)
def srcVecFlags (n : Nat) : BitVec 16 := BitVec.ofNat 16 (0x1300 + n)
def srcUpd (n : Nat) : BitVec 16 := BitVec.ofNat 16 (0x1400 + n)
def srcSeq (n : Nat) : BitVec 16 := BitVec.ofNat 16 (0x1500 + n)
def srcTally (n : Nat) : BitVec 16 := BitVec.ofNat 16 (0x1600 + n)

def State.ev (s : State) (src : BitVec 16) : EvReg := Sparse.get {} s.events src.toNat
def State.evBits (s : State) (src : BitVec 16) : W64 := (s.ev src).bits
def State.setEv (s : State) (src : BitVec 16) (e : EvReg) : State :=
  { s with events := Sparse.set {} s.events src.toNat e }

/-- Blocks without an enable register raise an event on every change (R431). -/
def alwaysRaises (src : BitVec 16) : Bool :=
  let b := src.toNat / 256
  b == 0x01 || b == 0x11 || b == 0x12 || b == 0x16

/-- Registers whose clock cycles the model tells apart (00 R6): those of the mailboxes and of device time,
whose cycle is one tick, and those of arrays and vector engines, whose cycles are commands. In every other
register the order of the commands is the order of the cycles (log 97). -/
def inCycle (src : BitVec 16) : Bool :=
  let b := src.toNat / 256
  b == 0x01 || b == 0x04 || b == 0x10 || b == 0x11 || b == 0x12 || b == 0x13

/-- The bits set in the register's present cycle, when it lies in this tick. -/
def EvReg.fresh (tick : Nat) (e : EvReg) : W64 := if e.setTick = tick then e.setBits else 0

/-- Bit k is noted as set in this cycle. -/
def EvReg.note (tick k : Nat) (e : EvReg) : EvReg :=
  { e with setBits := e.fresh tick ||| oneBit k, setTick := tick }

/-- Hardware sets bit k of an events register; a change from 0 to 1 that is enabled raises an event. -/
def raiseArg (src : BitVec 16) (k : Nat) (arg : W64) (s : State) : State :=
  let e := if inCycle src then (s.ev src).note s.ticks k else s.ev src
  let arg := if src = srcXlt then s.xlt.errInfo else arg
  if bitOf e.bits k then (if inCycle src then s.setEv src e else s)
  else
    let s1 := s.setEv src { e with bits := e.bits ||| oneBit k }
    if bitOf e.en k || alwaysRaises src then
      { s1 with edges := s1.edges ++ [⟨s.now, src, k, arg⟩] }
    else s1

def raiseEv (src : BitVec 16) (k : Nat) (s : State) : State := raiseArg src k 0 s

/-- Bits of an events register become 0. -/
def dropEv (src : BitVec 16) (w : W64) (s : State) : State :=
  let e := s.ev src
  s.setEv src { e with bits := e.bits &&& ~~~ w }

/-- Software writes an events register: each 1 clears its bit (00 Table 0-4), but for one that hardware set
in the same cycle (00 R6). -/
def clearEv (src : BitVec 16) (w : W64) (s : State) : State :=
  dropEv src (if inCycle src then w &&& ~~~ (s.ev src).fresh s.ticks else w) s

/-- A new clock cycle of these registers begins. -/
def openEvents (srcs : List (BitVec 16)) (s : State) : State :=
  srcs.foldl (fun s c => let e := s.ev c; if e.setBits = 0 then s else s.setEv c { e with setBits := 0 }) s

def setEvEn (src : BitVec 16) (mask w : W64) (s : State) : State :=
  s.setEv src { s.ev src with en := w &&& mask }

/-! ## Counters (21 R434)

A counter's key is the register-space offset of its register. A block reached by the debug path has the
keys from `debugBase code sub` upwards, where code is the engine code of Table 9-12. -/

def debugBase (code : Nat) (sub : Bool) : Nat := 0x1000000 + code * 0x2000 + (if sub then 0x1000 else 0)

/-- The event bit that a counter's reaching its largest value sets. -/
def ovfOf (key : Nat) : BitVec 16 × Nat :=
  if key < 0x10000 then (srcBoot, 4)
  else if key < 0x20000 then (srcMbx (key / 0x4000 % 4), 6)
  else if key < 0x100000 then (srcWin, 5)
  else if key < 0x200000 then (srcQdb ((key - 0x100000) / 0x1000), 5)
  else if key < 0x300000 then (srcTime, 3)
  else if key < 0x400000 then (if 0x301000 ≤ key ∧ key < 0x302000 then (srcEnv, 5) else (srcPwr, 7))
  else if key < 0x500000 then (srcCnt, 3)
  else if key < 0x600000 then (srcXlt, 3)
  else if key < 0x700000 then (srcLnk, 5)
  else if key < 0x800000 then (srcHbm, 6)
  else if key < 0x1000000 then (srcDbg, 3)
  else
    let code := (key - 0x1000000) / 0x2000
    let sub := (key - 0x1000000) % 0x2000 ≥ 0x1000
    if code < 16 then (if sub then (srcAryStream code, 3) else (srcAry code, 8))
    else if code < 32 then (srcVec (code - 16), 3)
    else if code < 0x44 then (srcUpd (code - 0x42), 3)
    else (srcSeq (code - 0x44), 3)

def State.ctr (s : State) (key : Nat) : W64 := Sparse.get 0 s.counters key

/-- A counter advances by n and stops at its all-ones value, setting its block's overflow bit the first
time it reaches it. -/
def count (key n : Nat) (s : State) : State :=
  let c := (s.ctr key).toNat
  let c' := min (c + n) (2 ^ 64 - 1)
  let s1 := { s with counters := Sparse.set 0 s.counters key (w64 c') }
  if c < 2 ^ 64 - 1 ∧ c' = 2 ^ 64 - 1 then raiseEv (ovfOf key).1 (ovfOf key).2 s1 else s1

/-- A clear register: every counter of the range becomes zero; the overflow bit keeps its value. -/
def clearCounters (lo hi : Nat) (s : State) : State :=
  { s with counters := Sparse.dropWhere (fun k => decide (lo ≤ k ∧ k < hi)) s.counters }

/-! ## Engines (01 Table 1-2, 09 Table 9-12) -/

def codeArray (n : Nat) : Nat := n
def codeVec (n : Nat) : Nat := 0x10 + n
def codeCopy (n : Nat) : Nat := 0x20 + n
def codeColl (n : Nat) : Nat := 0x40 + n
def codeUpd (n : Nat) : Nat := 0x42 + n
def codeSeq (n : Nat) : Nat := 0x44 + n
/-- The manager, the queue logic of no engine, and other requesters without a code. -/
def codeNone : Nat := 0xFF
/-- Requester number of core c at a Cistern. -/
def codeCore (c : Nat) : Nat := 0x100 + c
/-- Requester number of Ethernet port p. -/
def codeEth (p : Nat) : Nat := 0x200 + p

def engCode : StreamEng → Nat
  | .arr n => codeArray n.val
  | .vec n => codeVec n.val

/-! ## Stream units -/

def State.unit (s : State) : StreamEng → StreamUnit
  | .arr n => (s.arr n.val).su
  | .vec n => (s.vec n.val).su

def State.modUnit (s : State) (e : StreamEng) (f : StreamUnit → StreamUnit) : State :=
  match e with
  | .arr n => s.modArr n.val fun x => { x with su := f x.su }
  | .vec n => s.modVec n.val fun x => { x with su := f x.su }

/-- The array whose stores an engine works on. -/
def engArray : StreamEng → Nat
  | .arr n => n.val
  | .vec n => n.val

/-- Requester number of the window of port p. -/
def codePort (p : Nat) : Nat := 0x300 + p

/-- Half of a requester: 0 or 1. -/
def halfOf (code : Nat) : Nat :=
  if 0x300 ≤ code then (code - 0x300) % 2
  else if code < 0x10 then code / 8
  else if code < 0x20 then (code - 0x10) / 8
  else if code < 0x40 then (code - 0x20) / 16
  else if code < 0x46 then code % 2
  else if code ≥ 0x200 then (code - 0x200) / 8 % 2
  else if code ≥ 0x100 then (code - 0x100) / 64
  else 0

def isCopy (code : Nat) : Bool := 0x20 ≤ code && code < 0x40

/-! ## The physical address map (01 Table 1-5) -/

inductive Region where
  | pool | aperture | registers | store | hole
  deriving DecidableEq, Repr

def poolBytes : Nat := 0x012000000000
def apertureBase : Nat := 0x080000000000
def apertureEnd : Nat := 0x100000000000
def registerBase : Nat := 0x100000000000
def registerBytes : Nat := 0x1000000
def storeBase : Nat := 0x100100000000
def storeBytes : Nat := 0x20000000

def regionOf (a : Nat) : Region :=
  if a < poolBytes then .pool
  else if apertureBase ≤ a ∧ a < apertureEnd then .aperture
  else if registerBase ≤ a ∧ a < registerBase + registerBytes then .registers
  else if storeBase ≤ a ∧ a < storeBase + storeBytes then
    (if (a - storeBase) % 0x2000000 < 0x1900000 then .store else .hole)
  else .hole

/-- Tile-store bytes of a slot of the aperture (R21). -/
def tileBytes : Nat := 0x1800000

end Sys2Proof.Machine
end

