-- ==== Sys2Proof/Machine/Desc.lean ====
section
/-! DEFINITION. Descriptors: their fields (spec 10 R225, R231, R234; 04 R80) and when one is malformed
(10 R226), for the opcodes of the copy engines, arrays and vector engines. -/

namespace Sys2Proof.Machine

abbrev DWords := List W64

def wordAt (w : DWords) (k : Nat) : W64 := w.getD k 0
def fieldAt (w : DWords) (k lo n : Nat) : Nat := fieldOf (wordAt w k) lo n
/-- Bits lo .. 63 of word k are zero. -/
def zeroFrom (w : DWords) (k lo : Nat) : Bool := fieldAt w k lo (64 - lo) == 0

def dPhase (w : DWords) : Bool := bitOf (wordAt w 0) 63
def dOpcode (w : DWords) : Nat := fieldAt w 0 48 8
def dSeq (w : DWords) : Nat := fieldAt w 0 32 16
def dTag (w : DWords) : Nat := fieldAt w 0 0 32
def dDomain (w : DWords) : Nat := fieldAt w 1 6 2
def dIrq (w : DWords) : Bool := bitOf (wordAt w 1) 5
def dFence (w : DWords) : Bool := bitOf (wordAt w 1) 4
def dPermitNote (w : DWords) : Bool := bitOf (wordAt w 1) 3
def dStreaming (w : DWords) : Bool := bitOf (wordAt w 1) 2
def dNoRemote (w : DWords) : Bool := bitOf (wordAt w 1) 1

def opNop : Nat := 0x00
def opCopy : Nat := 0x01
def opCopy2d : Nat := 0x02
def opFill : Nat := 0x03
def opWriteImm : Nat := 0x04
def opInvalidate : Nat := 0x05
def opStream : Nat := 0x10

/-- Kinds of engines by code (09 Table 9-12). -/
inductive EngKind where
  | array | vector | copy | coll | update | seq | none
  deriving DecidableEq, Repr

def engKind (code : Nat) : EngKind :=
  if code < 0x10 then .array else if code < 0x20 then .vector else if code < 0x40 then .copy
  else if code < 0x42 then .coll else if code < 0x44 then .update else if code < 0x46 then .seq else .none

/-! ## Copy fields (Table 10-4) -/

def dSrc (w : DWords) : Nat := fieldAt w 2 0 52
def dDst (w : DWords) : Nat := fieldAt w 3 0 52
def dLength (w : DWords) : Nat := fieldAt w 4 0 40
def dRows (w : DWords) : Nat := if dOpcode w = opCopy2d then fieldAt w 4 40 24 else 1
def dRemote (w : DWords) : Bool := bitOf (wordAt w 5) 16
def dNode (w : DWords) : NodeId := BitVec.ofNat 16 (fieldAt w 5 0 16)
def dSrcStride (w : DWords) : Nat := fieldAt w 6 0 40
def dDstStride (w : DWords) : Nat := fieldAt w 7 0 40
def dSpan (w : DWords) : Nat := fieldAt w 4 0 27

/-- Does the operation read a source? -/
def readsSource (op : Nat) : Bool := op == opCopy || op == opCopy2d

/-! ## Stream launch fields (Table 10-5) -/

def launchOf (id : DescId) (w : DWords) : Launch where
  id := id
  bundleVa := fieldAt w 2 0 52
  bundleCount := fieldAt w 4 0 14
  trigVa := fieldAt w 3 0 52
  trigCount := fieldAt w 3 52 9
  phaseTag := BitVec.ofNat 6 (fieldAt w 4 14 6)
  hazard := bitOf (wordAt w 4) 20
  lockMask := BitVec.ofNat 32 (fieldAt w 4 32 32)
  startTime := fieldAt w 5 0 64

/-- Bit of an array or vector engine in a LOCK_MASK. -/
def maskBit (code : Nat) : Nat := code

/-! ## Malformed descriptors (R226) -/

/-- Reserved bits of words 0 and 1. -/
def headBad (w : DWords) : Bool :=
  fieldAt w 0 56 7 != 0 || !zeroFrom w 1 8 || bitOf (wordAt w 1) 0

def wordsZero (w : DWords) (ks : List Nat) : Bool := ks.all fun k => wordAt w k == 0

/-- The copy engines' own words. -/
def copyBad (w : DWords) : Bool :=
  let op := dOpcode w
  let dstBad := !zeroFrom w 3 52 || !zeroFrom w 5 17
  if op = opCopy then !zeroFrom w 2 52 || dstBad || !zeroFrom w 4 40 || !wordsZero w [6, 7]
  else if op = opCopy2d then
    !zeroFrom w 2 52 || dstBad || dRows w == 0 || !zeroFrom w 6 40 || !zeroFrom w 7 40
  else if op = opFill then wordAt w 2 != 0 || dstBad || !zeroFrom w 4 40 || wordAt w 7 != 0
  else if op = opWriteImm then
    let n := dLength w
    wordAt w 2 != 0 || dstBad || !zeroFrom w 4 40 || wordAt w 7 != 0
      || !([1, 2, 4, 8].contains n) || dDst w % n != 0
  else
    !zeroFrom w 2 52 || fieldAt w 2 0 26 != 0 || !zeroFrom w 4 27 || !wordsZero w [3, 5, 6, 7]
      || dDomain w != 0

/-- A stream launch for the engine of a code (R80, R96, R234). -/
def streamBad (code : Nat) (w : DWords) : Bool :=
  let l := launchOf ⟨0, 0⟩ w
  !zeroFrom w 2 52 || !zeroFrom w 3 61 || fieldAt w 4 21 11 != 0 || !wordsZero w [6, 7] || dDomain w != 0
    || l.bundleVa % 16 != 0 || l.bundleCount == 0 || decide (8192 < l.bundleCount) || decide (256 < l.trigCount)
    || (l.trigCount != 0 && l.trigVa % 32 != 0)
    || (l.lockMask != 0 && !l.lockMask.getLsbD (maskBit code))

def State.group (s : State) (g : Nat) : Option GroupSt := Sparse.get none s.coll.groups g

/-! ### Collectives (11 Tables 11-4 to 11-7) -/

def opAllReduce : Nat := 0x20
def opReduceScatter : Nat := 0x21
def opAllGather : Nat := 0x22
def opBroadcast : Nat := 0x23
def opReduce : Nat := 0x24
def opAllToAll : Nat := 0x25
def opBarrier : Nat := 0x26
def opFlagReduce : Nat := 0x27

def cGroup (w : DWords) : Nat := fieldAt w 4 40 12
def cType (w : DWords) : Nat := fieldAt w 4 52 3
def cRedop (w : DWords) : Nat := fieldAt w 4 55 3
def cRepro (w : DWords) : Bool := bitOf (wordAt w 4) 58
def cSink (w : DWords) : Bool := bitOf (wordAt w 4) 59
def cCount (w : DWords) : Nat := fieldAt w 4 0 40
def cRoot (w : DWords) : Nat := fieldAt w 5 0 16
def cStart (w : DWords) : Nat := fieldAt w 6 0 64

/-- Bytes of an element of a type (Table 11-7). -/
def typeBytes (ty : Nat) : Nat :=
  match ty with
  | 0 => 8 | 1 => 4 | 2 => 2 | 3 => 3 | 4 => 4 | _ => 1

/-- A collective's own words (R249). FLAG_REDUCE names OR or AND with TYPE 0 (log 30). -/
def collBad (code : Nat) (w : DWords) (s : State) : Bool :=
  let op := dOpcode w
  let ty := cType w
  let r := cRedop w
  let align := if ty = 3 then 32 else typeBytes ty
  let flag := op == opFlagReduce
  let rooted := op == opBroadcast || op == opReduce
  decide (op < 0x20) || decide (0x27 < op) || !zeroFrom w 2 52 || !zeroFrom w 3 52 || fieldAt w 4 60 4 != 0
    || !zeroFrom w 5 16 || (!flag && wordAt w 7 != 0) || decide (4 < r) || decide (5 < ty)
    || (match s.group (cGroup w) with
      | none => true
      | some g => g.engine != code - 0x40 || (g.coreMode && op != opBarrier && !flag)
        || (rooted && decide (g.members.length ≤ cRoot w)))
    || (decide (r = 3 ∨ r = 4) && decide (ty < 4) && !flag)
    || (cRepro w && (!(op == opAllReduce || op == opReduceScatter || op == opReduce) || r != 0
        || !(ty == 1 || ty == 2 || ty == 3)))
    || (cSink w && (op != opReduceScatter || r != 0 || !(ty == 1 || ty == 2 || ty == 3)))
    || (!rooted && cRoot w != 0) || (ty == 3 && cCount w % 32 != 0)
    || dSrc w % align != 0 || dDst w % align != 0
    || (op == opBarrier && (dSrc w != 0 || dDst w != 0 || cCount w != 0 || ty != 0 || r != 0))
    || (flag && (!(r == 3 || r == 4) || dSrc w != 0 || dDst w != 0 || cCount w != 0 || ty != 0))

/-! ### Updates (12 Tables 12-2, 12-3) -/

def opUpdApply : Nat := 0x40
def opUpdCommit : Nat := 0x41

def uTable (w : DWords) : Nat := fieldAt w 2 0 52
def uW (w : DWords) : Nat := fieldAt w 3 0 52
def uStage (w : DWords) : Nat := fieldAt w 4 0 52
def uEpoch (w : DWords) : Nat := fieldAt w 5 0 52
def uGroup (w : DWords) : Nat := fieldAt w 6 52 12
def uCount (w : DWords) : Nat := fieldAt w 6 0 40
def uLimit (w : DWords) : Nat := fieldAt w 7 32 32
def uStall (w : DWords) : Nat := fieldAt w 7 16 16
def uEntries (w : DWords) : Nat := fieldAt w 7 0 16

/-- An update descriptor's own words (R268), but for its table; EPOCH_VA of a commit is aligned as that
of an APPLY (log 31). -/
def updBad (code : Nat) (w : DWords) (s : State) : Bool :=
  if dOpcode w = opUpdApply then
    !zeroFrom w 2 52 || !zeroFrom w 3 52 || !zeroFrom w 4 52 || !zeroFrom w 5 52 || fieldAt w 6 40 12 != 0
      || uTable w % 128 != 0 || uW w % 128 != 0 || uStage w % 128 != 0 || uEpoch w % 32 != 0
      || (match s.group (uGroup w) with
        | none => true
        | some g => g.coreMode || g.engine != code - 0x42 || uCount w % (32 * g.members.length) != 0)
      || decide (0x7F800000 < uLimit w) || uLimit w == 0 || uEntries w == 0
  else if dOpcode w = opUpdCommit then
    !zeroFrom w 2 52 || dSrc w % 32 != 0 || !wordsZero w [5, 6, 7]
  else true

/-! ### Sequences (13 Tables 13-3, 13-5, 13-6) -/

def opSlotOpen : Nat := 0x60
def opSlotClose : Nat := 0x61
def opKvGather : Nat := 0x62
def opKvPut : Nat := 0x63
def opSample : Nat := 0x64

/-- SLOT of SLOT_OPEN and SLOT_CLOSE, SLOTS of the others. -/
def sSlot (w : DWords) : Nat := fieldAt w 2 56 8
def sKind (w : DWords) : Nat := fieldAt w 3 62 2
def sMem (w : DWords) : Nat := fieldAt w 3 0 52
def sRows (w : DWords) : Nat := fieldAt w 4 40 16
def sOffset (w : DWords) : Nat := fieldAt w 4 0 40
def sStride (w : DWords) : Nat := fieldAt w 5 0 40
def sRowBytes (w : DWords) : Nat := fieldAt w 6 0 17
def sVocab (w : DWords) : Nat := fieldAt w 4 0 21
def sTopK (w : DWords) : Nat := fieldAt w 4 21 9
def sMode (w : DWords) : Nat := fieldAt w 4 30 2
def sTopP (w : DWords) : Nat := fieldAt w 4 32 32
def sInvTemp (w : DWords) : Nat := fieldAt w 5 0 32
def sRowStride (w : DWords) : Nat := fieldAt w 6 0 40
def sTokenOut (w : DWords) : Nat := fieldAt w 7 0 52

/-- A sequence descriptor's own words, but for what its slot list decides. SLOT_CLOSE names its slot where
SLOT_OPEN does (log 32). -/
def seqBad (w : DWords) : Bool :=
  let op := dOpcode w
  let listBad := fieldAt w 2 52 4 != 0 || sSlot w == 0 || decide (128 < sSlot w)
  dDomain w != 0 ||
  (if op = opSlotOpen then
    fieldAt w 2 52 4 != 0 || decide (127 < sSlot w) || dSrc w % 128 != 0 || fieldAt w 3 15 17 != 0
      || fieldAt w 3 0 15 == 0 || decide (16384 < fieldAt w 3 0 15) || fieldAt w 5 32 32 == 0
      || decide (fieldAt w 5 32 32 ≤ fieldAt w 5 0 32) || !zeroFrom w 6 60 || !zeroFrom w 7 24
  else if op = opSlotClose then
    fieldAt w 2 0 56 != 0 || decide (127 < sSlot w) || !wordsZero w [3, 4, 5, 6, 7]
  else if op = opKvGather ∨ op = opKvPut then
    listBad || dSrc w % 32 != 0 || decide (1 < sKind w) || fieldAt w 3 52 1 != 0 || fieldAt w 4 56 8 != 0
      || sRows w == 0 || !zeroFrom w 5 40 || !zeroFrom w 6 17 || decide (sRowBytes w < 32)
      || decide (65536 < sRowBytes w) || wordAt w 7 != 0 || sOffset w % 32 != 0 || sStride w % 32 != 0
      || sRowBytes w % 32 != 0 || sMem w % 32 != 0
      || (sKind w == 1 && decide (tileBytes < sMem w + sSlot w * sRows w * sRowBytes w))
  else if op = opSample then
    listBad || !zeroFrom w 3 52 || sMem w % 32 != 0 || sTopP w == 0 || decide (0x3F800000 < sTopP w)
      || decide (1 < sMode w) || decide (256 < sTopK w) || sVocab w == 0 || decide (1048576 < sVocab w)
      || fieldAt w 5 32 32 != 0 || sInvTemp w == 0 || decide (0x7F800000 ≤ sInvTemp w) || !zeroFrom w 6 40
      || sRowStride w % 32 != 0 || decide (sRowStride w < 4 * sVocab w) || !zeroFrom w 7 52
      || sTokenOut w % 4 != 0
  else true)

/-- Malformed for the engine it reached (R226). -/
def malformedDesc (code : Nat) (w : DWords) (s : State) : Bool :=
  let op := dOpcode w
  if headBad w then true
  else if op = opNop then !wordsZero w [2, 3, 4, 5, 6, 7]
  else match engKind code with
    | .copy => !(1 ≤ op && op ≤ 5) || copyBad w
    | .array => op != opStream || streamBad code w
    | .vector => op != opStream || streamBad code w
    | .coll => collBad code w s
    | .update => updBad code w s
    | .seq => seqBad w
    | .none => true

end Sys2Proof.Machine
end

