-- ==== Sys2Proof/Machine/Net.lean ====
section
/-! DEFINITION. Sending on the fabric (spec 14): flits, lanes and credits, packets, the route algorithm,
what a link's failure discards, and the encoding of permit messages (16 Table 16-4). -/

namespace Sys2Proof.Machine

def lnkCtr (off : Nat) : Nat := 0x600000 + off
def dropCount : Nat := lnkCtr 0x38
def nodeDownCount : Nat := lnkCtr 0x40
def linkCtr (n off : Nat) : Nat := lnkCtr (0x1000 + 0x40 * n + off)
def fecCorrCount (n : Nat) : Nat := linkCtr n 0x10
def fecUncorrCount (n : Nat) : Nat := linkCtr n 0x18
def crcErrCount (n : Nat) : Nat := linkCtr n 0x20
def retryCount (n : Nat) : Nat := linkCtr n 0x28
def lostPacketCount (n : Nat) : Nat := linkCtr n 0x30
def creditStallNs (n : Nat) : Nat := linkCtr n 0x38

def evDrop : Nat := 0
def evLinkUp : Nat := 1
def evLinkDown : Nat := 2
def evCreditStall : Nat := 3
def evNodeDown : Nat := 4

def State.link (s : State) (n : Nat) : LinkSt := Sparse.get {} s.net.links n
def State.modLink (s : State) (n : Nat) (f : LinkSt → LinkSt) : State :=
  { s with net := { s.net with links := Sparse.set {} s.net.links n (f (s.link n)) } }
def State.modNet (s : State) (f : NetState → NetState) : State := { s with net := f s.net }
def State.route (s : State) (d : Nat) : RouteEntry := Sparse.get {} s.net.routes d

/-- Links in up_mask. -/
def upLinks (s : State) : List Nat := (List.range 96).filter fun n => (s.link n).mode == .up

/-- Half of a link's X-die. -/
def linkHalf (n : Nat) : Nat := n / 48

def toLink (n : Nat) : LinkId := Fin.ofNat 96 n

/-! ## Flits (R301) -/

def kindData : Nat := 0
def kindIdle : Nat := 1
def kindControl : Nat := 2

/-- The 128 bytes of a flit from its header fields and 118 payload bytes. -/
def flitBytes (kind vl fseq ack cvl credits sop : Nat) (payload : List Byte) : List Byte :=
  let h := kind * 2 ^ 46 + vl * 2 ^ 44 + fseq * 2 ^ 32 + ack * 2 ^ 20 + cvl * 2 ^ 18 + credits * 2 ^ 10 + sop
  let body := leBytes 6 h ++ (payload ++ List.replicate (118 - payload.length) 0)
  body ++ leBytes 4 (crc32 body).toNat

/-- Receive buffer of each lane, in flits (Table 14-5). -/
def laneBuffer (vl : Nat) : Nat := if vl = 2 then 512 else if vl = 3 then 64 else 256

def LinkSt.credits (l : LinkSt) (vl : Nat) : Nat := laneBuffer vl - Sparse.get 0 l.used vl

/-- FSEQ of the last DATA flit received intact and in order. -/
def LinkSt.ackSeq (l : LinkSt) : Nat := (l.expect + 4095) % 4096

/-- Credits returned in the next header: lane, number, and the link with them no longer owed. COLL
credits stay owed while they are withheld. -/
def returnCredits (hold : Bool) (l : LinkSt) : Nat × Nat × LinkSt :=
  match ([0, 1, 2, 3] : List Nat).find? fun v => Sparse.get 0 l.owed v != 0 && !(v == 2 && hold) with
  | some v =>
    let k := min 255 (Sparse.get 0 l.owed v)
    (v, k, { l with owed := Sparse.set 0 l.owed v (Sparse.get 0 l.owed v - k) })
  | none => (0, 0, l)

def collHeld (s : State) (n : Nat) : Bool := Sparse.get false s.net.collHold (linkHalf n)

/-- A flit leaves on a link: header fields that do not depend on its kind are filled in. -/
def putFlit (n kind vl fseq sop : Nat) (payload : List Byte) (s : State) : State :=
  let l := s.link n
  let (cvl, k, l1) := returnCredits (collHeld s n) l
  emit (.flit (toLink n) (flitBytes kind vl fseq l.ackSeq cvl k sop payload)) (s.modLink n fun _ => l1)

/-- A CONTROL flit: its code and arguments (R301). -/
def sendControl (n code : Nat) (args : List Byte) (s : State) : State :=
  putFlit n kindControl 3 (s.link n).nextFseq 127 (leBytes 1 code ++ args) s

def ctlRetry : Nat := 1
def ctlIdent : Nat := 2
def ctlWithdraw : Nat := 3
def ctlWithdrawAck : Nat := 4
def ctlRestore : Nat := 5

/-- IDENT carries node ID, link number, generation and part code. -/
def sendIdent (n : Nat) (s : State) : State :=
  sendControl n ctlIdent (leBytes 2 s.node.toNat ++ leBytes 1 n ++ leBytes 1 (s.link n).gen ++ leBytes 1 2) s

/-! ## Lanes (R303) -/

def txOf (l : LinkSt) (vl : Nat) : List TxPkt := Sparse.get [] l.tx vl

/-- The lane served next: MGMT, then RSP, then COLL and REQ in turn; it has a flit and a credit. -/
def nextLane (l : LinkSt) : Option Nat :=
  let order : List Nat := if l.collLast then [3, 1, 0, 2] else [3, 1, 2, 0]
  order.find? fun v => txOf l v != [] && decide (0 < l.credits v)

/-- What a DATA flit takes of a lane. -/
structure Fill where
  bytes : List Byte
  /-- Offset of the first packet that begins in it; 127 when none does. -/
  sop : Nat
  serials : List Nat
  /-- What stays on the lane, and the receive buffer slots of packets sent whole. -/
  left : List TxPkt
  free : List HeldSlots

/-- Packets of a lane fill a flit one after another, from an offset on. -/
def fillFlit (off : Nat) : List TxPkt → Fill
  | [] => ⟨[], 127, [], [], []⟩
  | p :: rest =>
    if 118 ≤ off then ⟨[], 127, [], p :: rest, []⟩
    else
      let now := p.bytes.take (118 - off)
      let later := p.bytes.drop (118 - off)
      if later = [] then
        let r := fillFlit (off + now.length) rest
        ⟨now ++ r.bytes, if p.begun then r.sop else off, p.serial :: r.serials, r.left, p.back.toList ++ r.free⟩
      else ⟨now, if p.begun then 127 else off, [p.serial], { p with bytes := later, begun := true } :: rest, []⟩

/-- Receive buffer slots are free: their credits are owed to the peer (R303). -/
def oweSlots (b : HeldSlots) (s : State) : State :=
  s.modLink b.1 fun l => { l with owed := Sparse.set 0 l.owed b.2.1 (Sparse.get 0 l.owed b.2.1 + b.2.2) }

/-- One DATA flit of a lane: its packets' bytes back to back; what is left of the flit is padding (log 112). -/
def sendData (n vl : Nat) (s : State) : State :=
  let l := s.link n
  let f := fillFlit 0 (txOf l vl)
  if f.bytes = [] then s
  else
    let sent : SentFlit := ⟨l.nextFseq, vl, f.sop, f.bytes, f.serials⟩
    let s1 := s.modLink n fun l => { l with
      nextFseq := (l.nextFseq + 1) % 4096
      sent := l.sent ++ [sent]
      used := Sparse.set 0 l.used vl (Sparse.get 0 l.used vl + 1)
      collLast := if vl = 2 then true else if vl = 0 then false else l.collLast
      tx := Sparse.set [] l.tx vl f.left }
    putFlit n kindData vl sent.fseq f.sop f.bytes (f.free.foldl (fun s b => oweSlots b s) s1)

/-- The lanes for which a condition holds, each with the time since when, plus one. -/
def sinceWhen (now : Nat) (holds : Nat → Bool) (m : Sparse Nat) : Sparse Nat :=
  ([0, 1, 2, 3] : List Nat).foldl (fun m v =>
    if !holds v then Sparse.set 0 m v 0
    else if Sparse.get 0 m v = 0 then Sparse.set 0 m v (now + 1)
    else m) m

/-- Lanes without a credit are bare from now on, and dry where they hold a flit ready; others are not. -/
def noteDry (n : Nat) (s : State) : State :=
  s.modLink n fun l => { l with
    dry := sinceWhen s.now (fun v => txOf l v != [] && l.credits v == 0) l.dry
    bare := sinceWhen s.now (fun v => l.credits v == 0) l.bare }

def pumpFuel (n : Nat) : Nat → State → State
  | 0, s => s
  | fuel + 1, s =>
    let l := s.link n
    if l.sent.length ≥ 512 then s
    else match nextLane l with
      | none => s
      | some v => pumpFuel n fuel (sendData n v s)

/-- Flits a link's waiting packets need. -/
def LinkSt.backlog (l : LinkSt) : Nat :=
  (([0, 1, 2, 3] : List Nat).map fun v => ((txOf l v).map fun p => p.bytes.length / 118 + 1).sum).sum

/-- Everything that can be sent on a link is sent (R302, R303). -/
def pump (n : Nat) (s : State) : State :=
  let l := s.link n
  if l.mode = .up ∨ l.mode = .withdrawn then noteDry n (pumpFuel n l.backlog s) else s

/-! ## Packets (R304) -/

def typeWrite : Byte := 1
def typeWriteAck : Byte := 2
def typeUnreachable : Byte := 3
def typeColl : Byte := 4
def typeMgmt : Byte := 5

/-- Lane of a packet type (Table 14-7). -/
def laneOf (t : Byte) : Nat := if t = 1 then 0 else if t = 2 ∨ t = 3 then 1 else if t = 4 then 2 else 3

/-- The 24-byte header (Table 14-6) and the payload. -/
def packetBytes (p : Packet) : List Byte :=
  leBytes 8 (p.dst.toNat * 2 ^ 48 + p.src.toNat * 2 ^ 32 + p.typ.toNat * 2 ^ 24 + b2n p.ordered * 2 ^ 23
    + p.hops.toNat * 2 ^ 16 + p.payload.length)
  ++ leBytes 8 (p.poison.toNat * 2 ^ 32 + p.txn.toNat) ++ leBytes 8 p.arg.toNat ++ p.payload

/-- A packet from its bytes; its length is known from the header. -/
def packetOf (bs : List Byte) : Packet where
  dst := BitVec.ofNat 16 (leAt bs 6 2)
  src := BitVec.ofNat 16 (leAt bs 4 2)
  typ := BitVec.ofNat 8 (leAt bs 3 1)
  ordered := leAt bs 2 1 ≥ 128
  hops := BitVec.ofNat 7 (leAt bs 2 1)
  poison := BitVec.ofNat 32 (leAt bs 12 4)
  txn := BitVec.ofNat 32 (leAt bs 8 4)
  arg := BitVec.ofNat 64 (leAt bs 16 8)
  payload := (bs.drop 24).take (leAt bs 0 2)

/-- A packet goes to a link's lane, with the receive buffer slots it holds. -/
def sendHeld (n : Nat) (back : Option HeldSlots) (p : Packet) (s : State) : State :=
  pump n (s.modLink n fun l => { l with
    nextSerial := l.nextSerial + 1
    tx := Sparse.set [] l.tx (laneOf p.typ) (txOf l (laneOf p.typ) ++ [⟨l.nextSerial, packetBytes p, false, back⟩]) })

def sendOn (n : Nat) (p : Packet) (s : State) : State := sendHeld n none p s

/-- A link with nothing else to send sends an IDLE flit (R301). -/
def sendIdle (n : Nat) (s : State) : State :=
  let l := s.link n
  if l.mode = .up ∨ l.mode = .withdrawn then putFlit n kindIdle 0 l.nextFseq 127 [] s else s

/-- Every link of the set has had no credit on the lane for SPILL_NS. -/
def allDry (s : State) (vl : Nat) (set : List Nat) : Bool :=
  set.all fun n => let t := Sparse.get 0 (s.link n).bare vl
    t != 0 && decide (t - 1 + s.net.spillNs ≤ s.now)

/-- The link of the set with most free credits, the lowest number on ties. -/
def mostCredits (s : State) (vl : Nat) (set : List Nat) : Nat :=
  set.foldl (fun b n => if (s.link n).credits vl > (s.link b).credits vl then n else b) (set.headD 0)

/-- The link a packet leaves on, or none when it is dropped (route of R307). -/
def pickLink (p : Packet) (s : State) : Option Nat :=
  let e := s.route p.dst.toNat
  let vl := laneOf p.typ
  if !e.valid || e.unreach || p.hops == 0 then none
  else
    let up := upLinks s
    let prim := up.filter fun n => e.prim.getLsbD n
    let sec := up.filter fun n => e.sec.getLsbD n
    let set := if (prim = [] ∨ (!p.ordered ∧ allDry s vl prim)) ∧ sec ≠ [] then sec else prim
    if set = [] then none
    else if p.ordered then
      let h := (p.src.toNat ^^^ p.dst.toNat ^^^ vl) % set.length
      some (set.getD h 0)
    else some (mostCredits s vl set)

def noteDrop (s : State) : State := raiseEv srcLnk evDrop (count dropCount 1 s)

/-- A packet that is not for this node: sent on, or dropped and counted; true when it was sent. -/
def forward (back : Option HeldSlots) (p : Packet) (s : State) : Bool × State :=
  match pickLink p s with
  | some n => (true, sendHeld n back { p with hops := p.hops - 1 } s)
  | none => (false, noteDrop s)

/-- A packet of this package. A package without a node ID sends nothing (R306). -/
def sendPacket (p : Packet) (s : State) : Bool × State :=
  if s.node = 0xFFFF then (false, s) else forward none p s

def mkPacket (s : State) (dst : NodeId) (typ : Byte) (ordered : Bool) (txn : BitVec 32) (arg : Nat)
    (poison : BitVec 32) (payload : List Byte) : Packet :=
  ⟨dst, s.node, typ, ordered, 64, poison, txn, w64 arg, payload⟩

/-- A MGMT packet of a class to a node. -/
def sendMgmt (dst : NodeId) (cls : Nat) (payload : List Byte) (s : State) : State :=
  (sendPacket (mkPacket s dst typeMgmt true 0 cls 0 payload) s).2

/-! ## Permit messages (16 Table 16-4) -/

def int32 (v : Int) : Nat := wrapNat 32 v

def permitBytes (kind : Byte) (m : PermitMsg) : List Byte :=
  leBytes 8 (kind.toNat * 2 ^ 56 + 2 ^ 48 + m.pgroup.toNat * 2 ^ 32 + m.seq.toNat)
  ++ leBytes 8 m.time ++ leBytes 8 (m.level * 2 ^ 32 + int32 m.amount)
  ++ leBytes 8 (m.slope * 2 ^ 32 + m.dutyCap * 2 ^ 24 + m.cause.toNat * 2 ^ 16 + m.flags.toNat)
  ++ leBytes 8 (m.floorW * 2 ^ 32 + m.ceilingW) ++ leBytes 8 (m.workW * 2 ^ 32 + m.ballastW)
  ++ leBytes 8 (m.epoch.toNat * 2 ^ 32 + m.refSeq.toNat) ++ leBytes 8 0

/-- The kind and message of a permit packet's payload. -/
def permitOf (src : NodeId) (bs : List Byte) : Byte × PermitMsg :=
  (BitVec.ofNat 8 (leAt bs 7 1),
   { src := src
     pgroup := BitVec.ofNat 16 (leAt bs 4 2)
     seq := BitVec.ofNat 32 (leAt bs 0 4)
     time := leAt bs 8 8
     level := leAt bs 20 4
     amount := sext 32 (leAt bs 16 4)
     slope := leAt bs 28 4
     dutyCap := leAt bs 27 1
     cause := BitVec.ofNat 8 (leAt bs 26 1)
     flags := BitVec.ofNat 16 (leAt bs 24 2)
     floorW := leAt bs 36 4
     ceilingW := leAt bs 32 4
     workW := leAt bs 44 4
     ballastW := leAt bs 40 4
     epoch := BitVec.ofNat 32 (leAt bs 52 4)
     refSeq := BitVec.ofNat 32 (leAt bs 48 4) })

/-- A permit message leaves as a MGMT packet of class 0x04 (16 R351). -/
def sendPermitPkt (dst : NodeId) (kind : Byte) (m : PermitMsg) (s : State) : State :=
  sendMgmt dst 4 (permitBytes kind m) s

/-! ## Links going down (R309) -/

/-- Serial numbers of packets with flits unacknowledged or unsent on a link. -/
def LinkSt.inFlight (l : LinkSt) : List Nat :=
  (l.sent.flatMap (·.serials) ++ (([0, 1, 2, 3] : List Nat).flatMap fun v => (txOf l v).map (·.serial))).eraseDups

/-- A link loses its traffic: its waiting packets free the receive buffer slots they hold elsewhere, and no packet
holds slots of it any more. -/
def dropTraffic (n : Nat) (s : State) : State :=
  let free := ([0, 1, 2, 3] : List Nat).flatMap fun v => (txOf (s.link n) v).filterMap (·.back)
  let keep (p : TxPkt) : TxPkt := match p.back with
    | some b => if b.1 = n then { p with back := none } else p
    | none => p
  let clean (l : LinkSt) : LinkSt := { l with tx := l.tx.map fun e => (e.1, e.2.map keep) }
  let s1 := s.modNet fun t => { t with links := t.links.map fun e => (e.1, clean e.2) }
  (free.foldl (fun s b => oweSlots b s) s1).modLink n fun l => { l with
    nextFseq := 0, expect := 0, retryAt := none, tx := [], sent := [], used := [], owed := [], dry := [], bare := []
    rx := [], rxHeld := [], replays := [], withdrawing := none, peerWithdrew := false, ackSent := false }

/-- A link goes DOWN: out of up_mask, its packets discarded and counted, the cause recorded. -/
def linkGoesDown (n : Nat) (cause : Byte) (s : State) : State :=
  let l := s.link n
  if l.mode = .down ∨ l.mode = .disabled ∨ l.mode = .ethernet then s
  else
    let s1 := (dropTraffic n s).modLink n fun l => { l with
      mode := .down, cause := cause, downAt := s.now, gen := 0, lastTry := s.now, train := none }
    raiseArg srcLnk evLinkDown (w64 n) (count (lostPacketCount n) l.inFlight.length s1)

end Sys2Proof.Machine
end

