-- ==== Sys2Proof/Machine/Envelope.lean ====
section
/-! DEFINITION. The load envelope (spec 16): the held level and its ramps, Sluice, permit messages,
Stewards and what a member does when its Steward or another member is lost. -/

namespace Sys2Proof.Machine

def slotNs : Nat := 1000000
def slotOf (t : Nat) : Nat := t / slotNs

def envCtr (off : Nat) : Nat := 0x301000 + off
def permitWaitCount : Nat := envCtr 0x100
def permitWaitNs : Nat := envCtr 0x108
def grantCount : Nat := envCtr 0x110
def ballastMilliJ : Nat := envCtr 0x118
def shortMilliJ : Nat := envCtr 0x120
def holdNs : Nat := envCtr 0x128

def evLossCover : Nat := 0
def evPermitWait : Nat := 1
def evPaced : Nat := 2
def evBallastShort : Nat := 3
def evStewardLost : Nat := 4

/-- Permit message kinds (Table 16-5). -/
def kindRequest : Byte := 1
def kindGrant : Byte := 2
def kindReport : Byte := 3
def kindEnvelope : Byte := 4
def kindHeartbeat : Byte := 5
def kindExcursion : Byte := 6
def kindSnapshot : Byte := 7
def kindClaim : Byte := 8

def flagUp : BitVec 16 := 1
def flagUrgent : BitVec 16 := 2
def flagHold : BitVec 16 := 4
def flagCover : BitVec 16 := 8
def flagLost : BitVec 16 := 16

/-! ## The effective ceiling and the planned level -/

/-- C_eff: the guard band of R365 and of R371 applied to C. -/
def effC (s : State) : Nat :=
  if s.pwr.wh ≠ .trusted ∨ s.pwr.overUntil.isSome then s.env.ceilW * 95 / 100 else s.env.ceilW

def Ramp.left (r : Ramp) : Int := r.amount - r.applied

/-- H as it will stand at the end of every ramp granted (R347). -/
def planned (s : State) : Int := (s.env.level : Int) + (s.env.ramps.map Ramp.left).sum

/-- The planned level once every down request outstanding is granted too. -/
def plannedLow (s : State) : Int := planned s + ((s.env.asks.filter (·.down)).map (·.msg.amount)).sum

/-- What a ramp has changed by time t: whole slots, and the steps k of 100 of the present one (R341). -/
def Ramp.upTo (r : Ramp) (t : Nat) : Int :=
  if slotOf t < r.first then 0
  else
    let total := r.amount.natAbs
    let whole := min total (r.slope * (slotOf t - r.first))
    let c := min r.slope (total - whole)
    let done := whole + c * (t % slotNs / 10000 + 1) / 100
    if r.amount < 0 then -(done : Int) else done

/-- First slot after a ramp. -/
def Ramp.ends (r : Ramp) : Nat := r.first + (r.amount.natAbs + r.slope - 1) / max r.slope 1

/-- Combined slope of the ramps in force in slot k (R349). -/
def slopeIn (rs : List Ramp) (k : Nat) : Nat :=
  ((rs.filter fun r => r.first ≤ k && k < r.ends).map (·.slope)).sum

/-- First slot from k on in which at least 1 W/ms is left under S. -/
def freeSlot (sMax : Nat) (rs : List Ramp) : Nat → Nat → Nat
  | 0, k => k
  | fuel + 1, k => if slopeIn rs k < sMax then k else freeSlot sMax rs fuel (k + 1)

/-- STANDALONE: the request is granted at once (R349). -/
def selfGrant (amount : Int) (window : Bool) (s : State) : State :=
  let e := s.env
  let last := e.ramps.foldl (fun m r => max m r.ends) 0
  let k0 := slotOf s.now + 1
  let k := freeSlot e.slope e.ramps (last - k0) k0
  let sl := e.slope - slopeIn e.ramps k
  count grantCount 1 (s.modEnv fun e => { e with
    ramps := e.ramps ++ [{ amount := amount, slope := sl, first := k, window := window }] })

/-! ## Messages -/

/-- A message of this package: its fields that state what the sender is. -/
def permitMsg (s : State) : PermitMsg where
  src := s.node
  pgroup := s.env.pgroup
  seq := s.env.nextSeq
  time := s.now
  level := s.env.level
  amount := 0
  slope := s.env.slope
  dutyCap := 64
  cause := 0
  flags := 0
  floorW := s.env.floorW
  ceilingW := s.env.ceilW
  workW := s.env.workDw / 10
  ballastW := s.env.ballastDw / 10
  epoch := s.env.epoch
  refSeq := 0

/-- The sender's next message number is used up. -/
def bumpSeq (s : State) : State := s.modEnv fun e => { e with nextSeq := e.nextSeq + 1 }

def State.memberRec (s : State) (n : NodeId) : MemberRec := Sparse.get {} s.stew.recs n.toNat
def State.modRec (s : State) (n : NodeId) (f : MemberRec → MemberRec) : State :=
  s.modStew fun w => { w with recs := Sparse.set {} w.recs n.toNat (f (s.memberRec n)) }

def isSteward (s : State) : Bool := s.env.role == 1 || s.env.role == 3

/-- A request enters the Steward's queue (R352); the same request is held once. -/
def stewardRequest (m : PermitMsg) (s : State) : State :=
  if isSteward s && s.stew.list.contains m.src && m.pgroup == s.env.pgroup
      && !(s.stew.queue.any fun q => q.src == m.src && q.seq == m.seq) then
    (s.modStew fun w => { w with queue := w.queue ++ [m] }).modRec m.src fun r => { r with
      waiting := r.waiting + m.amount.natAbs }
  else s

/-- Effect of a REPORT on pacing bookkeeping: since when the member reports a duty below its sets'
duty, or no throttle (R354). -/
def reportPace (cap now : Nat) (m : PermitMsg) (r : MemberRec) : MemberRec :=
  { r with
    below := if m.dutyCap < cap then (match r.below with | some t => some t | none => some now) else none
    clear := if m.dutyCap = 64 then (match r.clear with | some t => some t | none => some now) else none }

/-- The lowest duty cap of the pace sets that name a member. -/
def setDuty (s : State) (n : NodeId) : Nat :=
  (s.stew.sets.filter fun e => e.2.members.contains n).foldl (fun m e => min m e.2.cap) 64

/-- A member's REPORT recorded (R354, R357). -/
def stewardReport (m : PermitMsg) (s : State) : State :=
  if (isSteward s || s.env.role == 2) && s.stew.list.contains m.src then
    s.modRec m.src fun r => reportPace (setDuty s m.src) s.now m { r with
      level := m.level, floorW := m.floorW, slope := m.slope, dutyCap := m.dutyCap, cause := m.cause
      waiting := m.amount.natAbs, epoch := m.epoch, reported := some s.now, lost := false }
  else s

/-- What a granted ramp still has to change after slot k, and what it changes in slot k. -/
def SRamp.changeIn (r : SRamp) (k : Nat) : Int :=
  if k < r.first then 0
  else
    let total := r.amount.natAbs
    let c := min r.slope (total - min total (r.slope * (k - r.first)))
    if r.amount < 0 then -(c : Int) else c

def SRamp.leftFrom (r : SRamp) (k : Nat) : Int :=
  if k < r.first then r.amount
  else
    let total := r.amount.natAbs
    let c := total - min total (r.slope * (k - r.first))
    if r.amount < 0 then -(c : Int) else c

/-- A member's level at the end of its ramps, as the Steward knows it. -/
def memberEnd (s : State) (n : NodeId) : Int :=
  ((s.memberRec n).level : Int)
    + ((s.stew.ramps.filter (·.node == n)).map fun r => r.leftFrom (slotOf s.now)).sum

/-- Covers the loss of a member (R358): urgent up requests of the survivors. -/
def coverLoss (n : NodeId) (s : State) : State :=
  if !isSteward s || !s.stew.list.contains n || (s.memberRec n).lost then s
  else
    let lvl := (s.memberRec n).level
    let s1 := s.modRec n fun r => { r with lost := true }
    let s1 := s1.modStew fun w => { w with queue := w.queue.filter fun q => q.src != n }
    if !s.stew.lossCover || s.env.role == 3 then s1
    else
      let alive := s1.stew.list.filter fun x => !(s1.memberRec x).lost
      let k := alive.length
      let ix := (List.range k).zip alive
      let reqs := ix.filterMap fun p =>
        let share : Nat := lvl / max k 1 + (if p.1 < lvl % max k 1 then 1 else 0)
        let room : Int := (s1.stew.memC : Int) - memberEnd s1 p.2
        let a : Int := min (share : Int) room
        if a < 1 then none
        else
          let sl := (s1.memberRec p.2).slope
          some { permitMsg s1 with src := p.2, amount := a, flags := flagUp ||| flagUrgent ||| flagCover
                                   slope := if sl = 0 then s1.stew.memS else sl }
      raiseEv srcEnv evLossCover (s1.modStew fun w => { w with queue := w.queue ++ reqs })

/-- The Steward records an EXCURSION (R357, R359). -/
def stewardExcursion (m : PermitMsg) (s : State) : State :=
  if isSteward s && s.stew.list.contains m.src then
    let s1 := s.modStew fun w => { w with
      excursions := w.excursions ++ [m]
      passOn := if m.cause = 4 ∨ m.cause = 6 then m.cause else w.passOn }
    if (m.flags &&& flagLost) ≠ 0 then coverLoss m.src s1 else s1
  else s

/-- A message to a Steward or standby: sent, or taken here where this package is the receiver. -/
def sendUp (dst : NodeId) (kind : Byte) (m : PermitMsg) (s : State) : State :=
  let s1 := bumpSeq s
  if dst = s.node then
    if kind = kindRequest then stewardRequest m s1
    else if kind = kindReport then stewardReport m s1
    else if kind = kindExcursion then stewardExcursion m s1
    else s1
  else if dst = 0xFFFF ∨ !s.boot.fwReady then s1
  else sendPermitPkt dst kind m s1

/-- An EXCURSION to the Steward (Table 16-5); PWR_ENV_STATUS keeps its cause. -/
def excursion (cause : Byte) (lost : Bool) (s : State) : State :=
  let s1 := s.modEnv fun e => { e with cause := cause }
  if s1.env.member || isSteward s1 then
    sendUp s1.env.steward kindExcursion
      { permitMsg s1 with cause := cause, flags := if lost then flagLost else 0 } s1
  else s1

/-- A request of a MEMBER goes to its Steward and stays outstanding. -/
def askSteward (amount : Int) (down urgent window : Bool) (s : State) : State :=
  let m := { permitMsg s with
    amount := amount
    flags := (if down then 0 else flagUp) ||| (if urgent then flagUrgent else 0) }
  sendUp s.env.steward kindRequest m
    (s.modEnv fun e => { e with asks := e.asks ++ [⟨m, down, window, s.now⟩] })

/-- An up request of a whole number of watts, kept within C_eff. -/
def requestUp (amount : Int) (s : State) : State :=
  let a := min amount ((effC s : Int) - planned s)
  if a < 1 then s
  else if s.env.member then askSteward a false false false s
  else selfGrant a false s

/-- A down request, kept above F with those outstanding. -/
def requestDown (amount : Int) (urgent window : Bool) (s : State) : State :=
  let a := min amount (plannedLow s - (s.env.floorW : Int))
  if a < 1 then s
  else if s.env.member then askSteward (-a) true urgent window s
  else selfGrant (-a) window s

/-! ## Sluice (R345-R347) -/

def liveResv (s : State) : Nat := ((s.env.resv.filter fun r => s.now < r.2).map Prod.fst).sum

/-- W + R + d ≤ H; a start that does not fit even then is granted once H reaches C. -/
def fits (d : Nat) (s : State) : Bool :=
  decide (s.env.workDw + 10 * (liveResv s + d) ≤ 10 * s.env.level) || decide (effC s ≤ s.env.level)

def reserve (d : Nat) (s : State) : State :=
  s.modEnv fun e => { e with resv := e.resv ++ [(d, s.now + 1000000)] }

def upOutstanding (s : State) : Bool := s.env.asks.any fun a => !a.down

/-- The excess of W + R and the demands of every waiting start over the planned level, in whole watts. -/
def shortfall (extra : Nat) (s : State) : Int :=
  let need := (s.env.workDw + 9) / 10 + liveResv s + (s.env.starts.map (·.demand)).sum + extra
  (need : Int) - planned s

/-- Keeps one up request outstanding while a start waits (R347). -/
def sluiceAsk (s : State) : State :=
  if s.env.starts = [] ∨ upOutstanding s then s else requestUp (shortfall 0 s) s

/-- A start reaches Sluice: granted, or it waits in order of arrival (R345, R346). -/
def sluice (id : StartId) (d : Nat) (s : State) : Bool × State :=
  if s.env.starts = [] ∧ fits d s then (true, reserve d s)
  else
    let s1 := s.modEnv fun e => { e with starts := e.starts ++ [⟨id, d⟩] }
    (false, sluiceAsk (raiseEv srcEnv evPermitWait (count permitWaitCount 1 s1)))

/-- The first waiting start, if it fits now, leaves the queue granted. -/
def sluiceNext (s : State) : Option Start × State :=
  match s.env.starts with
  | [] => (none, s)
  | x :: rest =>
    if fits x.demand s then (some x, reserve x.demand (s.modEnv fun e => { e with starts := rest }))
    else (none, s)

/-- A waiting start given up (10 R242). -/
def sluiceDrop (id : StartId) (s : State) : State :=
  s.modEnv fun e => { e with starts := e.starts.filter fun x => x.id != id }

/-- Demand of a stream start: the learnt rise of its tag, or Table 16-3 (R345, R369). -/
def streamDemand (tag arrays vectors : Nat) (s : State) : Nat :=
  let t := Sparse.get {} s.pwr.tags tag
  let perDw := if t.samples ≥ 64 then
      (let n := t.array / 4096 + t.mem / 4096
       if s.pwr.fixedRate then n * 52 / 64 else n)
    else 450
  (perDw * arrays + 9) / 10 + 14 * vectors

/-- Demand of a descriptor start on an idle engine (Table 16-3). -/
def engineDemand (code : Nat) : Nat :=
  if code < 0x40 then 4 else if code < 0x42 then 40 else if code < 0x44 then 30 else 10

/-! ## What a member does with messages -/

def accepts (m : PermitMsg) (s : State) : Bool :=
  !s.env.seen.contains (m.src, m.seq) && decide (s.env.epoch.toNat ≤ m.epoch.toNat)

def noteSeen (m : PermitMsg) (s : State) : State :=
  s.modEnv fun e => { e with seen := e.seen ++ [(m.src, m.seq)] }

/-- A GRANT begins a ramp at its first slot, or at once when that slot has begun (R352). -/
def memberGrant (m : PermitMsg) (s : State) : State :=
  let cover := (m.flags &&& flagCover) ≠ 0
  let ask := s.env.asks.find? fun a => a.msg.seq == m.refSeq
  if cover || ask.isSome then
    let r : Ramp := { amount := m.amount, slope := m.slope, first := max m.time (slotOf s.now), cover := cover
                      window := match ask with | some a => a.window | none => false }
    sluiceAsk (count grantCount 1 (s.modEnv fun e => { e with
      ramps := e.ramps ++ [r]
      asks := if cover then e.asks else e.asks.filter fun a => a.msg.seq != m.refSeq }))
  else s

/-- F, C and S in force; a lowered C asks down urgently, a floor above the level asks up. -/
def setLimits (f c sl : Nat) (s : State) : State :=
  let lowered := c < s.env.ceilW
  let s1 := s.modEnv fun e => { e with floorW := f, ceilW := c, slope := sl }
  let s2 := if lowered then requestDown (plannedLow s1 - (effC s1 : Int)) true false s1 else s1
  sluiceAsk (if planned s2 < (f : Int) then requestUp ((f : Int) - planned s2) s2 else s2)

/-- An ENVELOPE at a member, or a head Steward's share at a Steward (R350, R353, R354). -/
def memberEnvelope (m : PermitMsg) (s : State) : State :=
  if s.env.role = 1 ∧ m.src = s.stew.head then s.modStew fun w => { w with sg := m.slope }
  else if s.env.member ∧ m.src = s.env.steward then
    let s1 := setLimits m.floorW m.ceilingW m.slope s
    let s2 := s1.modEnv fun e => { e with pace := m.dutyCap }
    if m.dutyCap < 64 then raiseEv srcEnv evPaced s2 else s2
  else s

/-- A HEARTBEAT keeps the Steward in force. -/
def memberHeartbeat (m : PermitMsg) (s : State) : State :=
  if m.src = s.env.steward then s.modEnv fun e => { e with lastBeat := s.now, epoch := m.epoch } else s

/-- Requests outstanding go again, unchanged (R351, R355). -/
def resendAsks (p : Ask → Bool) (s : State) : State :=
  (s.env.asks.filter p).foldl (fun s a =>
    if s.env.steward = s.node then stewardRequest a.msg s
    else sendPermitPkt s.env.steward kindRequest a.msg s)
    (s.modEnv fun e => { e with asks := e.asks.map fun a => if p a then { a with sent := s.now } else a })

/-- A CLAIM with a higher epoch names the Steward in force and ends HOLD (R355). -/
def memberClaim (m : PermitMsg) (s : State) : State :=
  if s.env.member ∧ s.env.epoch.toNat < m.epoch.toNat then
    resendAsks (fun _ => true) (s.modEnv fun e => { e with
      steward := m.src, epoch := m.epoch, hold := false, lastBeat := s.now })
  else s

/-- A message of a Steward to a member: sent, or taken here where the Steward is that member. -/
def sendDown (dst : NodeId) (kind : Byte) (m : PermitMsg) (s : State) : State :=
  let s1 := bumpSeq s
  if dst = s.node then
    if kind = kindGrant then memberGrant m s1
    else if kind = kindEnvelope then memberEnvelope m s1
    else if kind = kindHeartbeat then memberHeartbeat m s1
    else if kind = kindClaim then memberClaim m s1
    else s1
  else if !s.boot.fwReady then s1
  else sendPermitPkt dst kind m s1

/-! ## The Steward's work -/

/-- ENVELOPE of a member: the group's F and what loss cover added, C, S and its pace cap. -/
def sendEnvelope (n : NodeId) (s : State) : State :=
  sendDown n kindEnvelope { permitMsg s with
    floorW := s.stew.memF + (s.memberRec n).extra, ceilingW := s.stew.memC, slope := s.stew.memS
    dutyCap := setDuty s n } s

def sendEnvelopes (s : State) : State := s.stew.list.foldl (fun s n => sendEnvelope n s) s

/-- Order of waiting requests: urgent first, then TIME, then node ID (R352). -/
def before (a b : PermitMsg) : Bool :=
  let u (m : PermitMsg) : Nat := if (m.flags &&& flagUrgent) ≠ 0 then 0 else 1
  u a < u b || (u a == u b && (a.time < b.time || (a.time == b.time && a.src.toNat < b.src.toNat)))

def insertReq (m : PermitMsg) : List PermitMsg → List PermitMsg
  | [] => [m]
  | x :: xs => if before m x then m :: x :: xs else x :: insertReq m xs

def sortReqs (l : List PermitMsg) : List PermitMsg := l.foldl (fun acc m => insertReq m acc) []

/-- One direction of the slot's evaluation (steward_slot of R352). -/
def grantDir (down : Bool) (k : Nat) : List PermitMsg → Int → Int → State → Int × Int × State
  | [], net, plan, s => (net, plan, s)
  | q :: qs, net, plan, s =>
    let room : Int := if down then s.stew.sg + net else s.stew.sg - net
    let a : Int := if down then q.amount.natAbs else min (q.amount.natAbs : Int) ((s.stew.cg : Int) - plan)
    let sl : Int := min (q.slope : Int) room
    if sl < 1 ∨ a < 1 then (net, plan, s)
    else
      let signed : Int := if down then -a else a
      let step : Int := min sl a
      let cover := (q.flags &&& flagCover) ≠ 0
      let s1 := s.modStew fun w => { w with
        queue := w.queue.filter fun x => !(x.src == q.src && x.seq == q.seq && x.flags == q.flags)
        ramps := w.ramps ++ [⟨q.src, signed, sl.toNat, k + 1, cover⟩] }
      let s2 := sendDown q.src kindGrant { permitMsg s1 with
        time := k + 1, amount := signed, slope := sl.toNat, refSeq := q.seq
        flags := q.flags } s1
      grantDir down k qs (if down then net - step else net + step) (if down then plan - a else plan + a) s2

/-- Granted ramps that have ended leave the list; a cover ramp has raised its member's floor. -/
def pruneRamps (k : Nat) (s : State) : State :=
  let ended := s.stew.ramps.filter fun r => r.leftFrom k == 0
  let s1 := (ended.filter (·.cover)).foldl (fun s r => s.modRec r.node fun x => { x with
    extra := x.extra + r.amount.natAbs }) s
  s1.modStew fun w => { w with ramps := w.ramps.filter fun r => r.leftFrom k != 0 }

/-- The evaluation of slot k (R352). -/
def stewardSlot (k : Nat) (s : State) : State :=
  let s := (pruneRamps k s).modStew fun w => { w with lastSlot := k + 1 }
  let net := (s.stew.ramps.map fun r => r.changeIn (k + 1)).sum
  let plan := ((s.stew.list.filter fun n => !(s.memberRec n).lost).map (memberEnd s)).sum
  let sorted := sortReqs s.stew.queue
  let (net, plan, s) := grantDir true k (sorted.filter fun q => (q.flags &&& flagUp) == 0) net plan s
  (grantDir false k (sorted.filter fun q => (q.flags &&& flagUp) != 0) net plan s).2.2

/-- Shares of a head Steward (R353): 1 W/ms each, the rest in proportion to the amounts waiting, what
rounding leaves to the first in list order. -/
def headShares (sg : Nat) (wait : List Nat) : List Nat :=
  let n := wait.length
  let rest := sg - n
  let total := wait.sum
  let base := wait.map fun w => 1 + (if total = 0 then rest / max n 1 else rest * w / total)
  let overs := sg - base.sum
  ((List.range n).zip base).map fun p => p.2 + overs / max n 1 + (if p.1 < overs % max n 1 then 1 else 0)

/-- The standby takes the role (R355, R356). -/
def claimRole (s : State) : State :=
  let snap := s.stew.snap.getD ⟨[], [], []⟩
  let s1 := (s.modStew fun w => { w with
      queue := snap.queue
      ramps := snap.ramps.map fun r => ⟨r.1, r.2.1, r.2.2.1, r.2.2.2.1, r.2.2.2.2⟩
      snap := none, finalSnap := false, handing := false }).modEnv fun e => { e with
      role := 1, epoch := e.epoch + 1, steward := s.node, hold := false, lastBeat := s.now }
  let s2 := snap.floors.foldl (fun s f => s.modRec f.1 fun r => { r with floorW := f.2 }) s1
  s2.stew.list.foldl (fun s n => if n = s.node then s else sendDown n kindClaim (permitMsg s) s)
    (resendAsks (fun _ => true) s2)

/-- What a SNAPSHOT carries (Table 16-5). -/
def snapBody (s : State) : SnapBody where
  queue := s.stew.queue
  ramps := s.stew.ramps.map fun r => (r.node, r.amount, r.slope, r.first, r.cover)
  floors := s.stew.list.map fun n => (n, (s.memberRec n).floorW)

/-- A SNAPSHOT to the standby: its permit message as a packet of class 0x04 (R351), and with it the queue, ramps and
floors, for which no layout is stated (log 113). -/
def sendSnapshot (final : Bool) (s : State) : State :=
  if s.env.standby = 0xFFFF then s
  else
    let m : PermitMsg := { permitMsg s with flags := if final then flagHold else 0 }
    emit (.snapshot s.env.standby m (snapBody s)) (sendPermitPkt s.env.standby kindSnapshot m (bumpSeq s))

/-- The Steward is lost: a member enters HOLD (R355). -/
def enterHold (s : State) : State :=
  if s.env.member ∧ !s.env.hold then
    raiseEv srcEnv evStewardLost (s.modEnv fun e => { e with hold := true })
  else s

/-- NODE_DOWN for a node, as the envelope sees it (R355, R357). -/
def envNodeDown (n : NodeId) (s : State) : State :=
  let s1 := if s.env.member ∧ n = s.env.steward ∧ s.env.role ≠ 2 then enterHold s else s
  let s2 := if s1.env.role = 2 ∧ n = s1.env.steward then claimRole s1 else s1
  coverLoss n s2

/-! ## Commands -/

/-- RAMP_STEP (R341): every step due by now is applied to H. -/
def execRampStep (s : State) : Host.Outcome State Fault Refusal :=
  if !powered s then .next s else
  let now := s.now
  let delta := (s.env.ramps.map fun r => r.upTo now - r.applied).sum
  let coverDelta := ((s.env.ramps.filter (·.cover)).map fun r => r.upTo now - r.applied).sum
  let rs := s.env.ramps.map fun r => { r with applied := r.upTo now }
  let windowEnded := rs.any fun r => r.window && r.left == 0
  .next (s.modEnv fun e => { e with
    level := ((e.level : Int) + delta).toNat
    floorW := ((e.floorW : Int) + coverDelta).toNat
    ramps := rs.filter fun r => r.left != 0
    window := if windowEnded then [] else e.window })

/-- RESERVATION_EXPIRY (R345). -/
def execReservationExpiry (s : State) : Host.Outcome State Fault Refusal :=
  if !powered s then .next s else
  .next (s.modEnv fun e => { e with resv := e.resv.filter fun r => s.now < r.2 })

/-- HELD_BELOW_NEED (R347): work held below its need for 1 ms for lack of H. -/
def execHeldBelowNeed (needW : Nat) (s : State) : Host.Outcome State Fault Refusal :=
  if !powered s then .next s else
  .next (match s.pwr.heldSince with
    | some t => if t + 1000000 ≤ s.now ∧ !upOutstanding s then
        requestUp (shortfall needW s) (s.modPwr fun p => { p with heldSince := some s.now })
      else s
    | none => s)

/-- DOWN_REQUEST (R348): the mean of the counted ballast exceeds the margin over at least half the
window, no start waits, and no such ramp is outstanding or running. -/
def execDownRequest (s : State) : Host.Outcome State Fault Refusal :=
  if !powered s then .next s else
  let e := s.env
  let span := e.delayMs * 1000000
  let xs := e.window.filter fun x => s.now < x.1 + span
  let n := xs.length
  let sum := (xs.map Prod.snd).sum
  .next (if 2 * (n * 10000) ≥ span ∧ sum > 10 * e.marginW * n ∧ e.starts = []
      ∧ !(e.asks.any (·.window)) ∧ !(e.ramps.any (·.window)) then
    requestDown ((sum / (10 * max n 1) : Nat) - (e.marginW / 2 : Nat) : Int) false true s
  else s)

/-- Ballast has become short: event, EXCURSION and the urgent down request (R344). -/
def beginShort (holdW : Nat) (s : State) : State :=
  let s1 := excursion 5 false (raiseEv srcEnv evBallastShort (s.modEnv fun e => { e with short := true }))
  requestDown (plannedLow s1 - (max s.env.floorW holdW : Nat)) true false s1

/-- BALLAST_SHORT (R344): the energy not covered is counted for as long as ballast stays short. -/
def execBallastShort (holdW milliJ : Nat) (s : State) : Host.Outcome State Fault Refusal :=
  if !powered s then .next s else
  .next (if holdW + 40 < s.env.level then
    let s1 := count shortMilliJ milliJ s
    if s.env.short then s1 else beginShort holdW s1
  else s)

/-- STEWARD_SLOT (R352): at 500 us into a slot, once. -/
def execStewardSlot (s : State) : Host.Outcome State Fault Refusal :=
  let k := slotOf s.now
  .next (if fwRoles s ∧ s.env.role = 1 ∧ !s.stew.handing ∧ s.now % slotNs ≥ 500000 ∧ s.stew.lastSlot < k + 1 then
    stewardSlot k s
  else s)

/-- A received message is taken once, with an epoch not below the one held (R351), by a firmware that serves permit
messages (19 Table 19-10, log 116). -/
def receive (m : PermitMsg) (f : State → State) (s : State) : Host.Outcome State Fault Refusal :=
  .next (if fwRoles s && accepts m s then f (noteSeen m s) else s)

/-- REQUEST (R352). -/
def execRequest (m : PermitMsg) (s : State) : Host.Outcome State Fault Refusal :=
  receive m (stewardRequest m) s

/-- GRANT (R352). -/
def execGrant (m : PermitMsg) (s : State) : Host.Outcome State Fault Refusal :=
  receive m (fun s => if s.env.member ∧ m.src = s.env.steward then memberGrant m s else s) s

/-- A Steward's epoch lies above every member's (R356): a REPORT with a higher one makes it claim again. -/
def raiseEpoch (m : PermitMsg) (s : State) : State :=
  if isSteward s ∧ s.stew.list.contains m.src ∧ s.env.epoch.toNat < m.epoch.toNat then
    let s1 := s.modEnv fun e => { e with epoch := m.epoch + 1 }
    s1.stew.list.foldl (fun s n => if n = s.node then s else sendDown n kindClaim (permitMsg s) s) s1
  else s

/-- REPORT (R354): also a standby receives it. -/
def execReport (m : PermitMsg) (s : State) : Host.Outcome State Fault Refusal :=
  receive m (fun s => raiseEpoch m (stewardReport m s)) s

/-- ENVELOPE (R350). -/
def execEnvelope (m : PermitMsg) (s : State) : Host.Outcome State Fault Refusal :=
  receive m (memberEnvelope m) s

/-- HEARTBEAT (R355). -/
def execHeartbeat (m : PermitMsg) (s : State) : Host.Outcome State Fault Refusal :=
  receive m (memberHeartbeat m) s

/-- EXCURSION (R359). -/
def execExcursion (m : PermitMsg) (s : State) : Host.Outcome State Fault Refusal :=
  receive m (stewardExcursion m) s

/-- SNAPSHOT (R355): the standby keeps it; a final one, marked HOLD, is claimed at the next slot (R356). -/
def execSnapshot (m : PermitMsg) (body : SnapBody) (s : State) : Host.Outcome State Fault Refusal :=
  receive m (fun s =>
    if s.env.role = 2 ∧ m.src = s.env.steward then
      (s.modStew fun w => { w with snap := some body, lastSnap := s.now
                                   finalSnap := (m.flags &&& flagHold) ≠ 0 }).modEnv fun e => { e with epoch := m.epoch }
    else s) s

/-- REPORT_INTERVAL (R351): every 10 ms to the Steward and the standby. -/
def execReportInterval (s : State) : Host.Outcome State Fault Refusal :=
  .next (if fwRoles s ∧ s.env.member ∧ s.env.lastReport + 10000000 ≤ s.now then
    let waiting := (s.env.asks.map fun a => a.msg.amount.natAbs).sum
    let groupWait := (s.stew.queue.map fun q => q.amount.natAbs).sum
    let m (s : State) : PermitMsg := { permitMsg s with
      dutyCap := s.pwr.throttle, cause := s.pwr.throttleCause, amount := waiting }
    let s1 := s.modEnv fun e => { e with lastReport := s.now }
    let s2 := sendUp s1.env.steward kindReport (m s1) s1
    let s3 := if s2.env.standby = 0xFFFF ∨ s2.env.standby = s2.node then s2
      else sendUp s2.env.standby kindReport (m s2) s2
    if s3.env.role = 1 ∧ s3.stew.head ≠ 0xFFFF then
      (sendUp s3.stew.head kindReport { m s3 with amount := groupWait, cause := s3.stew.passOn } s3).modStew
        fun w => { w with passOn := 0 }
    else s3
  else s)

/-- HEARTBEAT_INTERVAL (R351). -/
def execHeartbeatInterval (s : State) : Host.Outcome State Fault Refusal :=
  .next (if fwRoles s ∧ isSteward s ∧ s.stew.lastBeat + 10000000 ≤ s.now then
    s.stew.list.foldl (fun s n => sendDown n kindHeartbeat (permitMsg s) s)
      (s.modStew fun w => { w with lastBeat := s.now })
  else s)

/-- SNAPSHOT_INTERVAL (R351). -/
def execSnapshotInterval (s : State) : Host.Outcome State Fault Refusal :=
  .next (if fwRoles s ∧ s.env.role = 1 ∧ s.stew.lastSnap + 10000000 ≤ s.now then
    sendSnapshot s.stew.handing (s.modStew fun w => { w with lastSnap := s.now })
  else s)

/-- ENVELOPE_INTERVAL (R351): every 1 s. -/
def execEnvelopeInterval (s : State) : Host.Outcome State Fault Refusal :=
  .next (if fwRoles s ∧ s.env.role = 1 ∧ s.stew.lastEnvelope + 1000000000 ≤ s.now then
    sendEnvelopes (s.modStew fun w => { w with lastEnvelope := s.now })
  else s)

/-- REQUEST_RESEND (R351): requests sent 10 ms ago or more go again unchanged. -/
def execRequestResend (s : State) : Host.Outcome State Fault Refusal :=
  .next (if fwRoles s ∧ s.env.member then resendAsks (fun a => decide (a.sent + 10000000 ≤ s.now)) s else s)

/-- HEAD_SHARE_INTERVAL (R353). -/
def execHeadShareInterval (s : State) : Host.Outcome State Fault Refusal :=
  .next (if fwRoles s ∧ s.env.role = 3 ∧ s.stew.lastShare + 10000000 ≤ s.now then
    let shares := headShares s.stew.sg (s.stew.list.map fun n => (s.memberRec n).waiting)
    (s.stew.list.zip shares).foldl (fun s p =>
      sendDown p.1 kindEnvelope { permitMsg s with slope := p.2 } s)
      (s.modStew fun w => { w with lastShare := s.now })
  else s)

/-- HEARTBEAT_TIMEOUT (R355): 30 ms without a HEARTBEAT. -/
def execHeartbeatTimeout (s : State) : Host.Outcome State Fault Refusal :=
  if !powered s then .next s else
  .next (if s.env.steward ≠ s.node ∧ s.env.lastBeat + 30000000 ≤ s.now then enterHold s else s)

/-- SNAPSHOT_TIMEOUT (R355, R356): 30 ms without a SNAPSHOT, or the slot boundary after the final one. -/
def execSnapshotTimeout (s : State) : Host.Outcome State Fault Refusal :=
  if !powered s then .next s else
  .next (if s.env.role = 2 ∧ (s.stew.lastSnap + 30000000 ≤ s.now
      ∨ (s.stew.finalSnap ∧ slotOf s.stew.lastSnap < slotOf s.now)) then claimRole s else s)

/-- MEMBER_REPORT_TIMEOUT (R357): 30 ms without a REPORT. -/
def execMemberReportTimeout (node : NodeId) (s : State) : Host.Outcome State Fault Refusal :=
  if !powered s then .next s else
  .next (match (s.memberRec node).reported with
    | some t => if t + 30000000 ≤ s.now then coverLoss node s else s
    | none => s)

def State.paceSet (s : State) (k : Nat) : PaceSet := Sparse.get {} s.stew.sets k
def State.modSet (s : State) (k : Nat) (f : PaceSet → PaceSet) : State :=
  s.modStew fun w => { w with sets := Sparse.set {} w.sets k (f (s.paceSet k)) }

/-- PACE_HOLD_EXPIRY (R354): a member has reported a lower duty throughout PACE_HOLD_MS. -/
def execPaceHoldExpiry (set : Fin 64) (s : State) : Host.Outcome State Fault Refusal :=
  if !powered s then .next s else
  let ps := s.paceSet set.val
  let slow := ps.members.find? fun n => match (s.memberRec n).below with
    | some t => decide (t + s.stew.paceHoldMs * 1000000 ≤ s.now) && (s.memberRec n).dutyCap < ps.cap
    | none => false
  .next (match slow with
    | some n =>
      let s1 := s.modSet set.val fun p => { p with cap := (s.memberRec n).dutyCap, slow := some n, raised := s.now }
      ps.members.foldl (fun s m => sendEnvelope m s) (s1.modRec n fun r => { r with below := none })
    | none => s)

/-- DUTY_CAP_RAISE (R354): one step every 10 ms once the slow member has shown no throttle. -/
def execDutyCapRaise (set : Fin 64) (s : State) : Host.Outcome State Fault Refusal :=
  if !powered s then .next s else
  let ps := s.paceSet set.val
  .next (match ps.slow with
    | some n => match (s.memberRec n).clear with
      | some t =>
        if t + s.stew.paceHoldMs * 1000000 ≤ s.now ∧ ps.raised + 10000000 ≤ s.now ∧ ps.cap < 64 then
          ps.members.foldl (fun s m => sendEnvelope m s)
            (s.modSet set.val fun p => { p with cap := p.cap + 1, raised := s.now
                                                slow := if p.cap + 1 = 64 then none else p.slow })
        else s
      | none => s
    | none => s)

end Sys2Proof.Machine
end

