-- ==== Sys2Proof/Machine/Crypto.lean ====
section
/-! DEFINITION. Encryption of a stored sector (spec 09 R218): AES-256 (FIPS 197) and its XTS mode under
IEEE 1619, with the sector number as the tweak. A key is 64 bytes: the data key, then the tweak key (20 R421);
the empty key is plaintext. -/

namespace Sys2Proof.Machine

/-! ## GF(2^8) of AES -/

def aesDouble (x : Nat) : Nat := if 128 ≤ x then (2 * x) ^^^ 0x11B else 2 * x

def aesMulBits (x : Nat) : Nat → Nat → Nat
  | 0, _ => 0
  | k + 1, y => (if y % 2 = 1 then x else 0) ^^^ aesMulBits (aesDouble x) k (y / 2)

def aesMul (x y : Nat) : Nat := aesMulBits x 8 y

/-- The inverse of an element, its 254th power; 0 for 0. -/
def aesInv (x : Nat) : Nat :=
  let x2 := aesMul x x
  let x4 := aesMul x2 x2
  let x8 := aesMul x4 x4
  let x16 := aesMul x8 x8
  let x32 := aesMul x16 x16
  let x64 := aesMul x32 x32
  let x128 := aesMul x64 x64
  aesMul x128 (aesMul x64 (aesMul x32 (aesMul x16 (aesMul x8 (aesMul x4 x2)))))

/-- A byte turned left by k bits. -/
def turn8 (x k : Nat) : Nat := (x * 2 ^ k ||| x / 2 ^ (8 - k)) % 256

def subByte (x : Nat) : Nat :=
  let b := aesInv x
  b ^^^ turn8 b 1 ^^^ turn8 b 2 ^^^ turn8 b 3 ^^^ turn8 b 4 ^^^ 0x63

def invSubByte (x : Nat) : Nat := aesInv (turn8 x 1 ^^^ turn8 x 3 ^^^ turn8 x 6 ^^^ 0x05)

/-! ## Rounds on 16 bytes, column after column -/

def xorList (a b : List Nat) : List Nat := List.zipWith (· ^^^ ·) a b

def shiftRows (b : List Nat) : List Nat :=
  (List.range 16).map fun i => b.getD ((i / 4 + i % 4) % 4 * 4 + i % 4) 0

def invShiftRows (b : List Nat) : List Nat :=
  (List.range 16).map fun i => b.getD ((i / 4 + 4 - i % 4) % 4 * 4 + i % 4) 0

/-- Each column times the circulant of four factors, those of row 0. -/
def mixWith (m : List Nat) (b : List Nat) : List Nat :=
  (List.range 16).map fun i =>
    (List.range 4).foldl (fun acc j =>
      acc ^^^ aesMul (m.getD ((j + 4 - i % 4) % 4) 0) (b.getD (i / 4 * 4 + j) 0)) 0

def mixColumns : List Nat → List Nat := mixWith [2, 3, 1, 1]
def invMixColumns : List Nat → List Nat := mixWith [14, 11, 13, 9]

/-! ## Key expansion: 60 words of four bytes -/

def nextWord (ws : List (List Nat)) (i : Nat) : List Nat :=
  let t := ws.getD (i - 1) []
  let t :=
    if i % 8 = 0 then
      let r := (t.drop 1 ++ t.take 1).map subByte
      (r.headD 0 ^^^ 2 ^ (i / 8 - 1)) :: r.drop 1
    else if i % 8 = 4 then t.map subByte else t
  xorList (ws.getD (i - 8) []) t

def keyWords (key : List Nat) : List (List Nat) :=
  (List.range 52).foldl (fun ws k => ws ++ [nextWord ws (k + 8)]) (chunk 4 8 key)

/-- The fifteen round keys. -/
def roundKeys (key : List Nat) : List (List Nat) := (chunk 4 15 (keyWords key)).map List.flatten

def aesEncrypt (rk : List (List Nat)) (b : List Nat) : List Nat :=
  let s := ((rk.drop 1).take 13).foldl (fun s k => xorList (mixColumns (shiftRows (s.map subByte))) k)
    (xorList b (rk.getD 0 []))
  xorList (shiftRows (s.map subByte)) (rk.getD 14 [])

def aesDecrypt (rk : List (List Nat)) (b : List Nat) : List Nat :=
  let s := ((rk.drop 1).take 13).reverse.foldl
    (fun s k => invMixColumns (xorList ((invShiftRows s).map invSubByte) k)) (xorList b (rk.getD 14 []))
  xorList ((invShiftRows s).map invSubByte) (rk.getD 0 [])

/-! ## XTS -/

/-- The tweak times the generator of GF(2^128). -/
def tweakDouble (t : Nat) : Nat := if 2 ^ 127 ≤ t then (2 * t - 2 ^ 128) ^^^ 0x87 else 2 * t

def bytesOfNat (n : Nat) : List Nat := (List.range 16).map fun i => n / 2 ^ (8 * i) % 256

def natOfBytes (l : List Nat) : Nat := l.foldr (fun b acc => b + 256 * acc) 0

/-- The tweaks of a sector's two blocks. -/
def sectorTweaks (key : List Nat) (sector : Nat) : List (List Nat) :=
  let t := natOfBytes (aesEncrypt (roundKeys (key.drop 32)) (bytesOfNat sector))
  [bytesOfNat t, bytesOfNat (tweakDouble t)]

/-- The two blocks of a sector, each between two additions of its tweak. -/
def xtsBlocks (f : List (List Nat) → List Nat → List Nat) (key : List Byte) (sector : Nat) (d : List Byte) : List Byte :=
  let k := key.map BitVec.toNat
  let rk := roundKeys (k.take 32)
  let blocks := chunk 16 2 (d.map BitVec.toNat)
  (List.zipWith (fun t b => xorList (f rk (xorList b t)) t) (sectorTweaks k sector) blocks).flatten.map (BitVec.ofNat 8)

/-- What a stack holds for a sector's plaintext. -/
def xtsEncrypt (key : List Byte) (sector : Nat) (d : List Byte) : List Byte :=
  if key = [] then d else xtsBlocks aesEncrypt key sector d

/-- The plaintext of what a stack holds. -/
def xtsDecrypt (key : List Byte) (sector : Nat) (d : List Byte) : List Byte :=
  if key = [] then d else xtsBlocks aesDecrypt key sector d

end Sys2Proof.Machine
end

