-- ==== Sys2Proof/Machine/Memory.lean ====
section
/-! DEFINITION. The stacks and their controllers (spec 07): address mapping, the sector code, the
write-combining buffer, poison, error records, retune. -/

namespace Sys2Proof.Machine

/-! ## Address mapping (R147, R148) -/

def halfPool : Nat := 0x9000000000
def stackBytes : Nat := 0xC00000000

/-- Stacks of half h that are interleaved, or isolated, in ascending order. -/
def stacksOf (iso : BitVec 24) (h : Nat) (isolated : Bool) : List Nat :=
  ((List.range 12).map (12 * h + ·)).filter fun k => iso.getLsbD k == isolated

/-- map_interleaved over the stacks `l`: pseudo-channel and its offset. -/
def mapInterleaved (l : List Nat) (o : Nat) : Nat × Nat :=
  let n := l.length
  let c := o / 2048
  let p := c % (64 * n)
  (64 * l.getD (p % n) 0 + p / n, c / (64 * n) * 2048 + o % 2048)

/-- Half and half-local offset of a pool address. -/
def halfOffset (spread : Bool) (a : Nat) : Nat × Nat :=
  if spread then
    let g := a / 0x4000000
    (g % 2, g / 2 * 0x4000000 + a % 0x4000000)
  else (a / halfPool, a % halfPool)

/-- Home pseudo-channel and pseudo-channel offset of a pool address. -/
def homePc (h : HbmState) (a : Nat) : Nat × Nat :=
  let (half, o) := halfOffset h.spread a
  let l := stacksOf h.iso half false
  if o < l.length * stackBytes then mapInterleaved l o
  else
    let k := (o - l.length * stackBytes) / stackBytes
    mapInterleaved [(stacksOf h.iso half true).getD k 0] ((o - l.length * stackBytes) % stackBytes)

/-- The pool address a pseudo-channel offset holds: the mapping read backwards. -/
def poolAddrOf (h : HbmState) (pc pco : Nat) : Nat :=
  let st := pc / 64
  let half := st / 12
  let inter := stacksOf h.iso half false
  let isol := stacksOf h.iso half true
  let l := if h.iso.getLsbD st then [st] else inter
  let p := (pc % 64) * l.length + l.idxOf st
  let o := (pco / 2048 * (64 * l.length) + p) * 2048 + pco % 2048
  let o := if h.iso.getLsbD st then inter.length * stackBytes + isol.idxOf st * stackBytes + o else o
  if h.spread then (o / 0x4000000 * 2 + half) * 0x4000000 + o % 0x4000000
  else half * halfPool + o

def State.pcOf (s : State) (a : Nat) : Nat := (homePc s.hbm a).1
def State.stackOf (s : State) (a : Nat) : Nat := s.pcOf a / 64
/-- Home Cistern of a pool address (R149, 08 R169). -/
def State.cisOf (s : State) (a : Nat) : Nat := s.pcOf a / 384

/-! ## Counters and events -/

def hbmCtr (stack off : Nat) : Nat := 0x700000 + off + 0x40 * stack
def ceCount (k : Nat) : Nat := hbmCtr k 0x108
def ueCount (k : Nat) : Nat := hbmCtr k 0x110
def rmwCount (k : Nat) : Nat := hbmCtr k 0x118
def mergeCount (k : Nat) : Nat := hbmCtr k 0x120
def offlineCount (k : Nat) : Nat := hbmCtr k 0x128

def hbmEvent (k stack : Nat) (s : State) : State := raiseArg srcHbm k (w64 stack) s

/-- An access to a stack out of service (R164). -/
def offlineAccess (stack : Nat) (s : State) : State :=
  hbmEvent 5 stack (count (offlineCount stack) 1 s)

/-! ## The error log (R159) -/

/-- Kinds in the order in which a full log discards them. -/
def ErrKind.rank : ErrKind → Nat
  | .corrected => 0 | .retuneFail => 1 | .poisonWritten => 2 | .uncorrectable => 3

/-- The log without its oldest record of the lowest kind present. -/
def discardOne (l : List ErrRec) : List ErrRec :=
  let lowest := l.foldl (fun m r => min m r.kind.rank) 3
  l.eraseP fun r => r.kind.rank == lowest

def logError (r : ErrRec) (s : State) : State :=
  let l := if s.hbm.errLog.length ≥ 4096 then discardOne s.hbm.errLog else s.hbm.errLog
  { s with hbm := { s.hbm with errLog := l ++ [r] } }

/-! ## The sector code (R153, R154) -/

def gfDouble (x : Nat) : Nat := if x ≥ 128 then (2 * x) ^^^ 0x11D else 2 * x

/-- Multiplication in GF(2^8), by the bits of y. -/
def gfMulBits (x : Nat) : Nat → Nat → Nat
  | 0, _ => 0
  | k + 1, y => (if y % 2 = 1 then x else 0) ^^^ gfMulBits (gfDouble x) k (y / 2)

def gfMul (x y : Nat) : Nat := gfMulBits x 8 y

def gfPow (x : Nat) : Nat → Nat
  | 0 => 1
  | n + 1 => gfMul x (gfPow x n)

/-- The inverse of a non-zero element, its 254th power. -/
def gfInv (x : Nat) : Nat := gfPow x 254

/-- One step of the division by g(x): the remainder r(x)·x + d. -/
def rsStep (r : Nat × Nat × Nat × Nat) (d : Nat) : Nat × Nat × Nat × Nat :=
  let f := d ^^^ r.2.2.2
  (gfMul f 0x40, r.1 ^^^ gfMul f 0x78, r.2.1 ^^^ gfMul f 0x36, r.2.2.1 ^^^ gfMul f 0x0F)

/-- Check symbols r[0..3] of a sector, highest byte first into the division. -/
def checkSymbols (d : List Byte) : Nat × Nat × Nat × Nat :=
  d.reverse.foldl (fun r b => rsStep r b.toNat) (0, 0, 0, 0)

/-- Power of x of symbol k: DQ byte j stands at j + 4, check symbol m at m. -/
def symbolPos (k : Nat) : Nat := if k < 32 then k + 4 else k - 32

/-- Syndrome i of an error pattern (symbol, value). -/
def syndrome (errs : List (Nat × Nat)) (i : Nat) : Nat :=
  errs.foldl (fun acc e => acc ^^^ gfMul e.2 (gfPow 2 (i * symbolPos e.1))) 0

/-- What the decoder makes of a pattern. -/
inductive Decoded where
  | clean
  | poison
  | corrected (fix : List (Nat × Nat))
  | uncorrectable
  deriving DecidableEq, Repr

def poisonPattern : List (Nat × Nat) := [(32, 255), (33, 255), (34, 255), (35, 255)]

/-- The pairs of symbols p < q below 36. -/
def symbolPairs : List (Nat × Nat) :=
  (List.range 36).flatMap fun p => ((List.range 36).filter (p < ·)).map fun q => (p, q)

/-- Values at symbols p and q that explain syndromes 0 and 1. -/
def solvePair (s0 s1 p q : Nat) : Nat × Nat :=
  let xp := gfPow 2 (symbolPos p)
  let xq := gfPow 2 (symbolPos q)
  let eq := gfMul (s1 ^^^ gfMul s0 xp) (gfInv (xp ^^^ xq))
  (s0 ^^^ eq, eq)

/-- Bounded-distance decoding of up to two symbols; the poison form is recognised first (R154). -/
def decodePattern (errs : List (Nat × Nat)) : Decoded :=
  let syn := (List.range 4).map (syndrome errs)
  if syn = [0, 0, 0, 0] then .clean
  else if syn = (List.range 4).map (syndrome poisonPattern) then .poison
  else
    let explains (fix : List (Nat × Nat)) : Bool := (List.range 4).map (syndrome fix) == syn
    let s0 := syn.getD 0 0
    let s1 := syn.getD 1 0
    match (List.range 36).find? fun k => explains [(k, s0)] with
    | some k => .corrected [(k, s0)]
    | none =>
      match symbolPairs.find? fun pq =>
        let v := solvePair s0 s1 pq.1 pq.2
        v.1 != 0 && v.2 != 0 && explains [(pq.1, v.1), (pq.2, v.2)] with
      | some pq => let v := solvePair s0 s1 pq.1 pq.2; .corrected [(pq.1, v.1), (pq.2, v.2)]
      | none => .uncorrectable

/-- Data bytes changed by a pattern on the DQ symbols. -/
def applyPattern (errs : List (Nat × Nat)) (d : List Byte) : List Byte :=
  ((List.range d.length).zip d).map fun p =>
    p.2 ^^^ BitVec.ofNat 8 ((errs.filter (·.1 == p.1)).foldl (fun acc e => acc ^^^ e.2) 0)

/-- Mask of the symbols of a pattern, DQ pins in [31:0], ECC pins in [35:32] (R159). -/
def patternMask (errs : List (Nat × Nat)) : BitVec 36 :=
  errs.foldl (fun m e => if e.2 = 0 then m else m ||| BitVec.ofNat 36 (2 ^ e.1)) 0

/-! ## Stored sectors (R156, 09 R217-R219) -/

/-- Key selector of the 64 MiB page of a pool address. -/
def State.selectorOf (s : State) (a : Nat) : Nat := Sparse.get 0 s.xlt.keyMap (a / 0x4000000)

/-- Loaded key of a selector; selector 0 is plaintext, none: erased. -/
def State.keyOf (s : State) (sel : Nat) : Option (List Byte) :=
  if sel = 0 then some []
  else match Sparse.get [] s.keys sel with
    | [] => none
    | k => some k

def State.mark (s : State) (sn : Nat) : SecMark := Sparse.get {} s.hbm.marks sn

/-- Changes of the selector of a pool address's page (09 R217). -/
def State.keyEpoch (s : State) (a : Nat) : Nat := Sparse.get 0 s.xlt.keyEpoch (a / 0x4000000)

/-- What a sector's ciphertext, given as the plaintext it was written with and what has become of its bytes
since, reads as under a key (09 R217, R218): undefined once the page's selector has been set anew. -/
def readUnder (s : State) (sn : Nat) (key : List Byte) (d : List Byte) (errs : List (Nat × Nat)) : List Byte :=
  let m := s.mark sn
  let same := applyPattern errs d == d
  if m.epoch ≠ s.keyEpoch (32 * sn) then Config.oldSector key sn d
  else if m.key = key ∧ same then d
  else xtsDecrypt key sn (applyPattern errs (xtsEncrypt m.key sn d))

/-- The stack's 32 bytes of sector number sn under the page's present key, and its poison. -/
def storedSector (s : State) (sn : Nat) : List Byte × Bool :=
  let d := s.hbm.cells.readN (32 * sn) 32
  match s.keyOf (s.selectorOf (32 * sn)) with
  | none => (d, true)
  | some k => (readUnder s sn k d [], (s.mark sn).poison)

/-- A write to a sector has been accepted: a corrected write-back still to come is dropped (R155). -/
def dropWriteBack (sn : Nat) (s : State) : State :=
  { s with hbm := { s.hbm with writeBacks := s.hbm.writeBacks.filter fun w => w.1 != sn } }

/-- A whole sector written to its stack (R152, R156); drops a pending corrected write-back (R155). -/
def stackWrite (sn : Nat) (d : List Byte) (poison : Bool) (s : State) : State :=
  let a := 32 * sn
  let st := s.stackOf a
  if (s.stack st).mode ≠ .active then offlineAccess st s
  else match s.keyOf (s.selectorOf a) with
    | none => s
    | some k =>
      let s1 : State := { s with hbm := { s.hbm with
        cells := s.hbm.cells.writeN a (d.take 32)
        marks := Sparse.set {} s.hbm.marks sn { poison := poison, key := k, epoch := s.keyEpoch a, errs := [] }
        writeBacks := s.hbm.writeBacks.filter fun w => w.1 != sn } }
      if poison then logError ⟨s.now, a, s.pcOf a, .poisonWritten, 0⟩ s1 else s1

/-! ## Reports (R160) -/

def day : Nat := 86400000000000

/-- A correction on a page: the 16th within 24 h reports the page and starts its count again. -/
def pageCorrection (stack page : Nat) (s : State) : State :=
  let l := s.hbm.pageCorr.filter (fun e => decide (s.now < e.1 + day)) ++ [(s.now, page)]
  if (l.filter (·.2 == page)).length ≥ 16 then
    hbmEvent 2 stack { s with hbm := { s.hbm with pageCorr := l.filter (·.2 != page) } }
  else { s with hbm := { s.hbm with pageCorr := l } }

/-- A pin in a correction: the 64th within 24 h marks it. -/
def pinCorrection (pc pin : Nat) (s : State) : State :=
  let l := s.hbm.pinCorr.filter (fun e => decide (s.now < e.1 + day)) ++ [(s.now, pc, pin)]
  let s1 : State := { s with hbm := { s.hbm with pinCorr := l } }
  if (l.filter fun e => e.2.1 == pc && e.2.2 == pin).length ≥ 64 ∧ !(s.pc pc).pins.getLsbD pin then
    hbmEvent 4 (pc / 64) (s1.modPc pc fun x => { x with pins := x.pins ||| BitVec.ofNat 36 (2 ^ pin) })
  else s1

/-- A read that decoded as corrected: count, record, report, and the write-back to come (R154, R155). -/
def noteCorrected (pc sn : Nat) (fix : List (Nat × Nat)) (d : List Byte) (s : State) : State :=
  let st := pc / 64
  let s1 := hbmEvent 0 st (count (ceCount st) 1 s)
  let s2 := logError ⟨s.now, 32 * sn, pc, .corrected, patternMask fix⟩ s1
  let s3 := pageCorrection st (32 * sn / 0x4000000) s2
  let s4 := fix.foldl (fun x e => pinCorrection pc e.1 x) s3
  { s4 with hbm := { s4.hbm with writeBacks := s4.hbm.writeBacks.filter (·.1 != sn) ++ [(sn, d)] } }

/-- A read found uncorrectable: count, record, report (R154, R160). -/
def noteUncorrectable (pc sn : Nat) (s : State) : State :=
  let st := pc / 64
  let s1 := hbmEvent 1 st (count (ueCount st) 1 s)
  let s2 := logError ⟨s.now, 32 * sn, pc, .uncorrectable, 0⟩ s1
  hbmEvent 2 st { s2 with hbm := { s2.hbm with
    pageCorr := s2.hbm.pageCorr.filter (·.2 != 32 * sn / 0x4000000) } }

/-! ## Decoded reads (R154) -/

/-- Failed symbols met twice: values of one symbol add up, and cancel. -/
def mergeErrs (a b : List (Nat × Nat)) : List (Nat × Nat) :=
  (List.range 36).filterMap fun k =>
    let v := ((a ++ b).filter (·.1 == k)).foldl (fun acc e => acc ^^^ e.2) 0
    if v = 0 then none else some (k, v)

/-- What the decoder makes of the stored sector with the failed symbols that stand in it. -/
def sectorDecode (s : State) (sn : Nat) : Decoded :=
  let m := s.mark sn
  if m.errs = [] then (if (storedSector s sn).2 then .poison else .clean)
  else decodePattern (if (storedSector s sn).2 then poisonPattern ++ m.errs else m.errs)

/-- The stored sector after its failed symbols and their correction: what the ciphertext became decrypts to. -/
def patchedSector (s : State) (sn : Nat) (fix : List (Nat × Nat)) : List Byte :=
  let d := s.hbm.cells.readN (32 * sn) 32
  let errs := (s.mark sn).errs ++ fix
  match s.keyOf (s.selectorOf (32 * sn)) with
  | none => applyPattern errs d
  | some k => readUnder s sn k d errs

/-- A read of the stack: every read is decoded, with what it counts, records and reports (R154, R155, R160). -/
def stackRead (sn : Nat) (s : State) : (List Byte × Bool) × State :=
  let pc := s.pcOf (32 * sn)
  match sectorDecode s sn with
  | .clean => ((patchedSector s sn [], false), s)
  | .poison => (((storedSector s sn).1, true), s)
  | .corrected fix => let d := patchedSector s sn fix; ((d, false), noteCorrected pc sn fix d s)
  | .uncorrectable => (((storedSector s sn).1, true), noteUncorrectable pc sn s)

/-! ## Stalls of a retune (R161) -/

/-- A pseudo-channel stalls for at most 2 us from the start of its retune. -/
def stalled (s : State) (p : Nat) : Bool :=
  match (s.pc p).active with
  | some (t, _) => decide (s.now < t + 2000)
  | none => false

/-! ## The write-combining buffer (R150-R152) -/

def State.wcbOf (s : State) (k : Nat) : List WcbEntry := Sparse.get [] s.hbm.wcb k
def State.setWcb (s : State) (k : Nat) (l : List WcbEntry) : State :=
  { s with hbm := { s.hbm with wcb := Sparse.set [] s.hbm.wcb k l } }

/-- Bytes of one sector (0-3) that an entry holds, by offset in the sector. -/
def WcbEntry.sector (e : WcbEntry) (k : Nat) : List (Nat × Byte) :=
  (e.bytes.filter fun b => b.1 / 32 == k).map fun b => (b.1 % 32, b.2)

/-- Bytes laid over a sector. -/
def overlay (d : List Byte) (bs : List (Nat × Byte)) : List Byte :=
  bs.foldl (fun acc b => acc.set b.1 b.2) d

/-- The read of a read-modify-write: counted, and counted as uncorrectable where it finds poison too (R152). -/
def mergeRead (sn : Nat) (s : State) : (List Byte × Bool) × State :=
  let st := s.stackOf (32 * sn)
  let r := stackRead sn (count (rmwCount st) 1 s)
  (r.1, if sectorDecode s sn = .poison then count (ueCount st) 1 r.2 else r.2)

/-- One sector of an entry written out: whole without a read, partial by a read-modify-write. -/
def flushSector (e : WcbEntry) (k : Nat) (s : State) : State :=
  let bs := e.sector k
  let sn := 4 * e.line + k
  if bs = [] then s
  else if bs.length = 32 then stackWrite sn (overlay (List.replicate 32 0) bs) false s
  else
    let r := mergeRead sn s
    stackWrite sn (overlay r.1.1 bs) r.1.2 r.2

/-- An entry leaves the buffer. -/
def leaveEntry (e : WcbEntry) (s : State) : State :=
  let st := s.stackOf (128 * e.line)
  let s1 := s.setWcb st ((s.wcbOf st).erase e)
  flushSector e 3 (flushSector e 2 (flushSector e 1 (flushSector e 0 s1)))

/-- May an entry leave now: its pseudo-channel does not stall (R161). -/
def mayLeave (s : State) (e : WcbEntry) : Bool := !stalled s (s.pcOf (128 * e.line))

/-- Bytes of one line written into the buffer of its stack (R151). In a stall the entry stays. -/
def wcbWrite (line : Nat) (bs : List (Nat × Byte)) (s : State) : State :=
  let st := s.stackOf (128 * line)
  if (s.stack st).mode ≠ .active then offlineAccess st s
  else
    let s := ((bs.map fun b => 4 * line + b.1 / 32).eraseDups).foldl (fun s sn => dropWriteBack sn s) s
    match (s.wcbOf st).find? (·.line == line) with
    | some e =>
      let e' := { e with bytes := bs.foldl (fun m b => Sparse.insert m b.1 b.2) e.bytes }
      let s1 := count (mergeCount st) 1 (s.setWcb st ((s.wcbOf st).map fun x => if x.line == line then e' else x))
      if e'.bytes.length = 128 ∧ mayLeave s1 e' then leaveEntry e' s1 else s1
    | none =>
      let s1 := match (s.wcbOf st).find? (mayLeave s) with
        | some old => if (s.wcbOf st).length ≥ 256 then leaveEntry old s else s
        | none => s
      let e : WcbEntry := ⟨line, bs.foldl (fun m b => Sparse.insert m b.1 b.2) [], s.now⟩
      let s2 := s1.setWcb st (s1.wcbOf st ++ [e])
      if e.bytes.length = 128 ∧ mayLeave s2 e then leaveEntry e s2 else s2

/-- The controller's answer to a read of sector sn: buffer bytes over the stack's (R151, R157, R164). -/
def controllerRead (sn : Nat) (s : State) : (List Byte × Bool) × State :=
  let a := 32 * sn
  let st := s.stackOf a
  if (s.stack st).mode ≠ .active then ((List.replicate 32 0, true), offlineAccess st s)
  else
    let bs := match (s.wcbOf st).find? (·.line == sn / 4) with
      | none => []
      | some e => e.sector (sn % 4)
    if bs.length = 32 then ((overlay (List.replicate 32 0) bs, false), s)
    else
      let r := stackRead sn s
      ((overlay r.1.1 bs, r.1.2), r.2)

/-- A whole sector handed to the controller: into the line's entry where it has one and the data is good, or
where its pseudo-channel stalls; otherwise to the stack (R152, R156, R161). -/
def controllerWrite (sn : Nat) (d : List Byte) (poison : Bool) (s : State) : State :=
  let st := s.stackOf (32 * sn)
  match (s.wcbOf st).find? (·.line == sn / 4) with
  | none =>
    if !poison && stalled s (s.pcOf (32 * sn)) then
      wcbWrite (sn / 4) (((List.range 32).zip d).map fun p => (32 * (sn % 4) + p.1, p.2)) s
    else stackWrite sn d poison s
  | some e =>
    if poison then
      let e' := { e with bytes := e.bytes.filter fun b => b.1 / 32 != sn % 4 }
      let l := (s.wcbOf st).map fun x => if x.line == e.line then e' else x
      stackWrite sn d true (s.setWcb st (l.filter fun x => x.bytes != []))
    else wcbWrite (sn / 4) (((List.range 32).zip d).map fun p => (32 * (sn % 4) + p.1, p.2)) s

/-- Part of a sector, from byte offset off of the sector: into the buffer, or, poisoned, merged by a
read-modify-write and written as a poisoned sector. -/
def controllerWritePart (sn off : Nat) (bs : List Byte) (poison : Bool) (s : State) : State :=
  let ps := ((List.range bs.length).zip bs).map fun p => (off + p.1, p.2)
  if poison then
    let held := match (s.wcbOf (s.stackOf (32 * sn))).find? (·.line == sn / 4) with
      | none => []
      | some e => e.sector (sn % 4)
    let r := mergeRead sn s
    controllerWrite sn (overlay (overlay r.1.1 held) ps) true r.2
  else wcbWrite (sn / 4) (ps.map fun p => (32 * (sn % 4) + p.1, p.2)) s

/-! ## Reads of single sectors and scrubbing -/

/-- A SECTOR_READ or a scrub read: the failed symbols it meets stand in the sector from here on; bytes that
the buffer holds are laid over what the stack gives (R151, R154). -/
def decodeSector (_pc sn : Nat) (errs : List (Fin 36 × Byte)) (s : State) : State :=
  let st := s.stackOf (32 * sn)
  let es := (errs.map fun e => (e.1.val, e.2.toNat)).filter (·.2 != 0)
  let m := s.mark sn
  let s1 : State := if es = [] ∨ (s.stack st).mode ≠ .active then s
    else { s with hbm := { s.hbm with marks := Sparse.set {} s.hbm.marks sn { m with errs := mergeErrs m.errs es } } }
  let r := controllerRead sn s1
  { r.2 with hbm := { r.2.hbm with delivered := some r.1 } }

/-- Sector reads that waited behind a stall that is over (R161). -/
def releaseReads (s : State) : State :=
  let now := s.hbm.heldReads.filter fun r => !stalled s r.1
  if now = [] then s
  else now.foldl (fun s r => decodeSector r.1 r.2 [] s)
    { s with hbm := { s.hbm with heldReads := s.hbm.heldReads.filter fun r => stalled s r.1 } }

/-- SECTOR_READ (R154): the sector numbered within the pseudo-channel; held in a stall (R161). -/
def sectorRead (pc sn : Nat) (errs : List (Fin 36 × Byte)) (s : State) : State :=
  if stalled s pc then { s with hbm := { s.hbm with heldReads := s.hbm.heldReads ++ [(pc, sn)] } }
  else decodeSector pc sn errs s

def execSectorRead (pc : PcId) (sector : Nat) (errs : List (Fin 36 × Byte)) (s : State) :
    Host.Outcome State Fault Refusal :=
  if !powered s then .next s else
  .next (if sector < 25165824 then sectorRead pc.val (poolAddrOf s.hbm pc.val (32 * sector) / 32) errs s else s)

/-- CORRECTED_WRITE_BACK (R155): the corrected sector goes to the stack, if still to be written. -/
def execCorrectedWriteBack (pc : PcId) (sector : Nat) (s : State) : Host.Outcome State Fault Refusal :=
  if !powered s then .next s else
  let sn := poolAddrOf s.hbm pc.val (32 * sector) / 32
  .next (match s.hbm.writeBacks.find? (·.1 == sn) with
    | none => s
    | some w => stackWrite sn w.2 false s)

/-- WCB_ENTRY_TIMEOUT (R151): an entry leaves the buffer 2 us after its allocation. -/
def execWcbEntryTimeout (k : StackId) (s : State) : Host.Outcome State Fault Refusal :=
  if !powered s then .next s else
  .next (match s.wcbOf k.val with
    | e :: _ => if e.born + 2000 ≤ s.now ∧ mayLeave s e then leaveEntry e s else s
    | [] => s)

/-- The cycle from which a pass that began at `from0` may read its sector number pos: the sectors spread evenly
over PERIOD_H hours. -/
def scrubDue (hours from0 pos : Nat) : Nat := from0 + pos * (hours * 3600000000000) / (64 * 25165824)

/-- The next position, and the start of its pass: a pass that took longer than its period is followed at once. -/
def scrubNext (hours tick : Nat) (x : StackSt) : StackSt :=
  if x.scrubPos + 1 = 64 * 25165824 then { x with
    scrubPos := 0, scrubFrom := max tick (x.scrubFrom + hours * 3600000000000) }
  else { x with scrubPos := x.scrubPos + 1 }

/-- PATROL_SCRUB (R158): the next sector of an ACTIVE stack is read and decoded once it is due; a pseudo-channel
in its retune is skipped. -/
def execPatrolScrub (k : StackId) (errs : List (Fin 36 × Byte)) (s : State) :
    Host.Outcome State Fault Refusal :=
  if !powered s then .next s else
  let st := s.stack k.val
  let pos := st.scrubPos
  let pc := 64 * k.val + pos / 25165824 % 64
  .next (if s.hbm.scrubEn ∧ st.mode = .active ∧ (s.pc pc).active = none
      ∧ scrubDue s.hbm.scrubHours st.scrubFrom pos ≤ s.ticks then
      decodeSector pc (poolAddrOf s.hbm pc (32 * (pos % 25165824)) / 32) errs
        (s.modStack k.val (scrubNext s.hbm.scrubHours s.ticks))
    else s)

/-! ## Retune (R161-R163) -/

/-- A start time put in order behind the earlier ones. -/
def insertStart (t : Nat) (b : RetuneBy) : List (Nat × RetuneBy) → List (Nat × RetuneBy)
  | [] => [(t, b)]
  | x :: xs => if t < x.1 then (t, b) :: x :: xs else x :: insertStart t b xs

/-- Start times for the pseudo-channels of a stack, 100 us apart from the first; one that waits for such a
start already keeps it. -/
def scheduleAll (base first : Nat) : List Nat → State → State
  | [], s => s
  | k :: ks, s =>
    let p := base + k
    let x := s.pc p
    if x.degraded || x.sched.any (fun e => e.2 == .auto) then scheduleAll base first ks s
    else scheduleAll base (first + 100000) ks (s.modPc p fun x => { x with sched := insertStart first .auto x.sched })

/-- RETUNE_SCHEDULE (R162): the stack's temperature is reported; a move of 10 °C from the last retune
schedules every pseudo-channel that is not DEGRADED. -/
def execRetuneSchedule (k : StackId) (temp : BitVec 8) (s : State) : Host.Outcome State Fault Refusal :=
  let st := s.stack k.val
  let s1 := s.modStack k.val fun x => { x with temp := temp }
  let moved := max temp.toNat st.tune.toNat - min temp.toNat st.tune.toNat
  let first := match st.lastStart with
    | none => s.now
    | some t => max s.now (t + 100000)
  .next (if fwRuns s ∧ st.mode = .active ∧ 10 ≤ moved then scheduleAll (64 * k.val) first (List.range 64) s1 else s1)

/-- May a retune of this pseudo-channel start now: none of its stack stalls, and 100 us have passed. -/
def retuneFree (p : Nat) (s : State) : Bool :=
  let base := p / 64 * 64
  ((List.range 64).all fun k => (s.pc (base + k)).active.isNone)
  && (match (s.stack (p / 64)).lastStart with
    | none => true
    | some t => decide (t + 100000 ≤ s.now))

/-- RETUNE_START (R161). -/
def execRetuneStart (p : PcId) (s : State) : Host.Outcome State Fault Refusal :=
  if !powered s then .next s else
  .next (match (s.pc p.val).sched with
    | (t, by_) :: rest =>
      if t ≤ s.now ∧ retuneFree p.val s ∧ (s.stack (p.val / 64)).mode = .active then
        (s.modPc p.val fun x => { x with sched := rest, active := some (s.now, by_) }).modStack (p.val / 64)
          fun x => { x with lastStart := some s.now }
      else s
    | [] => s)

/-- Whole entries of a stack that a stall kept leave (R151, R161). -/
def releaseEntries (k : Nat) (s : State) : State :=
  (s.wcbOf k).foldl (fun s e => if e.bytes.length = 128 ∧ mayLeave s e then leaveEntry e s else s) s

/-- What a stall of the stack held goes on. -/
def afterStall (k : Nat) (s : State) : State := releaseEntries k (releaseReads s)

/-- The effect of a retune's end on its pseudo-channel and stack (R163). -/
def retuneEnded (p : Nat) (ok : Bool) (s : State) : State :=
  let st := p / 64
  if ok then
    afterStall st ((s.modPc p fun x => { x with active := none, fails := 0 }).modStack st fun x => { x with tune := x.temp })
  else
    let f := min 3 ((s.pc p).fails + 1)
    let s1 := s.modPc p fun x => { x with active := none, fails := f, degraded := x.degraded || f == 3 }
    afterStall st (hbmEvent 3 st (logError ⟨s.now, poolAddrOf s.hbm p 0, p, .retuneFail, 0⟩ s1))

end Sys2Proof.Machine
end

