-- ==== Sys2Proof/Machine/Cistern.lean ====
section
/-! DEFINITION. Cisterns, directory and coherence (spec 08): fills, replacement, the eviction buffer,
prefetch, and what the home of a line does for core and engine requests. -/

namespace Sys2Proof.Machine

/-! ## Lines and ways -/

/-- Is the page of a line marked streaming for cores (09 R220)? -/
def coreStreaming (s : State) (line : Nat) : Bool :=
  let page := line / 524288
  (Sparse.get 0 s.xlt.streamBits (page / 64)).getLsbD (page % 64)

def CLine.sec (l : CLine) (k : Nat) : CSec :=
  match k with
  | 0 => l.s0 | 1 => l.s1 | 2 => l.s2 | _ => l.s3

def CLine.setSec (l : CLine) (k : Nat) (x : CSec) : CLine :=
  match k with
  | 0 => { l with s0 := x } | 1 => { l with s1 := x } | 2 => { l with s2 := x } | _ => { l with s3 := x }

def CLine.anyValid (l : CLine) : Bool := l.s0.valid || l.s1.valid || l.s2.valid || l.s3.valid
def CLine.anyDirty (l : CLine) : Bool := l.s0.dirty || l.s1.dirty || l.s2.dirty || l.s3.dirty

/-- Set of a line (R170). -/
def setOf (h : HbmState) (line : Nat) : Nat :=
  let p := homePc h (128 * line)
  (p.2 / 128 % 128) * 384 + p.1 % 384

def State.way (s : State) (c set w : Nat) : CLine := Sparse.get {} (s.cis c).ways (16 * set + w)
def State.setWay (s : State) (c set w : Nat) (l : CLine) : State :=
  s.modCis c fun x => { x with ways := Sparse.set {} x.ways (16 * set + w) l }

/-- The way of Cistern c that holds a line, as a remote copy or not. -/
def State.findWay (s : State) (c : Nat) (remote : Bool) (line : Nat) : Option Nat :=
  let set := setOf s.hbm line
  (List.range 16).find? fun w =>
    let l := s.way c set w
    l.line == line && l.remote == remote && (l.anyValid || l.lock)

def cisCtr (c off : Nat) : Nat := 0x708000 + 0x100 * c + off
def hitCount (c : Nat) : Nat := cisCtr c 0x10
def missCount (c : Nat) : Nat := cisCtr c 0x18
def prefetchCount (c : Nat) : Nat := cisCtr c 0x20
def evictStallCount (c : Nat) : Nat := cisCtr c 0x28
def dirRecallCount (c : Nat) : Nat := cisCtr c 0x30

/-- Cistern on the requester's side for a remote copy of a line homed on Cistern c (R171). -/
def remoteCis (c : Nat) : Nat := (c + 2) % 4

/-! ## The directory (R183) -/

def State.dirE (s : State) (line : Nat) : DirEntry := Sparse.get {} s.coh.dir line
def State.setDir (s : State) (line : Nat) (e : DirEntry) : State :=
  { s with coh := { s.coh with dir := Sparse.set {} s.coh.dir line e } }

def DirEntry.any (e : DirEntry) : Bool := e.pA || e.pB || e.remote
/-- An entry without holders is no entry. -/
def DirEntry.norm (e : DirEntry) : DirEntry := if e.any then e else {}
def DirEntry.hasP (e : DirEntry) (h : Nat) : Bool := if h = 0 then e.pA else e.pB
def DirEntry.setP (e : DirEntry) (h : Nat) (b : Bool) : DirEntry :=
  if h = 0 then { e with pA := b } else { e with pB := b }

def State.pline (s : State) (h line : Nat) : PLine :=
  Sparse.get {} (if h = 0 then s.coh.pA else s.coh.pB) line
def State.setPline (s : State) (h line : Nat) (p : PLine) : State :=
  if h = 0 then { s with coh := { s.coh with pA := Sparse.set {} s.coh.pA line p } }
  else { s with coh := { s.coh with pB := Sparse.set {} s.coh.pB line p } }

def DirEntry.holders (e : DirEntry) : List Holder :=
  (if e.pA then [.pdie 0] else []) ++ (if e.pB then [.pdie 1] else []) ++ (if e.remote then [.remote] else [])

/-! ## Replacement and the eviction buffer (R175-R178) -/

/-- The dirty sectors of a line handed to the controller. -/
def writeBackDirty (l : CLine) (s : State) : State :=
  (List.range 4).foldl (fun s k =>
    let x := l.sec k
    if x.dirty then controllerWrite (4 * l.line + k) x.data x.poison s else s) s

/-- The oldest entry of a Cistern's eviction buffer leaves. -/
def drainEvict (c : Nat) (s : State) : State :=
  match (s.cis c).evict with
  | [] => s
  | l :: rest => writeBackDirty l (s.modCis c fun x => { x with evict := rest })

/-- Entries of one line leave, in order: a write to the line waits for this (R178). -/
def drainLine (c line : Nat) (s : State) : State :=
  let mine := (s.cis c).evict.filter (·.line == line)
  mine.foldl (fun s l => writeBackDirty l s)
    (s.modCis c fun x => { x with evict := x.evict.filter (·.line != line) })

/-- A full buffer lets its oldest entry leave while the fill waits. -/
def makeEvictRoom (c : Nat) (s : State) : State :=
  if (s.cis c).evict.length ≥ 64 then drainEvict c (count (evictStallCount c) 1 s) else s

/-- Ways a fill may replace. -/
def victimWays (s : State) (c set : Nat) (remote : Bool) : List Nat :=
  let unlocked := (List.range 16).filter fun w => !(s.way c set w).lock
  let rem := (List.range 16).filter fun w =>
    let l := s.way c set w
    l.remote && l.anyValid
  if remote ∧ rem.length ≥ (s.cis c).remoteWays then rem else unlocked

/-- choose_victim (R176): the way, and the set with its ages advanced. -/
def chooseVictim (c set : Nat) (remote : Bool) (s : State) : Nat × State :=
  let cand := victimWays s c set remote
  match cand.find? fun w => !(s.way c set w).anyValid with
  | some w => (w, s)
  | none =>
    let oldest := cand.foldl (fun m w => max m (s.way c set w).age) 0
    let up := 3 - oldest
    let s1 := cand.foldl (fun s w =>
      let l := s.way c set w
      s.setWay c set w { l with age := l.age + up }) s
    ((cand.find? fun w => (s1.way c set w).age == 3).getD 0, s1)

/-- The line of a way leaves it: dirty sectors to the eviction buffer; a remote copy is reported home. -/
def evictWay (c set w : Nat) (s : State) : State :=
  let l := s.way c set w
  let s1 := if l.anyDirty then s.modCis c fun x => { x with evict := x.evict ++ [l] }
    else if l.remote ∧ l.anyValid then s.setDir l.line ({ s.dirE l.line with remote := false }).norm
    else s
  s1.setWay c set w {}

/-- A way for a line: the one it has, or a victim's; a fill that needs a victim waits while the eviction buffer
is full (R178). -/
def allocWay (c line : Nat) (remote : Bool) (age : Nat) (s : State) : Nat × State :=
  match s.findWay c remote line with
  | some w => (w, s)
  | none =>
    let set := setOf s.hbm line
    let (w, s1) := chooseVictim c set remote (makeEvictRoom c s)
    let s2 := evictWay c set w s1
    (w, s2.setWay c set w { line := line, age := age, remote := remote })

/-- Sectors put into a line's way, valid. -/
def fillSectors (c line : Nat) (remote dirty : Bool) (age : Nat) (xs : List (Nat × List Byte × Bool))
    (s : State) : State :=
  let set := setOf s.hbm line
  let (w, s1) := allocWay c line remote age s
  let l := xs.foldl (fun (l : CLine) x =>
    l.setSec x.1 { valid := true, dirty := dirty, poison := x.2.2, data := x.2.1 }) (s1.way c set w)
  s1.setWay c set w { l with age := age }

/-! ## Reading a line at its home (R172, R175, R178) -/

/-- A sector as an eviction-buffer entry of the line holds it, newest entry first. -/
def evictedSector (s : State) (c line k : Nat) : Option CSec :=
  ((s.cis c).evict.reverse.find? fun l => l.line == line && (l.sec k).valid).map (·.sec k)

/-- The value of one sector at the home without changing any cache (a look at the home's order of
currency: way, eviction buffer, controller). -/
def homeLook (s : State) (c line k : Nat) : List Byte × Bool :=
  let way := (s.findWay c false line).map fun w => (s.way c (setOf s.hbm line) w).sec k
  match way with
  | some x => if x.valid then (x.data, x.poison) else (controllerRead (4 * line + k) s).1
  | none => match evictedSector s c line k with
    | some x => (x.data, x.poison)
    | none => (controllerRead (4 * line + k) s).1

/-- Sectors of a line that a read brings: from the eviction buffer, or from the controller. -/
def fetchSectors (c line : Nat) : List Nat → State → List (Nat × List Byte × Bool) × State
  | [], s => ([], s)
  | k :: ks, s =>
    match evictedSector s c line k with
    | some x =>
      let r := fetchSectors c line ks s
      ((k, x.data, x.poison) :: r.1, r.2)
    | none =>
      let r0 := controllerRead (4 * line + k) s
      let r := fetchSectors c line ks r0.2
      ((k, r0.1.1, r0.1.2) :: r.1, r.2)

/-- Is sector k of the line valid in the home Cistern? -/
def validAt (s : State) (c : Nat) (remote : Bool) (line k : Nat) : Bool :=
  match s.findWay c remote line with
  | some w => ((s.way c (setOf s.hbm line) w).sec k).valid
  | none => false

/-- Age of a fill by its source (R175). -/
def fillAge (streaming prefetch : Bool) : Nat := if streaming then 3 else if prefetch then 2 else 1

/-- A hit sets the age to 0, but for a streaming request (R175). -/
def hitAge (c line : Nat) (remote streaming : Bool) (s : State) : State :=
  match s.findWay c remote line with
  | some w => if streaming then s else
      let l := s.way c (setOf s.hbm line) w
      s.setWay c (setOf s.hbm line) w { l with age := 0 }
  | none => s

/-- Is the stack of a line in service? -/
def lineActive (s : State) (line : Nat) : Bool := (s.stack (s.stackOf (128 * line))).mode == .active

/-- A demand read of sectors `ks` at the home Cistern: fills what is missing; true on a hit. -/
def cisternRead (c line : Nat) (ks : List Nat) (streaming : Bool) (s : State) : Bool × State :=
  let missing := ks.filter fun k => !validAt s c false line k
  if missing.isEmpty then (true, count (hitCount c) 1 (hitAge c line false streaming s))
  else
    let (xs, s1) := fetchSectors c line missing s
    (false, count (missCount c) 1 (fillSectors c line false false (fillAge streaming false) xs s1))

/-! ## Prefetch (R179, R180) -/

/-- A whole line prefetched into its home Cistern, if absent and its stack is ACTIVE. -/
def prefetchLine (c line : Nat) (streaming : Bool) (s : State) : State :=
  let a := 128 * line
  if a + 128 ≤ poolBytes ∧ s.cisOf a = c ∧ (s.stack (s.stackOf a)).mode = .active
      ∧ (List.range 4).any (fun k => !validAt s c false line k) then
    let missing := (List.range 4).filter fun k => !validAt s c false line k
    let (xs, s1) := fetchSectors c line missing s
    count (prefetchCount c) 1 (fillSectors c line false false (fillAge streaming true) xs s1)
  else s

/-- A tracker after a request of its requester at a line: its stride is kept, begun or dropped. -/
def Tracker.step' (t : Tracker) (line : Nat) : Tracker :=
  let d : Int := (line : Int) - t.last
  if d = t.step ∧ d ≠ 0 then { t with last := line, seen := t.seen + 1 }
  else { t with last := line, step := if d.natAbs ≤ 64 then d else 0, seen := if d ≠ 0 ∧ d.natAbs ≤ 64 then 1 else 0 }

/-- Two equal spacings are three consecutive misses: the stride is confirmed. -/
def Tracker.confirmed (t : Tracker) : Bool := t.seen ≥ 2

/-- The trackers after one more is allocated for a requester: four each, 128 in all, the least
recently used leaving. -/
def allocTracker (t : Tracker) (l : List Tracker) : List Tracker :=
  let mine := l.filter (·.req == t.req)
  let l := if mine.length ≥ 4 then (match mine.getLast? with
    | some old => l.erase old
    | none => l) else l
  t :: l.take 127

/-- Tracks a request and prefetches what its stride or the next-line rule asks for; `hit` requests
only continue a confirmed stride. -/
def prefetchAfter (c req line : Nat) (hit streaming : Bool) (depth : Nat) (s : State) : State :=
  let x := s.cis c
  let page := line / 524288
  let t0 := x.trackers.find? fun t => t.req == req && t.page == page
  let covered : Bool := match t0 with
    | some t => x.strideEn && t.confirmed && (line : Int) - t.last == t.step
    | none => false
  let t1 : Option Tracker := match t0 with
    | some t => if hit && !covered then none else some (t.step' line)
    | none => if hit then none else some ⟨req, page, line, 0, 0⟩
  let s1 := match t1 with
    | none => s
    | some t => s.modCis c fun x => { x with
        trackers := match t0 with
          | some o => t :: x.trackers.erase o
          | none => allocTracker t x.trackers }
  if depth > 48 then s1
  else
    let s2 := match t1 with
      | some t =>
        if x.strideEn && t.confirmed && (!hit || covered) then
          (List.range x.depth).foldl (fun (s : State) (k : Nat) =>
            let n : Int := (line : Int) + t.step * ((k : Nat) + 1 : Int)
            if 0 ≤ n ∧ n.toNat / 524288 = page then prefetchLine c n.toNat streaming s else s) s1
        else s1
      | none => s1
    let confirmedNow : Bool := match t1 with
      | some t => x.strideEn && t.confirmed
      | none => false
    if !hit && x.nextLine && !covered && !confirmedNow
        && 128 * (line + 1) / 2048 == 128 * line / 2048 then
      prefetchLine c (line + 1) streaming s2
    else s2

/-! ## Writing at the home (R173, R178) -/

/-- Whole sectors installed valid and dirty at the home. Sectors that were valid are hit; others count as a
demand fill, for the way's age and for MISS_COUNT (DESIGN CHOICE, log 108). -/
def cisternWriteWhole (c line : Nat) (xs : List (Nat × List Byte × Bool)) (streaming : Bool) (s : State) : State :=
  let s := drainLine c line s
  let hit := xs.all fun x => validAt s c false line x.1
  let age := match s.findWay c false line with
    | some w => if hit then (if streaming then (s.way c (setOf s.hbm line) w).age else 0) else fillAge streaming false
    | none => fillAge streaming false
  fillSectors c line false true age xs s

/-- One piece of a sector written at the home: whole, merged into a valid sector, or passed on; discarded under
an erased key (09 R219). -/
def homeWriteSector (c sn off : Nat) (bs : List Byte) (poison streaming : Bool) (s : State) : State :=
  let line := sn / 4
  let k := sn % 4
  if (s.stack (s.stackOf (32 * sn))).mode ≠ .active then offlineAccess (s.stackOf (32 * sn)) s
  else if (s.keyOf (s.selectorOf (32 * sn))).isNone then s
  else
  let s := dropWriteBack sn s
  if bs.length = 32 then cisternWriteWhole c line [(k, bs, poison)] streaming s
  else
    let s := drainLine c line s
    match s.findWay c false line with
    | some w =>
      let set := setOf s.hbm line
      let l := s.way c set w
      let x := l.sec k
      if x.valid then
        let d := overlay x.data (((List.range bs.length).zip bs).map fun p => (off + p.1, p.2))
        hitAge c line false streaming
          (s.setWay c set w (l.setSec k { x with dirty := true, data := d, poison := x.poison || poison }))
      else controllerWritePart sn off bs poison s
    | none => controllerWritePart sn off bs poison s

/-- Bytes at a pool address cut into pieces that stay within one sector. -/
def sectorPieces (a : Nat) (bs : List Byte) : Nat → List (Nat × Nat × List Byte)
  | 0 => []
  | fuel + 1 =>
    if bs = [] then []
    else
      let off := a % 32
      let n := min (32 - off) bs.length
      (a / 32, off, bs.take n) :: sectorPieces (a + n) (bs.drop n) fuel

/-- Sectors of a line that pieces of it touch. -/
def touchedSectors (ws : List (Nat × List Byte × Bool)) : List Nat :=
  (ws.flatMap fun w => (List.range ((w.1 % 32 + w.2.1.length + 31) / 32)).map fun i => (w.1 / 32 + i) % 4).eraseDups

/-- A write request at a home is a hit when every sector it touches was valid, a miss when it made one valid
(R196, log 108). -/
def countWrite (line : Nat) (ks : List Nat) (before after : State) : State :=
  let c := before.cisOf (128 * line)
  if ks.all (validAt before c false line) then count (hitCount c) 1 after
  else if ks.any fun k => !validAt before c false line k && validAt after c false line k then
    count (missCount c) 1 after
  else after

/-- A write accepted at the home of its bytes (R173, R174). -/
def homeWrite (a : Nat) (bs : List Byte) (poison streaming : Bool) (s : State) : State :=
  (sectorPieces a bs (bs.length + 1)).foldl (fun s p =>
    homeWriteSector (s.cisOf (32 * p.1)) p.1 p.2.1 p.2.2 poison streaming s) s

/-- A request's pieces of one line written at its home. -/
def homeWriteLine (line : Nat) (ws : List (Nat × List Byte × Bool)) (streaming : Bool) (s : State) : State :=
  let s1 := ws.foldl (fun s w => homeWrite w.1 w.2.1 w.2.2 streaming s) s
  if lineActive s line then countWrite line (touchedSectors ws) s s1 else s1

/-! ## Copies outside the home -/

/-- A P-die's modified line written back to the home. -/
def pdieWriteBack (h line : Nat) (s : State) : State :=
  let p := s.pline h line
  if p.modified then
    homeWriteLine line ((List.range 4).map fun k =>
      (128 * line + 32 * k, (p.data.drop (32 * k)).take 32, p.poison.contains k)) (coreStreaming s line) s
  else s

/-- Recall of an OWNED line: the owner writes back and keeps a clean copy (R184). -/
def recallLine (line : Nat) (s : State) : State :=
  let e := s.dirE line
  if e.owned then
    let h := if e.pA then 0 else 1
    let s1 := pdieWriteBack h line s
    let s2 := s1.setPline h line { s1.pline h line with modified := false }
    s2.setDir line { s2.dirE line with owned := false }
  else s

/-- A holder drops its copy. -/
def invalidate (line : Nat) (x : Holder) (s : State) : State :=
  match x with
  | .pdie h => (s.setPline h.val line {}).setDir line ({ s.dirE line with owned := false }.setP h.val false).norm
  | .remote =>
    let rc := remoteCis (s.cisOf (128 * line))
    let s1 := match s.findWay rc true line with
      | some w => s.setWay rc (setOf s.hbm line) w {}
      | none => s
    s1.setDir line ({ s1.dirE line with remote := false }).norm

def invalidateAll (line : Nat) (s : State) : State :=
  (s.dirE line).holders.foldl (fun s x => invalidate line x s) (recallLine line s)

/-- An entry for a line about to be held: a full set evicts its oldest entry (R185). -/
def dirRoom (line : Nat) (s : State) : State :=
  if (s.dirE line).any then s
  else
    let c := s.cisOf (128 * line)
    let mates := (Sparse.keys s.coh.dir).filter fun l =>
      Config.dirSet l % 262144 == Config.dirSet line % 262144 && s.cisOf (128 * l) == c
    let s1 := if mates.length ≥ 16 then
        let old := mates.foldl (fun b l => if (s.dirE l).order < (s.dirE b).order then l else b) (mates.headD 0)
        count (dirRecallCount c) 1 (invalidateAll old s)
      else s
    s1

/-- A holder recorded. -/
def addHolder (line : Nat) (x : Holder) (s : State) : State :=
  let s1 := dirRoom line s
  let e := s1.dirE line
  let e := if e.any then e else { e with order := s1.coh.nextOrder }
  let e := match x with
    | .pdie h => e.setP h.val true
    | .remote => { e with remote := true }
  let s2 := s1.setDir line e
  if (s1.dirE line).any then s2 else { s2 with coh := { s2.coh with nextOrder := s2.coh.nextOrder + 1 } }

/-! ## Reads of a line by any requester (R172, R184) -/

/-- Reads sectors `ks` of a line for a requester, through the remote copy where one may be made:
the sectors, each with its poison. Of a stack out of service all are poisoned, and each is counted (07 R164). -/
def readSectors (req line : Nat) (ks : List Nat) (streaming noRemote : Bool) (depth : Nat) (s : State) :
    List (List Byte × Bool) × State :=
  if !lineActive s line then
    (ks.map fun _ => (List.replicate 32 0, true), ks.foldl (fun s _ => offlineAccess (s.stackOf (128 * line)) s) s)
  else
  let s := recallLine line s
  let c := s.cisOf (128 * line)
  let rc := remoteCis c
  let far := halfOf req != c / 2
  let useRemote := far && !noRemote && (s.cis rc).remoteWays != 0
  if useRemote && ks.all (validAt s rc true line) then
    match s.findWay rc true line with
    | some w =>
      let l := s.way rc (setOf s.hbm line) w
      (ks.map fun k => ((l.sec k).data, (l.sec k).poison), count (hitCount rc) 1 (hitAge rc line true streaming s))
    | none => ([], s)
  else
    let (hit, s1) := cisternRead c line ks streaming s
    let vals := ks.map fun k => homeLook s1 c line k
    let s2 := prefetchAfter c req line hit streaming depth s1
    let s3 := if useRemote then
        let xs := (ks.zip vals).map fun p => (p.1, p.2.1, p.2.2)
        addHolder line .remote
          (count (missCount rc) 1 (fillSectors rc line true false (fillAge streaming false) xs s2))
      else s2
    (vals, s3)

/-- The writes held for a line, oldest first, laid over a sector: what a waiting reader will see. -/
def heldOver (s : State) (sn : Nat) (d : List Byte × Bool) : List Byte × Bool :=
  (s.coh.held.filter (·.line == sn / 4)).foldl (fun d h =>
    h.writes.foldl (fun (d : List Byte × Bool) w =>
      let hits := ((List.range w.2.1.length).zip w.2.1).filterMap fun p =>
        if (w.1 + p.1) / 32 = sn then some ((w.1 + p.1) % 32, p.2) else none
      if hits = [] then d
      else (overlay d.1 hits, w.2.2 || (d.2 && hits.length != 32))) d) d

def lineHeld (s : State) (line : Nat) : Bool := s.coh.held.any (·.line == line)

/-- Sectors of a line for an engine's read. Behind a held write the read waits: it has the data that it will
find, and what it does to the caches follows once it is served (R184). -/
def engineSectors (req line : Nat) (ks : List Nat) (streaming noRemote : Bool) (depth : Nat) (s : State) :
    List (List Byte × Bool) × State :=
  if lineHeld s line && lineActive s line then
    (ks.map fun k => heldOver s (4 * line + k) (homeLook s (s.cisOf (128 * line)) line k),
      { s with coh := { s.coh with waiting := s.coh.waiting ++ [.engine req line ks streaming noRemote depth] } })
  else readSectors req line ks streaming noRemote depth s

/-- An engine's coherent read of bytes of the pool, line by line: bytes with a poison mark each. -/
def engineRead (req : Nat) (streaming noRemote : Bool) (depth : Nat) :
    Nat → Nat → Nat → State → List (Byte × Bool) × State
  | 0, _, _, s => ([], s)
  | fuel + 1, a, n, s =>
    if n = 0 then ([], s)
    else
      let line := a / 128
      let len := min n (128 - a % 128)
      let first := a / 32
      let last := (a + len - 1) / 32
      let ks := (List.range (last - first + 1)).map fun i => (first + i) % 4
      let (vs, s1) := engineSectors req line ks streaming noRemote depth s
      let bytes := vs.flatMap fun v => v.1.map fun b => (b, v.2)
      let mine := (bytes.drop (a % 32)).take len
      let r := engineRead req streaming noRemote depth fuel (a + len) (n - len) s1
      (mine ++ r.1, r.2)

/-- Engine read of `n` bytes at a pool address. -/
def poolRead (req a n : Nat) (streaming noRemote : Bool) (s : State) : List (Byte × Bool) × State :=
  engineRead req streaming noRemote 0 (n / 128 + 2) a n s

/-! ## Engine writes (R184) -/

/-- Reservations of cores on a line end when another agent writes it. -/
def breakReservations (line : Nat) (except : Option Nat) (s : State) : State :=
  { s with cores := s.cores.filterMap fun e =>
      let v := if e.2.reservation = some line ∧ some e.1 ≠ except then { e.2 with reservation := none } else e.2
      if v = {} then none else some (e.1, v) }

/-- Pieces of one line written by an engine: at once when no other holder has the line and nothing is
held for it, otherwise held until every holder has acknowledged. -/
def lineWrite (line : Nat) (ws : List (Nat × List Byte × Bool)) (streaming : Bool) (tag : HoldTag) (s : State) : State :=
  let s1 := breakReservations line none (recallLine line s)
  let hs := (s1.dirE line).holders
  if hs.isEmpty ∧ (s1.coh.held.any (·.line == line)) = false then
    homeWriteLine line ws streaming s1
  else { s1 with coh := { s1.coh with held := s1.coh.held ++ [⟨line, ws, streaming, hs, tag⟩] } }

/-- Bytes with poison marks cut into runs of one mark. -/
def markRuns (a : Nat) : List (Byte × Bool) → List (Nat × List Byte × Bool)
  | [] => []
  | (b, p) :: rest =>
    match markRuns (a + 1) rest with
    | (a', bs, q) :: more => if p = q then (a, b :: bs, p) :: more else (a, [b], p) :: (a', bs, q) :: more
    | [] => [(a, [b], p)]

/-- The marks of a destination sector: poisoned as a whole when any byte of it is (10 R232). -/
def spreadMarks (a : Nat) (bs : List (Byte × Bool)) : List (Byte × Bool) :=
  let ix := (List.range bs.length).zip bs
  let bad := (ix.filter (·.2.2)).map fun p => (a + p.1) / 32
  ix.map fun p => (p.2.1, bad.contains ((a + p.1) / 32))

/-- An engine's coherent write of bytes at a pool address. -/
def engineWrite (streaming : Bool) (tag : HoldTag) : Nat → Nat → List (Byte × Bool) → State → State
  | 0, _, _, s => s
  | fuel + 1, a, bs, s =>
    if bs = [] then s
    else
      let len := min bs.length (128 - a % 128)
      let s1 := lineWrite (a / 128) (markRuns a (bs.take len)) streaming tag s
      engineWrite streaming tag fuel (a + len) (bs.drop len) s1

/-- Engine write of marked bytes. -/
def poolWriteMarked (a : Nat) (bs : List (Byte × Bool)) (streaming : Bool) (tag : HoldTag) (s : State) : State :=
  engineWrite streaming tag (bs.length / 128 + 2) a (spreadMarks a bs) s

/-- Engine write of good bytes. -/
def poolWrite (a : Nat) (bs : List Byte) (tag : HoldTag) (s : State) : State :=
  poolWriteMarked a (bs.map fun b => (b, false)) false tag s

/-- Are all writes with this tag visible? -/
def tagClear (tag : HoldTag) (s : State) : Bool := !(s.coh.held.any (·.tag == tag))

/-- Little-endian number of marked bytes, and whether any is poisoned. -/
def markedNat (bs : List (Byte × Bool)) : Nat × Bool := (leNat (bs.map Prod.fst), bs.any Prod.snd)

/-- EVICTION_BUFFER_DRAIN (R177). -/
def execEvictionBufferDrain (c : CisternId) (s : State) : Host.Outcome State Fault Refusal :=
  .next (clocked (drainEvict c.val) s)

/-- HOME_ENGINE_READ (R184): bytes that lie in the pool. -/
def execHomeEngineRead (eng : BitVec 8) (pa : PAddr) (bytes : Nat) (streaming noRemote : Bool) (depth : Nat)
    (s : State) : Host.Outcome State Fault Refusal :=
  if !powered s then .next s else
  .next (if pa.toNat + bytes ≤ poolBytes then
      let r := engineRead eng.toNat streaming noRemote depth (bytes / 128 + 2) pa.toNat bytes s
      { r.2 with hbm := { r.2.hbm with delivered := some (r.1.map Prod.fst, r.1.any Prod.snd) } }
    else s)

/-- HOME_ENGINE_WRITE (R184). -/
def execHomeEngineWrite (_eng : BitVec 8) (pa : PAddr) (data : List Byte) (poison streaming : Bool)
    (s : State) : Host.Outcome State Fault Refusal :=
  if !powered s then .next s else
  .next (if pa.toNat + data.length ≤ poolBytes then
      poolWriteMarked pa.toNat (data.map fun b => (b, poison)) streaming .none s
    else s)

end Sys2Proof.Machine
end

