-- ==== Sys2Proof/Machine/CoreMem.lean ====
section
/-! DEFINITION. Core accesses to the pool (spec 08 R184-R192): home reads and writes for a P-die, loads,
stores, atomics, cache-block operations, and the acknowledgements that release held engine writes. -/

namespace Sys2Proof.Machine

/-- A core read reaches the home: an OWNED copy elsewhere is recalled, the P-die becomes a SHARED
holder and receives the line (R184). -/
def homeCoreRead (c line depth : Nat) (s : State) : State :=
  let h := c / 64
  let e := s.dirE line
  if e.owned && e.hasP h then s
  else
    let (vs, s1) := readSectors (codeCore c) line [0, 1, 2, 3] (coreStreaming s line) false depth s
    let s2 := addHolder line (.pdie (if h = 0 then 0 else 1)) s1
    let bad := (List.range 4).filter fun k => (vs.getD k ([], false)).2
    s2.setPline h line { held := true, data := vs.flatMap Prod.fst, poison := bad }

/-- A core write reaches the home: every other holder is invalidated, modified data is recalled, and
the P-die owns the line (R184). -/
def homeCoreWrite (c line depth : Nat) (s : State) : State :=
  let h := c / 64
  let e := s.dirE line
  if e.owned && e.hasP h then s
  else
    let s1 := homeCoreRead c line depth s
    let others := (s1.dirE line).holders.filter fun x => x != .pdie (if h = 0 then 0 else 1)
    let s2 := others.foldl (fun s x => invalidate line x s) s1
    s2.setDir line { s2.dirE line with owned := true }

/-- A fault below machine mode that is delegated is taken in supervisor mode. -/
def CoreState.toSupervisor (x : CoreState) (cause : Nat) : Bool := x.mode != .machine && x.delegated.getLsbD cause

/-- A core's fault: its cause, and the faulting address in mtval or stval (R192). -/
def coreFault (c cause pa : Nat) (s : State) : State :=
  s.modCore c fun x => { x with
    mtval := if x.toSupervisor cause then x.mtval else w64 pa
    stval := if x.toSupervisor cause then w64 pa else x.stval
    faultCause := cause
    faults := x.faults + 1 }

/-- satp.MODE as it stands after a write of v (Table 8-3). -/
def satpAfter (old v : Nat) : Nat := if v = 0 ∨ v = 10 then v else old

/-- A CBIE field as it stands after a write of v (R187). -/
def cbieAfter (v : Nat) : Nat := if v % 4 = 3 then 1 else v % 4

/-- An access to a CSR by core c: below the CSR's mode it is an illegal instruction (Table 8-6, log 95). -/
def csrAccess (c : Nat) (needs : CoreMode) (f : State → State) (s : State) : State :=
  if needs.level ≤ (s.core c).mode.level then f s else coreFault c 2 0 s

/-- A poisoned access: the fault, and merrinfo records it (R192). -/
def corePoison (c cause pa : Nat) (s : State) : State :=
  (coreFault c cause pa s).modCore c fun x => { x with merrinfo := w64 (2 ^ 63 + 2 ^ 60 + pa % 2 ^ 52) }

/-- The lines a range touches. -/
def linesOf (a n : Nat) : List Nat :=
  (List.range ((a + n - 1) / 128 - a / 128 + 1)).map (a / 128 + ·)

/-- Bytes of P-die h's copies, each with its poison mark. -/
def pdieBytes (s : State) (h a n : Nat) : List (Byte × Bool) :=
  (List.range n).map fun i =>
    let p := s.pline h ((a + i) / 128)
    (p.data.getD ((a + i) % 128) 0, p.poison.contains ((a + i) % 128 / 32))

/-- Cause of a load's access fault. -/
def loadCause : LoadKind → Nat
  | .fetch => 1
  | _ => 5

/-- A load of pool bytes once no held write stands before it. -/
def poolLoadNow (c a n : Nat) (kind : LoadKind) (s : State) : State :=
  let h := c / 64
  let s1 := (linesOf a n).foldl (fun s l => if (s.pline h l).held then s else homeCoreRead c l 0 s) s
  let bs := pdieBytes s1 h a n
  if bs.any Prod.snd then corePoison c (loadCause kind) a s1
  else s1.modCore c fun x => { x with
    loaded := bs.map Prod.fst
    reservation := if kind = .reserved then some (a / 128) else x.reservation }

/-- Bytes stored into an owned line; a sector written whole loses its poison. -/
def storeOwned (h a : Nat) (data : List Byte) (s : State) : State :=
  (sectorPieces a data (data.length + 1)).foldl (fun s p =>
    let line := p.1 / 4
    let x := s.pline h line
    let bs := ((List.range p.2.2.length).zip p.2.2).map fun q => (32 * (p.1 % 4) + p.2.1 + q.1, q.2)
    s.setPline h line { x with
      modified := true
      data := overlay x.data bs
      poison := if p.2.2.length = 32 then x.poison.filter (· != p.1 % 4) else x.poison }) s

/-- An atomic operation on values of w bytes. -/
def amoValue (op : AmoOp) (w old arg : Nat) : Nat :=
  let k := 8 * w
  match op with
  | .swap => arg
  | .add => (old + arg) % 2 ^ k
  | .xor => old ^^^ arg
  | .and => old &&& arg
  | .or => old ||| arg
  | .min => if sext k old < sext k arg then old else arg
  | .max => if sext k old < sext k arg then arg else old
  | .minu => min old arg
  | .maxu => max old arg

/-- A store to pool bytes once no held write stands before it. -/
def poolStoreNow (c a : Nat) (data : List Byte) (kind : StoreKind) (s : State) : State :=
  let h := c / 64
  let own (s : State) : State := (linesOf a data.length).foldl (fun s l =>
    breakReservations l (some c) (homeCoreWrite c l 0 s)) s
  match kind with
  | .conditional =>
    if (s.core c).reservation = some (a / 128) then
      (storeOwned h a data (own s)).modCore c fun x => { x with reservation := none, loaded := [0] }
    else s.modCore c fun x => { x with reservation := none, loaded := [1] }
  | .amo op =>
    let s1 := own s
    let old := pdieBytes s1 h a data.length
    if old.any Prod.snd then corePoison c 7 a s1
    else
      let v := amoValue op data.length (leNat (old.map Prod.fst)) (leNat data)
      (storeOwned h a (leBytes data.length v) s1).modCore c fun x => { x with loaded := old.map Prod.fst }
  | _ => storeOwned h a data (own s)

/-- cbo.zero: the whole line written with zeros at the home; no other copy remains (R187). -/
def zeroLine (line : Nat) (s : State) : State :=
  let s1 := breakReservations line none (invalidateAll line s)
  homeWriteLine line [(128 * line, List.replicate 128 0, false)] (coreStreaming s line) s1

/-- cbo.clean: the modified bytes, whichever P-die holds them, are accepted by the home. -/
def cleanLine (line : Nat) (s : State) : State := recallLine line s

/-- cbo.flush: as clean, the cores' copies go, and the home's dirty sectors leave for the controller; a
locked line stays valid (R182, R187). -/
def flushLine (line : Nat) (s : State) : State :=
  let s1 := cleanLine line s
  let s2 := ((s1.dirE line).holders.filter (· != .remote)).foldl (fun s x => invalidate line x s) s1
  let k := s2.cisOf (128 * line)
  let s3 := drainLine k line s2
  match s3.findWay k false line with
  | none => s3
  | some w =>
    let set := setOf s3.hbm line
    let l := s3.way k set w
    let s4 := writeBackDirty l s3
    let clean := (List.range 4).foldl (fun (l : CLine) i => l.setSec i { l.sec i with dirty := false }) l
    s4.setWay k set w (if l.lock then clean else {})

/-- A request waiting at a home, done now. -/
def HomeReq.perform (r : HomeReq) (s : State) : State :=
  match r with
  | .read c pa d => homeCoreRead c.val (pa.toNat / 128) d s
  | .own c pa => homeCoreWrite c.val (pa.toNat / 128) 0 s
  | .load c pa n k => poolLoadNow c.val pa.toNat n k s
  | .store c pa bs k => poolStoreNow c.val pa.toNat bs k s
  | .zero _ pa => zeroLine (pa.toNat / 128) s
  | .clean _ pa => cleanLine (pa.toNat / 128) s
  | .flush _ pa => flushLine (pa.toNat / 128) s
  | .engine q line ks st nr d => (readSectors q line ks st nr d s).2

/-- The lines a waiting request needs. -/
def HomeReq.lines : HomeReq → List Nat
  | .read _ pa _ => [pa.toNat / 128]
  | .own _ pa => [pa.toNat / 128]
  | .load _ pa n _ => linesOf pa.toNat n
  | .store _ pa bs _ => linesOf pa.toNat bs.length
  | .zero _ pa => [pa.toNat / 128]
  | .clean _ pa => [pa.toNat / 128]
  | .flush _ pa => [pa.toNat / 128]
  | .engine _ line _ _ _ _ => [line]

/-- A core's request to the home: done at once, or waiting behind the held writes of its lines. -/
def homeRequest (r : HomeReq) (s : State) : State :=
  if r.lines.any (lineHeld s) then { s with coh := { s.coh with waiting := s.coh.waiting ++ [r] } }
  else r.perform s

/-- Waiting requests in order, each done once none of its lines is held. -/
def replay : List HomeReq → State → State
  | [], s => s
  | r :: rs, s =>
    if r.lines.any (lineHeld s) then replay rs { s with coh := { s.coh with waiting := s.coh.waiting ++ [r] } }
    else replay rs (r.perform s)

def replayWaiting (s : State) : State :=
  replay s.coh.waiting { s with coh := { s.coh with waiting := [] } }

/-- The held writes of a line whose acknowledgements are complete are accepted, oldest first. -/
def releaseHeld (line : Nat) (s : State) : State :=
  let mine := s.coh.held.filter (·.line == line)
  if mine.all (·.acks.isEmpty) then
    let s1 : State := { s with coh := { s.coh with held := s.coh.held.filter (·.line != line) } }
    mine.foldl (fun s h => homeWriteLine h.line h.writes h.streaming s) s1
  else s

/-- A holder has dropped its copy; the last acknowledgement lets the held writes through and the
waiting requests resume (R184). -/
def holderAcknowledge (line : Nat) (holder : Holder) (s : State) : State :=
  if (s.coh.held.any fun h => h.line == line && h.acks.contains holder) then
    let s1 := invalidate line holder s
    let s2 : State := { s1 with coh := { s1.coh with
      held := s1.coh.held.map fun h => if h.line == line then { h with acks := h.acks.filter (· != holder) } else h } }
    replayWaiting (releaseHeld line s2)
  else s

/-- HOME_CORE_READ (R184). -/
def execHomeCoreRead (c : CoreId) (pa : PAddr) (depth : Nat) (s : State) : Host.Outcome State Fault Refusal :=
  if !powered s then .next s else
  .next (if pa.toNat < poolBytes then homeRequest (.read c pa depth) s else s)

/-- HOME_CORE_WRITE (R184). -/
def execHomeCoreWrite (c : CoreId) (pa : PAddr) (s : State) : Host.Outcome State Fault Refusal :=
  if !powered s then .next s else
  .next (if pa.toNat < poolBytes then homeRequest (.own c pa) s else s)

/-- A cache-block operation: outside the pool a hole faults, other regions hold nothing cached by cores. -/
def cboAt (c : CoreId) (pa : PAddr) (f : State → State) (s : State) : State :=
  match regionOf pa.toNat with
  | .pool => f s
  | .hole => coreFault c.val 7 pa.toNat s
  | _ => s

/-- CBO_CLEAN (R187). -/
def execCboClean (c : CoreId) (pa : PAddr) (s : State) : Host.Outcome State Fault Refusal :=
  if !powered s then .next s else
  .next (cboAt c pa (homeRequest (.clean c pa)) s)

/-- CBO_FLUSH (R187). -/
def execCboFlush (c : CoreId) (pa : PAddr) (s : State) : Host.Outcome State Fault Refusal :=
  if !powered s then .next s else
  .next (cboAt c pa (homeRequest (.flush c pa)) s)

/-- CBO_INVAL (R187): CBIE never reads 0b11, so it performs as cbo.flush. -/
def execCboInval (c : CoreId) (pa : PAddr) (s : State) : Host.Outcome State Fault Refusal :=
  if !powered s then .next s else
  .next (cboAt c pa (homeRequest (.flush c pa)) s)

/-- CBO_ZERO (R187): to the pool only; elsewhere a store access fault. -/
def execCboZero (c : CoreId) (pa : PAddr) (s : State) : Host.Outcome State Fault Refusal :=
  if !powered s then .next s else
  .next (if pa.toNat < poolBytes then homeRequest (.zero c pa) s else coreFault c.val 7 pa.toNat s)

/-! ## Interrupt files and timer (R190, R191) -/

/-- A message to an IMSIC file of a core; identity 0 has no effect. -/
def imsicSend (target identity : Nat) (machine : Bool) (s : State) : State :=
  if identity = 0 ∨ identity > 255 ∨ target ≥ 128 then s
  else s.modCore target fun x =>
    if machine then { x with machineFile := x.machineFile ||| BitVec.ofNat 256 (2 ^ identity) }
    else { x with supervisorFile := x.supervisorFile ||| BitVec.ofNat 256 (2 ^ identity) }

/-- MIPISEND (R190). -/
def execMipisend (c : CoreId) (v : W64) (s : State) : Host.Outcome State Fault Refusal :=
  .next (clocked (csrAccess c.val .machine (imsicSend (fieldOf v 8 7) (fieldOf v 0 8) (bitOf v 15))) s)

/-- SIPISEND (R190): always the supervisor file. -/
def execSipisend (c : CoreId) (v : W64) (s : State) : Host.Outcome State Fault Refusal :=
  .next (clocked (csrAccess c.val .supervisor (imsicSend (fieldOf v 8 7) (fieldOf v 0 8) false)) s)

/-- merrinfo is read, then its bit 63 clears (Table 8-6). -/
def merrinfoRead (c : Nat) (s : State) : State :=
  s.modCore c fun x => { x with
    loaded := leBytes 8 x.merrinfo.toNat
    merrinfo := x.merrinfo &&& ~~~ (oneBit 63) }

/-- MERRINFO_READ (R190). -/
def execMerrinfoRead (c : CoreId) (s : State) : Host.Outcome State Fault Refusal :=
  .next (clocked (csrAccess c.val .machine (merrinfoRead c.val)) s)

/-- Device time on a half (01 R16): what its cores' time CSRs read. -/
def timeOnHalf (h : Nat) (s : State) : Nat := if h = 0 then s.now else ((s.now : Int) + s.time.halfB).toNat

/-- MTIP of core c is 1 while time ≥ mtimecmp (R191). -/
def syncTimer (s : State) (c : Nat) : State :=
  s.modCore c fun x => { x with mtip := decide (x.mtimecmp.toNat ≤ timeOnHalf (c / 64) s) }

/-- MTIP of every core that has a timer set, after device time has moved. -/
def syncTimers (s : State) : State := (s.cores.map Prod.fst).foldl syncTimer s

/-- mtimecmp written. -/
def machineTimer (c : Nat) (cmp : W64) (s : State) : State :=
  syncTimer (s.modCore c fun x => { x with mtimecmp := cmp }) c

/-- MACHINE_TIMER (R191). -/
def execMachineTimer (c : CoreId) (cmp : W64) (s : State) : Host.Outcome State Fault Refusal :=
  .next (clocked (csrAccess c.val .machine (machineTimer c.val cmp)) s)

end Sys2Proof.Machine
end

