-- ==== Sys2Proof/Machine/HostPort.lean ====
section
/-! DEFINITION. Attach-host memory, peers, MSI-X and flush reads as the engines use them (spec 15 R327-R333). -/

namespace Sys2Proof.Machine

def State.port (s : State) (p : Nat) : PortSt := Sparse.get {} s.host.ports p
def State.modPort (s : State) (p : Nat) (f : PortSt → PortSt) : State :=
  { s with host := { s.host with ports := Sparse.set {} s.host.ports p (f (s.port p)) } }

def winCtr (p off : Nat) : Nat := 0x20100 + off + 0x40 * p
def poisonTxCount (p : Nat) : Nat := winCtr p 0x10
def poisonRxCount (p : Nat) : Nat := winCtr p 0x18
def reqFailCount (p : Nat) : Nat := winCtr p 0x20
def hostCacheHitCount (p : Nat) : Nat := winCtr p 0x28
def snoopCount (p : Nat) : Nat := winCtr p 0x30
def flushCount (p : Nat) : Nat := winCtr p 0x38

def reqFail (p : Nat) (s : State) : State := raiseEv srcWin 4 (count (reqFailCount p) 1 s)

/-- The port can carry a request: link up and Bus Master Enable. -/
def portCarries (s : State) (p : Nat) : Bool := (s.port p).linkUp && (s.port p).bme

/-- The enabled peer range an aperture address falls in: its port (R332). -/
def peerPort (s : State) (a : Nat) : Option Nat :=
  ((List.range 16).find? fun k =>
    let b := Sparse.get 0 s.host.p2pBase k
    let l := Sparse.get 0 s.host.p2pLimit k
    bitOf b 63 && decide (fieldOf b 12 40 ≤ a / 4096 ∧ a / 4096 ≤ fieldOf l 12 40)).map fun k =>
      b2n (bitOf (Sparse.get 0 s.host.p2pBase k) 62)

/-- The port an access of a requester's half takes, none when no port can carry it (R327, R332). -/
def routePort (s : State) (half a : Nat) : Option Nat :=
  match peerPort s a with
  | some p => if portCarries s p then some p else none
  | none =>
    if portCarries s half then some half
    else if portCarries s (1 - half) then some (1 - half) else none

/-- The bytes of one aperture address range, as cached or as last seen, and whether poisoned. -/
def hostBytes (s : State) (a n : Nat) : List (Byte × Bool) :=
  (List.range n).map fun i => (s.host.mem.read (a + i), Sparse.get false s.host.poison ((a + i) / 32))

/-- Set of a host-line cache: one of 4,096 (R328). -/
def hostSet (line : Nat) : Nat := Config.hostSet line % 4096

/-- The port that a request counts as failed on: a peer's, else that of the requester's half. -/
def failPort (s : State) (half a : Nat) : Nat := (peerPort s a).getD half

/-- A line fills the host-line cache of a port's X-die: the oldest of a set's 16 makes room (R328). -/
def fillHostLine (line : Nat) (bytes : List Byte) (x : PortSt) : PortSt :=
  let mates := x.cache.filter fun l => hostSet l.1 == hostSet line
  let keep := if mates.length ≥ 16 then (match mates.getLast? with
    | some l => x.cache.erase l
    | none => x.cache) else x.cache
  { x with cache := (line, bytes) :: keep }

/-- Reads within one 64-byte line. -/
def hostLineRead (half a n : Nat) (streaming : Bool) (s : State) : List (Byte × Bool) × State :=
  match routePort s half a with
  | none => (List.replicate n (0, true), reqFail (failPort s half a) s)
  | some p =>
    let line := a / 64
    let peer := (peerPort s a).isSome
    match (if peer then none else (s.port p).cache.find? (·.1 == line)) with
    | some l => (((l.2.drop (a % 64)).take n).map fun b => (b, false), count (hostCacheHitCount p) 1 s)
    | none =>
      let bs := hostBytes s a n
      let s1 := emit (.hostRead (if p = 0 then 0 else 1) a n) s
      let s2 := if bs.any Prod.snd then raiseEv srcWin 3 (count (poisonRxCount p) 1 s1) else s1
      if (s.port p).cacheEn && !streaming && !peer && !bs.any Prod.snd then
        (bs, s2.modPort p (fillHostLine line ((hostBytes s (64 * line) 64).map Prod.fst)))
      else (bs, s2)

def hostReadFuel (half : Nat) (streaming : Bool) : Nat → Nat → Nat → State → List (Byte × Bool) × State
  | 0, _, _, s => ([], s)
  | fuel + 1, a, n, s =>
    if n = 0 then ([], s)
    else
      let len := min n (64 - a % 64)
      let r := hostLineRead half a len streaming s
      let q := hostReadFuel half streaming fuel (a + len) (n - len) r.2
      (r.1 ++ q.1, q.2)

/-- An engine or core read of attach-host memory or a peer (R327-R329). -/
def hostRead (half a n : Nat) (streaming : Bool) (s : State) : List (Byte × Bool) × State :=
  hostReadFuel half streaming (n / 64 + 2) a n s

/-- The lines of a write leave the host-line caches (R330). -/
def dropHostLines (a n : Nat) (s : State) : State :=
  let hit (l : Nat × List Byte) : Bool := decide (a < 64 * l.1 + 64 ∧ 64 * l.1 < a + n)
  (s.modPort 0 fun x => { x with cache := x.cache.filter fun l => !hit l }).modPort 1
    fun x => { x with cache := x.cache.filter fun l => !hit l }

/-- One posted write (R330); `ep` carries poison. -/
def hostWriteRun (half a : Nat) (bs : List Byte) (ep : Bool) (s : State) : State :=
  match routePort s half a with
  | none => reqFail (failPort s half a) s
  | some p =>
    let s1 := dropHostLines a bs.length s
    let sectors := (List.range ((a + bs.length - 1) / 32 - a / 32 + 1)).map (a / 32 + ·)
    let s2 : State := { s1 with host := { s1.host with
      mem := s1.host.mem.writeN a bs
      poison := sectors.foldl (fun m k => if ep then Sparse.set false m k true else
        if a ≤ 32 * k ∧ 32 * k + 32 ≤ a + bs.length then Sparse.set false m k false else m) s1.host.poison } }
    emit (.hostWrite (if p = 0 then 0 else 1) a bs ep) s2

/-- A run of bytes as posted writes: none crosses a 4 KiB boundary. -/
def postedWrites : Nat → Nat × List Byte × Bool → List (Nat × List Byte × Bool)
  | 0, _ => []
  | fuel + 1, (a, bs, ep) =>
    let n := 4096 - a % 4096
    if bs.length ≤ n then [(a, bs, ep)] else (a, bs.take n, ep) :: postedWrites fuel (a + n, bs.drop n, ep)

/-- A write of marked bytes to attach-host memory or a peer: posted writes, one per run of one mark in a page. -/
def hostWrite (half a : Nat) (bs : List (Byte × Bool)) (s : State) : State :=
  ((markRuns a (spreadMarks a bs)).flatMap (postedWrites (bs.length / 4096 + 2))).foldl (fun s r => hostWriteRun half r.1 r.2.1 r.2.2 s) s

/-! ## MSI-X (R333) -/

def canSendMsix (s : State) (p vec : Nat) : Bool :=
  let x := s.port p
  x.linkUp && x.bme && x.msixEnable && !x.functionMask && !(Sparse.get {} x.msix vec).masked

/-- A message of a vector: sent, or its pending bit set. -/
def sendMsix (p vec : Nat) (s : State) : State :=
  if canSendMsix s p vec then emit (.msix (if p = 0 then 0 else 1) vec) s
  else s.modPort p fun x => { x with pba := Sparse.set false x.pba vec true }

/-! ## Flush reads (R331) -/

/-- The ports on which a flush read can be sent. -/
def flushPorts (s : State) : List PortId :=
  ([0, 1] : List PortId).filter fun p => portCarries s p.val

def sendFlush (p : PortId) (s : State) : State := emit (.flushRead p) (count (flushCount p.val) 1 s)

end Sys2Proof.Machine
end

