-- ==== Sys2Proof/Machine/Xlt.lean ====
section
/-! DEFINITION. Engine address translation (spec 09): the walk, TLBs, outcomes of Table 9-5, notices;
and the accesses engines make once translated, to the pool, the aperture and the array stores. -/

namespace Sys2Proof.Machine

def xltCtr (off : Nat) : Nat := 0x500100 + off
def walkCount : Nat := xltCtr 0x00
def faultCount : Nat := xltCtr 0x08
def coalesceCount : Nat := xltCtr 0x10
def migrateCount : Nat := xltCtr 0x18
def invalCount : Nat := xltCtr 0x20
def xltErrCount : Nat := xltCtr 0x28
def noticeDropCount : Nat := xltCtr 0x30

/-! ## Entries (R198, R199) -/

def leafKey (e : W64) : Nat := fieldOf e 52 6
def leafAddr (e : W64) : Nat := fieldOf e 8 44 * 256
def leafPin (e : W64) : Bool := bitOf e 6
def leafRes (e : W64) : Nat := fieldOf e 4 2
def leafW (e : W64) : Bool := bitOf e 3
def leafR (e : W64) : Bool := bitOf e 2
def leafIs (e : W64) : Bool := bitOf e 1
def leafV (e : W64) : Bool := bitOf e 0

def resPool : Nat := 0
def resAttach : Nat := 1
def resAbsent : Nat := 2
def resStore : Nat := 3

/-- Size of a page. -/
def pageBytes (big : Bool) : Nat := if big then 0x80000000 else 0x4000000

/-- The boot page of 19 R396, which start-up rewrites: the lowest 64 MiB of the pool. -/
def bootPageBytes : Nat := 0x4000000

/-- A table of `n` bytes lies in the pool outside the boot page. -/
def tableInPool (a n : Nat) : Bool := bootPageBytes ≤ a && a + n ≤ poolBytes

/-- Is a valid entry of level 0, 1 or 2 malformed (R199)? -/
def malformed (level : Nat) (e : W64) : Bool :=
  let a := leafAddr e
  let resv := fieldOf e 58 6 != 0 || bitOf e 7
  if leafIs e then
    let n := pageBytes (level == 1)
    let res := leafRes e
    resv || level == 0
    || (a % n != 0 && !(res == resAbsent && a == 0))
    || (leafW e && !leafR e)
    || (res == resStore && (level == 1 || !leafPin e || leafKey e != 0
        || a < storeBase || a + n > storeBase + storeBytes))
    || (res == resPool && a + n > poolBytes)
    || (res == resAttach && (a < apertureBase || a + n > apertureEnd || leafKey e != 0))
    || (res == resAbsent && (leafPin e || (a != 0 && (a < apertureBase || a + n > apertureEnd))))
  else
    let n := if level = 0 then 0x10000 else 0x100
    resv || level == 2 || leafKey e != 0 || leafPin e || leafRes e != 0 || leafW e || leafR e
    || a % n != 0 || !tableInPool a n

/-! ## Outcomes -/

/-- Completion statuses (10, 09). -/
def stDone : BitVec 16 := 0x0000
def stNotPinned : BitVec 16 := 0xA001
def stPermission : BitVec 16 := 0xA002
def stPoisoned : BitVec 16 := 0xA101
def stStale : BitVec 16 := 0xA401
def stQueueHalted : BitVec 16 := 0xA402
def stHazard : BitVec 16 := 0xA501
def stWaitingForPermit : BitVec 16 := 0xA601

/-- What a translation comes to. -/
inductive XOut where
  /-- Proceeds: physical address, bytes to the end of the page, the leaf, whether the page is 2 GiB. -/
  | ok (pa left : Nat) (leaf : W64) (big : Bool)
  /-- An ABSENT leaf met by a copy engine: the page and its size. -/
  | absent (vpage : Nat) (big : Bool)
  | err (status : BitVec 16)
  /-- An invalidation of the range is in progress (R215). -/
  | blocked
  deriving DecidableEq, Repr

/-- XLT_ERR_INFO, the error count and the event (R205). -/
def noteXltError (cause eng : Nat) (write : Bool) (va : Nat) (s : State) : State :=
  let info := w64 (cause * 2 ^ 56 + (if eng < 0x100 then eng else 0xFF) * 2 ^ 48 + b2n write * 2 ^ 26 + va / 0x4000000 % 2 ^ 26)
  raiseArg srcXlt 0 info (count xltErrCount 1 { s with xlt := { s.xlt with errInfo := info } })

/-- An entry read by a walker of a half: from the walk cache, or as a coherent engine read. -/
def readEntry (eng level addr : Nat) (s : State) : (W64 × Bool) × State :=
  let h := halfOf eng
  let wc := Sparse.get [] s.xlt.walkCache h
  match wc.find? (·.1 == addr) with
  | some e =>
    ((e.2, false), { s with xlt := { s.xlt with walkCache := Sparse.set [] s.xlt.walkCache h (e :: wc.erase e) } })
  | none =>
    let r := poolRead eng addr 8 false false s
    let m := markedNat r.1
    let w := w64 m.1
    let keep := !m.2 && leafV w && !leafIs w && !malformed level w && level < 2
    ((w, m.2), if keep then
      { r.2 with xlt := { r.2.xlt with walkCache := Sparse.set [] r.2.xlt.walkCache h (((addr, w) :: wc).take 2048) } }
    else r.2)

/-- A walk's end: the leaf with its page size, or the order (1-3) of the entry that stopped it. -/
inductive WalkOut where
  | leaf (e : W64) (big : Bool)
  | stop (order : Nat)
  deriving DecidableEq, Repr

/-- The walk from L0 downward (R202, R205). -/
def walk (eng va : Nat) (s : State) : WalkOut × State :=
  let s := count walkCount 1 s
  let root := fieldOf s.xlt.root 11 41 * 2048
  if !tableInPool root 2048 then (.stop 3, s)
  else
    let (r0, s0) := readEntry eng 0 (root + 8 * (va / 2 ^ 44 % 256)) s
    if r0.2 then (.stop 1, s0) else if !leafV r0.1 then (.stop 2, s0) else if malformed 0 r0.1 then (.stop 3, s0)
    else
      let (r1, s1) := readEntry eng 1 (leafAddr r0.1 + 8 * (va / 2 ^ 31 % 8192)) s0
      if r1.2 then (.stop 1, s1) else if !leafV r1.1 then (.stop 2, s1) else if malformed 1 r1.1 then (.stop 3, s1)
      else if leafIs r1.1 then (.leaf r1.1 true, s1)
      else
        let (r2, s2) := readEntry eng 2 (leafAddr r1.1 + 8 * (va / 2 ^ 26 % 32)) s1
        if r2.2 then (.stop 1, s2) else if !leafV r2.1 then (.stop 2, s2)
        else if malformed 2 r2.1 then (.stop 3, s2)
        else (.leaf r2.1 false, s2)

/-- Does the key map hold the leaf's key for every 64 MiB page it covers (order 7)? -/
def keyMatches (s : State) (leaf : W64) (big : Bool) : Bool :=
  (List.range (if big then 32 else 1)).all fun k => s.selectorOf (leafAddr leaf + k * 0x4000000) == leafKey leaf

/-- Orders 4 to 8 of Table 9-5 for a leaf; `pin` is whether the page must be pinned: for every engine but a copy
engine, and for the rings of every queue (R204). -/
def leafOutcome (pin : Bool) (eng va : Nat) (write : Bool) (leaf : W64) (big : Bool) (s : State) : XOut × State :=
  let n := pageBytes big
  let fail (st : BitVec 16) (cause : Nat) : XOut × State := (.err st, noteXltError cause eng write va s)
  if (write && !leafW leaf) || (!write && !leafR leaf) || (leafRes leaf == resStore && !isCopy eng) then
    fail stPermission 3
  else if leafRes leaf = resAbsent then
    if pin then fail stNotPinned 4 else (.absent (va / n * n) big, s)
  else if !leafPin leaf && pin then fail stNotPinned 4
  else if leafRes leaf = resPool ∧ !keyMatches s leaf big then fail stPermission 5
  else (.ok (leafAddr leaf + va % n) (n - va % n) leaf big, s)

/-- An invalidation in progress covers the address. -/
def invalCovers (i : Inval) (va : Nat) : Bool :=
  i.span == 0 || (i.base ≤ va / 0x4000000 && va / 0x4000000 < i.base + i.span)

/-- Set of an 8-way engine TLB of 512 entries (R204). -/
def tlbSet (page : Nat) : Nat := Config.tlbSet page % 64

/-- A leaf put first in an engine's TLB; a full set drops its least recently used entry (R204). -/
def tlbInsert (eng : Nat) (e : TlbEntry) (s : State) : State :=
  let l := (Sparse.get [] s.xlt.tlb eng).filter fun x => x.base != e.base || x.big != e.big
  let l' := if eng < 0x20 then (e :: l).take 64
    else
      let tag (x : TlbEntry) := tlbSet (x.base / pageBytes x.big)
      let mates := l.filter fun x => tag x == tag e
      e :: (if mates.length ≥ 8 then (match mates.getLast? with
        | some old => l.erase old
        | none => l) else l)
  { s with xlt := { s.xlt with tlb := Sparse.set [] s.xlt.tlb eng l' } }

/-- One translation (R205) of an access whose page must be pinned, or need not be. -/
def translatePin (pin : Bool) (eng va : Nat) (write : Bool) (s : State) : XOut × State :=
  if s.xlt.invals.any fun i => invalCovers i va then (.blocked, s)
  else
    match (Sparse.get [] s.xlt.tlb eng).find? fun e => va / pageBytes e.big * pageBytes e.big == e.base with
    | some e =>
      let r := leafOutcome pin eng va write e.leaf e.big s
      (r.1, tlbInsert eng e r.2)
    | none =>
      if !s.xlt.en then (.err stPermission, noteXltError 1 eng write va s)
      else
        match walk eng va s with
        | (.stop 1, s1) => (.err stPoisoned, noteXltError 6 eng write va s1)
        | (.stop 2, s1) => (.err stPermission, noteXltError 1 eng write va s1)
        | (.stop _, s1) => (.err stPermission, noteXltError 2 eng write va s1)
        | (.leaf e big, s1) =>
          let r := leafOutcome pin eng va write e big s1
          match r.1 with
          | .ok _ _ _ _ => (r.1, tlbInsert eng ⟨va / pageBytes big * pageBytes big, big, e⟩ r.2)
          | _ => r

/-- One translation of an access by an engine (R205). -/
def translate (eng va : Nat) (write : Bool) (s : State) : XOut × State := translatePin (!isCopy eng) eng va write s

/-- The physical pieces of a range, translated page by page (R206): the pieces done, and what stopped
it, if anything did. -/
def translateRange (eng : Nat) (write : Bool) : Nat → Nat → Nat → State → List (Nat × Nat) × Option XOut × State
  | 0, _, _, s => ([], none, s)
  | fuel + 1, va, n, s =>
    if n = 0 then ([], none, s)
    else
      match translate eng va write s with
      | (.ok pa left _ _, s1) =>
        let len := min n left
        let r := translateRange eng write fuel (va + len) (n - len) s1
        ((pa, len) :: r.1, r.2.1, r.2.2)
      | (o, s1) => ([], some o, s1)

/-- Pieces of a whole range, for engines whose pages must be pinned. -/
def translateAll (eng va n : Nat) (write : Bool) (s : State) : List (Nat × Nat) × Option XOut × State :=
  translateRange eng write (n / 0x4000000 + 2) va n s

/-! ## The array stores in the aperture (01 R21-R23) -/

/-- Array and slot offset of an aperture address. -/
def storePlace (a : Nat) : Nat × Nat := ((a - storeBase) / 0x2000000, (a - storeBase) % 0x2000000)

def slotRead (x : AryState) (off n : Nat) : List (Byte × Bool) :=
  (List.range n).map fun i =>
    let o := off + i
    if o < tileBytes then (x.tile.read o, Sparse.get false x.poison (o / 32))
    else (x.acc.read (o - tileBytes), false)

def markUnits (m : Sparse Bool) (first : Nat) : Nat → Sparse Bool
  | 0 => m
  | n + 1 => markUnits (Sparse.set false m first true) (first + 1) n

/-- A run of good or poisoned bytes written into a slot: tile poison bits follow R72; the accumulator
store takes nothing poisoned (09 R201) and sets the written bits of whole units (03 R63). -/
def slotWriteRun (off : Nat) (bs : List Byte) (bad : Bool) (x : AryState) : AryState :=
  let n := bs.length
  if n = 0 then x
  else if off < tileBytes then
    let sectors := (List.range ((off + n - 1) / 32 - off / 32 + 1)).map (off / 32 + ·)
    { x with
      tile := x.tile.writeN off bs
      poison := sectors.foldl (fun m k => if bad then Sparse.set false m k true
        else if off ≤ 32 * k ∧ 32 * k + 32 ≤ off + n then Sparse.set false m k false else m) x.poison }
  else if bad then x
  else
    let o := off - tileBytes
    let first := (o + 127) / 128
    { x with
      acc := x.acc.writeN o bs
      written := markUnits x.written first ((o + n) / 128 - first) }

/-- A write through the aperture. -/
def slotWrite (off : Nat) (bs : List (Byte × Bool)) (x : AryState) : AryState :=
  let part (o : Nat) (l : List (Byte × Bool)) (x : AryState) : AryState :=
    (markRuns o (spreadMarks o l)).foldl (fun x r => slotWriteRun r.1 r.2.1 r.2.2 x) x
  let k := tileBytes - off
  part (off + (bs.take k).length) (bs.drop k) (part off (bs.take k) x)

/-! ## Physical accesses of an engine -/

/-- The bytes of one physical piece; holes are kept out by the translation. -/
def physRead (eng a n : Nat) (streaming noRemote : Bool) (s : State) : List (Byte × Bool) × State :=
  match regionOf a with
  | .pool => poolRead eng a n streaming noRemote s
  | .aperture => hostRead (halfOf eng) a n streaming s
  | .store => let p := storePlace a; (slotRead (s.arr p.1) p.2 n, s)
  | _ => (List.replicate n (0, false), s)

/-- A write of one physical piece. -/
def physPut (eng a : Nat) (bs : List (Byte × Bool)) (streaming : Bool) (tag : HoldTag) (s : State) : State :=
  match regionOf a with
  | .pool => poolWriteMarked a bs streaming tag s
  | .aperture => hostWrite (halfOf eng) a bs s
  | .store => let p := storePlace a; s.modArr p.1 (slotWrite p.2 bs)
  | _ => s

/-! ## Undefined results of a stream (01 R23, 04 R91, 06 R122) -/

/-- A place takes undefined values. -/
def freshTouch (n : Nat) (t : Touch) (s : State) : State :=
  match t with
  | .accUnits first k =>
    let r := freshBytes (128 * k) s
    r.2.modArr n fun x => { x with acc := x.acc.writeN (128 * first) r.1 }
  | .tileSectors first k =>
    let r := freshBytes (32 * k) s
    r.2.modArr n fun x => { x with tile := x.tile.writeN (32 * first) r.1 }
  | .pool segs => segs.foldl (fun s g =>
      let r := freshBytes g.2 s
      physPut (codeArray n) g.1 (r.1.map fun b => (b, false)) false .none r.2) s
  | .vreg k =>
    let r := freshBytes 4096 s
    r.2.modVec n fun x => { x with v := x.v.writeN (4096 * k) r.1 }
  | .mreg k =>
    let r := freshBytes 128 s
    r.2.modVec n fun x => { x with m := Sparse.set 0 x.m k (BitVec.ofNat 1024 (leNat r.1)) }
  | .sreg k =>
    let r := freshWord s
    r.2.modVec n fun x => { x with sr := Sparse.set 0 x.sr k r.1 }
  | .vl => s.modVec n fun x => { x with vl := x.vlShown.getD x.vl }

/-- Flag bits of ARY_FLAGS, or of VEC_FCSR.FLAGS. -/
def flagBits : StreamEng → List Nat
  | .arr _ => [0, 1, 2, 4, 5, 6, 8]
  | .vec _ => [0, 1, 2, 3, 4]
def flagSrc : StreamEng → BitVec 16
  | .arr n => srcAry n.val
  | .vec n => srcVecFlags n.val

/-- The unit's flags take undefined values. -/
def freeFlags (e : StreamEng) (s : State) : State :=
  let r := freshWord s
  (flagBits e).foldl (fun s k => if bitOf r.1 k then raiseEv (flagSrc e) k s else dropEv (flagSrc e) (oneBit k) s) r.2

/-- Places outside the unit see them at once; a vector engine's registers only through its stores. -/
def Touch.outside : Touch → Bool
  | .accUnits _ _ | .tileSectors _ _ | .pool _ => true
  | _ => false

/-- What the stream issues from cycle k on is undefined, and so is what it has issued since then. A vector
engine's own registers keep what the pipeline computed until the stream ends: it issues the same cycles
(06 R122), and nothing but its stores and VEC_STATUS.VL shows them before. -/
def taintFrom (e : StreamEng) (k : Nat) (s : State) : State :=
  let u := s.unit e
  if u.undef (max k u.base) then s
  else
    let k := max k u.base
    let hit := u.touched.filter fun t => decide (k ≤ t.1) && t.2.outside
    let s1 := hit.foldl (fun s t => freshTouch (engArray e) t.2 s) s
    let s2 := freeFlags e (s1.modUnit e fun u => { u with taintAt := some k })
    match e with
    | .arr _ => s2
    | .vec n =>
      let r := freshWord s2
      if u.touched.any fun t => t.2 == .vl then r.2.modVec n.val fun x => { x with vlShown := some (r.1.toNat % 1025) }
      else s2

/-- A rule was broken outside hazard-check mode: what the stream has written and will write is undefined. -/
def taint (e : StreamEng) (s : State) : State := taintFrom e 0 s

/-- What the stream issued in cycle c has written a place. -/
def touch (e : StreamEng) (c : Nat) (t : Touch) (s : State) : State :=
  s.modUnit e fun u => if u.touched.contains (c, t) then u else { u with touched := u.touched ++ [(c, t)] }

/-- Bytes `off ..` of array n's slot were written from outside: undefined from the first bundle that has
touched them, or remembered for the one that will (01 R23). -/
def raceArray (n off len : Nat) (s : State) : State :=
  let u := (s.arr n).su
  if u.status ≠ .running ∨ 16 ≤ n then s
  else match u.ran.find? fun r => r.2.any fun t => overlap off len t.1 t.2 with
    | some r => taintFrom (.arr (Fin.ofNat 16 n)) r.1 s
    | none => s.modArr n fun x => { x with su := { x.su with raced := x.su.raced ++ [(off, len)] } }

/-- A descriptor has written attach-host memory: an invalidation that waits for it waits until that is visible
there (R215). -/
def noteHost (tag : HoldTag) (s : State) : State :=
  match tag with
  | .desc d =>
    let s1 := s.modQueue d.q fun x => { x with progs := x.progs.map fun p => if p.n = d.n then { p with host := true } else p }
    let mark (i : Inval) : Inval := { i with attach := i.attach || i.descs.contains d }
    { s1 with xlt := { s1.xlt with invals := s1.xlt.invals.map mark } }
  | _ => s

/-- A write of an engine, a core or the manager to one physical piece. -/
def physWrite (eng a : Nat) (bs : List (Byte × Bool)) (streaming : Bool) (tag : HoldTag) (s : State) : State :=
  let s1 := physPut eng a bs streaming tag s
  match regionOf a with
  | .store => let p := storePlace a; raceArray p.1 p.2 bs.length s1
  | .aperture => noteHost tag s1
  | _ => s1

def readSegs (eng : Nat) (streaming noRemote : Bool) : List (Nat × Nat) → State → List (Byte × Bool) × State
  | [], s => ([], s)
  | (a, n) :: rest, s =>
    let r := physRead eng a n streaming noRemote s
    let q := readSegs eng streaming noRemote rest r.2
    (r.1 ++ q.1, q.2)

def writeSegs (eng : Nat) (streaming : Bool) (tag : HoldTag) : List (Nat × Nat) → List (Byte × Bool) → State → State
  | [], _, s => s
  | (a, n) :: rest, bs, s =>
    writeSegs eng streaming tag rest (bs.drop n) (physWrite eng a (bs.take n) streaming tag s)

/-- Reads `n` bytes at a virtual address for an engine whose pages must be pinned: the bytes, or what
stopped the translation. -/
def vaRead (eng va n : Nat) (streaming noRemote : Bool) (s : State) : Except XOut (List (Byte × Bool)) × State :=
  match translateAll eng va n false s with
  | (segs, none, s1) => let r := readSegs eng streaming noRemote segs s1; (.ok r.1, r.2)
  | (_, some o, s1) => (.error o, s1)

/-- Writes bytes at a virtual address under the same condition; nothing is written on an error. -/
def vaWrite (eng va : Nat) (bs : List (Byte × Bool)) (streaming : Bool) (tag : HoldTag) (s : State) :
    Option XOut × State :=
  match translateAll eng va bs.length true s with
  | (segs, none, s1) => (none, writeSegs eng streaming tag segs bs s1)
  | (_, some o, s1) => (some o, s1)

/-- The status of a translation that does not proceed. -/
def XOut.status : XOut → BitVec 16
  | .err st => st
  | .absent _ _ => stNotPinned
  | _ => stDone

/-- 64 MiB units of virtual address a range touches. -/
def pagesOf (va n : Nat) : List Nat :=
  if n = 0 then [] else (List.range ((va + n - 1) / 0x4000000 - va / 0x4000000 + 1)).map (va / 0x4000000 + ·)

/-! ## Notices (R213) -/

/-- An access of the manager or of a port that meets an invalidation walks after it (R215): it finds the
same entries as now. -/
def pastInvals {α : Type} (f : State → α × State) (s : State) : α × State :=
  let r := f { s with xlt := { s.xlt with invals := [] } }
  (r.1, { r.2 with xlt := { r.2.xlt with invals := s.xlt.invals } })

/-- The firmware's walk of one address, while walks run (R202): the physical address of a pinned, writable POOL
page. -/
def firmwareWalk (va : Nat) (s : State) : Option Nat × State :=
  if !s.xlt.en then (none, s)
  else match walk codeNone va s with
  | (.leaf e big, s1) =>
    if leafRes e = resPool ∧ leafPin e ∧ leafW e then
      (some (leafAddr e + va % pageBytes big), s1)
    else (none, s1)
  | (_, s1) => (none, s1)

def dropNotice (s : State) : State := count noticeDropCount 1 s

/-- A notice goes to the next entry, or is dropped and counted. -/
def writeNotice (n : Notice) (s : State) : State :=
  match s.xlt.ring with
  | none => dropNotice s
  | some r =>
    let va := r.va + 32 * (r.m % r.entries)
    match firmwareWalk va s with
    | (none, s1) => dropNotice s1
    | (some pa, s1) =>
      let w0 := poolRead codeNone pa 8 false false s1
      if (markedNat w0.1).1 ≠ 0 then dropNotice w0.2
      else
        let phase := 1 - r.m / r.entries % 2
        let bytes := leBytes 8 (n.kind * 2 ^ 56 + b2n n.big * 2 ^ 52 + n.vpage) ++ leBytes 8 n.newPa
          ++ leBytes 8 n.oldPa ++ leBytes 8 (phase * 2 ^ 63 + n.waiters % 2 ^ 16 * 2 ^ 32 + n.engines.toNat)
        let s2 := poolWrite pa bytes .notice w0.2
        { s2 with xlt := { s2.xlt with ring := some { r with m := r.m + 1 } } }

/-- Notices in order, each written once the one before it is visible (R213). -/
def writeNotices : List Notice → State → State
  | [], s => { s with xlt := { s.xlt with notices := [] } }
  | n :: rest, s =>
    if tagClear .notice s then writeNotices rest (writeNotice n s)
    else { s with xlt := { s.xlt with notices := n :: rest } }

/-- A notice is posted. -/
def postNotice (n : Notice) (s : State) : State := writeNotices (s.xlt.notices ++ [n]) s

/-- Notices that waited for an earlier one go on. -/
def drainNotices (s : State) : State := writeNotices s.xlt.notices s

end Sys2Proof.Machine
end

