-- ==== Sys2Proof/Machine/Queue.lean ====
section
/-! DEFINITION. Command queues (spec 10): enable, doorbells, fetch, the start order, completion space,
records, interrupts, halts. What the descriptors of each engine do stands in that engine's file. -/

namespace Sys2Proof.Machine

def qCtr (q off : Nat) : Nat := 0x100000 + 0x1000 * q + off
def descCount (q : Nat) : Nat := qCtr q 0x100
def refetchCount (q : Nat) : Nat := qCtr q 0x108
def staleCount (q : Nat) : Nat := qCtr q 0x110
def badDoorbellCount (q : Nat) : Nat := qCtr q 0x118
def cqWaitNs (q : Nat) : Nat := qCtr q 0x120

def evEnableFail : Nat := 0
def evHalt : Nat := 1
def evStale : Nat := 2
def evBadDoorbell : Nat := 3
def evCqWait : Nat := 4

/-- Causes of QDB_STATUS.CAUSE (Table 10-14). -/
def qcIllegal : Byte := 1
def qcEngineHalted : Byte := 2
def qcPoison : Byte := 3
def qcStopped : Byte := 4
def qcBadConfig : Byte := 5
def qcNotPinned : Byte := 6
def qcPermission : Byte := 7
def qcRingPoison : Byte := 8

def QState.code (x : QState) : Nat := x.engine.toNat
/-- E and C. -/
def QState.entries (x : QState) : Nat := 2 ^ x.log2
def QState.cqEntries (x : QState) : Nat := 2 ^ x.cqLog2

def modProg (q n : Nat) (f : Prog → Prog) (s : State) : State :=
  s.modQueue q fun x => { x with progs := x.progs.map fun p => if p.n = n then f p else p }

def State.prog (s : State) (q n : Nat) : Option Prog := (s.queue q).progs.find? (·.n == n)

/-! ## Pieces of a physical range -/

/-- The `n` bytes from offset `off` of a range given as pieces. -/
def segsAt : List (Nat × Nat) → Nat → Nat → List (Nat × Nat)
  | [], _, _ => []
  | (a, len) :: rest, off, n =>
    if n = 0 then []
    else if off ≥ len then segsAt rest (off - len) n
    else
      let k := min n (len - off)
      (a + off, k) :: segsAt rest 0 (n - k)

/-! ## Enable (R223) -/

/-- The pieces of a ring, each page pinned and allowing the access; or the cause that fails the enable.
`none` when a page is being invalidated. -/
def ringPages (eng : Nat) (write : Bool) : Nat → Nat → Nat → State →
    Option (Except Byte (List (Nat × Nat))) × State
  | 0, _, _, s => (some (.ok []), s)
  | fuel + 1, va, n, s =>
    if n = 0 then (some (.ok []), s)
    else
      match translatePin true eng va write s with
      | (.ok pa left _ _, s1) =>
        let k := min n left
        match ringPages eng write fuel (va + k) (n - k) s1 with
        | (some (.ok l), s2) => (some (.ok ((pa, k) :: l)), s2)
        | r => r
      | (.absent _ _, s1) => (some (.error qcNotPinned), s1)
      | (.err st, s1) =>
        (some (.error (if st = stPoisoned then qcRingPoison
          else if st = stNotPinned then qcNotPinned else qcPermission)), s1)
      | (.blocked, s1) => (none, s1)

def enableFails (q : Nat) (cause : Byte) (s : State) : State :=
  raiseEv (srcQdb q) evEnableFail (s.modQueue q fun x => { x with enable := true, cause := cause })

/-- The two configuration conditions and the pool (R223, R394). -/
def configBad (q : Nat) (x : QState) (s : State) : Bool :=
  engKind x.code == .none || halfOf x.code != q / 128
    || !(6 ≤ x.log2 && x.log2 ≤ 16) || !(6 ≤ x.cqLog2 && x.cqLog2 ≤ 16) || !s.boot.poolReady

/-- What a queue starts with (R223). The interrupt owed at the end of a holdoff stays owed (R240). -/
def enabledQueue (ring cq : List (Nat × Nat)) (x : QState) : QState := { x with
  enable := true, mode := .active, cause := 0, tail := 0, head := 0, cqHead := 0, cqTail := 0
  fetched := 0, written := 0, window := [], tries := 0, refetchAt := none, progs := []
  stalePending := false, staleWait := false, cqWait := false
  ringSegs := ring, cqSegs := cq }

/-- An enable that meets an invalidation of its ring pages waits for its end, and then walks (09 R215). -/
def holdEnable (q : Nat) (s : State) : State := s.modQueue q fun x => { x with enable := true, enabling := true }

/-- A write of 1 to ENABLE (R223). -/
def queueEnable (q : Nat) (s0 : State) : State :=
  let s := s0.modQueue q fun x => { x with enabling := false }
  let x := s.queue q
  if x.mode ≠ .disabled then s
  else if configBad q x s then enableFails q qcBadConfig s
  else
    match ringPages x.code false 4 x.ringBase (64 * x.entries) s with
    | (none, _) => holdEnable q s
    | (some (.error c), s1) => enableFails q c s1
    | (some (.ok ring), s1) =>
      match ringPages x.code true 4 x.cqBase (32 * x.cqEntries) s1 with
      | (none, _) => holdEnable q s
      | (some (.error c), s2) => enableFails q c s2
      | (some (.ok cq), s2) => s2.modQueue q (enabledQueue ring cq)

/-- Enables that an invalidation has held back. -/
def resumeEnables (s : State) : State :=
  ((s.queues.filter (·.2.enabling)).map Prod.fst).foldl (fun s q => queueEnable q s) s

/-! ## Interrupts (R240) -/

/-- An interrupt word of the form of Table 10-9, sent. -/
def sendIrq (irq : W64) (s : State) : State :=
  if bitOf irq 29 then imsicSend (fieldOf irq 16 7) (fieldOf irq 0 8) (bitOf irq 23) s
  else sendMsix (fieldOf irq 24 1) (fieldOf irq 0 8) s

/-- No record of the queue waits for visibility. -/
def recordsVisible (q : Nat) (s : State) : Bool :=
  !(s.coh.held.any fun h => match h.tag with | .record q' _ => q' == q | _ => false)

/-- A record qualifies: the interrupt goes now, or when the holdoff ends. -/
def qualify (q : Nat) (s : State) : State :=
  let x := s.queue q
  let hold := fieldOf x.irq 32 16 * 100
  let busy : Bool := match x.holdUntil with | some t => decide (s.now < t) | none => false
  if busy || !recordsVisible q s then
    s.modQueue q fun x => { x with qualified := true, holdUntil := some (match x.holdUntil with | some t => t | none => s.now) }
  else sendIrq x.irq (s.modQueue q fun x => { x with
    qualified := false, holdUntil := if hold = 0 then none else some (s.now + hold) })

/-- IRQ_HOLDOFF_EXPIRY (R240). -/
def execIrqHoldoffExpiry (q : QueueId) (s : State) : Host.Outcome State Fault Refusal :=
  if !powered s then .next s else
  let x := s.queue q.val
  .next (match x.holdUntil with
    | some t =>
      if t ≤ s.now then
        if x.qualified then
          (if recordsVisible q.val s then qualify q.val (s.modQueue q.val fun x => { x with holdUntil := none }) else s)
        else s.modQueue q.val fun x => { x with holdUntil := none }
      else s
    | none => s)

/-! ## Completion space and records (R235-R237) -/

/-- Records written and not consumed. -/
def QState.filled (x : QState) : Nat := (x.cqTail + 2 * x.cqEntries - x.cqHead) % (2 * x.cqEntries)
def QState.reservedAll (x : QState) : Nat := (x.progs.map (·.reserved)).sum
/-- k further entries can be reserved. -/
def QState.room (x : QState) (k : Nat) : Bool := decide (x.filled + x.reservedAll + k ≤ x.cqEntries)

/-- Work waits for completion space. -/
def waitSpace (q : Nat) (s : State) : State :=
  if (s.queue q).cqWait then s
  else raiseEv (srcQdb q) evCqWait (s.modQueue q fun x => { x with cqWait := true })

/-- The four words of a record, without its PHASE (Table 10-6). -/
structure Rec where
  final : Bool
  opcode : Nat
  seq : Nat
  status : BitVec 16
  domain : Nat
  tag : Nat
  result : W64
  time : Nat

/-- A record goes to the next entry of the completion ring. -/
def writeRecord (q : Nat) (r : Rec) (s : State) : State :=
  let x := s.queue q
  let m := x.written
  let phase := 1 - m / x.cqEntries % 2
  let bytes := leBytes 8 (phase * 2 ^ 63 + b2n r.final * 2 ^ 62 + r.opcode * 2 ^ 48 + r.seq * 2 ^ 32
      + r.status.toNat * 2 ^ 16 + r.domain * 2 ^ 8 + q)
    ++ leBytes 8 r.tag ++ leBytes 8 r.result.toNat ++ leBytes 8 r.time
  let s1 := s.modQueue q fun x => { x with
    written := m + 1, cqTail := (x.cqTail + 1) % (2 * x.cqEntries) }
  writeSegs x.code false (.record q m) (segsAt x.cqSegs (32 * (m % x.cqEntries)) 32)
    (bytes.map fun b => (b, false)) s1

def expectedSeq (x : QState) (n : Nat) : Nat := (x.seqStart.toNat + n) % 65536

/-- The STALE_DESCRIPTOR record, once an entry is free (R230). -/
def writeStale (q : Nat) (s : State) : State :=
  let x := s.queue q
  if !x.room 1 then waitSpace q (s.modQueue q fun x => { x with stalePending := true })
  else
    let s1 := writeRecord q ⟨false, 0xFF, expectedSeq x x.fetched, stStale, 0, 0, 0, x.staleTime⟩
      (s.modQueue q fun x => { x with stalePending := false })
    if bitOf x.irq 30 then qualify q s1 else s1

/-- The WAITING_FOR_PERMIT record of a descriptor that asked for it (R237). -/
def notePermit (q n : Nat) (s : State) : State :=
  match s.prog q n with
  | some p =>
    if dPermitNote p.w && decide (2 ≤ p.reserved) then
      modProg q n (fun p => { p with reserved := 1 })
        (writeRecord q ⟨false, dOpcode p.w, dSeq p.w, stWaitingForPermit, 0, dTag p.w, 0, s.now⟩
          (modProg q n (fun p => { p with reserved := 0 }) s))
    else s
  | none => s

/-! ## Halts (R241) -/

/-- The queue halts, starting nothing more. -/
def queueHalt (q : Nat) (cause : Byte) (s : State) : State :=
  if (s.queue q).mode = .active ∨ (s.queue q).mode = .halted then
    raiseEv (srcQdb q) evHalt (s.modQueue q fun x => { x with mode := .halted, cause := cause })
  else s

/-! ## The start order (R224, R226, R229) -/

def newProg (n : Nat) (w : DWords) (reserved time : Nat) : Prog where
  n := n
  w := w
  phase := .running
  status := stDone
  result := 0
  pos := 0
  pages := []
  reserved := reserved
  txns := []
  flush := []
  flushed := false
  flushFail := false
  endTime := 0
  unread := false
  src := []
  dst := []
  coll := none
  begun := time
  acked := 0
  refused := 0
  host := false

/-- A descriptor that ends without being executed; no rule states its RESULT, a free value (log 35). -/
def endedProg (f : Fetched) (st : BitVec 16) (result : W64) (time : Nat) : Prog :=
  { newProg f.n f.w 0 time with phase := .ended, status := st, result := result, endTime := time, unread := f.poisoned }

/-- A descriptor taken from the window that ends without being executed. -/
def endUnstarted (q : Nat) (f : Fetched) (st : BitVec 16) (s : State) : State :=
  let r := freshWord s
  r.2.modQueue q fun x => { x with progs := x.progs ++ [endedProg f st r.1 s.now] }

/-- At the head of the start order, a poisoned or malformed descriptor halts the queue (R226, R229). -/
def settleHead (q : Nat) (s : State) : State :=
  let x := s.queue q
  if x.mode ≠ .active then s
  else match x.window with
    | [] => s
    | f :: rest =>
      let pop (s : State) : State := s.modQueue q fun x => { x with window := rest }
      if f.poisoned then queueHalt q qcPoison (endUnstarted q f stPoisoned (pop s))
      else if malformedDesc x.code f.w s then queueHalt q qcIllegal (endUnstarted q f stQueueHalted (pop s))
      else s

/-- Descriptors of an engine that have started and not ended, over all queues. -/
def engineProgs (code : Nat) (s : State) : List (Nat × Prog) :=
  s.queues.flatMap fun e => if e.2.code = code then
    (e.2.progs.filter fun p => p.phase != .ended).map fun p => (e.1, p) else []

/-- Descriptors of one queue that have started and not written their records. -/
def QState.inProgress (x : QState) : Nat := x.progs.length

/-- May the head of the window start: fence met, fewer than four of the queue on a copy engine, and no
start of its engine waiting for a permit. -/
def headMayStart (q : Nat) (s : State) : Bool :=
  let x := s.queue q
  x.mode == .active && (match x.window with
    | [] => false
    | f :: _ => !f.poisoned && (!dFence f.w || x.progs.isEmpty)
        && (engKind x.code != .copy || decide ((x.progs.filter fun p => p.phase != .ended).length < 4))
        && !(engineProgs x.code s).any fun p => p.2.phase == .waitingForPermit)

/-- Completion entries that a descriptor reserves (R236). -/
def entriesOf (w : DWords) : Nat := if dPermitNote w then 2 else 1

/-- Stream unit of an engine code below 0x20. -/
def unitOfCode (code : Nat) (s : State) : StreamUnit :=
  if code < 16 then (s.arr code).su else (s.vec (code - 16)).su

/-- Could the head of the window start, as far as its queue and its engine's stream unit go? -/
def headReady (q : Nat) (s : State) : Bool :=
  let x := s.queue q
  headMayStart q s && match x.window with
    | [] => false
    | f :: _ => x.room (entriesOf f.w)
        && (dOpcode f.w != opStream || ((unitOfCode x.code s).status != .halted && (unitOfCode x.code s).nxt.isNone))

/-- Round-robin service (R224): no queue between the one that the engine served last and this one has a
descriptor that could start (log 109). -/
def hasTurn (q : Nat) (s : State) : Bool :=
  let code := (s.queue q).code
  let rank (r : Nat) : Nat := (r + 256 - Sparse.get 0 s.served code) % 256
  match engKind code with
  | .copy | .array | .vector =>
    !s.queues.any fun e => e.1 != q && e.2.code == code && decide (rank e.1 < rank q) && headReady e.1 s
  | _ => true

/-- The head of the window leaves it as a started descriptor with its completion entries reserved; none
when it may not start or its opcode is another. The state returned for none notes a wait for space. -/
def beginDesc (q op : Nat) (s : State) : Option Nat × State :=
  let x := s.queue q
  match x.window with
  | [] => (none, s)
  | f :: rest =>
    if dOpcode f.w = op ∧ headMayStart q s ∧ hasTurn q s then
      let k := entriesOf f.w
      if !x.room k then (none, waitSpace q s)
      else
        let s1 : State := { s with served := Sparse.set 0 s.served x.code (q + 1) }
        (some f.n, settleHead q (s1.modQueue q fun x => { x with
          window := rest, progs := x.progs ++ [newProg f.n f.w k s.now], cqWait := false }))
    else (none, s)

/-- A descriptor of a copy, collective, update or sequence engine starts: the start goes to Sluice when
the engine has no descriptor in progress. Answers its number and whether it may run. -/
def startDesc (q op : Nat) (s : State) : Option (Nat × Bool) × State :=
  let code := (s.queue q).code
  let idle := (engineProgs code s).isEmpty
  match beginDesc q op s with
  | (none, s1) => (none, s1)
  | (some n, s1) =>
    if !idle then (some (n, true), s1)
    else
      let (ok, s2) := sluice (.engine code) (engineDemand code) s1
      if ok then (some (n, true), s2)
      else (some (n, false), notePermit q n (modProg q n (fun p => { p with phase := .waitingForPermit }) s2))

/-- A started descriptor ends: its final record follows in ring order. -/
def endProg (q n : Nat) (st : BitVec 16) (result : W64) (s : State) : State :=
  modProg q n (fun p => if p.phase = .ended then p else
    { p with phase := .ended, status := st, result := result, endTime := s.now }) s

/-- An opcode whose RESULT no rule states ends with a free one (log 35). -/
def endFree (q n : Nat) (st : BitVec 16) (s : State) : State :=
  let r := freshWord s
  endProg q n st r.1 r.2

/-! ## Final records (R238) -/

def wantsAttach (p : Prog) : Bool := !p.unread && (dDomain p.w == 1 || dDomain p.w == 3)
def isRemote (p : Prog) : Bool :=
  !p.unread && dRemote p.w && decide (1 ≤ dOpcode p.w) && decide (dOpcode p.w ≤ 4)
/-- A collective ends when its final record is written: its slot is free, and the group's next sequence number
advances (11 R245, R255). -/
def advanceSeq (q : Nat) (p : Prog) (s : State) : State :=
  match p.coll with
  | none => s
  | some g =>
    let runs := s.coll.runs.filter fun r => r.id != ⟨q, p.n⟩
    let groups := match s.group g with
      | none => s.coll.groups
      | some x => Sparse.set none s.coll.groups g (some { x with nextSeq := x.nextSeq + 1 })
    { s with coll := { s.coll with runs := runs, groups := groups } }

/-- A sequence engine's run is over when its final record is written (13 R293). -/
def dropSeqRun (q n : Nat) (s : State) : State :=
  match engKind (s.queue q).code with
  | .seq =>
    let h := (s.queue q).code - 0x44
    let x := Sparse.get {} s.seqs h
    { s with seqs := Sparse.set {} s.seqs h { x with live := x.live.filter fun r => r.id != ⟨q, n⟩ } }
  | _ => s

def wantsFabric (p : Prog) : Bool := !p.unread && (dDomain p.w == 2 || dDomain p.w == 3 || isRemote p)

def stUnreachable : BitVec 16 := 0xA801

/-- The domain a final record names (Table 10-7, 14 R305, 15 R331): FABRIC once every WRITE has been acknowledged
as visible. -/
def domainReached (p : Prog) : Nat :=
  let fabIsPool := !p.unread && decide (0x20 ≤ dOpcode p.w)
  if fabIsPool then (if wantsAttach p && !p.flushFail then dDomain p.w else 0) else
  let fab := wantsFabric p && (!isRemote p || (p.refused == 0 && p.status != stUnreachable))
  let att := wantsAttach p && !p.flushFail
  if att && fab then 3 else if fab then 2 else if att then 1 else 0

/-- Has everything the record promises come about: data visible, writes to other nodes acknowledged,
flush reads back? -/
def progVisible (q : Nat) (p : Prog) (s : State) : Bool :=
  p.phase == .ended && tagClear (.desc ⟨q, p.n⟩) s && p.txns.isEmpty

/-- Sends the flush reads of a descriptor (15 R331). -/
def startFlush (q : Nat) (p : Prog) (s : State) : State :=
  let ports := flushPorts s
  let s1 := modProg q p.n (fun p => { p with flushed := true, flush := ports, flushFail := ports.isEmpty }) s
  if ports = [] then raiseEv srcWin 4 s1 else ports.foldl (fun s p => sendFlush p s) s1

/-- The final record of a descriptor, and its interrupt. -/
def finalRecord (q : Nat) (p : Prog) (s : State) : State :=
  let x := s.queue q
  let s1 := s.modQueue q fun x => { x with progs := x.progs.filter fun r => r.n != p.n }
  let r : Rec := {
    final := true
    opcode := if p.unread then 0xFF else dOpcode p.w
    seq := if p.unread then expectedSeq x p.n else dSeq p.w
    status := p.status
    domain := domainReached p
    tag := if p.unread then 0 else dTag p.w
    result := p.result
    time := p.endTime }
  let s2 := count (descCount q) 1 (writeRecord q r (dropSeqRun q p.n (advanceSeq q p s1)))
  if (bitOf x.irq 31 && !p.unread && dIrq p.w) || (bitOf x.irq 30 && p.status != stDone) then qualify q s2 else s2

/-- A NOP that has started: it ends once it is the oldest of its queue and its domain has been reached (R227). -/
def nopRuns (p : Prog) : Bool := p.phase == .running && !p.unread && dOpcode p.w == opNop

/-- Final records of a queue, in ring order, as far as they can be written. -/
def finishFuel (q : Nat) : Nat → State → State
  | 0, s => s
  | fuel + 1, s =>
    match (s.queue q).progs with
    | [] => s
    | p :: _ =>
      if nopRuns p then
        if wantsAttach p && !p.flushed then finishFuel q fuel (startFlush q p s)
        else if wantsAttach p && p.flush != [] then s
        else finishFuel q fuel (endProg q p.n stDone 0 s)
      else if !progVisible q p s then s
      else if wantsAttach p && !p.flushed then finishFuel q fuel (startFlush q p s)
      else if wantsAttach p && p.flush != [] then s
      else if p.reserved = 0 ∧ !(s.queue q).room 1 then waitSpace q s
      else finishFuel q fuel (finalRecord q p s)

/-- Completion entries that the queue's next waiter for space needs; 0 when nothing waits. -/
def QState.needs (x : QState) : Nat :=
  let head := if x.mode = .active then (match x.window with | f :: _ => entriesOf f.w | [] => 0) else 0
  if x.stalePending then 1
  else match x.progs with
    | p :: _ => if p.phase == .ended && p.reserved == 0 then 1 else head
    | [] => head

/-- Entries have become free: a STALE_DESCRIPTOR record that waits is written, and the wait for space ends
once what waits can reserve (R236). -/
def settleSpace (q : Nat) (s : State) : State :=
  let s1 := if (s.queue q).stalePending then writeStale q s else s
  let x := s1.queue q
  if x.cqWait && (x.needs == 0 || x.room x.needs) then s1.modQueue q fun x => { x with cqWait := false } else s1

def finishQueue (q : Nat) (s : State) : State :=
  settleSpace q (finishFuel q (3 * (s.queue q).progs.length + 1) s)

/-- FLUSH_READ_COMPLETION (15 R331): the oldest flush of queue q waiting on port p. -/
def flushDone (q : Nat) (p : PortId) (ok : Bool) (s : State) : State :=
  match (s.queue q).progs.find? fun r => r.flush.contains p with
  | some r =>
    let s1 := modProg q r.n (fun r => { r with flush := r.flush.filter (· != p), flushFail := r.flushFail || !ok }) s
    finishQueue q (if ok then s1 else reqFail p.val s1)
  | none => s

def execFlushReadCompletion (q : QueueId) (p : PortId) (ok : Bool) (s : State) : Host.Outcome State Fault Refusal :=
  .next (clocked (flushDone q.val p ok) s)

/-! ## Doorbells and head writes (R228, R236) -/

def badDoorbell (q : Nat) (s : State) : State := raiseEv (srcQdb q) evBadDoorbell (count (badDoorbellCount q) 1 s)

/-- DOORBELL (R228). -/
def execDoorbell (q : QueueId) (v : W64) (s : State) : Host.Outcome State Fault Refusal :=
  if !powered s then .next s else
  let x := s.queue q.val
  let e2 := 2 * x.entries
  let t := fieldOf v 0 17
  .next (if x.mode = .disabled ∨ x.entries < (t + e2 - x.head % e2) % e2 then badDoorbell q.val s
    else s.modQueue q.val fun x => { x with
      tail := t
      staleWait := false
      tries := if x.staleWait then 0 else x.tries })

/-- CQ_HEAD_WRITE (R236). -/
def execCqHeadWrite (q : QueueId) (v : W64) (s : State) : Host.Outcome State Fault Refusal :=
  if !powered s then .next s else
  let x := s.queue q.val
  let c2 := 2 * x.cqEntries
  let h := fieldOf v 0 17
  .next (if x.filled < (h + c2 - x.cqHead) % c2 then badDoorbell q.val s
    else
      finishQueue q.val (s.modQueue q.val fun x => { x with cqHead := h % c2 }))

/-- QUEUE_ENABLE (R223). -/
def execQueueEnable (q : QueueId) (s : State) : Host.Outcome State Fault Refusal := .next (clocked (queueEnable q.val) s)

/-- QDB_COUNTER_CLEAR (R244). -/
def execQdbCounterClear (q : QueueId) (v : W64) (s : State) : Host.Outcome State Fault Refusal :=
  if !powered s then .next s else
  .next (if bitOf v 0 then clearCounters (qCtr q.val 0x100) (qCtr q.val 0x200) s else s)

/-! ## Fetch (R228-R230) -/

/-- Is there a slot to fetch, and may it be fetched now? -/
def mayFetch (x : QState) : Bool :=
  x.mode == .active && x.head % (2 * x.entries) != x.tail % (2 * x.entries) && decide (x.window.length < 8)
    && !x.staleWait && !x.stalePending

def matchesSlot (x : QState) (n : Nat) (w : DWords) : Bool :=
  dPhase w == (n / x.entries % 2 == 0) && dSeq w == expectedSeq x n

/-- The data of the next slot returns. -/
def fetchReturn (q : Nat) (s : State) : State :=
  let x := s.queue q
  if !mayFetch x || x.refetchAt.isSome then s
  else
    let n := x.fetched
    let r := readSegs x.code false false (segsAt x.ringSegs (64 * (n % x.entries)) 64) s
    let bad := r.1.any Prod.snd
    let w := (chunk 8 8 (r.1.map Prod.fst)).map fun b => w64 (leNat b)
    let s1 := r.2
    if bad || matchesSlot x n w then
      settleHead q (s1.modQueue q fun x => { x with
        window := x.window ++ [⟨n, w, bad⟩], fetched := n + 1, head := (x.head + 1) % (2 * x.entries), tries := 0 })
    else if x.tries < x.retries then s1.modQueue q fun x => { x with refetchAt := some (s.now + 1000) }
    else writeStale q (raiseEv (srcQdb q) evStale (count (staleCount q) 1
      (s1.modQueue q fun x => { x with staleWait := true, staleTime := s.now })))

/-- DESCRIPTOR_FETCH_RETURN (R229). -/
def execDescriptorFetchReturn (q : QueueId) (s : State) : Host.Outcome State Fault Refusal :=
  .next (clocked (fetchReturn q.val) s)

/-- DESCRIPTOR_REFETCH (R230): 1 us after the mismatch the slot is asked for again; a HALTED queue fetches
nothing (R228). -/
def execDescriptorRefetch (q : QueueId) (s : State) : Host.Outcome State Fault Refusal :=
  if !powered s then .next s else
  .next (match (s.queue q.val).refetchAt with
    | some t => if t ≤ s.now ∧ (s.queue q.val).mode = .active then
        count (refetchCount q.val) 1 (s.modQueue q.val fun x => { x with refetchAt := none, tries := x.tries + 1 })
      else s
    | none => s)

/-! ## NOP (R227) -/

/-- NOP (R227): on an array or vector engine it is no start of R345. -/
def execNop (q : QueueId) (s : State) : Host.Outcome State Fault Refusal :=
  if !powered s then .next s else
  let k := engKind (s.queue q.val).code
  .next (if k = .array ∨ k = .vector then
      finishQueue q.val (beginDesc q.val opNop s).2
    else finishQueue q.val (startDesc q.val opNop s).2)

end Sys2Proof.Machine
end

