-- ==== Sys2Proof/Machine/Copy.lean ====
section
/-! DEFINITION. The copy engines (spec 10 R231-R233), copy faults and the serving of fault records
(09 R206-R211), invalidations (09 R215), and writes to and from other packages (14 R305). -/

namespace Sys2Proof.Machine

/-! ## The pieces of a transfer -/

/-- Bytes of a transfer that lie in one page at each side. -/
structure Piece where
  off : Nat
  srcPa : Nat
  srcVa : Nat
  dstPa : Nat
  dstVa : Nat
  n : Nat

def va52 (a : Nat) : Nat := a % 2 ^ 52

/-- Rows of a transfer from byte `pos` on: offset, source, destination, length. -/
def xferRows (w : DWords) (pos : Nat) : List (Nat × Nat × Nat × Nat) :=
  let len := dLength w
  let src := if dOpcode w = opCopy2d then dSrcStride w else 0
  let dst := if dOpcode w = opCopy2d then dDstStride w else 0
  if len = 0 then []
  else ((List.range (dRows w)).drop (pos / len)).map fun r =>
    let k := if r = pos / len then pos % len else 0
    (r * len + k, va52 (dSrc w + r * src + k), va52 (dDst w + r * dst + k), len - k)

/-- A physical range of the store aperture reaches the hole of a slot (01 R19, R21). -/
def meetsHole (a n : Nat) : Bool :=
  regionOf a == .hole || (decide (storeBase ≤ a ∧ a < storeBase + storeBytes)
    && decide (0x1900000 < (a - storeBase) % 0x2000000 + n))

/-- From here on, the bytes of a transfer that lie in its present page of one side reach a hole; `base` is the
page's physical address. -/
def holeAhead (dst : Bool) (base page : Nat) : List (Nat × Nat × Nat × Nat) → Bool
  | [] => false
  | (_, sva, dva, len) :: rest =>
    let va := if dst then dva else sva
    let left := 0x4000000 - va % 0x4000000
    if va / 0x4000000 != page then false
    else (len != 0 && meetsHole (base + va % 0x4000000) (min len left))
      || (decide (len ≤ left) && holeAhead dst base page rest)

/-- A transfer to or from a page of the store aperture that reaches a hole of it is not performed (01 R19). -/
def pageHole (dst : Bool) (pa va : Nat) (rows : List (Nat × Nat × Nat × Nat)) : Bool :=
  decide (storeBase ≤ pa ∧ pa < storeBase + storeBytes)
    && holeAhead dst (pa - va % 0x4000000) (va / 0x4000000) rows

/-- One side of a piece: translated, or passed over for a side that is not local memory. -/
def sideXlt (used : Bool) (eng va n : Nat) (write : Bool) (s : State) : XOut × State :=
  if used then translate eng va write s else (.ok 0 n 0 false, s)

/-- Pieces as far as both sides translate, and what stopped it (09 R206). -/
def pieceWalk (eng : Nat) (rd loc : Bool) : Nat → List (Nat × Nat × Nat × Nat) → State →
    List Piece × Option XOut × State
  | 0, _, s => ([], none, s)
  | _, [], s => ([], none, s)
  | fuel + 1, (off, src, dst, len) :: rest, s =>
    if len = 0 then pieceWalk eng rd loc fuel rest s
    else
      match sideXlt rd eng src len false s with
      | (.ok spa sl _ _, s1) =>
        match sideXlt loc eng dst len true s1 with
        | (.ok dpa dl _ _, s2) =>
          let n := min len (min sl dl)
          let rows := (off, src, dst, len) :: rest
          if (rd && pageHole false spa src rows) || (loc && pageHole true dpa dst rows) then
            ([], some (.err stPermission), s2)
          else
            let r := pieceWalk eng rd loc fuel ((off + n, va52 (src + n), va52 (dst + n), len - n) :: rest) s2
            (⟨off, spa, src, dpa, dst, n⟩ :: r.1, r.2.1, r.2.2)
        | (o, s2) => ([], some o, s2)
      | (o, s1) => ([], some o, s1)

/-! ## Moving bytes (R232) -/

/-- The data of a piece: read from its source, or the pattern of FILL and WRITE_IMM. -/
def pieceData (eng : Nat) (w : DWords) (p : Piece) (s : State) : List (Byte × Bool) × State :=
  if readsSource (dOpcode w) then physRead eng p.srcPa p.n (dStreaming w) (dNoRemote w) s
  else
    let v := leBytes 8 (wordAt w 6).toNat
    ((List.range p.n).map fun i => (v.getD ((p.off + i) % 8) 0, false), s)

def inSegs (segs : List (Nat × Nat)) (a : Nat) : Bool := segs.any fun g => g.1 ≤ a && a < g.1 + g.2

/-- Destination bytes that are also source bytes take undefined values. -/
def freeOverlap (srcs : List (Nat × Nat)) (a : Nat) : List (Byte × Bool) → State → List (Byte × Bool) × State
  | [], s => ([], s)
  | b :: bs, s =>
    let (b', s1) := if inSegs srcs a then (let r := freshByte s; ((r.1, b.2), r.2)) else (b, s)
    let r := freeOverlap srcs (a + 1) bs s1
    (b' :: r.1, r.2)

/-- Bytes written earlier that have turned out to be source bytes become undefined. -/
def freeEarlier (eng : Nat) (streaming : Bool) (tag : HoldTag) (srcs : List (Nat × Nat)) (dst : List (Nat × Nat))
    (s : State) : State :=
  dst.foldl (fun s d => srcs.foldl (fun s g =>
    let lo := max d.1 g.1
    let hi := min (d.1 + d.2) (g.1 + g.2)
    if lo < hi then
      let r := freshBytes (hi - lo) s
      physWrite eng lo (r.1.map fun b => (b, false)) streaming tag r.2
    else s) s) s

/-! ## Writes to another package (14 R305) -/

/-- Payloads of the WRITE packets of a range: to the next sector, to the next 1,024 bytes, then whole. -/
def writeChunks (va : Nat) (bs : List (Byte × Bool)) : Nat → List (Nat × List (Byte × Bool))
  | 0 => []
  | fuel + 1 =>
    if bs = [] then []
    else
      let k := if va % 32 != 0 then 32 - va % 32 else 1024 - va % 1024
      (va, bs.take k) :: writeChunks (va52 (va + k)) (bs.drop k) fuel

/-- POISON bits of a payload. -/
def poisonBits (bs : List (Byte × Bool)) : BitVec 32 :=
  BitVec.ofNat 32 (((List.range 32).map fun i => if ((bs.drop (32 * i)).take 32).any Prod.snd then 2 ^ i else 0).sum)

/-- A remote descriptor ends with NODE_UNREACHABLE; nothing of it is awaited any more. -/
def endUnreachable (q n : Nat) (s : State) : State :=
  let s1 := modProg q n (fun p => { p with txns := [], status := stUnreachable }) s
  let s2 := modProg q n (fun p => if p.phase = .ended then p else
    { p with phase := .ended, result := w64 p.acked, endTime := s.now }) s1
  s2.modNet fun t => { t with writes := t.writes.filter fun o => o.id != ⟨q, n⟩ }

/-- What a WRITE's destination answered: RESULT counts the bytes it wrote, and the first non-zero status stands
in the record (10 R232, log 110). -/
def settleWrite (txn : BitVec 32) (bytes : Nat) (status : BitVec 16) (p : Prog) : Prog :=
  let acked := if status = stDone then p.acked + bytes else p.acked
  { p with
    txns := p.txns.filter (· != txn)
    status := if p.status = stDone then status else p.status
    acked := acked
    refused := if status = stDone then p.refused else p.refused + bytes
    result := if p.phase = .ended then w64 acked else p.result }

/-- A status that acknowledges or refuses a WRITE. -/
def ackWrite (txn : BitVec 32) (status : BitVec 16) (s : State) : State :=
  match s.net.writes.find? (·.txn == txn) with
  | none => s
  | some o =>
    let s1 := s.modNet fun t => { t with writes := t.writes.filter (·.txn != txn) }
    finishQueue o.id.q (modProg o.id.q o.id.n (settleWrite txn o.bytes status) s1)

/-- The bytes of an incoming WRITE are written where this package's tables put them; answers the status, none
when an invalidation of its destination is in progress. -/
def writeIncoming (p : Packet) (tag : HoldTag) (s : State) : Option (BitVec 16) × State :=
  let va := p.arg.toNat % 2 ^ 52
  let marked := ((List.range p.payload.length).zip p.payload).map fun e => (e.2, p.poison.getLsbD (e.1 / 32))
  match vaWrite codeNone va marked false tag s with
  | (none, s1) => (some stDone, s1)
  | (some .blocked, _) => (none, s)
  | (some o, s1) => (some o.status, s1)

/-- A WRITE waits until an invalidation of its destination has completed (09 R215). -/
def parkWrite (p : Packet) (own : Option DescId) (s : State) : State :=
  s.modNet fun t => { t with parked := t.parked ++ [⟨p, own⟩] }

/-- Acknowledgements of incoming WRITEs whose data is visible in POOL. -/
def sendAcks (s : State) : State :=
  let ready := s.net.acks.filter fun a => tagClear (.inWrite a.serial) s
  ready.foldl (fun s a => (sendPacket (mkPacket s a.src typeWriteAck false a.txn 0 0 []) s).2)
    (s.modNet fun t => { t with acks := t.acks.filter fun a => !ready.contains a })

/-- WRITE (14 R305): written, and acknowledged once visible. -/
def receiveWrite (p : Packet) (s : State) : State :=
  let k := s.net.nextIn
  match writeIncoming p (.inWrite k) (s.modNet fun t => { t with nextIn := k + 1 }) with
  | (none, _) => parkWrite p none s
  | (some st, s1) =>
    if st = stDone then
      let units := pagesOf (p.arg.toNat % 2 ^ 52) p.payload.length
      sendAcks (s1.modNet fun t => { t with acks := t.acks ++ [⟨k, p.src, p.txn, units⟩] })
    else (sendPacket (mkPacket s1 p.src typeWriteAck false p.txn st.toNat 0 []) s1).2

/-- A WRITE to this package itself. -/
def ownWrite (d : DescId) (p : Packet) (s : State) : State :=
  match writeIncoming p (.desc d) s with
  | (none, _) => parkWrite p (some d) s
  | (some st, s1) => modProg d.q d.n (settleWrite p.txn p.payload.length st) s1

/-- WRITEs that waited for an invalidation. -/
def resumeParked (s : State) : State :=
  s.net.parked.foldl (fun s w => match w.own with
    | some d => finishQueue d.q (ownWrite d w.p s)
    | none => receiveWrite w.p s) (s.modNet fun t => { t with parked := [] })

/-- One WRITE packet of a descriptor. A destination that is this package is written here. -/
def sendWrite (q n : Nat) (node : NodeId) (va : Nat) (bs : List (Byte × Bool)) (s : State) : State :=
  match s.prog q n with
  | none => s
  | some p =>
    if p.status = stUnreachable then s
    else
      let txn := s.net.nextTxn
      let pkt := mkPacket s node typeWrite false txn va (poisonBits bs) (bs.map Prod.fst)
      let s1 := s.modNet fun t => { t with nextTxn := txn + 1 }
      let s2 := modProg q n (fun p => { p with txns := p.txns ++ [txn] }) s1
      if node = s.node then ownWrite ⟨q, n⟩ pkt s2
      else
        let s3 := s2.modNet fun t => { t with writes := t.writes ++ [⟨txn, ⟨q, n⟩, node, s.now, bs.length⟩] }
        let (sent, s4) := sendPacket pkt s3
        if sent ∨ s4.node = 0xFFFF then s4 else endUnreachable q n s4

def sendWrites (q n : Nat) (node : NodeId) (va : Nat) (bs : List (Byte × Bool)) (s : State) : State :=
  (writeChunks va bs (bs.length + 1)).foldl (fun s c => sendWrite q n node c.1 c.2 s) s

/-! ## Faults (09 R207, R208) -/

/-- Transfers of a copy engine that wait on fault records. -/
def recordWaiters (eng : Nat) (s : State) : List DescId :=
  (engineProgs eng s).filterMap fun e =>
    match e.2.phase with
    | .waitingOnPage _ => if s.xlt.ninth.any fun x => x.1 == ⟨e.1, e.2.n⟩ then none else some ⟨e.1, e.2.n⟩
    | _ => none

/-- The fault of a page goes to its record, or to a new one. -/
def postFault (eng vpage : Nat) (big : Bool) (s : State) : State :=
  let bit : BitVec 32 := BitVec.ofNat 32 (2 ^ (eng - 0x20))
  let s := count faultCount 1 s
  if s.xlt.records.any (·.vpage == vpage) then
    count coalesceCount 1 { s with xlt := { s.xlt with records := s.xlt.records.map fun r =>
      if r.vpage = vpage then { r with engines := r.engines ||| bit, waiters := r.waiters + 1 } else r } }
  else { s with xlt := { s.xlt with records := s.xlt.records ++ [⟨vpage, big, bit, 1, s.now, .posted, none⟩] } }

/-- A transfer stops at an ABSENT page: a fault, or, as the ninth of its engine, no fault yet. -/
def stopAtPage (q n vpage : Nat) (big : Bool) (s : State) : State :=
  let eng := (s.queue q).code
  let full := (recordWaiters eng s).length ≥ 8
  let s1 := modProg q n (fun p => { p with phase := .waitingOnPage vpage }) s
  if full then { s1 with xlt := { s1.xlt with ninth := s1.xlt.ninth ++ [(⟨q, n⟩, vpage, big)] } }
  else postFault eng vpage big s1

/-! ## Running a copy -/

/-- Reads all pieces, then writes them. -/
def readPieces (eng : Nat) (w : DWords) : List Piece → State → List (Piece × List (Byte × Bool)) × State
  | [], s => ([], s)
  | p :: ps, s =>
    let r := pieceData eng w p s
    let q := readPieces eng w ps r.2
    ((p, r.1) :: q.1, q.2)

def writePiece (q n eng : Nat) (w : DWords) (srcs : List (Nat × Nat)) (s : State)
    (pd : Piece × List (Byte × Bool)) : State :=
  if dRemote w then sendWrites q n (dNode w) pd.1.dstVa pd.2 s
  else
    let r := freeOverlap srcs pd.1.dstPa pd.2 s
    physWrite eng pd.1.dstPa r.1 (dStreaming w) (.desc ⟨q, n⟩) r.2

/-- Destination bytes written so far (R232). -/
def copyResult (p : Prog) : W64 := w64 (if dRemote p.w then p.acked else p.pos)

/-- A copy, fill or immediate write goes on from where it stands, as far as its pages allow. -/
def copyRun (q n : Nat) (s : State) : State :=
  match s.prog q n with
  | none => s
  | some p =>
    if p.phase = .ended ∨ p.phase = .waitingForPermit then s
    else
      let w := p.w
      let eng := (s.queue q).code
      let rd := readsSource (dOpcode w)
      let loc := !dRemote w
      let rows := xferRows w p.pos
      let (pieces, stop, s1) := pieceWalk eng rd loc
        (rows.length * (2 * (dLength w / 0x4000000) + 6) + 4) rows s
      let srcs := if rd then pieces.map fun x => (x.srcPa, x.n) else []
      let dsts := if loc then pieces.map fun x => (x.dstPa, x.n) else []
      let (datas, s2) := readPieces eng w pieces s1
      let bad := datas.any fun d => d.2.any Prod.snd
      let moved := (pieces.map (·.n)).sum
      let used := pieces.flatMap fun x => (if loc then pagesOf x.dstVa x.n else [])
        ++ (if rd then pagesOf x.srcVa x.n else [])
      let s3 := modProg q n (fun p => { p with
        phase := .running
        status := if bad ∧ p.status = stDone then stPoisoned else p.status
        pos := p.pos + moved, pages := (p.pages ++ used).eraseDups
        src := p.src ++ srcs, dst := p.dst ++ dsts }) s2
      let s4 := freeEarlier eng (dStreaming w) (.desc ⟨q, n⟩) srcs p.dst s3
      let s5 := datas.foldl (writePiece q n eng w (p.src ++ srcs)) s4
      match s5.prog q n with
      | none => s5
      | some p' =>
        if p'.phase = .ended then s5
        else match stop with
          | none => endProg q n p'.status (copyResult p') s5
          | some (.err st) => endProg q n st (copyResult p') s5
          | some (.absent vp big) => stopAtPage q n vp big s5
          | some _ => s5

/-- COPY, COPY_2D, FILL or WRITE_IMM starts (R232). -/
def startCopy (q op : Nat) (s : State) : State :=
  match startDesc q op s with
  | (some (n, true), s1) => finishQueue q (copyRun q n s1)
  | (_, s1) => s1

/-- COPY (R232). -/
def execCopy (q : QueueId) (s : State) : Host.Outcome State Fault Refusal := .next (clocked (startCopy q.val opCopy) s)

/-- COPY_2D (R232). -/
def execCopy2d (q : QueueId) (s : State) : Host.Outcome State Fault Refusal := .next (clocked (startCopy q.val opCopy2d) s)

/-- FILL (R232). -/
def execFill (q : QueueId) (s : State) : Host.Outcome State Fault Refusal := .next (clocked (startCopy q.val opFill) s)

/-- WRITE_IMM (R232). -/
def execWriteImm (q : QueueId) (s : State) : Host.Outcome State Fault Refusal := .next (clocked (startCopy q.val opWriteImm) s)

/-- Transfers that hold nothing back go on: those that met an invalidation. -/
def resumeBlocked (s : State) : State :=
  let ids := s.queues.flatMap fun e => if engKind e.2.code = .copy then
    (e.2.progs.filter fun p => p.phase == .running && dOpcode p.w != opInvalidate && dOpcode p.w != opNop).map fun p => (e.1, p.n)
    else []
  ids.foldl (fun s i => finishQueue i.1 (copyRun i.1 i.2 s)) s

/-! ## Serving fault records (09 R209-R211) -/

/-- Copies that wait on a page's record. -/
def pageWaiters (vpage : Nat) (s : State) : List DescId :=
  s.queues.flatMap fun e => (e.2.progs.filter fun p => p.phase == .waitingOnPage vpage
    && !(s.xlt.ninth.any fun x => x.1 == ⟨e.1, p.n⟩)).map fun p => ⟨e.1, p.n⟩

/-- Transfers holding without a record post their faults as their engines have room. -/
def postNinth : List (DescId × Nat × Bool) → State → State
  | [], s => s
  | (d, vp, big) :: rest, s =>
    if (recordWaiters (s.queue d.q).code s).length < 8 then
      postNinth rest (postFault (s.queue d.q).code vp big
        { s with xlt := { s.xlt with ninth := s.xlt.ninth.filter fun x => x.1 != d } })
    else postNinth rest s

def mbxFailed : BitVec 16 := 0x800A

/-- The outcome of a PAGE_MIGRATE that a record belongs to, for the end of its operation (18 R387). -/
def moveOutcome (mv : Option MoveReq) (st : BitVec 16) (result : List Byte) (s : State) : State :=
  match mv with
  | none => s
  | some v => { s with mgr := { s.mgr with ops := s.mgr.ops.map fun o =>
      if o.m = v.m ∧ o.slot = v.slot ∧ o.id = 0x0422 ∧ o.result.isNone then { o with result := some (st, result) } else o } }

/-- A record ends; a move that has no outcome yet has failed. -/
def dropRecord (vpage : Nat) (s : State) : State :=
  let mv := (s.xlt.records.find? (·.vpage == vpage)).bind (·.move)
  moveOutcome mv mbxFailed []
    { s with xlt := { s.xlt with records := s.xlt.records.filter (·.vpage != vpage) } }

/-- Step 6 of R209: the record ends and its transfers walk again. -/
def resumePage (vpage : Nat) (s : State) : State :=
  let ids := pageWaiters vpage s
  let s1 := dropRecord vpage s
  let s2 := ids.foldl (fun s d => modProg d.q d.n (fun p => { p with phase := .running }) s) s1
  let s3 := ids.foldl (fun s d => finishQueue d.q (copyRun d.q d.n s)) s2
  postNinth s3.xlt.ninth s3

/-- A migration fails (R210, R211): its transfers end with PERMISSION. -/
def failPage (vpage : Nat) (cause : Nat) (s : State) : State :=
  let ids := pageWaiters vpage s
  match s.xlt.records.find? (·.vpage == vpage) with
  | none => s
  | some r =>
    let s1 := dropRecord vpage s
    let s2 := ids.foldl (fun s d => match s.prog d.q d.n with
      | some p => finishQueue d.q (endProg d.q d.n stPermission (copyResult p) s)
      | none => s) s1
    let info := w64 (cause * 2 ^ 56 + 0xFF * 2 ^ 48 + vpage / 0x4000000 % 2 ^ 26)
    let s3 := postNotice ⟨3, r.big, vpage, 0, 0, r.waiters, r.engines⟩
      (raiseEv srcXlt 1 { s2 with xlt := { s2.xlt with errInfo := info } })
    postNinth s3.xlt.ninth s3

/-- Address and value of the leaf entry of a virtual page, read by the firmware; no entry is read while walks do
not run (R202). -/
def findLeaf (va : Nat) (s : State) : Option (Nat × W64 × Bool) × State :=
  let rd (a : Nat) (s : State) : (W64 × Bool) × State :=
    let r := poolRead codeNone a 8 false false s
    let m := markedNat r.1
    ((w64 m.1, m.2), r.2)
  let root := fieldOf s.xlt.root 11 41 * 2048
  if !s.xlt.en ∨ !tableInPool root 2048 then (none, s)
  else
    let (e0, s0) := rd (root + 8 * (va / 2 ^ 44 % 256)) s
    if e0.2 || !leafV e0.1 || malformed 0 e0.1 then (none, s0)
    else
      let a1 := leafAddr e0.1 + 8 * (va / 2 ^ 31 % 8192)
      let (e1, s1) := rd a1 s0
      if e1.2 || !leafV e1.1 || malformed 1 e1.1 then (none, s1)
      else if leafIs e1.1 then (some (a1, e1.1, true), s1)
      else
        let a2 := leafAddr e1.1 + 8 * (va / 2 ^ 26 % 32)
        let (e2, s2) := rd a2 s1
        if e2.2 || !leafV e2.1 || malformed 2 e2.1 then (none, s2) else (some (a2, e2.1, false), s2)

/-- Writes back and drops every cached copy of a physical range (09 R217): P-die copies, Cistern lines,
eviction buffers and write-combining entries. -/
def flushRange (lo n : Nat) (s : State) : State :=
  let inR (line : Nat) : Bool := lo < 128 * line + 128 && 128 * line < lo + n
  let lines := ((Sparse.keys s.coh.dir).filter inR)
  let s1 := lines.foldl (fun s l => invalidateAll l s) s
  let s2 := (List.range 4).foldl (fun s c =>
    let held := ((s.cis c).evict.filter fun l => inR l.line).map (·.line)
    let s := held.foldl (fun s l => drainLine c l s) s
    (s.cis c).ways.foldl (fun s e =>
      if inR e.2.line ∧ !e.2.remote then
        (writeBackDirty e.2 s).modCis c fun x => { x with ways := Sparse.erase x.ways e.1 }
      else s) s) s1
  s2.hbm.wcb.foldl (fun s e => e.2.foldl (fun s w => if inR w.line then leaveEntry w s else s) s) s2

/-- The selector of one physical page; what the page held reads as undefined values from then on, unless it
was and stays plaintext (R217). -/
def setSelector (sel : Nat) (x : XltState) (page : Nat) : XltState :=
  let old := Sparse.get 0 x.keyMap page
  { x with
    keyMap := Sparse.set 0 x.keyMap page sel
    keyEpoch := if old = 0 ∧ sel = 0 then x.keyEpoch else Sparse.set 0 x.keyEpoch page (Sparse.get 0 x.keyEpoch page + 1) }

/-- Selectors of a physical range set, its cached copies gone first (09 R217). -/
def setSelectors (lo pages sel : Nat) (s : State) : State :=
  let s1 := flushRange lo (pages * 0x4000000) s
  { s1 with xlt := ((List.range pages).map (lo / 0x4000000 + ·)).foldl (setSelector sel) s1.xlt }

/-- What still stood between a physical range and its stacks gives way to the whole-range write that follows:
pending corrected write-backs (07 R155), write-combining entries, and every cached copy, without write-back. -/
def dropRange (lo n : Nat) (s : State) : State :=
  let inR (line : Nat) : Bool := lo < 128 * line + 128 && 128 * line < lo + n
  let noWays (x : CisState) : CisState :=
    { x with ways := x.ways.filter fun w => !inR w.2.line, evict := x.evict.filter fun l => !inR l.line }
  let noEntries (e : Nat × List WcbEntry) : Option (Nat × List WcbEntry) :=
    match e.2.filter fun w => !inR w.line with
    | [] => none
    | l => some (e.1, l)
  let s1 : State := { s with
    hbm := { s.hbm with
      writeBacks := s.hbm.writeBacks.filter fun w => !inR (w.1 / 4)
      wcb := s.hbm.wcb.filterMap noEntries }
    coh := { s.coh with
      dir := Sparse.dropWhere inR s.coh.dir
      pA := Sparse.dropWhere inR s.coh.pA
      pB := Sparse.dropWhere inR s.coh.pB } }
  (s.coh.cis.map Prod.fst).foldl (fun s c => s.modCis c noWays) s1

/-- A page's whole contents written in the stacks: the bytes given sparsely by offset, zero elsewhere,
with the sectors of `bad` poisoned. Sectors of a stack that is not ACTIVE take nothing (07 R164). -/
def writePage (pa n : Nat) (data : Mem) (bad : List Nat) (s : State) : State :=
  match s.keyOf (s.selectorOf pa) with
  | none => s
  | some key =>
    let up (k : Nat) : Bool := (s.stack (s.stackOf k)).mode == .active
    let inR (k : Nat) : Bool := pa ≤ k && k < pa + n && up k
    let kept := Sparse.dropWhere inR s.hbm.cells
    let marks := Sparse.dropWhere (fun k => inR (32 * k)) s.hbm.marks
    let marks := if key = [] then marks
      else (List.range (n / 32)).foldl (fun m k =>
        if up (pa + 32 * k) then Sparse.set {} m (pa / 32 + k) { poison := false, key := key } else m) marks
    let cells := data.foldl (fun m e => if up (pa + e.1) then Sparse.set 0 m (pa + e.1) e.2 else m) kept
    let fresh := (List.range (n / 0x4000000)).foldl (fun m k => Sparse.set 0 m (pa / 0x4000000 + k) 0) s.xlt.keyEpoch
    let s1 : State := { s with hbm := { s.hbm with cells := cells, marks := marks }, xlt := { s.xlt with keyEpoch := fresh } }
    bad.foldl (fun s k => stackWrite (pa / 32 + k) (List.replicate 32 0) true s) s1

/-- A page written whole: no older copy of it is left anywhere. -/
def fillPage (pa n : Nat) (data : Mem) (bad : List Nat) (s : State) : State :=
  writePage pa n data bad (dropRange pa n s)

/-- MIGRATION_SERVICE (R209 steps 1 to 4): the oldest record not being copied. -/
def serveRecord (r : FaultRec) (s : State) : State :=
  match findLeaf r.vpage s with
  | (none, s1) => resumePage r.vpage s1
  | (some (_, e, big), s1) =>
    if leafRes e ≠ resAbsent ∧ !(r.move.isSome ∧ leafRes e = resAttach ∧ !leafPin e) then resumePage r.vpage s1
    else
      match s1.xlt.supply.find? (·.2 == big) with
      | none =>
        (match r.phase with
        | .noPage _ => s1
        | _ => postNotice ⟨4, big, r.vpage, 0, 0, r.waiters, r.engines⟩
            (raiseEv srcXlt 2 { s1 with xlt := { s1.xlt with records := s1.xlt.records.map fun x =>
              if x.vpage = r.vpage then { x with phase := .noPage s.now, big := big } else x } }))
      | some pg =>
        let s2 : State := { s1 with xlt := { s1.xlt with
          supply := s1.xlt.supply.erase pg
          records := s1.xlt.records.map fun x =>
            if x.vpage = r.vpage then { x with phase := .copying pg.1 e, big := big } else x } }
        setSelectors pg.1 (if big then 32 else 1) (leafKey e) s2

/-- FAULT_TIMEOUT (R211): no page was supplied within FAULT_TIMEOUT_MS. -/
def faultTimeout (vpage : Nat) (s : State) : State :=
  match s.xlt.records.find? (·.vpage == vpage) with
  | some r => (match r.phase with
    | .noPage since => if fwRuns s ∧ since + s.xlt.timeoutMs * 1000000 ≤ s.now then failPage vpage 8 s else s
    | _ => s)
  | none => s

def execFaultTimeout (vpage : PAddr) (s : State) : Host.Outcome State Fault Refusal :=
  .next (clocked (faultTimeout vpage.toNat) s)

/-! ## Invalidations (09 R215, R216) -/

/-- Do 64 MiB units overlap the range of an invalidation? -/
def unitsHit (base span : Nat) (units : List Nat) : Bool :=
  units.any fun u => span == 0 || (decide (base ≤ u) && decide (u < base + span))

/-- Units whose translations a launch holds once it has resolved them (R82). -/
def strmUnits (m : Strm) : List Nat :=
  if m.loaded then
    pagesOf m.launch.bundleVa (16 * m.launch.bundleCount) ++ pagesOf m.launch.trigVa (32 * m.launch.trigCount)
      ++ m.trigs.flatMap fun t => pagesOf t.va (32 * t.sectors)
  else []

/-- Launches of a stream unit that hold translations of the range. -/
def unitLaunches (base span : Nat) (u : StreamUnit) : List DescId :=
  let of (m : Option Strm) : List DescId := match m with
    | some m => if unitsHit base span (strmUnits m) then [m.launch.id] else []
    | none => []
  (if u.haltStatus.isSome ∨ u.status = .halted then [] else of u.cur) ++ of u.nxt
    ++ (u.prev.filter fun p => unitsHit base span p.units).map (·.id)

def allUnits (s : State) : List StreamUnit := s.arrays.map (·.2.su) ++ s.vecs.map (·.2.su)

/-- Launches that still hold their translations. -/
def liveLaunch (d : DescId) (s : State) : Bool :=
  (allUnits s).any fun u => (unitLaunches 0 0 u).contains d

/-- Does a descriptor in progress hold translations for accesses still to come? A transfer of a copy or sequence
engine issues its accesses as it obtains them, and so holds none while it waits (R216). -/
def holdsXlt (d : DescId) (s : State) : Bool :=
  match engKind (s.queue d.q).code with
  | .update => (List.range 2).any fun u => match (Sparse.get {} s.upd u).armed with
    | some a => a.id == d
    | none => false
  | .coll => s.coll.runs.any fun r => r.id == d && r.phase == .data
  | _ => false

/-- A transfer whose accesses have all retired. -/
def progRetired (d : DescId) (s : State) : Bool := tagClear (.desc d) s && !holdsXlt d s

def segUnits (x : QState) : List Nat :=
  pagesOf x.ringBase (64 * x.entries) ++ pagesOf x.cqBase (32 * x.cqEntries)

/-- An invalidation begins: cached translations go, and what it waits for is noted: the transfers, streams,
queues and incoming WRITEs that have used a translation of the range. -/
def beginInval (q n : Nat) (w : DWords) (s : State) : State :=
  let base := dSrc w / 0x4000000
  let span := dSpan w
  let hit (e : TlbEntry) : Bool :=
    unitsHit base span ((List.range (if e.big then 32 else 1)).map (e.base / 0x4000000 + ·))
  let descs := s.queues.flatMap fun e => (e.2.progs.filter fun p =>
    !(e.1 == q && p.n == n) && unitsHit base span p.pages).map fun p => (⟨e.1, p.n⟩ : DescId)
  let writes := (s.net.acks.filter fun a => unitsHit base span a.units).map (·.serial)
  let attach := descs.any fun d => match s.prog d.q d.n with | some p => p.host | none => false
  let launches := (allUnits s).flatMap (unitLaunches base span)
  let queues := (s.queues.filter fun e => e.2.mode != .disabled && unitsHit base span (segUnits e.2)).map Prod.fst
  let keep (e : Nat × List TlbEntry) : Option (Nat × List TlbEntry) :=
    let l := e.2.filter fun t => !hit t
    if l = [] then none else some (e.1, l)
  { s with xlt := { s.xlt with
    tlb := s.xlt.tlb.filterMap keep
    walkCache := []
    invals := s.xlt.invals ++ [⟨⟨q, n⟩, base, span, descs, launches, queues, writes, attach⟩] } }

/-- Everything an invalidation waits for has retired. -/
def Inval.ready (i : Inval) (s : State) : Bool :=
  i.descs.all (fun d => progRetired d s) && i.launches.all (fun d => !liveLaunch d s)
    && i.queues.all (fun q => (s.queue q).mode == .disabled) && i.writes.all fun k => tagClear (.inWrite k) s

/-- INVALIDATE (R233). -/
def execInvalidate (q : QueueId) (s : State) : Host.Outcome State Fault Refusal :=
  if !powered s then .next s else
  .next (match startDesc q.val opInvalidate s with
    | (some (n, true), s1) => match s1.prog q.val n with
      | some p => beginInval q.val n p.w s1
      | none => s1
    | (_, s1) => s1)

/-! ## Packets about writes (14 R305), and acknowledgements of holders -/

/-- WRITE (14 R305): a packet for this node. -/
def execWrite (p : Packet) (s : State) : Host.Outcome State Fault Refusal :=
  if !powered s then .next s else
  .next (if p.dst = s.node ∧ p.typ = typeWrite then receiveWrite p s else s)

/-- WRITE_ACK (14 R305). -/
def execWriteAck (txn : BitVec 32) (st : BitVec 16) (s : State) : Host.Outcome State Fault Refusal :=
  .next (clocked (ackWrite txn st) s)

/-- UNREACHABLE (14 R305). -/
def unreachable (txn : BitVec 32) (s : State) : State :=
  match s.net.writes.find? (·.txn == txn) with
  | some o => finishQueue o.id.q (endUnreachable o.id.q o.id.n s)
  | none => s

def execUnreachable (txn : BitVec 32) (_node : NodeId) (s : State) : Host.Outcome State Fault Refusal :=
  .next (clocked (unreachable txn) s)

/-- WRITE_ACK_TIMEOUT (14 R305): unacknowledged ACK_TIMEOUT_MS after it was sent. -/
def execWriteAckTimeout (txn : BitVec 32) (s : State) : Host.Outcome State Fault Refusal :=
  if !powered s then .next s else
  .next (match s.net.writes.find? (·.txn == txn) with
    | some o => if o.sent + s.net.ackMs * 1000000 ≤ s.now then unreachable txn s else s
    | none => s)

end Sys2Proof.Machine
end

