-- ==== Sys2Proof/Machine/Power.lean ====
section
/-! DEFINITION. Power regulation (spec 17): the Weigh-house, the cap controller, Spillway's duty, peak
clamps, thermal holds and voltage margin. -/

namespace Sys2Proof.Machine

def pwrCtr (off : Nat) : Nat := 0x300000 + off
def energyMilliJ : Nat := pwrCtr 0x100
def untrustedNs : Nat := pwrCtr 0x108
def thermalHoldNs : Nat := pwrCtr 0x110
def peakClampCount : Nat := pwrCtr 0x118
def stretchCount : Nat := pwrCtr 0x120
def fixedLostNs : Nat := pwrCtr 0x128
def calCount : Nat := pwrCtr 0x130

def evWhUntrusted : Nat := 0
def evWhFault : Nat := 1
def evThermal : Nat := 2
def evOverRated : Nat := 3
def evPeakClamp : Nat := 4
def evFixedLost : Nat := 5
def evTrim : Nat := 6

/-- REF_ISSUE_DUTY, EXCURSION_W and RATED_W of the geometry table (01 R25). -/
def refIssueDuty : Nat := 52
def excursionW : Nat := 3500
def ratedW : Nat := 3200

/-! ## The Weigh-house (R363-R367) -/

/-- No sample of M for 10 ms. -/
def measurementGone (s : State) : Bool :=
  match s.pwr.samples with
  | [] => decide (10000000 ≤ s.now)
  | x :: _ => decide (x.1 + 10000000 ≤ s.now)

/-- The control value for an estimate (Table 17-3), in dW × 16384. -/
def controlOf (e : Nat) (s : State) : Nat :=
  match s.pwr.wh with
  | .trusted => e
  | .untrusted => ((e : Int) + s.pwr.delta).toNat
  | .fault => if measurementGone s then e else ((e : Int) + max s.pwr.delta 0).toNat

def clampGain (g : Nat) : Nat := max 14746 (min 18022 g)

/-- The end of a recalibration's first 100 ms sets G to the ratio of the means (R367). -/
def recalGain (s : State) : State :=
  match s.pwr.recal with
  | some r =>
    if !r.gainSet && r.start + 100000000 ≤ s.now then
      s.modPwr fun p => { p with
        gain := if r.mN = 0 ∨ r.rawSum = 0 then p.gain
          else clampGain (r.mSum * r.rawN * 16384 / (r.mN * r.rawSum))
        recal := some { r with gainSet := true } }
    else s
  | none => s

def recalRaw (raw : Nat) (s : State) : State :=
  match s.pwr.recal with
  | some r => if r.gainSet then s
      else s.modPwr fun p => { p with recal := some { r with rawSum := r.rawSum + raw, rawN := r.rawN + 1 } }
  | none => s

def recalSample (dw : Nat) (s : State) : State :=
  match s.pwr.recal with
  | some r => if r.gainSet then s
      else s.modPwr fun p => { p with recal := some { r with mSum := r.mSum + dw, mN := r.mN + 1 } }
  | none => s

/-- The Weigh-house leaves TRUSTED, or FAULT is entered: event, EXCURSION, and attempts every 10 s. -/
def whEnter (w : WhState) (s : State) : State :=
  if s.pwr.wh = w then s
  else
    let s1 := s.modPwr fun p => { p with wh := w, nextTry := s.now + 10000000000 }
    match w with
    | .trusted => s1
    | .untrusted => excursion 3 false (raiseEv srcPwr evWhUntrusted s1)
    | .fault => excursion 4 false (raiseEv srcPwr evWhFault s1)

/-- One 10 ms comparison (R364, R365): D, its runs, and the drift of G. -/
def whCompare (s : State) : State :=
  let s := recalGain s
  let p := s.pwr
  let es := p.ests.sum
  let n := p.ests.length
  let ms := (p.samples.map Prod.snd).sum
  let m := p.samples.length
  let den := ms * n * 16384
  if den = 0 then s
  else
    let diff := ((es * m : Nat) - (den : Int) : Int).natAbs
    let over8 := if 100 * diff > 8 * den then min 255 (p.over8 + 1) else 0
    let over25 := if 100 * diff > 25 * den then min 255 (p.over25 + 1) else 0
    let target := if es = 0 then p.gain else p.gain * den / (es * m)
    let gain := if p.wh = .trusted ∧ 100 * diff ≤ 8 * den then
        clampGain (max (p.gain - 32) (min (p.gain + 32) target))
      else p.gain
    let s1 := s.modPwr fun p => { p with
      gain := gain, over8 := over8, over25 := over25, dPermille := min 0xFFFF (1000 * diff / den)
      recal := p.recal.map fun r => if r.gainSet then { r with
        compares := r.compares + 1, bad := r.bad || decide (100 * diff > 4 * den) } else r }
    if over25 ≥ 3 then whEnter .fault s1
    else if over8 ≥ 10 ∧ p.wh = .trusted then whEnter .untrusted s1
    else s1

/-! ## Learnt entries (R369) -/

def State.tag (s : State) (t : Nat) : TagEntry := Sparse.get {} s.pwr.tags t

/-- n_t in dW: ARRAY_DW and MEM_DW as their fields show them. -/
def TagEntry.need (t : TagEntry) : Nat := min 0xFFFF (t.array / 4096) + min 0xFFFF (t.mem / 4096)

/-- An array whose draw is a sample: not holding, and more than 1 ms after its start. -/
def sampleArray (s : State) (a : Nat) : Bool :=
  let u := (s.arr a).su
  u.status == .running && u.holding == .none && decide (u.lockStart.toNat + 1000000 ≤ s.now)

/-- One update of a tag's entry from its arrays' scaled draws. -/
def learnTag (xs : List (Nat × Nat × Nat)) (s : State) (t : Nat) : State :=
  let mine := xs.filter fun x => (s.arr x.1).phaseTag.toNat == t && sampleArray s x.1
  if mine = [] then s
  else
    let n := mine.length
    let mean (f : Nat × Nat × Nat → Nat) : Nat :=
      (mine.map fun x => f x * 64 * 4096 / max 1 (s.arr x.1).duty).sum / n
    let e := s.tag t
    let e' : TagEntry := { array := (15 * e.array + mean (·.2.1)) / 16
                           mem := (15 * e.mem + mean (·.2.2)) / 16
                           samples := min 0xFFFF (e.samples + 1) }
    s.modPwr fun p => { p with tags := Sparse.set {} p.tags t e' }

/-! ## The cap controller (R368) -/

def runningArrays (s : State) : List Nat := (List.range 16).filter fun a => (s.arr a).su.status == .running

def State.therm (s : State) (r : Nat) : Therm := Sparse.get .normal s.pwr.therm r

/-- Any region is critical. -/
def anyCritical (s : State) : Bool := (List.range 6).any fun r => s.therm r == .critical

/-- The limit an array is subject to, and whether it is a throttle of R354, with its cause. -/
def arrayLimit (s : State) (a : Nat) : Nat × Option Byte :=
  let th := if anyCritical s then 1 else Sparse.get 64 s.pwr.thermDuty (a / 4)
  let cl := if s.pwr.clampUntil.isSome then 32 else 64
  let hw := min th cl
  let cause : Option Byte := if hw = 64 then none else if th ≤ cl then some 1 else some 2
  let soft := if s.pwr.fixedRate then refIssueDuty else s.env.pace
  (min hw soft, if hw ≤ soft then cause else none)

def commonDuty (a : Int) (needs : List Nat) : Nat :=
  if needs.sum = 0 then 64 else max 1 (min 64 ((64 * a) / needs.sum).toNat)

/-- Arrays whose limit lies below the common duty take it, and their need leaves the budget; the rest
share what remains. -/
def shareDuty (s : State) : Nat → Int → List Nat → List (Nat × Nat) → Nat × List (Nat × Nat)
  | 0, _, rest, acc => (1, acc ++ rest.map fun a => (a, 1))
  | fuel + 1, budget, rest, acc =>
    let need (a : Nat) : Nat := (s.tag (s.arr a).phaseTag.toNat).need
    let dc := commonDuty budget (rest.map need)
    let low := rest.filter fun a => (arrayLimit s a).1 < dc
    if low = [] then (dc, acc ++ rest.map fun a => (a, dc))
    else
      let used : Nat := (low.map fun a => need a * (arrayLimit s a).1 / 64).sum
      shareDuty s fuel (budget - used) (rest.filter fun a => !low.contains a)
        (acc ++ low.map fun a => (a, (arrayLimit s a).1))

/-- Members of one aligned lock group take the lowest duty of any of them (04 R98). -/
def groupDuty (s : State) (ds : List (Nat × Nat)) (a d : Nat) : Nat :=
  let u := (s.arr a).su
  if u.inGroup && u.aligned then
    (ds.filter fun e => let v := (s.arr e.1).su
      v.inGroup && v.aligned && v.lockMask == u.lockMask).foldl (fun m e => min m e.2) d
  else d

/-- A duty to take effect at the array's next 64-cycle boundary. -/
def setDuty' (a d : Nat) (s : State) : State :=
  s.modArr a fun x => { x with dutyNext := if x.duty = d then none else some d }

/-- The lowest duty that arrays of an aligned group have or are about to have; 64 for a group of none. -/
def alignedDuty (mask : BitVec 32) (s : State) : Nat :=
  (List.range 16).foldl (fun d a =>
    let x := s.arr a
    if x.su.inGroup && x.su.aligned && x.su.lockMask == mask then min d (x.dutyNext.getD x.duty) else d) 64

/-- The vector engines of aligned groups take their groups' duties (04 R98, 06 R124). -/
def syncVecs (s : State) : State :=
  (List.range 16).foldl (fun s n =>
    let u := (s.vec n).su
    if u.inGroup && u.aligned then
      s.modVec n fun x =>
        let d := alignedDuty u.lockMask s
        { x with dutyNext := if x.duty = d then none else some d }
    else s) s

/-- The cap controller's step for a control value and its parts, in dW. -/
def capStep (control ballast : Nat) (xs : List (Nat × Nat × Nat)) (s : State) : State :=
  let run := runningArrays s
  let mine := xs.filter fun x => run.contains x.1
  let attributed := (mine.map fun x => x.2.1 + x.2.2).sum
  let rest : Int := (control : Int) - ballast - attributed
  let target := 10 * min s.env.level (effC s)
  let (dc, ds) := shareDuty s 17 ((target : Int) - rest) run []
  let ds' := ds.map fun e => (e.1, groupDuty s ds e.1 e.2)
  let s1 := syncVecs (ds'.foldl (fun s e => setDuty' e.1 e.2 s) s)
  let full := if s.pwr.fixedRate then refIssueDuty else 64
  let held := run != [] && decide (dc < full) && decide (s.env.level < effC s)
  let thr := ds'.foldl (fun (m : Nat × Byte) e =>
    match (arrayLimit s e.1).2 with
    | some c => if e.2 < m.1 then (e.2, c) else m
    | none => m) (64, 0)
  let lost := s.pwr.fixedRate && ds'.any fun e => e.2 < refIssueDuty
  let s2 := s1.modPwr fun p => { p with
    commonDuty := dc
    heldSince := if held then (match p.heldSince with | some t => some t | none => some s.now) else none
    throttle := thr.1, throttleCause := thr.2, fixedLost := lost }
  if lost then raiseEv srcPwr evFixedLost s2 else s2

/-! ## Spillway (16 R343) -/

/-- Arrays on which ballast may run. -/
def ballastArrays (s : State) : List Nat :=
  (List.range 16).filter fun a =>
    let st := (s.arr a).su.status
    (st == .idle || st == .ballast || st == .waitingForPermit || st == .waitingForLock)
      && s.therm (a / 4) == .normal

def aryBallastCount (a : Nat) : Nat := debugBase (codeArray a) false + 0x28

/-- One array's ballast duty, with the state an idle array shows. -/
def setBallast (a d : Nat) (s : State) : State :=
  let s1 := s.modPwr fun p => { p with ballast := Sparse.set 0 p.ballast a d }
  s1.modArr a fun x =>
    if x.su.status = .idle ∧ d > 0 then { x with su := { x.su with status := .ballast } }
    else if x.su.status = .ballast ∧ d = 0 then { x with su := { x.su with status := .idle } }
    else x

/-- Ballast steps that an array has issued since Spillway last counted: 4 cycles per nanosecond, d of every 64. -/
def ballastSteps (a : Nat) (s : State) : Nat := (s.ticks - s.pwr.spillAt) * Sparse.get 0 s.pwr.ballast a / 16

/-- Ballast stops on an array in the cycle in which a stream's first bundle issues (03 R71). -/
def stopBallast (a : Nat) (s : State) : State :=
  (count (aryBallastCount a) (ballastSteps a s) s).modPwr fun p => { p with ballast := Sparse.set 0 p.ballast a 0 }

/-- The steps of the interval that ends are counted; then the new duty is set, its remainder one step to
each of the lowest-numbered arrays. -/
def spillway (s : State) : State :=
  let s0 := ((List.range 16).foldl (fun s a => count (aryBallastCount a) (ballastSteps a s) s) s).modPwr
    fun p => { p with spillAt := s.ticks }
  let use := ballastArrays s0
  let n := use.length
  let steps := min (64 * n) ((10 * s0.env.level - s0.env.workDw) * 64 / 1000)
  (List.range 16).foldl (fun s a =>
    match use.idxOf? a with
    | some k => setBallast a (steps / max n 1 + (if k < steps % max n 1 then 1 else 0)) s
    | none => setBallast a 0 s) s0

/-- Ballast is short no longer once full ballast on every usable array would reach H - 40 W (16 R344). -/
def endShort (s : State) : State :=
  if s.env.short ∧ 10 * s.env.level ≤ s.env.workDw + 1000 * (ballastArrays s).length + 400 then
    s.modEnv fun e => { e with short := false }
  else s

/-- A collective this package has entered waits for a member that has not arrived (16 R348). -/
def collWaiting (s : State) : Bool := s.coll.runs.any fun r => r.phase == .signing

/-! ## Commands -/

/-- WEIGH_HOUSE_ESTIMATE (R363): the 10 us step of estimate, learning, cap controller and Spillway. -/
def execWeighHouseEstimate (act : Activity) (s : State) : Host.Outcome State Fault Refusal :=
  let s := recalRaw act.rawDw (recalGain s)
  let g := s.pwr.gain
  let e := g * act.rawDw
  let control := controlOf e s / 16384
  let ballast := g * act.ballastDw / 16384
  let xs := act.arrays.map fun x => (x.1.val, g * x.2.1 / 16384, g * x.2.2 / 16384)
  let work := control - ballast
  let s1 := s.modPwr fun p => { p with ests := (e :: p.ests).take 1000
                                       ballastRem := (p.ballastRem + ballast) % 1000 }
  let s2 := count ballastMilliJ ((s.pwr.ballastRem + ballast) / 1000) s1
  let span := s.env.delayMs * 1000000
  let s3 := s2.modEnv fun v => { v with
    workDw := work, ballastDw := ballast
    window := if collWaiting s then v.window
      else (v.window.filter fun x => s.now < x.1 + span) ++ [(s.now, ballast)] }
  let s4 := if fwRuns s then (List.range 64).foldl (learnTag xs) s3 else s3
  .next (sluiceAsk (endShort (spillway (capStep control ballast xs s4))))

/-- WEIGH_HOUSE_COMPARE (R364). -/
def execWeighHouseCompare (s : State) : Host.Outcome State Fault Refusal := .next (if fwRuns s then whCompare s else s)

/-- DELTA_RECOMPUTE (R366): the last sample less the mean of the last 100 estimates. -/
def execDeltaRecompute (s : State) : Host.Outcome State Fault Refusal :=
  if !powered s then .next s else
  let l := s.pwr.ests.take 100
  .next (match s.pwr.samples with
    | x :: _ => if l = [] then s else
        s.modPwr fun p => { p with delta := (16384 * x.2 : Nat) - (l.sum / l.length : Nat) }
    | [] => s)

/-- MEASUREMENT_ABSENT (R365): no sample for 10 ms. -/
def execMeasurementAbsent (s : State) : Host.Outcome State Fault Refusal :=
  if !powered s then .next s else
  .next (if measurementGone s then whEnter .fault s else s)

/-- INPUT_POWER_SAMPLE (R362): energy, the run above RATED_W and its guard band (R371). -/
def execInputPowerSample (dw : Nat) (s : State) : Host.Outcome State Fault Refusal :=
  if !powered s then .next s else
  let s := recalSample dw (recalGain s)
  let run := if dw > 10 * ratedW then s.pwr.overRun + 1 else 0
  let s1 := s.modPwr fun p => { p with
    samples := ((s.now, dw) :: p.samples).take 10
    energyRem := (p.energyRem + dw) % 10
    overRun := if run ≥ 5 then 0 else run
    overUntil := if run ≥ 5 then some (s.now + 100000000) else p.overUntil }
  let s2 := count energyMilliJ ((s.pwr.energyRem + dw) / 10) s1
  .next (if run ≥ 5 then raiseEv srcPwr evOverRated s2 else s2)

/-- OVER_RATED_END (R371). -/
def execOverRatedEnd (s : State) : Host.Outcome State Fault Refusal :=
  if !powered s then .next s else
  .next (match s.pwr.overUntil with
    | some t => if t ≤ s.now then s.modPwr fun p => { p with overUntil := none } else s
    | none => s)

/-- PEAK_CLAMP (R371): the input power crosses EXCURSION_W. -/
def execPeakClamp (watts : Nat) (s : State) : Host.Outcome State Fault Refusal :=
  if !powered s then .next s else
  .next (if watts > excursionW then
    let s1 := raiseEv srcPwr evPeakClamp (count peakClampCount 1 s)
    let s2 := s1.modPwr fun p => { p with clampUntil := some (s.now + 100000) }
    syncVecs ((List.range 16).foldl (fun s a => setDuty' a (min 32 (s.arr a).duty) s) s2)
  else s)

/-- PEAK_CLAMP_END (R371): 100 us have passed. -/
def execPeakClampEnd (s : State) : Host.Outcome State Fault Refusal :=
  if !powered s then .next s else
  .next (match s.pwr.clampUntil with
    | some t => if t ≤ s.now then s.modPwr fun p => { p with clampUntil := none } else s
    | none => s)

/-- RECALIBRATION_ATTEMPT (R367): 10 s after UNTRUSTED or FAULT, or the last attempt. -/
def execRecalibrationAttempt (s : State) : Host.Outcome State Fault Refusal :=
  .next (if fwRuns s ∧ s.pwr.wh ≠ .trusted ∧ s.pwr.nextTry ≤ s.now ∧ s.pwr.recal.isNone then
    count calCount 1 (s.modPwr fun p => { p with recal := some { start := s.now } })
  else s)

/-- The end of an attempt: whether it was trusted, and the state (R367). -/
def recalFinish (r : Recal) (s : State) : Bool × State :=
  let ok := r.gainSet && decide (10 ≤ r.compares) && !r.bad
  (ok, s.modPwr fun p => { p with
    recal := none
    wh := if ok then .trusted else p.wh
    over8 := if ok then 0 else p.over8
    nextTry := s.now + 10000000000 })

/-! ## Thermal (R372) -/

def tempOf (l : List Nat) (k : Nat) : Nat := l.getD k 0

/-- Entry, leaving and critical conditions of a region from its own sensor, its X-die's (T-dies only)
and whether one of its stacks is above 95 degrees. -/
def regionNext (cur : Therm) (hot cool crit calm : Bool) : Therm :=
  match cur with
  | .normal => if crit then .critical else if hot then .hold else .normal
  | .hold => if crit then .critical else if cool then .normal else .hold
  | .critical => if calm then .hold else .critical

/-- Next state of region r: T-dies 0-3, P-dies 4 and 5. -/
def regionStep (t : Temps) (r : Nat) (cur : Therm) : Therm :=
  if r < 4 then
    let own := tempOf t.tdie r
    let x := tempOf t.xdie (r / 2)
    let st := (List.range 6).any fun k => tempOf t.stks (6 * r + k) > 95
    regionNext cur (own > 100 || x > 100 || st) (own ≤ 98 && x ≤ 98 && !st) (own ≥ 105 || x ≥ 105)
      (own ≤ 100 && x ≤ 100)
  else
    let own := tempOf t.pdie (r - 4)
    regionNext cur (own > 100) (own ≤ 98) (own ≥ 105) (own ≤ 100)

/-- The urgent down request of a thermal hold: to the present draw of real work. -/
def thermalAsk (s : State) : State :=
  requestDown (plannedLow s - ((s.env.workDw + 9) / 10 : Nat)) true false
    (s.modPwr fun p => { p with lastHoldAsk := s.now })

/-- Core clocks under a P-die hold or CRITICAL: 100 MHz less per 1 ms, or 1.0 GHz; back when left. -/
def stepClocks (slow : Bool) (s : State) : State :=
  (List.range 128).foldl (fun s c =>
    let st := s.therm (4 + c / 64)
    let k := (s.core c).clock
    let k' := if anyCritical s then 10
      else match st with
        | .hold => if slow then max 10 (k - 1) else k
        | _ => 36
    if k = k' then s else s.modCore c fun x => { x with clock := k' }) s

/-- THERMAL_SENSOR_READ (R372). -/
def execThermalSensorRead (t : Temps) (s : State) : Host.Outcome State Fault Refusal :=
  if !powered s then .next s else
  let old (r : Nat) : Therm := s.therm r
  let next (r : Nat) : Therm := regionStep t r (old r)
  let bytes := t.tdie.take 4 ++ t.pdie.take 2 ++ t.xdie.take 2
  let temps := ((List.range 8).zip bytes).foldl (fun m e => Sparse.set (0 : Byte) m e.1 (BitVec.ofNat 8 e.2)) s.pwr.temps
  let s1 := s.modPwr fun p => { p with
    temps := temps
    therm := (List.range 6).foldl (fun m r => Sparse.set .normal m r (next r)) p.therm
    thermDuty := (List.range 4).foldl (fun m r =>
      Sparse.set 64 m r (match next r with
        | .normal => 64
        | .hold => max 1 (min (Sparse.get 64 p.thermDuty r) p.commonDuty - 1)
        | .critical => 1)) p.thermDuty }
  let s2 := (List.range 24).foldl (fun s k =>
    s.modStack k fun x => { x with temp := BitVec.ofNat 8 (tempOf t.stks k) }) s1
  let entered := (List.range 6).any fun r => next r != .normal && next r != old r
  let crit := (List.range 6).any fun r => old r != .critical && next r == .critical
  let newHold := (List.range 4).any fun r => next r != .normal && (old r == .normal || next r == .hold && old r != .hold)
  let inHold := (List.range 4).any fun r => next r != .normal
  let s3 := if entered then raiseEv srcPwr evThermal s2 else s2
  let s4 := if crit then excursion 1 false s3 else s3
  let s5 := if newHold || (inHold && decide (s.pwr.lastHoldAsk + 10000000 ≤ s.now)) then thermalAsk s4 else s4
  let slow := decide (s.pwr.lastClock + 1000000 ≤ s.now)
  .next (stepClocks slow (if slow then s5.modPwr fun p => { p with lastClock := s.now } else s5))

/-! ## Voltage margin (R373, R374) -/

def marginOf (s : State) (c : Nat) : Int := if s.pwr.droop then 25 else 50 + Sparse.get 0 s.pwr.margins c

def trimmed (slack : Nat) (m : Int) : Int := if slack ≥ 20 then max 25 (m - 5) else if slack < 10 then min 50 (m + 5) else m

/-- MARGIN_EVALUATION (R373): every 24 h in the native droop mode, from the least slack of each T-die. -/
def execMarginEvaluation (slack : List Nat) (s : State) : Host.Outcome State Fault Refusal :=
  .next (if !fwRuns s ∨ s.pwr.droop ∨ s.now < s.pwr.nextEval then s
  else
    let old (c : Nat) : Int := 50 + Sparse.get 0 s.pwr.margins c
    let new (c : Nat) : Int := trimmed (tempOf slack c) (old c)
    let s1 := s.modPwr fun p => { p with
      margins := (List.range 4).foldl (fun m c => Sparse.set 0 m c (new c - 50)) p.margins
      slack := (List.range 4).map (tempOf slack), evalTime := s.now, nextEval := s.now + 86400000000000 }
    if (List.range 4).any fun c => new c != old c then raiseEv srcPwr evTrim s1 else s1)

/-- DROOP_STRETCH (R374): a stretched cycle of a T-die in T7 droop mode. -/
def execDroopStretch (_t : CisternId) (s : State) : Host.Outcome State Fault Refusal :=
  .next (clocked (fun s => if s.pwr.droop then count stretchCount 1 s else s) s)

/-- DUTY_BOUNDARY (R370, 03 R69): a waiting duty takes effect at a multiple of 64 array cycles. -/
def dutyBoundary (x : AryState) : AryState :=
  match x.dutyNext with
  | some d => if x.pos % 64 = 0 ∨ x.su.status ≠ .running then { x with duty := d, dutyNext := none } else x
  | none => x

def execDutyBoundary (n : ArrayId) (s : State) : Host.Outcome State Fault Refusal :=
  .next (clocked (fun s => s.modArr n.val dutyBoundary) s)

/-- The same for a vector engine of a lock group (06 R124). -/
def vecDutyBoundary (x : VecState) : VecState :=
  match x.dutyNext with
  | some d => if x.pos % 64 = 0 ∨ x.su.status ≠ .running then { x with duty := d, dutyNext := none } else x
  | none => x

/-- Counters of one block cleared by a write of 1 to bit 0 of its clear register. -/
def clearOn (v : W64) (lo hi : Nat) (s : State) : State :=
  if bitOf v 0 then clearCounters lo hi s else s

/-- PWR_ENV_COUNTER_CLEAR (16 R360). -/
def execPwrEnvCounterClear (v : W64) (s : State) : Host.Outcome State Fault Refusal :=
  .next (clocked (clearOn v 0x301100 0x301200) s)

/-- PWR_COUNTER_CLEAR (R377). -/
def execPwrCounterClear (v : W64) (s : State) : Host.Outcome State Fault Refusal :=
  .next (clocked (clearOn v 0x300100 0x300200) s)

end Sys2Proof.Machine
end

