-- ==== Sys2Proof/Machine/Stream.lean ====
section
/-! DEFINITION. The stream unit shared by arrays and vector engines (spec 04 R80-R85, R92-R102, 06 R124,
R133): launch, load, permit, lock group, halt, triggers, semaphores, completion, and what stopping,
resuming and disabling a queue does to its streams (10 R242, R243). -/

namespace Sys2Proof.Machine

/-! ## Units -/

def isVec : StreamEng → Bool
  | .arr _ => false
  | .vec _ => true

/-- Source of ARY_STREAM_EVENTS or VEC_EVENTS, which have one layout. -/
def streamSrc : StreamEng → BitVec 16
  | .arr n => srcAryStream n.val
  | .vec n => srcVec n.val

def evLockLost : Nat := 0
def evLockLate : Nat := 1
def evSemOvf : Nat := 2

/-- Counters of cycles held and of nanoseconds waiting for a permit. -/
def waitCtr : StreamEng → Nat
  | .arr n => debugBase (codeArray n.val) true + 0x38
  | .vec n => debugBase (codeVec n.val) false + 0x50
def permitCtr : StreamEng → Nat
  | .arr n => debugBase (codeArray n.val) true + 0x40
  | .vec n => debugBase (codeVec n.val) false + 0x58

/-- Bit of an engine in a LOCK_MASK (Table 4-1). -/
def engBit : StreamEng → Nat
  | .arr n => n.val
  | .vec n => 16 + n.val

/-- Engine of a code of Table 9-12 below 0x20. -/
def streamEng (code : Nat) : StreamEng :=
  if code < 16 then .arr (Fin.ofNat 16 code) else .vec (Fin.ofNat 16 (code - 16))

def allEngines : List StreamEng := (List.range 32).map streamEng

/-- Members a launch's LOCK_MASK names; 0 names the launching engine alone (R96). -/
def maskMembers (e : StreamEng) (mask : BitVec 32) : List StreamEng :=
  if mask = 0 then [e] else allEngines.filter fun x => mask.getLsbD (engBit x)

def ownMask (e : StreamEng) (mask : BitVec 32) : BitVec 32 :=
  if mask = 0 then BitVec.ofNat 32 (2 ^ engBit e) else mask

def curLaunch (u : StreamUnit) : Option Launch := u.cur.map (·.launch)

/-- A launch stands in the engine and its first bundle has not issued. -/
def StreamUnit.waits (u : StreamUnit) : Bool :=
  u.cur.isSome && u.status != .running && u.status != .halted

/-! ## Semaphores (R94, 06 R133) -/

/-- An increment arrives. -/
def incSem (e : StreamEng) (k : Nat) (src : IncSrc) (s : State) : State :=
  let v := Sparse.get 0 (s.unit e).sems k
  if v = 255 then raiseEv (streamSrc e) evSemOvf s
  else s.modUnit e fun u => { u with sems := Sparse.set 0 u.sems k (v + 1), incs := u.incs ++ [(k, src)] }

/-- An increment from the partner engine, seen `lat` of the receiver's array cycles later. -/
def sendSem (e : StreamEng) (k lat cyc : Nat) (s : State) : State :=
  if (s.unit e).status = .running then s.modUnit e fun u => { u with semIn := u.semIn ++ [(k, lat, cyc)] }
  else incSem e k (.sig cyc) s

/-- One array cycle of the receiver passes. -/
def ageSems (e : StreamEng) (s : State) : State :=
  let l := (s.unit e).semIn
  let due := l.filter fun x => x.2.1 ≤ 1
  let rest := (l.filter fun x => 1 < x.2.1).map fun x => (x.1, x.2.1 - 1, x.2.2)
  due.foldl (fun s x => incSem e x.1 (.sig x.2.2) s) (s.modUnit e fun u => { u with semIn := rest })

/-- A wait passes: the semaphore falls by one and its oldest increment is consumed (R101). -/
def passWait (e : StreamEng) (k : Nat) (s : State) : State :=
  let u := s.unit e
  let inc := u.incs.find? (·.1 == k)
  let s1 := s.modUnit e fun u => { u with
    sems := Sparse.set 0 u.sems k (Sparse.get 0 u.sems k - 1)
    incs := u.incs.eraseP (·.1 == k), waitPassed := true, holding := .none }
  match inc with
  | some (_, .trig id) => s1.modUnit e fun u => { u with pend := u.pend.filter (·.id != id) }
  | some (_, .ext) => s1
  | some (_, .sig c) => (match e with
    | .vec n => s1.modVec n.val fun x => { x with accOk := some (max c (x.accOk.getD 0)) }
    | .arr _ => s1)
  | none => s1

/-! ## Lock groups (R96-R99) -/

/-- Running members of the group of a mask. -/
def groupRunning (mask : BitVec 32) (s : State) : List StreamEng :=
  allEngines.filter fun x => let u := s.unit x
    u.inGroup && u.lockMask == mask && (u.status == .running || u.status == .halted)

/-- Alignment breaks: LOCK_LOST is set on every member, one whose stream has ended included (R98). -/
def loseAlign (e : StreamEng) (s : State) : State :=
  let u := s.unit e
  if u.inGroup && u.aligned then
    let s1 := (groupRunning u.lockMask s).foldl (fun s x => s.modUnit x fun u => { u with aligned := false }) s
    (maskMembers e u.lockMask).foldl (fun s x => raiseEv (streamSrc x) evLockLost s) s1
  else s

/-! ## Ends of launches -/

/-- The descriptor of a stream ends with a status; its record follows in ring order. -/
def endLaunch (id : DescId) (st : BitVec 16) (s : State) : State := finishQueue id.q (endFree id.q id.n st s)

/-- A request of an engine that forms a group of itself is given up with its launch. -/
def dropRequest (e : StreamEng) (mask : BitVec 32) (s : State) : State :=
  if (maskMembers e mask).length ≤ 1 then sluiceDrop (.stream (ownMask e mask)) s else s

/-- The engine holds no launch any more. -/
def clearCur (st : RunState) (u : StreamUnit) : StreamUnit := { u with
  status := st, cur := none, permit := false, readyAt := none, holding := .none, waitPassed := false
  lastIssued := false, inGroup := false, aligned := false }

/-! ## Starting (R84, R97) -/

/-- The duty an array would start with by itself. -/
def ownDuty (fixed : Bool) (x : AryState) : Nat := if fixed then refIssueDuty else x.dutyNext.getD x.duty

/-- R63 and R59 keep what the stores hold; the launch's own record of the stream begins anew. Position 0 is
the array edge at which the stream starts; where the duty withholds it, the first bundle issues at the first
issuing position after it (DEDUCED, log 101: R69 against R71 and R97). -/
def beginArray (tag : BitVec 6) (duty : Nat) (x : AryState) : AryState :=
  let fin (b : StatBuf) : StatBuf := if b.busy.isSome then { b with valid := true, busy := none } else b
  { x with
    phaseTag := tag, pos := 0, hist := {}, buf0 := fin x.buf0, buf1 := fin x.buf1
    duty := duty, dutyNext := none }

/-- The first stream after reset runs from half 1 of the bundle store, and every start changes the half; a
group of one member is never shown as ALIGNED (DESIGN CHOICE, log 100). -/
def beginUnit (start : Nat) (several : Bool) (u : StreamUnit) : StreamUnit := { u with
  status := .running, idx := 0, rep := 0, half := !u.half, cycle := 0, lastIssued := false
  holding := .none, waitPassed := false, lockStart := w64 start, inGroup := several, aligned := several
  taintAt := none, taintPast := [], base := 0, touched := [], raced := [], ran := [], readyAt := none }

/-- The common duty of the members of a start: the lowest of its arrays' own, 64 with no array (R98). -/
def startDuty (ms : List StreamEng) (s : State) : Nat :=
  ms.foldl (fun d x => match x with
    | .arr n => min d (ownDuty s.pwr.fixedRate (s.arr n.val))
    | .vec _ => d) 64

/-- One member issues from here on; ballast on it stops (R71). -/
def startMember (start duty : Nat) (several : Bool) (e : StreamEng) (s : State) : State :=
  let s1 := s.modUnit e (beginUnit start several)
  match e with
  | .arr n =>
    let tag := match (s.unit e).cur with | some m => m.launch.phaseTag | none => 0
    ((stopBallast n.val s1).modArr n.val (beginArray tag duty)).modVec n.val fun v => { v with accOk := none }
  | .vec n => s1.modVec n.val fun v => { v with
      loops := [], rowIssue := [], duty := if several then duty else 64, dutyNext := none, pos := 0 }

/-- Is the engine a ready member of the group of this mask and start time? -/
def memberReady (mask : BitVec 32) (start : Nat) (x : StreamEng) (s : State) : Bool :=
  let u := s.unit x
  u.waits && u.readyAt.isSome && (match curLaunch u with
    | some l => ownMask x l.lockMask == mask && l.startTime == start
    | none => false)

/-- The first whole microsecond at or after t. -/
def wholeMicro (t : Nat) : Nat := (t + 999) / 1000 * 1000

/-- S and LOCK_LATE for a group of `n` members whose last became ready at r (R97). -/
def groupStart (n start r : Nat) : Nat × Bool :=
  if n ≤ 1 then
    (if start = 0 then (r, false) else if r ≤ start then (start, false) else (r, true))
  else if start = 0 then (wholeMicro (r + 1000), false)
  else if r + 1000 ≤ start then (start, false)
  else (wholeMicro (r + 1000), true)

/-- The group of engine e starts if every member is ready and S has come. -/
def startGroup (e : StreamEng) (s : State) : State :=
  match curLaunch (s.unit e) with
  | none => s
  | some l =>
    let mask := ownMask e l.lockMask
    let ms := maskMembers e mask
    if ms.all fun x => memberReady mask l.startTime x s then
      let r := (ms.map fun x => (s.unit x).readyAt.getD 0).foldl max 0
      let (start, late) := groupStart ms.length l.startTime r
      if start ≤ s.now then
        let s1 := ms.foldl (fun t x => startMember start (startDuty ms s) (decide (1 < ms.length)) x t) s
        let s2 := if late then ms.foldl (fun s x => raiseEv (streamSrc x) evLockLate s) s1 else s1
        s2.modEnv fun v => { v with permits := v.permits.filter (· != mask) }
      else s
    else s

/-- A member whose load is complete and whose permit is held becomes ready; a launch that forms a group
of itself without a START_TIME starts at once (R71, R97). -/
def checkReady (e : StreamEng) (s : State) : State :=
  let u := s.unit e
  match u.cur with
  | some m =>
    if u.waits && u.permit && m.loaded && u.readyAt.isNone then
      let s1 := s.modUnit e fun u => { u with readyAt := some s.now, status := .waitingForLock }
      if (maskMembers e m.launch.lockMask).length ≤ 1 ∧ m.launch.startTime = 0 then startGroup e s1 else s1
    else s
  | none => s

/-- Arrays and vector engines of a mask, for the demand of its start (R345). -/
def maskDemand (tag : BitVec 6) (ms : List StreamEng) (s : State) : Nat :=
  streamDemand tag.toNat (ms.filter fun x => !isVec x).length (ms.filter isVec).length s

/-- A permit granted to the streams of a mask: its waiting members hold it (R84, R97). -/
def grantStream (mask : BitVec 32) (s : State) : State :=
  let ms := allEngines.filter fun x => mask.getLsbD (engBit x)
  let s1 : State := if 1 < ms.length then s.modEnv fun v => { v with permits := v.permits ++ [mask] } else s
  let here := ms.filter fun x => (s1.unit x).waits && match curLaunch (s1.unit x) with
    | some l => ownMask x l.lockMask == mask
    | none => false
  here.foldl (fun s x => checkReady x (s.modUnit x fun u => { u with
    permit := true, status := if u.status = .waitingForPermit then .idle else u.status })) s1

/-- The phase tag by which a group's demand is formed: that of the launch, or, for a vector engine, whose
PHASE_TAG is ignored (06 R124), that of a member array whose launch waits; none when no such array waits yet. -/
def demandTag (e : StreamEng) (l : Launch) (ms : List StreamEng) (s : State) : Option (BitVec 6) :=
  if !isVec e then some l.phaseTag
  else if ms.all isVec then some 0
  else
    let arrays := ms.filter fun x => !isVec x && (s.unit x).waits && match curLaunch (s.unit x) with
      | some k => k.lockMask == l.lockMask
      | none => false
    (arrays.head?.bind fun x => curLaunch (s.unit x)).map (·.phaseTag)

/-- The permit of a launch that has joined its group: held by the group, asked for already, or asked for
now (R84). A group whose vector engines launch first asks once its first array's launch joins (log 102).
While a launch that holds its permit is loaded, its engine shows IDLE, or BALLAST (DESIGN CHOICE, log 100). -/
def joinPermit (e : StreamEng) (l : Launch) (s : State) : State :=
  let mask := ownMask e l.lockMask
  let ms := maskMembers e mask
  let waiting (s : State) : State :=
    notePermit l.id.q l.id.n (s.modUnit e fun u => { u with status := .waitingForPermit })
  if s.env.permits.contains mask then s.modUnit e fun u => { u with permit := true, status := .idle }
  else if s.env.starts.any fun x => x.id == .stream mask then waiting s
  else match demandTag e l ms s with
    | none => waiting s
    | some tag =>
      match sluice (.stream mask) (maskDemand tag ms s) s with
      | (true, s1) => grantStream mask s1
      | (false, s1) => waiting s1

/-- Does the launch disagree with a member already waiting under its LOCK_MASK (R96)? -/
def disagrees (e : StreamEng) (l : Launch) (s : State) : Bool :=
  l.lockMask != 0 && (maskMembers e l.lockMask).any fun x => x != e && (s.unit x).waits
    && match curLaunch (s.unit x) with
      | some k => k.lockMask == l.lockMask && k.startTime != l.startTime
      | none => false

/-- The stream unit of an idle engine takes a launch (R84). -/
def launchUnit (l : Launch) (several : Bool) (m : Strm) (u : StreamUnit) : StreamUnit := { u with
  status := .idle, cur := some m, sems := [], semIn := [], incs := [], pend := [], cycle := 0
  hazardInfo := 0, lockMask := l.lockMask, inGroup := several, aligned := false, permit := false
  readyAt := none, holding := .none, waitPassed := false, lastIssued := false, idx := 0, rep := 0 }

/-- A launch begins on an idle engine; a launch that disagrees ends, and its queue halts (R84, R96). -/
def fromIdle (e : StreamEng) (m : Strm) (s : State) : State :=
  let l := m.launch
  if disagrees e l s then queueHalt l.id.q qcIllegal (endLaunch l.id stQueueHalted s)
  else
    let s1 := s.modUnit e (launchUnit l (decide (1 < (maskMembers e l.lockMask).length)) m)
    checkReady e (joinPermit e l s1)

/-- The next loaded launch of an engine that has become idle begins (R83). -/
def promote (e : StreamEng) (s : State) : State :=
  let u := s.unit e
  match u.cur, u.nxt with
  | none, some m =>
    if u.status = .idle ∨ u.status = .ballast then
      fromIdle e m (s.modUnit e fun u => { u with nxt := none })
    else s
  | _, _ => s

/-- STREAM_LAUNCH (R80, R83, R84). -/
def streamLaunch (q : Nat) (s : State) : State :=
  let code := (s.queue q).code
  if ¬ code < 0x20 then s
  else
    let e := streamEng code
    let u := s.unit e
    if u.status = .halted ∨ u.nxt.isSome then s
    else match beginDesc q opStream s with
      | (none, s1) => s1
      | (some n, s1) =>
        match s1.prog q n with
        | none => s1
        | some p =>
          let m : Strm := ⟨launchOf ⟨q, n⟩ p.w, false, [], []⟩
          if u.cur.isSome then s1.modUnit e fun u => { u with nxt := some m } else fromIdle e m s1

def execStreamLaunch (q : QueueId) (s : State) : Host.Outcome State Fault Refusal := .next (clocked (streamLaunch q.val) s)

/-- LOCK_GROUP_START (R97). -/
def execLockGroupStart (e : StreamEng) (s : State) : Host.Outcome State Fault Refusal := .next (clocked (startGroup e) s)

/-! ## Loading (R81) -/

/-- Bytes of a table as far as it translates and reads well, with its pieces; or the failing status.
None: an invalidation of the range is in progress. -/
def readTable (code va n : Nat) (s : State) : Option (Except (BitVec 16) (List Byte)) × State :=
  let (segs, stop, s1) := translateAll code va n false s
  match stop with
  | some .blocked => (none, s)
  | _ =>
    let (bs, s2) := readSegs code false false segs s1
    if bs.any Prod.snd then (some (.error stPoisoned), s2)
    else match stop with
      | some o => (some (.error o.status), s2)
      | none => (some (.ok (bs.map Prod.fst)), s2)

def trigDir (k : Nat) : Option TrigDir :=
  match k with
  | 0 => some .poolToTile
  | 1 => some .tileToPool
  | 2 => some .poolToAcc
  | 3 => some .accToPool
  | _ => none

/-- A trigger table entry without its target's pieces, if its format is right (R81 check 3). -/
def trigOf (bs : List Byte) : Option Trig :=
  let w (k : Nat) : Nat := leAt bs (8 * k) 8
  let va := field (w 0) 0 52
  let loc := field (w 1) 0 20
  let n := field (w 2) 0 20
  match trigDir (field (w 0) 60 4) with
  | none => none
  | some d =>
    let bad := field (w 0) 52 4 != 0 || field (w 1) 20 44 != 0 || field (w 2) 20 44 != 0 || field (w 3) 1 63 != 0
      || va % 32 != 0 || n == 0
      || (!d.isAcc && decide (786432 < loc + n))
      || (d.isAcc && (field loc 13 7 != 0 || n % 4 != 0 || decide (32768 < 4 * loc + n)))
    if bad then none
    else some ⟨d, field (w 0) 59 1 == 1, field (w 0) 56 3, va, loc, n, field (w 3) 0 1 == 1, []⟩

/-- Targets translated in table order. -/
def trigTargets (code : Nat) : List Trig → State → Option (Except (BitVec 16) (List Trig)) × State
  | [], s => (some (.ok []), s)
  | t :: ts, s =>
    let (segs, stop, s1) := translateAll code t.va (32 * t.sectors) t.dir.toPool s
    match stop with
    | some .blocked => (none, s)
    | some o => (some (.error o.status), s1)
    | none =>
      if segs.any fun g => meetsHole g.1 g.2 then (some (.error stPermission), s1)
      else match trigTargets code ts s1 with
        | (some (.ok l), s2) => (some (.ok ({ t with segs := segs } :: l)), s2)
        | r => r

/-- The four checks of R81. -/
def loadStream (code : Nat) (l : Launch) (s : State) : Option (Except (BitVec 16) Strm) × State :=
  match readTable code l.bundleVa (16 * l.bundleCount) s with
  | (some (.ok bb), s1) =>
    let bundles := (chunk 16 l.bundleCount bb).map fun c => BitVec.ofNat 128 (leNat c)
    match (if l.trigCount = 0 then (some (.ok []), s1) else readTable code l.trigVa (32 * l.trigCount) s1 :
        Option (Except (BitVec 16) (List Byte)) × State) with
    | (some (.ok tb), s2) =>
      let ts := (chunk 32 l.trigCount tb).map trigOf
      if ts.any Option.isNone then (some (.error stQueueHalted), s2)
      else match trigTargets code (ts.filterMap id) s2 with
        | (some (.ok trigs), s3) => (some (.ok ⟨l, true, bundles, trigs⟩), s3)
        | (some (.error st), s3) => (some (.error st), s3)
        | (none, _) => (none, s)
    | (some (.error st), s2) => (some (.error st), s2)
    | (none, _) => (none, s)
  | (some (.error st), s1) => (some (.error st), s1)
  | (none, _) => (none, s)

/-- A load ends its launch. -/
def loadFailed (e : StreamEng) (cur : Bool) (l : Launch) (st : BitVec 16) (s : State) : State :=
  let s1 := if cur then dropRequest e l.lockMask (s.modUnit e (clearCur .idle)) else s.modUnit e fun u => { u with nxt := none }
  let s2 := endLaunch l.id st s1
  promote e (if st = stQueueHalted then queueHalt l.id.q qcIllegal s2 else s2)

/-- STREAM_LOAD_COMPLETE (R81): the launch being loaded, the current one first. -/
def streamLoad (e : StreamEng) (s : State) : State :=
  let u := s.unit e
  let run (cur : Bool) (m : Strm) : State :=
    match loadStream (engCode e) m.launch s with
    | (none, _) => s
    | (some (.error st), s1) => loadFailed e cur m.launch st s1
    | (some (.ok m'), s1) =>
      if cur then checkReady e (s1.modUnit e fun u => { u with cur := some m' })
      else s1.modUnit e fun u => { u with nxt := some m' }
  match u.cur, u.nxt with
  | some m, some k => if !m.loaded then run true m else if !k.loaded then run false k else s
  | some m, none => if !m.loaded then run true m else s
  | none, some k => if !k.loaded then run false k else s
  | none, none => s

def execStreamLoadComplete (e : StreamEng) (s : State) : Host.Outcome State Fault Refusal := .next (clocked (streamLoad e) s)

/-! ## Halting (R73, R85) -/

/-- The running stream halts: its record follows once what it issued has retired. -/
def haltStream (e : StreamEng) (cause : Byte) (st : BitVec 16) (qcause : Byte) (s : State) : State :=
  match (s.unit e).cur with
  | none => s
  | some m =>
    let s1 := loseAlign e s
    let s2 := s1.modUnit e fun u => { u with
      status := .halted, haltCause := cause, haltStatus := some st, haltQueue := some m.launch.id.q
      holding := .none }
    let s3 := match e with
      | .arr n => s2.modArr n.val fun x => { x with buf0 := {}, buf1 := {} }
      | .vec _ => s2
    queueHalt m.launch.id.q qcause s3

def causeIllegal : Byte := 1
def causeMode : Byte := 2
def causePoison : Byte := 3
def causeHazard : Byte := 4
def causeStopped : Byte := 5

/-! ## Triggers (R92, R93) -/

/-- Slot offset of a trigger's local range. -/
def OutTrig.slotOff (o : OutTrig) : Nat :=
  if o.t.dir.isAcc then tileBytes + 128 * (o.t.accUnits o.cascade).1 else 32 * o.t.loc

/-- A trigger is issued in the mode the array is in. -/
def issueTrigger (e : StreamEng) (t : Trig) (s : State) : State :=
  let casc := (s.arr (engArray e)).mode == .cascade
  s.modUnit e fun u =>
    let o : OutTrig := ⟨u.nextTrig, t, casc, false, u.cycle, false⟩
    { u with nextTrig := u.nextTrig + 1, trigs := u.trigs ++ [o], pend := u.pend ++ [o] }

/-- Bytes written into the array's stores by a fill of the array's own. -/
def storeFill (off : Nat) (bs : List (Byte × Bool)) (x : AryState) : AryState :=
  (markRuns off (spreadMarks off bs)).foldl (fun x r => slotWriteRun r.1 r.2.1 r.2.2 x) x

/-- Data of a trigger of an array's stream that is undefined; a vector engine's broken limits leave its
triggers alone (06 R122). -/
def trigData (e : StreamEng) (o : OutTrig) (bs : List (Byte × Bool)) (s : State) : List (Byte × Bool) × State :=
  if !isVec e && (o.free || (s.unit e).undef o.cyc) then
    let r := freshBytes bs.length s
    (r.1.map fun b => (b, false), r.2)
  else (bs, s)

def trigTouch (o : OutTrig) : Touch :=
  if o.t.dir.toPool then .pool o.t.segs
  else if o.t.dir.isAcc then (let u := o.t.accUnits o.cascade; .accUnits u.1 u.2)
  else .tileSectors o.t.loc o.t.sectors

/-- What a trigger of an array's stream has written is remembered. -/
def trigNote (e : StreamEng) (o : OutTrig) (s : State) : State := if isVec e then s else touch e o.cyc (trigTouch o) s

/-- The trigger's sectors move; answers whether poison met the accumulator store. -/
def moveTrigger (e : StreamEng) (o : OutTrig) (s : State) : Bool × State :=
  let n := engArray e
  if o.t.dir.toPool then
    let bs := slotRead (s.arr n) o.slotOff (32 * o.t.sectors)
    let (bs', s1) := trigData e o bs s
    (false, trigNote e o (writeSegs (engCode e) o.t.streaming (.trig e o.id) o.t.segs bs' s1))
  else
    let (bs, s1) := readSegs (engCode e) o.t.streaming false o.t.segs s
    let (bs', s2) := trigData e o bs s1
    let bad := o.t.dir.isAcc && bs.any Prod.snd
    (bad, trigNote e o (s2.modArr n (storeFill o.slotOff bs')))

/-- The trigger retires and increments its semaphore. -/
def retireTrigger (e : StreamEng) (o : OutTrig) (inc : Bool) (s : State) : State :=
  let s1 := s.modUnit e fun u => { u with trigs := u.trigs.filter (·.id != o.id) }
  if inc && o.t.semEn then incSem e o.t.sem (.trig o.id) s1 else s1

/-- Poison met by a POOL_TO_ACC trigger halts the stream; a stream already continued under R83 keeps the
status for its own record too. -/
def accPoison (e : StreamEng) (o : OutTrig) (s : State) : State :=
  let mark (p : PrevStrm) : PrevStrm :=
    if p.trigs.contains o.id ∧ p.status = stDone then { p with status := stPoisoned } else p
  let s1 := s.modUnit e fun u => { u with prev := u.prev.map mark }
  let halts := (s.unit e).prev.filter fun p => p.trigs.contains o.id
  let s2 := halts.foldl (fun s p => queueHalt p.id.q qcEngineHalted s) s1
  if (s2.unit e).status = .running then haltStream e causePoison stPoisoned qcEngineHalted s2 else s2

/-- TRIGGER_COMPLETE (R92). -/
def triggerComplete (e : StreamEng) (k : Nat) (s : State) : State :=
  match (s.unit e).trigs[k]? with
  | none => s
  | some o =>
    let (bad, s1) := if o.moved then (false, s) else moveTrigger e o s
    if bad then accPoison e o (retireTrigger e o false s1)
    else if tagClear (.trig e o.id) s1 then retireTrigger e o true s1
    else s1.modUnit e fun u => { u with trigs := u.trigs.map fun x => if x.id = o.id then { x with moved := true } else x }

def execTriggerComplete (e : StreamEng) (k : Fin 32) (s : State) : Host.Outcome State Fault Refusal :=
  .next (clocked (triggerComplete e k.val) s)

/-! ## Waits that end (R94, R99) -/

/-- The semaphore of the wait a stream holds at, given the present bundle's. -/
def waitSem (u : StreamUnit) (vec : Bool) : Nat :=
  match u.cur with
  | some m =>
    let b := m.bundles.getD u.idx 0
    if vec then field b.toNat 0 3 else field b.toNat 40 3
  | none => 0

def semOk (e : StreamEng) (s : State) : Bool :=
  let u := s.unit e
  decide (0 < Sparse.get 0 u.sems (waitSem u (isVec e)))

/-- SEMAPHORE_WAIT_PASS (R94). -/
def execSemaphoreWaitPass (e : StreamEng) (s : State) : Host.Outcome State Fault Refusal :=
  let u := s.unit e
  .next (if powered s ∧ u.status = .running ∧ u.holding = .wait ∧ semOk e s then passWait e (waitSem u (isVec e)) s else s)

/-- Has a member reached a group wait with its condition met? A halted or ended member counts (R99). -/
def memberArrived (mask : BitVec 32) (s : State) (x : StreamEng) : Bool :=
  let u := s.unit x
  if u.inGroup && u.lockMask == mask && u.status == .running && !u.lastIssued then
    u.holding == .groupWait && semOk x s
  else true

/-- GROUP_WAIT_RELEASE (R99). -/
def groupRelease (e : StreamEng) (s : State) : State :=
  let u := s.unit e
  if u.status = .running ∧ u.holding = .groupWait then
    let ms := maskMembers e u.lockMask
    if ms.all (memberArrived u.lockMask s) then
      let held := ms.filter fun x => (s.unit x).inGroup && (s.unit x).lockMask == u.lockMask
        && (s.unit x).status == .running && (s.unit x).holding == .groupWait
      held.foldl (fun s x => (passWait x (waitSem (s.unit x) (isVec x)) s).modUnit x fun u => { u with aligned := true }) s
    else s
  else s

def execGroupWaitRelease (e : StreamEng) (s : State) : Host.Outcome State Fault Refusal := .next (clocked (groupRelease e) s)

/-! ## Completion (R85) -/

/-- Rows or results of cycles up to `due` still to be written. -/
def resultsDue (e : StreamEng) (due : Option Nat) (s : State) : Bool :=
  let late (d : Nat) : Bool := match due with | some k => decide (d ≤ k) | none => true
  match e with
  | .arr n => (s.arr n.val).fly.any fun f => late f.due
  | .vec n => (s.vec n.val).results.any fun r => late r.due

/-- A stream whose results are undefined is past: what it still has under way stays undefined, and the
registers a vector engine's stream has written take undefined values (06 R122). -/
def endTaint (e : StreamEng) (s : State) : State :=
  let u := s.unit e
  match u.taintAt with
  | none => s
  | some k =>
    let past (u : StreamUnit) : StreamUnit := { u with
      taintPast := u.taintPast ++ [(k, u.cycle)], taintAt := none, touched := [] }
    match e with
    | .arr _ => s.modUnit e past
    | .vec n =>
      let regs := ((u.touched.map Prod.snd).filter fun t => !t.outside).eraseDups
      let s1 := regs.foldl (fun s t => freshTouch n.val t s) s
      s1.modVec n.val fun x => { x with vlShown := none, su := past x.su }

/-- The oldest stream that has ended writes its record: one continued under R83, or the current one. Until
then the engine shows RUNNING (DESIGN CHOICE, log 100). -/
def streamComplete (e : StreamEng) (s : State) : State :=
  let u := s.unit e
  match u.prev with
  | p :: rest =>
    if resultsDue e (some p.due) s || (u.trigs.any fun o => p.trigs.contains o.id) then s
    else endLaunch p.id p.status (s.modUnit e fun u => { u with prev := rest })
  | [] =>
    if resultsDue e none s || u.trigs != [] then s
    else match u.cur, u.haltStatus with
      | some m, some st =>
        let st' : RunState := if u.haltQueue.isSome then .halted else .idle
        promote e (endLaunch m.launch.id st ((endTaint e s).modUnit e fun u => { clearCur st' u with haltStatus := none }))
      | some m, none =>
        if u.lastIssued then promote e (endLaunch m.launch.id stDone ((endTaint e s).modUnit e (clearCur .idle))) else s
      | none, _ => s

def execStreamComplete (e : StreamEng) (s : State) : Host.Outcome State Fault Refusal := .next (clocked (streamComplete e) s)

/-- The last cycle of a stream has issued: the next one continues it, or the stream waits for its end
(R83, R85). `due` is the cycle by which what it issued is written. -/
def lastCycle (e : StreamEng) (due : Nat) (s : State) : State :=
  let u := s.unit e
  match u.cur, u.nxt with
  | some m, some k =>
    if k.loaded ∧ k.launch.lockMask = 0 ∧ k.launch.startTime = 0 then
      let earlier := u.prev.flatMap (·.trigs)
      let mine := (u.trigs.map (·.id)).filter fun i => !earlier.contains i
      let s1 := (endTaint e s).modUnit e fun u => { u with
        prev := u.prev ++ [⟨m.launch.id, due, mine, stDone, strmUnits m⟩], base := u.cycle
        cur := some k, nxt := none, half := !u.half, idx := 0, rep := 0, waitPassed := false
        hazardInfo := 0, lockMask := 0, inGroup := false, aligned := false }
      match e with
      | .arr n => s1.modArr n.val fun x => { x with phaseTag := k.launch.phaseTag }
      | .vec n => s1.modVec n.val fun x => { x with loops := [] }
    else s.modUnit e fun u => { u with lastIssued := true }
  | _, _ => s.modUnit e fun u => { u with lastIssued := true }

/-! ## Stopping, resuming and disabling a queue (10 R242, R243) -/

/-- A launch of the queue that waits in the idle half ends. -/
def dropNext (q : Nat) (e : StreamEng) (s : State) : State :=
  match (s.unit e).nxt with
  | some m => if m.launch.id.q = q then
      endLaunch m.launch.id stQueueHalted (s.modUnit e fun u => { u with nxt := none })
    else s
  | none => s

/-- The launch or stream of the queue in the engine stops. -/
def stopCur (q : Nat) (e : StreamEng) (s : State) : State :=
  let u := s.unit e
  match u.cur with
  | none => s
  | some m =>
    if m.launch.id.q ≠ q ∨ u.status = .halted then s
    else if u.status = .running then
      (if u.lastIssued then s else haltStream e causeStopped stQueueHalted qcStopped s)
    else
      let s1 := dropRequest e m.launch.lockMask (s.modUnit e fun u => { clearCur .halted u with
        haltCause := causeStopped, haltQueue := some q })
      endLaunch m.launch.id stQueueHalted s1

/-- QUEUE_STOP (R242). -/
def queueStop (q : Nat) (s : State) : State :=
  let x := s.queue q
  if x.mode = .disabled then s
  else
    let s1 := if x.code < 0x20 then dropNext q (streamEng x.code) (stopCur q (streamEng x.code) s) else s
    queueHalt q qcStopped s1

def execQueueStop (q : QueueId) (s : State) : Host.Outcome State Fault Refusal := .next (clocked (queueStop q.val) s)

/-- A halted stream whose record is still to be written leaves its engine: what it has under way is
counted from the next stream's first cycle. -/
def detachHalted (e : StreamEng) (s : State) : State :=
  let s1 := endTaint e s
  let u := s1.unit e
  match u.cur, u.haltStatus with
  | some m, some st =>
    let earlier := u.prev.flatMap (·.trigs)
    let mine := (u.trigs.map (·.id)).filter fun i => !earlier.contains i
    let part (due : Nat) (u : StreamUnit) : StreamUnit := { clearCur .idle u with
      haltStatus := none, prev := u.prev.map (fun p => { p with due := p.due - u.cycle }) ++ [⟨m.launch.id, due, mine, st, []⟩]
      trigs := u.trigs.map fun o => { o with free := o.free || u.undef o.cyc } }
    match e with
    | .arr n => s1.modArr n.val fun x => { x with
        fly := x.fly.map fun f => { f with due := f.due - x.su.cycle, free := f.free || x.su.undef (f.due - latRowAcc) }
        su := part latRowAcc x.su }
    | .vec n => s1.modVec n.val fun x => { x with
        results := x.results.map fun r => { r with due := r.due - x.su.cycle, free := r.free || x.su.undef r.cyc }
        su := part (x.results.foldl (fun d r => max d (r.due - x.su.cycle)) 0) x.su }
  | _, _ => s1

/-- The engine a halted queue holds goes from HALTED to IDLE, its stream's record written or not (R243). -/
def releaseEngine (q : Nat) (s : State) : State :=
  let x := s.queue q
  if x.code < 0x20 then
    let e := streamEng x.code
    let u := s.unit e
    if u.status = .halted ∧ u.haltQueue = some q then
      promote e ((detachHalted e s).modUnit e fun u => { u with haltQueue := none, status := .idle })
    else s
  else s

/-- QUEUE_RESUME (R243). -/
def queueResume (q : Nat) (s : State) : State :=
  if (s.queue q).mode = .halted then
    settleHead q ((releaseEngine q s).modQueue q fun x => { x with mode := .active, cause := 0 })
  else s

def execQueueResume (q : QueueId) (s : State) : Host.Outcome State Fault Refusal := .next (clocked (queueResume q.val) s)

/-- A launch that cannot begin because its own queue holds the engine HALTED. -/
def stuckNext (q : Nat) (s : State) : State :=
  let x := s.queue q
  if x.code < 0x20 then
    let e := streamEng x.code
    if (s.unit e).status = .halted ∧ (s.unit e).haltQueue = some q then dropNext q e s else s
  else s

/-- QUEUE_DISABLE (R243): fetched descriptors end; started ones finish. -/
def queueDisable (q : Nat) (s : State) : State :=
  let x := s.queue q
  let off (s : State) : State := s.modQueue q fun x => { x with enable := false, enabling := false }
  if x.mode = .active ∨ x.mode = .halted then
    let s1 := x.window.foldl (fun s f => endUnstarted q f stQueueHalted s) (off s)
    let s2 := s1.modQueue q fun x => { x with
      mode := .draining, window := [], refetchAt := none, stalePending := false, staleWait := false }
    stuckNext q (finishQueue q s2)
  else off s

def execQueueDisable (q : QueueId) (s : State) : Host.Outcome State Fault Refusal := .next (clocked (queueDisable q.val) s)

/-- QUEUE_DRAIN_END (R243). -/
def queueDrainEnd (q : Nat) (s : State) : State :=
  let x := s.queue q
  if x.mode = .draining ∧ x.progs = [] then
    (releaseEngine q s).modQueue q fun x => { x with
      mode := .disabled, ringSegs := [], cqSegs := [], cqWait := false, cause := 0 }
  else s

def execQueueDrainEnd (q : QueueId) (s : State) : Host.Outcome State Fault Refusal := .next (clocked (queueDrainEnd q.val) s)

/-! ## Counters (R78, R102, 06 R143) -/

/-- ARY_COUNTER_CLEAR (03 R78). -/
def execAryCounterClear (n : ArrayId) (v : W64) (s : State) : Host.Outcome State Fault Refusal :=
  .next (clocked (clearOn v (debugBase (codeArray n.val) false + 0x18) (debugBase (codeArray n.val) false + 0x30)) s)

/-- ARY_STREAM_CLEAR (R102). -/
def execAryStreamClear (n : ArrayId) (v : W64) (s : State) : Host.Outcome State Fault Refusal :=
  .next (clocked (clearOn v (debugBase (codeArray n.val) true + 0x38) (debugBase (codeArray n.val) true + 0x48)) s)

/-- VEC_COUNTER_CLEAR (06 R143). -/
def execVecCounterClear (n : ArrayId) (v : W64) (s : State) : Host.Outcome State Fault Refusal :=
  .next (clocked (clearOn v (debugBase (codeVec n.val) false + 0x48) (debugBase (codeVec n.val) false + 0x60)) s)

end Sys2Proof.Machine
end

