-- ==== Sys2Proof/Machine/Array.lean ====
section
/-! DEFINITION. The cycles of a matrix array (spec 03 R57-R73, 04 R86-R101): a bundle's cycle, withheld
cycles, rows written, preloads ended. -/

namespace Sys2Proof.Machine

def aryStepCount (n : Nat) : Nat := debugBase (codeArray n) false + 0x18
def aryWithheldCount (n : Nat) : Nat := debugBase (codeArray n) false + 0x20

/-! ## Rows and preloads (R58, R59) -/

/-- A step's row is written, with its flags (R58, R63-R68). -/
def landRow (n : ArrayId) (f : FlyStep) (s : State) : State :=
  let x := s.arr n.val
  let u := f.mode.units f.row
  let e : StreamEng := .arr n
  let s1 := s.modArr n.val fun x => { x with fly := x.fly.erase f }
  let cyc := f.due - latRowAcc
  if f.free || x.su.undef cyc then
    let r := freshBytes (128 * u.2) s1
    freeFlags e (touch e cyc (.accUnits u.1 u.2) (r.2.modArr n.val fun x => { x with
      acc := x.acc.writeN (128 * u.1) r.1, written := markUnits x.written u.1 u.2 }))
  else
    let r := stepRow f.mode f.acc f.a f.b (x.acc.readN (128 * u.1) (128 * u.2))
    let s2 := touch e cyc (.accUnits u.1 u.2) (s1.modArr n.val fun x => { x with
      acc := x.acc.writeN (128 * u.1) r.1, written := markUnits x.written u.1 u.2 })
    r.2.foldl (fun s k => raiseEv (srcAry n.val) k s) s2

/-- Rows due by the array's present stream cycle are written in order. -/
def landDue (n : ArrayId) (s : State) : State :=
  let x := s.arr n.val
  (x.fly.filter fun f => f.due ≤ x.su.cycle).foldl (fun s f => landRow n f s) s

/-- The stream has cycles still to issue. -/
def StreamUnit.issuing (u : StreamUnit) : Bool := u.status == .running && !u.lastIssued

/-- ACCUMULATOR_ROW_WRITE (R58): the oldest row in the pipeline, once due; with no cycle left to issue the
pipeline drains. -/
def execAccumulatorRowWrite (n : ArrayId) (s : State) : Host.Outcome State Fault Refusal :=
  let x := s.arr n.val
  .next (match x.fly with
    | f :: _ => if powered s ∧ (f.due ≤ x.su.cycle ∨ !x.su.issuing) then landRow n f s else s
    | [] => s)

/-- A preload has had its cycles. -/
def endPreload (x : AryState) (b : StatBuf) : StatBuf :=
  match b.busy with
  | some (p, _) => if p + b.mode.preloadCycles ≤ x.su.cycle ∨ !x.su.issuing then { b with valid := true, busy := none } else b
  | none => b

/-- PRELOAD_END (R59). -/
def execPreloadEnd (n : ArrayId) (buf : Bool) (s : State) : Host.Outcome State Fault Refusal :=
  .next (s.modArr n.val fun x =>
    if !powered s then x else if buf then { x with buf1 := endPreload x x.buf1 } else { x with buf0 := endPreload x x.buf0 })

/-- What the start of a stream cycle finds done. -/
def settleArray (n : ArrayId) (s : State) : State :=
  (landDue n s).modArr n.val fun x => { x with buf0 := endPreload x x.buf0, buf1 := endPreload x x.buf1 }

/-! ## Cycles that do not issue (R69, R94) -/

/-- One array cycle passes. -/
def passCycle (n : ArrayId) (s : State) : State := s.modArr n.val fun x => { x with pos := (x.pos + 1) % 64 }

/-- An array cycle begins: its events registers' cycle too (00 R6), a waiting duty takes effect at a multiple
of 64, and the increments of vector engine n come nearer. -/
def openCycle (n : ArrayId) (s : State) : State :=
  ageSems (.arr n) (openEvents [srcAry n.val, srcAryStream n.val] (s.modArr n.val dutyBoundary))

/-- WITHHELD_CYCLE (R69, R70). -/
def execWithheldCycle (n : ArrayId) (s : State) : Host.Outcome State Fault Refusal :=
  let x := dutyBoundary (s.arr n.val)
  .next (if powered s && x.su.issuing && !issuingCycle x.duty x.pos then
      passCycle n (count (aryWithheldCount n.val) 1 (openCycle n s))
    else s)

/-- An issuing cycle in which the stream holds (R94). -/
def holdCycle (n : ArrayId) (h : HoldAt) (s : State) : State :=
  let e : StreamEng := .arr n
  let s1 := if h = .groupWait then s else loseAlign e s
  passCycle n (count (waitCtr e) 1 (s1.modUnit e fun u => { u with holding := h }))

/-! ## An issuing cycle (R86) -/

/-- Bytes of the slot that the bundle's cycle touches. -/
def cycleTouches (b : Bundle) (i : Nat) (t : Option Trig) (casc : Bool) : List (Nat × Nat) :=
  let u := b.mode.units (b.accRow + i)
  (if b.stepEn then [(32 * (b.aAddr + i * b.aStride), 32 * b.mode.rowSectors), (tileBytes + 128 * u.1, 128 * u.2)] else [])
    ++ (if b.preEn && i == 0 then [(32 * b.preAddr, 32 * b.mode.blockSectors)] else [])
    ++ (match t with
      | some t => [((OutTrig.mk 0 t casc false 0 false).slotOff, 32 * t.sectors)]
      | none => [])

/-- Bytes of the slot that a bundle touches in all its cycles. -/
def bundleTouches (b : Bundle) (t : Option Trig) (casc : Bool) : List (Nat × Nat) :=
  (List.range (b.rep + 1)).flatMap fun i => cycleTouches b i (if i = 0 then t else none) casc

/-- A bundle begins: its locations are remembered, and it is undefined where one of them was written from
outside while the stream ran (01 R23). -/
def openBundle (n : ArrayId) (ts : List (Nat × Nat)) (s : State) : State :=
  let e : StreamEng := .arr n
  let u := s.unit e
  let s1 := s.modUnit e fun u => { u with ran := u.ran ++ [(u.cycle, ts)] }
  if u.raced.any fun r => ts.any fun t => overlap r.1 r.2 t.1 t.2 then taintFrom e u.cycle s1 else s1

/-- ARY_HAZARD_INFO (Table 4-14). -/
def hazardWord (u : StreamUnit) (rule : Nat) : W64 :=
  w64 (rule * 2 ^ 56 + u.idx % 8192 * 2 ^ 43 + u.rep % 4096 * 2 ^ 31 + u.cycle % 2 ^ 31)

def tilePoisoned (x : AryState) (first n : Nat) : Bool :=
  x.poison.any fun e => e.2 && first ≤ e.1 && e.1 < first + n

def tileBytesOf (x : AryState) (sector n : Nat) : List Byte := x.tile.readN (32 * sector) (32 * n)

/-- The step of a cycle (R58, R72); answers whether poison stops it. Only an issued step and a begun preload
change the mode the array is in; a trigger takes the mode before its own cycle's step (DESIGN CHOICE,
log 100). -/
def issueStep (n : ArrayId) (b : Bundle) (i : Nat) (s : State) : Bool × State :=
  let x := s.arr n.val
  let a := b.aAddr + i * b.aStride
  let k := b.mode.rowSectors
  let buf := x.buf b.buf
  if tilePoisoned x a k || buf.poisoned then (true, s)
  else
    let row := b.accRow + i
    let u := b.mode.units row
    let cyc := x.su.cycle
    let f : FlyStep := ⟨cyc + latRowAcc, row, b.mode, b.acc, tileBytesOf x a k, buf.data, x.su.undef cyc⟩
    let marks := (List.range u.2).foldl (fun m j => Sparse.set 0 m (u.1 + j) (cyc + 1)) x.hist.unitStep
    let live := x.hist.reads.filter fun r => cyc < r.2.2
    (false, count (aryStepCount n.val) 1 (s.modArr n.val fun x => { x with
      fly := x.fly ++ [f], mode := b.mode, lastBuf := b.buf
      hist := { unitStep := marks, lastStep := some (cyc, b.mode), stepped := some b.buf
                reads := live ++ [(a, k, cyc + latRowAcc)] } }))

/-- A preload begins (R59, R72). -/
def beginPreload (n : ArrayId) (b : Bundle) (s : State) : State :=
  let x := s.arr n.val
  let k := b.mode.blockSectors
  let cyc := x.su.cycle
  let nb : StatBuf := { valid := false, mode := b.mode, data := tileBytesOf x b.preAddr k
                        poisoned := tilePoisoned x b.preAddr k, busy := some (cyc, b.preAddr) }
  let reads := x.hist.reads ++ [(b.preAddr, k, cyc + b.mode.preloadCycles)]
  s.modArr n.val fun x =>
    let y := { x with mode := b.mode, hist := { x.hist with reads := reads } }
    if b.preBuf then { y with buf1 := nb } else { y with buf0 := nb }

/-- The stream moves to its next cycle, its next bundle, or its end; ARY_STREAM_CYCLES counts (04 R102). -/
def advanceStream (n : ArrayId) (b : Bundle) (s : State) : State :=
  let e : StreamEng := .arr n
  let u := s.unit e
  let s0 := if u.cycle + 1 = 2 ^ 64 - 1 then raiseEv (srcAryStream n.val) 3 s else s
  let s1 := passCycle n (s0.modUnit e fun u => { u with cycle := u.cycle + 1, holding := .none })
  if u.rep < b.rep then s1.modUnit e fun u => { u with rep := u.rep + 1 }
  else if b.last then lastCycle e (u.cycle + latRowAcc) s1
  else s1.modUnit e fun u => { u with idx := u.idx + 1, rep := 0, waitPassed := false }

/-- Trigger, signal, step, preload, in this order (R86). -/
def cycleActions (n : ArrayId) (b : Bundle) (i : Nat) (t : Option Trig) (s : State) : State :=
  let e : StreamEng := .arr n
  let s1 := match t with | some t => issueTrigger e t s | none => s
  let s2 := if b.sigEn && i == 0 then sendSem (.vec n) b.sigSem 3 (s1.unit e).cycle s1 else s1
  let (bad, s3) := if b.stepEn then issueStep n b i s2 else (false, s2)
  if bad then haltStream e causePoison stPoisoned qcEngineHalted s3
  else advanceStream n b (if b.preEn && i == 0 then beginPreload n b s3 else s3)

/-- The cycle once its wait has passed. -/
def runCycle (n : ArrayId) (m : Strm) (b : Bundle) (s0 : State) : State :=
  let e : StreamEng := .arr n
  let i := (s0.unit e).rep
  let s := if b.phaseEn && i == 0 then s0.modArr n.val fun x => { x with phaseTag := b.phaseTag } else s0
  let x := s.arr n.val
  let casc := x.mode == .cascade
  let t := if b.trigEn && i == 0 then m.trigs[b.trigIndex]? else none
  let open1 (s : State) : State := if i = 0 then openBundle n (bundleTouches b t casc) s else s
  let badTrig : Bool := match t with | some t => casc && t.cascadeIllegal | none => false
  if badTrig then haltStream e causeIllegal stQueueHalted qcEngineHalted s
  else if t.isSome ∧ 32 ≤ x.su.trigs.length then holdCycle n .trigQueue s
  else
    match hazards x b i x.su.cycle t with
    | r :: _ =>
      if m.launch.hazard then
        haltStream e causeHazard stHazard qcEngineHalted
          (s.modUnit e fun u => { u with hazardInfo := hazardWord u r })
      else cycleActions n b i t (taint e (open1 s))
    | [] => cycleActions n b i t (open1 s)

/-- One issuing array cycle. A group wait whose two conditions are met in it passes in
it (R99). -/
def bundleIssue (n : ArrayId) (s : State) : State :=
  let e : StreamEng := .arr n
  let x := dutyBoundary (s.arr n.val)
  match x.su.cur with
  | none => s
  | some m =>
    if !x.su.issuing || !issuingCycle x.duty x.pos then s
    else
      let s1 := settleArray n (openCycle n s)
      let u := s1.unit e
      let b := Bundle.ofWord (m.bundles.getD u.idx 0)
      if u.rep = 0 ∧ b.illegal m.launch.trigCount (u.idx + 1 == m.launch.bundleCount) then
        haltStream e causeIllegal stQueueHalted qcEngineHalted s1
      else if u.rep = 0 ∧ b.mode.isInt ∧ !intCapable n then
        haltStream e causeMode stQueueHalted qcEngineHalted s1
      else if u.rep = 0 ∧ b.waitEn ∧ !u.waitPassed then
        (if b.waitGroup && u.inGroup then
          let s2 := groupRelease e (s1.modUnit e fun u => { u with holding := .groupWait })
          if (s2.unit e).waitPassed then runCycle n m b s2 else holdCycle n .groupWait s2
        else if Sparse.get 0 u.sems b.waitSem = 0 then holdCycle n .wait s1
        else runCycle n m b (passWait e b.waitSem s1))
      else runCycle n m b s1

end Sys2Proof.Machine
end

