-- ==== Sys2Proof/Machine/Mailbox.lean ====
section
/-! DEFINITION. The manager's mailboxes (spec 18): the exchange, the checks of R385, operations and their
slots, and the objects operations hold. The commands themselves stand with the units they configure. -/

namespace Sys2Proof.Machine

def mbxCtr (m off : Nat) : Nat := 0x10000 + 0x4000 * m + off
def cmdCount (m : Nat) : Nat := mbxCtr m 0x2400
def rejectCount (m : Nat) : Nat := mbxCtr m 0x2408

/-- Status codes (Table 18-8). -/
def mbxOk : BitVec 16 := 0x0000
def mbxAccepted : BitVec 16 := 0x0001
def mbxBadCommand : BitVec 16 := 0x8001
def mbxBadLength : BitVec 16 := 0x8002
def mbxBusy : BitVec 16 := 0x8003
def mbxDenied : BitVec 16 := 0x8004
def mbxNotReady : BitVec 16 := 0x8005
def mbxBadSignature : BitVec 16 := 0x8006
def mbxRange : BitVec 16 := 0x8007
def mbxTimeout : BitVec 16 := 0x8008
def mbxConflict : BitVec 16 := 0x8009

/-- DETAIL when no field is at fault. -/
def noField : Nat := 0xFFFF

def State.mbx (s : State) (m : Nat) : MbxSt := Sparse.get {} s.mgr.mbx m
def State.modMgr (s : State) (f : MgrState → MgrState) : State := { s with mgr := f s.mgr }
def State.modMbx (s : State) (m : Nat) (f : MbxSt → MbxSt) : State :=
  s.modMgr fun g => { g with mbx := Sparse.set {} g.mbx m (f (s.mbx m)) }

/-- The hardware sets a W1C bit of a mailbox in this cycle (00 R6): DONE and OVERRUN by their places in MBXm_STATUS,
bit j of MBXm_OP_DONE as 8 + j. -/
def noteMbx (m k : Nat) (s : State) : State := s.setEv (srcMbx m) ((s.ev (srcMbx m)).note s.ticks k)

/-- A write of 1 clears a W1C bit of a mailbox unless hardware set it in the same cycle. -/
def clearsMbx (m k : Nat) (one : Bool) (s : State) : Bool := one && !bitOf ((s.ev (srcMbx m)).fresh s.ticks) k

/-! ## Commands (R381, R382) -/

/-- A command: its mailbox, header and payload. -/
structure MCmd where
  m : MbxId
  tag : Nat
  id : Nat
  len : Nat
  wait : Bool
  reserved : Bool
  pay : List Byte

/-- The little-endian field of `n` bytes at a payload offset. -/
def MCmd.le (c : MCmd) (off n : Nat) : Nat := leAt c.pay off n

/-- A command from its header word 0, header word 1 and payload bytes. -/
def mcmdOf (m : MbxId) (area : List Byte) : MCmd where
  m := m
  tag := leAt area 4 4
  id := leAt area 0 2
  len := leAt area 2 2
  wait := leAt area 8 8 % 2 == 1
  reserved := leAt area 8 8 / 2 != 0
  pay := (area.drop 16).take (leAt area 2 2)

def cmdAt (m : MbxId) (s : State) : MCmd := mcmdOf m ((List.range 4096).map fun i => (s.mbx m.val).cmd.read i)

def round8 (n : Nat) : Nat := (n + 7) / 8 * 8

/-- The LENGTH R382 asks of a command; none for an ID that is not in the catalogue. -/
def lengthOf (c : MCmd) : Option Nat :=
  match c.id with
  | 0x0101 | 0x0102 | 0x020B | 0x0702 | 0x0703 | 0x0803 => some 0
  | 0x0201 => some 24
  | 0x0202 | 0x0204 | 0x0206 | 0x0207 | 0x0208 | 0x0209 | 0x020A => some 8
  | 0x0203 => some 40
  | 0x0205 => some (round8 (8 + 2 * c.le 6 2))
  | 0x0301 => some 48
  | 0x0302 | 0x0401 | 0x0402 | 0x0431 => some 8
  | 0x0410 | 0x0411 | 0x0420 | 0x0421 | 0x0423 => some 16
  | 0x0422 => some 24
  | 0x0430 => some 80
  | 0x0501 | 0x0503 | 0x0504 | 0x0505 | 0x0506 | 0x0507 => some 8
  | 0x0502 => some (if c.le 4 1 % 2 = 1 then 16 + 32 * c.le 2 2 else 16)
  | 0x0508 => some 56
  | 0x0509 => some 24
  | 0x050A => some 64
  | 0x0520 => some (round8 (24 + c.le 10 2))
  | 0x0601 | 0x0603 | 0x0604 => some 8
  | 0x0602 => some 16
  | 0x0605 => some (round8 (36 + 4 * c.le 34 2))
  | 0x0701 => some 16
  | 0x0704 | 0x0801 | 0x0806 => some 8
  | 0x0802 => some 32
  | 0x0804 => some 248
  | 0x0805 => some 256
  | 0x0901 | 0x0902 => some 16
  | 0x0903 | 0x0904 => some 8
  | 0x0A01 => some 16
  | 0x0A02 | 0x0A03 | 0x0A04 | 0x0A05 => some 8
  | _ => none

/-- Long commands (Tables 18-9 to 18-18). -/
def isLong (id : Nat) : Bool :=
  ([0x020B, 0x0410, 0x0422, 0x0423, 0x0504, 0x0506, 0x0701, 0x0702, 0x0901, 0x0902, 0x0904] : List Nat).contains id

/-- IDs a mailbox accepts (R390); `auth`: debug authorisation holds. -/
def allowed (m : MbxId) (id : Nat) (auth : Bool) : Bool :=
  if m = 0 then true
  else if m = 1 then !([0x0701, 0x0702, 0x0704, 0x0805, 0x0806] : List Nat).contains id
  else if m = 2 then
    (([1, 2, 3, 5] : List Nat).contains (id / 256) && !isLong id && id != 0x0520)
      || ([0x0601, 0x0604, 0x0802, 0x0A05] : List Nat).contains id
  else auth || ([0x0101, 0x0102, 0x0803, 0x0804] : List Nat).contains id

/-- IDs the boot ROM serves on mailbox 0 (R388). -/
def romServes (id : Nat) : Bool := ([0x0101, 0x0701, 0x0703] : List Nat).contains id

/-- The first four checks of R385, NOT_READY before all of them on mailboxes 1-3 under the boot ROM. -/
def mbxCheck (c : MCmd) (s : State) : Option (BitVec 16 × Nat) :=
  let rom := !s.boot.fwReady
  if rom && c.m != 0 then some (mbxNotReady, 0)
  else match lengthOf c with
    | none => some (mbxBadCommand, 0)
    | some n =>
      if c.reserved then some (mbxBadCommand, 0)
      else if !allowed c.m c.id (s.sec.level != 0) then some (mbxDenied, 0)
      else if c.len != n || decide (4080 < c.len) || (c.m == 2 && decide (1008 < c.len)) then some (mbxBadLength, noField)
      else if rom && !romServes c.id then some (mbxNotReady, 0)
      else none

/-! ## Responses (R383, R387) -/

/-- A response goes out on its mailbox; mailbox 2 answers over the fabric (R389). -/
def respond (m : MbxId) (tag : Nat) (st : BitVec 16) (detail : Nat) (pay : List Byte) (s : State) : State :=
  let pay := if st.toNat < 0x8000 then pay else []
  let bytes := leBytes 8 (tag * 2 ^ 32 + pay.length * 2 ^ 16 + st.toNat) ++ leBytes 8 detail ++ pay
  let s1 := noteMbx m.val 1 (count (cmdCount m.val) 1 (s.modMbx m.val fun x => { x with
    rsp := some bytes, busy := false, done := true }))
  let s2 := if bitOf (s.mbx m.val).ctrl 31 then sendIrq (s.mbx m.val).ctrl s1 else s1
  if m = 2 then sendMgmt s2.mgr.from2 1 bytes s2 else s2

def answer (c : MCmd) (pay : List Byte) (s : State) : State := respond c.m c.tag mbxOk 0 pay s
def refuse (c : MCmd) (st : BitVec 16) (detail : Nat) (s : State) : State := respond c.m c.tag st detail [] s

/-! ## Service (R386) -/

/-- The manager serves: the boot ROM or firmware runs, and no activation pauses it (R388). -/
def mgrServes (s : State) : Bool :=
  s.boot.stage != 1 && s.boot.activ.isNone && !s.pins.halted && s.pins.converters && s.pins.refclk

/-- Commands at the head of the order that fail a generic check are answered. -/
def settleMgr : Nat → State → State
  | 0, s => s
  | fuel + 1, s =>
    match s.mgr.order with
    | [] => s
    | m :: rest =>
      if !mgrServes s then s
      else match mbxCheck (cmdAt m s) s with
        | some (st, d) => settleMgr fuel (refuse (cmdAt m s) st d (s.modMgr fun g => { g with order := rest }))
        | none => s

def settle (s : State) : State := settleMgr (s.mgr.order.length + 1) s

/-- The command of an ID at the head of the order is served. -/
def serve (m : MbxId) (id : Nat) (f : MCmd → State → State) (s : State) : State :=
  match s.mgr.order with
  | [] => s
  | h :: rest =>
    let c := cmdAt m s
    if h = m ∧ mgrServes s ∧ c.id = id ∧ (mbxCheck c s).isNone then
      settle (f c (s.modMgr fun g => { g with order := rest }))
    else s

/-- The first check that fails, with its status. -/
def firstFail (st : BitVec 16) (l : List (Bool × Nat)) : Option (BitVec 16 × Nat) :=
  (l.find? (·.1)).map fun e => (st, e.2)

/-- Checks 5 to 7 of R385 (RANGE, BUSY, CONFLICT), then the effect. -/
def checked (c : MCmd) (range busy conflict : List (Bool × Nat)) (k : State → State) (s : State) : State :=
  match ((firstFail mbxRange range).or (firstFail mbxBusy busy)).or (firstFail mbxConflict conflict) with
  | some (st, d) => refuse c st d s
  | none => k s

/-! ## Operations (R387) -/

/-- The first free slot of a mailbox. -/
def freeSlot? (m : MbxId) (s : State) : Option (Fin 8) :=
  (List.finRange 8).find? fun j => !(Sparse.get {} (s.mbx m.val).slots j.val).valid

/-- A long command keeps its mailbox: WAIT = 1, or the boot ROM serves it (19 R395). -/
def keepsMailbox (c : MCmd) (s : State) : Bool := c.wait || !s.boot.fwReady

/-- The operation of a command begins: its slot, and the ACCEPTED answer unless it keeps its mailbox. -/
def placeOp (c : MCmd) (s : State) : State :=
  let slot := if keepsMailbox c s then none else freeSlot? c.m s
  let op : RunOp := ⟨c.m, slot, c.id, BitVec.ofNat 32 c.tag, c.pay, none⟩
  let s1 := s.modMgr fun g => { g with ops := g.ops ++ [op] }
  match slot with
  | none => s1
  | some j =>
    let rec0 : OpSlot := { valid := true, id := c.id, tag := BitVec.ofNat 32 c.tag }
    respond c.m c.tag mbxAccepted j.val [] (s1.modMbx c.m.val fun x => { x with slots := Sparse.set {} x.slots j.val rec0 })

/-- The checks of a long command, its operation placed, and its start. -/
def long (c : MCmd) (range busy conflict : List (Bool × Nat)) (start : State → State) (s : State) : State :=
  let full := !keepsMailbox c s && (freeSlot? c.m s).isNone
  checked c range (busy ++ [(full, noField)]) conflict (fun s => start (placeOp c s)) s

def opAt (m : MbxId) (slot : Option (Fin 8)) (s : State) : Option RunOp :=
  s.mgr.ops.find? fun o => o.m == m && o.slot == slot

/-- An operation ends: in its slot, or as the response of its mailbox. -/
def endOp (o : RunOp) (st : BitVec 16) (result : List Byte) (s : State) : State :=
  let s1 := s.modMgr fun g => { g with ops := g.ops.erase o }
  match o.slot with
  | none => settle (respond o.m o.tag.toNat st 0 result s1)
  | some j =>
    let rec40 := (if st.toNat < 0x8000 then result else []).take 40
    let done : OpSlot := ⟨true, true, o.id, st, o.tag, s.now, rec40⟩
    let s2 := noteMbx o.m.val (8 + j.val) (s1.modMbx o.m.val fun x => { x with slots := Sparse.set {} x.slots j.val done })
    if bitOf (s.mbx o.m.val).ctrl 30 then sendIrq (s.mbx o.m.val).ctrl s2 else s2

/-- Operations of an ID whose payload meets a condition end with one status. -/
def endOps (p : RunOp → Bool) (st : BitVec 16) (result : List Byte) (s : State) : State :=
  (s.mgr.ops.filter p).foldl (fun s o => endOp o st result s) s

/-! ## Objects held (R387) -/

def RunOp.le (o : RunOp) (off n : Nat) : Nat := leAt o.pay off n

def stackHeld (k : Nat) (s : State) : Bool :=
  s.mgr.ops.any fun o => ((o.id == 0x0902 || o.id == 0x0904) && o.le 0 1 == k) || (o.id == 0x0901 && o.le 0 2 / 64 == k)

def linkHeld (n : Nat) (s : State) : Bool :=
  s.mgr.ops.any fun o => (o.id == 0x0504 || o.id == 0x0505 || o.id == 0x0506) && o.le 0 1 == n

/-- A physical pool range overlaps one that an operation names. -/
def physHeld (a n : Nat) (s : State) : Bool :=
  s.mgr.ops.any fun o => (o.id == 0x0410 && overlap a n (o.le 0 8) (o.le 8 8))
    || (o.id == 0x0423 && overlap a n (o.le 0 8) (o.le 8 4 * 0x4000000))

def weighHeld (s : State) : Bool := s.mgr.ops.any fun o => o.id == 0x020B
def firmwareHeld (s : State) : Bool := s.mgr.ops.any fun o => o.id == 0x0701 || o.id == 0x0702

/-! ## The registers of a mailbox (R383, R384, R387) -/

def mbxReject (m : Nat) (s : State) : State :=
  noteMbx m 2 (count (rejectCount m) 1 (s.modMbx m fun x => { x with overrun := true }))

/-- MBX_DOORBELL_GO (R383, R384, R389). -/
def doorbellGo (m : MbxId) (v : W64) (s : State) : State :=
  if !bitOf v 0 then s
  else if (s.mbx m.val).busy || m == 2 then mbxReject m.val s
  else settle ((s.modMbx m.val fun x => { x with busy := true, done := false }).modMgr
    fun g => { g with order := g.order ++ [m] })

def execMbxDoorbellGo (m : MbxId) (v : W64) (s : State) : Host.Outcome State Fault Refusal := .next (clocked (doorbellGo m v) s)

/-- A write of part of the command area (R384, R389). -/
def mbxCmdWrite (m : Nat) (off : Nat) (bs : List Byte) (s : State) : State :=
  if m = 2 then s
  else if (s.mbx m).busy then mbxReject m s
  else s.modMbx m fun x => { x with cmd := x.cmd.writeN off bs }

/-- MBX_OP_DONE_WRITE (R387): slots that have ended are freed. -/
def opDoneWrite (m : Nat) (v : W64) (s : State) : State :=
  s.modMbx m fun x => { x with slots := (List.range 8).foldl (fun t j =>
    if clearsMbx m (8 + j) (bitOf v j) s && (Sparse.get {} t j).ended then Sparse.set {} t j {} else t) x.slots }

def execMbxOpDoneWrite (m : MbxId) (v : W64) (s : State) : Host.Outcome State Fault Refusal :=
  .next (clocked (opDoneWrite m.val v) s)

/-- MBX_COUNTER_CLEAR (R380). -/
def execMbxCounterClear (m : MbxId) (v : W64) (s : State) : Host.Outcome State Fault Refusal :=
  if !powered s then .next s else
  .next (if bitOf v 0 then clearCounters (mbxCtr m.val 0x2400) (mbxCtr m.val 0x2410) s else s)

def MbxSt.opsActive (x : MbxSt) : Nat :=
  ((List.range 8).map fun j =>
    let o := Sparse.get {} x.slots j
    if o.valid && !o.ended then 2 ^ j else 0).sum

def MbxSt.opDone (x : MbxSt) : Nat :=
  ((List.range 8).map fun j => if (Sparse.get {} x.slots j).ended then 2 ^ j else 0).sum

/-- MBXm_STATUS (Table 18-2). -/
def mbxStatus (m : Nat) (s : State) : W64 :=
  let x := s.mbx m
  w64 (x.opsActive * 2 ^ 24 + b2n (bitOf (s.evBits (srcMbx m)) 6) * 64 + b2n s.boot.activ.isSome * 32
    + b2n (!s.boot.fwReady) * 16 + b2n x.overrun * 4 + b2n x.done * 2 + b2n x.busy)

/-- MBXm_STATUS written: DONE, OVERRUN and CNT_OVF clear. -/
def mbxStatusWrite (m : Nat) (v : W64) (s : State) : State :=
  clearEv (srcMbx m) (v &&& oneBit 6) (s.modMbx m fun x => { x with
    done := x.done && !clearsMbx m 1 (bitOf v 1) s, overrun := x.overrun && !clearsMbx m 2 (bitOf v 2) s })

/-- Word k of an operation slot (Table 18-4). -/
def OpSlot.word (o : OpSlot) (k : Nat) : W64 :=
  w64 (match k with
    | 0 => b2n o.valid * 2 ^ 63 + b2n o.ended * 2 ^ 62 + o.id * 2 ^ 32 + o.status.toNat * 2 ^ 16
    | 1 => o.tag.toNat
    | 2 => o.time
    | k => leAt o.result (8 * (k - 3)) 8)

/-- Eight bytes of the response area; undefined while BUSY and past the response (R384). -/
def mbxRspRead (m off : Nat) (s : State) : W64 × State :=
  let x := s.mbx m
  match x.rsp with
  | none => (0, s)
  | some bs =>
    if !x.busy && decide (off + 8 ≤ bs.length) then (w64 (leAt bs off 8), s)
    else
      let r := freshBytes 8 s
      let keep := if x.busy then [] else (bs.drop off).take 8
      (w64 (leNat (keep ++ r.1.drop keep.length)), r.2)

/-! ## Reading what software pinned (09 R200) -/

/-- A list the manager reads at a virtual address: its bytes, none when it is not pinned, not readable or
poisoned. -/
def pinnedRead (va n : Nat) (s : State) : Option (List Byte) × State :=
  match pastInvals (vaRead codeNone (va % 2 ^ 52) n false false) s with
  | (.ok bs, s1) => if bs.any Prod.snd then (none, s1) else (some (bs.map Prod.fst), s1)
  | (.error _, s1) => (none, s1)

/-! ## Mailbox 2 over the fabric (R389) -/

/-- MAILBOX2_COMMAND (R389): a command arrives from another package. -/
def mailbox2Command (src : NodeId) (bytes : List Byte) (s : State) : State :=
  if (s.mbx 2).busy then
    sendMgmt src 1 (leBytes 8 (leAt bytes 4 4 * 2 ^ 32 + mbxBusy.toNat) ++ leBytes 8 noField) s
  else
    settle ((s.modMbx 2 fun x => { x with cmd := (Mem.writeN [] 0 (bytes.take 1024)), busy := true, done := false }).modMgr
      fun g => { g with order := g.order ++ [2], from2 := src })

def execMailbox2Command (src : NodeId) (bytes : List Byte) (s : State) : Host.Outcome State Fault Refusal :=
  .next (clocked (mailbox2Command src bytes) s)

/-- FABRIC_MAILBOX (R389): the inner command goes to the node's mailbox 2. -/
def fabricMailbox (c : MCmd) (s : State) : State :=
  let node := BitVec.ofNat 16 (c.le 0 2)
  let ms := if c.le 2 2 = 0 then 200 else c.le 2 2
  let inner := c.pay.drop 8
  checked c [(decide (1024 < inner.length), 8)] [] [] (fun s =>
    if (s.route node.toNat).unreach then refuse c mbxFailed 0 s
    else
      let w : FabricWait := ⟨c.m, BitVec.ofNat 32 c.tag, node, BitVec.ofNat 32 (leAt inner 4 4), s.now + ms * 1000000⟩
      sendMgmt node 1 inner (s.modMgr fun g => { g with fabric := g.fabric ++ [w] })) s

def execFabricMailbox (m : MbxId) (s : State) : Host.Outcome State Fault Refusal :=
  .next (serve m 0x0520 fabricMailbox s)

/-- FABRIC_MAILBOX_RESPONSE (R389): the oldest exchange with that node and inner TAG is answered. -/
def fabricResponse (src : NodeId) (bytes : List Byte) (s : State) : State :=
  match s.mgr.fabric.find? fun w => w.node == src && w.inner.toNat == leAt bytes 4 4 with
  | none => s
  | some w =>
    let len := leAt bytes 2 2
    settle (respond w.m w.tag.toNat (BitVec.ofNat 16 (leAt bytes 0 2)) (leAt bytes 8 4) ((bytes.drop 16).take len)
      (s.modMgr fun g => { g with fabric := g.fabric.erase w }))

def execFabricMailboxResponse (src : NodeId) (bytes : List Byte) (s : State) : Host.Outcome State Fault Refusal :=
  .next (clocked (fabricResponse src bytes) s)

/-- FABRIC_MAILBOX_TIMEOUT (R389): the oldest exchange whose time has passed. -/
def execFabricMailboxTimeout (s : State) : Host.Outcome State Fault Refusal :=
  if !powered s then .next s else
  .next (match s.mgr.fabric.find? fun w => decide (w.until_ ≤ s.now) with
    | none => s
    | some w => settle (respond w.m w.tag.toNat mbxTimeout 0 [] (s.modMgr fun g => { g with fabric := g.fabric.erase w })))

end Sys2Proof.Machine
end

