-- ==== Sys2Proof/Machine/VecIsa.lean ====
section
/-! DEFINITION. The instructions of the vector engine and reduction unit (spec 06) and the Cascade
instructions (spec 05), as functions from the engine's registers and array n's stores to the results
they write. Opcode values of members that 06 Table 6-4 lists without codes follow that table's order,
and the uses of IMM that no rule states are the model's (DESIGN CHOICE, log 19). -/

namespace Sys2Proof.Machine

/-- The fields of an instruction word (06 Table 6-2). -/
structure VInst where
  op : Nat
  d : Nat
  a : Nat
  b : Nat
  c : Nat
  msk : Bool
  mreg : Nat
  rm : Nat
  imm : Nat
  deriving DecidableEq, Repr

def VInst.ofWord (w : Nat) : VInst where
  op := w / 2 ^ 56 % 256
  d := w / 2 ^ 51 % 32
  a := w / 2 ^ 46 % 32
  b := w / 2 ^ 41 % 32
  c := w / 2 ^ 36 % 32
  msk := w / 2 ^ 35 % 2 == 1
  mreg := w / 2 ^ 32 % 8
  rm := w / 2 ^ 29 % 8
  imm := w % 2 ^ 29

/-- V slot and X slot of a bundle (06 R119). -/
def vSlots (b : BitVec 128) : VInst × VInst :=
  (VInst.ofWord (b.toNat / 2 ^ 64), VInst.ofWord (b.toNat % 2 ^ 64))

def VInst.group (i : VInst) : Nat := i.op / 16
def VInst.member (i : VInst) : Nat := i.op % 16

/-- What an instruction sees: the engine's registers and the stores of array n. -/
structure VCtx where
  vs : VecState
  tile : Mem
  acc : Mem
  mode : AryMode

/-- One result: where it goes, the flags it raises and its latency. -/
abbrev VOut := VDest × FFlags × Nat

/-! ## Reading registers -/

def vElem (vs : VecState) (r w e : Nat) : Nat := vs.v.word (4096 * r + w * e) w
def vScalar (vs : VecState) (r : Nat) : W64 := Sparse.get 0 vs.sr r
def vMask (vs : VecState) (r : Nat) : BitVec 1024 := Sparse.get 0 vs.m r

/-- Elements an instruction of element width w bytes processes (R117). -/
def vCount (vs : VecState) (w : Nat) : Nat := min vs.vl (4096 / max w 1)

/-- The active elements (R118). -/
def vActive (i : VInst) (vs : VecState) (n : Nat) : List Nat :=
  (List.range n).filter fun e => !i.msk || (vMask vs i.mreg).getLsbD e

/-- The rounding attribute of an instruction (R44, R125). -/
def vRm (i : VInst) (vs : VecState) : Rm :=
  (Rm.ofCode (if i.rm = 7 then vs.rm.toNat else i.rm)).getD .rne

/-- Operand B of element e, or the scalar of the .vs form (R120). -/
def vOpB (i : VInst) (vs : VecState) (w e : Nat) : Nat :=
  if i.imm / 2 ^ 28 = 1 then (vScalar vs i.b).toNat % 2 ^ (8 * w) else vElem vs i.b w e

/-- Elements of width w written to register d, one function value per active element. -/
def vMapE (i : VInst) (vs : VecState) (w lat : Nat) (f : Nat → Nat × FFlags) : List VOut :=
  let rs := (vActive i vs (vCount vs w)).map fun e => (e, f e)
  let bytes := rs.flatMap fun r => (List.range w).zip (leBytes w r.2.1) |>.map fun p => (w * r.1 + p.1, p.2)
  [(.vec i.d bytes, rs.foldl (fun fl r => fl ||| r.2.2) 0, lat)]

/-! ## Scalar instructions -/

/-- Members of the scalar integer group, in the order of Table 6-4; IMM[28] makes the second operand
the sign-extended IMM[27:0] (log 19). -/
def scalarInt (i : VInst) (vs : VecState) : List VOut :=
  let x := vScalar vs i.a
  let y := if i.imm / 2 ^ 28 = 1 then BitVec.ofInt 64 (sext 28 i.imm) else vScalar vs i.b
  let sh := y.toNat % 64
  let r : W64 := match i.member with
    | 0 => x + y
    | 1 => x - y
    | 2 => x * y
    | 3 => x &&& y
    | 4 => x ||| y
    | 5 => x ^^^ y
    | 6 => x <<< sh
    | 7 => x >>> sh
    | 8 => x.sshiftRight sh
    | 9 => if x.slt y then 1 else 0
    | 10 => if x.ult y then 1 else 0
    | _ => BitVec.ofInt 64 (sext 29 i.imm)
  [(.scalar i.d r, 0, 1)]

/-- A comparison by predicate: 0 eq, 1 lt, 2 le, 3 un (quiet), 4 slt, 5 sle (signalling). -/
def fcompare (p : Nat) (a b : FVal) : Bool × FFlags :=
  let isNan := a.isNan || b.isNan
  let sn := a.isSnan || b.isSnan
  let r := match p with
    | 0 => eqF a b
    | 1 | 4 => !isNan && ltF a b
    | 2 | 5 => !isNan && !ltF b a
    | _ => isNan
  (r, if (p ≥ 4 && isNan) || sn then flagNV else 0)

def scalarFmt (i : VInst) : Fmt := if i.imm % 2 = 1 then .fp64 else .fp32

/-- A scalar register's value in a floating format; FP32 reads bits [31:0] (R116). -/
def vScalarF (f : Fmt) (vs : VecState) (r : Nat) : FVal :=
  decodeF f ((vScalar vs r).toNat % 2 ^ f.width)

/-- The conversions fcvt has (02 R50, Table 2-9): both kinds float and different, a float to or from an
integer, or INT32 to INT64. -/
def fcvtPair (src dst : Nat) : Bool :=
  if src < 2 ∧ dst < 2 then src != dst
  else if src < 2 ∨ dst < 2 then true
  else src == 2 && dst == 3

/-- fcvt between the kinds 0 FP32, 1 FP64, 2 INT32, 3 INT64. -/
def scalarCvt (src dst : Nat) (rm : Rm) (x : W64) : W64 × FFlags :=
  let fmt (k : Nat) : Fmt := if k = 0 then .fp32 else .fp64
  if src < 2 then
    let v := decodeF (fmt src) (x.toNat % 2 ^ (fmt src).width)
    if dst < 2 then
      let r := cvtF (fmt dst) rm v
      (BitVec.ofNat 64 r.1, r.2)
    else
      let r := toIntF (if dst = 2 then 32 else 64) rm v
      (BitVec.ofInt 64 r.1, r.2)
  else
    let n : Int := if src = 2 then sext 32 x.toNat else x.toInt
    if dst < 2 then
      let r := ofIntF (fmt dst) rm n
      (BitVec.ofNat 64 r.1, r.2)
    else (BitVec.ofInt 64 n, 0)

/-- Members of the scalar FP group, in the order of Table 6-4; IMM[0] selects FP64, fcmp takes its
predicate from IMM[3:1], fcvt its kinds from IMM[4:3] and IMM[2:1] (log 19). fmin and fmax are the IEEE
minimum and maximum, as vmin and vmax are (DESIGN CHOICE, log 53: Table 6-4 does not say which). -/
def scalarFp (i : VInst) (vs : VecState) : List VOut :=
  let f := scalarFmt i
  let rm := vRm i vs
  let x := vScalarF f vs i.a
  let y := vScalarF f vs i.b
  let put (r : Nat × FFlags) (lat : Nat) : List VOut := [(.scalar i.d (BitVec.ofNat 64 r.1), r.2, lat)]
  match i.member with
  | 0 => put (addF f rm x y) 4
  | 1 => put (subF f rm x y) 4
  | 2 => put (mulF f rm x y) 4
  | 3 => put (fmaF f rm x y (vScalarF f vs i.c)) 4
  | 4 => put (divF f rm x y) 12
  | 5 => put (sqrtF f rm x) 12
  | 6 => put (minmaxF f false false x y) 4
  | 7 => put (minmaxF f true false x y) 4
  | 8 =>
    let r := fcompare (i.imm / 2 % 8) x y
    [(.scalar i.d (if r.1 then 1 else 0), r.2, 4)]
  | _ =>
    let r := scalarCvt (i.imm / 2 % 4) (i.imm / 8 % 4) rm (vScalar vs i.a)
    [(.scalar i.d r.1, r.2, 4)]

/-! ## Vector arithmetic -/

/-- Members of the vector FP groups, in the order of Table 6-4, on elements of a format. The exponent of
vscaleb is element e of operand B, a two's-complement integer of the element width (DESIGN CHOICE, log 98). -/
def vectorFp (f : Fmt) (i : VInst) (vs : VecState) : List VOut :=
  let w := f.width / 8
  let rm := vRm i vs
  let x (e : Nat) := decodeF f (vElem vs i.a w e)
  let y (e : Nat) := decodeF f (vOpB i vs w e)
  let divLat := if w = 4 then 16 else 24
  match i.member with
  | 0 => vMapE i vs w 4 fun e => addF f rm (x e) (y e)
  | 1 => vMapE i vs w 4 fun e => subF f rm (x e) (y e)
  | 2 => vMapE i vs w 4 fun e => mulF f rm (x e) (y e)
  | 3 => vMapE i vs w 4 fun e => fmaF f rm (x e) (y e) (decodeF f (vElem vs i.c w e))
  | 4 => vMapE i vs w divLat fun e => divF f rm (x e) (y e)
  | 5 => vMapE i vs w divLat fun e => sqrtF f rm (x e)
  | 6 => vMapE i vs w 4 fun e => minmaxF f false false (x e) (y e)
  | 7 => vMapE i vs w 4 fun e => minmaxF f true false (x e) (y e)
  | 8 => vMapE i vs w 4 fun e => minmaxF f false true (x e) (y e)
  | 9 => vMapE i vs w 4 fun e => minmaxF f true true (x e) (y e)
  | 10 => vMapE i vs w 4 fun e => roundIntegralF f rm (x e)
  | 11 => vMapE i vs w 4 fun e => scaleF f rm (x e) (sext (8 * w) (vOpB i vs w e))
  | 12 => vMapE i vs w 2 fun e => (vElem vs i.a w e % f.signBit, 0)
  | 13 => vMapE i vs w 2 fun e =>
      let v := vElem vs i.a w e
      (if v ≥ f.signBit then v - f.signBit else v + f.signBit, 0)
  | _ => vMapE i vs w 2 fun e =>
      (vElem vs i.a w e % f.signBit + vOpB i vs w e / f.signBit * f.signBit, 0)

/-- Members of the vector integer group, in the order of Table 6-4; IMM[0] selects INT64. -/
def vectorInt (i : VInst) (vs : VecState) : List VOut :=
  let w := if i.imm % 2 = 1 then 8 else 4
  let k := 8 * w
  vMapE i vs w 2 fun e =>
    let x := vElem vs i.a w e
    let y := vOpB i vs w e
    let sx := sext k x
    let sy := sext k y
    let r : Nat := match i.member with
      | 0 => wrapNat k (sx + sy)
      | 1 => wrapNat k (sx - sy)
      | 2 => wrapNat k (sx * sy)
      | 3 => if sx < sy then x else y
      | 4 => if sx < sy then y else x
      | 5 => x &&& y
      | 6 => x ||| y
      | 7 => x ^^^ y
      | 8 => (x <<< (y % k)) % 2 ^ k
      | 9 => x >>> (y % k)
      | _ => wrapNat k (sx / 2 ^ (y % k))
    (r, 0)

/-- The active elements' bits of the mask register an instruction writes. -/
def maskOut (i : VInst) (vs : VecState) (n : Nat) (f : Nat → Bool) : VDest :=
  let one (e : Nat) : BitVec 1024 := BitVec.ofNat 1024 (2 ^ e)
  let act := vActive i vs n
  .mask (i.d % 8) (act.foldl (fun m e => m ||| one e) 0) (act.foldl (fun m e => if f e then m ||| one e else m) 0)

/-- Members of the moves and masks group, in the order of Table 6-4, vcmp last; IMM[0] selects 64-bit
elements, IMM[3:1] the predicate of vcmp, IMM[13:4] a lane or a distance, IMM[14] the direction of vslide;
C names the mask that vsel selects by (log 19). vins writes its lane when the lane is active (R118). -/
def vectorMove (i : VInst) (vs : VecState) : List VOut :=
  let w := if i.imm % 2 = 1 then 8 else 4
  let n := vCount vs w
  let lane := i.imm / 16 % 1024
  match i.member with
  | 0 => vMapE i vs w 2 fun e => (vElem vs i.a w e, 0)
  | 1 => vMapE i vs w 2 fun _ => ((vScalar vs i.a).toNat % 2 ^ (8 * w), 0)
  | 2 => [(.vec i.d (if (vActive i vs n).contains lane then
            (List.range w).zip (leBytes w (vScalar vs i.a).toNat) |>.map fun p => (w * lane + p.1, p.2)
          else []), 0, 2)]
  | 3 =>
    let x := vElem vs i.a w lane
    [(.scalar i.d (if i.imm / 2 % 2 = 1 then BitVec.ofInt 64 (sext (8 * w) x) else BitVec.ofNat 64 x), 0, 4)]
  | 4 => vMapE i vs w 2 fun e =>
      (if (vMask vs (i.c % 8)).getLsbD e then vElem vs i.a w e else vElem vs i.b w e, 0)
  | 5 => vMapE i vs w 2 fun e =>
      if i.imm / 2 ^ 14 % 2 = 1 then (if lane ≤ e then vElem vs i.a w (e - lane) else 0, 0)
      else (if e + lane < n then vElem vs i.a w (e + lane) else 0, 0)
  | 6 => [(maskOut i vs n (fun e => (vMask vs (i.a % 8)).getLsbD e && (vMask vs (i.b % 8)).getLsbD e), 0, 2)]
  | 7 => [(maskOut i vs n (fun e => (vMask vs (i.a % 8)).getLsbD e || (vMask vs (i.b % 8)).getLsbD e), 0, 2)]
  | 8 => [(maskOut i vs n (fun e => (vMask vs (i.a % 8)).getLsbD e != (vMask vs (i.b % 8)).getLsbD e), 0, 2)]
  | 9 => [(maskOut i vs n (fun e => !(vMask vs (i.a % 8)).getLsbD e), 0, 2)]
  | 10 => [(maskOut i vs n (fun _ => true), 0, 2)]
  | 11 => [(.scalar i.d (BitVec.ofNat 64 ((vActive i vs n).filter fun e =>
            (vMask vs (i.a % 8)).getLsbD e).length), 0, 2)]
  | _ =>
    let f : Fmt := if w = 8 then .fp64 else .fp32
    let cmp (e : Nat) := fcompare (i.imm / 2 % 8) (decodeF f (vElem vs i.a w e)) (decodeF f (vOpB i vs w e))
    [(maskOut i vs n (fun e => (cmp e).1),
      (vActive i vs n).foldl (fun fl e => fl ||| (cmp e).2) 0, 4)]

/-! ## Approximate functions (R127) -/

/-- 2^(1/2^j) to 128 fraction bits, for j = 1, 2, …: successive square roots. -/
def rootStep (c : Nat) : Nat := isqrt (c <<< 128) 130 0

/-- The product of the roots selected by the top bits of a 48-bit fraction. -/
def exp2Frac : Nat → Nat → Nat → Nat → Nat
  | 0, _, _, acc => acc
  | k + 1, frac, c, acc =>
    exp2Frac k frac (rootStep c) (if frac / 2 ^ k % 2 = 1 then acc * c / 2 ^ 128 else acc)

/-- Fraction bits of log2 of y/2^127, 1 ≤ y/2^127 < 2, by repeated squaring. -/
def log2Frac : Nat → Nat → Nat → Nat
  | 0, _, acc => acc
  | k + 1, y, acc =>
    let z := y * y / 2 ^ 127
    if z ≥ 2 ^ 128 then log2Frac k (z / 2) (2 * acc + 1) else log2Frac k z (2 * acc)

/-- Steps of one unit in the last place from the truncated result, −1 to 2, as the part picks (log 15). -/
def stepUlp (b : Nat) (pick : BitVec 2) (lo hi : Int) : Nat :=
  ((b : Int) + max lo (min hi ((pick.toNat : Int) - 1))).toNat

def approxExp2 (x : Nat) : Nat × FFlags :=
  let f := Fmt.fp32
  let pick := Config.approxPick 0 (BitVec.ofNat 32 x)
  match decodeF f x with
  | .nan s => (f.nanBits, if s then flagNV else 0)
  | .inf s => (if s then 0 else f.infBits, 0)
  | .zero _ => (0x3F800000, 0)
  | .fin s m e =>
    let (t, r, D) := divQuantum m 1 e 0
    let v := signed s t
    if r = 0 ∧ -149 ≤ v ∧ v ≤ 127 then ((roundIeee f .rne false 1 1 v).1, 0)
    else if v ≥ 128 then (f.infBits, flagOF ||| flagNX)
    else if v < -200 then (stepUlp 0 pick 0 2, flagUF ||| flagNX)
    else
      -- value = 2^n · 2^g with n the floor and 0 ≤ g < 1
      let n : Int := if s ∧ r ≠ 0 then -(t : Int) - 1 else v
      let g := if s ∧ r ≠ 0 then (D - r) * 2 ^ 48 / D else r * 2 ^ 48 / D
      let c := exp2Frac 48 g (rootStep (2 ^ 129)) (2 ^ 128)
      let b := (roundIeee f .rtz false c 1 (n - 128)).1
      let res := stepUlp b pick (-1) 2
      if res ≥ f.infBits then (f.infBits, flagOF ||| flagNX)
      else (res, if n < -126 then flagUF ||| flagNX else flagNX)

def approxLog2 (x : Nat) : Nat × FFlags :=
  let f := Fmt.fp32
  let pick := Config.approxPick 1 (BitVec.ofNat 32 x)
  match decodeF f x with
  | .nan s => (f.nanBits, if s then flagNV else 0)
  | .zero _ => (f.withSign true f.infBits, flagDZ)
  | .inf s => if s then (f.nanBits, flagNV) else (f.infBits, 0)
  | .fin true _ _ => (f.nanBits, flagNV)
  | .fin false m e =>
    let L := m.log2
    if m = 2 ^ L then (ofIntF f .rne (L + e))
    else
      let frac := log2Frac 60 (m * 2 ^ (127 - L)) 0
      let v : Int := (L + e) * 2 ^ 60 + frac
      let b := (roundIeee f .rtz (v < 0) v.natAbs 1 (-60)).1
      (stepUlp b pick (-1) 2, flagNX)

def approxRcp (x : Nat) : Nat × FFlags :=
  let f := Fmt.fp32
  let pick := Config.approxPick 2 (BitVec.ofNat 32 x)
  match decodeF f x with
  | .nan s => (f.nanBits, if s then flagNV else 0)
  | .zero s => (f.withSign s f.infBits, flagDZ)
  | .inf s => (f.withSign s 0, 0)
  | .fin s m e =>
    let L := m.log2
    let exact := m = 2 ^ L
    if exact ∧ -126 ≤ (L : Int) + e ∧ (L : Int) + e ≤ 126 then ((roundIeee f .rne s 1 1 (-(L + e))).1, 0)
    else
      let b := (roundIeee f .rtz false 1 m (-e)).1
      let res := stepUlp b pick 0 1
      let fl := if exact ∧ res = b ∧ (L : Int) + e ≥ -127 then 0
        else flagNX ||| (if res ≥ f.infBits then flagOF else 0)
          ||| (if res < 2 ^ f.fbits then flagUF else 0)
      (f.withSign s res, fl)

def approxRsqrt (x : Nat) : Nat × FFlags :=
  let f := Fmt.fp32
  let pick := Config.approxPick 3 (BitVec.ofNat 32 x)
  match decodeF f x with
  | .nan s => (f.nanBits, if s then flagNV else 0)
  | .zero s => (f.withSign s f.infBits, flagDZ)
  | .inf s => if s then (f.nanBits, flagNV) else (0, 0)
  | .fin true _ _ => (f.nanBits, flagNV)
  | .fin false m e =>
    let L := m.log2
    if m = 2 ^ L ∧ ((L : Int) + e) % 2 = 0 then ((roundIeee f .rne false 1 1 (-((L + e) / 2))).1, 0)
    else
      -- 1/sqrt(m·2^e): with e even, isqrt(2^200 / m) · 2^(-100 - e/2)
      let odd := e % 2 = 1
      let m1 := if odd then 2 * m else m
      let e1 := if odd then e - 1 else e
      let q := isqrt (2 ^ 200 / m1) 101 0
      let b := (roundIeee f .rtz false q 1 (-100 - e1 / 2)).1
      (stepUlp b pick 0 1, flagNX)

def approxFn (i : VInst) (vs : VecState) : List VOut :=
  vMapE i vs 4 8 fun e =>
    let x := vElem vs i.a 4 e
    match i.member with
    | 0 => approxExp2 x
    | 1 => approxLog2 x
    | 2 => approxRcp x
    | _ => approxRsqrt x

/-! ## Conversions (R128-R130) -/

/-- Element widths in bits, source then destination, of opcodes 0x50 to 0x69. -/
def cvtWidths (op : Nat) : Nat × Nat :=
  match op with
  | 0x50 => (32, 32) | 0x51 => (64, 32) | 0x52 => (16, 32) | 0x53 => (16, 32) | 0x54 => (32, 32)
  | 0x55 => (16, 32) | 0x56 => (16, 32) | 0x57 => (16, 64) | 0x58 => (16, 64) | 0x59 => (32, 64)
  | 0x5A => (64, 32) | 0x5B => (32, 32) | 0x5C => (32, 64) | 0x5D => (64, 32) | 0x5E => (64, 64)
  | 0x5F => (32, 32) | 0x60 => (32, 64) | 0x61 => (64, 32) | 0x62 => (64, 64) | 0x63 => (32, 8)
  | 0x64 => (32, 4) | 0x65 => (8, 32) | 0x66 => (8, 64) | 0x67 => (4, 32) | 0x68 => (4, 64)
  | _ => (32, 64)

/-- Converts one element; `tm` is the tensor mode, `rm` the IEEE attribute. -/
def cvtElem (op : Nat) (tm : Tm) (rm : Rm) (x : Nat) : Nat × FFlags :=
  let intTo (k w : Nat) : Nat × FFlags := (wrapNat w (sext k x), 0)
  let wrapI (w : Nat) (r : Int × FFlags) : Nat × FFlags := (wrapNat w r.1, r.2)
  match op with
  | 0x50 => let r := tensorF19 tm (decodeF .fp32 x); (f19ToContainer r.1, r.2)
  | 0x51 => let r := tensorF19 tm (decodeF .fp64 x); (f19ToContainer r.1, r.2)
  | 0x52 => (f19ToContainer (encodeExact .f19 (decodeF .bf16 x)), 0)
  | 0x53 => let v := decodeF .fp16 x; (f19ToContainer (encodeExact .f19 v), if v.isSnan then flagNV else 0)
  | 0x54 => (encodeExact .fp32 (decodeF .f19 (containerToF19 x)), 0)
  | 0x55 => cvtF .fp32 .rne (decodeF .bf16 x)
  | 0x56 => cvtF .fp32 .rne (decodeF .fp16 x)
  | 0x57 => cvtF .fp64 .rne (decodeF .bf16 x)
  | 0x58 => cvtF .fp64 .rne (decodeF .fp16 x)
  | 0x59 => cvtF .fp64 .rne (decodeF .fp32 x)
  | 0x5A => cvtF .fp32 rm (decodeF .fp64 x)
  | 0x5B => wrapI 32 (toIntF 32 rm (decodeF .fp32 x))
  | 0x5C => wrapI 64 (toIntF 64 rm (decodeF .fp32 x))
  | 0x5D => wrapI 32 (toIntF 32 rm (decodeF .fp64 x))
  | 0x5E => wrapI 64 (toIntF 64 rm (decodeF .fp64 x))
  | 0x5F => ofIntF .fp32 rm (sext 32 x)
  | 0x60 => ofIntF .fp64 .rne (sext 32 x)
  | 0x61 => ofIntF .fp32 rm (sext 64 x)
  | 0x62 => ofIntF .fp64 rm (sext 64 x)
  | 0x63 => wrapI 8 (tensorInt 8 tm (decodeF .fp32 x))
  | 0x64 => wrapI 4 (tensorInt 4 tm (decodeF .fp32 x))
  | 0x65 => intTo 8 32
  | 0x66 => intTo 8 64
  | 0x67 => intTo 4 32
  | 0x68 => intTo 4 64
  | _ => intTo 32 64

/-- Element e of width k bits of register r, element numbers counted from an offset. -/
def bitElem (vs : VecState) (r k e : Nat) : Nat :=
  if k = 4 then (vs.v.read (4096 * r + e / 2)).toNat / 16 ^ (e % 2) % 16 else vElem vs r (k / 8) e

/-- What elements of width k bits write of register r: whole bytes, or nibbles for INT4 (R116, R118). -/
def bitDest (r k : Nat) (es : List (Nat × Nat)) : VDest :=
  if k = 4 then .nib r es
  else .vec r (es.flatMap fun p =>
    (List.range (k / 8)).zip (leBytes (k / 8) p.2) |>.map fun q => (k / 8 * p.1 + q.1, q.2))

/-- The tensor mode of element e (R45, R130). -/
def vTm (i : VInst) (vs : VecState) (e : Nat) : Tm :=
  match i.rm % 4 with
  | 0 => .rn
  | 1 => .rz
  | _ => .sr (noise (vScalar vs i.c) ((vScalar vs (i.c + 1)).truncate 32)
      (vScalar vs (i.c + 2) + BitVec.ofNat 64 e))

/-- An F19 pattern with every NaN as the canonical one (02 R31, R50). -/
def canonF19 (p : Nat) : Nat := if (decodeF .f19 p).isNan then Fmt.f19.nanBits else p

def vConvert (i : VInst) (vs : VecState) : List VOut :=
  if i.op = 0x6A then
    let n := vCount vs 4
    let slots := (List.range ((n + 31) / 32 * 32)).map fun e =>
      if e < n then (if !i.msk || (vMask vs i.mreg).getLsbD e then some (canonF19 (containerToF19 (vElem vs i.a 4 e))) else none)
      else some 0
    let bytes := ((List.range slots.length).zip slots).flatMap fun p => match p.2 with
      | none => []
      | some v => (List.range 3).zip (leBytes 3 v) |>.map fun q => (3 * p.1 + q.1, q.2)
    [(.vec i.d bytes, 0, 4)]
  else if i.op = 0x6B then
    vMapE i vs 4 4 fun e => (f19ToContainer (canonF19 (vs.v.word (4096 * i.a + 3 * e) 3 % 2 ^ 19)), 0)
  else
    let (sw, dw) := cvtWidths i.op
    let ww := max sw dw
    let n := min vs.vl (32768 / ww)
    let off := i.imm % 16 * (32768 / ww)
    let so := if sw < dw then off else 0
    let dn := if dw < sw then off else 0
    let rs := (vActive i vs n).map fun e =>
      (e, cvtElem i.op (vTm i vs e) (vRm i vs) (bitElem vs i.a sw (so + e)))
    [(bitDest i.d dw (rs.map fun r => (dn + r.1, r.2.1)),
      rs.foldl (fun fl r => fl ||| r.2.2) 0, 4)]

/-! ## Tile store and accumulator access (R131, R132) -/

/-- The cell of a row and column in the layout of the mode (01 R22). -/
def accWord (mode : AryMode) (acc : Mem) (row col : Nat) : Nat :=
  if mode = .cascade then acc.word (256 * row + 8 * col) 8 else acc.word (128 * row + 4 * col) 4

/-- A cell as vlacc.w (4 bytes) or vlacc.l (8 bytes) reads it (R132). What a width other than that of the
mode's cells makes of a cell is not stated: a free value of the cell (log 99). -/
def accCell (mode : AryMode) (acc : Mem) (w row col : Nat) : Nat :=
  let v := accWord mode acc row col
  if (mode = .cascade) = (w = 8) then v
  else (Config.laccOther (w == 8) (BitVec.ofNat 64 v)).toNat % 2 ^ (8 * w)

def vTile (i : VInst) (cx : VCtx) : List VOut :=
  let vs := cx.vs
  let addr := (vScalar vs i.a).toNat
  let len := (vScalar vs i.b).toNat
  match i.member with
  | 0 => [(.vec i.d ((List.range len).zip (cx.tile.readN addr len)), 0, 8)]
  | 1 => [(.store addr (vs.v.readN (4096 * i.d) len), 0, 8)]
  | k =>
    let w := if k = 2 then 4 else 8
    let base := addr % 8192
    let stride := addr / 2 ^ 16 % 8192
    vMapE i vs w 6 fun e =>
      let row := base + e / 32 * stride
      (accCell cx.mode cx.acc w row (e % 32), 0)

/-! ## Reductions (R134-R138) -/

/-- One level of the fixed tree (R135). -/
def treeLevel (op : Nat → Nat → Nat × FFlags) : List (Option Nat) → List (Option Nat) × FFlags
  | x :: y :: rest =>
    let r := treeLevel op rest
    match x, y with
    | none, y => (y :: r.1, r.2)
    | x, none => (x :: r.1, r.2)
    | some a, some b => let z := op a b; (some z.1 :: r.1, z.2 ||| r.2)
  | l => (l, 0)

def treeReduce (op : Nat → Nat → Nat × FFlags) : Nat → List (Option Nat) → Option Nat × FFlags
  | 0, l => (l.headD none, 0)
  | k + 1, l =>
    let r := treeLevel op l
    let q := treeReduce op k r.1
    (q.1, r.2 ||| q.2)

/-- Exact sum of the operands, rounded once (R137). -/
def exactSum (f : Fmt) (rm : Rm) (xs : List FVal) : Nat × FFlags :=
  let fl := snanFlag xs
  if xs.any FVal.isNan then (f.nanBits, fl)
  else
    let pos := xs.any fun x => x.isInf && !x.sign
    let neg := xs.any fun x => x.isInf && x.sign
    if pos && neg then (f.nanBits, flagNV)
    else if pos then (f.infBits, 0)
    else if neg then (f.withSign true f.infBits, 0)
    else if xs ≠ [] ∧ xs.all (fun x => x.isZero && x.sign) then (f.withSign true 0, 0)
    else
      let s := xs.foldl (fun (acc : Int × Int) x => match x with
        | .fin s m e => dyAdd acc.1 acc.2 (signed s m) e
        | _ => acc) (0, 0)
      if xs = [] then (0, 0) else roundDyad f rm s.1 s.2

/-- An exponent summary (05 Table 5-1). -/
def summaryFold (s : W64) (x : FVal) : W64 :=
  match x with
  | .nan _ => s ||| 0x400000000
  | .inf _ => s ||| 0x400000000
  | .zero _ => s
  | .fin _ m e =>
    let k : Int := (m.log2 : Int) + e
    let nz := s.getLsbD 33
    let emax := if nz then max (sext 16 s.toNat) k else k
    let emin := if nz then min (sext 16 (s.toNat / 2 ^ 16)) k else k
    (s &&& 0x400000000) ||| 0x200000000
      ||| BitVec.ofNat 64 (wrapNat 16 emin * 2 ^ 16 + wrapNat 16 emax)

def summaryE (s : W64) : Int := if s.getLsbD 33 then sext 16 s.toNat + 1 else 0

/-- Operand format and operation of the reductions; the width in bytes. -/
def vReduce (i : VInst) (vs : VecState) : List VOut :=
  let rm := vRm i vs
  let f : Fmt := if i.op = 0xB1 || i.op = 0xB4 || i.op = 0xB7 || i.op = 0xBA || i.op = 0xBC
    || i.op = 0xBE || i.op = 0xBF then .fp64 else .fp32
  let w := f.width / 8
  let n := vCount vs w
  let act := vActive i vs n
  let lanes := (List.range (4096 / w)).map fun e => if act.contains e then some (vElem vs i.a w e) else none
  let fop (g : FVal → FVal → Nat × FFlags) (a b : Nat) := g (decodeF f a) (decodeF f b)
  let tree (g : FVal → FVal → Nat × FFlags) := treeReduce (fop g) (if w = 4 then 10 else 9) lanes
  let put (v : W64) (fl : FFlags) (lat : Nat) : List VOut := [(.scalar i.d v, fl, lat)]
  let ints := act.map fun e => sext 32 (vElem vs i.a 4 e)
  let one (r : Option Nat × FFlags) (empty : Nat) := put (BitVec.ofNat 64 (r.1.getD empty)) r.2 12
  let mx := minmaxF f true false
  let mn := minmaxF f false false
  /- A tree of one active element performs no operation, so it keeps the element's encoding. -/
  let arg (r : Option Nat × FFlags) : List VOut :=
    match r.1 with
    | none => put (BitVec.ofNat 64 (2 ^ 64 - 1)) r.2 12
    | some v =>
      let hit := act.find? fun e =>
        let x := vElem vs i.a w e
        if (decodeF f v).isNan then (decodeF f x).isNan else x == v
      put (BitVec.ofNat 64 (hit.getD (2 ^ 64 - 1))) r.2 12
  match i.op with
  | 0xB0 | 0xB1 => one (tree (addF f rm)) 0
  | 0xB2 =>
    let s := ints.foldl (· + ·) 0
    if s > 2 ^ 31 - 1 then put (BitVec.ofInt 64 (2 ^ 31 - 1)) flagNV 12
    else if s < -2 ^ 31 then put (BitVec.ofInt 64 (-2 ^ 31)) flagNV 12
    else put (BitVec.ofInt 64 s) 0 12
  | 0xB3 | 0xB4 => one (tree mx) (f.withSign true f.infBits)
  | 0xB5 => put (BitVec.ofInt 64 (ints.foldl max (-2 ^ 31))) 0 12
  | 0xB6 | 0xB7 => one (tree mn) f.infBits
  | 0xB8 => put (BitVec.ofInt 64 (ints.foldl min (2 ^ 31 - 1))) 0 12
  | 0xB9 | 0xBA => arg (tree mx)
  | 0xBB | 0xBC => arg (tree mn)
  | 0xBD | 0xBE =>
    let r := exactSum f rm (act.map fun e => decodeF f (vElem vs i.a w e))
    put (BitVec.ofNat 64 r.1) r.2 24
  | _ =>
    let sl := i.imm % 512
    let s := act.foldl (fun s e => summaryFold s (decodeF .fp64 (vElem vs i.a 8 e)))
      (BitVec.ofNat 64 (vElem vs i.d 8 sl))
    [(.vec i.d ((List.range 8).zip (leBytes 8 s.toNat) |>.map fun p => (8 * sl + p.1, p.2)), 0, 12)]

/-! ## Cascade (05 R104-R114) -/

/-- Digit i of a value under exponent E, and whether the value cannot belong to the summary (R104, R108). -/
def cascadeDigit (x : FVal) (E : Int) (k : Nat) : Int × Bool :=
  match x with
  | .fin s m e =>
    if (m.log2 : Int) + e ≥ E then (0, true)
    else
      let q := divQuantum m 1 e (E - 10 * k)
      (signed s (q.1 % 1024), false)
  | _ => (0, false)

def vCascade (i : VInst) (vs : VecState) : List VOut :=
  match i.member with
  | 0 =>
    let E := summaryE (vScalar vs i.c)
    let n := vCount vs 8
    let ds := (List.range n).map fun e =>
      if !i.msk || (vMask vs i.mreg).getLsbD e then
        some (cascadeDigit (decodeF .fp64 (vElem vs i.a 8 e)) E (i.imm % 8))
      else none
    let body := ((List.range n).zip ds).flatMap fun p => match p.2 with
      | none => []
      | some d => (List.range 3).zip (leBytes 3 (wrapNat 11 d.1)) |>.map fun q => (3 * p.1 + q.1, q.2)
    let zeros := (List.range (4096 - 3 * n)).map fun j => (3 * n + j, (0 : Byte))
    [(.vec i.d (body ++ zeros), if ds.any (fun d => match d with | some (_, b) => b | none => false)
      then flagNV else 0, 4)]
  | 1 =>
    let k : Int := (i.imm % 8 : Nat)
    let minbits : Int := (i.imm / 8 % 64 : Nat)
    [(maskOut i vs (vCount vs 8) (fun e =>
      let s := BitVec.ofNat 64 (vElem vs i.a 8 e)
      s.getLsbD 34 || (s.getLsbD 33
        && decide (10 * k - (sext 16 s.toNat - sext 16 (s.toNat / 2 ^ 16)) < minbits))), 0, 4)]
  | _ =>
    let k := i.imm % 8
    let ea := summaryE (vScalar vs i.c)
    vMapE i vs 8 10 fun e =>
      let eb := summaryE (BitVec.ofNat 64 (vElem vs i.b 8 e))
      let z : Int := (List.range k).foldl (fun acc j =>
        acc * 1024 + sext 64 (vElem vs (i.a + j) 8 e)) 0
      if z = 0 then (0, 0) else roundIeee .fp64 .rne (z < 0) z.natAbs 1 (ea + eb - 10 * (k + 1))

/-! ## Control of the X slot that writes registers -/

def vControl (i : VInst) (vs : VecState) (flags : FFlags) : List VOut :=
  match i.op with
  | 0x03 =>
    let n := min (vScalar vs i.a).toNat (if i.imm % 2 = 1 then 512 else 1024)
    [(.vl n, 0, 1), (.scalar i.d (BitVec.ofNat 64 n), 0, 1)]
  | 0x04 => [(.scalar i.d (BitVec.ofNat 64 (vs.rm.toNat * 32 + flags.toNat)), 0, 1)]
  | 0x05 => [(.fcsr ((vScalar vs i.a).truncate 8), 0, 1)]
  | _ => []

/-- The results of one slot; `flags` is VEC_FCSR.FLAGS as read at issue. -/
def vSlotResults (i : VInst) (cx : VCtx) (flags : FFlags) : List VOut :=
  match i.group with
  | 0 => vControl i cx.vs flags
  | 1 => scalarInt i cx.vs
  | 2 => scalarFp i cx.vs
  | 3 => vectorFp .fp32 i cx.vs
  | 4 => vectorFp .fp64 i cx.vs
  | 5 => vConvert i cx.vs
  | 6 => vConvert i cx.vs
  | 7 => vectorInt i cx.vs
  | 8 => vectorMove i cx.vs
  | 9 => approxFn i cx.vs
  | 10 => vTile i cx
  | 11 => vReduce i cx.vs
  | 12 => vCascade i cx.vs
  | _ => []

/-! ## Legality (R119) -/

def vslotOps (op : Nat) : Bool :=
  op == 0 || (0x30 ≤ op && op ≤ 0x3E) || (0x40 ≤ op && op ≤ 0x4E) || (0x50 ≤ op && op ≤ 0x6B)
  || (0x70 ≤ op && op ≤ 0x7A) || (0x80 ≤ op && op ≤ 0x8C) || (0x90 ≤ op && op ≤ 0x93)
  || (0xA0 ≤ op && op ≤ 0xA3) || (0xC0 ≤ op && op ≤ 0xC2)

def xslotOps (op : Nat) : Bool :=
  op ≤ 0x05 || (0x10 ≤ op && op ≤ 0x1B) || (0x20 ≤ op && op ≤ 0x29) || (0xB0 ≤ op && op ≤ 0xBF)
  || (0xD0 ≤ op && op ≤ 0xD2)

/-- Bits of IMM an opcode defines; every other bit is reserved (log 19). -/
def immDefined (op : Nat) : Nat :=
  if op = 0x02 then 0xFFF
  else if op = 0x03 then 1
  else if op ≤ 0x05 then 0
  else if op / 16 = 1 then 2 ^ 29 - 1
  else if op = 0x28 then 0xF
  else if op = 0x29 then 0x1F
  else if op / 16 = 2 then 1
  else if op / 16 = 3 ∨ op / 16 = 4 then 2 ^ 28
  else if op = 0x6A ∨ op = 0x6B then 0
  else if op / 16 = 5 ∨ op / 16 = 6 then 0xF
  else if op / 16 = 7 then 2 ^ 28 + 1
  else if op = 0x8C then 2 ^ 28 + 0xF
  else if op = 0x82 then 0x3FF1
  else if op = 0x83 then 0x3FF3
  else if op = 0x85 then 0x7FF1
  else if op / 16 = 8 then 1
  else if op = 0xBF then 0x1FF
  else if op = 0xC0 then 7
  else if op = 0xC1 then 0x1FF
  else if op = 0xC2 then 7
  else if op = 0xD0 then 0xF
  else if op = 0xD1 then 7
  else if op = 0xD2 then 0xFF
  else 0

/-- Is the opcode's RM an IEEE attribute, a tensor mode, or required to be zero (R120)? Minimum, maximum,
minimumNumber and maximumNumber count as IEEE arithmetic, comparisons do not (DESIGN CHOICE, log 98); every
floating reduction reads the attribute (R135). -/
def rmKind (op : Nat) : Nat :=
  if (0x50 ≤ op ∧ op ≤ 0x53) ∨ op = 0x63 ∨ op = 0x64 then 2
  else if op / 16 = 2 then (if op = 0x28 then 0 else 1)
  else if op / 16 = 3 ∨ op / 16 = 4 then (if op % 16 ≤ 11 then 1 else 0)
  else if op = 0x5A ∨ (0x5B ≤ op ∧ op ≤ 0x5F) ∨ op = 0x61 ∨ op = 0x62 then 1
  else if op / 16 = 11 then (if op = 0xB2 ∨ op = 0xB5 ∨ op = 0xB8 ∨ op = 0xBF then 0 else 1)
  else 0

def rmLegal (i : VInst) : Bool :=
  match rmKind i.op with
  | 0 => i.rm == 0
  | 1 => i.rm != 5 && i.rm != 6
  | _ => i.rm < 3

/-- Field ranges that depend on the opcode, and on registers read at issue (R119, R128-R132, R139). -/
def rangeLegal (i : VInst) (cx : VCtx) : Bool :=
  let vs := cx.vs
  match i.op with
  | 0x28 => i.imm / 2 % 8 ≤ 5
  | 0x29 => fcvtPair (i.imm / 2 % 4) (i.imm / 8 % 4)
  | 0x84 => i.c < 8
  | 0x8C => i.imm / 2 % 8 ≤ 5 && i.d < 8
  | 0x82 => i.imm / 16 % 1024 < (if i.imm % 2 = 1 then 512 else 1024)
  | 0x83 => i.imm / 16 % 1024 < (if i.imm % 2 = 1 then 512 else 1024)
  | 0x86 => i.d < 8 && i.a < 8 && i.b < 8
  | 0x87 => i.d < 8 && i.a < 8 && i.b < 8
  | 0x88 => i.d < 8 && i.a < 8 && i.b < 8
  | 0x89 => i.d < 8 && i.a < 8
  | 0x8A => i.d < 8
  | 0x8B => i.a < 8
  | 0xA0 => ((vScalar vs i.b).toNat ≤ 4096 && (vScalar vs i.a).toNat % 32 == 0
      && (vScalar vs i.a).toNat + (vScalar vs i.b).toNat ≤ 25165824)
  | 0xA1 => ((vScalar vs i.b).toNat ≤ 4096 && (vScalar vs i.a).toNat % 32 == 0
      && (vScalar vs i.a).toNat + (vScalar vs i.b).toNat ≤ 25165824)
  | 0xA2 =>
    let x := (vScalar vs i.a).toNat
    (vActive i vs (vCount vs 4)).all fun e => x % 8192 + e / 32 * (x / 2 ^ 16 % 8192)
      < (if cx.mode = .cascade then 4096 else 8192)
  | 0xA3 =>
    let x := (vScalar vs i.a).toNat
    (vActive i vs (vCount vs 8)).all fun e => x % 8192 + e / 32 * (x / 2 ^ 16 % 8192)
      < (if cx.mode = .cascade then 4096 else 8192)
  | 0xC0 => 1 ≤ i.imm % 8
  | 0xC1 => i.d < 8 && 4 ≤ i.imm % 8
  | 0xC2 => 4 ≤ i.imm % 8 && i.a + i.imm % 8 - 1 ≤ 31
  | _ =>
    if i.op / 16 = 5 ∨ (i.op / 16 = 6 ∧ i.op < 0x6A) then
      let (sw, dw) := cvtWidths i.op
      i.imm % 16 < max sw dw / min sw dw && (rmKind i.op != 2 || i.rm != 2 || i.c ≤ 29)
    else true

/-- One slot is legal by itself. -/
def slotLegal (x : Bool) (i : VInst) (cx : VCtx) : Bool :=
  (if x then xslotOps i.op else vslotOps i.op) && (i.imm &&& immDefined i.op) == i.imm
  && rmLegal i && rangeLegal i cx

/-! ## Rows of Table 6-5 -/

/-- Row number of Table 6-5 of an opcode, from 1. -/
def timingRow (i : VInst) : Nat :=
  let m := i.member
  match i.group with
  | 0 => if i.op = 3 ∨ i.op = 4 ∨ i.op = 5 then 1 else 17
  | 1 => 1
  | 2 => if m = 4 ∨ m = 5 then 3 else 2
  | 3 => if m = 4 ∨ m = 5 then 7 else if m ≥ 12 then 5 else 4
  | 4 => if m = 4 ∨ m = 5 then 8 else if m ≥ 12 then 5 else 4
  | 5 => 9
  | 6 => 9
  | 7 => 5
  | 8 => if m = 3 then 6 else if m = 12 then 4 else 5
  | 9 => 10
  | 10 => if m ≤ 1 then 11 else 12
  | 11 => if i.op = 0xBD ∨ i.op = 0xBE then 14 else 13
  | 12 => if m = 2 then 16 else 15
  | _ => 17

/-- Issue interval of a row. -/
def rowInterval (row : Nat) : Nat :=
  match row with
  | 7 => 4 | 8 => 8 | 11 => 2 | 14 => 4 | 16 => 2 | _ => 1

/-- The registers an instruction reads: vectors, scalars, masks, and whether VL or FCSR. -/
structure VReads where
  v : List Nat := []
  s : List Nat := []
  m : List Nat := []
  vl : Bool := false
  fcsr : Bool := false
  /-- Single lanes: register, first byte, bytes (R134, R138). -/
  lanes : List (Nat × Nat × Nat) := []

/-- Members of the vector FP groups with one operand: vsqrt, vround, vabs, vneg. -/
def vUnary (i : VInst) : Bool :=
  (i.group == 3 || i.group == 4) && (i.member == 5 || i.member == 10 || i.member == 12 || i.member == 13)

def vReads (i : VInst) : VReads :=
  let msk := if i.msk then [i.mreg] else []
  let dyn := rmKind i.op = 1 && i.rm == 7
  let vsB := i.imm / 2 ^ 28 = 1
  match i.group with
  | 0 => match i.op with
    | 2 => { s := [i.a] }
    | 3 => { s := [i.a] }
    | 4 => { fcsr := true }
    | 5 => { s := [i.a] }
    | _ => {}
  | 1 => { s := if i.member = 11 then [] else if vsB then [i.a] else [i.a, i.b] }
  | 2 => { s := if i.member = 3 then [i.a, i.b, i.c] else if i.member = 5 ∨ i.member = 9 then [i.a] else [i.a, i.b]
           fcsr := dyn }
  | 5 => { v := [i.a], m := msk, vl := true, fcsr := dyn
           s := if rmKind i.op = 2 ∧ i.rm = 2 ∧ i.op ≠ 0x52 ∧ i.op ≠ 0x53 then [i.c, i.c + 1, i.c + 2] else [] }
  | 6 => { v := [i.a], m := msk, vl := true, fcsr := dyn
           s := if rmKind i.op = 2 ∧ i.rm = 2 then [i.c, i.c + 1, i.c + 2] else [] }
  | 8 => match i.member with
    | 0 => { v := [i.a], m := msk, vl := true }
    | 1 => { s := [i.a], m := msk, vl := true }
    | 2 => { s := [i.a], m := msk, vl := true }
    | 3 => { lanes := [(i.a, (if i.imm % 2 = 1 then 8 else 4) * (i.imm / 16 % 1024), if i.imm % 2 = 1 then 8 else 4)] }
    | 4 => { v := [i.a, i.b], m := i.c :: msk, vl := true }
    | 5 => { v := [i.a], m := msk, vl := true }
    | 9 => { m := i.a :: msk, vl := true }
    | 10 => { m := msk, vl := true }
    | 11 => { m := i.a :: msk, vl := true }
    | 12 => { v := if vsB then [i.a] else [i.a, i.b], s := if vsB then [i.b] else [], m := msk, vl := true }
    | _ => { m := i.a :: i.b :: msk, vl := true }
  | 9 => { v := [i.a], m := msk, vl := true }
  | 10 => match i.member with
    | 0 => { s := [i.a, i.b] }
    | 1 => { v := [i.d], s := [i.a, i.b] }
    | _ => { s := [i.a], m := msk, vl := true }
  | 11 => { v := [i.a], m := msk, vl := true, fcsr := dyn
            lanes := if i.op = 0xBF then [(i.d, 8 * (i.imm % 512), 8)] else [] }
  | 12 => match i.member with
    | 0 => { v := [i.a], s := [i.c], m := msk, vl := true }
    | 1 => { v := [i.a], m := msk, vl := true }
    | _ => { v := i.b :: (List.range (i.imm % 8)).map (i.a + ·), s := [i.c], m := msk, vl := true }
  | 13 => {}
  | _ => { v := (if vsB || vUnary i then [i.a] else [i.a, i.b]) ++ (if i.member = 3 ∧ i.group ≤ 4 then [i.c] else [])
           s := if vsB && !vUnary i then [i.b] else [], m := msk, vl := true, fcsr := dyn }

/-- Does a result on its way write a register the instruction reads? -/
def operandPending (rd : VReads) (now : Nat) (r : VResult) : Bool :=
  decide (now < r.due) && match r.dest with
    | .vec k bs => rd.v.contains k
        || rd.lanes.any fun l => l.1 == k && bs.any fun b => decide (l.2.1 ≤ b.1 ∧ b.1 < l.2.1 + l.2.2)
    | .nib k es => rd.v.contains k
        || rd.lanes.any fun l => l.1 == k && es.any fun x => decide (l.2.1 ≤ x.1 / 2 ∧ x.1 / 2 < l.2.1 + l.2.2)
    | .scalar k _ => rd.s.contains k
    | .mask k _ _ => rd.m.contains k
    | .vl _ => rd.vl
    | .fcsr _ => rd.fcsr
    | .store _ _ => false

end Sys2Proof.Machine
end

