-- ==== Sys2Proof/Machine/CollSched.lean ====
section
/-! DEFINITION. What a collective computes and in which exchanges (spec 11 R246, R250-R253): shards, the arithmetic
of one element on its way, and the exchanges of each algorithm as a list of sends, receives and roundings. -/

namespace Sys2Proof.Machine

/-! ## Shards and signature numbers -/

/-- Shard i of a vector of COUNT elements over n members (R250): first element and one past the last. -/
def shardOf (ty count n i : Nat) : Nat × Nat :=
  if ty = 3 then (32 * (i * (count / 32) / n), 32 * ((i + 1) * (count / 32) / n))
  else (i * count / n, (i + 1) * count / n)

/-- ceil(log2 n): rounds of a signature round. -/
def roundsOf (n : Nat) : Nat := if n ≤ 1 then 0 else Nat.log2 (n - 1) + 1

def listBytes (l : List NodeId) : List Byte := l.flatMap fun n => leBytes 2 n.toNat

/-- GROUP_DIGEST (R254). -/
def groupDigest (l : List NodeId) : Nat := (crc32 (listBytes l)).toNat % 2 ^ 24

/-- The signature (Table 11-10). -/
def signatureOf (w : DWords) (seq : BitVec 20) (members : List NodeId) : BitVec 128 :=
  BitVec.ofNat 128 (dOpcode w * 2 ^ 120 + cRedop w * 2 ^ 117 + cType w * 2 ^ 114 + b2n (cRepro w) * 2 ^ 113
    + b2n (cSink w) * 2 ^ 112 + cRoot w * 2 ^ 96 + cGroup w * 2 ^ 84 + seq.toNat * 2 ^ 64 + cCount w * 2 ^ 24
    + groupDigest members)

/-! ## One element on its way (R251-R253) -/

def typeFmt (ty : Nat) : Fmt :=
  match ty with
  | 0 => .fp64 | 1 => .fp32 | 2 => .bf16 | _ => .f19

/-- The format a floating SUM adds in. -/
def sumFmt (ty : Nat) : Fmt := if ty = 0 then .fp64 else .fp32

/-- Bits of an integer type. -/
def intBits (ty : Nat) : Nat := if ty = 4 then 32 else 8

/-- block_code (R252). -/
def blockCode (f : Fmt) (xs : List Nat) : Nat :=
  xs.foldl (fun c x =>
    match decodeF f x with
    | .nan _ => 0xFF
    | .inf _ => 0xFF
    | .zero _ => c
    | .fin _ m e =>
      if c = 0xFF then c
      else
        let k : Int := max ((Nat.log2 m : Int) + e + 1) (-118)
        max c (k + 119).toNat) 0

/-- trunc(x / u) with u = 2^k, and whether it is inexact. -/
def truncUnit (k : Int) : FVal → Int × Bool
  | .fin s m e =>
    let d := e - k
    let q := if 0 ≤ d then m * 2 ^ d.toNat else m / 2 ^ (-d).toNat
    (signed s q, decide (d < 0 ∧ m % 2 ^ (-d).toNat ≠ 0))
  | _ => (0, false)

/-- Class bits of an element of a block with code 0xFF: +∞ 1, −∞ 2, NaN 4. -/
def classOf : FVal → Nat
  | .nan _ => 4
  | .inf s => if s then 2 else 1
  | _ => 0

/-- What an element adds to a reproducible sum in a block of code c: its 48-bit integer, or its class byte. -/
def reproPart (f : Fmt) (c x : Nat) : Nat × FFlags :=
  if c = 0 then (0, 0)
  else if c = 0xFF then (classOf (decodeF f x), 0)
  else
    let q := truncUnit ((c : Int) - 150) (decodeF f x)
    (wrapNat 48 q.1, if q.2 then flagNX else 0)

/-- Two parts of a reproducible sum as one. -/
def reproAdd (c a b : Nat) : Nat := if c = 0xFF then a ||| b else (a + b) % 2 ^ 48

/-- nonfinite_class of the classes met. -/
def nonfiniteClass (f : Fmt) (k : Nat) : Nat × FFlags :=
  let pos := k.testBit 0
  let neg := k.testBit 1
  if k.testBit 2 || (pos && neg) then (f.nanBits, flagNV)
  else if pos then (f.infBits, 0)
  else if neg then (f.withSign true f.infBits, 0)
  else (f.nanBits, flagNV)

/-- The final rounding of a reproducible sum. -/
def reproDone (f : Fmt) (c a : Nat) : Nat × FFlags :=
  if c = 0 then (0, 0)
  else if c = 0xFF then nonfiniteClass f a
  else roundDyad f .rne (sext 48 a) ((c : Int) - 150)

/-- What an element adds to a plain reduction: an integer SUM travels as a 48-bit integer, a floating SUM in the
format it adds in, anything else in its type (R251). -/
def plainPart (ty redop x : Nat) : Nat × FFlags :=
  if ty < 4 then
    if redop = 0 ∧ ty ≠ 0 ∧ ty ≠ 1 then cvtF .fp32 .rne (decodeF (typeFmt ty) x) else (x, 0)
  else if redop = 0 then (wrapNat 48 (sext (intBits ty) x), 0)
  else (x, 0)

/-- Two parts of a plain reduction as one. -/
def plainAdd (ty redop a b : Nat) : Nat × FFlags :=
  if ty < 4 then
    match redop with
    | 0 => addF (sumFmt ty) .rne (decodeF (sumFmt ty) a) (decodeF (sumFmt ty) b)
    | 1 => minmaxF (typeFmt ty) true false (decodeF (typeFmt ty) a) (decodeF (typeFmt ty) b)
    | _ => minmaxF (typeFmt ty) false false (decodeF (typeFmt ty) a) (decodeF (typeFmt ty) b)
  else
    let n := intBits ty
    match redop with
    | 0 => ((a + b) % 2 ^ 48, 0)
    | 1 => (wrapNat n (max (sext n a) (sext n b)), 0)
    | 2 => (wrapNat n (min (sext n a) (sext n b)), 0)
    | 3 => (a ||| b, 0)
    | _ => (a &&& b, 0)

/-- The result of a plain reduction from the part that holds every contribution. Over a single member it is its value,
a NaN the canonical one. -/
def plainDone (ty redop a : Nat) : Nat × FFlags :=
  if ty < 4 then
    if redop = 0 then
      (if ty = 0 ∨ ty = 1 then (if (decodeF (typeFmt ty) a).isNan then (typeFmt ty).nanBits else a, 0)
      else cvtF (typeFmt ty) .rne (decodeF .fp32 a))
    else minmaxF (typeFmt ty) (redop == 1) false (decodeF (typeFmt ty) a) (decodeF (typeFmt ty) a)
  else if redop = 0 then
    let n := intBits ty
    let t := sext 48 a
    let top : Int := 2 ^ (n - 1) - 1
    let low : Int := -(2 ^ (n - 1))
    if top < t then (wrapNat n top, flagNV) else if t < low then (wrapNat n low, flagNV) else (wrapNat n t, 0)
  else (a, 0)

/-- Parts put together one after another, with the flags raised. -/
def joinParts (add : Nat → Nat → Nat × FFlags) : List (Nat × FFlags) → Nat × FFlags
  | [] => (0, 0)
  | x :: xs => xs.foldl (fun a b => let r := add a.1 b.1; (r.1, a.2 ||| b.2 ||| r.2)) x

/-- One element of a plain reduction of contributions taken in the order given: its bits, and the flags raised. -/
def reduceElem (ty redop : Nat) (xs : List Nat) : Nat × FFlags :=
  let a := joinParts (plainAdd ty redop) (xs.map (plainPart ty redop))
  let r := plainDone ty redop a.1
  (r.1, a.2 ||| r.2)

/-- One element of a reproducible sum in a block with code c (R252, R253). -/
def reproElem (f : Fmt) (c : Nat) (xs : List Nat) : Nat × FFlags :=
  let a := joinParts (fun a b => (reproAdd c a b, 0)) (xs.map (reproPart f c))
  let r := reproDone f c a.1
  (r.1, a.2 ||| r.2)

/-- Bytes of a part of a plain reduction in a message. -/
def partBytes (ty redop : Nat) : Nat :=
  if redop ≠ 0 then typeBytes ty
  else if ty = 0 then 8 else if ty < 4 then 4 else 6

/-! ## The exchanges of an algorithm (R246, Table 11-2; log 18) -/

/-- The exchanges of one reduction or redistribution on one member: n members, this one i, the shards of the vector,
and what a message carries before and after the last rounding. -/
structure Shape where
  n : Nat
  i : Nat
  sh : Nat → Nat × Nat
  kp : CollPart
  kf : CollPart
  /-- Whether complete elements are rounded (all but block codes). -/
  fix : Bool
  /-- Picks the order in which a node of the tree takes its children's parts. -/
  key : Nat

def Shape.prev (x : Shape) : Nat := (x.i + x.n - 1) % x.n
def Shape.next (x : Shape) : Nat := (x.i + 1) % x.n
def Shape.all (x : Shape) : List Nat := List.range x.n

/-- The shards of a list that are not empty. -/
def Shape.spans (x : Shape) (js : List Nat) : List (Nat × Nat) := (js.map x.sh).filter fun s => decide (s.1 < s.2)

def Shape.tx (x : Shape) (peer : Nat) (js : List Nat) (k : CollPart) : List CollStep :=
  (x.spans js).map fun s => .send peer s.1 s.2 k

def Shape.rx (x : Shape) (frm : Nat) (js : List Nat) (k : CollPart) : List CollStep :=
  (x.spans js).map fun s => .recv frm s.1 s.2 k

def Shape.fin (x : Shape) (js : List Nat) : List CollStep :=
  if x.fix then (x.spans js).map fun s => .fix s.1 s.2 else []

/-! ### RING -/

/-- Shard k starts at member k + 1 and is complete at member k. -/
def Shape.ringScatter (x : Shape) : List CollStep :=
  ((List.range (x.n - 1)).flatMap fun t =>
    x.tx x.next [(x.i + 2 * x.n - 1 - t) % x.n] x.kp ++ x.rx x.prev [(x.i + 2 * x.n - 2 - t) % x.n] x.kp)
  ++ x.fin [x.i]

def Shape.ringGather (x : Shape) : List CollStep :=
  (List.range (x.n - 1)).flatMap fun t =>
    x.tx x.next [(x.i + x.n - t) % x.n] x.kf ++ x.rx x.prev [(x.i + 2 * x.n - 1 - t) % x.n] x.kf

/-- Every shard goes round from the member after the root to the root. -/
def Shape.chainReduce (x : Shape) (root : Nat) : List CollStep :=
  let v := (x.i + x.n - root) % x.n
  (x.all.flatMap fun j =>
    (if v = 1 ∨ x.n = 1 then [] else x.rx x.prev [j] x.kp) ++ (if v = 0 then [] else x.tx x.next [j] x.kp))
  ++ (if v = 0 then x.fin x.all else [])

def Shape.chainSpread (x : Shape) (root : Nat) : List CollStep :=
  let v := (x.i + x.n - root) % x.n
  x.all.flatMap fun j =>
    (if v = 0 then [] else x.rx x.prev [j] x.kf) ++ (if v + 1 = x.n then [] else x.tx x.next [j] x.kf)

/-! ### TREE -/

/-- Is member c the member j or above it in the tree? -/
def Shape.above (c : Nat) : Nat → Nat → Bool
  | 0, j => j == c
  | fuel + 1, j => j == c || (decide (c < j) && Shape.above c fuel ((j - 1) / 2))

def Shape.covers (x : Shape) (c j : Nat) : Bool := Shape.above c x.n j

def Shape.kids (x : Shape) : List Nat := [2 * x.i + 1, 2 * x.i + 2].filter fun c => decide (c < x.n)

def Shape.near (x : Shape) : List Nat := (if x.i = 0 then [] else [(x.i - 1) / 2]) ++ x.kids

/-- The neighbour in the direction of a member. -/
def Shape.hop (x : Shape) (root : Nat) : Nat :=
  match x.kids.find? fun c => x.covers c root with
  | some c => c
  | none => (x.i - 1) / 2

def Shape.treeReduce (x : Shape) (root : Nat) : List CollStep :=
  let from_ := if x.i = root then x.near else x.near.filter fun j => j != x.hop root
  let k := Config.sumPick x.key x.i % max from_.length 1
  ((from_.drop k ++ from_.take k).flatMap fun j => x.rx j x.all x.kp)
  ++ (if x.i = root then x.fin x.all else x.tx (x.hop root) x.all x.kp)

def Shape.treeSpread (x : Shape) (root : Nat) : List CollStep :=
  let up := if x.i = root then [] else [x.hop root]
  (up.flatMap fun j => x.rx j x.all x.kf) ++ (x.near.filter fun j => !up.contains j).flatMap fun j => x.tx j x.all x.kf

/-- Shards of the members below one. -/
def Shape.under (x : Shape) (c : Nat) : List Nat := x.all.filter fun j => x.covers c j

def Shape.treeScatter (x : Shape) : List CollStep :=
  (if x.i = 0 then [] else x.rx ((x.i - 1) / 2) (x.under x.i) x.kf) ++ x.kids.flatMap fun c => x.tx c (x.under c) x.kf

def Shape.treeGather (x : Shape) : List CollStep :=
  (x.kids.flatMap fun c => x.rx c (x.under c) x.kf)
  ++ (if x.i = 0 then [] else x.tx ((x.i - 1) / 2) (x.under x.i) x.kf)

/-! ### HALVING, over the largest power of two of members; member i + P works through member i -/

def Shape.pow (x : Shape) : Nat := 2 ^ Nat.log2 x.n

/-- Members whose shards member j of the power of two looks after. -/
def Shape.care (x : Shape) (j : Nat) : List Nat := j :: if j + x.pow < x.n then [j + x.pow] else []

/-- Shards of the aligned block of d members that holds member j. -/
def Shape.blockOf (x : Shape) (d j : Nat) : List Nat := (List.range d).flatMap fun k => x.care (j / d * d + k)

def Shape.mate (d i : Nat) : Nat := if i / d % 2 = 0 then i + d else i - d

/-- Distances of the exchanges, smallest first. -/
def Shape.dists (x : Shape) : List Nat := (List.range (Nat.log2 x.n)).map fun k => 2 ^ k

def Shape.halveScatter (x : Shape) : List CollStep :=
  if x.pow ≤ x.i then x.tx (x.i - x.pow) x.all x.kp
  else
    (if x.i + x.pow < x.n then x.rx (x.i + x.pow) x.all x.kp else [])
    ++ (x.dists.reverse.flatMap fun d =>
      x.tx (Shape.mate d x.i) (x.blockOf d (Shape.mate d x.i)) x.kp ++ x.rx (Shape.mate d x.i) (x.blockOf d x.i) x.kp)
    ++ x.fin (x.care x.i)

/-- The shard of a member beyond the power of two goes to it. -/
def Shape.halveHand (x : Shape) : List CollStep :=
  if x.pow ≤ x.i then x.rx (x.i - x.pow) [x.i] x.kf
  else if x.i + x.pow < x.n then x.tx (x.i + x.pow) [x.i + x.pow] x.kf else []

/-- Shards come together by doubling; `own` where a member beyond the power of two first gives its own. -/
def Shape.halveGather (x : Shape) (own : Bool) : List CollStep :=
  let rest (j : Nat) : List Nat := if own then x.all.filter fun k => k != j else x.all
  if x.pow ≤ x.i then
    (if own then x.tx (x.i - x.pow) [x.i] x.kf else []) ++ x.rx (x.i - x.pow) (rest x.i) x.kf
  else
    let extra := decide (x.i + x.pow < x.n)
    (if own && extra then x.rx (x.i + x.pow) [x.i + x.pow] x.kf else [])
    ++ (x.dists.flatMap fun d =>
      x.tx (Shape.mate d x.i) (x.blockOf d x.i) x.kf ++ x.rx (Shape.mate d x.i) (x.blockOf d (Shape.mate d x.i)) x.kf)
    ++ (if extra then x.tx (x.i + x.pow) (rest (x.i + x.pow)) x.kf else [])

def Shape.halveCollect (x : Shape) (root : Nat) : List CollStep :=
  if x.i = root then (List.range x.pow).flatMap fun j => if j = root then [] else x.rx j (x.care j) x.kf
  else if x.i < x.pow then x.tx root (x.care x.i) x.kf else []

def Shape.halveDeal (x : Shape) (root : Nat) : List CollStep :=
  if x.i = root then (List.range x.pow).flatMap fun j => if j = root then [] else x.tx j (x.care j) x.kf
  else if x.i < x.pow then x.rx root (x.care x.i) x.kf else []

/-! ### Opcodes -/

/-- The exchanges of an opcode under an algorithm: 2 is TREE, 3 HALVING, anything else RING. -/
def Shape.steps (x : Shape) (alg op root : Nat) : List CollStep :=
  if op = opAllReduce then
    (match alg with
    | 2 => x.treeReduce 0 ++ x.treeSpread 0
    | 3 => x.halveScatter ++ x.halveGather false
    | _ => x.ringScatter ++ x.ringGather)
  else if op = opReduceScatter then
    (match alg with
    | 2 => x.treeReduce 0 ++ x.treeScatter
    | 3 => x.halveScatter ++ x.halveHand
    | _ => x.ringScatter)
  else if op = opReduce then
    (match alg with
    | 2 => x.treeReduce root
    | 3 => x.halveScatter ++ x.halveCollect root
    | _ => x.chainReduce root)
  else if op = opAllGather then
    (match alg with
    | 2 => x.treeGather ++ x.treeSpread 0
    | 3 => x.halveGather true
    | _ => x.ringGather)
  else if op = opBroadcast then
    (match alg with
    | 2 => x.treeSpread root
    | 3 => x.halveDeal root ++ x.halveGather false
    | _ => x.chainSpread root)
  else []

/-- A number for everything the sequence of a floating sum may depend on (R251). -/
def sumKey (alg count : Nat) (members : List NodeId) : Nat :=
  members.foldl (fun k n => k * 65537 + n.toNat + 1) (count * 16 + alg + 1)

/-- AUTO resolved (Table 11-2). -/
def algorithmOf (r : CollRun) (g : GroupSt) : Nat :=
  if g.algorithm = 0 then (if r.count * typeBytes r.ty < 4096 * g.members.length then 2 else 1) else g.algorithm

/-- Blocks of 256 elements of a vector. -/
def blocksOf (count : Nat) : Nat := (count + 255) / 256

/-- The exchanges of a collective's data phase on this member, in order. A reproducible sum first agrees on its block
codes, by an all-reduce of one byte a block (R252). An all-to-all goes directly between each pair (R246). -/
def schedule (r : CollRun) (g : GroupSt) : List CollStep :=
  let n := g.members.length
  let alg := algorithmOf r g
  let x : Shape := ⟨n, g.self, shardOf r.ty r.count n, .part, .full, true, sumKey g.algorithm r.count g.members⟩
  if r.op = opAllToAll then
    let others := (List.range n).filter fun j => j != g.self
    (others.map fun j => .give j) ++ others.map fun j => .recv j (j * r.count) ((j + 1) * r.count) .full
  else if r.repro then
    let y : Shape := { x with sh := shardOf 5 (blocksOf r.count) n, kp := .codePart, kf := .codeFull, fix := false }
    y.steps alg opAllReduce 0 ++ .scale :: x.steps alg r.op r.root
  else x.steps alg r.op r.root

/-! ## The vectors a run works on -/

/-- Code of the block of element k. -/
def CollRun.code (r : CollRun) (k : Nat) : Nat := r.codes.getD (k / 256) 0

/-- A contribution as the part it starts as. -/
def firstPart (r : CollRun) (k x : Nat) : Nat × FFlags :=
  if r.repro then reproPart (typeFmt r.ty) (r.code k) x else plainPart r.ty r.redop x

def addParts (r : CollRun) (k : Nat) (a b : Nat × FFlags) : Nat × FFlags :=
  let q := if r.repro then (reproAdd (r.code k) a.1 b.1, 0) else plainAdd r.ty r.redop a.1 b.1
  (q.1, a.2 ||| b.2 ||| q.2)

def donePart (r : CollRun) (k : Nat) (a : Nat × FFlags) : Nat × FFlags :=
  let q := if r.repro then reproDone (typeFmt r.ty) (r.code k) a.1 else plainDone r.ty r.redop a.1
  (q.1, a.2 ||| q.2)

/-- Elements lo .. lo+n-1 of a list changed by position. -/
def editFrom {α : Type} (lo n : Nat) (f : Nat → α → α) (l : List α) : List α :=
  l.take lo ++ ((l.drop lo).take n).mapIdx (fun i a => f (lo + i) a) ++ l.drop (lo + n)

/-- Every element as the part this member contributes. -/
def ownParts (r : CollRun) : List (Nat × FFlags) := r.own.mapIdx fun k x => firstPart r k x.toNat

/-- Block codes of this member's vector. -/
def ownCodes (r : CollRun) : List Nat :=
  (List.range (blocksOf r.count)).map fun b =>
    blockCode (typeFmt r.ty) (((r.own.drop (256 * b)).take 256).map (·.toNat))

/-- The vector of full elements of a redistribution, as far as this member's source gives it. -/
def ownPlaced (r : CollRun) (g : GroupSt) : List (Nat × FFlags) :=
  let n := g.members.length
  let own : List (Nat × FFlags) := r.own.map fun x => (x.toNat, 0)
  let zeros (k : Nat) : List (Nat × FFlags) := List.replicate k (0, 0)
  if r.op = opAllGather then
    let sh := shardOf r.ty r.count n g.self
    zeros sh.1 ++ own ++ zeros (r.count - sh.2)
  else if r.op = opAllToAll then
    zeros (g.self * r.count) ++ (own.drop (g.self * r.count)).take r.count ++ zeros ((n - 1 - g.self) * r.count)
  else if g.self = r.root then own
  else zeros r.count

def isReduction (op : Nat) : Bool := op == opAllReduce || op == opReduceScatter || op == opReduce

/-- A run whose source has been read stands at the beginning of its data phase. -/
def loadRun (r : CollRun) (g : GroupSt) : CollRun :=
  if isReduction r.op then
    (if r.repro then { r with codes := ownCodes r } else { r with acc := ownParts r })
  else { r with acc := ownPlaced r g }

/-! ## Messages of a span -/

/-- A span cut into pieces of at most `per` elements: first element and number. -/
def cut (lo hi per : Nat) : List (Nat × Nat) :=
  (List.range ((hi - lo + per - 1) / per)).map fun i => (lo + per * i, min per (hi - lo - per * i))

/-- Most element bytes of a data message. -/
def messageBytes : Nat := 960

/-- The messages of a span, each with its first element, its number of elements and their bytes. In the second pass of
a reproducible sum an element takes 6 bytes, its class one byte where its block's code is 0xFF, and nothing is sent
where that is 0x00 (R252). -/
def pieces (r : CollRun) (k : CollPart) (lo hi : Nat) : List (Nat × Nat × Nat) :=
  let even (b : Nat) : List (Nat × Nat × Nat) := (cut lo hi (messageBytes / b)).map fun p => (p.1, p.2, b)
  match k with
  | .codePart => even 1
  | .codeFull => even 1
  | .full => even (typeBytes r.ty)
  | .part =>
    if r.repro then
      (List.range ((hi + 255) / 256 - lo / 256)).flatMap fun i =>
        let b := lo / 256 + i
        let c := r.codes.getD b 0
        let size := if c = 0xFF then 1 else 6
        if c = 0 then []
        else (cut (max lo (256 * b)) (min hi (256 * b + 256)) (messageBytes / size)).map fun p => (p.1, p.2, size)
    else even (partBytes r.ty r.redop)

/-- Elements of a piece, as a message carries them, with the flags raised on their way. -/
def pieceElems (r : CollRun) (k : CollPart) (first n : Nat) : List W64 × FFlags :=
  match k with
  | .codePart | .codeFull => (((r.codes.drop first).take n).map w64, 0)
  | _ =>
    let l := (r.acc.drop first).take n
    (l.map fun e => w64 e.1, l.foldl (fun f e => f ||| e.2) 0)

/-- What a received piece does to the run's vectors: parts and codes are joined, complete elements replace. -/
def takePiece (m : DataMsg) (r : CollRun) : CollRun :=
  let x (k : Nat) : Nat := (m.elems.getD (k - m.first) 0).toNat
  let n := m.elems.length
  match m.kind with
  | .codePart => { r with codes := editFrom m.first n (fun k c => max c (x k)) r.codes }
  | .codeFull => { r with codes := editFrom m.first n (fun k _ => x k) r.codes }
  | .part => { r with acc := editFrom m.first n (fun k a => addParts r k a (x k, m.flags)) r.acc }
  | .full => { r with acc := editFrom m.first n (fun k _ => (x k, m.flags)) r.acc }

/-- The message of a piece, if it has arrived. -/
def findPiece (r : CollRun) (frm first n : Nat) (k : CollPart) : Option DataMsg :=
  r.got.find? fun m => m.src == frm && m.kind == k && m.first == first && m.elems.length == n

end Sys2Proof.Machine
end

