-- ==== Sys2Proof/Machine/Collective.lean ====
section
/-! DEFINITION. The collective engines (spec 11): entering a collective, its signature round, its data
phase, Tally, and its ends. -/

namespace Sys2Proof.Machine

/-! ## Runs -/

def CollRun.eng (r : CollRun) (s : State) : Nat := match s.group r.group with | some g => g.engine | none => 0

/-- The run of a descriptor. -/
def State.runOf (s : State) (id : DescId) : Option CollRun := s.coll.runs.find? (·.id == id)

/-- The oldest collective of a group that has not ended. -/
def State.run (s : State) (g : Nat) : Option CollRun :=
  s.coll.runs.find? fun r => r.group == g && r.phase != .ended

/-- The collective of a group with a sequence number. -/
def State.runSeq (s : State) (g : Nat) (seq : BitVec 20) : Option CollRun :=
  s.coll.runs.find? fun r => r.group == g && r.seq == seq

/-- The collective of a group in a phase. -/
def State.runIn (s : State) (g : Nat) (ph : CollPhase) : Option CollRun :=
  s.coll.runs.find? fun r => r.group == g && r.phase == ph

def modRun (id : DescId) (f : CollRun → CollRun) (s : State) : State :=
  { s with coll := { s.coll with runs := s.coll.runs.map fun r => if r.id = id then f r else r } }

/-- Messages held for a collective are gone. -/
def dropHeld (g : Nat) (seq : BitVec 20) (s : State) : State :=
  { s with coll := { s.coll with
    heldSigs := s.coll.heldSigs.filter fun m => !(m.group.val == g && m.seq == seq)
    heldData := s.coll.heldData.filter fun m => !(m.group.val == g && m.seq == seq)
    heldAborts := s.coll.heldAborts.filter fun a => !(a.group == g && a.seq == seq) } }

/-! ## Tally (R261, R262) -/

def State.tally (s : State) (g : Nat) : Tally := Sparse.get {} s.coll.tallies g

/-- Bytes of a Tally record (Table 11-13). -/
def tallyBytes (t : Tally) : List Byte :=
  let word6 := t.binOvf * 2 ^ 16 + t.ovf
  [t.lateNs, t.waitNs, t.doneCount, t.lastCount, t.slowest * 2 ^ 48 + t.slowestLate,
    t.mismatch * 2 ^ 32 + t.abort, word6, 0].flatMap (leBytes 8)
    ++ (List.range 16).flatMap fun b => leBytes 4 (Sparse.get 0 t.bins b)

/-- A field raised by k, stopping at its all-ones value of n bits. -/
def tallyAdd (n old k : Nat) : Nat := min (old + k) (2 ^ n - 1)

/-- OVF bits of the fields at their largest value. -/
def tallyOvf (t : Tally) : Nat :=
  let full (n v : Nat) : Nat := if v = 2 ^ n - 1 then 1 else 0
  full 64 t.lateNs + 2 * full 64 t.waitNs + 4 * full 64 t.doneCount + 8 * full 64 t.lastCount
    + 16 * full 32 t.mismatch + 32 * full 32 t.abort + 64 * full 48 t.slowestLate

def tallyBinOvf (t : Tally) : Nat :=
  ((List.range 16).map fun b => if Sparse.get 0 t.bins b = 2 ^ 32 - 1 then 2 ^ b else 0).sum

/-- Bits of `new` that `old` does not have. -/
def newBits (n old new : Nat) : List Nat :=
  (List.range n).filter fun b => new.testBit b && !old.testBit b

/-- A group's record takes its new counters; a field that has just reached its largest value sets its
bit and raises an event. -/
def setTally (g e : Nat) (t : Tally) (s : State) : State :=
  let ovf := t.ovf ||| tallyOvf t
  let bin := t.binOvf ||| tallyBinOvf t
  let edges := (newBits 7 t.ovf ovf ++ (newBits 16 t.binOvf bin).map (16 + ·)).map fun b =>
    (⟨s.now, srcTally e, b, w64 g⟩ : Edge)
  { s with edges := s.edges ++ edges
           coll := { s.coll with tallies := Sparse.set {} s.coll.tallies g { t with ovf := ovf, binOvf := bin } } }

/-- The record is written to the Tally region; false while an invalidation of its page is in progress. -/
def writeTally (g e : Nat) (tag : HoldTag) (s : State) : Bool × State :=
  match s.coll.table with
  | some (_, va) =>
    (match vaWrite (codeColl e) (va + 128 * g) ((tallyBytes (s.tally g)).map fun b => (b, false)) false tag s with
    | (some .blocked, _) => (false, s)
    | (_, s1) => (true, s1))
  | none => (true, s)

/-- Table 11-14. -/
def lateBin (ns : Nat) : Nat := if ns < 256 then 0 else min (Nat.log2 ns - 7) 15

/-- This member's arrival (R260). -/
def CollRun.mine (r : CollRun) : Nat := max r.started r.startTime

/-- The counters after a collective that ends DONE (R261); a field at its largest value stays there (R262). -/
def tallyAfter (r : CollRun) (self : Nat) (t : Tally) : Tally :=
  let late := r.mine - r.earliest
  let b := lateBin late
  { t with
    lateNs := tallyAdd 64 t.lateNs late
    waitNs := tallyAdd 64 t.waitNs (r.latest - r.mine)
    doneCount := tallyAdd 64 t.doneCount 1
    lastCount := tallyAdd 64 t.lastCount (if r.latestIdx = self then 1 else 0)
    slowest := r.latestIdx % 65536
    slowestLate := if t.slowestLate = 2 ^ 48 - 1 then t.slowestLate else min (r.latest - r.earliest) (2 ^ 48 - 1)
    bins := Sparse.set 0 t.bins b (tallyAdd 32 (Sparse.get 0 t.bins b) 1) }

def tallyDone (r : CollRun) (self e : Nat) (s : State) : Bool × State :=
  writeTally r.group e (.desc r.id) (setTally r.group e (tallyAfter r self (s.tally r.group)) s)

/-- A field lowered by k, unless it has stopped. -/
def tallySub (n old k : Nat) : Nat := if old = 2 ^ n - 1 then old else old - k

/-- The counters without a collective that had ended DONE here and is aborted before its record (R258, R261). -/
def tallyWithout (r : CollRun) (self : Nat) (t : Tally) : Tally :=
  let late := r.mine - r.earliest
  let b := lateBin late
  let mine := t.slowest == r.latestIdx % 65536 && t.slowestLate == min (r.latest - r.earliest) (2 ^ 48 - 1)
  { t with
    lateNs := tallySub 64 t.lateNs late
    waitNs := tallySub 64 t.waitNs (r.latest - r.mine)
    doneCount := tallySub 64 t.doneCount 1
    lastCount := tallySub 64 t.lastCount (if r.latestIdx = self then 1 else 0)
    slowest := if mine then r.slowBefore.1 else t.slowest
    slowestLate := if mine then r.slowBefore.2 else t.slowestLate
    bins := Sparse.set 0 t.bins b (tallySub 32 (Sparse.get 0 t.bins b) 1) }

/-- MISMATCH_COUNT or ABORT_COUNT advances; a record that cannot be written now is written when the invalidation
in its way has ended. -/
def tallyFailed (r : CollRun) (e : Nat) (mismatch : Bool) (s : State) : State :=
  let t := s.tally r.group
  let t' := if mismatch then { t with mismatch := tallyAdd 32 t.mismatch 1 } else { t with abort := tallyAdd 32 t.abort 1 }
  let s1 := setTally r.group e t' s
  match writeTally r.group e (.desc r.id) s1 with
  | (true, s2) => s2
  | (false, _) => { s1 with coll := { s1.coll with tallyDue := (s1.coll.tallyDue ++ [r.group]).eraseDups } }

/-- Tally records that an invalidation has kept from the region. -/
def resumeTallies (s : State) : State :=
  s.coll.tallyDue.foldl (fun s g => match s.group g with
    | none => s
    | some x => match writeTally g x.engine .none s with
      | (true, s1) => { s1 with coll := { s1.coll with tallyDue := s1.coll.tallyDue.filter (· != g) } }
      | (false, _) => s) s

/-! ## Messages between members (14 R304; log 33) -/

def abortCode : AbortCause → Nat
  | .mismatch => 1 | .timeout => 2 | .translation => 3 | .poisoned => 4 | .stateLate => 5

def partCode : CollPart → Nat
  | .codePart => 0 | .codeFull => 1 | .part => 2 | .full => 3

def memberNode (g : GroupSt) (i : Nat) : NodeId := g.members.getD i 0xFFFF

/-- ARG of a COLL packet (Table 14-7). -/
def collArg (g : Nat) (seq : BitVec 20) (word : Nat) : Nat := g * 2 ^ 52 + seq.toNat * 2 ^ 32 + word % 2 ^ 32

/-- A COLL packet of a group goes to member i. -/
def sendColl (gi : Nat) (g : GroupSt) (seq : BitVec 20) (i word : Nat) (bs : List Byte) (s : State) : State :=
  (sendPacket (mkPacket s (memberNode g i) typeColl true 0 (collArg gi seq word) 0 bs) s).2

/-- The message word: kind, detail and sending member. -/
def collWord (kind detail src : Nat) : Nat := kind * 2 ^ 28 + detail % 4096 * 2 ^ 16 + src % 65536

/-- A signature message, 64 bytes. -/
def sigBytes (m : SigMsg) : List Byte :=
  leBytes 1 1 ++ leBytes 1 (b2n m.agree) ++ leBytes 2 m.group.val ++ leBytes 4 m.seq.toNat ++ leBytes 2 m.round
    ++ leBytes 2 m.src ++ leBytes 4 m.latestIdx ++ leBytes 16 m.signature.toNat ++ leBytes 8 m.value.toNat
    ++ leBytes 8 m.earliest ++ leBytes 8 m.latest ++ leBytes 8 0

/-- An abort notice goes to every other member. -/
def sendAborts (r : CollRun) (g : GroupSt) (c : AbortCause) (s : State) : State :=
  (List.range g.members.length).foldl (fun s i =>
    if i = g.self then s else sendColl r.group g r.seq i (collWord 3 (abortCode c) g.self) [] s) s

/-- A data message: where its elements begin, and their bytes. -/
def sendPiece (r : CollRun) (g : GroupSt) (peer first size : Nat) (k : CollPart) (flags : FFlags) (elems : List W64)
    (s : State) : State :=
  sendColl r.group g r.seq peer (collWord 2 (partCode k * 512 + flags.toNat * 16 + size) g.self)
    (leBytes 8 first ++ elems.flatMap fun e => leBytes size e.toNat) s

/-- A span of the vector worked on goes to a member. -/
def sendSpan (r : CollRun) (g : GroupSt) (peer lo hi : Nat) (k : CollPart) (s : State) : State :=
  (pieces r k lo hi).foldl (fun s p =>
    let e := pieceElems r k p.1 p.2.1
    sendPiece r g peer p.1 p.2.2 k e.2 e.1 s) s

/-- A member's block of an all-to-all goes to it, to lie at this member's block there. -/
def sendBlock (r : CollRun) (g : GroupSt) (peer : Nat) (s : State) : State :=
  let b := typeBytes r.ty
  (cut 0 r.count (messageBytes / b)).foldl (fun s p =>
    sendPiece r g peer (g.self * r.count + p.1) b .full 0 ((r.own.drop (peer * r.count + p.1)).take p.2) s) s

/-! ## Buffers (R250) -/

/-- Bytes a member reads at SRC_VA, and writes at DST_VA. -/
def srcLen (r : CollRun) (g : GroupSt) : Nat :=
  let n := g.members.length
  let sh := shardOf r.ty r.count n g.self
  let b := typeBytes r.ty
  if r.op = opAllGather then (sh.2 - sh.1) * b
  else if r.op = opBroadcast then (if g.self = r.root then r.count * b else 0)
  else if r.op = opAllToAll then n * r.count * b
  else if r.op = opBarrier ∨ r.op = opFlagReduce then 0
  else r.count * b

def dstLen (r : CollRun) (g : GroupSt) : Nat :=
  let n := g.members.length
  let sh := shardOf r.ty r.count n g.self
  let b := typeBytes r.ty
  if r.op = opReduceScatter then (if r.sink then 0 else (sh.2 - sh.1) * b)
  else if r.op = opReduce then (if g.self = r.root then r.count * b else 0)
  else if r.op = opAllToAll then n * r.count * b
  else if r.op = opBarrier ∨ r.op = opFlagReduce then 0
  else r.count * b

/-- Words of a run's descriptor. -/
def runWords (r : CollRun) (s : State) : DWords := match s.prog r.id.q r.id.n with | some p => p.w | none => []

/-! ## Ends -/

/-- The descriptor of a collective ends on this member; the collective itself when its final record is written
(R245). -/
def endRun (r : CollRun) (st : BitVec 16) (result : W64) (s : State) : State :=
  finishQueue r.id.q (endProg r.id.q r.id.n st result
    (dropHeld r.group r.seq (modRun r.id (fun r => { r with phase := .ended }) s)))

/-- RESULT of an end other than DONE (Table 11-15). -/
def failResult (r : CollRun) (member : Nat) : W64 := w64 (member % 65536 * 2 ^ 48 + b2n r.lateStart * 2 ^ 9)

def stSignature : BitVec 16 := 0xA201
def stMemberTimeout : BitVec 16 := 0xA202
def stAborted : BitVec 16 := 0xA203
def stStateLate : BitVec 16 := 0xA302

/-- Free values over a virtual range, one 64 MiB unit after another, where the unit translates. -/
def freeRange (eng : Nat) (tag : HoldTag) : Nat → Nat → Nat → State → State
  | 0, _, _, s => s
  | fuel + 1, va, n, s =>
    if n = 0 then s
    else
      let k := min n (0x4000000 - va % 0x4000000)
      let f := freshBytes k s
      freeRange eng tag fuel (va + k) (n - k) (vaWrite eng va (f.1.map fun b => (b, false)) false tag f.2).2

/-- The destination range of a member that ends early after its round closed holds undefined values (R259). -/
def freeDest (r : CollRun) (g : GroupSt) (s : State) : State :=
  let n := dstLen r g
  if n = 0 then s
  else if r.dstSegs = [] then freeRange (codeColl g.engine) (.desc r.id) (n / 0x4000000 + 2) (dDst (runWords r s)) n s
  else
    let f := freshBytes n s
    writeSegs (codeColl g.engine) false (.desc r.id) r.dstSegs (f.1.map fun b => (b, false)) f.2

def State.upd1 (s : State) (u : Nat) : UpdState := Sparse.get {} s.upd u
def State.modUpd (s : State) (u : Nat) (f : UpdState → UpdState) : State :=
  { s with upd := Sparse.set {} s.upd u (f (s.upd1 u)) }

def updCtr (u off : Nat) : Nat := debugBase (codeUpd u) false + off
def evUpdBad : Nat := 0
def evUpdStall : Nat := 1
def evUpdLate : Nat := 2

/-- COLL credits of the links of an X-die that were withheld go back, in as many headers as they take (14 R303). -/
def returnHeld (u : Nat) (s : State) : State :=
  (List.range 48).foldl (fun s k =>
    let n := 48 * u + k
    let l := s.link n
    let owed := Sparse.get 0 l.owed 2
    if (l.mode = .up ∨ l.mode = .withdrawn) ∧ owed ≠ 0 then
      (List.range ((owed + 254) / 255)).foldl (fun s _ => putFlit n kindIdle 0 (s.link n).nextFseq 127 [] s) s
    else s) s

/-- A stall of an update engine is over. -/
def endStall (u : Nat) (s : State) : State :=
  if (s.upd1 u).stall.isNone then s
  else returnHeld u ((s.modUpd u fun x => { x with stall := none, stalledBy := none }).modNet fun t =>
    { t with collHold := Sparse.set false t.collHold u false })

/-- A stall of an update engine begins: a reduce-scatter waits, and the COLL lane's credits are withheld (12 R282). -/
def beginStall (u : Nat) (id : DescId) (s : State) : State :=
  if (s.upd1 u).stall.isSome then s
  else (raiseEv (srcUpd u) evUpdStall (count (updCtr u 0x118) 1
    (s.modUpd u fun x => { x with stall := some s.now, stalledBy := some id }))).modNet fun t =>
      { t with collHold := Sparse.set false t.collHold u true }

/-- The armed APPLY ends with a status (R284): EPOCH and every live value stay as they are. -/
def endApply (u : Nat) (a : Armed) (st : BitVec 16) (s : State) : State :=
  let s0 := s.modUpd u fun x => { x with armed := none }
  let s1 := if (s.upd1 u).stalledBy = a.paired then endStall u s0 else s0
  let s2 := if st = stStateLate then raiseEv (srcUpd u) evUpdLate (count (updCtr u 0x128) 1 s1) else s1
  let s3 := if a.bad then raiseEv (srcUpd u) evUpdBad s2 else s2
  let res := a.nonfinite * 2 ^ 40 + a.absurd * 2 ^ 16 + b2n a.bad
  finishQueue a.id.q (endProg a.id.q a.id.n st (w64 res) s3)

/-- The APPLY of a SINK reduce-scatter that ends early, paired with it or about to be, ends with its status. -/
def applyFollows (r : CollRun) (e : Nat) (st : BitVec 16) (s : State) : State :=
  if !r.sink then s
  else
    let s := if (s.upd1 e).stalledBy = some r.id then endStall e s else s
    match (s.upd1 e).armed with
    | some a => if a.paired = some r.id ∨ (a.paired = none ∧ a.group = r.group ∧ a.count = r.count)
        then endApply e a st s else s
    | none => s

/-- A collective ends on this member otherwise than DONE (R258, R259). -/
def endEarly (r : CollRun) (st : BitVec 16) (member : Nat) (c : AbortCause) (s : State) : State :=
  match s.group r.group with
  | none => s
  | some g =>
    let s1 := sendAborts r g c s
    let s2 := if (r.phase == .data || r.phase == .closed) && c != .mismatch then freeDest r g s1 else s1
    let s3 := tallyFailed r g.engine (st == stSignature) s2
    applyFollows r g.engine st (endRun r st (failResult r member) s3)

/-- The status an abort notice of a cause gives (Table 11-12). -/
def abortStatus : AbortCause → BitVec 16
  | .mismatch => stSignature
  | .stateLate => stStateLate
  | _ => stAborted

/-- A collective that ended DONE here is aborted before its final record is written: no record with DONE follows an
abort notice (R258). -/
def revokeDone (r : CollRun) (member : Nat) (c : AbortCause) (s : State) : State :=
  match s.group r.group, s.prog r.id.q r.id.n with
  | some g, some p =>
    if p.status ≠ stDone then s
    else
      let st := abortStatus c
      let s1 := freeDest r g (sendAborts r g c s)
      let s2 := tallyFailed r g.engine (st == stSignature)
        (setTally r.group g.engine (tallyWithout r g.self (s1.tally r.group)) s1)
      applyFollows r g.engine st (finishQueue r.id.q (modProg r.id.q r.id.n (fun p =>
        { p with status := st, result := failResult r member, endTime := s.now }) s2))
  | _, _ => s

/-- MEMBER of an end through a notice (Table 11-15): the first failed comparison that reached this member comes
before the notice's sender. -/
def noticeMember (r : CollRun) (src : Nat) (c : AbortCause) : Nat := if c = .mismatch ∧ !r.agree then r.wrong else src

/-! ## The signature round (R255-R257) -/

def sigMsgOf (r : CollRun) (g : GroupSt) : SigMsg where
  group := Fin.ofNat 4096 r.group
  seq := r.seq
  round := r.round
  src := g.self
  signature := r.signature
  agree := r.agree
  value := r.value
  earliest := r.earliest
  latest := r.latest
  latestIdx := r.latestIdx

def sendRound (id : DescId) (s : State) : State :=
  match s.runOf id with
  | none => s
  | some r => match s.group r.group with
    | none => s
    | some g =>
      if r.round < roundsOf g.members.length then
        sendColl r.group g r.seq ((g.self + 2 ^ r.round) % g.members.length) (collWord 1 r.round g.self)
          (sigBytes (sigMsgOf r g)) s
      else s

/-- What a message of the round adds to what this member knows. -/
def takeSig (m : SigMsg) (r : CollRun) : CollRun :=
  let same := m.signature == r.signature
  let good := same && m.agree
  let later := r.latest < m.latest ∨ (r.latest = m.latest ∧ m.latestIdx < r.latestIdx)
  { r with
    round := r.round + 1
    agree := r.agree && good
    wrong := if r.agree ∧ !good then m.src else r.wrong
    value := if r.redop = 4 then r.value &&& m.value else r.value ||| m.value
    earliest := min r.earliest m.earliest
    latest := if later then m.latest else r.latest
    latestIdx := if later then m.latestIdx else r.latestIdx }

/-! ## The data phase -/

/-- Elements of a buffer. -/
def elemsOf (b : Nat) (bs : List Byte) : List W64 := (chunk b (bs.length / b) bs).map fun e =>
  w64 (if b = 3 then leNat e % 2 ^ 19 else leNat e)

/-- Pages a collective has translated. -/
def notePages (id : DescId) (va n : Nat) (s : State) : State :=
  modProg id.q id.n (fun p => { p with pages := (p.pages ++ pagesOf va n).eraseDups }) s

/-- What the first exchange of a run's data phase does: the run after it and the machine after its messages, or
nothing while it waits for one. -/
def stepData (r : CollRun) (g : GroupSt) (s : State) : Option (CollRun × State) :=
  match r.todo with
  | [] => none
  | x :: rest =>
    let next : CollRun := { r with todo := rest }
    match x with
    | .send peer lo hi k => some (next, sendSpan r g peer lo hi k s)
    | .give peer => some (next, sendBlock r g peer s)
    | .scale => some ({ next with acc := ownParts r }, s)
    | .fix lo hi => some ({ next with acc := editFrom lo (hi - lo) (donePart r) r.acc }, s)
    | .recv frm lo hi k =>
      match pieces r k lo hi with
      | [] => some (next, s)
      | p :: _ => match findPiece r frm p.1 p.2.1 k with
        | none => none
        | some m =>
          let r1 := takePiece m { r with got := r.got.erase m }
          some ({ r1 with todo := .recv frm (p.1 + p.2.1) hi k :: rest }, s)

/-- The exchanges of a data phase go on as far as the messages received allow. -/
def advanceData (id : DescId) : Nat → State → State
  | 0, s => s
  | fuel + 1, s =>
    match s.runOf id with
    | none => s
    | some r => match s.group r.group with
      | none => s
      | some g =>
        if r.phase ≠ .data then s
        else match stepData r g s with
          | none => s
          | some (r1, s1) => advanceData id fuel (modRun id (fun _ => r1) s1)

/-- Exchanges and messages at hand. -/
def dataFuel (id : DescId) (s : State) : Nat :=
  match s.runOf id with | some r => r.todo.length + r.got.length + 1 | none => 0

def runData (id : DescId) (s : State) : State := advanceData id (dataFuel id s) s

/-- Every exchange of the data phase is over. -/
def dataComplete (r : CollRun) : Bool := r.todo.isEmpty

/-- A SINK reduce-scatter meets the update engine (12 R272): it is paired, or held while nothing is armed,
or, when the APPLY disagrees, both end. -/
def pairSink (r : CollRun) (e : Nat) (s : State) : State :=
  if !r.sink ∨ r.paired then s
  else match (s.upd1 e).armed with
    | none => beginStall e r.id s
    | some a =>
      if a.paired.isSome then s
      else if a.group = r.group ∧ a.count = r.count then
        let s1 := if (s.upd1 e).stalledBy = some r.id then endStall e s else s
        modRun r.id (fun r => { r with paired := true })
          (s1.modUpd e fun x => { x with armed := some { a with paired := some r.id } })
      else
        endApply e a stStateLate (endEarly r stStateLate (match s.group r.group with | some g => g.self | none => 0)
          .stateLate s)

/-- The first unpaired SINK reduce-scatter of an engine in its data phase. -/
def waitingSink (u : Nat) (s : State) : Option CollRun :=
  s.coll.runs.find? fun r => r.sink && r.phase == .data && !r.paired && r.eng s == u

/-- A reduce-scatter that waits for an update engine meets it. -/
def settleSink (u : Nat) (s : State) : State :=
  match waitingSink u s with | some r => pairSink r u s | none => s

/-- The data phase begins, once no other of its group is in progress (R255): both buffers translate, the source is
read, and the exchanges start. -/
def beginData (id : DescId) (s : State) : State :=
  match s.runOf id with
  | none => s
  | some r => match s.group r.group with
    | none => s
    | some g =>
      if r.phase ≠ .closed ∨ (s.runIn r.group .data).isSome then s
      else
        let w := runWords r s
        let code := codeColl g.engine
        let src := translateAll code (dSrc w) (srcLen r g) false s
        match src.2.1 with
        | some .blocked => s
        | some o => endEarly r o.status g.self .translation src.2.2
        | none =>
          let dst := translateAll code (dDst w) (dstLen r g) true src.2.2
          match dst.2.1 with
          | some .blocked => s
          | some o => endEarly r o.status g.self .translation dst.2.2
          | none =>
            let s1 := notePages r.id (dDst w) (dstLen r g) (notePages r.id (dSrc w) (srcLen r g) dst.2.2)
            let (bs, s2) := readSegs code (dStreaming w) (dNoRemote w) src.1 s1
            if bs.any Prod.snd then endEarly { r with dstSegs := dst.1 } stPoisoned g.self .poisoned s2
            else
              let own := elemsOf (typeBytes r.ty) (bs.map Prod.fst)
              let mine := s2.coll.heldData.filter fun m => m.group.val == r.group && m.seq == r.seq
              let r1 : CollRun := { r with
                phase := .data, own := own, heard := s.now, got := mine, todo := schedule r g
                srcSegs := src.1, dstSegs := dst.1 }
              let r2 := loadRun r1 g
              let s3 : State := { s2 with coll := { s2.coll with
                heldData := s2.coll.heldData.filter fun m => !mine.contains m } }
              pairSink r2 g.engine (runData id (modRun id (fun _ => r2) s3))

/-- After the end of a collective: its group's closed one begins its data phase, and reduce-scatters that wait for an
update engine meet it. -/
def startNext (gi : Nat) (s : State) : State :=
  settleSink 1 (settleSink 0 (match s.runIn gi .closed with | some r => beginData r.id s | none => s))

/-- The round of a collective closes: a mismatch ends the collective, otherwise its data phase follows. -/
def closeRound (id : DescId) (s : State) : State :=
  match s.runOf id with
  | none => s
  | some r =>
    if !r.agree then endEarly r stSignature r.wrong .mismatch s
    else beginData id (modRun id (fun r => { r with phase := .closed }) s)

/-- Held messages of a collective's present round are taken, as far as they go. -/
def advanceRound (id : DescId) : Nat → State → State
  | 0, s => s
  | fuel + 1, s =>
    match s.runOf id with
    | none => s
    | some r => match s.group r.group with
      | none => s
      | some g =>
        if r.phase ≠ .signing then s
        else if roundsOf g.members.length ≤ r.round then closeRound id s
        else
          let n := g.members.length
          let from_ := (g.self + n - 2 ^ r.round % n) % n
          match s.coll.heldSigs.find? fun m =>
              m.group.val == r.group && m.seq == r.seq && m.round == r.round && m.src == from_ with
          | none => s
          | some m =>
            let s1 : State := { s with coll := { s.coll with heldSigs := s.coll.heldSigs.erase m } }
            advanceRound id fuel (sendRound id (modRun id (takeSig m) s1))

def roundFuel (gi : Nat) (s : State) : Nat :=
  match s.group gi with | some g => roundsOf g.members.length + 1 | none => 0

/-- The first round is sent. -/
def launchRound (r : CollRun) (s : State) : State :=
  let s1 := sendRound r.id (modRun r.id (fun r => { r with phase := .signing }) s)
  advanceRound r.id (roundFuel r.group s1) s1

/-! ## Entering (R245, R255, R256, R260) -/

/-- Collectives of a group that have taken a number and whose final records are not written. -/
def unrecorded (gi : Nat) (s : State) : Nat :=
  (s.queues.map fun e => (e.2.progs.filter fun p => p.coll == some gi).length).sum

/-- The number the group's next collective takes. -/
def takesSeq (gi : Nat) (g : GroupSt) (s : State) : BitVec 20 := g.nextSeq + BitVec.ofNat 20 (unrecorded gi s)

def newRun (id : DescId) (w : DWords) (g : GroupSt) (seq : BitVec 20) (now : Nat) : CollRun where
  id := id
  group := cGroup w
  seq := seq
  op := dOpcode w
  redop := cRedop w
  ty := cType w
  repro := cRepro w
  sink := cSink w
  root := cRoot w
  count := cCount w
  startTime := cStart w
  started := now
  lateStart := decide (cStart w ≠ 0) && decide (cStart w ≤ now)
  signature := signatureOf w seq g.members
  phase := .waiting
  round := 0
  agree := true
  wrong := 0
  value := wordAt w 7
  earliest := max now (cStart w)
  latest := max now (cStart w)
  latestIdx := g.self
  own := []
  codes := []
  acc := []
  todo := []
  got := []
  srcSegs := []
  dstSegs := []
  slowBefore := (0, 0)
  heard := now
  paired := false
  fed := 0

/-- The lowest member whose node the route tables report unreachable. -/
def lostMember (g : GroupSt) (s : State) : Option Nat :=
  (List.range g.members.length).find? fun i => i != g.self && (s.route (memberNode g i).toNat).unreach

/-- A started descriptor enters its collective. -/
def enterColl (q n : Nat) (s : State) : State :=
  match s.prog q n with
  | none => s
  | some p =>
    let gi := cGroup p.w
    match s.group gi with
    | none => s
    | some g =>
      let seq := takesSeq gi g s
      let r := newRun ⟨q, n⟩ p.w g seq s.now
      let s1 := modProg q n (fun p => { p with coll := some gi })
        { s with coll := { s.coll with runs := s.coll.runs ++ [r] } }
      match s1.coll.heldAborts.find? fun a => a.group == gi && a.seq == seq with
      | some a => endEarly r (abortStatus a.cause) a.src a.cause s1
      | none =>
        match lostMember g s1 with
        | some i => endEarly r stMemberTimeout i .timeout s1
        | none => if s.now < r.startTime then s1 else launchRound r s1

/-- Collectives that hold slots of an engine (R256). -/
def slotsUsed (eng : Nat) (s : State) : Nat := (s.coll.runs.filter fun r => r.eng s == eng).length

/-- The next collective of a group may start: its signature round may run beside the data phase of the one before
(R255). -/
def groupFree (gi : Nat) (s : State) : Bool :=
  s.coll.runs.all fun r => r.group != gi || r.phase == .data || r.phase == .ended

/-- A collective descriptor starts, when its engine has a free slot and its group no earlier collective short of its
data phase. Its group is as it stands now (R249). -/
def startColl (q op : Nat) (s0 : State) : State :=
  let s := settleHead q s0
  let x := s.queue q
  match x.window with
  | [] => s
  | f :: _ =>
    if engKind x.code = .coll ∧ slotsUsed (x.code - 0x40) s < 16 ∧ groupFree (cGroup f.w) s then
      match startDesc q op s with
      | (some (n, true), s1) => enterColl q n s1
      | (_, s1) => s1
    else s

/-- ALL_REDUCE (R250). -/
def execAllReduce (q : QueueId) (s : State) : Host.Outcome State Fault Refusal := .next (clocked (startColl q.val opAllReduce) s)

/-- REDUCE_SCATTER (R250). -/
def execReduceScatter (q : QueueId) (s : State) : Host.Outcome State Fault Refusal :=
  .next (clocked (startColl q.val opReduceScatter) s)

/-- ALL_GATHER (R250). -/
def execAllGather (q : QueueId) (s : State) : Host.Outcome State Fault Refusal := .next (clocked (startColl q.val opAllGather) s)

/-- BROADCAST (R250). -/
def execBroadcast (q : QueueId) (s : State) : Host.Outcome State Fault Refusal := .next (clocked (startColl q.val opBroadcast) s)

/-- REDUCE (R250). -/
def execReduce (q : QueueId) (s : State) : Host.Outcome State Fault Refusal := .next (clocked (startColl q.val opReduce) s)

/-- ALL_TO_ALL (R250). -/
def execAllToAll (q : QueueId) (s : State) : Host.Outcome State Fault Refusal := .next (clocked (startColl q.val opAllToAll) s)

/-- BARRIER (R250). -/
def execBarrier (q : QueueId) (s : State) : Host.Outcome State Fault Refusal := .next (clocked (startColl q.val opBarrier) s)

/-- FLAG_REDUCE (R250). -/
def execFlagReduce (q : QueueId) (s : State) : Host.Outcome State Fault Refusal := .next (clocked (startColl q.val opFlagReduce) s)

/-- COLLECTIVE_START_TIME (R260): device time has reached the START_TIME the group's collective waits for. -/
def execCollectiveStartTime (g : GroupId) (s : State) : Host.Outcome State Fault Refusal :=
  if !powered s then .next s else
  .next (match s.runIn g.val .waiting with
    | some r => if r.startTime ≤ s.now then launchRound r s else s
    | none => s)

/-- Is a number that of the group's next collective (R256)? -/
def seqNext (gi : Nat) (seq : BitVec 20) (s : State) : Bool :=
  match s.group gi with
  | none => false
  | some g => seq == takesSeq gi g s

/-- SIGNATURE_MESSAGE (R255, R256): held for the group's next collective, or taken by the one whose number it
carries while its round is open; any other is discarded. -/
def execSignatureMessage (m : SigMsg) (s : State) : Host.Outcome State Fault Refusal :=
  if !powered s then .next s else
  let held : State := { s with coll := { s.coll with heldSigs := s.coll.heldSigs ++ [m] } }
  .next (match s.runSeq m.group.val m.seq with
    | some r =>
      if r.phase = .signing ∨ r.phase = .waiting then advanceRound r.id (roundFuel m.group.val held) held else s
    | none => if seqNext m.group.val m.seq s then held else s)

/-- COLLECTIVE_DATA_MESSAGE (R251). -/
def execCollectiveDataMessage (m : DataMsg) (s : State) : Host.Outcome State Fault Refusal :=
  if !powered s then .next s else
  let held : State := { s with coll := { s.coll with heldData := s.coll.heldData ++ [m] } }
  .next (match s.runSeq m.group.val m.seq with
    | some r =>
      if r.phase = .data then runData r.id (modRun r.id (fun r => { r with got := r.got ++ [m], heard := s.now }) s)
      else if r.phase = .ended then s
      else held
    | none => if seqNext m.group.val m.seq s then held else s)

/-- ABORT_NOTICE (R258). -/
def execAbortNotice (g : GroupId) (seq : BitVec 20) (src : Nat) (c : AbortCause) (s : State) :
    Host.Outcome State Fault Refusal :=
  if !powered s then .next s else
  .next (match s.runSeq g.val seq with
    | some r =>
      if r.phase = .ended then revokeDone r src c s
      else startNext g.val (endEarly r (abortStatus c) (noticeMember r src c) c s)
    | none =>
      if seqNext g.val seq s then
        { s with coll := { s.coll with heldAborts := s.coll.heldAborts ++ [⟨g.val, seq, src, c⟩] } }
      else s)

/-- A member that this member's open round has not heard of: neither directly nor through another (R255). -/
def notHeardOf (r : CollRun) (g : GroupSt) (member : Nat) (s : State) : Bool :=
  let n := g.members.length
  decide (2 ^ r.round ≤ (g.self + n - member) % n)
    && !s.coll.heldSigs.any fun m => m.group.val == r.group && m.seq == r.seq && m.src == member

/-- The member whose data the data phase waits for. -/
def awaited (r : CollRun) : Option Nat := match r.todo with | .recv frm _ _ _ :: _ => some frm | _ => none

/-- The member's timeout has passed, or its node is unreachable. -/
def memberOverdue (r : CollRun) (g : GroupSt) (member : Nat) (s : State) : Bool :=
  let limit := g.timeoutMs * 1000000
  member != g.self && decide (member < g.members.length)
    && ((s.route (memberNode g member).toNat).unreach
      || (r.phase == .signing && notHeardOf r g member s && decide (r.mine + limit ≤ s.now))
      || (r.phase == .data && awaited r == some member && decide (r.heard + limit ≤ s.now)))

/-- MEMBER_TIMEOUT (R258): a collective of the group that has not ended waits for the member too long. -/
def execMemberTimeout (g : GroupId) (member : Nat) (s : State) : Host.Outcome State Fault Refusal :=
  if !powered s then .next s else
  .next (match s.group g.val with
    | none => s
    | some gs => match s.coll.runs.find? fun r => r.group == g.val && r.phase != .ended && memberOverdue r gs member s with
      | some r => startNext g.val (endEarly r stMemberTimeout member .timeout s)
      | none => s)

/-- Every collective with a member whose node has become unreachable ends (R258). -/
def collNodeLost (node : NodeId) (s : State) : State :=
  (s.coll.runs.map (·.id)).foldl (fun s id =>
    match s.runOf id with
    | none => s
    | some r => match s.group r.group with
      | none => s
      | some g => match (List.range g.members.length).find? fun i => i != g.self && memberNode g i == node with
        | some i => if r.phase = .ended then s else endEarly r stMemberTimeout i .timeout s
        | none => s) s

/-! ## DONE -/

/-- Elements a reduction gives this member. -/
def reduceSpan (r : CollRun) (g : GroupSt) : Nat × Nat :=
  if r.op = opReduceScatter then shardOf r.ty r.count g.members.length g.self
  else if r.op = opAllReduce ∨ (r.op = opReduce ∧ g.self = r.root) then (0, r.count)
  else (0, 0)

/-- The destination's elements. -/
def destElems (r : CollRun) (g : GroupSt) : List Nat :=
  if isReduction r.op then
    let sp := reduceSpan r g
    ((r.acc.drop sp.1).take (sp.2 - sp.1)).map Prod.fst
  else r.acc.map Prod.fst

/-- FLAGS: raised by the reduction of this member's elements (R253). -/
def reduceFlags (r : CollRun) (g : GroupSt) : FFlags :=
  let sp := reduceSpan r g
  ((r.acc.drop sp.1).take (sp.2 - sp.1)).foldl (fun f e => f ||| e.2) 0

/-- Some block of the collective has code 0xFF (R253). -/
def nonfiniteBlock (r : CollRun) : Bool := r.repro && r.codes.any (· == 0xFF)

/-- May source and destination coincide (Table 11-8)? -/
def mayCoincide (op : Nat) : Bool := op == opAllReduce || op == opBroadcast || op == opReduce

/-- The destination overlaps the source in a way Table 11-8 does not allow. -/
def badOverlap (op : Nat) (src dst : List (Nat × Nat)) : Bool :=
  (dst.any fun d => src.any fun g => decide (max d.1 g.1 < min (d.1 + d.2) (g.1 + g.2)))
    && !(mayCoincide op && src == dst)

/-- RESULT of a collective that ends DONE (Table 11-15). -/
def doneResult (r : CollRun) (g : GroupSt) : W64 :=
  if r.op = opFlagReduce then r.value
  else
    w64 (r.latestIdx % 65536 * 2 ^ 48 + min (r.latest - r.earliest) (2 ^ 32 - 1) * 2 ^ 16 + b2n r.lateStart * 2 ^ 9
      + b2n (nonfiniteBlock r) * 2 ^ 8 + (reduceFlags r g).toNat)

/-- The destination is written, through the translations held since the data phase began. -/
def writeDest (r : CollRun) (g : GroupSt) (s : State) : State :=
  let b := typeBytes r.ty
  let bytes := (destElems r g).flatMap fun e => leBytes b e
  let (out, s1) := if badOverlap r.op r.srcSegs r.dstSegs then freshBytes bytes.length s else (bytes, s)
  writeSegs (codeColl g.engine) (dStreaming (runWords r s)) (.desc r.id) r.dstSegs (out.map fun x => (x, false)) s1

/-- Elements of the shard that a SINK reduce-scatter still has to deliver. -/
def sinkLeft (r : CollRun) (g : GroupSt) : Nat :=
  let sh := shardOf r.ty r.count g.members.length g.self
  if r.sink then sh.2 - sh.1 - r.fed else 0

/-- A collective of a group whose exchanges are over ends DONE: the destination and the Tally record are written
(R261, R264). -/
def endDone (r : CollRun) (g : GroupSt) (s : State) : State :=
  let t := s.tally r.group
  match tallyDone r g.self g.engine (modRun r.id (fun r => { r with slowBefore := (t.slowest, t.slowestLate) }) s) with
  | (false, _) => s
  | (true, s1) => endRun r stDone (doneResult r g) (if dstLen r g = 0 then s1 else writeDest r g s1)

/-- COLLECTIVE_DONE (R261, R264). -/
def collDone (gi : Nat) (s : State) : State :=
  match s.runIn gi .data, s.group gi with
  | some r, some g => if dataComplete r && sinkLeft r g == 0 then startNext gi (endDone r g s) else s
  | _, _ => startNext gi s

def execCollectiveDone (g : GroupId) (s : State) : Host.Outcome State Fault Refusal := .next (clocked (collDone g.val) s)

end Sys2Proof.Machine
end

