-- ==== Sys2Proof/Machine/Update.lean ====
section
/-! DEFINITION. The update engines (spec 12): arming, the optimiser's arithmetic on each gradient, staging
and the epoch block, stalls, and commits. -/

namespace Sys2Proof.Machine

/-! ## Binary32 operations under roundTiesToEven (R274); no flags are kept -/

def r32 (w : Nat) : FVal := decodeF .fp32 w
def add32 (a b : Nat) : Nat := (addF .fp32 .rne (r32 a) (r32 b)).1
def sub32 (a b : Nat) : Nat := (subF .fp32 .rne (r32 a) (r32 b)).1
def mul32 (a b : Nat) : Nat := (mulF .fp32 .rne (r32 a) (r32 b)).1
def div32 (a b : Nat) : Nat := (divF .fp32 .rne (r32 a) (r32 b)).1
def fma32 (a b c : Nat) : Nat := (fmaF .fp32 .rne (r32 a) (r32 b) (r32 c)).1
def sqrt32 (a : Nat) : Nat := (sqrtF .fp32 .rne (r32 a)).1
def neg32 (a : Nat) : Nat := a ^^^ 0x80000000
def int32f (n : Nat) : Nat := (ofIntF .fp32 .rne n).1
def one32 : Nat := 0x3F800000
def finite32 (a : Nat) : Bool := !((r32 a).isNan || (r32 a).isInf)

/-! ## The update table (R269, R270) -/

/-- An entry from its 128 bytes. -/
def entryOf (bs : List Byte) : UpdEntry :=
  let w (k : Nat) : Nat := leAt bs (8 * k) 8
  let b1 := w 5 % 2 ^ 32
  let b2 := w 5 / 2 ^ 32
  { opt := w 0 / 2 ^ 62, slow := w 0 / 2 ^ 61 % 2 == 1, start := w 0 % 2 ^ 40, cols := w 1 / 2 ^ 40
    elems := w 1 % 2 ^ 40, state0 := w 2 % 2 ^ 52, state1 := w 3 % 2 ^ 52, decay := w 4 / 2 ^ 32, lr := w 4 % 2 ^ 32
    beta2 := b2, beta1 := b1, gscale := w 6 / 2 ^ 32, eps := w 6 % 2 ^ 32, c2 := w 7 / 2 ^ 32, c1 := w 7 % 2 ^ 32
    omb1 := sub32 one32 b1, omb2 := sub32 one32 b2, rbar := 0 }

def UpdEntry.rows (e : UpdEntry) : Nat := e.elems / max e.cols 1

/-- One entry meets R269 and R270 on its own and lies within the shard. -/
def UpdEntry.ok (e : UpdEntry) (lo hi : Nat) : Bool :=
  e.opt != 3 && e.elems != 0 && e.state0 % 128 == 0 && e.state1 % 128 == 0
    && decide (lo ≤ e.start) && decide (e.start + e.elems ≤ hi)
    && (e.cols == 0 || (e.opt == 1 && decide (2 ≤ e.cols) && decide (e.cols ≤ 65536) && e.elems % e.cols == 0
      && decide (2 ≤ e.rows) && decide (e.rows ≤ 16777216)))

/-- Ascending and without overlap. -/
def entriesApart : List UpdEntry → Bool
  | a :: b :: rest => decide (a.start + a.elems ≤ b.start) && entriesApart (b :: rest)
  | _ => true

def align128 (n : Nat) : Nat := (n + 127) / 128 * 128

/-- Offsets of the second and third array of a state copy, and the copy's bytes (Table 12-5). -/
def UpdEntry.layout (e : UpdEntry) : Nat × Nat × Nat :=
  let a := align128 (4 * e.elems)
  if e.opt = 0 then (a, a, 4 * e.elems)
  else if e.opt = 2 then
    let b := a + align128 e.elems
    (a, b, b + 4 * ((e.elems + 127) / 128))
  else if e.cols = 0 then (a, a, a + 4 * e.elems)
  else
    let b := a + align128 (4 * e.rows)
    (a, b, b + 4 * e.cols)

/-- State copy k mod 2. -/
def UpdEntry.copy (e : UpdEntry) (k : Nat) : Nat := if k % 2 = 0 then e.state0 else e.state1

/-! ## Accesses of an update engine -/

/-- The translations an APPLY holds (R271): virtual address, bytes and physical pieces of each range. -/
abbrev UpdMaps := List (Nat × Nat × List (Nat × Nat))

/-- Physical pieces of n bytes at a virtual address. -/
def UpdMaps.at_ (m : UpdMaps) (va n : Nat) : List (Nat × Nat) :=
  match m.find? fun r => decide (r.1 ≤ va) && decide (va + n ≤ r.1 + r.2.1) with
  | some r => segsAt r.2.2 (va - r.1) n
  | none => []

/-- n bytes at a virtual address as a number, and whether any is poisoned. -/
def updRead (u : Nat) (m : UpdMaps) (va n : Nat) (s : State) : (Nat × Bool) × State :=
  let r := readSegs (codeUpd u) false false (m.at_ va n) s
  (markedNat r.1, r.2)

def updWrite (u : Nat) (m : UpdMaps) (id : DescId) (va n v : Nat) (s : State) : State :=
  writeSegs (codeUpd u) false (.desc id) (m.at_ va n) ((leBytes n v).map fun b => (b, false)) s

/-- Translations of ranges, each for a read or a write, until one does not proceed. -/
def translateEach (code : Nat) : List (Nat × Nat × Bool) → State → Option XOut × UpdMaps × State
  | [], s => (none, [], s)
  | (va, n, write) :: rest, s =>
    match translateAll code va n write s with
    | (segs, none, s1) =>
      let r := translateEach code rest s1
      (r.1, (va, n, segs) :: r.2.1, r.2.2)
    | (_, some o, s1) => (some o, [], s1)

/-- FP32 values of an array, and whether any is poisoned. -/
def readFloats (u : Nat) (m : UpdMaps) (va n : Nat) (s : State) : (List Nat × Bool) × State :=
  let r := readSegs (codeUpd u) false false (m.at_ va (4 * n)) s
  (((chunk 4 n (r.1.map Prod.fst)).map leNat, r.1.any Prod.snd), r.2)

/-- RBAR of every factored entry (R271), and whether anything was poisoned. -/
def withRbar (u : Nat) (m : UpdMaps) (epoch : Nat) : List UpdEntry → State → (List UpdEntry × Bool) × State
  | [], s => (([], false), s)
  | e :: rest, s =>
    let r : (Nat × Bool) × State :=
      if e.cols = 0 then ((0, false), s)
      else
        let x := readFloats u m (e.copy epoch + e.layout.1) e.rows s
        ((div32 (exactSum .fp32 .rne (x.1.1.map r32)).1 (int32f e.rows), x.1.2), x.2)
    let q := withRbar u m epoch rest r.2
    ((({ e with rbar := r.1.1 }) :: q.1.1, r.1.2 || q.1.2), q.2)

/-! ## UPD_APPLY (R271) -/

def applyRanges (w : DWords) (lo hi : Nat) (es : List UpdEntry) : List (Nat × Nat × Bool) :=
  [(uW w + 4 * lo, 4 * (hi - lo), false), (uStage w, 4 * (hi - lo), true), (uEpoch w, 32, false), (uEpoch w, 32, true)]
    ++ es.flatMap fun e => let n := e.layout.2.2
      [(e.state0, n, false), (e.state0, n, true), (e.state1, n, false), (e.state1, n, true)]

/-- Does any state copy lie in attach-host memory? -/
def stateAttached (es : List UpdEntry) (m : UpdMaps) : Bool :=
  es.any fun e => [e.state0, e.state1].any fun va => (m.at_ va e.layout.2.2).any fun g => regionOf g.1 == .aperture

/-- A started UPD_APPLY arms its engine, or ends. Blocked by an invalidation, it goes on when that ends. -/
def armApply (q n : Nat) (s : State) : State :=
  match s.prog q n with
  | none => s
  | some p =>
    let w := p.w
    let code := (s.queue q).code
    let u := code - 0x42
    let fail (st : BitVec 16) (s : State) : State := finishQueue q (endProg q n st 0 s)
    match s.group (uGroup w) with
    | none => queueHalt q qcIllegal (fail stQueueHalted s)
    | some g =>
      let sh := shardOf 1 (uCount w) g.members.length g.self
      match translateAll code (uTable w) (128 * uEntries w) false s with
      | (_, some .blocked, _) => s
      | (_, some o, s1) => fail o.status s1
      | (segs, none, s1) =>
        let (bs, s2) := readSegs code false false segs s1
        if bs.any Prod.snd then fail stPoisoned s2
        else
          let es := (chunk 128 (uEntries w) (bs.map Prod.fst)).map entryOf
          if !(es.all fun e => e.ok sh.1 sh.2) || !entriesApart es then queueHalt q qcIllegal (fail stQueueHalted s2)
          else
            let ranges := applyRanges w sh.1 sh.2 es
            match translateEach code ranges s2 with
            | (some .blocked, _, _) => s
            | (some o, _, s3) => fail o.status s3
            | (none, maps, s3) =>
              let (ep, s5) := updRead u maps (uEpoch w) 8 s3
              let (rb, s6) := withRbar u maps ep.1 es s5
              if ep.2 || rb.2 then fail stPoisoned s6
              else
                let a : Armed := {
                  id := ⟨q, n⟩, group := uGroup w, count := uCount w, wVa := uW w, stageVa := uStage w
                  epochVa := uEpoch w, limit := uLimit w, stallUs := if uStall w = 0 then 2000 else uStall w
                  epoch := w64 ep.1, entries := rb.1, lo := sh.1, hi := sh.2, pos := 0, slowTo := 0, fastTo := 0
                  maps := maps, paired := none
                  nonfinite := 0, absurd := 0, bad := false, gs := [], vs := [], attach := stateAttached es maps }
                let s7 := ((uTable w, 128 * uEntries w, false) :: ranges).foldl
                  (fun s r => notePages ⟨q, n⟩ r.1 r.2.1 s) s6
                settleSink u (s7.modUpd u fun x => { x with armed := some a })

/-- UPD_APPLY (R271): starts once its engine holds no armed update. -/
def execUpdApply (q : QueueId) (s : State) : Host.Outcome State Fault Refusal :=
  if !powered s then .next s else
  let code := (s.queue q.val).code
  .next (if engKind code = .update ∧ (s.upd1 (code - 0x42)).armed.isNone then
      match startDesc q.val opUpdApply s with
      | (some (n, true), s1) => armApply q.val n s1
      | (_, s1) => s1
    else s)

/-! ## One gradient (R274-R276) -/

/-- What the computation of an element gives: gs, m, v, wn. -/
structure ElemOut where
  gs : Nat
  m : Nat
  v : Nat
  wn : Nat

/-- update_element of R274, with prior_v given. -/
def updateElement (e : UpdEntry) (g w m vp : Nat) : ElemOut :=
  let gs := mul32 e.gscale g
  if e.opt = 0 then
    let m' := fma32 e.beta1 m gs
    ⟨gs, m', 0, fma32 (neg32 e.lr) m' (mul32 e.decay w)⟩
  else
    let m' := fma32 e.beta1 m (mul32 e.omb1 gs)
    let v := fma32 e.beta2 vp (mul32 e.omb2 (mul32 gs gs))
    let step := div32 (mul32 m' e.c1) (add32 (sqrt32 (mul32 v e.c2)) e.eps)
    ⟨gs, m', v, fma32 (neg32 e.lr) step (mul32 e.decay w)⟩

/-- prior_v of element k of an entry, from state copy `base`, with the poison of what it read. -/
def priorV (u : Nat) (mp : UpdMaps) (e : UpdEntry) (base k : Nat) (s : State) : (Nat × Bool) × State :=
  let l := e.layout
  if e.opt = 0 then ((0, false), s)
  else if e.opt = 2 then
    let (q, s1) := updRead u mp (base + l.1 + k) 1 s
    let (sc, s2) := updRead u mp (base + l.2.1 + 4 * (k / 128)) 4 s1
    let t := div32 (int32f q.1) (int32f 255)
    ((mul32 sc.1 (mul32 t t), q.2 || sc.2), s2)
  else if e.cols = 0 then updRead u mp (base + l.1 + 4 * k) 4 s
  else
    let (r, s1) := updRead u mp (base + l.1 + 4 * (k / e.cols)) 4 s
    let (c, s2) := updRead u mp (base + l.2.1 + 4 * (k % e.cols)) 4 s1
    ((if (r32 e.rbar).isZero then 0 else div32 (mul32 r.1 c.1) e.rbar, r.2 || c.2), s2)

/-- The exact sum of gs × gs over the elements an index function picks, rounded once (R275); a NaN among them gives
the canonical NaN. -/
def squareSum (gs : List Nat) (n : Nat) (at_ : Nat → Nat) : Nat :=
  (exactSum .fp32 .rne ((List.range n).map fun i => let g := r32 (gs.getD (at_ i) 0); if g.isNan then g else mulExact g g)).1

/-- R′ and C′ at the end of a factored entry. -/
def factorsEnd (u : Nat) (mp : UpdMaps) (id : DescId) (e : UpdEntry) (epoch : Nat) (gs : List Nat) (s : State) : State :=
  let l := e.layout
  let old := e.copy epoch
  let new := e.copy (epoch + 1)
  let s1 := (List.range e.rows).foldl (fun s r =>
    let (x, s1) := updRead u mp (old + l.1 + 4 * r) 4 s
    let sum := squareSum gs e.cols fun c => r * e.cols + c
    updWrite u mp id (new + l.1 + 4 * r) 4 (fma32 e.beta2 x.1 (mul32 e.omb2 (div32 sum (int32f e.cols)))) s1) s
  (List.range e.cols).foldl (fun s c =>
    let (x, s1) := updRead u mp (old + l.2.1 + 4 * c) 4 s
    let sum := squareSum gs e.rows fun r => r * e.cols + c
    updWrite u mp id (new + l.2.1 + 4 * c) 4 (fma32 e.beta2 x.1 (mul32 e.omb2 (div32 sum (int32f e.rows)))) s1) s1

/-- The code of one v of a block with scale sc; none where the rule gives no number (log 34). -/
def q8Code (v sc : Nat) : Option Nat :=
  if (r32 sc).isZero then some 0
  else
    let x := mul32 (int32f 255) (sqrt32 (div32 v sc))
    match r32 x with
    | .nan _ => none
    | .inf s => some (if s then 0 else 255)
    | .zero _ => some 0
    | .fin s m ex =>
      let (k, _) := roundToInt .rne s m ex
      some (if s then 0 else min k 255)

/-- Codes and scale of a block of 128 (R275); block number b of the entry. -/
def blockEnd (u : Nat) (mp : UpdMaps) (id : DescId) (e : UpdEntry) (epoch b : Nat) (vs : List Nat) (s : State) : State :=
  let l := e.layout
  let new := e.copy (epoch + 1)
  let sc := vs.tail.foldl (fun a v => (minmaxF .fp32 true false (r32 a) (r32 v)).1) (vs.headD 0)
  let s1 := updWrite u mp id (new + l.2.1 + 4 * b) 4 sc s
  ((List.range vs.length).zip vs).foldl (fun s x =>
    match q8Code x.2 sc with
    | some c => updWrite u mp id (new + l.1 + 128 * b + x.1) 1 c s
    | none => let f := freshByte s; updWrite u mp id (new + l.1 + 128 * b + x.1) 1 f.1.toNat f.2) s1

/-- |gs| > ABSURD_LIMIT. -/
def overLimit (gs limit : Nat) : Bool := ltF (r32 limit) (r32 (gs % 0x80000000))

/-- The stage word (Table 12-7). -/
def stageWord (stage : Nat) (bad : Bool) (epoch : W64) : Nat :=
  stage * 2 ^ 62 + b2n bad * 2 ^ 61 + epoch.toNat % 2 ^ 61

/-- What an element's update reads: weight, m and prior_v (the last two only of a covered element), and whether any of it
is poisoned. -/
def elementInputs (u : Nat) (a : Armed) (e : Option UpdEntry) (j : Nat) (s : State) :
    ((Nat × Nat × Nat) × Bool) × State :=
  let (w, s1) := updRead u a.maps (a.wVa + 4 * j) 4 s
  match e with
  | none => (((w.1, 0, 0), w.2), s1)
  | some e =>
    let base := e.copy a.epoch.toNat
    let (m, s2) := updRead u a.maps (base + 4 * (j - e.start)) 4 s1
    let (vp, s3) := priorV u a.maps e base (j - e.start) s2
    (((w.1, m.1, vp.1), w.2 || m.2 || vp.2), s3)

/-- An accepted gradient that an entry covers: the entry's state and the staged weight are written. -/
def coveredElement (u : Nat) (a : Armed) (e : UpdEntry) (g w m vp j : Nat) (s : State) : Armed × State :=
  let k := j - e.start
  let ep := a.epoch.toNat
  let o := updateElement e g w m vp
  let new := e.copy (ep + 1)
  let s3 := updWrite u a.maps a.id (new + 4 * k) 4 o.m s
  let s4 := if e.opt = 1 ∧ e.cols = 0 then updWrite u a.maps a.id (new + e.layout.1 + 4 * k) 4 o.v s3 else s3
  let s5 := updWrite u a.maps a.id (a.stageVa + 4 * (j - a.lo)) 4 o.wn s4
  let last := decide (k + 1 = e.elems)
  let gs := if e.cols = 0 then [] else (if k = 0 then [] else a.gs) ++ [o.gs]
  let vs := if e.opt = 2 then (if k % 128 = 0 then [] else a.vs) ++ [o.v] else []
  let s6 := if last && e.cols != 0 then factorsEnd u a.maps a.id e ep gs s5 else s5
  let s7 := if e.opt = 2 ∧ (last ∨ k % 128 = 127) then blockEnd u a.maps a.id e ep (k / 128) vs s6 else s6
  let nonfin := !(finite32 o.gs && finite32 o.m && finite32 o.v && finite32 o.wn)
  let absurd := finite32 o.gs && overLimit o.gs a.limit
  ({ a with
    gs := gs, vs := vs
    nonfinite := if nonfin then min (a.nonfinite + 1) 0xFFFFFF else a.nonfinite
    absurd := if absurd then min (a.absurd + 1) 0xFFFFFF else a.absurd
    bad := a.bad || nonfin || overLimit o.gs a.limit }, s7)

/-- The entry that covers element j. -/
def Armed.entryAt (a : Armed) (j : Nat) : Option UpdEntry :=
  a.entries.find? fun e => decide (e.start ≤ j) && decide (j < e.start + e.elems)

/-- The gradient of the next element is accepted; none when state or weight is read poisoned, which writes nothing.
The first one accepted makes the stage word WRITING (R277, R284). -/
def acceptGradient (u : Nat) (a : Armed) (g : Nat) (s : State) : Option Armed × State :=
  let j := a.lo + a.pos
  let e := a.entryAt j
  let (x, s1) := elementInputs u a e j s
  if x.2 then (none, s1)
  else
    let s2 := if a.pos = 0 then updWrite u a.maps a.id (a.epochVa + 8) 8 (stageWord 1 false (a.epoch + 1)) s1 else s1
    let r : Armed × State := match e with
      | some e => coveredElement u a e g x.1.1 x.1.2.1 x.1.2.2 j s2
      | none => (a, updWrite u a.maps a.id (a.stageVa + 4 * (j - a.lo)) 4 x.1.1 s2)
    (some { r.1 with pos := a.pos + 1 }, count (updCtr u 0x108) 1 r.2)

/-- A gradient widened to FP32 (R270). -/
def widen (ty bits : Nat) : Nat := if ty = 1 then bits else (cvtF .fp32 .rne (decodeF (typeFmt ty) bits)).1

/-! ## The state buffer (R281) -/

/-- Bytes the first k elements of an entry take in the buffer: state of one copy, and live weights. -/
def UpdEntry.buffered (e : UpdEntry) (k : Nat) : Nat :=
  if e.opt = 0 then 8 * k
  else if e.opt = 2 then 9 * k + 4 * ((k + 127) / 128)
  else if e.cols = 0 then 12 * k
  else 8 * k + 4 * ((k + e.cols - 1) / e.cols) + 4 * min k e.cols

/-- Bytes in the buffer of the elements p .. q-1 of the shard that SLOW entries cover, or of all others. -/
def Armed.span (a : Armed) (slow : Bool) (p q : Nat) : Nat :=
  let cut (e : UpdEntry) (x : Nat) : Nat := min (a.lo + x - e.start) e.elems
  let covered := (a.entries.map fun e => cut e q - cut e p).sum
  ((a.entries.filter fun e => e.slow == slow).map fun e => e.buffered (cut e q) - e.buffered (cut e p)).sum
    + if slow then 0 else 4 * (q - p - covered)

/-- Bytes of the buffer for SLOW entries, and for the others. -/
def bufferBytes (slow : Bool) : Nat := if slow then 24 * 2 ^ 20 else 8 * 2 ^ 20

/-- State and weights have arrived as far as `upto`, of the elements whose part of the buffer has room for all that
is not yet consumed (log 111). -/
def Armed.arrive (a : Armed) (upto : Nat) : Armed :=
  let q := min upto (a.hi - a.lo)
  let fits (slow : Bool) : Bool := decide (a.span slow a.pos q ≤ bufferBytes slow)
  { a with
    slowTo := if fits true then max a.slowTo q else a.slowTo
    fastTo := if fits false then max a.fastTo q else a.fastTo }

/-- The next element's state and weight are in the buffer. -/
def Armed.present (a : Armed) : Bool :=
  match a.entryAt (a.lo + a.pos) with
  | some e => decide (a.pos < if e.slow then a.slowTo else a.fastTo)
  | none => decide (a.pos < a.fastTo)

/-! ## Gradients arrive -/

/-- GRADIENT_DELIVERY (R273, R274, R282): the next final reduced value of the shard reaches the update engine, which
accepts it or stalls. -/
def gradient (u : Nat) (bits : Nat) (s : State) : State :=
  match (s.upd1 u).armed with
  | none => s
  | some a =>
    match s.coll.runs.find? fun r => a.paired == some r.id && r.phase == .data with
    | none => s
    | some r =>
      match s.group r.group with
      | none => s
      | some g =>
        let j := a.lo + a.pos
        if a.hi ≤ j ∨ !dataComplete r ∨ (r.acc.getD j (0, 0)).1 ≠ bits then s
        else if !a.present then beginStall u r.id s
        else
          match acceptGradient u a (widen r.ty bits) s with
          | (none, s1) => startNext r.group (endEarly r stPoisoned g.self .poisoned s1)
          | (some a', s1) =>
            modRun r.id (fun r => { r with fed := r.fed + 1 }) (s1.modUpd u fun x => { x with armed := some a' })

def execGradientDelivery (u : EngId) (bits : BitVec 32) (s : State) : Host.Outcome State Fault Refusal :=
  .next (clocked (gradient u.val bits.toNat) s)

/-- STATE_ARRIVAL (R281, R282): fetched state and weights have arrived; a stall that waited for them ends. -/
def execStateArrival (u : EngId) (upto : Nat) (s : State) : Host.Outcome State Fault Refusal :=
  if !powered s then .next s else
  .next (match (s.upd1 u.val).armed with
    | none => s
    | some a =>
      let a1 := a.arrive upto
      let s1 := s.modUpd u.val fun x => { x with armed := some a1 }
      if a.paired.isSome ∧ (s.upd1 u.val).stalledBy = a.paired ∧ a1.present then endStall u.val s1 else s1)

/-- The bound of an engine's stall, in us: its APPLY's, or the default while none is armed (R282). -/
def stallBound (x : UpdState) : Nat := match x.armed with | some a => a.stallUs | none => 2000

/-- STALL_BOUND_EXPIRY (R282): the stall has lasted its bound; the reduce-scatter that waits ends. -/
def execStallBoundExpiry (u : EngId) (s : State) : Host.Outcome State Fault Refusal :=
  if !powered s then .next s else
  let x := s.upd1 u.val
  .next (match x.stall, x.stalledBy.bind s.runOf with
    | some t, some r =>
      if t + stallBound x * 1000 ≤ s.now then
        startNext r.group
          (endEarly r stStateLate (match s.group r.group with | some g => g.self | none => 0) .stateLate s)
      else s
    | _, _ => s)

/-- APPLY_STAGED (R277): the whole shard is staged and visible; STAGED is written and the APPLY ends. Where its state
could not reach ATTACH (15 R331), STAGED is not written (log 65). -/
def applyStaged (u : Nat) (s : State) : State :=
  match (s.upd1 u).armed with
  | none => s
  | some a =>
    match s.prog a.id.q a.id.n with
    | none => s
    | some p =>
      if a.paired.isNone ∨ a.lo + a.pos < a.hi ∨ !tagClear (.desc a.id) s then s
      else if a.attach ∧ !p.flushed then startFlush a.id.q p s
      else if p.flush ≠ [] then s
      else
        let s1 := if a.attach ∧ p.flushFail then s
          else updWrite u a.maps a.id (a.epochVa + 8) 8 (stageWord 2 a.bad (a.epoch + 1)) s
        let s2 := count (updCtr u 0x100) 1 s1
        let s3 := if a.bad then count (updCtr u 0x110) 1 s2 else s2
        settleSink u (endApply u a stDone s3)

def execApplyStaged (u : EngId) (s : State) : Host.Outcome State Fault Refusal := .next (clocked (applyStaged u.val) s)

/-! ## UPD_COMMIT (R278) -/

def stSkipped : BitVec 16 := 0xA301
def stEpochMismatch : BitVec 16 := 0xA303

/-- Table 12-8: status, the write (offset, bytes, value) if any, and the EPOCH word afterwards. -/
def commitOutcome (flag expect : W64) (epoch word1 skips : Nat) :
    BitVec 16 × Option (Nat × Nat × Nat) × Nat :=
  let next := (expect + 1).toNat
  let stage := word1 / 2 ^ 62
  let bad := word1 / 2 ^ 61 % 2
  if flag = 0 ∧ epoch = expect.toNat ∧ stage = 2 ∧ word1 % 2 ^ 61 = next % 2 ^ 61 ∧ bad = 0 then
    (stDone, some (0, 8, next), next)
  else if flag = 0 ∧ epoch = next then (stDone, none, epoch)
  else if flag ≠ 0 ∧ epoch = expect.toNat then
    (stSkipped, some (8, 16, word1 % 2 ^ 62 + min (skips + 1) (2 ^ 64 - 1) * 2 ^ 64), epoch)
  else (stEpochMismatch, none, epoch)

/-- A started UPD_COMMIT reads the block once, decides, and makes at most one write. -/
def runCommit (q n : Nat) (s : State) : State :=
  match s.prog q n with
  | none => s
  | some p =>
    let code := (s.queue q).code
    let u := code - 0x42
    let va := dSrc p.w
    match vaRead code va 32 false false s with
    | (.error .blocked, _) => s
    | (.error o, s1) => finishQueue q (endFree q n o.status s1)
    | (.ok bs, s1) =>
      if bs.any Prod.snd then finishQueue q (endFree q n stPoisoned s1)
      else
        let b := bs.map Prod.fst
        let r := commitOutcome (wordAt p.w 4) (wordAt p.w 3) (leAt b 0 8) (leAt b 8 8) (leAt b 16 8)
        match r.2.1 with
        | none => finishQueue q (endProg q n r.1 (w64 r.2.2) s1)
        | some (off, len, v) =>
          match vaWrite code (va + off) ((leBytes len v).map fun b => (b, false)) false (.desc ⟨q, n⟩) s1 with
          | (some .blocked, _) => s
          | (some o, s2) => finishQueue q (endProg q n o.status (w64 (leAt b 0 8)) s2)
          | (none, s2) =>
            let s3 := count (updCtr u (if r.1 = stDone then 0x130 else 0x138)) 1 s2
            finishQueue q (endProg q n r.1 (w64 r.2.2) s3)

/-- UPD_COMMIT (R278). -/
def execUpdCommit (q : QueueId) (s : State) : Host.Outcome State Fault Refusal :=
  if !powered s then .next s else
  .next (match startDesc q.val opUpdCommit s with
    | (some (n, true), s1) => runCommit q.val n s1
    | (_, s1) => s1)

/-- UPD_COUNTER_CLEAR (R286). -/
def execUpdCounterClear (u : EngId) (v : W64) (s : State) : Host.Outcome State Fault Refusal :=
  if !powered s then .next s else
  .next (if bitOf v 0 then clearCounters (updCtr u.val 0x100) (updCtr u.val 0x200) s else s)

end Sys2Proof.Machine
end

