-- ==== Sys2Proof/Machine/Sequence.lean ====
section
/-! DEFINITION. The sequence engines (spec 13): slots, gathers and puts through block tables, sampling and
the token ring. -/

namespace Sys2Proof.Machine

def stSlotState : BitVec 16 := 0xA701

def State.seq (s : State) (h : Nat) : SeqState := Sparse.get {} s.seqs h
def State.modSeq (s : State) (h : Nat) (f : SeqState → SeqState) : State :=
  { s with seqs := Sparse.set {} s.seqs h (f (s.seq h)) }

def seqCtr (h off : Nat) : Nat := debugBase (codeSeq h) false + off
def tokenCount (h : Nat) : Nat := seqCtr h 0x800
def gatherBytes (h : Nat) : Nat := seqCtr h 0x808
def putBytes (h : Nat) : Nat := seqCtr h 0x810
def ringWaitNs (h : Nat) : Nat := seqCtr h 0x818

def evSeqNan : Nat := 0
def evSeqEmpty : Nat := 1
def evSeqRing : Nat := 2

/-- Slot j (0-127) of engine h. -/
def State.slot (s : State) (h j : Nat) : SlotSt := Sparse.get {} (s.seq h).slots j
def State.modSlot (s : State) (h j : Nat) (f : SlotSt → SlotSt) : State :=
  s.modSeq h fun x => { x with slots := Sparse.set {} x.slots j (f (Sparse.get {} x.slots j)) }

def modSeqRun (h : Nat) (id : DescId) (f : SeqRun → SeqRun) (s : State) : State :=
  s.modSeq h fun x => { x with live := x.live.map fun r => if r.id = id then f r else r }

/-- The SEQ engine of a queue. -/
def seqOf (s : State) (q : Nat) : Nat := (s.queue q).code - 0x44

/-! ## Which slots a descriptor names, and when it may start (R288, R293) -/

/-- Global slots a descriptor names. None when an invalidation holds its list back. -/
def namedSlots (h q : Nat) (w : DWords) (s : State) : Option (Except (BitVec 16) (List Nat)) × State :=
  if dOpcode w = opSlotOpen ∨ dOpcode w = opSlotClose then (some (.ok [128 * h + sSlot w]), s)
  else
    match vaRead (s.queue q).code (dSrc w) (2 * sSlot w) (dStreaming w) (dNoRemote w) s with
    | (.error .blocked, _) => (none, s)
    | (.error o, s1) => (some (.error o.status), s1)
    | (.ok bs, s1) =>
      if bs.any Prod.snd then (some (.error stPoisoned), s1)
      else (some (.ok ((chunk 2 (sSlot w) (bs.map Prod.fst)).map leNat)), s1)

/-- Descriptors whose final records are still to come. -/
def seqLive (h : Nat) (s : State) : List SeqRun := (s.seq h).live.filter fun r => (s.prog r.id.q r.id.n).isSome

/-- A started descriptor names one of the slots; two gathers do not exclude each other. -/
def slotConflict (h op : Nat) (slots : List Nat) (s : State) : Bool :=
  (seqLive h s).any fun r => !(op == opKvGather && r.op == opKvGather) && r.slots.any slots.contains

/-! ## Ends -/

/-- A descriptor ends with a stated or a free RESULT. -/
def endSeq (q n : Nat) (st : BitVec 16) (result : Option W64) (s : State) : State :=
  finishQueue q (match result with
    | some r => endProg q n st r s
    | none => endFree q n st s)

/-- A malformed descriptor found after it was read (R226). -/
def seqMalformed (q n : Nat) (result : Option W64) (s : State) : State :=
  queueHalt q qcIllegal (endSeq q n stQueueHalted result s)

/-! ## SLOT_OPEN and SLOT_CLOSE (R288) -/

def openSlot (w : DWords) : SlotSt where
  mode := .open
  pos := fieldAt w 5 0 32
  table := dSrc w
  capacity := fieldAt w 3 0 15
  stream := BitVec.ofNat 32 (fieldAt w 3 32 32)
  seed := wordAt w 4
  maxPos := fieldAt w 5 32 32
  stops := [BitVec.ofNat 20 (fieldAt w 6 0 20), BitVec.ofNat 20 (fieldAt w 6 20 20),
    BitVec.ofNat 20 (fieldAt w 6 40 20), BitVec.ofNat 20 (fieldAt w 7 0 20)]
  stopEn := BitVec.ofNat 4 (fieldAt w 7 20 4)

def runOpen (h q n : Nat) (w : DWords) (s : State) : State :=
  let j := sSlot w
  if (s.slot h j).mode = .free then endSeq q n stDone none (s.modSlot h j fun _ => openSlot w)
  else endSeq q n stSlotState none s

def runClose (h q n : Nat) (w : DWords) (s : State) : State :=
  let j := sSlot w
  let x := s.slot h j
  if x.mode = .free then endSeq q n stSlotState none s
  else endSeq q n stDone (some (w64 x.pos)) (s.modSlot h j fun x => { x with mode := .free })

/-! ## Gather and put (R289-R292) -/

/-- The block table entry of a slot's block, read once (R290). None: held back by an invalidation. -/
def blockEntry (h : Nat) (id : DescId) (j blk : Nat) (s : State) : Option (Except (BitVec 16) W64) × State :=
  match ((s.seq h).live.find? fun r => r.id == id).bind fun r => r.ents.find? fun e => e.1 == j && e.2.1 == blk with
  | some e => (some (.ok e.2.2), s)
  | none =>
    let va := (s.slot h j).table + 8 * blk
    match vaRead (s.queue id.q).code va 8 false false s with
    | (.error .blocked, _) => (none, s)
    | (.error o, s1) => (some (.error o.status), s1)
    | (.ok bs, s1) =>
      let v := markedNat bs
      if v.2 then (some (.error stPoisoned), s1)
      else (some (.ok (w64 v.1)), modSeqRun h id (fun r => { r with ents := r.ents ++ [(j, blk, w64 v.1)] })
        (notePages id va 8 s1))

/-- Memory side of a gather or put: read or written by virtual address, or in a tile store. -/
def memRead (q : Nat) (w : DWords) (a n : Nat) (s : State) : Except XOut (List (Byte × Bool)) × State :=
  let code := (s.queue q).code
  if sKind w = 1 then
    let r := physRead code (storeBase + fieldAt w 3 56 4 * 0x2000000 + a) n (dStreaming w) (dNoRemote w) s
    (.ok r.1, r.2)
  else vaRead code (va52 a) n (dStreaming w) (dNoRemote w) s

def memWrite (id : DescId) (w : DWords) (a : Nat) (bs : List (Byte × Bool)) (s : State) : Option XOut × State :=
  let code := (s.queue id.q).code
  if sKind w = 1 then
    (none, physWrite code (storeBase + fieldAt w 3 56 4 * 0x2000000 + a) bs (dStreaming w) (.desc id) s)
  else vaWrite code (va52 a) bs (dStreaming w) (.desc id) s

/-- How a part of a transfer went on. -/
inductive Moved where
  | ok | failed (st : BitVec 16) | blocked
  deriving DecidableEq, Repr

/-- One piece of a row: n bytes at logical offset o of slot j, and at memory offset a. -/
def movePiece (h : Nat) (id : DescId) (w : DWords) (j o a n : Nat) (s : State) : Moved × State :=
  match blockEntry h id j (o / 65536) s with
  | (none, s1) => (.blocked, s1)
  | (some (.error st), s1) => (.failed st, s1)
  | (some (.ok e), s1) =>
    if !bitOf e 0 then (.failed stPermission, s1)
    else
      let va := fieldOf e 16 36 * 65536 + o % 65536
      let gather := dOpcode w == opKvGather
      let rd := if gather then vaRead (s.queue id.q).code va n (dStreaming w) (dNoRemote w) s1 else memRead id.q w a n s1
      match rd with
      | (.error .blocked, _) => (.blocked, s1)
      | (.error x, s2) => (.failed x.status, s2)
      | (.ok bs, s2) =>
        match (if gather then memWrite id w a bs s2 else vaWrite (s.queue id.q).code va bs (dStreaming w) (.desc id) s2) with
        | (some .blocked, _) => (.blocked, s1)
        | (some x, s3) => (.failed x.status, s3)
        | (none, s3) =>
          let s4 := notePages id va n (if sKind w = 1 then s3 else notePages id (va52 a) n s3)
          let s5 := modSeqRun h id (fun r => { r with part := r.part + n, poisoned := r.poisoned || bs.any Prod.snd }) s4
          (.ok, count (if gather then gatherBytes h else putBytes h) n s5)

/-- A row, block by block. -/
def moveRow (h : Nat) (id : DescId) (w : DWords) (j : Nat) : Nat → Nat → Nat → Nat → State → Moved × State
  | 0, _, _, _, s => (.ok, s)
  | fuel + 1, o, a, n, s =>
    if n = 0 then (.ok, s)
    else
      let k := min n (65536 - o % 65536)
      match movePiece h id w j o a k s with
      | (.ok, s1) => moveRow h id w j fuel (o + k) (a + k) (n - k) s1
      | r => r

/-- Rows from number k on, each (list position, row) in order; the first from where an invalidation held it. -/
def moveRows (h : Nat) (id : DescId) (w : DWords) (slots : List Nat) : Nat → Nat → State → Moved × State
  | 0, _, s => (.ok, s)
  | fuel + 1, k, s =>
    let j := slots.getD (k / sRows w) 0 % 128
    let d := match (s.seq h).live.find? fun r => r.id == id with | some r => r.part | none => 0
    match moveRow h id w j 3 (sOffset w + k % sRows w * sStride w + d) (sMem w + k * sRowBytes w + d) (sRowBytes w - d) s with
    | (.ok, s1) => moveRows h id w slots fuel (k + 1) (modSeqRun h id (fun r => { r with at_ := k + 1, part := 0 }) s1)
    | r => r

/-- A gather or put completes, whatever its status: once its data is visible it increments its semaphore, and then
ends (R292, Table 13-5). -/
def landSeq (h : Nat) (id : DescId) (w : DWords) (st : BitVec 16) (s : State) : State :=
  if !tagClear (.desc id) s then modSeqRun h id (fun r => { r with landing := some st }) s
  else
    let n := fieldAt w 3 56 4
    let e : StreamEng := if bitOf (wordAt w 3) 60 then .vec (Fin.ofNat 16 n) else .arr (Fin.ofNat 16 n)
    let s1 := if bitOf (wordAt w 3) 61 then incSem e (fieldAt w 3 53 3) .ext s else s
    endSeq id.q id.n st none (modSeqRun h id (fun r => { r with landing := none }) s1)

/-- The last logical byte of a descriptor's rows lies below the slot's capacity (R291). -/
def rowsFit (w : DWords) (capacity : Nat) : Bool :=
  decide (sOffset w + (sRows w - 1) * sStride w + sRowBytes w ≤ capacity * 65536)

def runKv (h : Nat) (r : SeqRun) (w : DWords) (s : State) : State :=
  let q := r.id.q
  let n := r.id.n
  let states := r.slots.map fun g => (s.slot h (g % 128)).mode
  let allowed := if r.op = opKvPut then states.all (· == .open) else states.all (· != .free)
  if r.at_ = 0 ∧ !(r.slots.all fun g => g / 128 == h) then seqMalformed q n none s
  else if r.at_ = 0 ∧ !allowed then landSeq h r.id w stSlotState s
  else if r.at_ = 0 ∧ !(r.slots.all fun g => rowsFit w (s.slot h (g % 128)).capacity) then seqMalformed q n none s
  else
    match moveRows h r.id w r.slots (r.slots.length * sRows w - r.at_) r.at_ s with
    | (.blocked, s1) => s1
    | (.failed st, s1) => landSeq h r.id w st s1
    | (.ok, s1) =>
      let bad := match (s1.seq h).live.find? fun x => x.id == r.id with | some x => x.poisoned | none => false
      landSeq h r.id w (if bad then stPoisoned else stDone) s1

/-! ## Choosing a token (R294) -/

/-- 2^d for an FP32 d at most 0, correctly rounded to FP32 under roundTiesToEven; none for a NaN. -/
def exp2Rn (d : Nat) : Option Nat :=
  match decodeF .fp32 d with
  | .nan _ => none
  | .inf _ => some 0
  | .zero _ => some 0x3F800000
  | .fin _ m e =>
    if 8 ≤ (m.log2 : Int) + e then some 0
    else if (m.log2 : Int) + e < -27 then some 0x3F800000
    else
      -- d = -m·2^e; floor and 64 fraction bits
      let v : Int := if 0 ≤ e + 64 then -((m * 2 ^ (e + 64).toNat : Nat) : Int) else -((m / 2 ^ (-(e + 64)).toNat : Nat) : Int)
      let n := v / 2 ^ 64
      let g := (v % 2 ^ 64).toNat
      let c := exp2Frac 64 g (rootStep (2 ^ 129)) (2 ^ 128)
      some (roundIeee .fp32 .rne false c 1 (n - 128)).1

/-- A non-negative finite FP32 value in units of 2^-149. -/
def units149 (b : Nat) : Nat :=
  match decodeF .fp32 b with
  | .fin _ m e => m * 2 ^ (e + 149).toNat
  | _ => 0

/-- The k first of an order by value descending, lower tokens first among equals: tokens and values. -/
def insertTop (k t x : Nat) (l : List (Nat × Nat)) : List (Nat × Nat) :=
  let (front, back) := l.span fun e => !ltF (r32 e.2) (r32 x)
  (front ++ (t, x) :: back).take k

def topCandidates (k : Nat) (l : List (Nat × Nat)) : List (Nat × Nat) :=
  l.foldl (fun acc e => insertTop k e.1 e.2 acc) []

/-- Prefix sums. -/
def prefixSums (acc : Nat) : List Nat → List Nat
  | [] => []
  | w :: ws => (acc + w) :: prefixSums (acc + w) ws

/-- Smallest i below the length with p i. -/
def firstIdx (p : Nat → Bool) (n : Nat) : Option Nat := (List.range n).find? p

/-- The candidate that u selects among weights, under nucleus probability p (FP32 bits). -/
def pickToken (cand : List Nat) (w : List Nat) (p : Nat) (u : Nat) : Option Nat :=
  let pf := prefixSums 0 w
  let last := pf.getLastD 0
  let reach (i : Nat) : Bool := match decodeF .fp32 p with
    | .fin _ m e => if e ≤ 0 then decide (m * last ≤ pf.getD i 0 * 2 ^ (-e).toNat) else decide (m * 2 ^ e.toNat * last ≤ pf.getD i 0)
    | _ => true
  let n := match firstIdx reach pf.length with | some i => i + 1 | none => pf.length
  let base := pf.getD (n - 1) 0
  (firstIdx (fun i => decide (u * base < pf.getD i 0 * 2 ^ 32)) n).bind fun i => cand[i]?

/-- The token of a row of logits; a weight the rule gives no value, and a choice it then leaves open, are
free (log 36). -/
def selectToken (l : List Nat) (w : DWords) (x : SlotSt) (s : State) : Option Nat × State :=
  let k := if sTopK w = 0 then 256 else sTopK w
  let valid := ((List.range l.length).zip l).filter fun e => !(r32 e.2).isNan && e.2 != 0xFF800000
  if valid = [] then (none, s)
  else if sMode w = 0 then ((topCandidates 1 valid).head?.map Prod.fst, s)
  else
    let xs := valid.map fun e => (e.1, mul32 e.2 (sInvTemp w))
    let infs := xs.filter fun e => e.2 == 0x7F800000
    let cand := if infs = [] then topCandidates k xs else infs.take k
    let x0 := match cand with | e :: _ => e.2 | [] => 0
    let u := (noise x.seed x.stream (w64 x.pos)).toNat
    let weight (e : Nat × Nat) (s : State) : Nat × State :=
      if infs ≠ [] then (units149 one32, s)
      else match exp2Rn (sub32 e.2 x0) with
        | some b => (units149 b, s)
        | none => let r := freshWord s; (r.1.toNat, r.2)
    let (ws, s1) := cand.foldl (fun (acc : List Nat × State) e => let r := weight e acc.2; (acc.1 ++ [r.1], r.2)) ([], s)
    match pickToken (cand.map Prod.fst) ws (sTopP w) u with
    | some t => (some t, s1)
    | none => let r := freshWord s1; ((cand.map Prod.fst)[r.1.toNat % cand.length]?, r.2)

/-! ## Token ring (R296, R297) -/

def isStop (x : SlotSt) (t : Nat) : Bool :=
  ((List.range 4).zip x.stops).any fun e => x.stopEn.getLsbD e.1 && e.2.toNat == t

def ringFull (x : SeqState) : Bool :=
  let n := 2 ^ x.log2
  (x.tail + 2 * n - x.head % (2 * n)) % (2 * n) == n

def tokenWord (t : Option Nat) : Nat := t.getD (2 ^ 32 - 1)

/-- The record of a token, without its PHASE: two words. -/
def tokenRecord (g tag : Nat) (k : SeqToken) (x : SlotSt) : Nat × Nat :=
  let chosen := k.token.isSome
  let stop := match k.token with | some t => isStop x t | none => false
  (b2n k.skipped * 2 ^ 44 + b2n (!chosen && !k.skipped) * 2 ^ 43 + b2n k.nan * 2 ^ 42
    + b2n (chosen && x.pos + 1 == x.maxPos) * 2 ^ 41 + b2n stop * 2 ^ 40 + g % 256 * 2 ^ 32 + tokenWord k.token,
   tag * 2 ^ 32 + x.pos % 2 ^ 32)

/-- A record goes to the ring; answers what stopped its write. -/
def writeToken (h : Nat) (id : DescId) (r : Nat × Nat) (s : State) : Option XOut × State :=
  let x := s.seq h
  let m := x.tail
  let n := 2 ^ x.log2
  let phase := 1 - m / n % 2
  match vaWrite (s.queue id.q).code (x.ringBase + 16 * (m % n))
      ((leBytes 8 (phase * 2 ^ 63 + r.1) ++ leBytes 8 r.2).map fun b => (b, false)) false (.desc id) s with
  | (none, s1) => (none, s1.modSeq h fun x => { x with tail := m + 1 })
  | (some o, s1) => (some o, s1)

/-- Steps 3 and 4 of R295. -/
def advanceSlot (h j : Nat) (k : SeqToken) (s : State) : State :=
  match k.token with
  | none => s
  | some t => s.modSlot h j fun x =>
      let p := x.pos + 1
      { x with pos := p, mode := if isStop x t || p == x.maxPos then .finished else x.mode }

/-! ## SAMPLE (R294, R295) -/

/-- The token of list position x is found and written out (R295 step 1). -/
def sampleToken (h : Nat) (id : DescId) (w : DWords) (i g : Nat) (s : State) : Except (Option (BitVec 16)) SeqToken × State :=
  let j := g % 128
  let x := s.slot h j
  let code := (s.queue id.q).code
  let put (k : SeqToken) (s : State) : Except (Option (BitVec 16)) SeqToken × State :=
    match vaWrite code (va52 (sTokenOut w + 4 * i)) ((leBytes 4 (tokenWord k.token)).map fun b => (b, false))
        (dStreaming w) (.desc id) s with
    | (some .blocked, _) => (.error none, s)
    | (some o, s1) => (.error (some o.status), s1)
    | (none, s1) => (.ok k, notePages id (va52 (sTokenOut w + 4 * i)) 4 s1)
  if x.mode = .finished then put ⟨none, false, true⟩ s
  else
    let va := va52 (sMem w + i * sRowStride w)
    match vaRead code va (4 * sVocab w) (dStreaming w) (dNoRemote w) s with
    | (.error .blocked, _) => (.error none, s)
    | (.error o, s1) => (.error (some o.status), s1)
    | (.ok bs, s1) =>
      if bs.any Prod.snd then (.error (some stPoisoned), s1)
      else
        let l := (chunk 4 (sVocab w) (bs.map Prod.fst)).map leNat
        let nan := l.any fun v => (r32 v).isNan
        let (t, s2) := selectToken l w x (notePages id va (4 * sVocab w) s1)
        let s3 := if nan then raiseEv (srcSeq h) evSeqNan s2 else s2
        put ⟨t, nan, false⟩ (if t.isNone then raiseEv (srcSeq h) evSeqEmpty s3 else s3)

/-- List positions from number i on, until the list ends or the ring is full. -/
def sampleSlots (h : Nat) (id : DescId) (w : DWords) (slots : List Nat) : Nat → Nat → State → State
  | 0, _, s => s
  | fuel + 1, i, s =>
    match (s.seq h).live.find? fun r => r.id == id with
    | none => s
    | some r =>
      let fail (st : BitVec 16) (s : State) : State := endSeq id.q id.n st (some (w64 r.chosen)) s
      if slots.length ≤ i then fail stDone s
      else
        let g := slots.getD i 0
        let found : Except (Option (BitVec 16)) SeqToken × State := match r.token with
          | some k => (.ok k, s)
          | none => sampleToken h id w i g s
        match found with
        | (.error none, _) => s
        | (.error (some st), s1) => fail st s1
        | (.ok k, s1) =>
          let x := s1.seq h
          if x.en && ringFull x then
            let s2 := modSeqRun h id (fun r => { r with token := some k, held := true }) s1
            if r.held then s2 else raiseEv (srcSeq h) evSeqRing s2
          else
            let wr : Option XOut × State :=
              if x.en then writeToken h id (tokenRecord g (dTag w) k (s1.slot h (g % 128))) s1 else (none, s1)
            match wr with
            | (some .blocked, _) => modSeqRun h id (fun r => { r with token := some k }) s1
            | (some o, s2) => fail o.status s2
            | (none, s2) =>
              let c := b2n k.token.isSome
              let s3 := modSeqRun h id (fun r => { r with
                token := none, held := false, at_ := i + 1, chosen := r.chosen + c }) (advanceSlot h (g % 128) k s2)
              sampleSlots h id w slots fuel (i + 1) (if c = 1 then count (tokenCount h) 1 s3 else s3)

def runSample (h : Nat) (r : SeqRun) (w : DWords) (s : State) : State :=
  let q := r.id.q
  let n := r.id.n
  let first := r.at_ = 0 && r.token.isNone
  if first ∧ (!(r.slots.all fun g => g / 128 == h) ∨ r.slots.eraseDups.length < r.slots.length) then
    seqMalformed q n (some 0) s
  else if first ∧ r.slots.any fun g => (s.slot h (g % 128)).mode == .free then endSeq q n stSlotState (some 0) s
  else sampleSlots h r.id w r.slots (r.slots.length + 1) r.at_ s

/-! ## Starting (R293) -/

/-- A started descriptor runs, or goes on from where it stands. -/
def runSeq (q n : Nat) (s : State) : State :=
  let h := seqOf s q
  match s.prog q n, (s.seq h).live.find? fun r => r.id == (⟨q, n⟩ : DescId) with
  | some p, some r =>
    if p.phase = .running ∧ r.landing.isNone then
      (if r.op = opSlotOpen then runOpen h q n p.w s
      else if r.op = opSlotClose then runClose h q n p.w s
      else if r.op = opSample then runSample h r p.w s
      else runKv h r p.w s)
    else s
  | _, _ => s

/-- A sequence descriptor at the head of its queue starts, unless eight are in progress or one of its
slots is in use (R293). -/
def startSeq (q op : Nat) (s : State) : State :=
  let h := seqOf s q
  match (s.queue q).window with
  | [] => s
  | f :: _ =>
    if dOpcode f.w ≠ op ∨ !headMayStart q s ∨ 8 ≤ (seqLive h s).length then s
    else
      match namedSlots h q f.w s with
      | (none, _) => s
      | (some res, s0) =>
        let slots := match res with | .ok l => l | .error _ => []
        if slotConflict h op slots s then s
        else
          match startDesc q op s0 with
          | (none, s1) => s1
          | (some (n, go), s1) =>
            let run : SeqRun := { id := ⟨q, n⟩, op := op, slots := slots }
            let s2 := s1.modSeq h fun x => { x with live := x.live ++ [run] }
            match res with
            | .error st =>
              let s3 := if go then s2 else sluiceDrop (.engine (s.queue q).code) s2
              if op = opSample then endSeq q n st (some 0) s3
              else if op = opKvGather ∨ op = opKvPut then landSeq h ⟨q, n⟩ f.w st s3
              else endSeq q n st none s3
            | .ok _ => if go then runSeq q n (notePages ⟨q, n⟩ (dSrc f.w) (2 * slots.length) s2) else s2

/-- SLOT_OPEN (R288). -/
def execSlotOpen (q : QueueId) (s : State) : Host.Outcome State Fault Refusal := .next (clocked (startSeq q.val opSlotOpen) s)
/-- SLOT_CLOSE (R288). -/
def execSlotClose (q : QueueId) (s : State) : Host.Outcome State Fault Refusal := .next (clocked (startSeq q.val opSlotClose) s)
/-- KV_GATHER (R291). -/
def execKvGather (q : QueueId) (s : State) : Host.Outcome State Fault Refusal := .next (clocked (startSeq q.val opKvGather) s)
/-- KV_PUT (R291). -/
def execKvPut (q : QueueId) (s : State) : Host.Outcome State Fault Refusal := .next (clocked (startSeq q.val opKvPut) s)
/-- SAMPLE (R294). -/
def execSample (q : QueueId) (s : State) : Host.Outcome State Fault Refusal := .next (clocked (startSeq q.val opSample) s)

/-! ## What lets held descriptors go on -/

/-- Semaphores of gathers and puts whose data has become visible. -/
def settleSeqs (s : State) : State :=
  let ready := (List.range 2).flatMap fun h => ((s.seq h).live.filterMap fun r => r.landing.map fun st => (h, r, st))
  ready.foldl (fun s x => match s.prog x.2.1.id.q x.2.1.id.n with
    | some p => if tagClear (.desc x.2.1.id) s then landSeq x.1 x.2.1.id p.w x.2.2 s else s
    | none => s) s

/-- Descriptors of engine h that run and hold nothing back go on. -/
def resumeSeqs (h : Nat) (s : State) : State :=
  (seqLive h s).foldl (fun s r => runSeq r.id.q r.id.n s) s

/-- SEQ_RING_HEAD_WRITE (R296). -/
def execSeqRingHeadWrite (e : EngId) (v : W64) (s : State) : Host.Outcome State Fault Refusal :=
  if !powered s then .next s else
  .next (resumeSeqs e.val (s.modSeq e.val fun x => { x with head := fieldOf v 0 17 }))

/-- SEQ_RING_CFG_WRITE (R296, Table 13-8): ignored while EN is 1, unless it clears EN. -/
def ringCfgWrite (v : W64) (x : SeqState) : SeqState :=
  let en := bitOf v 8
  if x.en && en then x
  else { x with en := en, log2 := fieldOf v 0 5, tail := if en then 0 else x.tail }

def execSeqRingCfgWrite (e : EngId) (v : W64) (s : State) : Host.Outcome State Fault Refusal :=
  if !powered s then .next s else
  .next (resumeSeqs e.val (s.modSeq e.val (ringCfgWrite v)))

/-- SEQ_COUNTER_CLEAR (R298). -/
def execSeqCounterClear (e : EngId) (v : W64) (s : State) : Host.Outcome State Fault Refusal :=
  if !powered s then .next s else
  .next (if bitOf v 0 then clearCounters (seqCtr e.val 0x800) (seqCtr e.val 0x820) s else s)

end Sys2Proof.Machine
end

