-- ==== Sys2Proof/Machine/Vector.lean ====
section
/-! DEFINITION. The cycles of a vector engine (spec 06 R119-R141): bundles issued, results written, loops,
waits, signals, triggers, and the checks of hazard-check mode. -/

namespace Sys2Proof.Machine

def vecBundleCount (n : Nat) : Nat := debugBase (codeVec n) false + 0x48

/-- VEC_FCSR.FLAGS. -/
def vecFlags (n : Nat) (s : State) : FFlags := (s.evBits (srcVecFlags n)).truncate 5

/-- Flags raised; each change of an enabled flag is an event (R126, R142). -/
def raiseFlags (n : Nat) (f : FFlags) (s : State) : State :=
  (List.range 5).foldl (fun s k => if f.getLsbD k then raiseEv (srcVecFlags n) k s else s) s

/-! ## Results (R121, R122) -/

def VDest.touch : VDest → List Touch
  | .vec r _ | .nib r _ => [.vreg r]
  | .mask r _ _ => [.mreg r]
  | .scalar r _ => [.sreg r]
  | .vl _ => [.vl]
  | .fcsr _ => []
  | .store a bs => if bs = [] then [] else [.tileSectors (a / 32) ((a + bs.length - 1) / 32 - a / 32 + 1)]

/-- A result whose stream has broken a rule has an undefined value (R122). -/
def VDest.freed (d : VDest) (s : State) : VDest × State :=
  match d with
  | .vec r bs =>
    let f := freshBytes bs.length s
    (.vec r ((bs.map Prod.fst).zip f.1), f.2)
  | .nib r es =>
    let f := freshBytes es.length s
    (.nib r ((es.map Prod.fst).zip (f.1.map fun b => b.toNat % 16)), f.2)
  | .mask r sel _ =>
    let f := freshBytes 128 s
    (.mask r sel (BitVec.ofNat 1024 (leNat f.1)), f.2)
  | .scalar r _ => let f := freshWord s; (.scalar r f.1, f.2)
  | .vl _ => let f := freshWord s; (.vl (f.1.toNat % 1025), f.2)
  | .fcsr v => (.fcsr v, s)
  | .store a bs => let f := freshBytes bs.length s; (.store a f.1, f.2)

/-- Nibble k of a byte map takes a value; its neighbour keeps what it holds then (R118). -/
def putNibble (m : Mem) (k v : Nat) : Mem :=
  let old := (Sparse.get 0 m (k / 2)).toNat
  Sparse.set 0 m (k / 2) (BitVec.ofNat 8 (if k % 2 = 0 then old / 16 * 16 + v else old % 16 + v * 16))

/-- A destination takes its value; vfwr replaces RM and FLAGS, and its cycle is noted (R126). -/
def writeVDest (n : ArrayId) (d : VDest) (s : State) : State :=
  match d with
  | .vec r bs => s.modVec n.val fun x => { x with v := bs.foldl (fun m b => Sparse.set 0 m (4096 * r + b.1) b.2) x.v }
  | .nib r es => s.modVec n.val fun x => { x with v := es.foldl (fun m e => putNibble m (8192 * r + e.1) e.2) x.v }
  | .mask r sel v => s.modVec n.val fun x => { x with
      m := Sparse.set 0 x.m r ((Sparse.get 0 x.m r &&& ~~~ sel) ||| (v &&& sel)) }
  | .scalar r v => s.modVec n.val fun x => { x with sr := Sparse.set 0 x.sr r v }
  | .vl k =>
    if ((s.vec n.val).su.taintAt).isSome then
      let r := freshWord s
      r.2.modVec n.val fun x => { x with vl := k, vlShown := some (r.1.toNat % 1025) }
    else s.modVec n.val fun x => { x with vl := k }
  | .fcsr v =>
    let rm := v.toNat / 32
    let s1 := s.modVec n.val fun x => { x with
      rm := if rm < 5 then BitVec.ofNat 3 rm else x.rm, fwrAt := some s.ticks }
    raiseFlags n (v.truncate 5) (dropEv (srcVecFlags n) (w64 (31 - v.toNat % 32)) s1)
  | .store a bs => s.modArr n.val (slotWriteRun a bs false)

/-- Does a result replace VEC_FCSR? Such results come before the flags raised in their cycle. -/
def VResult.isFcsr (r : VResult) : Bool :=
  match r.dest with | .fcsr _ => true | _ => false

/-- A result is written. Of a stream that has broken a rule the stores take undefined values at once, the
registers when the stream has ended, so that it issues the same cycles until then (R122). -/
def writeResult (n : ArrayId) (r : VResult) (s : State) : State :=
  let e : StreamEng := .vec n
  let u := s.unit e
  let isStore := match r.dest with | .store _ _ => true | _ => false
  let lost := r.free || (u.undef r.cyc && (isStore || decide (r.cyc < u.base)))
  let (d, s1) := if lost then r.dest.freed s else (r.dest, s)
  d.touch.foldl (fun s t => touch e r.cyc t s) (writeVDest n d s1)

/-- The results of one cycle are written in order of issue, and their flags raised. -/
def writeResults (n : ArrayId) (rs : List VResult) (s : State) : State :=
  let s1 := s.modVec n.val fun x => { x with results := x.results.filter fun r => !rs.contains r }
  let s2 := (rs.filter VResult.isFcsr ++ rs.filter fun r => !r.isFcsr).foldl (fun s r => writeResult n r s) s1
  let s3 := raiseFlags n (rs.foldl (fun f r => f ||| r.flags) 0) s2
  if rs.any fun r => r.free || (s2.unit (.vec n)).undef r.cyc then freeFlags (.vec n) s3 else s3

/-- Results due by the engine's present stream cycle. -/
def resultsNow (n : ArrayId) (s : State) : State :=
  let x := s.vec n.val
  writeResults n (x.results.filter fun r => r.due ≤ x.su.cycle) s

/-- VECTOR_RESULT_WRITE (R121): with no cycle left to issue, the results that come next. -/
def vectorResultWrite (n : ArrayId) (s : State) : State :=
  let x := s.vec n.val
  if x.su.issuing then resultsNow n s
  else
    match x.results with
    | [] => s
    | r :: rs =>
      let next := rs.foldl (fun d r => min d r.due) r.due
      writeResults n (x.results.filter fun r => r.due == next) s

def execVectorResultWrite (n : ArrayId) (s : State) : Host.Outcome State Fault Refusal := .next (clocked (vectorResultWrite n) s)

/-! ## Loops (R123) -/

/-- The bundle after position p, with the loops still running. -/
def loopNext (p : Nat) : List VLoop → Nat × List VLoop
  | [] => (p + 1, [])
  | l :: ls =>
    if p = l.last then
      (if 1 < l.left then (l.first, { l with left := l.left - 1 } :: ls) else loopNext p ls)
    else (p + 1, l :: ls)

/-- A loop bundle at k with a body of n bundles is legal. -/
def loopLegal (loops : List VLoop) (k n count : Nat) : Bool :=
  decide (loops.length < 4) && decide (k + n < count) && match loops with
    | l :: _ => decide (k + n ≤ l.last)
    | [] => true

/-- The next bundle and the loops after the X slot of bundle k. -/
def xslotNext (x : VInst) (vs : VecState) (k : Nat) : Nat × List VLoop :=
  if x.op = 0x02 then
    let n := x.imm % 4096 + 1
    let c := (vScalar vs x.a).toNat
    if c = 0 then loopNext (k + n) vs.loops else (k + 1, ⟨k + 1, k + n, c⟩ :: vs.loops)
  else loopNext k vs.loops

/-! ## Legality and hazards (R119, R133, R141) -/

def vectorCtx (n : ArrayId) (s : State) : VCtx :=
  let x := s.arr n.val
  ⟨s.vec n.val, x.tile, x.acc, x.mode⟩

def bundleLegal (m : Strm) (k : Nat) (v x : VInst) (cx : VCtx) : Bool :=
  slotLegal false v cx && slotLegal true x cx
    && (k + 1 != m.launch.bundleCount || x.op == 0x01) && decide (k < m.launch.bundleCount)
    && (x.op != 0x02 || loopLegal cx.vs.loops k (x.imm % 4096 + 1) m.launch.bundleCount)
    && (x.op != 0xD2 || match m.trigs[x.imm % 256]? with
      | some t => !(cx.mode == .cascade && t.cascadeIllegal)
      | none => false)

/-- Tile-store range of a vld or vst: first sector and count. -/
def tileAccess (v : VInst) (vs : VecState) : Option (Nat × Nat) :=
  let a := (vScalar vs v.a).toNat
  let k := (vScalar vs v.b).toNat
  if (v.op = 0xA0 ∨ v.op = 0xA1) ∧ k ≠ 0 then some (a / 32, (a + k - 1) / 32 - a / 32 + 1) else none

/-- Accumulator units a vlacc reads, in the layout of the array's mode (R132). -/
def accUnitsRead (mode : AryMode) (v : VInst) (vs : VecState) : List Nat :=
  if v.op = 0xA2 ∨ v.op = 0xA3 then
    let w := if v.op = 0xA2 then 4 else 8
    let x := (vScalar vs v.a).toNat
    let rows := ((vActive v vs (vCount vs w)).map fun e => x % 8192 + e / 32 * (x / 2 ^ 16 % 8192)).eraseDups
    rows.flatMap fun r => if mode = .cascade then [2 * r, 2 * r + 1] else [r]
  else []

/-- A unit stepped by array n may be read now: a signal of R133, or rule 7 in a lock group. -/
def accReady (vs : VecState) (x : AryState) (u : Nat) : Bool :=
  let t := Sparse.get 0 x.hist.unitStep u
  t == 0 || x.su.status != .running
    || (match vs.accOk with | some c => decide (t - 1 + latRowAcc ≤ c) | none => false)
    || (vs.su.inGroup && x.su.inGroup && vs.su.lockMask == x.su.lockMask && decide (t - 1 + latRowAcc ≤ vs.su.cycle))

/-- A result on its way to a place a slot writes in the order of R122 is no violation; one it reads is. -/
def slotPending (i : VInst) (vs : VecState) : Bool :=
  vs.results.any (operandPending (vReads i) vs.su.cycle)

def slotBusy (i : VInst) (vs : VecState) : Bool :=
  let row := timingRow i
  let last := Sparse.get 0 vs.rowIssue row
  last != 0 && decide (vs.su.cycle < last - 1 + rowInterval row)

/-- The limits a bundle breaks: rule of Table 6-10 and whether in the V slot, lowest rule first. -/
def vectorHazards (v x : VInst) (vs : VecState) (a : AryState) : List (Nat × Bool) :=
  let tile : Bool := match tileAccess v vs with
    | some (f, k) =>
      let waits := if v.op = 0xA0 then vs.su.pend.filter fun o => o.t.dir == .poolToTile else []
      (a.su.trigs ++ vs.su.trigs ++ waits).any fun o => let r := o.range; !r.1 && overlap r.2.1 r.2.2 f k
    | none => false
  (if slotPending v vs then [(1, true)] else if slotPending x vs then [(1, false)] else [])
    ++ (if slotBusy v vs then [(2, true)] else if slotBusy x vs then [(2, false)] else [])
    ++ (if (accUnitsRead a.mode v vs).any fun u => !accReady vs a u then [(3, true)] else [])
    ++ (if tile then [(4, true)] else [])

/-- VEC_HAZARD_INFO (Table 6-13). -/
def vecHazardWord (u : StreamUnit) (h : Nat × Bool) : W64 :=
  w64 (h.1 * 2 ^ 56 + u.idx % 8192 * 2 ^ 43 + b2n h.2 * 2 ^ 42 + u.cycle % 2 ^ 31)

/-! ## Issue (R119-R123, R133) -/

/-- One array cycle passes. -/
def vecPass (n : ArrayId) (s : State) : State := s.modVec n.val fun x => { x with pos := (x.pos + 1) % 64 }

/-- A cycle in which the stream holds (04 R94). -/
def vecHold (n : ArrayId) (h : HoldAt) (s : State) : State :=
  let e : StreamEng := .vec n
  let s1 := if h = .groupWait then s else loseAlign e s
  vecPass n (count (waitCtr e) 1 (s1.modUnit e fun u => { u with holding := h }))

/-- Both slots take effect; their results follow at their latencies. -/
def vecActions (n : ArrayId) (m : Strm) (v x : VInst) (s : State) : State :=
  let e : StreamEng := .vec n
  let cx := vectorCtx n s
  let cyc := cx.vs.su.cycle
  let fl := vecFlags n.val s
  let outs := vSlotResults v cx fl ++ vSlotResults x cx fl
  let rs := outs.map fun o => (⟨cyc + o.2.2, o.1, o.2.1, cyc, false⟩ : VResult)
  let rows := Sparse.set 0 (Sparse.set 0 cx.vs.rowIssue (timingRow v) (cyc + 1)) (timingRow x) (cyc + 1)
  let k := cx.vs.su.idx
  let (next, loops) := xslotNext x cx.vs k
  let s1 := s.modVec n.val fun y => { y with results := y.results ++ rs, rowIssue := rows, loops := loops }
  let s2 := if x.op = 0xD1 then sendSem (.arr n) (x.imm % 8) 2 cyc s1 else s1
  let s3 := if x.op = 0xD2 then (match m.trigs[x.imm % 256]? with | some t => issueTrigger e t s2 | none => s2) else s2
  let s4 := vecPass n <| count (vecBundleCount n.val) 1 (s3.modUnit e fun u => { u with cycle := u.cycle + 1, holding := .none })
  if x.op = 0x01 then
    lastCycle e ((s4.vec n.val).results.foldl (fun d r => max d r.due) cyc) s4
  else s4.modUnit e fun u => { u with idx := next, waitPassed := false }

/-- The bundle once its wait has passed. -/
def vecRun (n : ArrayId) (m : Strm) (v x : VInst) (s : State) : State :=
  let e : StreamEng := .vec n
  let vs := s.vec n.val
  let a := s.arr n.val
  let poison : Bool := v.op == 0xA0 && match tileAccess v vs with
    | some (f, k) => tilePoisoned a f k
    | none => false
  if x.op = 0xD2 ∧ 32 ≤ vs.su.trigs.length then vecHold n .trigQueue s
  else
    match vectorHazards v x vs a with
    | h :: _ =>
      if m.launch.hazard then
        haltStream e causeHazard stHazard qcEngineHalted
          (s.modUnit e fun u => { u with hazardInfo := vecHazardWord u h })
      else if poison then haltStream e causePoison stPoisoned qcEngineHalted (taint e s)
      else vecActions n m v x (taint e s)
    | [] =>
      if poison then haltStream e causePoison stPoisoned qcEngineHalted s else vecActions n m v x s

/-- The engine's next array cycle begins: its events registers' cycle (00 R6), a waiting duty, the increments
of array n on their way, the rows and results due. -/
def openVecCycle (n : ArrayId) (s : State) : State :=
  resultsNow n (landDue n (ageSems (.vec n) (openEvents [srcVec n.val, srcVecFlags n.val]
    (s.modVec n.val fun x => { vecDutyBoundary x with fwrAt := none }))))

/-- VECTOR_BUNDLE_ISSUE (R119): one array cycle of vector engine n. In a lock group it withholds the cycles
its group withholds (R124). -/
def vectorBundleIssue (n : ArrayId) (s : State) : State :=
  let e : StreamEng := .vec n
  match (s.unit e).cur with
  | none => s
  | some m =>
    if !(s.unit e).issuing then s
    else
      let s1 := openVecCycle n s
      let y := s1.vec n.val
      let u := y.su
      let (v, x) := vSlots (m.bundles.getD u.idx 0)
      if u.inGroup && !issuingCycle y.duty y.pos then vecPass n s1
      else if !bundleLegal m u.idx v x (vectorCtx n s1) then
        haltStream e causeIllegal stQueueHalted qcEngineHalted s1
      else if x.op = 0xD0 ∧ !u.waitPassed then
        (if x.imm / 8 % 2 = 1 ∧ u.inGroup then
          let s2 := groupRelease e (s1.modUnit e fun u => { u with holding := .groupWait })
          if (s2.unit e).waitPassed then vecRun n m v x s2 else vecHold n .groupWait s2
        else if Sparse.get 0 u.sems (x.imm % 8) = 0 then vecHold n .wait s1
        else vecRun n m v x (passWait e (x.imm % 8) s1))
      else vecRun n m v x s1

/-! ## The edge at which a group resumes (04 R99) -/

def cyclePos (e : StreamEng) (s : State) : Nat :=
  match e with
  | .arr n => (s.arr n.val).pos
  | .vec n => (s.vec n.val).pos

/-- The held cycle that a member was given in this edge is taken back. -/
def takeBack (e : StreamEng) (p : Nat) (s : State) : State :=
  let key := waitCtr e
  let s1 : State := { s with counters := Sparse.set 0 s.counters key (s.ctr key - 1) }
  match e with
  | .arr n => s1.modArr n.val fun x => { x with pos := p }
  | .vec n => s1.modVec n.val fun x => { x with pos := p }

def issueOf (e : StreamEng) (s : State) : State :=
  match e with
  | .arr n => bundleIssue n s
  | .vec n => vectorBundleIssue n s

/-- Members whose group wait passes in the edge of the last member's arrival, and that held in this edge
already, run it with the last one: all resume on one edge. -/
def issueTogether (e : StreamEng) (s : State) : State :=
  let p := cyclePos e s
  let held := (maskMembers e (s.unit e).lockMask).filter fun x =>
    let u := s.unit x
    x != e && u.inGroup && u.lockMask == (s.unit e).lockMask && u.status == .running
      && u.holding == .groupWait && cyclePos x s == (p + 1) % 64
  let s1 := issueOf e s
  let back := held.filter fun x => (s1.unit x).waitPassed && (s1.unit x).holding == .none
  back.foldl (fun s x => issueOf x (takeBack x p s)) s1

/-- BUNDLE_ISSUE (04 R86): one issuing array cycle. -/
def execBundleIssue (n : ArrayId) (s : State) : Host.Outcome State Fault Refusal :=
  .next (clocked (issueTogether (.arr n)) s)

def execVectorBundleIssue (n : ArrayId) (s : State) : Host.Outcome State Fault Refusal :=
  .next (clocked (issueTogether (.vec n)) s)

end Sys2Proof.Machine
end

