-- ==== Sys2Proof/Machine/Starts.lean ====
section
/-! DEFINITION. What lets work of several kinds go on: START_GRANT at Sluice (spec 16 R346), the
acknowledgement of a holder (08 R184), the end of a transfer (10 R224), the end of an invalidation
(09 R215), and the end of a page copy (09 R209, R210). -/

namespace Sys2Proof.Machine

/-! ## Grants (16 R346) -/

/-- A started descriptor does what its opcode says. -/
def runProg (q n : Nat) (s : State) : State :=
  match s.prog q n with
  | none => s
  | some p =>
    let op := dOpcode p.w
    if op = opNop then finishQueue q s
    else match engKind (s.queue q).code with
      | .copy => if op = opInvalidate then beginInval q n p.w s else finishQueue q (copyRun q n s)
      | .coll => enterColl q n s
      | .update => if op = opUpdApply then armApply q n s else runCommit q n s
      | .seq => runSeq q n s
      | _ => s

/-- The descriptor of an engine that waits for its permit. -/
def permitWaiter (code : Nat) (s : State) : Option (Nat × Nat) :=
  ((engineProgs code s).find? fun p => p.2.phase == .waitingForPermit).map fun p => (p.1, p.2.n)

def grantEngine (code : Nat) (s : State) : State :=
  match permitWaiter code s with
  | none => s
  | some (q, n) => runProg q n (modProg q n (fun p => { p with phase := .running }) s)

/-- START_GRANT (16 R346): the first waiting start, once its demand fits. -/
def execStartGrant (s : State) : Host.Outcome State Fault Refusal :=
  if !powered s then .next s else
  .next (match sluiceNext s with
    | (none, s1) => s1
    | (some x, s1) => match x.id with
      | .stream mask => grantStream mask s1
      | .engine code => grantEngine code s1)

/-! ## Visibility -/

/-- HOLDER_ACKNOWLEDGE (08 R184): what became visible is acknowledged to other nodes and counted by
semaphores, and the notice after it is written. -/
def execHolderAcknowledge (pa : PAddr) (holder : Holder) (s : State) : Host.Outcome State Fault Refusal :=
  if !powered s then .next s else
  .next (drainNotices (settleSeqs (sendAcks (holderAcknowledge (pa.toNat / 128) holder s))))

/-- TRANSFER_COMPLETE (10 R224): every byte a descriptor promised is visible; records follow. -/
def execTransferComplete (q : QueueId) (s : State) : Host.Outcome State Fault Refusal :=
  if !powered s then .next s else
  .next (finishQueue q.val (settleSeqs s))

/-! ## Invalidations (09 R215) -/

/-- Update descriptors that an invalidation has held back go on. -/
def resumeUpdates (s : State) : State :=
  let ids := (List.range 2).flatMap fun u =>
    ((engineProgs (codeUpd u) s).filter fun p => p.2.phase == .running).map fun p => (u, p.1, p.2.n, dOpcode p.2.w)
  ids.foldl (fun s i =>
    if i.2.2.2 = opUpdCommit then runCommit i.2.1 i.2.2.1 s
    else if i.2.2.2 = opUpdApply ∧ (s.upd1 i.1).armed.isNone then armApply i.2.1 i.2.2.1 s
    else s) s

/-- Collectives whose data phase an invalidation has held back begin it, and Tally records are written. -/
def resumeColls (s : State) : State :=
  (s.coll.runs.filter fun r => r.phase == .closed).foldl (fun s r => beginData r.id s) (resumeTallies s)

/-- Everything that meets no invalidation any more goes on. -/
def resumeHeld (s : State) : State :=
  resumeEnables (resumeParked (resumeSeqs 1 (resumeSeqs 0 (resumeUpdates (resumeColls (resumeBlocked s))))))

/-- The flush reads of an invalidation that waits for writes to attach-host memory: to be sent, or out. -/
def Inval.flush (i : Inval) (s : State) : Bool × Bool :=
  match s.prog i.id.q i.id.n with
  | some p => (i.attach && !p.flushed, i.attach && p.flush != [])
  | none => (false, false)

/-- INVALIDATE_COMPLETE (R215): the oldest invalidation of queue q that has nothing left to wait for
completes; transfers that waited for it walk. Where a transfer it waited for has written attach-host memory,
flush reads go out first. -/
def invalidateComplete (q : Nat) (s : State) : State :=
  match s.xlt.invals.find? fun i => i.id.q == q && i.ready s && !(i.flush s).2 with
  | none => s
  | some i =>
    match s.prog q i.id.n with
    | none => s
    | some p =>
      if (i.flush s).1 then startFlush q p s
      else
        let s1 := count invalCount 1 { s with xlt := { s.xlt with invals := s.xlt.invals.erase i } }
        resumeHeld (finishQueue q (endFree q i.id.n stDone s1))

def execInvalidateComplete (q : QueueId) (s : State) : Host.Outcome State Fault Refusal :=
  .next (clocked (invalidateComplete q.val) s)

/-! ## Records served (09 R209, R214) -/

/-- The internal invalidation of a move out: it belongs to no queue, and is numbered by mailbox and slot. -/
def moveInvalId (m : MbxId) (slot : Option (Fin 8)) : DescId :=
  ⟨256 + m.val, match slot with | some j => j.val | none => 8⟩

/-- The withdrawal of a move out that has nothing left to wait for. -/
def moveInval (m : MoveReq) (s : State) : Option Inval :=
  s.xlt.invals.find? fun i => i.id == moveInvalId m.m m.slot && i.ready s

/-- A record that the firmware may serve: not being copied; a move out from when its leaf is visible, and again
when the old translation has been withdrawn. -/
def FaultRec.served (r : FaultRec) (s : State) : Bool :=
  match r.phase with
  | .copying _ _ | .moving => false
  | .posted => (match r.move with
    | some m => m.toPool || !lineHeld s (m.leafAt / 128)
    | none => true)
  | .withdrawing => (match r.move with
    | some m => (moveInval m s).isSome
    | none => false)
  | .noPage _ => s.xlt.supply.any (·.2 == r.big)

def setPhase (vpage : Nat) (ph : FaultPhase) (s : State) : State :=
  { s with xlt := { s.xlt with records := s.xlt.records.map fun x =>
    if x.vpage = vpage then { x with phase := ph } else x } }

/-- One step of serving a record: a move out begins to withdraw the old translation, or, with that done, to copy;
any other record is served as a fault. -/
def serveStep (r : FaultRec) (s : State) : State :=
  match r.move with
  | none => serveRecord r s
  | some m =>
    if m.toPool then serveRecord r s
    else match moveInval m s with
      | some i =>
        resumeHeld (count invalCount 1 (setPhase r.vpage .moving { s with xlt := { s.xlt with invals := s.xlt.invals.erase i } }))
      | none =>
        let id := moveInvalId m.m m.slot
        let w : DWords := [0, 0, w64 r.vpage, 0, w64 (if r.big then 32 else 1)]
        beginInval id.q id.n w (setPhase r.vpage .withdrawing s)

/-- MIGRATION_SERVICE (R209, R214): the oldest record that can be served. -/
def execMigrationService (s : State) : Host.Outcome State Fault Refusal :=
  .next (match s.xlt.records.find? fun r => r.served s with
    | some r => if fwRuns s then serveStep r s else s
    | none => s)

/-! ## The end of a page copy (09 R209 steps 4 to 7, R210) -/

/-- A page goes back to the supply. -/
def returnPage (pa : Nat) (big : Bool) (s : State) : State :=
  { s with xlt := { s.xlt with supply := s.xlt.supply ++ [(pa, big)] } }

/-- Step 4 of R209: the backing page's bytes, or zeros, become the pool page's. -/
def copyIn (pa : Nat) (big : Bool) (leaf : W64) (s : State) : State :=
  let n := pageBytes big
  let src := leafAddr leaf
  if src = 0 then fillPage pa n [] [] s
  else
    let data := (s.host.mem.filter fun e => src ≤ e.1 && e.1 < src + n).map fun e => (e.1 - src, e.2)
    let bad := (s.host.poison.filter fun e => src ≤ 32 * e.1 && 32 * e.1 < src + n).map fun e => e.1 - src / 32
    let s1 := match routePort s (halfOffset s.hbm.spread pa).1 src with
      | some p => emit (.hostRead (if p = 0 then 0 else 1) src n) s
      | none => s
    fillPage pa n data bad s1

/-- The pages can be read: some port carries the reads, or the page is backed by nothing. -/
def copyReadable (pa : Nat) (leaf : W64) (s : State) : Bool :=
  leafAddr leaf == 0 || (routePort s (halfOffset s.hbm.spread pa).1 (leafAddr leaf)).isSome

/-- The leaf that maps the pool page: identical but for RES and ADDR. -/
def pooledLeaf (leaf : W64) (pa : Nat) : W64 :=
  w64 (fieldOf leaf 52 12 * 2 ^ 52 + pa / 256 * 256 + fieldOf leaf 6 2 * 2 ^ 6 + resPool * 2 ^ 4 + fieldOf leaf 0 4)

/-- MIGRATION_COPY_COMPLETE (R209, R210): the copy of a record's page has ended; `ok` is whether every
read of it completed. -/
def copyComplete (vpage : Nat) (ok : Bool) (s : State) : State :=
  match s.xlt.records.find? (·.vpage == vpage) with
  | none => s
  | some r => match r.phase with
    | .copying pa leaf =>
      if !ok || !copyReadable pa leaf s then failPage vpage 7 (returnPage pa r.big s)
      else
        let s1 := copyIn pa r.big leaf s
        match findLeaf vpage s1 with
        | (some (a, e, _), s2) =>
          if e = leaf then
            let old := leafAddr leaf
            let s3 := poolWrite a (leBytes 8 (pooledLeaf leaf pa).toNat) .none s2
            let s4 := moveOutcome r.move 0 (leBytes 8 pa ++ leBytes 8 old) s3
            postNotice ⟨1, r.big, vpage, pa, old, r.waiters, r.engines⟩ (count migrateCount 1 (resumePage vpage s4))
          else resumePage vpage (returnPage pa r.big s2)
        | (none, s2) => resumePage vpage (returnPage pa r.big s2)
    | _ => s

def execMigrationCopyComplete (vpage : PAddr) (ok : Bool) (s : State) : Host.Outcome State Fault Refusal :=
  .next (if fwRuns s then copyComplete vpage.toNat ok s else s)

end Sys2Proof.Machine
end

