-- ==== Sys2Proof/Machine/MgrMem.lean ====
section
/-! DEFINITION. Mailbox commands for memory, caches, translation and keys (spec 07 R146-R168, 08 R181-R182,
09 R212-R217), and the ends of their operations. A long command whose work touches memory the moment it is
accepted does that work there and only reports at its end (log 40). -/

namespace Sys2Proof.Machine

/-! ## Configuration, error log, counters -/

/-- MEM_CONFIG (07 R146, R149): a configuration equal to the one in force leaves nothing to change. -/
def memConfig (c : MCmd) (s : State) : State :=
  let spread := c.le 0 1 == 1
  let iso : BitVec 24 := BitVec.ofNat 24 (c.le 4 3)
  let fullHalf (h : Nat) : Bool := (stacksOf iso h false).isEmpty
  checked c [(decide (1 < c.le 0 1), 0)] []
    [((spread && iso != 0) || fullHalf 0 || fullHalf 1, 4)] (fun s =>
      let same := spread == s.hbm.spread && iso == s.hbm.iso
      answer c [] { s with hbm := { s.hbm with nextCfg := if same then none else some (spread, iso) } }) s

def execMemConfig (m : MbxId) (s : State) : Host.Outcome State Fault Refusal := .next (serve m 0x0401 memConfig s)

/-- Code of a kind in a record. -/
def ErrKind.code : ErrKind → Nat
  | .corrected => 1 | .uncorrectable => 2 | .poisonWritten => 3 | .retuneFail => 4

/-- The 32 bytes of a record (Table 18-12). -/
def ErrRec.bytes (r : ErrRec) : List Byte :=
  leBytes 8 r.time ++ leBytes 8 r.addr ++ leBytes 2 r.pc ++ leBytes 2 r.kind.code ++ leBytes 8 r.mask.toNat
    ++ leBytes 4 0

/-- MEM_ERROR_LOG (07 R159): records from FIRST on, newest first. -/
def memErrorLog (c : MCmd) (s : State) : State :=
  let most := c.le 2 2
  checked c [(most == 0 || decide (127 < most), 2)] [] [] (fun s =>
    let rs := (s.hbm.errLog.reverse.drop (c.le 0 2)).take most
    let pay := leBytes 2 rs.length ++ leBytes 2 s.hbm.errLog.length ++ rs.flatMap ErrRec.bytes
    let s1 : State := if c.le 4 1 % 2 = 1 then { s with hbm := { s.hbm with errLog := [] } } else s
    answer c pay s1) s

def execMemErrorLog (m : MbxId) (s : State) : Host.Outcome State Fault Refusal := .next (serve m 0x0402 memErrorLog s)

/-- XLT_COUNTER_CLEAR (09 R221). -/
def execXltCounterClear (v : W64) (s : State) : Host.Outcome State Fault Refusal :=
  .next (clocked (clearOn v 0x500100 0x500138) s)

/-- HBM_COUNTER_CLEAR (07 R168): the counters of the stacks and of the Cisterns. -/
def execHbmCounterClear (v : W64) (s : State) : Host.Outcome State Fault Refusal :=
  .next (clocked (clearOn v 0x700000 0x800000) s)

/-! ## Retune on request (07 R162, R163) -/

/-- The slot that an operation just placed by a command has. -/
def slotOfOp (c : MCmd) (s : State) : Option (Fin 8) :=
  (s.mgr.ops.getLast?).bind fun o => if o.m = c.m then o.slot else none

/-- PC_RETUNE (07 R162). -/
def pcRetune (c : MCmd) (s : State) : State :=
  let p := c.le 0 2
  let t := c.le 8 8
  long c [(decide (1536 ≤ p), 0), (decide (t < s.now + 100000), 8)] [(stackHeld (p / 64) s, 0)]
    [((s.stack (p / 64)).mode != .active, 0)]
    (fun s => s.modPc p fun x => { x with sched := insertStart t (.cmd c.m (slotOfOp c s)) x.sched }) s

def execPcRetune (m : MbxId) (s : State) : Host.Outcome State Fault Refusal := .next (serve m 0x0901 pcRetune s)

/-- RETUNE_END (07 R163): whether the retune succeeded; a requested one ends its operation. -/
def retuneEnd (p : Nat) (ok : Bool) (s : State) : State :=
  match (s.pc p).active with
  | none => s
  | some (_, by_) =>
    let s1 := retuneEnded p ok s
    match by_ with
    | .auto => s1
    | .cmd m slot => match opAt m slot s1 with
      | some o => endOp o (if ok then mbxOk else mbxFailed) [] s1
      | none => s1

def execRetuneEnd (p : PcId) (ok : Bool) (s : State) : Host.Outcome State Fault Refusal := .next (clocked (retuneEnd p.val ok) s)

/-! ## Stacks out of service (07 R164-R166) -/

/-- Starts scheduled for the pseudo-channels of a stack are dropped. -/
def dropStarts (k : Nat) (s : State) : State :=
  (List.range 64).foldl (fun s j => s.modPc (64 * k + j) fun x => { x with sched := [] }) s

/-- STACK_OFFLINE (07 R164). -/
def stackOffline (c : MCmd) (s : State) : State :=
  let k := c.le 0 1
  let st := (s.stack k).mode
  checked c [(decide (24 ≤ k), 0)] [(stackHeld k s || (s.hbm.iso.getLsbD k && st != .active && st != .offline), 0)]
    [(!s.hbm.iso.getLsbD k, 0)]
    (fun s => answer c [] (dropStarts k (s.modStack k fun x => { x with mode := .offline }))) s

def execStackOffline (m : MbxId) (s : State) : Host.Outcome State Fault Refusal := .next (serve m 0x0903 stackOffline s)

/-- STACK_MARGIN (07 R165). -/
def stackMargin (c : MCmd) (s : State) : State :=
  let k := c.le 0 1
  long c [(decide (24 ≤ k), 0), (decide (2 < c.le 1 1), 1)] [(stackHeld k s, 0)] [((s.stack k).mode != .offline, 0)]
    (fun s => s.modStack k fun x => { x with mode := .margin }) s

def execStackMargin (m : MbxId) (s : State) : Host.Outcome State Fault Refusal := .next (serve m 0x0902 stackMargin s)

/-- The end of a sweep: the 2,304 pairs are written at RESULT_VA and the stack is OFFLINE again; FAILED when
they cannot be written. -/
def endMargin (o : RunOp) (ok : Bool) (data : List Byte) (s : State) : State :=
  let s1 := s.modStack (o.le 0 1) fun x => { x with mode := .offline }
  if !ok then endOp o mbxFailed [] s1
  else
    let out := ((data ++ List.replicate 4608 0).take 4608).map fun b => (b, false)
    match pastInvals (vaWrite codeNone (o.le 8 8 % 2 ^ 52) out false .none) s1 with
    | (none, s2) => endOp o mbxOk [] s2
    | (some _, s2) => endOp o mbxFailed [] s2

/-- STACK_ONLINE (07 R166). -/
def stackOnline (c : MCmd) (s : State) : State :=
  let k := c.le 0 1
  long c [(decide (24 ≤ k), 0)] [(stackHeld k s, 0)] [((s.stack k).mode != .offline, 0)]
    (fun s => dropStarts k (s.modStack k fun x => { x with mode := .training, lastStart := some s.now })) s

def execStackOnline (m : MbxId) (s : State) : Host.Outcome State Fault Refusal := .next (serve m 0x0904 stackOnline s)

/-- A stack under STACK_ONLINE that has trained for 60 ms is being written with zero (07 R166, Table 18-19). -/
def onlineInitialises (s : State) : State :=
  (s.mgr.ops.filter fun o => o.id == 0x0904).foldl (fun s o =>
    let k := o.le 0 1
    let x := s.stack k
    if x.mode = .training ∧ (x.lastStart.getD s.now) + 60000000 ≤ s.now then
      s.modStack k fun x => { x with mode := .initialising }
    else s) s

/-- Zero with good check symbols in every sector of an isolated stack. -/
def zeroStack (k : Nat) (s : State) : State :=
  let base := poolAddrOf s.hbm (64 * k) 0
  (List.range 768).foldl (fun s j => fillPage (base + j * 0x4000000) 0x4000000 [] [] s) s

/-- The end of STACK_ONLINE: the stack, INITIALISING until now, is ACTIVE and zero, or OFFLINE when its training
failed. -/
def endOnline (o : RunOp) (ok : Bool) (s : State) : State :=
  let k := o.le 0 1
  if ok then
    if (s.stack k).mode ≠ .initialising then s
    else endOp o mbxOk [] (zeroStack k (s.modStack k fun x => { x with mode := .active, tune := x.temp }))
  else endOp o mbxFailed [] (s.modStack k fun x => { x with mode := .offline })

/-! ## Locked lines (08 R181, R182) -/

/-- RANGE checks of CACHE_LOCK and CACHE_UNLOCK. -/
def lockRange (c : MCmd) : List (Bool × Nat) :=
  [(c.le 0 8 % 128 != 0 || decide (poolBytes < c.le 0 8), 0),
   (c.le 8 8 % 128 != 0 || decide (poolBytes < c.le 0 8 + c.le 8 8), 8)]

/-- Line numbers of a range. -/
def lockLines (pa n : Nat) : List Nat := (List.range (n / 128)).map (pa / 128 + ·)

def lockedHere (s : State) (line : Nat) : Bool :=
  let c := s.cisOf (128 * line)
  match s.findWay c false line with
  | some w => (s.way c (setOf s.hbm line) w).lock
  | none => false

/-- Locked ways of the set of a line once the whole range is locked. -/
def locksAfter (s : State) (lines : List Nat) (line : Nat) : Nat :=
  let c := s.cisOf (128 * line)
  let set := setOf s.hbm line
  ((List.range 16).filter fun w => (s.way c set w).lock).length
    + (lines.filter fun l => s.cisOf (128 * l) == c && setOf s.hbm l == set && !lockedHere s l).length

/-- One line filled and locked in its home Cistern. -/
def lockLine (s : State) (line : Nat) : State :=
  let c := s.cisOf (128 * line)
  let gaps := (List.range 4).filter fun k => !validAt s c false line k
  let r := fetchSectors c line gaps s
  let s1 := fillSectors c line false false 1 r.1 r.2
  match s1.findWay c false line with
  | some w =>
    let l := s1.way c (setOf s1.hbm line) w
    s1.setWay c (setOf s1.hbm line) w { l with lock := true }
  | none => s1

/-- CACHE_LOCK (08 R181). -/
def cacheLock (c : MCmd) (s : State) : State :=
  let pa := c.le 0 8
  let n := c.le 8 8
  let lines := lockLines pa n
  let outOfService (l : Nat) : Bool :=
    s.hbm.iso.getLsbD (s.stackOf (128 * l)) && (s.stack (s.stackOf (128 * l))).mode != .active
  long c (lockRange c) [(physHeld pa n s, 0)]
    [(lines.any outOfService, 0), (lines.any fun l => decide (12 < locksAfter s lines l), 0)]
    (fun s => lines.foldl lockLine s) s

def execCacheLock (m : MbxId) (s : State) : Host.Outcome State Fault Refusal := .next (serve m 0x0410 cacheLock s)

/-- A locked line is unlocked with age 3. -/
def unlockLine (s : State) (line : Nat) : State :=
  let c := s.cisOf (128 * line)
  match s.findWay c false line with
  | none => s
  | some w =>
    let l := s.way c (setOf s.hbm line) w
    if l.lock then s.setWay c (setOf s.hbm line) w { l with lock := false, age := 3 } else s

/-- CACHE_UNLOCK (08 R182). -/
def cacheUnlock (c : MCmd) (s : State) : State :=
  checked c (lockRange c) [(physHeld (c.le 0 8) (c.le 8 8) s, 0)] []
    (fun s => answer c [] ((lockLines (c.le 0 8) (c.le 8 8)).foldl unlockLine s)) s

def execCacheUnlock (m : MbxId) (s : State) : Host.Outcome State Fault Refusal := .next (serve m 0x0411 cacheUnlock s)

/-! ## Notices and supply (09 R212, R213) -/

/-- XLT_NOTIFY_RING (09 R213). -/
def xltNotifyRing (c : MCmd) (s : State) : State :=
  let va := c.le 0 8
  let n := c.le 8 2
  checked c [(va % 32 != 0 || decide (2 ^ 52 ≤ va), 0), (decide (n < 64) || decide (4096 < n), 8)] [] [] (fun s =>
    let r := (pagesOf va (32 * n)).foldl (fun (r : Bool × State) u =>
      let t := firmwareWalk (u * 0x4000000) r.2
      (r.1 && t.1.isSome, t.2)) (true, s)
    if r.1 then answer c [] { r.2 with xlt := { r.2.xlt with ring := some ⟨va, n, 0⟩ } }
    else refuse c mbxFailed 0 r.2) s

def execXltNotifyRing (m : MbxId) (s : State) : Host.Outcome State Fault Refusal := .next (serve m 0x0420 xltNotifyRing s)

/-- PAGE_SUPPLY (09 R212). -/
def pageSupply (c : MCmd) (s : State) : State :=
  let n := c.le 8 2
  let big := c.le 10 1 == 1
  let size := pageBytes big
  checked c [(n == 0 || decide (1024 < n), 8), (decide (1 < c.le 10 1), 10)] [] [] (fun s =>
    match pinnedRead (c.le 0 8) (8 * n) s with
    | (none, s1) => refuse c mbxFailed 0 s1
    | (some bs, s1) =>
      let pages := (List.range n).map fun k => leAt bs (8 * k) 8
      if pages.any fun a => a % size != 0 || decide (poolBytes < a + size) then refuse c mbxRange 0 s1
      else
        let all := s1.xlt.supply ++ pages.map fun a => (a, big)
        answer c (leBytes 2 all.length) { s1 with xlt := { s1.xlt with supply := all } }) s

def execPageSupply (m : MbxId) (s : State) : Host.Outcome State Fault Refusal := .next (serve m 0x0421 pageSupply s)

/-! ## Moves on request (09 R214) -/

/-- The leaf that names the destination of a move out: identical but for RES and ADDR. -/
def movedLeaf (leaf : W64) (attach : Bool) (dest : Nat) : W64 :=
  w64 (fieldOf leaf 52 12 * 2 ^ 52 + dest / 256 * 256 + fieldOf leaf 6 2 * 2 ^ 6
    + (if attach then resAttach else resAbsent) * 2 ^ 4 + fieldOf leaf 0 4)

/-- What the move out takes away: the base and size of the pool page. -/
def moveRecord (o : RunOp) (s : State) : Option FaultRec :=
  s.xlt.records.find? fun r => match r.move with
    | some v => v.m == o.m && v.slot == o.slot
    | none => false

/-- The move begins: its record, and outward the new leaf; MIGRATION_SERVICE withdraws the old translation. -/
def startMove (c : MCmd) (vpage : Nat) (inward attach : Bool) (dest at_ : Nat) (leaf : W64) (big : Bool) (s : State) : State :=
  let mv : MoveReq := ⟨c.m, slotOfOp c s, inward, attach, if inward then dest else leafAddr leaf, at_⟩
  let r : FaultRec := { vpage := vpage, big := big, engines := 0, waiters := 0, first := s.now, phase := .posted,
                        move := some mv }
  let s1 : State := { s with xlt := { s.xlt with records := s.xlt.records ++ [r] } }
  if inward then s1 else poolWrite at_ (leBytes 8 (movedLeaf leaf attach dest).toNat) .none s1

/-- PAGE_MIGRATE (09 R214). -/
def pageMigrate (c : MCmd) (s : State) : State :=
  let vpage := c.le 0 8
  let dest := c.le 8 8
  let inward := c.le 16 1 % 2 == 1
  let attach := c.le 16 1 / 2 % 2 == 1
  let f := pastInvals (findLeaf vpage) s
  let s1 := f.2
  let moves := (s1.xlt.records.filter fun r => r.move.isSome).length
  let named := s1.xlt.records.any fun r => r.vpage == vpage
  match f.1 with
  | none => checked c [(vpage % 0x4000000 != 0 || decide (2 ^ 52 ≤ vpage), 0)] [(named || decide (8 ≤ moves), 0)]
      [(true, 0)] id s1
  | some (a, leaf, big) =>
    let size := pageBytes big
    let rightSide := if inward then leafRes leaf == resAbsent || leafRes leaf == resAttach else leafRes leaf == resPool
    long c [(vpage % size != 0 || decide (2 ^ 52 ≤ vpage), 0),
        (!inward && (dest % size != 0 || decide (dest < apertureBase) || decide (apertureEnd < dest + size)), 8)]
      [(named || decide (8 ≤ moves), 0)] [(leafPin leaf || !rightSide, 0)]
      (startMove c vpage inward attach dest a leaf big) s1

def execPageMigrate (m : MbxId) (s : State) : Host.Outcome State Fault Refusal := .next (serve m 0x0422 pageMigrate s)

/-- The page's bytes as the pool reads them, put into the attach host's memory with their poison (07 R157). -/
def copyOut (pa dest n : Nat) (s : State) : State :=
  let r := poolRead codeNone pa n false true s
  let out := r.1.map Prod.fst
  let s1 := r.2
  let port : PortId := match routePort s1 (halfOffset s1.hbm.spread pa).1 dest with
    | some p => if p = 0 then 0 else 1
    | none => 0
  let s2 := emit (.hostWrite port dest out (r.1.any Prod.snd)) s1
  let bad (k : Nat) : Bool := ((r.1.drop (32 * k)).take 32).any Prod.snd
  { s2 with host := { s2.host with
    mem := s2.host.mem.writeN dest out
    poison := (List.range (n / 32)).foldl (fun m k => Sparse.set false m (dest / 32 + k) (bad k)) s2.host.poison } }

/-- The end of PAGE_MIGRATE. Inward the record has left its outcome. Outward the old translation has been
withdrawn: the data is copied, the notice posted and the record released to the faults that wait on it. -/
def endMigrate (o : RunOp) (ok : Bool) (s : State) : State :=
  match o.result with
  | some (st, pay) => endOp o st pay s
  | none => match moveRecord o s with
    | none => endOp o mbxFailed [] s
    | some r => match r.move with
      | none => s
      | some v =>
        if v.toPool ∨ r.phase ≠ .moving then s
        else
          let dest := o.le 8 8
          let s2 := if ok then copyOut v.dest dest (pageBytes r.big) s else s
          let keep (x : FaultRec) : Option FaultRec :=
            if x.vpage = r.vpage then (if x.waiters = 0 then none else some { x with move := none, phase := .posted })
            else some x
          let s3 : State := { s2 with xlt := { s2.xlt with records := s2.xlt.records.filterMap keep } }
          let s4 := if ok then
              postNotice ⟨2, r.big, r.vpage, dest, v.dest, r.waiters, r.engines⟩ (count migrateCount 1 s3)
            else s3
          endOp o (if ok then mbxOk else mbxFailed) (leBytes 8 dest ++ leBytes 8 v.dest) s4

/-! ## Key selectors (09 R217) -/

/-- KEY_MAP (09 R217). -/
def keyMap (c : MCmd) (s : State) : State :=
  let pa := c.le 0 8
  let pages := c.le 8 4
  let sel := c.le 12 1
  let n := pages * 0x4000000
  let inR (l : Nat) : Bool := pa < 128 * l + 128 && 128 * l < pa + n
  let locked := s.coh.cis.any fun e => e.2.ways.any fun w => w.2.lock && inR w.2.line
  long c [(pa % 0x4000000 != 0 || decide (poolBytes < pa), 0), (decide (poolBytes < pa + n), 8), (decide (63 < sel), 12)]
    [(physHeld pa n s, 0)] [(locked, 0), ((s.keyOf sel).isNone, 12)] (fun s =>
      let s1 := setSelectors pa pages sel s
      if c.le 13 1 % 2 = 1 then
        (List.range pages).foldl (fun s k => fillPage (pa + k * 0x4000000) 0x4000000 [] [] s) s1
      else s1) s

def execKeyMap (m : MbxId) (s : State) : Host.Outcome State Fault Refusal := .next (serve m 0x0423 keyMap s)

end Sys2Proof.Machine
end

