-- ==== Sys2Proof/Machine/MgrPow.lean ====
section
/-! DEFINITION. Mailbox commands for the load envelope and power regulation (spec 16 R341-R358, 17 R367-R376),
the end of a recalibration, and CLAIM, which answers a handover. -/

namespace Sys2Proof.Machine

/-! ## The envelope (16 R341, R350) -/

/-- FLOOR_MAX_W, SLOPE_DEFAULT and SLOPE_MAX of the geometry table (01 R25). -/
def floorMaxW : Nat := 2800
def slopeDefault : Nat := 20
def slopeMax : Nat := 200

/-- RANGE checks of F, C and S at their payload offsets. -/
def limitRange (c : MCmd) (f cl sl : Nat) : List (Bool × Nat) :=
  [(decide (floorMaxW < c.le f 4), f), (decide (c.le cl 4 < c.le f 4) || decide (ratedW < c.le cl 4), cl),
   (c.le sl 2 == 0 || decide (slopeMax < c.le sl 2), sl)]

/-- The group envelope of a Steward. -/
def setGroupEnvelope (f cl sl sg cg : Nat) (cover : Bool) (s : State) : State :=
  s.modStew fun w => { w with memF := f, memC := cl, memS := sl, sg := sg, cg := cg, lossCover := cover
                              recs := Sparse.updateWhere {} (fun _ => true) (fun r => { r with extra := 0 }) w.recs }

/-- ENVELOPE_SET (16 R350, R358). -/
def envelopeSet (c : MCmd) (s : State) : State :=
  let stew := isSteward s
  let cover := c.le 10 1 % 2 == 1
  checked c (limitRange c 0 4 8 ++ [(!stew && cover, 10), (!stew && c.le 12 4 != 0, 12), (!stew && c.le 16 4 != 0, 16)]) []
    [(!stew && s.env.member, 0)] (fun s =>
      if stew then
        let sg := if s.stew.head = 0xFFFF then c.le 12 4 else s.stew.sg
        let s1 := setGroupEnvelope (c.le 0 4) (c.le 4 4) (c.le 8 2) sg (c.le 16 4) cover s
        answer c [] (if s1.env.role = 1 then sendEnvelopes s1 else s1)
      else answer c [] (setLimits (c.le 0 4) (c.le 4 4) (c.le 8 2) s)) s

def execEnvelopeSet (m : MbxId) (s : State) : Host.Outcome State Fault Refusal := .next (serve m 0x0201 envelopeSet s)

/-- POWER_GROUP_JOIN (16 R350): a package that returns to STANDALONE keeps its envelope, and grants what
waits itself. -/
def powerGroupJoin (c : MCmd) (s : State) : State :=
  let pg := BitVec.ofNat 16 (c.le 0 2)
  let steward := BitVec.ofNat 16 (c.le 2 2)
  if steward = 0xFFFF then
    answer c [] (sluiceAsk (s.modEnv fun e => { e with
      member := false, steward := 0xFFFF, standby := 0xFFFF, hold := false, asks := [], pace := 64 }))
  else
    answer c [] (s.modEnv fun e => { e with
      member := true, pgroup := pg, steward := steward, standby := BitVec.ofNat 16 (c.le 4 2), hold := false
      epoch := if e.member && e.pgroup == pg then e.epoch else 0
      lastBeat := s.now, lastReport := s.now })

def execPowerGroupJoin (m : MbxId) (s : State) : Host.Outcome State Fault Refusal := .next (serve m 0x0202 powerGroupJoin s)

/-! ## Roles (16 R350, R355, R356) -/

/-- What a Steward already knows of the nodes of its list; every member counts as heard now. -/
def keptRecs (list : List NodeId) (s : State) : Sparse MemberRec :=
  list.foldl (fun m n => Sparse.set {} m n.toNat { s.memberRec n with lost := false, reported := some s.now }) []

/-- The epoch a Steward takes: above its own and above every one its members have reported. -/
def newEpoch (list : List NodeId) (s : State) : BitVec 32 :=
  BitVec.ofNat 32 (list.foldl (fun m n => max m (s.memberRec n).epoch.toNat) s.env.epoch.toNat + 1)

/-- A new Steward claims its group and states the envelope. -/
def announce (s : State) : State :=
  sendEnvelopes (s.stew.list.foldl (fun s n => if n = s.node then s else sendDown n kindClaim (permitMsg s) s) s)

/-- The role is taken, with its member list. -/
def takeRole (c : MCmd) (role : Nat) (list : List NodeId) (s : State) : State :=
  let s1 : State := { s with stew := { ({} : StewardState) with
    list := list, recs := keptRecs list s, sg := c.le 32 4, cg := c.le 36 4, memF := c.le 20 4, memC := c.le 24 4
    memS := c.le 28 2, lossCover := c.le 30 1 % 2 == 1, head := BitVec.ofNat 16 (c.le 18 2)
    lastBeat := s.now, lastSnap := s.now, lastEnvelope := s.now, lastShare := s.now, lastSlot := slotOf s.now } }
  let s2 := s1.modEnv fun e => { e with role := role, pgroup := BitVec.ofNat 16 (c.le 0 2) }
  if role = 1 then
    announce (s2.modEnv fun e => { e with
      epoch := newEpoch list s, steward := s.node, standby := BitVec.ofNat 16 (c.le 16 2)
      member := list.contains s.node, hold := false, lastBeat := s.now })
  else if role = 3 then s2.modEnv fun e => { e with epoch := newEpoch list s }
  else s2

/-- STEWARD_ROLE (16 R350). -/
def stewardRole (c : MCmd) (s : State) : State :=
  let role := c.le 2 1
  let n := c.le 4 4
  let most := if role = 3 then 256 else 4096
  if role = 0 then
    answer c [] { s with env := { s.env with role := 0 }, stew := {} }
  else
    checked c ([(decide (3 < role), 2), (n == 0 || decide (most < n), 4)] ++ limitRange c 20 24 28) [] [] (fun s =>
      match pinnedRead (c.le 8 8) (2 * n) s with
      | (none, s1) => refuse c mbxFailed 0 s1
      | (some bs, s1) =>
        let list : List NodeId := (List.range n).map fun k => BitVec.ofNat 16 (leAt bs (2 * k) 2)
        answer c [] (takeRole c role list s1)) s

def execStewardRole (m : MbxId) (s : State) : Host.Outcome State Fault Refusal := .next (serve m 0x0203 stewardRole s)

def inGroup (c : MCmd) (s : State) : Bool := BitVec.ofNat 16 (c.le 0 2) == s.env.pgroup

/-- STEWARD_HANDOVER (16 R356): the final SNAPSHOT goes out; the answer follows the standby's CLAIM. -/
def stewardHandover (c : MCmd) (s : State) : State :=
  checked c [] [(s.stew.handing, 0)] [(s.env.role != 1 || !inGroup c s || s.env.standby == 0xFFFF, 0)] (fun s =>
    let op : RunOp := ⟨c.m, none, c.id, BitVec.ofNat 32 c.tag, c.pay, none⟩
    sendSnapshot true ((s.modStew fun w => { w with handing := true, handAt := s.now }).modMgr fun g =>
      { g with ops := g.ops ++ [op] })) s

def execStewardHandover (m : MbxId) (s : State) : Host.Outcome State Fault Refusal := .next (serve m 0x0204 stewardHandover s)

/-- No CLAIM has come within the 5 ms of 18 R386: the command is answered TIMEOUT. -/
def handoverTimeout (s : State) : State :=
  if s.stew.handing ∧ s.stew.handAt + 5000000 ≤ s.now then endOps (fun o => o.id == 0x0204) mbxTimeout [] s else s

/-- CLAIM (16 R355, R356): a member follows the new Steward; a Steward that hands over gives up its role. -/
def takeClaim (m : PermitMsg) (s : State) : State :=
  let own := s.env.epoch
  let s1 := memberClaim m s
  if s.env.role = 1 ∧ own.toNat < m.epoch.toNat then
    endOps (fun o => o.id == 0x0204) mbxOk [] (s1.modEnv fun e => { e with role := 0 })
  else s1

def execClaim (m : PermitMsg) (s : State) : Host.Outcome State Fault Refusal := receive m (takeClaim m) s

/-! ## Pacing and status (16 R354, Table 18-10) -/

/-- PACE_SET (16 R354): PACE_HOLD_MS and one pace set; members whose cap changes hear of it. -/
def paceSet (c : MCmd) (s : State) : State :=
  let k := c.le 4 1
  let n := c.le 6 2
  let ms := if c.le 2 2 = 0 then 50 else c.le 2 2
  checked c [(decide (63 < k), 4), (decide (1 < c.le 5 1), 5), (decide (2036 < n), 6)] []
    [(s.env.role != 1 || !inGroup c s, 0)] (fun s =>
      let old := (s.paceSet k).members
      let ids : List NodeId := (List.range n).map fun j => BitVec.ofNat 16 (c.le (8 + 2 * j) 2)
      let new : PaceSet := if c.le 5 1 = 1 then { members := ids } else {}
      let s1 := s.modStew fun w => { w with paceHoldMs := ms, sets := Sparse.set {} w.sets k new }
      answer c [] (old.foldl (fun s n => sendEnvelope n s) s1)) s

def execPaceSet (m : MbxId) (s : State) : Host.Outcome State Fault Refusal := .next (serve m 0x0205 paceSet s)

/-- One member of ENVELOPE_STATUS. -/
def memberStatus (s : State) (n : NodeId) : List Byte :=
  let r := s.memberRec n
  leBytes 2 n.toNat ++ leBytes 2 (b2n r.lost + 2 * b2n (setDuty s n < 64)) ++ leBytes 4 r.level
    ++ leBytes 4 r.floorW ++ leBytes 4 r.waiting

/-- ENVELOPE_STATUS: as many members from FIRST on as the response carries. -/
def envelopeStatus (c : MCmd) (s : State) : State :=
  checked c [] [] [(!isSteward s || !inGroup c s, 0)] (fun s =>
    let ms := (s.stew.list.drop (c.le 2 2)).take (if c.m = 2 then 62 else 254)
    answer c (leBytes 2 ms.length ++ leBytes 2 s.stew.queue.length ++ leBytes 4 0 ++ ms.flatMap (memberStatus s)) s) s

def execEnvelopeStatus (m : MbxId) (s : State) : Host.Outcome State Fault Refusal := .next (serve m 0x0206 envelopeStatus s)

/-! ## Regulation (17) -/

/-- The margin of T-die c as a byte. -/
def marginByte (s : State) (c : Nat) : Byte := BitVec.ofInt 8 (marginOf s c)

/-- POWER_TRIM (17 R373). -/
def powerTrim (c : MCmd) (s : State) : State :=
  let apply := c.le 0 1 == 1
  let bad (k : Nat) : Bool := apply && (decide (c.le (4 + k) 1 < 25) || decide (50 < c.le (4 + k) 1) || c.le (4 + k) 1 % 5 != 0)
  checked c [(decide (1 < c.le 0 1), 0), ((List.range 4).any bad, 4)] [] [(s.pwr.droop, 0)] (fun s =>
    let changed := apply && (List.range 4).any fun k => (c.le (4 + k) 1 : Int) != marginOf s k
    let s0 := if apply then s.modPwr fun p => { p with margins := (List.range 4).foldl (fun m k =>
        Sparse.set 0 m k ((c.le (4 + k) 1 : Int) - 50)) p.margins } else s
    let s1 := if changed then raiseEv srcPwr evTrim s0 else s0
    let slack := (List.range 4).flatMap fun k => leBytes 2 (tempOf s1.pwr.slack k)
    answer c ((List.range 4).map (marginByte s1) ++ slack ++ leBytes 8 s1.pwr.evalTime) s1) s

def execPowerTrim (m : MbxId) (s : State) : Host.Outcome State Fault Refusal := .next (serve m 0x0207 powerTrim s)

/-- PWR_TAGt (Table 17-10). -/
def tagWord (s : State) (t : Nat) : W64 :=
  let e := s.tag t
  w64 (e.samples * 2 ^ 48 + min 0xFFFF (e.mem / 4096) * 2 ^ 16 + min 0xFFFF (e.array / 4096))

/-- CAP_TAGS (17 R369). -/
def capTags (c : MCmd) (s : State) : State :=
  let op := c.le 0 1
  checked c [(decide (2 < op), 0), (op == 1 && decide (63 < c.le 1 1), 1)] [] [] (fun s =>
    if op = 0 then answer c ((List.range 64).flatMap fun t => leBytes 8 (tagWord s t).toNat) s
    else if op = 1 then answer c [] (s.modPwr fun p => { p with tags := Sparse.set {} p.tags (c.le 1 1) {} })
    else answer c [] (s.modPwr fun p => { p with tags := [] })) s

def execCapTags (m : MbxId) (s : State) : Host.Outcome State Fault Refusal := .next (serve m 0x0208 capTags s)

/-- FIXED_RATE (17 R376): running arrays take the mode's duty at their next 64-cycle boundary. -/
def fixedRate (c : MCmd) (s : State) : State :=
  checked c [(decide (1 < c.le 0 1), 0)] [] [] (fun s =>
    let s1 := s.modPwr fun p => { p with fixedRate := c.le 0 1 == 1, fixedLost := false }
    let s2 := if c.le 0 1 = 1 then (runningArrays s1).foldl (fun s a => setDuty' a (arrayLimit s a).1 s) s1 else s1
    answer c [] s2) s

def execFixedRate (m : MbxId) (s : State) : Host.Outcome State Fault Refusal := .next (serve m 0x0209 fixedRate s)

/-- DROOP_MODE (17 R374). -/
def droopMode (c : MCmd) (s : State) : State :=
  let busy (u : StreamUnit) : Bool := u.status != .idle && u.status != .ballast
  checked c [(decide (1 < c.le 0 1), 0)] []
    [((List.range 16).any (fun n => busy (s.arr n).su || busy (s.vec n).su), 0)]
    (fun s => answer c [] (s.modPwr fun p => { p with droop := c.le 0 1 == 1 })) s

def execDroopMode (m : MbxId) (s : State) : Host.Outcome State Fault Refusal := .next (serve m 0x020A droopMode s)

/-- WEIGH_CALIBRATE (17 R367): an attempt begins at once, in the place of one under way. -/
def weighCalibrate (c : MCmd) (s : State) : State :=
  long c [] [(weighHeld s, noField)] [] (fun s =>
    let slot := (s.mgr.ops.getLast?).bind (·.slot)
    count calCount 1 (s.modPwr fun p => { p with recal := some { start := s.now, cmd := some (c.m, slot) } })) s

def execWeighCalibrate (m : MbxId) (s : State) : Host.Outcome State Fault Refusal := .next (serve m 0x020B weighCalibrate s)

/-- RECALIBRATION_END (17 R367): 200 ms after the attempt began. -/
def recalibrationEnd (s : State) : State :=
  match s.pwr.recal with
  | none => s
  | some r =>
    if s.now < r.start + 200000000 then s
    else
      let s1 := (recalFinish r s).2
      match r.cmd with
      | none => s1
      | some (m, slot) => match opAt m slot s1 with
        | none => s1
        | some o =>
          let good := s1.pwr.wh == .trusted
          endOp o (if good then mbxOk else mbxFailed) (leBytes 2 s1.pwr.gain ++ leBytes 2 s1.pwr.dPermille) s1

def execRecalibrationEnd (s : State) : Host.Outcome State Fault Refusal := .next (clocked recalibrationEnd s)

end Sys2Proof.Machine
end

