-- ==== Sys2Proof/Machine/Firmware.lean ====
section
/-! DEFINITION. Identity and geometry reads, firmware images and their checks, live activation, and the end of
long operations (spec 01 R25-R26, 18 R387, R392, 19 R394-R399, R408-R411). -/

namespace Sys2Proof.Machine

def State.modBoot (s : State) (f : BootState → BootState) : State := { s with boot := f s.boot }

def bootCtr (off : Nat) : Nat := off
def resetCount : Nat := bootCtr 0x100
def activateCount : Nat := bootCtr 0x108
def loadFailCount : Nat := bootCtr 0x110

/-- Stages (Table 19-12). -/
def stRomInit : Nat := 1
def stWaitImage : Nat := 2
def stVerify : Nat := 3
def stFwInit : Nat := 4
def stReady : Nat := 5
def stActivating : Nat := 6
def stActivateFailed : Nat := 7
def stResetPending : Nat := 8

/-- Boot errors (Table 19-13). -/
def errReadFail : Byte := 1
def errImageFormat : Byte := 2
def errKeyUnknown : Byte := 3
def errSignature : Byte := 4
def errSvnLow : Byte := 5
def errFwStartTimeout : Byte := 6
def errStateRejected : Byte := 7
def errStackTrain : Byte := 8

/-- Bits of BOOT_EVENTS (Table 19-15). -/
def evReady : Nat := 0
def evLoadFail : Nat := 1
def evActivated : Nat := 2
def evActivateFail : Nat := 3

def partId : Nat := 0x00092448
def stepping : Nat := 0x42
def gradeCode : Nat := if Config.gradeExtended then 0x45 else 0x43

/-! ## The geometry table (01 R26, Table 1-7) -/

/-- The fields of the table in order: bytes and value. -/
def geometryFields : List (Nat × Nat) :=
  [(2, 1), (2, 512), (4, partId), (1, stepping), (1, gradeCode), (1, 2), (1, 3), (1, 2), (3, 0),
   (2, 2), (2, 128), (2, 16), (2, 0x1111), (2, 16), (2, 32), (1, 2), (1, 2), (1, 2), (1, 0)]
  ++ [(2, 256), (2, 256), (2, 96), (2, 0), (8, 0x00FF0000000000FF), (2, 24), (2, 1536), (4, 48),
   (8, 0x12000000000), (4, 8000), (4, 98304), (2, 4), (1, 16), (1, 12), (4, 24576), (4, 1024)]
  ++ [(2, 64), (2, 1024), (2, 32), (2, 1024), (2, 32), (2, 0), (4, 4000), (4, 2000), (4, 3600), (4, 1000),
   (2, refIssueDuty), (2, 64), (2, 64), (2, 16), (4, ratedW), (4, excursionW), (4, floorMaxW), (2, slopeDefault), (2, slopeMax)]
  ++ [(1, 14), (1, 32), (1, 4), (1, 12), (4, 0), (8, 0x84000000), (4, 4096), (2, 256), (2, 4096), (4, 65536), (4, 65536)]

/-- The table but for its CRC: 508 bytes. -/
def geometryBody : List Byte := fit 508 (geometryFields.flatMap fun f => leBytes f.1 f.2)

/-- The 512 bytes of the geometry table (R26). -/
def geometryTable : List Byte := geometryBody ++ leBytes 4 (crc32 geometryBody).toNat

/-- GEOMETRY_READ (R25). -/
def execGeometryRead (m : MbxId) (s : State) : Host.Outcome State Fault Refusal :=
  .next (serve m 0x0102 (fun c => answer c geometryTable) s)

/-- Digest of an image slot, zero when empty. -/
def digestOf (i : Option Image) : List Byte := match i with | some x => fit 48 x.digest | none => leBytes 48 0

/-- IDENTITY_READ (Table 18-9). -/
def identityRead (c : MCmd) (s : State) : State :=
  let version := match s.boot.running with | some x => x.version | none => 0
  answer c (leBytes 8 Config.fuseSerial.toNat ++ leBytes 4 partId ++ leBytes 1 stepping ++ leBytes 1 gradeCode
    ++ leBytes 2 s.node.toNat ++ fit 48 Config.romDigest ++ digestOf s.boot.running ++ leBytes 8 s.sec.svn
    ++ leBytes 4 version ++ leBytes 1 (b2n s.boot.fwReady)) s

def execIdentityRead (m : MbxId) (s : State) : Host.Outcome State Fault Refusal := .next (serve m 0x0101 identityRead s)

/-! ## Images (19 R397, R398) -/

def imageMax : Nat := 25165824
def runningArea : Nat := 0x1800000

def zeroBytes (bs : List Byte) (off n : Nat) : Bool := leAt bs off n == 0

/-- Entry k of the segment table, with where it lies in the image. -/
structure SegEntry where
  off : Nat
  bytes : Nat
  load : Nat
  kind : Nat
  clean : Bool

def segEntry (img : List Byte) (k : Nat) : SegEntry :=
  let b := 0x100 + 16 * k
  ⟨leAt img b 4, leAt img (b + 4) 4, leAt img (b + 8) 4, leAt img (b + 12) 1, zeroBytes img (b + 13) 3⟩

/-- A segment keeps R397 and Table 19-3 in an image of n segments. -/
def segOk (img : List Byte) (n : Nat) (e : SegEntry) : Bool :=
  e.clean && e.off % 64 == 0 && decide (1 ≤ e.bytes) && decide (0x100 + 16 * n ≤ e.off)
    && decide (e.off + e.bytes + 96 ≤ img.length) && decide (1 ≤ e.kind) && decide (e.kind ≤ 4)
    && (if e.kind ≤ 2 then decide (e.load + e.bytes ≤ runningArea)
        else if e.kind = 4 then decide (e.load + e.bytes ≤ bootPageBytes) else true)

/-- Two segments overlap: in the image, or as CODE and DATA in the running area. -/
def segClash (a b : SegEntry) : Bool :=
  overlap a.off a.bytes b.off b.bytes
    || (decide (a.kind ≤ 2) && decide (b.kind ≤ 2) && overlap a.load a.bytes b.load b.bytes)

def anyClash : List SegEntry → Bool
  | [] => false
  | e :: es => es.any (segClash e) || anyClash es

/-- "TY9FWIMG". -/
def imageMagic : List Byte := [0x54, 0x59, 0x39, 0x46, 0x57, 0x49, 0x4D, 0x47]

/-- Check 2 of Table 19-4. -/
def formatOk (img : List Byte) (len : Nat) : Bool :=
  let n := leAt img 10 2
  let segs := (List.range n).map (segEntry img)
  img.take 8 == imageMagic && leAt img 8 2 == 1 && leAt img 12 4 == partId && leAt img 0x14 4 == len
    && decide (512 ≤ len) && decide (len ≤ imageMax) && decide (1 ≤ n) && decide (n ≤ 16)
    && decide (leAt img 0x18 8 ≤ 64) && decide (leAt img 0x30 1 ≤ 3) && decide (leAt img 0x31 1 ≤ 1)
    && zeroBytes img 0x32 14 && zeroBytes img 0xA0 96 && segs.all (segOk img n) && !anyClash segs

/-- Bytes off .. off+n-1 of a list. -/
def slice (bs : List Byte) (off n : Nat) : List Byte := (bs.drop off).take n

/-- A root key speaks for its slot: not revoked, and its digest is the fused one (20 R412). -/
def rootKnown (slot : Nat) (key : List Byte) (s : State) : Bool :=
  if h : slot < 4 then !s.sec.revoked.getLsbD slot && Config.sha384 key == Config.rootDigest ⟨slot, h⟩ else false

/-- The image its bytes describe. -/
def imageOf (img : List Byte) : Image where
  digest := Config.sha384 (img.take (img.length - 96))
  version := leAt img 0x10 4
  svn := leAt img 0x18 8
  slot := leAt img 0x30 1
  liveOk := leAt img 0x31 1 % 2 == 1
  accept := leAt img 0x28 4
  emit := leAt img 0x2C 4
  entry := leAt img 0x20 8
  segs := (List.range (leAt img 10 2)).map fun k =>
    let e := segEntry img k
    ⟨e.kind, e.load, slice img e.off e.bytes⟩

/-- The checks of Table 19-4 in order. -/
def checkImage (readOk : Bool) (img : List Byte) (len : Nat) (s : State) : Verdict :=
  let key := slice img 0x40 96
  if !readOk then .fail mbxFailed errReadFail
  else if !formatOk img len then .fail mbxFailed errImageFormat
  else if !rootKnown (leAt img 0x30 1) key s then .fail mbxBadSignature errKeyUnknown
  else if !Config.ecdsaVerify key (imageOf img).digest (img.drop (img.length - 96)) then .fail mbxBadSignature errSignature
  else if leAt img 0x18 8 < s.sec.svn then .fail mbxDenied errSvnLow
  else .pass (imageOf img)

/-- FW_LOAD (R398, R399): the image is read through port A; what was staged goes. -/
def fwLoad (readOk : Bool) (c : MCmd) (s : State) : State :=
  let src := c.le 0 8
  let len := c.le 8 4
  let img := s.host.mem.readN (apertureBase + src) len
  long c [(decide (imageMax < len), 8)] [(firmwareHeld s, noField)] [] (fun s =>
    let bad := (List.range (len / 32 + 2)).any fun k => decide (32 * k < src % 32 + len)
      && Sparse.get false s.host.poison ((apertureBase + src) / 32 + k)
    let v := checkImage (readOk && portCarries s 0 && !bad) img len s
    let s1 := s.modBoot fun b => { b with
      verdict := some v, staged := none
      stage := if !b.fwReady && b.stage == stWaitImage then stVerify else b.stage }
    if !portCarries s 0 then reqFail 0 s1
    else
      let s2 := emit (.hostRead 0 (apertureBase + src) len) s1
      if !readOk then reqFail 0 s2
      else if bad then raiseEv srcWin 3 (count (poisonRxCount 0) 1 s2)
      else s2) s

def execFwLoad (m : MbxId) (readOk : Bool) (s : State) : Host.Outcome State Fault Refusal :=
  .next (serve m 0x0701 (fwLoad readOk) s)

/-- The boot page (R396): selector 0, the CORE_BOOT segments at their offsets, zero elsewhere. -/
def writeBootPage (img : Image) (s : State) : State :=
  let data := (img.segs.filter (·.kind == 4)).foldl (fun m g => Mem.writeN m g.load g.data) []
  fillPage 0 bootPageBytes data [] (setSelectors 0 1 0 s)

/-- The boot ROM starts an image (R399). -/
def startImage (img : Image) (s : State) : State :=
  let s1 := s.modBoot fun b => { b with running := some img, stage := stFwInit, fwStart := some s.now }
  if s1.boot.poolReady then writeBootPage img s1 else s1

/-- The end of FW_LOAD: its status, and what becomes of an image that passed (R398, R399, R410). -/
def endFwLoad (o : RunOp) (s : State) : State :=
  let s0 := s.modBoot fun b => { b with verdict := none }
  match s.boot.verdict with
  | none => s
  | some (.fail st e) =>
    let s1 := s0.modBoot fun b => { b with error := e, stage := if b.stage == stVerify then stWaitImage else b.stage }
    endOp o st [] (raiseEv srcBoot evLoadFail (count loadFailCount 1 s1))
  | some (.pass img) =>
    let pay := fit 48 img.digest ++ leBytes 8 img.svn ++ leBytes 4 img.version
    if s.boot.fwReady then endOp o mbxOk pay (s0.modBoot fun b => { b with staged := some img })
    else match s.boot.handover with
      | none => endOp o mbxOk pay (startImage img s0)
      | some fmt =>
        if img.accept = fmt then
          endOp o mbxOk pay (raiseEv srcBoot evReady (s0.modBoot fun b => { b with
            running := some img, handover := none, fwReady := true, stage := stReady, lastPause := (b.lastPause.1, s.now) }))
        else endOp o mbxFailed [] (s0.modBoot fun b => { b with error := errStateRejected })

/-- FW_STATUS. -/
def fwStatus (c : MCmd) (s : State) : State :=
  let version := match s.boot.running with | some x => x.version | none => 0
  answer c (digestOf s.boot.running ++ digestOf s.boot.staged ++ leBytes 4 version ++ leBytes 1 (b2n s.boot.staged.isSome)) s

def execFwStatus (m : MbxId) (s : State) : Host.Outcome State Fault Refusal := .next (serve m 0x0703 fwStatus s)

/-- Every core released in machine mode at pc 0 (R396). -/
def releaseCores (s : State) : State :=
  (List.range 128).foldl (fun s c => s.modCore c fun x => { x with released := true, startPc := 0 }) s

/-- FIRMWARE_READY (R393, R394): the started firmware reports ready once the pool is ready, or has failed. -/
def firmwareReady (s : State) : State :=
  match s.boot.fwStart, s.boot.running with
  | some _, some img =>
    if s.boot.poolReady then
      let s1 := s.modBoot fun b => { b with fwStart := none, fwReady := true, stage := stReady }
      let s2 := if img.segs.any (·.kind == 4) then releaseCores s1 else s1
      settle (raiseEv srcBoot evReady s2)
    else if s.boot.poolFault then settle (s.modBoot fun b => { b with fwStart := none, fwReady := true })
    else s
  | _, _ => s

def execFirmwareReady (s : State) : Host.Outcome State Fault Refusal := .next (clocked firmwareReady s)

/-- FW_START_TIMEOUT (R395): 5 s without ready. -/
def execFwStartTimeout (s : State) : Host.Outcome State Fault Refusal :=
  if !powered s then .next s else
  .next (match s.boot.fwStart with
    | some t => if t + 5000000000 ≤ s.now then
        s.modBoot fun b => { b with fwStart := none, running := none, error := errFwStartTimeout, stage := stWaitImage }
      else s
    | none => s)

/-- BOOT_COUNTER_CLEAR (R411). -/
def execBootCounterClear (v : W64) (s : State) : Host.Outcome State Fault Refusal :=
  .next (clocked (clearOn v 0 0x10000) s)

/-! ## The end of long operations (18 R387) -/

/-- An operation that the firmware cannot finish ends with FAILED, and leaves what its own failure leaves. -/
def failOp (o : RunOp) (s : State) : State :=
  match o.id with
  | 0x0902 => endMargin o false [] s
  | 0x0904 => endOnline o false s
  | 0x0422 =>
    let gone : State := match moveRecord o s with
      | some r => failPage r.vpage 7 s
      | none => s
    let id := moveInvalId o.m o.slot
    endOp o mbxFailed [] { gone with xlt := { gone.xlt with invals := gone.xlt.invals.filter fun i => i.id != id } }
  | _ => endOp o mbxFailed [] s

/-- The work an operation stands for has ended. Retunes, calibrations, trainings and activations end by events
of their own. -/
def longEnd (o : RunOp) (ok : Bool) (data : List Byte) (s : State) : State :=
  match o.id with
  | 0x0410 | 0x0423 => endOp o mbxOk [] s
  | 0x0422 => endMigrate o ok s
  | 0x0701 => endFwLoad o s
  | 0x0902 => endMargin o ok data s
  | 0x0904 => endOnline o ok s
  | _ => s

/-- LONG_OPERATION_END (18 R387). -/
def longOperationEnd (m : MbxId) (slot : Option (Fin 8)) (ok : Bool) (data : List Byte) (s : State) : State :=
  match opAt m slot s with
  | some o => if mgrServes s then longEnd o ok data s else s
  | none => s

def execLongOperationEnd (m : MbxId) (slot : Option (Fin 8)) (ok : Bool) (data : List Byte) (s : State) :
    Host.Outcome State Fault Refusal := .next (clocked (longOperationEnd m slot ok data) s)

/-! ## Live activation (19 R408-R410) -/

/-- FW_ACTIVATE (R408): the old firmware writes its handover state and stops. -/
def fwActivate (c : MCmd) (s : State) : State :=
  let fits := match s.boot.staged, s.boot.running with
    | some n, some r => n.liveOk && n.accept == r.emit && decide (s.sec.svn ≤ n.svn)
    | _, _ => false
  long c [] [(firmwareHeld s, noField)] [(!fits, noField)] (fun s =>
    let slot := (s.mgr.ops.getLast?).bind (·.slot)
    s.modBoot fun b => { b with
      activ := some ⟨s.now, c.m, slot, false⟩, stage := stActivating
      handover := b.running.map (·.emit), lastPause := (s.now, s.now) }) s

def execFwActivate (m : MbxId) (s : State) : Host.Outcome State Fault Refusal := .next (serve m 0x0702 fwActivate s)

/-- The boot ROM takes the manager back (R410). -/
def activationFails (e : Byte) (s : State) : State :=
  let s1 := s.modBoot fun b => { b with
    activ := none, running := none, staged := none, fwReady := false, stage := stActivateFailed, error := e
    lastPause := (b.lastPause.1, s.now) }
  settle (s.mgr.ops.foldl (fun s o => failOp o s) (raiseEv srcBoot evActivateFail s1))

/-- FIRMWARE_START (R409 steps 4 and 5): the new firmware accepts the handover state, or rejects it. -/
def firmwareStart (accepts : Bool) (s : State) : State :=
  match s.boot.activ with
  | some a =>
    if a.started ∨ a.start + 20000000 < s.now then s
    else if accepts then s.modBoot fun b => { b with
      running := b.staged, staged := none, dog := s.now, activ := some { a with started := true } }
    else activationFails errStateRejected s
  | none => s

def execFirmwareStart (accepts : Bool) (s : State) : Host.Outcome State Fault Refusal := .next (clocked (firmwareStart accepts) s)

/-- ACTIVATION_TIMEOUT (R410): 20 ms without the new firmware. -/
def execActivationTimeout (s : State) : Host.Outcome State Fault Refusal :=
  if !powered s then .next s else
  .next (match s.boot.activ with
    | some a => if !a.started ∧ a.start + 20000000 ≤ s.now then activationFails errFwStartTimeout s else s
    | none => s)

/-- ACTIVATION_COMPLETE (R409 step 6): mailboxes and fault service resume, and the waits for supplied pages go
on where they stood. -/
def activationComplete (s : State) : State :=
  match s.boot.activ with
  | some a =>
    if !a.started then s
    else
      let pause := s.now - a.start
      let later (r : FaultRec) : FaultRec := match r.phase with
        | .noPage t => { r with phase := .noPage (t + pause) }
        | _ => r
      let s1 := s.modBoot fun b => { b with activ := none, handover := none, stage := stReady, lastPause := (a.start, s.now) }
      let s2 : State := { s1 with xlt := { s1.xlt with records := s1.xlt.records.map later } }
      let s3 := raiseEv srcBoot evActivated (raiseEv srcBoot evReady (count activateCount 1 s2))
      settle (match opAt a.m a.slot s3 with
        | some o => endOp o mbxOk (leBytes 4 (pause / 1000)) s3
        | none => s3)
  | none => s

def execActivationComplete (s : State) : Host.Outcome State Fault Refusal := .next (clocked activationComplete s)

end Sys2Proof.Machine
end

