-- ==== Sys2Proof/Machine/Link.lean ====
section
/-! DEFINITION. The Llynvan links (spec 14 R299-R314): training, flits and retry, control flits, packets
and their routing, withdrawal, NODE_DOWN, and the link and route commands of the manager. -/

namespace Sys2Proof.Machine

/-- The state an outcome leads to. -/
def outState (o : Host.Outcome State Fault Refusal) (s : State) : State :=
  match o with
  | .next t => t
  | _ => s

/-! ## Training (R299, R311, R312, R314) -/

/-- Ethernet port of a link, for the sixteen that can be one. -/
def ethOfLink (n : Nat) : Option Nat := if n < 8 then some n else if 48 ≤ n ∧ n < 56 then some (n - 40) else none
def linkOfEth (p : Nat) : Nat := if p < 8 then p else p + 40

/-- Training of a link begins. -/
def startTraining (n : Nat) (by_ : TrainBy) (s : State) : State :=
  (dropTraffic n s).modLink n fun l => { l with
    mode := .training, gen := 0, ethRate := 0, train := some by_, lastTry := s.now, nextWord := 0 }

/-- The operation of a link command in progress. -/
def linkOp (n id : Nat) (s : State) : Option RunOp := s.mgr.ops.find? fun o => o.id == id && o.le 0 1 == n

/-- What a LINK_RETRAIN or LINK_CONFIG does once its link carries nothing: train, or power down. -/
def linkOpStep (n : Nat) (s : State) : State :=
  match linkOp n 0x0504 s with
  | some o =>
    if o.le 1 1 = 2 then
      endOp o mbxOk [] (s.modLink n fun l => { l with mode := .disabled, gen := 0, ethRate := 0, off := true, eth := false })
    else startTraining n (.cmd o.m o.slot)
      (s.modLink n fun l => { l with off := false, eth := o.le 1 1 == 1, maxGen := o.le 2 1 })
  | none => match linkOp n 0x0506 s with
    | some o => startTraining n (.cmd o.m o.slot) s
    | none => s

/-- After a link went DOWN: a withdrawal command times out, a retraining goes on. -/
def linkOpsAfterDown (n : Nat) (s : State) : State :=
  linkOpStep n (match linkOp n 0x0505 s with
    | some o => endOp o mbxTimeout [] s
    | none => s)

/-- Training has ended at generation or rate `g` (counted from 1). -/
def trained (n g : Nat) (s : State) : State :=
  let l := s.link n
  let g := min g l.maxGen
  let by_ := l.train
  if l.eth then
    let s1 := s.modLink n fun l => { l with mode := .ethernet, ethRate := g, train := none, cause := 0 }
    endOps (fun o => o.id == 0x0506 && o.le 0 1 == n) mbxOk (leBytes 1 g)
      (endOps (fun o => o.id == 0x0504 && o.le 0 1 == n) mbxOk [] s1)
  else
    let g := min g 2
    let up := by_ == some .startup
    let s1 := sendIdent n (s.modLink n fun l => { l with mode := if up then .up else .withdrawn, gen := g, train := none })
    let s2 := if up then raiseArg srcLnk evLinkUp (w64 n) s1 else s1
    endOps (fun o => o.id == 0x0506 && o.le 0 1 == n) mbxOk (leBytes 1 g)
      (endOps (fun o => o.id == 0x0504 && o.le 0 1 == n) mbxOk [] s2)

/-- LINK_TRAINING_END (R299). -/
def trainingEnd (n : Nat) (gen : Option (Fin 3)) (s : State) : State :=
  if (s.link n).mode ≠ .training then s
  else match gen with
    | some g => trained n (g.val + 1) s
    | none =>
      endOps (fun o => (o.id == 0x0504 || o.id == 0x0506) && o.le 0 1 == n) mbxFailed [] (linkGoesDown n 4 s)

def execLinkTrainingEnd (n : LinkId) (gen : Option (Fin 3)) (s : State) : Host.Outcome State Fault Refusal :=
  .next (clocked (trainingEnd n.val gen) s)

/-- AUTO_RETRAIN_ATTEMPT (R312): a DOWN link, once a second. -/
def execAutoRetrainAttempt (n : LinkId) (s : State) : Host.Outcome State Fault Refusal :=
  if !powered s then .next s else
  let l := s.link n.val
  .next (if s.net.autoRetrain && l.mode == .down && decide (l.lastTry + 1000000000 ≤ s.now) then
      startTraining n.val .auto s else s)

/-- drop(packet) of R307: a dropped WRITE is answered UNREACHABLE, here or to its source. -/
def dropPacket (p : Packet) (s : State) : State :=
  if p.typ ≠ typeWrite then s
  else if p.src = s.node then unreachable p.txn s
  else (sendPacket (mkPacket s p.src typeUnreachable false p.txn p.dst.toNat 0 []) s).2

/-- A packet that waited on a link that failed is routed again (R310). -/
def rerouted (t : TxPkt) (s : State) : State :=
  let p := packetOf t.bytes
  let r := forward t.back { p with hops := p.hops + 1 } s
  if r.1 then r.2 else dropPacket p (t.back.toList.foldl (fun s b => oweSlots b s) r.2)

/-- A link goes DOWN; packets of which it has sent nothing go by the links that are left. -/
def failLink (n : Nat) (cause : Byte) (s : State) : State :=
  let idle (l : LinkSt) : List TxPkt := ([0, 1, 2, 3] : List Nat).flatMap fun v => (txOf l v).filter (!·.begun)
  let kept (l : LinkSt) : Sparse (List TxPkt) :=
    ([0, 1, 2, 3] : List Nat).foldl (fun m v => Sparse.set [] m v ((txOf l v).filter (·.begun))) l.tx
  (idle (s.link n)).foldl (fun s t => rerouted t s)
    (linkGoesDown n cause (s.modLink n fun l => { l with tx := kept l }))

/-- LINK_DOWN (R309): an Ethernet link keeps its state and has no rate. -/
def linkDown (n : Nat) (cause : Byte) (s : State) : State :=
  if (s.link n).mode = .ethernet then s.modLink n fun l => { l with ethRate := 0 }
  else linkOpsAfterDown n (failLink n cause s)

def execLinkDown (n : LinkId) (cause : BitVec 8) (s : State) : Host.Outcome State Fault Refusal :=
  .next (clocked (linkDown n.val cause) s)

/-! ## Withdrawal (R311) -/

def drained (l : LinkSt) : Bool := l.sent == [] && ([0, 1, 2, 3] : List Nat).all fun v => txOf l v == []

/-- An end that has emptied its replay buffer sends WITHDRAW_ACK once. -/
def sendWithdrawAck (n : Nat) (s : State) : State :=
  let l := s.link n
  if l.mode == .withdrawn && (l.withdrawing.isSome || l.peerWithdrew) && !l.ackSent && drained l then
    sendControl n ctlWithdrawAck [] (s.modLink n fun l => { l with ackSent := true })
  else s

/-- This end withdraws an UP link. -/
def beginWithdraw (n : Nat) (s : State) : State :=
  sendWithdrawAck n (sendControl n ctlWithdraw [] (s.modLink n fun l => { l with
    mode := .withdrawn, withdrawing := some s.now, peerWithdrew := false, ackSent := false }))

/-- WITHDRAW (R311): the peer withdraws the link. -/
def peerWithdraw (n : Nat) (s : State) : State :=
  if (s.link n).mode = .up ∨ (s.link n).mode = .withdrawn then
    sendWithdrawAck n (s.modLink n fun l => { l with mode := .withdrawn, peerWithdrew := true, ackSent := l.ackSent && l.withdrawing.isSome })
  else s

def execWithdraw (n : LinkId) (s : State) : Host.Outcome State Fault Refusal := .next (clocked (peerWithdraw n.val) s)

/-- WITHDRAW_ACK (R311). -/
def withdrawAck (n : Nat) (s : State) : State :=
  if (s.link n).withdrawing.isNone then s
  else
    let s1 := s.modLink n fun l => { l with withdrawing := none }
    linkOpStep n (match linkOp n 0x0505 s1 with
      | some o => endOp o mbxOk [] s1
      | none => s1)

def execWithdrawAck (n : LinkId) (s : State) : Host.Outcome State Fault Refusal := .next (clocked (withdrawAck n.val) s)

/-- A withdrawal unanswered for 100 us: the link goes DOWN, with a cause no table names. -/
def withdrawTimeout (n : Nat) (s : State) : State :=
  match (s.link n).withdrawing with
  | some t => if t + 100000 ≤ s.now then
      let r := freshByte s
      linkOpsAfterDown n (failLink n r.1 r.2)
    else s
  | none => s

/-- A withdrawn link is back in up_mask. -/
def linkRestored (n : Nat) (s : State) : State :=
  if (s.link n).mode = .withdrawn then
    pump n (raiseArg srcLnk evLinkUp (w64 n) (s.modLink n fun l => { l with
      mode := .up, withdrawing := none, peerWithdrew := false, ackSent := false }))
  else s

/-- RESTORE (R311): the peer returns the link. -/
def execRestore (n : LinkId) (s : State) : Host.Outcome State Fault Refusal := .next (clocked (linkRestored n.val) s)

/-! ## NODE_DOWN (R310) -/

/-- NODE_DOWN for a node, sent to the neighbour on one link. -/
def sendNodeDown (node : NodeId) (s : State) (n : Nat) : State :=
  if s.node = 0xFFFF then s
  else sendOn n (mkPacket s (s.link n).peer typeMgmt true 0 3 0 (leBytes 2 node.toNat)) s

/-- Exchanges over the fabric with a node that is gone. -/
def fabricLost (node : NodeId) (s : State) : State :=
  (s.mgr.fabric.filter fun w => w.node == node).foldl (fun s w =>
    settle (respond w.m w.tag.toNat mbxFailed 0 [] (s.modMgr fun g => { g with fabric := g.fabric.erase w }))) s

/-- A NODE_DOWN not yet accepted is accepted: marked, counted, forwarded, and acted on. -/
def nodeDown (from_ : Option Nat) (node : NodeId) (s : State) : State :=
  let d := node.toNat
  if (s.route d).unreach then s
  else
    let routes := Sparse.set {} s.net.routes d { s.route d with unreach := true }
    let s1 := raiseEv srcLnk evNodeDown (count nodeDownCount 1 (s.modNet fun t => { t with routes := routes }))
    let s2 := ((upLinks s1).filter fun n => some n != from_).foldl (sendNodeDown node) s1
    let s3 := (s2.net.writes.filter fun o => o.node == node).foldl (fun s o => unreachable o.txn s) s2
    fabricLost node (envNodeDown node (collNodeLost node s3))

/-- NODE_DOWN (R310). -/
def execNodeDown (n : LinkId) (node : NodeId) (s : State) : Host.Outcome State Fault Refusal :=
  .next (clocked (nodeDown (some n.val) node) s)

/-- Every link whose peer is the node has been DOWN for 20 us, and no link of its route is left. -/
def nodeGone (node : NodeId) (s : State) : Bool :=
  let ls := (List.range 96).filter fun n => (s.link n).peerPart != 0 && (s.link n).peer == node
  let e := s.route node.toNat
  ls != [] && ls.all (fun n => (s.link n).mode == .down && decide ((s.link n).downAt + 20000 ≤ s.now))
    && !(upLinks s).any fun n => e.prim.getLsbD n || e.sec.getLsbD n

/-- NODE_DOWN_TIMER (R310): the notice is sent on every UP link, and holds here too. -/
def execNodeDownTimer (node : NodeId) (s : State) : Host.Outcome State Fault Refusal :=
  if !powered s then .next s else
  .next (if nodeGone node s then nodeDown none node s else s)

/-! ## Packets (R304-R307) -/

/-- A permit packet (16 R351): a message of its kind. -/
def permitPacket (p : Packet) (s : State) : State :=
  let (kind, m) := permitOf p.src p.payload
  match kind.toNat with
  | 1 => outState (execRequest m s) s
  | 2 => outState (execGrant m s) s
  | 3 => outState (execReport m s) s
  | 4 => outState (execEnvelope m s) s
  | 5 => outState (execHeartbeat m s) s
  | 6 => outState (execExcursion m s) s
  | 8 => outState (execClaim m s) s
  | _ => s.modNet fun t => { t with arrived := t.arrived ++ [p] }

/-- Mailbox 2 traffic (18 R389): the response of an exchange under way with the sender, or a command. -/
def mailboxPacket (p : Packet) (s : State) : State :=
  if s.mgr.fabric.any fun w => w.node == p.src && w.inner.toNat == leAt p.payload 4 4 then fabricResponse p.src p.payload s
  else mailbox2Command p.src p.payload s

/-- A packet for this node. -/
def deliver (from_ : Option Nat) (p : Packet) (s : State) : State :=
  match p.typ.toNat with
  | 1 => receiveWrite p s
  | 2 => ackWrite p.txn (BitVec.ofNat 16 p.arg.toNat) s
  | 3 => unreachable p.txn s
  | 4 => s.modNet fun t => { t with arrived := t.arrived ++ [p] }
  | 5 => match p.arg.toNat % 256 with
    | 1 => mailboxPacket p s
    | 2 => s.modNet fun t => { t with arrived := t.arrived ++ [p] }
    | 3 => nodeDown from_ (BitVec.ofNat 16 (leAt p.payload 0 2)) s
    | 4 => permitPacket p s
    | _ => s
  | _ => noteDrop s

/-- A packet at this node (R304, R306, R307): a reserved type is dropped, a package without an ID forwards
nothing. The receive buffer slots it holds are free at once unless it waits to be sent on (R303). -/
def routeHeld (from_ : Option Nat) (back : Option HeldSlots) (p : Packet) (s : State) : State :=
  let owed : State := back.toList.foldl (fun s b => oweSlots b s) s
  if p.typ.toNat = 0 ∨ 5 < p.typ.toNat then noteDrop owed
  else if s.node = 0xFFFF then owed
  else if p.dst = s.node then deliver from_ p owed
  else
    let r := forward back p s
    if r.1 then r.2 else dropPacket p (noteDrop owed)

def routePacket (from_ : Option Nat) (p : Packet) (s : State) : State := routeHeld from_ none p s

/-- PACKET_ROUTE (R307). -/
def execPacketRoute (from_ : Option LinkId) (p : Packet) (s : State) : Host.Outcome State Fault Refusal :=
  .next (clocked (routePacket (from_.map Fin.val) p) s)

/-! ## Flits (R300-R302) -/

/-- RETRY_REQ goes out for the FSEQ expected. -/
def askRetry (n : Nat) (s : State) : State :=
  sendControl n ctlRetry (leBytes 2 (s.link n).expect) (s.modLink n fun l => { l with retryAt := some s.now })

/-- A flit is discarded: the replay is asked for, once, until it is repeated. -/
def discardFlit (n : Nat) (s : State) : State := if (s.link n).retryAt.isSome then s else askRetry n s

/-- RETRY_REQ_REPEAT (R302): every 200 ns until the flit arrives. -/
def execRetryReqRepeat (n : LinkId) (s : State) : Host.Outcome State Fault Refusal :=
  if !powered s then .next s else
  .next (match (s.link n.val).retryAt with
    | some t => if t + 200 ≤ s.now then askRetry n.val s else s
    | none => s)

/-- Flits a sender keeps, from one FSEQ onward. -/
def sentFrom (l : LinkSt) (fseq : Nat) : List SentFlit := l.sent.dropWhile fun f => f.fseq != fseq

/-- RETRY_REQ (R302, R309): the flits from one FSEQ onward go again; too many replays within 1 ms take the
link DOWN. -/
def retryReq (n fseq : Nat) (s : State) : State :=
  let l := s.link n
  if l.mode ≠ .up ∧ l.mode ≠ .withdrawn then s
  else
    let recent := (l.replays.filter fun t => decide (s.now < t + 1000000)) ++ [s.now]
    let s1 := count (retryCount n) 1 (s.modLink n fun l => { l with replays := recent })
    if s.net.retryLimit < recent.length then linkDown n 3 s1
    else (sentFrom l fseq).foldl (fun s f => putFlit n kindData f.vl f.fseq f.sop f.payload s) s1

def execRetryReq (n : LinkId) (fseq : BitVec 12) (s : State) : Host.Outcome State Fault Refusal :=
  .next (clocked (retryReq n.val fseq.toNat) s)

/-- IDENT (R301). -/
def ident (n : Nat) (node : NodeId) (link : BitVec 7) (gen part : BitVec 2) (s : State) : State :=
  s.modLink n fun l => { l with peer := node, peerLink := link, peerGen := gen, peerPart := part }

def execIdent (n : LinkId) (node : NodeId) (link : BitVec 7) (gen part : BitVec 2) (s : State) :
    Host.Outcome State Fault Refusal := .next (clocked (ident n.val node link gen part) s)

/-- A CONTROL flit's code and arguments. -/
def control (n : Nat) (pay : List Byte) (s : State) : State :=
  match leAt pay 0 1 with
  | 1 => retryReq n (leAt pay 1 2 % 4096) s
  | 2 => ident n (BitVec.ofNat 16 (leAt pay 1 2)) (BitVec.ofNat 7 (leAt pay 3 1)) (BitVec.ofNat 2 (leAt pay 4 1))
      (BitVec.ofNat 2 (leAt pay 5 1)) s
  | 3 => peerWithdraw n s
  | 4 => withdrawAck n s
  | 5 => linkRestored n s
  | _ => s

/-- What a header returns: acknowledged flits leave the replay buffer, credits come back. -/
def takeHeader (n ack cvl credits : Nat) (s : State) : State :=
  s.modLink n fun l => { l with
    sent := if l.sent.any fun f => f.fseq == ack then (l.sent.dropWhile fun f => f.fseq != ack).drop 1 else l.sent
    used := Sparse.set 0 l.used cvl (Sparse.get 0 l.used cvl - credits) }

/-- Whole packets at the front of a lane's bytes, and what is left. No packet's header is all zeros. -/
def splitPackets : Nat → List Byte → List Packet × List Byte
  | 0, bs => ([], bs)
  | fuel + 1, bs =>
    if bs.length < 24 ∨ bs.all (· == 0) then ([], bs)
    else
      let n := 24 + leAt bs 0 2
      if bs.length < n then ([], bs)
      else
        let r := splitPackets fuel (bs.drop n)
        (packetOf (bs.take n) :: r.1, r.2)

/-- A lane's bytes after one more flit. Where a packet begins at its first byte, what was kept is padding; without a
packet begun, bytes before SOP are. -/
def laneBytes (kept pay : List Byte) (sop : Nat) : List Byte :=
  if sop = 0 then pay
  else if kept = [] then (if sop = 127 then [] else pay.drop sop)
  else kept ++ pay

/-- What a lane keeps after its whole packets: four zero bytes or more are padding, since a header's TYPE is among its
first four. -/
def laneRest (rest : List Byte) : List Byte := if 4 ≤ rest.length ∧ rest.all (· == 0) then [] else rest

/-- A DATA flit in order: its lane's bytes, the packets they complete, and the slots they free: those of the flits
that hold nothing more, with the last packet completed (log 112). -/
def acceptData (n vl sop : Nat) (pay : List Byte) (s : State) : State :=
  let l := s.link n
  let (ps, more) := splitPackets 6 (laneBytes (Sparse.get [] l.rx vl) pay sop)
  let rest := laneRest more
  let held := Sparse.get 0 l.rxHeld vl
  let stay := if rest = [] then 0 else if ps = [] then held + 1 else 1
  let free := held + 1 - stay
  let s1 := s.modLink n fun l => { l with
    expect := (l.expect + 1) % 4096, retryAt := none
    rx := Sparse.set [] l.rx vl rest, rxHeld := Sparse.set 0 l.rxHeld vl stay }
  let back : Option HeldSlots := if free = 0 then none else some (n, vl, free)
  let s2 := ps.dropLast.foldl (fun s p => routeHeld (some n) none p s) s1
  let s3 := match ps.getLast? with
    | some p => routeHeld (some n) back p s2
    | none => back.toList.foldl (fun s b => oweSlots b s) s2
  sendIdle n s3

/-- A flit that passed its code and its CRC. -/
def takeFlit (n : Nat) (bytes : List Byte) (s : State) : State :=
  let h := leAt bytes 0 6
  let pay := (bytes.drop 6).take 118
  let f (lo k : Nat) : Nat := h / 2 ^ lo % 2 ^ k
  let s1 := takeHeader n (f 20 12) (f 18 2) (f 10 8) s
  let s2 :=
    if f 46 2 = kindData then (if f 32 12 = (s.link n).expect then acceptData n (f 44 2) (f 0 7) pay s1 else discardFlit n s1)
    else if f 46 2 = kindControl then control n pay s1
    else s1
  sendWithdrawAck n (pump n s2)

/-- Symbols the decoder corrects in a codeword (R300). -/
def correctable : Nat := 7

/-- Codewords not met before are counted, corrected or uncorrectable (R300). -/
def countWords (n : Nat) (words : List (Nat × Nat)) (s : State) : State :=
  let new := words.filter fun w => decide ((s.link n).nextWord ≤ w.1)
  let s1 := s.modLink n fun l => { l with nextWord := words.foldl (fun k w => max k (w.1 + 1)) l.nextWord }
  count (fecUncorrCount n) (new.filter fun w => decide (correctable < w.2)).length
    (count (fecCorrCount n) (new.filter fun w => decide (0 < w.2) && decide (w.2 ≤ correctable)).length s1)

/-- FLIT_RECEIVE (R300-R302). -/
def flitReceive (n : Nat) (bytes : List Byte) (words : List (Nat × Nat)) (s : State) : State :=
  if (s.link n).mode ≠ .up ∧ (s.link n).mode ≠ .withdrawn then s
  else
    let s1 := countWords n words s
    if words.any fun w => decide (correctable < w.2) then discardFlit n s1
    else if leAt bytes 124 4 ≠ (crc32 (bytes.take 124)).toNat then discardFlit n (count (crcErrCount n) 1 s1)
    else takeFlit n bytes s1

def execFlitReceive (n : LinkId) (bytes : List Byte) (words : List (Nat × Nat)) (s : State) :
    Host.Outcome State Fault Refusal := .next (clocked (flitReceive n.val bytes words) s)

/-- CREDIT_STALL (R303): a flit ready for STALL_MS without a credit. -/
def execCreditStall (n : LinkId) (vl : Fin 4) (s : State) : Host.Outcome State Fault Refusal :=
  if !powered s then .next s else
  let t := Sparse.get 0 (s.link n.val).dry vl.val
  .next (if t != 0 && decide (t - 1 + s.net.stallMs * 1000000 ≤ s.now) then raiseEv srcLnk evCreditStall s else s)

/-- LNK_COUNTER_CLEAR (R318). -/
def execLnkCounterClear (v : W64) (s : State) : Host.Outcome State Fault Refusal :=
  if !powered s then .next s else
  .next (if bitOf v 0 then clearCounters (lnkCtr 0) (lnkCtr 0x10000) s else s)

/-! ## Commands of the manager -/

def groupsLoaded (s : State) : Bool := s.coll.groups.any fun e => e.2.isSome

/-- NODE_ID_SET (R306). -/
def nodeIdSet (c : MCmd) (s : State) : State :=
  checked c [(c.le 0 2 == 0xFFFF, 0)] [] [(groupsLoaded s, 0)] (fun s =>
    let s1 : State := { s with node := BitVec.ofNat 16 (c.le 0 2) }
    answer c [] ((upLinks s1).foldl (fun s n => sendIdent n s) s1)) s

def execNodeIdSet (m : MbxId) (s : State) : Host.Outcome State Fault Refusal := .next (serve m 0x0501 nodeIdSet s)

/-- A route entry from its 32 bytes (Table 14-8), and back. -/
def routeOf (bs : List Byte) : RouteEntry where
  prim := BitVec.ofNat 96 (leAt bs 0 8 + leAt bs 8 4 * 2 ^ 64)
  valid := leAt bs 15 1 ≥ 128
  unreach := leAt bs 15 1 / 64 % 2 == 1
  sec := BitVec.ofNat 96 (leAt bs 16 8 + leAt bs 24 4 * 2 ^ 64)

def RouteEntry.bytes (e : RouteEntry) : List Byte :=
  leBytes 8 (e.prim.toNat % 2 ^ 64) ++ leBytes 8 (b2n e.valid * 2 ^ 63 + b2n e.unreach * 2 ^ 62 + e.prim.toNat / 2 ^ 64)
    ++ leBytes 8 (e.sec.toNat % 2 ^ 64) ++ leBytes 8 (e.sec.toNat / 2 ^ 64)

/-- Entries of the route table take new values; collectives with a member that they now report unreachable end
(11 R258). -/
def writeRoutes (first : Nat) (bs : List Byte) (n : Nat) (s : State) : State :=
  let s1 := s.modNet fun t => { t with routes := (List.range n).foldl (fun m k =>
    Sparse.set {} m (first + k) (routeOf (bs.drop (32 * k)))) t.routes }
  let lost := (List.range n).filter fun k => (s1.route (first + k)).unreach && !(s.route (first + k)).unreach
  lost.foldl (fun s k => collNodeLost (BitVec.ofNat 16 (first + k)) s) s1

/-- ROUTE_WRITE (R307). -/
def routeWrite (c : MCmd) (s : State) : State :=
  let first := c.le 0 2
  let n := c.le 2 2
  let inl := c.le 4 1 % 2 == 1
  let most := if inl then (if c.m = 2 then 31 else 127) else 128
  checked c [(n == 0 || decide (most < n) || decide (65536 < first + n), 2)] [] [] (fun s =>
    if inl then answer c [] (writeRoutes first (c.pay.drop 16) n s)
    else match pinnedRead (c.le 8 8) (32 * n) s with
      | (none, s1) => refuse c mbxFailed 0 s1
      | (some bs, s1) => answer c [] (writeRoutes first bs n s1)) s

def execRouteWrite (m : MbxId) (s : State) : Host.Outcome State Fault Refusal := .next (serve m 0x0502 routeWrite s)

/-- ROUTE_READ (R307). -/
def routeRead (c : MCmd) (s : State) : State :=
  let first := c.le 0 2
  let n := c.le 2 2
  checked c [(n == 0 || decide ((if c.m = 2 then 31 else 127) < n) || decide (65536 < first + n), 2)] [] []
    (answer c ((List.range n).flatMap fun k => (s.route (first + k)).bytes)) s

def execRouteRead (m : MbxId) (s : State) : Host.Outcome State Fault Refusal := .next (serve m 0x0503 routeRead s)

/-- LINK_CONFIG (R314). -/
def linkConfig (c : MCmd) (s : State) : State :=
  let n := c.le 0 1
  let mode := c.le 1 1
  let most := c.le 2 1
  let l := s.link n
  long c [(decide (96 ≤ n), 0), (decide (2 < mode) || (mode == 1 && (ethOfLink n).isNone), 1),
      (mode != 2 && (most == 0 || decide ((if mode = 0 then 2 else 3) < most)), 2)]
    [(linkHeld n s, 0)] [] (fun s =>
      let same := mode != 2 && !l.off && l.eth == (mode == 1)
      if same then
        endOps (fun o => o.id == 0x0504 && o.le 0 1 == n) mbxOk [] (s.modLink n fun l => { l with maxGen := most })
      else if l.mode = .up then beginWithdraw n s
      else linkOpStep n s) s

def execLinkConfig (m : MbxId) (s : State) : Host.Outcome State Fault Refusal := .next (serve m 0x0504 linkConfig s)

/-- LINK_WITHDRAW (R311): answered by WITHDRAW_ACK, or after 100 us. -/
def linkWithdraw (c : MCmd) (s : State) : State :=
  let n := c.le 0 1
  let l := s.link n
  checked c [(decide (96 ≤ n), 0)] [(linkHeld n s, 0)] [(l.mode != .up && l.mode != .withdrawn, 0)] (fun s =>
    if l.mode = .withdrawn then answer c [] s
    else
      let op : RunOp := ⟨c.m, none, c.id, BitVec.ofNat 32 c.tag, c.pay, none⟩
      beginWithdraw n (s.modMgr fun g => { g with ops := g.ops ++ [op] })) s

def execLinkWithdraw (m : MbxId) (s : State) : Host.Outcome State Fault Refusal := .next (serve m 0x0505 linkWithdraw s)

/-- LINK_RETRAIN (R311). -/
def linkRetrain (c : MCmd) (s : State) : State :=
  let n := c.le 0 1
  let l := s.link n
  long c [(decide (96 ≤ n), 0)] [(linkHeld n s, 0)]
    [(l.mode != .up && l.mode != .withdrawn && l.mode != .down, 0)]
    (fun s => if l.mode = .up then beginWithdraw n s else linkOpStep n s) s

def execLinkRetrain (m : MbxId) (s : State) : Host.Outcome State Fault Refusal := .next (serve m 0x0506 linkRetrain s)

/-- LINK_RESTORE (R311). -/
def linkRestore (c : MCmd) (s : State) : State :=
  let n := c.le 0 1
  checked c [(decide (96 ≤ n), 0)] [(linkHeld n s, 0)] [((s.link n).mode != .withdrawn, 0)]
    (fun s => answer c [] (linkRestored n (sendControl n ctlRestore [] s))) s

def execLinkRestore (m : MbxId) (s : State) : Host.Outcome State Fault Refusal := .next (serve m 0x0507 linkRestore s)

end Sys2Proof.Machine
end

