-- ==== Sys2Proof/Machine/Boot.lean ====
section
/-! DEFINITION. Power-on, resets, stack training and the pool, shutdown and its record, and the pins
(spec 16 R357, 17 R362, R372, 18 R379, 19 R393-R407, 21 R428-R429, R438, 22 R445-R453). -/

namespace Sys2Proof.Machine

def evShutdownSeen : Nat := 1
def evBridgeDegraded : Nat := 4

/-- Shutdown causes (Table 21-8). -/
def shutThermal : Byte := 1
def shutWatchdog : Byte := 2
def shutInputStage : Byte := 3
def shutBridge : Byte := 4

/-! ## What a reset leaves (R404) -/

/-- Everything at its reset value but what lies outside the dies or in fuses, the commands waiting and the
messages sent. -/
def wiped (s : State) : State where
  pending := s.pending
  fresh := s.fresh
  outbox := s.outbox
  now := s.now
  host := { mem := s.host.mem, poison := s.host.poison }
  sec := { revoked := s.sec.revoked, svn := s.sec.svn, draws := s.sec.draws }
  pins := s.pins
  boot := { record := s.boot.record, began := s.now, dog := s.now }

/-- POWER_ON_RESET (R393, 21 R438): the input rises into its range; the shutdown record is loaded and cleared. -/
def powerOn (s : State) : State :=
  let t := { wiped s with now := 0 }
  let (cause, time) := match s.boot.record with | some r => r | none => (0, 0)
  let t1 : State := { t with
    pins := { s.pins with input := true, converters := true, pwrgood := true, thermtripN := true, refclk := true,
                          ppsOut := false, ppsUntil := 0, halted := false }
    boot := { lastShut := cause, shutTime := time, dropped := s.boot.dropped && !s.pins.input } }
  if cause = 0 then t1 else raiseEv srcCnt evShutdownSeen t1

def execPowerOnReset (s : State) : Host.Outcome State Fault Refusal := .next (powerOn s)

/-! ## Device resets (R400-R405) -/

/-- Counters that a PIN or DEVICE reset keeps: those of the BOOT and TIME blocks. -/
def keptCounters (s : State) : Sparse W64 :=
  Sparse.dropWhere (fun k => !(decide (k < 0x10000) || (decide (0x200000 ≤ k) && decide (k < 0x300000)))) s.counters

/-- Free values over the destination of a copy whose final record is not written (R403). -/
def freeCopy (eng : Nat) (w : DWords) (s : State) : State :=
  if dRemote w then s
  else (xferRows w 0).foldl (fun s r =>
    let f := freshBytes r.2.2.2 s
    (pastInvals (vaWrite eng r.2.2.1 (f.1.map fun b => (b, false)) false .none) f.2).2) s

/-- Free values over the pool targets of a stream's triggers. -/
def freeTargets (eng : Nat) (m : Strm) (s : State) : State :=
  (m.trigs.filter fun t => t.dir == .tileToPool || t.dir == .accToPool).foldl (fun s t =>
    let f := freshBytes (32 * t.sectors) s
    writeSegs eng false .none t.segs (f.1.map fun b => (b, false)) f.2) s

/-- Free values over n bytes at a virtual address. -/
def freeRange52 (code va n : Nat) (s : State) : State :=
  let f := freshBytes n s
  (pastInvals (vaWrite code (va52 va) (f.1.map fun b => (b, false)) false .none) f.2).2

/-- Free values over the destination of a gather into the pool, or of a put as far as its block entries are read. -/
def freeKv (q : Nat) (r : SeqRun) (w : DWords) (s : State) : State :=
  let code := (s.queue q).code
  (List.range (r.slots.length * sRows w)).foldl (fun s k =>
    if r.op = opKvGather then
      (if sKind w = 1 then s else freeRange52 code (sMem w + k * sRowBytes w) (sRowBytes w) s)
    else
      let o := sOffset w + k % sRows w * sStride w
      (List.range 3).foldl (fun s i =>
        let at_ := if i = 0 then o else (o / 65536 + i) * 65536
        let n := min (65536 - at_ % 65536) (o + sRowBytes w - at_)
        match r.ents.find? fun e => e.1 == r.slots.getD (k / sRows w) 0 % 128 && e.2.1 == at_ / 65536 with
        | some e => if n = 0 ∨ !bitOf e.2.2 0 then s
            else freeRange52 code (fieldOf e.2.2 16 36 * 65536 + at_ % 65536) n s
        | none => s) s) s

/-- The same for the gathers and puts of a half's sequence engine that have not written their final records. -/
def freeSeqs (h : Nat) (s : State) : State :=
  (s.seq h).live.foldl (fun s r => match s.prog r.id.q r.id.n with
    | some p => if r.op = opKvGather ∨ r.op = opKvPut then freeKv r.id.q r p.w s else s
    | none => s) s

/-- Destinations of descriptors that had not written their final records hold undefined values (R403). -/
def freeDestinations (s : State) : State :=
  let copies := s.queues.flatMap fun e => if engKind e.2.code = .copy then
    (e.2.progs.filter fun p => p.phase != .waitingForPermit && dOpcode p.w != opInvalidate && dOpcode p.w != opNop).map
      fun p => (e.2.code, p.w) else []
  let s1 := copies.foldl (fun s c => freeCopy c.1 c.2 s) s
  let s2 := s1.coll.runs.foldl (fun s r => match s.group r.group with
    | some g => (pastInvals (fun s => ((), freeDest r g s)) s).2
    | none => s) s1
  (List.range 16).foldl (fun s n =>
    let s := match (s.arr n).su.cur with | some m => freeTargets (codeArray n) m s | none => s
    match (s.vec n).su.cur with | some m => freeTargets (codeVec n) m s | none => s) (freeSeqs 1 (freeSeqs 0 s2))

/-- Isolated stacks out of service are zeroed in a reset that keeps the pool (R404). -/
def zeroIdleStacks (s : State) : State :=
  (List.range 24).foldl (fun s k =>
    if s.hbm.iso.getLsbD k ∧ (s.stack k).mode ≠ .active then
      zeroStack k (s.modStack k fun x => { x with mode := .active })
    else s) s

/-- The array stores keep their contents and written bits: only a power-on reset clears a written bit, and a
written row stays defined (03 R63; the tile store likewise, DESIGN CHOICE, log 106). -/
def keptStores (s : State) : Sparse AryState :=
  (List.range 16).foldl (fun m n =>
    let x := s.arr n
    Sparse.set {} m n { tile := x.tile, poison := x.poison, acc := x.acc, written := x.written }) []

/-- State common to PIN and DEVICE resets. -/
def resetBase (kind : Byte) (keep dropped : Bool) (s : State) : State :=
  let h := s.hbm
  let cfg := match h.nextCfg with | some c => c | none => (h.spread, h.iso)
  let hbm : HbmState := if keep then { h with errLog := [], pageCorr := [], pinCorr := [], delivered := none }
    else { spread := cfg.1, iso := cfg.2 }
  let coh : CohState := if keep then { cis := s.coh.cis } else {}
  let xlt : XltState := if keep then { keyMap := s.xlt.keyMap, keyEpoch := s.xlt.keyEpoch } else {}
  { wiped s with
    ticks := s.ticks
    counters := keptCounters s
    arrays := keptStores s
    hbm := hbm, coh := coh, xlt := xlt
    keys := if keep then s.keys else []
    mgr := { nextSeq := s.mgr.nextSeq }
    pwr := { nextEval := s.pwr.nextEval, samples := s.pwr.samples }
    time := { set := s.time.set, everLocked := s.time.set, halfB := s.time.halfB, lastCompare := s.time.lastCompare,
              lastSync := s.time.lastSync, lastPps := s.time.lastPps }
    boot := { record := s.boot.record, lastShut := s.boot.lastShut, shutTime := s.boot.shutTime
              pinPreserve := s.boot.pinPreserve, kind := kind, dropped := dropped, everReady := s.boot.everReady
              began := s.now, dog := s.now, phase := if keep then .writeBack kind else .training } }

/-- A device reset begins (R402, R403). -/
def deviceReset (kind : Byte) (preserve : Bool) (s : State) : State :=
  let keep := preserve && s.hbm.nextCfg.isNone && s.boot.everReady
  let s1 := if keep then freeDestinations s else s
  count resetCount 1 (resetBase kind keep (preserve && !keep) s1)

/-- DEVICE_RESET (R400, R401): only FW_ACTIVATE refuses it; the Steward hears of the loss. -/
def deviceResetCmd (c : MCmd) (s : State) : State :=
  let preserve := c.le 1 1 % 2 == 1
  checked c [(c.le 0 1 != 3, 0)] [(s.mgr.ops.any (fun o => o.id == 0x0702), noField)] [] (fun s =>
    let s1 := answer c [] s
    let s2 := if s1.env.member then excursion 0 true s1 else s1
    s2.modBoot fun b => { b with
      stage := stResetPending
      resetAt := match b.resetAt with | some r => some r | none => some (s.now + 1000000, preserve) }) s

def execDeviceReset (m : MbxId) (s : State) : Host.Outcome State Fault Refusal := .next (serve m 0x0704 deviceResetCmd s)

/-- DEVICE_RESET_BEGIN (R401): 1 ms after the response. -/
def execDeviceResetBegin (s : State) : Host.Outcome State Fault Refusal :=
  if !powered s then .next s else
  .next (match s.boot.resetAt with
    | some (t, p) => if t ≤ s.now then deviceReset 3 p s else s
    | none => s)

/-- A write-back of R403 is under way. -/
def writingBack (s : State) : Bool := match s.boot.phase with | .writeBack _ => true | _ => false

/-- RESET_N_ASSERT (22 R451, R405): no effect on a package that is shut down, nor on a write-back under way. -/
def resetNAssert (s : State) : State :=
  let was := s.pins.resetN
  let s1 : State := { s with pins := { s.pins with resetN := false } }
  if !s.pins.input ∨ !s.pins.converters ∨ !was ∨ writingBack s then s1
  else deviceReset 2 s1.boot.pinPreserve s1

def execResetNAssert (s : State) : Host.Outcome State Fault Refusal := .next (resetNAssert s)

/-- RESET_N_RELEASE (22 R451): the sequence of the reset starts. -/
def execResetNRelease (s : State) : Host.Outcome State Fault Refusal :=
  let s1 : State := { s with pins := { s.pins with resetN := true } }
  .next (if s.pins.resetN then s else s1.modBoot fun b => { b with began := s.now })

/-- RESET_WRITE_BACK_END (R403): dirty sectors and buffer entries are in their stacks; the stacks keep their
contents, and retune once the dies are released. -/
def resetWriteBackEnd (s : State) : State :=
  if !writingBack s then s
  else
    let s1 := zeroIdleStacks (flushRange 0 poolBytes s)
    let s2 : State := { s1 with
      hbm := { spread := s1.hbm.spread, iso := s1.hbm.iso, cells := s1.hbm.cells, marks := s1.hbm.marks }
      coh := {}, counters := keptCounters s1, events := [], edges := [] }
    s2.modBoot fun b => { b with phase := .retuning, began := s.now }

def execResetWriteBackEnd (s : State) : Host.Outcome State Fault Refusal := .next (clocked resetWriteBackEnd s)

/-! ## Start-up (R393, R394, R396) -/

/-- The start-up sequence is under way: nothing holds the package in reset. -/
def startingUp (s : State) : Bool := powered s && s.pins.resetN && !writingBack s

/-- The boot ROM has come to serve mailbox 0 (Table 19-1 step 7, Table 19-7 step 6). -/
def romReady (s : State) : State :=
  let wait := if s.boot.kind = 1 then 30000000 else 14000000
  if s.boot.stage = stRomInit ∧ startingUp s ∧ s.boot.began + wait ≤ s.now then
    settle (s.modBoot fun b => { b with stage := stWaitImage })
  else s

/-- The links begin to train (Table 19-1 step 6). -/
def linksBegin (s : State) : State :=
  let wait := if s.boot.kind = 1 then 25000000 else 12000000
  if !s.boot.linksBegun ∧ startingUp s ∧ s.boot.began + wait ≤ s.now then
    (List.range 96).foldl (fun s n => s.modLink n fun l => { l with mode := .training, train := some .startup, lastTry := s.now })
      (s.modBoot fun b => { b with linksBegun := true })
  else s

/-- STACK_TRAINING_END (R394): the training, or the retune, of every stack has ended; `failed` names those that
failed. -/
def stackTrainingEnd (failed : BitVec 24) (s : State) : State :=
  let going : Bool := match s.boot.phase with | .training => true | .retuning => true | _ => false
  if !going ∨ s.boot.trained ∨ !startingUp s then s
  else
    let step (s : State) (k : Nat) : State :=
      s.modStack k fun x =>
        if failed.getLsbD k then (if s.hbm.iso.getLsbD k then { x with mode := .offline } else x)
        else { x with mode := .initialising, tune := x.temp }
    let s1 := (List.range 24).foldl step s
    let fault := (List.range 24).any fun k => failed.getLsbD k && !s.hbm.iso.getLsbD k
    let s2 := s1.modBoot fun b => { b with
      trained := true, poolFault := fault, error := if fault then errStackTrain else b.error
      stage := if b.stage = stRomInit then stWaitImage else b.stage }
    settle s2

def execStackTrainingEnd (failed : BitVec 24) (s : State) : Host.Outcome State Fault Refusal :=
  .next (clocked (stackTrainingEnd failed) s)

/-- POOL_READY (R393, R396, Table 19-7): the pool is zero, or kept; stacks that trained are ACTIVE; a firmware
already started writes the boot page. -/
def poolReady (s : State) : State :=
  if !s.boot.trained ∨ s.boot.poolFault ∨ s.boot.poolReady ∨ !powered s then s
  else
    let kept : Bool := match s.boot.phase with | .retuning => true | _ => false
    let s1 := (List.range 24).foldl (fun s k => s.modStack k fun x =>
      if x.mode = .initialising then { x with mode := .active } else x) s
    let s2 := s1.modBoot fun b => { b with poolReady := true, everReady := true, preserved := kept, phase := .none }
    match s2.boot.fwStart, s2.boot.running with
    | some _, some img => writeBootPage img s2
    | _, _ => s2

def execPoolReady (s : State) : Host.Outcome State Fault Refusal := .next (clocked poolReady s)

/-! ## Shutdown (18 R379, 21 R428, R429, R438) -/

/-- The shutdown circuit turns off the converters and writes the record; only VDD_AON stays powered. -/
def shutDown (cause : Byte) (s : State) : State :=
  if !s.pins.input ∨ !s.pins.converters then s
  else
    let t := wiped s
    { t with
      pins := { s.pins with converters := false, ppsOut := false, halted := false, thermtripN := s.pins.thermtripN && cause != shutThermal }
      boot := { t.boot with record := some (cause, s.now) } }

/-- THERMAL_TRIP (17 R372, 16 R357): the Steward hears of it where the manager can still send. -/
def execThermalTrip (tempC : Nat) (s : State) : Host.Outcome State Fault Refusal :=
  .next (if 115 ≤ tempC ∧ powered s then
      shutDown shutThermal (if s.env.member && fwRoles s then excursion 6 true s else s)
    else s)

/-- INPUT_STAGE_FAULT (17 R362). -/
def execInputStageFault (s : State) : Host.Outcome State Fault Refusal := .next (shutDown shutInputStage s)

/-- WATCHDOG_RESTART (18 R379): the manager's code runs. -/
def execWatchdogRestart (s : State) : Host.Outcome State Fault Refusal :=
  let paused := match s.boot.activ with | some a => !a.started | none => false
  .next (if powered s ∧ !s.pins.halted ∧ !paused then s.modBoot fun b => { b with dog := s.now } else s)

/-- The boot ROM runs: it restarts the watchdog itself (19 R395). -/
def romRuns (s : State) : Bool :=
  !s.boot.fwReady && s.boot.fwStart.isNone && !s.pins.halted && s.pins.refclk

/-- WATCHDOG_EXPIRY (18 R379): 250 ms of the watchdog's own oscillator without a restart. Without a reference
clock device time stands still, and only the oscillator tells (22 R449). -/
def execWatchdogExpiry (s : State) : Host.Outcome State Fault Refusal :=
  .next (if !romRuns s ∧ (!s.pins.refclk ∨ s.boot.dog + 250000000 ≤ s.now) then shutDown shutWatchdog s else s)

/-- BRIDGE_SEGMENT_DOWN (21 R429): one segment stands in for the other; without both the package is lost. -/
def bridgeSegmentDown (seg : Nat) (s : State) : State :=
  if s.boot.bridgeDown.getLsbD seg then s
  else
    let s1 := s.modBoot fun b => { b with bridgeDown := b.bridgeDown ||| BitVec.ofNat 2 (2 ^ seg) }
    if s1.boot.bridgeDown = 3 then shutDown shutBridge s1 else raiseEv srcCnt evBridgeDegraded s1

def execBridgeSegmentDown (seg : Fin 2) (s : State) : Host.Outcome State Fault Refusal := .next (clocked (bridgeSegmentDown seg.val) s)

/-- INPUT_UNDERVOLTAGE (22 R445): the stop removes VDD_AON and writes no record; a write-back cut short has dropped
its preserve option (R402). -/
def execInputUndervoltage (s : State) : Host.Outcome State Fault Refusal :=
  let t := wiped s
  .next { t with
    boot := { t.boot with dropped := writingBack s || (s.boot.dropped && !s.pins.input) }
    pins := { s.pins with input := false, converters := false, pwrgood := false, thermtripN := true,
                                             ppsOut := false, halted := false } }

/-- REFCLK_LOSS (22 R449): no clock domain runs on. -/
def execRefclkLoss (s : State) : Host.Outcome State Fault Refusal :=
  .next { s with pins := { s.pins with refclk := false } }

/-- ALERT_N (22 Table 22-3): low while a region is in HOLD or CRITICAL or the Weigh-house is in FAULT. -/
def alertN (s : State) : Bool := !((List.range 6).any (fun r => s.therm r != .normal) || s.pwr.wh == .fault)

/-! ## The test port (22 R453, 20 R425) -/

/-- TEST_PORT_ACCESS: manager halt needs PROBE; the cause reads back after a shutdown (21 R438). Scans read
cells out and change nothing here. -/
def testPort (op : TestOp) (s : State) : State :=
  if !s.pins.input then s
  else match op with
    | .boundaryScan => s
    | .internalScan => s
    | .managerHalt => if s.sec.level = 2 ∧ powered s then { s with pins := { s.pins with halted := true } } else s
    | .readCause =>
      let c : Byte := match s.boot.record with | some r => r.1 | none => s.boot.lastShut
      { s with pins := { s.pins with testOut := c } }

def execTestPortAccess (op : TestOp) (s : State) : Host.Outcome State Fault Refusal := .next (testPort op s)

end Sys2Proof.Machine
end

