-- ==== Sys2Proof/Machine/Time.lean ====
section
/-! DEFINITION. Device time (spec 16 R335-R340, 22 R450, 01 R16): its sources, steps and slewing, the
time-sync messages and the PPS pins. An offset is the source's time less device time. -/

namespace Sys2Proof.Machine

def timeCtr (off : Nat) : Nat := 0x200000 + off
def holdoverNs : Nat := timeCtr 0x100
def lockLossCount : Nat := timeCtr 0x108

def evTimeLockLost : Nat := 0
def evSourceChange : Nat := 1
def evOffsetLarge : Nat := 2

def srcPtp : Nat := 1
def srcFabric : Nat := 2
def srcPps : Nat := 3

/-- TIME_STATUS.STATE: 0 FREE_RUN, 1 ACQUIRING, 2 LOCKED, 3 HOLDOVER. -/
def timeState (s : State) : Nat :=
  if s.time.active.isSome then 2
  else if s.time.everLocked then 3
  else if s.time.srcs = [] then 0 else 1

def allDisabled (s : State) : Bool := s.queues.all fun e => e.2.mode == .disabled

/-- The highest-priority source that is LOCKED. -/
def bestSource (l : List TimeSrc) : Option Nat := l.findIdx? (·.locked)

/-- The source in use follows the list; a change is reported (R336). -/
def chooseSource (s : State) : State :=
  let best := bestSource s.time.srcs
  if best = s.time.active then s
  else raiseEv srcTime evSourceChange (s.modTime fun t => { t with active := best })

/-- The first source to lock sets device time, in one step when every queue is DISABLED (R338). -/
def firstLock (offset : Int) (s : State) : State :=
  if allDisabled s then
    syncTimers { s with now := ((s.now : Int) + offset).toNat, time := { s.time with set := true, everLocked := true, slew := 0 } }
  else
    let s1 := s.modTime fun t => { t with set := true, everLocked := true, slew := offset }
    if 10000000 < offset.natAbs then raiseEv srcTime evOffsetLarge s1 else s1

/-- One measurement against source number i: it locks at an offset within 1 us (its first one, when no
source has locked yet), and returns to ACQUIRING after ten above (R339). -/
def measured (i : Nat) (offset : Int) (s : State) : State :=
  match s.time.srcs[i]? with
  | none => s
  | some x =>
    let big : Bool := decide (1000 < offset.natAbs)
    let first := !s.time.set
    let bad := if big then x.bad + 1 else 0
    let locked := if x.locked then decide (bad < 10) else first || !big
    let lost := x.locked && !locked
    let x' : TimeSrc := { x with locked := locked, bad := if lost then 0 else bad }
    let s1 := s.modTime fun t => { t with srcs := t.srcs.set i x' }
    let s2 := if lost then raiseEv srcTime evTimeLockLost (count lockLossCount 1 s1) else s1
    let s3 := chooseSource s2
    let s4 := if locked && first then firstLock offset s3 else s3
    if s4.time.active = some i then
      let s5 := s4.modTime fun t => { t with offset := offset, everLocked := true, slew := if first then t.slew else offset }
      if !first && decide (10000000 < offset.natAbs) then raiseEv srcTime evOffsetLarge s5 else s5
    else s4

/-- A measurement by kind of source and its port or link. -/
def measuredBy (kind port : Nat) (offset : Int) (s : State) : State :=
  match s.time.srcs.findIdx? fun x => x.kind == kind && (kind == srcPps || x.port == port) with
  | some i => measured i offset s
  | none => s

/-! ## Time-sync messages (R337) -/

/-- A time-sync message to the neighbour on a link: a MGMT packet of class 0x02 with the transmit timestamp of the one
before it (R337). -/
def sendTimeSync (n : Nat) (s : State) : State :=
  let l := s.link n
  sendOn n (mkPacket s l.peer typeMgmt true 0 2 0 (leBytes 8 l.syncAt)) (s.modLink n fun l => { l with syncAt := s.now })

/-- TIME_SYNC_SEND (R337): every 62.5 ms on every UP link, while LOCKED or in HOLDOVER. -/
def execTimeSyncSend (s : State) : Host.Outcome State Fault Refusal :=
  .next (if 2 ≤ timeState s ∧ s.node ≠ 0xFFFF ∧ fwRoles s ∧ s.time.lastSync + 62500000 ≤ s.ticks then
      (upLinks s).foldl (fun s n => sendTimeSync n s) (s.modTime fun t => { t with lastSync := s.ticks })
    else s)

/-- TIME_SYNC_MESSAGE (R337): only the named link of source FABRIC gives time; a package that serves no
time of its own still answers. -/
def timeSyncMessage (n : Nat) (offset : Int) (s : State) : State :=
  if (s.link n).mode ≠ .up then s
  else measuredBy srcFabric n offset (if timeState s < 2 ∧ s.node ≠ 0xFFFF then sendTimeSync n s else s)

def execTimeSyncMessage (n : LinkId) (offset : Int) (s : State) : Host.Outcome State Fault Refusal :=
  .next (clocked (timeSyncMessage n.val offset) s)

/-! ## PPS (R336, 22 R450) -/

/-- PPS_EDGE (22 R450): the edge marks the TAI second named for it. -/
def ppsEdge (clean : Bool) (offset : Int) (s : State) : State :=
  if !clean ∨ !(s.time.srcs.any fun x => x.kind == srcPps) then s
  else
    let off := if s.time.set then offset else (s.time.ppsSecond : Int) - s.now
    measuredBy srcPps 0 off (s.modTime fun t => { t with ppsSecond := t.ppsSecond + 1000000000 })

def execPpsEdge (clean : Bool) (offset : Int) (s : State) : Host.Outcome State Fault Refusal :=
  .next (clocked (ppsEdge clean offset) s)

/-- PPS_OUT_EDGE (22 R450): a whole second of device time has begun. -/
def execPpsOutEdge (s : State) : Host.Outcome State Fault Refusal :=
  if !powered s then .next s else
  .next (if s.now / 1000000000 = s.time.lastPps / 1000000000 then s
    else { s with
      time := { s.time with lastPps := s.now }
      pins := { s.pins with ppsOut := true, ppsUntil := s.now / 1000000000 * 1000000000 + 100000000 } })

/-! ## The halves' counters (01 R16) -/

/-- DEVICE_TIME_COMPARE (01 R16): after the compare the counters agree within 2 ns. The spacing is counted in cycles of
the reference clock, which a step of device time leaves alone. -/
def execDeviceTimeCompare (drift : Int) (s : State) : Host.Outcome State Fault Refusal :=
  if !powered s then .next s else
  .next (if s.time.lastCompare + 1000 ≤ s.ticks then
      syncTimers (s.modTime fun t => { t with lastCompare := s.ticks, halfB := max (-2) (min 2 (t.halfB + drift)) })
    else s)

/-! ## Commands -/

/-- Entry k of a TIME_SOURCE_SET. -/
def timeEntry (c : MCmd) (k : Nat) : Nat × Nat := (c.le (8 + 8 * k) 1, c.le (9 + 8 * k) 1)

/-- The first entry with a field out of range, by payload offset. -/
def badEntry (c : MCmd) (n : Nat) : Option Nat :=
  (List.range n).findSome? fun k =>
    let (kind, port) := timeEntry c k
    if kind = 0 ∨ 3 < kind then some (8 + 8 * k)
    else if (kind = srcPtp ∧ 16 ≤ port) ∨ (kind = srcFabric ∧ 96 ≤ port) then some (9 + 8 * k) else none

/-- TIME_SOURCE_SET (R336): the list is replaced; its sources acquire anew. -/
def timeSourceSet (c : MCmd) (s : State) : State :=
  let n := c.le 0 1
  if n = 0 ∨ 4 < n then refuse c mbxRange 0 s
  else match badEntry c n with
    | some off => refuse c mbxRange off s
    | none =>
      let srcs := (List.range n).map fun k => ({ kind := (timeEntry c k).1, port := (timeEntry c k).2 } : TimeSrc)
      answer c [] (chooseSource (s.modTime fun t => { t with srcs := srcs, ppsSecond := c.le 40 8 }))

def execTimeSourceSet (m : MbxId) (s : State) : Host.Outcome State Fault Refusal := .next (serve m 0x0301 timeSourceSet s)

/-- TIME_STEP (R338). -/
def timeStep (c : MCmd) (s : State) : State :=
  let off : Int := sext 64 (c.le 0 8)
  checked c [(decide ((s.now : Int) + off < 0) || decide (2 ^ 64 ≤ (s.now : Int) + off), 0)] [] [(!allDisabled s, 0)]
    (fun s => answer c [] (syncTimers { s with now := ((s.now : Int) + off).toNat })) s

def execTimeStep (m : MbxId) (s : State) : Host.Outcome State Fault Refusal := .next (serve m 0x0302 timeStep s)

/-- TIME_COUNTER_CLEAR (R360). -/
def execTimeCounterClear (v : W64) (s : State) : Host.Outcome State Fault Refusal :=
  if !powered s then .next s else
  .next (if bitOf v 0 then clearCounters (timeCtr 0x100) (timeCtr 0x200) s else s)

/-- TIME_STATUS (Table 16-8). -/
def timeStatus (s : State) : W64 :=
  let src := s.time.active.bind fun i => s.time.srcs[i]?
  w64 (wrapNat 32 s.time.offset * 2 ^ 32 + (src.map (·.kind)).getD 0 * 2 ^ 20 + (src.map (·.port)).getD 0 * 2 ^ 8
    + b2n s.time.set * 8 + timeState s)

/-- One nanosecond of slewing: at most 100 ppm, one nanosecond in ten thousand (R338). Answers by how much
device time advances. -/
def slewStep (t : TimeState) : Nat × TimeState :=
  if t.slew = 0 then (1, { t with slewTicks := 0 })
  else if t.slewTicks < 9999 then (1, { t with slewTicks := t.slewTicks + 1 })
  else if 0 < t.slew then (2, { t with slewTicks := 0, slew := t.slew - 1 })
  else (0, { t with slewTicks := 0, slew := t.slew + 1 })

end Sys2Proof.Machine
end

