-- ==== Sys2Proof/Machine/Eth.lean ====
section
/-! DEFINITION. The Ethernet ports (spec 14 R314-R317): frames and raw rings, flow control and congestion,
queue pairs and RDMA in both directions, and their commands. -/

namespace Sys2Proof.Machine

def ethCtr (p off : Nat) : Nat := lnkCtr (0x4000 + 0x100 * p + off)
def pauseRxNs (p : Nat) : Nat := ethCtr p 0x10
def cnpTxCount (p : Nat) : Nat := ethCtr p 0x18
def cnpRxCount (p : Nat) : Nat := ethCtr p 0x20
def rxDropCount (p : Nat) : Nat := ethCtr p 0x28

def State.ethPort (s : State) (p : Nat) : EthSt := Sparse.get {} s.eth.ports p
def State.modEth (s : State) (p : Nat) (f : EthSt → EthSt) : State :=
  { s with eth := { s.eth with ports := Sparse.set {} s.eth.ports p (f (s.ethPort p)) } }
def State.qp (s : State) (p q : Nat) : QpSt := Sparse.get {} (s.ethPort p).qps q
def State.modQp (s : State) (p q : Nat) (f : QpSt → QpSt) : State :=
  s.modEth p fun x => { x with qps := Sparse.set {} x.qps q (f (s.qp p q)) }

/-- The port's link runs in Ethernet mode and is up. -/
def ethUp (s : State) (p : Nat) : Bool :=
  (s.link (linkOfEth p)).mode == .ethernet && (s.link (linkOfEth p)).ethRate != 0

/-- Line rate in Mb/s. -/
def lineRate (s : State) (p : Nat) : Nat := ([0, 100000, 200000, 400000] : List Nat).getD (s.link (linkOfEth p)).ethRate 0

/-! ## Memory of the rings and regions

An access of a port that meets an invalidation walks after it (09 R215): the same entries as now. -/

def ethRead (p va n : Nat) (s : State) : Except XOut (List (Byte × Bool)) × State :=
  pastInvals (vaRead (codeEth p) (va52 va) n false false) s

def ethWrite (p va : Nat) (bs : List Byte) (s : State) : Option XOut × State :=
  pastInvals (vaWrite (codeEth p) (va52 va) (bs.map fun b => (b, false)) false .none) s

/-! ## Raw rings (R315) -/

def rawEntry : Nat := 9728

/-- The first word of a raw ring entry, if it can be read. -/
def rawWord (p va : Nat) (s : State) : Option W64 × State :=
  match ethRead p va 8 s with
  | (.ok bs, s1) => if bs.any Prod.snd then (none, s1) else (some (w64 (leNat (bs.map Prod.fst))), s1)
  | (.error _, s1) => (none, s1)

/-- A priority is paused. -/
def prioPaused (s : State) (p prio : Nat) : Bool := (s.ethPort p).paused.getLsbD prio

/-- The port sends on a priority, or keeps what it would send while the priority is paused. -/
def ethSend (p prio : Nat) (o : Output) (s : State) : State :=
  if prioPaused s p prio then s.modEth p fun x => { x with waiting := x.waiting ++ [(prio, o)] } else emit o s

/-- The RoCE priority of a port. -/
def rocePrio (s : State) (p : Nat) : Nat := (s.ethPort p).prio.toNat % 8

/-- RDMA traffic and congestion notifications leave on the RoCE priority. -/
def roceSend (p : Nat) (o : Output) (s : State) : State := ethSend p (rocePrio s p) o s

/-- Priority of a frame: that of its IEEE 802.1Q tag, else 0. -/
def framePrio (bytes : List Byte) : Nat :=
  if leAt bytes 12 1 = 0x81 ∧ leAt bytes 13 1 = 0 then leAt bytes 14 1 / 32 else 0

/-- A frame for software: into the next entry, which software frees by writing its first word to zero. -/
def rawReceive (p : Nat) (bytes : List Byte) (s : State) : State :=
  let x := s.ethPort p
  if 9216 < bytes.length ∨ x.rxEntries = 0 then count (rxDropCount p) 1 s
  else
    let va := x.rxVa + rawEntry * (x.rxCount % x.rxEntries)
    match rawWord p va s with
    | (some 0, s1) =>
      let phase := 1 - x.rxCount / x.rxEntries % 2
      let head := leBytes 8 (phase * 2 ^ 63 + bytes.length)
      (match ethWrite p (va + 64) bytes s1 with
      | (none, s2) => (ethWrite p va head (s2.modEth p fun x => { x with rxCount := x.rxCount + 1 })).2
      | (some _, s2) => count (rxDropCount p) 1 s2)
    | (_, s1) => count (rxDropCount p) 1 s1

/-- The next entry of the raw transmit ring, once its pass bit is that of this pass. -/
def rawTransmit (p : Nat) (s : State) : State :=
  let x := s.ethPort p
  if x.txEntries = 0 ∨ !ethUp s p then s
  else
    let va := x.txVa + rawEntry * (x.txCount % x.txEntries)
    match rawWord p va s with
    | (some w, s1) =>
      let n := fieldOf w 0 14
      if bitOf w 63 = (x.txCount / x.txEntries % 2 == 0) ∧ 0 < n ∧ n ≤ 9216 then
        (match ethRead p (va + 64) n s1 with
        | (.ok bs, s2) => ethSend p (framePrio (bs.map Prod.fst)) (.ethFrame (Fin.ofNat 16 p) (bs.map Prod.fst)) (s2.modEth p fun x => { x with txCount := x.txCount + 1 })
        | (.error _, s2) => s2)
      else s1
    | (none, s1) => s1

/-! ## Flow control and congestion (R315) -/

/-- A CE mark answers with a congestion notification, at most one per queue pair in 50 us. -/
def sendCnp (p : Nat) (qpn : BitVec 12) (s : State) : State :=
  let x := s.qp p qpn.toNat
  let due : Bool := match x.lastCnpTx with | some t => decide (t + 50000 ≤ s.now) | none => true
  if due then
    roceSend p (.cnp (Fin.ofNat 16 p) qpn) (count (cnpTxCount p) 1 (s.modQp p qpn.toNat fun x => { x with lastCnpTx := some s.now }))
  else s

/-- ETH_FRAME_RECEIVE (R315). -/
def ethFrame (p : Nat) (f : EthFrame) (s : State) : State :=
  if !ethUp s p then s
  else match f with
    | .roce qpn ce bytes =>
      if (s.qp p qpn.toNat).valid then (if ce then sendCnp p qpn s else s) else rawReceive p bytes s
    | .ptp offset => measuredBy srcPtp p offset s
    | .other bytes => rawReceive p bytes s

def execEthFrameReceive (p : EthId) (f : EthFrame) (s : State) : Host.Outcome State Fault Refusal := .next (clocked (ethFrame p.val f) s)

/-- CNP_RECEIVE (R315): the send rate halves, down to 1 Gb/s. -/
def cnpReceive (p q : Nat) (s : State) : State :=
  if !(s.qp p q).valid ∨ !ethUp s p then s
  else
    let line := lineRate s p
    count (cnpRxCount p) 1 (s.modQp p q fun x => { x with
      rate := max 1000 ((if x.rate = 0 then line else x.rate) / 2), lastCnpRx := s.now })

def execCnpReceive (p : EthId) (qpn : BitVec 12) (s : State) : Host.Outcome State Fault Refusal :=
  .next (clocked (cnpReceive p.val qpn.toNat) s)

/-- ROCE_RATE_INCREASE (R315): 100 us without a notification raise the rate by 1/64 of the line rate. -/
def rateIncrease (p q : Nat) (s : State) : State :=
  let x := s.qp p q
  if x.rate = 0 ∨ s.now < x.lastCnpRx + 100000 then s
  else
    let line := lineRate s p
    let r := x.rate + line / 64
    s.modQp p q fun x => { x with rate := if line ≤ r then 0 else r, lastCnpRx := s.now }

def execRoceRateIncrease (p : EthId) (qpn : BitVec 12) (s : State) : Host.Outcome State Fault Refusal :=
  .next (clocked (rateIncrease p.val qpn.toNat) s)

/-! ## Work requests (R317) -/

def stRdmaRemote : BitVec 16 := 0xA802
def stRdmaRetry : BitVec 16 := 0xA803
def stRdmaFlushed : BitVec 16 := 0xA804

/-- A record in the queue pair's completion ring, in the layout of Table 10-6. -/
def qpRecord (p q opcode seq : Nat) (st : BitVec 16) (tag : Nat) (result : Nat) (s : State) : State :=
  let x := s.qp p q
  let n := 2 ^ x.cqLog2
  let phase := 1 - x.written / n % 2
  let bytes := leBytes 8 (phase * 2 ^ 63 + 2 ^ 62 + opcode * 2 ^ 48 + seq * 2 ^ 32 + st.toNat * 2 ^ 16 + q % 256)
    ++ leBytes 8 tag ++ leBytes 8 result ++ leBytes 8 s.now
  (ethWrite p (x.cqVa + 32 * (x.written % n)) bytes (s.modQp p q fun x => { x with written := x.written + 1 })).2

def wrLocal (w : DWords) : Nat := fieldAt w 1 0 52
def wrRemote (w : DWords) : W64 := wordAt w 2
def wrKey (w : DWords) : BitVec 32 := BitVec.ofNat 32 (fieldAt w 3 32 32)
def wrLength (w : DWords) : Nat := fieldAt w 3 0 31
def wrImm (w : DWords) : BitVec 32 := BitVec.ofNat 32 (fieldAt w 4 0 32)

/-- A work request ends. -/
def endWork (p q : Nat) (r : WorkReq) (st : BitVec 16) (result : Nat) (s : State) : State :=
  if r.poisoned then qpRecord p q 0xFF (r.n % 65536) st 0 result s
  else qpRecord p q (dOpcode r.w) (dSeq r.w) st (dTag r.w) result s

/-- Packets a transfer takes at the path's MTU. -/
def packetsOf (x : QpSt) (n : Nat) : Nat := max 1 ((n + x.mtu - 1) / max x.mtu 1)

/-- The error state of a queue pair: what is outstanding is flushed. -/
def qpError (p q : Nat) (s : State) : State :=
  let out := (s.qp p q).out
  out.foldl (fun s r => endWork p q r stRdmaFlushed 0 s) (s.modQp p q fun x => { x with error := true, out := [] })

/-- The oldest outstanding work request fails (R317). -/
def failWork (p q : Nat) (st : BitVec 16) (result : Nat) (s : State) : State :=
  match (s.qp p q).out with
  | [] => s
  | r :: rest => qpError p q (endWork p q r st result (s.modQp p q fun x => { x with out := rest }))

/-- A work request is carried out: its request goes to the peer, or it ends. -/
def startWork (p : EthId) (qpn : BitVec 12) (r : WorkReq) (s : State) : State :=
  let q := qpn.toNat
  let x := s.qp p.val q
  let op := dOpcode r.w
  let len := wrLength r.w
  let send (req : RdmaReq) (s : State) : State :=
    roceSend p.val (.rdma p qpn req) (s.modQp p.val q fun x => { x with
      out := x.out ++ [r], sqPsn := x.sqPsn + BitVec.ofNat 32 (packetsOf x len) })
  if x.error then endWork p.val q r stRdmaFlushed 0 s
  else if op = 1 ∨ op = 2 then
    match ethRead p.val (wrLocal r.w) len s with
    | (.error o, s1) => endWork p.val q r o.status 0 s1
    | (.ok bs, s1) =>
      if bs.any Prod.snd then endWork p.val q r stPoisoned 0 s1
      else
        let data := bs.map Prod.fst
        send (if op = 1 then .write (wrRemote r.w) (wrKey r.w) data else .writeImm (wrRemote r.w) (wrKey r.w) data (wrImm r.w)) s1
  else if op = 3 then send (.read (wrRemote r.w) (wrKey r.w) len) s
  else qpError p.val q (endWork p.val q r stQueueHalted 0 s)

/-- Work requests of a send ring are fetched in order (R317 with 10 R228 to R230). -/
def fetchWork (p : EthId) (qpn : BitVec 12) : Nat → State → State
  | 0, s => s
  | fuel + 1, s =>
    let q := qpn.toNat
    let x := s.qp p.val q
    let e := x.sqEntries
    if !x.valid || e == 0 || x.head % (2 * e) == x.tail % (2 * e) || x.refetchAt.isSome || x.stale || prioPaused s p.val (rocePrio s p.val) then s
    else
      let n := x.head
      let took (s : State) : State := s.modQp p.val q fun x => { x with head := n + 1, tries := 0 }
      match ethRead p.val (x.sqVa + 64 * (n % e)) 64 s with
      | (.error o, s1) => fetchWork p qpn fuel (qpError p.val q (endWork p.val q ⟨n, [], true⟩ o.status 0 (took s1)))
      | (.ok bs, s1) =>
        let w := (chunk 8 8 (bs.map Prod.fst)).map fun b => w64 (leNat b)
        if bs.any Prod.snd then fetchWork p qpn fuel (qpError p.val q (endWork p.val q ⟨n, [], true⟩ stPoisoned 0 (took s1)))
        else if dPhase w = (n / e % 2 == 0) ∧ dSeq w = n % 65536 then fetchWork p qpn fuel (startWork p qpn ⟨n, w, false⟩ (took s1))
        else if x.tries < 8 then s1.modQp p.val q fun x => { x with refetchAt := some (s.now + 1000) }
        else qpRecord p.val q 0xFF (n % 65536) stStale 0 0 (s1.modQp p.val q fun x => { x with stale := true })

def fetchAll (p : EthId) (qpn : BitVec 12) (s : State) : State := fetchWork p qpn ((s.qp p.val qpn.toNat).sqEntries + 1) s

/-- A refetch whose time has come. -/
def refetchWork (p : EthId) (qpn : BitVec 12) (s : State) : State :=
  match (s.qp p.val qpn.toNat).refetchAt with
  | some t => if t ≤ s.now then
      fetchAll p qpn (s.modQp p.val qpn.toNat fun x => { x with refetchAt := none, tries := x.tries + 1 }) else s
  | none => s

/-- ETH_DOORBELL (R317): a tail that names more than the ring holds is ignored. -/
def ethDoorbell (p : EthId) (v : W64) (s : State) : State :=
  let q := fieldOf v 0 12
  let x := s.qp p.val q
  let e2 := 2 * x.sqEntries
  let t := fieldOf v 16 13
  if !x.valid || e2 == 0 || decide (x.sqEntries < (t + e2 - x.head % e2) % e2) then s
  else fetchAll p (BitVec.ofNat 12 q) (s.modQp p.val q fun x => { x with
    tail := t, stale := false, tries := if x.stale then 0 else x.tries })

def execEthDoorbell (p : EthId) (v : W64) (s : State) : Host.Outcome State Fault Refusal := .next (clocked (ethDoorbell p v) s)

/-- What waited for a priority that is no longer paused is sent. -/
def sendWaiting (p : Nat) (s : State) : State :=
  let go := (s.ethPort p).waiting.filter fun e => !prioPaused s p e.1
  go.foldl (fun s e => emit e.2 s) (s.modEth p fun x => { x with waiting := x.waiting.filter fun e => x.paused.getLsbD e.1 })

/-- PFC_FRAME (R315): priorities paused, or released. -/
def pfcFrame (p : EthId) (mask : BitVec 8) (pause : Bool) (s : State) : State :=
  let x := s.ethPort p.val
  let on := if pause then x.paused ||| (mask &&& x.pfcMask) else x.paused &&& ~~~ mask
  let s1 := s.modEth p.val fun x => { x with paused := on }
  if pause then s1 else x.qps.foldl (fun s e => fetchAll p (BitVec.ofNat 12 e.1) s) (sendWaiting p.val s1)

def execPfcFrame (p : EthId) (mask : BitVec 8) (pause : Bool) (s : State) : Host.Outcome State Fault Refusal :=
  if !powered s then .next s else
  .next (if ethUp s p.val then pfcFrame p mask pause s else s)

/-- RDMA_NAK (R317). -/
def execRdmaNak (p : EthId) (qpn : BitVec 12) (syndrome : BitVec 8) (s : State) : Host.Outcome State Fault Refusal :=
  .next (clocked (failWork p.val qpn.toNat stRdmaRemote syndrome.toNat) s)

/-- RDMA_RETRY_EXCEEDED (R317). -/
def execRdmaRetryExceeded (p : EthId) (qpn : BitVec 12) (s : State) : Host.Outcome State Fault Refusal :=
  .next (clocked (failWork p.val qpn.toNat stRdmaRetry 0) s)

/-- RDMA_RESPONSE_RECEIVE (R317): the oldest work request completes. -/
def rdmaResponse (p q : Nat) (rsp : RdmaRsp) (s : State) : State :=
  match (s.qp p q).out with
  | [] => s
  | r :: rest =>
    let s1 := s.modQp p q fun x => { x with out := rest }
    match rsp with
    | .ack => if dOpcode r.w = 3 then s else endWork p q r stDone 0 s1
    | .readData data =>
      if dOpcode r.w ≠ 3 then s
      else match ethWrite p (wrLocal r.w) (data.take (wrLength r.w)) s1 with
        | (none, s2) => endWork p q r stDone 0 s2
        | (some o, s2) => endWork p q r o.status 0 s2

def execRdmaResponseReceive (p : EthId) (qpn : BitVec 12) (rsp : RdmaRsp) (s : State) : Host.Outcome State Fault Refusal :=
  .next (clocked (rdmaResponse p.val qpn.toNat rsp) s)

/-! ## Requests of the peer (R316) -/

/-- NAK syndromes of an invalid request and of a remote access error. -/
def nakInvalid : Byte := 0x61
def nakAccess : Byte := 0x62

/-- The region of a key holds the range and grants the right. -/
def regionGrants (key : BitVec 32) (va n : Nat) (write : Bool) (s : State) : Bool :=
  let r := Sparse.get {} s.eth.regions key.toNat
  r.valid && decide (r.va ≤ va ∧ va + n ≤ r.va + r.len) && (if write then r.write else r.read)

/-- The request took its packets of the peer's sequence. -/
def bumpRq (p q n : Nat) (s : State) : State :=
  s.modQp p q fun x => { x with rqPsn := x.rqPsn + BitVec.ofNat 32 (packetsOf x n) }

/-- A write of the peer, then what follows it. -/
def peerWrite (p : EthId) (qpn : BitVec 12) (va : W64) (key : BitVec 32) (data : List Byte) (then_ : State → State)
    (s : State) : State :=
  if !regionGrants key va.toNat data.length true s then roceSend p.val (.rdmaNak p qpn nakAccess) s
  else match ethWrite p.val va.toNat data s with
    | (some _, s1) => roceSend p.val (.rdmaNak p qpn nakAccess) s1
    | (none, s1) => roceSend p.val (.rdmaResponse p qpn .ack) (then_ (bumpRq p.val qpn.toNat data.length s1))

/-- RDMA_REQUEST_RECEIVE (R316, R317). -/
def rdmaRequest (p : EthId) (qpn : BitVec 12) (req : RdmaReq) (s : State) : State :=
  let q := qpn.toNat
  if !(s.qp p.val q).valid ∨ (s.qp p.val q).error then s
  else match req with
    | .write va key data => peerWrite p qpn va key data id s
    | .writeImm va key data imm =>
      peerWrite p qpn va key data (fun s => qpRecord p.val q 0x81 0 stDone 0 imm.toNat s) s
    | .read va key n =>
      if !regionGrants key va.toNat n false s then roceSend p.val (.rdmaNak p qpn nakAccess) s
      else (match ethRead p.val va.toNat n s with
        | (.ok bs, s1) =>
          if bs.any Prod.snd then roceSend p.val (.rdmaNak p qpn nakAccess) s1
          else roceSend p.val (.rdmaResponse p qpn (.readData (bs.map Prod.fst))) (bumpRq p.val q n s1)
        | (.error _, s1) => roceSend p.val (.rdmaNak p qpn nakAccess) s1)
    | .unsupported => roceSend p.val (.rdmaNak p qpn nakInvalid) s

def execRdmaRequestReceive (p : EthId) (qpn : BitVec 12) (req : RdmaReq) (s : State) : Host.Outcome State Fault Refusal :=
  .next (clocked (rdmaRequest p qpn req) s)

/-! ## Commands -/

/-- ETH_CONFIG (R315). -/
def ethConfig (c : MCmd) (s : State) : State :=
  let p := c.le 0 1
  checked c [(decide (16 ≤ p), 0)] [] [] (fun s => answer c [] (s.modEth p fun x => { x with
    configured := true
    mac := (c.pay.drop 2).take 6
    ip := (c.pay.drop 8).take 16
    vlan := BitVec.ofNat 16 (c.le 24 2)
    pfcMask := BitVec.ofNat 8 (c.le 26 1)
    prio := BitVec.ofNat 8 (c.le 27 1)
    xoff := c.le 28 4
    rxVa := c.le 32 8
    rxEntries := c.le 40 2
    txEntries := c.le 42 2
    txVa := c.le 48 8
    rxCount := 0
    txCount := 0 })) s

def execEthConfig (m : MbxId) (s : State) : Host.Outcome State Fault Refusal := .next (serve m 0x0508 ethConfig s)

/-- Every page of a range is pinned. -/
def rangePinned (va n : Nat) (s : State) : Bool × State :=
  let r := pastInvals (fun s => let t := translateAll (codeEth 0) (va52 va) n false s; (t.2.1, t.2.2)) s
  (r.1.isNone, r.2)

/-- A key for a new region: the firmware's choice, or the next one that no region holds. -/
def newKey (s : State) : BitVec 32 :=
  let k := Config.rkey s.eth.nextKey
  let free (i : Nat) : Bool := !(Sparse.get ({} : MemRegion) s.eth.regions (k + BitVec.ofNat 32 i).toNat).valid
  k + BitVec.ofNat 32 (((List.range 65536).find? free).getD 0)

/-- RDMA_MR_REG (R316). -/
def rdmaMrReg (c : MCmd) (s : State) : State :=
  let va := c.le 0 8
  let n := c.le 8 8
  let key := c.le 16 4
  let reg := c.le 21 1 == 0
  let held := (Sparse.get ({} : MemRegion) s.eth.regions key).valid
  checked c [(decide (1 < c.le 21 1), 21), (reg && (n == 0 || decide (2 ^ 52 < va + n)), 8)] []
    [(reg && decide (65536 ≤ s.eth.regions.length), noField), (!reg && !held, 16)] (fun s =>
      if reg then
        match rangePinned va n s with
        | (false, s1) => refuse c mbxFailed 0 s1
        | (true, s1) =>
          let k := newKey s1
          let r : MemRegion := ⟨va, n, c.le 20 1 % 2 == 1, c.le 20 1 / 2 % 2 == 1, true⟩
          answer c (leBytes 4 k.toNat) { s1 with eth := { s1.eth with
            regions := Sparse.set {} s1.eth.regions k.toNat r, nextKey := s1.eth.nextKey + 1 } }
      else answer c (leBytes 4 key) { s with eth := { s.eth with regions := Sparse.set {} s.eth.regions key {} } }) s

def execRdmaMrReg (m : MbxId) (s : State) : Host.Outcome State Fault Refusal := .next (serve m 0x0509 rdmaMrReg s)

/-- RDMA_QP_SET (R316). -/
def rdmaQpSet (c : MCmd) (s : State) : State :=
  let p := c.le 0 1
  let q := c.le 2 2
  let set := c.le 60 1 == 0
  checked c [(decide (16 ≤ p), 0), (decide (4096 ≤ q), 2),
      (set && (c.le 30 1 == 0 || decide (3 < c.le 30 1)), 30), (set && decide (7 < c.le 31 1), 31),
      (set && (decide (c.le 40 2 < 64) || decide (4096 < c.le 40 2)), 40),
      (set && (decide (c.le 42 2 < 6) || decide (16 < c.le 42 2)), 42), (decide (1 < c.le 60 1), 60)] [] [] (fun s =>
    let x : QpSt := if set then
        { valid := true
          peerQpn := BitVec.ofNat 32 (c.le 4 4)
          peerIp := (c.pay.drop 8).take 16
          mac := (c.pay.drop 24).take 6
          mtu := 512 * 2 ^ c.le 30 1
          retry := c.le 31 1
          sqVa := c.le 32 8
          sqEntries := c.le 40 2
          cqLog2 := c.le 42 2
          sqPsn := BitVec.ofNat 32 (c.le 44 4)
          cqVa := c.le 48 8
          rqPsn := BitVec.ofNat 32 (c.le 56 4) }
      else {}
    answer c [] (s.modQp p q fun _ => x)) s

def execRdmaQpSet (m : MbxId) (s : State) : Host.Outcome State Fault Refusal := .next (serve m 0x050A rdmaQpSet s)

end Sys2Proof.Machine
end

