-- ==== Sys2Proof/Machine/MgrGroup.lean ====
section
/-! DEFINITION. Mailbox commands for groups (spec 11 R246, R247, R262). -/

namespace Sys2Proof.Machine

def State.modColl (s : State) (f : CollState → CollState) : State := { s with coll := f s.coll }

/-- Collectives of a group that have started and whose final records are not written (R245). -/
def groupRuns (g : Nat) (s : State) : Nat := (s.coll.runs.filter fun r => r.group == g).length

/-- A descriptor of a collective engine that has started, naming the group, and not written its final record. -/
def groupBusy (g : Nat) (s : State) : Bool :=
  s.queues.any fun e => engKind e.2.code == .coll && e.2.progs.any fun p =>
    !p.unread && p.coll == some g || (p.phase != .ended && cGroup p.w == g && dOpcode p.w != opNop)

/-- GROUP_TABLE_SET (11 R246): the table is aligned to 4 KiB. -/
def groupTableSet (c : MCmd) (s : State) : State :=
  checked c [(c.le 0 8 % 4096 != 0 || decide (2 ^ 52 ≤ c.le 0 8), 0), (decide (2 ^ 52 ≤ c.le 8 8), 8)]
    [] [(groupsLoaded s, 0)] (fun s => answer c [] (s.modColl fun x => { x with table := some (c.le 0 8, c.le 8 8) })) s

def execGroupTableSet (m : MbxId) (s : State) : Host.Outcome State Fault Refusal := .next (serve m 0x0A01 groupTableSet s)

/-- Fields of a group table entry (Table 11-1), as read. -/
structure GroupEntry where
  valid : Bool
  coreMode : Bool
  engine : Nat
  algorithm : Nat
  listVa : Nat
  self : Nat
  members : Nat
  seqStart : Nat
  timeoutMs : Nat

def groupEntryOf (bs : List Byte) : GroupEntry :=
  let w (k : Nat) : W64 := w64 (leAt bs (8 * k) 8)
  { valid := bitOf (w 0) 63, coreMode := bitOf (w 0) 62, engine := fieldOf (w 0) 61 1
    algorithm := fieldOf (w 0) 52 4, listVa := fieldOf (w 0) 0 52, self := fieldOf (w 1) 32 16
    members := fieldOf (w 1) 0 17, seqStart := fieldOf (w 2) 0 20, timeoutMs := fieldOf (w 3) 0 16 }

/-- Every field lies in its range (Table 11-1, Table 11-2). -/
def GroupEntry.inRange (e : GroupEntry) : Bool :=
  decide (e.algorithm ≤ 3) && e.listVa % 32 == 0 && decide (1 ≤ e.members) && decide (e.members ≤ 65536)
    && decide (1 ≤ e.timeoutMs)

/-- The group an entry and its list make. -/
def GroupEntry.load (e : GroupEntry) (list : List NodeId) : GroupSt where
  coreMode := e.coreMode
  engine := e.engine
  algorithm := e.algorithm
  self := e.self
  timeoutMs := e.timeoutMs
  members := list
  nextSeq := BitVec.ofNat 20 e.seqStart

/-- The entry of group g, if the table is registered and can be read. -/
def readGroupEntry (g : Nat) (s : State) : Option GroupEntry × State :=
  match s.coll.table with
  | none => (none, s)
  | some (base, _) => match pinnedRead (base + 64 * g) 64 s with
    | (some bs, s1) => (some (groupEntryOf bs), s1)
    | (none, s1) => (none, s1)

/-- GROUP_LOAD (11 R247). -/
def groupLoad (c : MCmd) (s : State) : State :=
  let g := c.le 0 2
  checked c [(decide (4095 < g), 0)] [] [] (fun s =>
    match readGroupEntry g s with
    | (none, s1) => refuse c mbxFailed 0 s1
    | (some e, s1) =>
      checked c [(e.valid && !e.inRange, 0)] [] [(!e.valid || (s1.group g).isSome, 0)] (fun s =>
        match pinnedRead e.listVa (2 * e.members) s with
        | (none, s2) => refuse c mbxFailed 0 s2
        | (some bs, s2) =>
          let list : List NodeId := (List.range e.members).map fun k => BitVec.ofNat 16 (leAt bs (2 * k) 2)
          let mine := decide (e.self < e.members) && list.getD e.self 0xFFFF == s2.node && s2.node != 0xFFFF
          checked c [] [] [(!decide list.Nodup || !mine, 0)] (fun s =>
            answer c [] (s.modColl fun x => { x with groups := Sparse.set none x.groups g (some (e.load list)) })) s2) s1) s

def execGroupLoad (m : MbxId) (s : State) : Host.Outcome State Fault Refusal := .next (serve m 0x0A02 groupLoad s)

/-- A group is gone, with the messages held for it. -/
def unloadGroup (g : Nat) (x : CollState) : CollState :=
  { x with
    groups := Sparse.set none x.groups g none
    heldSigs := x.heldSigs.filter fun m => m.group.val != g
    heldData := x.heldData.filter fun m => m.group.val != g
    heldAborts := x.heldAborts.filter fun a => a.group != g }

/-- GROUP_UNLOAD (11 R247). -/
def groupUnload (c : MCmd) (s : State) : State :=
  let g := c.le 0 2
  checked c [(decide (4095 < g), 0)] [] [(groupBusy g s, 0)]
    (fun s => answer c [] (s.modColl (unloadGroup g))) s

def execGroupUnload (m : MbxId) (s : State) : Host.Outcome State Fault Refusal := .next (serve m 0x0A03 groupUnload s)

/-- Records of the Tally region written with zero, where it is registered and can be written. -/
def zeroTally (first n : Nat) (s : State) : State :=
  match s.coll.table with
  | none => s
  | some (_, va) =>
    (pastInvals (vaWrite codeNone (va + 128 * first) (List.replicate (128 * n) (0, false)) false .none) s).2

/-- TALLY_CLEAR (11 R262): the engine's record, and its copy in the region, become zero. -/
def tallyClear (c : MCmd) (s : State) : State :=
  let g := c.le 0 2
  let all := c.le 2 1 % 2 == 1
  checked c [(!all && decide (4095 < g), 0)] [] [] (fun s =>
    if all then answer c [] (zeroTally 0 4096 (s.modColl fun x => { x with tallies := [] }))
    else answer c [] (zeroTally g 1 (s.modColl fun x => { x with tallies := Sparse.set {} x.tallies g {} }))) s

def execTallyClear (m : MbxId) (s : State) : Host.Outcome State Fault Refusal := .next (serve m 0x0A04 tallyClear s)

/-- GROUP_STATUS (Table 18-18); an UNLOADED group has no next sequence number, so that field is free. -/
def groupStatus (c : MCmd) (s : State) : State :=
  let g := c.le 0 2
  checked c [(decide (4095 < g), 0)] [] [] (fun s =>
    let n := groupRuns g s
    match s.group g with
    | some x => answer c (leBytes 1 (if groupBusy g s then 2 else 1) ++ leBytes 1 n ++ leBytes 2 0 ++ leBytes 4 x.nextSeq.toNat) s
    | none =>
      let r := freshBytes 4 s
      answer c (leBytes 4 0 ++ r.1) r.2) s

def execGroupStatus (m : MbxId) (s : State) : Host.Outcome State Fault Refusal := .next (serve m 0x0A05 groupStatus s)

end Sys2Proof.Machine
end

