-- ==== Sys2Proof/Machine/Port.lean ====
section
/-! DEFINITION. What reaches the package through its PCIe ports (spec 15 R319-R334, 19 R393, R406): the
window, link and reset events, snoops, completions, configuration requests and MSI-X. -/

namespace Sys2Proof.Machine

def evPortDown : Nat := 0
def evPortUp : Nat := 1
def evBadBase : Nat := 2
def evPoisonRx : Nat := 3

def readBytesCount (p : Nat) : Nat := winCtr p 0x00
def writeBytesCount (p : Nat) : Nat := winCtr p 0x08

/-! ## The window (R322-R326) -/

/-- Highest WIN_BASEp.BASE, in 64 MiB units. -/
def maxWinBase : Nat := 0x47C0

/-- A write of WIN_BASEp (R322). -/
def winBaseWrite (p : Nat) (v : W64) (s : State) : State :=
  if maxWinBase < fieldOf v 26 26 then raiseEv srcWin evBadBase s
  else s.modPort p fun x => { x with winBase := fieldOf v 26 26 }

def execWinBaseWrite (p : PortId) (v : W64) (s : State) : Host.Outcome State Fault Refusal :=
  .next (clocked (winBaseWrite p.val v) s)

/-- Pool address of a window offset. -/
def windowAddr (p : Nat) (off : Nat) (s : State) : Nat := (s.port p).winBase * 0x4000000 + off

/-- A TLP arrives over a link that is up, for bytes of the 4 GiB BAR. -/
def windowTlp (p off n : Nat) (s : State) : Bool := (s.port p).linkUp && decide (off + n ≤ 0x100000000)

def windowRead (p : PortId) (off n : Nat) (s : State) : State :=
  if !windowTlp p.val off n s then s
  else if !s.boot.poolReady then emit (.unsupported p n) (reqFail p.val s)
  else
    let r := poolRead (codePort p.val) (windowAddr p.val off s) n false false s
    let s1 := count (readBytesCount p.val) n r.2
    let bad := r.1.any Prod.snd
    let s2 := if bad then
        count (poisonTxCount p.val) 1 (s1.modPort p.val fun x => { x with aerSent := true }) else s1
    emit (.completion p (r.1.map fun b => if b.2 then 0xFF else b.1) bad) s2

/-- WINDOW_READ (R323, R325, R326). -/
def execWindowRead (p : PortId) (off : BitVec 32) (bytes : Nat) (s : State) : Host.Outcome State Fault Refusal :=
  .next (clocked (windowRead p off.toNat bytes) s)

/-- A poisoned TLP or poisoned read data has been received. -/
def poisonReceived (p : Nat) (s : State) : State := raiseEv srcWin evPoisonRx (count (poisonRxCount p) 1 s)

def windowWrite (p : PortId) (off : Nat) (data : List Byte) (ep : Bool) (s : State) : State :=
  if !windowTlp p.val off data.length s then s
  else if !s.boot.poolReady then reqFail p.val s
  else if ep then poisonReceived p.val (s.modPort p.val fun x => { x with aerReceived := true })
  else poolWrite (windowAddr p.val off s) data .none (count (writeBytesCount p.val) data.length s)

/-- WINDOW_WRITE (R323, R325, R326). -/
def execWindowWrite (p : PortId) (off : BitVec 32) (data : List Byte) (ep : Bool) (s : State) :
    Host.Outcome State Fault Refusal := .next (clocked (windowWrite p off.toNat data ep) s)

/-! ## Link and reset events (R319, R321, R327, R406) -/

/-- PORT_LINK_UP (R319): CXL is negotiated at 32 and 64 GT/s only. -/
def execPortLinkUp (p : PortId) (width : BitVec 5) (rate : BitVec 3) (cxl : BitVec 2) (s : State) :
    Host.Outcome State Fault Refusal :=
  if !powered s then .next s else
  let c := if 3 ≤ rate.toNat then cxl.toNat else 0
  .next (if (s.port p.val).linkUp then s
    else raiseEv srcWin evPortUp (s.modPort p.val fun x => { x with
      linkUp := true, width := width.toNat, rate := rate.toNat, cxl := c, cacheEn := c != 0 }))

/-- The port's link and configuration space return to reset; with CXL.cache off nothing stays cached. -/
def portDown (p : Nat) (s : State) : State :=
  let was := (s.port p).linkUp
  let s1 := s.modPort p fun x => { x with
    linkUp := false, width := 0, rate := 0, cxl := 0, cacheEn := false, bme := false
    msixEnable := false, functionMask := false, bar0 := 0, bar2 := 0, cache := [], aerSent := false, aerReceived := false }
  if was then raiseEv srcWin evPortDown s1 else s1

/-- PORT_LINK_DOWN (R321, R327). -/
def execPortLinkDown (p : PortId) (s : State) : Host.Outcome State Fault Refusal := .next (clocked (portDown p.val) s)

/-- PORT_HOT_RESET (R406). -/
def execPortHotReset (p : PortId) (s : State) : Host.Outcome State Fault Refusal := .next (clocked (portDown p.val) s)

/-! ## Attach-host memory (R328, R329) -/

/-- HOST_SNOOP (R328): the snooped bus address names a 64-byte line. -/
def execHostSnoop (p : PortId) (addr : BitVec 43) (s : State) : Host.Outcome State Fault Refusal :=
  if !powered s then .next s else
  let line := (apertureBase + addr.toNat) / 64
  .next (count (snoopCount p.val) 1 (s.modPort p.val fun x => { x with cache := x.cache.filter fun l => l.1 != line }))

/-- Sectors a range touches. -/
def sectorsOf (a n : Nat) : List Nat :=
  if n = 0 then [] else (List.range ((a + n - 1) / 32 - a / 32 + 1)).map (a / 32 + ·)

/-- The sectors of a failed read are delivered poisoned from here on. -/
def poisonHost (a n : Nat) (s : State) : State :=
  { s with host := { s.host with poison := (sectorsOf a n).foldl (fun m k => Sparse.set false m k true) s.host.poison } }

/-- Data read from the attach host, as the package now sees it. -/
def hostSeen (a : Nat) (data : List Byte) (s : State) : State :=
  let whole := (sectorsOf a data.length).filter fun k => decide (a ≤ 32 * k ∧ 32 * k + 32 ≤ a + data.length)
  dropHostLines a data.length { s with host := { s.host with
    mem := s.host.mem.writeN a data
    poison := whole.foldl (fun m k => Sparse.set false m k false) s.host.poison } }

/-- Whole 64-byte lines of a cacheable read fill the port's host-line cache. -/
def fillHostLines (p a : Nat) (data : List Byte) (s : State) : State :=
  let lines := (List.range (data.length / 64 + 1)).map ((a + 63) / 64 + ·)
  (lines.filter fun l => decide (64 * l + 64 ≤ a + data.length)).foldl (fun s l =>
    s.modPort p (fillHostLine l ((data.drop (64 * l - a)).take 64))) s

/-- ATTACH_READ_COMPLETION (R328, R329). -/
def attachCompletion (p a : Nat) (data : List Byte) (st : HostStatus) (streaming : Bool) (s : State) : State :=
  match st with
  | .ok =>
    let s1 := hostSeen a data s
    if (s.port p).cacheEn && !streaming && (peerPort s a).isNone then fillHostLines p a data s1 else s1
  | .poisoned => poisonReceived p (poisonHost a data.length s)
  | _ => reqFail p (poisonHost a data.length s)

def execAttachReadCompletion (p : PortId) (addr : BitVec 43) (data : List Byte) (st : HostStatus)
    (streaming : Bool) (s : State) : Host.Outcome State Fault Refusal :=
  .next (clocked (attachCompletion p.val (apertureBase + addr.toNat) data st streaming) s)

/-- COMPLETION_TIMEOUT (R329, R331). -/
def execCompletionTimeout (p : PortId) (req : TimedOut) (s : State) : Host.Outcome State Fault Refusal :=
  if !powered s then .next s else
  .next (match req with
    | .hostRead a n => reqFail p.val (poisonHost (apertureBase + a) n s)
    | .flushRead q => flushDone q.val p false s)

/-! ## MSI-X and configuration space (R320, R333, 19 R393) -/

/-- MSIX_PENDING_SEND (R333). -/
def execMsixPendingSend (p : PortId) (vec : BitVec 8) (s : State) : Host.Outcome State Fault Refusal :=
  if !powered s then .next s else
  let k := vec.toNat
  .next (if Sparse.get false (s.port p.val).pba k && canSendMsix s p.val k then
      emit (.msix p k) (s.modPort p.val fun x => { x with pba := Sparse.set false x.pba k false })
    else s)

/-- Offset of the Device Serial Number capability: which the spec leaves open (log 103). -/
def dsnAt : Nat := 0x100 + 4 * (Config.dsnSlot % 957)

/-- The dword of configuration space at an offset, as far as R320 and R321 give it (none: free): the identity,
the BARs with their sizes and types, the absent expansion ROM, and the serial number, the same at both ports
(01 R11). -/
def configDword (p : PortId) (off : Nat) (s : State) : Option Nat :=
  let x := s.port p.val
  if off = 0 then some ((0x0920 + p.val) * 65536 + 0x1E9B)
  else if off = 0x10 then some (fieldOf x.bar0 24 8 * 0x1000000 + 4)
  else if off = 0x14 then some (fieldOf x.bar0 32 32)
  else if off = 0x18 then some 0xC
  else if off = 0x1C then some (fieldOf x.bar2 32 32)
  else if off ∈ [0x20, 0x24, 0x30] then some 0
  else if off = dsnAt + 4 then some (fieldOf Config.fuseSerial 0 32)
  else if off = dsnAt + 8 then some (fieldOf Config.fuseSerial 32 32)
  else none

/-- A dword of a BAR written: the bits below its size stay as they are. -/
def barWrite (bar2 high : Bool) (v : BitVec 32) (x : PortSt) : PortSt :=
  let put (w : W64) (mask : Nat) : W64 :=
    let m := w64 (if high then 0xFFFFFFFF00000000 else mask)
    (w &&& ~~~ m) ||| (w64 (if high then v.toNat * 2 ^ 32 else v.toNat) &&& m)
  if bar2 then { x with bar2 := put x.bar2 0 } else { x with bar0 := put x.bar0 0xFF000000 }

/-- A read of configuration space: the stated dwords, the class code over a free revision, the serial number
capability's header over a free next pointer, everything else free. -/
def configRead (p : PortId) (off : Nat) (s : State) : State :=
  match configDword p (off / 4 * 4) s with
  | some v => emit (.completion p (leBytes 4 v) false) s
  | none =>
    if off / 4 = 2 then
      let r := freshByte s
      emit (.completion p (r.1 :: leBytes 3 0x120000) false) r.2
    else if off / 4 * 4 = dsnAt then
      let r := freshWord s
      emit (.completion p (leBytes 4 (r.1.toNat % 4096 * 2 ^ 20 + 0x10003)) false) r.2
    else
      let r := freshBytes 4 s
      emit (.completion p r.1 false) r.2

/-- CONFIGURATION_REQUEST (19 R393): answered once the boot ROM serves, retried before. -/
def execConfigurationRequest (p : PortId) (req : CfgReq) (s : State) : Host.Outcome State Fault Refusal :=
  if !powered s then .next s else
  .next (if !(s.port p.val).linkUp then s
    else if s.boot.stage ≤ 1 then emit (.retryStatus p) s
    else match req with
      | .read off => configRead p off.toNat s
      | .writeBusMaster on => s.modPort p.val fun x => { x with bme := on }
      | .writeMsix en mask => s.modPort p.val fun x => { x with msixEnable := en, functionMask := mask }
      | .writeBar bar2 high v => s.modPort p.val (barWrite bar2 high v))

/-- WIN_COUNTER_CLEAR (R334). -/
def execWinCounterClear (v : W64) (s : State) : Host.Outcome State Fault Refusal :=
  if !powered s then .next s else
  .next (if bitOf v 0 then clearCounters 0x20100 0x20200 s else s)

end Sys2Proof.Machine
end

