-- ==== Sys2Proof/Machine/Security.lean ====
section
/-! DEFINITION. Identity, attestation, memory keys and debug authorisation (spec 20). The primitives are those of
Config (log 16); what they give is cut or filled to the length the spec states. -/

namespace Sys2Proof.Machine

def State.modSec (s : State) (f : SecState → SecState) : State := { s with sec := f s.sec }

def dbgCtr (off : Nat) : Nat := 0x800000 + off
def authCount : Nat := dbgCtr 0x100
def authFailCount : Nat := dbgCtr 0x108

def evGranted : Nat := 0
def evEnded : Nat := 1
def evAuthFail : Nat := 2

/-! ## Registers that attestation covers -/

/-- HBM_MODE (07 Table 7-6). -/
def hbmMode (s : State) : W64 := w64 (b2n s.hbm.spread * 2 ^ 32 + s.hbm.iso.toNat)

/-- BOOT_CTRL (19 Table 19-11). -/
def bootCtrl (s : State) : W64 := w64 (b2n s.boot.pinPreserve)

/-- Selectors that hold a key. -/
def keysLoaded (s : State) : W64 :=
  w64 (((List.range 64).map fun k => if k ≠ 0 ∧ (s.keyOf k).isSome then 2 ^ k else 0).sum)

/-- CONFIG_DIGEST (R420). -/
def configDigest (s : State) : List Byte :=
  let pwr := b2n s.pwr.droop * 256 + b2n s.pwr.fixedRate
  Config.sha384 (geometryTable ++ leBytes 8 (hbmMode s).toNat ++ leBytes 8 (bootCtrl s).toNat
    ++ leBytes 8 s.node.toNat ++ leBytes 8 pwr ++ leBytes 8 (keysLoaded s).toNat)

/-! ## Identity (R417-R419) -/

/-- The order of brainpoolP384r1 (RFC 5639). -/
def curveOrder : Nat :=
  0x8CB91E82A3386D280F5D6F7E50E641DF152F7109ED5456B31F166E6CAC0425A7CF3AB6AF6B7FC3103B883202E9046565

/-- ASCII "TY9-IDENTITY", "TY9ATTST", "TY9-XTS", "TY9-KEYLOAD" and "TY9A". -/
def txtIdentity : List Byte := [0x54, 0x59, 0x39, 0x2D, 0x49, 0x44, 0x45, 0x4E, 0x54, 0x49, 0x54, 0x59]
def txtAttest : List Byte := [0x54, 0x59, 0x39, 0x41, 0x54, 0x54, 0x53, 0x54]
def txtXts : List Byte := [0x54, 0x59, 0x39, 0x2D, 0x58, 0x54, 0x53]
def txtKeyLoad : List Byte := [0x54, 0x59, 0x39, 0x2D, 0x4B, 0x45, 0x59, 0x4C, 0x4F, 0x41, 0x44]
def txtAuth : List Byte := [0x54, 0x59, 0x39, 0x41]

/-- The identity private key (R417), as 48 little-endian bytes. -/
def identityKey : List Byte :=
  let k := leNat (fit 64 (Config.hkdf Config.deviceSecret [] txtIdentity)).reverse
  leBytes 48 (1 + k % (curveOrder - 1))

/-- The first 384 bytes of the report (Table 20-3). -/
def reportBody (m : MbxId) (nonce pub : List Byte) (s : State) : List Byte :=
  let r := s.boot.running
  txtAttest ++ leBytes 2 1 ++ leBytes 1 m.val ++ leBytes 1 0 ++ leBytes 4 partId ++ leBytes 8 Config.fuseSerial.toNat
    ++ leBytes 8 s.now ++ fit 32 nonce ++ fit 48 Config.romDigest ++ digestOf r ++ digestOf s.boot.staged
    ++ fit 48 (configDigest s) ++ leBytes 8 s.sec.svn ++ leBytes 8 (match r with | some x => x.svn | none => 0)
    ++ leBytes 1 s.sec.revoked.toNat ++ leBytes 1 (match r with | some x => x.slot | none => 0)
    ++ leBytes 1 s.sec.level ++ leBytes 1 (b2n s.time.set + 2 * b2n s.boot.preserved + 4 * b2n s.boot.poolReady)
    ++ leBytes 4 ((s.ctr activateCount).toNat % 2 ^ 32) ++ leBytes 8 (keysLoaded s).toNat ++ fit 96 pub

/-- ATTEST (R419): a fresh transport key, and the signed report. -/
def attest (c : MCmd) (s : State) : State :=
  let nonce := c.pay.take 32
  let s1 := s.modSec fun x => { x with
    draws := x.draws + 1, transport := Sparse.set none x.transport c.m.val (some ⟨x.draws, nonce⟩) }
  let body := reportBody c.m nonce (Config.publicKey (Config.random s.sec.draws)) s1
  answer c (body ++ fit 96 (Config.ecdsaSign identityKey (Config.sha384 body))) s1

def execAttest (m : MbxId) (s : State) : Host.Outcome State Fault Refusal := .next (serve m 0x0802 attest s)

/-- CERT_READ (R418). -/
def certRead (c : MCmd) (s : State) : State :=
  let i := c.le 0 1
  let off := c.le 4 4
  let cert := if h : i < 3 then Config.certificate ⟨i, h⟩ else []
  checked c [(decide (2 < i), 0), (decide (cert.length ≤ off), 4)] [] []
    (answer c (leBytes 4 cert.length ++ leBytes 12 0 ++ slice cert off 4064)) s

def execCertRead (m : MbxId) (s : State) : Host.Outcome State Fault Refusal := .next (serve m 0x0801 certRead s)

/-! ## Memory keys (R421-R423) -/

/-- A line lies in a page whose key map entry names the selector. -/
def lineOfKey (sel : Nat) (s : State) (line : Nat) : Bool := s.selectorOf (128 * line) == sel

/-- KEY_ERASE of one selector (R423): its cached lines and buffered writes go unwritten, then the key. -/
def eraseKey (sel : Nat) (s : State) : State :=
  if (s.keyOf sel).isNone ∨ sel = 0 then s
  else
    let hit := lineOfKey sel s
    let clean (s : State) (c : Nat) : State := s.modCis c fun x => { x with
      ways := Sparse.dropWhere (fun k => hit (Sparse.get {} x.ways k).line) x.ways
      evict := x.evict.filter fun l => !hit l.line }
    let s1 := (List.range 4).foldl clean s
    let held (w : HeldWrite) : HeldWrite := if hit w.line then { w with writes := [] } else w
    let dir := s1.coh.dir.map Prod.fst
    let s2 : State := { s1 with coh := { s1.coh with held := s1.coh.held.map held } }
    let s3 := (dir.filter hit).foldl (fun s l => s.setDir l ({ s.dirE l with remote := false }).norm) s2
    let s4 := (List.range 24).foldl (fun s k => s.setWcb k ((s.wcbOf k).filter fun e => !hit e.line)) s3
    let wb := s4.hbm.writeBacks.filter fun w => !hit (w.1 / 4)
    { s4 with hbm := { s4.hbm with writeBacks := wb }, keys := Sparse.set [] s4.keys sel [] }

/-- KEY_ERASE (R423). -/
def keyErase (c : MCmd) (s : State) : State :=
  let sel := c.le 0 1
  checked c [(sel == 0 || decide (63 < sel), 0)] []
    [(s.mgr.ops.any (fun o => o.id == 0x0423 && o.le 12 1 == sel), 0)] (fun s => answer c [] (eraseKey sel s)) s

def execKeyErase (m : MbxId) (s : State) : Host.Outcome State Fault Refusal := .next (serve m 0x0431 keyErase s)

/-- What KEY_LOAD derives from a record and a transport key (R421): 96 bytes, none without a point. -/
def deriveKeys (t : Transport) (sel : Nat) (blob : List Byte) : Option (List Byte) :=
  (Config.decompress (leAt blob 0 1) (slice blob 1 48)).map fun o =>
    let z := fit 48 (Config.ecdh (Config.random t.draw) o)
    fit 96 (Config.hkdf z t.nonce (txtXts ++ leBytes 1 sel))

/-- KEY_LOAD (R421, R422). -/
def keyLoad (c : MCmd) (s : State) : State :=
  let sel := c.le 0 1
  let blob := slice c.pay 8 72
  let t := Sparse.get none s.sec.transport c.m.val
  checked c [(sel == 0 || decide (63 < sel), 0), (decide (1 < leAt blob 0 1), 8)] []
    [((s.keyOf sel).isSome, 0), (t.isNone || s.sec.level == 2, noField)] (fun s =>
      match t.bind fun t => deriveKeys t sel blob with
      | none => refuse c mbxBadSignature 0 s
      | some okm =>
        let tag := (fit 48 (Config.hmacSha384 (slice okm 64 32) (txtKeyLoad ++ leBytes 1 sel ++ leBytes 8 Config.fuseSerial.toNat))).take 16
        if tag = slice blob 56 16 then answer c [] { s with keys := Sparse.set [] s.keys sel (okm.take 64) }
        else refuse c mbxBadSignature 0 s) s

def execKeyLoad (m : MbxId) (s : State) : Host.Outcome State Fault Refusal := .next (serve m 0x0430 keyLoad s)

/-! ## Signed authorisations (R414, R415) -/

/-- DEBUG_CHALLENGE (R415). -/
def debugChallenge (c : MCmd) (s : State) : State :=
  let ch := fit 32 (Config.random s.sec.draws)
  answer c ch (s.modSec fun x => { x with draws := x.draws + 1, challenge := some (ch, s.now) })

def execDebugChallenge (m : MbxId) (s : State) : Host.Outcome State Fault Refusal := .next (serve m 0x0803 debugChallenge s)

/-- Check 1 of R415: the offset of the first wrong field of an authorisation. -/
def authRange (purpose most : Nat) (a : List Byte) : Option Nat :=
  ([(a.take 4 != txtAuth, 0), (leAt a 4 1 != purpose, 4), (decide (most < leAt a 6 1), 6), (leAt a 7 1 != 0, 7)].find?
    (·.1)).map Prod.snd

/-- Checks 2 to 4 of R415: the first failure, and whether the challenge is used up. -/
def authChecks (a : List Byte) (s : State) : Option (BitVec 16) × Bool :=
  let key := slice a 56 96
  let after := leAt a 48 8
  if !rootKnown (leAt a 5 1) key s then (some mbxBadSignature, false)
  else if !Config.ecdsaVerify key (Config.sha384 (a.take 152)) (slice a 152 96) then (some mbxBadSignature, true)
  else if leAt a 8 8 ≠ Config.fuseSerial.toNat ∨ s.sec.challenge.map Prod.fst ≠ some (slice a 16 32)
      ∨ (after ≠ 0 ∧ (!s.time.set ∨ after < s.now)) then (some mbxDenied, true)
  else (none, true)

/-- A command's authorisation at payload offset `off` is checked, then its effect. -/
def authorised (c : MCmd) (off purpose most : Nat) (k : List Byte → State → State) (s : State) : State :=
  let a := c.pay.drop off
  let fail (st : BitVec 16) (d : Nat) (s : State) : State := refuse c st d (raiseEv srcDbg evAuthFail (count authFailCount 1 s))
  match authRange purpose most a with
  | some d => fail mbxRange (off + d) s
  | none =>
    let r := authChecks a s
    let s1 := if r.2 then s.modSec fun x => { x with challenge := none } else s
    match r.1 with
    | some st => fail st 0 s1
    | none => k a s1

/-- DEBUG_AUTH (R425, R426): PROBE erases every key first. -/
def debugAuth (c : MCmd) (s : State) : State :=
  authorised c 0 1 2 (fun a s =>
    let level := leAt a 6 1
    let s1 := if level = 2 then (List.range 64).foldl (fun s k => eraseKey k s) s else s
    let s2 := s1.modSec fun x => { x with level := level, signer := leAt a 5 1, notAfter := leAt a 48 8 }
    answer c [] (raiseEv srcDbg evGranted (count authCount 1 s2))) s

def execDebugAuth (m : MbxId) (s : State) : Host.Outcome State Fault Refusal := .next (serve m 0x0804 debugAuth s)

/-- Slots not revoked. -/
def openSlots (s : State) : Nat := ((List.range 4).filter fun k => !s.sec.revoked.getLsbD k).length

/-- ROOT_REVOKE (R416). -/
def rootRevoke (c : MCmd) (s : State) : State :=
  let slot := c.le 0 1
  checked c [(decide (3 < slot), 0)] [] [] (authorised c 8 2 255 (fun a s =>
    let running := match s.boot.running with | some x => x.slot == slot | none => false
    checked c [(leAt a 6 1 != slot, 14), (leAt a 5 1 == slot, 13)] []
      [(running || (!s.sec.revoked.getLsbD slot && openSlots s == 1), 0)]
      (fun s => answer c [] (s.modSec fun x => { x with revoked := x.revoked ||| BitVec.ofNat 4 (2 ^ slot) })) s)) s

def execRootRevoke (m : MbxId) (s : State) : Host.Outcome State Fault Refusal := .next (serve m 0x0805 rootRevoke s)

/-- SVN_ADVANCE (R424): a staged image below the new version becomes unusable. -/
def svnAdvance (c : MCmd) (s : State) : State :=
  let new := c.le 0 1
  let most := match s.boot.running with | some x => x.svn | none => 0
  checked c [(new == 0 || decide (64 < new), 0)] [] [] (fun s =>
    if s.sec.level = 2 then refuse c mbxDenied 0 s
    else checked c [] [] [(new != s.sec.svn && (decide (new < s.sec.svn) || decide (most < new)), 0)] (fun s =>
      let keep : Option Image := match s.boot.staged with
        | some x => if x.svn < new then none else some x
        | none => none
      answer c (leBytes 1 new) ((s.modSec fun x => { x with svn := new }).modBoot fun b => { b with staged := keep })) s) s

def execSvnAdvance (m : MbxId) (s : State) : Host.Outcome State Fault Refusal := .next (serve m 0x0806 svnAdvance s)

/-! ## The end of an authorisation (R425) -/

/-- The level in force ends; commands that wait on mailbox 3 are checked again. -/
def endDebug (s : State) : State :=
  if s.sec.level = 0 then s
  else settle (raiseEv srcDbg evEnded (s.modSec fun x => { x with level := 0, signer := 0, notAfter := 0 }))

/-- DEBUG_END: a write to DBG_CTRL. -/
def execDebugEnd (v : W64) (s : State) : Host.Outcome State Fault Refusal :=
  if !powered s then .next s else
  .next (if bitOf v 0 then endDebug s else s)

/-- NOT_AFTER_EXPIRY. -/
def execNotAfterExpiry (s : State) : Host.Outcome State Fault Refusal :=
  if !powered s then .next s else
  .next (if s.sec.notAfter ≠ 0 ∧ s.sec.notAfter ≤ s.now then endDebug s else s)

/-- CHALLENGE_EXPIRY (R415): 60 s after it was issued. -/
def execChallengeExpiry (s : State) : Host.Outcome State Fault Refusal :=
  if !powered s then .next s else
  .next (match s.sec.challenge with
    | some (_, t) => if t + 60000000000 ≤ s.now then s.modSec fun x => { x with challenge := none } else s
    | none => s)

/-- DBG_COUNTER_CLEAR (R427). -/
def execDbgCounterClear (v : W64) (s : State) : Host.Outcome State Fault Refusal :=
  .next (clocked (clearOn v 0x800000 0x801000) s)

end Sys2Proof.Machine
end

