-- ==== Sys2Proof/Machine/Regs.lean ====
section
/-! DEFINITION. The register map: what every register of the register space and of the engine blocks reads
as and what a write does (00 R4-R8, 01 R20), access errors (21 R437), the paths by which accesses arrive,
and the loads and stores of the cores (08 R188, R192). A write carries a mask of the bits it covers. -/

namespace Sys2Proof.Machine

/-- An RW register after a write: the bits of the mask come from v. -/
def merge (old m v : W64) : W64 := (old &&& ~~~ m) ||| (v &&& m)

/-- Does the write cover the half in which the fields with an action lie? -/
def lowHalf (m : W64) : Bool := bitOf m 0

/-- An event enable register written; `mask` holds its defined bits. -/
def enWrite (src : BitVec 16) (mask : Nat) (m v : W64) (s : State) : State :=
  setEvEn src (w64 mask) (merge (s.ev src).en m v) s

def State.evEn (s : State) (src : BitVec 16) : W64 := (s.ev src).en

/-- A sum of fields, each with its lowest bit. -/
def pack (fs : List (Nat × Nat)) : W64 := w64 ((fs.map fun f => f.2 * 2 ^ f.1).sum)

/-! ## BOOT (19 Table 19-11) -/

def bootStatus (s : State) : W64 :=
  pack [(32, s.boot.error.toNat), (8, b2n s.boot.preserved), (7, b2n s.boot.poolFault), (6, b2n s.boot.poolReady),
    (0, s.boot.stage)]

def bootRead (r : Nat) (s : State) : Option W64 :=
  if 0x1000 ≤ r ∧ r < 0x1200 then some (if s.boot.fwReady then w64 (leAt geometryTable (r - 0x1000) 8) else 0)
  else match r with
    | 0x00 => some (bootStatus s)
    | 0x08 => some (pack [(16, b2n s.boot.dropped), (0, s.boot.kind.toNat)])
    | 0x10 => some (bootCtrl s)
    | 0x18 => some (s.evBits srcBoot)
    | 0x20 => some (s.evEn srcBoot)
    | 0x28 => some 0
    | 0x100 | 0x108 | 0x110 => some (s.ctr (bootCtr r))
    | _ => none

def bootWrite (r : Nat) (m v : W64) (s : State) : State :=
  match r with
  | 0x10 => if lowHalf m then s.modBoot fun b => { b with pinPreserve := bitOf v 0 } else s
  | 0x18 => clearEv srcBoot v s
  | 0x20 => enWrite srcBoot 0x1F m v s
  | 0x28 => outState (execBootCounterClear v s) s
  | _ => s

/-! ## MBX (18 Table 18-1) -/

/-- Bits of MBXm_CTRL that are fields. -/
def mbxCtrlMask : W64 := 0xE1FF00FF

/-- Register r of mailbox n; the response area may hold undefined bytes. -/
def mbxRead (n r : Nat) (s : State) : Option (W64 × State) :=
  let x := s.mbx n
  let slot (o : Nat) : Option (W64 × State) := some ((Sparse.get {} x.slots (o / 0x40)).word (o % 0x40 / 8), s)
  if r < 0x1000 then some (w64 (x.cmd.word r 8), s)
  else if r < 0x2000 then some (mbxRspRead n (r - 0x1000) s)
  else if 0x2100 ≤ r ∧ r < 0x2300 then slot (r - 0x2100)
  else match r with
    | 0x2000 => some (0, s)
    | 0x2008 => some (mbxStatus n s, s)
    | 0x2010 => some (x.ctrl, s)
    | 0x2018 => some (w64 x.opDone, s)
    | 0x2020 => some (0, s)
    | 0x2400 | 0x2408 => some (s.ctr (mbxCtr n r), s)
    | _ => none

/-- The bytes a write covers, by offset in its 8 bytes. -/
def coveredBytes (m v : W64) : Nat × List Byte :=
  if bitOf m 0 then (0, leBytes (if bitOf m 63 then 8 else 4) v.toNat) else (4, leBytes 4 (v.toNat / 2 ^ 32))

def mbxWrite (n r : Nat) (m v : W64) (s : State) : State :=
  let id : MbxId := Fin.ofNat 4 n
  if r < 0x1000 then mbxCmdWrite n (r + (coveredBytes m v).1) (coveredBytes m v).2 s
  else match r with
    | 0x2000 => if lowHalf m then doorbellGo id v s else s
    | 0x2008 => mbxStatusWrite n v s
    | 0x2010 => s.modMbx n fun x => { x with ctrl := merge x.ctrl m v &&& mbxCtrlMask }
    | 0x2018 => opDoneWrite n v s
    | 0x2020 => outState (execMbxCounterClear id v s) s
    | _ => s

/-! ## WIN (15 Table 15-4, R333) -/

def winStatus (p : Nat) (s : State) : W64 :=
  let x := s.port p
  pack [(11, x.width), (8, x.rate), (6, x.cxl), (5, b2n x.cacheEn), (4, b2n x.bme), (0, b2n x.linkUp)]

/-- Bits of WIN_P2Pk_BASE and WIN_P2Pk_LIMIT that are fields. -/
def p2pBaseMask : W64 := 0xC00FFFFFFFFFF000
def p2pLimitMask : W64 := 0x000FFFFFFFFFF000

/-- The MSI-X table of a port from t = 0, its pending bits from t = 0x1000. -/
def msixRead (p t : Nat) (s : State) : W64 :=
  let x := s.port p
  if t < 0x1000 then
    let e := Sparse.get {} x.msix (t / 16)
    if t % 16 < 8 then e.addr else pack [(32, b2n e.masked), (0, e.data.toNat)]
  else if t < 0x1020 then
    w64 (((List.range 64).map fun k => if Sparse.get false x.pba ((t - 0x1000) * 8 + k) then 2 ^ k else 0).sum)
  else 0

def msixWrite (p t : Nat) (m v : W64) (s : State) : State :=
  if t < 0x1000 then
    let w := merge (msixRead p t s) m v
    s.modPort p fun x =>
      let e := Sparse.get {} x.msix (t / 16)
      let e' : MsixEntry := if t % 16 < 8 then { e with addr := w }
        else { e with data := w.truncate 32, masked := bitOf w 32 }
      { x with msix := Sparse.set {} x.msix (t / 16) e' }
  else s

def winRead (r : Nat) (s : State) : Option W64 :=
  if 0x4000 ≤ r ∧ r < 0x8000 then some (msixRead ((r - 0x4000) / 0x2000) ((r - 0x4000) % 0x2000) s)
  else if 0x200 ≤ r ∧ r < 0x300 then
    let k := (r - 0x200) / 0x10
    some (if r % 0x10 = 0 then Sparse.get 0 s.host.p2pBase k else Sparse.get 0 s.host.p2pLimit k)
  else if 0x100 ≤ r ∧ r < 0x180 then some (s.ctr (0x20000 + r))
  else match r with
    | 0x00 => some (pack [(26, (s.port 0).winBase)])
    | 0x08 => some (pack [(26, (s.port 1).winBase)])
    | 0x10 => some (s.evBits srcWin)
    | 0x18 => some (s.evEn srcWin)
    | 0x20 => some 0
    | 0x28 => some (winStatus 0 s)
    | 0x30 => some (winStatus 1 s)
    | _ => none

def winWrite (r : Nat) (m v : W64) (s : State) : State :=
  if 0x4000 ≤ r ∧ r < 0x8000 then msixWrite ((r - 0x4000) / 0x2000) ((r - 0x4000) % 0x2000) m v s
  else if 0x200 ≤ r ∧ r < 0x300 then
    let k := (r - 0x200) / 0x10
    let h := s.host
    let h' : HostState := if r % 0x10 = 0 then
        { h with p2pBase := Sparse.set 0 h.p2pBase k (merge (Sparse.get 0 h.p2pBase k) m v &&& p2pBaseMask) }
      else { h with p2pLimit := Sparse.set 0 h.p2pLimit k (merge (Sparse.get 0 h.p2pLimit k) m v &&& p2pLimitMask) }
    { s with host := h' }
  else match r with
    | 0x00 => winBaseWrite 0 (merge (pack [(26, (s.port 0).winBase)]) m v) s
    | 0x08 => winBaseWrite 1 (merge (pack [(26, (s.port 1).winBase)]) m v) s
    | 0x10 => clearEv srcWin v s
    | 0x18 => enWrite srcWin 0x3F m v s
    | 0x20 => outState (execWinCounterClear v s) s
    | _ => s

/-! ## QDB (10 Table 10-11) -/

def qConfig (x : QState) : W64 :=
  pack [(32, x.seqStart.toNat), (16, x.engine.toNat), (8, x.cqLog2), (0, x.log2)]

/-- A launch of queue q waits for its permit. -/
def launchWaits (q : Nat) (s : State) : Bool :=
  (allUnits s).any fun u => u.status == .waitingForPermit && (match u.cur with | some m => m.launch.id.q == q | none => false)

def qStatus (q : Nat) (s : State) : W64 :=
  let x := s.queue q
  let fault := x.progs.any fun p => match p.phase with
    | .waitingOnPage _ => !(s.xlt.ninth.any fun y => y.1 == ⟨q, p.n⟩)
    | _ => false
  let permit := (x.progs.any fun p => p.phase == .waitingForPermit) || launchWaits q s
  pack [(16, x.cause.toNat), (6, b2n fault), (5, b2n permit), (4, b2n x.cqWait), (3, b2n x.staleWait), (0, x.mode.code)]

/-- Bits of QDB_IRQ that are fields. -/
def qIrqMask : W64 := 0x0000FFFFE1FF00FF

def qdbRead (q r : Nat) (s : State) : Option W64 :=
  let x := s.queue q
  match r with
  | 0x000 => some (w64 x.tail)
  | 0x008 => some (w64 x.head)
  | 0x010 => some (w64 x.cqHead)
  | 0x018 => some (w64 x.cqTail)
  | 0x020 => some (w64 x.ringBase)
  | 0x028 => some (w64 x.cqBase)
  | 0x030 => some (qConfig x)
  | 0x038 => some (pack [(8, x.retries), (0, b2n x.enable)])
  | 0x040 => some (qStatus q s)
  | 0x048 => some (s.evBits (srcQdb q))
  | 0x050 => some (s.evEn (srcQdb q))
  | 0x058 => some x.irq
  | 0x060 => some 0
  | 0x100 | 0x108 | 0x110 | 0x118 | 0x120 => some (s.ctr (qCtr q r))
  | _ => none

/-- QDB_CTRL written: RETRIES, then STOP, RESUME and ENABLE in this order. -/
def qCtrlWrite (q : Nat) (v : W64) (s : State) : State :=
  let s1 := s.modQueue q fun x => { x with retries := fieldOf v 8 8 }
  let s2 := if bitOf v 2 then queueStop q s1 else s1
  let s3 := if bitOf v 1 then queueResume q s2 else s2
  if bitOf v 0 then queueEnable q (s3.modQueue q fun x => { x with enable := true }) else queueDisable q s3

/-- The registers that only a DISABLED queue lets software write (R223). -/
def qSetup (q : Nat) (f : QState → QState) (s : State) : State :=
  if (s.queue q).mode = .disabled then s.modQueue q f else s

def qdbWrite (q r : Nat) (m v : W64) (s : State) : State :=
  let id : QueueId := Fin.ofNat 256 q
  match r with
  | 0x000 => if lowHalf m then outState (execDoorbell id v s) s else s
  | 0x010 => if lowHalf m then outState (execCqHeadWrite id v s) s else s
  | 0x020 => qSetup q (fun x => { x with ringBase := fieldOf (merge (w64 x.ringBase) m v) 6 46 * 64 }) s
  | 0x028 => qSetup q (fun x => { x with cqBase := fieldOf (merge (w64 x.cqBase) m v) 5 47 * 32 }) s
  | 0x030 => qSetup q (fun x =>
      let w := merge (qConfig x) m v
      { x with seqStart := BitVec.ofNat 16 (fieldOf w 32 16), engine := BitVec.ofNat 8 (fieldOf w 16 8)
               cqLog2 := fieldOf w 8 5, log2 := fieldOf w 0 5 }) s
  | 0x038 => if lowHalf m then qCtrlWrite q v s else s
  | 0x048 => clearEv (srcQdb q) v s
  | 0x050 => enWrite (srcQdb q) 0x3F m v s
  | 0x058 => s.modQueue q fun x => { x with irq := merge x.irq m v &&& qIrqMask }
  | 0x060 => outState (execQdbCounterClear id v s) s
  | _ => s

/-! ## TIME (16 Table 16-7) and PWR (17 Table 17-6, 16 Table 16-10) -/

def timeRead (r : Nat) (s : State) : Option W64 :=
  match r with
  | 0x00 => some s.time64
  | 0x08 => some (w64 (slotOf s.now))
  | 0x10 => some (timeStatus s)
  | 0x18 => some (s.evBits srcTime)
  | 0x20 => some (s.evEn srcTime)
  | 0x28 => some 0
  | 0x100 | 0x108 => some (s.ctr (timeCtr r))
  | _ => none

def timeWrite (r : Nat) (m v : W64) (s : State) : State :=
  match r with
  | 0x18 => clearEv srcTime v s
  | 0x20 => enWrite srcTime 0xF m v s
  | 0x28 => outState (execTimeCounterClear v s) s
  | _ => s

/-- The gravest thermal state of any region. -/
def worstTherm (s : State) : Nat := ((List.range 6).map fun r => (s.therm r).code).foldl max 0

def pwrState (s : State) : W64 :=
  pack [(32, s.pwr.commonDuty), (14, worstTherm s), (12, s.pwr.wh.code), (8, b2n s.pwr.droop), (0, b2n s.pwr.fixedRate)]

/-- PWR_POWER: the last estimate, and the mean of the last millisecond's input power. -/
def pwrPower (s : State) : W64 :=
  pack [(32, s.pwr.ests.headD 0 / 163840), (0, (s.pwr.samples.headD (0, 0)).2 / 10)]

def whCal (s : State) : W64 :=
  pack [(32, s.pwr.gain), (16, s.pwr.dPermille), (8, s.pwr.over8), (0, s.pwr.over25)]

def envStatus (s : State) : W64 :=
  let e := s.env
  pack [(48, min 0xFFFF e.starts.length), (32, e.steward.toNat), (24, e.pace), (16, e.cause.toNat),
    (6, b2n (!e.asks.isEmpty)), (5, b2n e.hold), (2, e.role), (0, b2n e.member)]

def envLimits (s : State) : W64 :=
  pack [(48, s.env.slope), (32, s.env.floorW), (16, s.env.ceilW), (0, s.env.ballastDw / 10)]

def envCtrl (s : State) : W64 := pack [(16, s.env.delayMs), (0, s.env.marginW)]

def pwrRead (r : Nat) (s : State) : Option W64 :=
  if 0x2000 ≤ r ∧ r < 0x2200 then some (tagWord s ((r - 0x2000) / 8))
  else match r with
    | 0x000 => some (pwrState s)
    | 0x008 => some (s.evBits srcPwr)
    | 0x010 => some (s.evEn srcPwr)
    | 0x018 => some 0
    | 0x020 => some (pwrPower s)
    | 0x028 => some (whCal s)
    | 0x030 => some (w64 (leNat ((List.range 4).map (marginByte s))))
    | 0x038 => some (w64 (leNat ((List.range 8).map fun k => Sparse.get 0 s.pwr.temps k)))
    | 0x100 | 0x108 | 0x110 | 0x118 | 0x120 | 0x128 | 0x130 => some (s.ctr (pwrCtr r))
    | 0x1000 => some (envStatus s)
    | 0x1008 => some (pack [(32, s.env.level), (0, s.env.workDw / 10)])
    | 0x1010 => some (envLimits s)
    | 0x1018 => some (envCtrl s)
    | 0x1020 => some (s.evBits srcEnv)
    | 0x1028 => some (s.evEn srcEnv)
    | 0x1030 => some 0
    | 0x1100 | 0x1108 | 0x1110 | 0x1118 | 0x1120 | 0x1128 => some (s.ctr (pwrCtr r))
    | _ => none

/-- A field that ignores values outside its range. -/
def within (lo hi new old : Nat) : Nat := if lo ≤ new ∧ new ≤ hi then new else old

def pwrWrite (r : Nat) (m v : W64) (s : State) : State :=
  match r with
  | 0x008 => clearEv srcPwr v s
  | 0x010 => enWrite srcPwr 0xFF m v s
  | 0x018 => outState (execPwrCounterClear v s) s
  | 0x1018 =>
    let w := merge (envCtrl s) m v
    s.modEnv fun e => { e with
      delayMs := within 10 65535 (fieldOf w 16 16) e.delayMs, marginW := within 50 1000 (fieldOf w 0 16) e.marginW }
  | 0x1020 => clearEv srcEnv v s
  | 0x1028 => enWrite srcEnv 0x3F m v s
  | 0x1030 => outState (execPwrEnvCounterClear v s) s
  | _ => s

/-! ## CNT (21 Table 21-5) -/

/-- A write of 1 to CNT_COUNTER_CLEAR (R436). -/
def cntClear (v : W64) (s : State) : State := clearOn v 0x400100 0x400200 s

def cntRead (r : Nat) (s : State) : Option W64 :=
  match r with
  | 0x00 => some (s.evBits srcCnt)
  | 0x08 => some (s.evEn srcCnt)
  | 0x10 => some 0
  | 0x18 => some s.accInfo
  | 0x20 => some (w64 s.boot.lastShut.toNat)
  | 0x28 => some (w64 s.boot.shutTime)
  | 0x30 => some (pack [(32, s.mgr.nextSeq.toNat), (0, s.mgr.log.length)])
  | 0x100 | 0x108 | 0x110 => some (s.ctr (0x400000 + r))
  | _ => none

def cntWrite (r : Nat) (m v : W64) (s : State) : State :=
  match r with
  | 0x00 => clearEv srcCnt v s
  | 0x08 => enWrite srcCnt 0x1F m v s
  | 0x10 => cntClear v s
  | _ => s

/-! ## XLT (09 Table 9-8) -/

/-- Bits [51:11] of XLT_ROOT. -/
def xltRootMask : W64 := 0x000FFFFFFFFFF800

def xltCtrl (s : State) : W64 := pack [(31, b2n s.xlt.en), (0, s.xlt.timeoutMs)]

/-- What an invalidation still waits for: engine and time of the start. -/
def blockers (i : Inval) (s : State) : List (Nat × Nat) :=
  let since (d : DescId) : Nat := match s.prog d.q d.n with | some p => p.begun | none => 0
  let code (q : Nat) : Nat := (s.queue q).code
  ((i.descs.filter fun d => !progRetired d s) ++ i.launches.filter fun d => liveLaunch d s).map fun d => (code d.q, since d)

/-- The oldest blocking transfer's engine; a queue whose rings alone block counts last; 0xFF for none. -/
def oldestBlocker (s : State) : Nat :=
  let ts := s.xlt.invals.flatMap fun i => blockers i s
  match ts with
  | t :: rest => (rest.foldl (fun (a b : Nat × Nat) => if b.2 < a.2 then b else a) t).1
  | [] =>
    let qs := s.xlt.invals.flatMap fun i => i.queues.filter fun q => (s.queue q).mode != .disabled
    match qs with
    | q :: _ => (s.queue q).code
    | [] => codeNone

def xltRead (r : Nat) (s : State) : Option W64 :=
  if 0x1000 ≤ r ∧ r < 0x5800 then
    some (w64 (leNat ((List.range 8).map fun b => BitVec.ofNat 8 (Sparse.get 0 s.xlt.keyMap (r - 0x1000 + b)))))
  else if 0x8000 ≤ r ∧ r < 0x8900 then some (Sparse.get 0 s.xlt.streamBits ((r - 0x8000) / 8))
  else match r with
    | 0x00 => some s.xlt.root
    | 0x08 => some (xltCtrl s)
    | 0x10 => some (s.evBits srcXlt)
    | 0x18 => some (s.evEn srcXlt)
    | 0x20 => some s.xlt.errInfo
    | 0x28 => some (pack [(32, oldestBlocker s), (0, min 0xFFFF s.xlt.invals.length)])
    | 0x30 => some 0
    | 0x100 | 0x108 | 0x110 | 0x118 | 0x120 | 0x128 | 0x130 => some (s.ctr (0x500000 + r))
    | _ => none

def xltWrite (r : Nat) (m v : W64) (s : State) : State :=
  let x := s.xlt
  if 0x8000 ≤ r ∧ r < 0x8900 then
    let k := (r - 0x8000) / 8
    { s with xlt := { x with streamBits := Sparse.set 0 x.streamBits k (merge (Sparse.get 0 x.streamBits k) m v) } }
  else match r with
    | 0x00 => { s with xlt := { x with root := merge x.root m v &&& xltRootMask } }
    | 0x08 =>
      let w := merge (xltCtrl s) m v
      { s with xlt := { x with en := bitOf w 31, timeoutMs := within 1 65535 (fieldOf w 0 16) x.timeoutMs } }
    | 0x10 => clearEv srcXlt v s
    | 0x18 => enWrite srcXlt 0xF m v s
    | 0x30 => outState (execXltCounterClear v s) s
    | _ => s

/-! ## LNK (14 Table 14-12) -/

def lnkCtrl (s : State) : W64 :=
  let x := s.net
  pack [(48, x.ackMs), (32, x.spillNs), (16, x.stallMs), (8, x.retryLimit), (0, b2n x.autoRetrain)]

/-- Links first .. first + n - 1 of up_mask, as bits. -/
def upBits (first n : Nat) (s : State) : W64 :=
  w64 (((List.range n).map fun k => if (s.link (first + k)).mode == .up then 2 ^ k else 0).sum)

def linkRead (n o : Nat) (s : State) : W64 :=
  let l := s.link n
  if o = 0 then pack [(16, l.cause.toNat), (10, l.gen), (0, l.mode.code)]
  else if o = 8 then pack [(32, l.peer.toNat), (24, l.peerLink.toNat), (16, l.peerPart.toNat)]
  else s.ctr (linkCtr n o)

def ethStatus (p : Nat) (s : State) : W64 := w64 (if ethUp s p then (s.link (linkOfEth p)).ethRate else 0)

def lnkRead (r : Nat) (s : State) : Option W64 :=
  if 0x1000 ≤ r ∧ r < 0x2800 then some (linkRead ((r - 0x1000) / 0x40) (r % 0x40) s)
  else if 0x4000 ≤ r ∧ r < 0x5000 then
    let p := (r - 0x4000) / 0x100
    match r % 0x100 with
    | 0x00 => some (ethStatus p s)
    | 0x08 => some 0
    | 0x10 | 0x18 | 0x20 | 0x28 => some (s.ctr (ethCtr p (r % 0x100)))
    | _ => none
  else match r with
    | 0x00 => some (w64 s.node.toNat)
    | 0x08 => some (lnkCtrl s)
    | 0x10 => some (s.evBits srcLnk)
    | 0x18 => some (s.evEn srcLnk)
    | 0x20 => some 0
    | 0x28 => some (upBits 0 64 s)
    | 0x30 => some (upBits 64 32 s)
    | 0x38 | 0x40 => some (s.ctr (lnkCtr r))
    | _ => none

def lnkWrite (r : Nat) (m v : W64) (s : State) : State :=
  if 0x4000 ≤ r ∧ r < 0x5000 then
    if r % 0x100 = 0x08 ∧ lowHalf m then ethDoorbell (Fin.ofNat 16 ((r - 0x4000) / 0x100)) v s else s
  else match r with
    | 0x08 =>
      let w := merge (lnkCtrl s) m v
      s.modNet fun x => { x with
        ackMs := within 1 65535 (fieldOf w 48 16) x.ackMs, spillNs := fieldOf w 32 16
        stallMs := within 1 65535 (fieldOf w 16 16) x.stallMs, retryLimit := fieldOf w 8 8, autoRetrain := bitOf w 0 }
    | 0x10 => clearEv srcLnk v s
    | 0x18 => enWrite srcLnk 0x3F m v s
    | 0x20 => outState (execLnkCounterClear v s) s
    | _ => s

/-! ## HBM (07 Table 7-5, 08 Table 8-7) -/

def stackState (k : Nat) (s : State) : W64 :=
  let x := s.stack k
  pack [(32, x.temp.toNat), (16, x.tune.toNat), (8, b2n (s.hbm.iso.getLsbD k)), (0, x.mode.code)]

def pcStatus (p : Nat) (s : State) : W64 :=
  let x := s.pc p
  pack [(43, b2n (!x.sched.isEmpty)), (42, b2n x.degraded), (40, min 3 x.fails), (0, x.pins.toNat)]

def cisCtrl (c : Nat) (s : State) : W64 :=
  let x := s.cis c
  pack [(10, x.depth), (4, x.remoteWays), (2, b2n x.nextLine), (1, b2n x.strideEn)]

def lockedLines (c : Nat) (s : State) : Nat := ((s.cis c).ways.filter fun e => e.2.lock).length

def hbmScrub (s : State) : W64 := pack [(8, s.hbm.scrubHours), (0, b2n s.hbm.scrubEn)]

def hbmRead (r : Nat) (s : State) : Option W64 :=
  if 0x1000 ≤ r ∧ r < 0x4000 then some (pcStatus ((r - 0x1000) / 8) s)
  else if 0x100 ≤ r ∧ r < 0x700 then
    let k := (r - 0x100) / 0x40
    let o := r % 0x40
    if o = 0 then some (stackState k s) else if o ≤ 0x28 then some (s.ctr (0x700000 + r)) else none
  else if 0x8000 ≤ r ∧ r < 0x8400 then
    let c := (r - 0x8000) / 0x100
    match r % 0x100 with
    | 0x00 => some (cisCtrl c s)
    | 0x08 => some (w64 (lockedLines c s))
    | 0x10 | 0x18 | 0x20 | 0x28 | 0x30 => some (s.ctr (cisCtr c (r % 0x100)))
    | _ => none
  else match r with
    | 0x00 => some (hbmMode s)
    | 0x08 => some (hbmScrub s)
    | 0x10 => some (s.evBits srcHbm)
    | 0x18 => some (s.evEn srcHbm)
    | 0x20 => some 0
    | _ => none

def hbmWrite (r : Nat) (m v : W64) (s : State) : State :=
  if 0x8000 ≤ r ∧ r < 0x8400 then
    let c := (r - 0x8000) / 0x100
    if r % 0x100 = 0 then
      let w := merge (cisCtrl c s) m v
      s.modCis c fun x => { x with
        depth := within 0 32 (fieldOf w 10 6) x.depth, remoteWays := within 0 4 (fieldOf w 4 3) x.remoteWays
        nextLine := bitOf w 2, strideEn := bitOf w 1 }
    else s
  else match r with
    | 0x08 =>
      let w := merge (hbmScrub s) m v
      { s with hbm := { s.hbm with
        scrubHours := within 1 168 (fieldOf w 8 8) s.hbm.scrubHours, scrubEn := bitOf w 0 } }
    | 0x10 => clearEv srcHbm v s
    | 0x18 => enWrite srcHbm 0x7F m v s
    | 0x20 => outState (execHbmCounterClear v s) s
    | _ => s

/-! ## DBG (20 Table 20-7) -/

def dbgStatus (s : State) : W64 :=
  pack [(16, b2n s.sec.challenge.isSome), (8, s.sec.signer), (0, s.sec.level)]

def dbgRead (r : Nat) (s : State) : Option W64 :=
  match r with
  | 0x00 => some (dbgStatus s)
  | 0x08 => some (w64 s.sec.notAfter)
  | 0x10 => some 0
  | 0x18 => some (s.evBits srcDbg)
  | 0x20 => some (s.evEn srcDbg)
  | 0x28 => some 0
  | 0x100 | 0x108 => some (s.ctr (dbgCtr r))
  | _ => none

def dbgWrite (r : Nat) (m v : W64) (s : State) : State :=
  match r with
  | 0x10 => if bitOf v 0 then endDebug s else s
  | 0x18 => clearEv srcDbg v s
  | 0x20 => enWrite srcDbg 0xF m v s
  | 0x28 => outState (execDbgCounterClear v s) s
  | _ => s

/-! ## The register space (01 Table 1-6) -/

/-- The register at an offset that is a multiple of 8: its value, none where the offset is reserved. -/
def regRead (a : Nat) (s : State) : Option (W64 × State) :=
  let plain (o : Option W64) : Option (W64 × State) := o.map fun w => (w, s)
  if a < 0x10000 then plain (bootRead a s)
  else if a < 0x20000 then mbxRead ((a - 0x10000) / 0x4000) (a % 0x4000) s
  else if a < 0x30000 then plain (winRead (a - 0x20000) s)
  else if 0x100000 ≤ a ∧ a < 0x200000 then plain (qdbRead ((a - 0x100000) / 0x1000) (a % 0x1000) s)
  else match a / 0x10000 with
    | 0x20 => plain (timeRead (a % 0x10000) s)
    | 0x30 => plain (pwrRead (a % 0x10000) s)
    | 0x40 => plain (cntRead (a % 0x10000) s)
    | 0x50 => plain (xltRead (a % 0x10000) s)
    | 0x60 => plain (lnkRead (a % 0x10000) s)
    | 0x70 => plain (hbmRead (a % 0x10000) s)
    | 0x80 => plain (dbgRead (a % 0x10000) s)
    | _ => none

/-- A write of the bits of m to the register at an offset that is a multiple of 8. -/
def regWrite (a : Nat) (m v : W64) (s : State) : State :=
  if a < 0x10000 then bootWrite a m v s
  else if a < 0x20000 then mbxWrite ((a - 0x10000) / 0x4000) (a % 0x4000) m v s
  else if a < 0x30000 then winWrite (a - 0x20000) m v s
  else if 0x100000 ≤ a ∧ a < 0x200000 then qdbWrite ((a - 0x100000) / 0x1000) (a % 0x1000) m v s
  else match a / 0x10000 with
    | 0x20 => timeWrite (a % 0x10000) m v s
    | 0x30 => pwrWrite (a % 0x10000) m v s
    | 0x40 => cntWrite (a % 0x10000) m v s
    | 0x50 => xltWrite (a % 0x10000) m v s
    | 0x60 => lnkWrite (a % 0x10000) m v s
    | 0x70 => hbmWrite (a % 0x10000) m v s
    | 0x80 => dbgWrite (a % 0x10000) m v s
    | _ => s

/-! ## Engine blocks (03 Table 3-7, 04 Table 4-10, 06 Table 6-11, 12 Table 12-12, 13 Table 13-8) -/

def semWord (u : StreamUnit) : W64 := pack ((List.range 8).map fun k => (8 * k, Sparse.get 0 u.sems k))

def lockWord (u : StreamUnit) : W64 := pack [(33, b2n u.aligned), (32, b2n u.inGroup), (0, u.lockMask.toNat)]

def posWord (u : StreamUnit) (rep : Nat) : W64 := pack [(14, rep), (13, b2n u.half), (0, u.idx)]

/-- ARY_STATUS.STATE: an IDLE array that runs ballast shows BALLAST (03 R75, 16 R343). -/
def aryState (n : Nat) (s : State) : RunState :=
  let st := (s.arr n).su.status
  if st = .idle ∧ Sparse.get 0 s.pwr.ballast n ≠ 0 then .ballast else st

def aryStatus (n : Nat) (s : State) : W64 :=
  let x := s.arr n
  pack [(26, x.phaseTag.toNat), (16, x.su.haltCause.toNat), (9, x.duty), (8, b2n x.buf1.valid), (7, b2n x.buf0.valid),
    (6, b2n x.lastBuf), (4, x.mode.code), (0, (aryState n s).code)]

def aryRead (n r : Nat) (s : State) : Option W64 :=
  match r with
  | 0x00 => some (aryStatus n s)
  | 0x08 => some (s.evBits (srcAry n))
  | 0x10 => some (s.evEn (srcAry n))
  | 0x18 | 0x20 | 0x28 => some (s.ctr (debugBase (codeArray n) false + r))
  | 0x30 => some 0
  | _ => none

def aryWrite (n r : Nat) (m v : W64) (s : State) : State :=
  match r with
  | 0x08 => clearEv (srcAry n) v s
  | 0x10 => enWrite (srcAry n) 0x177 m v s
  | 0x30 => outState (execAryCounterClear (Fin.ofNat 16 n) v s) s
  | _ => s

def aryStreamRead (n r : Nat) (s : State) : Option W64 :=
  let u := (s.arr n).su
  match r with
  | 0x00 => some (posWord u u.rep)
  | 0x08 => some (semWord u)
  | 0x10 => some (s.evBits (srcAryStream n))
  | 0x18 => some u.hazardInfo
  | 0x20 => some (lockWord u)
  | 0x28 => some u.lockStart
  | 0x30 => some (w64 (min u.cycle (2 ^ 64 - 1)))
  | 0x38 | 0x40 => some (s.ctr (debugBase (codeArray n) true + r))
  | 0x48 => some 0
  | _ => none

def aryStreamWrite (n r : Nat) (v : W64) (s : State) : State :=
  match r with
  | 0x10 => clearEv (srcAryStream n) v s
  | 0x48 => outState (execAryStreamClear (Fin.ofNat 16 n) v s) s
  | _ => s

def vecStatus (n : Nat) (s : State) : W64 :=
  let x := s.vec n
  pack [(24, x.su.haltCause.toNat), (16, x.loops.length), (5, x.vlShown.getD x.vl), (0, x.su.status.code)]

def vecRead (n r : Nat) (s : State) : Option W64 :=
  let x := s.vec n
  match r with
  | 0x00 => some (vecStatus n s)
  | 0x08 => some (pack [(5, x.rm.toNat), (0, (vecFlags n s).toNat)])
  | 0x10 => some (s.evEn (srcVecFlags n))
  | 0x18 => some (s.evBits (srcVec n))
  | 0x20 => some (posWord x.su 0)
  | 0x28 => some (semWord x.su)
  | 0x30 => some x.su.hazardInfo
  | 0x38 => some (lockWord x.su)
  | 0x40 => some x.su.lockStart
  | 0x48 | 0x50 | 0x58 => some (s.ctr (debugBase (codeVec n) false + r))
  | 0x60 => some 0
  | _ => none

/-- VEC_FCSR written: RM unless it names no attribute, and each 1 of FLAGS clears (06 Table 6-6); discarded
in the cycle of a vfwr (R126). -/
def fcsrWrite (n : Nat) (v : W64) (s : State) : State :=
  if (s.vec n).fwrAt = some s.ticks then s
  else clearEv (srcVecFlags n) (v &&& 0x1F) (s.modVec n fun x => { x with
    rm := if fieldOf v 5 3 < 5 then BitVec.ofNat 3 (fieldOf v 5 3) else x.rm })

def vecWrite (n r : Nat) (m v : W64) (s : State) : State :=
  match r with
  | 0x08 => if lowHalf m then fcsrWrite n v s else s
  | 0x10 => enWrite (srcVecFlags n) 0x1F m v s
  | 0x18 => clearEv (srcVec n) v s
  | 0x60 => outState (execVecCounterClear (Fin.ofNat 16 n) v s) s
  | _ => s

def updStatus (u : Nat) (s : State) : W64 :=
  let x := s.upd1 u
  match x.armed with
  | none => pack [(3, b2n x.stall.isSome)]
  | some a =>
    let receiving := s.coll.runs.any fun r => a.paired == some r.id && r.phase == .data
    pack [(20, a.group), (3, b2n x.stall.isSome), (2, b2n receiving),
      (1, b2n (decide (min a.slowTo a.fastTo < a.hi - a.lo))), (0, 1)]

def updBlockRead (u r : Nat) (s : State) : Option W64 :=
  if 0x100 ≤ r ∧ r < 0x140 then some (s.ctr (updCtr u r))
  else match r with
    | 0x00 => some (updStatus u s)
    | 0x08 => some (s.evBits (srcUpd u))
    | 0x10 => some (s.evEn (srcUpd u))
    | 0x18 => some 0
    | _ => none

def updBlockWrite (u r : Nat) (m v : W64) (s : State) : State :=
  match r with
  | 0x08 => clearEv (srcUpd u) v s
  | 0x10 => enWrite (srcUpd u) 0xF m v s
  | 0x18 => outState (execUpdCounterClear (Fin.ofNat 2 u) v s) s
  | _ => s

def seqStatus (h : Nat) (s : State) : W64 :=
  let x := s.seq h
  let used := (x.slots.filter fun e => e.2.mode != .free).length
  pack [(8, used), (4, b2n ((seqLive h s).any (·.held))), (0, (seqLive h s).length)]

def ringCfg (x : SeqState) : W64 := pack [(8, b2n x.en), (0, x.log2)]

def seqBlockRead (h r : Nat) (s : State) : Option W64 :=
  let x := s.seq h
  if 0x40 ≤ r ∧ r < 0x440 then
    let j := s.slot h ((r - 0x40) / 8)
    some (pack [(32, j.pos % 2 ^ 32), (0, j.mode.code)])
  else match r with
    | 0x00 => some (seqStatus h s)
    | 0x08 => some (s.evBits (srcSeq h))
    | 0x10 => some (s.evEn (srcSeq h))
    | 0x18 => some 0
    | 0x20 => some (w64 x.ringBase)
    | 0x28 => some (ringCfg x)
    | 0x30 => some (w64 x.head)
    | 0x38 => some (w64 (x.tail % 2 ^ (x.log2 + 1)))
    | 0x800 | 0x808 | 0x810 | 0x818 => some (s.ctr (seqCtr h r))
    | _ => none

def seqBlockWrite (h r : Nat) (m v : W64) (s : State) : State :=
  let e : EngId := Fin.ofNat 2 h
  match r with
  | 0x08 => clearEv (srcSeq h) v s
  | 0x10 => enWrite (srcSeq h) 0xF m v s
  | 0x18 => outState (execSeqCounterClear e v s) s
  | 0x20 => s.modSeq h fun x => { x with ringBase := fieldOf (merge (w64 x.ringBase) m v) 4 48 * 16 }
  | 0x28 => if lowHalf m then outState (execSeqRingCfgWrite e v s) s else s
  | 0x30 => if lowHalf m then outState (execSeqRingHeadWrite e v s) s else s
  | _ => s

/-- Engines that have a block (R74), and arrays their stream control block too. -/
def hasBlock (code sub : Nat) : Bool :=
  (decide (code < 0x20) || (decide (0x42 ≤ code) && decide (code < 0x46))) && (sub == 0 || (sub == 1 && decide (code < 0x10)))

/-- A register of an engine block, none where the offset is unlisted. -/
def blockRead1 (code sub r : Nat) (s : State) : Option W64 :=
  if !hasBlock code sub then none
  else if code < 0x10 then (if sub = 0 then aryRead code r s else aryStreamRead code r s)
  else if code < 0x20 then vecRead (code - 0x10) r s
  else if code < 0x44 then updBlockRead (code - 0x42) r s
  else seqBlockRead (code - 0x44) r s

def blockWrite1 (code sub r : Nat) (m v : W64) (s : State) : State :=
  if !hasBlock code sub then s
  else if code < 0x10 then (if sub = 0 then aryWrite code r m v s else aryStreamWrite code r v s)
  else if code < 0x20 then vecWrite (code - 0x10) r m v s
  else if code < 0x44 then updBlockWrite (code - 0x42) r m v s
  else seqBlockWrite (code - 0x44) r m v s

/-! ## Access errors (21 R437) -/

def accessErrCount : Nat := 0x400100

/-- Bits of an access error that name its path (Table 21-7). -/
def pathBits : Path → Nat
  | .port p => p.val * 2 ^ 62
  | .core c => 2 * 2 ^ 62 + c.val * 2 ^ 24
  | .debug => 3 * 2 ^ 62

/-- An access refused under R5 (cause 1) or R20 (cause 2). -/
def accessError (p : Path) (write : Bool) (cause off : Nat) (s : State) : State :=
  let s1 := if bitOf (s.evBits srcCnt) 0 then s
    else { s with accInfo := w64 (pathBits p + b2n write * 2 ^ 61 + cause * 2 ^ 58 + off) }
  raiseEv srcCnt 0 (count accessErrCount 1 s1)

/-- Naturally aligned, 32 or 64 bits (00 R5). -/
def properAccess (off width : Nat) : Bool :=
  (width == 32 && off % 4 == 0) || (width == 64 && off % 8 == 0)

/-- Shift and mask of an access within its 64-bit register. -/
def laneOfAccess (off width : Nat) : Nat × W64 :=
  let sh := 8 * (off % 8)
  (sh, if width = 64 then BitVec.allOnes 64 else w64 (0xFFFFFFFF * 2 ^ sh))

/-- The half whose device-time counter a path reads (01 R16): that of the port or the core; the debug path
reads that of half A (log 104). -/
def halfB : Path → Bool
  | .port p => p.val == 1
  | .core c => decide (64 ≤ c.val)
  | .debug => false

/-- The register at an offset that is a multiple of 8, as a path reads it. -/
def pathRead (p : Path) (a : Nat) (s : State) : Option (W64 × State) :=
  let there : State := { s with now := timeOnHalf 1 s }
  if halfB p ∧ (a = 0x200000 ∨ a = 0x200008) then (timeRead (a % 0x10000) there).map fun w => (w, s)
  else regRead a s

/-- A read of the register space: its value. -/
def spaceRead (p : Path) (off width : Nat) (s : State) : W64 × State :=
  if !properAccess off width then (0, accessError p false 1 off s)
  else match pathRead p (off / 8 * 8) s with
    | none => (0, accessError p false 2 off s)
    | some (w, s1) =>
      let l := laneOfAccess off width
      (w64 ((w &&& l.2).toNat / 2 ^ l.1), s1)

/-- A write of the register space. -/
def spaceWrite (p : Path) (off width : Nat) (v : W64) (s : State) : State :=
  if !properAccess off width then accessError p true 1 off s
  else match regRead (off / 8 * 8) s with
    | none => accessError p true 2 off s
    | some _ =>
      let l := laneOfAccess off width
      regWrite (off / 8 * 8) l.2 (w64 (v.toNat * 2 ^ l.1) &&& l.2) s

/-- An access of the path can arrive: the package is powered, a port's link is up, and the debug path is
granted (20 Table 20-6). -/
def pathOpen (p : Path) (s : State) : Bool :=
  powered s && (match p with
    | .port q => (s.port q.val).linkUp
    | .core _ => true
    | .debug => s.sec.level != 0)

/-- What a read answers on its path. -/
def replyRead (p : Path) (bytes : Nat) (w : W64) (s : State) : State :=
  match p with
  | .port q => emit (.completion q (leBytes bytes w.toNat) false) s
  | .core c => s.modCore c.val fun x => { x with loaded := leBytes bytes w.toNat }
  | .debug => emit (.debugData (leBytes bytes w.toNat)) s

/-- REGISTER_READ (00 R5, 01 R12, R20). -/
def execRegisterRead (p : Path) (off : BitVec 24) (width : Nat) (s : State) : Host.Outcome State Fault Refusal :=
  .next (if pathOpen p s then
      let r := spaceRead p off.toNat width s
      replyRead p (width / 8) r.1 r.2
    else s)

/-- REGISTER_WRITE (00 R5, 01 R12, R20). -/
def execRegisterWrite (p : Path) (off : BitVec 24) (width : Nat) (v : W64) (s : State) :
    Host.Outcome State Fault Refusal :=
  .next (if pathOpen p s then spaceWrite p off.toNat width v s else s)

/-! ## The debug path (03 R74) -/

/-- An access error of the debug path in an engine block: no rule states its OFFSET, a free value (log 41). -/
def debugError (write : Bool) (cause : Nat) (s : State) : State :=
  let r := freshWord s
  accessError .debug write cause (r.1.toNat % 2 ^ 24) r.2

def debugAccess (code sub off width : Nat) (write : Option W64) (s : State) : State :=
  let answer (w : W64) (s : State) : State := if write.isSome then s else replyRead .debug (width / 8) w s
  if !properAccess off width then answer 0 (debugError write.isSome 1 s)
  else
    let l := laneOfAccess off width
    match blockRead1 code sub (off / 8 * 8) s with
    | none => answer 0 (debugError write.isSome 2 s)
    | some w => match write with
      | none => answer (w64 ((w &&& l.2).toNat / 2 ^ l.1)) s
      | some v => blockWrite1 code sub (off / 8 * 8) l.2 (w64 (v.toNat * 2 ^ l.1) &&& l.2) s

/-- DEBUG_PATH_ACCESS (R74, 00 R5, 01 R20). -/
def execDebugPathAccess (eng : BitVec 8) (sub : Bool) (off : BitVec 12) (op : DebugOp) (s : State) :
    Host.Outcome State Fault Refusal :=
  .next (if pathOpen .debug s then debugAccess eng.toNat (b2n sub) off.toNat op.width op.value s else s)

/-! ## Blocks through the manager (18 R392) -/

/-- Fields of BLOCK_READ and BLOCK_WRITE outside their range. -/
def blockRange (c : MCmd) : List (Bool × Nat) :=
  let words := c.le 4 2
  let off := c.le 2 2
  [ (!hasBlock (c.le 0 1) 0, 0), (!hasBlock (c.le 0 1) (c.le 1 1), 1)
  , (off % 8 != 0 || decide (0x1000 < off + 8 * words), 2)
  , (words == 0 || decide (508 < words) || (c.m == 2 && decide (126 < words)), 4) ]

def blockRead (c : MCmd) (s : State) : State :=
  checked c (blockRange c) [] [] (fun s =>
    answer c ((List.range (c.le 4 2)).flatMap fun k =>
      leBytes 8 ((blockRead1 (c.le 0 1) (c.le 1 1) (c.le 2 2 + 8 * k) s).getD 0).toNat) s) s

/-- BLOCK_READ. -/
def execBlockRead (m : MbxId) (s : State) : Host.Outcome State Fault Refusal := .next (serve m 0x0601 blockRead s)

def blockWrite (c : MCmd) (s : State) : State :=
  checked c (blockRange c ++ [(c.le 4 2 != 1, 4)]) [] [] (fun s =>
    answer c [] (blockWrite1 (c.le 0 1) (c.le 1 1) (c.le 2 2) (BitVec.allOnes 64) (w64 (c.le 8 8)) s)) s

/-- BLOCK_WRITE. -/
def execBlockWrite (m : MbxId) (s : State) : Host.Outcome State Fault Refusal := .next (serve m 0x0602 blockWrite s)

/-- CNT_COUNTER_CLEAR (21 R436). -/
def execCntCounterClear (v : W64) (s : State) : Host.Outcome State Fault Refusal := .next (clocked (cntClear v) s)

/-! ## Core loads and stores (08 R188, R192, 01 R19, R22-R24) -/

/-- The region all bytes of an access lie in; a hole where they do not lie in one. -/
def accessRegion (a n : Nat) : Region :=
  if regionOf a = regionOf (a + n - 1) then regionOf a else .hole

/-- Loaded bytes reach the core, or a poisoned one faults (R192). -/
def coreLoaded (c a : Nat) (kind : LoadKind) (r : List (Byte × Bool) × State) : State :=
  if r.1.any Prod.snd then corePoison c (loadCause kind) a r.2
  else r.2.modCore c fun x => { x with loaded := r.1.map Prod.fst }

def coreLoad (c : CoreId) (pa : PAddr) (n : Nat) (kind : LoadKind) (s : State) : State :=
  let a := pa.toNat
  match accessRegion a n with
  | .pool => homeRequest (.load c pa n kind) s
  | .hole => coreFault c.val (loadCause kind) a s
  | r =>
    if kind = .reserved ∨ (r = .registers ∧ kind = .vector) then coreFault c.val (loadCause kind) a s
    else match r with
      | .registers =>
        let w := spaceRead (.core c) (a - registerBase) (8 * n) s
        replyRead (.core c) n w.1 w.2
      | .store => coreLoaded c.val a kind (slotRead (s.arr (storePlace a).1) (storePlace a).2 n, s)
      | _ => coreLoaded c.val a kind (hostRead (c.val / 64) a n (coreStreaming s (a / 128)) s)

/-- CORE_LOAD. -/
def execCoreLoad (c : CoreId) (pa : PAddr) (bytes : Nat) (kind : LoadKind) (s : State) :
    Host.Outcome State Fault Refusal :=
  .next (if bytes = 0 ∨ !powered s then s else coreLoad c pa bytes kind s)

def coreStore (c : CoreId) (pa : PAddr) (data : List Byte) (kind : StoreKind) (s : State) : State :=
  let a := pa.toNat
  let plain := kind = .scalar ∨ kind = .vector
  match accessRegion a data.length with
  | .pool => homeRequest (.store c pa data kind) s
  | .hole => coreFault c.val 7 a s
  | r =>
    if ¬ plain ∨ (r = .registers ∧ kind = .vector) then coreFault c.val 7 a s
    else match r with
      | .registers => spaceWrite (.core c) (a - registerBase) (8 * data.length) (w64 (leNat data)) s
      | .store => physWrite (codeCore c.val) a (data.map fun b => (b, false)) false .none s
      | _ => hostWrite (c.val / 64) a (data.map fun b => (b, false)) s

/-- CORE_STORE. -/
def execCoreStore (c : CoreId) (pa : PAddr) (data : List Byte) (kind : StoreKind) (s : State) :
    Host.Outcome State Fault Refusal :=
  .next (if data = [] ∨ !powered s then s else coreStore c pa data kind s)

end Sys2Proof.Machine
end

