-- ==== Sys2Proof/Machine/Events.lean ====
section
/-! DEFINITION. The event log, its interrupts and telemetry windows (spec 21 R431-R433, 18 R392, 16 R340). -/

namespace Sys2Proof.Machine

def eventCount : Nat := 0x400108
def eventLostCount : Nat := 0x400110
def evEventLost : Nat := 2

/-- Records the log holds at most (R432). -/
def logMax : Nat := 1024

/-! ## Routes (R433) -/

/-- Instances of an event source's block (Table 21-4), 0 for a block that is none. -/
def srcInstances (block : Nat) : Nat :=
  if block = 0x01 then 4
  else if block = 0x03 then 256
  else if block < 0x0C then 1
  else if 0x10 ≤ block ∧ block ≤ 0x13 then 16
  else if 0x14 ≤ block ∧ block ≤ 0x16 then 2
  else 0

def validSource (src : Nat) : Bool :=
  decide (src % 256 < srcInstances (src / 256)) || (src % 256 == 255 && srcInstances (src / 256) != 0)

/-- A route set: instance 0xFF replaces every route of its block. -/
def setRoute (src : Nat) (r : EvRoute) (l : List (Nat × EvRoute)) : List (Nat × EvRoute) :=
  (src, r) :: l.filter fun e => if src % 256 = 255 then e.1 / 256 != src / 256 else e.1 != src

/-- The route in force for a source. -/
def routeFor (src : Nat) (l : List (Nat × EvRoute)) : Option EvRoute :=
  ((l.find? fun e => e.1 == src).or (l.find? fun e => e.1 == src / 256 * 256 + 255)).map Prod.snd

def eventRoute (c : MCmd) (s : State) : State :=
  let target := c.le 2 1
  checked c [(!validSource (c.le 0 2), 0), (decide (2 < target), 2), (decide (1 < c.le 3 1), 3),
    (target == 2 && decide (127 < c.le 4 1), 4)] [] [] (fun s =>
    answer c [] (s.modMgr fun g => { g with
      routes := setRoute (c.le 0 2) ⟨target, c.le 3 1, c.le 4 1, c.le 5 1⟩ g.routes })) s

/-- EVENT_ROUTE. -/
def execEventRoute (m : MbxId) (s : State) : Host.Outcome State Fault Refusal := .next (serve m 0x0603 eventRoute s)

/-- The interrupt of a source's route. -/
def sendRouted (src : Nat) (s : State) : State :=
  match routeFor src s.mgr.routes with
  | none => s
  | some r =>
    if r.target = 1 then sendMsix r.port r.vec s
    else if r.target = 2 then imsicSend r.core r.vec (r.port == 1) s
    else s

/-! ## The log (R431, R432) -/

/-- Edges in the order they are logged. -/
def edgeBefore (a b : Edge) : Bool :=
  decide (a.time < b.time) || (a.time == b.time && (decide (a.src.toNat < b.src.toNat)
    || (a.src == b.src && decide (a.bit < b.bit))))

/-- The edge to be logged next. -/
def firstEdge : List Edge → Option Edge
  | [] => none
  | e :: es => some (es.foldl (fun a b => if edgeBefore b a then b else a) e)

/-- The events register of a source as it reads now. -/
def eventValue (e : Edge) (s : State) : W64 :=
  let block := e.src.toNat / 256
  if block = 0x01 then mbxStatus (e.src.toNat % 256) s
  else if block = 0x16 then w64 (leAt (tallyBytes (s.tally e.arg.toNat)) 56 8)
  else s.evBits e.src

def recordOf (e : Edge) (s : State) : EvRec where
  time := e.time
  seq := s.mgr.nextSeq
  src := e.src
  bit := e.bit
  delayed := decide (s.boot.lastPause.1 ≤ e.time ∧ e.time < s.boot.lastPause.2)
  value := eventValue e s
  arg := e.arg

/-- A record appended; the oldest goes when the log is full. -/
def appendRecord (r : EvRec) (s : State) : State :=
  let full := decide (logMax ≤ s.mgr.log.length)
  let s1 := s.modMgr fun g => { g with
    log := (if full then g.log.drop 1 else g.log) ++ [r], nextSeq := g.nextSeq + 1 }
  let s2 := count eventCount 1 s1
  if full then raiseEv srcCnt evEventLost (count eventLostCount 1 s2) else s2

/-- EVENT_LOG_WRITE: the next edge is logged, and its interrupt sent. -/
def execEventLogWrite (s : State) : Host.Outcome State Fault Refusal :=
  .next (match firstEdge s.edges with
    | none => s
    | some e =>
      if fwRuns s then sendRouted e.src.toNat (appendRecord (recordOf e s) { s with edges := s.edges.erase e })
      else s)

/-- An event record's 32 bytes (Table 21-3). -/
def EvRec.bytes (r : EvRec) : List Byte :=
  leBytes 8 r.time ++ leBytes 8 (r.seq.toNat * 2 ^ 32 + r.src.toNat * 65536 + r.bit * 256 + b2n r.delayed)
    ++ leBytes 8 r.value.toNat ++ leBytes 8 r.arg.toNat

def eventLogRead (c : MCmd) (s : State) : State :=
  let most := c.le 2 2
  checked c [(most == 0 || decide (127 < most) || (c.m == 2 && decide (31 < most)), 2)] [] [] (fun s =>
    let rs := (s.mgr.log.drop (c.le 0 2)).take most
    answer c (leBytes 4 rs.length ++ rs.flatMap EvRec.bytes) s) s

/-- EVENT_LOG_READ. -/
def execEventLogRead (m : MbxId) (s : State) : Host.Outcome State Fault Refusal := .next (serve m 0x0604 eventLogRead s)

/-! ## Telemetry windows (18 R392, 16 R340) -/

/-- Register-space offsets a window names. -/
def telRegs (c : MCmd) : List Nat := (List.range (c.le 34 2)).map fun k => c.le (36 + 4 * k) 4

/-- The first offset that names no register word. -/
def telBadReg (c : MCmd) : Option Nat := (telRegs c).findIdx? fun r => r % 8 != 0 || decide (registerBytes ≤ r)

def telemetryWindow (c : MCmd) (s : State) : State :=
  let start := c.le 1 1 == 1
  let us := c.le 16 4
  checked c [(decide (15 < c.le 0 1), 0), (decide (1 < c.le 1 1), 1),
    (start && (decide (us < 10) || decide (1000000 < us)), 16), (start && c.le 32 2 == 0, 32),
    (start && (c.le 34 2 == 0 || decide (64 < c.le 34 2)), 34),
    (start && (telBadReg c).isSome, 36 + 4 * (telBadReg c).getD 0)] [] [] (fun s =>
    let w : TelWin := if start then
        { on := true, start := max s.now (c.le 8 8), periodUs := us, periods := c.le 20 4, ringVa := c.le 24 8
          entries := c.le 32 2, regs := (telRegs c).map (BitVec.ofNat 32) }
      else {}
    answer c [] (s.modMgr fun g => { g with windows := Sparse.set {} g.windows (c.le 0 1) w })) s

/-- TELEMETRY_WINDOW. -/
def execTelemetryWindow (m : MbxId) (s : State) : Host.Outcome State Fault Refusal :=
  .next (serve m 0x0605 telemetryWindow s)

/-- The registers of a record, in order; an offset that names none reads zero. -/
def telValues : List (BitVec 32) → State → List Byte × State
  | [], s => ([], s)
  | r :: rs, s =>
    let (w, s1) := (regRead r.toNat s).getD (0, s)
    let (bs, s2) := telValues rs s1
    (leBytes 8 w.toNat ++ bs, s2)

/-- Device time at which the next period of a window begins. -/
def TelWin.due (w : TelWin) : Nat := w.start + w.passed * (w.periodUs * 1000)

/-- A period has passed, with or without a record; the last one ends the window. -/
def TelWin.step (wrote : Bool) (w : TelWin) : TelWin :=
  if w.periods = w.passed + 1 then {} else { w with passed := w.passed + 1, written := w.written + b2n wrote }

/-- TELEMETRY_PERIOD: a window's next period, skipped when it fell within an activation pause. -/
def telemetryPeriod (k : Nat) (s : State) : State :=
  let w := Sparse.get {} s.mgr.windows k
  let passOn (wrote : Bool) (s : State) : State :=
    s.modMgr fun g => { g with windows := Sparse.set {} g.windows k (w.step wrote) }
  if !w.on || decide (s.now < w.due) || !fwRuns s then s
  else if s.boot.lastPause.1 ≤ w.due ∧ w.due < s.boot.lastPause.2 then passOn false s
  else
    let (bs, s1) := telValues w.regs s
    let va := w.ringVa + w.written % w.entries * (8 * w.regs.length)
    passOn true (pastInvals (vaWrite codeNone (va % 2 ^ 52) (bs.map fun b => (b, false)) false .none) s1).2

def execTelemetryPeriod (w : Fin 16) (s : State) : Host.Outcome State Fault Refusal := .next (clocked (telemetryPeriod w.val) s)

end Sys2Proof.Machine
end

