-- ==== Sys2Proof/Machine/Dispatch.lean ====
section
/-! DEFINITION. What each command does: one arm per constructor, each a call of that command's meaning. -/

namespace Sys2Proof.Machine

def exec (i : Instr) (s : State) : Host.Outcome State Fault Refusal :=
  match i with
  | .registerWrite path offset width value => Sys2Proof.Machine.execRegisterWrite path offset width value s
  | .deviceTimeCompare drift => Sys2Proof.Machine.execDeviceTimeCompare drift s
  | .coreLoad c pa bytes kind => Sys2Proof.Machine.execCoreLoad c pa bytes kind s
  | .coreStore c pa data kind => Sys2Proof.Machine.execCoreStore c pa data kind s
  | .cboClean c pa => Sys2Proof.Machine.execCboClean c pa s
  | .cboFlush c pa => Sys2Proof.Machine.execCboFlush c pa s
  | .cboInval c pa => Sys2Proof.Machine.execCboInval c pa s
  | .cboZero c pa => Sys2Proof.Machine.execCboZero c pa s
  | .mipisend c value => Sys2Proof.Machine.execMipisend c value s
  | .sipisend c value => Sys2Proof.Machine.execSipisend c value s
  | .merrinfoRead c => Sys2Proof.Machine.execMerrinfoRead c s
  | .machineTimer c cmp => Sys2Proof.Machine.execMachineTimer c cmp s
  | .homeCoreRead c pa depth => Sys2Proof.Machine.execHomeCoreRead c pa depth s
  | .homeCoreWrite c pa => Sys2Proof.Machine.execHomeCoreWrite c pa s
  | .homeEngineRead eng pa bytes streaming noRemote depth => Sys2Proof.Machine.execHomeEngineRead eng pa bytes streaming noRemote depth s
  | .homeEngineWrite eng pa data poison streaming => Sys2Proof.Machine.execHomeEngineWrite eng pa data poison streaming s
  | .holderAcknowledge pa holder => Sys2Proof.Machine.execHolderAcknowledge pa holder s
  | .evictionBufferDrain cis => Sys2Proof.Machine.execEvictionBufferDrain cis s
  | .sectorRead pc sector errs => Sys2Proof.Machine.execSectorRead pc sector errs s
  | .correctedWriteBack pc sector => Sys2Proof.Machine.execCorrectedWriteBack pc sector s
  | .wcbEntryTimeout stack => Sys2Proof.Machine.execWcbEntryTimeout stack s
  | .patrolScrub stack errs => Sys2Proof.Machine.execPatrolScrub stack errs s
  | .retuneSchedule stack tempC => Sys2Proof.Machine.execRetuneSchedule stack tempC s
  | .retuneStart pc => Sys2Proof.Machine.execRetuneStart pc s
  | .retuneEnd pc ok => Sys2Proof.Machine.execRetuneEnd pc ok s
  | .memConfig m => Sys2Proof.Machine.execMemConfig m s
  | .memErrorLog m => Sys2Proof.Machine.execMemErrorLog m s
  | .pcRetune m => Sys2Proof.Machine.execPcRetune m s
  | .stackMargin m => Sys2Proof.Machine.execStackMargin m s
  | .stackOffline m => Sys2Proof.Machine.execStackOffline m s
  | .stackOnline m => Sys2Proof.Machine.execStackOnline m s
  | .cacheLock m => Sys2Proof.Machine.execCacheLock m s
  | .cacheUnlock m => Sys2Proof.Machine.execCacheUnlock m s
  | .streamLaunch q => Sys2Proof.Machine.execStreamLaunch q s
  | .streamLoadComplete e => Sys2Proof.Machine.execStreamLoadComplete e s
  | .lockGroupStart e => Sys2Proof.Machine.execLockGroupStart e s
  | .bundleIssue n => Sys2Proof.Machine.execBundleIssue n s
  | .accumulatorRowWrite n => Sys2Proof.Machine.execAccumulatorRowWrite n s
  | .preloadEnd n buf => Sys2Proof.Machine.execPreloadEnd n buf s
  | .triggerComplete e k => Sys2Proof.Machine.execTriggerComplete e k s
  | .semaphoreWaitPass e => Sys2Proof.Machine.execSemaphoreWaitPass e s
  | .groupWaitRelease e => Sys2Proof.Machine.execGroupWaitRelease e s
  | .withheldCycle n => Sys2Proof.Machine.execWithheldCycle n s
  | .dutyBoundary n => Sys2Proof.Machine.execDutyBoundary n s
  | .droopStretch t => Sys2Proof.Machine.execDroopStretch t s
  | .streamComplete e => Sys2Proof.Machine.execStreamComplete e s
  | .aryCounterClear n value => Sys2Proof.Machine.execAryCounterClear n value s
  | .aryStreamClear n value => Sys2Proof.Machine.execAryStreamClear n value s
  | .vectorBundleIssue n => Sys2Proof.Machine.execVectorBundleIssue n s
  | .vectorResultWrite n => Sys2Proof.Machine.execVectorResultWrite n s
  | .vecCounterClear n value => Sys2Proof.Machine.execVecCounterClear n value s
  | .doorbell q value => Sys2Proof.Machine.execDoorbell q value s
  | .descriptorFetchReturn q => Sys2Proof.Machine.execDescriptorFetchReturn q s
  | .descriptorRefetch q => Sys2Proof.Machine.execDescriptorRefetch q s
  | .queueEnable q => Sys2Proof.Machine.execQueueEnable q s
  | .queueDisable q => Sys2Proof.Machine.execQueueDisable q s
  | .queueDrainEnd q => Sys2Proof.Machine.execQueueDrainEnd q s
  | .queueStop q => Sys2Proof.Machine.execQueueStop q s
  | .queueResume q => Sys2Proof.Machine.execQueueResume q s
  | .cqHeadWrite q value => Sys2Proof.Machine.execCqHeadWrite q value s
  | .irqHoldoffExpiry q => Sys2Proof.Machine.execIrqHoldoffExpiry q s
  | .qdbCounterClear q value => Sys2Proof.Machine.execQdbCounterClear q value s
  | .nop q => Sys2Proof.Machine.execNop q s
  | .copy q => Sys2Proof.Machine.execCopy q s
  | .copy2d q => Sys2Proof.Machine.execCopy2d q s
  | .fill q => Sys2Proof.Machine.execFill q s
  | .writeImm q => Sys2Proof.Machine.execWriteImm q s
  | .transferComplete q => Sys2Proof.Machine.execTransferComplete q s
  | .invalidate q => Sys2Proof.Machine.execInvalidate q s
  | .invalidateComplete q => Sys2Proof.Machine.execInvalidateComplete q s
  | .migrationService => Sys2Proof.Machine.execMigrationService s
  | .migrationCopyComplete vpage ok => Sys2Proof.Machine.execMigrationCopyComplete vpage ok s
  | .faultTimeout vpage => Sys2Proof.Machine.execFaultTimeout vpage s
  | .xltNotifyRing m => Sys2Proof.Machine.execXltNotifyRing m s
  | .pageSupply m => Sys2Proof.Machine.execPageSupply m s
  | .pageMigrate m => Sys2Proof.Machine.execPageMigrate m s
  | .keyMap m => Sys2Proof.Machine.execKeyMap m s
  | .xltCounterClear value => Sys2Proof.Machine.execXltCounterClear value s
  | .allReduce q => Sys2Proof.Machine.execAllReduce q s
  | .reduceScatter q => Sys2Proof.Machine.execReduceScatter q s
  | .allGather q => Sys2Proof.Machine.execAllGather q s
  | .broadcast q => Sys2Proof.Machine.execBroadcast q s
  | .reduce q => Sys2Proof.Machine.execReduce q s
  | .allToAll q => Sys2Proof.Machine.execAllToAll q s
  | .barrier q => Sys2Proof.Machine.execBarrier q s
  | .flagReduce q => Sys2Proof.Machine.execFlagReduce q s
  | .collectiveStartTime g => Sys2Proof.Machine.execCollectiveStartTime g s
  | .signatureMessage msg => Sys2Proof.Machine.execSignatureMessage msg s
  | .collectiveDataMessage msg => Sys2Proof.Machine.execCollectiveDataMessage msg s
  | .abortNotice g seq src cause => Sys2Proof.Machine.execAbortNotice g seq src cause s
  | .memberTimeout g member => Sys2Proof.Machine.execMemberTimeout g member s
  | .collectiveDone g => Sys2Proof.Machine.execCollectiveDone g s
  | .groupTableSet m => Sys2Proof.Machine.execGroupTableSet m s
  | .groupLoad m => Sys2Proof.Machine.execGroupLoad m s
  | .groupUnload m => Sys2Proof.Machine.execGroupUnload m s
  | .tallyClear m => Sys2Proof.Machine.execTallyClear m s
  | .groupStatus m => Sys2Proof.Machine.execGroupStatus m s
  | .updApply q => Sys2Proof.Machine.execUpdApply q s
  | .gradientDelivery u bits => Sys2Proof.Machine.execGradientDelivery u bits s
  | .stateArrival u upto => Sys2Proof.Machine.execStateArrival u upto s
  | .stallBoundExpiry u => Sys2Proof.Machine.execStallBoundExpiry u s
  | .applyStaged u => Sys2Proof.Machine.execApplyStaged u s
  | .updCommit q => Sys2Proof.Machine.execUpdCommit q s
  | .updCounterClear u value => Sys2Proof.Machine.execUpdCounterClear u value s
  | .slotOpen q => Sys2Proof.Machine.execSlotOpen q s
  | .slotClose q => Sys2Proof.Machine.execSlotClose q s
  | .kvGather q => Sys2Proof.Machine.execKvGather q s
  | .kvPut q => Sys2Proof.Machine.execKvPut q s
  | .sample q => Sys2Proof.Machine.execSample q s
  | .seqRingHeadWrite e value => Sys2Proof.Machine.execSeqRingHeadWrite e value s
  | .seqRingCfgWrite e value => Sys2Proof.Machine.execSeqRingCfgWrite e value s
  | .seqCounterClear e value => Sys2Proof.Machine.execSeqCounterClear e value s
  | .linkTrainingEnd n gen => Sys2Proof.Machine.execLinkTrainingEnd n gen s
  | .flitReceive n bytes words => Sys2Proof.Machine.execFlitReceive n bytes words s
  | .retryReq n fseq => Sys2Proof.Machine.execRetryReq n fseq s
  | .retryReqRepeat n => Sys2Proof.Machine.execRetryReqRepeat n s
  | .ident n node link gen part => Sys2Proof.Machine.execIdent n node link gen part s
  | .withdraw n => Sys2Proof.Machine.execWithdraw n s
  | .withdrawAck n => Sys2Proof.Machine.execWithdrawAck n s
  | .restore n => Sys2Proof.Machine.execRestore n s
  | .creditStall n vl => Sys2Proof.Machine.execCreditStall n vl s
  | .packetRoute from_ pkt => Sys2Proof.Machine.execPacketRoute from_ pkt s
  | .write pkt => Sys2Proof.Machine.execWrite pkt s
  | .writeAck txn status => Sys2Proof.Machine.execWriteAck txn status s
  | .unreachable txn node => Sys2Proof.Machine.execUnreachable txn node s
  | .writeAckTimeout txn => Sys2Proof.Machine.execWriteAckTimeout txn s
  | .linkDown n cause => Sys2Proof.Machine.execLinkDown n cause s
  | .nodeDownTimer node => Sys2Proof.Machine.execNodeDownTimer node s
  | .nodeDown n node => Sys2Proof.Machine.execNodeDown n node s
  | .autoRetrainAttempt n => Sys2Proof.Machine.execAutoRetrainAttempt n s
  | .nodeIdSet m => Sys2Proof.Machine.execNodeIdSet m s
  | .routeWrite m => Sys2Proof.Machine.execRouteWrite m s
  | .routeRead m => Sys2Proof.Machine.execRouteRead m s
  | .linkConfig m => Sys2Proof.Machine.execLinkConfig m s
  | .linkWithdraw m => Sys2Proof.Machine.execLinkWithdraw m s
  | .linkRetrain m => Sys2Proof.Machine.execLinkRetrain m s
  | .linkRestore m => Sys2Proof.Machine.execLinkRestore m s
  | .ethConfig m => Sys2Proof.Machine.execEthConfig m s
  | .rdmaMrReg m => Sys2Proof.Machine.execRdmaMrReg m s
  | .rdmaQpSet m => Sys2Proof.Machine.execRdmaQpSet m s
  | .ethFrameReceive p frame => Sys2Proof.Machine.execEthFrameReceive p frame s
  | .pfcFrame p mask pause => Sys2Proof.Machine.execPfcFrame p mask pause s
  | .cnpReceive p qpn => Sys2Proof.Machine.execCnpReceive p qpn s
  | .roceRateIncrease p qpn => Sys2Proof.Machine.execRoceRateIncrease p qpn s
  | .ethDoorbell p value => Sys2Proof.Machine.execEthDoorbell p value s
  | .rdmaRequestReceive p qpn req => Sys2Proof.Machine.execRdmaRequestReceive p qpn req s
  | .rdmaNak p qpn syndrome => Sys2Proof.Machine.execRdmaNak p qpn syndrome s
  | .rdmaRetryExceeded p qpn => Sys2Proof.Machine.execRdmaRetryExceeded p qpn s
  | .lnkCounterClear value => Sys2Proof.Machine.execLnkCounterClear value s
  | .winBaseWrite p value => Sys2Proof.Machine.execWinBaseWrite p value s
  | .windowRead p offset bytes => Sys2Proof.Machine.execWindowRead p offset bytes s
  | .windowWrite p offset data ep => Sys2Proof.Machine.execWindowWrite p offset data ep s
  | .portLinkUp p width rate cxl => Sys2Proof.Machine.execPortLinkUp p width rate cxl s
  | .portLinkDown p => Sys2Proof.Machine.execPortLinkDown p s
  | .portHotReset p => Sys2Proof.Machine.execPortHotReset p s
  | .hostSnoop p addr => Sys2Proof.Machine.execHostSnoop p addr s
  | .attachReadCompletion p addr data status streaming => Sys2Proof.Machine.execAttachReadCompletion p addr data status streaming s
  | .flushReadCompletion q p ok => Sys2Proof.Machine.execFlushReadCompletion q p ok s
  | .msixPendingSend p vec => Sys2Proof.Machine.execMsixPendingSend p vec s
  | .winCounterClear value => Sys2Proof.Machine.execWinCounterClear value s
  | .timeSourceSet m => Sys2Proof.Machine.execTimeSourceSet m s
  | .timeStep m => Sys2Proof.Machine.execTimeStep m s
  | .timeSyncSend => Sys2Proof.Machine.execTimeSyncSend s
  | .timeSyncMessage n offset => Sys2Proof.Machine.execTimeSyncMessage n offset s
  | .ppsEdge clean offset => Sys2Proof.Machine.execPpsEdge clean offset s
  | .timeCounterClear value => Sys2Proof.Machine.execTimeCounterClear value s
  | .weighHouseEstimate act => Sys2Proof.Machine.execWeighHouseEstimate act s
  | .rampStep => Sys2Proof.Machine.execRampStep s
  | .startGrant => Sys2Proof.Machine.execStartGrant s
  | .reservationExpiry => Sys2Proof.Machine.execReservationExpiry s
  | .heldBelowNeed needW => Sys2Proof.Machine.execHeldBelowNeed needW s
  | .downRequest => Sys2Proof.Machine.execDownRequest s
  | .ballastShort holdW milliJ => Sys2Proof.Machine.execBallastShort holdW milliJ s
  | .stewardSlot => Sys2Proof.Machine.execStewardSlot s
  | .request msg => Sys2Proof.Machine.execRequest msg s
  | .grant msg => Sys2Proof.Machine.execGrant msg s
  | .report msg => Sys2Proof.Machine.execReport msg s
  | .envelope msg => Sys2Proof.Machine.execEnvelope msg s
  | .heartbeat msg => Sys2Proof.Machine.execHeartbeat msg s
  | .excursion msg => Sys2Proof.Machine.execExcursion msg s
  | .snapshot msg body => Sys2Proof.Machine.execSnapshot msg body s
  | .claim msg => Sys2Proof.Machine.execClaim msg s
  | .reportInterval => Sys2Proof.Machine.execReportInterval s
  | .heartbeatInterval => Sys2Proof.Machine.execHeartbeatInterval s
  | .snapshotInterval => Sys2Proof.Machine.execSnapshotInterval s
  | .envelopeInterval => Sys2Proof.Machine.execEnvelopeInterval s
  | .requestResend => Sys2Proof.Machine.execRequestResend s
  | .headShareInterval => Sys2Proof.Machine.execHeadShareInterval s
  | .heartbeatTimeout => Sys2Proof.Machine.execHeartbeatTimeout s
  | .snapshotTimeout => Sys2Proof.Machine.execSnapshotTimeout s
  | .memberReportTimeout node => Sys2Proof.Machine.execMemberReportTimeout node s
  | .paceHoldExpiry set => Sys2Proof.Machine.execPaceHoldExpiry set s
  | .dutyCapRaise set => Sys2Proof.Machine.execDutyCapRaise set s
  | .envelopeSet m => Sys2Proof.Machine.execEnvelopeSet m s
  | .powerGroupJoin m => Sys2Proof.Machine.execPowerGroupJoin m s
  | .stewardRole m => Sys2Proof.Machine.execStewardRole m s
  | .stewardHandover m => Sys2Proof.Machine.execStewardHandover m s
  | .paceSet m => Sys2Proof.Machine.execPaceSet m s
  | .envelopeStatus m => Sys2Proof.Machine.execEnvelopeStatus m s
  | .pwrEnvCounterClear value => Sys2Proof.Machine.execPwrEnvCounterClear value s
  | .inputPowerSample dw => Sys2Proof.Machine.execInputPowerSample dw s
  | .inputStageFault => Sys2Proof.Machine.execInputStageFault s
  | .peakClamp watts => Sys2Proof.Machine.execPeakClamp watts s
  | .peakClampEnd => Sys2Proof.Machine.execPeakClampEnd s
  | .overRatedEnd => Sys2Proof.Machine.execOverRatedEnd s
  | .weighHouseCompare => Sys2Proof.Machine.execWeighHouseCompare s
  | .deltaRecompute => Sys2Proof.Machine.execDeltaRecompute s
  | .measurementAbsent => Sys2Proof.Machine.execMeasurementAbsent s
  | .recalibrationAttempt => Sys2Proof.Machine.execRecalibrationAttempt s
  | .recalibrationEnd => Sys2Proof.Machine.execRecalibrationEnd s
  | .thermalSensorRead t => Sys2Proof.Machine.execThermalSensorRead t s
  | .thermalTrip tempC => Sys2Proof.Machine.execThermalTrip tempC s
  | .marginEvaluation slack => Sys2Proof.Machine.execMarginEvaluation slack s
  | .powerTrim m => Sys2Proof.Machine.execPowerTrim m s
  | .capTags m => Sys2Proof.Machine.execCapTags m s
  | .fixedRate m => Sys2Proof.Machine.execFixedRate m s
  | .droopMode m => Sys2Proof.Machine.execDroopMode m s
  | .weighCalibrate m => Sys2Proof.Machine.execWeighCalibrate m s
  | .pwrCounterClear value => Sys2Proof.Machine.execPwrCounterClear value s
  | .mbxDoorbellGo m value => Sys2Proof.Machine.execMbxDoorbellGo m value s
  | .mbxOpDoneWrite m value => Sys2Proof.Machine.execMbxOpDoneWrite m value s
  | .longOperationEnd m slot ok data => Sys2Proof.Machine.execLongOperationEnd m slot ok data s
  | .mbxCounterClear m value => Sys2Proof.Machine.execMbxCounterClear m value s
  | .mailbox2Command src bytes => Sys2Proof.Machine.execMailbox2Command src bytes s
  | .fabricMailbox m => Sys2Proof.Machine.execFabricMailbox m s
  | .fabricMailboxResponse src bytes => Sys2Proof.Machine.execFabricMailboxResponse src bytes s
  | .fabricMailboxTimeout => Sys2Proof.Machine.execFabricMailboxTimeout s
  | .watchdogExpiry => Sys2Proof.Machine.execWatchdogExpiry s
  | .identityRead m => Sys2Proof.Machine.execIdentityRead m s
  | .geometryRead m => Sys2Proof.Machine.execGeometryRead m s
  | .blockRead m => Sys2Proof.Machine.execBlockRead m s
  | .blockWrite m => Sys2Proof.Machine.execBlockWrite m s
  | .eventRoute m => Sys2Proof.Machine.execEventRoute m s
  | .eventLogRead m => Sys2Proof.Machine.execEventLogRead m s
  | .telemetryWindow m => Sys2Proof.Machine.execTelemetryWindow m s
  | .telemetryPeriod w => Sys2Proof.Machine.execTelemetryPeriod w s
  | .eventLogWrite => Sys2Proof.Machine.execEventLogWrite s
  | .fwLoad m readOk => Sys2Proof.Machine.execFwLoad m readOk s
  | .fwActivate m => Sys2Proof.Machine.execFwActivate m s
  | .firmwareStart accepts => Sys2Proof.Machine.execFirmwareStart accepts s
  | .activationComplete => Sys2Proof.Machine.execActivationComplete s
  | .activationTimeout => Sys2Proof.Machine.execActivationTimeout s
  | .fwStatus m => Sys2Proof.Machine.execFwStatus m s
  | .fwStartTimeout => Sys2Proof.Machine.execFwStartTimeout s
  | .deviceReset m => Sys2Proof.Machine.execDeviceReset m s
  | .deviceResetBegin => Sys2Proof.Machine.execDeviceResetBegin s
  | .powerOnReset => Sys2Proof.Machine.execPowerOnReset s
  | .resetNAssert => Sys2Proof.Machine.execResetNAssert s
  | .resetNRelease => Sys2Proof.Machine.execResetNRelease s
  | .resetWriteBackEnd => Sys2Proof.Machine.execResetWriteBackEnd s
  | .stackTrainingEnd failed => Sys2Proof.Machine.execStackTrainingEnd failed s
  | .poolReady => Sys2Proof.Machine.execPoolReady s
  | .firmwareReady => Sys2Proof.Machine.execFirmwareReady s
  | .bootCounterClear value => Sys2Proof.Machine.execBootCounterClear value s
  | .certRead m => Sys2Proof.Machine.execCertRead m s
  | .attest m => Sys2Proof.Machine.execAttest m s
  | .debugChallenge m => Sys2Proof.Machine.execDebugChallenge m s
  | .debugAuth m => Sys2Proof.Machine.execDebugAuth m s
  | .rootRevoke m => Sys2Proof.Machine.execRootRevoke m s
  | .svnAdvance m => Sys2Proof.Machine.execSvnAdvance m s
  | .keyLoad m => Sys2Proof.Machine.execKeyLoad m s
  | .keyErase m => Sys2Proof.Machine.execKeyErase m s
  | .debugEnd value => Sys2Proof.Machine.execDebugEnd value s
  | .notAfterExpiry => Sys2Proof.Machine.execNotAfterExpiry s
  | .challengeExpiry => Sys2Proof.Machine.execChallengeExpiry s
  | .dbgCounterClear value => Sys2Proof.Machine.execDbgCounterClear value s
  | .bridgeSegmentDown segment => Sys2Proof.Machine.execBridgeSegmentDown segment s
  | .cntCounterClear value => Sys2Proof.Machine.execCntCounterClear value s
  | .hbmCounterClear value => Sys2Proof.Machine.execHbmCounterClear value s
  | .inputUndervoltage => Sys2Proof.Machine.execInputUndervoltage s
  | .refclkLoss => Sys2Proof.Machine.execRefclkLoss s
  | .registerRead path offset width => Sys2Proof.Machine.execRegisterRead path offset width s
  | .debugPathAccess eng sub offset write => Sys2Proof.Machine.execDebugPathAccess eng sub offset write s
  | .testPortAccess op => Sys2Proof.Machine.execTestPortAccess op s
  | .configurationRequest p req => Sys2Proof.Machine.execConfigurationRequest p req s
  | .rdmaResponseReceive p qpn rsp => Sys2Proof.Machine.execRdmaResponseReceive p qpn rsp s
  | .completionTimeout p req => Sys2Proof.Machine.execCompletionTimeout p req s
  | .watchdogRestart => Sys2Proof.Machine.execWatchdogRestart s
  | .ppsOutEdge => Sys2Proof.Machine.execPpsOutEdge s

end Sys2Proof.Machine
end

