-- ==== Sys2Proof/Machine/Tick.lean ====
section
/-! DEFINITION. What one nanosecond of device time does when no command waits (log 3): the clock and its
slewing (16 R335, R338), the counters that count nanoseconds, and the deadlines no command stands for. -/

namespace Sys2Proof.Machine

/-- Counters by key, each advanced by k where its condition holds. -/
def countWhere (k : Nat) (l : List (Bool × Nat)) (s : State) : State :=
  l.foldl (fun s e => if e.1 then count e.2 k s else s) s

/-- Nanosecond counters of the queues, stream units, update and sequence engines. -/
def engineTimes (s : State) : List (Bool × Nat) :=
  s.queues.map (fun e => (e.2.cqWait, cqWaitNs e.1))
    ++ s.arrays.map (fun e => (e.2.su.status == .waitingForPermit, debugBase (codeArray e.1) true + 0x40))
    ++ s.vecs.map (fun e => (e.2.su.status == .waitingForPermit, debugBase (codeVec e.1) false + 0x58))
    ++ s.upd.map (fun e => (e.2.stall.isSome, updCtr e.1 0x120))
    ++ s.seqs.map (fun e => ((seqLive e.1 s).any (·.held), ringWaitNs e.1))

/-- Nanosecond counters of time, the envelope and regulation. -/
def powerTimes (s : State) : List (Bool × Nat) :=
  [ (timeState s == 3, holdoverNs), (!s.env.starts.isEmpty, permitWaitNs), (s.env.hold, holdNs)
  , (s.pwr.wh != .trusted, untrustedNs), ((List.range 6).any fun r => s.therm r != .normal, thermalHoldNs)
  , (s.pwr.fixedLost, fixedLostNs) ]

/-- Nanosecond counters of the links and Ethernet ports. -/
def netTimes (s : State) : List (Bool × Nat) :=
  s.net.links.map (fun e => (e.2.mode == .up && e.2.dry.any fun d => d.2 != 0, creditStallNs e.1))
    ++ s.eth.ports.map (fun e => (e.2.paused != 0, pauseRxNs e.1))

/-- Every link with nothing else to send sends an IDLE flit (14 R301): one a nanosecond stands for the line's own
rate (log 114). -/
def sendIdles (s : State) : State := (s.net.links.map Prod.fst).foldl (fun s n => sendIdle n s) s

/-- Deadlines that are reached. -/
def deadlines (s : State) : State :=
  let s1 := if s.pins.ppsOut && decide (s.pins.ppsUntil ≤ s.now) then { s with pins := { s.pins with ppsOut := false } } else s
  let s2 := (s1.net.links.map Prod.fst).foldl (fun s n => withdrawTimeout n s) s1
  let s3 := s2.eth.ports.foldl (fun s p => p.2.qps.foldl (fun s q =>
    refetchWork (Fin.ofNat 16 p.1) (BitVec.ofNat 12 q.1) s) s) s2
  let s4 := if s3.now % 1000 = 0 then (s3.eth.ports.map Prod.fst).foldl (fun s p => rawTransmit p s) s3 else s3
  sendIdles (releaseReads (syncTimers (handoverTimeout (onlineInitialises (linksBegin (romReady s4))))))

/-- One nanosecond of the package; a slewed clock may move by two, or not at all. Counters of nanoseconds count
those of device time (log 105). -/
def tick (s : State) : State :=
  if !powered s then s
  else
    let st := slewStep s.time
    let s1 := countWhere st.1 (engineTimes s ++ powerTimes s ++ netTimes s) s
    deadlines { s1 with now := s1.now + st.1, ticks := s1.ticks + 1, time := st.2 }

end Sys2Proof.Machine
end

