-- ==== Sys2Proof/WellFormed.lean ====
section
/-! DEFINITION. Which commands are well formed: what the operand types do not say of widths, lengths and
codes. An ill-formed command stands for nothing that can reach the block. -/

namespace Sys2Proof

/-- No number twice. -/
def distinct : List Nat → Bool
  | [] => true
  | a :: l => !l.contains a && distinct l

/-- Engine codes of 09 Table 9-12. -/
def engineCode (e : Nat) : Bool := decide (e < 0x46) || e == 0xFF

/-- Widths of a core load (08 Table 8-5): scalar and reserved loads of a power of two, aligned when reserved. -/
def loadWidth (k : LoadKind) (a n : Nat) : Bool :=
  match k with
  | .vector => decide (0 < n)
  | .reserved => (n == 4 || n == 8) && a % n == 0
  | _ => ([1, 2, 4, 8] : List Nat).contains n

/-- Widths of a core store; conditional stores and atomics are aligned words of 4 or 8 bytes. -/
def storeWidth (k : StoreKind) (a n : Nat) : Bool :=
  match k with
  | .vector => decide (0 < n)
  | .scalar => ([1, 2, 4, 8] : List Nat).contains n
  | _ => (n == 4 || n == 8) && a % n == 0

/-- A well-formed command. -/
def Instr.wf : Instr → Bool
  | .registerWrite .. => true
  | .deviceTimeCompare .. => true
  | .coreLoad _ pa n k => loadWidth k pa.toNat n
  | .coreStore _ pa d k => storeWidth k pa.toNat d.length
  | .cboClean .. => true
  | .cboFlush .. => true
  | .cboInval .. => true
  | .cboZero .. => true
  | .mipisend .. => true
  | .sipisend .. => true
  | .merrinfoRead .. => true
  | .machineTimer .. => true
  | .homeCoreRead .. => true
  | .homeCoreWrite .. => true
  | .homeEngineRead e _ n _ _ _ => engineCode e.toNat && decide (0 < n)
  | .homeEngineWrite e _ d _ _ => engineCode e.toNat && decide (0 < d.length)
  | .holderAcknowledge .. => true
  | .evictionBufferDrain .. => true
  | .sectorRead _ k es => decide (k < 25165824) && distinct (es.map fun e => e.1.val)
  | .correctedWriteBack _ k => decide (k < 25165824)
  | .wcbEntryTimeout .. => true
  | .patrolScrub _ es => distinct (es.map fun e => e.1.val)
  | .retuneSchedule .. => true
  | .retuneStart .. => true
  | .retuneEnd .. => true
  | .memConfig .. => true
  | .memErrorLog .. => true
  | .pcRetune .. => true
  | .stackMargin .. => true
  | .stackOffline .. => true
  | .stackOnline .. => true
  | .cacheLock .. => true
  | .cacheUnlock .. => true
  | .streamLaunch .. => true
  | .streamLoadComplete .. => true
  | .lockGroupStart .. => true
  | .bundleIssue .. => true
  | .accumulatorRowWrite .. => true
  | .preloadEnd .. => true
  | .triggerComplete .. => true
  | .semaphoreWaitPass .. => true
  | .groupWaitRelease .. => true
  | .withheldCycle .. => true
  | .dutyBoundary .. => true
  | .droopStretch .. => true
  | .streamComplete .. => true
  | .aryCounterClear .. => true
  | .aryStreamClear .. => true
  | .vectorBundleIssue .. => true
  | .vectorResultWrite .. => true
  | .vecCounterClear .. => true
  | .doorbell .. => true
  | .descriptorFetchReturn .. => true
  | .descriptorRefetch .. => true
  | .queueEnable .. => true
  | .queueDisable .. => true
  | .queueDrainEnd .. => true
  | .queueStop .. => true
  | .queueResume .. => true
  | .cqHeadWrite .. => true
  | .irqHoldoffExpiry .. => true
  | .qdbCounterClear .. => true
  | .nop .. => true
  | .copy .. => true
  | .copy2d .. => true
  | .fill .. => true
  | .writeImm .. => true
  | .transferComplete .. => true
  | .invalidate .. => true
  | .invalidateComplete .. => true
  | .migrationService .. => true
  | .migrationCopyComplete .. => true
  | .faultTimeout .. => true
  | .xltNotifyRing .. => true
  | .pageSupply .. => true
  | .pageMigrate .. => true
  | .keyMap .. => true
  | .xltCounterClear .. => true
  | .allReduce .. => true
  | .reduceScatter .. => true
  | .allGather .. => true
  | .broadcast .. => true
  | .reduce .. => true
  | .allToAll .. => true
  | .barrier .. => true
  | .flagReduce .. => true
  | .collectiveStartTime .. => true
  | .signatureMessage .. => true
  | .collectiveDataMessage .. => true
  | .abortNotice .. => true
  | .memberTimeout .. => true
  | .collectiveDone .. => true
  | .groupTableSet .. => true
  | .groupLoad .. => true
  | .groupUnload .. => true
  | .tallyClear .. => true
  | .groupStatus .. => true
  | .updApply .. => true
  | .gradientDelivery .. => true
  | .stateArrival .. => true
  | .stallBoundExpiry .. => true
  | .applyStaged .. => true
  | .updCommit .. => true
  | .updCounterClear .. => true
  | .slotOpen .. => true
  | .slotClose .. => true
  | .kvGather .. => true
  | .kvPut .. => true
  | .sample .. => true
  | .seqRingHeadWrite .. => true
  | .seqRingCfgWrite .. => true
  | .seqCounterClear .. => true
  | .linkTrainingEnd .. => true
  | .flitReceive _ bs ws => bs.length == 128 && (match ws with
    | [_] => true
    | [a, b] => b.1 == a.1 + 1
    | _ => false)
  | .retryReq .. => true
  | .retryReqRepeat .. => true
  | .ident .. => true
  | .withdraw .. => true
  | .withdrawAck .. => true
  | .restore .. => true
  | .creditStall .. => true
  | .packetRoute .. => true
  | .write .. => true
  | .writeAck .. => true
  | .unreachable .. => true
  | .writeAckTimeout .. => true
  | .linkDown _ c => decide (1 ≤ c.toNat ∧ c.toNat ≤ 4)
  | .nodeDownTimer .. => true
  | .nodeDown .. => true
  | .autoRetrainAttempt .. => true
  | .nodeIdSet .. => true
  | .routeWrite .. => true
  | .routeRead .. => true
  | .linkConfig .. => true
  | .linkWithdraw .. => true
  | .linkRetrain .. => true
  | .linkRestore .. => true
  | .ethConfig .. => true
  | .rdmaMrReg .. => true
  | .rdmaQpSet .. => true
  | .ethFrameReceive .. => true
  | .pfcFrame .. => true
  | .cnpReceive .. => true
  | .roceRateIncrease .. => true
  | .ethDoorbell .. => true
  | .rdmaRequestReceive .. => true
  | .rdmaNak .. => true
  | .rdmaRetryExceeded .. => true
  | .lnkCounterClear .. => true
  | .winBaseWrite .. => true
  | .windowRead _ o n => decide (0 < n ∧ o.toNat + n ≤ 4294967296)
  | .windowWrite _ o d _ => decide (0 < d.length ∧ o.toNat + d.length ≤ 4294967296)
  | .portLinkUp _ w r c => ([1, 2, 4, 8, 16] : List Nat).contains w.toNat && decide (1 ≤ r.toNat ∧ r.toNat ≤ 4)
      && (c == 0 || (r == 3 && c.toNat ≤ 2) || (r == 4 && c == 3))
  | .portLinkDown .. => true
  | .portHotReset .. => true
  | .hostSnoop .. => true
  | .attachReadCompletion .. => true
  | .flushReadCompletion .. => true
  | .msixPendingSend .. => true
  | .winCounterClear .. => true
  | .timeSourceSet .. => true
  | .timeStep .. => true
  | .timeSyncSend .. => true
  | .timeSyncMessage .. => true
  | .ppsEdge .. => true
  | .timeCounterClear .. => true
  | .weighHouseEstimate act => distinct (act.arrays.map fun a => a.1.val)
  | .rampStep .. => true
  | .startGrant .. => true
  | .reservationExpiry .. => true
  | .heldBelowNeed .. => true
  | .downRequest .. => true
  | .ballastShort .. => true
  | .stewardSlot .. => true
  | .request .. => true
  | .grant .. => true
  | .report .. => true
  | .envelope .. => true
  | .heartbeat .. => true
  | .excursion .. => true
  | .snapshot .. => true
  | .claim .. => true
  | .reportInterval .. => true
  | .heartbeatInterval .. => true
  | .snapshotInterval .. => true
  | .envelopeInterval .. => true
  | .requestResend .. => true
  | .headShareInterval .. => true
  | .heartbeatTimeout .. => true
  | .snapshotTimeout .. => true
  | .memberReportTimeout .. => true
  | .paceHoldExpiry .. => true
  | .dutyCapRaise .. => true
  | .envelopeSet .. => true
  | .powerGroupJoin .. => true
  | .stewardRole .. => true
  | .stewardHandover .. => true
  | .paceSet .. => true
  | .envelopeStatus .. => true
  | .pwrEnvCounterClear .. => true
  | .inputPowerSample .. => true
  | .inputStageFault .. => true
  | .peakClamp .. => true
  | .peakClampEnd .. => true
  | .overRatedEnd .. => true
  | .weighHouseCompare .. => true
  | .deltaRecompute .. => true
  | .measurementAbsent .. => true
  | .recalibrationAttempt .. => true
  | .recalibrationEnd .. => true
  | .thermalSensorRead t => t.tdie.length == 4 && t.pdie.length == 2 && t.xdie.length == 2 && t.stks.length == 24
  | .thermalTrip .. => true
  | .marginEvaluation l => l.length == 4
  | .powerTrim .. => true
  | .capTags .. => true
  | .fixedRate .. => true
  | .droopMode .. => true
  | .weighCalibrate .. => true
  | .pwrCounterClear .. => true
  | .mbxDoorbellGo .. => true
  | .mbxOpDoneWrite .. => true
  | .longOperationEnd .. => true
  | .mbxCounterClear .. => true
  | .mailbox2Command _ bs => decide (16 ≤ bs.length ∧ bs.length ≤ 1024)
  | .fabricMailbox .. => true
  | .fabricMailboxResponse _ bs => decide (16 ≤ bs.length ∧ bs.length ≤ 1024)
  | .fabricMailboxTimeout .. => true
  | .watchdogExpiry .. => true
  | .identityRead .. => true
  | .geometryRead .. => true
  | .blockRead .. => true
  | .blockWrite .. => true
  | .eventRoute .. => true
  | .eventLogRead .. => true
  | .telemetryWindow .. => true
  | .telemetryPeriod .. => true
  | .eventLogWrite .. => true
  | .fwLoad .. => true
  | .fwActivate .. => true
  | .firmwareStart .. => true
  | .activationComplete .. => true
  | .activationTimeout .. => true
  | .fwStatus .. => true
  | .fwStartTimeout .. => true
  | .deviceReset .. => true
  | .deviceResetBegin .. => true
  | .powerOnReset .. => true
  | .resetNAssert .. => true
  | .resetNRelease .. => true
  | .resetWriteBackEnd .. => true
  | .stackTrainingEnd .. => true
  | .poolReady .. => true
  | .firmwareReady .. => true
  | .bootCounterClear .. => true
  | .certRead .. => true
  | .attest .. => true
  | .debugChallenge .. => true
  | .debugAuth .. => true
  | .rootRevoke .. => true
  | .svnAdvance .. => true
  | .keyLoad .. => true
  | .keyErase .. => true
  | .debugEnd .. => true
  | .notAfterExpiry .. => true
  | .challengeExpiry .. => true
  | .dbgCounterClear .. => true
  | .bridgeSegmentDown .. => true
  | .cntCounterClear .. => true
  | .hbmCounterClear .. => true
  | .inputUndervoltage .. => true
  | .refclkLoss .. => true
  | .registerRead .. => true
  | .debugPathAccess .. => true
  | .testPortAccess .. => true
  | .configurationRequest .. => true
  | .rdmaResponseReceive .. => true
  | .completionTimeout .. => true
  | .watchdogRestart .. => true
  | .ppsOutEdge .. => true

end Sys2Proof
end

