-- ==== Sys2Proof/Safety.lean ====
section
/-! DEFINITION. The terms claims use: a command that completes and what holds after it, a mailbox command
that is served and how it is answered, the canonical form of the block's maps, and a safe step. -/

namespace Sys2Proof.Machine

/-- Executing c in s answers a next state for which P holds. -/
def Yields (c : Instr) (s : State) (P : State → Prop) : Prop := ∃ t, exec c s = .next t ∧ P t

/-- A safe step ends in a next state. -/
def SafeStep (s : State) : Prop := ∃ t, step s = .next t

/-- Mailbox m alone waits for the manager, which serves, with a command of this ID that passes the generic
checks (18 R385, R386). -/
def Served (m : MbxId) (id : Nat) (s : State) : Prop :=
  s.mgr.order = [m] ∧ mgrServes s = true ∧ (cmdAt m s).id = id ∧ mbxCheck (cmdAt m s) s = none

/-- The state once the manager has taken the one doorbell that waited. -/
def taken (s : State) : State := s.modMgr fun g => { g with order := [] }

/-- Bytes of a response: header and payload (18 Table 18-6). -/
def responseBytes (tag : Nat) (st : BitVec 16) (detail : Nat) (pay : List Byte) : List Byte :=
  leBytes 8 (tag * 2 ^ 32 + pay.length * 2 ^ 16 + st.toNat) ++ leBytes 8 detail ++ pay

/-- Mailbox m holds this response and is free again (18 R383). -/
def Answered (m : MbxId) (tag : Nat) (st : BitVec 16) (detail : Nat) (pay : List Byte) (t : State) : Prop :=
  (t.mbx m.val).rsp = some (responseBytes tag st detail pay) ∧ (t.mbx m.val).busy = false ∧ (t.mbx m.val).done = true

/-! ## Counters -/

/-- The counters at the keys lo .. hi-1 read zero; every other counter, and everything else, is as before. -/
def Cleared (lo hi : Nat) (s t : State) : Prop :=
  (∀ k, lo ≤ k → k < hi → t.ctr k = 0) ∧ (∀ k, (k < lo ∨ hi ≤ k) → t.ctr k = s.ctr k)
    ∧ { t with counters := s.counters } = s

/-- The counter at `key` is n higher, stopping at all ones; nothing else differs but the overflow event
(21 R434). -/
def Counts (key n : Nat) (s t : State) : Prop :=
  t.ctr key = w64 (min ((s.ctr key).toNat + n) (2 ^ 64 - 1)) ∧ (∀ k, k ≠ key → t.ctr k = s.ctr k)
    ∧ { t with counters := s.counters, events := s.events, edges := s.edges } = s

/-- A write of v to the clear register of the counters at lo .. hi-1 of a package with power and clock: bit 0
clears them, the other bits do nothing. -/
def ClearsOn (c : Instr) (v : W64) (lo hi : Nat) (s : State) : Prop :=
  if powered s = true ∧ v.getLsbD 0 = true then Yields c s (Cleared lo hi s) else exec c s = .next s

/-! ## Streams -/

/-- No other member of the engine's lock group holds at a group wait. -/
def NoneHolds (e : StreamEng) (s : State) : Prop :=
  ∀ x ∈ maskMembers e (s.unit e).lockMask, x ≠ e → (s.unit x).holding ≠ .groupWait

/-! ## Descriptors -/

/-- The head f of queue q's window, of opcode op, may start: power and clock, its turn (10 R224), no earlier
descriptor of its number under way, and room for its records (R236). -/
def Startable (q : QueueId) (op : Nat) (f : Fetched) (rest : List Fetched) (s : State) : Prop :=
  powered s = true ∧ (s.queue q.val).window = f :: rest ∧ dOpcode f.w = op ∧ headMayStart q.val s = true
    ∧ hasTurn q.val s = true ∧ (s.queue q.val).room (entriesOf f.w) = true
    ∧ ∀ p ∈ (s.queue q.val).progs, p.n ≠ f.n

/-- The state in which that head has started, and the next one has been looked at. -/
def started (q : QueueId) (f : Fetched) (rest : List Fetched) (s : State) : State :=
  let s1 : State := { s with served := Sparse.set 0 s.served (s.queue q.val).code (q.val + 1) }
  settleHead q.val (s1.modQueue q.val fun x => { x with
    window := rest, progs := x.progs ++ [newProg f.n f.w (entriesOf f.w) s.now], cqWait := false })

/-- Sluice lets the start go ahead: the engine is at work already, or nothing waits and its demand fits
(16 R344, R345). -/
def Permitted (q : QueueId) (s : State) : Prop :=
  engineProgs (s.queue q.val).code s ≠ [] ∨ (s.env.starts = [] ∧ fits (engineDemand (s.queue q.val).code) s = true)

/-- The state in which that head runs: a start on an idle engine has taken its demand from the headroom. -/
def running (q : QueueId) (f : Fetched) (rest : List Fetched) (s : State) : State :=
  if (engineProgs (s.queue q.val).code s).isEmpty then
    reserve (engineDemand (s.queue q.val).code) (started q f rest s)
  else started q f rest s

/-- The started descriptor n of queue q has ended with this status and RESULT; its record follows. -/
def EndsWith (q n : Nat) (st : BitVec 16) (result : W64) (s : State) : Prop :=
  ∃ p, s.prog q n = some p ∧ p.phase = .ended ∧ p.status = st ∧ p.result = result

/-- It has started and not ended. -/
def UnderWay (q n : Nat) (s : State) : Prop := ∃ p, s.prog q n = some p ∧ p.phase ≠ .ended

/-! ## What no step breaks -/

/-- The fuses and the level of a package in service: at most 64 steps of SVN, a level of Table 20-6, and a
root key slot left (20 R412, R416, R424, R425). -/
def SecInv (s : State) : Prop := s.sec.svn ≤ 64 ∧ s.sec.level ≤ 2 ∧ s.sec.revoked ≠ 15

/-- The memories of bytes hold their canonical form: stacks and attach host. -/
def MemWf (s : State) : Bool := Sparse.wf 0 s.hbm.cells && Sparse.wf 0 s.host.mem

end Sys2Proof.Machine
end

