-- ==== Sys2Proof/Certificates/Slice0/Obligations.lean ====
section
/-! DEFINITION. The statements for the provers. -/

set_option autoImplicit false
open Sys2Proof Sys2Proof.Machine

/-- O1: For every command c, state s and list rest: step of s with c at the front of its queue and rest behind it is exec of c on s with the queue rest. -/
def Obligations.StepRunsFrontCommand : Prop :=
  ∀ (c : Instr) (s : State) (rest : List Instr),
    step { s with pending := c :: rest } = exec c { s with pending := rest }

/-- O2: For each of the 17 counter-clear commands (ARY, ARY_STREAM, VEC, QDB, XLT, UPD, SEQ, LNK, WIN, TIME, PWR_ENV, PWR, MBX, BOOT, DBG, CNT, HBM), in every state with power and clock: with bit 0 of the value set the command answers a next state in which every counter of its register range reads zero, every other counter reads as before and every other field of the state is unchanged; with bit 0 clear, or without power or clock, the state is unchanged. -/
def Obligations.ClearRegistersClearTheirCounters : Prop :=
  ∀ (s : State) (v : W64),
    (∀ n : ArrayId, ClearsOn (.aryCounterClear n v) v (debugBase n.val false + 0x18) (debugBase n.val false + 0x30) s
      ∧ ClearsOn (.aryStreamClear n v) v (debugBase n.val true + 0x38) (debugBase n.val true + 0x48) s
      ∧ ClearsOn (.vecCounterClear n v) v (debugBase (0x10 + n.val) false + 0x48) (debugBase (0x10 + n.val) false + 0x60) s)
    ∧ (∀ q : QueueId, ClearsOn (.qdbCounterClear q v) v (0x100100 + 0x1000 * q.val) (0x100200 + 0x1000 * q.val) s)
    ∧ (∀ e : EngId, ClearsOn (.updCounterClear e v) v (debugBase (0x42 + e.val) false + 0x100) (debugBase (0x42 + e.val) false + 0x200) s
      ∧ ClearsOn (.seqCounterClear e v) v (debugBase (0x44 + e.val) false + 0x800) (debugBase (0x44 + e.val) false + 0x820) s)
    ∧ (∀ m : MbxId, ClearsOn (.mbxCounterClear m v) v (0x12400 + 0x4000 * m.val) (0x12410 + 0x4000 * m.val) s)
    ∧ ClearsOn (.xltCounterClear v) v 0x500100 0x500138 s
    ∧ ClearsOn (.lnkCounterClear v) v 0x600000 0x610000 s
    ∧ ClearsOn (.winCounterClear v) v 0x20100 0x20200 s
    ∧ ClearsOn (.timeCounterClear v) v 0x200100 0x200200 s
    ∧ ClearsOn (.pwrEnvCounterClear v) v 0x301100 0x301200 s
    ∧ ClearsOn (.pwrCounterClear v) v 0x300100 0x300200 s
    ∧ ClearsOn (.bootCounterClear v) v 0 0x10000 s
    ∧ ClearsOn (.dbgCounterClear v) v 0x800000 0x801000 s
    ∧ ClearsOn (.cntCounterClear v) v 0x400100 0x400200 s
    ∧ ClearsOn (.hbmCounterClear v) v 0x700000 0x800000 s

/-- O3: Take an array whose oldest step in the pipeline is due (or whose stream issues no more cycles), is not undefined, and whose stream has kept the timing contract. ACCUMULATOR_ROW_WRITE answers a next state in which the bytes of the row are what the step of its mode computes from its operands and the row's former bytes; every other accumulator byte reads as before; the written bits of the row's units are set and no other changes; of the events registers only ARY_EVENTS/FLAGS of this array changes, by the flags the step sets; the step has left the pipeline; every other field of the array but the record of what its stream touched, every other array and every other part of the state is unchanged. -/
def Obligations.AccumulatorRowWriteWritesTheRow : Prop :=
  ∀ (n : ArrayId) (s : State) (f : FlyStep) (rest : List FlyStep),
    powered s = true → (s.arr n.val).fly = f :: rest → f.free = false → (s.arr n.val).su.undef (f.due - latRowAcc) = false →
    (f.due ≤ (s.arr n.val).su.cycle ∨ (s.arr n.val).su.issuing = false) →
    let x := s.arr n.val
    let u := f.mode.units f.row
    let r := stepRow f.mode f.acc f.a f.b (x.acc.readN (128 * u.1) (128 * u.2))
    Yields (.accumulatorRowWrite n) s fun t =>
      (t.arr n.val).acc.readN (128 * u.1) (128 * u.2) = r.1
      ∧ (∀ a, a < 128 * u.1 ∨ 128 * (u.1 + u.2) ≤ a → (t.arr n.val).acc.read a = x.acc.read a)
      ∧ (∀ k, Sparse.get false (t.arr n.val).written k
          = (Sparse.get false x.written k || decide (u.1 ≤ k ∧ k < u.1 + u.2)))
      ∧ (∀ k, k < 64 → bitOf (t.evBits (srcAry n.val)) k = (bitOf (s.evBits (srcAry n.val)) k || r.2.contains k))
      ∧ (∀ src, src ≠ srcAry n.val → t.ev src = s.ev src)
      ∧ (t.arr n.val).fly = rest
      ∧ { t.arr n.val with acc := x.acc, written := x.written, fly := x.fly, su := x.su } = x
      ∧ { (t.arr n.val).su with touched := x.su.touched } = x.su
      ∧ (∀ m, m ≠ n.val → t.arr m = s.arr m)
      ∧ { t with arrays := s.arrays, events := s.events, edges := s.edges } = s

/-- O4: For either stationary buffer with a preload begun in stream cycle p: once P cycles have passed (or the stream issues no more), PRELOAD_END answers a next state in which the buffer is valid with the mode, bytes and poison it had, no preload is in progress on it, and everything else is unchanged. For every duty d from 0 to 64, exactly d of the positions j = 0 .. 63 are issuing cycles. In a package with power and clock. DUTY_BOUNDARY: with a duty d waiting and the position a multiple of 64 (or the array not running), the duty becomes d, nothing waits any more, and nothing else changes. DROOP_STRETCH with droop mode on counts one stretch and changes nothing else but the overflow event; off, it changes nothing. -/
def Obligations.PreloadsEndAndDutiesChange : Prop :=
  (∀ (n : ArrayId) (buf : Bool) (s : State) (p k : Nat),
    let x := s.arr n.val
    let b := x.buf buf
    powered s = true → b.busy = some (p, k) → (p + b.mode.preloadCycles ≤ x.su.cycle ∨ x.su.issuing = false) →
    Yields (.preloadEnd n buf) s fun t =>
      (t.arr n.val).buf buf = { b with valid := true, busy := none }
      ∧ (t.arr n.val).buf (!buf) = x.buf (!buf)
      ∧ { t.arr n.val with buf0 := x.buf0, buf1 := x.buf1 } = x
      ∧ (∀ m, m ≠ n.val → t.arr m = s.arr m)
      ∧ { t with arrays := s.arrays } = s)
    ∧ (∀ d : Fin 65, ((List.range 64).filter fun j => issuingCycle d.val j).length = d.val)
    ∧ (∀ (n : ArrayId) (s : State), powered s = true →
    (∀ d, (s.arr n.val).dutyNext = some d → ((s.arr n.val).pos % 64 = 0 ∨ (s.arr n.val).su.status ≠ .running) →
      Yields (.dutyBoundary n) s fun t => t.arr n.val = { s.arr n.val with duty := d, dutyNext := none }
        ∧ (∀ m, m ≠ n.val → t.arr m = s.arr m) ∧ { t with arrays := s.arrays } = s)
    ∧ (∀ c : CisternId, s.pwr.droop = true → Yields (.droopStretch c) s (Counts stretchCount 1 s))
    ∧ (∀ c : CisternId, s.pwr.droop = false → exec (.droopStretch c) s = .next s))

/-- O5: When the array's stream has cycles to issue and the present position is no issuing cycle of its duty (a waiting duty taking effect first), WITHHELD_CYCLE answers a next state in which the position has advanced by one modulo 64, the withheld-cycle counter by one (stopping at all ones) and no other counter; the stream stands in the same cycle, bundle and repeat; stores, written bits, poison, stationary buffers and the steps in the pipeline are unchanged; so is every other array and the node's output. -/
def Obligations.WithheldCycleAdvancesNothing : Prop :=
  ∀ (n : ArrayId) (s : State),
    let x := dutyBoundary (s.arr n.val)
    powered s = true → x.su.status = .running → x.su.lastIssued = false → issuingCycle x.duty x.pos = false →
    Yields (.withheldCycle n) s fun t =>
      let y := t.arr n.val
      y.pos = (x.pos + 1) % 64 ∧ y.duty = x.duty
      ∧ t.ctr (aryWithheldCount n.val) = w64 (min ((s.ctr (aryWithheldCount n.val)).toNat + 1) (2 ^ 64 - 1))
      ∧ (∀ k, k ≠ aryWithheldCount n.val → t.ctr k = s.ctr k)
      ∧ y.su.cycle = x.su.cycle ∧ y.su.idx = x.su.idx ∧ y.su.rep = x.su.rep ∧ y.su.status = .running
      ∧ y.acc = x.acc ∧ y.tile = x.tile ∧ y.poison = x.poison ∧ y.written = x.written
      ∧ y.buf0 = x.buf0 ∧ y.buf1 = x.buf1 ∧ y.fly = x.fly
      ∧ (∀ m, m ≠ n.val → t.arr m = s.arr m) ∧ t.outbox = s.outbox ∧ t.queues = s.queues

/-- O6: Take an array in an issuing cycle, and let y be it once the rows and preloads due are done. The present bundle is legal, its wait (if any) has passed, it issues a step and no trigger, signal, preload or phase tag, and no timing rule, raced location or poison is met. BUNDLE_ISSUE answers a next state in which the pipeline ends with this step, due 14 stream cycles later, with the bytes of its A row and of its stationary buffer; the step counter has advanced by one; the stream stands in the next stream cycle, and in the next repeat of the bundle, or else (unless it was the last) at the next bundle; the stores are unchanged. -/
def Obligations.BundleIssueIssuesItsStep : Prop :=
  ∀ (n : ArrayId) (s : State) (m : Strm),
    let x := dutyBoundary (s.arr n.val)
    let y := (settleArray n (openCycle n s)).arr n.val
    let b := Bundle.ofWord (m.bundles.getD y.su.idx 0)
    powered s = true → NoneHolds (.arr n) s → x.su.cur = some m → x.su.status = .running → x.su.lastIssued = false →
    issuingCycle x.duty x.pos = true →
    b.illegal m.launch.trigCount (y.su.idx + 1 == m.launch.bundleCount) = false →
    (b.mode.isInt = true → intCapable n = true) → (b.waitEn = false ∨ y.su.waitPassed = true ∨ y.su.rep ≠ 0) →
    b.stepEn = true → (y.su.rep ≠ 0 ∨ (b.trigEn = false ∧ b.sigEn = false ∧ b.preEn = false ∧ b.phaseEn = false)) →
    hazards y b y.su.rep y.su.cycle none = [] →
    (y.su.rep = 0 → (y.su.raced.any fun r => (bundleTouches b none (y.mode == .cascade)).any fun t => overlap r.1 r.2 t.1 t.2) = false) →
    tilePoisoned y (b.aAddr + y.su.rep * b.aStride) b.mode.rowSectors = false → (y.buf b.buf).poisoned = false →
    b.last = false →
    Yields (.bundleIssue n) s fun t =>
      let z := t.arr n.val
      z.fly = y.fly ++ [⟨y.su.cycle + 14, b.accRow + y.su.rep, b.mode, b.acc,
        y.tile.readN (32 * (b.aAddr + y.su.rep * b.aStride)) (32 * b.mode.rowSectors), (y.buf b.buf).data,
        y.su.undef y.su.cycle⟩]
      ∧ z.mode = b.mode ∧ z.su.cycle = y.su.cycle + 1 ∧ z.pos = (y.pos + 1) % 64
      ∧ (z.su.idx, z.su.rep) = (if y.su.rep < b.rep then (y.su.idx, y.su.rep + 1) else (y.su.idx + 1, 0))
      ∧ t.ctr (aryStepCount n.val) = w64 (min (((settleArray n (openCycle n s)).ctr (aryStepCount n.val)).toNat + 1) (2 ^ 64 - 1))
      ∧ z.acc = y.acc ∧ z.tile = y.tile ∧ z.written = y.written ∧ z.su.status = .running

/-- O7: When the first cycle of a bundle would issue and the bundle is illegal, BUNDLE_ISSUE halts the stream: STATE is HALTED with cause 1, its status is 0xA402, both stationary buffers are invalid, and accumulator, tile store and pipeline are as the rows due have left them. A legal bundle of an integer mode on an array without integer modes does the same with cause 2. -/
def Obligations.IllegalBundleHaltsTheStream : Prop :=
  ∀ (n : ArrayId) (s : State) (m : Strm),
    let x := dutyBoundary (s.arr n.val)
    let y := (settleArray n (openCycle n s)).arr n.val
    let b := Bundle.ofWord (m.bundles.getD y.su.idx 0)
    let bad := b.illegal m.launch.trigCount (y.su.idx + 1 == m.launch.bundleCount)
    powered s = true → NoneHolds (.arr n) s → x.su.cur = some m → x.su.status = .running → x.su.lastIssued = false →
    issuingCycle x.duty x.pos = true →
    y.su.rep = 0 → (bad = true ∨ (b.mode.isInt = true ∧ intCapable n = false)) →
    Yields (.bundleIssue n) s fun t =>
      let z := t.arr n.val
      z.su.status = .halted ∧ z.su.haltCause = (if bad then 1 else 2) ∧ z.su.haltStatus = some 0xA402
      ∧ z.buf0 = {} ∧ z.buf1 = {} ∧ z.acc = y.acc ∧ z.tile = y.tile ∧ z.written = y.written ∧ z.fly = y.fly

/-- O8: For every list of operand pairs, every permutation of it and every accumulator value: the F19 step of both gives the same FP32 pattern and sets the same flags. -/
def Obligations.StepOrderDoesNotMatter : Prop :=
  ∀ (ps qs : List (Nat × Nat)) (c : Option Nat), ps.Perm qs →
    (stepF19 (ps.map Prod.fst) (ps.map Prod.snd) c).1 = (stepF19 (qs.map Prod.fst) (qs.map Prod.snd) c).1
    ∧ ∀ k, k ∈ (stepF19 (ps.map Prod.fst) (ps.map Prod.snd) c).2 ↔ k ∈ (stepF19 (qs.map Prod.fst) (qs.map Prod.snd) c).2

/-- O9: For an INT8 or INT4 step that is due, of a stream that has kept the timing contract: ACCUMULATOR_ROW_WRITE answers a next state in which every column of its row holds the exact total of the products and (for an ACC step) the former value, or the nearer of -2^31 and 2^31 - 1 where that total lies outside the INT32 range; ARY_FLAGS.SAT is set exactly if it was or some column's total lay outside, and no other flag of the array changes. -/
def Obligations.IntegerStepsSaturateOnce : Prop :=
  ∀ (n : ArrayId) (s : State) (f : FlyStep) (rest : List FlyStep),
    powered s = true → (s.arr n.val).fly = f :: rest → f.free = false → (s.arr n.val).su.undef (f.due - latRowAcc) = false → (f.mode = .int8 ∨ f.mode = .int4) →
    (f.due ≤ (s.arr n.val).su.cycle ∨ (s.arr n.val).su.issuing = false) →
    let vals (bs : List Byte) : List Int := if f.mode = .int8 then int8s bs else nibbles bs
    let total (c : Nat) : Int := (if f.acc = true then sext 32 (leAt ((s.arr n.val).acc.readN (128 * f.row) 128) (4 * c) 4) else 0)
      + (List.zipWith (· * ·) (vals f.a) (vals ((f.b.drop (4096 * c)).take 4096))).sum
    Yields (.accumulatorRowWrite n) s fun t =>
      (∀ c, c < 32 → sext 32 (leAt ((t.arr n.val).acc.readN (128 * f.row) 128) (4 * c) 4) = max (-2 ^ 31) (min (2 ^ 31 - 1) (total c)))
      ∧ (bitOf (t.evBits (srcAry n.val)) arySAT = true ↔ bitOf (s.evBits (srcAry n.val)) arySAT = true
        ∨ ∃ c, c < 32 ∧ (total c < -2 ^ 31 ∨ 2 ^ 31 - 1 < total c))
      ∧ (∀ k, k < 64 → k ≠ arySAT → bitOf (t.evBits (srcAry n.val)) k = bitOf (s.evBits (srcAry n.val)) k)

/-- O10: For a Cascade step that is due, of a stream that has kept the timing contract: ACCUMULATOR_ROW_WRITE answers a next state in which every column of its row holds the former value (for an ACC step, else zero) plus the exact sum of its products of S11 digits, modulo 2^64, and no events or flags register has changed. Every product of two digits has a magnitude of at most 2^20, and the exact sum of fewer than 2^43 such products lies in the INT64 range. -/
def Obligations.CascadeStepsAddExactly : Prop :=
  (∀ (n : ArrayId) (s : State) (f : FlyStep) (rest : List FlyStep),
      powered s = true → (s.arr n.val).fly = f :: rest → f.free = false → (s.arr n.val).su.undef (f.due - latRowAcc) = false → f.mode = .cascade →
      (f.due ≤ (s.arr n.val).su.cycle ∨ (s.arr n.val).su.issuing = false) →
      let digits (bs : List Byte) : List Int := (unpackSlots 1024 bs).map (sext 11)
      Yields (.accumulatorRowWrite n) s fun t => t.events = s.events
        ∧ ∀ c, c < 32 → leAt ((t.arr n.val).acc.readN (256 * f.row) 256) (8 * c) 8
          = wrapNat 64 ((if f.acc = true then (leAt ((s.arr n.val).acc.readN (256 * f.row) 256) (8 * c) 8 : Int) else 0)
            + (List.zipWith (· * ·) (digits f.a) (digits (f.b.drop (3072 * c)))).sum))
    ∧ (∀ x y : Nat, (sext 11 x * sext 11 y).natAbs ≤ 2 ^ 20)
    ∧ (∀ ps : List (Nat × Nat), ps.length < 2 ^ 43 → -2 ^ 63 ≤ (ps.map fun p => sext 11 p.1 * sext 11 p.2).sum
      ∧ (ps.map fun p => sext 11 p.1 * sext 11 p.2).sum < 2 ^ 63)

/-- O11: In a package with power and clock. STREAM_LAUNCH: when the head of the window of queue q is a STREAM descriptor that may start, its engine e is not halted and its idle half is free, and the completion ring has room, the descriptor leaves the window as a started one; on a busy engine the launch with its fields goes to the idle half, and the current launch is as before; on an idle engine whose group it does not contradict it becomes the current launch, not loaded, its semaphores 0 and its stream cycle 0. STREAM_LOAD_COMPLETE: the current launch, not loaded, whose bundles and trigger table pass the checks becomes loaded with them (and then starts if it is ready); one that fails a check leaves the engine idle, and its descriptor ends with the status of the check. In a package with power and clock. TRIGGER_COMPLETE for the k-th outstanding trigger: if its data has moved and is visible, it leaves the list of outstanding triggers and, with SEM_EN, its semaphore grows by one (one at 255 sets SEM_OVF instead); if its data has not moved, it moves now, and the trigger retires when the data is visible and met no poison. STREAM_COMPLETE: a stream that has kept its rules and whose cycles have all issued, with no trigger outstanding and no row or result to come, leaves the engine idle with no current launch, ends its descriptor with status 0, and the engine takes the next launch. -/
def Obligations.StreamsLoadAndRetire : Prop :=
  (∀ (s : State) (e : StreamEng), powered s = true →
    (∀ (q : QueueId) (f : Fetched) (rest : List Fetched),
      let m : Strm := ⟨launchOf ⟨q.val, f.n⟩ f.w, false, [], []⟩
      let t := started q f rest s
      (s.queue q.val).code = engCode e → (s.unit e).status ≠ .halted → (s.unit e).nxt = none →
      Startable q opStream f rest s →
      exec (.streamLaunch q) s
        = .next (if (s.unit e).cur.isSome then t.modUnit e fun u => { u with nxt := some m } else fromIdle e m t)
      ∧ ((s.unit e).cur.isSome = true → Yields (.streamLaunch q) s fun t =>
          t.unit e = { s.unit e with nxt := some m } ∧ (∀ x, x ≠ e → t.unit x = s.unit x) ∧ t.coh = s.coh ∧ t.env = s.env)
      ∧ ((s.unit e).cur = none → disagrees e m.launch s = false → Yields (.streamLaunch q) s fun t =>
          (t.unit e).cur = some m ∧ (t.unit e).sems = [] ∧ (t.unit e).cycle = 0 ∧ (t.unit e).lockMask = m.launch.lockMask))
    ∧ (∀ m m' s', (s.unit e).cur = some m → m.loaded = false → loadStream (engCode e) m.launch s = (some (.ok m'), s') →
      exec (.streamLoadComplete e) s = .next (checkReady e (s'.modUnit e fun u => { u with cur := some m' }))
      ∧ Yields (.streamLoadComplete e) s fun t =>
        (t.unit e).cur = some m' ∧ m'.loaded = true ∧ m'.launch = m.launch ∧ m'.bundles.length = m.launch.bundleCount)
    ∧ (∀ m st s', (s.unit e).cur = some m → m.loaded = false → loadStream (engCode e) m.launch s = (some (.error st), s') →
      exec (.streamLoadComplete e) s = .next (loadFailed e true m.launch st s')))
    ∧ (∀ (e : StreamEng) (s : State), powered s = true →
    (∀ (k : Fin 32) (o : OutTrig), (s.unit e).trigs[k.val]? = some o → o.moved = true → tagClear (.trig e o.id) s = true →
      Yields (.triggerComplete e k) s fun t =>
        (t.unit e).trigs = (s.unit e).trigs.filter (·.id != o.id)
        ∧ (o.t.semEn = true → Sparse.get 0 (s.unit e).sems o.t.sem ≠ 255 →
            Sparse.get 0 (t.unit e).sems o.t.sem = Sparse.get 0 (s.unit e).sems o.t.sem + 1)
        ∧ (o.t.semEn = true → Sparse.get 0 (s.unit e).sems o.t.sem = 255 →
            bitOf (t.evBits (streamSrc e)) 2 = true ∧ (t.unit e).sems = (s.unit e).sems)
        ∧ (o.t.semEn = false → (t.unit e).sems = (s.unit e).sems))
    ∧ (∀ (k : Fin 32) (o : OutTrig), (s.unit e).trigs[k.val]? = some o → o.moved = false →
      (moveTrigger e o s).1 = false → tagClear (.trig e o.id) (moveTrigger e o s).2 = true →
      exec (.triggerComplete e k) s = .next (retireTrigger e o true (moveTrigger e o s).2))
    ∧ (∀ m, (s.unit e).prev = [] → (s.unit e).trigs = [] → resultsDue e none s = false → (s.unit e).cur = some m →
      (s.unit e).haltStatus = none → (s.unit e).lastIssued = true → (s.unit e).taintAt = none →
      Yields (.streamComplete e) s fun t => ∃ u,
        t = promote e (endLaunch m.launch.id stDone u)
        ∧ (u.unit e).status = .idle ∧ (u.unit e).cur = none ∧ (u.unit e).permit = false
        ∧ (u.unit e).sems = (s.unit e).sems ∧ (u.unit e).cycle = (s.unit e).cycle ∧ (u.unit e).nxt = (s.unit e).nxt
        ∧ u.queues = s.queues ∧ u.coh = s.coh ∧ u.events = s.events))

/-- O12: In a package with power and clock: when every member named by the LOCK_MASK of engine e is ready under the same mask and START_TIME and the start time S of the group has come, LOCK_GROUP_START answers a next state in which every member runs its own launch from bundle 0, repeat 0 and stream cycle 0, its LOCK_START holds S, its alignment flag tells whether the group has several members, and LOCK_LATE is set on each if the group was late. In a package with power and clock. SEMAPHORE_WAIT_PASS: a running stream that holds at a wait whose semaphore k is not zero goes on: the semaphore falls by one, no other does, the wait is marked passed, and its cycle, bundle and repeat are unchanged. GROUP_WAIT_RELEASE: when every member of the group has arrived, each member that runs and holds at a group wait has its wait marked passed, holds no longer and is aligned. -/
def Obligations.StreamsStartAndWaitTogether : Prop :=
  (∀ (e : StreamEng) (s : State) (l : Launch),
    let mask := ownMask e l.lockMask
    let ms := maskMembers e mask
    let g := groupStart ms.length l.startTime ((ms.map fun x => (s.unit x).readyAt.getD 0).foldl max 0)
    powered s = true → curLaunch (s.unit e) = some l → (∀ x ∈ ms, memberReady mask l.startTime x s = true) → g.1 ≤ s.now →
    Yields (.lockGroupStart e) s fun t => ∀ x ∈ ms,
      (t.unit x).status = .running ∧ (t.unit x).cur = (s.unit x).cur ∧ (t.unit x).idx = 0 ∧ (t.unit x).rep = 0
      ∧ (t.unit x).cycle = 0 ∧ (t.unit x).lockStart = w64 g.1 ∧ (t.unit x).aligned = decide (1 < ms.length)
      ∧ (g.2 = true → bitOf (t.evBits (streamSrc x)) 1 = true))
    ∧ (∀ (e : StreamEng) (s : State), powered s = true →
    ((s.unit e).status = .running → (s.unit e).holding = .wait → semOk e s = true →
      let k := waitSem (s.unit e) (isVec e)
      Yields (.semaphoreWaitPass e) s fun t =>
        Sparse.get 0 (t.unit e).sems k = Sparse.get 0 (s.unit e).sems k - 1
        ∧ (∀ j, j ≠ k → Sparse.get 0 (t.unit e).sems j = Sparse.get 0 (s.unit e).sems j)
        ∧ (t.unit e).waitPassed = true ∧ (t.unit e).holding = .none
        ∧ (t.unit e).cycle = (s.unit e).cycle ∧ (t.unit e).idx = (s.unit e).idx ∧ (t.unit e).rep = (s.unit e).rep)
    ∧ ((s.unit e).status = .running → (s.unit e).holding = .groupWait →
      (∀ x ∈ maskMembers e (s.unit e).lockMask, memberArrived (s.unit e).lockMask s x = true) →
      Yields (.groupWaitRelease e) s fun t => ∀ x ∈ maskMembers e (s.unit e).lockMask,
        (s.unit x).inGroup = true → (s.unit x).lockMask = (s.unit e).lockMask → (s.unit x).status = .running →
        (s.unit x).holding = .groupWait →
        (t.unit x).waitPassed = true ∧ (t.unit x).holding = .none ∧ (t.unit x).aligned = true))

/-- O13: Take a vector engine of a package with power and clock, with a bundle to issue and none of its lock group held at a group wait, and let y be it once its cycle has begun: the increments and results due are done. In a lock group its position is an issuing one. The bundle is legal, its wait (if any) has passed, no limit of the timing rules and no poison is met, and its X slot is no end, signal or trigger. VECTOR_BUNDLE_ISSUE answers a next state in which the results of the V slot and then of the X slot are on their way, each due at its latency after this cycle; the engine stands in the next stream cycle at the bundle and with the loops that the X slot gives; the bundle counter has advanced by one; the registers are unchanged. -/
def Obligations.VectorBundleIssueIssuesBothSlots : Prop :=
  ∀ (n : ArrayId) (s : State) (m : Strm),
    let s1 := openVecCycle n s
    let y := s1.vec n.val
    let cx := vectorCtx n s1
    let b := vSlots (m.bundles.getD y.su.idx 0)
    let next := xslotNext b.2 y y.su.idx
    powered s = true → NoneHolds (.vec n) s → (s.unit (.vec n)).cur = some m → (s.unit (.vec n)).issuing = true →
    (y.su.inGroup = false ∨ issuingCycle y.duty y.pos = true) →
    bundleLegal m y.su.idx b.1 b.2 cx = true → (b.2.op ≠ 0xD0 ∨ y.su.waitPassed = true) →
    b.2.op ≠ 0x01 → b.2.op ≠ 0xD1 → b.2.op ≠ 0xD2 → vectorHazards b.1 b.2 y (s1.arr n.val) = [] →
    (b.1.op ≠ 0xA0 ∨ ∀ f k, tileAccess b.1 y = some (f, k) → tilePoisoned (s1.arr n.val) f k = false) →
    Yields (.vectorBundleIssue n) s fun t =>
      let z := t.vec n.val
      z.results = y.results ++ (vSlotResults b.1 cx (vecFlags n.val s1) ++ vSlotResults b.2 cx (vecFlags n.val s1)).map
        (fun o => ⟨y.su.cycle + o.2.2, o.1, o.2.1, y.su.cycle, false⟩)
      ∧ z.su.cycle = y.su.cycle + 1 ∧ z.su.idx = next.1 ∧ z.loops = next.2
      ∧ t.ctr (vecBundleCount n.val) = w64 (min ((s1.ctr (vecBundleCount n.val)).toNat + 1) (2 ^ 64 - 1))
      ∧ z.v = y.v ∧ z.m = y.m ∧ z.sr = y.sr ∧ z.vl = y.vl

/-- O14: In a package with power and clock: when the engine issues no more and one result is on its way to a scalar, mask or length register (and the stream has kept the timing limits), VECTOR_RESULT_WRITE answers a next state in which that register holds the result, every other register of its kind is unchanged, the flags of the result and no others are added to VEC_FCSR, nothing is on its way any more, and vector registers, array and memory are unchanged. -/
def Obligations.VectorResultWriteWritesItsRegister : Prop :=
  ∀ (n : ArrayId) (s : State) (r : VResult),
    let y := s.vec n.val
    powered s = true → y.su.issuing = false → y.results = [r] → r.free = false → y.su.undef r.cyc = false →
    (match r.dest with | .scalar _ _ | .mask _ _ _ | .vl _ => True | _ => False) →
    Yields (.vectorResultWrite n) s fun t =>
      let z := t.vec n.val
      (∀ k v, r.dest = .scalar k v → (∀ j, Sparse.get 0 z.sr j = if j = k then v else Sparse.get 0 y.sr j) ∧ z.m = y.m ∧ z.vl = y.vl)
      ∧ (∀ k sel v, r.dest = .mask k sel v → (∀ j, Sparse.get 0 z.m j
          = if j = k then (Sparse.get 0 y.m k &&& ~~~sel) ||| (v &&& sel) else Sparse.get 0 y.m j) ∧ z.sr = y.sr ∧ z.vl = y.vl)
      ∧ (∀ k, r.dest = .vl k → z.vl = k ∧ z.sr = y.sr ∧ z.m = y.m)
      ∧ (∀ j, j < 5 → bitOf (t.evBits (srcVecFlags n.val)) j = (bitOf (s.evBits (srcVecFlags n.val)) j || r.flags.getLsbD j))
      ∧ z.results = [] ∧ z.v = y.v ∧ z.rm = y.rm ∧ t.arrays = s.arrays ∧ t.hbm = s.hbm ∧ t.coh = s.coh

/-- O15: In a package with power and clock. DOORBELL with a tail that leaves at most E entries between the head and it, on a queue not disabled: the tail is the value and a wait for a stale descriptor ends; nothing else changes. DOORBELL with any other tail, or on a disabled queue: BAD_DOORBELL is set, its counter advances by one, and the queue is unchanged. CQ_HEAD_WRITE beyond the records written does the same; one within them moves the head, and what waited for room follows: with nothing waiting or in progress, nothing else changes. -/
def Obligations.DoorbellsMoveTheRing : Prop :=
  ∀ (q : QueueId) (v : W64) (s : State), powered s = true →
    let x := s.queue q.val
    let t17 := fieldOf v 0 17
    let h := fieldOf v 0 17
    let bad (t : State) : Prop := bitOf (t.evBits (srcQdb q.val)) 3 = true
      ∧ t.ctr (badDoorbellCount q.val) = w64 (min ((s.ctr (badDoorbellCount q.val)).toNat + 1) (2 ^ 64 - 1))
      ∧ { t with counters := s.counters, events := s.events, edges := s.edges } = s
    (x.mode ≠ .disabled → (t17 + 2 * x.entries - x.head % (2 * x.entries)) % (2 * x.entries) ≤ x.entries →
      Yields (.doorbell q v) s fun t =>
        t.queue q.val = { x with tail := t17, staleWait := false, tries := if x.staleWait then 0 else x.tries }
        ∧ (∀ k, k ≠ q.val → t.queue k = s.queue k) ∧ { t with queues := s.queues } = s)
    ∧ ((x.mode = .disabled ∨ x.entries < (t17 + 2 * x.entries - x.head % (2 * x.entries)) % (2 * x.entries)) →
      Yields (.doorbell q v) s bad)
    ∧ (x.filled < (h + 2 * x.cqEntries - x.cqHead) % (2 * x.cqEntries) → Yields (.cqHeadWrite q v) s bad)
    ∧ ((h + 2 * x.cqEntries - x.cqHead) % (2 * x.cqEntries) ≤ x.filled →
      exec (.cqHeadWrite q v) s = .next (finishQueue q.val (s.modQueue q.val fun x =>
        { x with cqHead := h % (2 * x.cqEntries) })))
    ∧ ((h + 2 * x.cqEntries - x.cqHead) % (2 * x.cqEntries) ≤ x.filled →
      x.progs = [] → x.stalePending = false → x.cqWait = false →
      Yields (.cqHeadWrite q v) s fun t => t.queue q.val = { x with cqHead := h % (2 * x.cqEntries) }
        ∧ (∀ k, k ≠ q.val → t.queue k = s.queue k) ∧ { t with queues := s.queues } = s)

/-- O16: In a package with power and clock. QUEUE_ENABLE on a disabled queue whose configuration is good and whose ring pages are pinned and accessible: the queue is ACTIVE with empty rings, indices 0 and no cause; with a bad configuration ENABLE_FAIL is set with cause 5 and the queue stays DISABLED. DESCRIPTOR_FETCH_RETURN of a slot that matches its expected phase and sequence (or reads poisoned): the descriptor joins the window and the head advances. DESCRIPTOR_REFETCH of an ACTIVE queue 1 us after a mismatch: the slot may be fetched again and the refetch is counted. QUEUE_STOP of an ACTIVE or HALTED queue of an engine that runs no streams: HALTED with cause 4. QUEUE_RESUME of such a HALTED queue: ACTIVE with cause 0, its head checked; with nothing fetched, nothing else changes. QUEUE_DISABLE: what was fetched ends with QUEUE_HALTED, and the queue drains. QUEUE_DRAIN_END with nothing in progress: DISABLED. -/
def Obligations.QueuesEnableFetchAndStop : Prop :=
  ∀ (q : QueueId) (s : State), powered s = true →
    let x := s.queue q.val
    let s0 := s.modQueue q.val fun x => { x with enabling := false }
    (∀ ring cq s1 s2, x.mode = .disabled → configBad q.val (s0.queue q.val) s0 = false →
      ringPages x.code false 4 x.ringBase (64 * x.entries) s0 = (some (.ok ring), s1) →
      ringPages x.code true 4 x.cqBase (32 * x.cqEntries) s1 = (some (.ok cq), s2) →
      Yields (.queueEnable q) s fun t => let y := t.queue q.val
        y.enable = true ∧ y.mode = .active ∧ y.cause = 0 ∧ y.tail = 0 ∧ y.head = 0 ∧ y.cqHead = 0 ∧ y.cqTail = 0
        ∧ y.window = [] ∧ y.progs = [] ∧ y.ringSegs = ring ∧ y.cqSegs = cq)
    ∧ (x.mode = .disabled → configBad q.val (s0.queue q.val) s0 = true → Yields (.queueEnable q) s fun t =>
      t.queue q.val = { x with enable := true, enabling := false, cause := 5 } ∧ bitOf (t.evBits (srcQdb q.val)) 0 = true)
    ∧ (let r := readSegs x.code false false (segsAt x.ringSegs (64 * (x.fetched % x.entries)) 64) s
      let w := (chunk 8 8 (r.1.map Prod.fst)).map fun b => w64 (leNat b)
      let y : QState := { x with
        window := x.window ++ [⟨x.fetched, w, r.1.any Prod.snd⟩], fetched := x.fetched + 1
        head := (x.head + 1) % (2 * x.entries), tries := 0 }
      mayFetch x = true → x.refetchAt = none → (r.1.any Prod.snd || matchesSlot x x.fetched w) = true →
      exec (.descriptorFetchReturn q) s = .next (settleHead q.val (r.2.modQueue q.val fun y => { y with
        window := y.window ++ [⟨x.fetched, w, r.1.any Prod.snd⟩], fetched := x.fetched + 1
        head := (y.head + 1) % (2 * y.entries), tries := 0 }))
      ∧ ((∀ f, y.window.head? = some f → f.poisoned = false ∧ malformedDesc x.code f.w s = false) →
        Yields (.descriptorFetchReturn q) s fun t => t.queue q.val = y ∧ (∀ k, k ≠ q.val → t.queue k = s.queue k)
          ∧ t.coll = s.coll ∧ t.xlt = s.xlt))
    ∧ (∀ d, x.refetchAt = some d → d ≤ s.now → x.mode = .active → Yields (.descriptorRefetch q) s fun t =>
      t.queue q.val = { x with refetchAt := none, tries := x.tries + 1 }
      ∧ t.ctr (refetchCount q.val) = w64 (min ((s.ctr (refetchCount q.val)).toNat + 1) (2 ^ 64 - 1)))
    ∧ ((x.mode = .active ∨ x.mode = .halted) → 0x20 ≤ x.code → Yields (.queueStop q) s fun t =>
      t.queue q.val = { x with mode := .halted, cause := 4 } ∧ bitOf (t.evBits (srcQdb q.val)) 1 = true
      ∧ (∀ k, k ≠ q.val → t.queue k = s.queue k))
    ∧ (x.mode = .halted → 0x20 ≤ x.code →
      exec (.queueResume q) s = .next (settleHead q.val (s.modQueue q.val fun y => { y with mode := .active, cause := 0 }))
      ∧ (x.window = [] → Yields (.queueResume q) s fun t => t.queue q.val = { x with mode := .active, cause := 0 }
        ∧ (∀ k, k ≠ q.val → t.queue k = s.queue k) ∧ { t with queues := s.queues } = s))
    ∧ ((x.mode = .active ∨ x.mode = .halted) → x.window = [] → x.progs = [] → 0x20 ≤ x.code → Yields (.queueDisable q) s fun t =>
      (t.queue q.val).mode = .draining ∧ (t.queue q.val).enable = false ∧ (t.queue q.val).window = [])
    ∧ (x.mode = .draining → x.progs = [] → 0x20 ≤ x.code → Yields (.queueDrainEnd q) s fun t =>
      t.queue q.val = { x with mode := .disabled, ringSegs := [], cqSegs := [], cqWait := false, cause := 0 })

/-- O17: When the head f of queue q has opcode op, may start and is the next of its engine's queues in turn, and the completion ring has room, beginning it makes it a started descriptor with its entries reserved, takes it from the window, makes q the queue the engine has served last and answers its number; when the ring has no room, the queue waits for space (CQ_WAIT is set when the wait begins) and nothing starts; a head of another opcode, or one that may not start, changes nothing. On an engine that is at work already it then runs without asking Sluice; on an idle one whose demand fits it runs with its demand taken from the headroom. When its descriptor starts and may run: NOP, alone on its queue and naming no attach domain, ends with its record written: nothing is in progress any more and the completion ring holds one record more (on an array or vector engine it asks no permit). COPY, COPY_2D, FILL and WRITE_IMM move the pieces of their rows as far as their pages allow; one inside this package whose pages all translate and whose source has no poison ends with status DONE and RESULT the bytes it wrote; then the records that can be written follow. INVALIDATE drops the cached translations of its range and all of the walk caches and waits, last of those in progress, for what still uses them. -/
def Obligations.DescriptorsStartAndRun : Prop :=
  (∀ (q : QueueId) (op : Nat) (s : State) (f : Fetched) (rest : List Fetched),
    let x := s.queue q.val
    x.window = f :: rest →
    (Startable q op f rest s → beginDesc q.val op s = (some f.n, started q f rest s)
      ∧ (Permitted q s → startDesc q.val op s = (some (f.n, true), running q f rest s)))
    ∧ (dOpcode f.w = op → headMayStart q.val s = true → hasTurn q.val s = true → x.room (entriesOf f.w) = false →
      (startDesc q.val op s).1 = none ∧ ((startDesc q.val op s).2.queue q.val) = { x with cqWait := true }
      ∧ (x.cqWait = false → bitOf ((startDesc q.val op s).2.evBits (srcQdb q.val)) 4 = true))
    ∧ ((dOpcode f.w ≠ op ∨ headMayStart q.val s = false ∨ hasTurn q.val s = false) → startDesc q.val op s = (none, s)))
    ∧ (∀ (q : QueueId) (s : State) (f : Fetched) (rest : List Fetched),
    let x := s.queue q.val
    let t := running q f rest s
    let code := x.code
    (rest = [] → x.progs = [] → x.stalePending = false → dDomain f.w ≠ 1 → dDomain f.w ≠ 3 →
      tagClear (.desc ⟨q.val, f.n⟩) s = true → Startable q opNop f rest s →
      (engKind code = .array ∨ engKind code = .vector ∨ Permitted q s) →
      Yields (.nop q) s fun t => (t.queue q.val).progs = [] ∧ (t.queue q.val).window = []
        ∧ (t.queue q.val).written = x.written + 1 ∧ (t.queue q.val).cqTail = (x.cqTail + 1) % (2 * x.cqEntries))
    ∧ (∀ c op, (c, op) ∈ [(Instr.copy q, opCopy), (.copy2d q, opCopy2d), (.fill q, opFill), (.writeImm q, opWriteImm)] →
      Startable q op f rest s → Permitted q s →
      exec c s = .next (finishQueue q.val (copyRun q.val f.n t))
      ∧ (let rows := xferRows f.w 0
        let r := pieceWalk code (readsSource op) true (rows.length * (2 * (dLength f.w / 0x4000000) + 6) + 4) rows t
        dRemote f.w = false → r.2.1 = none → ((readPieces code f.w r.1 r.2.2).1.any fun d => d.2.any Prod.snd) = false →
        Yields c s fun t => ∃ u p, t = finishQueue q.val u ∧ u.prog q.val f.n = some p ∧ p.phase = .ended
          ∧ p.status = stDone ∧ p.result = w64 ((r.1.map (·.n)).sum) ∧ p.w = f.w
          ∧ u.coll = s.coll ∧ u.upd = s.upd ∧ u.seqs = s.seqs ∧ u.net = s.net))
    ∧ (Startable q opInvalidate f rest s → Permitted q s →
      exec (.invalidate q) s = .next (beginInval q.val f.n f.w t)
      ∧ Yields (.invalidate q) s fun t => t.xlt.walkCache = []
        ∧ (∃ i, t.xlt.invals = s.xlt.invals ++ [i] ∧ i.id = ⟨q.val, f.n⟩ ∧ i.base = dSrc f.w / 0x4000000 ∧ i.span = dSpan f.w)
        ∧ (dSpan f.w = 0 → t.xlt.tlb = []) ∧ t.xlt.records = s.xlt.records ∧ t.xlt.root = s.xlt.root ∧ t.hbm = s.hbm))

/-- O18: After an INVALIDATE begins, no engine's translation cache holds an entry that covers a 64 MiB unit of its range (every entry, for SPAN 0), every entry that covers none is still held, the walk caches are empty, the invalidation stands last in the list of those in progress, and queues, memory and records are unchanged. -/
def Obligations.InvalidationsDropTranslations : Prop :=
  ∀ (q n : Nat) (w : DWords) (s : State),
    let t := beginInval q n w s
    let hits (e : TlbEntry) : Prop := dSpan w = 0 ∨ ∃ k, k < (if e.big then 32 else 1)
      ∧ dSrc w / 0x4000000 ≤ e.base / 0x4000000 + k ∧ e.base / 0x4000000 + k < dSrc w / 0x4000000 + dSpan w
    (∀ c l, (c, l) ∈ t.xlt.tlb → ∀ e ∈ l, ¬ hits e)
    ∧ (∀ c l, (c, l) ∈ s.xlt.tlb → ∀ e ∈ l, ¬ hits e → ∃ l', (c, l') ∈ t.xlt.tlb ∧ e ∈ l')
    ∧ t.xlt.walkCache = [] ∧ (∃ i, t.xlt.invals = s.xlt.invals ++ [i] ∧ i.id = ⟨q, n⟩)
    ∧ t.queues = s.queues ∧ t.hbm = s.hbm ∧ t.xlt.records = s.xlt.records ∧ t.xlt.root = s.xlt.root

/-- O19: In a package with power and clock. WRITE for this node: its data is written at its address and its acknowledgement is owed to its sender, sent once the data is visible; a packet that is not for this node changes nothing. WRITE_ACK of a write outstanding: it is outstanding no more, its transaction leaves the descriptor, whose RESULT counts the bytes of a success and whose status takes the first refusal, and the queue finishes what it can; UNREACHABLE, and WRITE_ACK_TIMEOUT once ACK_TIMEOUT_MS has passed, end the descriptor with NODE_UNREACHABLE, and none of its writes is outstanding any more. FLUSH_READ_COMPLETION takes the port from the flush reads of its descriptor. -/
def Obligations.WritesBetweenNodesComplete : Prop :=
  ∀ (s : State), powered s = true →
    (∀ p, p.dst = s.node → p.typ = typeWrite → exec (.write p) s = .next (receiveWrite p s))
    ∧ (∀ p, let k := s.net.nextIn
      let r := writeIncoming p (.inWrite k) (s.modNet fun t => { t with nextIn := k + 1 })
      p.dst = s.node → p.typ = typeWrite → r.1 = some stDone →
      Yields (.write p) s fun t => ∃ u, t = sendAcks u
        ∧ u.net.acks = s.net.acks ++ [⟨k, p.src, p.txn, pagesOf (p.arg.toNat % 2 ^ 52) p.payload.length⟩]
        ∧ u.net.nextIn = k + 1 ∧ u.hbm = r.2.hbm ∧ u.coh = r.2.coh ∧ u.arrays = r.2.arrays ∧ u.host = r.2.host)
    ∧ (∀ p, (p.dst ≠ s.node ∨ p.typ ≠ typeWrite) → exec (.write p) s = .next s)
    ∧ (∀ txn st o p, s.net.writes.find? (·.txn == txn) = some o → s.prog o.id.q o.id.n = some p →
      Yields (.writeAck txn st) s fun t => ∃ u, t = finishQueue o.id.q u
        ∧ u.net = { s.net with writes := s.net.writes.filter (·.txn != txn) }
        ∧ u.prog o.id.q o.id.n = some (settleWrite txn o.bytes st p)
        ∧ { u with net := s.net, queues := s.queues } = s)
    ∧ (∀ txn node o p, s.net.writes.find? (·.txn == txn) = some o → s.prog o.id.q o.id.n = some p →
      let lost (t : State) : Prop := ∃ u p', t = finishQueue o.id.q u ∧ u.prog o.id.q o.id.n = some p'
        ∧ p'.phase = .ended ∧ p'.status = stUnreachable ∧ p'.txns = [] ∧ (∀ w ∈ u.net.writes, w.id ≠ o.id)
        ∧ { u with net := s.net, queues := s.queues } = s
      Yields (.unreachable txn node) s lost
      ∧ (o.sent + s.net.ackMs * 1000000 ≤ s.now → Yields (.writeAckTimeout txn) s lost))
    ∧ (∀ (q : QueueId) (p : PortId) r, (s.queue q.val).progs.find? (fun r => r.flush.contains p) = some r →
      Yields (.flushReadCompletion q p true) s fun t => ∃ u, t = finishQueue q.val u
        ∧ u.queue q.val = { s.queue q.val with progs := (s.queue q.val).progs.map fun y =>
            if y.n = r.n then { y with flush := y.flush.filter (· != p) } else y }
        ∧ { u with queues := s.queues } = s)

/-- O20: MIGRATION_SERVICE while the firmware runs serves the oldest record that may be served; a fault whose leaf is ABSENT takes a page of its size from the supply and is being copied. FAULT_TIMEOUT fails a record that has waited for a page FAULT_TIMEOUT_MS: the record ends, and XLT_ERR_INFO holds cause 8 and the page. MIGRATION_COPY_COMPLETE whose reads failed gives the page back and fails the record; one whose leaf is unchanged writes the leaf, counts the migration and ends the record. INVALIDATE_COMPLETE of an invalidation that waits for nothing, with no flush read due, takes it from the list, counts it, ends its descriptor and lets what it held back go on; TRANSFER_COMPLETE writes the records of what has become visible. IRQ_HOLDOFF_EXPIRY with nothing qualified ends the holdoff, and with a visible qualified record sends its interrupt. -/
def Obligations.PagesAreServed : Prop :=
  ∀ (s : State), powered s = true →
    (∀ r, s.xlt.records.find? (fun r => r.served s) = some r → fwRuns s = true →
      exec .migrationService s = .next (serveStep r s))
    ∧ (∀ r a e big s1 pg, s.xlt.records.find? (fun r => r.served s) = some r → fwRuns s = true → r.move = none →
      findLeaf r.vpage s = (some (a, e, big), s1) → leafRes e = resAbsent → s.xlt.supply.find? (·.2 == big) = some pg →
      Yields .migrationService s fun t => t.xlt.supply = s.xlt.supply.erase pg
        ∧ t.xlt.records = (s.xlt.records.map fun x => if x.vpage = r.vpage then { x with phase := .copying pg.1 e, big := big } else x)
        ∧ t.queues = s.queues ∧ t.xlt.invals = s.xlt.invals)
    ∧ (∀ (v : PAddr) r since, s.xlt.records.find? (·.vpage == v.toNat) = some r → r.phase = .noPage since → fwRuns s = true →
      since + s.xlt.timeoutMs * 1000000 ≤ s.now → exec (.faultTimeout v) s = .next (failPage v.toNat 8 s)
      ∧ (s.xlt.ninth = [] → Yields (.faultTimeout v) s fun t =>
        t.xlt.records = s.xlt.records.filter (·.vpage != v.toNat)
        ∧ t.xlt.errInfo = w64 (8 * 2 ^ 56 + 0xFF * 2 ^ 48 + v.toNat / 0x4000000 % 2 ^ 26) ∧ t.xlt.supply = s.xlt.supply))
    ∧ (∀ (v : PAddr) r pa leaf, s.xlt.records.find? (·.vpage == v.toNat) = some r → r.phase = .copying pa leaf → fwRuns s = true →
      exec (.migrationCopyComplete v false) s = .next (failPage v.toNat 7
        { s with xlt := { s.xlt with supply := s.xlt.supply ++ [(pa, r.big)] } }))
    ∧ (∀ (v : PAddr) r pa leaf a big s2, s.xlt.records.find? (·.vpage == v.toNat) = some r → r.phase = .copying pa leaf →
      fwRuns s = true → copyReadable pa leaf s = true → findLeaf v.toNat (copyIn pa r.big leaf s) = (some (a, leaf, big), s2) →
      Yields (.migrationCopyComplete v true) s fun t => ∃ u,
        t = postNotice ⟨1, r.big, v.toNat, pa, leafAddr leaf, r.waiters, r.engines⟩ u
        ∧ u = count migrateCount 1 (resumePage v.toNat (moveOutcome r.move 0 (leBytes 8 pa ++ leBytes 8 (leafAddr leaf))
          (poolWrite a (leBytes 8 (pooledLeaf leaf pa).toNat) .none s2)))
        ∧ (pageWaiters v.toNat s = [] → s.xlt.ninth = [] → u.xlt.records = s.xlt.records.filter (·.vpage != v.toNat)
          ∧ u.queues = s.queues))
    ∧ (∀ (q : QueueId) i p, s.xlt.invals.find? (fun i => i.id.q == q.val && i.ready s && !(i.flush s).2) = some i →
      s.prog q.val i.id.n = some p → (i.flush s).1 = false →
      Yields (.invalidateComplete q) s fun t => ∃ u, t = resumeHeld (finishQueue q.val (endFree q.val i.id.n stDone u))
        ∧ u.xlt = { s.xlt with invals := s.xlt.invals.erase i }
        ∧ u.ctr invalCount = w64 (min ((s.ctr invalCount).toNat + 1) (2 ^ 64 - 1)) ∧ u.queues = s.queues ∧ u.hbm = s.hbm)
    ∧ (∀ q : QueueId, exec (.transferComplete q) s = .next (finishQueue q.val (settleSeqs s)))
    ∧ (∀ (q : QueueId) p, let x := s.queue q.val
      settleSeqs s = s → x.progs = [p] → p.phase = .ended → tagClear (.desc ⟨q.val, p.n⟩) s = true → p.txns = [] →
      wantsAttach p = false → p.reserved ≠ 0 → x.stalePending = false →
      Yields (.transferComplete q) s fun t => (t.queue q.val).progs = [] ∧ (t.queue q.val).written = x.written + 1
        ∧ (t.queue q.val).cqTail = (x.cqTail + 1) % (2 * x.cqEntries) ∧ (t.queue q.val).window = x.window)
    ∧ (∀ (q : QueueId) d, (s.queue q.val).holdUntil = some d → d ≤ s.now → (s.queue q.val).qualified = false →
      Yields (.irqHoldoffExpiry q) s fun t => t.queue q.val = { s.queue q.val with holdUntil := none } ∧ { t with queues := s.queues } = s)
    ∧ (∀ (q : QueueId) d, (s.queue q.val).holdUntil = some d → d ≤ s.now → (s.queue q.val).qualified = true →
      recordsVisible q.val s = true → exec (.irqHoldoffExpiry q) s
        = .next (qualify q.val (s.modQueue q.val fun x => { x with holdUntil := none })))

/-- O21: For each of the eight collectives: a well-formed head of a queue of a collective engine with fewer than 16 slots used, whose group has no collective short of its data phase, that starts and runs, enters its collective. With no abort notice held for its number and every member reachable, the run that its descriptor describes is added to the running collectives, with the number the group gives it and this member's signature, and stands in the descriptor; before its START_TIME it waits in that state, and from then on its signature round starts. -/
def Obligations.CollectivesEnterTheirGroup : Prop :=
  ∀ (q : QueueId) (s : State) (f : Fetched) (rest : List Fetched),
    let x := s.queue q.val
    let w := f.w
    let t := running q f rest s
    ∀ c op, (c, op) ∈ [(Instr.allReduce q, opAllReduce), (.reduceScatter q, opReduceScatter), (.allGather q, opAllGather),
        (.broadcast q, opBroadcast), (.reduce q, opReduce), (.allToAll q, opAllToAll), (.barrier q, opBarrier),
        (.flagReduce q, opFlagReduce)] →
      Startable q op f rest s → Permitted q s → malformedDesc x.code w s = false → engKind x.code = .coll →
      slotsUsed (x.code - 0x40) s < 16 → groupFree (cGroup w) s = true →
      exec c s = .next (enterColl q.val f.n t)
      ∧ ∀ g, s.group (cGroup w) = some g →
        let seq := takesSeq (cGroup w) g s
        let r := newRun ⟨q.val, f.n⟩ w g seq s.now
        s.coll.heldAborts.find? (fun a => a.group == cGroup w && a.seq == seq) = none → lostMember g s = none →
        let entered (u : State) : Prop := u.coll.runs = s.coll.runs ++ [r] ∧ u.group (cGroup w) = some g
          ∧ (∃ p, u.prog q.val f.n = some p ∧ p.coll = some (cGroup w) ∧ p.w = w)
        r.signature = signatureOf w seq g.members
        ∧ (s.now < r.startTime → Yields c s entered)
        ∧ (r.startTime ≤ s.now → Yields c s fun t => ∃ u, t = launchRound r u ∧ entered u)

/-- O22: In a package with power and clock. COLLECTIVE_START_TIME opens the round of a waiting collective whose START_TIME has come; SIGNATURE_MESSAGE of a collective that waits is held; the message its open round waits for is taken, and the round goes on; one of the group's next collective is held, any other changes nothing. COLLECTIVE_DATA_MESSAGE of a running data phase is received, the time noted, and the phase goes on; before that phase it is held. ABORT_NOTICE of a collective not ended ends its descriptor with the status of its cause, and of the next number is held; MEMBER_TIMEOUT of a member overdue ends it with MEMBER_TIMEOUT; COLLECTIVE_DONE with every exchange over and no SINK element left writes the destination, counts it in Tally and ends its descriptor with status 0. -/
def Obligations.CollectivesProceedAndEnd : Prop :=
  ∀ (g : GroupId) (s : State) (gs : GroupSt), powered s = true → s.group g.val = some gs →
    let set (id : DescId) (f : CollRun → CollRun) (u : State) : Prop :=
      u.coll.runs = s.coll.runs.map fun x => if x.id = id then f x else x
    let gone (r : CollRun) (u : State) : Prop := ∀ x ∈ u.coll.runs, x.id = r.id → x.phase = .ended
    let held (m : SigMsg) : State := { s with coll := { s.coll with heldSigs := s.coll.heldSigs ++ [m] } }
    let kept (m : DataMsg) : State := { s with coll := { s.coll with heldData := s.coll.heldData ++ [m] } }
    (∀ r, s.runIn g.val .waiting = some r → r.startTime ≤ s.now → Yields (.collectiveStartTime g) s fun t =>
      t = launchRound r s ∧ ∃ k u, t = advanceRound r.id k (sendRound r.id u)
        ∧ set r.id (fun x => { x with phase := .signing }) u ∧ { u with coll := s.coll } = s)
    ∧ (∀ r (m : SigMsg), m.group = g → s.runSeq g.val m.seq = some r → (r.phase = .signing ∨ r.phase = .waiting) →
      exec (.signatureMessage m) s = .next (advanceRound r.id (roundsOf gs.members.length + 1) (held m)))
    ∧ (∀ r (m : SigMsg), m.group = g → s.runSeq g.val m.seq = some r → s.runOf r.id = some r → r.phase = .waiting →
      Yields (.signatureMessage m) s fun t => t = held m)
    ∧ (∀ r (m : SigMsg), let n := gs.members.length
      m.group = g → s.runSeq g.val m.seq = some r → s.runOf r.id = some r → r.phase = .signing →
      r.round < roundsOf n → m.round = r.round → m.src = (gs.self + n - 2 ^ r.round % n) % n → s.coll.heldSigs = [] →
      Yields (.signatureMessage m) s fun t => ∃ k u, t = advanceRound r.id k (sendRound r.id u)
        ∧ set r.id (takeSig m) u ∧ u.coll.heldSigs = [] ∧ { u with coll := s.coll } = s)
    ∧ (∀ m : SigMsg, m.group = g → s.runSeq g.val m.seq = none → seqNext g.val m.seq s = true →
      Yields (.signatureMessage m) s fun t => t = held m)
    ∧ (∀ m : SigMsg, m.group = g → s.runSeq g.val m.seq = none → seqNext g.val m.seq s = false →
      exec (.signatureMessage m) s = .next s)
    ∧ (∀ r (m : DataMsg), m.group = g → s.runSeq g.val m.seq = some r → r.phase = .data →
      Yields (.collectiveDataMessage m) s fun t => ∃ u, t = runData r.id u
        ∧ set r.id (fun x => { x with got := x.got ++ [m], heard := s.now }) u ∧ { u with coll := s.coll } = s)
    ∧ (∀ m : DataMsg, m.group = g → (∃ r, s.runSeq g.val m.seq = some r ∧ r.phase ≠ .data ∧ r.phase ≠ .ended) →
      Yields (.collectiveDataMessage m) s fun t => t = kept m)
    ∧ (∀ seq src c r, s.runSeq g.val seq = some r → r.phase ≠ .ended → UnderWay r.id.q r.id.n s →
      exec (.abortNotice g seq src c) s = .next (startNext g.val (endEarly r (abortStatus c) (noticeMember r src c) c s))
      ∧ Yields (.abortNotice g seq src c) s fun t => ∃ u,
        t = startNext g.val (applyFollows r gs.engine (abortStatus c) (finishQueue r.id.q u))
        ∧ EndsWith r.id.q r.id.n (abortStatus c) (failResult r (noticeMember r src c)) u ∧ gone r u)
    ∧ (∀ seq src c, s.runSeq g.val seq = none → seqNext g.val seq s = true → Yields (.abortNotice g seq src c) s fun t =>
      t = { s with coll := { s.coll with heldAborts := s.coll.heldAborts ++ [⟨g.val, seq, src, c⟩] } })
    ∧ (∀ member r, (s.coll.runs.find? fun r => r.group == g.val && r.phase != .ended && memberOverdue r gs member s) = some r →
      UnderWay r.id.q r.id.n s →
      Yields (.memberTimeout g member) s fun t => ∃ u,
        t = startNext g.val (applyFollows r gs.engine stMemberTimeout (finishQueue r.id.q u))
        ∧ EndsWith r.id.q r.id.n stMemberTimeout (failResult r member) u ∧ gone r u)
    ∧ (∀ r s1, s.runIn g.val .data = some r → dataComplete r = true → sinkLeft r gs = 0 → UnderWay r.id.q r.id.n s →
      tallyDone r gs.self gs.engine (modRun r.id (fun r =>
        { r with slowBefore := ((s.tally g.val).slowest, (s.tally g.val).slowestLate) }) s) = (true, s1) →
      Yields (.collectiveDone g) s fun t => ∃ u, t = startNext g.val (finishQueue r.id.q u)
        ∧ EndsWith r.id.q r.id.n stDone (doneResult r gs) u ∧ gone r u
        ∧ (u.tally g.val).doneCount = min ((s.tally g.val).doneCount + 1) (2 ^ 64 - 1))

/-- O23: For every permutation of the contributions of the members: a reproducible sum of a block with any block code gives the same bits and flags in every format; so do the integer sum, maximum, minimum, OR and AND of the integer types. For every element type, COUNT and number of members n > 0 (COUNT a multiple of 32 for F19): the first shard begins at element 0, each begins where the one before ends, none has its end before its beginning, and the last ends at COUNT. -/
def Obligations.ReductionsAndShards : Prop :=
  (∀ (xs ys : List Nat), xs.Perm ys →
    (∀ f c, reproElem f c xs = reproElem f c ys)
    ∧ (∀ ty redop, 4 ≤ ty → reduceElem ty redop xs = reduceElem ty redop ys))
    ∧ (∀ (ty count n : Nat), 0 < n → (ty = 3 → count % 32 = 0) →
    (shardOf ty count n 0).1 = 0 ∧ (shardOf ty count n (n - 1)).2 = count
    ∧ ∀ i, (shardOf ty count n i).2 = (shardOf ty count n (i + 1)).1 ∧ (shardOf ty count n i).1 ≤ (shardOf ty count n i).2)

/-- O24: For each command, served alone on its mailbox with fields in range: GROUP_TABLE_SET with no group loaded registers the table and the Tally region; GROUP_LOAD of an UNLOADED group whose entry and list are readable, valid and name this node loads the group; GROUP_UNLOAD of a group with no collective running unloads it and drops what was held for it; TALLY_CLEAR zeroes the record of the group, or with ALL every record; GROUP_STATUS of a loaded group answers its state, its running collectives and its next number. Each is answered OK, and changes nothing else of the collective state. -/
def Obligations.GroupCommandsAreServed : Prop :=
  ∀ (m : MbxId) (s : State),
    let c := cmdAt m s
    let ok (pay : List Byte) (t : State) : Prop := Answered m c.tag mbxOk 0 pay t
    (Served m 0x0A01 s → c.le 0 8 % 4096 = 0 → c.le 0 8 < 2 ^ 52 → c.le 8 8 < 2 ^ 52 → groupsLoaded s = false →
      Yields (.groupTableSet m) s fun t => ok [] t ∧ t.coll = { s.coll with table := some (c.le 0 8, c.le 8 8) })
    ∧ (∀ e bs s1 s2, Served m 0x0A02 s → c.le 0 2 ≤ 4095 → readGroupEntry (c.le 0 2) (taken s) = (some e, s1) →
      e.valid = true → e.inRange = true → s.group (c.le 0 2) = none → pinnedRead e.listVa (2 * e.members) s1 = (some bs, s2) →
      let list : List NodeId := (List.range e.members).map fun k => BitVec.ofNat 16 (leAt bs (2 * k) 2)
      list.Nodup → e.self < e.members → list.getD e.self 0xFFFF = s.node → s.node ≠ 0xFFFF →
      Yields (.groupLoad m) s fun t => ok [] t ∧ t.group (c.le 0 2) = some (e.load list)
        ∧ (∀ k, k ≠ c.le 0 2 → t.group k = s.group k) ∧ { t.coll with groups := s.coll.groups } = s.coll)
    ∧ (Served m 0x0A03 s → c.le 0 2 ≤ 4095 → groupBusy (c.le 0 2) s = false →
      Yields (.groupUnload m) s fun t => ok [] t ∧ t.coll = unloadGroup (c.le 0 2) s.coll ∧ t.group (c.le 0 2) = none)
    ∧ (Served m 0x0A04 s → c.le 2 1 % 2 = 0 → c.le 0 2 ≤ 4095 →
      Yields (.tallyClear m) s fun t => ok [] t ∧ t.tally (c.le 0 2) = {} ∧ (∀ k, k ≠ c.le 0 2 → t.tally k = s.tally k)
        ∧ { t.coll with tallies := s.coll.tallies } = s.coll)
    ∧ (Served m 0x0A04 s → c.le 2 1 % 2 = 1 →
      Yields (.tallyClear m) s fun t => ok [] t ∧ t.coll = { s.coll with tallies := [] })
    ∧ (∀ g, Served m 0x0A05 s → c.le 0 2 ≤ 4095 → s.group (c.le 0 2) = some g → Yields (.groupStatus m) s fun t =>
      ok (leBytes 1 (if groupBusy (c.le 0 2) s then 2 else 1) ++ leBytes 1 (groupRuns (c.le 0 2) s)
          ++ leBytes 2 0 ++ leBytes 4 g.nextSeq.toNat) t ∧ t.coll = s.coll)

/-- O25: For every mailbox, status and payload: after a response its response area holds the header with TAG, LENGTH and STATUS, the detail and (unless the status is an error) the payload, the mailbox is not busy and DONE, its command area, slots and overrun flag are unchanged, and every other mailbox is unchanged; on a mailbox other than 2 with no interrupt requested, its command counter has advanced by one and no other counter has moved; and besides counters, events, what left the package, links, ports and cores, nothing of the state has changed. -/
def Obligations.ResponsesFreeTheMailbox : Prop :=
  ∀ (m : MbxId) (tag : Nat) (st : BitVec 16) (d : Nat) (pay : List Byte) (s : State),
    let t := respond m tag st d pay s
    Answered m tag st d (if st.toNat < 0x8000 then pay else []) t
    ∧ { t.mbx m.val with rsp := (s.mbx m.val).rsp, busy := (s.mbx m.val).busy, done := (s.mbx m.val).done } = s.mbx m.val
    ∧ (∀ k, k ≠ m.val → t.mbx k = s.mbx k) ∧ { t.mgr with mbx := s.mgr.mbx } = s.mgr
    ∧ (m ≠ 2 → bitOf (s.mbx m.val).ctrl 31 = false → ∀ k, t.ctr k
        = if k = cmdCount m.val then w64 (min ((s.ctr k).toNat + 1) (2 ^ 64 - 1)) else s.ctr k)
    ∧ { t with mgr := s.mgr, counters := s.counters, events := s.events, edges := s.edges, outbox := s.outbox, net := s.net, host := s.host, cores := s.cores } = s

/-- O26: In a package with power and clock. START_GRANT: when the demand of the first waiting start fits, it leaves the queue and its demand is taken from the headroom; every launch that waits for the stream group of its mask holds its permit, or the descriptor that waits on the engine of its code runs; when it does not fit, nothing changes. HOLDER_ACKNOWLEDGE of a holder that a held write of the line waits for: no write of the line waits for it any more; writes whose acknowledgements are complete are accepted, and what has become visible is acknowledged to other nodes, counted by semaphores and followed by the notice behind it. -/
def Obligations.GrantsAndAcknowledgementsLetWorkGo : Prop :=
  ∀ (s : State), powered s = true →
    (∀ x rest, s.env.starts = x :: rest → fits x.demand s = false → exec .startGrant s = .next s)
    ∧ (s.env.starts = [] → exec .startGrant s = .next s)
    ∧ (∀ x rest mask, s.env.starts = x :: rest → fits x.demand s = true → x.id = .stream mask →
      Yields .startGrant s fun t => t.env.starts = rest ∧ t.env.resv = s.env.resv ++ [(x.demand, s.now + 1000000)]
        ∧ ∀ e l, mask.getLsbD (engBit e) = true → (s.unit e).waits = true → curLaunch (s.unit e) = some l →
          ownMask e l.lockMask = mask → (t.unit e).permit = true ∧ (t.unit e).cur = (s.unit e).cur)
    ∧ (∀ x rest code q n, s.env.starts = x :: rest → fits x.demand s = true → x.id = .engine code →
      permitWaiter code s = some (q, n) →
      Yields .startGrant s fun t => t.env.starts = rest ∧ t.env.resv = s.env.resv ++ [(x.demand, s.now + 1000000)]
        ∧ t = runProg q n (modProg q n (fun p => { p with phase := .running })
            (reserve x.demand (s.modEnv fun e => { e with starts := rest }))))
    ∧ (∀ (pa : PAddr) h, (s.coh.held.any fun w => w.line == pa.toNat / 128 && w.acks.contains h) = true →
      Yields (.holderAcknowledge pa h) s fun t => ∃ u,
        t = drainNotices (settleSeqs (sendAcks (replayWaiting (releaseHeld (pa.toNat / 128) u))))
        ∧ (∀ w ∈ u.coh.held, w.line = pa.toNat / 128 → h ∉ w.acks)
        ∧ (u.coh.held.map fun w => (w.line, w.writes, w.tag)) = (s.coh.held.map fun w => (w.line, w.writes, w.tag))
        ∧ u.queues = s.queues ∧ u.hbm = s.hbm)
    ∧ (∀ (pa : PAddr) h, (s.coh.held.any fun w => w.line == pa.toNat / 128 && w.acks.contains h) = false →
      exec (.holderAcknowledge pa h) s = .next (drainNotices (settleSeqs (sendAcks s))))

/-- O27: In a package with power and clock. UPD_APPLY of a descriptor that starts and runs, whose table is valid, whose pages translate and whose reads have no poison, arms its idle engine as the update of that descriptor over the shard of its member, with no gradient taken. GRADIENT_DELIVERY of the next reduced element, its state arrived: it is accepted and counted as fed; with its state not arrived: the engine stalls from now on and counts it. STATE_ARRIVAL: what has arrived only grows, and a stall that waited for it ends. STALL_BOUND_EXPIRY after the bound: the reduce-scatter that waits ends with STATE_LATE. APPLY_STAGED with the whole shard staged and visible: STAGED is written, the apply counted, the engine freed, and the descriptor ends DONE. UPD_COMMIT of a descriptor that starts and runs and whose block reads well ends with the status and epoch of its outcome. -/
def Obligations.UpdateWorkTakesEffect : Prop :=
  (∀ (q : QueueId) (s : State) (f : Fetched) (rest : List Fetched),
      let t := running q f rest s
      let w := f.w
      let code := (s.queue q.val).code
      let u := code - 0x42
      Startable q opUpdApply f rest s → Permitted q s → engKind code = .update → (s.upd1 u).armed = none →
      exec (.updApply q) s = .next (armApply q.val f.n t)
      ∧ ∀ g segs s1 bs s2 maps s3 ep s4 rb s5, s.group (uGroup w) = some g →
        let sh := shardOf 1 (uCount w) g.members.length g.self
        let es := (chunk 128 (uEntries w) (bs.map Prod.fst)).map entryOf
        translateAll code (uTable w) (128 * uEntries w) false t = (segs, none, s1) →
        readSegs code false false segs s1 = (bs, s2) → bs.any Prod.snd = false →
        (es.all fun e => e.ok sh.1 sh.2) = true → entriesApart es = true →
        translateEach code (applyRanges w sh.1 sh.2 es) s2 = (none, maps, s3) →
        updRead u maps (uEpoch w) 8 s3 = (ep, s4) → ep.2 = false → withRbar u maps ep.1 es s4 = (rb, s5) → rb.2 = false →
        s.coll.runs = [] →
        Yields (.updApply q) s fun t => ∃ a, (t.upd1 u).armed = some a ∧ a.id = ⟨q.val, f.n⟩ ∧ (a.lo, a.hi) = sh
          ∧ a.pos = 0 ∧ a.paired = none ∧ a.bad = false ∧ a.epoch = w64 ep.1 ∧ a.entries = rb.1 ∧ a.stageVa = uStage w
          ∧ a.stallUs = (if uStall w = 0 then 2000 else uStall w))
    ∧ (∀ (q n : Nat) (t : State) (p : Prog) (g : GroupSt) (a : Armed), t.prog q n = some p → t.group (uGroup p.w) = some g →
      (t.upd1 ((t.queue q).code - 0x42)).armed = none → t.coll.runs = [] →
      ((armApply q n t).upd1 ((t.queue q).code - 0x42)).armed = some a →
      a.id = ⟨q, n⟩ ∧ a.group = uGroup p.w ∧ a.count = uCount p.w ∧ a.wVa = uW p.w ∧ a.stageVa = uStage p.w
      ∧ (a.lo, a.hi) = shardOf 1 (uCount p.w) g.members.length g.self ∧ a.pos = 0 ∧ a.slowTo = 0 ∧ a.fastTo = 0 ∧ a.bad = false
      ∧ a.stallUs = (if uStall p.w = 0 then 2000 else uStall p.w))
    ∧ (∀ (u : EngId) (bits : BitVec 32) (s : State) (a : Armed) (r : CollRun) (g : GroupSt), powered s = true →
      (s.upd1 u.val).armed = some a → s.coll.runs.find? (fun r => a.paired == some r.id && r.phase == .data) = some r →
      s.group r.group = some g → a.lo + a.pos < a.hi → dataComplete r = true → (r.acc.getD (a.lo + a.pos) (0, 0)).1 = bits.toNat →
      (∀ a' s1, a.present = true → acceptGradient u.val a (widen r.ty bits.toNat) s = (some a', s1) →
        Yields (.gradientDelivery u bits) s fun t => (t.upd1 u.val).armed = some a' ∧ a'.pos = a.pos + 1
          ∧ t.coll.runs = (s.coll.runs.map fun x => if x.id = r.id then { x with fed := x.fed + 1 } else x)
          ∧ t.hbm = s1.hbm ∧ t.coh = s1.coh ∧ t.queues = s1.queues)
      ∧ (a.present = false → (s.upd1 u.val).stall = none → Yields (.gradientDelivery u bits) s fun t =>
        t.upd1 u.val = { s.upd1 u.val with stall := some s.now, stalledBy := some r.id }
        ∧ bitOf (t.evBits (srcUpd u.val)) evUpdStall = true
        ∧ t.ctr (updCtr u.val 0x118) = w64 (min ((s.ctr (updCtr u.val 0x118)).toNat + 1) (2 ^ 64 - 1))
        ∧ t.coll = s.coll ∧ t.hbm = s.hbm ∧ t.coh = s.coh))
    ∧ (∀ (u : EngId) (upto : Nat) (s : State) (a : Armed), powered s = true → (s.upd1 u.val).armed = some a →
      Yields (.stateArrival u upto) s fun t =>
        (t.upd1 u.val).armed = some (a.arrive upto)
        ∧ a.slowTo ≤ (a.arrive upto).slowTo ∧ a.fastTo ≤ (a.arrive upto).fastTo
        ∧ (t.upd1 u.val).stall = (if a.paired.isSome = true ∧ (s.upd1 u.val).stalledBy = a.paired
            ∧ (a.arrive upto).present = true then none else (s.upd1 u.val).stall)
        ∧ t.queues = s.queues ∧ t.hbm = s.hbm ∧ t.coh = s.coh ∧ t.coll = s.coll)
    ∧ (∀ (u : EngId) (s : State) (x : Nat) (id : DescId) (r : CollRun) (g : GroupSt), powered s = true →
      (s.upd1 u.val).stall = some x → (s.upd1 u.val).stalledBy = some id → s.runOf id = some r → s.group r.group = some g →
      x + stallBound (s.upd1 u.val) * 1000 ≤ s.now → UnderWay r.id.q r.id.n s →
      exec (.stallBoundExpiry u) s = .next (startNext r.group (endEarly r stStateLate g.self .stateLate s))
      ∧ Yields (.stallBoundExpiry u) s fun t => ∃ v,
        t = startNext r.group (applyFollows r g.engine stStateLate (finishQueue r.id.q v))
        ∧ EndsWith r.id.q r.id.n stStateLate (failResult r g.self) v)
    ∧ (∀ (u : EngId) (s : State) (a : Armed) (p : Prog), powered s = true → (s.upd1 u.val).armed = some a →
      s.prog a.id.q a.id.n = some p → p.phase ≠ .ended →
      a.paired.isSome = true → a.hi ≤ a.lo + a.pos → tagClear (.desc a.id) s = true →
      (a.attach = false ∨ (p.flushed = true ∧ p.flushFail = false)) → p.flush = [] →
      let s1 := count (updCtr u.val 0x100) 1 (updWrite u.val a.maps a.id (a.epochVa + 8) 8 (stageWord 2 a.bad (a.epoch + 1)) s)
      exec (.applyStaged u) s = .next (settleSink u.val (endApply u.val a stDone
        (if a.bad then count (updCtr u.val 0x110) 1 s1 else s1)))
      ∧ Yields (.applyStaged u) s fun t => ∃ v, t = settleSink u.val (finishQueue a.id.q v) ∧ (v.upd1 u.val).armed = none
        ∧ EndsWith a.id.q a.id.n stDone (w64 (a.nonfinite * 2 ^ 40 + a.absurd * 2 ^ 16 + b2n a.bad)) v)
    ∧ (∀ (q : QueueId) (s : State) (f : Fetched) (rest : List Fetched),
      let t := running q f rest s
      let code := (s.queue q.val).code
      Startable q opUpdCommit f rest s → Permitted q s →
      exec (.updCommit q) s = .next (runCommit q.val f.n t)
      ∧ ∀ bs s1, vaRead code (dSrc f.w) 32 false false t = (.ok bs, s1) → bs.any Prod.snd = false →
        let b := bs.map Prod.fst
        let r := commitOutcome (wordAt f.w 4) (wordAt f.w 3) (leAt b 0 8) (leAt b 8 8) (leAt b 16 8)
        (r.2.1 = none ∨ (∃ off len v s2, r.2.1 = some (off, len, v) ∧ vaWrite code (dSrc f.w + off)
          ((leBytes len v).map fun b => (b, false)) false (.desc ⟨q.val, f.n⟩) s1 = (none, s2))) →
        Yields (.updCommit q) s fun t => ∃ v, t = finishQueue q.val v ∧ EndsWith q.val f.n r.1 (w64 r.2.2) v)

/-- O28: A commit whose FLAG is 0, whose EXPECT is the epoch, and whose stage word says STAGED, good and the next epoch, ends with status 0 and the epoch one higher. Whatever the block then holds besides its epoch, the same commit made again ends with status 0 and writes nothing. A commit that ends with any status leaves the epoch as it was or one above EXPECT, and only status 0 with a write advances it. A carried out commit that needs no write leaves the stage word and all memory as its read of the block left them. -/
def Obligations.CommitsAdvanceTheEpochOnce : Prop :=
  (∀ (expect : W64) (word1 skips : Nat), word1 / 2 ^ 62 = 2 → word1 / 2 ^ 61 % 2 = 0 → word1 % 2 ^ 61 = (expect + 1).toNat % 2 ^ 61 →
      commitOutcome 0 expect expect.toNat word1 skips = (stDone, some (0, 8, (expect + 1).toNat), (expect + 1).toNat)
      ∧ ∀ w1 sk, commitOutcome 0 expect (expect + 1).toNat w1 sk = (stDone, none, (expect + 1).toNat))
    ∧ (∀ (flag expect : W64) (epoch word1 skips : Nat),
      let r := commitOutcome flag expect epoch word1 skips
      (r.2.2 ≠ epoch → r.1 = stDone ∧ flag = 0 ∧ epoch = expect.toNat ∧ r.2.2 = (expect + 1).toNat ∧ r.2.1 = some (0, 8, r.2.2))
      ∧ (flag ≠ 0 → epoch = expect.toNat → r.1 = stSkipped ∧ r.2.2 = epoch)
      ∧ (epoch ≠ expect.toNat → epoch ≠ (expect + 1).toNat → r.1 = stEpochMismatch ∧ r.2.1 = none))
    ∧ (∀ (q n : Nat) (s s1 : State) (p : Prog) (bs : List (Byte × Bool)), s.prog q n = some p →
      vaRead (s.queue q).code (dSrc p.w) 32 false false s = (.ok bs, s1) → bs.any Prod.snd = false →
      let r := commitOutcome (wordAt p.w 4) (wordAt p.w 3) (leAt (bs.map Prod.fst) 0 8) (leAt (bs.map Prod.fst) 8 8) (leAt (bs.map Prod.fst) 16 8)
      r.2.1 = none → runCommit q n s = finishQueue q (endProg q n r.1 (w64 r.2.2) s1))

/-- O29: SLOT_OPEN, SLOT_CLOSE, KV_GATHER, KV_PUT and SAMPLE: a descriptor at the head of its queue that may start, with fewer than eight in progress and no slot in use by another, starts, is listed with the slots it names and runs. Running: SLOT_OPEN of a FREE slot opens it with the fields of the descriptor; SLOT_CLOSE of a slot that is not FREE frees it with its position as RESULT; any of them on a slot whose state does not allow it ends with SLOT_STATE and changes no slot; a gather or put whose rows all move lands, and once its data is visible ends; a SAMPLE goes through its list, and ends with the number of tokens chosen as RESULT; each token chosen for a slot advances its position by one. -/
def Obligations.SequenceDescriptorsRun : Prop :=
  (∀ (q : QueueId) (s : State) (f : Fetched) (rest : List Fetched) (slots : List Nat) (s0 : State),
      let h := seqOf s q.val
      let w := f.w
      let id : DescId := ⟨q.val, f.n⟩
      let go (op : Nat) : State := notePages id (dSrc w) (2 * slots.length)
        ((running q f rest s0).modSeq h fun x => { x with live := x.live ++ [{ id := id, op := op, slots := slots }] })
      let may (op : Nat) : Prop := Startable q op f rest s ∧ Startable q op f rest s0 ∧ Permitted q s0
        ∧ slotConflict h op slots s = false
      let ends (st : BitVec 16) (u t : State) : Prop := t = finishQueue q.val u ∧ ∃ v, EndsWith q.val f.n st v u
      (seqLive h s).length < 8 → namedSlots h q.val w s = (some (.ok slots), s0) → (∀ r ∈ (s.seq h).live, r.id ≠ id) →
      (∀ c op, (c, op) ∈ [(Instr.slotOpen q, opSlotOpen), (.slotClose q, opSlotClose), (.kvGather q, opKvGather),
        (.kvPut q, opKvPut), (.sample q, opSample)] → may op → exec c s = .next (runSeq q.val f.n (go op)))
      ∧ (may opSlotOpen → (s.slot h (sSlot w)).mode = .free → Yields (.slotOpen q) s fun t => ∃ u, ends stDone u t
        ∧ u.slot h (sSlot w) = openSlot w ∧ ∀ k, k ≠ sSlot w → u.slot h k = s.slot h k)
      ∧ (may opSlotClose → (s.slot h (sSlot w)).mode ≠ .free → Yields (.slotClose q) s fun t => ∃ u,
        t = finishQueue q.val u ∧ EndsWith q.val f.n stDone (w64 (s.slot h (sSlot w)).pos) u
        ∧ u.slot h (sSlot w) = { s.slot h (sSlot w) with mode := .free } ∧ ∀ k, k ≠ sSlot w → u.slot h k = s.slot h k)
      ∧ (∀ c op u, (c, op) ∈ [(Instr.kvGather q, opKvGather), (.kvPut q, opKvPut)] → may op → (∀ g ∈ slots, g / 128 = h) →
        (∀ g ∈ slots, (s.slot h (g % 128)).mode ≠ .free ∧ (op = opKvPut → (s.slot h (g % 128)).mode = .open)
          ∧ rowsFit w (s.slot h (g % 128)).capacity = true) →
        moveRows h id w slots (slots.length * sRows w) 0 (go op) = (.ok, u) → tagClear (.desc id) u = true →
        UnderWay q.val f.n u →
        Yields c s fun t => ∃ v, ends (if ((u.seq h).live.find? (fun x => x.id == id)).any SeqRun.poisoned then stPoisoned else stDone) v t
          ∧ v.hbm = u.hbm ∧ v.coh = u.coh)
      ∧ (∀ g k u, may opSample → slots = [g] → g / 128 = h → (s.slot h (g % 128)).mode ≠ .free → (s.seq h).en = false →
        sampleToken h id w 0 g (go opSample) = (.ok k, u) → Yields (.sample q) s fun t => ∃ v, t = finishQueue q.val v
          ∧ EndsWith q.val f.n stDone (w64 (b2n k.token.isSome)) v
          ∧ v.slot h (g % 128) = (advanceSlot h (g % 128) k s).slot h (g % 128)))
    ∧ (∀ (q n : Nat) (s : State) (p : Prog) (r : SeqRun),
      let h := seqOf s q
      s.prog q n = some p → (s.seq h).live.find? (fun r => r.id == (⟨q, n⟩ : DescId)) = some r → p.phase = .running → r.landing = none →
      r.id = ⟨q, n⟩ →
      (r.op = opSlotOpen → (s.slot h (sSlot p.w)).mode = .free →
        runSeq q n s = finishQueue q (endFree q n stDone (s.modSlot h (sSlot p.w) fun _ => openSlot p.w)))
      ∧ (r.op = opSlotOpen → (s.slot h (sSlot p.w)).mode ≠ .free → runSeq q n s = finishQueue q (endFree q n stSlotState s))
      ∧ (r.op = opSlotClose → (s.slot h (sSlot p.w)).mode ≠ .free → runSeq q n s = finishQueue q (endProg q n stDone
          (w64 (s.slot h (sSlot p.w)).pos) (s.modSlot h (sSlot p.w) fun x => { x with mode := .free })))
      ∧ (r.op = opSlotClose → (s.slot h (sSlot p.w)).mode = .free → runSeq q n s = finishQueue q (endFree q n stSlotState s))
      ∧ (∀ s1, r.op = opKvGather ∨ r.op = opKvPut → r.at_ = 0 → (∀ g ∈ r.slots, g / 128 = h) →
        (∀ g ∈ r.slots, (s.slot h (g % 128)).mode ≠ .free ∧ (r.op = opKvPut → (s.slot h (g % 128)).mode = .open)) →
        (∀ g ∈ r.slots, rowsFit p.w (s.slot h (g % 128)).capacity = true) →
        moveRows h r.id p.w r.slots (r.slots.length * sRows p.w) 0 s = (.ok, s1) →
        runSeq q n s = landSeq h r.id p.w (if ((s1.seq h).live.find? (fun x => x.id == r.id)).any SeqRun.poisoned then stPoisoned else stDone) s1)
      ∧ (r.op = opSample → r.at_ = 0 → r.token = none → (∀ g ∈ r.slots, g / 128 = h) → r.slots.eraseDups.length = r.slots.length →
        (∀ g ∈ r.slots, (s.slot h (g % 128)).mode ≠ .free) →
        runSeq q n s = sampleSlots h r.id p.w r.slots (r.slots.length + 1) 0 s))
    ∧ (∀ (h j : Nat) (tok : SeqToken) (s : State),
      (advanceSlot h j tok s).slot h j = (match tok.token with
        | none => s.slot h j
        | some t => { s.slot h j with
            pos := (s.slot h j).pos + 1, mode := if isStop (s.slot h j) t || (s.slot h j).pos + 1 == (s.slot h j).maxPos then .finished else (s.slot h j).mode }))

/-- O30: In a package with power and clock. SEQ_RING_CFG_WRITE while EN is 1 that keeps EN set leaves the ring as it was; any other write sets EN and LOG2, and a write that sets EN begins the count of records again. SEQ_RING_HEAD_WRITE sets the head from bits 16 to 0. With no descriptor live on the engine nothing else changes in either; otherwise the live descriptors go on. -/
def Obligations.TokenRingWritesAct : Prop :=
  ∀ (e : EngId) (v : W64) (s : State), powered s = true →
    let x := s.seq e.val
    (x.en = true → bitOf v 8 = true → exec (.seqRingCfgWrite e v) s = .next (resumeSeqs e.val (s.modSeq e.val fun _ => x)))
    ∧ ((x.en = false ∨ bitOf v 8 = false) → exec (.seqRingCfgWrite e v) s = .next (resumeSeqs e.val (s.modSeq e.val fun _ =>
        { x with en := bitOf v 8, log2 := fieldOf v 0 5, tail := if bitOf v 8 then 0 else x.tail })))
    ∧ exec (.seqRingHeadWrite e v) s = .next (resumeSeqs e.val (s.modSeq e.val fun _ => { x with head := fieldOf v 0 17 }))
    ∧ (x.live = [] → Yields (.seqRingHeadWrite e v) s fun t => t.seq e.val = { x with head := fieldOf v 0 17 }
      ∧ (∀ k, k ≠ e.val → t.seq k = s.seq k) ∧ { t with seqs := s.seqs } = s)
    ∧ (x.live = [] → Yields (.seqRingCfgWrite e v) s fun t => t.seq e.val = (if x.en = true ∧ bitOf v 8 = true then x
        else { x with en := bitOf v 8, log2 := fieldOf v 0 5, tail := if bitOf v 8 then 0 else x.tail })
      ∧ (∀ k, k ≠ e.val → t.seq k = s.seq k) ∧ { t with seqs := s.seqs } = s)

/-- O31: GREEDY: the token chosen from a row is the number of a logit that is not a NaN and not minus infinity, no valid logit is greater, and every valid logit of a lower token is less; there is a token whenever some logit is valid. SAMPLE: a token that the noise picks from candidates is one of them. -/
def Obligations.SampledTokensAreCandidates : Prop :=
  (∀ (l : List Nat) (w : DWords) (x : SlotSt) (s : State),
      let valid (t : Nat) : Prop := t < l.length ∧ (r32 (l.getD t 0)).isNan = false ∧ l.getD t 0 ≠ 0xFF800000
      sMode w = 0 → (∀ v ∈ l, v < 2 ^ 32) →
      ((∃ t, valid t) → ∃ t, (selectToken l w x s) = (some t, s) ∧ valid t
        ∧ (∀ k, valid k → ltF (r32 (l.getD t 0)) (r32 (l.getD k 0)) = false)
        ∧ (∀ k, valid k → k < t → ltF (r32 (l.getD k 0)) (r32 (l.getD t 0)) = true))
      ∧ ((∀ t, ¬ valid t) → selectToken l w x s = (none, s)))
    ∧ (∀ (cand ws : List Nat) (p u t : Nat), pickToken cand ws p u = some t → t ∈ cand)

/-- O32: In a package with power and clock, for a link that no command holds, with l its state. LINK_TRAINING_END of a Llynvan link at generation g + 1: UP from start-up, WITHDRAWN otherwise, at the lowest of that, the most allowed and 2. LINK_TRAINING_END without success, and LINK_DOWN of a link UP, WITHDRAWN or TRAINING: DOWN with cause 4 or the cause given, nothing sent or kept; where every packet it held had begun, those in flight are counted as lost, and LINK_DOWN is raised. AUTO_RETRAIN_ATTEMPT of a DOWN link after a second: TRAINING. LINK_DOWN of an Ethernet link: no rate, the state kept. WITHDRAW: WITHDRAWN, with the peer withdrawing. WITHDRAW_ACK: the withdrawal ends. RESTORE of a WITHDRAWN link: UP. Other links keep their state, generation, cause and peer throughout. -/
def Obligations.LinksTrainFailAndReturn : Prop :=
  ∀ (n : LinkId) (s : State),
    let l := s.link n.val
    let others (t : State) : Prop := ∀ k, k ≠ n.val → (t.link k).mode = (s.link k).mode ∧ (t.link k).gen = (s.link k).gen
      ∧ (t.link k).cause = (s.link k).cause ∧ (t.link k).peer = (s.link k).peer
    let isDown (cause : Byte) (t : State) : Prop := (t.link n.val).mode = .down ∧ (t.link n.val).cause = cause ∧ (t.link n.val).gen = 0
      ∧ (t.link n.val).tx = [] ∧ (t.link n.val).sent = [] ∧ (t.link n.val).downAt = s.now ∧ others t
      ∧ ((∀ v, v < 4 → ∀ p ∈ txOf l v, p.begun = true) →
        t.ctr (lostPacketCount n.val) = w64 (min ((s.ctr (lostPacketCount n.val)).toNat + l.inFlight.length) (2 ^ 64 - 1))
        ∧ bitOf (t.evBits srcLnk) evLinkDown = true)
    powered s = true → linkHeld n.val s = false →
    (∀ g : Fin 3, l.mode = .training → l.eth = false → Yields (.linkTrainingEnd n (some g)) s fun t =>
      (t.link n.val).mode = (if l.train = some .startup then .up else .withdrawn)
      ∧ (t.link n.val).gen = min (min (g.val + 1) l.maxGen) 2 ∧ others t ∧ t.mgr = s.mgr)
    ∧ (l.mode = .training → Yields (.linkTrainingEnd n none) s (isDown 4))
    ∧ (∀ c, l.mode = .up ∨ l.mode = .withdrawn ∨ l.mode = .training → Yields (.linkDown n c) s (isDown c))
    ∧ (∀ c, l.mode = .ethernet → Yields (.linkDown n c) s fun t => t.link n.val = { l with ethRate := 0 } ∧ others t
      ∧ { t with net := s.net } = s)
    ∧ (s.net.autoRetrain = true → l.mode = .down → l.lastTry + 1000000000 ≤ s.now → Yields (.autoRetrainAttempt n) s fun t =>
      (t.link n.val).mode = .training ∧ (t.link n.val).train = some .auto ∧ (t.link n.val).lastTry = s.now ∧ others t
      ∧ { t with net := s.net } = s)
    ∧ (l.mode = .up ∨ l.mode = .withdrawn → Yields (.withdraw n) s fun t =>
      (t.link n.val).mode = .withdrawn ∧ (t.link n.val).peerWithdrew = true ∧ others t)
    ∧ (l.withdrawing.isSome = true → Yields (.withdrawAck n) s fun t => t.link n.val = { l with withdrawing := none }
      ∧ others t ∧ { t with net := s.net } = s)
    ∧ (l.mode = .withdrawn → Yields (.restore n) s fun t => (t.link n.val).mode = .up ∧ (t.link n.val).withdrawing = none ∧ others t)

/-- O33: In a package with power and clock, on a link UP or WITHDRAWN. FLIT_RECEIVE of a flit that overlaps an uncorrectable codeword, or fails its CRC: the codewords not met before are counted, a CRC failure is counted, no lane gains a byte, the link expects the same FSEQ, and a retry is being asked for. A flit that passes is taken; a DATA flit of the FSEQ expected that completes no packet leaves the next FSEQ expected, its bytes on its lane and no retry asked for. RETRY_REQ within the limit: counted once, and the flits kept from the named FSEQ are sent again. RETRY_REQ_REPEAT 200 ns after the last request: it is sent again. IDENT: the four peer fields take its values and nothing else changes. CREDIT_STALL of a lane dry for STALL_MS: CREDIT_STALL is raised. -/
def Obligations.FlitsAreTakenOrReplayed : Prop :=
  ∀ (n : LinkId) (s : State), powered s = true →
    let l := s.link n.val
    let up : Prop := l.mode = .up ∨ l.mode = .withdrawn
    let plus (key k : Nat) (t : State) : Prop := t.ctr key = w64 (min ((s.ctr key).toNat + k) (2 ^ 64 - 1))
    let bad (words : List (Nat × Nat)) : Bool := words.any fun w => decide (7 < w.2)
    (∀ bytes words, up → (bad words = true ∨ leAt bytes 124 4 ≠ (crc32 (bytes.take 124)).toNat) →
      let new := words.filter fun w => decide (l.nextWord ≤ w.1)
      Yields (.flitReceive n bytes words) s fun t => (t.link n.val).rx = l.rx ∧ (t.link n.val).expect = l.expect
        ∧ (t.link n.val).sent = l.sent ∧ (t.link n.val).retryAt = (if l.retryAt.isSome then l.retryAt else some s.now)
        ∧ plus (fecUncorrCount n.val) (new.filter fun w => decide (7 < w.2)).length t
        ∧ plus (fecCorrCount n.val) (new.filter fun w => decide (0 < w.2) && decide (w.2 ≤ 7)).length t
        ∧ plus (crcErrCount n.val) (if bad words then 0 else 1) t
        ∧ t.hbm = s.hbm ∧ t.coh = s.coh ∧ t.mgr = s.mgr ∧ t.coll = s.coll)
    ∧ (∀ bytes words, up → bad words = false → leAt bytes 124 4 = (crc32 (bytes.take 124)).toNat →
      exec (.flitReceive n bytes words) s = .next (takeFlit n.val bytes (countWords n.val words s))
      ∧ (let h := leAt bytes 0 6
        let vl := h / 2 ^ 44 % 2 ^ 2
        let r := splitPackets 6 (laneBytes (Sparse.get [] l.rx vl) ((bytes.drop 6).take 118) (h % 2 ^ 7))
        h / 2 ^ 46 % 2 ^ 2 = 0 → h / 2 ^ 32 % 2 ^ 12 = l.expect → r.1 = [] →
        Yields (.flitReceive n bytes words) s fun t => (t.link n.val).expect = (l.expect + 1) % 4096
          ∧ (t.link n.val).retryAt = none ∧ Sparse.get [] (t.link n.val).rx vl = laneRest r.2
          ∧ (∀ v, v ≠ vl → Sparse.get [] (t.link n.val).rx v = Sparse.get [] l.rx v) ∧ (t.link n.val).mode = l.mode))
    ∧ (∀ f : BitVec 12, let recent := (l.replays.filter fun t => decide (s.now < t + 1000000)) ++ [s.now]
      up → recent.length ≤ s.net.retryLimit →
      exec (.retryReq n f) s = .next ((sentFrom l f.toNat).foldl (fun s x => putFlit n.val kindData x.vl x.fseq x.sop x.payload s)
        (count (retryCount n.val) 1 (s.modLink n.val fun l => { l with replays := recent })))
      ∧ Yields (.retryReq n f) s fun t => (t.link n.val).replays = recent ∧ plus (retryCount n.val) 1 t
        ∧ t.outbox.length = s.outbox.length + (sentFrom l f.toNat).length ∧ (t.link n.val).sent = l.sent
        ∧ (t.link n.val).nextFseq = l.nextFseq ∧ (t.link n.val).mode = l.mode)
    ∧ (∀ x, l.retryAt = some x → x + 200 ≤ s.now → Yields (.retryReqRepeat n) s fun t =>
      (t.link n.val).retryAt = some s.now ∧ (t.link n.val).expect = l.expect ∧ t.outbox.length = s.outbox.length + 1)
    ∧ (∀ node link gen part, Yields (.ident n node link gen part) s fun t =>
      t.link n.val = { l with peer := node, peerLink := link, peerGen := gen, peerPart := part }
      ∧ (∀ k, k ≠ n.val → t.link k = s.link k) ∧ { t with net := s.net } = s)
    ∧ (∀ v : Fin 4, let d := Sparse.get 0 l.dry v.val
      d ≠ 0 → d - 1 + s.net.stallMs * 1000000 ≤ s.now → Yields (.creditStall n v) s fun t =>
        bitOf (t.evBits srcLnk) evCreditStall = true ∧ { t with events := s.events, edges := s.edges } = s)

/-- O34: In a package with power and clock. PACKET_ROUTE at a package with a node ID: a packet for this node is delivered (a COLL packet joins those that have arrived); one for another, with a link to leave on, leaves with one hop less as that link's next packet; one with none is dropped, counted and raises DROP, and a dropped WRITE is answered UNREACHABLE; a packet of a reserved type is dropped and counted. No packet whose hops are spent, whose route is not valid or whose destination is unreachable finds a link, and the link found is always UP and in the route. NODE_DOWN for a node already marked changes nothing; otherwise the node and no other is marked unreachable and counted, NODE_DOWN is raised, every other UP link is told, writes to the node end, and collectives, permits and mailbox exchanges with it are ended. NODE_DOWN_TIMER of a node that is gone does the same and tells every UP link. -/
def Obligations.PacketsAreRoutedOrDropped : Prop :=
  (∀ (p : Packet) (from_ : Option LinkId) (s : State), powered s = true → s.node ≠ 0xFFFF → p.typ.toNat ≠ 0 → p.typ.toNat ≤ 5 →
      (p.dst = s.node → exec (.packetRoute from_ p) s = .next (deliver (from_.map Fin.val) p s))
      ∧ (p.dst = s.node → p.typ = typeColl → Yields (.packetRoute from_ p) s fun t =>
        t = { s with net := { s.net with arrived := s.net.arrived ++ [p] } })
      ∧ (∀ n, p.dst ≠ s.node → pickLink p s = some n → exec (.packetRoute from_ p) s = .next (sendOn n { p with hops := p.hops - 1 } s)
        ∧ Yields (.packetRoute from_ p) s fun t => (t.link n).nextSerial = (s.link n).nextSerial + 1 ∧ (t.link n).mode = .up
          ∧ (∀ k, k ≠ n → (t.link k).nextSerial = (s.link k).nextSerial) ∧ t.net.routes = s.net.routes
          ∧ t.queues = s.queues ∧ t.hbm = s.hbm ∧ t.coll = s.coll)
      ∧ (p.dst ≠ s.node → pickLink p s = none → exec (.packetRoute from_ p) s = .next (dropPacket p (noteDrop s)))
      ∧ (p.dst ≠ s.node → pickLink p s = none → p.typ ≠ typeWrite → Yields (.packetRoute from_ p) s fun t =>
        t.ctr dropCount = w64 (min ((s.ctr dropCount).toNat + 1) (2 ^ 64 - 1)) ∧ bitOf (t.evBits srcLnk) evDrop = true
        ∧ { t with counters := s.counters, events := s.events, edges := s.edges } = s))
    ∧ (∀ (p : Packet) (from_ : Option LinkId) (s : State), powered s = true → (p.typ.toNat = 0 ∨ 5 < p.typ.toNat) →
      exec (.packetRoute from_ p) s = .next (noteDrop s))
    ∧ (∀ (p : Packet) (s : State), (p.hops = 0 ∨ (s.route p.dst.toNat).valid = false ∨ (s.route p.dst.toNat).unreach = true) → pickLink p s = none)
    ∧ (∀ (p : Packet) (s : State) (n : Nat), pickLink p s = some n → n < 96 ∧ (s.link n).mode = .up
      ∧ ((s.route p.dst.toNat).prim.getLsbD n = true ∨ (s.route p.dst.toNat).sec.getLsbD n = true))
    ∧ (∀ (n : LinkId) (d : NodeId) (s : State), (s.route d.toNat).unreach = true → exec (.nodeDown n d) s = .next s)
    ∧ (∀ (n : LinkId) (d : NodeId) (s : State), powered s = true → (s.route d.toNat).unreach = false →
      let go (from_ : Option Nat) (marked : State) : State :=
        let told := ((upLinks marked).filter fun k => some k != from_).foldl (sendNodeDown d) marked
        let ended := (told.net.writes.filter fun o => o.node == d).foldl (fun s o => unreachable o.txn s) told
        fabricLost d (envNodeDown d (collNodeLost d ended))
      let lost (from_ : Option Nat) (t : State) : Prop := ∃ u, t = go from_ u ∧ (u.route d.toNat).unreach = true
        ∧ (∀ k, k ≠ d.toNat → u.route k = s.route k) ∧ bitOf (u.evBits srcLnk) evNodeDown = true
        ∧ u.ctr nodeDownCount = w64 (min ((s.ctr nodeDownCount).toNat + 1) (2 ^ 64 - 1))
        ∧ { u with net := s.net, counters := s.counters, events := s.events, edges := s.edges } = s
      Yields (.nodeDown n d) s (lost (some n.val))
      ∧ (nodeGone d s = true → Yields (.nodeDownTimer d) s (lost none)))

/-- O35: For each command, served alone with fields in range, on a link that no command holds: NODE_ID_SET with no group loaded sets the node ID and is answered OK; ROUTE_WRITE inline, marking no node unreachable anew, writes its entries and no others and is answered OK; ROUTE_READ answers entries; LINK_CONFIG to the mode the link is in sets the most it may train to; LINK_CONFIG of a link UP to another mode, LINK_WITHDRAW and LINK_RETRAIN of a link UP begin a withdrawal; LINK_RETRAIN of a link WITHDRAWN or DOWN trains; LINK_RESTORE of a WITHDRAWN link restores it and is answered OK. For every 32-byte entry layout: the entry decoded from the 32 bytes of an entry is that entry. After a write of n entries from a first node that marks no node unreachable anew, or while no collective runs, each of them reads as written, and every other entry reads as before. -/
def Obligations.LinkCommandsAndRoutes : Prop :=
  (∀ (m : MbxId) (s : State),
    let c := cmdAt m s
    let n := c.le 0 1
    let l := s.link n
    let free : Prop := n < 96 ∧ linkHeld n s = false
    let slotted : Prop := keepsMailbox c s = true ∨ (freeSlot? c.m s).isSome = true
    let withdrawing (t : State) : Prop := (t.link n).mode = .withdrawn ∧ (t.link n).withdrawing = some s.now
      ∧ (t.link n).peerWithdrew = false
    (Served m 0x0501 s → c.le 0 2 ≠ 0xFFFF → groupsLoaded s = false →
      Yields (.nodeIdSet m) s fun t => Answered m c.tag mbxOk 0 [] t ∧ t.node = BitVec.ofNat 16 (c.le 0 2))
    ∧ (Served m 0x0502 s → c.le 4 1 % 2 = 1 → c.le 2 2 ≠ 0 → c.le 2 2 ≤ 31 → c.le 0 2 + c.le 2 2 ≤ 65536 →
      (∀ k, k < c.le 2 2 → (routeOf ((c.pay.drop 16).drop (32 * k))).unreach = true → (s.route (c.le 0 2 + k)).unreach = true) →
      Yields (.routeWrite m) s fun t => Answered m c.tag mbxOk 0 [] t
        ∧ (∀ k, k < c.le 2 2 → t.route (c.le 0 2 + k) = routeOf ((c.pay.drop 16).drop (32 * k)))
        ∧ ∀ d, (d < c.le 0 2 ∨ c.le 0 2 + c.le 2 2 ≤ d) → t.route d = s.route d)
    ∧ (Served m 0x0503 s → c.le 2 2 ≠ 0 → c.le 2 2 ≤ 31 → c.le 0 2 + c.le 2 2 ≤ 65536 →
      Yields (.routeRead m) s fun t => Answered m c.tag mbxOk 0
        ((List.range (c.le 2 2)).flatMap fun k => (s.route (c.le 0 2 + k)).bytes) t ∧ t.net.routes = s.net.routes)
    ∧ (Served m 0x0504 s → free → slotted → c.le 1 1 = 0 → l.off = false → l.eth = false → c.le 2 1 ≠ 0 → c.le 2 1 ≤ 2 →
      Yields (.linkConfig m) s fun t => (t.link n).maxGen = c.le 2 1 ∧ (t.link n).mode = l.mode)
    ∧ (Served m 0x0504 s → free → slotted → c.le 1 1 = 2 → l.mode = .up → Yields (.linkConfig m) s withdrawing)
    ∧ (Served m 0x0505 s → free → l.mode = .up → Yields (.linkWithdraw m) s fun t => withdrawing t
      ∧ t.mgr.ops = s.mgr.ops ++ [⟨c.m, none, c.id, BitVec.ofNat 32 c.tag, c.pay, none⟩])
    ∧ (Served m 0x0506 s → free → slotted → l.mode = .up → Yields (.linkRetrain m) s withdrawing)
    ∧ (Served m 0x0506 s → free → slotted → l.mode = .withdrawn ∨ l.mode = .down →
      Yields (.linkRetrain m) s fun t => (t.link n).mode = .training ∧ (t.link n).gen = 0 ∧ (t.link n).lastTry = s.now)
    ∧ (Served m 0x0507 s → free → l.mode = .withdrawn →
      Yields (.linkRestore m) s fun t => Answered m c.tag mbxOk 0 [] t ∧ (t.link n).mode = .up ∧ (t.link n).withdrawing = none))
    ∧ ((∀ e : RouteEntry, e.bytes.length = 32 ∧ routeOf e.bytes = e)
    ∧ (∀ (first n : Nat) (bs : List Byte) (s : State),
      (s.coll.runs = [] ∨ ∀ k, k < n → (routeOf (bs.drop (32 * k))).unreach = true → (s.route (first + k)).unreach = true) →
      (∀ k, k < n → (writeRoutes first bs n s).route (first + k) = routeOf (bs.drop (32 * k)))
      ∧ (∀ d, (d < first ∨ first + n ≤ d) → (writeRoutes first bs n s).route d = s.route d)
      ∧ { writeRoutes first bs n s with net := s.net } = s))

/-- O36: On a port whose link runs Ethernet and is up, in a package with power and clock. ETH_FRAME_RECEIVE of a frame that is no RoCE frame of a valid queue pair: placed in the next raw entry when software has freed it, and one more frame written; dropped and counted when it has not, when it is longer than 9216 bytes or when there is no ring; a RoCE frame of a valid queue pair with no CE mark changes nothing, one with a mark sends a congestion notification, or keeps it while the RoCE priority is paused, at most once per 50 us. CNP_RECEIVE halves the queue pair's rate, to 1 Gb/s at least, and counts. ROCE_RATE_INCREASE after 100 us raises it by 1/64 of line rate, or to line rate. PFC_FRAME pauses the priorities it names that the port allows, or releases them and sends what waited. ETH_DOORBELL beyond the ring is ignored; one within sets the tail and fetches. -/
def Obligations.EthernetFramesAndRates : Prop :=
  ∀ (p : EthId) (s : State),
    let x := s.ethPort p.val
    let entry := x.rxVa + rawEntry * (x.rxCount % x.rxEntries)
    let r := rawWord p.val entry s
    powered s = true → ethUp s p.val = true →
    (∀ f bytes, (f = .other bytes ∨ ∃ q ce, f = .roce q ce bytes ∧ (s.qp p.val q.toNat).valid = false) →
      (bytes.length ≤ 9216 → x.rxEntries ≠ 0 →
        let w := ethWrite p.val (entry + 64) bytes r.2
        (r.1 = some 0 → w.1 = none →
          exec (.ethFrameReceive p f) s = .next (ethWrite p.val entry
            (leBytes 8 ((1 - x.rxCount / x.rxEntries % 2) * 2 ^ 63 + bytes.length))
            (w.2.modEth p.val fun x => { x with rxCount := x.rxCount + 1 })).2
          ∧ Yields (.ethFrameReceive p f) s fun t => t.ethPort p.val = { x with rxCount := x.rxCount + 1 }
            ∧ (∀ k, k ≠ p.val → t.ethPort k = s.ethPort k) ∧ t.net = s.net ∧ t.mgr = s.mgr ∧ t.coll = s.coll)
        ∧ (r.1 = some 0 → w.1 ≠ none → Yields (.ethFrameReceive p f) s (Counts (rxDropCount p.val) 1 w.2))
        ∧ (r.1 ≠ some 0 → Yields (.ethFrameReceive p f) s (Counts (rxDropCount p.val) 1 r.2)))
      ∧ (9216 < bytes.length ∨ x.rxEntries = 0 → Yields (.ethFrameReceive p f) s (Counts (rxDropCount p.val) 1 s)))
    ∧ (∀ (q : BitVec 12) bytes, (s.qp p.val q.toNat).valid = true →
      let due : Prop := ∀ t, (s.qp p.val q.toNat).lastCnpTx = some t → t + 50000 ≤ s.now
      exec (.ethFrameReceive p (.roce q false bytes)) s = .next s
      ∧ (¬ due → exec (.ethFrameReceive p (.roce q true bytes)) s = .next s)
      ∧ (due → Yields (.ethFrameReceive p (.roce q true bytes)) s fun t =>
        (t.qp p.val q.toNat) = { s.qp p.val q.toNat with lastCnpTx := some s.now }
        ∧ t.ctr (cnpTxCount p.val) = w64 (min ((s.ctr (cnpTxCount p.val)).toNat + 1) (2 ^ 64 - 1))
        ∧ (if prioPaused s p.val (rocePrio s p.val)
          then t.outbox = s.outbox ∧ (t.ethPort p.val).waiting = x.waiting ++ [(rocePrio s p.val, .cnp p q)]
          else t.outbox = s.outbox ++ [.cnp p q] ∧ (t.ethPort p.val).waiting = x.waiting)))
    ∧ (∀ offset, exec (.ethFrameReceive p (.ptp offset)) s = .next (measuredBy srcPtp p.val offset s))
    ∧ (∀ q : BitVec 12, let y := s.qp p.val q.toNat
      y.valid = true → Yields (.cnpReceive p q) s fun t =>
        t.qp p.val q.toNat = { y with rate := max 1000 ((if y.rate = 0 then lineRate s p.val else y.rate) / 2), lastCnpRx := s.now }
        ∧ (∀ k, k ≠ q.toNat → t.qp p.val k = s.qp p.val k)
        ∧ t.ctr (cnpRxCount p.val) = w64 (min ((s.ctr (cnpRxCount p.val)).toNat + 1) (2 ^ 64 - 1)))
    ∧ (∀ q : BitVec 12, let y := s.qp p.val q.toNat
      let r := y.rate + lineRate s p.val / 64
      y.rate ≠ 0 → y.lastCnpRx + 100000 ≤ s.now → Yields (.roceRateIncrease p q) s fun t =>
        t.qp p.val q.toNat = { y with rate := if lineRate s p.val ≤ r then 0 else r, lastCnpRx := s.now }
        ∧ { t with eth := s.eth } = s)
    ∧ (∀ mask : BitVec 8, Yields (.pfcFrame p mask true) s fun t =>
        t.ethPort p.val = { x with paused := x.paused ||| (mask &&& x.pfcMask) } ∧ { t with eth := s.eth } = s)
    ∧ (∀ mask : BitVec 8, let left := x.paused &&& ~~~ mask
        x.qps = [] → Yields (.pfcFrame p mask false) s fun t =>
        t.ethPort p.val = { x with paused := left, waiting := x.waiting.filter fun e => left.getLsbD e.1 }
        ∧ t.outbox = s.outbox ++ (x.waiting.filter fun e => !left.getLsbD e.1).map Prod.snd
        ∧ { t with eth := s.eth, outbox := s.outbox } = s)
    ∧ (∀ v : W64, let q := fieldOf v 0 12
      let y := s.qp p.val q
      let ahead := (fieldOf v 16 13 + 2 * y.sqEntries - y.head % (2 * y.sqEntries)) % (2 * y.sqEntries)
      let rung : QpSt := { y with tail := fieldOf v 16 13, stale := false, tries := if y.stale then 0 else y.tries }
      y.valid = true → y.sqEntries ≠ 0 →
      (y.sqEntries < ahead → exec (.ethDoorbell p v) s = .next s)
      ∧ (ahead ≤ y.sqEntries → exec (.ethDoorbell p v) s = .next (fetchAll p (BitVec.ofNat 12 q) (s.modQp p.val q fun _ => rung))
        ∧ Yields (.ethDoorbell p v) s fun t => (t.qp p.val q).tail = fieldOf v 16 13 ∧ (t.qp p.val q).valid = true
          ∧ (t.qp p.val q).sqVa = y.sqVa ∧ t.net = s.net ∧ t.mgr = s.mgr ∧ t.coll = s.coll
          ∧ (ahead = 0 → t.qp p.val q = rung)))

/-- O37: With power and clock. RDMA_NAK, RDMA_RETRY_EXCEEDED with work outstanding: the oldest ends with RDMA_REMOTE or RDMA_RETRY, one record more is written for each that was outstanding, and the queue pair enters the error state with nothing outstanding. RDMA_RESPONSE_RECEIVE: an acknowledgement ends the oldest with status 0; read data is written at the local address first. RDMA_REQUEST_RECEIVE at a valid queue pair without error: a write or read to a range its key grants takes effect, takes its packets of the sequence and is answered; one outside is answered with NAK 0x62 and changes no memory; another opcode is answered with NAK 0x61. ETH_CONFIG, RDMA_QP_SET and RDMA_MR_REG, served alone in range, set the port, the queue pair and the region, and are answered OK. -/
def Obligations.RdmaWorkAndRequests : Prop :=
  (∀ (p : EthId) (q : BitVec 12) (s : State) (r : WorkReq) (rest : List WorkReq),
      let y := s.qp p.val q.toNat
      powered s = true → y.out = r :: rest →
      let s1 := s.modQp p.val q.toNat fun x => { x with out := rest }
      let broken (t : State) : Prop := (t.qp p.val q.toNat).error = true ∧ (t.qp p.val q.toNat).out = []
        ∧ (t.qp p.val q.toNat).written = y.written + rest.length + 1 ∧ (∀ k, k ≠ p.val → t.ethPort k = s.ethPort k)
      let served (t : State) : Prop := t.qp p.val q.toNat = { y with out := rest, written := y.written + 1 }
        ∧ ∀ k, k ≠ p.val → t.ethPort k = s.ethPort k
      (∀ z, exec (.rdmaNak p q z) s = .next (qpError p.val q.toNat (endWork p.val q.toNat r stRdmaRemote z.toNat s1))
        ∧ Yields (.rdmaNak p q z) s broken)
      ∧ exec (.rdmaRetryExceeded p q) s = .next (qpError p.val q.toNat (endWork p.val q.toNat r stRdmaRetry 0 s1))
      ∧ Yields (.rdmaRetryExceeded p q) s broken
      ∧ (dOpcode r.w ≠ 3 → exec (.rdmaResponseReceive p q .ack) s = .next (endWork p.val q.toNat r stDone 0 s1)
        ∧ Yields (.rdmaResponseReceive p q .ack) s served)
      ∧ (∀ data, dOpcode r.w = 3 →
        let w := ethWrite p.val (wrLocal r.w) (data.take (wrLength r.w)) s1
        (w.1 = none → exec (.rdmaResponseReceive p q (.readData data)) s = .next (endWork p.val q.toNat r stDone 0 w.2))
        ∧ Yields (.rdmaResponseReceive p q (.readData data)) s served))
    ∧ (∀ (p : EthId) (q : BitVec 12) (s : State), let y := s.qp p.val q.toNat
      powered s = true → y.valid = true → y.error = false →
      let nak (c : Byte) (t : State) : Prop := t = roceSend p.val (.rdmaNak p q c) s
      let took (n : Nat) (o : Output) (t : State) : Prop := ∃ u, t = roceSend p.val o u
        ∧ u.qp p.val q.toNat = { y with rqPsn := y.rqPsn + BitVec.ofNat 32 (packetsOf y n) }
        ∧ (∀ k, k ≠ p.val → u.ethPort k = s.ethPort k) ∧ u.net = s.net ∧ u.mgr = s.mgr ∧ u.coll = s.coll
      Yields (.rdmaRequestReceive p q .unsupported) s (nak 0x61)
      ∧ (∀ va key data, regionGrants key va.toNat data.length true s = false →
        Yields (.rdmaRequestReceive p q (.write va key data)) s (nak 0x62)
        ∧ ∀ imm, Yields (.rdmaRequestReceive p q (.writeImm va key data imm)) s (nak 0x62))
      ∧ (∀ va key n, regionGrants key va.toNat n false s = false → Yields (.rdmaRequestReceive p q (.read va key n)) s (nak 0x62))
      ∧ (∀ va key data, let w := ethWrite p.val va.toNat data s
        regionGrants key va.toNat data.length true s = true → w.1 = none →
        exec (.rdmaRequestReceive p q (.write va key data)) s
          = .next (roceSend p.val (.rdmaResponse p q .ack) (bumpRq p.val q.toNat data.length w.2))
        ∧ Yields (.rdmaRequestReceive p q (.write va key data)) s (took data.length (.rdmaResponse p q .ack))
        ∧ ∀ imm, exec (.rdmaRequestReceive p q (.writeImm va key data imm)) s = .next (roceSend p.val (.rdmaResponse p q .ack)
          (qpRecord p.val q.toNat 0x81 0 stDone 0 imm.toNat (bumpRq p.val q.toNat data.length w.2))))
      ∧ (∀ va key n bs, let w := ethRead p.val va.toNat n s
        regionGrants key va.toNat n false s = true → w.1 = .ok bs → bs.any Prod.snd = false →
        Yields (.rdmaRequestReceive p q (.read va key n)) s (took n (.rdmaResponse p q (.readData (bs.map Prod.fst))))))
    ∧ (∀ (m : MbxId) (s : State),
      let c := cmdAt m s
      let region (k : Nat) (t : State) : MemRegion := Sparse.get ({} : MemRegion) t.eth.regions k
      let only (k : Nat) (t : State) : Prop := (∀ j, j ≠ k → region j t = region j s) ∧ t.eth.ports = s.eth.ports
      (Served m 0x0508 s → c.le 0 1 < 16 → Yields (.ethConfig m) s fun t => Answered m c.tag mbxOk 0 [] t
        ∧ (t.ethPort (c.le 0 1)).configured = true ∧ (t.ethPort (c.le 0 1)).rxVa = c.le 32 8 ∧ (t.ethPort (c.le 0 1)).txVa = c.le 48 8
        ∧ (t.ethPort (c.le 0 1)).pfcMask = BitVec.ofNat 8 (c.le 26 1) ∧ (∀ k, k ≠ c.le 0 1 → t.ethPort k = s.ethPort k))
      ∧ (Served m 0x0509 s → c.le 21 1 = 1 → (region (c.le 16 4) s).valid = true →
        Yields (.rdmaMrReg m) s fun t => Answered m c.tag mbxOk 0 (leBytes 4 (c.le 16 4)) t
          ∧ region (c.le 16 4) t = {} ∧ only (c.le 16 4) t)
      ∧ (Served m 0x0509 s → c.le 21 1 = 0 → c.le 8 8 ≠ 0 → c.le 0 8 + c.le 8 8 ≤ 2 ^ 52 → s.eth.regions.length < 65536 →
        (rangePinned (c.le 0 8) (c.le 8 8) (taken s)).1 = true →
        Yields (.rdmaMrReg m) s fun t => Answered m c.tag mbxOk 0 (leBytes 4 (newKey s).toNat) t
          ∧ region (newKey s).toNat t = ⟨c.le 0 8, c.le 8 8, c.le 20 1 % 2 == 1, c.le 20 1 / 2 % 2 == 1, true⟩ ∧ only (newKey s).toNat t)
      ∧ (Served m 0x050A s → c.le 0 1 < 16 → c.le 2 2 < 4096 → c.le 60 1 = 0 → c.le 30 1 ≠ 0 → c.le 30 1 ≤ 3 → c.le 31 1 ≤ 7 →
        64 ≤ c.le 40 2 → c.le 40 2 ≤ 4096 → 6 ≤ c.le 42 2 → c.le 42 2 ≤ 16 →
        Yields (.rdmaQpSet m) s fun t => Answered m c.tag mbxOk 0 [] t ∧ (t.qp (c.le 0 1) (c.le 2 2)).valid = true
          ∧ (t.qp (c.le 0 1) (c.le 2 2)).sqVa = c.le 32 8 ∧ (t.qp (c.le 0 1) (c.le 2 2)).mtu = 512 * 2 ^ c.le 30 1
          ∧ (t.qp (c.le 0 1) (c.le 2 2)).out = [] ∧ (t.qp (c.le 0 1) (c.le 2 2)).head = 0)
      ∧ (Served m 0x050A s → c.le 0 1 < 16 → c.le 2 2 < 4096 → c.le 60 1 = 1 →
        Yields (.rdmaQpSet m) s fun t => Answered m c.tag mbxOk 0 [] t ∧ t.qp (c.le 0 1) (c.le 2 2) = {}))

/-- O38: With power and clock. WIN_BASE_WRITE beyond the pool raises BAD_BASE and leaves the base; another sets it. With the link up and the bytes inside the BAR: WINDOW_READ before the pool is ready is answered Unsupported Request and counted as a failed request; after, it reads the pool as a requester of the port's half and sends the data, with EP set when a sector was poisoned; WINDOW_WRITE before the pool is ready is counted and stores nothing; with EP set it stores nothing and counts received poison; otherwise its bytes are written to the pool, and nothing but the pool and its counters changes. PORT_LINK_UP of a port that was down records width, rate and, at 32 and 64 GT/s only, CXL. PORT_LINK_DOWN and PORT_HOT_RESET clear the link, Bus Master Enable, MSI-X enable, the BARs and the host-line cache. -/
def Obligations.WindowAccessesAndPortEvents : Prop :=
  ∀ (p : PortId) (s : State), powered s = true →
    let x := s.port p.val
    let failed (t : State) : Prop := t.ctr (reqFailCount p.val) = w64 (min ((s.ctr (reqFailCount p.val)).toNat + 1) (2 ^ 64 - 1))
      ∧ bitOf (t.evBits srcWin) 4 = true ∧ { t with counters := s.counters, events := s.events, edges := s.edges, outbox := s.outbox } = s
    (∀ v : W64, (maxWinBase < fieldOf v 26 26 → Yields (.winBaseWrite p v) s fun t =>
        bitOf (t.evBits srcWin) evBadBase = true ∧ { t with events := s.events, edges := s.edges } = s)
      ∧ (fieldOf v 26 26 ≤ maxWinBase → Yields (.winBaseWrite p v) s fun t => t.port p.val = { x with winBase := fieldOf v 26 26 }
        ∧ (∀ k, k ≠ p.val → t.port k = s.port k) ∧ { t with host := s.host } = s))
    ∧ (∀ (off : BitVec 32) (n : Nat), x.linkUp = true → off.toNat + n ≤ 0x100000000 →
      (s.boot.poolReady = false → Yields (.windowRead p off n) s fun t => failed t ∧ t.outbox = s.outbox ++ [.unsupported p n])
      ∧ (s.boot.poolReady = true →
        let r := poolRead (codePort p.val) (windowAddr p.val off.toNat s) n false false s
        let bad := r.1.any Prod.snd
        Yields (.windowRead p off n) s fun t =>
          t.outbox = s.outbox ++ [.completion p (r.1.map fun b => if b.2 then 0xFF else b.1) bad]
          ∧ (t.port p.val).aerSent = (x.aerSent || bad) ∧ t.hbm = r.2.hbm ∧ t.coh = r.2.coh ∧ t.queues = s.queues ∧ t.xlt = s.xlt
          ∧ t.ctr (readBytesCount p.val) = w64 (min ((r.2.ctr (readBytesCount p.val)).toNat + n) (2 ^ 64 - 1))
          ∧ t.ctr (poisonTxCount p.val) = w64 (min ((r.2.ctr (poisonTxCount p.val)).toNat + if bad then 1 else 0) (2 ^ 64 - 1))))
    ∧ (∀ (off : BitVec 32) (d : List Byte) (ep : Bool), x.linkUp = true → off.toNat + d.length ≤ 0x100000000 →
      (s.boot.poolReady = false → Yields (.windowWrite p off d ep) s failed)
      ∧ (s.boot.poolReady = true → ep = true → Yields (.windowWrite p off d ep) s fun t =>
        t.hbm = s.hbm ∧ t.coh = s.coh ∧ (t.port p.val).aerReceived = true ∧ bitOf (t.evBits srcWin) evPoisonRx = true
        ∧ t.ctr (poisonRxCount p.val) = w64 (min ((s.ctr (poisonRxCount p.val)).toNat + 1) (2 ^ 64 - 1)))
      ∧ (s.boot.poolReady = true → ep = false → exec (.windowWrite p off d ep) s
          = .next (poolWrite (windowAddr p.val off.toNat s) d .none (count (writeBytesCount p.val) d.length s))
        ∧ Yields (.windowWrite p off d ep) s fun t => t.host = s.host ∧ t.xlt = s.xlt ∧ t.outbox = s.outbox ∧ t.queues = s.queues
          ∧ t.mgr = s.mgr ∧ t.net = s.net ∧ t.arrays = s.arrays ∧ t.vecs = s.vecs))
    ∧ (∀ w r c, x.linkUp = false → Yields (.portLinkUp p w r c) s fun t =>
      (t.port p.val).linkUp = true ∧ (t.port p.val).width = w.toNat ∧ (t.port p.val).rate = r.toNat
      ∧ (t.port p.val).cxl = (if 3 ≤ r.toNat then c.toNat else 0) ∧ bitOf (t.evBits srcWin) evPortUp = true
      ∧ (∀ k, k ≠ p.val → t.port k = s.port k))
    ∧ (∀ w r c, x.linkUp = true → exec (.portLinkUp p w r c) s = .next s)
    ∧ (let down (t : State) : Prop := (t.port p.val).linkUp = false ∧ (t.port p.val).bme = false ∧ (t.port p.val).msixEnable = false
        ∧ (t.port p.val).bar0 = 0 ∧ (t.port p.val).bar2 = 0
        ∧ (t.port p.val).cache = [] ∧ (t.port p.val).winBase = x.winBase ∧ (∀ k, k ≠ p.val → t.port k = s.port k)
        ∧ (x.linkUp = true → bitOf (t.evBits srcWin) evPortDown = true)
        ∧ { t with host := s.host, events := s.events, edges := s.edges } = s
      Yields (.portLinkDown p) s down ∧ Yields (.portHotReset p) s down)

/-- O39: With power and clock. HOST_SNOOP drops the line named from the port's host-line cache and counts. ATTACH_READ_COMPLETION with data: the data is what attach-host memory is last seen to hold; with poison, or an error status, the sectors are poisoned from then on, and it is counted. COMPLETION_TIMEOUT of a read does the same as an error. MSIX_PENDING_SEND of a pending message that may be sent sends it and clears its bit. CONFIGURATION_REQUEST over a link that is up is retried before the boot ROM serves; after, a read of offset 0 gives the vendor and device of the port, a read of the serial number capability's dwords (at the model's offset, log 103) gives the fused serial number at either port, and writes set Bus Master Enable, the MSI-X bits and the BARs. -/
def Obligations.AttachHostAndMessages : Prop :=
  ∀ (p : PortId) (s : State), powered s = true →
    let x := s.port p.val
    let plus (key : Nat) (t : State) : Prop := t.ctr key = w64 (min ((s.ctr key).toNat + 1) (2 ^ 64 - 1))
    let poisoned (a n key ev : Nat) (t : State) : Prop := (∀ k, Sparse.get false t.host.poison k
        = (decide (k ∈ sectorsOf a n) || Sparse.get false s.host.poison k))
      ∧ t.host.mem = s.host.mem ∧ t.host.ports = s.host.ports ∧ plus key t ∧ bitOf (t.evBits srcWin) ev = true
      ∧ { t with host := s.host, counters := s.counters, events := s.events, edges := s.edges } = s
    let sends (o : Output) (t : State) : Prop := t.outbox = s.outbox ++ [o] ∧ { t with outbox := s.outbox } = s
    (∀ a : BitVec 43, Yields (.hostSnoop p a) s fun t =>
      t.port p.val = { x with cache := x.cache.filter fun l => l.1 != (apertureBase + a.toNat) / 64 }
      ∧ (∀ k, k ≠ p.val → t.port k = s.port k) ∧ plus (snoopCount p.val) t)
    ∧ (∀ (a : BitVec 43) data str, (str = true ∨ x.cacheEn = false) →
      exec (.attachReadCompletion p a data .ok str) s = .next (hostSeen (apertureBase + a.toNat) data s))
    ∧ (∀ (a : BitVec 43) data str, Yields (.attachReadCompletion p a data .ok str) s fun t =>
      t.host.mem = s.host.mem.writeN (apertureBase + a.toNat) data ∧ { t with host := s.host } = s)
    ∧ (∀ (a : Nat) (data : List Byte), (hostSeen a data s).host.mem = s.host.mem.writeN a data
      ∧ { hostSeen a data s with host := s.host } = s)
    ∧ (∀ (a : BitVec 43) data str, Yields (.attachReadCompletion p a data .poisoned str) s
      (poisoned (apertureBase + a.toNat) data.length (poisonRxCount p.val) evPoisonRx))
    ∧ (∀ (a : BitVec 43) data st str, st ≠ .ok → st ≠ .poisoned → Yields (.attachReadCompletion p a data st str) s
      (poisoned (apertureBase + a.toNat) data.length (reqFailCount p.val) 4))
    ∧ (∀ a n, Yields (.completionTimeout p (.hostRead a n)) s (poisoned (apertureBase + a) n (reqFailCount p.val) 4))
    ∧ (∀ q, exec (.completionTimeout p (.flushRead q)) s = .next (flushDone q.val p false s))
    ∧ (∀ v : BitVec 8, Sparse.get false x.pba v.toNat = true → canSendMsix s p.val v.toNat = true →
      Yields (.msixPendingSend p v) s fun t => t.outbox = s.outbox ++ [.msix p v.toNat]
        ∧ (∀ k, Sparse.get false (t.port p.val).pba k = if k = v.toNat then false else Sparse.get false x.pba k))
    ∧ (x.linkUp = true → (s.boot.stage ≤ 1 → ∀ r, Yields (.configurationRequest p r) s (sends (.retryStatus p)))
      ∧ (1 < s.boot.stage →
        let port (y : PortSt) (t : State) : Prop := t.port p.val = y ∧ (∀ k, k ≠ p.val → t.port k = s.port k) ∧ { t with host := s.host } = s
        Yields (.configurationRequest p (.read 0)) s (sends (.completion p (leBytes 4 ((0x0920 + p.val) * 65536 + 0x1E9B)) false))
        ∧ (∀ off : BitVec 12, (off.toNat = dsnAt + 4 → Yields (.configurationRequest p (.read off)) s
            (sends (.completion p (leBytes 4 (fieldOf Config.fuseSerial 0 32)) false)))
          ∧ (off.toNat = dsnAt + 8 → Yields (.configurationRequest p (.read off)) s
            (sends (.completion p (leBytes 4 (fieldOf Config.fuseSerial 32 32)) false))))
        ∧ (∀ on, Yields (.configurationRequest p (.writeBusMaster on)) s (port { x with bme := on }))
        ∧ (∀ en mask, Yields (.configurationRequest p (.writeMsix en mask)) s (port { x with msixEnable := en, functionMask := mask }))
        ∧ (∀ bar2 high v, Yields (.configurationRequest p (.writeBar bar2 high v)) s (port (barWrite bar2 high v x)))))

/-- O40: With power and clock. TIME_SYNC_SEND 62.5 ms after the last, LOCKED or in HOLDOVER with a node ID and the manager's roles served: one packet more is queued on every UP link, whose transmit timestamp is kept, and no other link gets one. TIME_SYNC_MESSAGE on an UP link, a PTP frame and PPS_EDGE with a PPS source are measurements of their source, the edge advancing the second it marks. A measurement above 1 us of a LOCKED source ten in a row loses the lock and counts it; one within 1 us locks; the first one ever sets device time, in one step with every queue DISABLED. PPS_OUT_EDGE in a new second raises the pin. DEVICE_TIME_COMPARE 1000 cycles after the last leaves the halves within 2 ns. TIME_SOURCE_SET replaces the list; TIME_STEP moves device time by its offset. -/
def Obligations.DeviceTimeFollowsItsSources : Prop :=
  (∀ s : State, 2 ≤ timeState s → s.node ≠ 0xFFFF → fwRoles s = true → s.time.lastSync + 62500000 ≤ s.ticks →
      Yields .timeSyncSend s fun t => t.time = { s.time with lastSync := s.ticks }
        ∧ (∀ n, n < 96 → (s.link n).mode = .up → (t.link n).syncAt = s.now ∧ (t.link n).nextSerial = (s.link n).nextSerial + 1)
        ∧ (∀ n, (s.link n).mode ≠ .up → (t.link n).syncAt = (s.link n).syncAt ∧ (t.link n).nextSerial = (s.link n).nextSerial)
        ∧ { t with outbox := s.outbox, net := s.net, time := s.time } = s)
    ∧ (∀ (i : Nat) (off : Int) (s : State) (x : TimeSrc), s.time.srcs[i]? = some x → s.time.set = true → powered s = true →
      let reading (off : Int) (t : State) : Prop :=
        (off.natAbs ≤ 1000 → (t.time.srcs[i]?).map TimeSrc.locked = some true)
        ∧ (1000 < off.natAbs → x.locked = true → x.bad < 9 → t.time.srcs[i]? = some { x with bad := x.bad + 1 })
        ∧ (1000 < off.natAbs → x.locked = true → 9 ≤ x.bad → t.time.srcs[i]? = some { x with locked := false, bad := 0 }
          ∧ t.ctr lockLossCount = w64 (min ((s.ctr lockLossCount).toNat + 1) (2 ^ 64 - 1)) ∧ bitOf (t.evBits srcTime) evTimeLockLost = true)
        ∧ { t with time := s.time, net := s.net, outbox := s.outbox, counters := s.counters, events := s.events, edges := s.edges } = s
      reading off (measured i off s)
      ∧ (∀ n : LinkId, (s.link n.val).mode = .up → (s.time.srcs.findIdx? fun x => x.kind == srcFabric && (srcFabric == srcPps || x.port == n.val)) = some i →
        Yields (.timeSyncMessage n off) s (reading off))
      ∧ ((s.time.srcs.findIdx? fun x => x.kind == srcPps && (srcPps == srcPps || x.port == 0)) = some i → Yields (.ppsEdge true off) s fun t => reading off t
        ∧ t.time.ppsSecond = s.time.ppsSecond + 1000000000)
      ∧ (∀ p : EthId, ethUp s p.val = true → (s.time.srcs.findIdx? fun x => x.kind == srcPtp && (srcPtp == srcPps || x.port == p.val)) = some i →
        Yields (.ethFrameReceive p (.ptp off)) s (reading off)))
    ∧ (∀ (n : LinkId) (off : Int) (s : State), powered s = true → (s.link n.val).mode = .up →
      exec (.timeSyncMessage n off) s = .next (measuredBy srcFabric n.val off
        (if timeState s < 2 ∧ s.node ≠ 0xFFFF then sendTimeSync n.val s else s)))
    ∧ (∀ (i : Nat) (off : Int) (s : State) (x : TimeSrc), s.time.srcs[i]? = some x → s.time.set = false → x.locked = false →
      (measured i off s).time.set = true ∧ (allDisabled s = true → (measured i off s).now = ((s.now : Int) + off).toNat)
      ∧ (allDisabled s = false → (measured i off s).now = s.now))
    ∧ (∀ s : State, powered s = true → s.now / 1000000000 ≠ s.time.lastPps / 1000000000 → Yields .ppsOutEdge s fun t =>
      t.pins.ppsOut = true ∧ t.pins.ppsUntil = s.now / 1000000000 * 1000000000 + 100000000 ∧ t.time = { s.time with lastPps := s.now }
      ∧ { t with time := s.time, pins := s.pins } = s)
    ∧ (∀ (d : Int) (s : State), powered s = true → s.time.lastCompare + 1000 ≤ s.ticks → Yields (.deviceTimeCompare d) s fun t =>
      -2 ≤ t.time.halfB ∧ t.time.halfB ≤ 2 ∧ (-2 ≤ s.time.halfB + d → s.time.halfB + d ≤ 2 → t.time.halfB = s.time.halfB + d)
      ∧ t.time.lastCompare = s.ticks ∧ { t with time := s.time, cores := s.cores } = s)
    ∧ (∀ (m : MbxId) (s : State), let c := cmdAt m s
      (Served m 0x0301 s → 1 ≤ c.le 0 1 → c.le 0 1 ≤ 4 → badEntry c (c.le 0 1) = none → Yields (.timeSourceSet m) s fun t =>
        Answered m c.tag mbxOk 0 [] t ∧ t.time.ppsSecond = c.le 40 8 ∧ t.time.active = none ∧ t.now = s.now
        ∧ t.time.srcs = (List.range (c.le 0 1)).map fun k => { kind := (timeEntry c k).1, port := (timeEntry c k).2 })
      ∧ (Served m 0x0302 s → 0 ≤ (s.now : Int) + sext 64 (c.le 0 8) → (s.now : Int) + sext 64 (c.le 0 8) < 2 ^ 64 → allDisabled s = true →
        Yields (.timeStep m) s fun t => Answered m c.tag mbxOk 0 [] t ∧ (t.now : Int) = (s.now : Int) + sext 64 (c.le 0 8)
          ∧ t.time = s.time))

/-- O41: With power and clock. HOME_CORE_READ and HOME_CORE_WRITE of a pool line with no write held for it: the read leaves the P-die a holder, the write leaves it the owner; a line it owns already stays. With a write held they wait. A load of pool bytes delivers the P-die's copies, fetched first where it holds none; a plain store leaves its bytes in lines the P-die has modified; a conditional store without its reservation answers 1 and stores nothing. CBO_CLEAN leaves the line owned by no P-die, CBO_FLUSH and CBO_INVAL (which acts as a flush) held by none, CBO_ZERO held by no one; CBO_ZERO outside the pool, the others in a hole, fault with cause 7. MIPISEND and SIPISEND set the bit of a nonzero identity in the file of the core named. MERRINFO_READ delivers the register and clears its bit 63. MACHINE_TIMER sets MTIP exactly when the core's time has reached the compare value. In a mode below the CSR's the last four raise an illegal instruction, cause 2 (log 95). -/
def Obligations.CoreCommandsAct : Prop :=
  ∀ (c : CoreId) (s : State), powered s = true →
    let h := c.val / 64
    let parked (r : HomeReq) (t : State) : Prop := t = { s with coh := { s.coh with waiting := s.coh.waiting ++ [r] } }
    let fault7 (a : Nat) (t : State) : Prop := t = coreFault c.val 7 a s
    let core (y : CoreState) (t : State) : Prop := t.core c.val = y ∧ (∀ k, k ≠ c.val → t.core k = s.core k)
    (∀ (pa : PAddr) d, pa.toNat < poolBytes → let line := pa.toNat / 128
      (lineHeld s line = false → exec (.homeCoreRead c pa d) s = .next (homeCoreRead c.val line d s)
        ∧ exec (.homeCoreWrite c pa) s = .next (homeCoreWrite c.val line 0 s)
        ∧ (¬ ((s.dirE line).owned = true ∧ (s.dirE line).hasP h = true) → Yields (.homeCoreRead c pa d) s fun t => (t.pline h line).held = true
          ∧ (t.pline h line).modified = false ∧ t.cores = s.cores ∧ t.queues = s.queues)
        ∧ Yields (.homeCoreWrite c pa) s fun t => (t.dirE line).owned = true ∧ t.cores = s.cores ∧ t.queues = s.queues)
      ∧ (lineHeld s line = true → Yields (.homeCoreRead c pa d) s (parked (.read c pa d)) ∧ Yields (.homeCoreWrite c pa) s (parked (.own c pa))))
    ∧ (∀ line, (s.dirE line).owned = true → (s.dirE line).hasP h = true →
      homeCoreRead c.val line 0 s = s ∧ homeCoreWrite c.val line 0 s = s)
    ∧ (∀ (pa : PAddr) (n : Nat) (kind : LoadKind), n ≠ 0 → pa.toNat + n ≤ poolBytes → (∀ l ∈ linesOf pa.toNat n, lineHeld s l = false) →
      let s1 := (linesOf pa.toNat n).foldl (fun s l => if (s.pline h l).held then s else homeCoreRead c.val l 0 s) s
      let bs := pdieBytes s1 h pa.toNat n
      ((∀ l ∈ linesOf pa.toNat n, (s.pline h l).held = true) → s1 = s)
      ∧ (bs.any Prod.snd = false → Yields (.coreLoad c pa n kind) s fun t => core { s.core c.val with
          loaded := bs.map Prod.fst, reservation := if kind = .reserved then some (pa.toNat / 128) else (s.core c.val).reservation } t
        ∧ { t with cores := s.cores } = s1)
      ∧ (bs.any Prod.snd = true → Yields (.coreLoad c pa n kind) s fun t => (t.core c.val).faultCause = (if kind = .fetch then 1 else 5)
        ∧ (t.core c.val).faults = (s.core c.val).faults + 1 ∧ (t.core c.val).merrinfo = w64 (2 ^ 63 + 2 ^ 60 + pa.toNat)
        ∧ (t.core c.val).loaded = (s.core c.val).loaded))
    ∧ (∀ (pa : PAddr) (data : List Byte) (kind : StoreKind), data ≠ [] → pa.toNat + data.length ≤ poolBytes →
      (∀ l ∈ linesOf pa.toNat data.length, lineHeld s l = false) →
      let s1 := (linesOf pa.toNat data.length).foldl (fun s l => breakReservations l (some c.val) (homeCoreWrite c.val l 0 s)) s
      (kind = .scalar ∨ kind = .vector → Yields (.coreStore c pa data kind) s fun t =>
        (∀ l ∈ linesOf pa.toNat data.length, (t.pline h l).modified = true)
        ∧ (∀ l, l ∉ linesOf pa.toNat data.length → t.pline h l = s1.pline h l)
        ∧ (∀ i, i < data.length → (s1.pline h ((pa.toNat + i) / 128)).data.length = 128 →
          (t.pline h ((pa.toNat + i) / 128)).data.getD ((pa.toNat + i) % 128) 0 = data.getD i 0)
        ∧ { t with coh := s1.coh } = s1)
      ∧ ((s.core c.val).reservation ≠ some (pa.toNat / 128) → Yields (.coreStore c pa data .conditional) s fun t =>
        core { s.core c.val with reservation := none, loaded := [1] } t ∧ { t with cores := s.cores } = s))
    ∧ (∀ pa : PAddr, let line := pa.toNat / 128
      (regionOf pa.toNat = .pool → lineHeld s line = false →
        Yields (.cboClean c pa) s (fun t => t = recallLine line s ∧ (t.dirE line).owned = false ∧ t.cores = s.cores)
        ∧ Yields (.cboFlush c pa) s (fun t => (t.dirE line).pA = false ∧ (t.dirE line).pB = false ∧ t.cores = s.cores ∧ t.queues = s.queues)
        ∧ Yields (.cboInval c pa) s (fun t => (t.dirE line).pA = false ∧ (t.dirE line).pB = false ∧ t.cores = s.cores ∧ t.queues = s.queues)
        ∧ Yields (.cboZero c pa) s (fun t => (t.dirE line).holders = [] ∧ (∀ k, (t.core k).reservation ≠ some line) ∧ t.queues = s.queues))
      ∧ (regionOf pa.toNat = .hole → Yields (.cboClean c pa) s (fault7 pa.toNat) ∧ Yields (.cboFlush c pa) s (fault7 pa.toNat)
        ∧ Yields (.cboInval c pa) s (fault7 pa.toNat))
      ∧ (poolBytes ≤ pa.toNat → Yields (.cboZero c pa) s (fault7 pa.toNat)))
    ∧ (∀ v : W64, let k := fieldOf v 0 8
      let x := fieldOf v 8 7
      let sets (y : CoreState) (t : State) : Prop := t.core x = y ∧ (∀ j, j ≠ x → t.core j = s.core j) ∧ { t with cores := s.cores } = s
      let sup : CoreState := { s.core x with supervisorFile := (s.core x).supervisorFile ||| BitVec.ofNat 256 (2 ^ k) }
      let mac : CoreState := { s.core x with machineFile := (s.core x).machineFile ||| BitVec.ofNat 256 (2 ^ k) }
      ((s.core c.val).mode = .machine → (k = 0 → exec (.mipisend c v) s = .next s)
        ∧ (k ≠ 0 → Yields (.mipisend c v) s (sets (if bitOf v 15 then mac else sup))))
      ∧ ((s.core c.val).mode ≠ .machine → Yields (.mipisend c v) s fun t => t = coreFault c.val 2 0 s)
      ∧ ((s.core c.val).mode ≠ .user → (k = 0 → exec (.sipisend c v) s = .next s) ∧ (k ≠ 0 → Yields (.sipisend c v) s (sets sup)))
      ∧ ((s.core c.val).mode = .user → Yields (.sipisend c v) s fun t => t = coreFault c.val 2 0 s))
    ∧ ((s.core c.val).mode = .machine → Yields (.merrinfoRead c) s fun t => (t.core c.val).loaded = leBytes 8 (s.core c.val).merrinfo.toNat
      ∧ bitOf (t.core c.val).merrinfo 63 = false ∧ (∀ i, i < 63 → (t.core c.val).merrinfo.getLsbD i = (s.core c.val).merrinfo.getLsbD i)
      ∧ (∀ k, k ≠ c.val → t.core k = s.core k) ∧ { t with cores := s.cores } = s)
    ∧ (∀ v : W64, (s.core c.val).mode = .machine → Yields (.machineTimer c v) s fun t => (t.core c.val).mtimecmp = v
      ∧ ((t.core c.val).mtip = true ↔ v.toNat ≤ timeOnHalf h s)
      ∧ (∀ k, k ≠ c.val → t.core k = s.core k) ∧ { t with cores := s.cores } = s)

/-- O42: With power and clock. HOME_ENGINE_READ of bytes in the pool delivers them with their poison. HOME_ENGINE_WRITE of one line that no other agent holds and for which nothing is held writes it at its home at once; with another holder, the write is held until the holders have acknowledged, and the stack and Cisterns keep what they hold; either way no reservation stands on the line. EVICTION_BUFFER_DRAIN writes out the oldest line waiting. A good sector handed to an ACTIVE stack whose key is loaded reads back as written, every other sector reads as before, and a poisoned one reads back poisoned. -/
def Obligations.PoolAccessesOfEngines : Prop :=
  (∀ (e : BitVec 8) (pa : PAddr) (n d : Nat) (st nr : Bool) (s : State), powered s = true → pa.toNat + n ≤ poolBytes →
      let r := engineRead e.toNat st nr d (n / 128 + 2) pa.toNat n s
      Yields (.homeEngineRead e pa n st nr d) s fun t => t.hbm.delivered = some (r.1.map Prod.fst, r.1.any Prod.snd)
        ∧ { t with hbm := { t.hbm with delivered := r.2.hbm.delivered } } = r.2)
    ∧ (∀ (e : BitVec 8) (pa : PAddr) (bs : List Byte) (p st : Bool) (s : State), powered s = true → pa.toNat + bs.length ≤ poolBytes →
      exec (.homeEngineWrite e pa bs p st) s = .next (poolWriteMarked pa.toNat (bs.map fun b => (b, p)) st .none s)
      ∧ (bs ≠ [] → pa.toNat % 128 + bs.length ≤ 128 → Yields (.homeEngineWrite e pa bs p st) s fun t =>
        let line := pa.toNat / 128
        let s1 := recallLine line s
        (∀ k, (t.core k).reservation ≠ some line) ∧ t.queues = s.queues ∧ t.xlt = s.xlt
        ∧ ((s1.dirE line).holders = [] → lineHeld s1 line = false → t.coh.held = s1.coh.held)
        ∧ ((s1.dirE line).holders ≠ [] ∨ lineHeld s1 line = true → t.hbm = s1.hbm ∧ t.coh.cis = s1.coh.cis ∧ t.coh.dir = s1.coh.dir
          ∧ (t.coh.held.map HeldWrite.line) = s1.coh.held.map HeldWrite.line ++ [line])))
    ∧ (∀ (line : Nat) (ws : List (Nat × List Byte × Bool)) (st : Bool) (tag : HoldTag) (s : State),
      let s1 := breakReservations line none (recallLine line s)
      ((s1.dirE line).holders = [] → lineHeld s1 line = false → lineWrite line ws st tag s = homeWriteLine line ws st s1)
      ∧ ((s1.dirE line).holders ≠ [] ∨ lineHeld s1 line = true →
        lineWrite line ws st tag s = { s1 with coh := { s1.coh with held := s1.coh.held ++ [⟨line, ws, st, (s1.dirE line).holders, tag⟩] } }))
    ∧ (∀ (c : CisternId) (s : State), powered s = true → ((s.cis c.val).evict = [] → exec (.evictionBufferDrain c) s = .next s)
      ∧ (∀ l rest, (s.cis c.val).evict = l :: rest → Yields (.evictionBufferDrain c) s fun t => t.cis c.val = { s.cis c.val with evict := rest }
        ∧ (∀ k, k ≠ c.val → t.cis k = s.cis k) ∧ t.coh.dir = s.coh.dir ∧ t.cores = s.cores
        ∧ t.hbm = (writeBackDirty l s).hbm))
    ∧ (∀ (sn : Nat) (d : List Byte) (p : Bool) (k : List Byte) (s : State),
      (s.stack (s.stackOf (32 * sn))).mode = .active → s.keyOf (s.selectorOf (32 * sn)) = some k → d.length = 32 →
      storedSector (stackWrite sn d p s) sn = (d, p) ∧ (∀ j, j ≠ sn → storedSector (stackWrite sn d p s) j = storedSector s j))

/-- O43: With power and clock. SECTOR_READ of a sector with no failed symbol and no bytes in the buffer delivers what is stored and changes nothing else; on a stack that is not ACTIVE it delivers poison and counts; in a stall it waits. CORRECTED_WRITE_BACK writes the corrected data if it is still to be written, so that the sector reads as corrected and every other as before, and otherwise changes nothing. WCB_ENTRY_TIMEOUT of an entry 2 us old whose pseudo-channel does not stall lets it leave. PATROL_SCRUB of an ACTIVE stack reads the next sector once it is due and steps its position. RETUNE_SCHEDULE below 10 degrees of change records the temperature only; from 10 on every pseudo-channel not DEGRADED has a start. RETUNE_START of a pseudo-channel whose time has come, with no other of its stack stalled and 100 us since the last: it is retuning from now. RETUNE_END clears it and, when it succeeded, its failures. -/
def Obligations.StackControllersAct : Prop :=
  (∀ (pc : PcId) (k : Nat) (errs : List (Fin 36 × Byte)) (s : State), powered s = true → k < 25165824 →
      let sn := poolAddrOf s.hbm pc.val (32 * k) / 32
      let st := s.stackOf (32 * sn)
      (stalled s pc.val = true → Yields (.sectorRead pc k errs) s fun t =>
        t = { s with hbm := { s.hbm with heldReads := s.hbm.heldReads ++ [(pc.val, sn)] } })
      ∧ (stalled s pc.val = false → exec (.sectorRead pc k errs) s = .next (decodeSector pc.val sn errs s)
        ∧ ((s.stack st).mode = .active → ((s.wcbOf st).find? fun e => e.line == sn / 4) = none → (s.mark sn).errs = [] →
          (storedSector s sn).2 = false → errs = [] → Yields (.sectorRead pc k errs) s fun t =>
            t = { s with hbm := { s.hbm with delivered := some ((storedSector s sn).1, false) } })
        ∧ ((s.stack st).mode ≠ .active → Yields (.sectorRead pc k errs) s fun t => t.hbm.delivered = some (List.replicate 32 0, true)
          ∧ t.hbm.cells = s.hbm.cells ∧ t.hbm.marks = s.hbm.marks
          ∧ t.ctr (offlineCount st) = w64 (min ((s.ctr (offlineCount st)).toNat + 1) (2 ^ 64 - 1)))))
    ∧ (∀ (pc : PcId) (k : Nat) (s : State), powered s = true → let sn := poolAddrOf s.hbm pc.val (32 * k) / 32
      (∀ w key, s.hbm.writeBacks.find? (fun w => w.1 == sn) = some w → (s.stack (s.stackOf (32 * sn))).mode = .active →
        s.keyOf (s.selectorOf (32 * sn)) = some key → w.2.length = 32 → Yields (.correctedWriteBack pc k) s fun t =>
          storedSector t sn = (w.2, false) ∧ (∀ j, j ≠ sn → storedSector t j = storedSector s j)
          ∧ (∀ x ∈ t.hbm.writeBacks, x.1 ≠ sn) ∧ { t with hbm := s.hbm } = s)
      ∧ ((∀ w ∈ s.hbm.writeBacks, w.1 ≠ sn) → exec (.correctedWriteBack pc k) s = .next s))
    ∧ (∀ (k : StackId) (s : State) (e : WcbEntry) (rest : List WcbEntry), powered s = true → s.wcbOf k.val = e :: rest →
      (e.born + 2000 ≤ s.now → mayLeave s e = true → exec (.wcbEntryTimeout k) s = .next (leaveEntry e s)
        ∧ (s.stackOf (128 * e.line) = k.val → Yields (.wcbEntryTimeout k) s fun t => t.wcbOf k.val = rest
          ∧ (∀ j, j ≠ k.val → t.wcbOf j = s.wcbOf j) ∧ t.coh = s.coh ∧ t.queues = s.queues))
      ∧ (s.now < e.born + 2000 ∨ mayLeave s e = false → exec (.wcbEntryTimeout k) s = .next s))
    ∧ (∀ (k : StackId) (errs : List (Fin 36 × Byte)) (s : State), let pos := (s.stack k.val).scrubPos
      let pc := 64 * k.val + pos / 25165824 % 64
      powered s = true → s.hbm.scrubEn = true → (s.stack k.val).mode = .active → (s.pc pc).active = none →
      scrubDue s.hbm.scrubHours (s.stack k.val).scrubFrom pos ≤ s.ticks →
      exec (.patrolScrub k errs) s = .next (decodeSector pc (poolAddrOf s.hbm pc (32 * (pos % 25165824)) / 32) errs
        (s.modStack k.val (scrubNext s.hbm.scrubHours s.ticks)))
      ∧ Yields (.patrolScrub k errs) s fun t => (t.stack k.val).mode = .active ∧ t.coh = s.coh ∧ t.hbm.cells = s.hbm.cells
        ∧ (t.stack k.val).scrubPos = (if pos + 1 = 64 * 25165824 then 0 else pos + 1))
    ∧ (∀ (k : StackId) (temp : BitVec 8) (s : State), let old := (s.stack k.val).tune.toNat
      (temp.toNat < old + 10 → old < temp.toNat + 10 → Yields (.retuneSchedule k temp) s fun t =>
        t.stack k.val = { s.stack k.val with temp := temp } ∧ (∀ j, j ≠ k.val → t.stack j = s.stack j)
        ∧ (∀ p, t.pc p = s.pc p) ∧ { t with hbm := s.hbm } = s)
      ∧ (fwRuns s = true → (s.stack k.val).mode = .active → (old + 10 ≤ temp.toNat ∨ temp.toNat + 10 ≤ old) →
        exec (.retuneSchedule k temp) s = .next (scheduleAll (64 * k.val)
          (match (s.stack k.val).lastStart with | none => s.now | some t => max s.now (t + 100000)) (List.range 64)
          (s.modStack k.val fun x => { x with temp := temp }))
        ∧ Yields (.retuneSchedule k temp) s fun t => (t.stack k.val).temp = temp ∧ { t with hbm := s.hbm } = s
          ∧ ∀ j, j < 64 → (s.pc (64 * k.val + j)).degraded = false → ∃ e ∈ (t.pc (64 * k.val + j)).sched, e.2 = .auto))
    ∧ (∀ (p : PcId) (s : State) (x : Nat) (b : RetuneBy) (rest : List (Nat × RetuneBy)), powered s = true → (s.pc p.val).sched = (x, b) :: rest →
      x ≤ s.now → retuneFree p.val s = true → (s.stack (p.val / 64)).mode = .active → Yields (.retuneStart p) s fun t =>
        t.pc p.val = { s.pc p.val with sched := rest, active := some (s.now, b) } ∧ (∀ k, k ≠ p.val → t.pc k = s.pc k)
        ∧ (t.stack (p.val / 64)).lastStart = some s.now ∧ { t with hbm := s.hbm } = s)
    ∧ (∀ (p : PcId) (ok : Bool) (s : State) (x : Nat), powered s = true → (s.pc p.val).active = some (x, .auto) → Yields (.retuneEnd p ok) s fun t =>
        (t.pc p.val).active = none ∧ (t.pc p.val).fails = (if ok then 0 else min 3 ((s.pc p.val).fails + 1)))

/-- O44: RAMP_STEP moves the level (with power and clock throughout) by what every ramp has changed since it was last applied, the floor by the cover ramps' part, drops the ramps that have ended and leaves the planned level where it was. RESERVATION_EXPIRY drops the reservations that have ended. DOWN_REQUEST and HELD_BELOW_NEED ask exactly when their conditions hold, of the Steward or, STANDALONE, by a ramp of their own; BALLAST_SHORT while the draw lies more than 40 W below H counts, and at its begin asks too (log 115); otherwise nothing changes. A message whose number was received before, or whose epoch lies below the one held, changes nothing. A GRANT of the Steward in force ends the request it answers and begins its ramp; an ENVELOPE sets floor, ceiling and slope and the pace; a HEARTBEAT keeps the Steward; 30 ms without one is HOLD. REQUEST_RESEND sends every request 10 ms old again. -/
def Obligations.MembersFollowTheirSteward : Prop :=
  ∀ s : State, powered s = true →
    let asked (a : Int) (down window : Bool) (t : State) : Prop :=
      (s.env.member = false → ∃ r, t.env.ramps = s.env.ramps ++ [r] ∧ r.amount = a ∧ r.window = window ∧ r.applied = 0 ∧ slotOf s.now < r.first)
      ∧ (s.env.member = true → ∃ x, t.env.asks = s.env.asks ++ [x] ∧ x.msg.amount = a ∧ x.down = down ∧ x.window = window ∧ x.sent = s.now)
    (Yields .rampStep s fun t =>
      (t.env.level : Int) = max 0 ((s.env.level : Int) + (s.env.ramps.map fun r => r.upTo s.now - r.applied).sum)
      ∧ (0 ≤ (s.env.level : Int) + (s.env.ramps.map fun r => r.upTo s.now - r.applied).sum → planned t = planned s)
      ∧ (∀ r ∈ t.env.ramps, r.applied = r.upTo s.now ∧ r.left ≠ 0)
      ∧ ((∀ r ∈ s.env.ramps, r.cover = false) → t.env.floorW = s.env.floorW)
      ∧ { t with env := s.env } = s)
    ∧ (Yields .reservationExpiry s fun t => t.env.resv = s.env.resv.filter (fun r => s.now < r.2) ∧ liveResv t = liveResv s
      ∧ { t with env := s.env } = s)
    ∧ (∀ need x, s.pwr.heldSince = some x → x + 1000000 ≤ s.now → upOutstanding s = false →
      exec (.heldBelowNeed need) s = .next (requestUp (shortfall need s) (s.modPwr fun p => { p with heldSince := some s.now }))
      ∧ (let b := min (shortfall need s) ((effC s : Int) - planned s)
        1 ≤ b → Yields (.heldBelowNeed need) s fun t => t.pwr.heldSince = some s.now ∧ asked b false false t))
    ∧ (∀ need, (s.pwr.heldSince = none ∨ upOutstanding s = true) → exec (.heldBelowNeed need) s = .next s)
    ∧ (let xs := s.env.window.filter fun x => s.now < x.1 + s.env.delayMs * 1000000
      (s.env.delayMs * 1000000 ≤ 2 * (xs.length * 10000) → 10 * s.env.marginW * xs.length < (xs.map Prod.snd).sum → s.env.starts = [] →
        (s.env.asks.any fun a => a.window) = false → (s.env.ramps.any fun r => r.window) = false →
        let a : Int := ((xs.map Prod.snd).sum / (10 * max xs.length 1) : Nat) - (s.env.marginW / 2 : Nat)
        let b := min a (plannedLow s - (s.env.floorW : Int))
        exec .downRequest s = .next (requestDown a false true s) ∧ (1 ≤ b → Yields .downRequest s (asked (-b) true true)))
      ∧ (s.env.starts ≠ [] ∨ (s.env.asks.any fun a => a.window) = true ∨ (s.env.ramps.any fun r => r.window) = true
        → exec .downRequest s = .next s))
    ∧ (∀ hold mj, (s.env.level ≤ hold + 40 → exec (.ballastShort hold mj) s = .next s)
      ∧ (hold + 40 < s.env.level → s.env.short = true → Yields (.ballastShort hold mj) s (Counts shortMilliJ mj s))
      ∧ (hold + 40 < s.env.level → s.env.short = false →
        exec (.ballastShort hold mj) s = .next (beginShort hold (count shortMilliJ mj s))
        ∧ Yields (.ballastShort hold mj) s fun t => t.env.short = true ∧ t.env.cause = 5 ∧ bitOf (t.evBits srcEnv) evBallastShort = true
          ∧ t.ctr shortMilliJ = w64 (min ((s.ctr shortMilliJ).toNat + mj) (2 ^ 64 - 1)) ∧ t.env.level = s.env.level))
    ∧ (∀ (a : Int) (v w : Bool), let b := min a (plannedLow s - (s.env.floorW : Int))
      (b < 1 → requestDown a v w s = s) ∧ (1 ≤ b → s.env.member = false → requestDown a v w s = selfGrant (-b) w s)
      ∧ (1 ≤ b → s.env.member = true → requestDown a v w s = askSteward (-b) true v w s))
    ∧ (∀ m body, accepts m s = false → exec (.request m) s = .next s ∧ exec (.grant m) s = .next s ∧ exec (.report m) s = .next s
      ∧ exec (.envelope m) s = .next s ∧ exec (.heartbeat m) s = .next s ∧ exec (.excursion m) s = .next s
      ∧ exec (.snapshot m body) s = .next s)
    ∧ (∀ m a, fwRoles s = true → accepts m s = true → s.env.member = true → m.src = s.env.steward →
      (s.env.asks.find? (fun a => a.msg.seq == m.refSeq) = some a → (m.flags &&& flagCover) = 0 → s.env.starts = [] →
        Yields (.grant m) s fun t => t.env.ramps = s.env.ramps
            ++ [{ amount := m.amount, slope := m.slope, first := max m.time (slotOf s.now), cover := false, window := a.window }]
          ∧ (∀ b, b ∈ t.env.asks ↔ b ∈ s.env.asks ∧ b.msg.seq ≠ m.refSeq) ∧ t.env.level = s.env.level
          ∧ t.ctr grantCount = w64 (min ((s.ctr grantCount).toNat + 1) (2 ^ 64 - 1)))
      ∧ (s.env.role ≠ 1 → s.env.ceilW ≤ m.ceilingW → (m.floorW : Int) ≤ planned s → Yields (.envelope m) s fun t =>
        t.env.floorW = m.floorW ∧ t.env.ceilW = m.ceilingW ∧ t.env.slope = m.slope ∧ t.env.pace = m.dutyCap
        ∧ t.env.level = s.env.level ∧ t.env.ramps = s.env.ramps ∧ t.env.asks = s.env.asks)
      ∧ (Yields (.heartbeat m) s fun t => t.env = { s.env with lastBeat := s.now, epoch := m.epoch, seen := s.env.seen ++ [(m.src, m.seq)] }
        ∧ { t with env := s.env } = s))
    ∧ (s.env.steward ≠ s.node → s.env.lastBeat + 30000000 ≤ s.now → s.env.member = true → Yields .heartbeatTimeout s fun t =>
      t.env = { s.env with hold := true } ∧ (s.env.hold = false → bitOf (t.evBits srcEnv) evStewardLost = true))
    ∧ (s.now < s.env.lastBeat + 30000000 → exec .heartbeatTimeout s = .next s)
    ∧ (fwRoles s = true → s.env.member = true → exec .requestResend s
        = .next (resendAsks (fun a => decide (a.sent + 10000000 ≤ s.now)) s)
      ∧ Yields .requestResend s fun t => t.env = { s.env with
          asks := s.env.asks.map fun a => if a.sent + 10000000 ≤ s.now then { a with sent := s.now } else a })

/-- O45: STEWARD_SLOT, at 500 us or later into slot k, of a Steward that has not yet evaluated it and is not handing over: it answers a next state, the slot is marked as evaluated, and if the ramps granted before change the group by at most S_g in slot k + 1, up or down, then so do the ramps it has granted after. Before 500 us, in a slot evaluated already, or while handing over, nothing changes. -/
def Obligations.StewardsKeepTheSlopeLimit : Prop :=
  ∀ s : State, let k := slotOf s.now
    (fwRoles s = true → s.env.role = 1 → s.stew.handing = false → 500000 ≤ s.now % slotNs → s.stew.lastSlot < k + 1 →
      Yields .stewardSlot s fun t => t.stew.lastSlot = k + 1 ∧ t.stew.sg = s.stew.sg
        ∧ (-(s.stew.sg : Int) ≤ (s.stew.ramps.map fun r => r.changeIn (k + 1)).sum → (s.stew.ramps.map fun r => r.changeIn (k + 1)).sum ≤ s.stew.sg →
          -(s.stew.sg : Int) ≤ (t.stew.ramps.map fun r => r.changeIn (k + 1)).sum ∧ (t.stew.ramps.map fun r => r.changeIn (k + 1)).sum ≤ s.stew.sg))
    ∧ ((s.now % slotNs < 500000 ∨ k + 1 ≤ s.stew.lastSlot ∨ s.stew.handing = true ∨ s.env.role ≠ 1) → exec .stewardSlot s = .next s)

/-- O46: With power and clock. A REQUEST of a listed member of this power group enters the Steward's queue once, at its end. A REPORT records the member's level, floor, slope, duty and epoch and that it is not lost. An EXCURSION is kept; MEMBER_REPORT_TIMEOUT after 30 ms marks the member lost and drops its requests, once. A SNAPSHOT of the Steward replaces the one the standby holds; 30 ms without one the standby claims the role with an epoch one higher. The interval commands act exactly when their time has come: REPORT, HEARTBEAT, SNAPSHOT every 10 ms, ENVELOPE every 1 s, head shares every 10 ms. Head shares add up to S_g when every Steward can have 1 W/ms. PACE_HOLD_EXPIRY lowers a pace set to the duty of its slow member; DUTY_CAP_RAISE raises it by one. -/
def Obligations.StewardsServeTheirGroup : Prop :=
  ∀ s : State, powered s = true →
    let sent (n : Nat) (t : State) : Prop := t.env = { s.env with nextSeq := s.env.nextSeq + BitVec.ofNat 32 n }
    (∀ m, fwRoles s = true → accepts m s = true → isSteward s = true → s.stew.list.contains m.src = true →
      (m.pgroup = s.env.pgroup → (s.stew.queue.any fun q => q.src == m.src && q.seq == m.seq) = false → Yields (.request m) s fun t =>
        t.stew.queue = s.stew.queue ++ [m] ∧ (t.memberRec m.src).waiting = (s.memberRec m.src).waiting + m.amount.natAbs)
      ∧ (m.epoch.toNat ≤ s.env.epoch.toNat → Yields (.report m) s fun t => let r := t.memberRec m.src
        r.level = m.level ∧ r.floorW = m.floorW ∧ r.slope = m.slope ∧ r.dutyCap = m.dutyCap ∧ r.epoch = m.epoch
        ∧ r.waiting = m.amount.natAbs ∧ r.reported = some s.now ∧ r.lost = false
        ∧ (∀ n, n ≠ m.src → t.memberRec n = s.memberRec n) ∧ t.stew.queue = s.stew.queue)
      ∧ ((m.flags &&& flagLost) = 0 → Yields (.excursion m) s fun t => t.stew.excursions = s.stew.excursions ++ [m]
        ∧ t.stew.queue = s.stew.queue ∧ t.stew.recs = s.stew.recs))
    ∧ (∀ n x, (s.memberRec n).reported = some x → x + 30000000 ≤ s.now → isSteward s = true → s.stew.list.contains n = true →
      s.stew.lossCover = false → (s.memberRec n).lost = false → Yields (.memberReportTimeout n) s fun t =>
        t.memberRec n = { s.memberRec n with lost := true } ∧ t.stew.queue = s.stew.queue.filter (fun q => q.src != n)
        ∧ { t with stew := s.stew } = s)
    ∧ (∀ n, (s.memberRec n).lost = true → exec (.memberReportTimeout n) s = .next s)
    ∧ (∀ m body, fwRoles s = true → accepts m s = true → s.env.role = 2 → m.src = s.env.steward → Yields (.snapshot m body) s fun t =>
      t.stew = { s.stew with snap := some body, lastSnap := s.now, finalSnap := decide ((m.flags &&& flagHold) ≠ 0) } ∧ t.env.epoch = m.epoch)
    ∧ (s.env.role = 2 → s.stew.lastSnap + 30000000 ≤ s.now → exec .snapshotTimeout s = .next (claimRole s))
    ∧ (s.env.role = 2 → s.stew.list = [] → Yields .snapshotTimeout { s with now := s.stew.lastSnap + 30000000 } fun t =>
      t.env.role = 1 ∧ t.env.epoch = s.env.epoch + 1 ∧ t.env.steward = s.node ∧ t.env.hold = false)
    ∧ (s.env.role ≠ 2 → exec .snapshotTimeout s = .next s)
    ∧ (fwRoles s = true → s.env.member = true → s.env.lastReport + 10000000 ≤ s.now → Yields .reportInterval s fun t => t.env.lastReport = s.now)
    ∧ (s.now < s.env.lastReport + 10000000 → exec .reportInterval s = .next s)
    ∧ (fwRoles s = true → isSteward s = true → s.stew.lastBeat + 10000000 ≤ s.now → exec .heartbeatInterval s
        = .next (s.stew.list.foldl (fun s n => sendDown n kindHeartbeat (permitMsg s) s) (s.modStew fun w => { w with lastBeat := s.now }))
      ∧ Yields .heartbeatInterval s fun t => t.stew = { s.stew with lastBeat := s.now }
        ∧ t.env.nextSeq = s.env.nextSeq + BitVec.ofNat 32 s.stew.list.length ∧ (s.node ∉ s.stew.list → sent s.stew.list.length t))
    ∧ (s.now < s.stew.lastBeat + 10000000 → exec .heartbeatInterval s = .next s)
    ∧ (fwRoles s = true → s.env.role = 1 → s.stew.lastSnap + 10000000 ≤ s.now → s.env.standby ≠ 0xFFFF → Yields .snapshotInterval s fun t =>
      let fl : BitVec 16 := if s.stew.handing = true then flagHold else 0
      t.outbox.getLast? = some (.snapshot s.env.standby { permitMsg s with flags := fl } (snapBody s))
        ∧ t.stew = { s.stew with lastSnap := s.now } ∧ t.env.nextSeq = s.env.nextSeq + 1)
    ∧ (fwRoles s = true → s.env.role = 1 → s.stew.lastEnvelope + 1000000000 ≤ s.now → exec .envelopeInterval s
        = .next (sendEnvelopes (s.modStew fun w => { w with lastEnvelope := s.now }))
      ∧ Yields .envelopeInterval s fun t => t.stew.lastEnvelope = s.now ∧ t.stew.list = s.stew.list ∧ t.env.role = 1
        ∧ (s.node ∉ s.stew.list → t.stew = { s.stew with lastEnvelope := s.now } ∧ sent s.stew.list.length t))
    ∧ (s.now < s.stew.lastEnvelope + 1000000000 → exec .envelopeInterval s = .next s)
    ∧ (fwRoles s = true → s.env.role = 3 → s.stew.lastShare + 10000000 ≤ s.now →
      exec .headShareInterval s = .next ((s.stew.list.zip (headShares s.stew.sg (s.stew.list.map fun n => (s.memberRec n).waiting))).foldl
        (fun s p => sendDown p.1 kindEnvelope { permitMsg s with slope := p.2 } s) (s.modStew fun w => { w with lastShare := s.now }))
      ∧ Yields .headShareInterval s fun t => t.stew.lastShare = s.now ∧ t.stew.list = s.stew.list ∧ t.env.role = 3
        ∧ (s.node ∉ s.stew.list → t.stew = { s.stew with lastShare := s.now } ∧ sent s.stew.list.length t))
    ∧ (∀ sg w, w ≠ [] → w.length ≤ sg → (headShares sg w).sum = sg ∧ ∀ x ∈ headShares sg w, 1 ≤ x)
    ∧ (∀ k : Fin 64, (∀ n ∈ (s.paceSet k.val).members, (s.memberRec n).below = none) → exec (.paceHoldExpiry k) s = .next s)
    ∧ (∀ (k : Fin 64) n, let ps := s.paceSet k.val
      (ps.members.find? fun n => match (s.memberRec n).below with
        | some b => decide (b + s.stew.paceHoldMs * 1000000 ≤ s.now) && (s.memberRec n).dutyCap < ps.cap
        | none => false) = some n →
      exec (.paceHoldExpiry k) s = .next (ps.members.foldl (fun s m => sendEnvelope m s) ((s.modSet k.val fun p =>
        { p with cap := (s.memberRec n).dutyCap, slow := some n, raised := s.now }).modRec n fun r => { r with below := none }))
      ∧ Yields (.paceHoldExpiry k) s fun t => t.paceSet k.val = ⟨ps.members, (s.memberRec n).dutyCap, some n, s.now⟩
        ∧ (t.memberRec n).below = none ∧ ∀ j, j ≠ k.val → t.paceSet j = s.paceSet j)
    ∧ (∀ (k : Fin 64) n x, let ps := s.paceSet k.val
      let slow := if ps.cap + 1 = 64 then none else ps.slow
      ps.slow = some n → (s.memberRec n).clear = some x → x + s.stew.paceHoldMs * 1000000 ≤ s.now →
      ps.raised + 10000000 ≤ s.now → ps.cap < 64 →
      exec (.dutyCapRaise k) s = .next (ps.members.foldl (fun s m => sendEnvelope m s)
        (s.modSet k.val fun p => { p with cap := p.cap + 1, raised := s.now, slow := slow }))
      ∧ Yields (.dutyCapRaise k) s fun t => t.paceSet k.val = ⟨ps.members, ps.cap + 1, slow, s.now⟩
        ∧ ∀ j, j ≠ k.val → t.paceSet j = s.paceSet j)

/-- O47: With power and clock, and no recalibration under way or start waiting: WEIGH_HOUSE_ESTIMATE makes G x E_raw the newest of the last 1,000 estimates and its control value less ballast the draw of real work, leaving G and H; WEIGH_HOUSE_COMPARE moves G by at most 32/16384, and not at all unless TRUSTED; a third D above 25 % is FAULT. INPUT_POWER_SAMPLE keeps the last 10 samples; the fifth in a row above RATED_W raises OVER_RATED and the guard band for 100 ms. DELTA_RECOMPUTE sets Delta; 10 ms without a sample is FAULT. PEAK_CLAMP above EXCURSION_W gives every array a duty of at most 32 at its boundary and holds it 100 us. RECALIBRATION_ATTEMPT starts when due. THERMAL_SENSOR_READ steps each region; while one is CRITICAL every core runs at 1.0 GHz. MARGIN_EVALUATION keeps each margin within 25 to 50 mV and changes it by at most 5. -/
def Obligations.PowerRegulationActs : Prop :=
  ∀ s : State, powered s = true →
    (∀ act : Activity, s.pwr.recal = none → s.env.starts = [] → Yields (.weighHouseEstimate act) s fun t =>
      let e := s.pwr.gain * act.rawDw
      let ballast := s.pwr.gain * act.ballastDw / 16384
      t.pwr.ests = (e :: s.pwr.ests).take 1000 ∧ t.pwr.gain = s.pwr.gain ∧ t.env.ballastDw = ballast
      ∧ (s.pwr.wh = .trusted → t.env.workDw = e / 16384 - ballast) ∧ t.env.level = s.env.level ∧ t.env.ramps = s.env.ramps
      ∧ t.pwr.wh = s.pwr.wh)
    ∧ (∀ a ns, 1 ≤ commonDuty a ns ∧ commonDuty a ns ≤ 64)
    ∧ (s.pwr.recal = none → 14746 ≤ s.pwr.gain → s.pwr.gain ≤ 18022 → Yields .weighHouseCompare s fun t =>
      t.pwr.gain ≤ s.pwr.gain + 32 ∧ s.pwr.gain ≤ t.pwr.gain + 32 ∧ 14746 ≤ t.pwr.gain ∧ t.pwr.gain ≤ 18022
      ∧ (s.pwr.wh ≠ .trusted → t.pwr.gain = s.pwr.gain))
    ∧ (let den := (s.pwr.samples.map Prod.snd).sum * s.pwr.ests.length * 16384
      let diff := ((s.pwr.ests.sum * s.pwr.samples.length : Nat) - (den : Int) : Int).natAbs
      fwRuns s = true → s.pwr.recal = none → 0 < den → 25 * den < 100 * diff → s.pwr.over25 = 2 →
        Yields .weighHouseCompare s fun t => t.pwr.wh = .fault ∧ t.pwr.gain = s.pwr.gain)
    ∧ (∀ x rest, s.pwr.samples = x :: rest → s.pwr.ests ≠ [] → Yields .deltaRecompute s fun t =>
      t.pwr.delta = (16384 * x.2 : Nat) - ((s.pwr.ests.take 100).sum / (s.pwr.ests.take 100).length : Nat) ∧ { t with pwr := s.pwr } = s)
    ∧ (measurementGone s = true → s.pwr.wh ≠ .fault → Yields .measurementAbsent s fun t => t.pwr.wh = .fault
      ∧ t.pwr.nextTry = s.now + 10000000000 ∧ t.env.cause = 4)
    ∧ (measurementGone s = false → exec .measurementAbsent s = .next s)
    ∧ (∀ dw, s.pwr.recal = none → Yields (.inputPowerSample dw) s fun t => t.pwr.samples = ((s.now, dw) :: s.pwr.samples).take 10
      ∧ t.ctr energyMilliJ = w64 (min ((s.ctr energyMilliJ).toNat + (s.pwr.energyRem + dw) / 10) (2 ^ 64 - 1))
      ∧ (dw ≤ 10 * ratedW → t.pwr.overRun = 0 ∧ t.pwr.overUntil = s.pwr.overUntil)
      ∧ (10 * ratedW < dw → s.pwr.overRun < 4 → t.pwr.overRun = s.pwr.overRun + 1 ∧ t.pwr.overUntil = s.pwr.overUntil)
      ∧ (10 * ratedW < dw → 4 ≤ s.pwr.overRun → t.pwr.overUntil = some (s.now + 100000000)
        ∧ bitOf (t.evBits srcPwr) evOverRated = true ∧ effC t = s.env.ceilW * 95 / 100))
    ∧ (∀ x, s.pwr.overUntil = some x → x ≤ s.now → Yields .overRatedEnd s fun t => t.pwr = { s.pwr with overUntil := none }
      ∧ { t with pwr := s.pwr } = s)
    ∧ (∀ w, excursionW < w → Yields (.peakClamp w) s fun t => t.pwr = { s.pwr with clampUntil := some (s.now + 100000) }
      ∧ (∀ a, a < 16 → (t.arr a).dutyNext = if (s.arr a).duty ≤ 32 then none else some 32)
      ∧ (∀ a, { t.arr a with dutyNext := (s.arr a).dutyNext } = s.arr a) ∧ bitOf (t.evBits srcPwr) evPeakClamp = true)
    ∧ (∀ w, w ≤ excursionW → exec (.peakClamp w) s = .next s)
    ∧ (∀ x, s.pwr.clampUntil = some x → x ≤ s.now → Yields .peakClampEnd s fun t => t.pwr = { s.pwr with clampUntil := none }
      ∧ { t with pwr := s.pwr } = s)
    ∧ (fwRuns s = true → s.pwr.wh ≠ .trusted → s.pwr.nextTry ≤ s.now → s.pwr.recal = none → Yields .recalibrationAttempt s fun t =>
      t.pwr = { s.pwr with recal := some { start := s.now } } ∧ t.ctr calCount = w64 (min ((s.ctr calCount).toNat + 1) (2 ^ 64 - 1)))
    ∧ ((s.pwr.wh = .trusted ∨ s.now < s.pwr.nextTry) → exec .recalibrationAttempt s = .next s)
    ∧ (∀ temps : Temps, Yields (.thermalSensorRead temps) s fun t =>
      (∀ r, r < 6 → t.therm r = regionStep temps r (s.therm r))
      ∧ (anyCritical t = true → ∀ c, c < 128 → (t.core c).clock = 10)
      ∧ t.pwr.gain = s.pwr.gain ∧ t.pwr.tags = s.pwr.tags)
    ∧ (∀ slack, fwRuns s = true → s.pwr.droop = false → s.pwr.nextEval ≤ s.now → Yields (.marginEvaluation slack) s fun t =>
      (∀ c, c < 4 → 25 ≤ marginOf s c → marginOf s c ≤ 50 → 25 ≤ marginOf t c ∧ marginOf t c ≤ 50 ∧ (marginOf t c - marginOf s c).natAbs ≤ 5)
      ∧ (∀ c, c < 4 → slack.getD c 0 < 20 → 10 ≤ slack.getD c 0 → marginOf t c = marginOf s c) ∧ t.pwr.nextEval = s.now + 86400000000000)
    ∧ (∀ slack, (s.pwr.droop = true ∨ s.now < s.pwr.nextEval) → exec (.marginEvaluation slack) s = .next s)

/-- O48: Served alone and with fields in range: ENVELOPE_SET of a STANDALONE package sets its limits, of a Steward the group's; POWER_GROUP_JOIN makes it a member of the group it names, or STANDALONE with its envelope kept; STEWARD_ROLE 0 gives up the role; STEWARD_HANDOVER sends the final SNAPSHOT and stays unanswered; a CLAIM with a higher epoch is followed by a member; PACE_SET replaces the set; ENVELOPE_STATUS and CAP_TAGS report; CAP_TAGS clears one entry or all; POWER_TRIM applies margins; FIXED_RATE sets the mode; DROOP_MODE needs every engine idle or in ballast; WEIGH_CALIBRATE starts an attempt; RECALIBRATION_END before 200 ms changes nothing, afterwards TRUSTED needs G set, ten comparisons and none above 4 %. -/
def Obligations.PowerCommandsAct : Prop :=
  ∀ (m : MbxId) (s : State), let c := cmdAt m s
    (Served m 0x0201 s → c.le 0 4 ≤ floorMaxW → c.le 0 4 ≤ c.le 4 4 → c.le 4 4 ≤ ratedW → 1 ≤ c.le 8 2 → c.le 8 2 ≤ slopeMax →
      (isSteward s = false → s.env.member = false → c.le 10 1 % 2 = 0 → c.le 12 4 = 0 → c.le 16 4 = 0 → exec (.envelopeSet m) s
          = .next (answer c [] (setLimits (c.le 0 4) (c.le 4 4) (c.le 8 2) (taken s)))
        ∧ Yields (.envelopeSet m) s fun t => Answered m c.tag mbxOk 0 [] t ∧ t.env.floorW = c.le 0 4 ∧ t.env.ceilW = c.le 4 4
          ∧ t.env.slope = c.le 8 2 ∧ t.env.level = s.env.level ∧ t.stew = s.stew)
      ∧ (isSteward s = true → Yields (.envelopeSet m) s fun t => Answered m c.tag mbxOk 0 [] t ∧ t.stew.memF = c.le 0 4 ∧ t.stew.memC = c.le 4 4
        ∧ t.stew.memS = c.le 8 2 ∧ t.stew.cg = c.le 16 4 ∧ t.stew.lossCover = (c.le 10 1 % 2 == 1) ∧ t.stew.list = s.stew.list
        ∧ (s.env.role = 3 → t.stew.sg = (if s.stew.head = 0xFFFF then c.le 12 4 else s.stew.sg) ∧ t.env = s.env)))
    ∧ (Served m 0x0202 s → (c.le 2 2 < 0xFFFF → Yields (.powerGroupJoin m) s fun t => Answered m c.tag mbxOk 0 [] t
        ∧ t.env.member = true ∧ t.env.pgroup = BitVec.ofNat 16 (c.le 0 2) ∧ t.env.steward = BitVec.ofNat 16 (c.le 2 2)
        ∧ t.env.standby = BitVec.ofNat 16 (c.le 4 2) ∧ t.env.hold = false ∧ t.env.level = s.env.level)
      ∧ (c.le 2 2 = 0xFFFF → s.env.starts = [] → Yields (.powerGroupJoin m) s fun t => Answered m c.tag mbxOk 0 [] t
        ∧ t.env.member = false ∧ t.env.asks = [] ∧ t.env.floorW = s.env.floorW ∧ t.env.ceilW = s.env.ceilW ∧ t.env.slope = s.env.slope))
    ∧ (Served m 0x0203 s → c.le 2 1 = 0 → Yields (.stewardRole m) s fun t => Answered m c.tag mbxOk 0 [] t ∧ t.env.role = 0
      ∧ t.stew = {} ∧ t.env.level = s.env.level)
    ∧ (Served m 0x0204 s → s.stew.handing = false → s.env.role = 1 → inGroup c s = true → s.env.standby ≠ 0xFFFF →
      Yields (.stewardHandover m) s fun t => t.stew.handing = true ∧ t.stew.handAt = s.now ∧ t.mbx m.val = s.mbx m.val
        ∧ (∃ o b, t.outbox.getLast? = some (.snapshot s.env.standby o b) ∧ o.flags = flagHold))
    ∧ (∀ p, fwRoles s = true → accepts p s = true → s.env.member = true → s.env.role = 0 → s.env.epoch.toNat < p.epoch.toNat →
      s.env.asks = [] → Yields (.claim p) s fun t => t.env.steward = p.src ∧ t.env.epoch = p.epoch ∧ t.env.hold = false ∧ t.env.lastBeat = s.now)
    ∧ (Served m 0x0205 s → c.le 4 1 ≤ 63 → c.le 5 1 ≤ 1 → c.le 6 2 = 0 → s.env.role = 1 → inGroup c s = true → (s.paceSet (c.le 4 1)).members = [] →
      Yields (.paceSet m) s fun t => Answered m c.tag mbxOk 0 [] t ∧ t.paceSet (c.le 4 1) = {}
        ∧ t.stew.paceHoldMs = (if c.le 2 2 = 0 then 50 else c.le 2 2) ∧ ∀ k, k ≠ c.le 4 1 → t.paceSet k = s.paceSet k)
    ∧ (Served m 0x0206 s → isSteward s = true → inGroup c s = true → let ms := (s.stew.list.drop (c.le 2 2)).take (if m = 2 then 62 else 254)
      Yields (.envelopeStatus m) s fun t => Answered m c.tag mbxOk 0 (leBytes 2 ms.length ++ leBytes 2 s.stew.queue.length ++ leBytes 4 0
        ++ ms.flatMap (memberStatus s)) t ∧ t.env = s.env ∧ t.stew = s.stew)
    ∧ (Served m 0x0207 s → s.pwr.droop = false → (∀ k, k < 4 → 25 ≤ c.le (4 + k) 1 ∧ c.le (4 + k) 1 ≤ 50 ∧ c.le (4 + k) 1 % 5 = 0) →
      c.le 0 1 = 1 → Yields (.powerTrim m) s fun t => (∀ k, k < 4 → marginOf t k = c.le (4 + k) 1) ∧ (t.mbx m.val).busy = false
        ∧ (t.mbx m.val).done = true ∧ ((∃ k, k < 4 ∧ (c.le (4 + k) 1 : Int) ≠ marginOf s k) → bitOf (t.evBits srcPwr) evTrim = true))
    ∧ (Served m 0x0208 s → (c.le 0 1 = 0 → Yields (.capTags m) s fun t =>
          Answered m c.tag mbxOk 0 ((List.range 64).flatMap fun t => leBytes 8 (tagWord s t).toNat) t ∧ t.pwr = s.pwr)
      ∧ (c.le 0 1 = 1 → c.le 1 1 ≤ 63 → Yields (.capTags m) s fun t => t.tag (c.le 1 1) = {} ∧ (∀ k, k ≠ c.le 1 1 → t.tag k = s.tag k))
      ∧ (c.le 0 1 = 2 → Yields (.capTags m) s fun t => ∀ k, t.tag k = {}))
    ∧ (Served m 0x0209 s → c.le 0 1 ≤ 1 → Yields (.fixedRate m) s fun t => Answered m c.tag mbxOk 0 [] t ∧ (t.pwr.fixedRate = true ↔ c.le 0 1 = 1)
      ∧ (∀ a, (t.arr a).duty = (s.arr a).duty))
    ∧ (Served m 0x020A s → c.le 0 1 ≤ 1 → let busy (u : StreamUnit) := u.status != .idle && u.status != .ballast
      (((List.range 16).any fun n => busy (s.arr n).su || busy (s.vec n).su) = false → Yields (.droopMode m) s fun t =>
        Answered m c.tag mbxOk 0 [] t ∧ (t.pwr.droop = true ↔ c.le 0 1 = 1) ∧ t.arrays = s.arrays)
      ∧ (((List.range 16).any fun n => busy (s.arr n).su || busy (s.vec n).su) = true → Yields (.droopMode m) s fun t =>
        Answered m c.tag mbxConflict 0 [] t ∧ t.pwr = s.pwr))
    ∧ (Served m 0x020B s → weighHeld s = false → (keepsMailbox c s = true ∨ freeSlot? m s ≠ none) → Yields (.weighCalibrate m) s fun t =>
      t.pwr.recal.map (fun r => (r.start, r.gainSet, r.compares, r.bad)) = some (s.now, false, 0, false))
    ∧ (∀ r, powered s = true → s.pwr.recal = some r → (s.now < r.start + 200000000 → exec .recalibrationEnd s = .next s)
      ∧ (r.start + 200000000 ≤ s.now → r.cmd = none → Yields .recalibrationEnd s fun t => t.pwr.recal = none
        ∧ t.pwr.wh = (if r.gainSet = true ∧ 10 ≤ r.compares ∧ r.bad = false then .trusted else s.pwr.wh)
        ∧ t.pwr.nextTry = s.now + 10000000000 ∧ { t with pwr := s.pwr } = s))

/-- O49: Served alone with no range held by another operation: MEM_CONFIG notes the configuration for the next start, or none when it equals the one in force, and refuses interleaving over an incomplete set. MEM_ERROR_LOG answers the newest records first and clears the log on request. PC_RETUNE schedules the pseudo-channel of an ACTIVE stack. STACK_OFFLINE takes an isolated stack out; STACK_MARGIN and STACK_ONLINE need it OFFLINE. CACHE_LOCK fills and locks the lines of its range, CACHE_UNLOCK leaves none of them locked. XLT_NOTIFY_RING names the ring. PAGE_SUPPLY adds the pages it lists. PAGE_MIGRATE of a page no table maps is a CONFLICT. KEY_MAP sets the selectors of its pages to a loaded key's. -/
def Obligations.MemoryCommandsAct : Prop :=
  ∀ (m : MbxId) (s : State), let c := cmdAt m s
    let u := taken s
    let slotted : Prop := keepsMailbox c s = true ∨ (freeSlot? c.m s).isSome = true
    let k := c.le 0 1
    let pa := c.le 0 8
    let iso : BitVec 24 := BitVec.ofNat 24 (c.le 4 3)
    let begun (t : State) : Prop := t.mgr.ops.map RunOp.id = s.mgr.ops.map RunOp.id ++ [c.id] ∧ t.queues = s.queues ∧ t.cores = s.cores
    let half (h : Nat) := (stacksOf iso h false).isEmpty
    (Served m 0x0401 s → c.le 0 1 ≤ 1 →
      ((c.le 0 1 = 0 ∨ iso = 0) → half 0 = false → half 1 = false → Yields (.memConfig m) s fun t => Answered m c.tag mbxOk 0 [] t
        ∧ t.hbm = { s.hbm with nextCfg := if (c.le 0 1 == 1) = s.hbm.spread ∧ iso = s.hbm.iso then none else some (c.le 0 1 == 1, iso) })
      ∧ (((c.le 0 1 = 1 ∧ iso ≠ 0) ∨ half 0 = true ∨ half 1 = true) → Yields (.memConfig m) s fun t =>
        Answered m c.tag mbxConflict 4 [] t ∧ t.hbm = s.hbm))
    ∧ (Served m 0x0402 s → 1 ≤ c.le 2 2 → c.le 2 2 ≤ 127 → let rs := (s.hbm.errLog.reverse.drop (c.le 0 2)).take (c.le 2 2)
      let pay := leBytes 2 rs.length ++ leBytes 2 s.hbm.errLog.length ++ rs.flatMap ErrRec.bytes
      Yields (.memErrorLog m) s fun t => Answered m c.tag mbxOk 0 pay t
        ∧ t.hbm = { s.hbm with errLog := if c.le 4 1 % 2 = 1 then [] else s.hbm.errLog })
    ∧ (Served m 0x0901 s → slotted → c.le 0 2 < 1536 → s.now + 100000 ≤ c.le 8 8 → stackHeld (c.le 0 2 / 64) s = false →
      (s.stack (c.le 0 2 / 64)).mode = .active → let v := placeOp c u
      exec (.pcRetune m) s = .next (settle (v.modPc (c.le 0 2) fun x => { x with sched := insertStart (c.le 8 8) (.cmd m (slotOfOp c v)) x.sched }))
      ∧ Yields (.pcRetune m) s fun t => begun t ∧ (∃ j, t.pc (c.le 0 2) = { s.pc (c.le 0 2) with
          sched := insertStart (c.le 8 8) (.cmd m j) (s.pc (c.le 0 2)).sched }) ∧ ∀ p, p ≠ c.le 0 2 → t.pc p = s.pc p)
    ∧ (∀ t b l, (∀ x ∈ l, x.1 ≤ t) → insertStart t b l = l ++ [(t, b)])
    ∧ (Served m 0x0903 s → k < 24 → stackHeld k s = false → s.hbm.iso.getLsbD k = true → ((s.stack k).mode = .active ∨ (s.stack k).mode = .offline) →
      Yields (.stackOffline m) s fun t => Answered m c.tag mbxOk 0 [] t ∧ (t.stack k).mode = .offline
        ∧ (∀ p, 64 * k ≤ p → p < 64 * k + 64 → (t.pc p).sched = []) ∧ (∀ j, j ≠ k → t.stack j = s.stack j) ∧ t.hbm.cells = s.hbm.cells)
    ∧ (Served m 0x0903 s → k < 24 → s.hbm.iso.getLsbD k = false → stackHeld k s = false →
      Yields (.stackOffline m) s fun t => Answered m c.tag mbxConflict 0 [] t ∧ t.hbm = s.hbm)
    ∧ (k < 24 → stackHeld k s = false → slotted → (s.stack k).mode = .offline →
      (Served m 0x0902 s → c.le 1 1 ≤ 2 → Yields (.stackMargin m) s fun t => begun t ∧ t.stack k = { s.stack k with mode := .margin }
        ∧ (∀ j, j ≠ k → t.stack j = s.stack j) ∧ t.hbm.cells = s.hbm.cells)
      ∧ (Served m 0x0904 s → Yields (.stackOnline m) s fun t => begun t
        ∧ t.stack k = { s.stack k with mode := .training, lastStart := some s.now } ∧ (∀ j, j ≠ k → t.stack j = s.stack j)
        ∧ (∀ p, 64 * k ≤ p → p < 64 * k + 64 → (t.pc p).sched = []) ∧ t.hbm.cells = s.hbm.cells))
    ∧ (k < 24 → stackHeld k s = false → slotted → (s.stack k).mode ≠ .offline →
      (Served m 0x0902 s → c.le 1 1 ≤ 2 → Yields (.stackMargin m) s fun t => Answered m c.tag mbxConflict 0 [] t ∧ t.hbm = s.hbm)
      ∧ (Served m 0x0904 s → Yields (.stackOnline m) s fun t => Answered m c.tag mbxConflict 0 [] t ∧ t.hbm = s.hbm))
    ∧ (pa % 128 = 0 → c.le 8 8 % 128 = 0 → pa + c.le 8 8 ≤ poolBytes → physHeld pa (c.le 8 8) s = false →
      let lines := lockLines pa (c.le 8 8)
      (Served m 0x0410 s → slotted → (∀ l ∈ lines, s.hbm.iso.getLsbD (s.stackOf (128 * l)) = false ∨ (s.stack (s.stackOf (128 * l))).mode = .active) →
        (∀ l ∈ lines, locksAfter s lines l ≤ 12) → exec (.cacheLock m) s = .next (settle (lines.foldl lockLine (placeOp c u)))
        ∧ Yields (.cacheLock m) s fun t => begun t ∧ t.coh.held = s.coh.held ∧ t.coh.pA = s.coh.pA ∧ t.coh.pB = s.coh.pB
          ∧ (∀ l, lines = [l] → (s.findWay (s.cisOf (128 * l)) false l).isSome = true → lockedHere t l = true))
      ∧ (Served m 0x0411 s → exec (.cacheUnlock m) s = .next (answer c [] (lines.foldl unlockLine u))
        ∧ Yields (.cacheUnlock m) s fun t => Answered m c.tag mbxOk 0 [] t ∧ (∀ l ∈ lines, lockedHere t l = false) ∧ t.hbm = s.hbm))
    ∧ (∀ line, lockedHere (unlockLine s line) line = false ∧ { unlockLine s line with coh := s.coh } = s)
    ∧ (Served m 0x0420 s → pa % 32 = 0 → pa < 2 ^ 52 → 64 ≤ c.le 8 2 → c.le 8 2 ≤ 4096 →
      let w := (pagesOf pa (32 * c.le 8 2)).foldl (fun (r : Bool × State) x =>
        let t := firmwareWalk (x * 0x4000000) r.2
        (r.1 && t.1.isSome, t.2)) (true, u)
      (w.1 = true → Yields (.xltNotifyRing m) s fun t => Answered m c.tag mbxOk 0 [] t ∧ t.xlt = { w.2.xlt with ring := some ⟨pa, c.le 8 2, 0⟩ })
      ∧ (w.1 = false → Yields (.xltNotifyRing m) s fun t => Answered m c.tag mbxFailed 0 [] t ∧ t.xlt = w.2.xlt))
    ∧ (Served m 0x0421 s → 1 ≤ c.le 8 2 → c.le 8 2 ≤ 1024 → c.le 10 1 ≤ 1 → let r := pinnedRead pa (8 * c.le 8 2) u
      let size := pageBytes (c.le 10 1 == 1)
      (r.1 = none → Yields (.pageSupply m) s fun t => Answered m c.tag mbxFailed 0 [] t ∧ t.xlt.supply = r.2.xlt.supply)
      ∧ (∀ bs, r.1 = some bs → let pages := (List.range (c.le 8 2)).map fun k => leAt bs (8 * k) 8
        let all := r.2.xlt.supply ++ pages.map fun a => (a, c.le 10 1 == 1)
        (∀ a ∈ pages, a % size = 0 ∧ a + size ≤ poolBytes) → Yields (.pageSupply m) s fun t =>
          Answered m c.tag mbxOk 0 (leBytes 2 all.length) t ∧ t.xlt.supply = all ∧ t.queues = s.queues))
    ∧ (Served m 0x0422 s → pa % 0x4000000 = 0 → pa < 2 ^ 52 → let f := pastInvals (findLeaf pa) u
      f.1 = none → (s.xlt.records.any fun r => r.vpage == pa) = false → (s.xlt.records.filter fun r => r.move.isSome).length < 8 →
      Yields (.pageMigrate m) s fun t => Answered m c.tag mbxConflict 0 [] t ∧ t.xlt.records = s.xlt.records)
    ∧ (Served m 0x0422 s → slotted → let f := pastInvals (findLeaf pa) u
      ∀ a leaf, f.1 = some (a, leaf, false) → pa % pageBytes false = 0 → pa < 2 ^ 52 → c.le 16 1 % 2 = 1 → leafPin leaf = false →
      leafRes leaf = resAbsent → (s.xlt.records.any fun r => r.vpage == pa) = false →
      (s.xlt.records.filter fun r => r.move.isSome).length < 8 →
      exec (.pageMigrate m) s = .next (settle (startMove c pa true (c.le 16 1 / 2 % 2 == 1) (c.le 8 8) a leaf false (placeOp c f.2)))
      ∧ Yields (.pageMigrate m) s fun t => t.mgr.ops.map RunOp.id = s.mgr.ops.map RunOp.id ++ [c.id]
        ∧ (∃ r mv, t.xlt.records = s.xlt.records ++ [r] ∧ r.vpage = pa ∧ r.big = false ∧ r.first = s.now ∧ r.move = some mv ∧ mv.toPool = true)
        ∧ t.queues = s.queues ∧ t.hbm.cells = f.2.hbm.cells)
    ∧ (Served m 0x0423 s → slotted → pa % 0x4000000 = 0 → pa + c.le 8 4 * 0x4000000 ≤ poolBytes → c.le 12 1 ≤ 63 →
      physHeld pa (c.le 8 4 * 0x4000000) s = false → (∀ e ∈ s.coh.cis, ∀ w ∈ e.2.ways, w.2.lock = false) → (s.keyOf (c.le 12 1)).isSome = true →
      (c.le 13 1 % 2 = 0 → exec (.keyMap m) s = .next (settle (setSelectors pa (c.le 8 4) (c.le 12 1) (placeOp c u))))
      ∧ Yields (.keyMap m) s fun t => begun t ∧ (∀ a, pa ≤ a → a < pa + c.le 8 4 * 0x4000000 → t.selectorOf a = c.le 12 1)
        ∧ (∀ a, a < pa ∨ pa + c.le 8 4 * 0x4000000 ≤ a → t.selectorOf a = s.selectorOf a)
        ∧ (∀ x, t.keyOf x = s.keyOf x))

/-- O50: POWER_ON_RESET leaves every part at its reset value but fuses, attach-host memory and the waiting commands, device time 0 and the cause of the last shutdown. DEVICE_RESET answers and is due 1 ms later; BEGIN then resets, keeping the pool only if asked, no new configuration waits and a pool was ever ready; RESET_N_ASSERT is a PIN reset unless the package is off, already held or writing back. STACK_TRAINING_END lets the stacks that trained be initialised and faults on one not isolated; POOL_READY makes them ACTIVE. A shutdown turns the converters off and records its cause and time; an undervoltage records nothing. A trip needs 115 degrees, and a fault of the input stage none; the watchdog 250 ms without a restart, never under the boot ROM; a bridge survives one segment. The test port halts the manager only under PROBE. -/
def Obligations.ResetsStartsAndShutdowns : Prop :=
  ∀ s : State,
    let shut (cause : Byte) (t : State) : Prop := t.pins.converters = false ∧ t.boot.record = some (cause, s.now) ∧ t.sec.svn = s.sec.svn
      ∧ t.sec.revoked = s.sec.revoked ∧ t.hbm = {} ∧ t.keys = [] ∧ t.queues = [] ∧ t.host.mem = s.host.mem
    let up : Prop := s.pins.input = true ∧ s.pins.converters = true
    let begun (kind : Byte) (t : State) : Prop := t.boot.kind = kind ∧ t.sec.svn = s.sec.svn ∧ t.queues = [] ∧ t.cores = []
      ∧ t.boot.record = s.boot.record ∧ t.now = s.now
    (Yields .powerOnReset s fun t => t.now = 0 ∧ t.sec.svn = s.sec.svn ∧ t.sec.revoked = s.sec.revoked ∧ t.sec.level = 0
      ∧ t.host.mem = s.host.mem ∧ t.pending = s.pending ∧ t.hbm = {} ∧ t.coh = {} ∧ t.queues = [] ∧ t.arrays = [] ∧ t.counters = []
      ∧ t.boot.lastShut = (match s.boot.record with | some r => r.1 | none => 0) ∧ t.boot.record = none ∧ t.boot.stage = 1
      ∧ t.pins.converters = true ∧ t.pins.refclk = true)
    ∧ (∀ m : MbxId, let c := cmdAt m s
      Served m 0x0704 s → s.env.member = false → s.boot.resetAt = none → (s.mgr.ops.any fun o => o.id == 0x0702) = false →
      (c.le 0 1 = 3 → Yields (.deviceReset m) s fun t => Answered m c.tag mbxOk 0 [] t
        ∧ t.boot.resetAt = some (s.now + 1000000, c.le 1 1 % 2 == 1) ∧ t.boot.stage = stResetPending)
      ∧ (c.le 0 1 ≠ 3 → exec (.deviceReset m) s = .next (refuse c mbxRange 0 (taken s))))
    ∧ (∀ x p, s.boot.resetAt = some (x, p) → (x ≤ s.now → powered s = true → exec .deviceResetBegin s = .next (deviceReset 3 p s)
        ∧ Yields .deviceResetBegin s (begun 3))
      ∧ (s.now < x → exec .deviceResetBegin s = .next s))
    ∧ (∀ kind p, let t := deviceReset kind p s
      t.boot.kind = kind ∧ t.sec.svn = s.sec.svn ∧ t.sec.revoked = s.sec.revoked ∧ t.queues = [] ∧ t.cores = []
      ∧ (∀ n, (t.arr n).su = {}) ∧ (p = false → ∀ n, n < 16 → (t.arr n).tile = (s.arr n).tile ∧ (t.arr n).acc = (s.arr n).acc ∧ (t.arr n).written = (s.arr n).written)
      ∧ (p = false → t.hbm.cells = [] ∧ t.keys = [] ∧ t.coh = {} ∧ t.boot.dropped = false)
      ∧ (p = true → (s.hbm.nextCfg ≠ none ∨ s.boot.everReady = false) → t.hbm.cells = [] ∧ t.boot.dropped = true)
      ∧ (p = true → s.hbm.nextCfg = none → s.boot.everReady = true → t.boot.phase = .writeBack kind ∧ t.boot.dropped = false))
    ∧ ((s.pins.input = true → s.pins.converters = true → s.pins.resetN = true → writingBack s = false → exec .resetNAssert s
        = .next (deviceReset 2 s.boot.pinPreserve { s with pins := { s.pins with resetN := false } })
        ∧ Yields .resetNAssert s fun t => begun 2 t ∧ t.pins = { s.pins with resetN := false })
      ∧ (s.pins.resetN = false ∨ writingBack s = true ∨ s.pins.converters = false →
        exec .resetNAssert s = .next { s with pins := { s.pins with resetN := false } }))
    ∧ (s.pins.resetN = false → Yields .resetNRelease s fun t => t.pins.resetN = true ∧ t.boot = { s.boot with began := s.now } ∧ t.hbm = s.hbm)
    ∧ (writingBack s = false → exec .resetWriteBackEnd s = .next s)
    ∧ (writingBack s = true → powered s = true → Yields .resetWriteBackEnd s fun t => t.boot.phase = .retuning ∧ t.coh = {} ∧ t.boot.kind = s.boot.kind ∧ t.events = [])
    ∧ (∀ f : BitVec 24, startingUp s = true → s.boot.trained = false → s.boot.phase = .training → s.mgr.order = [] →
      Yields (.stackTrainingEnd f) s fun t => t.boot.trained = true
        ∧ (∀ k, k < 24 → f.getLsbD k = false → (t.stack k).mode = .initialising ∧ (t.stack k).tune = (s.stack k).temp)
        ∧ (∀ k, k < 24 → f.getLsbD k = true → (t.stack k).mode = if s.hbm.iso.getLsbD k = true then .offline else (s.stack k).mode)
        ∧ (t.boot.poolFault = true ↔ ∃ k, k < 24 ∧ f.getLsbD k = true ∧ s.hbm.iso.getLsbD k = false))
    ∧ (s.boot.trained = true → s.boot.poolFault = false → s.boot.poolReady = false → powered s = true → s.boot.fwStart = none →
      Yields .poolReady s fun t => t.boot.poolReady = true ∧ t.boot.everReady = true ∧ t.hbm.cells = s.hbm.cells
        ∧ (∀ k, k < 24 → (t.stack k).mode = if (s.stack k).mode = .initialising then .active else (s.stack k).mode))
    ∧ ((s.boot.trained = false ∨ s.boot.poolFault = true ∨ s.boot.poolReady = true) → exec .poolReady s = .next s)
    ∧ (∀ cause, s.pins.input = true → s.pins.converters = true → let t := shutDown cause s
      t.pins.converters = false ∧ t.boot.record = some (cause, s.now) ∧ t.sec.svn = s.sec.svn ∧ t.sec.level = 0 ∧ t.hbm = {} ∧ t.keys = []
      ∧ (cause = shutThermal → t.pins.thermtripN = false))
    ∧ (∀ cause, s.pins.converters = false → shutDown cause s = s)
    ∧ (∀ temp, (115 ≤ temp → powered s = true → (s.env.member = false → exec (.thermalTrip temp) s = .next (shutDown shutThermal s))
        ∧ Yields (.thermalTrip temp) s fun t => shut shutThermal t ∧ t.pins.thermtripN = false)
      ∧ (temp < 115 → exec (.thermalTrip temp) s = .next s))
    ∧ exec .inputStageFault s = .next (shutDown shutInputStage s) ∧ (up → Yields .inputStageFault s (shut shutInputStage))
    ∧ (powered s = true → s.pins.halted = false → s.boot.activ = none → Yields .watchdogRestart s fun t =>
      t.boot = { s.boot with dog := s.now } ∧ { t with boot := s.boot } = s)
    ∧ ((romRuns s = false → s.boot.dog + 250000000 ≤ s.now → exec .watchdogExpiry s = .next (shutDown shutWatchdog s)
        ∧ (up → Yields .watchdogExpiry s (shut shutWatchdog)))
      ∧ (s.pins.refclk = true → s.now < s.boot.dog + 250000000 → exec .watchdogExpiry s = .next s)
      ∧ (romRuns s = true → exec .watchdogExpiry s = .next s))
    ∧ (∀ seg : Fin 2, s.boot.bridgeDown = 0 → powered s = true → Yields (.bridgeSegmentDown seg) s fun t =>
      t.boot.bridgeDown = BitVec.ofNat 2 (2 ^ seg.val) ∧ t.pins = s.pins ∧ bitOf (t.evBits srcCnt) evBridgeDegraded = true)
    ∧ (∀ seg : Fin 2, s.boot.bridgeDown.getLsbD seg.val = false → s.boot.bridgeDown ≠ 0 → powered s = true → exec (.bridgeSegmentDown seg) s
      = .next (shutDown shutBridge { s with boot := { s.boot with bridgeDown := 3 } }))
    ∧ (Yields .inputUndervoltage s fun t => t.pins.input = false ∧ t.pins.converters = false ∧ t.boot.record = s.boot.record ∧ t.hbm = {} ∧ t.keys = []
      ∧ t.sec.svn = s.sec.svn)
    ∧ (Yields .refclkLoss s fun t => t.pins = { s.pins with refclk := false } ∧ { t with pins := s.pins } = s)
    ∧ (s.pins.input = true → exec (.testPortAccess .boundaryScan) s = .next s ∧ exec (.testPortAccess .internalScan) s = .next s
      ∧ (s.sec.level = 2 → powered s = true → exec (.testPortAccess .managerHalt) s = .next { s with pins := { s.pins with halted := true } })
      ∧ (s.sec.level ≠ 2 → exec (.testPortAccess .managerHalt) s = .next s)
      ∧ Yields (.testPortAccess .readCause) s fun t =>
        t.pins.testOut = (match s.boot.record with | some r => r.1 | none => s.boot.lastShut) ∧ { t with pins := s.pins } = s)

/-- O51: An image passes exactly if it was read, its format keeps R397, its root key is known and not revoked, its signature verifies and its SVN is not below the fused one; the first check that fails gives status and error. FW_LOAD drops what is staged and keeps the verdict; the end of the operation stages an image that passed under running firmware, or counts the failure. FIRMWARE_READY with the pool ready makes firmware ready; 5 s without it returns to the boot ROM. FW_ACTIVATE needs a staged image that accepts the running one's state and an SVN not below the fused one. FIRMWARE_START swaps the images; 20 ms without it, or a rejected state, ends both; ACTIVATION_COMPLETE ends the pause. IDENTITY_READ, GEOMETRY_READ and FW_STATUS report; the geometry table is 512 bytes with its CRC-32 last. -/
def Obligations.FirmwareIsLoadedAndReplaced : Prop :=
  ∀ s : State,
    (∀ ok img len, let key := slice img 0x40 96
      let signed := Config.ecdsaVerify key (imageOf img).digest (img.drop (img.length - 96))
      (checkImage ok img len s = .pass (imageOf img) ↔ ok = true ∧ formatOk img len = true ∧ rootKnown (leAt img 0x30 1) key s = true
        ∧ signed = true ∧ s.sec.svn ≤ leAt img 0x18 8)
      ∧ (ok = true → formatOk img len = true → rootKnown (leAt img 0x30 1) key s = true → signed = true → leAt img 0x18 8 < s.sec.svn →
        checkImage ok img len s = .fail mbxDenied errSvnLow)
      ∧ (ok = true → formatOk img len = true → rootKnown (leAt img 0x30 1) key s = false →
        checkImage ok img len s = .fail mbxBadSignature errKeyUnknown))
    ∧ (∀ slot key, slot < 4 → s.sec.revoked.getLsbD slot = true → rootKnown slot key s = false)
    ∧ (∀ (m : MbxId) ok, let c := cmdAt m s
      let slotted : Prop := keepsMailbox c s = true ∨ (freeSlot? c.m s).isSome = true
      Served m 0x0701 s → firmwareHeld s = false → slotted → c.le 8 4 ≤ imageMax → portCarries s 0 = true → Yields (.fwLoad m ok) s fun t =>
        ((∀ k, Sparse.get false s.host.poison k = false) → t.boot.verdict = some (checkImage ok (s.host.mem.readN (apertureBase + c.le 0 8) (c.le 8 4)) (c.le 8 4) s))
        ∧ t.boot.verdict.isSome = true ∧ t.boot.staged = none ∧ t.boot.running = s.boot.running)
    ∧ (∀ (m : MbxId) d, let c := cmdAt m s
      Served m 0x0701 s → imageMax < c.le 8 4 → exec (.fwLoad m d) s = .next (refuse c mbxRange 8 (taken s)))
    ∧ (∀ (m : MbxId) slot (o : RunOp) ok d, opAt m slot s = some o → powered s = true → mgrServes s = true → o.id = 0x0701 →
      (∀ img, s.boot.verdict = some (.pass img) → s.boot.fwReady = true → Yields (.longOperationEnd m slot ok d) s fun t =>
        t = endOp o mbxOk (fit 48 img.digest ++ leBytes 8 img.svn ++ leBytes 4 img.version)
          { s with boot := { s.boot with verdict := none, staged := some img } }
        ∧ t.boot = { s.boot with verdict := none, staged := some img } ∧ t.mgr.ops = s.mgr.ops.erase o)
      ∧ (∀ st e, s.boot.verdict = some (.fail st e) → s.boot.stage ≠ stVerify → exec (.longOperationEnd m slot ok d) s
        = .next (endOp o st [] (raiseEv srcBoot evLoadFail (count loadFailCount 1 { s with boot := { s.boot with verdict := none, error := e } })))))
    ∧ (∀ (m : MbxId) slot (o : RunOp) ok d, opAt m slot s = some o → powered s = true → mgrServes s = true → (o.id = 0x0410 ∨ o.id = 0x0423) →
      exec (.longOperationEnd m slot ok d) s = .next (endOp o mbxOk [] s)
      ∧ Yields (.longOperationEnd m slot ok d) s fun t => t.mgr.ops = s.mgr.ops.erase o ∧ t.boot = s.boot ∧ t.coh = s.coh ∧ t.hbm = s.hbm)
    ∧ (∀ x img, powered s = true → s.boot.fwStart = some x → s.boot.running = some img →
      (s.boot.poolReady = true → (img.segs.any fun g => g.kind == 4) = false → s.mgr.order = [] → Yields .firmwareReady s fun t =>
        t.boot = { s.boot with fwStart := none, fwReady := true, stage := stReady } ∧ bitOf (t.evBits srcBoot) evReady = true)
      ∧ (s.boot.poolReady = false → s.boot.poolFault = false → exec .firmwareReady s = .next s)
      ∧ (x + 5000000000 ≤ s.now → Yields .fwStartTimeout s fun t => t.boot = { s.boot with
        fwStart := none, running := none, error := errFwStartTimeout, stage := stWaitImage } ∧ { t with boot := s.boot } = s)
      ∧ (s.now < x + 5000000000 → exec .fwStartTimeout s = .next s))
    ∧ (∀ (m : MbxId), let c := cmdAt m s
      let slotted : Prop := keepsMailbox c s = true ∨ (freeSlot? c.m s).isSome = true
      Served m 0x0702 s → firmwareHeld s = false → slotted → ∀ n r, s.boot.running = some r →
      (s.boot.staged = some n → n.liveOk = true → n.accept = r.emit → s.sec.svn ≤ n.svn → Yields (.fwActivate m) s fun t =>
        t.boot.activ.map (fun a => (a.start, a.started)) = some (s.now, false) ∧ t.boot.stage = stActivating
        ∧ t.boot.handover = some r.emit ∧ t.boot.running = some r ∧ t.boot.staged = some n)
      ∧ (s.boot.staged = none ∨ (s.boot.staged = some n ∧ (n.liveOk = false ∨ n.accept ≠ r.emit ∨ n.svn < s.sec.svn)) →
        exec (.fwActivate m) s = .next (refuse c mbxConflict noField (taken s))))
    ∧ (∀ a, powered s = true → s.boot.activ = some a → a.started = false →
      (s.now ≤ a.start + 20000000 → Yields (.firmwareStart true) s fun t => t.boot = { s.boot with
          running := s.boot.staged, staged := none, dog := s.now, activ := some { a with started := true } } ∧ { t with boot := s.boot } = s)
      ∧ (s.now ≤ a.start + 20000000 → exec (.firmwareStart false) s = .next (activationFails errStateRejected s))
      ∧ (a.start + 20000000 ≤ s.now → exec .activationTimeout s = .next (activationFails errFwStartTimeout s)
        ∧ Yields .activationTimeout s fun t => t.boot.running = none ∧ t.boot.staged = none ∧ t.boot.fwReady = false ∧ t.boot.activ = none
          ∧ t.boot.stage = stActivateFailed ∧ t.boot.error = errFwStartTimeout)
      ∧ exec .activationComplete s = .next s)
    ∧ (∀ e, let t := activationFails e s
      t.boot.running = none ∧ t.boot.staged = none ∧ t.boot.fwReady = false ∧ t.boot.stage = stActivateFailed ∧ t.boot.error = e)
    ∧ (∀ a, s.boot.activ = some a → a.started = true → powered s = true → Yields .activationComplete s fun t =>
      t.boot.activ = none ∧ t.boot.handover = none ∧ t.boot.stage = stReady ∧ t.boot.running = s.boot.running
      ∧ bitOf (t.evBits srcBoot) evActivated = true)
    ∧ (∀ m : MbxId, let c := cmdAt m s
      (Served m 0x0101 s → Yields (.identityRead m) s fun t => (t.mbx m.val).busy = false ∧ (t.mbx m.val).done = true ∧ t.boot = s.boot)
      ∧ (Served m 0x0102 s → Yields (.geometryRead m) s fun t => Answered m c.tag mbxOk 0 geometryTable t ∧ t.boot = s.boot)
      ∧ (Served m 0x0703 s → ∀ r, s.boot.running = some r → Yields (.fwStatus m) s fun t => t.boot = s.boot ∧ Answered m c.tag mbxOk 0
        (fit 48 r.digest ++ digestOf s.boot.staged ++ leBytes 4 r.version ++ leBytes 1 (if s.boot.staged.isSome = true then 1 else 0)) t))
    ∧ geometryTable.length = 512 ∧ leAt geometryTable 508 4 = (crc32 (geometryTable.take 508)).toNat

/-- O52: Served alone: ATTEST draws a transport key for its mailbox and answers 480 bytes; CERT_READ answers a piece of a certificate or RANGE; KEY_ERASE leaves the selector without a key, its lines out of the Cisterns and every other key as it was; KEY_LOAD stores the derived key only when the tag matches and changes no key otherwise; DEBUG_CHALLENGE replaces the challenge. An authorisation whose first check fails is RANGE and leaves the challenge; one with an unknown root key is BAD_SIGNATURE and leaves it; one with a bad signature, another serial or another challenge uses it up; each is counted. DEBUG_AUTH that passes sets the level. ROOT_REVOKE never revokes the last slot. SVN_ADVANCE never lowers the version, nor passes the running image's. The level ends at DEBUG_END and at NOT_AFTER; a challenge after 60 s. -/
def Obligations.KeysAndAuthorisationsAct : Prop :=
  ∀ (m : MbxId) (s : State), let c := cmdAt m s
    let u := taken s
    let ended (t : State) : Prop := t.sec = { s.sec with level := 0, signer := 0, notAfter := 0 } ∧ bitOf (t.evBits srcDbg) evEnded = true
      ∧ t.keys = s.keys ∧ t.boot = s.boot ∧ t.queues = s.queues
    (Served m 0x0802 s → Yields (.attest m) s fun t => t.sec = { s.sec with
      draws := s.sec.draws + 1, transport := Sparse.set none s.sec.transport m.val (some ⟨s.sec.draws, c.pay.take 32⟩) }
      ∧ (t.mbx m.val).busy = false ∧ t.keys = s.keys)
    ∧ (∀ nonce pub, (reportBody m nonce pub s).length = 384)
    ∧ (∀ i : Fin 3, Served m 0x0801 s → c.le 0 1 = i.val → (c.le 4 4 < (Config.certificate i).length → Yields (.certRead m) s fun t => t.sec = s.sec
        ∧ Answered m c.tag mbxOk 0 (leBytes 4 (Config.certificate i).length ++ leBytes 12 0 ++ slice (Config.certificate i) (c.le 4 4) 4064) t)
      ∧ ((Config.certificate i).length ≤ c.le 4 4 → Yields (.certRead m) s (Answered m c.tag mbxRange 4 [])))
    ∧ (∀ sel, sel ≠ 0 → (s.keyOf sel ≠ none → (eraseKey sel s).keyOf sel = none) ∧ (∀ k, k ≠ sel → (eraseKey sel s).keyOf k = s.keyOf k)
      ∧ (eraseKey sel s).hbm.cells = s.hbm.cells ∧ (eraseKey sel s).sec = s.sec)
    ∧ (Served m 0x0431 s → 1 ≤ c.le 0 1 → c.le 0 1 ≤ 63 → (s.mgr.ops.any fun o => o.id == 0x0423 && o.le 12 1 == c.le 0 1) = false →
      exec (.keyErase m) s = .next (answer c [] (eraseKey (c.le 0 1) u))
      ∧ Yields (.keyErase m) s fun t => Answered m c.tag mbxOk 0 [] t ∧ t.keyOf (c.le 0 1) = none
        ∧ (∀ k, k ≠ c.le 0 1 → t.keyOf k = s.keyOf k) ∧ t.hbm.cells = s.hbm.cells ∧ t.sec = s.sec)
    ∧ (Served m 0x0430 s → 1 ≤ c.le 0 1 → c.le 0 1 ≤ 63 → leAt (slice c.pay 8 72) 0 1 ≤ 1 →
      (s.keyOf (c.le 0 1) ≠ none → Yields (.keyLoad m) s fun t => Answered m c.tag mbxConflict 0 [] t ∧ t.keys = s.keys)
      ∧ (s.keyOf (c.le 0 1) = none → s.sec.level = 2 → Yields (.keyLoad m) s fun t => Answered m c.tag mbxConflict noField [] t ∧ t.keys = s.keys)
      ∧ (∀ x okm, s.keyOf (c.le 0 1) = none → s.sec.level ≠ 2 → Sparse.get none s.sec.transport m.val = some x →
        deriveKeys x (c.le 0 1) (slice c.pay 8 72) = some okm → let tag := (fit 48 (Config.hmacSha384 (slice okm 64 32)
          (txtKeyLoad ++ leBytes 1 (c.le 0 1) ++ leBytes 8 Config.fuseSerial.toNat))).take 16
        (tag = slice (slice c.pay 8 72) 56 16 → Yields (.keyLoad m) s fun t => Answered m c.tag mbxOk 0 [] t
          ∧ t.keys = Sparse.set [] s.keys (c.le 0 1) (okm.take 64) ∧ t.sec = s.sec ∧ t.hbm = s.hbm)
        ∧ (tag ≠ slice (slice c.pay 8 72) 56 16 → Yields (.keyLoad m) s fun t => Answered m c.tag mbxBadSignature 0 [] t ∧ t.keys = s.keys)))
    ∧ (Served m 0x0803 s → Yields (.debugChallenge m) s fun t => t.sec = { s.sec with
      draws := s.sec.draws + 1, challenge := some (fit 32 (Config.random s.sec.draws), s.now) })
    ∧ (Served m 0x0804 s → let fail (st : BitVec 16) (d : Nat) (v : State) := refuse c st d (raiseEv srcDbg evAuthFail (count authFailCount 1 v))
      let key := slice c.pay 56 96
      let used := u.modSec fun x => { x with challenge := none }
      let good := Config.ecdsaVerify key (Config.sha384 (c.pay.take 152)) (slice c.pay 152 96)
      (∀ d, authRange 1 2 c.pay = some d → exec (.debugAuth m) s = .next (fail mbxRange d u))
      ∧ (authRange 1 2 c.pay = none → rootKnown (leAt c.pay 5 1) key s = false → exec (.debugAuth m) s = .next (fail mbxBadSignature 0 u))
      ∧ (authRange 1 2 c.pay = none → rootKnown (leAt c.pay 5 1) key s = true → good = false →
        exec (.debugAuth m) s = .next (fail mbxBadSignature 0 used))
      ∧ (authRange 1 2 c.pay = none → rootKnown (leAt c.pay 5 1) key s = true → good = true → leAt c.pay 8 8 ≠ Config.fuseSerial.toNat →
        exec (.debugAuth m) s = .next (fail mbxDenied 0 used))
      ∧ (authRange 1 2 c.pay = none → authChecks c.pay s = (none, true) → Yields (.debugAuth m) s fun t =>
        t.sec.level = leAt c.pay 6 1 ∧ t.sec.signer = leAt c.pay 5 1 ∧ t.sec.notAfter = leAt c.pay 48 8 ∧ t.sec.challenge = none
        ∧ t.sec.svn = s.sec.svn ∧ t.sec.revoked = s.sec.revoked ∧ t.hbm.cells = s.hbm.cells))
    ∧ (∀ x, s.sec.challenge = some x → ∀ a, slice a 16 32 ≠ x.1 → (authChecks a s).1 ≠ none)
    ∧ (Served m 0x0805 s → let a := c.pay.drop 8
      (3 < c.le 0 1 → exec (.rootRevoke m) s = .next (refuse c mbxRange 0 u))
      ∧ (c.le 0 1 ≤ 3 → authRange 2 255 a = none → authChecks a s = (none, true) → leAt a 6 1 = c.le 0 1 → leAt a 5 1 ≠ c.le 0 1 →
        (∀ r, s.boot.running = some r → r.slot ≠ c.le 0 1) → (s.sec.revoked.getLsbD (c.le 0 1) = true ∨ openSlots s ≠ 1) →
        Yields (.rootRevoke m) s fun t => t.sec = { s.sec with challenge := none, revoked := s.sec.revoked ||| BitVec.ofNat 4 (2 ^ c.le 0 1) }))
    ∧ (Served m 0x0806 s → 1 ≤ c.le 0 1 → c.le 0 1 ≤ 64 → (s.sec.level = 2 → exec (.svnAdvance m) s = .next (refuse c mbxDenied 0 u))
      ∧ (s.sec.level ≠ 2 → c.le 0 1 < s.sec.svn → exec (.svnAdvance m) s = .next (refuse c mbxConflict 0 u))
      ∧ (∀ r, s.sec.level ≠ 2 → s.sec.svn ≤ c.le 0 1 → s.boot.running = some r → c.le 0 1 ≤ r.svn → Yields (.svnAdvance m) s fun t =>
        Answered m c.tag mbxOk 0 (leBytes 1 (c.le 0 1)) t ∧ t.sec = { s.sec with svn := c.le 0 1 }))
    ∧ (∀ v : W64, (v.getLsbD 0 = false → exec (.debugEnd v) s = .next s)
      ∧ (v.getLsbD 0 = true → powered s = true → exec (.debugEnd v) s = .next (endDebug s)
        ∧ (s.sec.level ≠ 0 → Yields (.debugEnd v) s ended)))
    ∧ (s.sec.level ≠ 0 → s.mgr.order = [] → (endDebug s).sec = { s.sec with level := 0, signer := 0, notAfter := 0 }
      ∧ bitOf ((endDebug s).evBits srcDbg) evEnded = true ∧ (endDebug s).keys = s.keys)
    ∧ ((s.sec.notAfter ≠ 0 → s.sec.notAfter ≤ s.now → powered s = true → exec .notAfterExpiry s = .next (endDebug s)
        ∧ (s.sec.level ≠ 0 → Yields .notAfterExpiry s ended))
      ∧ ((s.sec.notAfter = 0 ∨ s.now < s.sec.notAfter) → exec .notAfterExpiry s = .next s))
    ∧ (∀ x, s.sec.challenge = some x → (x.2 + 60000000000 ≤ s.now → powered s = true → Yields .challengeExpiry s fun t =>
        t.sec = { s.sec with challenge := none } ∧ { t with sec := s.sec } = s)
      ∧ (s.now < x.2 + 60000000000 → exec .challengeExpiry s = .next s))

/-- O53: For every path that is open, every offset and width that is not a naturally aligned access of 32 or 64 bits: REGISTER_READ answers a next state in which the read has returned zero bytes on its path and REGISTER_WRITE one in which nothing was written; both have counted one access error, noted it (unless one is noted already) and raised its event, and no other part of the state has changed. A naturally aligned access of 32 or 64 bits to a register reads, or hands to that register, exactly the bits of its place in the 64-bit register; of a word of the streaming marks (0x508000 on) that write leaves the value written, with 32 bits the other half as it was. -/
def Obligations.ImproperAccessesHaveNoEffect : Prop :=
  ∀ (p : Path) (off : BitVec 24) (w : Nat) (v : W64) (s : State), pathOpen p s = true →
    (¬ ((w = 32 ∧ off.toNat % 4 = 0) ∨ (w = 64 ∧ off.toNat % 8 = 0)) →
      (∃ t, exec (.registerRead p off w) s = .next (replyRead p (w / 8) 0 t) ∧ Counts accessErrCount 1 s { t with accInfo := s.accInfo }
        ∧ bitOf (t.evBits srcCnt) 0 = true)
      ∧ Yields (.registerWrite p off w v) s fun t => Counts accessErrCount 1 s { t with accInfo := s.accInfo }
        ∧ bitOf (t.evBits srcCnt) 0 = true)
    ∧ ((w = 32 ∧ off.toNat % 4 = 0) ∨ (w = 64 ∧ off.toNat % 8 = 0) →
      (∀ x t, pathRead p (off.toNat / 8 * 8) s = some (x, t) →
        let bs := leBytes (w / 8) (x.toNat / 2 ^ (8 * (off.toNat % 8)) % 2 ^ w)
        exec (.registerRead p off w) s = .next (replyRead p (w / 8) (w64 (x.toNat / 2 ^ (8 * (off.toNat % 8)) % 2 ^ w)) t)
        ∧ Yields (.registerRead p off w) s fun u => match p with
          | .port q => u = { t with outbox := t.outbox ++ [.completion q bs false] }
          | .core c => (u.core c.val).loaded = bs ∧ (∀ k, k ≠ c.val → u.core k = t.core k) ∧ { u with cores := t.cores } = t
          | .debug => u = { t with outbox := t.outbox ++ [.debugData bs] })
      ∧ (∀ x t, regRead (off.toNat / 8 * 8) s = some (x, t) →
        exec (.registerWrite p off w v) s = .next (regWrite (off.toNat / 8 * 8) (w64 ((2 ^ w - 1) * 2 ^ (8 * (off.toNat % 8))))
          (w64 (v.toNat % 2 ^ w * 2 ^ (8 * (off.toNat % 8)))) s)))
    ∧ (∀ k, k < 288 → off.toNat = 0x508000 + 8 * k →
      let old := Sparse.get 0 s.xlt.streamBits k
      let others (t : State) : Prop := (∀ j, j ≠ k → Sparse.get 0 t.xlt.streamBits j = Sparse.get 0 s.xlt.streamBits j) ∧ { t with xlt := s.xlt } = s
      (w = 64 → Yields (.registerWrite p off w v) s fun t => Sparse.get 0 t.xlt.streamBits k = v ∧ others t)
      ∧ (w = 32 → Yields (.registerWrite p off w v) s fun t =>
        (Sparse.get 0 t.xlt.streamBits k).toNat = old.toNat / 2 ^ 32 * 2 ^ 32 + v.toNat % 2 ^ 32 ∧ others t))

/-- O54: CORE_LOAD of bytes in the pool asks their home and CORE_STORE writes there; in a hole, or across two regions, they fault with cause 5 (1 for a fetch) and 7; of array memory the load delivers the array's bytes; a store conditional or an atomic outside the pool faults with cause 7, a load reserved with cause 5. DEBUG_PATH_ACCESS of 32 or 64 naturally aligned bits reads and writes an engine's register, and is a counted access error otherwise or where the block lists none. BLOCK_READ answers the words of an engine's block, zero where none is; BLOCK_WRITE writes one. A path that is closed, or a load of no bytes, changes nothing. -/
def Obligations.AccessesReachTheirBlocks : Prop :=
  ∀ s : State,
    (∀ (c : CoreId) (pa : PAddr) n k, powered s = true → n ≠ 0 →
      (accessRegion pa.toNat n = .pool → exec (.coreLoad c pa n k) s = .next (homeRequest (.load c pa n k) s))
      ∧ (accessRegion pa.toNat n = .hole → exec (.coreLoad c pa n k) s = .next (coreFault c.val (if k = .fetch then 1 else 5) pa.toNat s))
      ∧ (accessRegion pa.toNat n ≠ .pool → k = .reserved → exec (.coreLoad c pa n k) s = .next (coreFault c.val 5 pa.toNat s))
      ∧ (accessRegion pa.toNat n = .store → k ≠ .reserved →
        ((slotRead (s.arr (storePlace pa.toNat).1) (storePlace pa.toNat).2 n).any Prod.snd) = false →
        Yields (.coreLoad c pa n k) s fun t => (t.core c.val).loaded = (slotRead (s.arr (storePlace pa.toNat).1) (storePlace pa.toNat).2 n).map Prod.fst
          ∧ (∀ j, j ≠ c.val → t.core j = s.core j) ∧ { t with cores := s.cores } = s))
    ∧ (∀ (c : CoreId) (pa : PAddr) d k, powered s = true → d ≠ [] →
      (accessRegion pa.toNat d.length = .pool → exec (.coreStore c pa d k) s = .next (homeRequest (.store c pa d k) s))
      ∧ (accessRegion pa.toNat d.length = .hole → exec (.coreStore c pa d k) s = .next (coreFault c.val 7 pa.toNat s))
      ∧ (accessRegion pa.toNat d.length ≠ .pool → k ≠ .scalar → k ≠ .vector → exec (.coreStore c pa d k) s = .next (coreFault c.val 7 pa.toNat s))
      ∧ (accessRegion pa.toNat d.length = .registers → k = .scalar → exec (.coreStore c pa d k) s
        = .next (spaceWrite (.core c) (pa.toNat - registerBase) (8 * d.length) (w64 (leNat d)) s)))
    ∧ (powered s = false → (∀ c pa n k, exec (.coreLoad c pa n k) s = .next s) ∧ (∀ c pa d k, exec (.coreStore c pa d k) s = .next s)
      ∧ (∀ p off w, exec (.registerRead p off w) s = .next s) ∧ (∀ p off w v, exec (.registerWrite p off w v) s = .next s))
    ∧ (s.sec.level = 0 → ∀ e sub off w v, exec (.debugPathAccess e sub off ⟨w, v⟩) s = .next s)
    ∧ (s.sec.level ≠ 0 → powered s = true → ∀ (e : BitVec 8) (sub : Bool) (off : BitVec 12) (w : Nat), let b := if sub = true then 1 else 0
      let proper : Prop := (w = 32 ∧ off.toNat % 4 = 0) ∨ (w = 64 ∧ off.toNat % 8 = 0)
      let sh := 8 * (off.toNat % 8)
      let erred (t : State) : Prop := t.ctr accessErrCount = w64 (min ((s.ctr accessErrCount).toNat + 1) (2 ^ 64 - 1))
        ∧ bitOf (t.evBits srcCnt) 0 = true ∧ t.arrays = s.arrays ∧ t.vecs = s.vecs ∧ t.sec = s.sec
      (proper → ∀ x, blockRead1 e.toNat b (off.toNat / 8 * 8) s = some x →
        Yields (.debugPathAccess e sub off ⟨w, none⟩) s (fun t =>
          t = { s with outbox := s.outbox ++ [.debugData (leBytes (w / 8) (x.toNat / 2 ^ sh % 2 ^ w))] })
        ∧ (∀ v, exec (.debugPathAccess e sub off ⟨w, some v⟩) s = .next (blockWrite1 e.toNat b (off.toNat / 8 * 8)
            (w64 ((2 ^ w - 1) * 2 ^ sh)) (w64 (v.toNat % 2 ^ w * 2 ^ sh)) s)
          ∧ Yields (.debugPathAccess e sub off ⟨w, some v⟩) s fun t => t.sec = s.sec ∧ t.mgr = s.mgr ∧ t.boot = s.boot ∧ t.net = s.net
            ∧ t.env = s.env ∧ t.keys = s.keys))
      ∧ (¬ proper ∨ blockRead1 e.toNat b (off.toNat / 8 * 8) s = none →
        Yields (.debugPathAccess e sub off ⟨w, none⟩) s (fun t => erred t ∧ t.outbox = s.outbox ++ [.debugData (leBytes (w / 8) 0)])
        ∧ ∀ v, Yields (.debugPathAccess e sub off ⟨w, some v⟩) s fun t => erred t ∧ t.outbox = s.outbox))
    ∧ (∀ m : MbxId, let c := cmdAt m s
      hasBlock (c.le 0 1) 0 = true → hasBlock (c.le 0 1) (c.le 1 1) = true → c.le 2 2 % 8 = 0 → c.le 2 2 + 8 * c.le 4 2 ≤ 0x1000 →
      (Served m 0x0601 s → 1 ≤ c.le 4 2 → c.le 4 2 ≤ (if m = 2 then 126 else 508) → Yields (.blockRead m) s fun t =>
        Answered m c.tag mbxOk 0 ((List.range (c.le 4 2)).flatMap fun k =>
          leBytes 8 ((blockRead1 (c.le 0 1) (c.le 1 1) (c.le 2 2 + 8 * k) (taken s)).getD 0).toNat) t
        ∧ t.arrays = s.arrays ∧ t.vecs = s.vecs ∧ t.sec = s.sec)
      ∧ (Served m 0x0602 s → c.le 4 2 = 1 → exec (.blockWrite m) s
          = .next (settle (answer c [] (blockWrite1 (c.le 0 1) (c.le 1 1) (c.le 2 2) (BitVec.allOnes 64) (w64 (c.le 8 8)) (taken s))))
        ∧ Yields (.blockWrite m) s fun t => Answered m c.tag mbxOk 0 [] t ∧ t.sec = s.sec ∧ t.boot = s.boot ∧ t.env = s.env ∧ t.keys = s.keys))

/-- O55: With power and clock. A doorbell with GO = 1 on a free mailbox other than 2 makes it busy and puts it behind the mailboxes that wait; on a busy one, and on mailbox 2, it is rejected and counted; GO = 0 does nothing. MBX_OP_DONE_WRITE frees exactly the slots written 1 that have ended, but not one that ends in the same cycle. MAILBOX2_COMMAND on a free mailbox 2 takes its bytes and its sender; on a busy one the sender is told BUSY. FABRIC_MAILBOX sends its command to a node that can be reached and waits; the response of that node with the inner TAG answers it, and MAILBOX timeout does after its time; a response nobody waits for changes nothing. -/
def Obligations.MailboxesExchangeCommands : Prop :=
  ∀ (m : MbxId) (s : State), powered s = true →
    (∀ v : W64, (v.getLsbD 0 = false → exec (.mbxDoorbellGo m v) s = .next s)
      ∧ (v.getLsbD 0 = true → (s.mbx m.val).busy = true ∨ m = 2 → Yields (.mbxDoorbellGo m v) s fun t =>
        t.mbx m.val = { s.mbx m.val with overrun := true } ∧ t.mgr.order = s.mgr.order
        ∧ t.ctr (rejectCount m.val) = w64 (min ((s.ctr (rejectCount m.val)).toNat + 1) (2 ^ 64 - 1))
        ∧ (∀ k, k ≠ m.val → t.mbx k = s.mbx k))
      ∧ (v.getLsbD 0 = true → (s.mbx m.val).busy = false → m ≠ 2 → mgrServes s = false → Yields (.mbxDoorbellGo m v) s fun t =>
        t.mbx m.val = { s.mbx m.val with busy := true, done := false } ∧ t.mgr.order = s.mgr.order ++ [m] ∧ (∀ k, k ≠ m.val → t.mbx k = s.mbx k))
      ∧ (v.getLsbD 0 = true → (s.mbx m.val).busy = false → m ≠ 2 → mgrServes s = true → s.mgr.order = [] →
        ∀ e d, mbxCheck (cmdAt m s) (s.modMbx m.val fun x => { x with busy := true, done := false }) = some (e, d) →
        Yields (.mbxDoorbellGo m v) s fun t => Answered m (cmdAt m s).tag e d [] t ∧ t.mgr.order = []))
    ∧ (∀ v : W64, Yields (.mbxOpDoneWrite m v) s fun t =>
      (∀ j, j < 8 → Sparse.get {} (t.mbx m.val).slots j = if clearsMbx m.val (8 + j) (v.getLsbD j) s = true ∧ (Sparse.get {} (s.mbx m.val).slots j).ended = true then {}
        else Sparse.get {} (s.mbx m.val).slots j)
      ∧ (∀ k, k ≠ m.val → t.mbx k = s.mbx k) ∧ { t with mgr := s.mgr } = s)
    ∧ (∀ src bs, ((s.mbx 2).busy = false → mgrServes s = false → Yields (.mailbox2Command src bs) s fun t =>
        (t.mbx 2).cmd = Mem.writeN [] 0 (bs.take 1024) ∧ (t.mbx 2).busy = true ∧ t.mgr.order = s.mgr.order ++ [2] ∧ t.mgr.from2 = src)
      ∧ ((s.mbx 2).busy = true → exec (.mailbox2Command src bs) s
        = .next (sendMgmt src 1 (leBytes 8 (leAt bs 4 4 * 2 ^ 32 + mbxBusy.toNat) ++ leBytes 8 noField) s)))
    ∧ (let c := cmdAt m s
      let node : NodeId := BitVec.ofNat 16 (c.le 0 2)
      let ms := if c.le 2 2 = 0 then 200 else c.le 2 2
      Served m 0x0520 s → c.pay.length ≤ 1032 → ((s.route node.toNat).unreach = true → Yields (.fabricMailbox m) s (Answered m c.tag mbxFailed 0 []))
      ∧ ((s.route node.toNat).unreach = false →
        let w : FabricWait := ⟨m, BitVec.ofNat 32 c.tag, node, BitVec.ofNat 32 (leAt (c.pay.drop 8) 4 4), s.now + ms * 1000000⟩
        exec (.fabricMailbox m) s = .next (settle (sendMgmt node 1 (c.pay.drop 8) ((taken s).modMgr fun g => { g with fabric := s.mgr.fabric ++ [w] })))
        ∧ Yields (.fabricMailbox m) s fun t => t.mgr = { s.mgr with order := [], fabric := s.mgr.fabric ++ [w] } ∧ t.queues = s.queues))
    ∧ (∀ src bs (w : FabricWait), s.mgr.order = [] → (s.mgr.fabric = [w] → w.node = src → w.inner.toNat = leAt bs 4 4 →
        BitVec.ofNat 16 (leAt bs 0 2) = mbxOk → Yields (.fabricMailboxResponse src bs) s fun t =>
          Answered w.m w.tag.toNat mbxOk (leAt bs 8 4) ((bs.drop 16).take (leAt bs 2 2)) t ∧ t.mgr.fabric = [])
      ∧ (s.mgr.fabric = [w] → w.until_ ≤ s.now → Yields .fabricMailboxTimeout s fun t => Answered w.m w.tag.toNat mbxTimeout 0 [] t ∧ t.mgr.fabric = []))
    ∧ (∀ src bs, (∀ w ∈ s.mgr.fabric, w.node ≠ src) → exec (.fabricMailboxResponse src bs) s = .next s)
    ∧ ((∀ w ∈ s.mgr.fabric, s.now < w.until_) → exec .fabricMailboxTimeout s = .next s)

/-- O56: EVENT_ROUTE of a valid source gives it the route named and leaves the routes of other sources; a route for instance 0xFF covers the whole block. EVENT_LOG_WRITE takes the earliest edge, logs it with the next sequence number behind the others, dropping the oldest of 1,024 and counting it as lost, and sends the routed interrupt; without an edge it changes nothing. EVENT_LOG_READ answers records from FIRST on. TELEMETRY_WINDOW starts or stops a window; TELEMETRY_PERIOD acts only when its time has come, and in an activation pause passes without a record. -/
def Obligations.EventsAreLoggedAndRouted : Prop :=
  ∀ s : State,
    (∀ m : MbxId, let c := cmdAt m s
      (Served m 0x0603 s → validSource (c.le 0 2) = true → c.le 2 1 ≤ 2 → c.le 3 1 ≤ 1 → (c.le 2 1 = 2 → c.le 4 1 ≤ 127) →
        Yields (.eventRoute m) s fun t => Answered m c.tag mbxOk 0 [] t
          ∧ routeFor (c.le 0 2) t.mgr.routes = some ⟨c.le 2 1, c.le 3 1, c.le 4 1, c.le 5 1⟩
          ∧ (∀ x, x / 256 ≠ c.le 0 2 / 256 → routeFor x t.mgr.routes = routeFor x s.mgr.routes)
          ∧ (c.le 0 2 % 256 = 255 → ∀ x, x / 256 = c.le 0 2 / 256 →
            routeFor x t.mgr.routes = some ⟨c.le 2 1, c.le 3 1, c.le 4 1, c.le 5 1⟩))
      ∧ (Served m 0x0603 s → validSource (c.le 0 2) = false → Yields (.eventRoute m) s fun t => Answered m c.tag mbxRange 0 [] t ∧ t.mgr.routes = s.mgr.routes)
      ∧ (Served m 0x0604 s → 1 ≤ c.le 2 2 → c.le 2 2 ≤ (if m = 2 then 31 else 127) → let rs := (s.mgr.log.drop (c.le 0 2)).take (c.le 2 2)
        Yields (.eventLogRead m) s fun t => Answered m c.tag mbxOk 0 (leBytes 4 rs.length ++ rs.flatMap EvRec.bytes) t ∧ t.mgr.log = s.mgr.log)
      ∧ (Served m 0x0605 s → c.le 0 1 ≤ 15 → c.le 1 1 = 0 → Yields (.telemetryWindow m) s fun t => Answered m c.tag mbxOk 0 [] t
        ∧ Sparse.get {} t.mgr.windows (c.le 0 1) = {} ∧ ∀ k, k ≠ c.le 0 1 → Sparse.get {} t.mgr.windows k = Sparse.get {} s.mgr.windows k)
      ∧ (Served m 0x0605 s → c.le 0 1 ≤ 15 → c.le 1 1 = 1 → 10 ≤ c.le 16 4 → c.le 16 4 ≤ 1000000 → 1 ≤ c.le 32 2 → 1 ≤ c.le 34 2 → c.le 34 2 ≤ 64 →
        telBadReg c = none → Yields (.telemetryWindow m) s fun t => let w := Sparse.get {} t.mgr.windows (c.le 0 1)
          w.on = true ∧ w.start = max s.now (c.le 8 8) ∧ w.periodUs = c.le 16 4 ∧ w.periods = c.le 20 4 ∧ w.ringVa = c.le 24 8
          ∧ w.entries = c.le 32 2 ∧ w.regs = (telRegs c).map (BitVec.ofNat 32) ∧ w.passed = 0 ∧ w.written = 0))
    ∧ (s.edges = [] → exec .eventLogWrite s = .next s)
    ∧ (∀ e es, (∀ x ∈ es, edgeBefore x e = false) → firstEdge (e :: es) = some e)
    ∧ (∀ e, firstEdge s.edges = some e → fwRuns s = true → exec .eventLogWrite s
        = .next (sendRouted e.src.toNat (appendRecord (recordOf e s) { s with edges := s.edges.erase e }))
      ∧ Yields .eventLogWrite s fun t => t.mgr.log.getLast? = some (recordOf e s) ∧ t.mgr.nextSeq = s.mgr.nextSeq + 1
        ∧ t.mgr.log.length = min 1024 (s.mgr.log.length + 1) ∧ (∀ x ∈ s.edges.erase e, x ∈ t.edges) ∧ t.queues = s.queues)
    ∧ (∀ r : EvRec, let t := appendRecord r s
      t.mgr.nextSeq = s.mgr.nextSeq + 1
      ∧ (s.mgr.log.length < 1024 → t.mgr.log = s.mgr.log ++ [r])
      ∧ (1024 ≤ s.mgr.log.length → t.mgr.log = s.mgr.log.drop 1 ++ [r] ∧ bitOf (t.evBits srcCnt) evEventLost = true
        ∧ t.ctr eventLostCount = w64 (min ((s.ctr eventLostCount).toNat + 1) (2 ^ 64 - 1)))
      ∧ t.ctr eventCount = w64 (min ((s.ctr eventCount).toNat + 1) (2 ^ 64 - 1)))
    ∧ (∀ k : Fin 16, let w := Sparse.get {} s.mgr.windows k.val
      ((w.on = false ∨ s.now < w.due) → exec (.telemetryPeriod k) s = .next s)
      ∧ (w.on = true → w.due ≤ s.now → fwRuns s = true → powered s = true → s.boot.lastPause.1 ≤ w.due → w.due < s.boot.lastPause.2 →
        Yields (.telemetryPeriod k) s fun t => Sparse.get {} t.mgr.windows k.val = w.step false ∧ { t with mgr := s.mgr } = s)
      ∧ (w.on = true → s.boot.lastPause.2 ≤ w.due → w.due ≤ s.now → fwRuns s = true → powered s = true →
        Yields (.telemetryPeriod k) s fun t => Sparse.get {} t.mgr.windows k.val = w.step true))

/-- O57: At reset no command waits, every event and counter reads zero, no queue, stream, slot, group, link, attach port or operation holds anything but its reset value, no link is up and no node ID is set; the level is at most RATED_W, the ceiling RATED_W, the slope 20 W/ms; every array has duty 64 and no stream; the boot ROM has begun (stage ROM_INIT) with the reset kind POWER_ON; no debug level is in force; and the invariants of the fuses and of the memories hold. The held level at reset (log 11) and the fuses (log 12) are the model's own. -/
def Obligations.ResetStateIsAsSpecified : Prop :=
  State.reset.pending = [] ∧ State.reset.now = 0 ∧ State.reset.outbox = []
    ∧ (∀ src, State.reset.evBits src = 0) ∧ (∀ k, State.reset.ctr k = 0)
    ∧ (∀ q, State.reset.queue q = {}) ∧ (∀ n, State.reset.arr n = {}) ∧ (∀ n, State.reset.vec n = {})
    ∧ (∀ n, (State.reset.arr n).duty = 64 ∧ (State.reset.arr n).su.status = .idle ∧ (State.reset.vec n).su.status = .idle)
    ∧ (∀ n, (State.reset.link n).mode ≠ .up) ∧ State.reset.node = 0xFFFF
    ∧ (∀ p, (State.reset.port p).linkUp = false) ∧ (∀ m, (State.reset.mbx m).busy = false)
    ∧ State.reset.env.level ≤ 3200 ∧ State.reset.env.ceilW = 3200 ∧ State.reset.env.slope = 20 ∧ State.reset.env.floorW = 0
    ∧ State.reset.boot.stage = stRomInit ∧ State.reset.boot.kind = 1 ∧ State.reset.boot.fwReady = false
    ∧ State.reset.sec.level = 0 ∧ State.reset.hbm.cells = [] ∧ SecInv State.reset ∧ MemWf State.reset = true

/-- O58: For every command and every state: executing the command answers a next state, never a fault or a refusal, in which the queue of waiting commands is what it was; so a step with c in front and rest behind leaves exactly rest. A step of an empty queue answers a next state with the queue still empty, and changes nothing at all while the package has no input, converters or reference clock; otherwise it is the model's nanosecond of device time (log 3). That the command's own condition may not hold, so that it changes nothing, is the model's reading (log 1). -/
def Obligations.EveryCommandCompletesAndKeepsTheQueue : Prop :=
  (∀ (c : Instr) (s : State), Yields c s fun t => t.pending = s.pending)
    ∧ (∀ (c : Instr) (s : State) (rest : List Instr), ∃ t, step { s with pending := c :: rest } = .next t ∧ t.pending = rest)
    ∧ (∀ s : State, s.pending = [] → ∃ t, step s = .next t ∧ t.pending = [] ∧ (powered s = false → t = s))

/-- O59: For every state in which the fused SVN is at most 64, the debug level one of Table 20-6 and some root key slot is left, and for every step from it: the same holds after the step, the SVN has not fallen and every root key revoked before is revoked after, whatever the command was, resets and shutdowns among them. -/
def Obligations.FusesOnlyGrowAndLevelsStayLegal : Prop :=
  ∀ s t : State, SecInv s → step s = .next t →
    SecInv t ∧ s.sec.svn ≤ t.sec.svn ∧ ∀ k, s.sec.revoked.getLsbD k = true → t.sec.revoked.getLsbD k = true

/-- O60: For every state whose stack and attach-host memories are in canonical form (addresses rising, no byte listed that reads as zero), the write of one sector, of one page and of attach-host bytes, a reset of either kind without the pool kept and the end of a reset's write-back leave them so; writing bytes and then reading them gives them back, and every byte outside reads as before. -/
def Obligations.MemoriesKeepTheirCanonicalForm : Prop :=
  (∀ (sn : Nat) (d : List Byte) (p : Bool) (s : State), MemWf s = true → MemWf (stackWrite sn d p s) = true)
    ∧ (∀ (pa n : Nat) (data : Mem) (bad : List Nat) (s : State), MemWf s = true → MemWf (fillPage pa n data bad s) = true)
    ∧ (∀ (pt a : Nat) (bs : List (Byte × Bool)) (s : State), MemWf s = true → MemWf (hostWrite pt a bs s) = true)
    ∧ (∀ (kind : Byte) (s : State), MemWf s = true → MemWf (deviceReset kind false s) = true)
    ∧ (∀ s : State, MemWf s = true → MemWf (wiped s) = true ∧ MemWf (powerOn s) = true)
    ∧ (∀ (m : Mem) (a : Nat) (bs : List Byte), (m.writeN a bs).readN a bs.length = bs
      ∧ ∀ b, b < a ∨ a + bs.length ≤ b → (m.writeN a bs).read b = m.read b)
end

