-- ==== Sys2Proof/Laws/Sparse.lean ====
section
/-! SUPPORT. Laws of maps and memories: a read after a write, the places a write leaves alone, and that
every operation keeps the canonical form. -/

namespace Sys2Proof.Machine.Sparse
variable {α : Type}

@[simp] theorem get_nil (d : α) (k : Nat) : get d [] k = d := rfl

theorem get_cons (d : α) (e : Nat × α) (m : Sparse α) (k : Nat) :
    get d (e :: m) k = if k = e.1 then e.2 else get d m k := rfl

theorem get_filter (d : α) (p : Nat → Bool) (m : Sparse α) (k : Nat) :
    get d (m.filter fun e => p e.1) k = if p k then get d m k else d := by
  induction m with
  | nil => simp
  | cons e m ih =>
    by_cases he : p e.1
    · rw [List.filter_cons_of_pos (by simpa using he), get_cons, get_cons, ih]
      by_cases hk : k = e.1
      · subst hk; simp [he]
      · simp [hk]
    · rw [List.filter_cons_of_neg (by simpa using he), get_cons, ih]
      by_cases hk : k = e.1
      · subst hk; simp [he]
      · simp [hk]

/-- What a map without the keys of `p` holds. -/
theorem get_dropWhere (d : α) (p : Nat → Bool) (m : Sparse α) (k : Nat) :
    get d (dropWhere p m) k = if p k then d else get d m k := by
  unfold dropWhere
  rw [get_filter d (fun j => !p j)]
  cases p k <;> simp

theorem get_erase (d : α) (m : Sparse α) (j k : Nat) :
    get d (erase m j) k = if k = j then d else get d m k := by
  unfold erase
  rw [get_filter d (fun i => decide (i ≠ j))]
  by_cases h : k = j <;> simp [h]

theorem get_insert (d : α) (m : Sparse α) (j k : Nat) (v : α) :
    get d (insert m j v) k = if k = j then v else get d m k := by
  induction m with
  | nil => rfl
  | cons e m ih =>
    obtain ⟨i, w⟩ := e
    unfold insert
    split
    · next h => subst h; simp only [get_cons]; split <;> rfl
    · next h =>
      split
      · simp only [get_cons]
      · simp only [get_cons, ih]
        by_cases hk : k = i
        · subst hk; simp [Ne.symm h]
        · simp [hk]

/-- A read after a write. -/
theorem get_set [DecidableEq α] (d : α) (m : Sparse α) (j k : Nat) (v : α) :
    get d (set d m j v) k = if k = j then v else get d m k := by
  unfold set
  split
  · next h => subst h; exact get_erase v m j k
  · exact get_insert d m j k v

@[simp] theorem get_set_self [DecidableEq α] (d : α) (m : Sparse α) (k : Nat) (v : α) :
    get d (set d m k v) k = v := by simp [get_set]

theorem get_set_other [DecidableEq α] (d : α) (m : Sparse α) (j k : Nat) (v : α) (h : k ≠ j) :
    get d (set d m j v) k = get d m k := by simp [get_set, h]

/-! ## The canonical form -/

theorem sortedAbove_of_le {lo lo' : Option Nat} (m : Sparse α)
    (h : ∀ j, lo.all (fun l => decide (l < j)) = true → lo'.all (fun l => decide (l < j)) = true)
    (hs : sortedAbove lo m = true) : sortedAbove lo' m = true := by
  cases m with
  | nil => rfl
  | cons e m =>
    simp only [sortedAbove, Bool.and_eq_true] at hs ⊢
    exact ⟨h _ hs.1, hs.2⟩

theorem sortedAbove_filter (p : Nat × α → Bool) (m : Sparse α) :
    ∀ lo, sortedAbove lo m = true → sortedAbove lo (m.filter p) = true := by
  induction m with
  | nil => intro lo h; exact h
  | cons e m ih =>
    intro lo h
    simp only [sortedAbove, Bool.and_eq_true] at h
    by_cases hp : p e
    · rw [List.filter_cons_of_pos hp]
      simp only [sortedAbove, Bool.and_eq_true]
      exact ⟨h.1, ih _ h.2⟩
    · rw [List.filter_cons_of_neg hp]
      refine ih _ (sortedAbove_of_le m ?_ h.2)
      intro j hj
      cases lo with
      | none => rfl
      | some l => simp only [Option.all_some, decide_eq_true_eq] at *; omega

theorem sortedAbove_insert (k : Nat) (v : α) (m : Sparse α) :
    ∀ lo : Option Nat, lo.all (fun l => decide (l < k)) = true →
      sortedAbove lo m = true → sortedAbove lo (insert m k v) = true := by
  induction m with
  | nil => intro lo hk _; simp only [insert, sortedAbove, Bool.and_true]; exact hk
  | cons e m ih =>
    intro lo hk h
    obtain ⟨i, w⟩ := e
    simp only [sortedAbove, Bool.and_eq_true] at h
    unfold insert
    split
    · next he => subst he; simp only [sortedAbove, Bool.and_eq_true]; exact ⟨hk, h.2⟩
    · next hne =>
      split
      · next hlt =>
        simp only [sortedAbove, Bool.and_eq_true, Option.all_some, decide_eq_true_eq]
        exact ⟨hk, hlt, h.2⟩
      · next hge =>
        simp only [sortedAbove, Bool.and_eq_true]
        refine ⟨h.1, ih _ ?_ h.2⟩
        simp only [Option.all_some, decide_eq_true_eq]; omega

theorem mem_insert (k : Nat) (v : α) (m : Sparse α) (e : Nat × α) (h : e ∈ insert m k v) :
    e = (k, v) ∨ e ∈ m := by
  induction m with
  | nil => simp only [insert, List.mem_singleton] at h; exact .inl h
  | cons a m ih =>
    unfold insert at h
    split at h
    · simp only [List.mem_cons] at h ⊢; tauto
    · split at h
      · simp only [List.mem_cons] at h ⊢; tauto
      · simp only [List.mem_cons] at h ⊢; tauto

variable [DecidableEq α]

/-- Leaving keys out keeps the canonical form. -/
theorem wf_dropWhere (d : α) (p : Nat → Bool) (m : Sparse α) (h : wf d m = true) : wf d (dropWhere p m) = true := by
  unfold wf at *
  simp only [Bool.and_eq_true, List.all_eq_true, decide_eq_true_eq] at *
  exact ⟨sortedAbove_filter _ m none h.1, fun e he => h.2 e (List.mem_of_mem_filter he)⟩

theorem wf_erase (d : α) (m : Sparse α) (k : Nat) (h : wf d m = true) : wf d (erase m k) = true := by
  unfold wf erase at *
  simp only [Bool.and_eq_true, List.all_eq_true, decide_eq_true_eq] at *
  exact ⟨sortedAbove_filter _ m none h.1, fun e he => h.2 e (List.mem_of_mem_filter he)⟩

/-- A write keeps the canonical form. -/
theorem wf_set (d : α) (m : Sparse α) (k : Nat) (v : α) (h : wf d m = true) : wf d (set d m k v) = true := by
  unfold set
  split
  · exact wf_erase d m k h
  · next hv =>
    unfold wf at *
    simp only [Bool.and_eq_true, List.all_eq_true, decide_eq_true_eq] at *
    refine ⟨sortedAbove_insert k v m none rfl h.1, fun e he => ?_⟩
    rcases mem_insert k v m e he with rfl | hm
    · exact hv
    · exact h.2 e hm

end Sys2Proof.Machine.Sparse

namespace Sys2Proof.Machine.Mem

theorem read_write (m : Mem) (a b : Nat) (x : Byte) : (m.write a x).read b = if b = a then x else m.read b :=
  Sparse.get_set 0 m a b x

/-- Bytes outside the written range read as before. -/
theorem read_writeN_outside (bs : List Byte) : ∀ (m : Mem) (a b : Nat), (b < a ∨ a + bs.length ≤ b) →
    (m.writeN a bs).read b = m.read b := by
  induction bs with
  | nil => intro m a b _; rfl
  | cons x bs ih =>
    intro m a b h
    simp only [List.length_cons] at h
    rw [writeN, ih _ _ _ (by omega), read_write, if_neg (by omega)]

/-- Bytes of the written range read as written. -/
theorem read_writeN_inside (bs : List Byte) : ∀ (m : Mem) (a k : Nat) (h : k < bs.length),
    (m.writeN a bs).read (a + k) = bs[k] := by
  induction bs with
  | nil => intro m a k h; exact absurd h (Nat.not_lt_zero _)
  | cons x bs ih =>
    intro m a k h
    cases k with
    | zero =>
      rw [writeN, read_writeN_outside bs _ _ _ (by omega), read_write]; simp
    | succ k =>
      have := ih (m.write a x) (a + 1) k (by simpa using h)
      rw [writeN]
      rw [show a + (k + 1) = a + 1 + k by omega]
      simpa using this

theorem wf_write (m : Mem) (a : Nat) (x : Byte) (h : Sparse.wf 0 m = true) : Sparse.wf 0 (m.write a x) = true :=
  Sparse.wf_set 0 m a x h

/-- Every write keeps the canonical form of a memory. -/
theorem wf_writeN (bs : List Byte) : ∀ (m : Mem) (a : Nat), Sparse.wf 0 m = true → Sparse.wf 0 (m.writeN a bs) = true := by
  induction bs with
  | nil => intro m a h; exact h
  | cons x bs ih => intro m a h; exact ih _ _ (wf_write m a x h)

end Sys2Proof.Machine.Mem
end

