-- ==== Sys2Proof/Laws/State.lean ====
section
/-! SUPPORT. What each update of the state leaves alone and what it writes: one theorem per update for the
fields it does not touch, and the read after the write of every per-unit map. -/

namespace Sys2Proof.Machine

/-! ## Fields an update does not touch -/

@[simp] theorem State.setArr_fields (s : State) (n : Nat) (a : AryState) :
    (s.setArr n a).pending = s.pending ∧ (s.setArr n a).fresh = s.fresh ∧
    (s.setArr n a).outbox = s.outbox ∧ (s.setArr n a).now = s.now ∧
    (s.setArr n a).ticks = s.ticks ∧ (s.setArr n a).events = s.events ∧
    (s.setArr n a).edges = s.edges ∧ (s.setArr n a).counters = s.counters ∧
    (s.setArr n a).vecs = s.vecs ∧ (s.setArr n a).hbm = s.hbm ∧ (s.setArr n a).coh = s.coh ∧
    (s.setArr n a).cores = s.cores ∧ (s.setArr n a).xlt = s.xlt ∧ (s.setArr n a).host = s.host ∧
    (s.setArr n a).queues = s.queues ∧ (s.setArr n a).served = s.served ∧
    (s.setArr n a).node = s.node ∧ (s.setArr n a).boot = s.boot ∧ (s.setArr n a).mgr = s.mgr ∧
    (s.setArr n a).pins = s.pins ∧ (s.setArr n a).sec = s.sec ∧
    (s.setArr n a).accInfo = s.accInfo ∧ (s.setArr n a).coll = s.coll ∧
    (s.setArr n a).upd = s.upd ∧ (s.setArr n a).seqs = s.seqs ∧ (s.setArr n a).net = s.net ∧
    (s.setArr n a).eth = s.eth ∧ (s.setArr n a).time = s.time ∧ (s.setArr n a).env = s.env ∧
    (s.setArr n a).stew = s.stew ∧ (s.setArr n a).pwr = s.pwr ∧ (s.setArr n a).keys = s.keys := by
  repeat' constructor

@[simp] theorem State.modArr_fields (s : State) (n : Nat) (f : AryState → AryState) :
    (s.modArr n f).pending = s.pending ∧ (s.modArr n f).fresh = s.fresh ∧
    (s.modArr n f).outbox = s.outbox ∧ (s.modArr n f).now = s.now ∧
    (s.modArr n f).ticks = s.ticks ∧ (s.modArr n f).events = s.events ∧
    (s.modArr n f).edges = s.edges ∧ (s.modArr n f).counters = s.counters ∧
    (s.modArr n f).vecs = s.vecs ∧ (s.modArr n f).hbm = s.hbm ∧ (s.modArr n f).coh = s.coh ∧
    (s.modArr n f).cores = s.cores ∧ (s.modArr n f).xlt = s.xlt ∧ (s.modArr n f).host = s.host ∧
    (s.modArr n f).queues = s.queues ∧ (s.modArr n f).served = s.served ∧
    (s.modArr n f).node = s.node ∧ (s.modArr n f).boot = s.boot ∧ (s.modArr n f).mgr = s.mgr ∧
    (s.modArr n f).pins = s.pins ∧ (s.modArr n f).sec = s.sec ∧
    (s.modArr n f).accInfo = s.accInfo ∧ (s.modArr n f).coll = s.coll ∧
    (s.modArr n f).upd = s.upd ∧ (s.modArr n f).seqs = s.seqs ∧ (s.modArr n f).net = s.net ∧
    (s.modArr n f).eth = s.eth ∧ (s.modArr n f).time = s.time ∧ (s.modArr n f).env = s.env ∧
    (s.modArr n f).stew = s.stew ∧ (s.modArr n f).pwr = s.pwr ∧ (s.modArr n f).keys = s.keys := by
  repeat' constructor

@[simp] theorem State.setVec_fields (s : State) (n : Nat) (a : VecState) :
    (s.setVec n a).pending = s.pending ∧ (s.setVec n a).fresh = s.fresh ∧
    (s.setVec n a).outbox = s.outbox ∧ (s.setVec n a).now = s.now ∧
    (s.setVec n a).ticks = s.ticks ∧ (s.setVec n a).events = s.events ∧
    (s.setVec n a).edges = s.edges ∧ (s.setVec n a).counters = s.counters ∧
    (s.setVec n a).arrays = s.arrays ∧ (s.setVec n a).hbm = s.hbm ∧ (s.setVec n a).coh = s.coh ∧
    (s.setVec n a).cores = s.cores ∧ (s.setVec n a).xlt = s.xlt ∧ (s.setVec n a).host = s.host ∧
    (s.setVec n a).queues = s.queues ∧ (s.setVec n a).served = s.served ∧
    (s.setVec n a).node = s.node ∧ (s.setVec n a).boot = s.boot ∧ (s.setVec n a).mgr = s.mgr ∧
    (s.setVec n a).pins = s.pins ∧ (s.setVec n a).sec = s.sec ∧
    (s.setVec n a).accInfo = s.accInfo ∧ (s.setVec n a).coll = s.coll ∧
    (s.setVec n a).upd = s.upd ∧ (s.setVec n a).seqs = s.seqs ∧ (s.setVec n a).net = s.net ∧
    (s.setVec n a).eth = s.eth ∧ (s.setVec n a).time = s.time ∧ (s.setVec n a).env = s.env ∧
    (s.setVec n a).stew = s.stew ∧ (s.setVec n a).pwr = s.pwr ∧ (s.setVec n a).keys = s.keys := by
  repeat' constructor

@[simp] theorem State.modVec_fields (s : State) (n : Nat) (f : VecState → VecState) :
    (s.modVec n f).pending = s.pending ∧ (s.modVec n f).fresh = s.fresh ∧
    (s.modVec n f).outbox = s.outbox ∧ (s.modVec n f).now = s.now ∧
    (s.modVec n f).ticks = s.ticks ∧ (s.modVec n f).events = s.events ∧
    (s.modVec n f).edges = s.edges ∧ (s.modVec n f).counters = s.counters ∧
    (s.modVec n f).arrays = s.arrays ∧ (s.modVec n f).hbm = s.hbm ∧ (s.modVec n f).coh = s.coh ∧
    (s.modVec n f).cores = s.cores ∧ (s.modVec n f).xlt = s.xlt ∧ (s.modVec n f).host = s.host ∧
    (s.modVec n f).queues = s.queues ∧ (s.modVec n f).served = s.served ∧
    (s.modVec n f).node = s.node ∧ (s.modVec n f).boot = s.boot ∧ (s.modVec n f).mgr = s.mgr ∧
    (s.modVec n f).pins = s.pins ∧ (s.modVec n f).sec = s.sec ∧
    (s.modVec n f).accInfo = s.accInfo ∧ (s.modVec n f).coll = s.coll ∧
    (s.modVec n f).upd = s.upd ∧ (s.modVec n f).seqs = s.seqs ∧ (s.modVec n f).net = s.net ∧
    (s.modVec n f).eth = s.eth ∧ (s.modVec n f).time = s.time ∧ (s.modVec n f).env = s.env ∧
    (s.modVec n f).stew = s.stew ∧ (s.modVec n f).pwr = s.pwr ∧ (s.modVec n f).keys = s.keys := by
  repeat' constructor

@[simp] theorem State.setQueue_fields (s : State) (n : Nat) (a : QState) :
    (s.setQueue n a).pending = s.pending ∧ (s.setQueue n a).fresh = s.fresh ∧
    (s.setQueue n a).outbox = s.outbox ∧ (s.setQueue n a).now = s.now ∧
    (s.setQueue n a).ticks = s.ticks ∧ (s.setQueue n a).events = s.events ∧
    (s.setQueue n a).edges = s.edges ∧ (s.setQueue n a).counters = s.counters ∧
    (s.setQueue n a).arrays = s.arrays ∧ (s.setQueue n a).vecs = s.vecs ∧
    (s.setQueue n a).hbm = s.hbm ∧ (s.setQueue n a).coh = s.coh ∧
    (s.setQueue n a).cores = s.cores ∧ (s.setQueue n a).xlt = s.xlt ∧
    (s.setQueue n a).host = s.host ∧ (s.setQueue n a).served = s.served ∧
    (s.setQueue n a).node = s.node ∧ (s.setQueue n a).boot = s.boot ∧
    (s.setQueue n a).mgr = s.mgr ∧ (s.setQueue n a).pins = s.pins ∧ (s.setQueue n a).sec = s.sec ∧
    (s.setQueue n a).accInfo = s.accInfo ∧ (s.setQueue n a).coll = s.coll ∧
    (s.setQueue n a).upd = s.upd ∧ (s.setQueue n a).seqs = s.seqs ∧ (s.setQueue n a).net = s.net ∧
    (s.setQueue n a).eth = s.eth ∧ (s.setQueue n a).time = s.time ∧ (s.setQueue n a).env = s.env ∧
    (s.setQueue n a).stew = s.stew ∧ (s.setQueue n a).pwr = s.pwr ∧ (s.setQueue n a).keys = s.keys := by
  repeat' constructor

@[simp] theorem State.modQueue_fields (s : State) (n : Nat) (f : QState → QState) :
    (s.modQueue n f).pending = s.pending ∧ (s.modQueue n f).fresh = s.fresh ∧
    (s.modQueue n f).outbox = s.outbox ∧ (s.modQueue n f).now = s.now ∧
    (s.modQueue n f).ticks = s.ticks ∧ (s.modQueue n f).events = s.events ∧
    (s.modQueue n f).edges = s.edges ∧ (s.modQueue n f).counters = s.counters ∧
    (s.modQueue n f).arrays = s.arrays ∧ (s.modQueue n f).vecs = s.vecs ∧
    (s.modQueue n f).hbm = s.hbm ∧ (s.modQueue n f).coh = s.coh ∧
    (s.modQueue n f).cores = s.cores ∧ (s.modQueue n f).xlt = s.xlt ∧
    (s.modQueue n f).host = s.host ∧ (s.modQueue n f).served = s.served ∧
    (s.modQueue n f).node = s.node ∧ (s.modQueue n f).boot = s.boot ∧
    (s.modQueue n f).mgr = s.mgr ∧ (s.modQueue n f).pins = s.pins ∧ (s.modQueue n f).sec = s.sec ∧
    (s.modQueue n f).accInfo = s.accInfo ∧ (s.modQueue n f).coll = s.coll ∧
    (s.modQueue n f).upd = s.upd ∧ (s.modQueue n f).seqs = s.seqs ∧ (s.modQueue n f).net = s.net ∧
    (s.modQueue n f).eth = s.eth ∧ (s.modQueue n f).time = s.time ∧ (s.modQueue n f).env = s.env ∧
    (s.modQueue n f).stew = s.stew ∧ (s.modQueue n f).pwr = s.pwr ∧ (s.modQueue n f).keys = s.keys := by
  repeat' constructor

@[simp] theorem State.setCore_fields (s : State) (n : Nat) (a : CoreState) :
    (s.setCore n a).pending = s.pending ∧ (s.setCore n a).fresh = s.fresh ∧
    (s.setCore n a).outbox = s.outbox ∧ (s.setCore n a).now = s.now ∧
    (s.setCore n a).ticks = s.ticks ∧ (s.setCore n a).events = s.events ∧
    (s.setCore n a).edges = s.edges ∧ (s.setCore n a).counters = s.counters ∧
    (s.setCore n a).arrays = s.arrays ∧ (s.setCore n a).vecs = s.vecs ∧
    (s.setCore n a).hbm = s.hbm ∧ (s.setCore n a).coh = s.coh ∧ (s.setCore n a).xlt = s.xlt ∧
    (s.setCore n a).host = s.host ∧ (s.setCore n a).queues = s.queues ∧
    (s.setCore n a).served = s.served ∧ (s.setCore n a).node = s.node ∧
    (s.setCore n a).boot = s.boot ∧ (s.setCore n a).mgr = s.mgr ∧ (s.setCore n a).pins = s.pins ∧
    (s.setCore n a).sec = s.sec ∧ (s.setCore n a).accInfo = s.accInfo ∧
    (s.setCore n a).coll = s.coll ∧ (s.setCore n a).upd = s.upd ∧ (s.setCore n a).seqs = s.seqs ∧
    (s.setCore n a).net = s.net ∧ (s.setCore n a).eth = s.eth ∧ (s.setCore n a).time = s.time ∧
    (s.setCore n a).env = s.env ∧ (s.setCore n a).stew = s.stew ∧ (s.setCore n a).pwr = s.pwr ∧
    (s.setCore n a).keys = s.keys := by
  repeat' constructor

@[simp] theorem State.modCore_fields (s : State) (n : Nat) (f : CoreState → CoreState) :
    (s.modCore n f).pending = s.pending ∧ (s.modCore n f).fresh = s.fresh ∧
    (s.modCore n f).outbox = s.outbox ∧ (s.modCore n f).now = s.now ∧
    (s.modCore n f).ticks = s.ticks ∧ (s.modCore n f).events = s.events ∧
    (s.modCore n f).edges = s.edges ∧ (s.modCore n f).counters = s.counters ∧
    (s.modCore n f).arrays = s.arrays ∧ (s.modCore n f).vecs = s.vecs ∧
    (s.modCore n f).hbm = s.hbm ∧ (s.modCore n f).coh = s.coh ∧ (s.modCore n f).xlt = s.xlt ∧
    (s.modCore n f).host = s.host ∧ (s.modCore n f).queues = s.queues ∧
    (s.modCore n f).served = s.served ∧ (s.modCore n f).node = s.node ∧
    (s.modCore n f).boot = s.boot ∧ (s.modCore n f).mgr = s.mgr ∧ (s.modCore n f).pins = s.pins ∧
    (s.modCore n f).sec = s.sec ∧ (s.modCore n f).accInfo = s.accInfo ∧
    (s.modCore n f).coll = s.coll ∧ (s.modCore n f).upd = s.upd ∧ (s.modCore n f).seqs = s.seqs ∧
    (s.modCore n f).net = s.net ∧ (s.modCore n f).eth = s.eth ∧ (s.modCore n f).time = s.time ∧
    (s.modCore n f).env = s.env ∧ (s.modCore n f).stew = s.stew ∧ (s.modCore n f).pwr = s.pwr ∧
    (s.modCore n f).keys = s.keys := by
  repeat' constructor

@[simp] theorem State.modStack_fields (s : State) (n : Nat) (f : StackSt → StackSt) :
    (s.modStack n f).pending = s.pending ∧ (s.modStack n f).fresh = s.fresh ∧
    (s.modStack n f).outbox = s.outbox ∧ (s.modStack n f).now = s.now ∧
    (s.modStack n f).ticks = s.ticks ∧ (s.modStack n f).events = s.events ∧
    (s.modStack n f).edges = s.edges ∧ (s.modStack n f).counters = s.counters ∧
    (s.modStack n f).arrays = s.arrays ∧ (s.modStack n f).vecs = s.vecs ∧
    (s.modStack n f).coh = s.coh ∧ (s.modStack n f).cores = s.cores ∧
    (s.modStack n f).xlt = s.xlt ∧ (s.modStack n f).host = s.host ∧
    (s.modStack n f).queues = s.queues ∧ (s.modStack n f).served = s.served ∧
    (s.modStack n f).node = s.node ∧ (s.modStack n f).boot = s.boot ∧
    (s.modStack n f).mgr = s.mgr ∧ (s.modStack n f).pins = s.pins ∧ (s.modStack n f).sec = s.sec ∧
    (s.modStack n f).accInfo = s.accInfo ∧ (s.modStack n f).coll = s.coll ∧
    (s.modStack n f).upd = s.upd ∧ (s.modStack n f).seqs = s.seqs ∧ (s.modStack n f).net = s.net ∧
    (s.modStack n f).eth = s.eth ∧ (s.modStack n f).time = s.time ∧ (s.modStack n f).env = s.env ∧
    (s.modStack n f).stew = s.stew ∧ (s.modStack n f).pwr = s.pwr ∧ (s.modStack n f).keys = s.keys := by
  repeat' constructor

@[simp] theorem State.modPc_fields (s : State) (n : Nat) (f : PcSt → PcSt) :
    (s.modPc n f).pending = s.pending ∧ (s.modPc n f).fresh = s.fresh ∧
    (s.modPc n f).outbox = s.outbox ∧ (s.modPc n f).now = s.now ∧ (s.modPc n f).ticks = s.ticks ∧
    (s.modPc n f).events = s.events ∧ (s.modPc n f).edges = s.edges ∧
    (s.modPc n f).counters = s.counters ∧ (s.modPc n f).arrays = s.arrays ∧
    (s.modPc n f).vecs = s.vecs ∧ (s.modPc n f).coh = s.coh ∧ (s.modPc n f).cores = s.cores ∧
    (s.modPc n f).xlt = s.xlt ∧ (s.modPc n f).host = s.host ∧ (s.modPc n f).queues = s.queues ∧
    (s.modPc n f).served = s.served ∧ (s.modPc n f).node = s.node ∧ (s.modPc n f).boot = s.boot ∧
    (s.modPc n f).mgr = s.mgr ∧ (s.modPc n f).pins = s.pins ∧ (s.modPc n f).sec = s.sec ∧
    (s.modPc n f).accInfo = s.accInfo ∧ (s.modPc n f).coll = s.coll ∧ (s.modPc n f).upd = s.upd ∧
    (s.modPc n f).seqs = s.seqs ∧ (s.modPc n f).net = s.net ∧ (s.modPc n f).eth = s.eth ∧
    (s.modPc n f).time = s.time ∧ (s.modPc n f).env = s.env ∧ (s.modPc n f).stew = s.stew ∧
    (s.modPc n f).pwr = s.pwr ∧ (s.modPc n f).keys = s.keys := by
  repeat' constructor

@[simp] theorem State.setWcb_fields (s : State) (n : Nat) (l : List WcbEntry) :
    (s.setWcb n l).pending = s.pending ∧ (s.setWcb n l).fresh = s.fresh ∧
    (s.setWcb n l).outbox = s.outbox ∧ (s.setWcb n l).now = s.now ∧
    (s.setWcb n l).ticks = s.ticks ∧ (s.setWcb n l).events = s.events ∧
    (s.setWcb n l).edges = s.edges ∧ (s.setWcb n l).counters = s.counters ∧
    (s.setWcb n l).arrays = s.arrays ∧ (s.setWcb n l).vecs = s.vecs ∧ (s.setWcb n l).coh = s.coh ∧
    (s.setWcb n l).cores = s.cores ∧ (s.setWcb n l).xlt = s.xlt ∧ (s.setWcb n l).host = s.host ∧
    (s.setWcb n l).queues = s.queues ∧ (s.setWcb n l).served = s.served ∧
    (s.setWcb n l).node = s.node ∧ (s.setWcb n l).boot = s.boot ∧ (s.setWcb n l).mgr = s.mgr ∧
    (s.setWcb n l).pins = s.pins ∧ (s.setWcb n l).sec = s.sec ∧
    (s.setWcb n l).accInfo = s.accInfo ∧ (s.setWcb n l).coll = s.coll ∧
    (s.setWcb n l).upd = s.upd ∧ (s.setWcb n l).seqs = s.seqs ∧ (s.setWcb n l).net = s.net ∧
    (s.setWcb n l).eth = s.eth ∧ (s.setWcb n l).time = s.time ∧ (s.setWcb n l).env = s.env ∧
    (s.setWcb n l).stew = s.stew ∧ (s.setWcb n l).pwr = s.pwr ∧ (s.setWcb n l).keys = s.keys := by
  repeat' constructor

@[simp] theorem State.modCis_fields (s : State) (n : Nat) (f : CisState → CisState) :
    (s.modCis n f).pending = s.pending ∧ (s.modCis n f).fresh = s.fresh ∧
    (s.modCis n f).outbox = s.outbox ∧ (s.modCis n f).now = s.now ∧
    (s.modCis n f).ticks = s.ticks ∧ (s.modCis n f).events = s.events ∧
    (s.modCis n f).edges = s.edges ∧ (s.modCis n f).counters = s.counters ∧
    (s.modCis n f).arrays = s.arrays ∧ (s.modCis n f).vecs = s.vecs ∧ (s.modCis n f).hbm = s.hbm ∧
    (s.modCis n f).cores = s.cores ∧ (s.modCis n f).xlt = s.xlt ∧ (s.modCis n f).host = s.host ∧
    (s.modCis n f).queues = s.queues ∧ (s.modCis n f).served = s.served ∧
    (s.modCis n f).node = s.node ∧ (s.modCis n f).boot = s.boot ∧ (s.modCis n f).mgr = s.mgr ∧
    (s.modCis n f).pins = s.pins ∧ (s.modCis n f).sec = s.sec ∧
    (s.modCis n f).accInfo = s.accInfo ∧ (s.modCis n f).coll = s.coll ∧
    (s.modCis n f).upd = s.upd ∧ (s.modCis n f).seqs = s.seqs ∧ (s.modCis n f).net = s.net ∧
    (s.modCis n f).eth = s.eth ∧ (s.modCis n f).time = s.time ∧ (s.modCis n f).env = s.env ∧
    (s.modCis n f).stew = s.stew ∧ (s.modCis n f).pwr = s.pwr ∧ (s.modCis n f).keys = s.keys := by
  repeat' constructor

@[simp] theorem State.setWay_fields (s : State) (c i w : Nat) (l : CLine) :
    (s.setWay c i w l).pending = s.pending ∧ (s.setWay c i w l).fresh = s.fresh ∧
    (s.setWay c i w l).outbox = s.outbox ∧ (s.setWay c i w l).now = s.now ∧
    (s.setWay c i w l).ticks = s.ticks ∧ (s.setWay c i w l).events = s.events ∧
    (s.setWay c i w l).edges = s.edges ∧ (s.setWay c i w l).counters = s.counters ∧
    (s.setWay c i w l).arrays = s.arrays ∧ (s.setWay c i w l).vecs = s.vecs ∧
    (s.setWay c i w l).hbm = s.hbm ∧ (s.setWay c i w l).cores = s.cores ∧
    (s.setWay c i w l).xlt = s.xlt ∧ (s.setWay c i w l).host = s.host ∧
    (s.setWay c i w l).queues = s.queues ∧ (s.setWay c i w l).served = s.served ∧
    (s.setWay c i w l).node = s.node ∧ (s.setWay c i w l).boot = s.boot ∧
    (s.setWay c i w l).mgr = s.mgr ∧ (s.setWay c i w l).pins = s.pins ∧
    (s.setWay c i w l).sec = s.sec ∧ (s.setWay c i w l).accInfo = s.accInfo ∧
    (s.setWay c i w l).coll = s.coll ∧ (s.setWay c i w l).upd = s.upd ∧
    (s.setWay c i w l).seqs = s.seqs ∧ (s.setWay c i w l).net = s.net ∧
    (s.setWay c i w l).eth = s.eth ∧ (s.setWay c i w l).time = s.time ∧
    (s.setWay c i w l).env = s.env ∧ (s.setWay c i w l).stew = s.stew ∧
    (s.setWay c i w l).pwr = s.pwr ∧ (s.setWay c i w l).keys = s.keys := by
  repeat' constructor

@[simp] theorem State.setDir_fields (s : State) (l : Nat) (e : DirEntry) :
    (s.setDir l e).pending = s.pending ∧ (s.setDir l e).fresh = s.fresh ∧
    (s.setDir l e).outbox = s.outbox ∧ (s.setDir l e).now = s.now ∧
    (s.setDir l e).ticks = s.ticks ∧ (s.setDir l e).events = s.events ∧
    (s.setDir l e).edges = s.edges ∧ (s.setDir l e).counters = s.counters ∧
    (s.setDir l e).arrays = s.arrays ∧ (s.setDir l e).vecs = s.vecs ∧ (s.setDir l e).hbm = s.hbm ∧
    (s.setDir l e).cores = s.cores ∧ (s.setDir l e).xlt = s.xlt ∧ (s.setDir l e).host = s.host ∧
    (s.setDir l e).queues = s.queues ∧ (s.setDir l e).served = s.served ∧
    (s.setDir l e).node = s.node ∧ (s.setDir l e).boot = s.boot ∧ (s.setDir l e).mgr = s.mgr ∧
    (s.setDir l e).pins = s.pins ∧ (s.setDir l e).sec = s.sec ∧
    (s.setDir l e).accInfo = s.accInfo ∧ (s.setDir l e).coll = s.coll ∧
    (s.setDir l e).upd = s.upd ∧ (s.setDir l e).seqs = s.seqs ∧ (s.setDir l e).net = s.net ∧
    (s.setDir l e).eth = s.eth ∧ (s.setDir l e).time = s.time ∧ (s.setDir l e).env = s.env ∧
    (s.setDir l e).stew = s.stew ∧ (s.setDir l e).pwr = s.pwr ∧ (s.setDir l e).keys = s.keys := by
  repeat' constructor

@[simp] theorem State.setPline_fields (s : State) (h l : Nat) (p : PLine) :
    (s.setPline h l p).pending = s.pending ∧ (s.setPline h l p).fresh = s.fresh ∧
    (s.setPline h l p).outbox = s.outbox ∧ (s.setPline h l p).now = s.now ∧
    (s.setPline h l p).ticks = s.ticks ∧ (s.setPline h l p).events = s.events ∧
    (s.setPline h l p).edges = s.edges ∧ (s.setPline h l p).counters = s.counters ∧
    (s.setPline h l p).arrays = s.arrays ∧ (s.setPline h l p).vecs = s.vecs ∧
    (s.setPline h l p).hbm = s.hbm ∧ (s.setPline h l p).cores = s.cores ∧
    (s.setPline h l p).xlt = s.xlt ∧ (s.setPline h l p).host = s.host ∧
    (s.setPline h l p).queues = s.queues ∧ (s.setPline h l p).served = s.served ∧
    (s.setPline h l p).node = s.node ∧ (s.setPline h l p).boot = s.boot ∧
    (s.setPline h l p).mgr = s.mgr ∧ (s.setPline h l p).pins = s.pins ∧
    (s.setPline h l p).sec = s.sec ∧ (s.setPline h l p).accInfo = s.accInfo ∧
    (s.setPline h l p).coll = s.coll ∧ (s.setPline h l p).upd = s.upd ∧
    (s.setPline h l p).seqs = s.seqs ∧ (s.setPline h l p).net = s.net ∧
    (s.setPline h l p).eth = s.eth ∧ (s.setPline h l p).time = s.time ∧
    (s.setPline h l p).env = s.env ∧ (s.setPline h l p).stew = s.stew ∧
    (s.setPline h l p).pwr = s.pwr ∧ (s.setPline h l p).keys = s.keys := by
  unfold State.setPline; split <;> repeat' constructor

@[simp] theorem State.modEnv_fields (s : State) (f : EnvState → EnvState) :
    (s.modEnv f).pending = s.pending ∧ (s.modEnv f).fresh = s.fresh ∧
    (s.modEnv f).outbox = s.outbox ∧ (s.modEnv f).now = s.now ∧ (s.modEnv f).ticks = s.ticks ∧
    (s.modEnv f).events = s.events ∧ (s.modEnv f).edges = s.edges ∧
    (s.modEnv f).counters = s.counters ∧ (s.modEnv f).arrays = s.arrays ∧
    (s.modEnv f).vecs = s.vecs ∧ (s.modEnv f).hbm = s.hbm ∧ (s.modEnv f).coh = s.coh ∧
    (s.modEnv f).cores = s.cores ∧ (s.modEnv f).xlt = s.xlt ∧ (s.modEnv f).host = s.host ∧
    (s.modEnv f).queues = s.queues ∧ (s.modEnv f).served = s.served ∧ (s.modEnv f).node = s.node ∧
    (s.modEnv f).boot = s.boot ∧ (s.modEnv f).mgr = s.mgr ∧ (s.modEnv f).pins = s.pins ∧
    (s.modEnv f).sec = s.sec ∧ (s.modEnv f).accInfo = s.accInfo ∧ (s.modEnv f).coll = s.coll ∧
    (s.modEnv f).upd = s.upd ∧ (s.modEnv f).seqs = s.seqs ∧ (s.modEnv f).net = s.net ∧
    (s.modEnv f).eth = s.eth ∧ (s.modEnv f).time = s.time ∧ (s.modEnv f).stew = s.stew ∧
    (s.modEnv f).pwr = s.pwr ∧ (s.modEnv f).keys = s.keys := by
  repeat' constructor

@[simp] theorem State.modStew_fields (s : State) (f : StewardState → StewardState) :
    (s.modStew f).pending = s.pending ∧ (s.modStew f).fresh = s.fresh ∧
    (s.modStew f).outbox = s.outbox ∧ (s.modStew f).now = s.now ∧ (s.modStew f).ticks = s.ticks ∧
    (s.modStew f).events = s.events ∧ (s.modStew f).edges = s.edges ∧
    (s.modStew f).counters = s.counters ∧ (s.modStew f).arrays = s.arrays ∧
    (s.modStew f).vecs = s.vecs ∧ (s.modStew f).hbm = s.hbm ∧ (s.modStew f).coh = s.coh ∧
    (s.modStew f).cores = s.cores ∧ (s.modStew f).xlt = s.xlt ∧ (s.modStew f).host = s.host ∧
    (s.modStew f).queues = s.queues ∧ (s.modStew f).served = s.served ∧
    (s.modStew f).node = s.node ∧ (s.modStew f).boot = s.boot ∧ (s.modStew f).mgr = s.mgr ∧
    (s.modStew f).pins = s.pins ∧ (s.modStew f).sec = s.sec ∧ (s.modStew f).accInfo = s.accInfo ∧
    (s.modStew f).coll = s.coll ∧ (s.modStew f).upd = s.upd ∧ (s.modStew f).seqs = s.seqs ∧
    (s.modStew f).net = s.net ∧ (s.modStew f).eth = s.eth ∧ (s.modStew f).time = s.time ∧
    (s.modStew f).env = s.env ∧ (s.modStew f).pwr = s.pwr ∧ (s.modStew f).keys = s.keys := by
  repeat' constructor

@[simp] theorem State.modRec_fields (s : State) (n : NodeId) (f : MemberRec → MemberRec) :
    (s.modRec n f).pending = s.pending ∧ (s.modRec n f).fresh = s.fresh ∧
    (s.modRec n f).outbox = s.outbox ∧ (s.modRec n f).now = s.now ∧
    (s.modRec n f).ticks = s.ticks ∧ (s.modRec n f).events = s.events ∧
    (s.modRec n f).edges = s.edges ∧ (s.modRec n f).counters = s.counters ∧
    (s.modRec n f).arrays = s.arrays ∧ (s.modRec n f).vecs = s.vecs ∧ (s.modRec n f).hbm = s.hbm ∧
    (s.modRec n f).coh = s.coh ∧ (s.modRec n f).cores = s.cores ∧ (s.modRec n f).xlt = s.xlt ∧
    (s.modRec n f).host = s.host ∧ (s.modRec n f).queues = s.queues ∧
    (s.modRec n f).served = s.served ∧ (s.modRec n f).node = s.node ∧
    (s.modRec n f).boot = s.boot ∧ (s.modRec n f).mgr = s.mgr ∧ (s.modRec n f).pins = s.pins ∧
    (s.modRec n f).sec = s.sec ∧ (s.modRec n f).accInfo = s.accInfo ∧
    (s.modRec n f).coll = s.coll ∧ (s.modRec n f).upd = s.upd ∧ (s.modRec n f).seqs = s.seqs ∧
    (s.modRec n f).net = s.net ∧ (s.modRec n f).eth = s.eth ∧ (s.modRec n f).time = s.time ∧
    (s.modRec n f).env = s.env ∧ (s.modRec n f).pwr = s.pwr ∧ (s.modRec n f).keys = s.keys := by
  repeat' constructor

@[simp] theorem State.modSet_fields (s : State) (n : Nat) (f : PaceSet → PaceSet) :
    (s.modSet n f).pending = s.pending ∧ (s.modSet n f).fresh = s.fresh ∧
    (s.modSet n f).outbox = s.outbox ∧ (s.modSet n f).now = s.now ∧
    (s.modSet n f).ticks = s.ticks ∧ (s.modSet n f).events = s.events ∧
    (s.modSet n f).edges = s.edges ∧ (s.modSet n f).counters = s.counters ∧
    (s.modSet n f).arrays = s.arrays ∧ (s.modSet n f).vecs = s.vecs ∧ (s.modSet n f).hbm = s.hbm ∧
    (s.modSet n f).coh = s.coh ∧ (s.modSet n f).cores = s.cores ∧ (s.modSet n f).xlt = s.xlt ∧
    (s.modSet n f).host = s.host ∧ (s.modSet n f).queues = s.queues ∧
    (s.modSet n f).served = s.served ∧ (s.modSet n f).node = s.node ∧
    (s.modSet n f).boot = s.boot ∧ (s.modSet n f).mgr = s.mgr ∧ (s.modSet n f).pins = s.pins ∧
    (s.modSet n f).sec = s.sec ∧ (s.modSet n f).accInfo = s.accInfo ∧
    (s.modSet n f).coll = s.coll ∧ (s.modSet n f).upd = s.upd ∧ (s.modSet n f).seqs = s.seqs ∧
    (s.modSet n f).net = s.net ∧ (s.modSet n f).eth = s.eth ∧ (s.modSet n f).time = s.time ∧
    (s.modSet n f).env = s.env ∧ (s.modSet n f).pwr = s.pwr ∧ (s.modSet n f).keys = s.keys := by
  repeat' constructor

@[simp] theorem State.modPwr_fields (s : State) (f : PwrState → PwrState) :
    (s.modPwr f).pending = s.pending ∧ (s.modPwr f).fresh = s.fresh ∧
    (s.modPwr f).outbox = s.outbox ∧ (s.modPwr f).now = s.now ∧ (s.modPwr f).ticks = s.ticks ∧
    (s.modPwr f).events = s.events ∧ (s.modPwr f).edges = s.edges ∧
    (s.modPwr f).counters = s.counters ∧ (s.modPwr f).arrays = s.arrays ∧
    (s.modPwr f).vecs = s.vecs ∧ (s.modPwr f).hbm = s.hbm ∧ (s.modPwr f).coh = s.coh ∧
    (s.modPwr f).cores = s.cores ∧ (s.modPwr f).xlt = s.xlt ∧ (s.modPwr f).host = s.host ∧
    (s.modPwr f).queues = s.queues ∧ (s.modPwr f).served = s.served ∧ (s.modPwr f).node = s.node ∧
    (s.modPwr f).boot = s.boot ∧ (s.modPwr f).mgr = s.mgr ∧ (s.modPwr f).pins = s.pins ∧
    (s.modPwr f).sec = s.sec ∧ (s.modPwr f).accInfo = s.accInfo ∧ (s.modPwr f).coll = s.coll ∧
    (s.modPwr f).upd = s.upd ∧ (s.modPwr f).seqs = s.seqs ∧ (s.modPwr f).net = s.net ∧
    (s.modPwr f).eth = s.eth ∧ (s.modPwr f).time = s.time ∧ (s.modPwr f).env = s.env ∧
    (s.modPwr f).stew = s.stew ∧ (s.modPwr f).keys = s.keys := by
  repeat' constructor

@[simp] theorem State.modTime_fields (s : State) (f : TimeState → TimeState) :
    (s.modTime f).pending = s.pending ∧ (s.modTime f).fresh = s.fresh ∧
    (s.modTime f).outbox = s.outbox ∧ (s.modTime f).now = s.now ∧ (s.modTime f).ticks = s.ticks ∧
    (s.modTime f).events = s.events ∧ (s.modTime f).edges = s.edges ∧
    (s.modTime f).counters = s.counters ∧ (s.modTime f).arrays = s.arrays ∧
    (s.modTime f).vecs = s.vecs ∧ (s.modTime f).hbm = s.hbm ∧ (s.modTime f).coh = s.coh ∧
    (s.modTime f).cores = s.cores ∧ (s.modTime f).xlt = s.xlt ∧ (s.modTime f).host = s.host ∧
    (s.modTime f).queues = s.queues ∧ (s.modTime f).served = s.served ∧
    (s.modTime f).node = s.node ∧ (s.modTime f).boot = s.boot ∧ (s.modTime f).mgr = s.mgr ∧
    (s.modTime f).pins = s.pins ∧ (s.modTime f).sec = s.sec ∧ (s.modTime f).accInfo = s.accInfo ∧
    (s.modTime f).coll = s.coll ∧ (s.modTime f).upd = s.upd ∧ (s.modTime f).seqs = s.seqs ∧
    (s.modTime f).net = s.net ∧ (s.modTime f).eth = s.eth ∧ (s.modTime f).env = s.env ∧
    (s.modTime f).stew = s.stew ∧ (s.modTime f).pwr = s.pwr ∧ (s.modTime f).keys = s.keys := by
  repeat' constructor

@[simp] theorem State.modBoot_fields (s : State) (f : BootState → BootState) :
    (s.modBoot f).pending = s.pending ∧ (s.modBoot f).fresh = s.fresh ∧
    (s.modBoot f).outbox = s.outbox ∧ (s.modBoot f).now = s.now ∧ (s.modBoot f).ticks = s.ticks ∧
    (s.modBoot f).events = s.events ∧ (s.modBoot f).edges = s.edges ∧
    (s.modBoot f).counters = s.counters ∧ (s.modBoot f).arrays = s.arrays ∧
    (s.modBoot f).vecs = s.vecs ∧ (s.modBoot f).hbm = s.hbm ∧ (s.modBoot f).coh = s.coh ∧
    (s.modBoot f).cores = s.cores ∧ (s.modBoot f).xlt = s.xlt ∧ (s.modBoot f).host = s.host ∧
    (s.modBoot f).queues = s.queues ∧ (s.modBoot f).served = s.served ∧
    (s.modBoot f).node = s.node ∧ (s.modBoot f).mgr = s.mgr ∧ (s.modBoot f).pins = s.pins ∧
    (s.modBoot f).sec = s.sec ∧ (s.modBoot f).accInfo = s.accInfo ∧ (s.modBoot f).coll = s.coll ∧
    (s.modBoot f).upd = s.upd ∧ (s.modBoot f).seqs = s.seqs ∧ (s.modBoot f).net = s.net ∧
    (s.modBoot f).eth = s.eth ∧ (s.modBoot f).time = s.time ∧ (s.modBoot f).env = s.env ∧
    (s.modBoot f).stew = s.stew ∧ (s.modBoot f).pwr = s.pwr ∧ (s.modBoot f).keys = s.keys := by
  repeat' constructor

@[simp] theorem State.modMgr_fields (s : State) (f : MgrState → MgrState) :
    (s.modMgr f).pending = s.pending ∧ (s.modMgr f).fresh = s.fresh ∧
    (s.modMgr f).outbox = s.outbox ∧ (s.modMgr f).now = s.now ∧ (s.modMgr f).ticks = s.ticks ∧
    (s.modMgr f).events = s.events ∧ (s.modMgr f).edges = s.edges ∧
    (s.modMgr f).counters = s.counters ∧ (s.modMgr f).arrays = s.arrays ∧
    (s.modMgr f).vecs = s.vecs ∧ (s.modMgr f).hbm = s.hbm ∧ (s.modMgr f).coh = s.coh ∧
    (s.modMgr f).cores = s.cores ∧ (s.modMgr f).xlt = s.xlt ∧ (s.modMgr f).host = s.host ∧
    (s.modMgr f).queues = s.queues ∧ (s.modMgr f).served = s.served ∧ (s.modMgr f).node = s.node ∧
    (s.modMgr f).boot = s.boot ∧ (s.modMgr f).pins = s.pins ∧ (s.modMgr f).sec = s.sec ∧
    (s.modMgr f).accInfo = s.accInfo ∧ (s.modMgr f).coll = s.coll ∧ (s.modMgr f).upd = s.upd ∧
    (s.modMgr f).seqs = s.seqs ∧ (s.modMgr f).net = s.net ∧ (s.modMgr f).eth = s.eth ∧
    (s.modMgr f).time = s.time ∧ (s.modMgr f).env = s.env ∧ (s.modMgr f).stew = s.stew ∧
    (s.modMgr f).pwr = s.pwr ∧ (s.modMgr f).keys = s.keys := by
  repeat' constructor

@[simp] theorem State.modMbx_fields (s : State) (n : Nat) (f : MbxSt → MbxSt) :
    (s.modMbx n f).pending = s.pending ∧ (s.modMbx n f).fresh = s.fresh ∧
    (s.modMbx n f).outbox = s.outbox ∧ (s.modMbx n f).now = s.now ∧
    (s.modMbx n f).ticks = s.ticks ∧ (s.modMbx n f).events = s.events ∧
    (s.modMbx n f).edges = s.edges ∧ (s.modMbx n f).counters = s.counters ∧
    (s.modMbx n f).arrays = s.arrays ∧ (s.modMbx n f).vecs = s.vecs ∧ (s.modMbx n f).hbm = s.hbm ∧
    (s.modMbx n f).coh = s.coh ∧ (s.modMbx n f).cores = s.cores ∧ (s.modMbx n f).xlt = s.xlt ∧
    (s.modMbx n f).host = s.host ∧ (s.modMbx n f).queues = s.queues ∧
    (s.modMbx n f).served = s.served ∧ (s.modMbx n f).node = s.node ∧
    (s.modMbx n f).boot = s.boot ∧ (s.modMbx n f).pins = s.pins ∧ (s.modMbx n f).sec = s.sec ∧
    (s.modMbx n f).accInfo = s.accInfo ∧ (s.modMbx n f).coll = s.coll ∧
    (s.modMbx n f).upd = s.upd ∧ (s.modMbx n f).seqs = s.seqs ∧ (s.modMbx n f).net = s.net ∧
    (s.modMbx n f).eth = s.eth ∧ (s.modMbx n f).time = s.time ∧ (s.modMbx n f).env = s.env ∧
    (s.modMbx n f).stew = s.stew ∧ (s.modMbx n f).pwr = s.pwr ∧ (s.modMbx n f).keys = s.keys := by
  repeat' constructor

@[simp] theorem State.modColl_fields (s : State) (f : CollState → CollState) :
    (s.modColl f).pending = s.pending ∧ (s.modColl f).fresh = s.fresh ∧
    (s.modColl f).outbox = s.outbox ∧ (s.modColl f).now = s.now ∧ (s.modColl f).ticks = s.ticks ∧
    (s.modColl f).events = s.events ∧ (s.modColl f).edges = s.edges ∧
    (s.modColl f).counters = s.counters ∧ (s.modColl f).arrays = s.arrays ∧
    (s.modColl f).vecs = s.vecs ∧ (s.modColl f).hbm = s.hbm ∧ (s.modColl f).coh = s.coh ∧
    (s.modColl f).cores = s.cores ∧ (s.modColl f).xlt = s.xlt ∧ (s.modColl f).host = s.host ∧
    (s.modColl f).queues = s.queues ∧ (s.modColl f).served = s.served ∧
    (s.modColl f).node = s.node ∧ (s.modColl f).boot = s.boot ∧ (s.modColl f).mgr = s.mgr ∧
    (s.modColl f).pins = s.pins ∧ (s.modColl f).sec = s.sec ∧ (s.modColl f).accInfo = s.accInfo ∧
    (s.modColl f).upd = s.upd ∧ (s.modColl f).seqs = s.seqs ∧ (s.modColl f).net = s.net ∧
    (s.modColl f).eth = s.eth ∧ (s.modColl f).time = s.time ∧ (s.modColl f).env = s.env ∧
    (s.modColl f).stew = s.stew ∧ (s.modColl f).pwr = s.pwr ∧ (s.modColl f).keys = s.keys := by
  repeat' constructor

@[simp] theorem State.modUpd_fields (s : State) (n : Nat) (f : UpdState → UpdState) :
    (s.modUpd n f).pending = s.pending ∧ (s.modUpd n f).fresh = s.fresh ∧
    (s.modUpd n f).outbox = s.outbox ∧ (s.modUpd n f).now = s.now ∧
    (s.modUpd n f).ticks = s.ticks ∧ (s.modUpd n f).events = s.events ∧
    (s.modUpd n f).edges = s.edges ∧ (s.modUpd n f).counters = s.counters ∧
    (s.modUpd n f).arrays = s.arrays ∧ (s.modUpd n f).vecs = s.vecs ∧ (s.modUpd n f).hbm = s.hbm ∧
    (s.modUpd n f).coh = s.coh ∧ (s.modUpd n f).cores = s.cores ∧ (s.modUpd n f).xlt = s.xlt ∧
    (s.modUpd n f).host = s.host ∧ (s.modUpd n f).queues = s.queues ∧
    (s.modUpd n f).served = s.served ∧ (s.modUpd n f).node = s.node ∧
    (s.modUpd n f).boot = s.boot ∧ (s.modUpd n f).mgr = s.mgr ∧ (s.modUpd n f).pins = s.pins ∧
    (s.modUpd n f).sec = s.sec ∧ (s.modUpd n f).accInfo = s.accInfo ∧
    (s.modUpd n f).coll = s.coll ∧ (s.modUpd n f).seqs = s.seqs ∧ (s.modUpd n f).net = s.net ∧
    (s.modUpd n f).eth = s.eth ∧ (s.modUpd n f).time = s.time ∧ (s.modUpd n f).env = s.env ∧
    (s.modUpd n f).stew = s.stew ∧ (s.modUpd n f).pwr = s.pwr ∧ (s.modUpd n f).keys = s.keys := by
  repeat' constructor

@[simp] theorem State.modSeq_fields (s : State) (n : Nat) (f : SeqState → SeqState) :
    (s.modSeq n f).pending = s.pending ∧ (s.modSeq n f).fresh = s.fresh ∧
    (s.modSeq n f).outbox = s.outbox ∧ (s.modSeq n f).now = s.now ∧
    (s.modSeq n f).ticks = s.ticks ∧ (s.modSeq n f).events = s.events ∧
    (s.modSeq n f).edges = s.edges ∧ (s.modSeq n f).counters = s.counters ∧
    (s.modSeq n f).arrays = s.arrays ∧ (s.modSeq n f).vecs = s.vecs ∧ (s.modSeq n f).hbm = s.hbm ∧
    (s.modSeq n f).coh = s.coh ∧ (s.modSeq n f).cores = s.cores ∧ (s.modSeq n f).xlt = s.xlt ∧
    (s.modSeq n f).host = s.host ∧ (s.modSeq n f).queues = s.queues ∧
    (s.modSeq n f).served = s.served ∧ (s.modSeq n f).node = s.node ∧
    (s.modSeq n f).boot = s.boot ∧ (s.modSeq n f).mgr = s.mgr ∧ (s.modSeq n f).pins = s.pins ∧
    (s.modSeq n f).sec = s.sec ∧ (s.modSeq n f).accInfo = s.accInfo ∧
    (s.modSeq n f).coll = s.coll ∧ (s.modSeq n f).upd = s.upd ∧ (s.modSeq n f).net = s.net ∧
    (s.modSeq n f).eth = s.eth ∧ (s.modSeq n f).time = s.time ∧ (s.modSeq n f).env = s.env ∧
    (s.modSeq n f).stew = s.stew ∧ (s.modSeq n f).pwr = s.pwr ∧ (s.modSeq n f).keys = s.keys := by
  repeat' constructor

@[simp] theorem State.modSlot_fields (s : State) (h j : Nat) (f : SlotSt → SlotSt) :
    (s.modSlot h j f).pending = s.pending ∧ (s.modSlot h j f).fresh = s.fresh ∧
    (s.modSlot h j f).outbox = s.outbox ∧ (s.modSlot h j f).now = s.now ∧
    (s.modSlot h j f).ticks = s.ticks ∧ (s.modSlot h j f).events = s.events ∧
    (s.modSlot h j f).edges = s.edges ∧ (s.modSlot h j f).counters = s.counters ∧
    (s.modSlot h j f).arrays = s.arrays ∧ (s.modSlot h j f).vecs = s.vecs ∧
    (s.modSlot h j f).hbm = s.hbm ∧ (s.modSlot h j f).coh = s.coh ∧
    (s.modSlot h j f).cores = s.cores ∧ (s.modSlot h j f).xlt = s.xlt ∧
    (s.modSlot h j f).host = s.host ∧ (s.modSlot h j f).queues = s.queues ∧
    (s.modSlot h j f).served = s.served ∧ (s.modSlot h j f).node = s.node ∧
    (s.modSlot h j f).boot = s.boot ∧ (s.modSlot h j f).mgr = s.mgr ∧
    (s.modSlot h j f).pins = s.pins ∧ (s.modSlot h j f).sec = s.sec ∧
    (s.modSlot h j f).accInfo = s.accInfo ∧ (s.modSlot h j f).coll = s.coll ∧
    (s.modSlot h j f).upd = s.upd ∧ (s.modSlot h j f).net = s.net ∧ (s.modSlot h j f).eth = s.eth ∧
    (s.modSlot h j f).time = s.time ∧ (s.modSlot h j f).env = s.env ∧
    (s.modSlot h j f).stew = s.stew ∧ (s.modSlot h j f).pwr = s.pwr ∧
    (s.modSlot h j f).keys = s.keys := by
  repeat' constructor

@[simp] theorem State.modNet_fields (s : State) (f : NetState → NetState) :
    (s.modNet f).pending = s.pending ∧ (s.modNet f).fresh = s.fresh ∧
    (s.modNet f).outbox = s.outbox ∧ (s.modNet f).now = s.now ∧ (s.modNet f).ticks = s.ticks ∧
    (s.modNet f).events = s.events ∧ (s.modNet f).edges = s.edges ∧
    (s.modNet f).counters = s.counters ∧ (s.modNet f).arrays = s.arrays ∧
    (s.modNet f).vecs = s.vecs ∧ (s.modNet f).hbm = s.hbm ∧ (s.modNet f).coh = s.coh ∧
    (s.modNet f).cores = s.cores ∧ (s.modNet f).xlt = s.xlt ∧ (s.modNet f).host = s.host ∧
    (s.modNet f).queues = s.queues ∧ (s.modNet f).served = s.served ∧ (s.modNet f).node = s.node ∧
    (s.modNet f).boot = s.boot ∧ (s.modNet f).mgr = s.mgr ∧ (s.modNet f).pins = s.pins ∧
    (s.modNet f).sec = s.sec ∧ (s.modNet f).accInfo = s.accInfo ∧ (s.modNet f).coll = s.coll ∧
    (s.modNet f).upd = s.upd ∧ (s.modNet f).seqs = s.seqs ∧ (s.modNet f).eth = s.eth ∧
    (s.modNet f).time = s.time ∧ (s.modNet f).env = s.env ∧ (s.modNet f).stew = s.stew ∧
    (s.modNet f).pwr = s.pwr ∧ (s.modNet f).keys = s.keys := by
  repeat' constructor

@[simp] theorem State.modLink_fields (s : State) (n : Nat) (f : LinkSt → LinkSt) :
    (s.modLink n f).pending = s.pending ∧ (s.modLink n f).fresh = s.fresh ∧
    (s.modLink n f).outbox = s.outbox ∧ (s.modLink n f).now = s.now ∧
    (s.modLink n f).ticks = s.ticks ∧ (s.modLink n f).events = s.events ∧
    (s.modLink n f).edges = s.edges ∧ (s.modLink n f).counters = s.counters ∧
    (s.modLink n f).arrays = s.arrays ∧ (s.modLink n f).vecs = s.vecs ∧
    (s.modLink n f).hbm = s.hbm ∧ (s.modLink n f).coh = s.coh ∧ (s.modLink n f).cores = s.cores ∧
    (s.modLink n f).xlt = s.xlt ∧ (s.modLink n f).host = s.host ∧
    (s.modLink n f).queues = s.queues ∧ (s.modLink n f).served = s.served ∧
    (s.modLink n f).node = s.node ∧ (s.modLink n f).boot = s.boot ∧ (s.modLink n f).mgr = s.mgr ∧
    (s.modLink n f).pins = s.pins ∧ (s.modLink n f).sec = s.sec ∧
    (s.modLink n f).accInfo = s.accInfo ∧ (s.modLink n f).coll = s.coll ∧
    (s.modLink n f).upd = s.upd ∧ (s.modLink n f).seqs = s.seqs ∧ (s.modLink n f).eth = s.eth ∧
    (s.modLink n f).time = s.time ∧ (s.modLink n f).env = s.env ∧ (s.modLink n f).stew = s.stew ∧
    (s.modLink n f).pwr = s.pwr ∧ (s.modLink n f).keys = s.keys := by
  repeat' constructor

@[simp] theorem State.modEth_fields (s : State) (n : Nat) (f : EthSt → EthSt) :
    (s.modEth n f).pending = s.pending ∧ (s.modEth n f).fresh = s.fresh ∧
    (s.modEth n f).outbox = s.outbox ∧ (s.modEth n f).now = s.now ∧
    (s.modEth n f).ticks = s.ticks ∧ (s.modEth n f).events = s.events ∧
    (s.modEth n f).edges = s.edges ∧ (s.modEth n f).counters = s.counters ∧
    (s.modEth n f).arrays = s.arrays ∧ (s.modEth n f).vecs = s.vecs ∧ (s.modEth n f).hbm = s.hbm ∧
    (s.modEth n f).coh = s.coh ∧ (s.modEth n f).cores = s.cores ∧ (s.modEth n f).xlt = s.xlt ∧
    (s.modEth n f).host = s.host ∧ (s.modEth n f).queues = s.queues ∧
    (s.modEth n f).served = s.served ∧ (s.modEth n f).node = s.node ∧
    (s.modEth n f).boot = s.boot ∧ (s.modEth n f).mgr = s.mgr ∧ (s.modEth n f).pins = s.pins ∧
    (s.modEth n f).sec = s.sec ∧ (s.modEth n f).accInfo = s.accInfo ∧
    (s.modEth n f).coll = s.coll ∧ (s.modEth n f).upd = s.upd ∧ (s.modEth n f).seqs = s.seqs ∧
    (s.modEth n f).net = s.net ∧ (s.modEth n f).time = s.time ∧ (s.modEth n f).env = s.env ∧
    (s.modEth n f).stew = s.stew ∧ (s.modEth n f).pwr = s.pwr ∧ (s.modEth n f).keys = s.keys := by
  repeat' constructor

@[simp] theorem State.modQp_fields (s : State) (p q : Nat) (f : QpSt → QpSt) :
    (s.modQp p q f).pending = s.pending ∧ (s.modQp p q f).fresh = s.fresh ∧
    (s.modQp p q f).outbox = s.outbox ∧ (s.modQp p q f).now = s.now ∧
    (s.modQp p q f).ticks = s.ticks ∧ (s.modQp p q f).events = s.events ∧
    (s.modQp p q f).edges = s.edges ∧ (s.modQp p q f).counters = s.counters ∧
    (s.modQp p q f).arrays = s.arrays ∧ (s.modQp p q f).vecs = s.vecs ∧
    (s.modQp p q f).hbm = s.hbm ∧ (s.modQp p q f).coh = s.coh ∧ (s.modQp p q f).cores = s.cores ∧
    (s.modQp p q f).xlt = s.xlt ∧ (s.modQp p q f).host = s.host ∧
    (s.modQp p q f).queues = s.queues ∧ (s.modQp p q f).served = s.served ∧
    (s.modQp p q f).node = s.node ∧ (s.modQp p q f).boot = s.boot ∧ (s.modQp p q f).mgr = s.mgr ∧
    (s.modQp p q f).pins = s.pins ∧ (s.modQp p q f).sec = s.sec ∧
    (s.modQp p q f).accInfo = s.accInfo ∧ (s.modQp p q f).coll = s.coll ∧
    (s.modQp p q f).upd = s.upd ∧ (s.modQp p q f).seqs = s.seqs ∧ (s.modQp p q f).net = s.net ∧
    (s.modQp p q f).time = s.time ∧ (s.modQp p q f).env = s.env ∧ (s.modQp p q f).stew = s.stew ∧
    (s.modQp p q f).pwr = s.pwr ∧ (s.modQp p q f).keys = s.keys := by
  repeat' constructor

@[simp] theorem State.modPort_fields (s : State) (n : Nat) (f : PortSt → PortSt) :
    (s.modPort n f).pending = s.pending ∧ (s.modPort n f).fresh = s.fresh ∧
    (s.modPort n f).outbox = s.outbox ∧ (s.modPort n f).now = s.now ∧
    (s.modPort n f).ticks = s.ticks ∧ (s.modPort n f).events = s.events ∧
    (s.modPort n f).edges = s.edges ∧ (s.modPort n f).counters = s.counters ∧
    (s.modPort n f).arrays = s.arrays ∧ (s.modPort n f).vecs = s.vecs ∧
    (s.modPort n f).hbm = s.hbm ∧ (s.modPort n f).coh = s.coh ∧ (s.modPort n f).cores = s.cores ∧
    (s.modPort n f).xlt = s.xlt ∧ (s.modPort n f).queues = s.queues ∧
    (s.modPort n f).served = s.served ∧ (s.modPort n f).node = s.node ∧
    (s.modPort n f).boot = s.boot ∧ (s.modPort n f).mgr = s.mgr ∧ (s.modPort n f).pins = s.pins ∧
    (s.modPort n f).sec = s.sec ∧ (s.modPort n f).accInfo = s.accInfo ∧
    (s.modPort n f).coll = s.coll ∧ (s.modPort n f).upd = s.upd ∧ (s.modPort n f).seqs = s.seqs ∧
    (s.modPort n f).net = s.net ∧ (s.modPort n f).eth = s.eth ∧ (s.modPort n f).time = s.time ∧
    (s.modPort n f).env = s.env ∧ (s.modPort n f).stew = s.stew ∧ (s.modPort n f).pwr = s.pwr ∧
    (s.modPort n f).keys = s.keys := by
  repeat' constructor

@[simp] theorem State.modSec_fields (s : State) (f : SecState → SecState) :
    (s.modSec f).pending = s.pending ∧ (s.modSec f).fresh = s.fresh ∧
    (s.modSec f).outbox = s.outbox ∧ (s.modSec f).now = s.now ∧ (s.modSec f).ticks = s.ticks ∧
    (s.modSec f).events = s.events ∧ (s.modSec f).edges = s.edges ∧
    (s.modSec f).counters = s.counters ∧ (s.modSec f).arrays = s.arrays ∧
    (s.modSec f).vecs = s.vecs ∧ (s.modSec f).hbm = s.hbm ∧ (s.modSec f).coh = s.coh ∧
    (s.modSec f).cores = s.cores ∧ (s.modSec f).xlt = s.xlt ∧ (s.modSec f).host = s.host ∧
    (s.modSec f).queues = s.queues ∧ (s.modSec f).served = s.served ∧ (s.modSec f).node = s.node ∧
    (s.modSec f).boot = s.boot ∧ (s.modSec f).mgr = s.mgr ∧ (s.modSec f).pins = s.pins ∧
    (s.modSec f).accInfo = s.accInfo ∧ (s.modSec f).coll = s.coll ∧ (s.modSec f).upd = s.upd ∧
    (s.modSec f).seqs = s.seqs ∧ (s.modSec f).net = s.net ∧ (s.modSec f).eth = s.eth ∧
    (s.modSec f).time = s.time ∧ (s.modSec f).env = s.env ∧ (s.modSec f).stew = s.stew ∧
    (s.modSec f).pwr = s.pwr ∧ (s.modSec f).keys = s.keys := by
  repeat' constructor

@[simp] theorem State.setEv_fields (s : State) (x : BitVec 16) (e : EvReg) :
    (s.setEv x e).pending = s.pending ∧ (s.setEv x e).fresh = s.fresh ∧
    (s.setEv x e).outbox = s.outbox ∧ (s.setEv x e).now = s.now ∧ (s.setEv x e).ticks = s.ticks ∧
    (s.setEv x e).edges = s.edges ∧ (s.setEv x e).counters = s.counters ∧
    (s.setEv x e).arrays = s.arrays ∧ (s.setEv x e).vecs = s.vecs ∧ (s.setEv x e).hbm = s.hbm ∧
    (s.setEv x e).coh = s.coh ∧ (s.setEv x e).cores = s.cores ∧ (s.setEv x e).xlt = s.xlt ∧
    (s.setEv x e).host = s.host ∧ (s.setEv x e).queues = s.queues ∧
    (s.setEv x e).served = s.served ∧ (s.setEv x e).node = s.node ∧ (s.setEv x e).boot = s.boot ∧
    (s.setEv x e).mgr = s.mgr ∧ (s.setEv x e).pins = s.pins ∧ (s.setEv x e).sec = s.sec ∧
    (s.setEv x e).accInfo = s.accInfo ∧ (s.setEv x e).coll = s.coll ∧ (s.setEv x e).upd = s.upd ∧
    (s.setEv x e).seqs = s.seqs ∧ (s.setEv x e).net = s.net ∧ (s.setEv x e).eth = s.eth ∧
    (s.setEv x e).time = s.time ∧ (s.setEv x e).env = s.env ∧ (s.setEv x e).stew = s.stew ∧
    (s.setEv x e).pwr = s.pwr ∧ (s.setEv x e).keys = s.keys := by
  repeat' constructor

/-! ## Whole records -/

@[simp] theorem State.modEnv_env (s : State) (f : EnvState → EnvState) : (s.modEnv f).env = f s.env := rfl
@[simp] theorem State.modStew_stew (s : State) (f : StewardState → StewardState) : (s.modStew f).stew = f s.stew := rfl
@[simp] theorem State.modPwr_pwr (s : State) (f : PwrState → PwrState) : (s.modPwr f).pwr = f s.pwr := rfl
@[simp] theorem State.modTime_time (s : State) (f : TimeState → TimeState) : (s.modTime f).time = f s.time := rfl
@[simp] theorem State.modBoot_boot (s : State) (f : BootState → BootState) : (s.modBoot f).boot = f s.boot := rfl
@[simp] theorem State.modMgr_mgr (s : State) (f : MgrState → MgrState) : (s.modMgr f).mgr = f s.mgr := rfl
@[simp] theorem State.modColl_coll (s : State) (f : CollState → CollState) : (s.modColl f).coll = f s.coll := rfl
@[simp] theorem State.modNet_net (s : State) (f : NetState → NetState) : (s.modNet f).net = f s.net := rfl
@[simp] theorem State.modSec_sec (s : State) (f : SecState → SecState) : (s.modSec f).sec = f s.sec := rfl

/-! ## Read after write of the per-unit maps -/

theorem State.arr_modArr (s : State) (n k : Nat) (f : AryState → AryState) :
    (s.modArr n f).arr k = if k = n then f (s.arr n) else s.arr k := by
  simp only [State.arr, State.modArr, State.setArr, Sparse.get_set]

@[simp] theorem State.arr_modArr_self (s : State) (n : Nat) (f : AryState → AryState) :
    (s.modArr n f).arr n = f (s.arr n) := by
  rw [State.arr_modArr, if_pos rfl]

@[simp] theorem State.arr_modArr_other (s : State) (n k : Nat) (f : AryState → AryState) (h : k ≠ n) :
    (s.modArr n f).arr k = s.arr k := by
  rw [State.arr_modArr, if_neg h]

theorem State.vec_modVec (s : State) (n k : Nat) (f : VecState → VecState) :
    (s.modVec n f).vec k = if k = n then f (s.vec n) else s.vec k := by
  simp only [State.vec, State.modVec, State.setVec, Sparse.get_set]

@[simp] theorem State.vec_modVec_self (s : State) (n : Nat) (f : VecState → VecState) :
    (s.modVec n f).vec n = f (s.vec n) := by
  rw [State.vec_modVec, if_pos rfl]

@[simp] theorem State.vec_modVec_other (s : State) (n k : Nat) (f : VecState → VecState) (h : k ≠ n) :
    (s.modVec n f).vec k = s.vec k := by
  rw [State.vec_modVec, if_neg h]

theorem State.queue_modQueue (s : State) (n k : Nat) (f : QState → QState) :
    (s.modQueue n f).queue k = if k = n then f (s.queue n) else s.queue k := by
  simp only [State.queue, State.modQueue, State.setQueue, Sparse.get_set]

@[simp] theorem State.queue_modQueue_self (s : State) (n : Nat) (f : QState → QState) :
    (s.modQueue n f).queue n = f (s.queue n) := by
  rw [State.queue_modQueue, if_pos rfl]

@[simp] theorem State.queue_modQueue_other (s : State) (n k : Nat) (f : QState → QState) (h : k ≠ n) :
    (s.modQueue n f).queue k = s.queue k := by
  rw [State.queue_modQueue, if_neg h]

theorem State.core_modCore (s : State) (n k : Nat) (f : CoreState → CoreState) :
    (s.modCore n f).core k = if k = n then f (s.core n) else s.core k := by
  simp only [State.core, State.modCore, State.setCore, Sparse.get_set]

@[simp] theorem State.core_modCore_self (s : State) (n : Nat) (f : CoreState → CoreState) :
    (s.modCore n f).core n = f (s.core n) := by
  rw [State.core_modCore, if_pos rfl]

@[simp] theorem State.core_modCore_other (s : State) (n k : Nat) (f : CoreState → CoreState) (h : k ≠ n) :
    (s.modCore n f).core k = s.core k := by
  rw [State.core_modCore, if_neg h]

theorem State.stack_modStack (s : State) (n k : Nat) (f : StackSt → StackSt) :
    (s.modStack n f).stack k = if k = n then f (s.stack n) else s.stack k := by
  simp only [State.stack, State.modStack, Sparse.get_set]

@[simp] theorem State.stack_modStack_self (s : State) (n : Nat) (f : StackSt → StackSt) :
    (s.modStack n f).stack n = f (s.stack n) := by
  rw [State.stack_modStack, if_pos rfl]

@[simp] theorem State.stack_modStack_other (s : State) (n k : Nat) (f : StackSt → StackSt) (h : k ≠ n) :
    (s.modStack n f).stack k = s.stack k := by
  rw [State.stack_modStack, if_neg h]

theorem State.pc_modPc (s : State) (n k : Nat) (f : PcSt → PcSt) :
    (s.modPc n f).pc k = if k = n then f (s.pc n) else s.pc k := by
  simp only [State.pc, State.modPc, Sparse.get_set]

@[simp] theorem State.pc_modPc_self (s : State) (n : Nat) (f : PcSt → PcSt) :
    (s.modPc n f).pc n = f (s.pc n) := by
  rw [State.pc_modPc, if_pos rfl]

@[simp] theorem State.pc_modPc_other (s : State) (n k : Nat) (f : PcSt → PcSt) (h : k ≠ n) :
    (s.modPc n f).pc k = s.pc k := by
  rw [State.pc_modPc, if_neg h]

theorem State.cis_modCis (s : State) (n k : Nat) (f : CisState → CisState) :
    (s.modCis n f).cis k = if k = n then f (s.cis n) else s.cis k := by
  simp only [State.cis, State.modCis, Sparse.get_set]

@[simp] theorem State.cis_modCis_self (s : State) (n : Nat) (f : CisState → CisState) :
    (s.modCis n f).cis n = f (s.cis n) := by
  rw [State.cis_modCis, if_pos rfl]

@[simp] theorem State.cis_modCis_other (s : State) (n k : Nat) (f : CisState → CisState) (h : k ≠ n) :
    (s.modCis n f).cis k = s.cis k := by
  rw [State.cis_modCis, if_neg h]

theorem State.mbx_modMbx (s : State) (n k : Nat) (f : MbxSt → MbxSt) :
    (s.modMbx n f).mbx k = if k = n then f (s.mbx n) else s.mbx k := by
  simp only [State.mbx, State.modMbx, State.modMgr, Sparse.get_set]

@[simp] theorem State.mbx_modMbx_self (s : State) (n : Nat) (f : MbxSt → MbxSt) :
    (s.modMbx n f).mbx n = f (s.mbx n) := by
  rw [State.mbx_modMbx, if_pos rfl]

@[simp] theorem State.mbx_modMbx_other (s : State) (n k : Nat) (f : MbxSt → MbxSt) (h : k ≠ n) :
    (s.modMbx n f).mbx k = s.mbx k := by
  rw [State.mbx_modMbx, if_neg h]

theorem State.upd1_modUpd (s : State) (n k : Nat) (f : UpdState → UpdState) :
    (s.modUpd n f).upd1 k = if k = n then f (s.upd1 n) else s.upd1 k := by
  simp only [State.upd1, State.modUpd, Sparse.get_set]

@[simp] theorem State.upd1_modUpd_self (s : State) (n : Nat) (f : UpdState → UpdState) :
    (s.modUpd n f).upd1 n = f (s.upd1 n) := by
  rw [State.upd1_modUpd, if_pos rfl]

@[simp] theorem State.upd1_modUpd_other (s : State) (n k : Nat) (f : UpdState → UpdState) (h : k ≠ n) :
    (s.modUpd n f).upd1 k = s.upd1 k := by
  rw [State.upd1_modUpd, if_neg h]

theorem State.seq_modSeq (s : State) (n k : Nat) (f : SeqState → SeqState) :
    (s.modSeq n f).seq k = if k = n then f (s.seq n) else s.seq k := by
  simp only [State.seq, State.modSeq, Sparse.get_set]

@[simp] theorem State.seq_modSeq_self (s : State) (n : Nat) (f : SeqState → SeqState) :
    (s.modSeq n f).seq n = f (s.seq n) := by
  rw [State.seq_modSeq, if_pos rfl]

@[simp] theorem State.seq_modSeq_other (s : State) (n k : Nat) (f : SeqState → SeqState) (h : k ≠ n) :
    (s.modSeq n f).seq k = s.seq k := by
  rw [State.seq_modSeq, if_neg h]

theorem State.link_modLink (s : State) (n k : Nat) (f : LinkSt → LinkSt) :
    (s.modLink n f).link k = if k = n then f (s.link n) else s.link k := by
  simp only [State.link, State.modLink, Sparse.get_set]

@[simp] theorem State.link_modLink_self (s : State) (n : Nat) (f : LinkSt → LinkSt) :
    (s.modLink n f).link n = f (s.link n) := by
  rw [State.link_modLink, if_pos rfl]

@[simp] theorem State.link_modLink_other (s : State) (n k : Nat) (f : LinkSt → LinkSt) (h : k ≠ n) :
    (s.modLink n f).link k = s.link k := by
  rw [State.link_modLink, if_neg h]

theorem State.ethPort_modEth (s : State) (n k : Nat) (f : EthSt → EthSt) :
    (s.modEth n f).ethPort k = if k = n then f (s.ethPort n) else s.ethPort k := by
  simp only [State.ethPort, State.modEth, Sparse.get_set]

@[simp] theorem State.ethPort_modEth_self (s : State) (n : Nat) (f : EthSt → EthSt) :
    (s.modEth n f).ethPort n = f (s.ethPort n) := by
  rw [State.ethPort_modEth, if_pos rfl]

@[simp] theorem State.ethPort_modEth_other (s : State) (n k : Nat) (f : EthSt → EthSt) (h : k ≠ n) :
    (s.modEth n f).ethPort k = s.ethPort k := by
  rw [State.ethPort_modEth, if_neg h]

theorem State.port_modPort (s : State) (n k : Nat) (f : PortSt → PortSt) :
    (s.modPort n f).port k = if k = n then f (s.port n) else s.port k := by
  simp only [State.port, State.modPort, Sparse.get_set]

@[simp] theorem State.port_modPort_self (s : State) (n : Nat) (f : PortSt → PortSt) :
    (s.modPort n f).port n = f (s.port n) := by
  rw [State.port_modPort, if_pos rfl]

@[simp] theorem State.port_modPort_other (s : State) (n k : Nat) (f : PortSt → PortSt) (h : k ≠ n) :
    (s.modPort n f).port k = s.port k := by
  rw [State.port_modPort, if_neg h]

theorem State.paceSet_modSet (s : State) (n k : Nat) (f : PaceSet → PaceSet) :
    (s.modSet n f).paceSet k = if k = n then f (s.paceSet n) else s.paceSet k := by
  simp only [State.paceSet, State.modSet, State.modStew, Sparse.get_set]

@[simp] theorem State.paceSet_modSet_self (s : State) (n : Nat) (f : PaceSet → PaceSet) :
    (s.modSet n f).paceSet n = f (s.paceSet n) := by
  rw [State.paceSet_modSet, if_pos rfl]

@[simp] theorem State.paceSet_modSet_other (s : State) (n k : Nat) (f : PaceSet → PaceSet) (h : k ≠ n) :
    (s.modSet n f).paceSet k = s.paceSet k := by
  rw [State.paceSet_modSet, if_neg h]

/-! ## Accessors and updates of other maps -/

@[simp] theorem State.setArr_units (s : State) (n : Nat) (a : AryState) :
    (∀ k : Nat, (s.setArr n a).vec k = s.vec k) ∧ (∀ k : Nat, (s.setArr n a).queue k = s.queue k) ∧
    (∀ k : Nat, (s.setArr n a).core k = s.core k) ∧
    (∀ k : Nat, (s.setArr n a).stack k = s.stack k) ∧ (∀ k : Nat, (s.setArr n a).pc k = s.pc k) ∧
    (∀ k : Nat, (s.setArr n a).cis k = s.cis k) ∧ (∀ k : Nat, (s.setArr n a).mbx k = s.mbx k) ∧
    (∀ k : Nat, (s.setArr n a).upd1 k = s.upd1 k) ∧ (∀ k : Nat, (s.setArr n a).seq k = s.seq k) ∧
    (∀ k : Nat, (s.setArr n a).link k = s.link k) ∧
    (∀ k : Nat, (s.setArr n a).ethPort k = s.ethPort k) ∧
    (∀ k : Nat, (s.setArr n a).port k = s.port k) ∧
    (∀ k : Nat, (s.setArr n a).paceSet k = s.paceSet k) ∧
    (∀ src : BitVec 16, (s.setArr n a).ev src = s.ev src) ∧
    (∀ k : Nat, (s.setArr n a).ctr k = s.ctr k) ∧
    (∀ src : BitVec 16, (s.setArr n a).evBits src = s.evBits src) :=
  ⟨fun _ => rfl, fun _ => rfl, fun _ => rfl, fun _ => rfl, fun _ => rfl, fun _ => rfl, fun _ => rfl, fun _ => rfl, fun _ => rfl, fun _ => rfl, fun _ => rfl, fun _ => rfl, fun _ => rfl, fun _ => rfl, fun _ => rfl, fun _ => rfl⟩

@[simp] theorem State.modArr_units (s : State) (n : Nat) (f : AryState → AryState) :
    (∀ k : Nat, (s.modArr n f).vec k = s.vec k) ∧ (∀ k : Nat, (s.modArr n f).queue k = s.queue k) ∧
    (∀ k : Nat, (s.modArr n f).core k = s.core k) ∧
    (∀ k : Nat, (s.modArr n f).stack k = s.stack k) ∧ (∀ k : Nat, (s.modArr n f).pc k = s.pc k) ∧
    (∀ k : Nat, (s.modArr n f).cis k = s.cis k) ∧ (∀ k : Nat, (s.modArr n f).mbx k = s.mbx k) ∧
    (∀ k : Nat, (s.modArr n f).upd1 k = s.upd1 k) ∧ (∀ k : Nat, (s.modArr n f).seq k = s.seq k) ∧
    (∀ k : Nat, (s.modArr n f).link k = s.link k) ∧
    (∀ k : Nat, (s.modArr n f).ethPort k = s.ethPort k) ∧
    (∀ k : Nat, (s.modArr n f).port k = s.port k) ∧
    (∀ k : Nat, (s.modArr n f).paceSet k = s.paceSet k) ∧
    (∀ src : BitVec 16, (s.modArr n f).ev src = s.ev src) ∧
    (∀ k : Nat, (s.modArr n f).ctr k = s.ctr k) ∧
    (∀ src : BitVec 16, (s.modArr n f).evBits src = s.evBits src) :=
  ⟨fun _ => rfl, fun _ => rfl, fun _ => rfl, fun _ => rfl, fun _ => rfl, fun _ => rfl, fun _ => rfl, fun _ => rfl, fun _ => rfl, fun _ => rfl, fun _ => rfl, fun _ => rfl, fun _ => rfl, fun _ => rfl, fun _ => rfl, fun _ => rfl⟩

@[simp] theorem State.setVec_units (s : State) (n : Nat) (a : VecState) :
    (∀ k : Nat, (s.setVec n a).arr k = s.arr k) ∧ (∀ k : Nat, (s.setVec n a).queue k = s.queue k) ∧
    (∀ k : Nat, (s.setVec n a).core k = s.core k) ∧
    (∀ k : Nat, (s.setVec n a).stack k = s.stack k) ∧ (∀ k : Nat, (s.setVec n a).pc k = s.pc k) ∧
    (∀ k : Nat, (s.setVec n a).cis k = s.cis k) ∧ (∀ k : Nat, (s.setVec n a).mbx k = s.mbx k) ∧
    (∀ k : Nat, (s.setVec n a).upd1 k = s.upd1 k) ∧ (∀ k : Nat, (s.setVec n a).seq k = s.seq k) ∧
    (∀ k : Nat, (s.setVec n a).link k = s.link k) ∧
    (∀ k : Nat, (s.setVec n a).ethPort k = s.ethPort k) ∧
    (∀ k : Nat, (s.setVec n a).port k = s.port k) ∧
    (∀ k : Nat, (s.setVec n a).paceSet k = s.paceSet k) ∧
    (∀ src : BitVec 16, (s.setVec n a).ev src = s.ev src) ∧
    (∀ k : Nat, (s.setVec n a).ctr k = s.ctr k) ∧
    (∀ src : BitVec 16, (s.setVec n a).evBits src = s.evBits src) :=
  ⟨fun _ => rfl, fun _ => rfl, fun _ => rfl, fun _ => rfl, fun _ => rfl, fun _ => rfl, fun _ => rfl, fun _ => rfl, fun _ => rfl, fun _ => rfl, fun _ => rfl, fun _ => rfl, fun _ => rfl, fun _ => rfl, fun _ => rfl, fun _ => rfl⟩

@[simp] theorem State.modVec_units (s : State) (n : Nat) (f : VecState → VecState) :
    (∀ k : Nat, (s.modVec n f).arr k = s.arr k) ∧ (∀ k : Nat, (s.modVec n f).queue k = s.queue k) ∧
    (∀ k : Nat, (s.modVec n f).core k = s.core k) ∧
    (∀ k : Nat, (s.modVec n f).stack k = s.stack k) ∧ (∀ k : Nat, (s.modVec n f).pc k = s.pc k) ∧
    (∀ k : Nat, (s.modVec n f).cis k = s.cis k) ∧ (∀ k : Nat, (s.modVec n f).mbx k = s.mbx k) ∧
    (∀ k : Nat, (s.modVec n f).upd1 k = s.upd1 k) ∧ (∀ k : Nat, (s.modVec n f).seq k = s.seq k) ∧
    (∀ k : Nat, (s.modVec n f).link k = s.link k) ∧
    (∀ k : Nat, (s.modVec n f).ethPort k = s.ethPort k) ∧
    (∀ k : Nat, (s.modVec n f).port k = s.port k) ∧
    (∀ k : Nat, (s.modVec n f).paceSet k = s.paceSet k) ∧
    (∀ src : BitVec 16, (s.modVec n f).ev src = s.ev src) ∧
    (∀ k : Nat, (s.modVec n f).ctr k = s.ctr k) ∧
    (∀ src : BitVec 16, (s.modVec n f).evBits src = s.evBits src) :=
  ⟨fun _ => rfl, fun _ => rfl, fun _ => rfl, fun _ => rfl, fun _ => rfl, fun _ => rfl, fun _ => rfl, fun _ => rfl, fun _ => rfl, fun _ => rfl, fun _ => rfl, fun _ => rfl, fun _ => rfl, fun _ => rfl, fun _ => rfl, fun _ => rfl⟩

@[simp] theorem State.setQueue_units (s : State) (n : Nat) (a : QState) :
    (∀ k : Nat, (s.setQueue n a).arr k = s.arr k) ∧ (∀ k : Nat, (s.setQueue n a).vec k = s.vec k) ∧
    (∀ k : Nat, (s.setQueue n a).core k = s.core k) ∧
    (∀ k : Nat, (s.setQueue n a).stack k = s.stack k) ∧
    (∀ k : Nat, (s.setQueue n a).pc k = s.pc k) ∧ (∀ k : Nat, (s.setQueue n a).cis k = s.cis k) ∧
    (∀ k : Nat, (s.setQueue n a).mbx k = s.mbx k) ∧
    (∀ k : Nat, (s.setQueue n a).upd1 k = s.upd1 k) ∧
    (∀ k : Nat, (s.setQueue n a).seq k = s.seq k) ∧
    (∀ k : Nat, (s.setQueue n a).link k = s.link k) ∧
    (∀ k : Nat, (s.setQueue n a).ethPort k = s.ethPort k) ∧
    (∀ k : Nat, (s.setQueue n a).port k = s.port k) ∧
    (∀ k : Nat, (s.setQueue n a).paceSet k = s.paceSet k) ∧
    (∀ eng : StreamEng, (s.setQueue n a).unit eng = s.unit eng) ∧
    (∀ src : BitVec 16, (s.setQueue n a).ev src = s.ev src) ∧
    (∀ k : Nat, (s.setQueue n a).ctr k = s.ctr k) ∧
    (∀ src : BitVec 16, (s.setQueue n a).evBits src = s.evBits src) :=
  ⟨fun _ => rfl, fun _ => rfl, fun _ => rfl, fun _ => rfl, fun _ => rfl, fun _ => rfl, fun _ => rfl, fun _ => rfl, fun _ => rfl, fun _ => rfl, fun _ => rfl, fun _ => rfl, fun _ => rfl, fun x => by cases x <;> rfl, fun _ => rfl, fun _ => rfl, fun _ => rfl⟩

@[simp] theorem State.modQueue_units (s : State) (n : Nat) (f : QState → QState) :
    (∀ k : Nat, (s.modQueue n f).arr k = s.arr k) ∧ (∀ k : Nat, (s.modQueue n f).vec k = s.vec k) ∧
    (∀ k : Nat, (s.modQueue n f).core k = s.core k) ∧
    (∀ k : Nat, (s.modQueue n f).stack k = s.stack k) ∧
    (∀ k : Nat, (s.modQueue n f).pc k = s.pc k) ∧ (∀ k : Nat, (s.modQueue n f).cis k = s.cis k) ∧
    (∀ k : Nat, (s.modQueue n f).mbx k = s.mbx k) ∧
    (∀ k : Nat, (s.modQueue n f).upd1 k = s.upd1 k) ∧
    (∀ k : Nat, (s.modQueue n f).seq k = s.seq k) ∧
    (∀ k : Nat, (s.modQueue n f).link k = s.link k) ∧
    (∀ k : Nat, (s.modQueue n f).ethPort k = s.ethPort k) ∧
    (∀ k : Nat, (s.modQueue n f).port k = s.port k) ∧
    (∀ k : Nat, (s.modQueue n f).paceSet k = s.paceSet k) ∧
    (∀ eng : StreamEng, (s.modQueue n f).unit eng = s.unit eng) ∧
    (∀ src : BitVec 16, (s.modQueue n f).ev src = s.ev src) ∧
    (∀ k : Nat, (s.modQueue n f).ctr k = s.ctr k) ∧
    (∀ src : BitVec 16, (s.modQueue n f).evBits src = s.evBits src) :=
  ⟨fun _ => rfl, fun _ => rfl, fun _ => rfl, fun _ => rfl, fun _ => rfl, fun _ => rfl, fun _ => rfl, fun _ => rfl, fun _ => rfl, fun _ => rfl, fun _ => rfl, fun _ => rfl, fun _ => rfl, fun x => by cases x <;> rfl, fun _ => rfl, fun _ => rfl, fun _ => rfl⟩

@[simp] theorem State.setCore_units (s : State) (n : Nat) (a : CoreState) :
    (∀ k : Nat, (s.setCore n a).arr k = s.arr k) ∧ (∀ k : Nat, (s.setCore n a).vec k = s.vec k) ∧
    (∀ k : Nat, (s.setCore n a).queue k = s.queue k) ∧
    (∀ k : Nat, (s.setCore n a).stack k = s.stack k) ∧ (∀ k : Nat, (s.setCore n a).pc k = s.pc k) ∧
    (∀ k : Nat, (s.setCore n a).cis k = s.cis k) ∧ (∀ k : Nat, (s.setCore n a).mbx k = s.mbx k) ∧
    (∀ k : Nat, (s.setCore n a).upd1 k = s.upd1 k) ∧ (∀ k : Nat, (s.setCore n a).seq k = s.seq k) ∧
    (∀ k : Nat, (s.setCore n a).link k = s.link k) ∧
    (∀ k : Nat, (s.setCore n a).ethPort k = s.ethPort k) ∧
    (∀ k : Nat, (s.setCore n a).port k = s.port k) ∧
    (∀ k : Nat, (s.setCore n a).paceSet k = s.paceSet k) ∧
    (∀ eng : StreamEng, (s.setCore n a).unit eng = s.unit eng) ∧
    (∀ src : BitVec 16, (s.setCore n a).ev src = s.ev src) ∧
    (∀ k : Nat, (s.setCore n a).ctr k = s.ctr k) ∧
    (∀ src : BitVec 16, (s.setCore n a).evBits src = s.evBits src) :=
  ⟨fun _ => rfl, fun _ => rfl, fun _ => rfl, fun _ => rfl, fun _ => rfl, fun _ => rfl, fun _ => rfl, fun _ => rfl, fun _ => rfl, fun _ => rfl, fun _ => rfl, fun _ => rfl, fun _ => rfl, fun x => by cases x <;> rfl, fun _ => rfl, fun _ => rfl, fun _ => rfl⟩

@[simp] theorem State.modCore_units (s : State) (n : Nat) (f : CoreState → CoreState) :
    (∀ k : Nat, (s.modCore n f).arr k = s.arr k) ∧ (∀ k : Nat, (s.modCore n f).vec k = s.vec k) ∧
    (∀ k : Nat, (s.modCore n f).queue k = s.queue k) ∧
    (∀ k : Nat, (s.modCore n f).stack k = s.stack k) ∧ (∀ k : Nat, (s.modCore n f).pc k = s.pc k) ∧
    (∀ k : Nat, (s.modCore n f).cis k = s.cis k) ∧ (∀ k : Nat, (s.modCore n f).mbx k = s.mbx k) ∧
    (∀ k : Nat, (s.modCore n f).upd1 k = s.upd1 k) ∧ (∀ k : Nat, (s.modCore n f).seq k = s.seq k) ∧
    (∀ k : Nat, (s.modCore n f).link k = s.link k) ∧
    (∀ k : Nat, (s.modCore n f).ethPort k = s.ethPort k) ∧
    (∀ k : Nat, (s.modCore n f).port k = s.port k) ∧
    (∀ k : Nat, (s.modCore n f).paceSet k = s.paceSet k) ∧
    (∀ eng : StreamEng, (s.modCore n f).unit eng = s.unit eng) ∧
    (∀ src : BitVec 16, (s.modCore n f).ev src = s.ev src) ∧
    (∀ k : Nat, (s.modCore n f).ctr k = s.ctr k) ∧
    (∀ src : BitVec 16, (s.modCore n f).evBits src = s.evBits src) :=
  ⟨fun _ => rfl, fun _ => rfl, fun _ => rfl, fun _ => rfl, fun _ => rfl, fun _ => rfl, fun _ => rfl, fun _ => rfl, fun _ => rfl, fun _ => rfl, fun _ => rfl, fun _ => rfl, fun _ => rfl, fun x => by cases x <;> rfl, fun _ => rfl, fun _ => rfl, fun _ => rfl⟩

@[simp] theorem State.modStack_units (s : State) (n : Nat) (f : StackSt → StackSt) :
    (∀ k : Nat, (s.modStack n f).arr k = s.arr k) ∧ (∀ k : Nat, (s.modStack n f).vec k = s.vec k) ∧
    (∀ k : Nat, (s.modStack n f).queue k = s.queue k) ∧
    (∀ k : Nat, (s.modStack n f).core k = s.core k) ∧
    (∀ k : Nat, (s.modStack n f).cis k = s.cis k) ∧ (∀ k : Nat, (s.modStack n f).mbx k = s.mbx k) ∧
    (∀ k : Nat, (s.modStack n f).upd1 k = s.upd1 k) ∧
    (∀ k : Nat, (s.modStack n f).seq k = s.seq k) ∧
    (∀ k : Nat, (s.modStack n f).link k = s.link k) ∧
    (∀ k : Nat, (s.modStack n f).ethPort k = s.ethPort k) ∧
    (∀ k : Nat, (s.modStack n f).port k = s.port k) ∧
    (∀ k : Nat, (s.modStack n f).paceSet k = s.paceSet k) ∧
    (∀ eng : StreamEng, (s.modStack n f).unit eng = s.unit eng) ∧
    (∀ src : BitVec 16, (s.modStack n f).ev src = s.ev src) ∧
    (∀ k : Nat, (s.modStack n f).ctr k = s.ctr k) ∧
    (∀ src : BitVec 16, (s.modStack n f).evBits src = s.evBits src) :=
  ⟨fun _ => rfl, fun _ => rfl, fun _ => rfl, fun _ => rfl, fun _ => rfl, fun _ => rfl, fun _ => rfl, fun _ => rfl, fun _ => rfl, fun _ => rfl, fun _ => rfl, fun _ => rfl, fun x => by cases x <;> rfl, fun _ => rfl, fun _ => rfl, fun _ => rfl⟩

@[simp] theorem State.modPc_units (s : State) (n : Nat) (f : PcSt → PcSt) :
    (∀ k : Nat, (s.modPc n f).arr k = s.arr k) ∧ (∀ k : Nat, (s.modPc n f).vec k = s.vec k) ∧
    (∀ k : Nat, (s.modPc n f).queue k = s.queue k) ∧ (∀ k : Nat, (s.modPc n f).core k = s.core k) ∧
    (∀ k : Nat, (s.modPc n f).cis k = s.cis k) ∧ (∀ k : Nat, (s.modPc n f).mbx k = s.mbx k) ∧
    (∀ k : Nat, (s.modPc n f).upd1 k = s.upd1 k) ∧ (∀ k : Nat, (s.modPc n f).seq k = s.seq k) ∧
    (∀ k : Nat, (s.modPc n f).link k = s.link k) ∧
    (∀ k : Nat, (s.modPc n f).ethPort k = s.ethPort k) ∧
    (∀ k : Nat, (s.modPc n f).port k = s.port k) ∧
    (∀ k : Nat, (s.modPc n f).paceSet k = s.paceSet k) ∧
    (∀ eng : StreamEng, (s.modPc n f).unit eng = s.unit eng) ∧
    (∀ src : BitVec 16, (s.modPc n f).ev src = s.ev src) ∧
    (∀ k : Nat, (s.modPc n f).ctr k = s.ctr k) ∧
    (∀ src : BitVec 16, (s.modPc n f).evBits src = s.evBits src) :=
  ⟨fun _ => rfl, fun _ => rfl, fun _ => rfl, fun _ => rfl, fun _ => rfl, fun _ => rfl, fun _ => rfl, fun _ => rfl, fun _ => rfl, fun _ => rfl, fun _ => rfl, fun _ => rfl, fun x => by cases x <;> rfl, fun _ => rfl, fun _ => rfl, fun _ => rfl⟩

@[simp] theorem State.setWcb_units (s : State) (n : Nat) (l : List WcbEntry) :
    (∀ k : Nat, (s.setWcb n l).arr k = s.arr k) ∧ (∀ k : Nat, (s.setWcb n l).vec k = s.vec k) ∧
    (∀ k : Nat, (s.setWcb n l).queue k = s.queue k) ∧
    (∀ k : Nat, (s.setWcb n l).core k = s.core k) ∧ (∀ k : Nat, (s.setWcb n l).cis k = s.cis k) ∧
    (∀ k : Nat, (s.setWcb n l).mbx k = s.mbx k) ∧ (∀ k : Nat, (s.setWcb n l).upd1 k = s.upd1 k) ∧
    (∀ k : Nat, (s.setWcb n l).seq k = s.seq k) ∧ (∀ k : Nat, (s.setWcb n l).link k = s.link k) ∧
    (∀ k : Nat, (s.setWcb n l).ethPort k = s.ethPort k) ∧
    (∀ k : Nat, (s.setWcb n l).port k = s.port k) ∧
    (∀ k : Nat, (s.setWcb n l).paceSet k = s.paceSet k) ∧
    (∀ eng : StreamEng, (s.setWcb n l).unit eng = s.unit eng) ∧
    (∀ src : BitVec 16, (s.setWcb n l).ev src = s.ev src) ∧
    (∀ k : Nat, (s.setWcb n l).ctr k = s.ctr k) ∧
    (∀ src : BitVec 16, (s.setWcb n l).evBits src = s.evBits src) :=
  ⟨fun _ => rfl, fun _ => rfl, fun _ => rfl, fun _ => rfl, fun _ => rfl, fun _ => rfl, fun _ => rfl, fun _ => rfl, fun _ => rfl, fun _ => rfl, fun _ => rfl, fun _ => rfl, fun x => by cases x <;> rfl, fun _ => rfl, fun _ => rfl, fun _ => rfl⟩

@[simp] theorem State.modCis_units (s : State) (n : Nat) (f : CisState → CisState) :
    (∀ k : Nat, (s.modCis n f).arr k = s.arr k) ∧ (∀ k : Nat, (s.modCis n f).vec k = s.vec k) ∧
    (∀ k : Nat, (s.modCis n f).queue k = s.queue k) ∧
    (∀ k : Nat, (s.modCis n f).core k = s.core k) ∧
    (∀ k : Nat, (s.modCis n f).stack k = s.stack k) ∧ (∀ k : Nat, (s.modCis n f).pc k = s.pc k) ∧
    (∀ k : Nat, (s.modCis n f).mbx k = s.mbx k) ∧ (∀ k : Nat, (s.modCis n f).upd1 k = s.upd1 k) ∧
    (∀ k : Nat, (s.modCis n f).seq k = s.seq k) ∧ (∀ k : Nat, (s.modCis n f).link k = s.link k) ∧
    (∀ k : Nat, (s.modCis n f).ethPort k = s.ethPort k) ∧
    (∀ k : Nat, (s.modCis n f).port k = s.port k) ∧
    (∀ k : Nat, (s.modCis n f).paceSet k = s.paceSet k) ∧
    (∀ eng : StreamEng, (s.modCis n f).unit eng = s.unit eng) ∧
    (∀ src : BitVec 16, (s.modCis n f).ev src = s.ev src) ∧
    (∀ k : Nat, (s.modCis n f).ctr k = s.ctr k) ∧
    (∀ src : BitVec 16, (s.modCis n f).evBits src = s.evBits src) :=
  ⟨fun _ => rfl, fun _ => rfl, fun _ => rfl, fun _ => rfl, fun _ => rfl, fun _ => rfl, fun _ => rfl, fun _ => rfl, fun _ => rfl, fun _ => rfl, fun _ => rfl, fun _ => rfl, fun _ => rfl, fun x => by cases x <;> rfl, fun _ => rfl, fun _ => rfl, fun _ => rfl⟩

@[simp] theorem State.setWay_units (s : State) (c i w : Nat) (l : CLine) :
    (∀ k : Nat, (s.setWay c i w l).arr k = s.arr k) ∧
    (∀ k : Nat, (s.setWay c i w l).vec k = s.vec k) ∧
    (∀ k : Nat, (s.setWay c i w l).queue k = s.queue k) ∧
    (∀ k : Nat, (s.setWay c i w l).core k = s.core k) ∧
    (∀ k : Nat, (s.setWay c i w l).stack k = s.stack k) ∧
    (∀ k : Nat, (s.setWay c i w l).pc k = s.pc k) ∧
    (∀ k : Nat, (s.setWay c i w l).mbx k = s.mbx k) ∧
    (∀ k : Nat, (s.setWay c i w l).upd1 k = s.upd1 k) ∧
    (∀ k : Nat, (s.setWay c i w l).seq k = s.seq k) ∧
    (∀ k : Nat, (s.setWay c i w l).link k = s.link k) ∧
    (∀ k : Nat, (s.setWay c i w l).ethPort k = s.ethPort k) ∧
    (∀ k : Nat, (s.setWay c i w l).port k = s.port k) ∧
    (∀ k : Nat, (s.setWay c i w l).paceSet k = s.paceSet k) ∧
    (∀ eng : StreamEng, (s.setWay c i w l).unit eng = s.unit eng) ∧
    (∀ src : BitVec 16, (s.setWay c i w l).ev src = s.ev src) ∧
    (∀ k : Nat, (s.setWay c i w l).ctr k = s.ctr k) ∧
    (∀ src : BitVec 16, (s.setWay c i w l).evBits src = s.evBits src) :=
  ⟨fun _ => rfl, fun _ => rfl, fun _ => rfl, fun _ => rfl, fun _ => rfl, fun _ => rfl, fun _ => rfl, fun _ => rfl, fun _ => rfl, fun _ => rfl, fun _ => rfl, fun _ => rfl, fun _ => rfl, fun x => by cases x <;> rfl, fun _ => rfl, fun _ => rfl, fun _ => rfl⟩

@[simp] theorem State.setDir_units (s : State) (l : Nat) (e : DirEntry) :
    (∀ k : Nat, (s.setDir l e).arr k = s.arr k) ∧ (∀ k : Nat, (s.setDir l e).vec k = s.vec k) ∧
    (∀ k : Nat, (s.setDir l e).queue k = s.queue k) ∧
    (∀ k : Nat, (s.setDir l e).core k = s.core k) ∧
    (∀ k : Nat, (s.setDir l e).stack k = s.stack k) ∧ (∀ k : Nat, (s.setDir l e).pc k = s.pc k) ∧
    (∀ k : Nat, (s.setDir l e).mbx k = s.mbx k) ∧ (∀ k : Nat, (s.setDir l e).upd1 k = s.upd1 k) ∧
    (∀ k : Nat, (s.setDir l e).seq k = s.seq k) ∧ (∀ k : Nat, (s.setDir l e).link k = s.link k) ∧
    (∀ k : Nat, (s.setDir l e).ethPort k = s.ethPort k) ∧
    (∀ k : Nat, (s.setDir l e).port k = s.port k) ∧
    (∀ k : Nat, (s.setDir l e).paceSet k = s.paceSet k) ∧
    (∀ eng : StreamEng, (s.setDir l e).unit eng = s.unit eng) ∧
    (∀ src : BitVec 16, (s.setDir l e).ev src = s.ev src) ∧
    (∀ k : Nat, (s.setDir l e).ctr k = s.ctr k) ∧
    (∀ src : BitVec 16, (s.setDir l e).evBits src = s.evBits src) :=
  ⟨fun _ => rfl, fun _ => rfl, fun _ => rfl, fun _ => rfl, fun _ => rfl, fun _ => rfl, fun _ => rfl, fun _ => rfl, fun _ => rfl, fun _ => rfl, fun _ => rfl, fun _ => rfl, fun _ => rfl, fun x => by cases x <;> rfl, fun _ => rfl, fun _ => rfl, fun _ => rfl⟩

@[simp] theorem State.setPline_units (s : State) (h l : Nat) (p : PLine) :
    (∀ k : Nat, (s.setPline h l p).arr k = s.arr k) ∧
    (∀ k : Nat, (s.setPline h l p).vec k = s.vec k) ∧
    (∀ k : Nat, (s.setPline h l p).queue k = s.queue k) ∧
    (∀ k : Nat, (s.setPline h l p).core k = s.core k) ∧
    (∀ k : Nat, (s.setPline h l p).stack k = s.stack k) ∧
    (∀ k : Nat, (s.setPline h l p).pc k = s.pc k) ∧
    (∀ k : Nat, (s.setPline h l p).mbx k = s.mbx k) ∧
    (∀ k : Nat, (s.setPline h l p).upd1 k = s.upd1 k) ∧
    (∀ k : Nat, (s.setPline h l p).seq k = s.seq k) ∧
    (∀ k : Nat, (s.setPline h l p).link k = s.link k) ∧
    (∀ k : Nat, (s.setPline h l p).ethPort k = s.ethPort k) ∧
    (∀ k : Nat, (s.setPline h l p).port k = s.port k) ∧
    (∀ k : Nat, (s.setPline h l p).paceSet k = s.paceSet k) ∧
    (∀ eng : StreamEng, (s.setPline h l p).unit eng = s.unit eng) ∧
    (∀ src : BitVec 16, (s.setPline h l p).ev src = s.ev src) ∧
    (∀ k : Nat, (s.setPline h l p).ctr k = s.ctr k) ∧
    (∀ src : BitVec 16, (s.setPline h l p).evBits src = s.evBits src) := by
  unfold State.setPline; split <;> exact ⟨fun _ => rfl, fun _ => rfl, fun _ => rfl, fun _ => rfl, fun _ => rfl, fun _ => rfl, fun _ => rfl, fun _ => rfl, fun _ => rfl, fun _ => rfl, fun _ => rfl, fun _ => rfl, fun _ => rfl, fun x => by cases x <;> rfl, fun _ => rfl, fun _ => rfl, fun _ => rfl⟩

@[simp] theorem State.modEnv_units (s : State) (f : EnvState → EnvState) :
    (∀ k : Nat, (s.modEnv f).arr k = s.arr k) ∧ (∀ k : Nat, (s.modEnv f).vec k = s.vec k) ∧
    (∀ k : Nat, (s.modEnv f).queue k = s.queue k) ∧ (∀ k : Nat, (s.modEnv f).core k = s.core k) ∧
    (∀ k : Nat, (s.modEnv f).stack k = s.stack k) ∧ (∀ k : Nat, (s.modEnv f).pc k = s.pc k) ∧
    (∀ k : Nat, (s.modEnv f).cis k = s.cis k) ∧ (∀ k : Nat, (s.modEnv f).mbx k = s.mbx k) ∧
    (∀ k : Nat, (s.modEnv f).upd1 k = s.upd1 k) ∧ (∀ k : Nat, (s.modEnv f).seq k = s.seq k) ∧
    (∀ k : Nat, (s.modEnv f).link k = s.link k) ∧
    (∀ k : Nat, (s.modEnv f).ethPort k = s.ethPort k) ∧
    (∀ k : Nat, (s.modEnv f).port k = s.port k) ∧
    (∀ k : Nat, (s.modEnv f).paceSet k = s.paceSet k) ∧
    (∀ eng : StreamEng, (s.modEnv f).unit eng = s.unit eng) ∧
    (∀ src : BitVec 16, (s.modEnv f).ev src = s.ev src) ∧
    (∀ k : Nat, (s.modEnv f).ctr k = s.ctr k) ∧
    (∀ src : BitVec 16, (s.modEnv f).evBits src = s.evBits src) :=
  ⟨fun _ => rfl, fun _ => rfl, fun _ => rfl, fun _ => rfl, fun _ => rfl, fun _ => rfl, fun _ => rfl, fun _ => rfl, fun _ => rfl, fun _ => rfl, fun _ => rfl, fun _ => rfl, fun _ => rfl, fun _ => rfl, fun x => by cases x <;> rfl, fun _ => rfl, fun _ => rfl, fun _ => rfl⟩

@[simp] theorem State.modStew_units (s : State) (f : StewardState → StewardState) :
    (∀ k : Nat, (s.modStew f).arr k = s.arr k) ∧ (∀ k : Nat, (s.modStew f).vec k = s.vec k) ∧
    (∀ k : Nat, (s.modStew f).queue k = s.queue k) ∧ (∀ k : Nat, (s.modStew f).core k = s.core k) ∧
    (∀ k : Nat, (s.modStew f).stack k = s.stack k) ∧ (∀ k : Nat, (s.modStew f).pc k = s.pc k) ∧
    (∀ k : Nat, (s.modStew f).cis k = s.cis k) ∧ (∀ k : Nat, (s.modStew f).mbx k = s.mbx k) ∧
    (∀ k : Nat, (s.modStew f).upd1 k = s.upd1 k) ∧ (∀ k : Nat, (s.modStew f).seq k = s.seq k) ∧
    (∀ k : Nat, (s.modStew f).link k = s.link k) ∧
    (∀ k : Nat, (s.modStew f).ethPort k = s.ethPort k) ∧
    (∀ k : Nat, (s.modStew f).port k = s.port k) ∧
    (∀ eng : StreamEng, (s.modStew f).unit eng = s.unit eng) ∧
    (∀ src : BitVec 16, (s.modStew f).ev src = s.ev src) ∧
    (∀ k : Nat, (s.modStew f).ctr k = s.ctr k) ∧
    (∀ src : BitVec 16, (s.modStew f).evBits src = s.evBits src) :=
  ⟨fun _ => rfl, fun _ => rfl, fun _ => rfl, fun _ => rfl, fun _ => rfl, fun _ => rfl, fun _ => rfl, fun _ => rfl, fun _ => rfl, fun _ => rfl, fun _ => rfl, fun _ => rfl, fun _ => rfl, fun x => by cases x <;> rfl, fun _ => rfl, fun _ => rfl, fun _ => rfl⟩

@[simp] theorem State.modRec_units (s : State) (n : NodeId) (f : MemberRec → MemberRec) :
    (∀ k : Nat, (s.modRec n f).arr k = s.arr k) ∧ (∀ k : Nat, (s.modRec n f).vec k = s.vec k) ∧
    (∀ k : Nat, (s.modRec n f).queue k = s.queue k) ∧
    (∀ k : Nat, (s.modRec n f).core k = s.core k) ∧
    (∀ k : Nat, (s.modRec n f).stack k = s.stack k) ∧ (∀ k : Nat, (s.modRec n f).pc k = s.pc k) ∧
    (∀ k : Nat, (s.modRec n f).cis k = s.cis k) ∧ (∀ k : Nat, (s.modRec n f).mbx k = s.mbx k) ∧
    (∀ k : Nat, (s.modRec n f).upd1 k = s.upd1 k) ∧ (∀ k : Nat, (s.modRec n f).seq k = s.seq k) ∧
    (∀ k : Nat, (s.modRec n f).link k = s.link k) ∧
    (∀ k : Nat, (s.modRec n f).ethPort k = s.ethPort k) ∧
    (∀ k : Nat, (s.modRec n f).port k = s.port k) ∧
    (∀ eng : StreamEng, (s.modRec n f).unit eng = s.unit eng) ∧
    (∀ src : BitVec 16, (s.modRec n f).ev src = s.ev src) ∧
    (∀ k : Nat, (s.modRec n f).ctr k = s.ctr k) ∧
    (∀ src : BitVec 16, (s.modRec n f).evBits src = s.evBits src) :=
  ⟨fun _ => rfl, fun _ => rfl, fun _ => rfl, fun _ => rfl, fun _ => rfl, fun _ => rfl, fun _ => rfl, fun _ => rfl, fun _ => rfl, fun _ => rfl, fun _ => rfl, fun _ => rfl, fun _ => rfl, fun x => by cases x <;> rfl, fun _ => rfl, fun _ => rfl, fun _ => rfl⟩

@[simp] theorem State.modSet_units (s : State) (n : Nat) (f : PaceSet → PaceSet) :
    (∀ k : Nat, (s.modSet n f).arr k = s.arr k) ∧ (∀ k : Nat, (s.modSet n f).vec k = s.vec k) ∧
    (∀ k : Nat, (s.modSet n f).queue k = s.queue k) ∧
    (∀ k : Nat, (s.modSet n f).core k = s.core k) ∧
    (∀ k : Nat, (s.modSet n f).stack k = s.stack k) ∧ (∀ k : Nat, (s.modSet n f).pc k = s.pc k) ∧
    (∀ k : Nat, (s.modSet n f).cis k = s.cis k) ∧ (∀ k : Nat, (s.modSet n f).mbx k = s.mbx k) ∧
    (∀ k : Nat, (s.modSet n f).upd1 k = s.upd1 k) ∧ (∀ k : Nat, (s.modSet n f).seq k = s.seq k) ∧
    (∀ k : Nat, (s.modSet n f).link k = s.link k) ∧
    (∀ k : Nat, (s.modSet n f).ethPort k = s.ethPort k) ∧
    (∀ k : Nat, (s.modSet n f).port k = s.port k) ∧
    (∀ eng : StreamEng, (s.modSet n f).unit eng = s.unit eng) ∧
    (∀ src : BitVec 16, (s.modSet n f).ev src = s.ev src) ∧
    (∀ k : Nat, (s.modSet n f).ctr k = s.ctr k) ∧
    (∀ src : BitVec 16, (s.modSet n f).evBits src = s.evBits src) :=
  ⟨fun _ => rfl, fun _ => rfl, fun _ => rfl, fun _ => rfl, fun _ => rfl, fun _ => rfl, fun _ => rfl, fun _ => rfl, fun _ => rfl, fun _ => rfl, fun _ => rfl, fun _ => rfl, fun _ => rfl, fun x => by cases x <;> rfl, fun _ => rfl, fun _ => rfl, fun _ => rfl⟩

@[simp] theorem State.modPwr_units (s : State) (f : PwrState → PwrState) :
    (∀ k : Nat, (s.modPwr f).arr k = s.arr k) ∧ (∀ k : Nat, (s.modPwr f).vec k = s.vec k) ∧
    (∀ k : Nat, (s.modPwr f).queue k = s.queue k) ∧ (∀ k : Nat, (s.modPwr f).core k = s.core k) ∧
    (∀ k : Nat, (s.modPwr f).stack k = s.stack k) ∧ (∀ k : Nat, (s.modPwr f).pc k = s.pc k) ∧
    (∀ k : Nat, (s.modPwr f).cis k = s.cis k) ∧ (∀ k : Nat, (s.modPwr f).mbx k = s.mbx k) ∧
    (∀ k : Nat, (s.modPwr f).upd1 k = s.upd1 k) ∧ (∀ k : Nat, (s.modPwr f).seq k = s.seq k) ∧
    (∀ k : Nat, (s.modPwr f).link k = s.link k) ∧
    (∀ k : Nat, (s.modPwr f).ethPort k = s.ethPort k) ∧
    (∀ k : Nat, (s.modPwr f).port k = s.port k) ∧
    (∀ k : Nat, (s.modPwr f).paceSet k = s.paceSet k) ∧
    (∀ eng : StreamEng, (s.modPwr f).unit eng = s.unit eng) ∧
    (∀ src : BitVec 16, (s.modPwr f).ev src = s.ev src) ∧
    (∀ k : Nat, (s.modPwr f).ctr k = s.ctr k) ∧
    (∀ src : BitVec 16, (s.modPwr f).evBits src = s.evBits src) :=
  ⟨fun _ => rfl, fun _ => rfl, fun _ => rfl, fun _ => rfl, fun _ => rfl, fun _ => rfl, fun _ => rfl, fun _ => rfl, fun _ => rfl, fun _ => rfl, fun _ => rfl, fun _ => rfl, fun _ => rfl, fun _ => rfl, fun x => by cases x <;> rfl, fun _ => rfl, fun _ => rfl, fun _ => rfl⟩

@[simp] theorem State.modTime_units (s : State) (f : TimeState → TimeState) :
    (∀ k : Nat, (s.modTime f).arr k = s.arr k) ∧ (∀ k : Nat, (s.modTime f).vec k = s.vec k) ∧
    (∀ k : Nat, (s.modTime f).queue k = s.queue k) ∧ (∀ k : Nat, (s.modTime f).core k = s.core k) ∧
    (∀ k : Nat, (s.modTime f).stack k = s.stack k) ∧ (∀ k : Nat, (s.modTime f).pc k = s.pc k) ∧
    (∀ k : Nat, (s.modTime f).cis k = s.cis k) ∧ (∀ k : Nat, (s.modTime f).mbx k = s.mbx k) ∧
    (∀ k : Nat, (s.modTime f).upd1 k = s.upd1 k) ∧ (∀ k : Nat, (s.modTime f).seq k = s.seq k) ∧
    (∀ k : Nat, (s.modTime f).link k = s.link k) ∧
    (∀ k : Nat, (s.modTime f).ethPort k = s.ethPort k) ∧
    (∀ k : Nat, (s.modTime f).port k = s.port k) ∧
    (∀ k : Nat, (s.modTime f).paceSet k = s.paceSet k) ∧
    (∀ eng : StreamEng, (s.modTime f).unit eng = s.unit eng) ∧
    (∀ src : BitVec 16, (s.modTime f).ev src = s.ev src) ∧
    (∀ k : Nat, (s.modTime f).ctr k = s.ctr k) ∧
    (∀ src : BitVec 16, (s.modTime f).evBits src = s.evBits src) :=
  ⟨fun _ => rfl, fun _ => rfl, fun _ => rfl, fun _ => rfl, fun _ => rfl, fun _ => rfl, fun _ => rfl, fun _ => rfl, fun _ => rfl, fun _ => rfl, fun _ => rfl, fun _ => rfl, fun _ => rfl, fun _ => rfl, fun x => by cases x <;> rfl, fun _ => rfl, fun _ => rfl, fun _ => rfl⟩

@[simp] theorem State.modBoot_units (s : State) (f : BootState → BootState) :
    (∀ k : Nat, (s.modBoot f).arr k = s.arr k) ∧ (∀ k : Nat, (s.modBoot f).vec k = s.vec k) ∧
    (∀ k : Nat, (s.modBoot f).queue k = s.queue k) ∧ (∀ k : Nat, (s.modBoot f).core k = s.core k) ∧
    (∀ k : Nat, (s.modBoot f).stack k = s.stack k) ∧ (∀ k : Nat, (s.modBoot f).pc k = s.pc k) ∧
    (∀ k : Nat, (s.modBoot f).cis k = s.cis k) ∧ (∀ k : Nat, (s.modBoot f).mbx k = s.mbx k) ∧
    (∀ k : Nat, (s.modBoot f).upd1 k = s.upd1 k) ∧ (∀ k : Nat, (s.modBoot f).seq k = s.seq k) ∧
    (∀ k : Nat, (s.modBoot f).link k = s.link k) ∧
    (∀ k : Nat, (s.modBoot f).ethPort k = s.ethPort k) ∧
    (∀ k : Nat, (s.modBoot f).port k = s.port k) ∧
    (∀ k : Nat, (s.modBoot f).paceSet k = s.paceSet k) ∧
    (∀ eng : StreamEng, (s.modBoot f).unit eng = s.unit eng) ∧
    (∀ src : BitVec 16, (s.modBoot f).ev src = s.ev src) ∧
    (∀ k : Nat, (s.modBoot f).ctr k = s.ctr k) ∧
    (∀ src : BitVec 16, (s.modBoot f).evBits src = s.evBits src) :=
  ⟨fun _ => rfl, fun _ => rfl, fun _ => rfl, fun _ => rfl, fun _ => rfl, fun _ => rfl, fun _ => rfl, fun _ => rfl, fun _ => rfl, fun _ => rfl, fun _ => rfl, fun _ => rfl, fun _ => rfl, fun _ => rfl, fun x => by cases x <;> rfl, fun _ => rfl, fun _ => rfl, fun _ => rfl⟩

@[simp] theorem State.modMgr_units (s : State) (f : MgrState → MgrState) :
    (∀ k : Nat, (s.modMgr f).arr k = s.arr k) ∧ (∀ k : Nat, (s.modMgr f).vec k = s.vec k) ∧
    (∀ k : Nat, (s.modMgr f).queue k = s.queue k) ∧ (∀ k : Nat, (s.modMgr f).core k = s.core k) ∧
    (∀ k : Nat, (s.modMgr f).stack k = s.stack k) ∧ (∀ k : Nat, (s.modMgr f).pc k = s.pc k) ∧
    (∀ k : Nat, (s.modMgr f).cis k = s.cis k) ∧ (∀ k : Nat, (s.modMgr f).upd1 k = s.upd1 k) ∧
    (∀ k : Nat, (s.modMgr f).seq k = s.seq k) ∧ (∀ k : Nat, (s.modMgr f).link k = s.link k) ∧
    (∀ k : Nat, (s.modMgr f).ethPort k = s.ethPort k) ∧
    (∀ k : Nat, (s.modMgr f).port k = s.port k) ∧
    (∀ k : Nat, (s.modMgr f).paceSet k = s.paceSet k) ∧
    (∀ eng : StreamEng, (s.modMgr f).unit eng = s.unit eng) ∧
    (∀ src : BitVec 16, (s.modMgr f).ev src = s.ev src) ∧
    (∀ k : Nat, (s.modMgr f).ctr k = s.ctr k) ∧
    (∀ src : BitVec 16, (s.modMgr f).evBits src = s.evBits src) :=
  ⟨fun _ => rfl, fun _ => rfl, fun _ => rfl, fun _ => rfl, fun _ => rfl, fun _ => rfl, fun _ => rfl, fun _ => rfl, fun _ => rfl, fun _ => rfl, fun _ => rfl, fun _ => rfl, fun _ => rfl, fun x => by cases x <;> rfl, fun _ => rfl, fun _ => rfl, fun _ => rfl⟩

@[simp] theorem State.modMbx_units (s : State) (n : Nat) (f : MbxSt → MbxSt) :
    (∀ k : Nat, (s.modMbx n f).arr k = s.arr k) ∧ (∀ k : Nat, (s.modMbx n f).vec k = s.vec k) ∧
    (∀ k : Nat, (s.modMbx n f).queue k = s.queue k) ∧
    (∀ k : Nat, (s.modMbx n f).core k = s.core k) ∧
    (∀ k : Nat, (s.modMbx n f).stack k = s.stack k) ∧ (∀ k : Nat, (s.modMbx n f).pc k = s.pc k) ∧
    (∀ k : Nat, (s.modMbx n f).cis k = s.cis k) ∧ (∀ k : Nat, (s.modMbx n f).upd1 k = s.upd1 k) ∧
    (∀ k : Nat, (s.modMbx n f).seq k = s.seq k) ∧ (∀ k : Nat, (s.modMbx n f).link k = s.link k) ∧
    (∀ k : Nat, (s.modMbx n f).ethPort k = s.ethPort k) ∧
    (∀ k : Nat, (s.modMbx n f).port k = s.port k) ∧
    (∀ k : Nat, (s.modMbx n f).paceSet k = s.paceSet k) ∧
    (∀ eng : StreamEng, (s.modMbx n f).unit eng = s.unit eng) ∧
    (∀ src : BitVec 16, (s.modMbx n f).ev src = s.ev src) ∧
    (∀ k : Nat, (s.modMbx n f).ctr k = s.ctr k) ∧
    (∀ src : BitVec 16, (s.modMbx n f).evBits src = s.evBits src) :=
  ⟨fun _ => rfl, fun _ => rfl, fun _ => rfl, fun _ => rfl, fun _ => rfl, fun _ => rfl, fun _ => rfl, fun _ => rfl, fun _ => rfl, fun _ => rfl, fun _ => rfl, fun _ => rfl, fun _ => rfl, fun x => by cases x <;> rfl, fun _ => rfl, fun _ => rfl, fun _ => rfl⟩

@[simp] theorem State.modColl_units (s : State) (f : CollState → CollState) :
    (∀ k : Nat, (s.modColl f).arr k = s.arr k) ∧ (∀ k : Nat, (s.modColl f).vec k = s.vec k) ∧
    (∀ k : Nat, (s.modColl f).queue k = s.queue k) ∧ (∀ k : Nat, (s.modColl f).core k = s.core k) ∧
    (∀ k : Nat, (s.modColl f).stack k = s.stack k) ∧ (∀ k : Nat, (s.modColl f).pc k = s.pc k) ∧
    (∀ k : Nat, (s.modColl f).cis k = s.cis k) ∧ (∀ k : Nat, (s.modColl f).mbx k = s.mbx k) ∧
    (∀ k : Nat, (s.modColl f).upd1 k = s.upd1 k) ∧ (∀ k : Nat, (s.modColl f).seq k = s.seq k) ∧
    (∀ k : Nat, (s.modColl f).link k = s.link k) ∧
    (∀ k : Nat, (s.modColl f).ethPort k = s.ethPort k) ∧
    (∀ k : Nat, (s.modColl f).port k = s.port k) ∧
    (∀ k : Nat, (s.modColl f).paceSet k = s.paceSet k) ∧
    (∀ eng : StreamEng, (s.modColl f).unit eng = s.unit eng) ∧
    (∀ src : BitVec 16, (s.modColl f).ev src = s.ev src) ∧
    (∀ k : Nat, (s.modColl f).ctr k = s.ctr k) ∧
    (∀ src : BitVec 16, (s.modColl f).evBits src = s.evBits src) :=
  ⟨fun _ => rfl, fun _ => rfl, fun _ => rfl, fun _ => rfl, fun _ => rfl, fun _ => rfl, fun _ => rfl, fun _ => rfl, fun _ => rfl, fun _ => rfl, fun _ => rfl, fun _ => rfl, fun _ => rfl, fun _ => rfl, fun x => by cases x <;> rfl, fun _ => rfl, fun _ => rfl, fun _ => rfl⟩

@[simp] theorem State.modUpd_units (s : State) (n : Nat) (f : UpdState → UpdState) :
    (∀ k : Nat, (s.modUpd n f).arr k = s.arr k) ∧ (∀ k : Nat, (s.modUpd n f).vec k = s.vec k) ∧
    (∀ k : Nat, (s.modUpd n f).queue k = s.queue k) ∧
    (∀ k : Nat, (s.modUpd n f).core k = s.core k) ∧
    (∀ k : Nat, (s.modUpd n f).stack k = s.stack k) ∧ (∀ k : Nat, (s.modUpd n f).pc k = s.pc k) ∧
    (∀ k : Nat, (s.modUpd n f).cis k = s.cis k) ∧ (∀ k : Nat, (s.modUpd n f).mbx k = s.mbx k) ∧
    (∀ k : Nat, (s.modUpd n f).seq k = s.seq k) ∧ (∀ k : Nat, (s.modUpd n f).link k = s.link k) ∧
    (∀ k : Nat, (s.modUpd n f).ethPort k = s.ethPort k) ∧
    (∀ k : Nat, (s.modUpd n f).port k = s.port k) ∧
    (∀ k : Nat, (s.modUpd n f).paceSet k = s.paceSet k) ∧
    (∀ eng : StreamEng, (s.modUpd n f).unit eng = s.unit eng) ∧
    (∀ src : BitVec 16, (s.modUpd n f).ev src = s.ev src) ∧
    (∀ k : Nat, (s.modUpd n f).ctr k = s.ctr k) ∧
    (∀ src : BitVec 16, (s.modUpd n f).evBits src = s.evBits src) :=
  ⟨fun _ => rfl, fun _ => rfl, fun _ => rfl, fun _ => rfl, fun _ => rfl, fun _ => rfl, fun _ => rfl, fun _ => rfl, fun _ => rfl, fun _ => rfl, fun _ => rfl, fun _ => rfl, fun _ => rfl, fun x => by cases x <;> rfl, fun _ => rfl, fun _ => rfl, fun _ => rfl⟩

@[simp] theorem State.modSeq_units (s : State) (n : Nat) (f : SeqState → SeqState) :
    (∀ k : Nat, (s.modSeq n f).arr k = s.arr k) ∧ (∀ k : Nat, (s.modSeq n f).vec k = s.vec k) ∧
    (∀ k : Nat, (s.modSeq n f).queue k = s.queue k) ∧
    (∀ k : Nat, (s.modSeq n f).core k = s.core k) ∧
    (∀ k : Nat, (s.modSeq n f).stack k = s.stack k) ∧ (∀ k : Nat, (s.modSeq n f).pc k = s.pc k) ∧
    (∀ k : Nat, (s.modSeq n f).cis k = s.cis k) ∧ (∀ k : Nat, (s.modSeq n f).mbx k = s.mbx k) ∧
    (∀ k : Nat, (s.modSeq n f).upd1 k = s.upd1 k) ∧ (∀ k : Nat, (s.modSeq n f).link k = s.link k) ∧
    (∀ k : Nat, (s.modSeq n f).ethPort k = s.ethPort k) ∧
    (∀ k : Nat, (s.modSeq n f).port k = s.port k) ∧
    (∀ k : Nat, (s.modSeq n f).paceSet k = s.paceSet k) ∧
    (∀ eng : StreamEng, (s.modSeq n f).unit eng = s.unit eng) ∧
    (∀ src : BitVec 16, (s.modSeq n f).ev src = s.ev src) ∧
    (∀ k : Nat, (s.modSeq n f).ctr k = s.ctr k) ∧
    (∀ src : BitVec 16, (s.modSeq n f).evBits src = s.evBits src) :=
  ⟨fun _ => rfl, fun _ => rfl, fun _ => rfl, fun _ => rfl, fun _ => rfl, fun _ => rfl, fun _ => rfl, fun _ => rfl, fun _ => rfl, fun _ => rfl, fun _ => rfl, fun _ => rfl, fun _ => rfl, fun x => by cases x <;> rfl, fun _ => rfl, fun _ => rfl, fun _ => rfl⟩

@[simp] theorem State.modSlot_units (s : State) (h j : Nat) (f : SlotSt → SlotSt) :
    (∀ k : Nat, (s.modSlot h j f).arr k = s.arr k) ∧
    (∀ k : Nat, (s.modSlot h j f).vec k = s.vec k) ∧
    (∀ k : Nat, (s.modSlot h j f).queue k = s.queue k) ∧
    (∀ k : Nat, (s.modSlot h j f).core k = s.core k) ∧
    (∀ k : Nat, (s.modSlot h j f).stack k = s.stack k) ∧
    (∀ k : Nat, (s.modSlot h j f).pc k = s.pc k) ∧ (∀ k : Nat, (s.modSlot h j f).cis k = s.cis k) ∧
    (∀ k : Nat, (s.modSlot h j f).mbx k = s.mbx k) ∧
    (∀ k : Nat, (s.modSlot h j f).upd1 k = s.upd1 k) ∧
    (∀ k : Nat, (s.modSlot h j f).link k = s.link k) ∧
    (∀ k : Nat, (s.modSlot h j f).ethPort k = s.ethPort k) ∧
    (∀ k : Nat, (s.modSlot h j f).port k = s.port k) ∧
    (∀ k : Nat, (s.modSlot h j f).paceSet k = s.paceSet k) ∧
    (∀ eng : StreamEng, (s.modSlot h j f).unit eng = s.unit eng) ∧
    (∀ src : BitVec 16, (s.modSlot h j f).ev src = s.ev src) ∧
    (∀ k : Nat, (s.modSlot h j f).ctr k = s.ctr k) ∧
    (∀ src : BitVec 16, (s.modSlot h j f).evBits src = s.evBits src) :=
  ⟨fun _ => rfl, fun _ => rfl, fun _ => rfl, fun _ => rfl, fun _ => rfl, fun _ => rfl, fun _ => rfl, fun _ => rfl, fun _ => rfl, fun _ => rfl, fun _ => rfl, fun _ => rfl, fun _ => rfl, fun x => by cases x <;> rfl, fun _ => rfl, fun _ => rfl, fun _ => rfl⟩

@[simp] theorem State.modNet_units (s : State) (f : NetState → NetState) :
    (∀ k : Nat, (s.modNet f).arr k = s.arr k) ∧ (∀ k : Nat, (s.modNet f).vec k = s.vec k) ∧
    (∀ k : Nat, (s.modNet f).queue k = s.queue k) ∧ (∀ k : Nat, (s.modNet f).core k = s.core k) ∧
    (∀ k : Nat, (s.modNet f).stack k = s.stack k) ∧ (∀ k : Nat, (s.modNet f).pc k = s.pc k) ∧
    (∀ k : Nat, (s.modNet f).cis k = s.cis k) ∧ (∀ k : Nat, (s.modNet f).mbx k = s.mbx k) ∧
    (∀ k : Nat, (s.modNet f).upd1 k = s.upd1 k) ∧ (∀ k : Nat, (s.modNet f).seq k = s.seq k) ∧
    (∀ k : Nat, (s.modNet f).ethPort k = s.ethPort k) ∧
    (∀ k : Nat, (s.modNet f).port k = s.port k) ∧
    (∀ k : Nat, (s.modNet f).paceSet k = s.paceSet k) ∧
    (∀ eng : StreamEng, (s.modNet f).unit eng = s.unit eng) ∧
    (∀ src : BitVec 16, (s.modNet f).ev src = s.ev src) ∧
    (∀ k : Nat, (s.modNet f).ctr k = s.ctr k) ∧
    (∀ src : BitVec 16, (s.modNet f).evBits src = s.evBits src) :=
  ⟨fun _ => rfl, fun _ => rfl, fun _ => rfl, fun _ => rfl, fun _ => rfl, fun _ => rfl, fun _ => rfl, fun _ => rfl, fun _ => rfl, fun _ => rfl, fun _ => rfl, fun _ => rfl, fun _ => rfl, fun x => by cases x <;> rfl, fun _ => rfl, fun _ => rfl, fun _ => rfl⟩

@[simp] theorem State.modLink_units (s : State) (n : Nat) (f : LinkSt → LinkSt) :
    (∀ k : Nat, (s.modLink n f).arr k = s.arr k) ∧ (∀ k : Nat, (s.modLink n f).vec k = s.vec k) ∧
    (∀ k : Nat, (s.modLink n f).queue k = s.queue k) ∧
    (∀ k : Nat, (s.modLink n f).core k = s.core k) ∧
    (∀ k : Nat, (s.modLink n f).stack k = s.stack k) ∧ (∀ k : Nat, (s.modLink n f).pc k = s.pc k) ∧
    (∀ k : Nat, (s.modLink n f).cis k = s.cis k) ∧ (∀ k : Nat, (s.modLink n f).mbx k = s.mbx k) ∧
    (∀ k : Nat, (s.modLink n f).upd1 k = s.upd1 k) ∧ (∀ k : Nat, (s.modLink n f).seq k = s.seq k) ∧
    (∀ k : Nat, (s.modLink n f).ethPort k = s.ethPort k) ∧
    (∀ k : Nat, (s.modLink n f).port k = s.port k) ∧
    (∀ k : Nat, (s.modLink n f).paceSet k = s.paceSet k) ∧
    (∀ eng : StreamEng, (s.modLink n f).unit eng = s.unit eng) ∧
    (∀ src : BitVec 16, (s.modLink n f).ev src = s.ev src) ∧
    (∀ k : Nat, (s.modLink n f).ctr k = s.ctr k) ∧
    (∀ src : BitVec 16, (s.modLink n f).evBits src = s.evBits src) :=
  ⟨fun _ => rfl, fun _ => rfl, fun _ => rfl, fun _ => rfl, fun _ => rfl, fun _ => rfl, fun _ => rfl, fun _ => rfl, fun _ => rfl, fun _ => rfl, fun _ => rfl, fun _ => rfl, fun _ => rfl, fun x => by cases x <;> rfl, fun _ => rfl, fun _ => rfl, fun _ => rfl⟩

@[simp] theorem State.modEth_units (s : State) (n : Nat) (f : EthSt → EthSt) :
    (∀ k : Nat, (s.modEth n f).arr k = s.arr k) ∧ (∀ k : Nat, (s.modEth n f).vec k = s.vec k) ∧
    (∀ k : Nat, (s.modEth n f).queue k = s.queue k) ∧
    (∀ k : Nat, (s.modEth n f).core k = s.core k) ∧
    (∀ k : Nat, (s.modEth n f).stack k = s.stack k) ∧ (∀ k : Nat, (s.modEth n f).pc k = s.pc k) ∧
    (∀ k : Nat, (s.modEth n f).cis k = s.cis k) ∧ (∀ k : Nat, (s.modEth n f).mbx k = s.mbx k) ∧
    (∀ k : Nat, (s.modEth n f).upd1 k = s.upd1 k) ∧ (∀ k : Nat, (s.modEth n f).seq k = s.seq k) ∧
    (∀ k : Nat, (s.modEth n f).link k = s.link k) ∧ (∀ k : Nat, (s.modEth n f).port k = s.port k) ∧
    (∀ k : Nat, (s.modEth n f).paceSet k = s.paceSet k) ∧
    (∀ eng : StreamEng, (s.modEth n f).unit eng = s.unit eng) ∧
    (∀ src : BitVec 16, (s.modEth n f).ev src = s.ev src) ∧
    (∀ k : Nat, (s.modEth n f).ctr k = s.ctr k) ∧
    (∀ src : BitVec 16, (s.modEth n f).evBits src = s.evBits src) :=
  ⟨fun _ => rfl, fun _ => rfl, fun _ => rfl, fun _ => rfl, fun _ => rfl, fun _ => rfl, fun _ => rfl, fun _ => rfl, fun _ => rfl, fun _ => rfl, fun _ => rfl, fun _ => rfl, fun _ => rfl, fun x => by cases x <;> rfl, fun _ => rfl, fun _ => rfl, fun _ => rfl⟩

@[simp] theorem State.modQp_units (s : State) (p q : Nat) (f : QpSt → QpSt) :
    (∀ k : Nat, (s.modQp p q f).arr k = s.arr k) ∧ (∀ k : Nat, (s.modQp p q f).vec k = s.vec k) ∧
    (∀ k : Nat, (s.modQp p q f).queue k = s.queue k) ∧
    (∀ k : Nat, (s.modQp p q f).core k = s.core k) ∧
    (∀ k : Nat, (s.modQp p q f).stack k = s.stack k) ∧ (∀ k : Nat, (s.modQp p q f).pc k = s.pc k) ∧
    (∀ k : Nat, (s.modQp p q f).cis k = s.cis k) ∧ (∀ k : Nat, (s.modQp p q f).mbx k = s.mbx k) ∧
    (∀ k : Nat, (s.modQp p q f).upd1 k = s.upd1 k) ∧ (∀ k : Nat, (s.modQp p q f).seq k = s.seq k) ∧
    (∀ k : Nat, (s.modQp p q f).link k = s.link k) ∧
    (∀ k : Nat, (s.modQp p q f).port k = s.port k) ∧
    (∀ k : Nat, (s.modQp p q f).paceSet k = s.paceSet k) ∧
    (∀ eng : StreamEng, (s.modQp p q f).unit eng = s.unit eng) ∧
    (∀ src : BitVec 16, (s.modQp p q f).ev src = s.ev src) ∧
    (∀ k : Nat, (s.modQp p q f).ctr k = s.ctr k) ∧
    (∀ src : BitVec 16, (s.modQp p q f).evBits src = s.evBits src) :=
  ⟨fun _ => rfl, fun _ => rfl, fun _ => rfl, fun _ => rfl, fun _ => rfl, fun _ => rfl, fun _ => rfl, fun _ => rfl, fun _ => rfl, fun _ => rfl, fun _ => rfl, fun _ => rfl, fun _ => rfl, fun x => by cases x <;> rfl, fun _ => rfl, fun _ => rfl, fun _ => rfl⟩

@[simp] theorem State.modPort_units (s : State) (n : Nat) (f : PortSt → PortSt) :
    (∀ k : Nat, (s.modPort n f).arr k = s.arr k) ∧ (∀ k : Nat, (s.modPort n f).vec k = s.vec k) ∧
    (∀ k : Nat, (s.modPort n f).queue k = s.queue k) ∧
    (∀ k : Nat, (s.modPort n f).core k = s.core k) ∧
    (∀ k : Nat, (s.modPort n f).stack k = s.stack k) ∧ (∀ k : Nat, (s.modPort n f).pc k = s.pc k) ∧
    (∀ k : Nat, (s.modPort n f).cis k = s.cis k) ∧ (∀ k : Nat, (s.modPort n f).mbx k = s.mbx k) ∧
    (∀ k : Nat, (s.modPort n f).upd1 k = s.upd1 k) ∧ (∀ k : Nat, (s.modPort n f).seq k = s.seq k) ∧
    (∀ k : Nat, (s.modPort n f).link k = s.link k) ∧
    (∀ k : Nat, (s.modPort n f).ethPort k = s.ethPort k) ∧
    (∀ k : Nat, (s.modPort n f).paceSet k = s.paceSet k) ∧
    (∀ eng : StreamEng, (s.modPort n f).unit eng = s.unit eng) ∧
    (∀ src : BitVec 16, (s.modPort n f).ev src = s.ev src) ∧
    (∀ k : Nat, (s.modPort n f).ctr k = s.ctr k) ∧
    (∀ src : BitVec 16, (s.modPort n f).evBits src = s.evBits src) :=
  ⟨fun _ => rfl, fun _ => rfl, fun _ => rfl, fun _ => rfl, fun _ => rfl, fun _ => rfl, fun _ => rfl, fun _ => rfl, fun _ => rfl, fun _ => rfl, fun _ => rfl, fun _ => rfl, fun _ => rfl, fun x => by cases x <;> rfl, fun _ => rfl, fun _ => rfl, fun _ => rfl⟩

@[simp] theorem State.modSec_units (s : State) (f : SecState → SecState) :
    (∀ k : Nat, (s.modSec f).arr k = s.arr k) ∧ (∀ k : Nat, (s.modSec f).vec k = s.vec k) ∧
    (∀ k : Nat, (s.modSec f).queue k = s.queue k) ∧ (∀ k : Nat, (s.modSec f).core k = s.core k) ∧
    (∀ k : Nat, (s.modSec f).stack k = s.stack k) ∧ (∀ k : Nat, (s.modSec f).pc k = s.pc k) ∧
    (∀ k : Nat, (s.modSec f).cis k = s.cis k) ∧ (∀ k : Nat, (s.modSec f).mbx k = s.mbx k) ∧
    (∀ k : Nat, (s.modSec f).upd1 k = s.upd1 k) ∧ (∀ k : Nat, (s.modSec f).seq k = s.seq k) ∧
    (∀ k : Nat, (s.modSec f).link k = s.link k) ∧
    (∀ k : Nat, (s.modSec f).ethPort k = s.ethPort k) ∧
    (∀ k : Nat, (s.modSec f).port k = s.port k) ∧
    (∀ k : Nat, (s.modSec f).paceSet k = s.paceSet k) ∧
    (∀ eng : StreamEng, (s.modSec f).unit eng = s.unit eng) ∧
    (∀ src : BitVec 16, (s.modSec f).ev src = s.ev src) ∧
    (∀ k : Nat, (s.modSec f).ctr k = s.ctr k) ∧
    (∀ src : BitVec 16, (s.modSec f).evBits src = s.evBits src) :=
  ⟨fun _ => rfl, fun _ => rfl, fun _ => rfl, fun _ => rfl, fun _ => rfl, fun _ => rfl, fun _ => rfl, fun _ => rfl, fun _ => rfl, fun _ => rfl, fun _ => rfl, fun _ => rfl, fun _ => rfl, fun _ => rfl, fun x => by cases x <;> rfl, fun _ => rfl, fun _ => rfl, fun _ => rfl⟩

@[simp] theorem State.setEv_units (s : State) (x : BitVec 16) (e : EvReg) :
    (∀ k : Nat, (s.setEv x e).arr k = s.arr k) ∧ (∀ k : Nat, (s.setEv x e).vec k = s.vec k) ∧
    (∀ k : Nat, (s.setEv x e).queue k = s.queue k) ∧ (∀ k : Nat, (s.setEv x e).core k = s.core k) ∧
    (∀ k : Nat, (s.setEv x e).stack k = s.stack k) ∧ (∀ k : Nat, (s.setEv x e).pc k = s.pc k) ∧
    (∀ k : Nat, (s.setEv x e).cis k = s.cis k) ∧ (∀ k : Nat, (s.setEv x e).mbx k = s.mbx k) ∧
    (∀ k : Nat, (s.setEv x e).upd1 k = s.upd1 k) ∧ (∀ k : Nat, (s.setEv x e).seq k = s.seq k) ∧
    (∀ k : Nat, (s.setEv x e).link k = s.link k) ∧
    (∀ k : Nat, (s.setEv x e).ethPort k = s.ethPort k) ∧
    (∀ k : Nat, (s.setEv x e).port k = s.port k) ∧
    (∀ k : Nat, (s.setEv x e).paceSet k = s.paceSet k) ∧
    (∀ eng : StreamEng, (s.setEv x e).unit eng = s.unit eng) ∧
    (∀ k : Nat, (s.setEv x e).ctr k = s.ctr k) :=
  ⟨fun _ => rfl, fun _ => rfl, fun _ => rfl, fun _ => rfl, fun _ => rfl, fun _ => rfl, fun _ => rfl, fun _ => rfl, fun _ => rfl, fun _ => rfl, fun _ => rfl, fun _ => rfl, fun _ => rfl, fun _ => rfl, fun x => by cases x <;> rfl, fun _ => rfl⟩

/-! ## Events and stream units -/

theorem State.ev_setEv (s : State) (x y : BitVec 16) (e : EvReg) :
    (s.setEv x e).ev y = if y = x then e else s.ev y := by
  simp only [State.ev, State.setEv, Sparse.get_set, BitVec.toNat_inj]

@[simp] theorem State.ev_setEv_self (s : State) (x : BitVec 16) (e : EvReg) : (s.setEv x e).ev x = e := by
  rw [State.ev_setEv, if_pos rfl]

theorem State.unit_modUnit (s : State) (e x : StreamEng) (f : StreamUnit → StreamUnit) :
    (s.modUnit e f).unit x = if x = e then f (s.unit e) else s.unit x := by
  cases e <;> cases x <;>
    simp only [State.unit, State.modUnit, State.arr_modArr, State.vec_modVec, State.modArr_units,
      State.modVec_units, StreamEng.arr.injEq, StreamEng.vec.injEq, reduceCtorEq, if_false, Fin.val_inj] <;>
    split <;> simp_all

/-- An update of an engine that keeps its stream unit. -/
theorem State.unit_modArr (s : State) (n : Nat) (f : AryState → AryState) (h : ∀ a, (f a).su = a.su) (e : StreamEng) :
    (s.modArr n f).unit e = s.unit e := by
  cases e with
  | arr k =>
    simp only [State.unit, State.arr_modArr]
    split
    · next g => rw [h, g]
    · rfl
  | vec k => rfl

theorem State.unit_modVec (s : State) (n : Nat) (f : VecState → VecState) (h : ∀ a, (f a).su = a.su) (e : StreamEng) :
    (s.modVec n f).unit e = s.unit e := by
  cases e with
  | vec k =>
    simp only [State.unit, State.vec_modVec]
    split
    · next g => rw [h, g]
    · rfl
  | arr k => rfl

@[simp] theorem State.unit_modUnit_self (s : State) (e : StreamEng) (f : StreamUnit → StreamUnit) :
    (s.modUnit e f).unit e = f (s.unit e) := by
  rw [State.unit_modUnit, if_pos rfl]

end Sys2Proof.Machine
end

