-- ==== Sys2Proof/Laws/Ops.lean ====
section
/-! SUPPORT. What the shared operations do: events, counters, outputs and free values, each said once. -/

namespace Sys2Proof.Machine

/-- Two states that agree in every field are equal. -/
theorem State.ext_fields {s t : State}
    (h0 : s.pending = t.pending)
    (h1 : s.fresh = t.fresh)
    (h2 : s.outbox = t.outbox)
    (h3 : s.now = t.now)
    (h4 : s.ticks = t.ticks)
    (h5 : s.events = t.events)
    (h6 : s.edges = t.edges)
    (h7 : s.counters = t.counters)
    (h8 : s.arrays = t.arrays)
    (h9 : s.vecs = t.vecs)
    (h10 : s.hbm = t.hbm)
    (h11 : s.coh = t.coh)
    (h12 : s.cores = t.cores)
    (h13 : s.xlt = t.xlt)
    (h14 : s.host = t.host)
    (h15 : s.queues = t.queues)
    (h16 : s.served = t.served)
    (h17 : s.node = t.node)
    (h18 : s.boot = t.boot)
    (h19 : s.mgr = t.mgr)
    (h20 : s.pins = t.pins)
    (h21 : s.sec = t.sec)
    (h22 : s.accInfo = t.accInfo)
    (h23 : s.coll = t.coll)
    (h24 : s.upd = t.upd)
    (h25 : s.seqs = t.seqs)
    (h26 : s.net = t.net)
    (h27 : s.eth = t.eth)
    (h28 : s.time = t.time)
    (h29 : s.env = t.env)
    (h30 : s.stew = t.stew)
    (h31 : s.pwr = t.pwr)
    (h32 : s.keys = t.keys) : s = t := by
  cases s; cases t; simp_all only

/-! ## Fields the shared operations leave alone -/

@[simp] theorem raiseArg_fields (src : BitVec 16) (k : Nat) (arg : W64) (s : State) :
    (raiseArg src k arg s).pending = s.pending ∧ (raiseArg src k arg s).fresh = s.fresh ∧
    (raiseArg src k arg s).outbox = s.outbox ∧ (raiseArg src k arg s).now = s.now ∧
    (raiseArg src k arg s).ticks = s.ticks ∧ (raiseArg src k arg s).counters = s.counters ∧
    (raiseArg src k arg s).arrays = s.arrays ∧ (raiseArg src k arg s).vecs = s.vecs ∧
    (raiseArg src k arg s).hbm = s.hbm ∧ (raiseArg src k arg s).coh = s.coh ∧
    (raiseArg src k arg s).cores = s.cores ∧ (raiseArg src k arg s).xlt = s.xlt ∧
    (raiseArg src k arg s).host = s.host ∧ (raiseArg src k arg s).queues = s.queues ∧
    (raiseArg src k arg s).served = s.served ∧ (raiseArg src k arg s).node = s.node ∧
    (raiseArg src k arg s).boot = s.boot ∧ (raiseArg src k arg s).mgr = s.mgr ∧
    (raiseArg src k arg s).pins = s.pins ∧ (raiseArg src k arg s).sec = s.sec ∧
    (raiseArg src k arg s).accInfo = s.accInfo ∧ (raiseArg src k arg s).coll = s.coll ∧
    (raiseArg src k arg s).upd = s.upd ∧ (raiseArg src k arg s).seqs = s.seqs ∧
    (raiseArg src k arg s).net = s.net ∧ (raiseArg src k arg s).eth = s.eth ∧
    (raiseArg src k arg s).time = s.time ∧ (raiseArg src k arg s).env = s.env ∧
    (raiseArg src k arg s).stew = s.stew ∧ (raiseArg src k arg s).pwr = s.pwr ∧
    (raiseArg src k arg s).keys = s.keys ∧ (∀ k', (raiseArg src k arg s).arr k' = s.arr k') ∧
    (∀ k', (raiseArg src k arg s).vec k' = s.vec k') ∧
    (∀ k', (raiseArg src k arg s).queue k' = s.queue k') ∧
    (∀ k', (raiseArg src k arg s).core k' = s.core k') ∧
    (∀ k', (raiseArg src k arg s).stack k' = s.stack k') ∧
    (∀ k', (raiseArg src k arg s).pc k' = s.pc k') ∧
    (∀ k', (raiseArg src k arg s).cis k' = s.cis k') ∧
    (∀ k', (raiseArg src k arg s).mbx k' = s.mbx k') ∧
    (∀ k', (raiseArg src k arg s).upd1 k' = s.upd1 k') ∧
    (∀ k', (raiseArg src k arg s).seq k' = s.seq k') ∧
    (∀ k', (raiseArg src k arg s).link k' = s.link k') ∧
    (∀ k', (raiseArg src k arg s).ethPort k' = s.ethPort k') ∧
    (∀ k', (raiseArg src k arg s).port k' = s.port k') ∧
    (∀ k', (raiseArg src k arg s).paceSet k' = s.paceSet k') ∧
    (∀ e', (raiseArg src k arg s).unit e' = s.unit e') ∧
    (∀ k', (raiseArg src k arg s).ctr k' = s.ctr k') := by
  unfold raiseArg; dsimp only
  split <;> split <;> (try split) <;> (repeat' apply And.intro) <;> first | rfl | exact fun _ => rfl

@[simp] theorem raiseEv_fields (src : BitVec 16) (k : Nat) (s : State) :
    (raiseEv src k s).pending = s.pending ∧ (raiseEv src k s).fresh = s.fresh ∧
    (raiseEv src k s).outbox = s.outbox ∧ (raiseEv src k s).now = s.now ∧
    (raiseEv src k s).ticks = s.ticks ∧ (raiseEv src k s).counters = s.counters ∧
    (raiseEv src k s).arrays = s.arrays ∧ (raiseEv src k s).vecs = s.vecs ∧
    (raiseEv src k s).hbm = s.hbm ∧ (raiseEv src k s).coh = s.coh ∧
    (raiseEv src k s).cores = s.cores ∧ (raiseEv src k s).xlt = s.xlt ∧
    (raiseEv src k s).host = s.host ∧ (raiseEv src k s).queues = s.queues ∧
    (raiseEv src k s).served = s.served ∧ (raiseEv src k s).node = s.node ∧
    (raiseEv src k s).boot = s.boot ∧ (raiseEv src k s).mgr = s.mgr ∧
    (raiseEv src k s).pins = s.pins ∧ (raiseEv src k s).sec = s.sec ∧
    (raiseEv src k s).accInfo = s.accInfo ∧ (raiseEv src k s).coll = s.coll ∧
    (raiseEv src k s).upd = s.upd ∧ (raiseEv src k s).seqs = s.seqs ∧
    (raiseEv src k s).net = s.net ∧ (raiseEv src k s).eth = s.eth ∧
    (raiseEv src k s).time = s.time ∧ (raiseEv src k s).env = s.env ∧
    (raiseEv src k s).stew = s.stew ∧ (raiseEv src k s).pwr = s.pwr ∧
    (raiseEv src k s).keys = s.keys ∧ (∀ k', (raiseEv src k s).arr k' = s.arr k') ∧
    (∀ k', (raiseEv src k s).vec k' = s.vec k') ∧ (∀ k', (raiseEv src k s).queue k' = s.queue k') ∧
    (∀ k', (raiseEv src k s).core k' = s.core k') ∧
    (∀ k', (raiseEv src k s).stack k' = s.stack k') ∧ (∀ k', (raiseEv src k s).pc k' = s.pc k') ∧
    (∀ k', (raiseEv src k s).cis k' = s.cis k') ∧ (∀ k', (raiseEv src k s).mbx k' = s.mbx k') ∧
    (∀ k', (raiseEv src k s).upd1 k' = s.upd1 k') ∧ (∀ k', (raiseEv src k s).seq k' = s.seq k') ∧
    (∀ k', (raiseEv src k s).link k' = s.link k') ∧
    (∀ k', (raiseEv src k s).ethPort k' = s.ethPort k') ∧
    (∀ k', (raiseEv src k s).port k' = s.port k') ∧
    (∀ k', (raiseEv src k s).paceSet k' = s.paceSet k') ∧
    (∀ e', (raiseEv src k s).unit e' = s.unit e') ∧ (∀ k', (raiseEv src k s).ctr k' = s.ctr k') := by
  unfold raiseEv; simp

@[simp] theorem dropEv_fields (src : BitVec 16) (w : W64) (s : State) :
    (dropEv src w s).pending = s.pending ∧ (dropEv src w s).fresh = s.fresh ∧
    (dropEv src w s).outbox = s.outbox ∧ (dropEv src w s).now = s.now ∧
    (dropEv src w s).ticks = s.ticks ∧ (dropEv src w s).edges = s.edges ∧
    (dropEv src w s).counters = s.counters ∧ (dropEv src w s).arrays = s.arrays ∧
    (dropEv src w s).vecs = s.vecs ∧ (dropEv src w s).hbm = s.hbm ∧ (dropEv src w s).coh = s.coh ∧
    (dropEv src w s).cores = s.cores ∧ (dropEv src w s).xlt = s.xlt ∧
    (dropEv src w s).host = s.host ∧ (dropEv src w s).queues = s.queues ∧
    (dropEv src w s).served = s.served ∧ (dropEv src w s).node = s.node ∧
    (dropEv src w s).boot = s.boot ∧ (dropEv src w s).mgr = s.mgr ∧
    (dropEv src w s).pins = s.pins ∧ (dropEv src w s).sec = s.sec ∧
    (dropEv src w s).accInfo = s.accInfo ∧ (dropEv src w s).coll = s.coll ∧
    (dropEv src w s).upd = s.upd ∧ (dropEv src w s).seqs = s.seqs ∧ (dropEv src w s).net = s.net ∧
    (dropEv src w s).eth = s.eth ∧ (dropEv src w s).time = s.time ∧ (dropEv src w s).env = s.env ∧
    (dropEv src w s).stew = s.stew ∧ (dropEv src w s).pwr = s.pwr ∧
    (dropEv src w s).keys = s.keys ∧ (∀ k', (dropEv src w s).arr k' = s.arr k') ∧
    (∀ k', (dropEv src w s).vec k' = s.vec k') ∧ (∀ k', (dropEv src w s).queue k' = s.queue k') ∧
    (∀ k', (dropEv src w s).core k' = s.core k') ∧ (∀ k', (dropEv src w s).stack k' = s.stack k') ∧
    (∀ k', (dropEv src w s).pc k' = s.pc k') ∧ (∀ k', (dropEv src w s).cis k' = s.cis k') ∧
    (∀ k', (dropEv src w s).mbx k' = s.mbx k') ∧ (∀ k', (dropEv src w s).upd1 k' = s.upd1 k') ∧
    (∀ k', (dropEv src w s).seq k' = s.seq k') ∧ (∀ k', (dropEv src w s).link k' = s.link k') ∧
    (∀ k', (dropEv src w s).ethPort k' = s.ethPort k') ∧
    (∀ k', (dropEv src w s).port k' = s.port k') ∧
    (∀ k', (dropEv src w s).paceSet k' = s.paceSet k') ∧
    (∀ e', (dropEv src w s).unit e' = s.unit e') ∧ (∀ k', (dropEv src w s).ctr k' = s.ctr k') := by
  unfold dropEv; simp

@[simp] theorem clearEv_fields (src : BitVec 16) (w : W64) (s : State) :
    (clearEv src w s).pending = s.pending ∧ (clearEv src w s).fresh = s.fresh ∧
    (clearEv src w s).outbox = s.outbox ∧ (clearEv src w s).now = s.now ∧
    (clearEv src w s).ticks = s.ticks ∧ (clearEv src w s).edges = s.edges ∧
    (clearEv src w s).counters = s.counters ∧ (clearEv src w s).arrays = s.arrays ∧
    (clearEv src w s).vecs = s.vecs ∧ (clearEv src w s).hbm = s.hbm ∧
    (clearEv src w s).coh = s.coh ∧ (clearEv src w s).cores = s.cores ∧
    (clearEv src w s).xlt = s.xlt ∧ (clearEv src w s).host = s.host ∧
    (clearEv src w s).queues = s.queues ∧ (clearEv src w s).served = s.served ∧
    (clearEv src w s).node = s.node ∧ (clearEv src w s).boot = s.boot ∧
    (clearEv src w s).mgr = s.mgr ∧ (clearEv src w s).pins = s.pins ∧
    (clearEv src w s).sec = s.sec ∧ (clearEv src w s).accInfo = s.accInfo ∧
    (clearEv src w s).coll = s.coll ∧ (clearEv src w s).upd = s.upd ∧
    (clearEv src w s).seqs = s.seqs ∧ (clearEv src w s).net = s.net ∧
    (clearEv src w s).eth = s.eth ∧ (clearEv src w s).time = s.time ∧
    (clearEv src w s).env = s.env ∧ (clearEv src w s).stew = s.stew ∧
    (clearEv src w s).pwr = s.pwr ∧ (clearEv src w s).keys = s.keys ∧
    (∀ k', (clearEv src w s).arr k' = s.arr k') ∧ (∀ k', (clearEv src w s).vec k' = s.vec k') ∧
    (∀ k', (clearEv src w s).queue k' = s.queue k') ∧
    (∀ k', (clearEv src w s).core k' = s.core k') ∧
    (∀ k', (clearEv src w s).stack k' = s.stack k') ∧ (∀ k', (clearEv src w s).pc k' = s.pc k') ∧
    (∀ k', (clearEv src w s).cis k' = s.cis k') ∧ (∀ k', (clearEv src w s).mbx k' = s.mbx k') ∧
    (∀ k', (clearEv src w s).upd1 k' = s.upd1 k') ∧ (∀ k', (clearEv src w s).seq k' = s.seq k') ∧
    (∀ k', (clearEv src w s).link k' = s.link k') ∧
    (∀ k', (clearEv src w s).ethPort k' = s.ethPort k') ∧
    (∀ k', (clearEv src w s).port k' = s.port k') ∧
    (∀ k', (clearEv src w s).paceSet k' = s.paceSet k') ∧
    (∀ e', (clearEv src w s).unit e' = s.unit e') ∧ (∀ k', (clearEv src w s).ctr k' = s.ctr k') := by
  unfold clearEv; simp

@[simp] theorem count_fields (key n : Nat) (s : State) :
    (count key n s).pending = s.pending ∧ (count key n s).fresh = s.fresh ∧
    (count key n s).outbox = s.outbox ∧ (count key n s).now = s.now ∧
    (count key n s).ticks = s.ticks ∧ (count key n s).arrays = s.arrays ∧
    (count key n s).vecs = s.vecs ∧ (count key n s).hbm = s.hbm ∧ (count key n s).coh = s.coh ∧
    (count key n s).cores = s.cores ∧ (count key n s).xlt = s.xlt ∧ (count key n s).host = s.host ∧
    (count key n s).queues = s.queues ∧ (count key n s).served = s.served ∧
    (count key n s).node = s.node ∧ (count key n s).boot = s.boot ∧ (count key n s).mgr = s.mgr ∧
    (count key n s).pins = s.pins ∧ (count key n s).sec = s.sec ∧
    (count key n s).accInfo = s.accInfo ∧ (count key n s).coll = s.coll ∧
    (count key n s).upd = s.upd ∧ (count key n s).seqs = s.seqs ∧ (count key n s).net = s.net ∧
    (count key n s).eth = s.eth ∧ (count key n s).time = s.time ∧ (count key n s).env = s.env ∧
    (count key n s).stew = s.stew ∧ (count key n s).pwr = s.pwr ∧ (count key n s).keys = s.keys ∧
    (∀ k', (count key n s).arr k' = s.arr k') ∧ (∀ k', (count key n s).vec k' = s.vec k') ∧
    (∀ k', (count key n s).queue k' = s.queue k') ∧ (∀ k', (count key n s).core k' = s.core k') ∧
    (∀ k', (count key n s).stack k' = s.stack k') ∧ (∀ k', (count key n s).pc k' = s.pc k') ∧
    (∀ k', (count key n s).cis k' = s.cis k') ∧ (∀ k', (count key n s).mbx k' = s.mbx k') ∧
    (∀ k', (count key n s).upd1 k' = s.upd1 k') ∧ (∀ k', (count key n s).seq k' = s.seq k') ∧
    (∀ k', (count key n s).link k' = s.link k') ∧
    (∀ k', (count key n s).ethPort k' = s.ethPort k') ∧
    (∀ k', (count key n s).port k' = s.port k') ∧
    (∀ k', (count key n s).paceSet k' = s.paceSet k') ∧ (∀ e', (count key n s).unit e' = s.unit e') := by
  unfold count; dsimp only; split
  · rw [show ∀ a b c, raiseEv a b c = raiseArg a b 0 c from fun _ _ _ => rfl]; simp; (repeat' apply And.intro) <;> first | rfl | exact fun _ => rfl
  · (repeat' apply And.intro) <;> first | rfl | exact fun _ => rfl

@[simp] theorem emit_fields (o : Output) (s : State) :
    (emit o s).pending = s.pending ∧ (emit o s).fresh = s.fresh ∧ (emit o s).now = s.now ∧
    (emit o s).ticks = s.ticks ∧ (emit o s).events = s.events ∧ (emit o s).edges = s.edges ∧
    (emit o s).counters = s.counters ∧ (emit o s).arrays = s.arrays ∧ (emit o s).vecs = s.vecs ∧
    (emit o s).hbm = s.hbm ∧ (emit o s).coh = s.coh ∧ (emit o s).cores = s.cores ∧
    (emit o s).xlt = s.xlt ∧ (emit o s).host = s.host ∧ (emit o s).queues = s.queues ∧
    (emit o s).served = s.served ∧ (emit o s).node = s.node ∧ (emit o s).boot = s.boot ∧
    (emit o s).mgr = s.mgr ∧ (emit o s).pins = s.pins ∧ (emit o s).sec = s.sec ∧
    (emit o s).accInfo = s.accInfo ∧ (emit o s).coll = s.coll ∧ (emit o s).upd = s.upd ∧
    (emit o s).seqs = s.seqs ∧ (emit o s).net = s.net ∧ (emit o s).eth = s.eth ∧
    (emit o s).time = s.time ∧ (emit o s).env = s.env ∧ (emit o s).stew = s.stew ∧
    (emit o s).pwr = s.pwr ∧ (emit o s).keys = s.keys ∧ (∀ k', (emit o s).arr k' = s.arr k') ∧
    (∀ k', (emit o s).vec k' = s.vec k') ∧ (∀ k', (emit o s).queue k' = s.queue k') ∧
    (∀ k', (emit o s).core k' = s.core k') ∧ (∀ k', (emit o s).stack k' = s.stack k') ∧
    (∀ k', (emit o s).pc k' = s.pc k') ∧ (∀ k', (emit o s).cis k' = s.cis k') ∧
    (∀ k', (emit o s).mbx k' = s.mbx k') ∧ (∀ k', (emit o s).upd1 k' = s.upd1 k') ∧
    (∀ k', (emit o s).seq k' = s.seq k') ∧ (∀ k', (emit o s).link k' = s.link k') ∧
    (∀ k', (emit o s).ethPort k' = s.ethPort k') ∧ (∀ k', (emit o s).port k' = s.port k') ∧
    (∀ k', (emit o s).paceSet k' = s.paceSet k') ∧ (∀ e', (emit o s).unit e' = s.unit e') ∧
    (∀ src', (emit o s).ev src' = s.ev src') ∧ (∀ k', (emit o s).ctr k' = s.ctr k') ∧
    (∀ src', (emit o s).evBits src' = s.evBits src') := by
  unfold emit; (repeat' apply And.intro) <;> first | rfl | exact fun _ => rfl

@[simp] theorem raiseAll_fields (src : BitVec 16) (l : List Nat) (s : State) :
    (l.foldl (fun s k => raiseEv src k s) s).pending = s.pending ∧
    (l.foldl (fun s k => raiseEv src k s) s).fresh = s.fresh ∧
    (l.foldl (fun s k => raiseEv src k s) s).outbox = s.outbox ∧
    (l.foldl (fun s k => raiseEv src k s) s).now = s.now ∧
    (l.foldl (fun s k => raiseEv src k s) s).ticks = s.ticks ∧
    (l.foldl (fun s k => raiseEv src k s) s).counters = s.counters ∧
    (l.foldl (fun s k => raiseEv src k s) s).arrays = s.arrays ∧
    (l.foldl (fun s k => raiseEv src k s) s).vecs = s.vecs ∧
    (l.foldl (fun s k => raiseEv src k s) s).hbm = s.hbm ∧
    (l.foldl (fun s k => raiseEv src k s) s).coh = s.coh ∧
    (l.foldl (fun s k => raiseEv src k s) s).cores = s.cores ∧
    (l.foldl (fun s k => raiseEv src k s) s).xlt = s.xlt ∧
    (l.foldl (fun s k => raiseEv src k s) s).host = s.host ∧
    (l.foldl (fun s k => raiseEv src k s) s).queues = s.queues ∧
    (l.foldl (fun s k => raiseEv src k s) s).served = s.served ∧
    (l.foldl (fun s k => raiseEv src k s) s).node = s.node ∧
    (l.foldl (fun s k => raiseEv src k s) s).boot = s.boot ∧
    (l.foldl (fun s k => raiseEv src k s) s).mgr = s.mgr ∧
    (l.foldl (fun s k => raiseEv src k s) s).pins = s.pins ∧
    (l.foldl (fun s k => raiseEv src k s) s).sec = s.sec ∧
    (l.foldl (fun s k => raiseEv src k s) s).accInfo = s.accInfo ∧
    (l.foldl (fun s k => raiseEv src k s) s).coll = s.coll ∧
    (l.foldl (fun s k => raiseEv src k s) s).upd = s.upd ∧
    (l.foldl (fun s k => raiseEv src k s) s).seqs = s.seqs ∧
    (l.foldl (fun s k => raiseEv src k s) s).net = s.net ∧
    (l.foldl (fun s k => raiseEv src k s) s).eth = s.eth ∧
    (l.foldl (fun s k => raiseEv src k s) s).time = s.time ∧
    (l.foldl (fun s k => raiseEv src k s) s).env = s.env ∧
    (l.foldl (fun s k => raiseEv src k s) s).stew = s.stew ∧
    (l.foldl (fun s k => raiseEv src k s) s).pwr = s.pwr ∧
    (l.foldl (fun s k => raiseEv src k s) s).keys = s.keys ∧
    (∀ k', (l.foldl (fun s k => raiseEv src k s) s).arr k' = s.arr k') ∧
    (∀ k', (l.foldl (fun s k => raiseEv src k s) s).vec k' = s.vec k') ∧
    (∀ k', (l.foldl (fun s k => raiseEv src k s) s).queue k' = s.queue k') ∧
    (∀ k', (l.foldl (fun s k => raiseEv src k s) s).core k' = s.core k') ∧
    (∀ k', (l.foldl (fun s k => raiseEv src k s) s).stack k' = s.stack k') ∧
    (∀ k', (l.foldl (fun s k => raiseEv src k s) s).pc k' = s.pc k') ∧
    (∀ k', (l.foldl (fun s k => raiseEv src k s) s).cis k' = s.cis k') ∧
    (∀ k', (l.foldl (fun s k => raiseEv src k s) s).mbx k' = s.mbx k') ∧
    (∀ k', (l.foldl (fun s k => raiseEv src k s) s).upd1 k' = s.upd1 k') ∧
    (∀ k', (l.foldl (fun s k => raiseEv src k s) s).seq k' = s.seq k') ∧
    (∀ k', (l.foldl (fun s k => raiseEv src k s) s).link k' = s.link k') ∧
    (∀ k', (l.foldl (fun s k => raiseEv src k s) s).ethPort k' = s.ethPort k') ∧
    (∀ k', (l.foldl (fun s k => raiseEv src k s) s).port k' = s.port k') ∧
    (∀ k', (l.foldl (fun s k => raiseEv src k s) s).paceSet k' = s.paceSet k') ∧
    (∀ e', (l.foldl (fun s k => raiseEv src k s) s).unit e' = s.unit e') ∧
    (∀ k', (l.foldl (fun s k => raiseEv src k s) s).ctr k' = s.ctr k') := by
  induction l generalizing s with
  | nil => simp
  | cons a l ih => simpa using ih (raiseEv src a s)

/-! ## Bits -/

theorem bitOf_or (a b : W64) (k : Nat) : bitOf (a ||| b) k = (bitOf a k || bitOf b k) := by
  simp [bitOf]

theorem bitOf_oneBit (j k : Nat) (h : k < 64) : bitOf (oneBit j) k = decide (k = j) := by
  simp only [bitOf, oneBit, BitVec.getLsbD_ofNat, Nat.testBit_two_pow, h, decide_true, Bool.true_and]
  simp [eq_comm]

/-! ## Events -/

theorem or_oneBit_of_bit {w : W64} {k : Nat} (h : bitOf w k = true) : w ||| oneBit k = w := by
  ext i hi
  simp only [BitVec.getElem_or]
  by_cases hk : i = k
  · subst hk
    have h' : w[i] = true := by simpa [bitOf, BitVec.getLsbD_eq_getElem hi] using h
    rw [h', Bool.true_or]
  · have h0 := bitOf_oneBit k i hi
    simp only [bitOf, BitVec.getLsbD_eq_getElem hi, hk, decide_false] at h0
    rw [h0, Bool.or_false]

/-- What raising bit k does to the events registers: the bit is set, the enables stay, other registers are
as before. -/
theorem raiseArg_ev (src : BitVec 16) (k : Nat) (arg : W64) (s : State) :
    ((raiseArg src k arg s).evBits src = s.evBits src ||| oneBit k
      ∧ ((raiseArg src k arg s).ev src).en = (s.ev src).en)
    ∧ ∀ x, x ≠ src → (raiseArg src k arg s).ev x = s.ev x := by
  have key : ((raiseArg src k arg s).events = s.events ∧ bitOf (s.evBits src) k = true)
      ∨ ∃ e : EvReg, (raiseArg src k arg s).events = (s.setEv src e).events
        ∧ e.bits = s.evBits src ||| oneBit k ∧ e.en = (s.ev src).en := by
    unfold raiseArg State.evBits
    dsimp only
    split <;> split
    · next h => exact .inr ⟨_, rfl, (or_oneBit_of_bit h).symm, rfl⟩
    · split <;> exact .inr ⟨_, rfl, rfl, rfl⟩
    · next h => exact .inl ⟨rfl, h⟩
    · split <;> exact .inr ⟨_, rfl, rfl, rfl⟩
  have hev : ∀ t u : State, t.events = u.events → ∀ x, t.ev x = u.ev x := fun t u h x => by simp only [State.ev, h]
  rcases key with ⟨h, hb⟩ | ⟨e, h, hb, he⟩
  · exact ⟨⟨by simp only [State.evBits, hev _ _ h]; exact (or_oneBit_of_bit hb).symm, by rw [hev _ _ h]⟩, fun x _ => hev _ _ h x⟩
  · refine ⟨⟨?_, ?_⟩, fun x hx => ?_⟩
    · rw [State.evBits, hev _ _ h, State.ev_setEv, if_pos rfl, hb]
    · rw [hev _ _ h, State.ev_setEv, if_pos rfl, he]
    · rw [hev _ _ h, State.ev_setEv, if_neg hx]

theorem raiseEv_ev (src : BitVec 16) (k : Nat) (s : State) :
    ((raiseEv src k s).evBits src = s.evBits src ||| oneBit k ∧ ((raiseEv src k s).ev src).en = (s.ev src).en)
    ∧ ∀ x, x ≠ src → (raiseEv src k s).ev x = s.ev x :=
  raiseArg_ev src k 0 s

/-- An event raised reads as set; every other bit and register reads as before. -/
theorem raiseEv_bit (src x : BitVec 16) (k j : Nat) (s : State) (h : j < 64) :
    bitOf ((raiseEv src k s).evBits x) j = (bitOf (s.evBits x) j || decide (x = src ∧ j = k)) := by
  by_cases hx : x = src
  · rw [hx, (raiseEv_ev src k s).1.1, bitOf_or, bitOf_oneBit _ _ h]; simp
  · unfold State.evBits; rw [(raiseEv_ev src k s).2 x hx]; simp [hx]

/-- Several events of one register. -/
theorem raiseAll_ev (src : BitVec 16) (l : List Nat) : ∀ s : State,
    (∀ x, x ≠ src → (l.foldl (fun s k => raiseEv src k s) s).ev x = s.ev x)
    ∧ (∀ j, j < 64 → bitOf ((l.foldl (fun s k => raiseEv src k s) s).evBits src) j = (bitOf (s.evBits src) j || l.contains j)) := by
  induction l with
  | nil => intro s; simp
  | cons a l ih =>
    intro s
    obtain ⟨h1, h2⟩ := ih (raiseEv src a s)
    simp only [List.foldl_cons]
    refine ⟨fun x hx => by rw [h1 x hx, (raiseEv_ev src a s).2 x hx], fun j hj => ?_⟩
    rw [h2 j hj, raiseEv_bit _ _ _ _ _ hj]
    simp only [true_and, List.contains_cons, Bool.or_assoc]
    congr 2

/-! ## Counters -/

theorem ctr_set (s : State) (k j : Nat) (v : W64) :
    ({ s with counters := Sparse.set 0 s.counters k v } : State).ctr j = if j = k then v else s.ctr j := by
  simp only [State.ctr, Sparse.get_set]

/-- A counter's new value: it stops at all ones; no other counter moves. -/
theorem ctr_count (key n j : Nat) (s : State) :
    (count key n s).ctr j = if j = key then w64 (min ((s.ctr key).toNat + n) (2 ^ 64 - 1)) else s.ctr j := by
  unfold count
  dsimp only
  split
  · simp only [raiseEv_fields, ctr_set]
  · rw [ctr_set]

theorem count_counts (key n : Nat) (s : State) : Counts key n s (count key n s) := by
  refine ⟨by rw [ctr_count, if_pos rfl], fun k h => by rw [ctr_count, if_neg h], ?_⟩
  apply State.ext_fields <;> simp

end Sys2Proof.Machine
end

