-- ==== Sys2Proof/Laws/Fold.lean ====
section
/-! SUPPORT. A field that every step of a fold keeps is kept by the fold; fields of a choice. -/

namespace Sys2Proof.Machine

@[simp] theorem foldl_pending {β : Type} (f : State → β → State) (l : List β) (s : State)
    (h : ∀ s b, (f s b).pending = s.pending) : (l.foldl f s).pending = s.pending := by
  induction l generalizing s with
  | nil => rfl
  | cons b l ih => rw [List.foldl_cons, ih, h]

@[simp] theorem ite_pending (p : Prop) [Decidable p] (a b : State) :
    (if p then a else b).pending = if p then a.pending else b.pending := by split <;> rfl

@[simp] theorem foldl_fresh {β : Type} (f : State → β → State) (l : List β) (s : State)
    (h : ∀ s b, (f s b).fresh = s.fresh) : (l.foldl f s).fresh = s.fresh := by
  induction l generalizing s with
  | nil => rfl
  | cons b l ih => rw [List.foldl_cons, ih, h]

@[simp] theorem ite_fresh (p : Prop) [Decidable p] (a b : State) :
    (if p then a else b).fresh = if p then a.fresh else b.fresh := by split <;> rfl

@[simp] theorem foldl_outbox {β : Type} (f : State → β → State) (l : List β) (s : State)
    (h : ∀ s b, (f s b).outbox = s.outbox) : (l.foldl f s).outbox = s.outbox := by
  induction l generalizing s with
  | nil => rfl
  | cons b l ih => rw [List.foldl_cons, ih, h]

@[simp] theorem ite_outbox (p : Prop) [Decidable p] (a b : State) :
    (if p then a else b).outbox = if p then a.outbox else b.outbox := by split <;> rfl

@[simp] theorem foldl_now {β : Type} (f : State → β → State) (l : List β) (s : State)
    (h : ∀ s b, (f s b).now = s.now) : (l.foldl f s).now = s.now := by
  induction l generalizing s with
  | nil => rfl
  | cons b l ih => rw [List.foldl_cons, ih, h]

@[simp] theorem ite_now (p : Prop) [Decidable p] (a b : State) :
    (if p then a else b).now = if p then a.now else b.now := by split <;> rfl

@[simp] theorem foldl_ticks {β : Type} (f : State → β → State) (l : List β) (s : State)
    (h : ∀ s b, (f s b).ticks = s.ticks) : (l.foldl f s).ticks = s.ticks := by
  induction l generalizing s with
  | nil => rfl
  | cons b l ih => rw [List.foldl_cons, ih, h]

@[simp] theorem ite_ticks (p : Prop) [Decidable p] (a b : State) :
    (if p then a else b).ticks = if p then a.ticks else b.ticks := by split <;> rfl

@[simp] theorem foldl_events {β : Type} (f : State → β → State) (l : List β) (s : State)
    (h : ∀ s b, (f s b).events = s.events) : (l.foldl f s).events = s.events := by
  induction l generalizing s with
  | nil => rfl
  | cons b l ih => rw [List.foldl_cons, ih, h]

@[simp] theorem ite_events (p : Prop) [Decidable p] (a b : State) :
    (if p then a else b).events = if p then a.events else b.events := by split <;> rfl

@[simp] theorem foldl_edges {β : Type} (f : State → β → State) (l : List β) (s : State)
    (h : ∀ s b, (f s b).edges = s.edges) : (l.foldl f s).edges = s.edges := by
  induction l generalizing s with
  | nil => rfl
  | cons b l ih => rw [List.foldl_cons, ih, h]

@[simp] theorem ite_edges (p : Prop) [Decidable p] (a b : State) :
    (if p then a else b).edges = if p then a.edges else b.edges := by split <;> rfl

@[simp] theorem foldl_counters {β : Type} (f : State → β → State) (l : List β) (s : State)
    (h : ∀ s b, (f s b).counters = s.counters) : (l.foldl f s).counters = s.counters := by
  induction l generalizing s with
  | nil => rfl
  | cons b l ih => rw [List.foldl_cons, ih, h]

@[simp] theorem ite_counters (p : Prop) [Decidable p] (a b : State) :
    (if p then a else b).counters = if p then a.counters else b.counters := by split <;> rfl

@[simp] theorem foldl_arrays {β : Type} (f : State → β → State) (l : List β) (s : State)
    (h : ∀ s b, (f s b).arrays = s.arrays) : (l.foldl f s).arrays = s.arrays := by
  induction l generalizing s with
  | nil => rfl
  | cons b l ih => rw [List.foldl_cons, ih, h]

@[simp] theorem ite_arrays (p : Prop) [Decidable p] (a b : State) :
    (if p then a else b).arrays = if p then a.arrays else b.arrays := by split <;> rfl

@[simp] theorem foldl_vecs {β : Type} (f : State → β → State) (l : List β) (s : State)
    (h : ∀ s b, (f s b).vecs = s.vecs) : (l.foldl f s).vecs = s.vecs := by
  induction l generalizing s with
  | nil => rfl
  | cons b l ih => rw [List.foldl_cons, ih, h]

@[simp] theorem ite_vecs (p : Prop) [Decidable p] (a b : State) :
    (if p then a else b).vecs = if p then a.vecs else b.vecs := by split <;> rfl

@[simp] theorem foldl_hbm {β : Type} (f : State → β → State) (l : List β) (s : State)
    (h : ∀ s b, (f s b).hbm = s.hbm) : (l.foldl f s).hbm = s.hbm := by
  induction l generalizing s with
  | nil => rfl
  | cons b l ih => rw [List.foldl_cons, ih, h]

@[simp] theorem ite_hbm (p : Prop) [Decidable p] (a b : State) :
    (if p then a else b).hbm = if p then a.hbm else b.hbm := by split <;> rfl

@[simp] theorem foldl_coh {β : Type} (f : State → β → State) (l : List β) (s : State)
    (h : ∀ s b, (f s b).coh = s.coh) : (l.foldl f s).coh = s.coh := by
  induction l generalizing s with
  | nil => rfl
  | cons b l ih => rw [List.foldl_cons, ih, h]

@[simp] theorem ite_coh (p : Prop) [Decidable p] (a b : State) :
    (if p then a else b).coh = if p then a.coh else b.coh := by split <;> rfl

@[simp] theorem foldl_cores {β : Type} (f : State → β → State) (l : List β) (s : State)
    (h : ∀ s b, (f s b).cores = s.cores) : (l.foldl f s).cores = s.cores := by
  induction l generalizing s with
  | nil => rfl
  | cons b l ih => rw [List.foldl_cons, ih, h]

@[simp] theorem ite_cores (p : Prop) [Decidable p] (a b : State) :
    (if p then a else b).cores = if p then a.cores else b.cores := by split <;> rfl

@[simp] theorem foldl_xlt {β : Type} (f : State → β → State) (l : List β) (s : State)
    (h : ∀ s b, (f s b).xlt = s.xlt) : (l.foldl f s).xlt = s.xlt := by
  induction l generalizing s with
  | nil => rfl
  | cons b l ih => rw [List.foldl_cons, ih, h]

@[simp] theorem ite_xlt (p : Prop) [Decidable p] (a b : State) :
    (if p then a else b).xlt = if p then a.xlt else b.xlt := by split <;> rfl

@[simp] theorem foldl_host {β : Type} (f : State → β → State) (l : List β) (s : State)
    (h : ∀ s b, (f s b).host = s.host) : (l.foldl f s).host = s.host := by
  induction l generalizing s with
  | nil => rfl
  | cons b l ih => rw [List.foldl_cons, ih, h]

@[simp] theorem ite_host (p : Prop) [Decidable p] (a b : State) :
    (if p then a else b).host = if p then a.host else b.host := by split <;> rfl

@[simp] theorem foldl_queues {β : Type} (f : State → β → State) (l : List β) (s : State)
    (h : ∀ s b, (f s b).queues = s.queues) : (l.foldl f s).queues = s.queues := by
  induction l generalizing s with
  | nil => rfl
  | cons b l ih => rw [List.foldl_cons, ih, h]

@[simp] theorem ite_queues (p : Prop) [Decidable p] (a b : State) :
    (if p then a else b).queues = if p then a.queues else b.queues := by split <;> rfl

@[simp] theorem foldl_served {β : Type} (f : State → β → State) (l : List β) (s : State)
    (h : ∀ s b, (f s b).served = s.served) : (l.foldl f s).served = s.served := by
  induction l generalizing s with
  | nil => rfl
  | cons b l ih => rw [List.foldl_cons, ih, h]

@[simp] theorem ite_served (p : Prop) [Decidable p] (a b : State) :
    (if p then a else b).served = if p then a.served else b.served := by split <;> rfl

@[simp] theorem foldl_node {β : Type} (f : State → β → State) (l : List β) (s : State)
    (h : ∀ s b, (f s b).node = s.node) : (l.foldl f s).node = s.node := by
  induction l generalizing s with
  | nil => rfl
  | cons b l ih => rw [List.foldl_cons, ih, h]

@[simp] theorem ite_node (p : Prop) [Decidable p] (a b : State) :
    (if p then a else b).node = if p then a.node else b.node := by split <;> rfl

@[simp] theorem foldl_boot {β : Type} (f : State → β → State) (l : List β) (s : State)
    (h : ∀ s b, (f s b).boot = s.boot) : (l.foldl f s).boot = s.boot := by
  induction l generalizing s with
  | nil => rfl
  | cons b l ih => rw [List.foldl_cons, ih, h]

@[simp] theorem ite_boot (p : Prop) [Decidable p] (a b : State) :
    (if p then a else b).boot = if p then a.boot else b.boot := by split <;> rfl

@[simp] theorem foldl_mgr {β : Type} (f : State → β → State) (l : List β) (s : State)
    (h : ∀ s b, (f s b).mgr = s.mgr) : (l.foldl f s).mgr = s.mgr := by
  induction l generalizing s with
  | nil => rfl
  | cons b l ih => rw [List.foldl_cons, ih, h]

@[simp] theorem ite_mgr (p : Prop) [Decidable p] (a b : State) :
    (if p then a else b).mgr = if p then a.mgr else b.mgr := by split <;> rfl

@[simp] theorem foldl_pins {β : Type} (f : State → β → State) (l : List β) (s : State)
    (h : ∀ s b, (f s b).pins = s.pins) : (l.foldl f s).pins = s.pins := by
  induction l generalizing s with
  | nil => rfl
  | cons b l ih => rw [List.foldl_cons, ih, h]

@[simp] theorem ite_pins (p : Prop) [Decidable p] (a b : State) :
    (if p then a else b).pins = if p then a.pins else b.pins := by split <;> rfl

@[simp] theorem foldl_sec {β : Type} (f : State → β → State) (l : List β) (s : State)
    (h : ∀ s b, (f s b).sec = s.sec) : (l.foldl f s).sec = s.sec := by
  induction l generalizing s with
  | nil => rfl
  | cons b l ih => rw [List.foldl_cons, ih, h]

@[simp] theorem ite_sec (p : Prop) [Decidable p] (a b : State) :
    (if p then a else b).sec = if p then a.sec else b.sec := by split <;> rfl

@[simp] theorem foldl_accInfo {β : Type} (f : State → β → State) (l : List β) (s : State)
    (h : ∀ s b, (f s b).accInfo = s.accInfo) : (l.foldl f s).accInfo = s.accInfo := by
  induction l generalizing s with
  | nil => rfl
  | cons b l ih => rw [List.foldl_cons, ih, h]

@[simp] theorem ite_accInfo (p : Prop) [Decidable p] (a b : State) :
    (if p then a else b).accInfo = if p then a.accInfo else b.accInfo := by split <;> rfl

@[simp] theorem foldl_coll {β : Type} (f : State → β → State) (l : List β) (s : State)
    (h : ∀ s b, (f s b).coll = s.coll) : (l.foldl f s).coll = s.coll := by
  induction l generalizing s with
  | nil => rfl
  | cons b l ih => rw [List.foldl_cons, ih, h]

@[simp] theorem ite_coll (p : Prop) [Decidable p] (a b : State) :
    (if p then a else b).coll = if p then a.coll else b.coll := by split <;> rfl

@[simp] theorem foldl_upd {β : Type} (f : State → β → State) (l : List β) (s : State)
    (h : ∀ s b, (f s b).upd = s.upd) : (l.foldl f s).upd = s.upd := by
  induction l generalizing s with
  | nil => rfl
  | cons b l ih => rw [List.foldl_cons, ih, h]

@[simp] theorem ite_upd (p : Prop) [Decidable p] (a b : State) :
    (if p then a else b).upd = if p then a.upd else b.upd := by split <;> rfl

@[simp] theorem foldl_seqs {β : Type} (f : State → β → State) (l : List β) (s : State)
    (h : ∀ s b, (f s b).seqs = s.seqs) : (l.foldl f s).seqs = s.seqs := by
  induction l generalizing s with
  | nil => rfl
  | cons b l ih => rw [List.foldl_cons, ih, h]

@[simp] theorem ite_seqs (p : Prop) [Decidable p] (a b : State) :
    (if p then a else b).seqs = if p then a.seqs else b.seqs := by split <;> rfl

@[simp] theorem foldl_net {β : Type} (f : State → β → State) (l : List β) (s : State)
    (h : ∀ s b, (f s b).net = s.net) : (l.foldl f s).net = s.net := by
  induction l generalizing s with
  | nil => rfl
  | cons b l ih => rw [List.foldl_cons, ih, h]

@[simp] theorem ite_net (p : Prop) [Decidable p] (a b : State) :
    (if p then a else b).net = if p then a.net else b.net := by split <;> rfl

@[simp] theorem foldl_eth {β : Type} (f : State → β → State) (l : List β) (s : State)
    (h : ∀ s b, (f s b).eth = s.eth) : (l.foldl f s).eth = s.eth := by
  induction l generalizing s with
  | nil => rfl
  | cons b l ih => rw [List.foldl_cons, ih, h]

@[simp] theorem ite_eth (p : Prop) [Decidable p] (a b : State) :
    (if p then a else b).eth = if p then a.eth else b.eth := by split <;> rfl

@[simp] theorem foldl_time {β : Type} (f : State → β → State) (l : List β) (s : State)
    (h : ∀ s b, (f s b).time = s.time) : (l.foldl f s).time = s.time := by
  induction l generalizing s with
  | nil => rfl
  | cons b l ih => rw [List.foldl_cons, ih, h]

@[simp] theorem ite_time (p : Prop) [Decidable p] (a b : State) :
    (if p then a else b).time = if p then a.time else b.time := by split <;> rfl

@[simp] theorem foldl_env {β : Type} (f : State → β → State) (l : List β) (s : State)
    (h : ∀ s b, (f s b).env = s.env) : (l.foldl f s).env = s.env := by
  induction l generalizing s with
  | nil => rfl
  | cons b l ih => rw [List.foldl_cons, ih, h]

@[simp] theorem ite_env (p : Prop) [Decidable p] (a b : State) :
    (if p then a else b).env = if p then a.env else b.env := by split <;> rfl

@[simp] theorem foldl_stew {β : Type} (f : State → β → State) (l : List β) (s : State)
    (h : ∀ s b, (f s b).stew = s.stew) : (l.foldl f s).stew = s.stew := by
  induction l generalizing s with
  | nil => rfl
  | cons b l ih => rw [List.foldl_cons, ih, h]

@[simp] theorem ite_stew (p : Prop) [Decidable p] (a b : State) :
    (if p then a else b).stew = if p then a.stew else b.stew := by split <;> rfl

@[simp] theorem foldl_pwr {β : Type} (f : State → β → State) (l : List β) (s : State)
    (h : ∀ s b, (f s b).pwr = s.pwr) : (l.foldl f s).pwr = s.pwr := by
  induction l generalizing s with
  | nil => rfl
  | cons b l ih => rw [List.foldl_cons, ih, h]

@[simp] theorem ite_pwr (p : Prop) [Decidable p] (a b : State) :
    (if p then a else b).pwr = if p then a.pwr else b.pwr := by split <;> rfl

@[simp] theorem foldl_keys {β : Type} (f : State → β → State) (l : List β) (s : State)
    (h : ∀ s b, (f s b).keys = s.keys) : (l.foldl f s).keys = s.keys := by
  induction l generalizing s with
  | nil => rfl
  | cons b l ih => rw [List.foldl_cons, ih, h]

@[simp] theorem ite_keys (p : Prop) [Decidable p] (a b : State) :
    (if p then a else b).keys = if p then a.keys else b.keys := by split <;> rfl

@[simp] theorem ite_snd_state {α β : Type} (p : Prop) [Decidable p] (a b : α × β) :
    (if p then a else b).2 = if p then a.2 else b.2 := by split <;> rfl

end Sys2Proof.Machine
end

