-- ==== Sys2Proof/Laws/Send.lean ====
section
/-! SUPPORT. What sending a message, an interrupt or a response leaves alone. -/

set_option linter.all false

namespace Sys2Proof.Machine

@[simp] theorem imsicSend_fr (target : ℕ) (identity : ℕ) (machine : Bool) (s : State) :
    (imsicSend target identity machine s).pending = s.pending ∧
    (imsicSend target identity machine s).fresh = s.fresh ∧
    (imsicSend target identity machine s).outbox = s.outbox ∧
    (imsicSend target identity machine s).now = s.now ∧
    (imsicSend target identity machine s).ticks = s.ticks ∧
    (imsicSend target identity machine s).events = s.events ∧
    (imsicSend target identity machine s).edges = s.edges ∧
    (imsicSend target identity machine s).counters = s.counters ∧
    (imsicSend target identity machine s).arrays = s.arrays ∧
    (imsicSend target identity machine s).vecs = s.vecs ∧
    (imsicSend target identity machine s).hbm = s.hbm ∧
    (imsicSend target identity machine s).coh = s.coh ∧
    (imsicSend target identity machine s).xlt = s.xlt ∧
    (imsicSend target identity machine s).host = s.host ∧
    (imsicSend target identity machine s).queues = s.queues ∧
    (imsicSend target identity machine s).served = s.served ∧
    (imsicSend target identity machine s).node = s.node ∧
    (imsicSend target identity machine s).boot = s.boot ∧
    (imsicSend target identity machine s).mgr = s.mgr ∧
    (imsicSend target identity machine s).pins = s.pins ∧
    (imsicSend target identity machine s).sec = s.sec ∧
    (imsicSend target identity machine s).accInfo = s.accInfo ∧
    (imsicSend target identity machine s).coll = s.coll ∧
    (imsicSend target identity machine s).upd = s.upd ∧
    (imsicSend target identity machine s).seqs = s.seqs ∧
    (imsicSend target identity machine s).net = s.net ∧
    (imsicSend target identity machine s).eth = s.eth ∧
    (imsicSend target identity machine s).time = s.time ∧
    (imsicSend target identity machine s).env = s.env ∧
    (imsicSend target identity machine s).stew = s.stew ∧
    (imsicSend target identity machine s).pwr = s.pwr ∧
    (imsicSend target identity machine s).keys = s.keys := by
  simp only [imsicSend]; (repeat' split) <;> (simp [*]; done)

@[simp] theorem sendMsix_fr (p : ℕ) (vec : ℕ) (s : State) :
    (sendMsix p vec s).pending = s.pending ∧ (sendMsix p vec s).fresh = s.fresh ∧
    (sendMsix p vec s).now = s.now ∧ (sendMsix p vec s).ticks = s.ticks ∧
    (sendMsix p vec s).events = s.events ∧ (sendMsix p vec s).edges = s.edges ∧
    (sendMsix p vec s).counters = s.counters ∧ (sendMsix p vec s).arrays = s.arrays ∧
    (sendMsix p vec s).vecs = s.vecs ∧ (sendMsix p vec s).hbm = s.hbm ∧
    (sendMsix p vec s).coh = s.coh ∧ (sendMsix p vec s).cores = s.cores ∧
    (sendMsix p vec s).xlt = s.xlt ∧ (sendMsix p vec s).queues = s.queues ∧
    (sendMsix p vec s).served = s.served ∧ (sendMsix p vec s).node = s.node ∧
    (sendMsix p vec s).boot = s.boot ∧ (sendMsix p vec s).mgr = s.mgr ∧
    (sendMsix p vec s).pins = s.pins ∧ (sendMsix p vec s).sec = s.sec ∧
    (sendMsix p vec s).accInfo = s.accInfo ∧ (sendMsix p vec s).coll = s.coll ∧
    (sendMsix p vec s).upd = s.upd ∧ (sendMsix p vec s).seqs = s.seqs ∧
    (sendMsix p vec s).net = s.net ∧ (sendMsix p vec s).eth = s.eth ∧
    (sendMsix p vec s).time = s.time ∧ (sendMsix p vec s).env = s.env ∧
    (sendMsix p vec s).stew = s.stew ∧ (sendMsix p vec s).pwr = s.pwr ∧
    (sendMsix p vec s).keys = s.keys := by
  simp only [sendMsix]; (repeat' split) <;> (simp [*]; done)

@[simp] theorem putFlit_fr (n : ℕ) (kind : ℕ) (vl : ℕ) (fseq : ℕ) (sop : ℕ) (payload : List Byte) (s : State) :
    (putFlit n kind vl fseq sop payload s).pending = s.pending ∧
    (putFlit n kind vl fseq sop payload s).fresh = s.fresh ∧
    (putFlit n kind vl fseq sop payload s).now = s.now ∧
    (putFlit n kind vl fseq sop payload s).ticks = s.ticks ∧
    (putFlit n kind vl fseq sop payload s).events = s.events ∧
    (putFlit n kind vl fseq sop payload s).edges = s.edges ∧
    (putFlit n kind vl fseq sop payload s).counters = s.counters ∧
    (putFlit n kind vl fseq sop payload s).arrays = s.arrays ∧
    (putFlit n kind vl fseq sop payload s).vecs = s.vecs ∧
    (putFlit n kind vl fseq sop payload s).hbm = s.hbm ∧
    (putFlit n kind vl fseq sop payload s).coh = s.coh ∧
    (putFlit n kind vl fseq sop payload s).cores = s.cores ∧
    (putFlit n kind vl fseq sop payload s).xlt = s.xlt ∧
    (putFlit n kind vl fseq sop payload s).host = s.host ∧
    (putFlit n kind vl fseq sop payload s).queues = s.queues ∧
    (putFlit n kind vl fseq sop payload s).served = s.served ∧
    (putFlit n kind vl fseq sop payload s).node = s.node ∧
    (putFlit n kind vl fseq sop payload s).boot = s.boot ∧
    (putFlit n kind vl fseq sop payload s).mgr = s.mgr ∧
    (putFlit n kind vl fseq sop payload s).pins = s.pins ∧
    (putFlit n kind vl fseq sop payload s).sec = s.sec ∧
    (putFlit n kind vl fseq sop payload s).accInfo = s.accInfo ∧
    (putFlit n kind vl fseq sop payload s).coll = s.coll ∧
    (putFlit n kind vl fseq sop payload s).upd = s.upd ∧
    (putFlit n kind vl fseq sop payload s).seqs = s.seqs ∧
    (putFlit n kind vl fseq sop payload s).eth = s.eth ∧
    (putFlit n kind vl fseq sop payload s).time = s.time ∧
    (putFlit n kind vl fseq sop payload s).env = s.env ∧
    (putFlit n kind vl fseq sop payload s).stew = s.stew ∧
    (putFlit n kind vl fseq sop payload s).pwr = s.pwr ∧
    (putFlit n kind vl fseq sop payload s).keys = s.keys := by
  simp only [putFlit]; (repeat' split) <;> (simp [*]; done)

@[simp] theorem oweSlots_fr (b : HeldSlots) (s : State) :
    (oweSlots b s).pending = s.pending ∧ (oweSlots b s).fresh = s.fresh ∧
    (oweSlots b s).outbox = s.outbox ∧ (oweSlots b s).now = s.now ∧
    (oweSlots b s).ticks = s.ticks ∧ (oweSlots b s).events = s.events ∧
    (oweSlots b s).edges = s.edges ∧ (oweSlots b s).counters = s.counters ∧
    (oweSlots b s).arrays = s.arrays ∧ (oweSlots b s).vecs = s.vecs ∧ (oweSlots b s).hbm = s.hbm ∧
    (oweSlots b s).coh = s.coh ∧ (oweSlots b s).cores = s.cores ∧ (oweSlots b s).xlt = s.xlt ∧
    (oweSlots b s).host = s.host ∧ (oweSlots b s).queues = s.queues ∧
    (oweSlots b s).served = s.served ∧ (oweSlots b s).node = s.node ∧
    (oweSlots b s).boot = s.boot ∧ (oweSlots b s).mgr = s.mgr ∧ (oweSlots b s).pins = s.pins ∧
    (oweSlots b s).sec = s.sec ∧ (oweSlots b s).accInfo = s.accInfo ∧
    (oweSlots b s).coll = s.coll ∧ (oweSlots b s).upd = s.upd ∧ (oweSlots b s).seqs = s.seqs ∧
    (oweSlots b s).eth = s.eth ∧ (oweSlots b s).time = s.time ∧ (oweSlots b s).env = s.env ∧
    (oweSlots b s).stew = s.stew ∧ (oweSlots b s).pwr = s.pwr ∧ (oweSlots b s).keys = s.keys := by
  simp only [oweSlots]; (repeat' split) <;> (simp [*]; done)

@[simp] theorem sendData_fr (n : ℕ) (vl : ℕ) (s : State) :
    (sendData n vl s).pending = s.pending ∧ (sendData n vl s).fresh = s.fresh ∧
    (sendData n vl s).now = s.now ∧ (sendData n vl s).ticks = s.ticks ∧
    (sendData n vl s).events = s.events ∧ (sendData n vl s).edges = s.edges ∧
    (sendData n vl s).counters = s.counters ∧ (sendData n vl s).arrays = s.arrays ∧
    (sendData n vl s).vecs = s.vecs ∧ (sendData n vl s).hbm = s.hbm ∧
    (sendData n vl s).coh = s.coh ∧ (sendData n vl s).cores = s.cores ∧
    (sendData n vl s).xlt = s.xlt ∧ (sendData n vl s).host = s.host ∧
    (sendData n vl s).queues = s.queues ∧ (sendData n vl s).served = s.served ∧
    (sendData n vl s).node = s.node ∧ (sendData n vl s).boot = s.boot ∧
    (sendData n vl s).mgr = s.mgr ∧ (sendData n vl s).pins = s.pins ∧
    (sendData n vl s).sec = s.sec ∧ (sendData n vl s).accInfo = s.accInfo ∧
    (sendData n vl s).coll = s.coll ∧ (sendData n vl s).upd = s.upd ∧
    (sendData n vl s).seqs = s.seqs ∧ (sendData n vl s).eth = s.eth ∧
    (sendData n vl s).time = s.time ∧ (sendData n vl s).env = s.env ∧
    (sendData n vl s).stew = s.stew ∧ (sendData n vl s).pwr = s.pwr ∧
    (sendData n vl s).keys = s.keys := by
  unfold sendData; dsimp only; (repeat' split) <;>
    (simp (disch := (intros; first | (simp; done) | ((repeat' split) <;> simp))) [*]; done)

@[simp] theorem noteDry_fr (n : ℕ) (s : State) :
    (noteDry n s).pending = s.pending ∧ (noteDry n s).fresh = s.fresh ∧
    (noteDry n s).outbox = s.outbox ∧ (noteDry n s).now = s.now ∧ (noteDry n s).ticks = s.ticks ∧
    (noteDry n s).events = s.events ∧ (noteDry n s).edges = s.edges ∧
    (noteDry n s).counters = s.counters ∧ (noteDry n s).arrays = s.arrays ∧
    (noteDry n s).vecs = s.vecs ∧ (noteDry n s).hbm = s.hbm ∧ (noteDry n s).coh = s.coh ∧
    (noteDry n s).cores = s.cores ∧ (noteDry n s).xlt = s.xlt ∧ (noteDry n s).host = s.host ∧
    (noteDry n s).queues = s.queues ∧ (noteDry n s).served = s.served ∧
    (noteDry n s).node = s.node ∧ (noteDry n s).boot = s.boot ∧ (noteDry n s).mgr = s.mgr ∧
    (noteDry n s).pins = s.pins ∧ (noteDry n s).sec = s.sec ∧ (noteDry n s).accInfo = s.accInfo ∧
    (noteDry n s).coll = s.coll ∧ (noteDry n s).upd = s.upd ∧ (noteDry n s).seqs = s.seqs ∧
    (noteDry n s).eth = s.eth ∧ (noteDry n s).time = s.time ∧ (noteDry n s).env = s.env ∧
    (noteDry n s).stew = s.stew ∧ (noteDry n s).pwr = s.pwr ∧ (noteDry n s).keys = s.keys := by
  simp only [noteDry]; (repeat' split) <;> (simp [*]; done)

@[simp] theorem pumpFuel_fr (n : ℕ) (a1 : ℕ) (a2 : State) :
    (pumpFuel n a1 a2).pending = a2.pending ∧ (pumpFuel n a1 a2).fresh = a2.fresh ∧
    (pumpFuel n a1 a2).now = a2.now ∧ (pumpFuel n a1 a2).ticks = a2.ticks ∧
    (pumpFuel n a1 a2).events = a2.events ∧ (pumpFuel n a1 a2).edges = a2.edges ∧
    (pumpFuel n a1 a2).counters = a2.counters ∧ (pumpFuel n a1 a2).arrays = a2.arrays ∧
    (pumpFuel n a1 a2).vecs = a2.vecs ∧ (pumpFuel n a1 a2).hbm = a2.hbm ∧
    (pumpFuel n a1 a2).coh = a2.coh ∧ (pumpFuel n a1 a2).cores = a2.cores ∧
    (pumpFuel n a1 a2).xlt = a2.xlt ∧ (pumpFuel n a1 a2).host = a2.host ∧
    (pumpFuel n a1 a2).queues = a2.queues ∧ (pumpFuel n a1 a2).served = a2.served ∧
    (pumpFuel n a1 a2).node = a2.node ∧ (pumpFuel n a1 a2).boot = a2.boot ∧
    (pumpFuel n a1 a2).mgr = a2.mgr ∧ (pumpFuel n a1 a2).pins = a2.pins ∧
    (pumpFuel n a1 a2).sec = a2.sec ∧ (pumpFuel n a1 a2).accInfo = a2.accInfo ∧
    (pumpFuel n a1 a2).coll = a2.coll ∧ (pumpFuel n a1 a2).upd = a2.upd ∧
    (pumpFuel n a1 a2).seqs = a2.seqs ∧ (pumpFuel n a1 a2).eth = a2.eth ∧
    (pumpFuel n a1 a2).time = a2.time ∧ (pumpFuel n a1 a2).env = a2.env ∧
    (pumpFuel n a1 a2).stew = a2.stew ∧ (pumpFuel n a1 a2).pwr = a2.pwr ∧
    (pumpFuel n a1 a2).keys = a2.keys := by
  fun_induction pumpFuel n a1 a2 <;> (simp [*]; done)

@[simp] theorem pump_fr (n : ℕ) (s : State) :
    (pump n s).pending = s.pending ∧ (pump n s).fresh = s.fresh ∧ (pump n s).now = s.now ∧
    (pump n s).ticks = s.ticks ∧ (pump n s).events = s.events ∧ (pump n s).edges = s.edges ∧
    (pump n s).counters = s.counters ∧ (pump n s).arrays = s.arrays ∧ (pump n s).vecs = s.vecs ∧
    (pump n s).hbm = s.hbm ∧ (pump n s).coh = s.coh ∧ (pump n s).cores = s.cores ∧
    (pump n s).xlt = s.xlt ∧ (pump n s).host = s.host ∧ (pump n s).queues = s.queues ∧
    (pump n s).served = s.served ∧ (pump n s).node = s.node ∧ (pump n s).boot = s.boot ∧
    (pump n s).mgr = s.mgr ∧ (pump n s).pins = s.pins ∧ (pump n s).sec = s.sec ∧
    (pump n s).accInfo = s.accInfo ∧ (pump n s).coll = s.coll ∧ (pump n s).upd = s.upd ∧
    (pump n s).seqs = s.seqs ∧ (pump n s).eth = s.eth ∧ (pump n s).time = s.time ∧
    (pump n s).env = s.env ∧ (pump n s).stew = s.stew ∧ (pump n s).pwr = s.pwr ∧
    (pump n s).keys = s.keys := by
  simp only [pump]; (repeat' split) <;> (simp [*]; done)

@[simp] theorem sendHeld_fr (n : ℕ) (back : Option HeldSlots) (p : Packet) (s : State) :
    (sendHeld n back p s).pending = s.pending ∧ (sendHeld n back p s).fresh = s.fresh ∧
    (sendHeld n back p s).now = s.now ∧ (sendHeld n back p s).ticks = s.ticks ∧
    (sendHeld n back p s).events = s.events ∧ (sendHeld n back p s).edges = s.edges ∧
    (sendHeld n back p s).counters = s.counters ∧ (sendHeld n back p s).arrays = s.arrays ∧
    (sendHeld n back p s).vecs = s.vecs ∧ (sendHeld n back p s).hbm = s.hbm ∧
    (sendHeld n back p s).coh = s.coh ∧ (sendHeld n back p s).cores = s.cores ∧
    (sendHeld n back p s).xlt = s.xlt ∧ (sendHeld n back p s).host = s.host ∧
    (sendHeld n back p s).queues = s.queues ∧ (sendHeld n back p s).served = s.served ∧
    (sendHeld n back p s).node = s.node ∧ (sendHeld n back p s).boot = s.boot ∧
    (sendHeld n back p s).mgr = s.mgr ∧ (sendHeld n back p s).pins = s.pins ∧
    (sendHeld n back p s).sec = s.sec ∧ (sendHeld n back p s).accInfo = s.accInfo ∧
    (sendHeld n back p s).coll = s.coll ∧ (sendHeld n back p s).upd = s.upd ∧
    (sendHeld n back p s).seqs = s.seqs ∧ (sendHeld n back p s).eth = s.eth ∧
    (sendHeld n back p s).time = s.time ∧ (sendHeld n back p s).env = s.env ∧
    (sendHeld n back p s).stew = s.stew ∧ (sendHeld n back p s).pwr = s.pwr ∧
    (sendHeld n back p s).keys = s.keys := by
  simp only [sendHeld]; (repeat' split) <;> (simp [*]; done)

@[simp] theorem noteDrop_fr (s : State) :
    (noteDrop s).pending = s.pending ∧ (noteDrop s).fresh = s.fresh ∧
    (noteDrop s).outbox = s.outbox ∧ (noteDrop s).now = s.now ∧ (noteDrop s).ticks = s.ticks ∧
    (noteDrop s).arrays = s.arrays ∧ (noteDrop s).vecs = s.vecs ∧ (noteDrop s).hbm = s.hbm ∧
    (noteDrop s).coh = s.coh ∧ (noteDrop s).cores = s.cores ∧ (noteDrop s).xlt = s.xlt ∧
    (noteDrop s).host = s.host ∧ (noteDrop s).queues = s.queues ∧ (noteDrop s).served = s.served ∧
    (noteDrop s).node = s.node ∧ (noteDrop s).boot = s.boot ∧ (noteDrop s).mgr = s.mgr ∧
    (noteDrop s).pins = s.pins ∧ (noteDrop s).sec = s.sec ∧ (noteDrop s).accInfo = s.accInfo ∧
    (noteDrop s).coll = s.coll ∧ (noteDrop s).upd = s.upd ∧ (noteDrop s).seqs = s.seqs ∧
    (noteDrop s).net = s.net ∧ (noteDrop s).eth = s.eth ∧ (noteDrop s).time = s.time ∧
    (noteDrop s).env = s.env ∧ (noteDrop s).stew = s.stew ∧ (noteDrop s).pwr = s.pwr ∧
    (noteDrop s).keys = s.keys := by
  simp only [noteDrop]; (repeat' split) <;> (simp [*]; done)

@[simp] theorem forward_fr (back : Option HeldSlots) (p : Packet) (s : State) :
    (forward back p s).2.pending = s.pending ∧ (forward back p s).2.fresh = s.fresh ∧
    (forward back p s).2.now = s.now ∧ (forward back p s).2.ticks = s.ticks ∧
    (forward back p s).2.arrays = s.arrays ∧ (forward back p s).2.vecs = s.vecs ∧
    (forward back p s).2.hbm = s.hbm ∧ (forward back p s).2.coh = s.coh ∧
    (forward back p s).2.cores = s.cores ∧ (forward back p s).2.xlt = s.xlt ∧
    (forward back p s).2.host = s.host ∧ (forward back p s).2.queues = s.queues ∧
    (forward back p s).2.served = s.served ∧ (forward back p s).2.node = s.node ∧
    (forward back p s).2.boot = s.boot ∧ (forward back p s).2.mgr = s.mgr ∧
    (forward back p s).2.pins = s.pins ∧ (forward back p s).2.sec = s.sec ∧
    (forward back p s).2.accInfo = s.accInfo ∧ (forward back p s).2.coll = s.coll ∧
    (forward back p s).2.upd = s.upd ∧ (forward back p s).2.seqs = s.seqs ∧
    (forward back p s).2.eth = s.eth ∧ (forward back p s).2.time = s.time ∧
    (forward back p s).2.env = s.env ∧ (forward back p s).2.stew = s.stew ∧
    (forward back p s).2.pwr = s.pwr ∧ (forward back p s).2.keys = s.keys := by
  simp only [forward]; (repeat' split) <;> (simp [*]; done)

@[simp] theorem sendPacket_fr (p : Packet) (s : State) :
    (sendPacket p s).2.pending = s.pending ∧ (sendPacket p s).2.fresh = s.fresh ∧
    (sendPacket p s).2.now = s.now ∧ (sendPacket p s).2.ticks = s.ticks ∧
    (sendPacket p s).2.arrays = s.arrays ∧ (sendPacket p s).2.vecs = s.vecs ∧
    (sendPacket p s).2.hbm = s.hbm ∧ (sendPacket p s).2.coh = s.coh ∧
    (sendPacket p s).2.cores = s.cores ∧ (sendPacket p s).2.xlt = s.xlt ∧
    (sendPacket p s).2.host = s.host ∧ (sendPacket p s).2.queues = s.queues ∧
    (sendPacket p s).2.served = s.served ∧ (sendPacket p s).2.node = s.node ∧
    (sendPacket p s).2.boot = s.boot ∧ (sendPacket p s).2.mgr = s.mgr ∧
    (sendPacket p s).2.pins = s.pins ∧ (sendPacket p s).2.sec = s.sec ∧
    (sendPacket p s).2.accInfo = s.accInfo ∧ (sendPacket p s).2.coll = s.coll ∧
    (sendPacket p s).2.upd = s.upd ∧ (sendPacket p s).2.seqs = s.seqs ∧
    (sendPacket p s).2.eth = s.eth ∧ (sendPacket p s).2.time = s.time ∧
    (sendPacket p s).2.env = s.env ∧ (sendPacket p s).2.stew = s.stew ∧
    (sendPacket p s).2.pwr = s.pwr ∧ (sendPacket p s).2.keys = s.keys := by
  simp only [sendPacket]; (repeat' split) <;> (simp [*]; done)

@[simp] theorem sendMgmt_fr (dst : NodeId) (cls : ℕ) (payload : List Byte) (s : State) :
    (sendMgmt dst cls payload s).pending = s.pending ∧
    (sendMgmt dst cls payload s).fresh = s.fresh ∧ (sendMgmt dst cls payload s).now = s.now ∧
    (sendMgmt dst cls payload s).ticks = s.ticks ∧ (sendMgmt dst cls payload s).arrays = s.arrays ∧
    (sendMgmt dst cls payload s).vecs = s.vecs ∧ (sendMgmt dst cls payload s).hbm = s.hbm ∧
    (sendMgmt dst cls payload s).coh = s.coh ∧ (sendMgmt dst cls payload s).cores = s.cores ∧
    (sendMgmt dst cls payload s).xlt = s.xlt ∧ (sendMgmt dst cls payload s).host = s.host ∧
    (sendMgmt dst cls payload s).queues = s.queues ∧
    (sendMgmt dst cls payload s).served = s.served ∧ (sendMgmt dst cls payload s).node = s.node ∧
    (sendMgmt dst cls payload s).boot = s.boot ∧ (sendMgmt dst cls payload s).mgr = s.mgr ∧
    (sendMgmt dst cls payload s).pins = s.pins ∧ (sendMgmt dst cls payload s).sec = s.sec ∧
    (sendMgmt dst cls payload s).accInfo = s.accInfo ∧ (sendMgmt dst cls payload s).coll = s.coll ∧
    (sendMgmt dst cls payload s).upd = s.upd ∧ (sendMgmt dst cls payload s).seqs = s.seqs ∧
    (sendMgmt dst cls payload s).eth = s.eth ∧ (sendMgmt dst cls payload s).time = s.time ∧
    (sendMgmt dst cls payload s).env = s.env ∧ (sendMgmt dst cls payload s).stew = s.stew ∧
    (sendMgmt dst cls payload s).pwr = s.pwr ∧ (sendMgmt dst cls payload s).keys = s.keys := by
  simp only [sendMgmt]; (repeat' split) <;> (simp [*]; done)

@[simp] theorem sendIrq_fr (irq : W64) (s : State) :
    (sendIrq irq s).pending = s.pending ∧ (sendIrq irq s).fresh = s.fresh ∧
    (sendIrq irq s).now = s.now ∧ (sendIrq irq s).ticks = s.ticks ∧
    (sendIrq irq s).events = s.events ∧ (sendIrq irq s).edges = s.edges ∧
    (sendIrq irq s).counters = s.counters ∧ (sendIrq irq s).arrays = s.arrays ∧
    (sendIrq irq s).vecs = s.vecs ∧ (sendIrq irq s).hbm = s.hbm ∧ (sendIrq irq s).coh = s.coh ∧
    (sendIrq irq s).xlt = s.xlt ∧ (sendIrq irq s).queues = s.queues ∧
    (sendIrq irq s).served = s.served ∧ (sendIrq irq s).node = s.node ∧
    (sendIrq irq s).boot = s.boot ∧ (sendIrq irq s).mgr = s.mgr ∧ (sendIrq irq s).pins = s.pins ∧
    (sendIrq irq s).sec = s.sec ∧ (sendIrq irq s).accInfo = s.accInfo ∧
    (sendIrq irq s).coll = s.coll ∧ (sendIrq irq s).upd = s.upd ∧ (sendIrq irq s).seqs = s.seqs ∧
    (sendIrq irq s).net = s.net ∧ (sendIrq irq s).eth = s.eth ∧ (sendIrq irq s).time = s.time ∧
    (sendIrq irq s).env = s.env ∧ (sendIrq irq s).stew = s.stew ∧ (sendIrq irq s).pwr = s.pwr ∧
    (sendIrq irq s).keys = s.keys := by
  simp only [sendIrq]; (repeat' split) <;> (simp [*]; done)

@[simp] theorem noteMbx_fr (m : ℕ) (k : ℕ) (s : State) :
    (noteMbx m k s).pending = s.pending ∧ (noteMbx m k s).fresh = s.fresh ∧
    (noteMbx m k s).outbox = s.outbox ∧ (noteMbx m k s).now = s.now ∧
    (noteMbx m k s).ticks = s.ticks ∧ (noteMbx m k s).edges = s.edges ∧
    (noteMbx m k s).counters = s.counters ∧ (noteMbx m k s).arrays = s.arrays ∧
    (noteMbx m k s).vecs = s.vecs ∧ (noteMbx m k s).hbm = s.hbm ∧ (noteMbx m k s).coh = s.coh ∧
    (noteMbx m k s).cores = s.cores ∧ (noteMbx m k s).xlt = s.xlt ∧ (noteMbx m k s).host = s.host ∧
    (noteMbx m k s).queues = s.queues ∧ (noteMbx m k s).served = s.served ∧
    (noteMbx m k s).node = s.node ∧ (noteMbx m k s).boot = s.boot ∧ (noteMbx m k s).mgr = s.mgr ∧
    (noteMbx m k s).pins = s.pins ∧ (noteMbx m k s).sec = s.sec ∧
    (noteMbx m k s).accInfo = s.accInfo ∧ (noteMbx m k s).coll = s.coll ∧
    (noteMbx m k s).upd = s.upd ∧ (noteMbx m k s).seqs = s.seqs ∧ (noteMbx m k s).net = s.net ∧
    (noteMbx m k s).eth = s.eth ∧ (noteMbx m k s).time = s.time ∧ (noteMbx m k s).env = s.env ∧
    (noteMbx m k s).stew = s.stew ∧ (noteMbx m k s).pwr = s.pwr ∧ (noteMbx m k s).keys = s.keys := by
  simp only [noteMbx]; (repeat' split) <;> (simp [*]; done)

@[simp] theorem respond_fr (m : MbxId) (tag : ℕ) (st : BitVec 16) (detail : ℕ) (pay : List Byte) (s : State) :
    (respond m tag st detail pay s).pending = s.pending ∧
    (respond m tag st detail pay s).fresh = s.fresh ∧ (respond m tag st detail pay s).now = s.now ∧
    (respond m tag st detail pay s).ticks = s.ticks ∧
    (respond m tag st detail pay s).arrays = s.arrays ∧
    (respond m tag st detail pay s).vecs = s.vecs ∧ (respond m tag st detail pay s).hbm = s.hbm ∧
    (respond m tag st detail pay s).coh = s.coh ∧ (respond m tag st detail pay s).xlt = s.xlt ∧
    (respond m tag st detail pay s).queues = s.queues ∧
    (respond m tag st detail pay s).served = s.served ∧
    (respond m tag st detail pay s).node = s.node ∧ (respond m tag st detail pay s).boot = s.boot ∧
    (respond m tag st detail pay s).pins = s.pins ∧ (respond m tag st detail pay s).sec = s.sec ∧
    (respond m tag st detail pay s).accInfo = s.accInfo ∧
    (respond m tag st detail pay s).coll = s.coll ∧ (respond m tag st detail pay s).upd = s.upd ∧
    (respond m tag st detail pay s).seqs = s.seqs ∧ (respond m tag st detail pay s).eth = s.eth ∧
    (respond m tag st detail pay s).time = s.time ∧ (respond m tag st detail pay s).env = s.env ∧
    (respond m tag st detail pay s).stew = s.stew ∧ (respond m tag st detail pay s).pwr = s.pwr ∧
    (respond m tag st detail pay s).keys = s.keys := by
  simp only [respond]; (repeat' split) <;> (simp [*]; done)

end Sys2Proof.Machine
end

