-- ==== Sys2Proof/Laws/Access.lean ====
section
/-! SUPPORT. What reads, writes and translations leave alone. -/

set_option linter.all false

namespace Sys2Proof.Machine

@[simp] theorem freshWord_fr (s : State) :
    (freshWord s).2.pending = s.pending ∧ (freshWord s).2.outbox = s.outbox ∧
    (freshWord s).2.now = s.now ∧ (freshWord s).2.ticks = s.ticks ∧
    (freshWord s).2.events = s.events ∧ (freshWord s).2.edges = s.edges ∧
    (freshWord s).2.counters = s.counters ∧ (freshWord s).2.arrays = s.arrays ∧
    (freshWord s).2.vecs = s.vecs ∧ (freshWord s).2.hbm = s.hbm ∧ (freshWord s).2.coh = s.coh ∧
    (freshWord s).2.cores = s.cores ∧ (freshWord s).2.xlt = s.xlt ∧ (freshWord s).2.host = s.host ∧
    (freshWord s).2.queues = s.queues ∧ (freshWord s).2.served = s.served ∧
    (freshWord s).2.node = s.node ∧ (freshWord s).2.boot = s.boot ∧ (freshWord s).2.mgr = s.mgr ∧
    (freshWord s).2.pins = s.pins ∧ (freshWord s).2.sec = s.sec ∧
    (freshWord s).2.accInfo = s.accInfo ∧ (freshWord s).2.coll = s.coll ∧
    (freshWord s).2.upd = s.upd ∧ (freshWord s).2.seqs = s.seqs ∧ (freshWord s).2.net = s.net ∧
    (freshWord s).2.eth = s.eth ∧ (freshWord s).2.time = s.time ∧ (freshWord s).2.env = s.env ∧
    (freshWord s).2.stew = s.stew ∧ (freshWord s).2.pwr = s.pwr ∧ (freshWord s).2.keys = s.keys := by
  simp only [freshWord]; (repeat' split) <;> (simp [*]; done)

@[simp] theorem freshBytes_fr (n : ℕ) (s : State) :
    (freshBytes n s).2.pending = s.pending ∧ (freshBytes n s).2.outbox = s.outbox ∧
    (freshBytes n s).2.now = s.now ∧ (freshBytes n s).2.ticks = s.ticks ∧
    (freshBytes n s).2.events = s.events ∧ (freshBytes n s).2.edges = s.edges ∧
    (freshBytes n s).2.counters = s.counters ∧ (freshBytes n s).2.arrays = s.arrays ∧
    (freshBytes n s).2.vecs = s.vecs ∧ (freshBytes n s).2.hbm = s.hbm ∧
    (freshBytes n s).2.coh = s.coh ∧ (freshBytes n s).2.cores = s.cores ∧
    (freshBytes n s).2.xlt = s.xlt ∧ (freshBytes n s).2.host = s.host ∧
    (freshBytes n s).2.queues = s.queues ∧ (freshBytes n s).2.served = s.served ∧
    (freshBytes n s).2.node = s.node ∧ (freshBytes n s).2.boot = s.boot ∧
    (freshBytes n s).2.mgr = s.mgr ∧ (freshBytes n s).2.pins = s.pins ∧
    (freshBytes n s).2.sec = s.sec ∧ (freshBytes n s).2.accInfo = s.accInfo ∧
    (freshBytes n s).2.coll = s.coll ∧ (freshBytes n s).2.upd = s.upd ∧
    (freshBytes n s).2.seqs = s.seqs ∧ (freshBytes n s).2.net = s.net ∧
    (freshBytes n s).2.eth = s.eth ∧ (freshBytes n s).2.time = s.time ∧
    (freshBytes n s).2.env = s.env ∧ (freshBytes n s).2.stew = s.stew ∧
    (freshBytes n s).2.pwr = s.pwr ∧ (freshBytes n s).2.keys = s.keys := by
  simp only [freshBytes]; (repeat' split) <;> (simp [*]; done)

@[simp] theorem dropEv_fr (src : BitVec 16) (w : W64) (s : State) :
    (dropEv src w s).pending = s.pending ∧ (dropEv src w s).fresh = s.fresh ∧
    (dropEv src w s).outbox = s.outbox ∧ (dropEv src w s).now = s.now ∧
    (dropEv src w s).ticks = s.ticks ∧ (dropEv src w s).edges = s.edges ∧
    (dropEv src w s).counters = s.counters ∧ (dropEv src w s).arrays = s.arrays ∧
    (dropEv src w s).vecs = s.vecs ∧ (dropEv src w s).hbm = s.hbm ∧ (dropEv src w s).coh = s.coh ∧
    (dropEv src w s).cores = s.cores ∧ (dropEv src w s).xlt = s.xlt ∧
    (dropEv src w s).host = s.host ∧ (dropEv src w s).queues = s.queues ∧
    (dropEv src w s).served = s.served ∧ (dropEv src w s).node = s.node ∧
    (dropEv src w s).boot = s.boot ∧ (dropEv src w s).mgr = s.mgr ∧
    (dropEv src w s).pins = s.pins ∧ (dropEv src w s).sec = s.sec ∧
    (dropEv src w s).accInfo = s.accInfo ∧ (dropEv src w s).coll = s.coll ∧
    (dropEv src w s).upd = s.upd ∧ (dropEv src w s).seqs = s.seqs ∧ (dropEv src w s).net = s.net ∧
    (dropEv src w s).eth = s.eth ∧ (dropEv src w s).time = s.time ∧ (dropEv src w s).env = s.env ∧
    (dropEv src w s).stew = s.stew ∧ (dropEv src w s).pwr = s.pwr ∧ (dropEv src w s).keys = s.keys := by
  simp only [dropEv]; (repeat' split) <;> (simp [*]; done)

@[simp] theorem State_modUnit_fr (s : State) (e : StreamEng) (f : StreamUnit → StreamUnit) :
    (State.modUnit s e f).pending = s.pending ∧ (State.modUnit s e f).fresh = s.fresh ∧
    (State.modUnit s e f).outbox = s.outbox ∧ (State.modUnit s e f).now = s.now ∧
    (State.modUnit s e f).ticks = s.ticks ∧ (State.modUnit s e f).events = s.events ∧
    (State.modUnit s e f).edges = s.edges ∧ (State.modUnit s e f).counters = s.counters ∧
    (State.modUnit s e f).hbm = s.hbm ∧ (State.modUnit s e f).coh = s.coh ∧
    (State.modUnit s e f).cores = s.cores ∧ (State.modUnit s e f).xlt = s.xlt ∧
    (State.modUnit s e f).host = s.host ∧ (State.modUnit s e f).queues = s.queues ∧
    (State.modUnit s e f).served = s.served ∧ (State.modUnit s e f).node = s.node ∧
    (State.modUnit s e f).boot = s.boot ∧ (State.modUnit s e f).mgr = s.mgr ∧
    (State.modUnit s e f).pins = s.pins ∧ (State.modUnit s e f).sec = s.sec ∧
    (State.modUnit s e f).accInfo = s.accInfo ∧ (State.modUnit s e f).coll = s.coll ∧
    (State.modUnit s e f).upd = s.upd ∧ (State.modUnit s e f).seqs = s.seqs ∧
    (State.modUnit s e f).net = s.net ∧ (State.modUnit s e f).eth = s.eth ∧
    (State.modUnit s e f).time = s.time ∧ (State.modUnit s e f).env = s.env ∧
    (State.modUnit s e f).stew = s.stew ∧ (State.modUnit s e f).pwr = s.pwr ∧
    (State.modUnit s e f).keys = s.keys := by
  simp only [State.modUnit]; (repeat' split) <;> (simp [*]; done)

@[simp] theorem hbmEvent_fr (k : ℕ) (stack : ℕ) (s : State) :
    (hbmEvent k stack s).pending = s.pending ∧ (hbmEvent k stack s).fresh = s.fresh ∧
    (hbmEvent k stack s).outbox = s.outbox ∧ (hbmEvent k stack s).now = s.now ∧
    (hbmEvent k stack s).ticks = s.ticks ∧ (hbmEvent k stack s).counters = s.counters ∧
    (hbmEvent k stack s).arrays = s.arrays ∧ (hbmEvent k stack s).vecs = s.vecs ∧
    (hbmEvent k stack s).hbm = s.hbm ∧ (hbmEvent k stack s).coh = s.coh ∧
    (hbmEvent k stack s).cores = s.cores ∧ (hbmEvent k stack s).xlt = s.xlt ∧
    (hbmEvent k stack s).host = s.host ∧ (hbmEvent k stack s).queues = s.queues ∧
    (hbmEvent k stack s).served = s.served ∧ (hbmEvent k stack s).node = s.node ∧
    (hbmEvent k stack s).boot = s.boot ∧ (hbmEvent k stack s).mgr = s.mgr ∧
    (hbmEvent k stack s).pins = s.pins ∧ (hbmEvent k stack s).sec = s.sec ∧
    (hbmEvent k stack s).accInfo = s.accInfo ∧ (hbmEvent k stack s).coll = s.coll ∧
    (hbmEvent k stack s).upd = s.upd ∧ (hbmEvent k stack s).seqs = s.seqs ∧
    (hbmEvent k stack s).net = s.net ∧ (hbmEvent k stack s).eth = s.eth ∧
    (hbmEvent k stack s).time = s.time ∧ (hbmEvent k stack s).env = s.env ∧
    (hbmEvent k stack s).stew = s.stew ∧ (hbmEvent k stack s).pwr = s.pwr ∧
    (hbmEvent k stack s).keys = s.keys := by
  simp only [hbmEvent]; (repeat' split) <;> (simp [*]; done)

@[simp] theorem offlineAccess_fr (stack : ℕ) (s : State) :
    (offlineAccess stack s).pending = s.pending ∧ (offlineAccess stack s).fresh = s.fresh ∧
    (offlineAccess stack s).outbox = s.outbox ∧ (offlineAccess stack s).now = s.now ∧
    (offlineAccess stack s).ticks = s.ticks ∧ (offlineAccess stack s).arrays = s.arrays ∧
    (offlineAccess stack s).vecs = s.vecs ∧ (offlineAccess stack s).hbm = s.hbm ∧
    (offlineAccess stack s).coh = s.coh ∧ (offlineAccess stack s).cores = s.cores ∧
    (offlineAccess stack s).xlt = s.xlt ∧ (offlineAccess stack s).host = s.host ∧
    (offlineAccess stack s).queues = s.queues ∧ (offlineAccess stack s).served = s.served ∧
    (offlineAccess stack s).node = s.node ∧ (offlineAccess stack s).boot = s.boot ∧
    (offlineAccess stack s).mgr = s.mgr ∧ (offlineAccess stack s).pins = s.pins ∧
    (offlineAccess stack s).sec = s.sec ∧ (offlineAccess stack s).accInfo = s.accInfo ∧
    (offlineAccess stack s).coll = s.coll ∧ (offlineAccess stack s).upd = s.upd ∧
    (offlineAccess stack s).seqs = s.seqs ∧ (offlineAccess stack s).net = s.net ∧
    (offlineAccess stack s).eth = s.eth ∧ (offlineAccess stack s).time = s.time ∧
    (offlineAccess stack s).env = s.env ∧ (offlineAccess stack s).stew = s.stew ∧
    (offlineAccess stack s).pwr = s.pwr ∧ (offlineAccess stack s).keys = s.keys := by
  simp only [offlineAccess]; (repeat' split) <;> (simp [*]; done)

@[simp] theorem logError_fr (r : ErrRec) (s : State) :
    (logError r s).pending = s.pending ∧ (logError r s).fresh = s.fresh ∧
    (logError r s).outbox = s.outbox ∧ (logError r s).now = s.now ∧
    (logError r s).ticks = s.ticks ∧ (logError r s).events = s.events ∧
    (logError r s).edges = s.edges ∧ (logError r s).counters = s.counters ∧
    (logError r s).arrays = s.arrays ∧ (logError r s).vecs = s.vecs ∧ (logError r s).coh = s.coh ∧
    (logError r s).cores = s.cores ∧ (logError r s).xlt = s.xlt ∧ (logError r s).host = s.host ∧
    (logError r s).queues = s.queues ∧ (logError r s).served = s.served ∧
    (logError r s).node = s.node ∧ (logError r s).boot = s.boot ∧ (logError r s).mgr = s.mgr ∧
    (logError r s).pins = s.pins ∧ (logError r s).sec = s.sec ∧
    (logError r s).accInfo = s.accInfo ∧ (logError r s).coll = s.coll ∧
    (logError r s).upd = s.upd ∧ (logError r s).seqs = s.seqs ∧ (logError r s).net = s.net ∧
    (logError r s).eth = s.eth ∧ (logError r s).time = s.time ∧ (logError r s).env = s.env ∧
    (logError r s).stew = s.stew ∧ (logError r s).pwr = s.pwr ∧ (logError r s).keys = s.keys := by
  simp only [logError]; (repeat' split) <;> (simp [*]; done)

@[simp] theorem dropWriteBack_fr (sn : ℕ) (s : State) :
    (dropWriteBack sn s).pending = s.pending ∧ (dropWriteBack sn s).fresh = s.fresh ∧
    (dropWriteBack sn s).outbox = s.outbox ∧ (dropWriteBack sn s).now = s.now ∧
    (dropWriteBack sn s).ticks = s.ticks ∧ (dropWriteBack sn s).events = s.events ∧
    (dropWriteBack sn s).edges = s.edges ∧ (dropWriteBack sn s).counters = s.counters ∧
    (dropWriteBack sn s).arrays = s.arrays ∧ (dropWriteBack sn s).vecs = s.vecs ∧
    (dropWriteBack sn s).coh = s.coh ∧ (dropWriteBack sn s).cores = s.cores ∧
    (dropWriteBack sn s).xlt = s.xlt ∧ (dropWriteBack sn s).host = s.host ∧
    (dropWriteBack sn s).queues = s.queues ∧ (dropWriteBack sn s).served = s.served ∧
    (dropWriteBack sn s).node = s.node ∧ (dropWriteBack sn s).boot = s.boot ∧
    (dropWriteBack sn s).mgr = s.mgr ∧ (dropWriteBack sn s).pins = s.pins ∧
    (dropWriteBack sn s).sec = s.sec ∧ (dropWriteBack sn s).accInfo = s.accInfo ∧
    (dropWriteBack sn s).coll = s.coll ∧ (dropWriteBack sn s).upd = s.upd ∧
    (dropWriteBack sn s).seqs = s.seqs ∧ (dropWriteBack sn s).net = s.net ∧
    (dropWriteBack sn s).eth = s.eth ∧ (dropWriteBack sn s).time = s.time ∧
    (dropWriteBack sn s).env = s.env ∧ (dropWriteBack sn s).stew = s.stew ∧
    (dropWriteBack sn s).pwr = s.pwr ∧ (dropWriteBack sn s).keys = s.keys := by
  simp only [dropWriteBack]; (repeat' split) <;> (simp [*]; done)

@[simp] theorem stackWrite_fr (sn : ℕ) (d : List Byte) (poison : Bool) (s : State) :
    (stackWrite sn d poison s).pending = s.pending ∧ (stackWrite sn d poison s).fresh = s.fresh ∧
    (stackWrite sn d poison s).outbox = s.outbox ∧ (stackWrite sn d poison s).now = s.now ∧
    (stackWrite sn d poison s).ticks = s.ticks ∧ (stackWrite sn d poison s).arrays = s.arrays ∧
    (stackWrite sn d poison s).vecs = s.vecs ∧ (stackWrite sn d poison s).coh = s.coh ∧
    (stackWrite sn d poison s).cores = s.cores ∧ (stackWrite sn d poison s).xlt = s.xlt ∧
    (stackWrite sn d poison s).host = s.host ∧ (stackWrite sn d poison s).queues = s.queues ∧
    (stackWrite sn d poison s).served = s.served ∧ (stackWrite sn d poison s).node = s.node ∧
    (stackWrite sn d poison s).boot = s.boot ∧ (stackWrite sn d poison s).mgr = s.mgr ∧
    (stackWrite sn d poison s).pins = s.pins ∧ (stackWrite sn d poison s).sec = s.sec ∧
    (stackWrite sn d poison s).accInfo = s.accInfo ∧ (stackWrite sn d poison s).coll = s.coll ∧
    (stackWrite sn d poison s).upd = s.upd ∧ (stackWrite sn d poison s).seqs = s.seqs ∧
    (stackWrite sn d poison s).net = s.net ∧ (stackWrite sn d poison s).eth = s.eth ∧
    (stackWrite sn d poison s).time = s.time ∧ (stackWrite sn d poison s).env = s.env ∧
    (stackWrite sn d poison s).stew = s.stew ∧ (stackWrite sn d poison s).pwr = s.pwr ∧
    (stackWrite sn d poison s).keys = s.keys := by
  simp only [stackWrite]; (repeat' split) <;> (simp [*]; done)

@[simp] theorem pageCorrection_fr (stack : ℕ) (page : ℕ) (s : State) :
    (pageCorrection stack page s).pending = s.pending ∧
    (pageCorrection stack page s).fresh = s.fresh ∧
    (pageCorrection stack page s).outbox = s.outbox ∧ (pageCorrection stack page s).now = s.now ∧
    (pageCorrection stack page s).ticks = s.ticks ∧
    (pageCorrection stack page s).counters = s.counters ∧
    (pageCorrection stack page s).arrays = s.arrays ∧ (pageCorrection stack page s).vecs = s.vecs ∧
    (pageCorrection stack page s).coh = s.coh ∧ (pageCorrection stack page s).cores = s.cores ∧
    (pageCorrection stack page s).xlt = s.xlt ∧ (pageCorrection stack page s).host = s.host ∧
    (pageCorrection stack page s).queues = s.queues ∧
    (pageCorrection stack page s).served = s.served ∧ (pageCorrection stack page s).node = s.node ∧
    (pageCorrection stack page s).boot = s.boot ∧ (pageCorrection stack page s).mgr = s.mgr ∧
    (pageCorrection stack page s).pins = s.pins ∧ (pageCorrection stack page s).sec = s.sec ∧
    (pageCorrection stack page s).accInfo = s.accInfo ∧
    (pageCorrection stack page s).coll = s.coll ∧ (pageCorrection stack page s).upd = s.upd ∧
    (pageCorrection stack page s).seqs = s.seqs ∧ (pageCorrection stack page s).net = s.net ∧
    (pageCorrection stack page s).eth = s.eth ∧ (pageCorrection stack page s).time = s.time ∧
    (pageCorrection stack page s).env = s.env ∧ (pageCorrection stack page s).stew = s.stew ∧
    (pageCorrection stack page s).pwr = s.pwr ∧ (pageCorrection stack page s).keys = s.keys := by
  simp only [pageCorrection]; (repeat' split) <;> (simp [*]; done)

@[simp] theorem pinCorrection_fr (pc : ℕ) (pin : ℕ) (s : State) :
    (pinCorrection pc pin s).pending = s.pending ∧ (pinCorrection pc pin s).fresh = s.fresh ∧
    (pinCorrection pc pin s).outbox = s.outbox ∧ (pinCorrection pc pin s).now = s.now ∧
    (pinCorrection pc pin s).ticks = s.ticks ∧ (pinCorrection pc pin s).counters = s.counters ∧
    (pinCorrection pc pin s).arrays = s.arrays ∧ (pinCorrection pc pin s).vecs = s.vecs ∧
    (pinCorrection pc pin s).coh = s.coh ∧ (pinCorrection pc pin s).cores = s.cores ∧
    (pinCorrection pc pin s).xlt = s.xlt ∧ (pinCorrection pc pin s).host = s.host ∧
    (pinCorrection pc pin s).queues = s.queues ∧ (pinCorrection pc pin s).served = s.served ∧
    (pinCorrection pc pin s).node = s.node ∧ (pinCorrection pc pin s).boot = s.boot ∧
    (pinCorrection pc pin s).mgr = s.mgr ∧ (pinCorrection pc pin s).sec = s.sec ∧
    (pinCorrection pc pin s).accInfo = s.accInfo ∧ (pinCorrection pc pin s).coll = s.coll ∧
    (pinCorrection pc pin s).upd = s.upd ∧ (pinCorrection pc pin s).seqs = s.seqs ∧
    (pinCorrection pc pin s).net = s.net ∧ (pinCorrection pc pin s).eth = s.eth ∧
    (pinCorrection pc pin s).time = s.time ∧ (pinCorrection pc pin s).env = s.env ∧
    (pinCorrection pc pin s).stew = s.stew ∧ (pinCorrection pc pin s).pwr = s.pwr ∧
    (pinCorrection pc pin s).keys = s.keys := by
  simp only [pinCorrection]; (repeat' split) <;> (simp [*]; done)

@[simp] theorem noteCorrected_fr (pc : ℕ) (sn : ℕ) (fix : List (ℕ × ℕ)) (d : List Byte) (s : State) :
    (noteCorrected pc sn fix d s).pending = s.pending ∧
    (noteCorrected pc sn fix d s).fresh = s.fresh ∧
    (noteCorrected pc sn fix d s).outbox = s.outbox ∧ (noteCorrected pc sn fix d s).now = s.now ∧
    (noteCorrected pc sn fix d s).ticks = s.ticks ∧
    (noteCorrected pc sn fix d s).arrays = s.arrays ∧ (noteCorrected pc sn fix d s).vecs = s.vecs ∧
    (noteCorrected pc sn fix d s).coh = s.coh ∧ (noteCorrected pc sn fix d s).cores = s.cores ∧
    (noteCorrected pc sn fix d s).xlt = s.xlt ∧ (noteCorrected pc sn fix d s).host = s.host ∧
    (noteCorrected pc sn fix d s).queues = s.queues ∧
    (noteCorrected pc sn fix d s).served = s.served ∧ (noteCorrected pc sn fix d s).node = s.node ∧
    (noteCorrected pc sn fix d s).boot = s.boot ∧ (noteCorrected pc sn fix d s).mgr = s.mgr ∧
    (noteCorrected pc sn fix d s).sec = s.sec ∧ (noteCorrected pc sn fix d s).accInfo = s.accInfo ∧
    (noteCorrected pc sn fix d s).coll = s.coll ∧ (noteCorrected pc sn fix d s).upd = s.upd ∧
    (noteCorrected pc sn fix d s).seqs = s.seqs ∧ (noteCorrected pc sn fix d s).net = s.net ∧
    (noteCorrected pc sn fix d s).eth = s.eth ∧ (noteCorrected pc sn fix d s).time = s.time ∧
    (noteCorrected pc sn fix d s).env = s.env ∧ (noteCorrected pc sn fix d s).stew = s.stew ∧
    (noteCorrected pc sn fix d s).pwr = s.pwr ∧ (noteCorrected pc sn fix d s).keys = s.keys := by
  simp only [noteCorrected]; (repeat' split) <;> (simp [*]; done)

@[simp] theorem noteUncorrectable_fr (pc : ℕ) (sn : ℕ) (s : State) :
    (noteUncorrectable pc sn s).pending = s.pending ∧ (noteUncorrectable pc sn s).fresh = s.fresh ∧
    (noteUncorrectable pc sn s).outbox = s.outbox ∧ (noteUncorrectable pc sn s).now = s.now ∧
    (noteUncorrectable pc sn s).ticks = s.ticks ∧ (noteUncorrectable pc sn s).arrays = s.arrays ∧
    (noteUncorrectable pc sn s).vecs = s.vecs ∧ (noteUncorrectable pc sn s).coh = s.coh ∧
    (noteUncorrectable pc sn s).cores = s.cores ∧ (noteUncorrectable pc sn s).xlt = s.xlt ∧
    (noteUncorrectable pc sn s).host = s.host ∧ (noteUncorrectable pc sn s).queues = s.queues ∧
    (noteUncorrectable pc sn s).served = s.served ∧ (noteUncorrectable pc sn s).node = s.node ∧
    (noteUncorrectable pc sn s).boot = s.boot ∧ (noteUncorrectable pc sn s).mgr = s.mgr ∧
    (noteUncorrectable pc sn s).pins = s.pins ∧ (noteUncorrectable pc sn s).sec = s.sec ∧
    (noteUncorrectable pc sn s).accInfo = s.accInfo ∧ (noteUncorrectable pc sn s).coll = s.coll ∧
    (noteUncorrectable pc sn s).upd = s.upd ∧ (noteUncorrectable pc sn s).seqs = s.seqs ∧
    (noteUncorrectable pc sn s).net = s.net ∧ (noteUncorrectable pc sn s).eth = s.eth ∧
    (noteUncorrectable pc sn s).time = s.time ∧ (noteUncorrectable pc sn s).env = s.env ∧
    (noteUncorrectable pc sn s).stew = s.stew ∧ (noteUncorrectable pc sn s).pwr = s.pwr ∧
    (noteUncorrectable pc sn s).keys = s.keys := by
  simp only [noteUncorrectable]; (repeat' split) <;> (simp [*]; done)

@[simp] theorem stackRead_fr (sn : ℕ) (s : State) :
    (stackRead sn s).2.pending = s.pending ∧ (stackRead sn s).2.fresh = s.fresh ∧
    (stackRead sn s).2.outbox = s.outbox ∧ (stackRead sn s).2.now = s.now ∧
    (stackRead sn s).2.ticks = s.ticks ∧ (stackRead sn s).2.arrays = s.arrays ∧
    (stackRead sn s).2.vecs = s.vecs ∧ (stackRead sn s).2.coh = s.coh ∧
    (stackRead sn s).2.cores = s.cores ∧ (stackRead sn s).2.xlt = s.xlt ∧
    (stackRead sn s).2.host = s.host ∧ (stackRead sn s).2.queues = s.queues ∧
    (stackRead sn s).2.served = s.served ∧ (stackRead sn s).2.node = s.node ∧
    (stackRead sn s).2.boot = s.boot ∧ (stackRead sn s).2.mgr = s.mgr ∧
    (stackRead sn s).2.sec = s.sec ∧ (stackRead sn s).2.accInfo = s.accInfo ∧
    (stackRead sn s).2.coll = s.coll ∧ (stackRead sn s).2.upd = s.upd ∧
    (stackRead sn s).2.seqs = s.seqs ∧ (stackRead sn s).2.net = s.net ∧
    (stackRead sn s).2.eth = s.eth ∧ (stackRead sn s).2.time = s.time ∧
    (stackRead sn s).2.env = s.env ∧ (stackRead sn s).2.stew = s.stew ∧
    (stackRead sn s).2.pwr = s.pwr ∧ (stackRead sn s).2.keys = s.keys := by
  simp only [stackRead]; (repeat' split) <;> (simp [*]; done)

@[simp] theorem mergeRead_fr (sn : ℕ) (s : State) :
    (mergeRead sn s).2.pending = s.pending ∧ (mergeRead sn s).2.fresh = s.fresh ∧
    (mergeRead sn s).2.outbox = s.outbox ∧ (mergeRead sn s).2.now = s.now ∧
    (mergeRead sn s).2.ticks = s.ticks ∧ (mergeRead sn s).2.arrays = s.arrays ∧
    (mergeRead sn s).2.vecs = s.vecs ∧ (mergeRead sn s).2.coh = s.coh ∧
    (mergeRead sn s).2.cores = s.cores ∧ (mergeRead sn s).2.xlt = s.xlt ∧
    (mergeRead sn s).2.host = s.host ∧ (mergeRead sn s).2.queues = s.queues ∧
    (mergeRead sn s).2.served = s.served ∧ (mergeRead sn s).2.node = s.node ∧
    (mergeRead sn s).2.boot = s.boot ∧ (mergeRead sn s).2.mgr = s.mgr ∧
    (mergeRead sn s).2.sec = s.sec ∧ (mergeRead sn s).2.accInfo = s.accInfo ∧
    (mergeRead sn s).2.coll = s.coll ∧ (mergeRead sn s).2.upd = s.upd ∧
    (mergeRead sn s).2.seqs = s.seqs ∧ (mergeRead sn s).2.net = s.net ∧
    (mergeRead sn s).2.eth = s.eth ∧ (mergeRead sn s).2.time = s.time ∧
    (mergeRead sn s).2.env = s.env ∧ (mergeRead sn s).2.stew = s.stew ∧
    (mergeRead sn s).2.pwr = s.pwr ∧ (mergeRead sn s).2.keys = s.keys := by
  simp only [mergeRead]; (repeat' split) <;> (simp [*]; done)

@[simp] theorem flushSector_fr (e : WcbEntry) (k : ℕ) (s : State) :
    (flushSector e k s).pending = s.pending ∧ (flushSector e k s).fresh = s.fresh ∧
    (flushSector e k s).outbox = s.outbox ∧ (flushSector e k s).now = s.now ∧
    (flushSector e k s).ticks = s.ticks ∧ (flushSector e k s).arrays = s.arrays ∧
    (flushSector e k s).vecs = s.vecs ∧ (flushSector e k s).coh = s.coh ∧
    (flushSector e k s).cores = s.cores ∧ (flushSector e k s).xlt = s.xlt ∧
    (flushSector e k s).host = s.host ∧ (flushSector e k s).queues = s.queues ∧
    (flushSector e k s).served = s.served ∧ (flushSector e k s).node = s.node ∧
    (flushSector e k s).boot = s.boot ∧ (flushSector e k s).mgr = s.mgr ∧
    (flushSector e k s).sec = s.sec ∧ (flushSector e k s).accInfo = s.accInfo ∧
    (flushSector e k s).coll = s.coll ∧ (flushSector e k s).upd = s.upd ∧
    (flushSector e k s).seqs = s.seqs ∧ (flushSector e k s).net = s.net ∧
    (flushSector e k s).eth = s.eth ∧ (flushSector e k s).time = s.time ∧
    (flushSector e k s).env = s.env ∧ (flushSector e k s).stew = s.stew ∧
    (flushSector e k s).pwr = s.pwr ∧ (flushSector e k s).keys = s.keys := by
  simp only [flushSector]; (repeat' split) <;> (simp [*]; done)

@[simp] theorem leaveEntry_fr (e : WcbEntry) (s : State) :
    (leaveEntry e s).pending = s.pending ∧ (leaveEntry e s).fresh = s.fresh ∧
    (leaveEntry e s).outbox = s.outbox ∧ (leaveEntry e s).now = s.now ∧
    (leaveEntry e s).ticks = s.ticks ∧ (leaveEntry e s).arrays = s.arrays ∧
    (leaveEntry e s).vecs = s.vecs ∧ (leaveEntry e s).coh = s.coh ∧
    (leaveEntry e s).cores = s.cores ∧ (leaveEntry e s).xlt = s.xlt ∧
    (leaveEntry e s).host = s.host ∧ (leaveEntry e s).queues = s.queues ∧
    (leaveEntry e s).served = s.served ∧ (leaveEntry e s).node = s.node ∧
    (leaveEntry e s).boot = s.boot ∧ (leaveEntry e s).mgr = s.mgr ∧ (leaveEntry e s).sec = s.sec ∧
    (leaveEntry e s).accInfo = s.accInfo ∧ (leaveEntry e s).coll = s.coll ∧
    (leaveEntry e s).upd = s.upd ∧ (leaveEntry e s).seqs = s.seqs ∧ (leaveEntry e s).net = s.net ∧
    (leaveEntry e s).eth = s.eth ∧ (leaveEntry e s).time = s.time ∧ (leaveEntry e s).env = s.env ∧
    (leaveEntry e s).stew = s.stew ∧ (leaveEntry e s).pwr = s.pwr ∧ (leaveEntry e s).keys = s.keys := by
  simp only [leaveEntry]; (repeat' split) <;> (simp [*]; done)

@[simp] theorem wcbWrite_fr (line : ℕ) (bs : List (ℕ × Byte)) (s : State) :
    (wcbWrite line bs s).pending = s.pending ∧ (wcbWrite line bs s).fresh = s.fresh ∧
    (wcbWrite line bs s).outbox = s.outbox ∧ (wcbWrite line bs s).now = s.now ∧
    (wcbWrite line bs s).ticks = s.ticks ∧ (wcbWrite line bs s).arrays = s.arrays ∧
    (wcbWrite line bs s).vecs = s.vecs ∧ (wcbWrite line bs s).coh = s.coh ∧
    (wcbWrite line bs s).cores = s.cores ∧ (wcbWrite line bs s).xlt = s.xlt ∧
    (wcbWrite line bs s).host = s.host ∧ (wcbWrite line bs s).queues = s.queues ∧
    (wcbWrite line bs s).served = s.served ∧ (wcbWrite line bs s).node = s.node ∧
    (wcbWrite line bs s).boot = s.boot ∧ (wcbWrite line bs s).mgr = s.mgr ∧
    (wcbWrite line bs s).sec = s.sec ∧ (wcbWrite line bs s).accInfo = s.accInfo ∧
    (wcbWrite line bs s).coll = s.coll ∧ (wcbWrite line bs s).upd = s.upd ∧
    (wcbWrite line bs s).seqs = s.seqs ∧ (wcbWrite line bs s).net = s.net ∧
    (wcbWrite line bs s).eth = s.eth ∧ (wcbWrite line bs s).time = s.time ∧
    (wcbWrite line bs s).env = s.env ∧ (wcbWrite line bs s).stew = s.stew ∧
    (wcbWrite line bs s).pwr = s.pwr ∧ (wcbWrite line bs s).keys = s.keys := by
  simp only [wcbWrite]; (repeat' split) <;> (simp [*]; done)

@[simp] theorem controllerRead_fr (sn : ℕ) (s : State) :
    (controllerRead sn s).2.pending = s.pending ∧ (controllerRead sn s).2.fresh = s.fresh ∧
    (controllerRead sn s).2.outbox = s.outbox ∧ (controllerRead sn s).2.now = s.now ∧
    (controllerRead sn s).2.ticks = s.ticks ∧ (controllerRead sn s).2.arrays = s.arrays ∧
    (controllerRead sn s).2.vecs = s.vecs ∧ (controllerRead sn s).2.coh = s.coh ∧
    (controllerRead sn s).2.cores = s.cores ∧ (controllerRead sn s).2.xlt = s.xlt ∧
    (controllerRead sn s).2.host = s.host ∧ (controllerRead sn s).2.queues = s.queues ∧
    (controllerRead sn s).2.served = s.served ∧ (controllerRead sn s).2.node = s.node ∧
    (controllerRead sn s).2.boot = s.boot ∧ (controllerRead sn s).2.mgr = s.mgr ∧
    (controllerRead sn s).2.sec = s.sec ∧ (controllerRead sn s).2.accInfo = s.accInfo ∧
    (controllerRead sn s).2.coll = s.coll ∧ (controllerRead sn s).2.upd = s.upd ∧
    (controllerRead sn s).2.seqs = s.seqs ∧ (controllerRead sn s).2.net = s.net ∧
    (controllerRead sn s).2.eth = s.eth ∧ (controllerRead sn s).2.time = s.time ∧
    (controllerRead sn s).2.env = s.env ∧ (controllerRead sn s).2.stew = s.stew ∧
    (controllerRead sn s).2.pwr = s.pwr ∧ (controllerRead sn s).2.keys = s.keys := by
  simp only [controllerRead]; (repeat' split) <;> (simp [*]; done)

@[simp] theorem controllerWrite_fr (sn : ℕ) (d : List Byte) (poison : Bool) (s : State) :
    (controllerWrite sn d poison s).pending = s.pending ∧
    (controllerWrite sn d poison s).fresh = s.fresh ∧
    (controllerWrite sn d poison s).outbox = s.outbox ∧
    (controllerWrite sn d poison s).now = s.now ∧ (controllerWrite sn d poison s).ticks = s.ticks ∧
    (controllerWrite sn d poison s).arrays = s.arrays ∧
    (controllerWrite sn d poison s).vecs = s.vecs ∧ (controllerWrite sn d poison s).coh = s.coh ∧
    (controllerWrite sn d poison s).cores = s.cores ∧ (controllerWrite sn d poison s).xlt = s.xlt ∧
    (controllerWrite sn d poison s).host = s.host ∧
    (controllerWrite sn d poison s).queues = s.queues ∧
    (controllerWrite sn d poison s).served = s.served ∧
    (controllerWrite sn d poison s).node = s.node ∧ (controllerWrite sn d poison s).boot = s.boot ∧
    (controllerWrite sn d poison s).mgr = s.mgr ∧ (controllerWrite sn d poison s).sec = s.sec ∧
    (controllerWrite sn d poison s).accInfo = s.accInfo ∧
    (controllerWrite sn d poison s).coll = s.coll ∧ (controllerWrite sn d poison s).upd = s.upd ∧
    (controllerWrite sn d poison s).seqs = s.seqs ∧ (controllerWrite sn d poison s).net = s.net ∧
    (controllerWrite sn d poison s).eth = s.eth ∧ (controllerWrite sn d poison s).time = s.time ∧
    (controllerWrite sn d poison s).env = s.env ∧ (controllerWrite sn d poison s).stew = s.stew ∧
    (controllerWrite sn d poison s).pwr = s.pwr ∧ (controllerWrite sn d poison s).keys = s.keys := by
  simp only [controllerWrite]; (repeat' split) <;> (simp [*]; done)

@[simp] theorem controllerWritePart_fr (sn : ℕ) (off : ℕ) (bs : List Byte) (poison : Bool) (s : State) :
    (controllerWritePart sn off bs poison s).pending = s.pending ∧
    (controllerWritePart sn off bs poison s).fresh = s.fresh ∧
    (controllerWritePart sn off bs poison s).outbox = s.outbox ∧
    (controllerWritePart sn off bs poison s).now = s.now ∧
    (controllerWritePart sn off bs poison s).ticks = s.ticks ∧
    (controllerWritePart sn off bs poison s).arrays = s.arrays ∧
    (controllerWritePart sn off bs poison s).vecs = s.vecs ∧
    (controllerWritePart sn off bs poison s).coh = s.coh ∧
    (controllerWritePart sn off bs poison s).cores = s.cores ∧
    (controllerWritePart sn off bs poison s).xlt = s.xlt ∧
    (controllerWritePart sn off bs poison s).host = s.host ∧
    (controllerWritePart sn off bs poison s).queues = s.queues ∧
    (controllerWritePart sn off bs poison s).served = s.served ∧
    (controllerWritePart sn off bs poison s).node = s.node ∧
    (controllerWritePart sn off bs poison s).boot = s.boot ∧
    (controllerWritePart sn off bs poison s).mgr = s.mgr ∧
    (controllerWritePart sn off bs poison s).sec = s.sec ∧
    (controllerWritePart sn off bs poison s).accInfo = s.accInfo ∧
    (controllerWritePart sn off bs poison s).coll = s.coll ∧
    (controllerWritePart sn off bs poison s).upd = s.upd ∧
    (controllerWritePart sn off bs poison s).seqs = s.seqs ∧
    (controllerWritePart sn off bs poison s).net = s.net ∧
    (controllerWritePart sn off bs poison s).eth = s.eth ∧
    (controllerWritePart sn off bs poison s).time = s.time ∧
    (controllerWritePart sn off bs poison s).env = s.env ∧
    (controllerWritePart sn off bs poison s).stew = s.stew ∧
    (controllerWritePart sn off bs poison s).pwr = s.pwr ∧
    (controllerWritePart sn off bs poison s).keys = s.keys := by
  simp only [controllerWritePart]; (repeat' split) <;> (simp [*]; done)

@[simp] theorem writeBackDirty_fr (l : CLine) (s : State) :
    (writeBackDirty l s).pending = s.pending ∧ (writeBackDirty l s).fresh = s.fresh ∧
    (writeBackDirty l s).outbox = s.outbox ∧ (writeBackDirty l s).now = s.now ∧
    (writeBackDirty l s).ticks = s.ticks ∧ (writeBackDirty l s).arrays = s.arrays ∧
    (writeBackDirty l s).vecs = s.vecs ∧ (writeBackDirty l s).coh = s.coh ∧
    (writeBackDirty l s).cores = s.cores ∧ (writeBackDirty l s).xlt = s.xlt ∧
    (writeBackDirty l s).host = s.host ∧ (writeBackDirty l s).queues = s.queues ∧
    (writeBackDirty l s).served = s.served ∧ (writeBackDirty l s).node = s.node ∧
    (writeBackDirty l s).boot = s.boot ∧ (writeBackDirty l s).mgr = s.mgr ∧
    (writeBackDirty l s).sec = s.sec ∧ (writeBackDirty l s).accInfo = s.accInfo ∧
    (writeBackDirty l s).coll = s.coll ∧ (writeBackDirty l s).upd = s.upd ∧
    (writeBackDirty l s).seqs = s.seqs ∧ (writeBackDirty l s).net = s.net ∧
    (writeBackDirty l s).eth = s.eth ∧ (writeBackDirty l s).time = s.time ∧
    (writeBackDirty l s).env = s.env ∧ (writeBackDirty l s).stew = s.stew ∧
    (writeBackDirty l s).pwr = s.pwr ∧ (writeBackDirty l s).keys = s.keys := by
  simp only [writeBackDirty]; (repeat' split) <;> (simp [*]; done)

@[simp] theorem drainEvict_fr (c : ℕ) (s : State) :
    (drainEvict c s).pending = s.pending ∧ (drainEvict c s).fresh = s.fresh ∧
    (drainEvict c s).outbox = s.outbox ∧ (drainEvict c s).now = s.now ∧
    (drainEvict c s).ticks = s.ticks ∧ (drainEvict c s).arrays = s.arrays ∧
    (drainEvict c s).vecs = s.vecs ∧ (drainEvict c s).cores = s.cores ∧
    (drainEvict c s).xlt = s.xlt ∧ (drainEvict c s).host = s.host ∧
    (drainEvict c s).queues = s.queues ∧ (drainEvict c s).served = s.served ∧
    (drainEvict c s).node = s.node ∧ (drainEvict c s).boot = s.boot ∧
    (drainEvict c s).mgr = s.mgr ∧ (drainEvict c s).sec = s.sec ∧
    (drainEvict c s).accInfo = s.accInfo ∧ (drainEvict c s).coll = s.coll ∧
    (drainEvict c s).upd = s.upd ∧ (drainEvict c s).seqs = s.seqs ∧ (drainEvict c s).net = s.net ∧
    (drainEvict c s).eth = s.eth ∧ (drainEvict c s).time = s.time ∧ (drainEvict c s).env = s.env ∧
    (drainEvict c s).stew = s.stew ∧ (drainEvict c s).pwr = s.pwr ∧ (drainEvict c s).keys = s.keys := by
  simp only [drainEvict]; (repeat' split) <;> (simp [*]; done)

@[simp] theorem drainLine_fr (c : ℕ) (line : ℕ) (s : State) :
    (drainLine c line s).pending = s.pending ∧ (drainLine c line s).fresh = s.fresh ∧
    (drainLine c line s).outbox = s.outbox ∧ (drainLine c line s).now = s.now ∧
    (drainLine c line s).ticks = s.ticks ∧ (drainLine c line s).arrays = s.arrays ∧
    (drainLine c line s).vecs = s.vecs ∧ (drainLine c line s).cores = s.cores ∧
    (drainLine c line s).xlt = s.xlt ∧ (drainLine c line s).host = s.host ∧
    (drainLine c line s).queues = s.queues ∧ (drainLine c line s).served = s.served ∧
    (drainLine c line s).node = s.node ∧ (drainLine c line s).boot = s.boot ∧
    (drainLine c line s).mgr = s.mgr ∧ (drainLine c line s).sec = s.sec ∧
    (drainLine c line s).accInfo = s.accInfo ∧ (drainLine c line s).coll = s.coll ∧
    (drainLine c line s).upd = s.upd ∧ (drainLine c line s).seqs = s.seqs ∧
    (drainLine c line s).net = s.net ∧ (drainLine c line s).eth = s.eth ∧
    (drainLine c line s).time = s.time ∧ (drainLine c line s).env = s.env ∧
    (drainLine c line s).stew = s.stew ∧ (drainLine c line s).pwr = s.pwr ∧
    (drainLine c line s).keys = s.keys := by
  simp only [drainLine]; (repeat' split) <;> (simp [*]; done)

@[simp] theorem makeEvictRoom_fr (c : ℕ) (s : State) :
    (makeEvictRoom c s).pending = s.pending ∧ (makeEvictRoom c s).fresh = s.fresh ∧
    (makeEvictRoom c s).outbox = s.outbox ∧ (makeEvictRoom c s).now = s.now ∧
    (makeEvictRoom c s).ticks = s.ticks ∧ (makeEvictRoom c s).arrays = s.arrays ∧
    (makeEvictRoom c s).vecs = s.vecs ∧ (makeEvictRoom c s).cores = s.cores ∧
    (makeEvictRoom c s).xlt = s.xlt ∧ (makeEvictRoom c s).host = s.host ∧
    (makeEvictRoom c s).queues = s.queues ∧ (makeEvictRoom c s).served = s.served ∧
    (makeEvictRoom c s).node = s.node ∧ (makeEvictRoom c s).boot = s.boot ∧
    (makeEvictRoom c s).mgr = s.mgr ∧ (makeEvictRoom c s).sec = s.sec ∧
    (makeEvictRoom c s).accInfo = s.accInfo ∧ (makeEvictRoom c s).coll = s.coll ∧
    (makeEvictRoom c s).upd = s.upd ∧ (makeEvictRoom c s).seqs = s.seqs ∧
    (makeEvictRoom c s).net = s.net ∧ (makeEvictRoom c s).eth = s.eth ∧
    (makeEvictRoom c s).time = s.time ∧ (makeEvictRoom c s).env = s.env ∧
    (makeEvictRoom c s).stew = s.stew ∧ (makeEvictRoom c s).pwr = s.pwr ∧
    (makeEvictRoom c s).keys = s.keys := by
  simp only [makeEvictRoom]; (repeat' split) <;> (simp [*]; done)

@[simp] theorem chooseVictim_fr (c : ℕ) (set : ℕ) (remote : Bool) (s : State) :
    (chooseVictim c set remote s).2.pending = s.pending ∧
    (chooseVictim c set remote s).2.fresh = s.fresh ∧
    (chooseVictim c set remote s).2.outbox = s.outbox ∧
    (chooseVictim c set remote s).2.now = s.now ∧ (chooseVictim c set remote s).2.ticks = s.ticks ∧
    (chooseVictim c set remote s).2.events = s.events ∧
    (chooseVictim c set remote s).2.edges = s.edges ∧
    (chooseVictim c set remote s).2.counters = s.counters ∧
    (chooseVictim c set remote s).2.arrays = s.arrays ∧
    (chooseVictim c set remote s).2.vecs = s.vecs ∧ (chooseVictim c set remote s).2.hbm = s.hbm ∧
    (chooseVictim c set remote s).2.cores = s.cores ∧ (chooseVictim c set remote s).2.xlt = s.xlt ∧
    (chooseVictim c set remote s).2.host = s.host ∧
    (chooseVictim c set remote s).2.queues = s.queues ∧
    (chooseVictim c set remote s).2.served = s.served ∧
    (chooseVictim c set remote s).2.node = s.node ∧ (chooseVictim c set remote s).2.boot = s.boot ∧
    (chooseVictim c set remote s).2.mgr = s.mgr ∧ (chooseVictim c set remote s).2.pins = s.pins ∧
    (chooseVictim c set remote s).2.sec = s.sec ∧
    (chooseVictim c set remote s).2.accInfo = s.accInfo ∧
    (chooseVictim c set remote s).2.coll = s.coll ∧ (chooseVictim c set remote s).2.upd = s.upd ∧
    (chooseVictim c set remote s).2.seqs = s.seqs ∧ (chooseVictim c set remote s).2.net = s.net ∧
    (chooseVictim c set remote s).2.eth = s.eth ∧ (chooseVictim c set remote s).2.time = s.time ∧
    (chooseVictim c set remote s).2.env = s.env ∧ (chooseVictim c set remote s).2.stew = s.stew ∧
    (chooseVictim c set remote s).2.pwr = s.pwr ∧ (chooseVictim c set remote s).2.keys = s.keys := by
  simp only [chooseVictim]; (repeat' split) <;> (simp [*]; done)

@[simp] theorem evictWay_fr (c : ℕ) (set : ℕ) (w : ℕ) (s : State) :
    (evictWay c set w s).pending = s.pending ∧ (evictWay c set w s).fresh = s.fresh ∧
    (evictWay c set w s).outbox = s.outbox ∧ (evictWay c set w s).now = s.now ∧
    (evictWay c set w s).ticks = s.ticks ∧ (evictWay c set w s).events = s.events ∧
    (evictWay c set w s).edges = s.edges ∧ (evictWay c set w s).counters = s.counters ∧
    (evictWay c set w s).arrays = s.arrays ∧ (evictWay c set w s).vecs = s.vecs ∧
    (evictWay c set w s).hbm = s.hbm ∧ (evictWay c set w s).cores = s.cores ∧
    (evictWay c set w s).xlt = s.xlt ∧ (evictWay c set w s).host = s.host ∧
    (evictWay c set w s).queues = s.queues ∧ (evictWay c set w s).served = s.served ∧
    (evictWay c set w s).node = s.node ∧ (evictWay c set w s).boot = s.boot ∧
    (evictWay c set w s).mgr = s.mgr ∧ (evictWay c set w s).pins = s.pins ∧
    (evictWay c set w s).sec = s.sec ∧ (evictWay c set w s).accInfo = s.accInfo ∧
    (evictWay c set w s).coll = s.coll ∧ (evictWay c set w s).upd = s.upd ∧
    (evictWay c set w s).seqs = s.seqs ∧ (evictWay c set w s).net = s.net ∧
    (evictWay c set w s).eth = s.eth ∧ (evictWay c set w s).time = s.time ∧
    (evictWay c set w s).env = s.env ∧ (evictWay c set w s).stew = s.stew ∧
    (evictWay c set w s).pwr = s.pwr ∧ (evictWay c set w s).keys = s.keys := by
  simp only [evictWay]; (repeat' split) <;> (simp [*]; done)

@[simp] theorem allocWay_fr (c : ℕ) (line : ℕ) (remote : Bool) (age : ℕ) (s : State) :
    (allocWay c line remote age s).2.pending = s.pending ∧
    (allocWay c line remote age s).2.fresh = s.fresh ∧
    (allocWay c line remote age s).2.outbox = s.outbox ∧
    (allocWay c line remote age s).2.now = s.now ∧
    (allocWay c line remote age s).2.ticks = s.ticks ∧
    (allocWay c line remote age s).2.arrays = s.arrays ∧
    (allocWay c line remote age s).2.vecs = s.vecs ∧
    (allocWay c line remote age s).2.cores = s.cores ∧
    (allocWay c line remote age s).2.xlt = s.xlt ∧ (allocWay c line remote age s).2.host = s.host ∧
    (allocWay c line remote age s).2.queues = s.queues ∧
    (allocWay c line remote age s).2.served = s.served ∧
    (allocWay c line remote age s).2.node = s.node ∧
    (allocWay c line remote age s).2.boot = s.boot ∧ (allocWay c line remote age s).2.mgr = s.mgr ∧
    (allocWay c line remote age s).2.sec = s.sec ∧
    (allocWay c line remote age s).2.accInfo = s.accInfo ∧
    (allocWay c line remote age s).2.coll = s.coll ∧ (allocWay c line remote age s).2.upd = s.upd ∧
    (allocWay c line remote age s).2.seqs = s.seqs ∧ (allocWay c line remote age s).2.net = s.net ∧
    (allocWay c line remote age s).2.eth = s.eth ∧ (allocWay c line remote age s).2.time = s.time ∧
    (allocWay c line remote age s).2.env = s.env ∧ (allocWay c line remote age s).2.stew = s.stew ∧
    (allocWay c line remote age s).2.pwr = s.pwr ∧ (allocWay c line remote age s).2.keys = s.keys := by
  simp only [allocWay]; (repeat' split) <;> (simp [*]; done)

@[simp] theorem fillSectors_fr (c : ℕ) (line : ℕ) (remote : Bool) (dirty : Bool) (age : ℕ) (xs : List (ℕ × List Byte × Bool)) (s : State) :
    (fillSectors c line remote dirty age xs s).pending = s.pending ∧
    (fillSectors c line remote dirty age xs s).fresh = s.fresh ∧
    (fillSectors c line remote dirty age xs s).outbox = s.outbox ∧
    (fillSectors c line remote dirty age xs s).now = s.now ∧
    (fillSectors c line remote dirty age xs s).ticks = s.ticks ∧
    (fillSectors c line remote dirty age xs s).arrays = s.arrays ∧
    (fillSectors c line remote dirty age xs s).vecs = s.vecs ∧
    (fillSectors c line remote dirty age xs s).cores = s.cores ∧
    (fillSectors c line remote dirty age xs s).xlt = s.xlt ∧
    (fillSectors c line remote dirty age xs s).host = s.host ∧
    (fillSectors c line remote dirty age xs s).queues = s.queues ∧
    (fillSectors c line remote dirty age xs s).served = s.served ∧
    (fillSectors c line remote dirty age xs s).node = s.node ∧
    (fillSectors c line remote dirty age xs s).boot = s.boot ∧
    (fillSectors c line remote dirty age xs s).mgr = s.mgr ∧
    (fillSectors c line remote dirty age xs s).sec = s.sec ∧
    (fillSectors c line remote dirty age xs s).accInfo = s.accInfo ∧
    (fillSectors c line remote dirty age xs s).coll = s.coll ∧
    (fillSectors c line remote dirty age xs s).upd = s.upd ∧
    (fillSectors c line remote dirty age xs s).seqs = s.seqs ∧
    (fillSectors c line remote dirty age xs s).net = s.net ∧
    (fillSectors c line remote dirty age xs s).eth = s.eth ∧
    (fillSectors c line remote dirty age xs s).time = s.time ∧
    (fillSectors c line remote dirty age xs s).env = s.env ∧
    (fillSectors c line remote dirty age xs s).stew = s.stew ∧
    (fillSectors c line remote dirty age xs s).pwr = s.pwr ∧
    (fillSectors c line remote dirty age xs s).keys = s.keys := by
  simp only [fillSectors]; (repeat' split) <;> (simp [*]; done)

@[simp] theorem fetchSectors_fr (c : ℕ) (line : ℕ) (a2 : List ℕ) (a3 : State) :
    (fetchSectors c line a2 a3).2.pending = a3.pending ∧
    (fetchSectors c line a2 a3).2.fresh = a3.fresh ∧
    (fetchSectors c line a2 a3).2.outbox = a3.outbox ∧ (fetchSectors c line a2 a3).2.now = a3.now ∧
    (fetchSectors c line a2 a3).2.ticks = a3.ticks ∧
    (fetchSectors c line a2 a3).2.arrays = a3.arrays ∧
    (fetchSectors c line a2 a3).2.vecs = a3.vecs ∧ (fetchSectors c line a2 a3).2.coh = a3.coh ∧
    (fetchSectors c line a2 a3).2.cores = a3.cores ∧ (fetchSectors c line a2 a3).2.xlt = a3.xlt ∧
    (fetchSectors c line a2 a3).2.host = a3.host ∧
    (fetchSectors c line a2 a3).2.queues = a3.queues ∧
    (fetchSectors c line a2 a3).2.served = a3.served ∧
    (fetchSectors c line a2 a3).2.node = a3.node ∧ (fetchSectors c line a2 a3).2.boot = a3.boot ∧
    (fetchSectors c line a2 a3).2.mgr = a3.mgr ∧ (fetchSectors c line a2 a3).2.sec = a3.sec ∧
    (fetchSectors c line a2 a3).2.accInfo = a3.accInfo ∧
    (fetchSectors c line a2 a3).2.coll = a3.coll ∧ (fetchSectors c line a2 a3).2.upd = a3.upd ∧
    (fetchSectors c line a2 a3).2.seqs = a3.seqs ∧ (fetchSectors c line a2 a3).2.net = a3.net ∧
    (fetchSectors c line a2 a3).2.eth = a3.eth ∧ (fetchSectors c line a2 a3).2.time = a3.time ∧
    (fetchSectors c line a2 a3).2.env = a3.env ∧ (fetchSectors c line a2 a3).2.stew = a3.stew ∧
    (fetchSectors c line a2 a3).2.pwr = a3.pwr ∧ (fetchSectors c line a2 a3).2.keys = a3.keys := by
  fun_induction fetchSectors c line a2 a3 <;> (first | (simp (disch := (intros; first | (simp; done) | ((repeat' split) <;> simp))) [*]; done) | grind [controllerRead_fr])

@[simp] theorem hitAge_fr (c : ℕ) (line : ℕ) (remote : Bool) (streaming : Bool) (s : State) :
    (hitAge c line remote streaming s).pending = s.pending ∧
    (hitAge c line remote streaming s).fresh = s.fresh ∧
    (hitAge c line remote streaming s).outbox = s.outbox ∧
    (hitAge c line remote streaming s).now = s.now ∧
    (hitAge c line remote streaming s).ticks = s.ticks ∧
    (hitAge c line remote streaming s).events = s.events ∧
    (hitAge c line remote streaming s).edges = s.edges ∧
    (hitAge c line remote streaming s).counters = s.counters ∧
    (hitAge c line remote streaming s).arrays = s.arrays ∧
    (hitAge c line remote streaming s).vecs = s.vecs ∧
    (hitAge c line remote streaming s).hbm = s.hbm ∧
    (hitAge c line remote streaming s).cores = s.cores ∧
    (hitAge c line remote streaming s).xlt = s.xlt ∧
    (hitAge c line remote streaming s).host = s.host ∧
    (hitAge c line remote streaming s).queues = s.queues ∧
    (hitAge c line remote streaming s).served = s.served ∧
    (hitAge c line remote streaming s).node = s.node ∧
    (hitAge c line remote streaming s).boot = s.boot ∧
    (hitAge c line remote streaming s).mgr = s.mgr ∧
    (hitAge c line remote streaming s).pins = s.pins ∧
    (hitAge c line remote streaming s).sec = s.sec ∧
    (hitAge c line remote streaming s).accInfo = s.accInfo ∧
    (hitAge c line remote streaming s).coll = s.coll ∧
    (hitAge c line remote streaming s).upd = s.upd ∧
    (hitAge c line remote streaming s).seqs = s.seqs ∧
    (hitAge c line remote streaming s).net = s.net ∧
    (hitAge c line remote streaming s).eth = s.eth ∧
    (hitAge c line remote streaming s).time = s.time ∧
    (hitAge c line remote streaming s).env = s.env ∧
    (hitAge c line remote streaming s).stew = s.stew ∧
    (hitAge c line remote streaming s).pwr = s.pwr ∧
    (hitAge c line remote streaming s).keys = s.keys := by
  simp only [hitAge]; (repeat' split) <;> (simp [*]; done)

@[simp] theorem cisternRead_fr (c : ℕ) (line : ℕ) (ks : List ℕ) (streaming : Bool) (s : State) :
    (cisternRead c line ks streaming s).2.pending = s.pending ∧
    (cisternRead c line ks streaming s).2.fresh = s.fresh ∧
    (cisternRead c line ks streaming s).2.outbox = s.outbox ∧
    (cisternRead c line ks streaming s).2.now = s.now ∧
    (cisternRead c line ks streaming s).2.ticks = s.ticks ∧
    (cisternRead c line ks streaming s).2.arrays = s.arrays ∧
    (cisternRead c line ks streaming s).2.vecs = s.vecs ∧
    (cisternRead c line ks streaming s).2.cores = s.cores ∧
    (cisternRead c line ks streaming s).2.xlt = s.xlt ∧
    (cisternRead c line ks streaming s).2.host = s.host ∧
    (cisternRead c line ks streaming s).2.queues = s.queues ∧
    (cisternRead c line ks streaming s).2.served = s.served ∧
    (cisternRead c line ks streaming s).2.node = s.node ∧
    (cisternRead c line ks streaming s).2.boot = s.boot ∧
    (cisternRead c line ks streaming s).2.mgr = s.mgr ∧
    (cisternRead c line ks streaming s).2.sec = s.sec ∧
    (cisternRead c line ks streaming s).2.accInfo = s.accInfo ∧
    (cisternRead c line ks streaming s).2.coll = s.coll ∧
    (cisternRead c line ks streaming s).2.upd = s.upd ∧
    (cisternRead c line ks streaming s).2.seqs = s.seqs ∧
    (cisternRead c line ks streaming s).2.net = s.net ∧
    (cisternRead c line ks streaming s).2.eth = s.eth ∧
    (cisternRead c line ks streaming s).2.time = s.time ∧
    (cisternRead c line ks streaming s).2.env = s.env ∧
    (cisternRead c line ks streaming s).2.stew = s.stew ∧
    (cisternRead c line ks streaming s).2.pwr = s.pwr ∧
    (cisternRead c line ks streaming s).2.keys = s.keys := by
  simp only [cisternRead]; (repeat' split) <;> (simp [*]; done)

@[simp] theorem prefetchLine_fr (c : ℕ) (line : ℕ) (streaming : Bool) (s : State) :
    (prefetchLine c line streaming s).pending = s.pending ∧
    (prefetchLine c line streaming s).fresh = s.fresh ∧
    (prefetchLine c line streaming s).outbox = s.outbox ∧
    (prefetchLine c line streaming s).now = s.now ∧
    (prefetchLine c line streaming s).ticks = s.ticks ∧
    (prefetchLine c line streaming s).arrays = s.arrays ∧
    (prefetchLine c line streaming s).vecs = s.vecs ∧
    (prefetchLine c line streaming s).cores = s.cores ∧
    (prefetchLine c line streaming s).xlt = s.xlt ∧
    (prefetchLine c line streaming s).host = s.host ∧
    (prefetchLine c line streaming s).queues = s.queues ∧
    (prefetchLine c line streaming s).served = s.served ∧
    (prefetchLine c line streaming s).node = s.node ∧
    (prefetchLine c line streaming s).boot = s.boot ∧
    (prefetchLine c line streaming s).mgr = s.mgr ∧ (prefetchLine c line streaming s).sec = s.sec ∧
    (prefetchLine c line streaming s).accInfo = s.accInfo ∧
    (prefetchLine c line streaming s).coll = s.coll ∧
    (prefetchLine c line streaming s).upd = s.upd ∧
    (prefetchLine c line streaming s).seqs = s.seqs ∧
    (prefetchLine c line streaming s).net = s.net ∧ (prefetchLine c line streaming s).eth = s.eth ∧
    (prefetchLine c line streaming s).time = s.time ∧
    (prefetchLine c line streaming s).env = s.env ∧
    (prefetchLine c line streaming s).stew = s.stew ∧
    (prefetchLine c line streaming s).pwr = s.pwr ∧ (prefetchLine c line streaming s).keys = s.keys := by
  simp only [prefetchLine]; (repeat' split) <;> (simp [*]; done)

@[simp] theorem prefetchAfter_fr (c : ℕ) (req : ℕ) (line : ℕ) (hit : Bool) (streaming : Bool) (depth : ℕ) (s : State) :
    (prefetchAfter c req line hit streaming depth s).pending = s.pending ∧
    (prefetchAfter c req line hit streaming depth s).fresh = s.fresh ∧
    (prefetchAfter c req line hit streaming depth s).outbox = s.outbox ∧
    (prefetchAfter c req line hit streaming depth s).now = s.now ∧
    (prefetchAfter c req line hit streaming depth s).ticks = s.ticks ∧
    (prefetchAfter c req line hit streaming depth s).arrays = s.arrays ∧
    (prefetchAfter c req line hit streaming depth s).vecs = s.vecs ∧
    (prefetchAfter c req line hit streaming depth s).cores = s.cores ∧
    (prefetchAfter c req line hit streaming depth s).xlt = s.xlt ∧
    (prefetchAfter c req line hit streaming depth s).host = s.host ∧
    (prefetchAfter c req line hit streaming depth s).queues = s.queues ∧
    (prefetchAfter c req line hit streaming depth s).served = s.served ∧
    (prefetchAfter c req line hit streaming depth s).node = s.node ∧
    (prefetchAfter c req line hit streaming depth s).boot = s.boot ∧
    (prefetchAfter c req line hit streaming depth s).mgr = s.mgr ∧
    (prefetchAfter c req line hit streaming depth s).sec = s.sec ∧
    (prefetchAfter c req line hit streaming depth s).accInfo = s.accInfo ∧
    (prefetchAfter c req line hit streaming depth s).coll = s.coll ∧
    (prefetchAfter c req line hit streaming depth s).upd = s.upd ∧
    (prefetchAfter c req line hit streaming depth s).seqs = s.seqs ∧
    (prefetchAfter c req line hit streaming depth s).net = s.net ∧
    (prefetchAfter c req line hit streaming depth s).eth = s.eth ∧
    (prefetchAfter c req line hit streaming depth s).time = s.time ∧
    (prefetchAfter c req line hit streaming depth s).env = s.env ∧
    (prefetchAfter c req line hit streaming depth s).stew = s.stew ∧
    (prefetchAfter c req line hit streaming depth s).pwr = s.pwr ∧
    (prefetchAfter c req line hit streaming depth s).keys = s.keys := by
  simp only [prefetchAfter]; (repeat' split) <;> (simp [*]; done)

@[simp] theorem cisternWriteWhole_fr (c : ℕ) (line : ℕ) (xs : List (ℕ × List Byte × Bool)) (streaming : Bool) (s : State) :
    (cisternWriteWhole c line xs streaming s).pending = s.pending ∧
    (cisternWriteWhole c line xs streaming s).fresh = s.fresh ∧
    (cisternWriteWhole c line xs streaming s).outbox = s.outbox ∧
    (cisternWriteWhole c line xs streaming s).now = s.now ∧
    (cisternWriteWhole c line xs streaming s).ticks = s.ticks ∧
    (cisternWriteWhole c line xs streaming s).arrays = s.arrays ∧
    (cisternWriteWhole c line xs streaming s).vecs = s.vecs ∧
    (cisternWriteWhole c line xs streaming s).cores = s.cores ∧
    (cisternWriteWhole c line xs streaming s).xlt = s.xlt ∧
    (cisternWriteWhole c line xs streaming s).host = s.host ∧
    (cisternWriteWhole c line xs streaming s).queues = s.queues ∧
    (cisternWriteWhole c line xs streaming s).served = s.served ∧
    (cisternWriteWhole c line xs streaming s).node = s.node ∧
    (cisternWriteWhole c line xs streaming s).boot = s.boot ∧
    (cisternWriteWhole c line xs streaming s).mgr = s.mgr ∧
    (cisternWriteWhole c line xs streaming s).sec = s.sec ∧
    (cisternWriteWhole c line xs streaming s).accInfo = s.accInfo ∧
    (cisternWriteWhole c line xs streaming s).coll = s.coll ∧
    (cisternWriteWhole c line xs streaming s).upd = s.upd ∧
    (cisternWriteWhole c line xs streaming s).seqs = s.seqs ∧
    (cisternWriteWhole c line xs streaming s).net = s.net ∧
    (cisternWriteWhole c line xs streaming s).eth = s.eth ∧
    (cisternWriteWhole c line xs streaming s).time = s.time ∧
    (cisternWriteWhole c line xs streaming s).env = s.env ∧
    (cisternWriteWhole c line xs streaming s).stew = s.stew ∧
    (cisternWriteWhole c line xs streaming s).pwr = s.pwr ∧
    (cisternWriteWhole c line xs streaming s).keys = s.keys := by
  simp only [cisternWriteWhole]; (repeat' split) <;> (simp [*]; done)

@[simp] theorem homeWriteSector_fr (c : ℕ) (sn : ℕ) (off : ℕ) (bs : List Byte) (poison : Bool) (streaming : Bool) (s : State) :
    (homeWriteSector c sn off bs poison streaming s).pending = s.pending ∧
    (homeWriteSector c sn off bs poison streaming s).fresh = s.fresh ∧
    (homeWriteSector c sn off bs poison streaming s).outbox = s.outbox ∧
    (homeWriteSector c sn off bs poison streaming s).now = s.now ∧
    (homeWriteSector c sn off bs poison streaming s).ticks = s.ticks ∧
    (homeWriteSector c sn off bs poison streaming s).arrays = s.arrays ∧
    (homeWriteSector c sn off bs poison streaming s).vecs = s.vecs ∧
    (homeWriteSector c sn off bs poison streaming s).cores = s.cores ∧
    (homeWriteSector c sn off bs poison streaming s).xlt = s.xlt ∧
    (homeWriteSector c sn off bs poison streaming s).host = s.host ∧
    (homeWriteSector c sn off bs poison streaming s).queues = s.queues ∧
    (homeWriteSector c sn off bs poison streaming s).served = s.served ∧
    (homeWriteSector c sn off bs poison streaming s).node = s.node ∧
    (homeWriteSector c sn off bs poison streaming s).boot = s.boot ∧
    (homeWriteSector c sn off bs poison streaming s).mgr = s.mgr ∧
    (homeWriteSector c sn off bs poison streaming s).sec = s.sec ∧
    (homeWriteSector c sn off bs poison streaming s).accInfo = s.accInfo ∧
    (homeWriteSector c sn off bs poison streaming s).coll = s.coll ∧
    (homeWriteSector c sn off bs poison streaming s).upd = s.upd ∧
    (homeWriteSector c sn off bs poison streaming s).seqs = s.seqs ∧
    (homeWriteSector c sn off bs poison streaming s).net = s.net ∧
    (homeWriteSector c sn off bs poison streaming s).eth = s.eth ∧
    (homeWriteSector c sn off bs poison streaming s).time = s.time ∧
    (homeWriteSector c sn off bs poison streaming s).env = s.env ∧
    (homeWriteSector c sn off bs poison streaming s).stew = s.stew ∧
    (homeWriteSector c sn off bs poison streaming s).pwr = s.pwr ∧
    (homeWriteSector c sn off bs poison streaming s).keys = s.keys := by
  simp only [homeWriteSector]; (repeat' split) <;> (simp [*]; done)

@[simp] theorem countWrite_fr (line : ℕ) (ks : List ℕ) (before : State) (after : State) :
    (countWrite line ks before after).pending = after.pending ∧
    (countWrite line ks before after).fresh = after.fresh ∧
    (countWrite line ks before after).outbox = after.outbox ∧
    (countWrite line ks before after).now = after.now ∧
    (countWrite line ks before after).ticks = after.ticks ∧
    (countWrite line ks before after).arrays = after.arrays ∧
    (countWrite line ks before after).vecs = after.vecs ∧
    (countWrite line ks before after).hbm = after.hbm ∧
    (countWrite line ks before after).coh = after.coh ∧
    (countWrite line ks before after).cores = after.cores ∧
    (countWrite line ks before after).xlt = after.xlt ∧
    (countWrite line ks before after).host = after.host ∧
    (countWrite line ks before after).queues = after.queues ∧
    (countWrite line ks before after).served = after.served ∧
    (countWrite line ks before after).node = after.node ∧
    (countWrite line ks before after).boot = after.boot ∧
    (countWrite line ks before after).mgr = after.mgr ∧
    (countWrite line ks before after).pins = after.pins ∧
    (countWrite line ks before after).sec = after.sec ∧
    (countWrite line ks before after).accInfo = after.accInfo ∧
    (countWrite line ks before after).coll = after.coll ∧
    (countWrite line ks before after).upd = after.upd ∧
    (countWrite line ks before after).seqs = after.seqs ∧
    (countWrite line ks before after).net = after.net ∧
    (countWrite line ks before after).eth = after.eth ∧
    (countWrite line ks before after).time = after.time ∧
    (countWrite line ks before after).env = after.env ∧
    (countWrite line ks before after).stew = after.stew ∧
    (countWrite line ks before after).pwr = after.pwr ∧
    (countWrite line ks before after).keys = after.keys := by
  simp only [countWrite]; (repeat' split) <;> (simp [*]; done)

@[simp] theorem homeWrite_fr (a : ℕ) (bs : List Byte) (poison : Bool) (streaming : Bool) (s : State) :
    (homeWrite a bs poison streaming s).pending = s.pending ∧
    (homeWrite a bs poison streaming s).fresh = s.fresh ∧
    (homeWrite a bs poison streaming s).outbox = s.outbox ∧
    (homeWrite a bs poison streaming s).now = s.now ∧
    (homeWrite a bs poison streaming s).ticks = s.ticks ∧
    (homeWrite a bs poison streaming s).arrays = s.arrays ∧
    (homeWrite a bs poison streaming s).vecs = s.vecs ∧
    (homeWrite a bs poison streaming s).cores = s.cores ∧
    (homeWrite a bs poison streaming s).xlt = s.xlt ∧
    (homeWrite a bs poison streaming s).host = s.host ∧
    (homeWrite a bs poison streaming s).queues = s.queues ∧
    (homeWrite a bs poison streaming s).served = s.served ∧
    (homeWrite a bs poison streaming s).node = s.node ∧
    (homeWrite a bs poison streaming s).boot = s.boot ∧
    (homeWrite a bs poison streaming s).mgr = s.mgr ∧
    (homeWrite a bs poison streaming s).sec = s.sec ∧
    (homeWrite a bs poison streaming s).accInfo = s.accInfo ∧
    (homeWrite a bs poison streaming s).coll = s.coll ∧
    (homeWrite a bs poison streaming s).upd = s.upd ∧
    (homeWrite a bs poison streaming s).seqs = s.seqs ∧
    (homeWrite a bs poison streaming s).net = s.net ∧
    (homeWrite a bs poison streaming s).eth = s.eth ∧
    (homeWrite a bs poison streaming s).time = s.time ∧
    (homeWrite a bs poison streaming s).env = s.env ∧
    (homeWrite a bs poison streaming s).stew = s.stew ∧
    (homeWrite a bs poison streaming s).pwr = s.pwr ∧
    (homeWrite a bs poison streaming s).keys = s.keys := by
  simp only [homeWrite]; (repeat' split) <;> (simp [*]; done)

@[simp] theorem homeWriteLine_fr (line : ℕ) (ws : List (ℕ × List Byte × Bool)) (streaming : Bool) (s : State) :
    (homeWriteLine line ws streaming s).pending = s.pending ∧
    (homeWriteLine line ws streaming s).fresh = s.fresh ∧
    (homeWriteLine line ws streaming s).outbox = s.outbox ∧
    (homeWriteLine line ws streaming s).now = s.now ∧
    (homeWriteLine line ws streaming s).ticks = s.ticks ∧
    (homeWriteLine line ws streaming s).arrays = s.arrays ∧
    (homeWriteLine line ws streaming s).vecs = s.vecs ∧
    (homeWriteLine line ws streaming s).cores = s.cores ∧
    (homeWriteLine line ws streaming s).xlt = s.xlt ∧
    (homeWriteLine line ws streaming s).host = s.host ∧
    (homeWriteLine line ws streaming s).queues = s.queues ∧
    (homeWriteLine line ws streaming s).served = s.served ∧
    (homeWriteLine line ws streaming s).node = s.node ∧
    (homeWriteLine line ws streaming s).boot = s.boot ∧
    (homeWriteLine line ws streaming s).mgr = s.mgr ∧
    (homeWriteLine line ws streaming s).sec = s.sec ∧
    (homeWriteLine line ws streaming s).accInfo = s.accInfo ∧
    (homeWriteLine line ws streaming s).coll = s.coll ∧
    (homeWriteLine line ws streaming s).upd = s.upd ∧
    (homeWriteLine line ws streaming s).seqs = s.seqs ∧
    (homeWriteLine line ws streaming s).net = s.net ∧
    (homeWriteLine line ws streaming s).eth = s.eth ∧
    (homeWriteLine line ws streaming s).time = s.time ∧
    (homeWriteLine line ws streaming s).env = s.env ∧
    (homeWriteLine line ws streaming s).stew = s.stew ∧
    (homeWriteLine line ws streaming s).pwr = s.pwr ∧
    (homeWriteLine line ws streaming s).keys = s.keys := by
  simp only [homeWriteLine]; (repeat' split) <;> (simp [*]; done)

@[simp] theorem pdieWriteBack_fr (h : ℕ) (line : ℕ) (s : State) :
    (pdieWriteBack h line s).pending = s.pending ∧ (pdieWriteBack h line s).fresh = s.fresh ∧
    (pdieWriteBack h line s).outbox = s.outbox ∧ (pdieWriteBack h line s).now = s.now ∧
    (pdieWriteBack h line s).ticks = s.ticks ∧ (pdieWriteBack h line s).arrays = s.arrays ∧
    (pdieWriteBack h line s).vecs = s.vecs ∧ (pdieWriteBack h line s).cores = s.cores ∧
    (pdieWriteBack h line s).xlt = s.xlt ∧ (pdieWriteBack h line s).host = s.host ∧
    (pdieWriteBack h line s).queues = s.queues ∧ (pdieWriteBack h line s).served = s.served ∧
    (pdieWriteBack h line s).node = s.node ∧ (pdieWriteBack h line s).boot = s.boot ∧
    (pdieWriteBack h line s).mgr = s.mgr ∧ (pdieWriteBack h line s).sec = s.sec ∧
    (pdieWriteBack h line s).accInfo = s.accInfo ∧ (pdieWriteBack h line s).coll = s.coll ∧
    (pdieWriteBack h line s).upd = s.upd ∧ (pdieWriteBack h line s).seqs = s.seqs ∧
    (pdieWriteBack h line s).net = s.net ∧ (pdieWriteBack h line s).eth = s.eth ∧
    (pdieWriteBack h line s).time = s.time ∧ (pdieWriteBack h line s).env = s.env ∧
    (pdieWriteBack h line s).stew = s.stew ∧ (pdieWriteBack h line s).pwr = s.pwr ∧
    (pdieWriteBack h line s).keys = s.keys := by
  simp only [pdieWriteBack]; (repeat' split) <;> (simp [*]; done)

@[simp] theorem recallLine_fr (line : ℕ) (s : State) :
    (recallLine line s).pending = s.pending ∧ (recallLine line s).fresh = s.fresh ∧
    (recallLine line s).outbox = s.outbox ∧ (recallLine line s).now = s.now ∧
    (recallLine line s).ticks = s.ticks ∧ (recallLine line s).arrays = s.arrays ∧
    (recallLine line s).vecs = s.vecs ∧ (recallLine line s).cores = s.cores ∧
    (recallLine line s).xlt = s.xlt ∧ (recallLine line s).host = s.host ∧
    (recallLine line s).queues = s.queues ∧ (recallLine line s).served = s.served ∧
    (recallLine line s).node = s.node ∧ (recallLine line s).boot = s.boot ∧
    (recallLine line s).mgr = s.mgr ∧ (recallLine line s).sec = s.sec ∧
    (recallLine line s).accInfo = s.accInfo ∧ (recallLine line s).coll = s.coll ∧
    (recallLine line s).upd = s.upd ∧ (recallLine line s).seqs = s.seqs ∧
    (recallLine line s).net = s.net ∧ (recallLine line s).eth = s.eth ∧
    (recallLine line s).time = s.time ∧ (recallLine line s).env = s.env ∧
    (recallLine line s).stew = s.stew ∧ (recallLine line s).pwr = s.pwr ∧
    (recallLine line s).keys = s.keys := by
  simp only [recallLine]; (repeat' split) <;> (simp [*]; done)

@[simp] theorem invalidate_fr (line : ℕ) (x : Holder) (s : State) :
    (invalidate line x s).pending = s.pending ∧ (invalidate line x s).fresh = s.fresh ∧
    (invalidate line x s).outbox = s.outbox ∧ (invalidate line x s).now = s.now ∧
    (invalidate line x s).ticks = s.ticks ∧ (invalidate line x s).events = s.events ∧
    (invalidate line x s).edges = s.edges ∧ (invalidate line x s).counters = s.counters ∧
    (invalidate line x s).arrays = s.arrays ∧ (invalidate line x s).vecs = s.vecs ∧
    (invalidate line x s).hbm = s.hbm ∧ (invalidate line x s).cores = s.cores ∧
    (invalidate line x s).xlt = s.xlt ∧ (invalidate line x s).host = s.host ∧
    (invalidate line x s).queues = s.queues ∧ (invalidate line x s).served = s.served ∧
    (invalidate line x s).node = s.node ∧ (invalidate line x s).boot = s.boot ∧
    (invalidate line x s).mgr = s.mgr ∧ (invalidate line x s).pins = s.pins ∧
    (invalidate line x s).sec = s.sec ∧ (invalidate line x s).accInfo = s.accInfo ∧
    (invalidate line x s).coll = s.coll ∧ (invalidate line x s).upd = s.upd ∧
    (invalidate line x s).seqs = s.seqs ∧ (invalidate line x s).net = s.net ∧
    (invalidate line x s).eth = s.eth ∧ (invalidate line x s).time = s.time ∧
    (invalidate line x s).env = s.env ∧ (invalidate line x s).stew = s.stew ∧
    (invalidate line x s).pwr = s.pwr ∧ (invalidate line x s).keys = s.keys := by
  simp only [invalidate]; (repeat' split) <;> (simp [*]; done)

@[simp] theorem invalidateAll_fr (line : ℕ) (s : State) :
    (invalidateAll line s).pending = s.pending ∧ (invalidateAll line s).fresh = s.fresh ∧
    (invalidateAll line s).outbox = s.outbox ∧ (invalidateAll line s).now = s.now ∧
    (invalidateAll line s).ticks = s.ticks ∧ (invalidateAll line s).arrays = s.arrays ∧
    (invalidateAll line s).vecs = s.vecs ∧ (invalidateAll line s).cores = s.cores ∧
    (invalidateAll line s).xlt = s.xlt ∧ (invalidateAll line s).host = s.host ∧
    (invalidateAll line s).queues = s.queues ∧ (invalidateAll line s).served = s.served ∧
    (invalidateAll line s).node = s.node ∧ (invalidateAll line s).boot = s.boot ∧
    (invalidateAll line s).mgr = s.mgr ∧ (invalidateAll line s).sec = s.sec ∧
    (invalidateAll line s).accInfo = s.accInfo ∧ (invalidateAll line s).coll = s.coll ∧
    (invalidateAll line s).upd = s.upd ∧ (invalidateAll line s).seqs = s.seqs ∧
    (invalidateAll line s).net = s.net ∧ (invalidateAll line s).eth = s.eth ∧
    (invalidateAll line s).time = s.time ∧ (invalidateAll line s).env = s.env ∧
    (invalidateAll line s).stew = s.stew ∧ (invalidateAll line s).pwr = s.pwr ∧
    (invalidateAll line s).keys = s.keys := by
  simp only [invalidateAll]; (repeat' split) <;> (simp [*]; done)

@[simp] theorem dirRoom_fr (line : ℕ) (s : State) :
    (dirRoom line s).pending = s.pending ∧ (dirRoom line s).fresh = s.fresh ∧
    (dirRoom line s).outbox = s.outbox ∧ (dirRoom line s).now = s.now ∧
    (dirRoom line s).ticks = s.ticks ∧ (dirRoom line s).arrays = s.arrays ∧
    (dirRoom line s).vecs = s.vecs ∧ (dirRoom line s).cores = s.cores ∧
    (dirRoom line s).xlt = s.xlt ∧ (dirRoom line s).host = s.host ∧
    (dirRoom line s).queues = s.queues ∧ (dirRoom line s).served = s.served ∧
    (dirRoom line s).node = s.node ∧ (dirRoom line s).boot = s.boot ∧
    (dirRoom line s).mgr = s.mgr ∧ (dirRoom line s).sec = s.sec ∧
    (dirRoom line s).accInfo = s.accInfo ∧ (dirRoom line s).coll = s.coll ∧
    (dirRoom line s).upd = s.upd ∧ (dirRoom line s).seqs = s.seqs ∧ (dirRoom line s).net = s.net ∧
    (dirRoom line s).eth = s.eth ∧ (dirRoom line s).time = s.time ∧ (dirRoom line s).env = s.env ∧
    (dirRoom line s).stew = s.stew ∧ (dirRoom line s).pwr = s.pwr ∧ (dirRoom line s).keys = s.keys := by
  simp only [dirRoom]; (repeat' split) <;> (simp [*]; done)

@[simp] theorem addHolder_fr (line : ℕ) (x : Holder) (s : State) :
    (addHolder line x s).pending = s.pending ∧ (addHolder line x s).fresh = s.fresh ∧
    (addHolder line x s).outbox = s.outbox ∧ (addHolder line x s).now = s.now ∧
    (addHolder line x s).ticks = s.ticks ∧ (addHolder line x s).arrays = s.arrays ∧
    (addHolder line x s).vecs = s.vecs ∧ (addHolder line x s).cores = s.cores ∧
    (addHolder line x s).xlt = s.xlt ∧ (addHolder line x s).host = s.host ∧
    (addHolder line x s).queues = s.queues ∧ (addHolder line x s).served = s.served ∧
    (addHolder line x s).node = s.node ∧ (addHolder line x s).boot = s.boot ∧
    (addHolder line x s).mgr = s.mgr ∧ (addHolder line x s).sec = s.sec ∧
    (addHolder line x s).accInfo = s.accInfo ∧ (addHolder line x s).coll = s.coll ∧
    (addHolder line x s).upd = s.upd ∧ (addHolder line x s).seqs = s.seqs ∧
    (addHolder line x s).net = s.net ∧ (addHolder line x s).eth = s.eth ∧
    (addHolder line x s).time = s.time ∧ (addHolder line x s).env = s.env ∧
    (addHolder line x s).stew = s.stew ∧ (addHolder line x s).pwr = s.pwr ∧
    (addHolder line x s).keys = s.keys := by
  simp only [addHolder]; (repeat' split) <;> (simp [*]; done)

@[simp] theorem readSectors_fr (req : ℕ) (line : ℕ) (ks : List ℕ) (streaming : Bool) (noRemote : Bool) (depth : ℕ) (s : State) :
    (readSectors req line ks streaming noRemote depth s).2.pending = s.pending ∧
    (readSectors req line ks streaming noRemote depth s).2.fresh = s.fresh ∧
    (readSectors req line ks streaming noRemote depth s).2.outbox = s.outbox ∧
    (readSectors req line ks streaming noRemote depth s).2.now = s.now ∧
    (readSectors req line ks streaming noRemote depth s).2.ticks = s.ticks ∧
    (readSectors req line ks streaming noRemote depth s).2.arrays = s.arrays ∧
    (readSectors req line ks streaming noRemote depth s).2.vecs = s.vecs ∧
    (readSectors req line ks streaming noRemote depth s).2.cores = s.cores ∧
    (readSectors req line ks streaming noRemote depth s).2.xlt = s.xlt ∧
    (readSectors req line ks streaming noRemote depth s).2.host = s.host ∧
    (readSectors req line ks streaming noRemote depth s).2.queues = s.queues ∧
    (readSectors req line ks streaming noRemote depth s).2.served = s.served ∧
    (readSectors req line ks streaming noRemote depth s).2.node = s.node ∧
    (readSectors req line ks streaming noRemote depth s).2.boot = s.boot ∧
    (readSectors req line ks streaming noRemote depth s).2.mgr = s.mgr ∧
    (readSectors req line ks streaming noRemote depth s).2.sec = s.sec ∧
    (readSectors req line ks streaming noRemote depth s).2.accInfo = s.accInfo ∧
    (readSectors req line ks streaming noRemote depth s).2.coll = s.coll ∧
    (readSectors req line ks streaming noRemote depth s).2.upd = s.upd ∧
    (readSectors req line ks streaming noRemote depth s).2.seqs = s.seqs ∧
    (readSectors req line ks streaming noRemote depth s).2.net = s.net ∧
    (readSectors req line ks streaming noRemote depth s).2.eth = s.eth ∧
    (readSectors req line ks streaming noRemote depth s).2.time = s.time ∧
    (readSectors req line ks streaming noRemote depth s).2.env = s.env ∧
    (readSectors req line ks streaming noRemote depth s).2.stew = s.stew ∧
    (readSectors req line ks streaming noRemote depth s).2.pwr = s.pwr ∧
    (readSectors req line ks streaming noRemote depth s).2.keys = s.keys := by
  simp only [readSectors]; (repeat' split) <;> (simp [*]; done)

@[simp] theorem engineSectors_fr (req : ℕ) (line : ℕ) (ks : List ℕ) (streaming : Bool) (noRemote : Bool) (depth : ℕ) (s : State) :
    (engineSectors req line ks streaming noRemote depth s).2.pending = s.pending ∧
    (engineSectors req line ks streaming noRemote depth s).2.fresh = s.fresh ∧
    (engineSectors req line ks streaming noRemote depth s).2.outbox = s.outbox ∧
    (engineSectors req line ks streaming noRemote depth s).2.now = s.now ∧
    (engineSectors req line ks streaming noRemote depth s).2.ticks = s.ticks ∧
    (engineSectors req line ks streaming noRemote depth s).2.arrays = s.arrays ∧
    (engineSectors req line ks streaming noRemote depth s).2.vecs = s.vecs ∧
    (engineSectors req line ks streaming noRemote depth s).2.cores = s.cores ∧
    (engineSectors req line ks streaming noRemote depth s).2.xlt = s.xlt ∧
    (engineSectors req line ks streaming noRemote depth s).2.host = s.host ∧
    (engineSectors req line ks streaming noRemote depth s).2.queues = s.queues ∧
    (engineSectors req line ks streaming noRemote depth s).2.served = s.served ∧
    (engineSectors req line ks streaming noRemote depth s).2.node = s.node ∧
    (engineSectors req line ks streaming noRemote depth s).2.boot = s.boot ∧
    (engineSectors req line ks streaming noRemote depth s).2.mgr = s.mgr ∧
    (engineSectors req line ks streaming noRemote depth s).2.sec = s.sec ∧
    (engineSectors req line ks streaming noRemote depth s).2.accInfo = s.accInfo ∧
    (engineSectors req line ks streaming noRemote depth s).2.coll = s.coll ∧
    (engineSectors req line ks streaming noRemote depth s).2.upd = s.upd ∧
    (engineSectors req line ks streaming noRemote depth s).2.seqs = s.seqs ∧
    (engineSectors req line ks streaming noRemote depth s).2.net = s.net ∧
    (engineSectors req line ks streaming noRemote depth s).2.eth = s.eth ∧
    (engineSectors req line ks streaming noRemote depth s).2.time = s.time ∧
    (engineSectors req line ks streaming noRemote depth s).2.env = s.env ∧
    (engineSectors req line ks streaming noRemote depth s).2.stew = s.stew ∧
    (engineSectors req line ks streaming noRemote depth s).2.pwr = s.pwr ∧
    (engineSectors req line ks streaming noRemote depth s).2.keys = s.keys := by
  simp only [engineSectors]; (repeat' split) <;> (simp [*]; done)

@[simp] theorem engineRead_fr (req : ℕ) (streaming : Bool) (noRemote : Bool) (depth : ℕ) (a4 : ℕ) (a5 : ℕ) (a6 : ℕ) (a7 : State) :
    (engineRead req streaming noRemote depth a4 a5 a6 a7).2.pending = a7.pending ∧
    (engineRead req streaming noRemote depth a4 a5 a6 a7).2.fresh = a7.fresh ∧
    (engineRead req streaming noRemote depth a4 a5 a6 a7).2.outbox = a7.outbox ∧
    (engineRead req streaming noRemote depth a4 a5 a6 a7).2.now = a7.now ∧
    (engineRead req streaming noRemote depth a4 a5 a6 a7).2.ticks = a7.ticks ∧
    (engineRead req streaming noRemote depth a4 a5 a6 a7).2.arrays = a7.arrays ∧
    (engineRead req streaming noRemote depth a4 a5 a6 a7).2.vecs = a7.vecs ∧
    (engineRead req streaming noRemote depth a4 a5 a6 a7).2.cores = a7.cores ∧
    (engineRead req streaming noRemote depth a4 a5 a6 a7).2.xlt = a7.xlt ∧
    (engineRead req streaming noRemote depth a4 a5 a6 a7).2.host = a7.host ∧
    (engineRead req streaming noRemote depth a4 a5 a6 a7).2.queues = a7.queues ∧
    (engineRead req streaming noRemote depth a4 a5 a6 a7).2.served = a7.served ∧
    (engineRead req streaming noRemote depth a4 a5 a6 a7).2.node = a7.node ∧
    (engineRead req streaming noRemote depth a4 a5 a6 a7).2.boot = a7.boot ∧
    (engineRead req streaming noRemote depth a4 a5 a6 a7).2.mgr = a7.mgr ∧
    (engineRead req streaming noRemote depth a4 a5 a6 a7).2.sec = a7.sec ∧
    (engineRead req streaming noRemote depth a4 a5 a6 a7).2.accInfo = a7.accInfo ∧
    (engineRead req streaming noRemote depth a4 a5 a6 a7).2.coll = a7.coll ∧
    (engineRead req streaming noRemote depth a4 a5 a6 a7).2.upd = a7.upd ∧
    (engineRead req streaming noRemote depth a4 a5 a6 a7).2.seqs = a7.seqs ∧
    (engineRead req streaming noRemote depth a4 a5 a6 a7).2.net = a7.net ∧
    (engineRead req streaming noRemote depth a4 a5 a6 a7).2.eth = a7.eth ∧
    (engineRead req streaming noRemote depth a4 a5 a6 a7).2.time = a7.time ∧
    (engineRead req streaming noRemote depth a4 a5 a6 a7).2.env = a7.env ∧
    (engineRead req streaming noRemote depth a4 a5 a6 a7).2.stew = a7.stew ∧
    (engineRead req streaming noRemote depth a4 a5 a6 a7).2.pwr = a7.pwr ∧
    (engineRead req streaming noRemote depth a4 a5 a6 a7).2.keys = a7.keys := by
  fun_induction engineRead req streaming noRemote depth a4 a5 a6 a7 <;> (first | (simp (disch := (intros; first | (simp; done) | ((repeat' split) <;> simp))) [*]; done) | grind [engineSectors_fr])

@[simp] theorem poolRead_fr (req : ℕ) (a : ℕ) (n : ℕ) (streaming : Bool) (noRemote : Bool) (s : State) :
    (poolRead req a n streaming noRemote s).2.pending = s.pending ∧
    (poolRead req a n streaming noRemote s).2.fresh = s.fresh ∧
    (poolRead req a n streaming noRemote s).2.outbox = s.outbox ∧
    (poolRead req a n streaming noRemote s).2.now = s.now ∧
    (poolRead req a n streaming noRemote s).2.ticks = s.ticks ∧
    (poolRead req a n streaming noRemote s).2.arrays = s.arrays ∧
    (poolRead req a n streaming noRemote s).2.vecs = s.vecs ∧
    (poolRead req a n streaming noRemote s).2.cores = s.cores ∧
    (poolRead req a n streaming noRemote s).2.xlt = s.xlt ∧
    (poolRead req a n streaming noRemote s).2.host = s.host ∧
    (poolRead req a n streaming noRemote s).2.queues = s.queues ∧
    (poolRead req a n streaming noRemote s).2.served = s.served ∧
    (poolRead req a n streaming noRemote s).2.node = s.node ∧
    (poolRead req a n streaming noRemote s).2.boot = s.boot ∧
    (poolRead req a n streaming noRemote s).2.mgr = s.mgr ∧
    (poolRead req a n streaming noRemote s).2.sec = s.sec ∧
    (poolRead req a n streaming noRemote s).2.accInfo = s.accInfo ∧
    (poolRead req a n streaming noRemote s).2.coll = s.coll ∧
    (poolRead req a n streaming noRemote s).2.upd = s.upd ∧
    (poolRead req a n streaming noRemote s).2.seqs = s.seqs ∧
    (poolRead req a n streaming noRemote s).2.net = s.net ∧
    (poolRead req a n streaming noRemote s).2.eth = s.eth ∧
    (poolRead req a n streaming noRemote s).2.time = s.time ∧
    (poolRead req a n streaming noRemote s).2.env = s.env ∧
    (poolRead req a n streaming noRemote s).2.stew = s.stew ∧
    (poolRead req a n streaming noRemote s).2.pwr = s.pwr ∧
    (poolRead req a n streaming noRemote s).2.keys = s.keys := by
  simp only [poolRead]; (repeat' split) <;> (simp [*]; done)

@[simp] theorem breakReservations_fr (line : ℕ) (except : Option ℕ) (s : State) :
    (breakReservations line except s).pending = s.pending ∧
    (breakReservations line except s).fresh = s.fresh ∧
    (breakReservations line except s).outbox = s.outbox ∧
    (breakReservations line except s).now = s.now ∧
    (breakReservations line except s).ticks = s.ticks ∧
    (breakReservations line except s).events = s.events ∧
    (breakReservations line except s).edges = s.edges ∧
    (breakReservations line except s).counters = s.counters ∧
    (breakReservations line except s).arrays = s.arrays ∧
    (breakReservations line except s).vecs = s.vecs ∧
    (breakReservations line except s).hbm = s.hbm ∧ (breakReservations line except s).coh = s.coh ∧
    (breakReservations line except s).xlt = s.xlt ∧
    (breakReservations line except s).host = s.host ∧
    (breakReservations line except s).queues = s.queues ∧
    (breakReservations line except s).served = s.served ∧
    (breakReservations line except s).node = s.node ∧
    (breakReservations line except s).boot = s.boot ∧
    (breakReservations line except s).mgr = s.mgr ∧
    (breakReservations line except s).pins = s.pins ∧
    (breakReservations line except s).sec = s.sec ∧
    (breakReservations line except s).accInfo = s.accInfo ∧
    (breakReservations line except s).coll = s.coll ∧
    (breakReservations line except s).upd = s.upd ∧
    (breakReservations line except s).seqs = s.seqs ∧
    (breakReservations line except s).net = s.net ∧ (breakReservations line except s).eth = s.eth ∧
    (breakReservations line except s).time = s.time ∧
    (breakReservations line except s).env = s.env ∧
    (breakReservations line except s).stew = s.stew ∧
    (breakReservations line except s).pwr = s.pwr ∧ (breakReservations line except s).keys = s.keys := by
  simp only [breakReservations]; (repeat' split) <;> (simp [*]; done)

@[simp] theorem lineWrite_fr (line : ℕ) (ws : List (ℕ × List Byte × Bool)) (streaming : Bool) (tag : HoldTag) (s : State) :
    (lineWrite line ws streaming tag s).pending = s.pending ∧
    (lineWrite line ws streaming tag s).fresh = s.fresh ∧
    (lineWrite line ws streaming tag s).outbox = s.outbox ∧
    (lineWrite line ws streaming tag s).now = s.now ∧
    (lineWrite line ws streaming tag s).ticks = s.ticks ∧
    (lineWrite line ws streaming tag s).arrays = s.arrays ∧
    (lineWrite line ws streaming tag s).vecs = s.vecs ∧
    (lineWrite line ws streaming tag s).xlt = s.xlt ∧
    (lineWrite line ws streaming tag s).host = s.host ∧
    (lineWrite line ws streaming tag s).queues = s.queues ∧
    (lineWrite line ws streaming tag s).served = s.served ∧
    (lineWrite line ws streaming tag s).node = s.node ∧
    (lineWrite line ws streaming tag s).boot = s.boot ∧
    (lineWrite line ws streaming tag s).mgr = s.mgr ∧
    (lineWrite line ws streaming tag s).sec = s.sec ∧
    (lineWrite line ws streaming tag s).accInfo = s.accInfo ∧
    (lineWrite line ws streaming tag s).coll = s.coll ∧
    (lineWrite line ws streaming tag s).upd = s.upd ∧
    (lineWrite line ws streaming tag s).seqs = s.seqs ∧
    (lineWrite line ws streaming tag s).net = s.net ∧
    (lineWrite line ws streaming tag s).eth = s.eth ∧
    (lineWrite line ws streaming tag s).time = s.time ∧
    (lineWrite line ws streaming tag s).env = s.env ∧
    (lineWrite line ws streaming tag s).stew = s.stew ∧
    (lineWrite line ws streaming tag s).pwr = s.pwr ∧
    (lineWrite line ws streaming tag s).keys = s.keys := by
  simp only [lineWrite]; (repeat' split) <;> (simp [*]; done)

@[simp] theorem engineWrite_fr (streaming : Bool) (tag : HoldTag) (a2 : ℕ) (a3 : ℕ) (a4 : List (Byte × Bool)) (a5 : State) :
    (engineWrite streaming tag a2 a3 a4 a5).pending = a5.pending ∧
    (engineWrite streaming tag a2 a3 a4 a5).fresh = a5.fresh ∧
    (engineWrite streaming tag a2 a3 a4 a5).outbox = a5.outbox ∧
    (engineWrite streaming tag a2 a3 a4 a5).now = a5.now ∧
    (engineWrite streaming tag a2 a3 a4 a5).ticks = a5.ticks ∧
    (engineWrite streaming tag a2 a3 a4 a5).arrays = a5.arrays ∧
    (engineWrite streaming tag a2 a3 a4 a5).vecs = a5.vecs ∧
    (engineWrite streaming tag a2 a3 a4 a5).xlt = a5.xlt ∧
    (engineWrite streaming tag a2 a3 a4 a5).host = a5.host ∧
    (engineWrite streaming tag a2 a3 a4 a5).queues = a5.queues ∧
    (engineWrite streaming tag a2 a3 a4 a5).served = a5.served ∧
    (engineWrite streaming tag a2 a3 a4 a5).node = a5.node ∧
    (engineWrite streaming tag a2 a3 a4 a5).boot = a5.boot ∧
    (engineWrite streaming tag a2 a3 a4 a5).mgr = a5.mgr ∧
    (engineWrite streaming tag a2 a3 a4 a5).sec = a5.sec ∧
    (engineWrite streaming tag a2 a3 a4 a5).accInfo = a5.accInfo ∧
    (engineWrite streaming tag a2 a3 a4 a5).coll = a5.coll ∧
    (engineWrite streaming tag a2 a3 a4 a5).upd = a5.upd ∧
    (engineWrite streaming tag a2 a3 a4 a5).seqs = a5.seqs ∧
    (engineWrite streaming tag a2 a3 a4 a5).net = a5.net ∧
    (engineWrite streaming tag a2 a3 a4 a5).eth = a5.eth ∧
    (engineWrite streaming tag a2 a3 a4 a5).time = a5.time ∧
    (engineWrite streaming tag a2 a3 a4 a5).env = a5.env ∧
    (engineWrite streaming tag a2 a3 a4 a5).stew = a5.stew ∧
    (engineWrite streaming tag a2 a3 a4 a5).pwr = a5.pwr ∧
    (engineWrite streaming tag a2 a3 a4 a5).keys = a5.keys := by
  fun_induction engineWrite streaming tag a2 a3 a4 a5 <;> (first | (simp (disch := (intros; first | (simp; done) | ((repeat' split) <;> simp))) [*]; done) | grind [lineWrite_fr])

@[simp] theorem poolWriteMarked_fr (a : ℕ) (bs : List (Byte × Bool)) (streaming : Bool) (tag : HoldTag) (s : State) :
    (poolWriteMarked a bs streaming tag s).pending = s.pending ∧
    (poolWriteMarked a bs streaming tag s).fresh = s.fresh ∧
    (poolWriteMarked a bs streaming tag s).outbox = s.outbox ∧
    (poolWriteMarked a bs streaming tag s).now = s.now ∧
    (poolWriteMarked a bs streaming tag s).ticks = s.ticks ∧
    (poolWriteMarked a bs streaming tag s).arrays = s.arrays ∧
    (poolWriteMarked a bs streaming tag s).vecs = s.vecs ∧
    (poolWriteMarked a bs streaming tag s).xlt = s.xlt ∧
    (poolWriteMarked a bs streaming tag s).host = s.host ∧
    (poolWriteMarked a bs streaming tag s).queues = s.queues ∧
    (poolWriteMarked a bs streaming tag s).served = s.served ∧
    (poolWriteMarked a bs streaming tag s).node = s.node ∧
    (poolWriteMarked a bs streaming tag s).boot = s.boot ∧
    (poolWriteMarked a bs streaming tag s).mgr = s.mgr ∧
    (poolWriteMarked a bs streaming tag s).sec = s.sec ∧
    (poolWriteMarked a bs streaming tag s).accInfo = s.accInfo ∧
    (poolWriteMarked a bs streaming tag s).coll = s.coll ∧
    (poolWriteMarked a bs streaming tag s).upd = s.upd ∧
    (poolWriteMarked a bs streaming tag s).seqs = s.seqs ∧
    (poolWriteMarked a bs streaming tag s).net = s.net ∧
    (poolWriteMarked a bs streaming tag s).eth = s.eth ∧
    (poolWriteMarked a bs streaming tag s).time = s.time ∧
    (poolWriteMarked a bs streaming tag s).env = s.env ∧
    (poolWriteMarked a bs streaming tag s).stew = s.stew ∧
    (poolWriteMarked a bs streaming tag s).pwr = s.pwr ∧
    (poolWriteMarked a bs streaming tag s).keys = s.keys := by
  simp only [poolWriteMarked]; (repeat' split) <;> (simp [*]; done)

@[simp] theorem reqFail_fr (p : ℕ) (s : State) :
    (reqFail p s).pending = s.pending ∧ (reqFail p s).fresh = s.fresh ∧
    (reqFail p s).outbox = s.outbox ∧ (reqFail p s).now = s.now ∧ (reqFail p s).ticks = s.ticks ∧
    (reqFail p s).arrays = s.arrays ∧ (reqFail p s).vecs = s.vecs ∧ (reqFail p s).hbm = s.hbm ∧
    (reqFail p s).coh = s.coh ∧ (reqFail p s).cores = s.cores ∧ (reqFail p s).xlt = s.xlt ∧
    (reqFail p s).host = s.host ∧ (reqFail p s).queues = s.queues ∧
    (reqFail p s).served = s.served ∧ (reqFail p s).node = s.node ∧ (reqFail p s).boot = s.boot ∧
    (reqFail p s).mgr = s.mgr ∧ (reqFail p s).pins = s.pins ∧ (reqFail p s).sec = s.sec ∧
    (reqFail p s).accInfo = s.accInfo ∧ (reqFail p s).coll = s.coll ∧ (reqFail p s).upd = s.upd ∧
    (reqFail p s).seqs = s.seqs ∧ (reqFail p s).net = s.net ∧ (reqFail p s).eth = s.eth ∧
    (reqFail p s).time = s.time ∧ (reqFail p s).env = s.env ∧ (reqFail p s).stew = s.stew ∧
    (reqFail p s).pwr = s.pwr ∧ (reqFail p s).keys = s.keys := by
  simp only [reqFail]; (repeat' split) <;> (simp [*]; done)

@[simp] theorem hostLineRead_fr (half : ℕ) (a : ℕ) (n : ℕ) (streaming : Bool) (s : State) :
    (hostLineRead half a n streaming s).2.pending = s.pending ∧
    (hostLineRead half a n streaming s).2.fresh = s.fresh ∧
    (hostLineRead half a n streaming s).2.now = s.now ∧
    (hostLineRead half a n streaming s).2.ticks = s.ticks ∧
    (hostLineRead half a n streaming s).2.arrays = s.arrays ∧
    (hostLineRead half a n streaming s).2.vecs = s.vecs ∧
    (hostLineRead half a n streaming s).2.hbm = s.hbm ∧
    (hostLineRead half a n streaming s).2.coh = s.coh ∧
    (hostLineRead half a n streaming s).2.cores = s.cores ∧
    (hostLineRead half a n streaming s).2.xlt = s.xlt ∧
    (hostLineRead half a n streaming s).2.queues = s.queues ∧
    (hostLineRead half a n streaming s).2.served = s.served ∧
    (hostLineRead half a n streaming s).2.node = s.node ∧
    (hostLineRead half a n streaming s).2.boot = s.boot ∧
    (hostLineRead half a n streaming s).2.mgr = s.mgr ∧
    (hostLineRead half a n streaming s).2.pins = s.pins ∧
    (hostLineRead half a n streaming s).2.sec = s.sec ∧
    (hostLineRead half a n streaming s).2.accInfo = s.accInfo ∧
    (hostLineRead half a n streaming s).2.coll = s.coll ∧
    (hostLineRead half a n streaming s).2.upd = s.upd ∧
    (hostLineRead half a n streaming s).2.seqs = s.seqs ∧
    (hostLineRead half a n streaming s).2.net = s.net ∧
    (hostLineRead half a n streaming s).2.eth = s.eth ∧
    (hostLineRead half a n streaming s).2.time = s.time ∧
    (hostLineRead half a n streaming s).2.env = s.env ∧
    (hostLineRead half a n streaming s).2.stew = s.stew ∧
    (hostLineRead half a n streaming s).2.pwr = s.pwr ∧
    (hostLineRead half a n streaming s).2.keys = s.keys := by
  simp only [hostLineRead]; (repeat' split) <;> (simp [*]; done)

@[simp] theorem hostReadFuel_fr (half : ℕ) (streaming : Bool) (a2 : ℕ) (a3 : ℕ) (a4 : ℕ) (a5 : State) :
    (hostReadFuel half streaming a2 a3 a4 a5).2.pending = a5.pending ∧
    (hostReadFuel half streaming a2 a3 a4 a5).2.fresh = a5.fresh ∧
    (hostReadFuel half streaming a2 a3 a4 a5).2.now = a5.now ∧
    (hostReadFuel half streaming a2 a3 a4 a5).2.ticks = a5.ticks ∧
    (hostReadFuel half streaming a2 a3 a4 a5).2.arrays = a5.arrays ∧
    (hostReadFuel half streaming a2 a3 a4 a5).2.vecs = a5.vecs ∧
    (hostReadFuel half streaming a2 a3 a4 a5).2.hbm = a5.hbm ∧
    (hostReadFuel half streaming a2 a3 a4 a5).2.coh = a5.coh ∧
    (hostReadFuel half streaming a2 a3 a4 a5).2.cores = a5.cores ∧
    (hostReadFuel half streaming a2 a3 a4 a5).2.xlt = a5.xlt ∧
    (hostReadFuel half streaming a2 a3 a4 a5).2.queues = a5.queues ∧
    (hostReadFuel half streaming a2 a3 a4 a5).2.served = a5.served ∧
    (hostReadFuel half streaming a2 a3 a4 a5).2.node = a5.node ∧
    (hostReadFuel half streaming a2 a3 a4 a5).2.boot = a5.boot ∧
    (hostReadFuel half streaming a2 a3 a4 a5).2.mgr = a5.mgr ∧
    (hostReadFuel half streaming a2 a3 a4 a5).2.pins = a5.pins ∧
    (hostReadFuel half streaming a2 a3 a4 a5).2.sec = a5.sec ∧
    (hostReadFuel half streaming a2 a3 a4 a5).2.accInfo = a5.accInfo ∧
    (hostReadFuel half streaming a2 a3 a4 a5).2.coll = a5.coll ∧
    (hostReadFuel half streaming a2 a3 a4 a5).2.upd = a5.upd ∧
    (hostReadFuel half streaming a2 a3 a4 a5).2.seqs = a5.seqs ∧
    (hostReadFuel half streaming a2 a3 a4 a5).2.net = a5.net ∧
    (hostReadFuel half streaming a2 a3 a4 a5).2.eth = a5.eth ∧
    (hostReadFuel half streaming a2 a3 a4 a5).2.time = a5.time ∧
    (hostReadFuel half streaming a2 a3 a4 a5).2.env = a5.env ∧
    (hostReadFuel half streaming a2 a3 a4 a5).2.stew = a5.stew ∧
    (hostReadFuel half streaming a2 a3 a4 a5).2.pwr = a5.pwr ∧
    (hostReadFuel half streaming a2 a3 a4 a5).2.keys = a5.keys := by
  fun_induction hostReadFuel half streaming a2 a3 a4 a5 <;> (first | (simp (disch := (intros; first | (simp; done) | ((repeat' split) <;> simp))) [*]; done) | grind [hostLineRead_fr])

@[simp] theorem hostRead_fr (half : ℕ) (a : ℕ) (n : ℕ) (streaming : Bool) (s : State) :
    (hostRead half a n streaming s).2.pending = s.pending ∧
    (hostRead half a n streaming s).2.fresh = s.fresh ∧
    (hostRead half a n streaming s).2.now = s.now ∧
    (hostRead half a n streaming s).2.ticks = s.ticks ∧
    (hostRead half a n streaming s).2.arrays = s.arrays ∧
    (hostRead half a n streaming s).2.vecs = s.vecs ∧
    (hostRead half a n streaming s).2.hbm = s.hbm ∧ (hostRead half a n streaming s).2.coh = s.coh ∧
    (hostRead half a n streaming s).2.cores = s.cores ∧
    (hostRead half a n streaming s).2.xlt = s.xlt ∧
    (hostRead half a n streaming s).2.queues = s.queues ∧
    (hostRead half a n streaming s).2.served = s.served ∧
    (hostRead half a n streaming s).2.node = s.node ∧
    (hostRead half a n streaming s).2.boot = s.boot ∧
    (hostRead half a n streaming s).2.mgr = s.mgr ∧
    (hostRead half a n streaming s).2.pins = s.pins ∧
    (hostRead half a n streaming s).2.sec = s.sec ∧
    (hostRead half a n streaming s).2.accInfo = s.accInfo ∧
    (hostRead half a n streaming s).2.coll = s.coll ∧
    (hostRead half a n streaming s).2.upd = s.upd ∧
    (hostRead half a n streaming s).2.seqs = s.seqs ∧
    (hostRead half a n streaming s).2.net = s.net ∧ (hostRead half a n streaming s).2.eth = s.eth ∧
    (hostRead half a n streaming s).2.time = s.time ∧
    (hostRead half a n streaming s).2.env = s.env ∧
    (hostRead half a n streaming s).2.stew = s.stew ∧
    (hostRead half a n streaming s).2.pwr = s.pwr ∧ (hostRead half a n streaming s).2.keys = s.keys := by
  simp only [hostRead]; (repeat' split) <;> (simp [*]; done)

@[simp] theorem dropHostLines_fr (a : ℕ) (n : ℕ) (s : State) :
    (dropHostLines a n s).pending = s.pending ∧ (dropHostLines a n s).fresh = s.fresh ∧
    (dropHostLines a n s).outbox = s.outbox ∧ (dropHostLines a n s).now = s.now ∧
    (dropHostLines a n s).ticks = s.ticks ∧ (dropHostLines a n s).events = s.events ∧
    (dropHostLines a n s).edges = s.edges ∧ (dropHostLines a n s).counters = s.counters ∧
    (dropHostLines a n s).arrays = s.arrays ∧ (dropHostLines a n s).vecs = s.vecs ∧
    (dropHostLines a n s).hbm = s.hbm ∧ (dropHostLines a n s).coh = s.coh ∧
    (dropHostLines a n s).cores = s.cores ∧ (dropHostLines a n s).xlt = s.xlt ∧
    (dropHostLines a n s).queues = s.queues ∧ (dropHostLines a n s).served = s.served ∧
    (dropHostLines a n s).node = s.node ∧ (dropHostLines a n s).boot = s.boot ∧
    (dropHostLines a n s).mgr = s.mgr ∧ (dropHostLines a n s).pins = s.pins ∧
    (dropHostLines a n s).sec = s.sec ∧ (dropHostLines a n s).accInfo = s.accInfo ∧
    (dropHostLines a n s).coll = s.coll ∧ (dropHostLines a n s).upd = s.upd ∧
    (dropHostLines a n s).seqs = s.seqs ∧ (dropHostLines a n s).net = s.net ∧
    (dropHostLines a n s).eth = s.eth ∧ (dropHostLines a n s).time = s.time ∧
    (dropHostLines a n s).env = s.env ∧ (dropHostLines a n s).stew = s.stew ∧
    (dropHostLines a n s).pwr = s.pwr ∧ (dropHostLines a n s).keys = s.keys := by
  simp only [dropHostLines]; (repeat' split) <;> (simp [*]; done)

@[simp] theorem hostWriteRun_fr (half : ℕ) (a : ℕ) (bs : List Byte) (ep : Bool) (s : State) :
    (hostWriteRun half a bs ep s).pending = s.pending ∧
    (hostWriteRun half a bs ep s).fresh = s.fresh ∧ (hostWriteRun half a bs ep s).now = s.now ∧
    (hostWriteRun half a bs ep s).ticks = s.ticks ∧
    (hostWriteRun half a bs ep s).arrays = s.arrays ∧ (hostWriteRun half a bs ep s).vecs = s.vecs ∧
    (hostWriteRun half a bs ep s).hbm = s.hbm ∧ (hostWriteRun half a bs ep s).coh = s.coh ∧
    (hostWriteRun half a bs ep s).cores = s.cores ∧ (hostWriteRun half a bs ep s).xlt = s.xlt ∧
    (hostWriteRun half a bs ep s).queues = s.queues ∧
    (hostWriteRun half a bs ep s).served = s.served ∧ (hostWriteRun half a bs ep s).node = s.node ∧
    (hostWriteRun half a bs ep s).boot = s.boot ∧ (hostWriteRun half a bs ep s).mgr = s.mgr ∧
    (hostWriteRun half a bs ep s).pins = s.pins ∧ (hostWriteRun half a bs ep s).sec = s.sec ∧
    (hostWriteRun half a bs ep s).accInfo = s.accInfo ∧
    (hostWriteRun half a bs ep s).coll = s.coll ∧ (hostWriteRun half a bs ep s).upd = s.upd ∧
    (hostWriteRun half a bs ep s).seqs = s.seqs ∧ (hostWriteRun half a bs ep s).net = s.net ∧
    (hostWriteRun half a bs ep s).eth = s.eth ∧ (hostWriteRun half a bs ep s).time = s.time ∧
    (hostWriteRun half a bs ep s).env = s.env ∧ (hostWriteRun half a bs ep s).stew = s.stew ∧
    (hostWriteRun half a bs ep s).pwr = s.pwr ∧ (hostWriteRun half a bs ep s).keys = s.keys := by
  simp only [hostWriteRun]; (repeat' split) <;> (simp [*]; done)

@[simp] theorem hostWrite_fr (half : ℕ) (a : ℕ) (bs : List (Byte × Bool)) (s : State) :
    (hostWrite half a bs s).pending = s.pending ∧ (hostWrite half a bs s).fresh = s.fresh ∧
    (hostWrite half a bs s).now = s.now ∧ (hostWrite half a bs s).ticks = s.ticks ∧
    (hostWrite half a bs s).arrays = s.arrays ∧ (hostWrite half a bs s).vecs = s.vecs ∧
    (hostWrite half a bs s).hbm = s.hbm ∧ (hostWrite half a bs s).coh = s.coh ∧
    (hostWrite half a bs s).cores = s.cores ∧ (hostWrite half a bs s).xlt = s.xlt ∧
    (hostWrite half a bs s).queues = s.queues ∧ (hostWrite half a bs s).served = s.served ∧
    (hostWrite half a bs s).node = s.node ∧ (hostWrite half a bs s).boot = s.boot ∧
    (hostWrite half a bs s).mgr = s.mgr ∧ (hostWrite half a bs s).pins = s.pins ∧
    (hostWrite half a bs s).sec = s.sec ∧ (hostWrite half a bs s).accInfo = s.accInfo ∧
    (hostWrite half a bs s).coll = s.coll ∧ (hostWrite half a bs s).upd = s.upd ∧
    (hostWrite half a bs s).seqs = s.seqs ∧ (hostWrite half a bs s).net = s.net ∧
    (hostWrite half a bs s).eth = s.eth ∧ (hostWrite half a bs s).time = s.time ∧
    (hostWrite half a bs s).env = s.env ∧ (hostWrite half a bs s).stew = s.stew ∧
    (hostWrite half a bs s).pwr = s.pwr ∧ (hostWrite half a bs s).keys = s.keys := by
  simp only [hostWrite]; (repeat' split) <;> (simp [*]; done)

@[simp] theorem noteXltError_fr (cause : ℕ) (eng : ℕ) (write : Bool) (va : ℕ) (s : State) :
    (noteXltError cause eng write va s).pending = s.pending ∧
    (noteXltError cause eng write va s).fresh = s.fresh ∧
    (noteXltError cause eng write va s).outbox = s.outbox ∧
    (noteXltError cause eng write va s).now = s.now ∧
    (noteXltError cause eng write va s).ticks = s.ticks ∧
    (noteXltError cause eng write va s).arrays = s.arrays ∧
    (noteXltError cause eng write va s).vecs = s.vecs ∧
    (noteXltError cause eng write va s).hbm = s.hbm ∧
    (noteXltError cause eng write va s).coh = s.coh ∧
    (noteXltError cause eng write va s).cores = s.cores ∧
    (noteXltError cause eng write va s).host = s.host ∧
    (noteXltError cause eng write va s).queues = s.queues ∧
    (noteXltError cause eng write va s).served = s.served ∧
    (noteXltError cause eng write va s).node = s.node ∧
    (noteXltError cause eng write va s).boot = s.boot ∧
    (noteXltError cause eng write va s).mgr = s.mgr ∧
    (noteXltError cause eng write va s).pins = s.pins ∧
    (noteXltError cause eng write va s).sec = s.sec ∧
    (noteXltError cause eng write va s).accInfo = s.accInfo ∧
    (noteXltError cause eng write va s).coll = s.coll ∧
    (noteXltError cause eng write va s).upd = s.upd ∧
    (noteXltError cause eng write va s).seqs = s.seqs ∧
    (noteXltError cause eng write va s).net = s.net ∧
    (noteXltError cause eng write va s).eth = s.eth ∧
    (noteXltError cause eng write va s).time = s.time ∧
    (noteXltError cause eng write va s).env = s.env ∧
    (noteXltError cause eng write va s).stew = s.stew ∧
    (noteXltError cause eng write va s).pwr = s.pwr ∧
    (noteXltError cause eng write va s).keys = s.keys := by
  simp only [noteXltError]; (repeat' split) <;> (simp [*]; done)

@[simp] theorem readEntry_fr (eng : ℕ) (level : ℕ) (addr : ℕ) (s : State) :
    (readEntry eng level addr s).2.pending = s.pending ∧
    (readEntry eng level addr s).2.fresh = s.fresh ∧
    (readEntry eng level addr s).2.outbox = s.outbox ∧ (readEntry eng level addr s).2.now = s.now ∧
    (readEntry eng level addr s).2.ticks = s.ticks ∧
    (readEntry eng level addr s).2.arrays = s.arrays ∧
    (readEntry eng level addr s).2.vecs = s.vecs ∧ (readEntry eng level addr s).2.cores = s.cores ∧
    (readEntry eng level addr s).2.host = s.host ∧
    (readEntry eng level addr s).2.queues = s.queues ∧
    (readEntry eng level addr s).2.served = s.served ∧
    (readEntry eng level addr s).2.node = s.node ∧ (readEntry eng level addr s).2.boot = s.boot ∧
    (readEntry eng level addr s).2.mgr = s.mgr ∧ (readEntry eng level addr s).2.sec = s.sec ∧
    (readEntry eng level addr s).2.accInfo = s.accInfo ∧
    (readEntry eng level addr s).2.coll = s.coll ∧ (readEntry eng level addr s).2.upd = s.upd ∧
    (readEntry eng level addr s).2.seqs = s.seqs ∧ (readEntry eng level addr s).2.net = s.net ∧
    (readEntry eng level addr s).2.eth = s.eth ∧ (readEntry eng level addr s).2.time = s.time ∧
    (readEntry eng level addr s).2.env = s.env ∧ (readEntry eng level addr s).2.stew = s.stew ∧
    (readEntry eng level addr s).2.pwr = s.pwr ∧ (readEntry eng level addr s).2.keys = s.keys := by
  simp only [readEntry]; (repeat' split) <;> (simp [*]; done)

@[simp] theorem walk_fr (eng : ℕ) (va : ℕ) (s : State) :
    (walk eng va s).2.pending = s.pending ∧ (walk eng va s).2.fresh = s.fresh ∧
    (walk eng va s).2.outbox = s.outbox ∧ (walk eng va s).2.now = s.now ∧
    (walk eng va s).2.ticks = s.ticks ∧ (walk eng va s).2.arrays = s.arrays ∧
    (walk eng va s).2.vecs = s.vecs ∧ (walk eng va s).2.cores = s.cores ∧
    (walk eng va s).2.host = s.host ∧ (walk eng va s).2.queues = s.queues ∧
    (walk eng va s).2.served = s.served ∧ (walk eng va s).2.node = s.node ∧
    (walk eng va s).2.boot = s.boot ∧ (walk eng va s).2.mgr = s.mgr ∧
    (walk eng va s).2.sec = s.sec ∧ (walk eng va s).2.accInfo = s.accInfo ∧
    (walk eng va s).2.coll = s.coll ∧ (walk eng va s).2.upd = s.upd ∧
    (walk eng va s).2.seqs = s.seqs ∧ (walk eng va s).2.net = s.net ∧
    (walk eng va s).2.eth = s.eth ∧ (walk eng va s).2.time = s.time ∧
    (walk eng va s).2.env = s.env ∧ (walk eng va s).2.stew = s.stew ∧
    (walk eng va s).2.pwr = s.pwr ∧ (walk eng va s).2.keys = s.keys := by
  simp only [walk]; (repeat' split) <;> (simp [*]; done)

@[simp] theorem leafOutcome_fr (pin : Bool) (eng : ℕ) (va : ℕ) (write : Bool) (leaf : W64) (big : Bool) (s : State) :
    (leafOutcome pin eng va write leaf big s).2.pending = s.pending ∧
    (leafOutcome pin eng va write leaf big s).2.fresh = s.fresh ∧
    (leafOutcome pin eng va write leaf big s).2.outbox = s.outbox ∧
    (leafOutcome pin eng va write leaf big s).2.now = s.now ∧
    (leafOutcome pin eng va write leaf big s).2.ticks = s.ticks ∧
    (leafOutcome pin eng va write leaf big s).2.arrays = s.arrays ∧
    (leafOutcome pin eng va write leaf big s).2.vecs = s.vecs ∧
    (leafOutcome pin eng va write leaf big s).2.hbm = s.hbm ∧
    (leafOutcome pin eng va write leaf big s).2.coh = s.coh ∧
    (leafOutcome pin eng va write leaf big s).2.cores = s.cores ∧
    (leafOutcome pin eng va write leaf big s).2.host = s.host ∧
    (leafOutcome pin eng va write leaf big s).2.queues = s.queues ∧
    (leafOutcome pin eng va write leaf big s).2.served = s.served ∧
    (leafOutcome pin eng va write leaf big s).2.node = s.node ∧
    (leafOutcome pin eng va write leaf big s).2.boot = s.boot ∧
    (leafOutcome pin eng va write leaf big s).2.mgr = s.mgr ∧
    (leafOutcome pin eng va write leaf big s).2.pins = s.pins ∧
    (leafOutcome pin eng va write leaf big s).2.sec = s.sec ∧
    (leafOutcome pin eng va write leaf big s).2.accInfo = s.accInfo ∧
    (leafOutcome pin eng va write leaf big s).2.coll = s.coll ∧
    (leafOutcome pin eng va write leaf big s).2.upd = s.upd ∧
    (leafOutcome pin eng va write leaf big s).2.seqs = s.seqs ∧
    (leafOutcome pin eng va write leaf big s).2.net = s.net ∧
    (leafOutcome pin eng va write leaf big s).2.eth = s.eth ∧
    (leafOutcome pin eng va write leaf big s).2.time = s.time ∧
    (leafOutcome pin eng va write leaf big s).2.env = s.env ∧
    (leafOutcome pin eng va write leaf big s).2.stew = s.stew ∧
    (leafOutcome pin eng va write leaf big s).2.pwr = s.pwr ∧
    (leafOutcome pin eng va write leaf big s).2.keys = s.keys := by
  simp only [leafOutcome]; (repeat' split) <;> (simp [*]; done)

@[simp] theorem tlbInsert_fr (eng : ℕ) (e : TlbEntry) (s : State) :
    (tlbInsert eng e s).pending = s.pending ∧ (tlbInsert eng e s).fresh = s.fresh ∧
    (tlbInsert eng e s).outbox = s.outbox ∧ (tlbInsert eng e s).now = s.now ∧
    (tlbInsert eng e s).ticks = s.ticks ∧ (tlbInsert eng e s).events = s.events ∧
    (tlbInsert eng e s).edges = s.edges ∧ (tlbInsert eng e s).counters = s.counters ∧
    (tlbInsert eng e s).arrays = s.arrays ∧ (tlbInsert eng e s).vecs = s.vecs ∧
    (tlbInsert eng e s).hbm = s.hbm ∧ (tlbInsert eng e s).coh = s.coh ∧
    (tlbInsert eng e s).cores = s.cores ∧ (tlbInsert eng e s).host = s.host ∧
    (tlbInsert eng e s).queues = s.queues ∧ (tlbInsert eng e s).served = s.served ∧
    (tlbInsert eng e s).node = s.node ∧ (tlbInsert eng e s).boot = s.boot ∧
    (tlbInsert eng e s).mgr = s.mgr ∧ (tlbInsert eng e s).pins = s.pins ∧
    (tlbInsert eng e s).sec = s.sec ∧ (tlbInsert eng e s).accInfo = s.accInfo ∧
    (tlbInsert eng e s).coll = s.coll ∧ (tlbInsert eng e s).upd = s.upd ∧
    (tlbInsert eng e s).seqs = s.seqs ∧ (tlbInsert eng e s).net = s.net ∧
    (tlbInsert eng e s).eth = s.eth ∧ (tlbInsert eng e s).time = s.time ∧
    (tlbInsert eng e s).env = s.env ∧ (tlbInsert eng e s).stew = s.stew ∧
    (tlbInsert eng e s).pwr = s.pwr ∧ (tlbInsert eng e s).keys = s.keys := by
  simp only [tlbInsert]; (repeat' split) <;> (simp [*]; done)

@[simp] theorem translatePin_fr (pin : Bool) (eng : ℕ) (va : ℕ) (write : Bool) (s : State) :
    (translatePin pin eng va write s).2.pending = s.pending ∧
    (translatePin pin eng va write s).2.fresh = s.fresh ∧
    (translatePin pin eng va write s).2.outbox = s.outbox ∧
    (translatePin pin eng va write s).2.now = s.now ∧
    (translatePin pin eng va write s).2.ticks = s.ticks ∧
    (translatePin pin eng va write s).2.arrays = s.arrays ∧
    (translatePin pin eng va write s).2.vecs = s.vecs ∧
    (translatePin pin eng va write s).2.cores = s.cores ∧
    (translatePin pin eng va write s).2.host = s.host ∧
    (translatePin pin eng va write s).2.queues = s.queues ∧
    (translatePin pin eng va write s).2.served = s.served ∧
    (translatePin pin eng va write s).2.node = s.node ∧
    (translatePin pin eng va write s).2.boot = s.boot ∧
    (translatePin pin eng va write s).2.mgr = s.mgr ∧
    (translatePin pin eng va write s).2.sec = s.sec ∧
    (translatePin pin eng va write s).2.accInfo = s.accInfo ∧
    (translatePin pin eng va write s).2.coll = s.coll ∧
    (translatePin pin eng va write s).2.upd = s.upd ∧
    (translatePin pin eng va write s).2.seqs = s.seqs ∧
    (translatePin pin eng va write s).2.net = s.net ∧
    (translatePin pin eng va write s).2.eth = s.eth ∧
    (translatePin pin eng va write s).2.time = s.time ∧
    (translatePin pin eng va write s).2.env = s.env ∧
    (translatePin pin eng va write s).2.stew = s.stew ∧
    (translatePin pin eng va write s).2.pwr = s.pwr ∧
    (translatePin pin eng va write s).2.keys = s.keys := by
  unfold translatePin; dsimp only; (repeat' split) <;> (first | (simp (disch := (intros; first | (simp; done) | ((repeat' split) <;> simp))) [*]; done) | grind [leafOutcome_fr, tlbInsert_fr, noteXltError_fr, walk_fr])

@[simp] theorem translate_fr (eng : ℕ) (va : ℕ) (write : Bool) (s : State) :
    (translate eng va write s).2.pending = s.pending ∧
    (translate eng va write s).2.fresh = s.fresh ∧ (translate eng va write s).2.outbox = s.outbox ∧
    (translate eng va write s).2.now = s.now ∧ (translate eng va write s).2.ticks = s.ticks ∧
    (translate eng va write s).2.arrays = s.arrays ∧ (translate eng va write s).2.vecs = s.vecs ∧
    (translate eng va write s).2.cores = s.cores ∧ (translate eng va write s).2.host = s.host ∧
    (translate eng va write s).2.queues = s.queues ∧
    (translate eng va write s).2.served = s.served ∧ (translate eng va write s).2.node = s.node ∧
    (translate eng va write s).2.boot = s.boot ∧ (translate eng va write s).2.mgr = s.mgr ∧
    (translate eng va write s).2.sec = s.sec ∧ (translate eng va write s).2.accInfo = s.accInfo ∧
    (translate eng va write s).2.coll = s.coll ∧ (translate eng va write s).2.upd = s.upd ∧
    (translate eng va write s).2.seqs = s.seqs ∧ (translate eng va write s).2.net = s.net ∧
    (translate eng va write s).2.eth = s.eth ∧ (translate eng va write s).2.time = s.time ∧
    (translate eng va write s).2.env = s.env ∧ (translate eng va write s).2.stew = s.stew ∧
    (translate eng va write s).2.pwr = s.pwr ∧ (translate eng va write s).2.keys = s.keys := by
  simp only [translate]; (repeat' split) <;> (simp [*]; done)

@[simp] theorem translateRange_fr (eng : ℕ) (write : Bool) (a2 : ℕ) (a3 : ℕ) (a4 : ℕ) (a5 : State) :
    (translateRange eng write a2 a3 a4 a5).2.2.pending = a5.pending ∧
    (translateRange eng write a2 a3 a4 a5).2.2.fresh = a5.fresh ∧
    (translateRange eng write a2 a3 a4 a5).2.2.outbox = a5.outbox ∧
    (translateRange eng write a2 a3 a4 a5).2.2.now = a5.now ∧
    (translateRange eng write a2 a3 a4 a5).2.2.ticks = a5.ticks ∧
    (translateRange eng write a2 a3 a4 a5).2.2.arrays = a5.arrays ∧
    (translateRange eng write a2 a3 a4 a5).2.2.vecs = a5.vecs ∧
    (translateRange eng write a2 a3 a4 a5).2.2.cores = a5.cores ∧
    (translateRange eng write a2 a3 a4 a5).2.2.host = a5.host ∧
    (translateRange eng write a2 a3 a4 a5).2.2.queues = a5.queues ∧
    (translateRange eng write a2 a3 a4 a5).2.2.served = a5.served ∧
    (translateRange eng write a2 a3 a4 a5).2.2.node = a5.node ∧
    (translateRange eng write a2 a3 a4 a5).2.2.boot = a5.boot ∧
    (translateRange eng write a2 a3 a4 a5).2.2.mgr = a5.mgr ∧
    (translateRange eng write a2 a3 a4 a5).2.2.sec = a5.sec ∧
    (translateRange eng write a2 a3 a4 a5).2.2.accInfo = a5.accInfo ∧
    (translateRange eng write a2 a3 a4 a5).2.2.coll = a5.coll ∧
    (translateRange eng write a2 a3 a4 a5).2.2.upd = a5.upd ∧
    (translateRange eng write a2 a3 a4 a5).2.2.seqs = a5.seqs ∧
    (translateRange eng write a2 a3 a4 a5).2.2.net = a5.net ∧
    (translateRange eng write a2 a3 a4 a5).2.2.eth = a5.eth ∧
    (translateRange eng write a2 a3 a4 a5).2.2.time = a5.time ∧
    (translateRange eng write a2 a3 a4 a5).2.2.env = a5.env ∧
    (translateRange eng write a2 a3 a4 a5).2.2.stew = a5.stew ∧
    (translateRange eng write a2 a3 a4 a5).2.2.pwr = a5.pwr ∧
    (translateRange eng write a2 a3 a4 a5).2.2.keys = a5.keys := by
  fun_induction translateRange eng write a2 a3 a4 a5 <;> (first | (simp (disch := (intros; first | (simp; done) | ((repeat' split) <;> simp))) [*]; done) | grind [translate_fr])

@[simp] theorem translateAll_fr (eng : ℕ) (va : ℕ) (n : ℕ) (write : Bool) (s : State) :
    (translateAll eng va n write s).2.2.pending = s.pending ∧
    (translateAll eng va n write s).2.2.fresh = s.fresh ∧
    (translateAll eng va n write s).2.2.outbox = s.outbox ∧
    (translateAll eng va n write s).2.2.now = s.now ∧
    (translateAll eng va n write s).2.2.ticks = s.ticks ∧
    (translateAll eng va n write s).2.2.arrays = s.arrays ∧
    (translateAll eng va n write s).2.2.vecs = s.vecs ∧
    (translateAll eng va n write s).2.2.cores = s.cores ∧
    (translateAll eng va n write s).2.2.host = s.host ∧
    (translateAll eng va n write s).2.2.queues = s.queues ∧
    (translateAll eng va n write s).2.2.served = s.served ∧
    (translateAll eng va n write s).2.2.node = s.node ∧
    (translateAll eng va n write s).2.2.boot = s.boot ∧
    (translateAll eng va n write s).2.2.mgr = s.mgr ∧
    (translateAll eng va n write s).2.2.sec = s.sec ∧
    (translateAll eng va n write s).2.2.accInfo = s.accInfo ∧
    (translateAll eng va n write s).2.2.coll = s.coll ∧
    (translateAll eng va n write s).2.2.upd = s.upd ∧
    (translateAll eng va n write s).2.2.seqs = s.seqs ∧
    (translateAll eng va n write s).2.2.net = s.net ∧
    (translateAll eng va n write s).2.2.eth = s.eth ∧
    (translateAll eng va n write s).2.2.time = s.time ∧
    (translateAll eng va n write s).2.2.env = s.env ∧
    (translateAll eng va n write s).2.2.stew = s.stew ∧
    (translateAll eng va n write s).2.2.pwr = s.pwr ∧
    (translateAll eng va n write s).2.2.keys = s.keys := by
  simp only [translateAll]; (repeat' split) <;> (simp [*]; done)

@[simp] theorem physRead_fr (eng : ℕ) (a : ℕ) (n : ℕ) (streaming : Bool) (noRemote : Bool) (s : State) :
    (physRead eng a n streaming noRemote s).2.pending = s.pending ∧
    (physRead eng a n streaming noRemote s).2.fresh = s.fresh ∧
    (physRead eng a n streaming noRemote s).2.now = s.now ∧
    (physRead eng a n streaming noRemote s).2.ticks = s.ticks ∧
    (physRead eng a n streaming noRemote s).2.arrays = s.arrays ∧
    (physRead eng a n streaming noRemote s).2.vecs = s.vecs ∧
    (physRead eng a n streaming noRemote s).2.cores = s.cores ∧
    (physRead eng a n streaming noRemote s).2.xlt = s.xlt ∧
    (physRead eng a n streaming noRemote s).2.queues = s.queues ∧
    (physRead eng a n streaming noRemote s).2.served = s.served ∧
    (physRead eng a n streaming noRemote s).2.node = s.node ∧
    (physRead eng a n streaming noRemote s).2.boot = s.boot ∧
    (physRead eng a n streaming noRemote s).2.mgr = s.mgr ∧
    (physRead eng a n streaming noRemote s).2.sec = s.sec ∧
    (physRead eng a n streaming noRemote s).2.accInfo = s.accInfo ∧
    (physRead eng a n streaming noRemote s).2.coll = s.coll ∧
    (physRead eng a n streaming noRemote s).2.upd = s.upd ∧
    (physRead eng a n streaming noRemote s).2.seqs = s.seqs ∧
    (physRead eng a n streaming noRemote s).2.net = s.net ∧
    (physRead eng a n streaming noRemote s).2.eth = s.eth ∧
    (physRead eng a n streaming noRemote s).2.time = s.time ∧
    (physRead eng a n streaming noRemote s).2.env = s.env ∧
    (physRead eng a n streaming noRemote s).2.stew = s.stew ∧
    (physRead eng a n streaming noRemote s).2.pwr = s.pwr ∧
    (physRead eng a n streaming noRemote s).2.keys = s.keys := by
  simp only [physRead]; (repeat' split) <;> (simp [*]; done)

@[simp] theorem physPut_fr (eng : ℕ) (a : ℕ) (bs : List (Byte × Bool)) (streaming : Bool) (tag : HoldTag) (s : State) :
    (physPut eng a bs streaming tag s).pending = s.pending ∧
    (physPut eng a bs streaming tag s).fresh = s.fresh ∧
    (physPut eng a bs streaming tag s).now = s.now ∧
    (physPut eng a bs streaming tag s).ticks = s.ticks ∧
    (physPut eng a bs streaming tag s).vecs = s.vecs ∧
    (physPut eng a bs streaming tag s).xlt = s.xlt ∧
    (physPut eng a bs streaming tag s).queues = s.queues ∧
    (physPut eng a bs streaming tag s).served = s.served ∧
    (physPut eng a bs streaming tag s).node = s.node ∧
    (physPut eng a bs streaming tag s).boot = s.boot ∧
    (physPut eng a bs streaming tag s).mgr = s.mgr ∧
    (physPut eng a bs streaming tag s).sec = s.sec ∧
    (physPut eng a bs streaming tag s).accInfo = s.accInfo ∧
    (physPut eng a bs streaming tag s).coll = s.coll ∧
    (physPut eng a bs streaming tag s).upd = s.upd ∧
    (physPut eng a bs streaming tag s).seqs = s.seqs ∧
    (physPut eng a bs streaming tag s).net = s.net ∧
    (physPut eng a bs streaming tag s).eth = s.eth ∧
    (physPut eng a bs streaming tag s).time = s.time ∧
    (physPut eng a bs streaming tag s).env = s.env ∧
    (physPut eng a bs streaming tag s).stew = s.stew ∧
    (physPut eng a bs streaming tag s).pwr = s.pwr ∧
    (physPut eng a bs streaming tag s).keys = s.keys := by
  simp only [physPut]; (repeat' split) <;> (simp [*]; done)

@[simp] theorem freshTouch_fr (n : ℕ) (t : Touch) (s : State) :
    (freshTouch n t s).pending = s.pending ∧ (freshTouch n t s).now = s.now ∧
    (freshTouch n t s).ticks = s.ticks ∧ (freshTouch n t s).xlt = s.xlt ∧
    (freshTouch n t s).queues = s.queues ∧ (freshTouch n t s).served = s.served ∧
    (freshTouch n t s).node = s.node ∧ (freshTouch n t s).boot = s.boot ∧
    (freshTouch n t s).mgr = s.mgr ∧ (freshTouch n t s).sec = s.sec ∧
    (freshTouch n t s).accInfo = s.accInfo ∧ (freshTouch n t s).coll = s.coll ∧
    (freshTouch n t s).upd = s.upd ∧ (freshTouch n t s).seqs = s.seqs ∧
    (freshTouch n t s).net = s.net ∧ (freshTouch n t s).eth = s.eth ∧
    (freshTouch n t s).time = s.time ∧ (freshTouch n t s).env = s.env ∧
    (freshTouch n t s).stew = s.stew ∧ (freshTouch n t s).pwr = s.pwr ∧
    (freshTouch n t s).keys = s.keys := by
  simp only [freshTouch]; (repeat' split) <;> (simp [*]; done)

@[simp] theorem freeFlags_fr (e : StreamEng) (s : State) :
    (freeFlags e s).pending = s.pending ∧ (freeFlags e s).outbox = s.outbox ∧
    (freeFlags e s).now = s.now ∧ (freeFlags e s).ticks = s.ticks ∧
    (freeFlags e s).counters = s.counters ∧ (freeFlags e s).arrays = s.arrays ∧
    (freeFlags e s).vecs = s.vecs ∧ (freeFlags e s).hbm = s.hbm ∧ (freeFlags e s).coh = s.coh ∧
    (freeFlags e s).cores = s.cores ∧ (freeFlags e s).xlt = s.xlt ∧ (freeFlags e s).host = s.host ∧
    (freeFlags e s).queues = s.queues ∧ (freeFlags e s).served = s.served ∧
    (freeFlags e s).node = s.node ∧ (freeFlags e s).boot = s.boot ∧ (freeFlags e s).mgr = s.mgr ∧
    (freeFlags e s).pins = s.pins ∧ (freeFlags e s).sec = s.sec ∧
    (freeFlags e s).accInfo = s.accInfo ∧ (freeFlags e s).coll = s.coll ∧
    (freeFlags e s).upd = s.upd ∧ (freeFlags e s).seqs = s.seqs ∧ (freeFlags e s).net = s.net ∧
    (freeFlags e s).eth = s.eth ∧ (freeFlags e s).time = s.time ∧ (freeFlags e s).env = s.env ∧
    (freeFlags e s).stew = s.stew ∧ (freeFlags e s).pwr = s.pwr ∧ (freeFlags e s).keys = s.keys := by
  simp only [freeFlags]; (repeat' split) <;> (simp [*]; done)

@[simp] theorem taintFrom_fr (e : StreamEng) (k : ℕ) (s : State) :
    (taintFrom e k s).pending = s.pending ∧ (taintFrom e k s).now = s.now ∧
    (taintFrom e k s).ticks = s.ticks ∧ (taintFrom e k s).xlt = s.xlt ∧
    (taintFrom e k s).queues = s.queues ∧ (taintFrom e k s).served = s.served ∧
    (taintFrom e k s).node = s.node ∧ (taintFrom e k s).boot = s.boot ∧
    (taintFrom e k s).mgr = s.mgr ∧ (taintFrom e k s).sec = s.sec ∧
    (taintFrom e k s).accInfo = s.accInfo ∧ (taintFrom e k s).coll = s.coll ∧
    (taintFrom e k s).upd = s.upd ∧ (taintFrom e k s).seqs = s.seqs ∧
    (taintFrom e k s).net = s.net ∧ (taintFrom e k s).eth = s.eth ∧
    (taintFrom e k s).time = s.time ∧ (taintFrom e k s).env = s.env ∧
    (taintFrom e k s).stew = s.stew ∧ (taintFrom e k s).pwr = s.pwr ∧
    (taintFrom e k s).keys = s.keys := by
  simp only [taintFrom]; (repeat' split) <;> (simp [*]; done)

@[simp] theorem raceArray_fr (n : ℕ) (off : ℕ) (len : ℕ) (s : State) :
    (raceArray n off len s).pending = s.pending ∧ (raceArray n off len s).now = s.now ∧
    (raceArray n off len s).ticks = s.ticks ∧ (raceArray n off len s).xlt = s.xlt ∧
    (raceArray n off len s).queues = s.queues ∧ (raceArray n off len s).served = s.served ∧
    (raceArray n off len s).node = s.node ∧ (raceArray n off len s).boot = s.boot ∧
    (raceArray n off len s).mgr = s.mgr ∧ (raceArray n off len s).sec = s.sec ∧
    (raceArray n off len s).accInfo = s.accInfo ∧ (raceArray n off len s).coll = s.coll ∧
    (raceArray n off len s).upd = s.upd ∧ (raceArray n off len s).seqs = s.seqs ∧
    (raceArray n off len s).net = s.net ∧ (raceArray n off len s).eth = s.eth ∧
    (raceArray n off len s).time = s.time ∧ (raceArray n off len s).env = s.env ∧
    (raceArray n off len s).stew = s.stew ∧ (raceArray n off len s).pwr = s.pwr ∧
    (raceArray n off len s).keys = s.keys := by
  simp only [raceArray]; (repeat' split) <;> (simp [*]; done)

@[simp] theorem noteHost_fr (tag : HoldTag) (s : State) :
    (noteHost tag s).pending = s.pending ∧ (noteHost tag s).fresh = s.fresh ∧
    (noteHost tag s).outbox = s.outbox ∧ (noteHost tag s).now = s.now ∧
    (noteHost tag s).ticks = s.ticks ∧ (noteHost tag s).events = s.events ∧
    (noteHost tag s).edges = s.edges ∧ (noteHost tag s).counters = s.counters ∧
    (noteHost tag s).arrays = s.arrays ∧ (noteHost tag s).vecs = s.vecs ∧
    (noteHost tag s).hbm = s.hbm ∧ (noteHost tag s).coh = s.coh ∧
    (noteHost tag s).cores = s.cores ∧ (noteHost tag s).served = s.served ∧
    (noteHost tag s).node = s.node ∧ (noteHost tag s).boot = s.boot ∧
    (noteHost tag s).mgr = s.mgr ∧ (noteHost tag s).pins = s.pins ∧ (noteHost tag s).sec = s.sec ∧
    (noteHost tag s).accInfo = s.accInfo ∧ (noteHost tag s).coll = s.coll ∧
    (noteHost tag s).upd = s.upd ∧ (noteHost tag s).seqs = s.seqs ∧ (noteHost tag s).net = s.net ∧
    (noteHost tag s).eth = s.eth ∧ (noteHost tag s).time = s.time ∧ (noteHost tag s).env = s.env ∧
    (noteHost tag s).stew = s.stew ∧ (noteHost tag s).pwr = s.pwr ∧ (noteHost tag s).keys = s.keys := by
  simp only [noteHost]; (repeat' split) <;> (simp [*]; done)

@[simp] theorem physWrite_fr (eng : ℕ) (a : ℕ) (bs : List (Byte × Bool)) (streaming : Bool) (tag : HoldTag) (s : State) :
    (physWrite eng a bs streaming tag s).pending = s.pending ∧
    (physWrite eng a bs streaming tag s).now = s.now ∧
    (physWrite eng a bs streaming tag s).ticks = s.ticks ∧
    (physWrite eng a bs streaming tag s).served = s.served ∧
    (physWrite eng a bs streaming tag s).node = s.node ∧
    (physWrite eng a bs streaming tag s).boot = s.boot ∧
    (physWrite eng a bs streaming tag s).mgr = s.mgr ∧
    (physWrite eng a bs streaming tag s).sec = s.sec ∧
    (physWrite eng a bs streaming tag s).accInfo = s.accInfo ∧
    (physWrite eng a bs streaming tag s).coll = s.coll ∧
    (physWrite eng a bs streaming tag s).upd = s.upd ∧
    (physWrite eng a bs streaming tag s).seqs = s.seqs ∧
    (physWrite eng a bs streaming tag s).net = s.net ∧
    (physWrite eng a bs streaming tag s).eth = s.eth ∧
    (physWrite eng a bs streaming tag s).time = s.time ∧
    (physWrite eng a bs streaming tag s).env = s.env ∧
    (physWrite eng a bs streaming tag s).stew = s.stew ∧
    (physWrite eng a bs streaming tag s).pwr = s.pwr ∧
    (physWrite eng a bs streaming tag s).keys = s.keys := by
  simp only [physWrite]; (repeat' split) <;> (simp [*]; done)

@[simp] theorem readSegs_fr (eng : ℕ) (streaming : Bool) (noRemote : Bool) (a3 : List (ℕ × ℕ)) (a4 : State) :
    (readSegs eng streaming noRemote a3 a4).2.pending = a4.pending ∧
    (readSegs eng streaming noRemote a3 a4).2.fresh = a4.fresh ∧
    (readSegs eng streaming noRemote a3 a4).2.now = a4.now ∧
    (readSegs eng streaming noRemote a3 a4).2.ticks = a4.ticks ∧
    (readSegs eng streaming noRemote a3 a4).2.arrays = a4.arrays ∧
    (readSegs eng streaming noRemote a3 a4).2.vecs = a4.vecs ∧
    (readSegs eng streaming noRemote a3 a4).2.cores = a4.cores ∧
    (readSegs eng streaming noRemote a3 a4).2.xlt = a4.xlt ∧
    (readSegs eng streaming noRemote a3 a4).2.queues = a4.queues ∧
    (readSegs eng streaming noRemote a3 a4).2.served = a4.served ∧
    (readSegs eng streaming noRemote a3 a4).2.node = a4.node ∧
    (readSegs eng streaming noRemote a3 a4).2.boot = a4.boot ∧
    (readSegs eng streaming noRemote a3 a4).2.mgr = a4.mgr ∧
    (readSegs eng streaming noRemote a3 a4).2.sec = a4.sec ∧
    (readSegs eng streaming noRemote a3 a4).2.accInfo = a4.accInfo ∧
    (readSegs eng streaming noRemote a3 a4).2.coll = a4.coll ∧
    (readSegs eng streaming noRemote a3 a4).2.upd = a4.upd ∧
    (readSegs eng streaming noRemote a3 a4).2.seqs = a4.seqs ∧
    (readSegs eng streaming noRemote a3 a4).2.net = a4.net ∧
    (readSegs eng streaming noRemote a3 a4).2.eth = a4.eth ∧
    (readSegs eng streaming noRemote a3 a4).2.time = a4.time ∧
    (readSegs eng streaming noRemote a3 a4).2.env = a4.env ∧
    (readSegs eng streaming noRemote a3 a4).2.stew = a4.stew ∧
    (readSegs eng streaming noRemote a3 a4).2.pwr = a4.pwr ∧
    (readSegs eng streaming noRemote a3 a4).2.keys = a4.keys := by
  fun_induction readSegs eng streaming noRemote a3 a4 <;> (first | (simp (disch := (intros; first | (simp; done) | ((repeat' split) <;> simp))) [*]; done) | grind [physRead_fr])

@[simp] theorem writeSegs_fr (eng : ℕ) (streaming : Bool) (tag : HoldTag) (a3 : List (ℕ × ℕ)) (a4 : List (Byte × Bool)) (a5 : State) :
    (writeSegs eng streaming tag a3 a4 a5).pending = a5.pending ∧
    (writeSegs eng streaming tag a3 a4 a5).now = a5.now ∧
    (writeSegs eng streaming tag a3 a4 a5).ticks = a5.ticks ∧
    (writeSegs eng streaming tag a3 a4 a5).served = a5.served ∧
    (writeSegs eng streaming tag a3 a4 a5).node = a5.node ∧
    (writeSegs eng streaming tag a3 a4 a5).boot = a5.boot ∧
    (writeSegs eng streaming tag a3 a4 a5).mgr = a5.mgr ∧
    (writeSegs eng streaming tag a3 a4 a5).sec = a5.sec ∧
    (writeSegs eng streaming tag a3 a4 a5).accInfo = a5.accInfo ∧
    (writeSegs eng streaming tag a3 a4 a5).coll = a5.coll ∧
    (writeSegs eng streaming tag a3 a4 a5).upd = a5.upd ∧
    (writeSegs eng streaming tag a3 a4 a5).seqs = a5.seqs ∧
    (writeSegs eng streaming tag a3 a4 a5).net = a5.net ∧
    (writeSegs eng streaming tag a3 a4 a5).eth = a5.eth ∧
    (writeSegs eng streaming tag a3 a4 a5).time = a5.time ∧
    (writeSegs eng streaming tag a3 a4 a5).env = a5.env ∧
    (writeSegs eng streaming tag a3 a4 a5).stew = a5.stew ∧
    (writeSegs eng streaming tag a3 a4 a5).pwr = a5.pwr ∧
    (writeSegs eng streaming tag a3 a4 a5).keys = a5.keys := by
  fun_induction writeSegs eng streaming tag a3 a4 a5 <;> (simp [*]; done)

@[simp] theorem vaRead_fr (eng : ℕ) (va : ℕ) (n : ℕ) (streaming : Bool) (noRemote : Bool) (s : State) :
    (vaRead eng va n streaming noRemote s).2.pending = s.pending ∧
    (vaRead eng va n streaming noRemote s).2.fresh = s.fresh ∧
    (vaRead eng va n streaming noRemote s).2.now = s.now ∧
    (vaRead eng va n streaming noRemote s).2.ticks = s.ticks ∧
    (vaRead eng va n streaming noRemote s).2.arrays = s.arrays ∧
    (vaRead eng va n streaming noRemote s).2.vecs = s.vecs ∧
    (vaRead eng va n streaming noRemote s).2.cores = s.cores ∧
    (vaRead eng va n streaming noRemote s).2.queues = s.queues ∧
    (vaRead eng va n streaming noRemote s).2.served = s.served ∧
    (vaRead eng va n streaming noRemote s).2.node = s.node ∧
    (vaRead eng va n streaming noRemote s).2.boot = s.boot ∧
    (vaRead eng va n streaming noRemote s).2.mgr = s.mgr ∧
    (vaRead eng va n streaming noRemote s).2.sec = s.sec ∧
    (vaRead eng va n streaming noRemote s).2.accInfo = s.accInfo ∧
    (vaRead eng va n streaming noRemote s).2.coll = s.coll ∧
    (vaRead eng va n streaming noRemote s).2.upd = s.upd ∧
    (vaRead eng va n streaming noRemote s).2.seqs = s.seqs ∧
    (vaRead eng va n streaming noRemote s).2.net = s.net ∧
    (vaRead eng va n streaming noRemote s).2.eth = s.eth ∧
    (vaRead eng va n streaming noRemote s).2.time = s.time ∧
    (vaRead eng va n streaming noRemote s).2.env = s.env ∧
    (vaRead eng va n streaming noRemote s).2.stew = s.stew ∧
    (vaRead eng va n streaming noRemote s).2.pwr = s.pwr ∧
    (vaRead eng va n streaming noRemote s).2.keys = s.keys := by
  unfold vaRead; dsimp only; (repeat' split) <;> (first | (simp (disch := (intros; first | (simp; done) | ((repeat' split) <;> simp))) [*]; done) | grind [translateAll_fr, readSegs_fr])

@[simp] theorem vaWrite_fr (eng : ℕ) (va : ℕ) (bs : List (Byte × Bool)) (streaming : Bool) (tag : HoldTag) (s : State) :
    (vaWrite eng va bs streaming tag s).2.pending = s.pending ∧
    (vaWrite eng va bs streaming tag s).2.now = s.now ∧
    (vaWrite eng va bs streaming tag s).2.ticks = s.ticks ∧
    (vaWrite eng va bs streaming tag s).2.served = s.served ∧
    (vaWrite eng va bs streaming tag s).2.node = s.node ∧
    (vaWrite eng va bs streaming tag s).2.boot = s.boot ∧
    (vaWrite eng va bs streaming tag s).2.mgr = s.mgr ∧
    (vaWrite eng va bs streaming tag s).2.sec = s.sec ∧
    (vaWrite eng va bs streaming tag s).2.accInfo = s.accInfo ∧
    (vaWrite eng va bs streaming tag s).2.coll = s.coll ∧
    (vaWrite eng va bs streaming tag s).2.upd = s.upd ∧
    (vaWrite eng va bs streaming tag s).2.seqs = s.seqs ∧
    (vaWrite eng va bs streaming tag s).2.net = s.net ∧
    (vaWrite eng va bs streaming tag s).2.eth = s.eth ∧
    (vaWrite eng va bs streaming tag s).2.time = s.time ∧
    (vaWrite eng va bs streaming tag s).2.env = s.env ∧
    (vaWrite eng va bs streaming tag s).2.stew = s.stew ∧
    (vaWrite eng va bs streaming tag s).2.pwr = s.pwr ∧
    (vaWrite eng va bs streaming tag s).2.keys = s.keys := by
  unfold vaWrite
  have h := translateAll_fr eng va bs.length true s
  split <;> (next e => rw [e] at h; dsimp only at h; simp [h])

@[simp] theorem pastInvals_pending {α : Type} (f : State → α × State) (s : State)
    (h : ∀ s, (f s).2.pending = s.pending) : (pastInvals f s).2.pending = s.pending := by
  simp [pastInvals, h]

@[simp] theorem pastInvals_fresh {α : Type} (f : State → α × State) (s : State)
    (h : ∀ s, (f s).2.fresh = s.fresh) : (pastInvals f s).2.fresh = s.fresh := by
  simp [pastInvals, h]

@[simp] theorem pastInvals_outbox {α : Type} (f : State → α × State) (s : State)
    (h : ∀ s, (f s).2.outbox = s.outbox) : (pastInvals f s).2.outbox = s.outbox := by
  simp [pastInvals, h]

@[simp] theorem pastInvals_now {α : Type} (f : State → α × State) (s : State)
    (h : ∀ s, (f s).2.now = s.now) : (pastInvals f s).2.now = s.now := by
  simp [pastInvals, h]

@[simp] theorem pastInvals_ticks {α : Type} (f : State → α × State) (s : State)
    (h : ∀ s, (f s).2.ticks = s.ticks) : (pastInvals f s).2.ticks = s.ticks := by
  simp [pastInvals, h]

@[simp] theorem pastInvals_events {α : Type} (f : State → α × State) (s : State)
    (h : ∀ s, (f s).2.events = s.events) : (pastInvals f s).2.events = s.events := by
  simp [pastInvals, h]

@[simp] theorem pastInvals_edges {α : Type} (f : State → α × State) (s : State)
    (h : ∀ s, (f s).2.edges = s.edges) : (pastInvals f s).2.edges = s.edges := by
  simp [pastInvals, h]

@[simp] theorem pastInvals_counters {α : Type} (f : State → α × State) (s : State)
    (h : ∀ s, (f s).2.counters = s.counters) : (pastInvals f s).2.counters = s.counters := by
  simp [pastInvals, h]

@[simp] theorem pastInvals_arrays {α : Type} (f : State → α × State) (s : State)
    (h : ∀ s, (f s).2.arrays = s.arrays) : (pastInvals f s).2.arrays = s.arrays := by
  simp [pastInvals, h]

@[simp] theorem pastInvals_vecs {α : Type} (f : State → α × State) (s : State)
    (h : ∀ s, (f s).2.vecs = s.vecs) : (pastInvals f s).2.vecs = s.vecs := by
  simp [pastInvals, h]

@[simp] theorem pastInvals_hbm {α : Type} (f : State → α × State) (s : State)
    (h : ∀ s, (f s).2.hbm = s.hbm) : (pastInvals f s).2.hbm = s.hbm := by
  simp [pastInvals, h]

@[simp] theorem pastInvals_coh {α : Type} (f : State → α × State) (s : State)
    (h : ∀ s, (f s).2.coh = s.coh) : (pastInvals f s).2.coh = s.coh := by
  simp [pastInvals, h]

@[simp] theorem pastInvals_cores {α : Type} (f : State → α × State) (s : State)
    (h : ∀ s, (f s).2.cores = s.cores) : (pastInvals f s).2.cores = s.cores := by
  simp [pastInvals, h]

@[simp] theorem pastInvals_host {α : Type} (f : State → α × State) (s : State)
    (h : ∀ s, (f s).2.host = s.host) : (pastInvals f s).2.host = s.host := by
  simp [pastInvals, h]

@[simp] theorem pastInvals_queues {α : Type} (f : State → α × State) (s : State)
    (h : ∀ s, (f s).2.queues = s.queues) : (pastInvals f s).2.queues = s.queues := by
  simp [pastInvals, h]

@[simp] theorem pastInvals_served {α : Type} (f : State → α × State) (s : State)
    (h : ∀ s, (f s).2.served = s.served) : (pastInvals f s).2.served = s.served := by
  simp [pastInvals, h]

@[simp] theorem pastInvals_node {α : Type} (f : State → α × State) (s : State)
    (h : ∀ s, (f s).2.node = s.node) : (pastInvals f s).2.node = s.node := by
  simp [pastInvals, h]

@[simp] theorem pastInvals_boot {α : Type} (f : State → α × State) (s : State)
    (h : ∀ s, (f s).2.boot = s.boot) : (pastInvals f s).2.boot = s.boot := by
  simp [pastInvals, h]

@[simp] theorem pastInvals_mgr {α : Type} (f : State → α × State) (s : State)
    (h : ∀ s, (f s).2.mgr = s.mgr) : (pastInvals f s).2.mgr = s.mgr := by
  simp [pastInvals, h]

@[simp] theorem pastInvals_pins {α : Type} (f : State → α × State) (s : State)
    (h : ∀ s, (f s).2.pins = s.pins) : (pastInvals f s).2.pins = s.pins := by
  simp [pastInvals, h]

@[simp] theorem pastInvals_sec {α : Type} (f : State → α × State) (s : State)
    (h : ∀ s, (f s).2.sec = s.sec) : (pastInvals f s).2.sec = s.sec := by
  simp [pastInvals, h]

@[simp] theorem pastInvals_accInfo {α : Type} (f : State → α × State) (s : State)
    (h : ∀ s, (f s).2.accInfo = s.accInfo) : (pastInvals f s).2.accInfo = s.accInfo := by
  simp [pastInvals, h]

@[simp] theorem pastInvals_coll {α : Type} (f : State → α × State) (s : State)
    (h : ∀ s, (f s).2.coll = s.coll) : (pastInvals f s).2.coll = s.coll := by
  simp [pastInvals, h]

@[simp] theorem pastInvals_upd {α : Type} (f : State → α × State) (s : State)
    (h : ∀ s, (f s).2.upd = s.upd) : (pastInvals f s).2.upd = s.upd := by
  simp [pastInvals, h]

@[simp] theorem pastInvals_seqs {α : Type} (f : State → α × State) (s : State)
    (h : ∀ s, (f s).2.seqs = s.seqs) : (pastInvals f s).2.seqs = s.seqs := by
  simp [pastInvals, h]

@[simp] theorem pastInvals_net {α : Type} (f : State → α × State) (s : State)
    (h : ∀ s, (f s).2.net = s.net) : (pastInvals f s).2.net = s.net := by
  simp [pastInvals, h]

@[simp] theorem pastInvals_eth {α : Type} (f : State → α × State) (s : State)
    (h : ∀ s, (f s).2.eth = s.eth) : (pastInvals f s).2.eth = s.eth := by
  simp [pastInvals, h]

@[simp] theorem pastInvals_time {α : Type} (f : State → α × State) (s : State)
    (h : ∀ s, (f s).2.time = s.time) : (pastInvals f s).2.time = s.time := by
  simp [pastInvals, h]

@[simp] theorem pastInvals_env {α : Type} (f : State → α × State) (s : State)
    (h : ∀ s, (f s).2.env = s.env) : (pastInvals f s).2.env = s.env := by
  simp [pastInvals, h]

@[simp] theorem pastInvals_stew {α : Type} (f : State → α × State) (s : State)
    (h : ∀ s, (f s).2.stew = s.stew) : (pastInvals f s).2.stew = s.stew := by
  simp [pastInvals, h]

@[simp] theorem pastInvals_pwr {α : Type} (f : State → α × State) (s : State)
    (h : ∀ s, (f s).2.pwr = s.pwr) : (pastInvals f s).2.pwr = s.pwr := by
  simp [pastInvals, h]

@[simp] theorem pastInvals_keys {α : Type} (f : State → α × State) (s : State)
    (h : ∀ s, (f s).2.keys = s.keys) : (pastInvals f s).2.keys = s.keys := by
  simp [pastInvals, h]

@[simp] theorem pinnedRead_fr (va : ℕ) (n : ℕ) (s : State) :
    (pinnedRead va n s).2.pending = s.pending ∧ (pinnedRead va n s).2.fresh = s.fresh ∧
    (pinnedRead va n s).2.now = s.now ∧ (pinnedRead va n s).2.ticks = s.ticks ∧
    (pinnedRead va n s).2.arrays = s.arrays ∧ (pinnedRead va n s).2.vecs = s.vecs ∧
    (pinnedRead va n s).2.cores = s.cores ∧ (pinnedRead va n s).2.queues = s.queues ∧
    (pinnedRead va n s).2.served = s.served ∧ (pinnedRead va n s).2.node = s.node ∧
    (pinnedRead va n s).2.boot = s.boot ∧ (pinnedRead va n s).2.mgr = s.mgr ∧
    (pinnedRead va n s).2.sec = s.sec ∧ (pinnedRead va n s).2.accInfo = s.accInfo ∧
    (pinnedRead va n s).2.coll = s.coll ∧ (pinnedRead va n s).2.upd = s.upd ∧
    (pinnedRead va n s).2.seqs = s.seqs ∧ (pinnedRead va n s).2.net = s.net ∧
    (pinnedRead va n s).2.eth = s.eth ∧ (pinnedRead va n s).2.time = s.time ∧
    (pinnedRead va n s).2.env = s.env ∧ (pinnedRead va n s).2.stew = s.stew ∧
    (pinnedRead va n s).2.pwr = s.pwr ∧ (pinnedRead va n s).2.keys = s.keys := by
  have h : ∀ t : State, _ := fun t => vaRead_fr codeNone (va % 2 ^ 52) n false false t
  unfold pinnedRead
  have g := fun t => h t
  split <;> (next e => have e2 := congrArg Prod.snd e; simp only at e2; (try split) <;> simp [← e2])

@[simp] theorem readGroupEntry_fr (g : ℕ) (s : State) :
    (readGroupEntry g s).2.pending = s.pending ∧ (readGroupEntry g s).2.fresh = s.fresh ∧
    (readGroupEntry g s).2.now = s.now ∧ (readGroupEntry g s).2.ticks = s.ticks ∧
    (readGroupEntry g s).2.arrays = s.arrays ∧ (readGroupEntry g s).2.vecs = s.vecs ∧
    (readGroupEntry g s).2.cores = s.cores ∧ (readGroupEntry g s).2.queues = s.queues ∧
    (readGroupEntry g s).2.served = s.served ∧ (readGroupEntry g s).2.node = s.node ∧
    (readGroupEntry g s).2.boot = s.boot ∧ (readGroupEntry g s).2.mgr = s.mgr ∧
    (readGroupEntry g s).2.sec = s.sec ∧ (readGroupEntry g s).2.accInfo = s.accInfo ∧
    (readGroupEntry g s).2.coll = s.coll ∧ (readGroupEntry g s).2.upd = s.upd ∧
    (readGroupEntry g s).2.seqs = s.seqs ∧ (readGroupEntry g s).2.net = s.net ∧
    (readGroupEntry g s).2.eth = s.eth ∧ (readGroupEntry g s).2.time = s.time ∧
    (readGroupEntry g s).2.env = s.env ∧ (readGroupEntry g s).2.stew = s.stew ∧
    (readGroupEntry g s).2.pwr = s.pwr ∧ (readGroupEntry g s).2.keys = s.keys := by
  unfold readGroupEntry
  split
  · simp
  · split <;> (next e => have e2 := congrArg Prod.snd e; simp only at e2; simp [← e2])

@[simp] theorem zeroTally_fr (first : ℕ) (n : ℕ) (s : State) :
    (zeroTally first n s).pending = s.pending ∧ (zeroTally first n s).now = s.now ∧
    (zeroTally first n s).ticks = s.ticks ∧ (zeroTally first n s).served = s.served ∧
    (zeroTally first n s).node = s.node ∧ (zeroTally first n s).boot = s.boot ∧
    (zeroTally first n s).mgr = s.mgr ∧ (zeroTally first n s).sec = s.sec ∧
    (zeroTally first n s).accInfo = s.accInfo ∧ (zeroTally first n s).coll = s.coll ∧
    (zeroTally first n s).upd = s.upd ∧ (zeroTally first n s).seqs = s.seqs ∧
    (zeroTally first n s).net = s.net ∧ (zeroTally first n s).eth = s.eth ∧
    (zeroTally first n s).time = s.time ∧ (zeroTally first n s).env = s.env ∧
    (zeroTally first n s).stew = s.stew ∧ (zeroTally first n s).pwr = s.pwr ∧
    (zeroTally first n s).keys = s.keys := by
  unfold zeroTally
  split <;> simp

end Sys2Proof.Machine
end

