-- ==== Sys2Proof/Laws/Array.lean ====
section
/-! SUPPORT. Laws of the array operations: lengths of rows, units written, what touching, semaphores and
alignment leave alone, and sums that do not depend on order. -/

namespace Sys2Proof.Machine

/-! ## Bytes -/

theorem length_leBytes (n k : Nat) : (leBytes n k).length = n := by
  induction n generalizing k with
  | zero => rfl
  | succ n ih => simp [leBytes, ih]

theorem length_flatMap_const {α : Type} (l : List α) (f : α → List Byte) (k : Nat)
    (h : ∀ x, (f x).length = k) : (l.flatMap f).length = l.length * k := by
  induction l with
  | nil => simp
  | cons a l ih => simp [List.flatMap_cons, h a, ih]; ring

/-- A step fills its row. -/
theorem stepRow_length (m : AryMode) (r : Nat) (c : Bool) (a b old : List Byte) :
    (stepRow m c a b old).1.length = 128 * (m.units r).2 := by
  have h4 := fun (l : List (Int × List Nat)) (w : Int → Nat) =>
    length_flatMap_const l (fun r => leBytes 4 (w r.1)) 4 fun _ => length_leBytes _ _
  have h4' := fun (l : List (Nat × List Nat)) =>
    length_flatMap_const l (fun r => leBytes 4 r.1) 4 fun _ => length_leBytes _ _
  cases m
  · show (List.flatMap _ _).length = _
    rw [h4']; simp [AryMode.units]
  · show (List.flatMap _ _).length = _
    rw [h4 _ (wrapNat 32)]; simp [AryMode.units]
  · show (List.flatMap _ _).length = _
    rw [h4 _ (wrapNat 32)]; simp [AryMode.units]
  · show (List.flatMap _ _).length = _
    rw [length_flatMap_const _ _ 8 fun _ => length_leBytes _ _]; simp [AryMode.units]

/-- The written bits a row sets. -/
theorem get_markUnits (n : Nat) : ∀ (m : Sparse Bool) (f k : Nat),
    Sparse.get false (markUnits m f n) k = (Sparse.get false m k || decide (f ≤ k ∧ k < f + n)) := by
  induction n with
  | zero => intro m f k; simp only [markUnits]; rw [decide_eq_false (by omega), Bool.or_false]
  | succ n ih =>
    intro m f k
    rw [markUnits, ih, Sparse.get_set]
    by_cases h : k = f
    · simp [h]
    · rw [if_neg h]; congr 1; simp only [decide_eq_decide]; omega

/-- What was written reads back. -/
theorem readN_writeN (bs : List Byte) (m : Mem) (a : Nat) : (m.writeN a bs).readN a bs.length = bs := by
  suffices h : ∀ n k, k + n = bs.length → (m.writeN a bs).readN (a + k) n = bs.drop k by
    simpa using h bs.length 0 (by omega)
  intro n
  induction n with
  | zero => intro k hk; simp [Mem.readN, show bs.length ≤ k by omega]
  | succ n ih =>
    intro k hk
    have hlt : k < bs.length := by omega
    rw [Mem.readN, Mem.read_writeN_inside _ _ _ _ hlt, List.drop_eq_getElem_cons hlt]
    congr 1
    exact ih (k + 1) (by omega)

/-! ## Engines and their codes -/

theorem streamEng_engCode (e : StreamEng) : streamEng (engCode e) = e ∧ engCode e < 0x20 := by
  cases e with
  | arr n => revert n; decide
  | vec n => revert n; decide

/-! ## Touching -/

/-- The record of what a stream touched is all that changes. -/
theorem touch_arr (n : ArrayId) (c : Nat) (x : Touch) (s : State) (m : Nat) : ∃ l : List (Nat × Touch),
    (touch (.arr n) c x s).arr m
      = if m = n.val then { s.arr n.val with su := { (s.arr n.val).su with touched := l } } else s.arr m := by
  by_cases h : (s.arr n.val).su.touched.contains (c, x)
  · refine ⟨(s.arr n.val).su.touched, ?_⟩
    unfold touch
    simp only [State.modUnit, State.arr_modArr, h, if_true]
  · refine ⟨(s.arr n.val).su.touched ++ [(c, x)], ?_⟩
    unfold touch
    simp only [State.modUnit, State.arr_modArr, h]
    simp

/-! ## Cycles -/

/-- What semaphores arriving leave alone. -/
theorem incSem_arr (n : ArrayId) (k : Nat) (c : IncSrc) (s : State) :
    (∃ a b, (incSem (.arr n) k c s).arr n.val = { s.arr n.val with su := { (s.arr n.val).su with sems := a, incs := b } })
    ∧ (∀ m, m ≠ n.val → (incSem (.arr n) k c s).arr m = s.arr m)
    ∧ (incSem (.arr n) k c s).counters = s.counters ∧ (incSem (.arr n) k c s).outbox = s.outbox ∧ (incSem (.arr n) k c s).queues = s.queues := by
  unfold incSem
  dsimp only
  split
  · refine ⟨⟨_, _, by simp only [raiseEv_fields]; rfl⟩, ?_⟩
    simp
  · refine ⟨⟨_, _, by simp only [State.modUnit, State.arr_modArr, if_true]; rfl⟩, ?_⟩
    simp only [State.modUnit]
    refine ⟨fun m h => by simp [h], by simp⟩

/-- An array cycle's increments touch the array's semaphores alone (and events). -/
theorem ageSems_arr (n : ArrayId) (s : State) :
    (∃ a b c, (ageSems (.arr n) s).arr n.val = { s.arr n.val with su := { (s.arr n.val).su with sems := a, incs := b, semIn := c } })
    ∧ (∀ m, m ≠ n.val → (ageSems (.arr n) s).arr m = s.arr m)
    ∧ (ageSems (.arr n) s).counters = s.counters ∧ (ageSems (.arr n) s).outbox = s.outbox ∧ (ageSems (.arr n) s).queues = s.queues := by
  unfold ageSems
  dsimp only
  generalize List.filter (fun x : Nat × Nat × Nat => decide (x.2.1 ≤ 1)) _ = l
  generalize List.map _ _ = rest
  suffices h : ∀ t : State, (∃ a b c, t.arr n.val = { s.arr n.val with su := { (s.arr n.val).su with sems := a, incs := b, semIn := c } })
    ∧ (∀ m, m ≠ n.val → t.arr m = s.arr m) ∧ t.counters = s.counters ∧ t.outbox = s.outbox ∧ t.queues = s.queues →
    (∃ a b c, (l.foldl (fun s (x : Nat × Nat × Nat) => incSem (.arr n) x.1 (.sig x.2.2) s) t).arr n.val = { s.arr n.val with su := { (s.arr n.val).su with sems := a, incs := b, semIn := c } })
    ∧ (∀ m, m ≠ n.val → (l.foldl (fun s (x : Nat × Nat × Nat) => incSem (.arr n) x.1 (.sig x.2.2) s) t).arr m = s.arr m)
    ∧ (l.foldl (fun s (x : Nat × Nat × Nat) => incSem (.arr n) x.1 (.sig x.2.2) s) t).counters = s.counters ∧ (l.foldl (fun s (x : Nat × Nat × Nat) => incSem (.arr n) x.1 (.sig x.2.2) s) t).outbox = s.outbox ∧ (l.foldl (fun s (x : Nat × Nat × Nat) => incSem (.arr n) x.1 (.sig x.2.2) s) t).queues = s.queues by
    apply h
    refine ⟨⟨(s.arr n.val).su.sems, (s.arr n.val).su.incs, rest, by simp [State.modUnit]⟩, fun m h => by simp [State.modUnit, h], by simp [State.modUnit]⟩
  induction l with
  | nil => intro t h; exact h
  | cons x l ih =>
    intro t ⟨⟨a, b, c, ha⟩, hm, h1, h2, h3⟩
    rw [List.foldl_cons]
    apply ih
    obtain ⟨⟨a', b', g⟩, g1, g2, g3, g4⟩ := incSem_arr n x.1 (.sig x.2.2) t
    refine ⟨⟨a', b', c, by rw [g, ha]⟩, fun m h => by rw [g1 m h, hm m h], by rw [g2, h1], by rw [g3, h2], by rw [g4, h3]⟩

/-- A new cycle of some events registers changes those registers alone. -/
theorem openEvents_arr (l : List (BitVec 16)) : ∀ s : State, (∀ k, (openEvents l s).arr k = s.arr k)
    ∧ (openEvents l s).counters = s.counters ∧ (openEvents l s).outbox = s.outbox ∧ (openEvents l s).queues = s.queues := by
  induction l with
  | nil => intro s; exact ⟨fun _ => rfl, rfl, rfl, rfl⟩
  | cons c l ih =>
    intro s
    obtain ⟨h1, h2, h3, h4⟩ := ih (if (s.ev c).setBits = 0 then s else s.setEv c { s.ev c with setBits := 0 })
    refine ⟨fun k => (h1 k).trans ?_, h2.trans ?_, h3.trans ?_, h4.trans ?_⟩ <;> split <;> rfl

/-- What the beginning of an array cycle changes. -/
theorem openCycle_arr (n : ArrayId) (s : State) :
    (∃ a b c, (openCycle n s).arr n.val = { dutyBoundary (s.arr n.val) with su := { (dutyBoundary (s.arr n.val)).su with sems := a, incs := b, semIn := c } })
    ∧ (∀ m, m ≠ n.val → (openCycle n s).arr m = s.arr m)
    ∧ (openCycle n s).counters = s.counters ∧ (openCycle n s).outbox = s.outbox ∧ (openCycle n s).queues = s.queues := by
  obtain ⟨g, g2, g3, g4⟩ := openEvents_arr [srcAry n.val, srcAryStream n.val] (s.modArr n.val dutyBoundary)
  obtain ⟨⟨a, b, c, h⟩, h1, h2, h3, h4⟩ := ageSems_arr n (openEvents [srcAry n.val, srcAryStream n.val] (s.modArr n.val dutyBoundary))
  unfold openCycle
  refine ⟨⟨a, b, c, by rw [h, g]; simp⟩, fun m hm => by rw [h1 m hm, g]; simp [hm], by rw [h2, g2]; simp, by rw [h3, g3]; simp, by rw [h4, g4]; simp⟩

/-! ## Rows written -/

theorem freeFlags_arr (n : ArrayId) (s : State) (m : Nat) : (freeFlags (.arr n) s).arr m = s.arr m := by
  unfold freeFlags
  simp only []
  have h : ∀ (l : List Nat) (w : W64) (t : State), (l.foldl (fun s k => if bitOf w k then raiseEv (flagSrc (.arr n)) k s else dropEv (flagSrc (.arr n)) (oneBit k) s) t).arr m = t.arr m := by
    intro l w
    induction l with
    | nil => intro t; rfl
    | cons a l ih => intro t; rw [List.foldl_cons, ih]; split <;> simp
  rw [h]; rfl

/-- A row written leaves the stream where it is. -/
theorem landRow_su (n : ArrayId) (f : FlyStep) (s : State) :
    (∃ l, ((landRow n f s).arr n.val).su = { (s.arr n.val).su with touched := l })
    ∧ ((landRow n f s).arr n.val).duty = (s.arr n.val).duty ∧ ((landRow n f s).arr n.val).pos = (s.arr n.val).pos
    ∧ ((landRow n f s).arr n.val).dutyNext = (s.arr n.val).dutyNext := by
  unfold landRow
  dsimp only
  split
  · obtain ⟨l, hl⟩ := touch_arr n (f.due - latRowAcc) (.accUnits (f.mode.units f.row).1 (f.mode.units f.row).2) ((freshBytes (128 * (f.mode.units f.row).2) (s.modArr n.val fun x => { x with fly := x.fly.erase f })).2.modArr n.val fun x => { x with
      acc := x.acc.writeN (128 * (f.mode.units f.row).1) (freshBytes (128 * (f.mode.units f.row).2) (s.modArr n.val fun x => { x with fly := x.fly.erase f })).1, written := markUnits x.written (f.mode.units f.row).1 (f.mode.units f.row).2 }) n.val
    rw [if_pos rfl] at hl
    rw [freeFlags_arr, hl]
    have hfr : ∀ k (t : State), (freshBytes k t).2.arr n.val = t.arr n.val := fun _ _ => rfl
    simp only [State.arr_modArr, if_true, hfr]
    exact ⟨⟨l, rfl⟩, trivial, trivial, trivial⟩
  · obtain ⟨l, hl⟩ := touch_arr n (f.due - latRowAcc) (.accUnits (f.mode.units f.row).1 (f.mode.units f.row).2) ((s.modArr n.val fun x => { x with fly := x.fly.erase f }).modArr n.val fun x => { x with
      acc := x.acc.writeN (128 * (f.mode.units f.row).1) (stepRow f.mode f.acc f.a f.b ((s.arr n.val).acc.readN (128 * (f.mode.units f.row).1) (128 * (f.mode.units f.row).2))).1, written := markUnits x.written (f.mode.units f.row).1 (f.mode.units f.row).2 }) n.val
    rw [if_pos rfl] at hl
    simp only [raiseAll_fields]
    rw [hl]
    simp only [State.arr_modArr, if_true]
    exact ⟨⟨l, rfl⟩, trivial, trivial, trivial⟩

/-- So does all that a cycle finds done. -/
theorem settle_su (n : ArrayId) (s : State) :
    (∃ l, ((settleArray n s).arr n.val).su = { (s.arr n.val).su with touched := l }) := by
  unfold settleArray landDue
  simp only [State.arr_modArr, if_true]
  generalize List.filter _ _ = fs
  have h : ∀ t : State, (∃ l, (t.arr n.val).su = { (s.arr n.val).su with touched := l }) → ∃ l, ((fs.foldl (fun s f => landRow n f s) t).arr n.val).su = { (s.arr n.val).su with touched := l } := by
    induction fs with
    | nil => intro t h; exact h
    | cons f fs ih =>
      intro t ⟨l, h⟩
      rw [List.foldl_cons]
      apply ih
      obtain ⟨⟨l', g⟩, -⟩ := landRow_su n f t
      exact ⟨l', by rw [g, h]⟩
  exact h s ⟨(s.arr n.val).su.touched, rfl⟩

/-! ## Halts -/

/-- Losing alignment changes only the aligned flags (and events). -/
theorem loseAlign_arr (e : StreamEng) (n : Nat) (s : State) :
    ∃ a, (loseAlign e s).arr n = { s.arr n with su := { (s.arr n).su with aligned := a } } := by
  unfold loseAlign
  dsimp only
  split
  · have hr : ∀ (l : List StreamEng) (t : State), (l.foldl (fun s x => raiseEv (streamSrc x) evLockLost s) t).arr n = t.arr n := by
      intro l
      induction l with
      | nil => intro t; rfl
      | cons x l ih => intro t; rw [List.foldl_cons, ih]; simp
    rw [hr]
    generalize groupRunning _ _ = l
    suffices h : ∀ t : State, (∃ a, t.arr n = { s.arr n with su := { (s.arr n).su with aligned := a } }) →
        ∃ a, (l.foldl (fun s x => s.modUnit x fun u => { u with aligned := false }) t).arr n
          = { s.arr n with su := { (s.arr n).su with aligned := a } } from h s ⟨_, rfl⟩
    induction l with
    | nil => intro t h; exact h
    | cons x l ih =>
      intro t ⟨a, h⟩
      rw [List.foldl_cons]
      apply ih
      cases x with
      | arr k =>
        simp only [State.modUnit, State.arr_modArr]
        split
        · next hk => rw [← hk, h]; exact ⟨false, rfl⟩
        · exact ⟨a, h⟩
      | vec k => exact ⟨a, by simp only [State.modUnit, State.modVec_units]; exact h⟩
  · exact ⟨_, rfl⟩

theorem queueHalt_arr (q : Nat) (c : Byte) (s : State) (n : Nat) : (queueHalt q c s).arr n = s.arr n := by
  unfold queueHalt; split <;> simp

/-- A stream that halts keeps its stores and its pipeline; its buffers become invalid. -/
theorem haltStream_arr (n : ArrayId) (m : Strm) (c : Byte) (st : BitVec 16) (qc : Byte) (s : State) (h : (s.arr n.val).su.cur = some m) :
    ∃ a, (haltStream (.arr n) c st qc s).arr n.val = { s.arr n.val with buf0 := {}, buf1 := {}, su := { (s.arr n.val).su with
      aligned := a, status := .halted, haltCause := c, haltStatus := some st, haltQueue := some m.launch.id.q, holding := .none } } := by
  obtain ⟨a, ha⟩ := loseAlign_arr (.arr n) n.val s
  refine ⟨a, ?_⟩
  unfold haltStream
  simp only [State.unit, h, queueHalt_arr, State.modUnit, State.arr_modArr, if_true, ha]

/-! ## Waits and starts -/

/-- What a passed wait does to its unit, and that it leaves the other units alone. -/
theorem passWait_unit (e x : StreamEng) (k : Nat) (s : State) :
    (x ≠ e → (passWait e k s).unit x = s.unit x)
    ∧ ∃ p, (passWait e k s).unit e = { s.unit e with
        sems := Sparse.set 0 (s.unit e).sems k (Sparse.get 0 (s.unit e).sems k - 1)
        incs := (s.unit e).incs.eraseP (·.1 == k), waitPassed := true, holding := .none, pend := p } := by
  unfold passWait
  dsimp only
  split
  · refine ⟨fun h => by rw [State.unit_modUnit, if_neg h, State.unit_modUnit, if_neg h], _, by simp only [State.unit_modUnit_self]; rfl⟩
  · refine ⟨fun h => by rw [State.unit_modUnit, if_neg h], _, by simp only [State.unit_modUnit_self]; rfl⟩
  · split
    · refine ⟨fun h => by rw [State.unit_modVec _ _ _ (by intro _; rfl), State.unit_modUnit, if_neg h], _, by rw [State.unit_modVec _ _ _ (by intro _; rfl)]; simp only [State.unit_modUnit_self]; rfl⟩
    · refine ⟨fun h => by rw [State.unit_modUnit, if_neg h], _, by simp only [State.unit_modUnit_self]; rfl⟩
  · refine ⟨fun h => by rw [State.unit_modUnit, if_neg h], _, by simp only [State.unit_modUnit_self]; rfl⟩

/-- A member that starts runs from its first bundle. -/
theorem startMember_unit (start d : Nat) (b : Bool) (e x : StreamEng) (s : State) :
    (startMember start d b e s).unit x = if x = e then beginUnit start b (s.unit e) else s.unit x := by
  unfold startMember
  cases e with
  | arr n =>
    refine (State.unit_modVec _ _ _ ?_ _).trans ((State.unit_modArr _ _ _ ?_ _).trans ?_)
    · intro _; rfl
    · intro _; rfl
    · simp only [stopBallast, State.modPwr_units, count_fields]; exact State.unit_modUnit _ _ _ _
  | vec n =>
    refine (State.unit_modVec _ _ _ ?_ _).trans (State.unit_modUnit _ _ _ _)
    intro _; rfl

end Sys2Proof.Machine
end

