-- ==== Sys2Proof/Laws/Bytes.lean ====
section
/-! SUPPORT. Laws of little-endian bytes: what is read back from bytes that a number was put into. -/

namespace Sys2Proof.Machine

/-- The number of n little-endian bytes. -/
theorem leNat_leBytes (n : Nat) : ∀ v : Nat, leNat (leBytes n v) = v % 256 ^ n := by
  induction n with
  | zero => intro v; simp [leBytes, leNat, Nat.mod_one]
  | succ n ih =>
    intro v
    simp only [leBytes, leNat, ih, BitVec.toNat_ofNat]
    rw [show (2 : Nat) ^ 8 = 256 from rfl, Nat.pow_succ, Nat.mul_comm (256 ^ n), Nat.mod_mul]

theorem leNat_append : ∀ a b : List Byte, leNat (a ++ b) = leNat a + 256 ^ a.length * leNat b
  | [], b => by simp [leNat]
  | x :: a, b => by
    simp only [List.cons_append, leNat, leNat_append a b, List.length_cons, Nat.pow_succ]
    ring

theorem leNat_lt : ∀ a : List Byte, leNat a < 256 ^ a.length
  | [] => by simp [leNat]
  | x :: a => by
    have := leNat_lt a
    have hx := x.isLt
    simp only [leNat, List.length_cons, Nat.pow_succ]
    omega

/-- Bytes of a prefix are read from the prefix. -/
theorem leAt_append_left (a b : List Byte) (off len : Nat) (h : off + len ≤ a.length) : leAt (a ++ b) off len = leAt a off len := by
  unfold leAt
  rw [List.drop_append_of_le_length (by omega), List.take_append_of_le_length (by rw [List.length_drop]; omega)]

/-- Bytes past a prefix are read from what follows it. -/
theorem leAt_append_right (a b : List Byte) (off len : Nat) (h : a.length ≤ off) : leAt (a ++ b) off len = leAt b (off - a.length) len := by
  unfold leAt
  rw [List.drop_append, List.drop_of_length_le h, List.nil_append]

theorem take_leBytes (k : Nat) : ∀ (n v : Nat), k ≤ n → (leBytes n v).take k = leBytes k v := by
  induction k with
  | zero => intro n v _; simp [leBytes]
  | succ k ih =>
    intro n v h
    obtain ⟨m, rfl⟩ : ∃ m, n = m + 1 := ⟨n - 1, by omega⟩
    simp only [leBytes, List.take_succ_cons]
    rw [ih m (v / 256) (by omega)]

theorem drop_leBytes (k : Nat) : ∀ (n v : Nat), (leBytes n v).drop k = leBytes (n - k) (v / 256 ^ k) := by
  induction k with
  | zero => intro n v; simp
  | succ k ih =>
    intro n v
    cases n with
    | zero => simp [leBytes]
    | succ m =>
      simp only [leBytes, List.drop_succ_cons]
      rw [ih m (v / 256), Nat.div_div_eq_div_mul, Nat.add_sub_add_right, Nat.pow_succ, Nat.mul_comm 256]

/-- A field of a number laid out in bytes. -/
theorem leAt_leBytes (n v off len : Nat) (h : off + len ≤ n) : leAt (leBytes n v) off len = v / 256 ^ off % 256 ^ len := by
  unfold leAt
  rw [drop_leBytes, take_leBytes _ _ _ (by omega), leNat_leBytes]

theorem leAt_whole (a : List Byte) : leAt a 0 a.length = leNat a := by
  unfold leAt; simp

end Sys2Proof.Machine
end

