-- ==== Sys2Proof/Laws/Queue.lean ====
section
/-! SUPPORT. What ends and starts of descriptors leave alone. -/

set_option linter.all false

namespace Sys2Proof.Machine

@[simp] theorem sendFlush_fr (p : PortId) (s : State) :
    (sendFlush p s).pending = s.pending ∧ (sendFlush p s).fresh = s.fresh ∧
    (sendFlush p s).now = s.now ∧ (sendFlush p s).ticks = s.ticks ∧
    (sendFlush p s).arrays = s.arrays ∧ (sendFlush p s).vecs = s.vecs ∧
    (sendFlush p s).hbm = s.hbm ∧ (sendFlush p s).coh = s.coh ∧ (sendFlush p s).cores = s.cores ∧
    (sendFlush p s).xlt = s.xlt ∧ (sendFlush p s).host = s.host ∧
    (sendFlush p s).queues = s.queues ∧ (sendFlush p s).served = s.served ∧
    (sendFlush p s).node = s.node ∧ (sendFlush p s).boot = s.boot ∧ (sendFlush p s).mgr = s.mgr ∧
    (sendFlush p s).pins = s.pins ∧ (sendFlush p s).sec = s.sec ∧
    (sendFlush p s).accInfo = s.accInfo ∧ (sendFlush p s).coll = s.coll ∧
    (sendFlush p s).upd = s.upd ∧ (sendFlush p s).seqs = s.seqs ∧ (sendFlush p s).net = s.net ∧
    (sendFlush p s).eth = s.eth ∧ (sendFlush p s).time = s.time ∧ (sendFlush p s).env = s.env ∧
    (sendFlush p s).stew = s.stew ∧ (sendFlush p s).pwr = s.pwr ∧ (sendFlush p s).keys = s.keys := by
  simp only [sendFlush]; (repeat' split) <;> (simp [*]; done)

@[simp] theorem sendPermitPkt_fr (dst : NodeId) (kind : Byte) (m : PermitMsg) (s : State) :
    (sendPermitPkt dst kind m s).pending = s.pending ∧
    (sendPermitPkt dst kind m s).fresh = s.fresh ∧ (sendPermitPkt dst kind m s).now = s.now ∧
    (sendPermitPkt dst kind m s).ticks = s.ticks ∧ (sendPermitPkt dst kind m s).arrays = s.arrays ∧
    (sendPermitPkt dst kind m s).vecs = s.vecs ∧ (sendPermitPkt dst kind m s).hbm = s.hbm ∧
    (sendPermitPkt dst kind m s).coh = s.coh ∧ (sendPermitPkt dst kind m s).cores = s.cores ∧
    (sendPermitPkt dst kind m s).xlt = s.xlt ∧ (sendPermitPkt dst kind m s).host = s.host ∧
    (sendPermitPkt dst kind m s).queues = s.queues ∧
    (sendPermitPkt dst kind m s).served = s.served ∧ (sendPermitPkt dst kind m s).node = s.node ∧
    (sendPermitPkt dst kind m s).boot = s.boot ∧ (sendPermitPkt dst kind m s).mgr = s.mgr ∧
    (sendPermitPkt dst kind m s).pins = s.pins ∧ (sendPermitPkt dst kind m s).sec = s.sec ∧
    (sendPermitPkt dst kind m s).accInfo = s.accInfo ∧ (sendPermitPkt dst kind m s).coll = s.coll ∧
    (sendPermitPkt dst kind m s).upd = s.upd ∧ (sendPermitPkt dst kind m s).seqs = s.seqs ∧
    (sendPermitPkt dst kind m s).eth = s.eth ∧ (sendPermitPkt dst kind m s).time = s.time ∧
    (sendPermitPkt dst kind m s).env = s.env ∧ (sendPermitPkt dst kind m s).stew = s.stew ∧
    (sendPermitPkt dst kind m s).pwr = s.pwr ∧ (sendPermitPkt dst kind m s).keys = s.keys := by
  simp only [sendPermitPkt]; (repeat' split) <;> (simp [*]; done)

@[simp] theorem selfGrant_fr (amount : ℤ) (window : Bool) (s : State) :
    (selfGrant amount window s).pending = s.pending ∧ (selfGrant amount window s).fresh = s.fresh ∧
    (selfGrant amount window s).outbox = s.outbox ∧ (selfGrant amount window s).now = s.now ∧
    (selfGrant amount window s).ticks = s.ticks ∧ (selfGrant amount window s).arrays = s.arrays ∧
    (selfGrant amount window s).vecs = s.vecs ∧ (selfGrant amount window s).hbm = s.hbm ∧
    (selfGrant amount window s).coh = s.coh ∧ (selfGrant amount window s).cores = s.cores ∧
    (selfGrant amount window s).xlt = s.xlt ∧ (selfGrant amount window s).host = s.host ∧
    (selfGrant amount window s).queues = s.queues ∧ (selfGrant amount window s).served = s.served ∧
    (selfGrant amount window s).node = s.node ∧ (selfGrant amount window s).boot = s.boot ∧
    (selfGrant amount window s).mgr = s.mgr ∧ (selfGrant amount window s).pins = s.pins ∧
    (selfGrant amount window s).sec = s.sec ∧ (selfGrant amount window s).accInfo = s.accInfo ∧
    (selfGrant amount window s).coll = s.coll ∧ (selfGrant amount window s).upd = s.upd ∧
    (selfGrant amount window s).seqs = s.seqs ∧ (selfGrant amount window s).net = s.net ∧
    (selfGrant amount window s).eth = s.eth ∧ (selfGrant amount window s).time = s.time ∧
    (selfGrant amount window s).stew = s.stew ∧ (selfGrant amount window s).pwr = s.pwr ∧
    (selfGrant amount window s).keys = s.keys := by
  simp only [selfGrant]; (repeat' split) <;> (simp [*]; done)

@[simp] theorem bumpSeq_fr (s : State) :
    (bumpSeq s).pending = s.pending ∧ (bumpSeq s).fresh = s.fresh ∧ (bumpSeq s).outbox = s.outbox ∧
    (bumpSeq s).now = s.now ∧ (bumpSeq s).ticks = s.ticks ∧ (bumpSeq s).events = s.events ∧
    (bumpSeq s).edges = s.edges ∧ (bumpSeq s).counters = s.counters ∧
    (bumpSeq s).arrays = s.arrays ∧ (bumpSeq s).vecs = s.vecs ∧ (bumpSeq s).hbm = s.hbm ∧
    (bumpSeq s).coh = s.coh ∧ (bumpSeq s).cores = s.cores ∧ (bumpSeq s).xlt = s.xlt ∧
    (bumpSeq s).host = s.host ∧ (bumpSeq s).queues = s.queues ∧ (bumpSeq s).served = s.served ∧
    (bumpSeq s).node = s.node ∧ (bumpSeq s).boot = s.boot ∧ (bumpSeq s).mgr = s.mgr ∧
    (bumpSeq s).pins = s.pins ∧ (bumpSeq s).sec = s.sec ∧ (bumpSeq s).accInfo = s.accInfo ∧
    (bumpSeq s).coll = s.coll ∧ (bumpSeq s).upd = s.upd ∧ (bumpSeq s).seqs = s.seqs ∧
    (bumpSeq s).net = s.net ∧ (bumpSeq s).eth = s.eth ∧ (bumpSeq s).time = s.time ∧
    (bumpSeq s).stew = s.stew ∧ (bumpSeq s).pwr = s.pwr ∧ (bumpSeq s).keys = s.keys := by
  simp only [bumpSeq]; (repeat' split) <;> (simp [*]; done)

@[simp] theorem stewardRequest_fr (m : PermitMsg) (s : State) :
    (stewardRequest m s).pending = s.pending ∧ (stewardRequest m s).fresh = s.fresh ∧
    (stewardRequest m s).outbox = s.outbox ∧ (stewardRequest m s).now = s.now ∧
    (stewardRequest m s).ticks = s.ticks ∧ (stewardRequest m s).events = s.events ∧
    (stewardRequest m s).edges = s.edges ∧ (stewardRequest m s).counters = s.counters ∧
    (stewardRequest m s).arrays = s.arrays ∧ (stewardRequest m s).vecs = s.vecs ∧
    (stewardRequest m s).hbm = s.hbm ∧ (stewardRequest m s).coh = s.coh ∧
    (stewardRequest m s).cores = s.cores ∧ (stewardRequest m s).xlt = s.xlt ∧
    (stewardRequest m s).host = s.host ∧ (stewardRequest m s).queues = s.queues ∧
    (stewardRequest m s).served = s.served ∧ (stewardRequest m s).node = s.node ∧
    (stewardRequest m s).boot = s.boot ∧ (stewardRequest m s).mgr = s.mgr ∧
    (stewardRequest m s).pins = s.pins ∧ (stewardRequest m s).sec = s.sec ∧
    (stewardRequest m s).accInfo = s.accInfo ∧ (stewardRequest m s).coll = s.coll ∧
    (stewardRequest m s).upd = s.upd ∧ (stewardRequest m s).seqs = s.seqs ∧
    (stewardRequest m s).net = s.net ∧ (stewardRequest m s).eth = s.eth ∧
    (stewardRequest m s).time = s.time ∧ (stewardRequest m s).env = s.env ∧
    (stewardRequest m s).pwr = s.pwr ∧ (stewardRequest m s).keys = s.keys := by
  simp only [stewardRequest]; (repeat' split) <;> (simp [*]; done)

@[simp] theorem stewardReport_fr (m : PermitMsg) (s : State) :
    (stewardReport m s).pending = s.pending ∧ (stewardReport m s).fresh = s.fresh ∧
    (stewardReport m s).outbox = s.outbox ∧ (stewardReport m s).now = s.now ∧
    (stewardReport m s).ticks = s.ticks ∧ (stewardReport m s).events = s.events ∧
    (stewardReport m s).edges = s.edges ∧ (stewardReport m s).counters = s.counters ∧
    (stewardReport m s).arrays = s.arrays ∧ (stewardReport m s).vecs = s.vecs ∧
    (stewardReport m s).hbm = s.hbm ∧ (stewardReport m s).coh = s.coh ∧
    (stewardReport m s).cores = s.cores ∧ (stewardReport m s).xlt = s.xlt ∧
    (stewardReport m s).host = s.host ∧ (stewardReport m s).queues = s.queues ∧
    (stewardReport m s).served = s.served ∧ (stewardReport m s).node = s.node ∧
    (stewardReport m s).boot = s.boot ∧ (stewardReport m s).mgr = s.mgr ∧
    (stewardReport m s).pins = s.pins ∧ (stewardReport m s).sec = s.sec ∧
    (stewardReport m s).accInfo = s.accInfo ∧ (stewardReport m s).coll = s.coll ∧
    (stewardReport m s).upd = s.upd ∧ (stewardReport m s).seqs = s.seqs ∧
    (stewardReport m s).net = s.net ∧ (stewardReport m s).eth = s.eth ∧
    (stewardReport m s).time = s.time ∧ (stewardReport m s).env = s.env ∧
    (stewardReport m s).pwr = s.pwr ∧ (stewardReport m s).keys = s.keys := by
  simp only [stewardReport]; (repeat' split) <;> (simp [*]; done)

@[simp] theorem coverLoss_fr (n : NodeId) (s : State) :
    (coverLoss n s).pending = s.pending ∧ (coverLoss n s).fresh = s.fresh ∧
    (coverLoss n s).outbox = s.outbox ∧ (coverLoss n s).now = s.now ∧
    (coverLoss n s).ticks = s.ticks ∧ (coverLoss n s).counters = s.counters ∧
    (coverLoss n s).arrays = s.arrays ∧ (coverLoss n s).vecs = s.vecs ∧
    (coverLoss n s).hbm = s.hbm ∧ (coverLoss n s).coh = s.coh ∧ (coverLoss n s).cores = s.cores ∧
    (coverLoss n s).xlt = s.xlt ∧ (coverLoss n s).host = s.host ∧
    (coverLoss n s).queues = s.queues ∧ (coverLoss n s).served = s.served ∧
    (coverLoss n s).node = s.node ∧ (coverLoss n s).boot = s.boot ∧ (coverLoss n s).mgr = s.mgr ∧
    (coverLoss n s).pins = s.pins ∧ (coverLoss n s).sec = s.sec ∧
    (coverLoss n s).accInfo = s.accInfo ∧ (coverLoss n s).coll = s.coll ∧
    (coverLoss n s).upd = s.upd ∧ (coverLoss n s).seqs = s.seqs ∧ (coverLoss n s).net = s.net ∧
    (coverLoss n s).eth = s.eth ∧ (coverLoss n s).time = s.time ∧ (coverLoss n s).env = s.env ∧
    (coverLoss n s).pwr = s.pwr ∧ (coverLoss n s).keys = s.keys := by
  simp only [coverLoss]; (repeat' split) <;> (simp [*]; done)

@[simp] theorem stewardExcursion_fr (m : PermitMsg) (s : State) :
    (stewardExcursion m s).pending = s.pending ∧ (stewardExcursion m s).fresh = s.fresh ∧
    (stewardExcursion m s).outbox = s.outbox ∧ (stewardExcursion m s).now = s.now ∧
    (stewardExcursion m s).ticks = s.ticks ∧ (stewardExcursion m s).counters = s.counters ∧
    (stewardExcursion m s).arrays = s.arrays ∧ (stewardExcursion m s).vecs = s.vecs ∧
    (stewardExcursion m s).hbm = s.hbm ∧ (stewardExcursion m s).coh = s.coh ∧
    (stewardExcursion m s).cores = s.cores ∧ (stewardExcursion m s).xlt = s.xlt ∧
    (stewardExcursion m s).host = s.host ∧ (stewardExcursion m s).queues = s.queues ∧
    (stewardExcursion m s).served = s.served ∧ (stewardExcursion m s).node = s.node ∧
    (stewardExcursion m s).boot = s.boot ∧ (stewardExcursion m s).mgr = s.mgr ∧
    (stewardExcursion m s).pins = s.pins ∧ (stewardExcursion m s).sec = s.sec ∧
    (stewardExcursion m s).accInfo = s.accInfo ∧ (stewardExcursion m s).coll = s.coll ∧
    (stewardExcursion m s).upd = s.upd ∧ (stewardExcursion m s).seqs = s.seqs ∧
    (stewardExcursion m s).net = s.net ∧ (stewardExcursion m s).eth = s.eth ∧
    (stewardExcursion m s).time = s.time ∧ (stewardExcursion m s).env = s.env ∧
    (stewardExcursion m s).pwr = s.pwr ∧ (stewardExcursion m s).keys = s.keys := by
  simp only [stewardExcursion]; (repeat' split) <;> (simp [*]; done)

@[simp] theorem sendUp_fr (dst : NodeId) (kind : Byte) (m : PermitMsg) (s : State) :
    (sendUp dst kind m s).pending = s.pending ∧ (sendUp dst kind m s).fresh = s.fresh ∧
    (sendUp dst kind m s).now = s.now ∧ (sendUp dst kind m s).ticks = s.ticks ∧
    (sendUp dst kind m s).arrays = s.arrays ∧ (sendUp dst kind m s).vecs = s.vecs ∧
    (sendUp dst kind m s).hbm = s.hbm ∧ (sendUp dst kind m s).coh = s.coh ∧
    (sendUp dst kind m s).cores = s.cores ∧ (sendUp dst kind m s).xlt = s.xlt ∧
    (sendUp dst kind m s).host = s.host ∧ (sendUp dst kind m s).queues = s.queues ∧
    (sendUp dst kind m s).served = s.served ∧ (sendUp dst kind m s).node = s.node ∧
    (sendUp dst kind m s).boot = s.boot ∧ (sendUp dst kind m s).mgr = s.mgr ∧
    (sendUp dst kind m s).pins = s.pins ∧ (sendUp dst kind m s).sec = s.sec ∧
    (sendUp dst kind m s).accInfo = s.accInfo ∧ (sendUp dst kind m s).coll = s.coll ∧
    (sendUp dst kind m s).upd = s.upd ∧ (sendUp dst kind m s).seqs = s.seqs ∧
    (sendUp dst kind m s).eth = s.eth ∧ (sendUp dst kind m s).time = s.time ∧
    (sendUp dst kind m s).pwr = s.pwr ∧ (sendUp dst kind m s).keys = s.keys := by
  simp only [sendUp]; (repeat' split) <;> (simp [*]; done)

@[simp] theorem askSteward_fr (amount : ℤ) (down : Bool) (urgent : Bool) (window : Bool) (s : State) :
    (askSteward amount down urgent window s).pending = s.pending ∧
    (askSteward amount down urgent window s).fresh = s.fresh ∧
    (askSteward amount down urgent window s).now = s.now ∧
    (askSteward amount down urgent window s).ticks = s.ticks ∧
    (askSteward amount down urgent window s).arrays = s.arrays ∧
    (askSteward amount down urgent window s).vecs = s.vecs ∧
    (askSteward amount down urgent window s).hbm = s.hbm ∧
    (askSteward amount down urgent window s).coh = s.coh ∧
    (askSteward amount down urgent window s).cores = s.cores ∧
    (askSteward amount down urgent window s).xlt = s.xlt ∧
    (askSteward amount down urgent window s).host = s.host ∧
    (askSteward amount down urgent window s).queues = s.queues ∧
    (askSteward amount down urgent window s).served = s.served ∧
    (askSteward amount down urgent window s).node = s.node ∧
    (askSteward amount down urgent window s).boot = s.boot ∧
    (askSteward amount down urgent window s).mgr = s.mgr ∧
    (askSteward amount down urgent window s).pins = s.pins ∧
    (askSteward amount down urgent window s).sec = s.sec ∧
    (askSteward amount down urgent window s).accInfo = s.accInfo ∧
    (askSteward amount down urgent window s).coll = s.coll ∧
    (askSteward amount down urgent window s).upd = s.upd ∧
    (askSteward amount down urgent window s).seqs = s.seqs ∧
    (askSteward amount down urgent window s).eth = s.eth ∧
    (askSteward amount down urgent window s).time = s.time ∧
    (askSteward amount down urgent window s).pwr = s.pwr ∧
    (askSteward amount down urgent window s).keys = s.keys := by
  simp only [askSteward]; (repeat' split) <;> (simp [*]; done)

@[simp] theorem requestUp_fr (amount : ℤ) (s : State) :
    (requestUp amount s).pending = s.pending ∧ (requestUp amount s).fresh = s.fresh ∧
    (requestUp amount s).now = s.now ∧ (requestUp amount s).ticks = s.ticks ∧
    (requestUp amount s).arrays = s.arrays ∧ (requestUp amount s).vecs = s.vecs ∧
    (requestUp amount s).hbm = s.hbm ∧ (requestUp amount s).coh = s.coh ∧
    (requestUp amount s).cores = s.cores ∧ (requestUp amount s).xlt = s.xlt ∧
    (requestUp amount s).host = s.host ∧ (requestUp amount s).queues = s.queues ∧
    (requestUp amount s).served = s.served ∧ (requestUp amount s).node = s.node ∧
    (requestUp amount s).boot = s.boot ∧ (requestUp amount s).mgr = s.mgr ∧
    (requestUp amount s).pins = s.pins ∧ (requestUp amount s).sec = s.sec ∧
    (requestUp amount s).accInfo = s.accInfo ∧ (requestUp amount s).coll = s.coll ∧
    (requestUp amount s).upd = s.upd ∧ (requestUp amount s).seqs = s.seqs ∧
    (requestUp amount s).eth = s.eth ∧ (requestUp amount s).time = s.time ∧
    (requestUp amount s).pwr = s.pwr ∧ (requestUp amount s).keys = s.keys := by
  simp only [requestUp]; (repeat' split) <;> (simp [*]; done)

@[simp] theorem reserve_fr (d : ℕ) (s : State) :
    (reserve d s).pending = s.pending ∧ (reserve d s).fresh = s.fresh ∧
    (reserve d s).outbox = s.outbox ∧ (reserve d s).now = s.now ∧ (reserve d s).ticks = s.ticks ∧
    (reserve d s).events = s.events ∧ (reserve d s).edges = s.edges ∧
    (reserve d s).counters = s.counters ∧ (reserve d s).arrays = s.arrays ∧
    (reserve d s).vecs = s.vecs ∧ (reserve d s).hbm = s.hbm ∧ (reserve d s).coh = s.coh ∧
    (reserve d s).cores = s.cores ∧ (reserve d s).xlt = s.xlt ∧ (reserve d s).host = s.host ∧
    (reserve d s).queues = s.queues ∧ (reserve d s).served = s.served ∧
    (reserve d s).node = s.node ∧ (reserve d s).boot = s.boot ∧ (reserve d s).mgr = s.mgr ∧
    (reserve d s).pins = s.pins ∧ (reserve d s).sec = s.sec ∧ (reserve d s).accInfo = s.accInfo ∧
    (reserve d s).coll = s.coll ∧ (reserve d s).upd = s.upd ∧ (reserve d s).seqs = s.seqs ∧
    (reserve d s).net = s.net ∧ (reserve d s).eth = s.eth ∧ (reserve d s).time = s.time ∧
    (reserve d s).stew = s.stew ∧ (reserve d s).pwr = s.pwr ∧ (reserve d s).keys = s.keys := by
  simp only [reserve]; (repeat' split) <;> (simp [*]; done)

@[simp] theorem sluiceAsk_fr (s : State) :
    (sluiceAsk s).pending = s.pending ∧ (sluiceAsk s).fresh = s.fresh ∧ (sluiceAsk s).now = s.now ∧
    (sluiceAsk s).ticks = s.ticks ∧ (sluiceAsk s).arrays = s.arrays ∧ (sluiceAsk s).vecs = s.vecs ∧
    (sluiceAsk s).hbm = s.hbm ∧ (sluiceAsk s).coh = s.coh ∧ (sluiceAsk s).cores = s.cores ∧
    (sluiceAsk s).xlt = s.xlt ∧ (sluiceAsk s).host = s.host ∧ (sluiceAsk s).queues = s.queues ∧
    (sluiceAsk s).served = s.served ∧ (sluiceAsk s).node = s.node ∧ (sluiceAsk s).boot = s.boot ∧
    (sluiceAsk s).mgr = s.mgr ∧ (sluiceAsk s).pins = s.pins ∧ (sluiceAsk s).sec = s.sec ∧
    (sluiceAsk s).accInfo = s.accInfo ∧ (sluiceAsk s).coll = s.coll ∧ (sluiceAsk s).upd = s.upd ∧
    (sluiceAsk s).seqs = s.seqs ∧ (sluiceAsk s).eth = s.eth ∧ (sluiceAsk s).time = s.time ∧
    (sluiceAsk s).pwr = s.pwr ∧ (sluiceAsk s).keys = s.keys := by
  simp only [sluiceAsk]; (repeat' split) <;> (simp [*]; done)

@[simp] theorem sluice_fr (id : StartId) (d : ℕ) (s : State) :
    (sluice id d s).2.pending = s.pending ∧ (sluice id d s).2.fresh = s.fresh ∧
    (sluice id d s).2.now = s.now ∧ (sluice id d s).2.ticks = s.ticks ∧
    (sluice id d s).2.arrays = s.arrays ∧ (sluice id d s).2.vecs = s.vecs ∧
    (sluice id d s).2.hbm = s.hbm ∧ (sluice id d s).2.coh = s.coh ∧
    (sluice id d s).2.cores = s.cores ∧ (sluice id d s).2.xlt = s.xlt ∧
    (sluice id d s).2.host = s.host ∧ (sluice id d s).2.queues = s.queues ∧
    (sluice id d s).2.served = s.served ∧ (sluice id d s).2.node = s.node ∧
    (sluice id d s).2.boot = s.boot ∧ (sluice id d s).2.mgr = s.mgr ∧
    (sluice id d s).2.pins = s.pins ∧ (sluice id d s).2.sec = s.sec ∧
    (sluice id d s).2.accInfo = s.accInfo ∧ (sluice id d s).2.coll = s.coll ∧
    (sluice id d s).2.upd = s.upd ∧ (sluice id d s).2.seqs = s.seqs ∧
    (sluice id d s).2.eth = s.eth ∧ (sluice id d s).2.time = s.time ∧
    (sluice id d s).2.pwr = s.pwr ∧ (sluice id d s).2.keys = s.keys := by
  simp only [sluice]; (repeat' split) <;> (simp [*]; done)

@[simp] theorem modProg_fr (q : ℕ) (n : ℕ) (f : Prog → Prog) (s : State) :
    (modProg q n f s).pending = s.pending ∧ (modProg q n f s).fresh = s.fresh ∧
    (modProg q n f s).outbox = s.outbox ∧ (modProg q n f s).now = s.now ∧
    (modProg q n f s).ticks = s.ticks ∧ (modProg q n f s).events = s.events ∧
    (modProg q n f s).edges = s.edges ∧ (modProg q n f s).counters = s.counters ∧
    (modProg q n f s).arrays = s.arrays ∧ (modProg q n f s).vecs = s.vecs ∧
    (modProg q n f s).hbm = s.hbm ∧ (modProg q n f s).coh = s.coh ∧
    (modProg q n f s).cores = s.cores ∧ (modProg q n f s).xlt = s.xlt ∧
    (modProg q n f s).host = s.host ∧ (modProg q n f s).served = s.served ∧
    (modProg q n f s).node = s.node ∧ (modProg q n f s).boot = s.boot ∧
    (modProg q n f s).mgr = s.mgr ∧ (modProg q n f s).pins = s.pins ∧
    (modProg q n f s).sec = s.sec ∧ (modProg q n f s).accInfo = s.accInfo ∧
    (modProg q n f s).coll = s.coll ∧ (modProg q n f s).upd = s.upd ∧
    (modProg q n f s).seqs = s.seqs ∧ (modProg q n f s).net = s.net ∧
    (modProg q n f s).eth = s.eth ∧ (modProg q n f s).time = s.time ∧
    (modProg q n f s).env = s.env ∧ (modProg q n f s).stew = s.stew ∧
    (modProg q n f s).pwr = s.pwr ∧ (modProg q n f s).keys = s.keys := by
  simp only [modProg]; (repeat' split) <;> (simp [*]; done)

@[simp] theorem qualify_fr (q : ℕ) (s : State) :
    (qualify q s).pending = s.pending ∧ (qualify q s).fresh = s.fresh ∧ (qualify q s).now = s.now ∧
    (qualify q s).ticks = s.ticks ∧ (qualify q s).events = s.events ∧
    (qualify q s).edges = s.edges ∧ (qualify q s).counters = s.counters ∧
    (qualify q s).arrays = s.arrays ∧ (qualify q s).vecs = s.vecs ∧ (qualify q s).hbm = s.hbm ∧
    (qualify q s).coh = s.coh ∧ (qualify q s).xlt = s.xlt ∧ (qualify q s).served = s.served ∧
    (qualify q s).node = s.node ∧ (qualify q s).boot = s.boot ∧ (qualify q s).mgr = s.mgr ∧
    (qualify q s).pins = s.pins ∧ (qualify q s).sec = s.sec ∧ (qualify q s).accInfo = s.accInfo ∧
    (qualify q s).coll = s.coll ∧ (qualify q s).upd = s.upd ∧ (qualify q s).seqs = s.seqs ∧
    (qualify q s).net = s.net ∧ (qualify q s).eth = s.eth ∧ (qualify q s).time = s.time ∧
    (qualify q s).env = s.env ∧ (qualify q s).stew = s.stew ∧ (qualify q s).pwr = s.pwr ∧
    (qualify q s).keys = s.keys := by
  simp only [qualify]; (repeat' split) <;> (simp [*]; done)

@[simp] theorem waitSpace_fr (q : ℕ) (s : State) :
    (waitSpace q s).pending = s.pending ∧ (waitSpace q s).fresh = s.fresh ∧
    (waitSpace q s).outbox = s.outbox ∧ (waitSpace q s).now = s.now ∧
    (waitSpace q s).ticks = s.ticks ∧ (waitSpace q s).counters = s.counters ∧
    (waitSpace q s).arrays = s.arrays ∧ (waitSpace q s).vecs = s.vecs ∧
    (waitSpace q s).hbm = s.hbm ∧ (waitSpace q s).coh = s.coh ∧ (waitSpace q s).cores = s.cores ∧
    (waitSpace q s).xlt = s.xlt ∧ (waitSpace q s).host = s.host ∧
    (waitSpace q s).served = s.served ∧ (waitSpace q s).node = s.node ∧
    (waitSpace q s).boot = s.boot ∧ (waitSpace q s).mgr = s.mgr ∧ (waitSpace q s).pins = s.pins ∧
    (waitSpace q s).sec = s.sec ∧ (waitSpace q s).accInfo = s.accInfo ∧
    (waitSpace q s).coll = s.coll ∧ (waitSpace q s).upd = s.upd ∧ (waitSpace q s).seqs = s.seqs ∧
    (waitSpace q s).net = s.net ∧ (waitSpace q s).eth = s.eth ∧ (waitSpace q s).time = s.time ∧
    (waitSpace q s).env = s.env ∧ (waitSpace q s).stew = s.stew ∧ (waitSpace q s).pwr = s.pwr ∧
    (waitSpace q s).keys = s.keys := by
  simp only [waitSpace]; (repeat' split) <;> (simp [*]; done)

@[simp] theorem writeRecord_fr (q : ℕ) (r : Rec) (s : State) :
    (writeRecord q r s).pending = s.pending ∧ (writeRecord q r s).now = s.now ∧
    (writeRecord q r s).ticks = s.ticks ∧ (writeRecord q r s).served = s.served ∧
    (writeRecord q r s).node = s.node ∧ (writeRecord q r s).boot = s.boot ∧
    (writeRecord q r s).mgr = s.mgr ∧ (writeRecord q r s).sec = s.sec ∧
    (writeRecord q r s).accInfo = s.accInfo ∧ (writeRecord q r s).coll = s.coll ∧
    (writeRecord q r s).upd = s.upd ∧ (writeRecord q r s).seqs = s.seqs ∧
    (writeRecord q r s).net = s.net ∧ (writeRecord q r s).eth = s.eth ∧
    (writeRecord q r s).time = s.time ∧ (writeRecord q r s).env = s.env ∧
    (writeRecord q r s).stew = s.stew ∧ (writeRecord q r s).pwr = s.pwr ∧
    (writeRecord q r s).keys = s.keys := by
  simp only [writeRecord]; (repeat' split) <;> (simp [*]; done)

@[simp] theorem writeStale_fr (q : ℕ) (s : State) :
    (writeStale q s).pending = s.pending ∧ (writeStale q s).now = s.now ∧
    (writeStale q s).ticks = s.ticks ∧ (writeStale q s).served = s.served ∧
    (writeStale q s).node = s.node ∧ (writeStale q s).boot = s.boot ∧
    (writeStale q s).mgr = s.mgr ∧ (writeStale q s).sec = s.sec ∧
    (writeStale q s).accInfo = s.accInfo ∧ (writeStale q s).coll = s.coll ∧
    (writeStale q s).upd = s.upd ∧ (writeStale q s).seqs = s.seqs ∧ (writeStale q s).net = s.net ∧
    (writeStale q s).eth = s.eth ∧ (writeStale q s).time = s.time ∧ (writeStale q s).env = s.env ∧
    (writeStale q s).stew = s.stew ∧ (writeStale q s).pwr = s.pwr ∧ (writeStale q s).keys = s.keys := by
  simp only [writeStale]; (repeat' split) <;> (simp [*]; done)

@[simp] theorem notePermit_fr (q : ℕ) (n : ℕ) (s : State) :
    (notePermit q n s).pending = s.pending ∧ (notePermit q n s).now = s.now ∧
    (notePermit q n s).ticks = s.ticks ∧ (notePermit q n s).served = s.served ∧
    (notePermit q n s).node = s.node ∧ (notePermit q n s).boot = s.boot ∧
    (notePermit q n s).mgr = s.mgr ∧ (notePermit q n s).sec = s.sec ∧
    (notePermit q n s).accInfo = s.accInfo ∧ (notePermit q n s).coll = s.coll ∧
    (notePermit q n s).upd = s.upd ∧ (notePermit q n s).seqs = s.seqs ∧
    (notePermit q n s).net = s.net ∧ (notePermit q n s).eth = s.eth ∧
    (notePermit q n s).time = s.time ∧ (notePermit q n s).env = s.env ∧
    (notePermit q n s).stew = s.stew ∧ (notePermit q n s).pwr = s.pwr ∧
    (notePermit q n s).keys = s.keys := by
  simp only [notePermit]; (repeat' split) <;> (simp [*]; done)

@[simp] theorem queueHalt_fr (q : ℕ) (cause : Byte) (s : State) :
    (queueHalt q cause s).pending = s.pending ∧ (queueHalt q cause s).fresh = s.fresh ∧
    (queueHalt q cause s).outbox = s.outbox ∧ (queueHalt q cause s).now = s.now ∧
    (queueHalt q cause s).ticks = s.ticks ∧ (queueHalt q cause s).counters = s.counters ∧
    (queueHalt q cause s).arrays = s.arrays ∧ (queueHalt q cause s).vecs = s.vecs ∧
    (queueHalt q cause s).hbm = s.hbm ∧ (queueHalt q cause s).coh = s.coh ∧
    (queueHalt q cause s).cores = s.cores ∧ (queueHalt q cause s).xlt = s.xlt ∧
    (queueHalt q cause s).host = s.host ∧ (queueHalt q cause s).served = s.served ∧
    (queueHalt q cause s).node = s.node ∧ (queueHalt q cause s).boot = s.boot ∧
    (queueHalt q cause s).mgr = s.mgr ∧ (queueHalt q cause s).pins = s.pins ∧
    (queueHalt q cause s).sec = s.sec ∧ (queueHalt q cause s).accInfo = s.accInfo ∧
    (queueHalt q cause s).coll = s.coll ∧ (queueHalt q cause s).upd = s.upd ∧
    (queueHalt q cause s).seqs = s.seqs ∧ (queueHalt q cause s).net = s.net ∧
    (queueHalt q cause s).eth = s.eth ∧ (queueHalt q cause s).time = s.time ∧
    (queueHalt q cause s).env = s.env ∧ (queueHalt q cause s).stew = s.stew ∧
    (queueHalt q cause s).pwr = s.pwr ∧ (queueHalt q cause s).keys = s.keys := by
  simp only [queueHalt]; (repeat' split) <;> (simp [*]; done)

@[simp] theorem endUnstarted_fr (q : ℕ) (f : Fetched) (st : BitVec 16) (s : State) :
    (endUnstarted q f st s).pending = s.pending ∧ (endUnstarted q f st s).outbox = s.outbox ∧
    (endUnstarted q f st s).now = s.now ∧ (endUnstarted q f st s).ticks = s.ticks ∧
    (endUnstarted q f st s).events = s.events ∧ (endUnstarted q f st s).edges = s.edges ∧
    (endUnstarted q f st s).counters = s.counters ∧ (endUnstarted q f st s).arrays = s.arrays ∧
    (endUnstarted q f st s).vecs = s.vecs ∧ (endUnstarted q f st s).hbm = s.hbm ∧
    (endUnstarted q f st s).coh = s.coh ∧ (endUnstarted q f st s).cores = s.cores ∧
    (endUnstarted q f st s).xlt = s.xlt ∧ (endUnstarted q f st s).host = s.host ∧
    (endUnstarted q f st s).served = s.served ∧ (endUnstarted q f st s).node = s.node ∧
    (endUnstarted q f st s).boot = s.boot ∧ (endUnstarted q f st s).mgr = s.mgr ∧
    (endUnstarted q f st s).pins = s.pins ∧ (endUnstarted q f st s).sec = s.sec ∧
    (endUnstarted q f st s).accInfo = s.accInfo ∧ (endUnstarted q f st s).coll = s.coll ∧
    (endUnstarted q f st s).upd = s.upd ∧ (endUnstarted q f st s).seqs = s.seqs ∧
    (endUnstarted q f st s).net = s.net ∧ (endUnstarted q f st s).eth = s.eth ∧
    (endUnstarted q f st s).time = s.time ∧ (endUnstarted q f st s).env = s.env ∧
    (endUnstarted q f st s).stew = s.stew ∧ (endUnstarted q f st s).pwr = s.pwr ∧
    (endUnstarted q f st s).keys = s.keys := by
  simp only [endUnstarted]; (repeat' split) <;> (simp [*]; done)

@[simp] theorem settleHead_fr (q : ℕ) (s : State) :
    (settleHead q s).pending = s.pending ∧ (settleHead q s).outbox = s.outbox ∧
    (settleHead q s).now = s.now ∧ (settleHead q s).ticks = s.ticks ∧
    (settleHead q s).counters = s.counters ∧ (settleHead q s).arrays = s.arrays ∧
    (settleHead q s).vecs = s.vecs ∧ (settleHead q s).hbm = s.hbm ∧ (settleHead q s).coh = s.coh ∧
    (settleHead q s).cores = s.cores ∧ (settleHead q s).xlt = s.xlt ∧
    (settleHead q s).host = s.host ∧ (settleHead q s).served = s.served ∧
    (settleHead q s).node = s.node ∧ (settleHead q s).boot = s.boot ∧
    (settleHead q s).mgr = s.mgr ∧ (settleHead q s).pins = s.pins ∧ (settleHead q s).sec = s.sec ∧
    (settleHead q s).accInfo = s.accInfo ∧ (settleHead q s).coll = s.coll ∧
    (settleHead q s).upd = s.upd ∧ (settleHead q s).seqs = s.seqs ∧ (settleHead q s).net = s.net ∧
    (settleHead q s).eth = s.eth ∧ (settleHead q s).time = s.time ∧ (settleHead q s).env = s.env ∧
    (settleHead q s).stew = s.stew ∧ (settleHead q s).pwr = s.pwr ∧ (settleHead q s).keys = s.keys := by
  simp only [settleHead]; (repeat' split) <;> (simp [*]; done)

@[simp] theorem beginDesc_fr (q : ℕ) (op : ℕ) (s : State) :
    (beginDesc q op s).2.pending = s.pending ∧ (beginDesc q op s).2.outbox = s.outbox ∧
    (beginDesc q op s).2.now = s.now ∧ (beginDesc q op s).2.ticks = s.ticks ∧
    (beginDesc q op s).2.counters = s.counters ∧ (beginDesc q op s).2.arrays = s.arrays ∧
    (beginDesc q op s).2.vecs = s.vecs ∧ (beginDesc q op s).2.hbm = s.hbm ∧
    (beginDesc q op s).2.coh = s.coh ∧ (beginDesc q op s).2.cores = s.cores ∧
    (beginDesc q op s).2.xlt = s.xlt ∧ (beginDesc q op s).2.host = s.host ∧
    (beginDesc q op s).2.node = s.node ∧ (beginDesc q op s).2.boot = s.boot ∧
    (beginDesc q op s).2.mgr = s.mgr ∧ (beginDesc q op s).2.pins = s.pins ∧
    (beginDesc q op s).2.sec = s.sec ∧ (beginDesc q op s).2.accInfo = s.accInfo ∧
    (beginDesc q op s).2.coll = s.coll ∧ (beginDesc q op s).2.upd = s.upd ∧
    (beginDesc q op s).2.seqs = s.seqs ∧ (beginDesc q op s).2.net = s.net ∧
    (beginDesc q op s).2.eth = s.eth ∧ (beginDesc q op s).2.time = s.time ∧
    (beginDesc q op s).2.env = s.env ∧ (beginDesc q op s).2.stew = s.stew ∧
    (beginDesc q op s).2.pwr = s.pwr ∧ (beginDesc q op s).2.keys = s.keys := by
  simp only [beginDesc]; (repeat' split) <;> (simp [*]; done)

@[simp] theorem startDesc_fr (q : ℕ) (op : ℕ) (s : State) :
    (startDesc q op s).2.pending = s.pending ∧ (startDesc q op s).2.now = s.now ∧
    (startDesc q op s).2.ticks = s.ticks ∧ (startDesc q op s).2.node = s.node ∧
    (startDesc q op s).2.boot = s.boot ∧ (startDesc q op s).2.mgr = s.mgr ∧
    (startDesc q op s).2.sec = s.sec ∧ (startDesc q op s).2.accInfo = s.accInfo ∧
    (startDesc q op s).2.coll = s.coll ∧ (startDesc q op s).2.upd = s.upd ∧
    (startDesc q op s).2.seqs = s.seqs ∧ (startDesc q op s).2.eth = s.eth ∧
    (startDesc q op s).2.time = s.time ∧ (startDesc q op s).2.pwr = s.pwr ∧
    (startDesc q op s).2.keys = s.keys := by
  unfold startDesc; dsimp only; (repeat' split) <;> (first | (simp (disch := (intros; first | (simp; done) | ((repeat' split) <;> simp))) [*]; done) | grind [beginDesc_fr, sluice_fr, notePermit_fr, modProg_fr])

@[simp] theorem endProg_fr (q : ℕ) (n : ℕ) (st : BitVec 16) (result : W64) (s : State) :
    (endProg q n st result s).pending = s.pending ∧ (endProg q n st result s).fresh = s.fresh ∧
    (endProg q n st result s).outbox = s.outbox ∧ (endProg q n st result s).now = s.now ∧
    (endProg q n st result s).ticks = s.ticks ∧ (endProg q n st result s).events = s.events ∧
    (endProg q n st result s).edges = s.edges ∧ (endProg q n st result s).counters = s.counters ∧
    (endProg q n st result s).arrays = s.arrays ∧ (endProg q n st result s).vecs = s.vecs ∧
    (endProg q n st result s).hbm = s.hbm ∧ (endProg q n st result s).coh = s.coh ∧
    (endProg q n st result s).cores = s.cores ∧ (endProg q n st result s).xlt = s.xlt ∧
    (endProg q n st result s).host = s.host ∧ (endProg q n st result s).served = s.served ∧
    (endProg q n st result s).node = s.node ∧ (endProg q n st result s).boot = s.boot ∧
    (endProg q n st result s).mgr = s.mgr ∧ (endProg q n st result s).pins = s.pins ∧
    (endProg q n st result s).sec = s.sec ∧ (endProg q n st result s).accInfo = s.accInfo ∧
    (endProg q n st result s).coll = s.coll ∧ (endProg q n st result s).upd = s.upd ∧
    (endProg q n st result s).seqs = s.seqs ∧ (endProg q n st result s).net = s.net ∧
    (endProg q n st result s).eth = s.eth ∧ (endProg q n st result s).time = s.time ∧
    (endProg q n st result s).env = s.env ∧ (endProg q n st result s).stew = s.stew ∧
    (endProg q n st result s).pwr = s.pwr ∧ (endProg q n st result s).keys = s.keys := by
  simp only [endProg]; (repeat' split) <;> (simp [*]; done)

@[simp] theorem endFree_fr (q : ℕ) (n : ℕ) (st : BitVec 16) (s : State) :
    (endFree q n st s).pending = s.pending ∧ (endFree q n st s).outbox = s.outbox ∧
    (endFree q n st s).now = s.now ∧ (endFree q n st s).ticks = s.ticks ∧
    (endFree q n st s).events = s.events ∧ (endFree q n st s).edges = s.edges ∧
    (endFree q n st s).counters = s.counters ∧ (endFree q n st s).arrays = s.arrays ∧
    (endFree q n st s).vecs = s.vecs ∧ (endFree q n st s).hbm = s.hbm ∧
    (endFree q n st s).coh = s.coh ∧ (endFree q n st s).cores = s.cores ∧
    (endFree q n st s).xlt = s.xlt ∧ (endFree q n st s).host = s.host ∧
    (endFree q n st s).served = s.served ∧ (endFree q n st s).node = s.node ∧
    (endFree q n st s).boot = s.boot ∧ (endFree q n st s).mgr = s.mgr ∧
    (endFree q n st s).pins = s.pins ∧ (endFree q n st s).sec = s.sec ∧
    (endFree q n st s).accInfo = s.accInfo ∧ (endFree q n st s).coll = s.coll ∧
    (endFree q n st s).upd = s.upd ∧ (endFree q n st s).seqs = s.seqs ∧
    (endFree q n st s).net = s.net ∧ (endFree q n st s).eth = s.eth ∧
    (endFree q n st s).time = s.time ∧ (endFree q n st s).env = s.env ∧
    (endFree q n st s).stew = s.stew ∧ (endFree q n st s).pwr = s.pwr ∧
    (endFree q n st s).keys = s.keys := by
  simp only [endFree]; (repeat' split) <;> (simp [*]; done)

@[simp] theorem advanceSeq_fr (q : ℕ) (p : Prog) (s : State) :
    (advanceSeq q p s).pending = s.pending ∧ (advanceSeq q p s).fresh = s.fresh ∧
    (advanceSeq q p s).outbox = s.outbox ∧ (advanceSeq q p s).now = s.now ∧
    (advanceSeq q p s).ticks = s.ticks ∧ (advanceSeq q p s).events = s.events ∧
    (advanceSeq q p s).edges = s.edges ∧ (advanceSeq q p s).counters = s.counters ∧
    (advanceSeq q p s).arrays = s.arrays ∧ (advanceSeq q p s).vecs = s.vecs ∧
    (advanceSeq q p s).hbm = s.hbm ∧ (advanceSeq q p s).coh = s.coh ∧
    (advanceSeq q p s).cores = s.cores ∧ (advanceSeq q p s).xlt = s.xlt ∧
    (advanceSeq q p s).host = s.host ∧ (advanceSeq q p s).queues = s.queues ∧
    (advanceSeq q p s).served = s.served ∧ (advanceSeq q p s).node = s.node ∧
    (advanceSeq q p s).boot = s.boot ∧ (advanceSeq q p s).mgr = s.mgr ∧
    (advanceSeq q p s).pins = s.pins ∧ (advanceSeq q p s).sec = s.sec ∧
    (advanceSeq q p s).accInfo = s.accInfo ∧ (advanceSeq q p s).upd = s.upd ∧
    (advanceSeq q p s).seqs = s.seqs ∧ (advanceSeq q p s).net = s.net ∧
    (advanceSeq q p s).eth = s.eth ∧ (advanceSeq q p s).time = s.time ∧
    (advanceSeq q p s).env = s.env ∧ (advanceSeq q p s).stew = s.stew ∧
    (advanceSeq q p s).pwr = s.pwr ∧ (advanceSeq q p s).keys = s.keys := by
  simp only [advanceSeq]; (repeat' split) <;> (simp [*]; done)

@[simp] theorem dropSeqRun_fr (q : ℕ) (n : ℕ) (s : State) :
    (dropSeqRun q n s).pending = s.pending ∧ (dropSeqRun q n s).fresh = s.fresh ∧
    (dropSeqRun q n s).outbox = s.outbox ∧ (dropSeqRun q n s).now = s.now ∧
    (dropSeqRun q n s).ticks = s.ticks ∧ (dropSeqRun q n s).events = s.events ∧
    (dropSeqRun q n s).edges = s.edges ∧ (dropSeqRun q n s).counters = s.counters ∧
    (dropSeqRun q n s).arrays = s.arrays ∧ (dropSeqRun q n s).vecs = s.vecs ∧
    (dropSeqRun q n s).hbm = s.hbm ∧ (dropSeqRun q n s).coh = s.coh ∧
    (dropSeqRun q n s).cores = s.cores ∧ (dropSeqRun q n s).xlt = s.xlt ∧
    (dropSeqRun q n s).host = s.host ∧ (dropSeqRun q n s).queues = s.queues ∧
    (dropSeqRun q n s).served = s.served ∧ (dropSeqRun q n s).node = s.node ∧
    (dropSeqRun q n s).boot = s.boot ∧ (dropSeqRun q n s).mgr = s.mgr ∧
    (dropSeqRun q n s).pins = s.pins ∧ (dropSeqRun q n s).sec = s.sec ∧
    (dropSeqRun q n s).accInfo = s.accInfo ∧ (dropSeqRun q n s).coll = s.coll ∧
    (dropSeqRun q n s).upd = s.upd ∧ (dropSeqRun q n s).net = s.net ∧
    (dropSeqRun q n s).eth = s.eth ∧ (dropSeqRun q n s).time = s.time ∧
    (dropSeqRun q n s).env = s.env ∧ (dropSeqRun q n s).stew = s.stew ∧
    (dropSeqRun q n s).pwr = s.pwr ∧ (dropSeqRun q n s).keys = s.keys := by
  simp only [dropSeqRun]; (repeat' split) <;> (simp [*]; done)

@[simp] theorem startFlush_fr (q : ℕ) (p : Prog) (s : State) :
    (startFlush q p s).pending = s.pending ∧ (startFlush q p s).fresh = s.fresh ∧
    (startFlush q p s).now = s.now ∧ (startFlush q p s).ticks = s.ticks ∧
    (startFlush q p s).arrays = s.arrays ∧ (startFlush q p s).vecs = s.vecs ∧
    (startFlush q p s).hbm = s.hbm ∧ (startFlush q p s).coh = s.coh ∧
    (startFlush q p s).cores = s.cores ∧ (startFlush q p s).xlt = s.xlt ∧
    (startFlush q p s).host = s.host ∧ (startFlush q p s).served = s.served ∧
    (startFlush q p s).node = s.node ∧ (startFlush q p s).boot = s.boot ∧
    (startFlush q p s).mgr = s.mgr ∧ (startFlush q p s).pins = s.pins ∧
    (startFlush q p s).sec = s.sec ∧ (startFlush q p s).accInfo = s.accInfo ∧
    (startFlush q p s).coll = s.coll ∧ (startFlush q p s).upd = s.upd ∧
    (startFlush q p s).seqs = s.seqs ∧ (startFlush q p s).net = s.net ∧
    (startFlush q p s).eth = s.eth ∧ (startFlush q p s).time = s.time ∧
    (startFlush q p s).env = s.env ∧ (startFlush q p s).stew = s.stew ∧
    (startFlush q p s).pwr = s.pwr ∧ (startFlush q p s).keys = s.keys := by
  simp only [startFlush]; (repeat' split) <;> (simp [*]; done)

@[simp] theorem finalRecord_fr (q : ℕ) (p : Prog) (s : State) :
    (finalRecord q p s).pending = s.pending ∧ (finalRecord q p s).now = s.now ∧
    (finalRecord q p s).ticks = s.ticks ∧ (finalRecord q p s).served = s.served ∧
    (finalRecord q p s).node = s.node ∧ (finalRecord q p s).boot = s.boot ∧
    (finalRecord q p s).mgr = s.mgr ∧ (finalRecord q p s).sec = s.sec ∧
    (finalRecord q p s).accInfo = s.accInfo ∧ (finalRecord q p s).upd = s.upd ∧
    (finalRecord q p s).net = s.net ∧ (finalRecord q p s).eth = s.eth ∧
    (finalRecord q p s).env = s.env ∧ (finalRecord q p s).stew = s.stew ∧
    (finalRecord q p s).pwr = s.pwr ∧ (finalRecord q p s).keys = s.keys := by
  simp only [finalRecord]; (repeat' split) <;> (simp [*]; done)

@[simp] theorem finishFuel_fr (q : ℕ) (a1 : ℕ) (a2 : State) :
    (finishFuel q a1 a2).pending = a2.pending ∧ (finishFuel q a1 a2).now = a2.now ∧
    (finishFuel q a1 a2).ticks = a2.ticks ∧ (finishFuel q a1 a2).served = a2.served ∧
    (finishFuel q a1 a2).node = a2.node ∧ (finishFuel q a1 a2).boot = a2.boot ∧
    (finishFuel q a1 a2).mgr = a2.mgr ∧ (finishFuel q a1 a2).sec = a2.sec ∧
    (finishFuel q a1 a2).accInfo = a2.accInfo ∧ (finishFuel q a1 a2).upd = a2.upd ∧
    (finishFuel q a1 a2).net = a2.net ∧ (finishFuel q a1 a2).eth = a2.eth ∧
    (finishFuel q a1 a2).env = a2.env ∧ (finishFuel q a1 a2).stew = a2.stew ∧
    (finishFuel q a1 a2).pwr = a2.pwr ∧ (finishFuel q a1 a2).keys = a2.keys := by
  fun_induction finishFuel q a1 a2 <;> (first | (simp (disch := (intros; first | (simp; done) | ((repeat' split) <;> simp))) [*]; done) | grind [startFlush_fr, endProg_fr, waitSpace_fr, finalRecord_fr])

@[simp] theorem settleSpace_fr (q : ℕ) (s : State) :
    (settleSpace q s).pending = s.pending ∧ (settleSpace q s).now = s.now ∧
    (settleSpace q s).ticks = s.ticks ∧ (settleSpace q s).served = s.served ∧
    (settleSpace q s).node = s.node ∧ (settleSpace q s).boot = s.boot ∧
    (settleSpace q s).mgr = s.mgr ∧ (settleSpace q s).sec = s.sec ∧
    (settleSpace q s).accInfo = s.accInfo ∧ (settleSpace q s).coll = s.coll ∧
    (settleSpace q s).upd = s.upd ∧ (settleSpace q s).seqs = s.seqs ∧
    (settleSpace q s).net = s.net ∧ (settleSpace q s).eth = s.eth ∧
    (settleSpace q s).time = s.time ∧ (settleSpace q s).env = s.env ∧
    (settleSpace q s).stew = s.stew ∧ (settleSpace q s).pwr = s.pwr ∧
    (settleSpace q s).keys = s.keys := by
  simp only [settleSpace]; (repeat' split) <;> (simp [*]; done)

@[simp] theorem finishQueue_fr (q : ℕ) (s : State) :
    (finishQueue q s).pending = s.pending ∧ (finishQueue q s).now = s.now ∧
    (finishQueue q s).ticks = s.ticks ∧ (finishQueue q s).served = s.served ∧
    (finishQueue q s).node = s.node ∧ (finishQueue q s).boot = s.boot ∧
    (finishQueue q s).mgr = s.mgr ∧ (finishQueue q s).sec = s.sec ∧
    (finishQueue q s).accInfo = s.accInfo ∧ (finishQueue q s).upd = s.upd ∧
    (finishQueue q s).net = s.net ∧ (finishQueue q s).eth = s.eth ∧ (finishQueue q s).env = s.env ∧
    (finishQueue q s).stew = s.stew ∧ (finishQueue q s).pwr = s.pwr ∧
    (finishQueue q s).keys = s.keys := by
  simp only [finishQueue]; (repeat' split) <;> (simp [*]; done)

@[simp] theorem sendAcks_fr (s : State) :
    (sendAcks s).pending = s.pending ∧ (sendAcks s).fresh = s.fresh ∧ (sendAcks s).now = s.now ∧
    (sendAcks s).ticks = s.ticks ∧ (sendAcks s).arrays = s.arrays ∧ (sendAcks s).vecs = s.vecs ∧
    (sendAcks s).hbm = s.hbm ∧ (sendAcks s).coh = s.coh ∧ (sendAcks s).cores = s.cores ∧
    (sendAcks s).xlt = s.xlt ∧ (sendAcks s).host = s.host ∧ (sendAcks s).queues = s.queues ∧
    (sendAcks s).served = s.served ∧ (sendAcks s).node = s.node ∧ (sendAcks s).boot = s.boot ∧
    (sendAcks s).mgr = s.mgr ∧ (sendAcks s).pins = s.pins ∧ (sendAcks s).sec = s.sec ∧
    (sendAcks s).accInfo = s.accInfo ∧ (sendAcks s).coll = s.coll ∧ (sendAcks s).upd = s.upd ∧
    (sendAcks s).seqs = s.seqs ∧ (sendAcks s).eth = s.eth ∧ (sendAcks s).time = s.time ∧
    (sendAcks s).env = s.env ∧ (sendAcks s).stew = s.stew ∧ (sendAcks s).pwr = s.pwr ∧
    (sendAcks s).keys = s.keys := by
  simp only [sendAcks]; (repeat' split) <;> (simp [*]; done)

@[simp] theorem incSem_fr (e : StreamEng) (k : ℕ) (src : IncSrc) (s : State) :
    (incSem e k src s).pending = s.pending ∧ (incSem e k src s).fresh = s.fresh ∧
    (incSem e k src s).outbox = s.outbox ∧ (incSem e k src s).now = s.now ∧
    (incSem e k src s).ticks = s.ticks ∧ (incSem e k src s).counters = s.counters ∧
    (incSem e k src s).hbm = s.hbm ∧ (incSem e k src s).coh = s.coh ∧
    (incSem e k src s).cores = s.cores ∧ (incSem e k src s).xlt = s.xlt ∧
    (incSem e k src s).host = s.host ∧ (incSem e k src s).queues = s.queues ∧
    (incSem e k src s).served = s.served ∧ (incSem e k src s).node = s.node ∧
    (incSem e k src s).boot = s.boot ∧ (incSem e k src s).mgr = s.mgr ∧
    (incSem e k src s).pins = s.pins ∧ (incSem e k src s).sec = s.sec ∧
    (incSem e k src s).accInfo = s.accInfo ∧ (incSem e k src s).coll = s.coll ∧
    (incSem e k src s).upd = s.upd ∧ (incSem e k src s).seqs = s.seqs ∧
    (incSem e k src s).net = s.net ∧ (incSem e k src s).eth = s.eth ∧
    (incSem e k src s).time = s.time ∧ (incSem e k src s).env = s.env ∧
    (incSem e k src s).stew = s.stew ∧ (incSem e k src s).pwr = s.pwr ∧
    (incSem e k src s).keys = s.keys := by
  simp only [incSem]; (repeat' split) <;> (simp [*]; done)

@[simp] theorem notePages_fr (id : DescId) (va : ℕ) (n : ℕ) (s : State) :
    (notePages id va n s).pending = s.pending ∧ (notePages id va n s).fresh = s.fresh ∧
    (notePages id va n s).outbox = s.outbox ∧ (notePages id va n s).now = s.now ∧
    (notePages id va n s).ticks = s.ticks ∧ (notePages id va n s).events = s.events ∧
    (notePages id va n s).edges = s.edges ∧ (notePages id va n s).counters = s.counters ∧
    (notePages id va n s).arrays = s.arrays ∧ (notePages id va n s).vecs = s.vecs ∧
    (notePages id va n s).hbm = s.hbm ∧ (notePages id va n s).coh = s.coh ∧
    (notePages id va n s).cores = s.cores ∧ (notePages id va n s).xlt = s.xlt ∧
    (notePages id va n s).host = s.host ∧ (notePages id va n s).served = s.served ∧
    (notePages id va n s).node = s.node ∧ (notePages id va n s).boot = s.boot ∧
    (notePages id va n s).mgr = s.mgr ∧ (notePages id va n s).pins = s.pins ∧
    (notePages id va n s).sec = s.sec ∧ (notePages id va n s).accInfo = s.accInfo ∧
    (notePages id va n s).coll = s.coll ∧ (notePages id va n s).upd = s.upd ∧
    (notePages id va n s).seqs = s.seqs ∧ (notePages id va n s).net = s.net ∧
    (notePages id va n s).eth = s.eth ∧ (notePages id va n s).time = s.time ∧
    (notePages id va n s).env = s.env ∧ (notePages id va n s).stew = s.stew ∧
    (notePages id va n s).pwr = s.pwr ∧ (notePages id va n s).keys = s.keys := by
  simp only [notePages]; (repeat' split) <;> (simp [*]; done)

@[simp] theorem translateEach_fr (code : ℕ) (a1 : List (ℕ × ℕ × Bool)) (a2 : State) :
    (translateEach code a1 a2).2.2.pending = a2.pending ∧
    (translateEach code a1 a2).2.2.fresh = a2.fresh ∧
    (translateEach code a1 a2).2.2.outbox = a2.outbox ∧
    (translateEach code a1 a2).2.2.now = a2.now ∧ (translateEach code a1 a2).2.2.ticks = a2.ticks ∧
    (translateEach code a1 a2).2.2.arrays = a2.arrays ∧
    (translateEach code a1 a2).2.2.vecs = a2.vecs ∧
    (translateEach code a1 a2).2.2.cores = a2.cores ∧
    (translateEach code a1 a2).2.2.host = a2.host ∧
    (translateEach code a1 a2).2.2.queues = a2.queues ∧
    (translateEach code a1 a2).2.2.served = a2.served ∧
    (translateEach code a1 a2).2.2.node = a2.node ∧ (translateEach code a1 a2).2.2.boot = a2.boot ∧
    (translateEach code a1 a2).2.2.mgr = a2.mgr ∧ (translateEach code a1 a2).2.2.sec = a2.sec ∧
    (translateEach code a1 a2).2.2.accInfo = a2.accInfo ∧
    (translateEach code a1 a2).2.2.coll = a2.coll ∧ (translateEach code a1 a2).2.2.upd = a2.upd ∧
    (translateEach code a1 a2).2.2.seqs = a2.seqs ∧ (translateEach code a1 a2).2.2.net = a2.net ∧
    (translateEach code a1 a2).2.2.eth = a2.eth ∧ (translateEach code a1 a2).2.2.time = a2.time ∧
    (translateEach code a1 a2).2.2.env = a2.env ∧ (translateEach code a1 a2).2.2.stew = a2.stew ∧
    (translateEach code a1 a2).2.2.pwr = a2.pwr ∧ (translateEach code a1 a2).2.2.keys = a2.keys := by
  fun_induction translateEach code a1 a2 <;> (first | (simp (disch := (intros; first | (simp; done) | ((repeat' split) <;> simp))) [*]; done) | grind [translateAll_fr])

@[simp] theorem readFloats_fr (u : ℕ) (m : UpdMaps) (va : ℕ) (n : ℕ) (s : State) :
    (readFloats u m va n s).2.pending = s.pending ∧ (readFloats u m va n s).2.fresh = s.fresh ∧
    (readFloats u m va n s).2.now = s.now ∧ (readFloats u m va n s).2.ticks = s.ticks ∧
    (readFloats u m va n s).2.arrays = s.arrays ∧ (readFloats u m va n s).2.vecs = s.vecs ∧
    (readFloats u m va n s).2.cores = s.cores ∧ (readFloats u m va n s).2.xlt = s.xlt ∧
    (readFloats u m va n s).2.queues = s.queues ∧ (readFloats u m va n s).2.served = s.served ∧
    (readFloats u m va n s).2.node = s.node ∧ (readFloats u m va n s).2.boot = s.boot ∧
    (readFloats u m va n s).2.mgr = s.mgr ∧ (readFloats u m va n s).2.sec = s.sec ∧
    (readFloats u m va n s).2.accInfo = s.accInfo ∧ (readFloats u m va n s).2.coll = s.coll ∧
    (readFloats u m va n s).2.upd = s.upd ∧ (readFloats u m va n s).2.seqs = s.seqs ∧
    (readFloats u m va n s).2.net = s.net ∧ (readFloats u m va n s).2.eth = s.eth ∧
    (readFloats u m va n s).2.time = s.time ∧ (readFloats u m va n s).2.env = s.env ∧
    (readFloats u m va n s).2.stew = s.stew ∧ (readFloats u m va n s).2.pwr = s.pwr ∧
    (readFloats u m va n s).2.keys = s.keys := by
  simp [readFloats]

@[simp] theorem withRbar_fr (u : ℕ) (m : UpdMaps) (epoch : ℕ) (a3 : List UpdEntry) (a4 : State) :
    (withRbar u m epoch a3 a4).2.pending = a4.pending ∧
    (withRbar u m epoch a3 a4).2.fresh = a4.fresh ∧ (withRbar u m epoch a3 a4).2.now = a4.now ∧
    (withRbar u m epoch a3 a4).2.ticks = a4.ticks ∧
    (withRbar u m epoch a3 a4).2.arrays = a4.arrays ∧ (withRbar u m epoch a3 a4).2.vecs = a4.vecs ∧
    (withRbar u m epoch a3 a4).2.cores = a4.cores ∧ (withRbar u m epoch a3 a4).2.xlt = a4.xlt ∧
    (withRbar u m epoch a3 a4).2.queues = a4.queues ∧
    (withRbar u m epoch a3 a4).2.served = a4.served ∧ (withRbar u m epoch a3 a4).2.node = a4.node ∧
    (withRbar u m epoch a3 a4).2.boot = a4.boot ∧ (withRbar u m epoch a3 a4).2.mgr = a4.mgr ∧
    (withRbar u m epoch a3 a4).2.sec = a4.sec ∧ (withRbar u m epoch a3 a4).2.accInfo = a4.accInfo ∧
    (withRbar u m epoch a3 a4).2.coll = a4.coll ∧ (withRbar u m epoch a3 a4).2.upd = a4.upd ∧
    (withRbar u m epoch a3 a4).2.seqs = a4.seqs ∧ (withRbar u m epoch a3 a4).2.net = a4.net ∧
    (withRbar u m epoch a3 a4).2.eth = a4.eth ∧ (withRbar u m epoch a3 a4).2.time = a4.time ∧
    (withRbar u m epoch a3 a4).2.env = a4.env ∧ (withRbar u m epoch a3 a4).2.stew = a4.stew ∧
    (withRbar u m epoch a3 a4).2.pwr = a4.pwr ∧ (withRbar u m epoch a3 a4).2.keys = a4.keys := by
  induction a3 generalizing a4 with
  | nil => simp [withRbar]
  | cons e rest ih => simp only [withRbar]; split <;> simp [ih]

@[simp] theorem modSeqRun_fr (h : ℕ) (id : DescId) (f : SeqRun → SeqRun) (s : State) :
    (modSeqRun h id f s).pending = s.pending ∧ (modSeqRun h id f s).fresh = s.fresh ∧
    (modSeqRun h id f s).outbox = s.outbox ∧ (modSeqRun h id f s).now = s.now ∧
    (modSeqRun h id f s).ticks = s.ticks ∧ (modSeqRun h id f s).events = s.events ∧
    (modSeqRun h id f s).edges = s.edges ∧ (modSeqRun h id f s).counters = s.counters ∧
    (modSeqRun h id f s).arrays = s.arrays ∧ (modSeqRun h id f s).vecs = s.vecs ∧
    (modSeqRun h id f s).hbm = s.hbm ∧ (modSeqRun h id f s).coh = s.coh ∧
    (modSeqRun h id f s).cores = s.cores ∧ (modSeqRun h id f s).xlt = s.xlt ∧
    (modSeqRun h id f s).host = s.host ∧ (modSeqRun h id f s).queues = s.queues ∧
    (modSeqRun h id f s).served = s.served ∧ (modSeqRun h id f s).node = s.node ∧
    (modSeqRun h id f s).boot = s.boot ∧ (modSeqRun h id f s).mgr = s.mgr ∧
    (modSeqRun h id f s).pins = s.pins ∧ (modSeqRun h id f s).sec = s.sec ∧
    (modSeqRun h id f s).accInfo = s.accInfo ∧ (modSeqRun h id f s).coll = s.coll ∧
    (modSeqRun h id f s).upd = s.upd ∧ (modSeqRun h id f s).net = s.net ∧
    (modSeqRun h id f s).eth = s.eth ∧ (modSeqRun h id f s).time = s.time ∧
    (modSeqRun h id f s).env = s.env ∧ (modSeqRun h id f s).stew = s.stew ∧
    (modSeqRun h id f s).pwr = s.pwr ∧ (modSeqRun h id f s).keys = s.keys := by
  simp only [modSeqRun]; (repeat' split) <;> (simp [*]; done)

@[simp] theorem endSeq_fr (q : ℕ) (n : ℕ) (st : BitVec 16) (result : Option W64) (s : State) :
    (endSeq q n st result s).pending = s.pending ∧ (endSeq q n st result s).now = s.now ∧
    (endSeq q n st result s).ticks = s.ticks ∧ (endSeq q n st result s).served = s.served ∧
    (endSeq q n st result s).node = s.node ∧ (endSeq q n st result s).boot = s.boot ∧
    (endSeq q n st result s).mgr = s.mgr ∧ (endSeq q n st result s).sec = s.sec ∧
    (endSeq q n st result s).accInfo = s.accInfo ∧ (endSeq q n st result s).upd = s.upd ∧
    (endSeq q n st result s).net = s.net ∧ (endSeq q n st result s).eth = s.eth ∧
    (endSeq q n st result s).env = s.env ∧ (endSeq q n st result s).stew = s.stew ∧
    (endSeq q n st result s).pwr = s.pwr ∧ (endSeq q n st result s).keys = s.keys := by
  simp only [endSeq]; (repeat' split) <;> (simp [*]; done)

@[simp] theorem landSeq_fr (h : ℕ) (id : DescId) (w : DWords) (st : BitVec 16) (s : State) :
    (landSeq h id w st s).pending = s.pending ∧ (landSeq h id w st s).now = s.now ∧
    (landSeq h id w st s).ticks = s.ticks ∧ (landSeq h id w st s).served = s.served ∧
    (landSeq h id w st s).node = s.node ∧ (landSeq h id w st s).boot = s.boot ∧
    (landSeq h id w st s).mgr = s.mgr ∧ (landSeq h id w st s).sec = s.sec ∧
    (landSeq h id w st s).accInfo = s.accInfo ∧ (landSeq h id w st s).upd = s.upd ∧
    (landSeq h id w st s).net = s.net ∧ (landSeq h id w st s).eth = s.eth ∧
    (landSeq h id w st s).env = s.env ∧ (landSeq h id w st s).stew = s.stew ∧
    (landSeq h id w st s).pwr = s.pwr ∧ (landSeq h id w st s).keys = s.keys := by
  simp only [landSeq]; (repeat' split) <;> (simp [*]; done)

@[simp] theorem settleSeqs_fr (s : State) :
    (settleSeqs s).pending = s.pending ∧ (settleSeqs s).now = s.now ∧
    (settleSeqs s).ticks = s.ticks ∧ (settleSeqs s).served = s.served ∧
    (settleSeqs s).node = s.node ∧ (settleSeqs s).boot = s.boot ∧ (settleSeqs s).mgr = s.mgr ∧
    (settleSeqs s).sec = s.sec ∧ (settleSeqs s).accInfo = s.accInfo ∧ (settleSeqs s).upd = s.upd ∧
    (settleSeqs s).net = s.net ∧ (settleSeqs s).eth = s.eth ∧ (settleSeqs s).env = s.env ∧
    (settleSeqs s).stew = s.stew ∧ (settleSeqs s).pwr = s.pwr ∧ (settleSeqs s).keys = s.keys := by
  simp only [settleSeqs]; (repeat' split) <;> (simp (disch := (intros; first | (simp; done) | ((repeat' split) <;> simp))) [*]; done)

end Sys2Proof.Machine
end

