-- ==== Sys2Proof/Laws/Envelope.lean ====
section
/-! SUPPORT. What permit messages, requests and the work of a Steward leave alone. -/

set_option linter.all false

namespace Sys2Proof.Machine

@[simp] theorem excursion_fr (cause : Byte) (lost : Bool) (s : State) :
    (excursion cause lost s).pending = s.pending ∧ (excursion cause lost s).fresh = s.fresh ∧
    (excursion cause lost s).now = s.now ∧ (excursion cause lost s).ticks = s.ticks ∧
    (excursion cause lost s).arrays = s.arrays ∧ (excursion cause lost s).vecs = s.vecs ∧
    (excursion cause lost s).hbm = s.hbm ∧ (excursion cause lost s).coh = s.coh ∧
    (excursion cause lost s).cores = s.cores ∧ (excursion cause lost s).xlt = s.xlt ∧
    (excursion cause lost s).host = s.host ∧ (excursion cause lost s).queues = s.queues ∧
    (excursion cause lost s).served = s.served ∧ (excursion cause lost s).node = s.node ∧
    (excursion cause lost s).boot = s.boot ∧ (excursion cause lost s).mgr = s.mgr ∧
    (excursion cause lost s).pins = s.pins ∧ (excursion cause lost s).sec = s.sec ∧
    (excursion cause lost s).accInfo = s.accInfo ∧ (excursion cause lost s).coll = s.coll ∧
    (excursion cause lost s).upd = s.upd ∧ (excursion cause lost s).seqs = s.seqs ∧
    (excursion cause lost s).eth = s.eth ∧ (excursion cause lost s).time = s.time ∧
    (excursion cause lost s).pwr = s.pwr ∧ (excursion cause lost s).keys = s.keys := by
  simp only [excursion]; (repeat' split) <;> (simp [*]; done)

@[simp] theorem requestDown_fr (amount : ℤ) (urgent : Bool) (window : Bool) (s : State) :
    (requestDown amount urgent window s).pending = s.pending ∧
    (requestDown amount urgent window s).fresh = s.fresh ∧
    (requestDown amount urgent window s).now = s.now ∧
    (requestDown amount urgent window s).ticks = s.ticks ∧
    (requestDown amount urgent window s).arrays = s.arrays ∧
    (requestDown amount urgent window s).vecs = s.vecs ∧
    (requestDown amount urgent window s).hbm = s.hbm ∧
    (requestDown amount urgent window s).coh = s.coh ∧
    (requestDown amount urgent window s).cores = s.cores ∧
    (requestDown amount urgent window s).xlt = s.xlt ∧
    (requestDown amount urgent window s).host = s.host ∧
    (requestDown amount urgent window s).queues = s.queues ∧
    (requestDown amount urgent window s).served = s.served ∧
    (requestDown amount urgent window s).node = s.node ∧
    (requestDown amount urgent window s).boot = s.boot ∧
    (requestDown amount urgent window s).mgr = s.mgr ∧
    (requestDown amount urgent window s).pins = s.pins ∧
    (requestDown amount urgent window s).sec = s.sec ∧
    (requestDown amount urgent window s).accInfo = s.accInfo ∧
    (requestDown amount urgent window s).coll = s.coll ∧
    (requestDown amount urgent window s).upd = s.upd ∧
    (requestDown amount urgent window s).seqs = s.seqs ∧
    (requestDown amount urgent window s).eth = s.eth ∧
    (requestDown amount urgent window s).time = s.time ∧
    (requestDown amount urgent window s).pwr = s.pwr ∧
    (requestDown amount urgent window s).keys = s.keys := by
  simp only [requestDown]; (repeat' split) <;> (simp [*]; done)

@[simp] theorem memberGrant_fr (m : PermitMsg) (s : State) :
    (memberGrant m s).pending = s.pending ∧ (memberGrant m s).fresh = s.fresh ∧
    (memberGrant m s).now = s.now ∧ (memberGrant m s).ticks = s.ticks ∧
    (memberGrant m s).arrays = s.arrays ∧ (memberGrant m s).vecs = s.vecs ∧
    (memberGrant m s).hbm = s.hbm ∧ (memberGrant m s).coh = s.coh ∧
    (memberGrant m s).cores = s.cores ∧ (memberGrant m s).xlt = s.xlt ∧
    (memberGrant m s).host = s.host ∧ (memberGrant m s).queues = s.queues ∧
    (memberGrant m s).served = s.served ∧ (memberGrant m s).node = s.node ∧
    (memberGrant m s).boot = s.boot ∧ (memberGrant m s).mgr = s.mgr ∧
    (memberGrant m s).pins = s.pins ∧ (memberGrant m s).sec = s.sec ∧
    (memberGrant m s).accInfo = s.accInfo ∧ (memberGrant m s).coll = s.coll ∧
    (memberGrant m s).upd = s.upd ∧ (memberGrant m s).seqs = s.seqs ∧
    (memberGrant m s).eth = s.eth ∧ (memberGrant m s).time = s.time ∧
    (memberGrant m s).pwr = s.pwr ∧ (memberGrant m s).keys = s.keys := by
  simp only [memberGrant]; (repeat' split) <;> (simp [*]; done)

@[simp] theorem setLimits_fr (f : ℕ) (c : ℕ) (sl : ℕ) (s : State) :
    (setLimits f c sl s).pending = s.pending ∧ (setLimits f c sl s).fresh = s.fresh ∧
    (setLimits f c sl s).now = s.now ∧ (setLimits f c sl s).ticks = s.ticks ∧
    (setLimits f c sl s).arrays = s.arrays ∧ (setLimits f c sl s).vecs = s.vecs ∧
    (setLimits f c sl s).hbm = s.hbm ∧ (setLimits f c sl s).coh = s.coh ∧
    (setLimits f c sl s).cores = s.cores ∧ (setLimits f c sl s).xlt = s.xlt ∧
    (setLimits f c sl s).host = s.host ∧ (setLimits f c sl s).queues = s.queues ∧
    (setLimits f c sl s).served = s.served ∧ (setLimits f c sl s).node = s.node ∧
    (setLimits f c sl s).boot = s.boot ∧ (setLimits f c sl s).mgr = s.mgr ∧
    (setLimits f c sl s).pins = s.pins ∧ (setLimits f c sl s).sec = s.sec ∧
    (setLimits f c sl s).accInfo = s.accInfo ∧ (setLimits f c sl s).coll = s.coll ∧
    (setLimits f c sl s).upd = s.upd ∧ (setLimits f c sl s).seqs = s.seqs ∧
    (setLimits f c sl s).eth = s.eth ∧ (setLimits f c sl s).time = s.time ∧
    (setLimits f c sl s).pwr = s.pwr ∧ (setLimits f c sl s).keys = s.keys := by
  simp only [setLimits]; (repeat' split) <;> (simp [*]; done)

@[simp] theorem memberEnvelope_fr (m : PermitMsg) (s : State) :
    (memberEnvelope m s).pending = s.pending ∧ (memberEnvelope m s).fresh = s.fresh ∧
    (memberEnvelope m s).now = s.now ∧ (memberEnvelope m s).ticks = s.ticks ∧
    (memberEnvelope m s).arrays = s.arrays ∧ (memberEnvelope m s).vecs = s.vecs ∧
    (memberEnvelope m s).hbm = s.hbm ∧ (memberEnvelope m s).coh = s.coh ∧
    (memberEnvelope m s).cores = s.cores ∧ (memberEnvelope m s).xlt = s.xlt ∧
    (memberEnvelope m s).host = s.host ∧ (memberEnvelope m s).queues = s.queues ∧
    (memberEnvelope m s).served = s.served ∧ (memberEnvelope m s).node = s.node ∧
    (memberEnvelope m s).boot = s.boot ∧ (memberEnvelope m s).mgr = s.mgr ∧
    (memberEnvelope m s).pins = s.pins ∧ (memberEnvelope m s).sec = s.sec ∧
    (memberEnvelope m s).accInfo = s.accInfo ∧ (memberEnvelope m s).coll = s.coll ∧
    (memberEnvelope m s).upd = s.upd ∧ (memberEnvelope m s).seqs = s.seqs ∧
    (memberEnvelope m s).eth = s.eth ∧ (memberEnvelope m s).time = s.time ∧
    (memberEnvelope m s).pwr = s.pwr ∧ (memberEnvelope m s).keys = s.keys := by
  simp only [memberEnvelope]; (repeat' split) <;> (simp [*]; done)

@[simp] theorem memberHeartbeat_fr (m : PermitMsg) (s : State) :
    (memberHeartbeat m s).pending = s.pending ∧ (memberHeartbeat m s).fresh = s.fresh ∧
    (memberHeartbeat m s).outbox = s.outbox ∧ (memberHeartbeat m s).now = s.now ∧
    (memberHeartbeat m s).ticks = s.ticks ∧ (memberHeartbeat m s).events = s.events ∧
    (memberHeartbeat m s).edges = s.edges ∧ (memberHeartbeat m s).counters = s.counters ∧
    (memberHeartbeat m s).arrays = s.arrays ∧ (memberHeartbeat m s).vecs = s.vecs ∧
    (memberHeartbeat m s).hbm = s.hbm ∧ (memberHeartbeat m s).coh = s.coh ∧
    (memberHeartbeat m s).cores = s.cores ∧ (memberHeartbeat m s).xlt = s.xlt ∧
    (memberHeartbeat m s).host = s.host ∧ (memberHeartbeat m s).queues = s.queues ∧
    (memberHeartbeat m s).served = s.served ∧ (memberHeartbeat m s).node = s.node ∧
    (memberHeartbeat m s).boot = s.boot ∧ (memberHeartbeat m s).mgr = s.mgr ∧
    (memberHeartbeat m s).pins = s.pins ∧ (memberHeartbeat m s).sec = s.sec ∧
    (memberHeartbeat m s).accInfo = s.accInfo ∧ (memberHeartbeat m s).coll = s.coll ∧
    (memberHeartbeat m s).upd = s.upd ∧ (memberHeartbeat m s).seqs = s.seqs ∧
    (memberHeartbeat m s).net = s.net ∧ (memberHeartbeat m s).eth = s.eth ∧
    (memberHeartbeat m s).time = s.time ∧ (memberHeartbeat m s).stew = s.stew ∧
    (memberHeartbeat m s).pwr = s.pwr ∧ (memberHeartbeat m s).keys = s.keys := by
  simp only [memberHeartbeat]; (repeat' split) <;> (simp [*]; done)

@[simp] theorem resendAsks_fr (p : Ask → Bool) (s : State) :
    (resendAsks p s).pending = s.pending ∧ (resendAsks p s).fresh = s.fresh ∧
    (resendAsks p s).now = s.now ∧ (resendAsks p s).ticks = s.ticks ∧
    (resendAsks p s).arrays = s.arrays ∧ (resendAsks p s).vecs = s.vecs ∧
    (resendAsks p s).hbm = s.hbm ∧ (resendAsks p s).coh = s.coh ∧
    (resendAsks p s).cores = s.cores ∧ (resendAsks p s).xlt = s.xlt ∧
    (resendAsks p s).host = s.host ∧ (resendAsks p s).queues = s.queues ∧
    (resendAsks p s).served = s.served ∧ (resendAsks p s).node = s.node ∧
    (resendAsks p s).boot = s.boot ∧ (resendAsks p s).mgr = s.mgr ∧
    (resendAsks p s).pins = s.pins ∧ (resendAsks p s).sec = s.sec ∧
    (resendAsks p s).accInfo = s.accInfo ∧ (resendAsks p s).coll = s.coll ∧
    (resendAsks p s).upd = s.upd ∧ (resendAsks p s).seqs = s.seqs ∧ (resendAsks p s).eth = s.eth ∧
    (resendAsks p s).time = s.time ∧ (resendAsks p s).pwr = s.pwr ∧ (resendAsks p s).keys = s.keys := by
  simp only [resendAsks]; (repeat' split) <;> (simp [*]; done)

@[simp] theorem memberClaim_fr (m : PermitMsg) (s : State) :
    (memberClaim m s).pending = s.pending ∧ (memberClaim m s).fresh = s.fresh ∧
    (memberClaim m s).now = s.now ∧ (memberClaim m s).ticks = s.ticks ∧
    (memberClaim m s).arrays = s.arrays ∧ (memberClaim m s).vecs = s.vecs ∧
    (memberClaim m s).hbm = s.hbm ∧ (memberClaim m s).coh = s.coh ∧
    (memberClaim m s).cores = s.cores ∧ (memberClaim m s).xlt = s.xlt ∧
    (memberClaim m s).host = s.host ∧ (memberClaim m s).queues = s.queues ∧
    (memberClaim m s).served = s.served ∧ (memberClaim m s).node = s.node ∧
    (memberClaim m s).boot = s.boot ∧ (memberClaim m s).mgr = s.mgr ∧
    (memberClaim m s).pins = s.pins ∧ (memberClaim m s).sec = s.sec ∧
    (memberClaim m s).accInfo = s.accInfo ∧ (memberClaim m s).coll = s.coll ∧
    (memberClaim m s).upd = s.upd ∧ (memberClaim m s).seqs = s.seqs ∧
    (memberClaim m s).eth = s.eth ∧ (memberClaim m s).time = s.time ∧
    (memberClaim m s).pwr = s.pwr ∧ (memberClaim m s).keys = s.keys := by
  simp only [memberClaim]; (repeat' split) <;> (simp [*]; done)

@[simp] theorem sendDown_fr (dst : NodeId) (kind : Byte) (m : PermitMsg) (s : State) :
    (sendDown dst kind m s).pending = s.pending ∧ (sendDown dst kind m s).fresh = s.fresh ∧
    (sendDown dst kind m s).now = s.now ∧ (sendDown dst kind m s).ticks = s.ticks ∧
    (sendDown dst kind m s).arrays = s.arrays ∧ (sendDown dst kind m s).vecs = s.vecs ∧
    (sendDown dst kind m s).hbm = s.hbm ∧ (sendDown dst kind m s).coh = s.coh ∧
    (sendDown dst kind m s).cores = s.cores ∧ (sendDown dst kind m s).xlt = s.xlt ∧
    (sendDown dst kind m s).host = s.host ∧ (sendDown dst kind m s).queues = s.queues ∧
    (sendDown dst kind m s).served = s.served ∧ (sendDown dst kind m s).node = s.node ∧
    (sendDown dst kind m s).boot = s.boot ∧ (sendDown dst kind m s).mgr = s.mgr ∧
    (sendDown dst kind m s).pins = s.pins ∧ (sendDown dst kind m s).sec = s.sec ∧
    (sendDown dst kind m s).accInfo = s.accInfo ∧ (sendDown dst kind m s).coll = s.coll ∧
    (sendDown dst kind m s).upd = s.upd ∧ (sendDown dst kind m s).seqs = s.seqs ∧
    (sendDown dst kind m s).eth = s.eth ∧ (sendDown dst kind m s).time = s.time ∧
    (sendDown dst kind m s).pwr = s.pwr ∧ (sendDown dst kind m s).keys = s.keys := by
  simp only [sendDown]; (repeat' split) <;> (simp [*]; done)

@[simp] theorem sendEnvelope_fr (n : NodeId) (s : State) :
    (sendEnvelope n s).pending = s.pending ∧ (sendEnvelope n s).fresh = s.fresh ∧
    (sendEnvelope n s).now = s.now ∧ (sendEnvelope n s).ticks = s.ticks ∧
    (sendEnvelope n s).arrays = s.arrays ∧ (sendEnvelope n s).vecs = s.vecs ∧
    (sendEnvelope n s).hbm = s.hbm ∧ (sendEnvelope n s).coh = s.coh ∧
    (sendEnvelope n s).cores = s.cores ∧ (sendEnvelope n s).xlt = s.xlt ∧
    (sendEnvelope n s).host = s.host ∧ (sendEnvelope n s).queues = s.queues ∧
    (sendEnvelope n s).served = s.served ∧ (sendEnvelope n s).node = s.node ∧
    (sendEnvelope n s).boot = s.boot ∧ (sendEnvelope n s).mgr = s.mgr ∧
    (sendEnvelope n s).pins = s.pins ∧ (sendEnvelope n s).sec = s.sec ∧
    (sendEnvelope n s).accInfo = s.accInfo ∧ (sendEnvelope n s).coll = s.coll ∧
    (sendEnvelope n s).upd = s.upd ∧ (sendEnvelope n s).seqs = s.seqs ∧
    (sendEnvelope n s).eth = s.eth ∧ (sendEnvelope n s).time = s.time ∧
    (sendEnvelope n s).pwr = s.pwr ∧ (sendEnvelope n s).keys = s.keys := by
  simp only [sendEnvelope]; (repeat' split) <;> (simp [*]; done)

@[simp] theorem sendEnvelopes_fr (s : State) :
    (sendEnvelopes s).pending = s.pending ∧ (sendEnvelopes s).fresh = s.fresh ∧
    (sendEnvelopes s).now = s.now ∧ (sendEnvelopes s).ticks = s.ticks ∧
    (sendEnvelopes s).arrays = s.arrays ∧ (sendEnvelopes s).vecs = s.vecs ∧
    (sendEnvelopes s).hbm = s.hbm ∧ (sendEnvelopes s).coh = s.coh ∧
    (sendEnvelopes s).cores = s.cores ∧ (sendEnvelopes s).xlt = s.xlt ∧
    (sendEnvelopes s).host = s.host ∧ (sendEnvelopes s).queues = s.queues ∧
    (sendEnvelopes s).served = s.served ∧ (sendEnvelopes s).node = s.node ∧
    (sendEnvelopes s).boot = s.boot ∧ (sendEnvelopes s).mgr = s.mgr ∧
    (sendEnvelopes s).pins = s.pins ∧ (sendEnvelopes s).sec = s.sec ∧
    (sendEnvelopes s).accInfo = s.accInfo ∧ (sendEnvelopes s).coll = s.coll ∧
    (sendEnvelopes s).upd = s.upd ∧ (sendEnvelopes s).seqs = s.seqs ∧
    (sendEnvelopes s).eth = s.eth ∧ (sendEnvelopes s).time = s.time ∧
    (sendEnvelopes s).pwr = s.pwr ∧ (sendEnvelopes s).keys = s.keys := by
  simp only [sendEnvelopes]; (repeat' split) <;> (simp [*]; done)

@[simp] theorem grantDir_fr (down : Bool) (k : ℕ) (a2 : List PermitMsg) (a3 : ℤ) (a4 : ℤ) (a5 : State) :
    (grantDir down k a2 a3 a4 a5).2.2.pending = a5.pending ∧
    (grantDir down k a2 a3 a4 a5).2.2.fresh = a5.fresh ∧
    (grantDir down k a2 a3 a4 a5).2.2.now = a5.now ∧
    (grantDir down k a2 a3 a4 a5).2.2.ticks = a5.ticks ∧
    (grantDir down k a2 a3 a4 a5).2.2.arrays = a5.arrays ∧
    (grantDir down k a2 a3 a4 a5).2.2.vecs = a5.vecs ∧
    (grantDir down k a2 a3 a4 a5).2.2.hbm = a5.hbm ∧
    (grantDir down k a2 a3 a4 a5).2.2.coh = a5.coh ∧
    (grantDir down k a2 a3 a4 a5).2.2.cores = a5.cores ∧
    (grantDir down k a2 a3 a4 a5).2.2.xlt = a5.xlt ∧
    (grantDir down k a2 a3 a4 a5).2.2.host = a5.host ∧
    (grantDir down k a2 a3 a4 a5).2.2.queues = a5.queues ∧
    (grantDir down k a2 a3 a4 a5).2.2.served = a5.served ∧
    (grantDir down k a2 a3 a4 a5).2.2.node = a5.node ∧
    (grantDir down k a2 a3 a4 a5).2.2.boot = a5.boot ∧
    (grantDir down k a2 a3 a4 a5).2.2.mgr = a5.mgr ∧
    (grantDir down k a2 a3 a4 a5).2.2.pins = a5.pins ∧
    (grantDir down k a2 a3 a4 a5).2.2.sec = a5.sec ∧
    (grantDir down k a2 a3 a4 a5).2.2.accInfo = a5.accInfo ∧
    (grantDir down k a2 a3 a4 a5).2.2.coll = a5.coll ∧
    (grantDir down k a2 a3 a4 a5).2.2.upd = a5.upd ∧
    (grantDir down k a2 a3 a4 a5).2.2.seqs = a5.seqs ∧
    (grantDir down k a2 a3 a4 a5).2.2.eth = a5.eth ∧
    (grantDir down k a2 a3 a4 a5).2.2.pwr = a5.pwr ∧
    (grantDir down k a2 a3 a4 a5).2.2.keys = a5.keys := by
  fun_induction grantDir down k a2 a3 a4 a5 <;> simp_all +zetaDelta

@[simp] theorem pruneRamps_fr (k : ℕ) (s : State) :
    (pruneRamps k s).pending = s.pending ∧ (pruneRamps k s).fresh = s.fresh ∧
    (pruneRamps k s).outbox = s.outbox ∧ (pruneRamps k s).now = s.now ∧
    (pruneRamps k s).ticks = s.ticks ∧ (pruneRamps k s).events = s.events ∧
    (pruneRamps k s).edges = s.edges ∧ (pruneRamps k s).counters = s.counters ∧
    (pruneRamps k s).arrays = s.arrays ∧ (pruneRamps k s).vecs = s.vecs ∧
    (pruneRamps k s).hbm = s.hbm ∧ (pruneRamps k s).coh = s.coh ∧
    (pruneRamps k s).cores = s.cores ∧ (pruneRamps k s).xlt = s.xlt ∧
    (pruneRamps k s).host = s.host ∧ (pruneRamps k s).queues = s.queues ∧
    (pruneRamps k s).served = s.served ∧ (pruneRamps k s).node = s.node ∧
    (pruneRamps k s).boot = s.boot ∧ (pruneRamps k s).mgr = s.mgr ∧
    (pruneRamps k s).pins = s.pins ∧ (pruneRamps k s).sec = s.sec ∧
    (pruneRamps k s).accInfo = s.accInfo ∧ (pruneRamps k s).coll = s.coll ∧
    (pruneRamps k s).upd = s.upd ∧ (pruneRamps k s).seqs = s.seqs ∧ (pruneRamps k s).net = s.net ∧
    (pruneRamps k s).eth = s.eth ∧ (pruneRamps k s).time = s.time ∧ (pruneRamps k s).env = s.env ∧
    (pruneRamps k s).pwr = s.pwr ∧ (pruneRamps k s).keys = s.keys := by
  simp only [pruneRamps]; (repeat' split) <;> (simp [*]; done)

@[simp] theorem stewardSlot_fr (k : ℕ) (s : State) :
    (stewardSlot k s).pending = s.pending ∧ (stewardSlot k s).fresh = s.fresh ∧
    (stewardSlot k s).now = s.now ∧ (stewardSlot k s).ticks = s.ticks ∧
    (stewardSlot k s).arrays = s.arrays ∧ (stewardSlot k s).vecs = s.vecs ∧
    (stewardSlot k s).hbm = s.hbm ∧ (stewardSlot k s).coh = s.coh ∧
    (stewardSlot k s).cores = s.cores ∧ (stewardSlot k s).xlt = s.xlt ∧
    (stewardSlot k s).host = s.host ∧ (stewardSlot k s).queues = s.queues ∧
    (stewardSlot k s).served = s.served ∧ (stewardSlot k s).node = s.node ∧
    (stewardSlot k s).boot = s.boot ∧ (stewardSlot k s).mgr = s.mgr ∧
    (stewardSlot k s).pins = s.pins ∧ (stewardSlot k s).sec = s.sec ∧
    (stewardSlot k s).accInfo = s.accInfo ∧ (stewardSlot k s).coll = s.coll ∧
    (stewardSlot k s).upd = s.upd ∧ (stewardSlot k s).seqs = s.seqs ∧
    (stewardSlot k s).eth = s.eth ∧ (stewardSlot k s).pwr = s.pwr ∧ (stewardSlot k s).keys = s.keys := by
  simp only [stewardSlot]; (repeat' split) <;> (simp [*]; done)

@[simp] theorem claimRole_fr (s : State) :
    (claimRole s).pending = s.pending ∧ (claimRole s).fresh = s.fresh ∧ (claimRole s).now = s.now ∧
    (claimRole s).ticks = s.ticks ∧ (claimRole s).arrays = s.arrays ∧ (claimRole s).vecs = s.vecs ∧
    (claimRole s).hbm = s.hbm ∧ (claimRole s).coh = s.coh ∧ (claimRole s).cores = s.cores ∧
    (claimRole s).xlt = s.xlt ∧ (claimRole s).host = s.host ∧ (claimRole s).queues = s.queues ∧
    (claimRole s).served = s.served ∧ (claimRole s).node = s.node ∧ (claimRole s).boot = s.boot ∧
    (claimRole s).mgr = s.mgr ∧ (claimRole s).pins = s.pins ∧ (claimRole s).sec = s.sec ∧
    (claimRole s).accInfo = s.accInfo ∧ (claimRole s).coll = s.coll ∧ (claimRole s).upd = s.upd ∧
    (claimRole s).seqs = s.seqs ∧ (claimRole s).eth = s.eth ∧ (claimRole s).time = s.time ∧
    (claimRole s).pwr = s.pwr ∧ (claimRole s).keys = s.keys := by
  simp only [claimRole]; (repeat' split) <;> (simp [*]; done)

@[simp] theorem enterHold_fr (s : State) :
    (enterHold s).pending = s.pending ∧ (enterHold s).fresh = s.fresh ∧
    (enterHold s).outbox = s.outbox ∧ (enterHold s).now = s.now ∧ (enterHold s).ticks = s.ticks ∧
    (enterHold s).counters = s.counters ∧ (enterHold s).arrays = s.arrays ∧
    (enterHold s).vecs = s.vecs ∧ (enterHold s).hbm = s.hbm ∧ (enterHold s).coh = s.coh ∧
    (enterHold s).cores = s.cores ∧ (enterHold s).xlt = s.xlt ∧ (enterHold s).host = s.host ∧
    (enterHold s).queues = s.queues ∧ (enterHold s).served = s.served ∧
    (enterHold s).node = s.node ∧ (enterHold s).boot = s.boot ∧ (enterHold s).mgr = s.mgr ∧
    (enterHold s).pins = s.pins ∧ (enterHold s).sec = s.sec ∧ (enterHold s).accInfo = s.accInfo ∧
    (enterHold s).coll = s.coll ∧ (enterHold s).upd = s.upd ∧ (enterHold s).seqs = s.seqs ∧
    (enterHold s).net = s.net ∧ (enterHold s).eth = s.eth ∧ (enterHold s).time = s.time ∧
    (enterHold s).stew = s.stew ∧ (enterHold s).pwr = s.pwr ∧ (enterHold s).keys = s.keys := by
  simp only [enterHold]; (repeat' split) <;> (simp [*]; done)

@[simp] theorem envNodeDown_fr (n : NodeId) (s : State) :
    (envNodeDown n s).pending = s.pending ∧ (envNodeDown n s).fresh = s.fresh ∧
    (envNodeDown n s).now = s.now ∧ (envNodeDown n s).ticks = s.ticks ∧
    (envNodeDown n s).arrays = s.arrays ∧ (envNodeDown n s).vecs = s.vecs ∧
    (envNodeDown n s).hbm = s.hbm ∧ (envNodeDown n s).coh = s.coh ∧
    (envNodeDown n s).cores = s.cores ∧ (envNodeDown n s).xlt = s.xlt ∧
    (envNodeDown n s).host = s.host ∧ (envNodeDown n s).queues = s.queues ∧
    (envNodeDown n s).served = s.served ∧ (envNodeDown n s).node = s.node ∧
    (envNodeDown n s).boot = s.boot ∧ (envNodeDown n s).mgr = s.mgr ∧
    (envNodeDown n s).pins = s.pins ∧ (envNodeDown n s).sec = s.sec ∧
    (envNodeDown n s).accInfo = s.accInfo ∧ (envNodeDown n s).coll = s.coll ∧
    (envNodeDown n s).upd = s.upd ∧ (envNodeDown n s).seqs = s.seqs ∧
    (envNodeDown n s).eth = s.eth ∧ (envNodeDown n s).time = s.time ∧
    (envNodeDown n s).pwr = s.pwr ∧ (envNodeDown n s).keys = s.keys := by
  simp only [envNodeDown]; (repeat' split) <;> (simp [*]; done)

@[simp] theorem raiseEpoch_fr (m : PermitMsg) (s : State) :
    (raiseEpoch m s).pending = s.pending ∧ (raiseEpoch m s).fresh = s.fresh ∧
    (raiseEpoch m s).now = s.now ∧ (raiseEpoch m s).ticks = s.ticks ∧
    (raiseEpoch m s).arrays = s.arrays ∧ (raiseEpoch m s).vecs = s.vecs ∧
    (raiseEpoch m s).hbm = s.hbm ∧ (raiseEpoch m s).coh = s.coh ∧
    (raiseEpoch m s).cores = s.cores ∧ (raiseEpoch m s).xlt = s.xlt ∧
    (raiseEpoch m s).host = s.host ∧ (raiseEpoch m s).queues = s.queues ∧
    (raiseEpoch m s).served = s.served ∧ (raiseEpoch m s).node = s.node ∧
    (raiseEpoch m s).boot = s.boot ∧ (raiseEpoch m s).mgr = s.mgr ∧
    (raiseEpoch m s).pins = s.pins ∧ (raiseEpoch m s).sec = s.sec ∧
    (raiseEpoch m s).accInfo = s.accInfo ∧ (raiseEpoch m s).coll = s.coll ∧
    (raiseEpoch m s).upd = s.upd ∧ (raiseEpoch m s).seqs = s.seqs ∧ (raiseEpoch m s).eth = s.eth ∧
    (raiseEpoch m s).time = s.time ∧ (raiseEpoch m s).pwr = s.pwr ∧ (raiseEpoch m s).keys = s.keys := by
  simp only [raiseEpoch]; (repeat' split) <;> (simp [*]; done)

end Sys2Proof.Machine
end

