-- ==== Sys2Proof/Laws/Frame.lean ====
section
/-! SUPPORT. What every command leaves alone: the commands that wait, and all but a few the fuses and levels. -/

set_option linter.all false

namespace Sys2Proof.Machine

@[simp] theorem freshByte_fr (s : State) :
    (freshByte s).2.pending = s.pending ∧ (freshByte s).2.sec = s.sec := by
  simp only [freshByte]; (repeat' split) <;> (simp [*]; done)

@[simp] theorem clocked_fr (f : State → State) (s : State) (h_f : ∀ x0, (f x0).pending = x0.pending ∧ (f x0).sec = x0.sec) :
    (clocked f s).pending = s.pending ∧ (clocked f s).sec = s.sec := by
  simp only [clocked]; (repeat' split) <;> (simp [*, h_f]; done)

@[simp] theorem openEvents_fr (srcs : List (BitVec 16)) (s : State) :
    (openEvents srcs s).pending = s.pending ∧ (openEvents srcs s).sec = s.sec := by
  simp only [openEvents]; (repeat' split) <;> (simp [*]; done)

@[simp] theorem setEvEn_fr (src : BitVec 16) (mask : W64) (w : W64) (s : State) :
    (setEvEn src mask w s).pending = s.pending ∧ (setEvEn src mask w s).sec = s.sec := by
  simp only [setEvEn]; (repeat' split) <;> (simp [*]; done)

@[simp] theorem clearCounters_fr (lo : ℕ) (hi : ℕ) (s : State) :
    (clearCounters lo hi s).pending = s.pending ∧ (clearCounters lo hi s).sec = s.sec := by
  simp only [clearCounters]; (repeat' split) <;> (simp [*]; done)

@[simp] theorem decodeSector_fr (_pc : ℕ) (sn : ℕ) (errs : List (Fin 36 × Byte)) (s : State) :
    (decodeSector _pc sn errs s).pending = s.pending ∧ (decodeSector _pc sn errs s).sec = s.sec := by
  simp only [decodeSector]; (repeat' split) <;> (simp [*]; done)

@[simp] theorem releaseReads_fr (s : State) :
    (releaseReads s).pending = s.pending ∧ (releaseReads s).sec = s.sec := by
  simp only [releaseReads]; (repeat' split) <;> (simp [*]; done)

@[simp] theorem sectorRead_fr (pc : ℕ) (sn : ℕ) (errs : List (Fin 36 × Byte)) (s : State) :
    (sectorRead pc sn errs s).pending = s.pending ∧ (sectorRead pc sn errs s).sec = s.sec := by
  simp only [sectorRead]; (repeat' split) <;> (simp [*]; done)

@[simp] theorem scheduleAll_fr (base : ℕ) (first : ℕ) (a2 : List ℕ) (a3 : State) :
    (scheduleAll base first a2 a3).pending = a3.pending ∧
    (scheduleAll base first a2 a3).sec = a3.sec := by
  fun_induction scheduleAll base first a2 a3 <;> (simp [*]; done)

@[simp] theorem releaseEntries_fr (k : ℕ) (s : State) :
    (releaseEntries k s).pending = s.pending ∧ (releaseEntries k s).sec = s.sec := by
  simp only [releaseEntries]; (repeat' split) <;> (simp [*]; done)

@[simp] theorem afterStall_fr (k : ℕ) (s : State) :
    (afterStall k s).pending = s.pending ∧ (afterStall k s).sec = s.sec := by
  simp only [afterStall]; (repeat' split) <;> (simp [*]; done)

@[simp] theorem retuneEnded_fr (p : ℕ) (ok : Bool) (s : State) :
    (retuneEnded p ok s).pending = s.pending ∧ (retuneEnded p ok s).sec = s.sec := by
  simp only [retuneEnded]; (repeat' split) <;> (simp [*]; done)

@[simp] theorem poolWrite_fr (a : ℕ) (bs : List Byte) (tag : HoldTag) (s : State) :
    (poolWrite a bs tag s).pending = s.pending ∧ (poolWrite a bs tag s).sec = s.sec := by
  simp only [poolWrite]; (repeat' split) <;> (simp [*]; done)

@[simp] theorem homeCoreRead_fr (c : ℕ) (line : ℕ) (depth : ℕ) (s : State) :
    (homeCoreRead c line depth s).pending = s.pending ∧ (homeCoreRead c line depth s).sec = s.sec := by
  simp only [homeCoreRead]; (repeat' split) <;> (simp [*]; done)

@[simp] theorem homeCoreWrite_fr (c : ℕ) (line : ℕ) (depth : ℕ) (s : State) :
    (homeCoreWrite c line depth s).pending = s.pending ∧ (homeCoreWrite c line depth s).sec = s.sec := by
  simp only [homeCoreWrite]; (repeat' split) <;> (simp [*]; done)

@[simp] theorem coreFault_fr (c : ℕ) (cause : ℕ) (pa : ℕ) (s : State) :
    (coreFault c cause pa s).pending = s.pending ∧ (coreFault c cause pa s).sec = s.sec := by
  simp only [coreFault]; (repeat' split) <;> (simp [*]; done)

@[simp] theorem csrAccess_fr (c : ℕ) (needs : CoreMode) (f : State → State) (s : State) (h_f : ∀ x0, (f x0).pending = x0.pending ∧ (f x0).sec = x0.sec) :
    (csrAccess c needs f s).pending = s.pending ∧ (csrAccess c needs f s).sec = s.sec := by
  simp only [csrAccess]; (repeat' split) <;> (simp [*, h_f]; done)

@[simp] theorem corePoison_fr (c : ℕ) (cause : ℕ) (pa : ℕ) (s : State) :
    (corePoison c cause pa s).pending = s.pending ∧ (corePoison c cause pa s).sec = s.sec := by
  simp only [corePoison]; (repeat' split) <;> (simp [*]; done)

@[simp] theorem poolLoadNow_fr (c : ℕ) (a : ℕ) (n : ℕ) (kind : LoadKind) (s : State) :
    (poolLoadNow c a n kind s).pending = s.pending ∧ (poolLoadNow c a n kind s).sec = s.sec := by
  simp only [poolLoadNow]; (repeat' split) <;> (simp [*]; done)

@[simp] theorem storeOwned_fr (h : ℕ) (a : ℕ) (data : List Byte) (s : State) :
    (storeOwned h a data s).pending = s.pending ∧ (storeOwned h a data s).sec = s.sec := by
  simp only [storeOwned]; (repeat' split) <;> (simp [*]; done)

@[simp] theorem poolStoreNow_fr (c : ℕ) (a : ℕ) (data : List Byte) (kind : StoreKind) (s : State) :
    (poolStoreNow c a data kind s).pending = s.pending ∧ (poolStoreNow c a data kind s).sec = s.sec := by
  simp only [poolStoreNow]; (repeat' split) <;> (simp [*]; done)

@[simp] theorem zeroLine_fr (line : ℕ) (s : State) :
    (zeroLine line s).pending = s.pending ∧ (zeroLine line s).sec = s.sec := by
  simp only [zeroLine]; (repeat' split) <;> (simp [*]; done)

@[simp] theorem cleanLine_fr (line : ℕ) (s : State) :
    (cleanLine line s).pending = s.pending ∧ (cleanLine line s).sec = s.sec := by
  simp only [cleanLine]; (repeat' split) <;> (simp [*]; done)

@[simp] theorem flushLine_fr (line : ℕ) (s : State) :
    (flushLine line s).pending = s.pending ∧ (flushLine line s).sec = s.sec := by
  simp only [flushLine]; (repeat' split) <;> (simp [*]; done)

@[simp] theorem HomeReq_perform_fr (r : HomeReq) (s : State) :
    (HomeReq.perform r s).pending = s.pending ∧ (HomeReq.perform r s).sec = s.sec := by
  simp only [HomeReq.perform]; (repeat' split) <;> (simp [*]; done)

@[simp] theorem homeRequest_fr (r : HomeReq) (s : State) :
    (homeRequest r s).pending = s.pending ∧ (homeRequest r s).sec = s.sec := by
  simp only [homeRequest]; (repeat' split) <;> (simp [*]; done)

@[simp] theorem replay_fr (a0 : List HomeReq) (a1 : State) :
    (replay a0 a1).pending = a1.pending ∧ (replay a0 a1).sec = a1.sec := by
  fun_induction replay a0 a1 <;> (simp [*]; done)

@[simp] theorem replayWaiting_fr (s : State) :
    (replayWaiting s).pending = s.pending ∧ (replayWaiting s).sec = s.sec := by
  simp only [replayWaiting]; (repeat' split) <;> (simp [*]; done)

@[simp] theorem releaseHeld_fr (line : ℕ) (s : State) :
    (releaseHeld line s).pending = s.pending ∧ (releaseHeld line s).sec = s.sec := by
  simp only [releaseHeld]; (repeat' split) <;> (simp [*]; done)

@[simp] theorem holderAcknowledge_fr (line : ℕ) (holder : Holder) (s : State) :
    (holderAcknowledge line holder s).pending = s.pending ∧
    (holderAcknowledge line holder s).sec = s.sec := by
  simp only [holderAcknowledge]; (repeat' split) <;> (simp [*]; done)

@[simp] theorem cboAt_fr (c : CoreId) (pa : PAddr) (f : State → State) (s : State) (h_f : ∀ x0, (f x0).pending = x0.pending ∧ (f x0).sec = x0.sec) :
    (cboAt c pa f s).pending = s.pending ∧ (cboAt c pa f s).sec = s.sec := by
  simp only [cboAt]; (repeat' split) <;> (simp [*, h_f]; done)

@[simp] theorem merrinfoRead_fr (c : ℕ) (s : State) :
    (merrinfoRead c s).pending = s.pending ∧ (merrinfoRead c s).sec = s.sec := by
  simp only [merrinfoRead]; (repeat' split) <;> (simp [*]; done)

@[simp] theorem syncTimer_fr (s : State) (c : ℕ) :
    (syncTimer s c).pending = s.pending ∧ (syncTimer s c).sec = s.sec := by
  simp only [syncTimer]; (repeat' split) <;> (simp [*]; done)

@[simp] theorem syncTimers_fr (s : State) :
    (syncTimers s).pending = s.pending ∧ (syncTimers s).sec = s.sec := by
  simp only [syncTimers]; (repeat' split) <;> (simp [*]; done)

@[simp] theorem machineTimer_fr (c : ℕ) (cmp : W64) (s : State) :
    (machineTimer c cmp s).pending = s.pending ∧ (machineTimer c cmp s).sec = s.sec := by
  simp only [machineTimer]; (repeat' split) <;> (simp [*]; done)

@[simp] theorem taint_fr (e : StreamEng) (s : State) :
    (taint e s).pending = s.pending ∧ (taint e s).sec = s.sec := by
  simp only [taint]; (repeat' split) <;> (simp [*]; done)

@[simp] theorem touch_fr (e : StreamEng) (c : ℕ) (t : Touch) (s : State) :
    (touch e c t s).pending = s.pending ∧ (touch e c t s).sec = s.sec := by
  simp only [touch]; (repeat' split) <;> (simp [*]; done)

@[simp] theorem pastInvals_fr {α : Type} (f : State → α × State) (s : State)
    (hf : ∀ x, (f x).2.pending = x.pending ∧ (f x).2.sec = x.sec) :
    (pastInvals f s).2.pending = s.pending ∧ (pastInvals f s).2.sec = s.sec := by
  simp [pastInvals, hf]

@[simp] theorem firmwareWalk_fr (va : ℕ) (s : State) :
    (firmwareWalk va s).2.pending = s.pending ∧ (firmwareWalk va s).2.sec = s.sec := by
  unfold firmwareWalk
  try dsimp only
  repeat' (split <;> (try (rename_i heq; first | (have hp := (congrArg (fun r => r.2.pending) heq).symm; have hq := (congrArg (fun r => r.2.sec) heq).symm; simp at hp hq) | (have hp := (congrArg (fun r => r.2.2.pending) heq).symm; have hq := (congrArg (fun r => r.2.2.sec) heq).symm; simp at hp hq))))
  all_goals simp [*]

@[simp] theorem dropNotice_fr (s : State) :
    (dropNotice s).pending = s.pending ∧ (dropNotice s).sec = s.sec := by
  simp only [dropNotice]; (repeat' split) <;> (simp [*]; done)

@[simp] theorem writeNotice_fr (n : Notice) (s : State) :
    (writeNotice n s).pending = s.pending ∧ (writeNotice n s).sec = s.sec := by
  unfold writeNotice; dsimp only; (repeat' split) <;> (first | (simp (disch := (intros; first | (simp; done) | ((repeat' split) <;> simp))) [*]; done) | grind [dropNotice_fr, firmwareWalk_fr, poolRead_fr, poolWrite_fr])

@[simp] theorem writeNotices_fr (a0 : List Notice) (a1 : State) :
    (writeNotices a0 a1).pending = a1.pending ∧ (writeNotices a0 a1).sec = a1.sec := by
  fun_induction writeNotices a0 a1 <;> (simp [*]; done)

@[simp] theorem postNotice_fr (n : Notice) (s : State) :
    (postNotice n s).pending = s.pending ∧ (postNotice n s).sec = s.sec := by
  simp only [postNotice]; (repeat' split) <;> (simp [*]; done)

@[simp] theorem drainNotices_fr (s : State) :
    (drainNotices s).pending = s.pending ∧ (drainNotices s).sec = s.sec := by
  simp only [drainNotices]; (repeat' split) <;> (simp [*]; done)

@[simp] theorem sendControl_fr (n : ℕ) (code : ℕ) (args : List Byte) (s : State) :
    (sendControl n code args s).pending = s.pending ∧ (sendControl n code args s).sec = s.sec := by
  simp only [sendControl]; (repeat' split) <;> (simp [*]; done)

@[simp] theorem sendIdent_fr (n : ℕ) (s : State) :
    (sendIdent n s).pending = s.pending ∧ (sendIdent n s).sec = s.sec := by
  simp only [sendIdent]; (repeat' split) <;> (simp [*]; done)

@[simp] theorem sendOn_fr (n : ℕ) (p : Packet) (s : State) :
    (sendOn n p s).pending = s.pending ∧ (sendOn n p s).sec = s.sec := by
  simp only [sendOn]; (repeat' split) <;> (simp [*]; done)

@[simp] theorem sendIdle_fr (n : ℕ) (s : State) :
    (sendIdle n s).pending = s.pending ∧ (sendIdle n s).sec = s.sec := by
  simp only [sendIdle]; (repeat' split) <;> (simp [*]; done)

@[simp] theorem dropTraffic_fr (n : ℕ) (s : State) :
    (dropTraffic n s).pending = s.pending ∧ (dropTraffic n s).sec = s.sec := by
  simp only [dropTraffic]; (repeat' split) <;> (simp [*]; done)

@[simp] theorem linkGoesDown_fr (n : ℕ) (cause : Byte) (s : State) :
    (linkGoesDown n cause s).pending = s.pending ∧ (linkGoesDown n cause s).sec = s.sec := by
  simp only [linkGoesDown]; (repeat' split) <;> (simp [*]; done)

@[simp] theorem sluiceNext_fr (s : State) :
    (sluiceNext s).2.pending = s.pending ∧ (sluiceNext s).2.sec = s.sec := by
  simp only [sluiceNext]; (repeat' split) <;> (simp [*]; done)

@[simp] theorem sluiceDrop_fr (id : StartId) (s : State) :
    (sluiceDrop id s).pending = s.pending ∧ (sluiceDrop id s).sec = s.sec := by
  simp only [sluiceDrop]; (repeat' split) <;> (simp [*]; done)

@[simp] theorem noteSeen_fr (m : PermitMsg) (s : State) :
    (noteSeen m s).pending = s.pending ∧ (noteSeen m s).sec = s.sec := by
  simp only [noteSeen]; (repeat' split) <;> (simp [*]; done)

@[simp] theorem sendSnapshot_fr (final : Bool) (s : State) :
    (sendSnapshot final s).pending = s.pending ∧ (sendSnapshot final s).sec = s.sec := by
  simp only [sendSnapshot]; (repeat' split) <;> (simp [*]; done)

@[simp] theorem beginShort_fr (holdW : ℕ) (s : State) :
    (beginShort holdW s).pending = s.pending ∧ (beginShort holdW s).sec = s.sec := by
  simp only [beginShort]; (repeat' split) <;> (simp [*]; done)

@[simp] theorem ringPages_fr (eng : ℕ) (write : Bool) (a2 : ℕ) (a3 : ℕ) (a4 : ℕ) (a5 : State) :
    (ringPages eng write a2 a3 a4 a5).2.pending = a5.pending ∧
    (ringPages eng write a2 a3 a4 a5).2.sec = a5.sec := by
  fun_induction ringPages eng write a2 a3 a4 a5 <;> (first | (simp (disch := (intros; first | (simp; done) | ((repeat' split) <;> simp))) [*]; done) | grind [translatePin_fr])

@[simp] theorem enableFails_fr (q : ℕ) (cause : Byte) (s : State) :
    (enableFails q cause s).pending = s.pending ∧ (enableFails q cause s).sec = s.sec := by
  simp only [enableFails]; (repeat' split) <;> (simp [*]; done)

@[simp] theorem holdEnable_fr (q : ℕ) (s : State) :
    (holdEnable q s).pending = s.pending ∧ (holdEnable q s).sec = s.sec := by
  simp only [holdEnable]; (repeat' split) <;> (simp [*]; done)

@[simp] theorem queueEnable_fr (q : ℕ) (s0 : State) :
    (queueEnable q s0).pending = s0.pending ∧ (queueEnable q s0).sec = s0.sec := by
  unfold queueEnable
  try dsimp only
  repeat' (split <;> (try (rename_i heq; first | (have hp := (congrArg (fun r => r.2.pending) heq).symm; have hq := (congrArg (fun r => r.2.sec) heq).symm; simp at hp hq) | (have hp := (congrArg (fun r => r.2.2.pending) heq).symm; have hq := (congrArg (fun r => r.2.2.sec) heq).symm; simp at hp hq))))
  all_goals simp [*]

@[simp] theorem resumeEnables_fr (s : State) :
    (resumeEnables s).pending = s.pending ∧ (resumeEnables s).sec = s.sec := by
  simp only [resumeEnables]; (repeat' split) <;> (simp [*]; done)

@[simp] theorem flushDone_fr (q : ℕ) (p : PortId) (ok : Bool) (s : State) :
    (flushDone q p ok s).pending = s.pending ∧ (flushDone q p ok s).sec = s.sec := by
  simp only [flushDone]; (repeat' split) <;> (simp [*]; done)

@[simp] theorem badDoorbell_fr (q : ℕ) (s : State) :
    (badDoorbell q s).pending = s.pending ∧ (badDoorbell q s).sec = s.sec := by
  simp only [badDoorbell]; (repeat' split) <;> (simp [*]; done)

@[simp] theorem fetchReturn_fr (q : ℕ) (s : State) :
    (fetchReturn q s).pending = s.pending ∧ (fetchReturn q s).sec = s.sec := by
  simp only [fetchReturn]; (repeat' split) <;> (simp [*]; done)

@[simp] theorem sideXlt_fr (used : Bool) (eng : ℕ) (va : ℕ) (n : ℕ) (write : Bool) (s : State) :
    (sideXlt used eng va n write s).2.pending = s.pending ∧
    (sideXlt used eng va n write s).2.sec = s.sec := by
  simp only [sideXlt]; (repeat' split) <;> (simp [*]; done)

@[simp] theorem pieceWalk_fr (eng : ℕ) (rd : Bool) (loc : Bool) (a3 : ℕ) (a4 : List (ℕ × ℕ × ℕ × ℕ)) (a5 : State) :
    (pieceWalk eng rd loc a3 a4 a5).2.2.pending = a5.pending ∧
    (pieceWalk eng rd loc a3 a4 a5).2.2.sec = a5.sec := by
  fun_induction pieceWalk eng rd loc a3 a4 a5 <;> (first | (simp (disch := (intros; first | (simp; done) | ((repeat' split) <;> simp))) [*]; done) | grind [sideXlt_fr])

@[simp] theorem pieceData_fr (eng : ℕ) (w : DWords) (p : Piece) (s : State) :
    (pieceData eng w p s).2.pending = s.pending ∧ (pieceData eng w p s).2.sec = s.sec := by
  simp only [pieceData]; (repeat' split) <;> (simp [*]; done)

@[simp] theorem freeOverlap_fr (srcs : List (ℕ × ℕ)) (a : ℕ) (a2 : List (Byte × Bool)) (a3 : State) :
    (freeOverlap srcs a a2 a3).2.pending = a3.pending ∧ (freeOverlap srcs a a2 a3).2.sec = a3.sec := by
  fun_induction freeOverlap srcs a a2 a3 <;> (first | (simp (disch := (intros; first | (simp; done) | ((repeat' split) <;> simp))) [*]; done) | grind [freshByte_fr])

@[simp] theorem freeEarlier_fr (eng : ℕ) (streaming : Bool) (tag : HoldTag) (srcs : List (ℕ × ℕ)) (dst : List (ℕ × ℕ)) (s : State) :
    (freeEarlier eng streaming tag srcs dst s).pending = s.pending ∧
    (freeEarlier eng streaming tag srcs dst s).sec = s.sec := by
  simp only [freeEarlier]; (repeat' split) <;> (simp [*]; done)

@[simp] theorem endUnreachable_fr (q : ℕ) (n : ℕ) (s : State) :
    (endUnreachable q n s).pending = s.pending ∧ (endUnreachable q n s).sec = s.sec := by
  simp only [endUnreachable]; (repeat' split) <;> (simp [*]; done)

@[simp] theorem ackWrite_fr (txn : BitVec 32) (status : BitVec 16) (s : State) :
    (ackWrite txn status s).pending = s.pending ∧ (ackWrite txn status s).sec = s.sec := by
  simp only [ackWrite]; (repeat' split) <;> (simp [*]; done)

@[simp] theorem writeIncoming_fr (p : Packet) (tag : HoldTag) (s : State) :
    (writeIncoming p tag s).2.pending = s.pending ∧ (writeIncoming p tag s).2.sec = s.sec := by
  unfold writeIncoming; dsimp only; (repeat' split) <;> (first | (simp (disch := (intros; first | (simp; done) | ((repeat' split) <;> simp))) [*]; done) | grind [vaWrite_fr])

@[simp] theorem parkWrite_fr (p : Packet) (own : Option DescId) (s : State) :
    (parkWrite p own s).pending = s.pending ∧ (parkWrite p own s).sec = s.sec := by
  simp only [parkWrite]; (repeat' split) <;> (simp [*]; done)

@[simp] theorem receiveWrite_fr (p : Packet) (s : State) :
    (receiveWrite p s).pending = s.pending ∧ (receiveWrite p s).sec = s.sec := by
  unfold receiveWrite
  try dsimp only
  repeat' (split <;> (try (rename_i heq; first | (have hp := (congrArg (fun r => r.2.pending) heq).symm; have hq := (congrArg (fun r => r.2.sec) heq).symm; simp at hp hq) | (have hp := (congrArg (fun r => r.2.2.pending) heq).symm; have hq := (congrArg (fun r => r.2.2.sec) heq).symm; simp at hp hq))))
  all_goals simp [*]

@[simp] theorem ownWrite_fr (d : DescId) (p : Packet) (s : State) :
    (ownWrite d p s).pending = s.pending ∧ (ownWrite d p s).sec = s.sec := by
  unfold ownWrite
  try dsimp only
  repeat' (split <;> (try (rename_i heq; first | (have hp := (congrArg (fun r => r.2.pending) heq).symm; have hq := (congrArg (fun r => r.2.sec) heq).symm; simp at hp hq) | (have hp := (congrArg (fun r => r.2.2.pending) heq).symm; have hq := (congrArg (fun r => r.2.2.sec) heq).symm; simp at hp hq))))
  all_goals simp [*]

@[simp] theorem resumeParked_fr (s : State) :
    (resumeParked s).pending = s.pending ∧ (resumeParked s).sec = s.sec := by
  simp only [resumeParked]; (repeat' split) <;> (simp (disch := (intros; first | (simp; done) | ((repeat' split) <;> simp))) [*]; done)

@[simp] theorem sendWrite_fr (q : ℕ) (n : ℕ) (node : NodeId) (va : ℕ) (bs : List (Byte × Bool)) (s : State) :
    (sendWrite q n node va bs s).pending = s.pending ∧ (sendWrite q n node va bs s).sec = s.sec := by
  simp only [sendWrite]; (repeat' split) <;> (simp [*]; done)

@[simp] theorem sendWrites_fr (q : ℕ) (n : ℕ) (node : NodeId) (va : ℕ) (bs : List (Byte × Bool)) (s : State) :
    (sendWrites q n node va bs s).pending = s.pending ∧ (sendWrites q n node va bs s).sec = s.sec := by
  simp only [sendWrites]; (repeat' split) <;> (simp [*]; done)

@[simp] theorem postFault_fr (eng : ℕ) (vpage : ℕ) (big : Bool) (s : State) :
    (postFault eng vpage big s).pending = s.pending ∧ (postFault eng vpage big s).sec = s.sec := by
  simp only [postFault]; (repeat' split) <;> (simp [*]; done)

@[simp] theorem stopAtPage_fr (q : ℕ) (n : ℕ) (vpage : ℕ) (big : Bool) (s : State) :
    (stopAtPage q n vpage big s).pending = s.pending ∧ (stopAtPage q n vpage big s).sec = s.sec := by
  simp only [stopAtPage]; (repeat' split) <;> (simp [*]; done)

@[simp] theorem readPieces_fr (eng : ℕ) (w : DWords) (a2 : List Piece) (a3 : State) :
    (readPieces eng w a2 a3).2.pending = a3.pending ∧ (readPieces eng w a2 a3).2.sec = a3.sec := by
  fun_induction readPieces eng w a2 a3 <;> (first | (simp (disch := (intros; first | (simp; done) | ((repeat' split) <;> simp))) [*]; done) | grind [pieceData_fr])

@[simp] theorem writePiece_fr (q : ℕ) (n : ℕ) (eng : ℕ) (w : DWords) (srcs : List (ℕ × ℕ)) (s : State) (pd : Piece × List (Byte × Bool)) :
    (writePiece q n eng w srcs s pd).pending = s.pending ∧
    (writePiece q n eng w srcs s pd).sec = s.sec := by
  simp only [writePiece]; (repeat' split) <;> (simp [*]; done)

@[simp] theorem copyRun_fr (q : ℕ) (n : ℕ) (s : State) :
    (copyRun q n s).pending = s.pending ∧ (copyRun q n s).sec = s.sec := by
  simp only [copyRun]; (repeat' split) <;> (simp [*]; done)

@[simp] theorem startCopy_fr (q : ℕ) (op : ℕ) (s : State) :
    (startCopy q op s).pending = s.pending ∧ (startCopy q op s).sec = s.sec := by
  unfold startCopy
  try dsimp only
  repeat' (split <;> (try (rename_i heq; first | (have hp := (congrArg (fun r => r.2.pending) heq).symm; have hq := (congrArg (fun r => r.2.sec) heq).symm; simp at hp hq) | (have hp := (congrArg (fun r => r.2.2.pending) heq).symm; have hq := (congrArg (fun r => r.2.2.sec) heq).symm; simp at hp hq))))
  all_goals simp [*]

@[simp] theorem resumeBlocked_fr (s : State) :
    (resumeBlocked s).pending = s.pending ∧ (resumeBlocked s).sec = s.sec := by
  simp only [resumeBlocked]; (repeat' split) <;> (simp [*]; done)

@[simp] theorem postNinth_fr (a0 : List (DescId × ℕ × Bool)) (a1 : State) :
    (postNinth a0 a1).pending = a1.pending ∧ (postNinth a0 a1).sec = a1.sec := by
  fun_induction postNinth a0 a1 <;> (simp [*]; done)

@[simp] theorem moveOutcome_fr (mv : Option MoveReq) (st : BitVec 16) (result : List Byte) (s : State) :
    (moveOutcome mv st result s).pending = s.pending ∧ (moveOutcome mv st result s).sec = s.sec := by
  simp only [moveOutcome]; (repeat' split) <;> (simp [*]; done)

@[simp] theorem dropRecord_fr (vpage : ℕ) (s : State) :
    (dropRecord vpage s).pending = s.pending ∧ (dropRecord vpage s).sec = s.sec := by
  simp only [dropRecord]; (repeat' split) <;> (simp [*]; done)

@[simp] theorem resumePage_fr (vpage : ℕ) (s : State) :
    (resumePage vpage s).pending = s.pending ∧ (resumePage vpage s).sec = s.sec := by
  simp only [resumePage]; (repeat' split) <;> (simp [*]; done)

theorem foldl_keep {β : Type} (f : State → β → State) (l : List β) (a s : State)
    (h : ∀ x b, (f x b).pending = x.pending ∧ (f x b).sec = x.sec) (ha : a.pending = s.pending ∧ a.sec = s.sec) :
    (l.foldl f a).pending = s.pending ∧ (l.foldl f a).sec = s.sec := by
  induction l generalizing a with
  | nil => exact ha
  | cons b l ih => exact ih _ ⟨(h a b).1.trans ha.1, (h a b).2.trans ha.2⟩

@[simp] theorem failPage_fr (vpage : ℕ) (cause : ℕ) (s : State) :
    (failPage vpage cause s).pending = s.pending ∧ (failPage vpage cause s).sec = s.sec := by
  unfold failPage
  dsimp only
  split
  · exact ⟨rfl, rfl⟩
  · simp
    refine foldl_keep _ _ _ _ ?_ (by simp)
    intro x d
    split <;> simp

theorem marked_snd {r : List (Byte × Bool) × State} {e : W64 × Bool} {t : State}
    (h : ((w64 (markedNat r.1).1, (markedNat r.1).2), r.2) = (e, t)) : r.2 = t := congrArg Prod.snd h

theorem marked_read {a : Nat} {x : State} {e : W64 × Bool} {t : State}
    (h : ((w64 (markedNat (poolRead codeNone a 8 false false x).1).1,
      (markedNat (poolRead codeNone a 8 false false x).1).2), (poolRead codeNone a 8 false false x).2) = (e, t)) :
    t.pending = x.pending ∧ t.sec = x.sec := by
  rw [← marked_snd h]
  simp only [poolRead_fr, and_self]

@[simp] theorem findLeaf_fr (va : ℕ) (s : State) :
    (findLeaf va s).2.pending = s.pending ∧ (findLeaf va s).2.sec = s.sec := by
  fun_cases findLeaf va s
  case case1 => exact ⟨rfl, rfl⟩
  case case2 rd root h1 e1 s1 x1 h2 => exact marked_read x1
  case case3 rd root h1 e1 s1 x1 h2 a1 e2 s2 x2 h3 =>
    have k1 := marked_read x1; have k2 := marked_read x2; exact ⟨k2.1.trans k1.1, k2.2.trans k1.2⟩
  case case4 rd root h1 e1 s1 x1 h2 a1 e2 s2 x2 h3 h4 =>
    have k1 := marked_read x1; have k2 := marked_read x2; exact ⟨k2.1.trans k1.1, k2.2.trans k1.2⟩
  case case5 rd root h1 e1 s1 x1 h2 a1 e2 s2 x2 h3 h4 a2 e3 s3 x3 h5 =>
    have k1 := marked_read x1; have k2 := marked_read x2; have k3 := marked_read x3
    exact ⟨k3.1.trans (k2.1.trans k1.1), k3.2.trans (k2.2.trans k1.2)⟩
  case case6 rd root h1 e1 s1 x1 h2 a1 e2 s2 x2 h3 h4 a2 e3 s3 x3 h5 =>
    have k1 := marked_read x1; have k2 := marked_read x2; have k3 := marked_read x3
    exact ⟨k3.1.trans (k2.1.trans k1.1), k3.2.trans (k2.2.trans k1.2)⟩

@[simp] theorem flushRange_fr (lo : ℕ) (n : ℕ) (s : State) :
    (flushRange lo n s).pending = s.pending ∧ (flushRange lo n s).sec = s.sec := by
  simp only [flushRange]; (repeat' split) <;> (simp [*]; done)

@[simp] theorem setSelectors_fr (lo : ℕ) (pages : ℕ) (sel : ℕ) (s : State) :
    (setSelectors lo pages sel s).pending = s.pending ∧ (setSelectors lo pages sel s).sec = s.sec := by
  simp only [setSelectors]; (repeat' split) <;> (simp [*]; done)

@[simp] theorem dropRange_fr (lo : ℕ) (n : ℕ) (s : State) :
    (dropRange lo n s).pending = s.pending ∧ (dropRange lo n s).sec = s.sec := by
  simp only [dropRange]; (repeat' split) <;> (simp [*]; done)

@[simp] theorem writePage_fr (pa : ℕ) (n : ℕ) (data : Mem) (bad : List ℕ) (s : State) :
    (writePage pa n data bad s).pending = s.pending ∧ (writePage pa n data bad s).sec = s.sec := by
  simp only [writePage]; (repeat' split) <;> (simp [*]; done)

@[simp] theorem fillPage_fr (pa : ℕ) (n : ℕ) (data : Mem) (bad : List ℕ) (s : State) :
    (fillPage pa n data bad s).pending = s.pending ∧ (fillPage pa n data bad s).sec = s.sec := by
  simp only [fillPage]; (repeat' split) <;> (simp [*]; done)

@[simp] theorem serveRecord_fr (r : FaultRec) (s : State) :
    (serveRecord r s).pending = s.pending ∧ (serveRecord r s).sec = s.sec := by
  unfold serveRecord
  try dsimp only
  repeat' (split <;> (try (rename_i heq; first | (have hp := (congrArg (fun r => r.2.pending) heq).symm; have hq := (congrArg (fun r => r.2.sec) heq).symm; simp at hp hq) | (have hp := (congrArg (fun r => r.2.2.pending) heq).symm; have hq := (congrArg (fun r => r.2.2.sec) heq).symm; simp at hp hq))))
  all_goals simp [*]

@[simp] theorem faultTimeout_fr (vpage : ℕ) (s : State) :
    (faultTimeout vpage s).pending = s.pending ∧ (faultTimeout vpage s).sec = s.sec := by
  simp only [faultTimeout]; (repeat' split) <;> (simp [*]; done)

@[simp] theorem beginInval_fr (q : ℕ) (n : ℕ) (w : DWords) (s : State) :
    (beginInval q n w s).pending = s.pending ∧ (beginInval q n w s).sec = s.sec := by
  simp only [beginInval]; (repeat' split) <;> (simp [*]; done)

@[simp] theorem unreachable_fr (txn : BitVec 32) (s : State) :
    (unreachable txn s).pending = s.pending ∧ (unreachable txn s).sec = s.sec := by
  simp only [unreachable]; (repeat' split) <;> (simp [*]; done)

@[simp] theorem recalGain_fr (s : State) :
    (recalGain s).pending = s.pending ∧ (recalGain s).sec = s.sec := by
  simp only [recalGain]; (repeat' split) <;> (simp [*]; done)

@[simp] theorem recalRaw_fr (raw : ℕ) (s : State) :
    (recalRaw raw s).pending = s.pending ∧ (recalRaw raw s).sec = s.sec := by
  simp only [recalRaw]; (repeat' split) <;> (simp [*]; done)

@[simp] theorem recalSample_fr (dw : ℕ) (s : State) :
    (recalSample dw s).pending = s.pending ∧ (recalSample dw s).sec = s.sec := by
  simp only [recalSample]; (repeat' split) <;> (simp [*]; done)

@[simp] theorem whEnter_fr (w : WhState) (s : State) :
    (whEnter w s).pending = s.pending ∧ (whEnter w s).sec = s.sec := by
  simp only [whEnter]; (repeat' split) <;> (simp [*]; done)

@[simp] theorem whCompare_fr (s : State) :
    (whCompare s).pending = s.pending ∧ (whCompare s).sec = s.sec := by
  simp only [whCompare]; (repeat' split) <;> (simp [*]; done)

@[simp] theorem learnTag_fr (xs : List (ℕ × ℕ × ℕ)) (s : State) (t : ℕ) :
    (learnTag xs s t).pending = s.pending ∧ (learnTag xs s t).sec = s.sec := by
  simp only [learnTag]; (repeat' split) <;> (simp [*]; done)

@[simp] theorem setDuty'_fr (a : ℕ) (d : ℕ) (s : State) :
    (setDuty' a d s).pending = s.pending ∧ (setDuty' a d s).sec = s.sec := by
  simp only [setDuty']; (repeat' split) <;> (simp [*]; done)

@[simp] theorem syncVecs_fr (s : State) :
    (syncVecs s).pending = s.pending ∧ (syncVecs s).sec = s.sec := by
  simp only [syncVecs]; (repeat' split) <;> (simp [*]; done)

@[simp] theorem capStep_fr (control : ℕ) (ballast : ℕ) (xs : List (ℕ × ℕ × ℕ)) (s : State) :
    (capStep control ballast xs s).pending = s.pending ∧ (capStep control ballast xs s).sec = s.sec := by
  simp only [capStep]; (repeat' split) <;> (simp [*]; done)

@[simp] theorem setBallast_fr (a : ℕ) (d : ℕ) (s : State) :
    (setBallast a d s).pending = s.pending ∧ (setBallast a d s).sec = s.sec := by
  simp only [setBallast]; (repeat' split) <;> (simp [*]; done)

@[simp] theorem stopBallast_fr (a : ℕ) (s : State) :
    (stopBallast a s).pending = s.pending ∧ (stopBallast a s).sec = s.sec := by
  simp only [stopBallast]; (repeat' split) <;> (simp [*]; done)

@[simp] theorem spillway_fr (s : State) :
    (spillway s).pending = s.pending ∧ (spillway s).sec = s.sec := by
  unfold spillway
  dsimp only
  have h0 : ((List.range 16).foldl (fun s a => count (aryBallastCount a) (ballastSteps a s) s) s).pending = s.pending
      ∧ ((List.range 16).foldl (fun s a => count (aryBallastCount a) (ballastSteps a s) s) s).sec = s.sec :=
    foldl_keep _ _ _ _ (fun y e => by simp) ⟨rfl, rfl⟩
  generalize (List.range 16).foldl (fun s a => count (aryBallastCount a) (ballastSteps a s) s) s = u at *
  refine foldl_keep _ _ _ _ ?_ (by simpa using h0)
  intro x a
  split <;> simp

@[simp] theorem endShort_fr (s : State) :
    (endShort s).pending = s.pending ∧ (endShort s).sec = s.sec := by
  simp only [endShort]; (repeat' split) <;> (simp [*]; done)

@[simp] theorem recalFinish_fr (r : Recal) (s : State) :
    (recalFinish r s).2.pending = s.pending ∧ (recalFinish r s).2.sec = s.sec := by
  simp only [recalFinish]; (repeat' split) <;> (simp [*]; done)

@[simp] theorem thermalAsk_fr (s : State) :
    (thermalAsk s).pending = s.pending ∧ (thermalAsk s).sec = s.sec := by
  simp only [thermalAsk]; (repeat' split) <;> (simp [*]; done)

@[simp] theorem stepClocks_fr (slow : Bool) (s : State) :
    (stepClocks slow s).pending = s.pending ∧ (stepClocks slow s).sec = s.sec := by
  simp only [stepClocks]; (repeat' split) <;> (simp [*]; done)

@[simp] theorem clearOn_fr (v : W64) (lo : ℕ) (hi : ℕ) (s : State) :
    (clearOn v lo hi s).pending = s.pending ∧ (clearOn v lo hi s).sec = s.sec := by
  simp only [clearOn]; (repeat' split) <;> (simp [*]; done)

@[simp] theorem sendSem_fr (e : StreamEng) (k : ℕ) (lat : ℕ) (cyc : ℕ) (s : State) :
    (sendSem e k lat cyc s).pending = s.pending ∧ (sendSem e k lat cyc s).sec = s.sec := by
  simp only [sendSem]; (repeat' split) <;> (simp [*]; done)

@[simp] theorem ageSems_fr (e : StreamEng) (s : State) :
    (ageSems e s).pending = s.pending ∧ (ageSems e s).sec = s.sec := by
  simp only [ageSems]; (repeat' split) <;> (simp [*]; done)

@[simp] theorem passWait_fr (e : StreamEng) (k : ℕ) (s : State) :
    (passWait e k s).pending = s.pending ∧ (passWait e k s).sec = s.sec := by
  simp only [passWait]; (repeat' split) <;> (simp [*]; done)

@[simp] theorem loseAlign_fr (e : StreamEng) (s : State) :
    (loseAlign e s).pending = s.pending ∧ (loseAlign e s).sec = s.sec := by
  simp only [loseAlign]; (repeat' split) <;> (simp [*]; done)

@[simp] theorem endLaunch_fr (id : DescId) (st : BitVec 16) (s : State) :
    (endLaunch id st s).pending = s.pending ∧ (endLaunch id st s).sec = s.sec := by
  simp only [endLaunch]; (repeat' split) <;> (simp [*]; done)

@[simp] theorem dropRequest_fr (e : StreamEng) (mask : BitVec 32) (s : State) :
    (dropRequest e mask s).pending = s.pending ∧ (dropRequest e mask s).sec = s.sec := by
  simp only [dropRequest]; (repeat' split) <;> (simp [*]; done)

@[simp] theorem startMember_fr (start : ℕ) (duty : ℕ) (several : Bool) (e : StreamEng) (s : State) :
    (startMember start duty several e s).pending = s.pending ∧
    (startMember start duty several e s).sec = s.sec := by
  simp only [startMember]; (repeat' split) <;> (simp [*]; done)

@[simp] theorem startGroup_fr (e : StreamEng) (s : State) :
    (startGroup e s).pending = s.pending ∧ (startGroup e s).sec = s.sec := by
  simp only [startGroup]; (repeat' split) <;> (simp [*]; done)

@[simp] theorem checkReady_fr (e : StreamEng) (s : State) :
    (checkReady e s).pending = s.pending ∧ (checkReady e s).sec = s.sec := by
  simp only [checkReady]; (repeat' split) <;> (simp [*]; done)

@[simp] theorem grantStream_fr (mask : BitVec 32) (s : State) :
    (grantStream mask s).pending = s.pending ∧ (grantStream mask s).sec = s.sec := by
  simp only [grantStream]; (repeat' split) <;> (simp [*]; done)

@[simp] theorem joinPermit_fr (e : StreamEng) (l : Launch) (s : State) :
    (joinPermit e l s).pending = s.pending ∧ (joinPermit e l s).sec = s.sec := by
  unfold joinPermit; dsimp only; (repeat' split) <;> (first | (simp (disch := (intros; first | (simp; done) | ((repeat' split) <;> simp))) [*]; done) | grind [notePermit_fr, State_modUnit_fr, sluice_fr, grantStream_fr])

@[simp] theorem fromIdle_fr (e : StreamEng) (m : Strm) (s : State) :
    (fromIdle e m s).pending = s.pending ∧ (fromIdle e m s).sec = s.sec := by
  simp only [fromIdle]; (repeat' split) <;> (simp [*]; done)

@[simp] theorem promote_fr (e : StreamEng) (s : State) :
    (promote e s).pending = s.pending ∧ (promote e s).sec = s.sec := by
  simp only [promote]; (repeat' split) <;> (simp [*]; done)

@[simp] theorem streamLaunch_fr (q : ℕ) (s : State) :
    (streamLaunch q s).pending = s.pending ∧ (streamLaunch q s).sec = s.sec := by
  unfold streamLaunch; dsimp only; (repeat' split) <;> (first | (simp (disch := (intros; first | (simp; done) | ((repeat' split) <;> simp))) [*]; done) | grind [beginDesc_fr, State_modUnit_fr, fromIdle_fr])

@[simp] theorem readTable_fr (code : ℕ) (va : ℕ) (n : ℕ) (s : State) :
    (readTable code va n s).2.pending = s.pending ∧ (readTable code va n s).2.sec = s.sec := by
  simp only [readTable]; (repeat' split) <;> (simp [*]; done)

@[simp] theorem trigTargets_fr (code : ℕ) (a1 : List Trig) (a2 : State) :
    (trigTargets code a1 a2).2.pending = a2.pending ∧ (trigTargets code a1 a2).2.sec = a2.sec := by
  fun_induction trigTargets code a1 a2 <;> (first | (simp (disch := (intros; first | (simp; done) | ((repeat' split) <;> simp))) [*]; done) | grind [translateAll_fr])

@[simp] theorem loadStream_fr (code : ℕ) (l : Launch) (s : State) :
    (loadStream code l s).2.pending = s.pending ∧ (loadStream code l s).2.sec = s.sec := by
  unfold loadStream; dsimp only; (repeat' split) <;> (first | (simp (disch := (intros; first | (simp; done) | ((repeat' split) <;> simp))) [*]; done) | grind [readTable_fr, trigTargets_fr])

@[simp] theorem loadFailed_fr (e : StreamEng) (cur : Bool) (l : Launch) (st : BitVec 16) (s : State) :
    (loadFailed e cur l st s).pending = s.pending ∧ (loadFailed e cur l st s).sec = s.sec := by
  simp only [loadFailed]; (repeat' split) <;> (simp [*]; done)

@[simp] theorem streamLoad_fr (e : StreamEng) (s : State) :
    (streamLoad e s).pending = s.pending ∧ (streamLoad e s).sec = s.sec := by
  unfold streamLoad; dsimp only; (repeat' split) <;> (first | (simp (disch := (intros; first | (simp; done) | ((repeat' split) <;> simp))) [*]; done) | grind [loadStream_fr, loadFailed_fr, checkReady_fr, State_modUnit_fr])

@[simp] theorem haltStream_fr (e : StreamEng) (cause : Byte) (st : BitVec 16) (qcause : Byte) (s : State) :
    (haltStream e cause st qcause s).pending = s.pending ∧
    (haltStream e cause st qcause s).sec = s.sec := by
  simp only [haltStream]; (repeat' split) <;> (simp [*]; done)

@[simp] theorem issueTrigger_fr (e : StreamEng) (t : Trig) (s : State) :
    (issueTrigger e t s).pending = s.pending ∧ (issueTrigger e t s).sec = s.sec := by
  simp only [issueTrigger]; (repeat' split) <;> (simp [*]; done)

@[simp] theorem trigData_fr (e : StreamEng) (o : OutTrig) (bs : List (Byte × Bool)) (s : State) :
    (trigData e o bs s).2.pending = s.pending ∧ (trigData e o bs s).2.sec = s.sec := by
  simp only [trigData]; (repeat' split) <;> (simp [*]; done)

@[simp] theorem trigNote_fr (e : StreamEng) (o : OutTrig) (s : State) :
    (trigNote e o s).pending = s.pending ∧ (trigNote e o s).sec = s.sec := by
  simp only [trigNote]; (repeat' split) <;> (simp [*]; done)

@[simp] theorem moveTrigger_fr (e : StreamEng) (o : OutTrig) (s : State) :
    (moveTrigger e o s).2.pending = s.pending ∧ (moveTrigger e o s).2.sec = s.sec := by
  simp only [moveTrigger]; (repeat' split) <;> (simp [*]; done)

@[simp] theorem retireTrigger_fr (e : StreamEng) (o : OutTrig) (inc : Bool) (s : State) :
    (retireTrigger e o inc s).pending = s.pending ∧ (retireTrigger e o inc s).sec = s.sec := by
  simp only [retireTrigger]; (repeat' split) <;> (simp [*]; done)

@[simp] theorem accPoison_fr (e : StreamEng) (o : OutTrig) (s : State) :
    (accPoison e o s).pending = s.pending ∧ (accPoison e o s).sec = s.sec := by
  simp only [accPoison]; (repeat' split) <;> (simp [*]; done)

@[simp] theorem triggerComplete_fr (e : StreamEng) (k : ℕ) (s : State) :
    (triggerComplete e k s).pending = s.pending ∧ (triggerComplete e k s).sec = s.sec := by
  simp only [triggerComplete]; (repeat' split) <;> (simp [*]; done)

@[simp] theorem groupRelease_fr (e : StreamEng) (s : State) :
    (groupRelease e s).pending = s.pending ∧ (groupRelease e s).sec = s.sec := by
  simp only [groupRelease]; (repeat' split) <;> (simp [*]; done)

@[simp] theorem endTaint_fr (e : StreamEng) (s : State) :
    (endTaint e s).pending = s.pending ∧ (endTaint e s).sec = s.sec := by
  simp only [endTaint]; (repeat' split) <;> (simp [*]; done)

@[simp] theorem streamComplete_fr (e : StreamEng) (s : State) :
    (streamComplete e s).pending = s.pending ∧ (streamComplete e s).sec = s.sec := by
  simp only [streamComplete]; (repeat' split) <;> (simp [*]; done)

@[simp] theorem lastCycle_fr (e : StreamEng) (due : ℕ) (s : State) :
    (lastCycle e due s).pending = s.pending ∧ (lastCycle e due s).sec = s.sec := by
  simp only [lastCycle]; (repeat' split) <;> (simp [*]; done)

@[simp] theorem dropNext_fr (q : ℕ) (e : StreamEng) (s : State) :
    (dropNext q e s).pending = s.pending ∧ (dropNext q e s).sec = s.sec := by
  simp only [dropNext]; (repeat' split) <;> (simp [*]; done)

@[simp] theorem stopCur_fr (q : ℕ) (e : StreamEng) (s : State) :
    (stopCur q e s).pending = s.pending ∧ (stopCur q e s).sec = s.sec := by
  simp only [stopCur]; (repeat' split) <;> (simp [*]; done)

@[simp] theorem queueStop_fr (q : ℕ) (s : State) :
    (queueStop q s).pending = s.pending ∧ (queueStop q s).sec = s.sec := by
  simp only [queueStop]; (repeat' split) <;> (simp [*]; done)

@[simp] theorem detachHalted_fr (e : StreamEng) (s : State) :
    (detachHalted e s).pending = s.pending ∧ (detachHalted e s).sec = s.sec := by
  simp only [detachHalted]; (repeat' split) <;> (simp [*]; done)

@[simp] theorem releaseEngine_fr (q : ℕ) (s : State) :
    (releaseEngine q s).pending = s.pending ∧ (releaseEngine q s).sec = s.sec := by
  simp only [releaseEngine]; (repeat' split) <;> (simp [*]; done)

@[simp] theorem queueResume_fr (q : ℕ) (s : State) :
    (queueResume q s).pending = s.pending ∧ (queueResume q s).sec = s.sec := by
  simp only [queueResume]; (repeat' split) <;> (simp [*]; done)

@[simp] theorem stuckNext_fr (q : ℕ) (s : State) :
    (stuckNext q s).pending = s.pending ∧ (stuckNext q s).sec = s.sec := by
  simp only [stuckNext]; (repeat' split) <;> (simp [*]; done)

@[simp] theorem queueDisable_fr (q : ℕ) (s : State) :
    (queueDisable q s).pending = s.pending ∧ (queueDisable q s).sec = s.sec := by
  simp only [queueDisable]; (repeat' split) <;> (simp [*]; done)

@[simp] theorem queueDrainEnd_fr (q : ℕ) (s : State) :
    (queueDrainEnd q s).pending = s.pending ∧ (queueDrainEnd q s).sec = s.sec := by
  simp only [queueDrainEnd]; (repeat' split) <;> (simp [*]; done)

@[simp] theorem landRow_fr (n : ArrayId) (f : FlyStep) (s : State) :
    (landRow n f s).pending = s.pending ∧ (landRow n f s).sec = s.sec := by
  simp only [landRow]; (repeat' split) <;> (simp [*]; done)

@[simp] theorem landDue_fr (n : ArrayId) (s : State) :
    (landDue n s).pending = s.pending ∧ (landDue n s).sec = s.sec := by
  simp only [landDue]; (repeat' split) <;> (simp [*]; done)

@[simp] theorem settleArray_fr (n : ArrayId) (s : State) :
    (settleArray n s).pending = s.pending ∧ (settleArray n s).sec = s.sec := by
  simp only [settleArray]; (repeat' split) <;> (simp [*]; done)

@[simp] theorem passCycle_fr (n : ArrayId) (s : State) :
    (passCycle n s).pending = s.pending ∧ (passCycle n s).sec = s.sec := by
  simp only [passCycle]; (repeat' split) <;> (simp [*]; done)

@[simp] theorem openCycle_fr (n : ArrayId) (s : State) :
    (openCycle n s).pending = s.pending ∧ (openCycle n s).sec = s.sec := by
  simp only [openCycle]; (repeat' split) <;> (simp [*]; done)

@[simp] theorem holdCycle_fr (n : ArrayId) (h : HoldAt) (s : State) :
    (holdCycle n h s).pending = s.pending ∧ (holdCycle n h s).sec = s.sec := by
  simp only [holdCycle]; (repeat' split) <;> (simp [*]; done)

@[simp] theorem openBundle_fr (n : ArrayId) (ts : List (ℕ × ℕ)) (s : State) :
    (openBundle n ts s).pending = s.pending ∧ (openBundle n ts s).sec = s.sec := by
  simp only [openBundle]; (repeat' split) <;> (simp [*]; done)

@[simp] theorem issueStep_fr (n : ArrayId) (b : Bundle) (i : ℕ) (s : State) :
    (issueStep n b i s).2.pending = s.pending ∧ (issueStep n b i s).2.sec = s.sec := by
  simp only [issueStep]; (repeat' split) <;> (simp [*]; done)

@[simp] theorem beginPreload_fr (n : ArrayId) (b : Bundle) (s : State) :
    (beginPreload n b s).pending = s.pending ∧ (beginPreload n b s).sec = s.sec := by
  simp only [beginPreload]; (repeat' split) <;> (simp [*]; done)

@[simp] theorem advanceStream_fr (n : ArrayId) (b : Bundle) (s : State) :
    (advanceStream n b s).pending = s.pending ∧ (advanceStream n b s).sec = s.sec := by
  simp only [advanceStream]; (repeat' split) <;> (simp [*]; done)

@[simp] theorem cycleActions_fr (n : ArrayId) (b : Bundle) (i : ℕ) (t : Option Trig) (s : State) :
    (cycleActions n b i t s).pending = s.pending ∧ (cycleActions n b i t s).sec = s.sec := by
  simp only [cycleActions]; (repeat' split) <;> (simp [*]; done)

@[simp] theorem runCycle_fr (n : ArrayId) (m : Strm) (b : Bundle) (s0 : State) :
    (runCycle n m b s0).pending = s0.pending ∧ (runCycle n m b s0).sec = s0.sec := by
  simp only [runCycle]; (repeat' split) <;> (simp [*]; done)

@[simp] theorem bundleIssue_fr (n : ArrayId) (s : State) :
    (bundleIssue n s).pending = s.pending ∧ (bundleIssue n s).sec = s.sec := by
  simp only [bundleIssue]; (repeat' split) <;> (simp [*]; done)

@[simp] theorem answer_fr (c : MCmd) (pay : List Byte) (s : State) :
    (answer c pay s).pending = s.pending ∧ (answer c pay s).sec = s.sec := by
  simp only [answer]; (repeat' split) <;> (simp [*]; done)

@[simp] theorem refuse_fr (c : MCmd) (st : BitVec 16) (detail : ℕ) (s : State) :
    (refuse c st detail s).pending = s.pending ∧ (refuse c st detail s).sec = s.sec := by
  simp only [refuse]; (repeat' split) <;> (simp [*]; done)

@[simp] theorem settleMgr_fr (a0 : ℕ) (a1 : State) :
    (settleMgr a0 a1).pending = a1.pending ∧ (settleMgr a0 a1).sec = a1.sec := by
  fun_induction settleMgr a0 a1 <;> (simp [*]; done)

@[simp] theorem settle_fr (s : State) :
    (settle s).pending = s.pending ∧ (settle s).sec = s.sec := by
  simp only [settle]; (repeat' split) <;> (simp [*]; done)

@[simp] theorem serve_fr (m : MbxId) (id : ℕ) (f : MCmd → State → State) (s : State) (h_f : ∀ x0 x1, (f x0 x1).pending = x1.pending ∧ (f x0 x1).sec = x1.sec) :
    (serve m id f s).pending = s.pending ∧ (serve m id f s).sec = s.sec := by
  simp only [serve]; (repeat' split) <;> (simp [*, h_f]; done)

@[simp] theorem checked_fr (c : MCmd) (range : List (Bool × ℕ)) (busy : List (Bool × ℕ)) (conflict : List (Bool × ℕ)) (k : State → State) (s : State) (h_k : ∀ x0, (k x0).pending = x0.pending ∧ (k x0).sec = x0.sec) :
    (checked c range busy conflict k s).pending = s.pending ∧
    (checked c range busy conflict k s).sec = s.sec := by
  simp only [checked]; (repeat' split) <;> (simp [*, h_k]; done)

@[simp] theorem placeOp_fr (c : MCmd) (s : State) :
    (placeOp c s).pending = s.pending ∧ (placeOp c s).sec = s.sec := by
  simp only [placeOp]; (repeat' split) <;> (simp [*]; done)

@[simp] theorem long_fr (c : MCmd) (range : List (Bool × ℕ)) (busy : List (Bool × ℕ)) (conflict : List (Bool × ℕ)) (start : State → State) (s : State) (h_start : ∀ x0, (start x0).pending = x0.pending ∧ (start x0).sec = x0.sec) :
    (long c range busy conflict start s).pending = s.pending ∧
    (long c range busy conflict start s).sec = s.sec := by
  simp only [long]; (repeat' split) <;> (simp [*, h_start]; done)

@[simp] theorem endOp_fr (o : RunOp) (st : BitVec 16) (result : List Byte) (s : State) :
    (endOp o st result s).pending = s.pending ∧ (endOp o st result s).sec = s.sec := by
  simp only [endOp]; (repeat' split) <;> (simp [*]; done)

@[simp] theorem endOps_fr (p : RunOp → Bool) (st : BitVec 16) (result : List Byte) (s : State) :
    (endOps p st result s).pending = s.pending ∧ (endOps p st result s).sec = s.sec := by
  simp only [endOps]; (repeat' split) <;> (simp [*]; done)

@[simp] theorem mbxReject_fr (m : ℕ) (s : State) :
    (mbxReject m s).pending = s.pending ∧ (mbxReject m s).sec = s.sec := by
  simp only [mbxReject]; (repeat' split) <;> (simp [*]; done)

@[simp] theorem doorbellGo_fr (m : MbxId) (v : W64) (s : State) :
    (doorbellGo m v s).pending = s.pending ∧ (doorbellGo m v s).sec = s.sec := by
  simp only [doorbellGo]; (repeat' split) <;> (simp [*]; done)

@[simp] theorem mbxCmdWrite_fr (m : ℕ) (off : ℕ) (bs : List Byte) (s : State) :
    (mbxCmdWrite m off bs s).pending = s.pending ∧ (mbxCmdWrite m off bs s).sec = s.sec := by
  simp only [mbxCmdWrite]; (repeat' split) <;> (simp [*]; done)

@[simp] theorem opDoneWrite_fr (m : ℕ) (v : W64) (s : State) :
    (opDoneWrite m v s).pending = s.pending ∧ (opDoneWrite m v s).sec = s.sec := by
  simp only [opDoneWrite]; (repeat' split) <;> (simp [*]; done)

@[simp] theorem mbxStatusWrite_fr (m : ℕ) (v : W64) (s : State) :
    (mbxStatusWrite m v s).pending = s.pending ∧ (mbxStatusWrite m v s).sec = s.sec := by
  simp only [mbxStatusWrite]; (repeat' split) <;> (simp [*]; done)

@[simp] theorem mbxRspRead_fr (m : ℕ) (off : ℕ) (s : State) :
    (mbxRspRead m off s).2.pending = s.pending ∧ (mbxRspRead m off s).2.sec = s.sec := by
  simp only [mbxRspRead]; (repeat' split) <;> (simp [*]; done)

@[simp] theorem mailbox2Command_fr (src : NodeId) (bytes : List Byte) (s : State) :
    (mailbox2Command src bytes s).pending = s.pending ∧ (mailbox2Command src bytes s).sec = s.sec := by
  simp only [mailbox2Command]; (repeat' split) <;> (simp [*]; done)

@[simp] theorem fabricMailbox_fr (c : MCmd) (s : State) :
    (fabricMailbox c s).pending = s.pending ∧ (fabricMailbox c s).sec = s.sec := by
  simp only [fabricMailbox]; (repeat' split) <;> (simp [*]; done)

@[simp] theorem fabricResponse_fr (src : NodeId) (bytes : List Byte) (s : State) :
    (fabricResponse src bytes s).pending = s.pending ∧ (fabricResponse src bytes s).sec = s.sec := by
  simp only [fabricResponse]; (repeat' split) <;> (simp [*]; done)

@[simp] theorem modRun_fr (id : DescId) (f : CollRun → CollRun) (s : State) :
    (modRun id f s).pending = s.pending ∧ (modRun id f s).sec = s.sec := by
  simp only [modRun]; (repeat' split) <;> (simp [*]; done)

@[simp] theorem dropHeld_fr (g : ℕ) (seq : BitVec 20) (s : State) :
    (dropHeld g seq s).pending = s.pending ∧ (dropHeld g seq s).sec = s.sec := by
  simp only [dropHeld]; (repeat' split) <;> (simp [*]; done)

@[simp] theorem setTally_fr (g : ℕ) (e : ℕ) (t : Tally) (s : State) :
    (setTally g e t s).pending = s.pending ∧ (setTally g e t s).sec = s.sec := by
  simp only [setTally]; (repeat' split) <;> (simp [*]; done)

@[simp] theorem writeTally_fr (g : ℕ) (e : ℕ) (tag : HoldTag) (s : State) :
    (writeTally g e tag s).2.pending = s.pending ∧ (writeTally g e tag s).2.sec = s.sec := by
  unfold writeTally
  try dsimp only
  repeat' (split <;> (try (rename_i heq; first | (have hp := (congrArg (fun r => r.2.pending) heq).symm; have hq := (congrArg (fun r => r.2.sec) heq).symm; simp at hp hq) | (have hp := (congrArg (fun r => r.2.2.pending) heq).symm; have hq := (congrArg (fun r => r.2.2.sec) heq).symm; simp at hp hq))))
  all_goals simp [*]

@[simp] theorem tallyDone_fr (r : CollRun) (self : ℕ) (e : ℕ) (s : State) :
    (tallyDone r self e s).2.pending = s.pending ∧ (tallyDone r self e s).2.sec = s.sec := by
  simp only [tallyDone]; (repeat' split) <;> (simp [*]; done)

@[simp] theorem tallyFailed_fr (r : CollRun) (e : ℕ) (mismatch : Bool) (s : State) :
    (tallyFailed r e mismatch s).pending = s.pending ∧ (tallyFailed r e mismatch s).sec = s.sec := by
  unfold tallyFailed; dsimp only; (repeat' split) <;> (first | (simp (disch := (intros; first | (simp; done) | ((repeat' split) <;> simp))) [*]; done) | grind [setTally_fr, writeTally_fr])

@[simp] theorem resumeTallies_fr (s : State) :
    (resumeTallies s).pending = s.pending ∧ (resumeTallies s).sec = s.sec := by
  unfold resumeTallies
  refine foldl_keep _ _ _ _ ?_ ⟨rfl, rfl⟩
  intro x b
  split
  · simp
  · split
    · rename_i heq
      have hp := (congrArg (fun r => r.2.pending) heq).symm
      have hq := (congrArg (fun r => r.2.sec) heq).symm
      simp at hp hq
      simp [hp, hq]
    · simp

@[simp] theorem sendColl_fr (gi : ℕ) (g : GroupSt) (seq : BitVec 20) (i : ℕ) (word : ℕ) (bs : List Byte) (s : State) :
    (sendColl gi g seq i word bs s).pending = s.pending ∧
    (sendColl gi g seq i word bs s).sec = s.sec := by
  simp only [sendColl]; (repeat' split) <;> (simp [*]; done)

@[simp] theorem sendAborts_fr (r : CollRun) (g : GroupSt) (c : AbortCause) (s : State) :
    (sendAborts r g c s).pending = s.pending ∧ (sendAborts r g c s).sec = s.sec := by
  simp only [sendAborts]; (repeat' split) <;> (simp [*]; done)

@[simp] theorem sendPiece_fr (r : CollRun) (g : GroupSt) (peer : ℕ) (first : ℕ) (size : ℕ) (k : CollPart) (flags : FFlags) (elems : List W64) (s : State) :
    (sendPiece r g peer first size k flags elems s).pending = s.pending ∧
    (sendPiece r g peer first size k flags elems s).sec = s.sec := by
  simp only [sendPiece]; (repeat' split) <;> (simp [*]; done)

@[simp] theorem sendSpan_fr (r : CollRun) (g : GroupSt) (peer : ℕ) (lo : ℕ) (hi : ℕ) (k : CollPart) (s : State) :
    (sendSpan r g peer lo hi k s).pending = s.pending ∧ (sendSpan r g peer lo hi k s).sec = s.sec := by
  simp only [sendSpan]; (repeat' split) <;> (simp [*]; done)

@[simp] theorem sendBlock_fr (r : CollRun) (g : GroupSt) (peer : ℕ) (s : State) :
    (sendBlock r g peer s).pending = s.pending ∧ (sendBlock r g peer s).sec = s.sec := by
  simp only [sendBlock]; (repeat' split) <;> (simp [*]; done)

@[simp] theorem endRun_fr (r : CollRun) (st : BitVec 16) (result : W64) (s : State) :
    (endRun r st result s).pending = s.pending ∧ (endRun r st result s).sec = s.sec := by
  simp only [endRun]; (repeat' split) <;> (simp [*]; done)

@[simp] theorem freeRange_fr (eng : ℕ) (tag : HoldTag) (a2 : ℕ) (a3 : ℕ) (a4 : ℕ) (a5 : State) :
    (freeRange eng tag a2 a3 a4 a5).pending = a5.pending ∧
    (freeRange eng tag a2 a3 a4 a5).sec = a5.sec := by
  fun_induction freeRange eng tag a2 a3 a4 a5 <;> (first | (simp (disch := (intros; first | (simp; done) | ((repeat' split) <;> simp))) [*]; done) | grind [freshBytes_fr, vaWrite_fr])

@[simp] theorem freeDest_fr (r : CollRun) (g : GroupSt) (s : State) :
    (freeDest r g s).pending = s.pending ∧ (freeDest r g s).sec = s.sec := by
  simp only [freeDest]; (repeat' split) <;> (simp [*]; done)

@[simp] theorem returnHeld_fr (u : ℕ) (s : State) :
    (returnHeld u s).pending = s.pending ∧ (returnHeld u s).sec = s.sec := by
  simp only [returnHeld]; (repeat' split) <;> (simp [*]; done)

@[simp] theorem endStall_fr (u : ℕ) (s : State) :
    (endStall u s).pending = s.pending ∧ (endStall u s).sec = s.sec := by
  simp only [endStall]; (repeat' split) <;> (simp [*]; done)

@[simp] theorem beginStall_fr (u : ℕ) (id : DescId) (s : State) :
    (beginStall u id s).pending = s.pending ∧ (beginStall u id s).sec = s.sec := by
  simp only [beginStall]; (repeat' split) <;> (simp [*]; done)

@[simp] theorem endApply_fr (u : ℕ) (a : Armed) (st : BitVec 16) (s : State) :
    (endApply u a st s).pending = s.pending ∧ (endApply u a st s).sec = s.sec := by
  simp only [endApply]; (repeat' split) <;> (simp [*]; done)

@[simp] theorem applyFollows_fr (r : CollRun) (e : ℕ) (st : BitVec 16) (s : State) :
    (applyFollows r e st s).pending = s.pending ∧ (applyFollows r e st s).sec = s.sec := by
  simp only [applyFollows]; (repeat' split) <;> (simp [*]; done)

@[simp] theorem endEarly_fr (r : CollRun) (st : BitVec 16) (member : ℕ) (c : AbortCause) (s : State) :
    (endEarly r st member c s).pending = s.pending ∧ (endEarly r st member c s).sec = s.sec := by
  simp only [endEarly]; (repeat' split) <;> (simp [*]; done)

@[simp] theorem revokeDone_fr (r : CollRun) (member : ℕ) (c : AbortCause) (s : State) :
    (revokeDone r member c s).pending = s.pending ∧ (revokeDone r member c s).sec = s.sec := by
  simp only [revokeDone]; (repeat' split) <;> (simp [*]; done)

@[simp] theorem sendRound_fr (id : DescId) (s : State) :
    (sendRound id s).pending = s.pending ∧ (sendRound id s).sec = s.sec := by
  simp only [sendRound]; (repeat' split) <;> (simp [*]; done)

theorem stepData_keep {r r1 : CollRun} {g : GroupSt} {s s1 : State} (h : stepData r g s = some (r1, s1)) :
    s1.pending = s.pending ∧ s1.sec = s.sec := by
  unfold stepData at h
  dsimp only at h
  repeat' split at h
  all_goals first
    | (simp only [Option.some.injEq, Prod.mk.injEq] at h; rw [← h.2]; simp)
    | simp at h

@[simp] theorem advanceData_fr (id : DescId) (a1 : ℕ) (a2 : State) :
    (advanceData id a1 a2).pending = a2.pending ∧ (advanceData id a1 a2).sec = a2.sec := by
  induction a1 generalizing a2 with
  | zero => simp [advanceData]
  | succ n ih =>
    simp only [advanceData]
    split
    · simp
    · split
      · simp
      · split
        · simp
        · split
          · simp
          · rename_i heq
            have h := stepData_keep heq
            rw [(ih _).1, (ih _).2]
            simpa using h

@[simp] theorem runData_fr (id : DescId) (s : State) :
    (runData id s).pending = s.pending ∧ (runData id s).sec = s.sec := by
  simp only [runData]; (repeat' split) <;> (simp [*]; done)

@[simp] theorem pairSink_fr (r : CollRun) (e : ℕ) (s : State) :
    (pairSink r e s).pending = s.pending ∧ (pairSink r e s).sec = s.sec := by
  simp only [pairSink]; (repeat' split) <;> (simp [*]; done)

@[simp] theorem settleSink_fr (u : ℕ) (s : State) :
    (settleSink u s).pending = s.pending ∧ (settleSink u s).sec = s.sec := by
  simp only [settleSink]; (repeat' split) <;> (simp [*]; done)

@[simp] theorem beginData_fr (id : DescId) (s : State) :
    (beginData id s).pending = s.pending ∧ (beginData id s).sec = s.sec := by
  simp only [beginData]; (repeat' split) <;> (simp [*]; done)

@[simp] theorem startNext_fr (gi : ℕ) (s : State) :
    (startNext gi s).pending = s.pending ∧ (startNext gi s).sec = s.sec := by
  simp only [startNext]; (repeat' split) <;> (simp [*]; done)

@[simp] theorem closeRound_fr (id : DescId) (s : State) :
    (closeRound id s).pending = s.pending ∧ (closeRound id s).sec = s.sec := by
  simp only [closeRound]; (repeat' split) <;> (simp [*]; done)

@[simp] theorem advanceRound_fr (id : DescId) (a1 : ℕ) (a2 : State) :
    (advanceRound id a1 a2).pending = a2.pending ∧ (advanceRound id a1 a2).sec = a2.sec := by
  fun_induction advanceRound id a1 a2 <;> (first | (simp (disch := (intros; first | (simp; done) | ((repeat' split) <;> simp))) [*]; done) | grind [closeRound_fr, sendRound_fr, modRun_fr])

@[simp] theorem launchRound_fr (r : CollRun) (s : State) :
    (launchRound r s).pending = s.pending ∧ (launchRound r s).sec = s.sec := by
  simp only [launchRound]; (repeat' split) <;> (simp [*]; done)

@[simp] theorem enterColl_fr (q : ℕ) (n : ℕ) (s : State) :
    (enterColl q n s).pending = s.pending ∧ (enterColl q n s).sec = s.sec := by
  simp only [enterColl]; (repeat' split) <;> (simp [*]; done)

@[simp] theorem startColl_fr (q : ℕ) (op : ℕ) (s0 : State) :
    (startColl q op s0).pending = s0.pending ∧ (startColl q op s0).sec = s0.sec := by
  unfold startColl; dsimp only; (repeat' split) <;> (first | (simp (disch := (intros; first | (simp; done) | ((repeat' split) <;> simp))) [*]; done) | grind [settleHead_fr, startDesc_fr, enterColl_fr])

@[simp] theorem collNodeLost_fr (node : NodeId) (s : State) :
    (collNodeLost node s).pending = s.pending ∧ (collNodeLost node s).sec = s.sec := by
  simp only [collNodeLost]; (repeat' split) <;> (simp (disch := (intros; first | (simp; done) | ((repeat' split) <;> simp))) [*]; done)

@[simp] theorem writeDest_fr (r : CollRun) (g : GroupSt) (s : State) :
    (writeDest r g s).pending = s.pending ∧ (writeDest r g s).sec = s.sec := by
  simp only [writeDest]; (repeat' split) <;> (simp [*]; done)

@[simp] theorem endDone_fr (r : CollRun) (g : GroupSt) (s : State) :
    (endDone r g s).pending = s.pending ∧ (endDone r g s).sec = s.sec := by
  unfold endDone; dsimp only; (repeat' split) <;> (first | (simp (disch := (intros; first | (simp; done) | ((repeat' split) <;> simp))) [*]; done) | grind [tallyDone_fr, modRun_fr, endRun_fr, writeDest_fr])

@[simp] theorem collDone_fr (gi : ℕ) (s : State) :
    (collDone gi s).pending = s.pending ∧ (collDone gi s).sec = s.sec := by
  simp only [collDone]; (repeat' split) <;> (simp [*]; done)

@[simp] theorem updRead_fr (u : ℕ) (m : UpdMaps) (va : ℕ) (n : ℕ) (s : State) :
    (updRead u m va n s).2.pending = s.pending ∧ (updRead u m va n s).2.sec = s.sec := by
  simp only [updRead]; (repeat' split) <;> (simp [*]; done)

@[simp] theorem updWrite_fr (u : ℕ) (m : UpdMaps) (id : DescId) (va : ℕ) (n : ℕ) (v : ℕ) (s : State) :
    (updWrite u m id va n v s).pending = s.pending ∧ (updWrite u m id va n v s).sec = s.sec := by
  simp only [updWrite]; (repeat' split) <;> (simp [*]; done)

@[simp] theorem armApply_fr (q : ℕ) (n : ℕ) (s : State) :
    (armApply q n s).pending = s.pending ∧ (armApply q n s).sec = s.sec := by
  unfold armApply
  try dsimp only
  repeat' (split <;> (try (rename_i heq; first | (have hp := (congrArg (fun r => r.2.pending) heq).symm; have hq := (congrArg (fun r => r.2.sec) heq).symm; simp at hp hq) | (have hp := (congrArg (fun r => r.2.2.pending) heq).symm; have hq := (congrArg (fun r => r.2.2.sec) heq).symm; simp at hp hq))))
  all_goals simp [*]

@[simp] theorem priorV_fr (u : ℕ) (mp : UpdMaps) (e : UpdEntry) (base : ℕ) (k : ℕ) (s : State) :
    (priorV u mp e base k s).2.pending = s.pending ∧ (priorV u mp e base k s).2.sec = s.sec := by
  simp only [priorV]; (repeat' split) <;> (simp [*]; done)

@[simp] theorem factorsEnd_fr (u : ℕ) (mp : UpdMaps) (id : DescId) (e : UpdEntry) (epoch : ℕ) (gs : List ℕ) (s : State) :
    (factorsEnd u mp id e epoch gs s).pending = s.pending ∧
    (factorsEnd u mp id e epoch gs s).sec = s.sec := by
  simp only [factorsEnd]; (repeat' split) <;> (simp [*]; done)

@[simp] theorem blockEnd_fr (u : ℕ) (mp : UpdMaps) (id : DescId) (e : UpdEntry) (epoch : ℕ) (b : ℕ) (vs : List ℕ) (s : State) :
    (blockEnd u mp id e epoch b vs s).pending = s.pending ∧
    (blockEnd u mp id e epoch b vs s).sec = s.sec := by
  simp only [blockEnd]; (repeat' split) <;> (simp (disch := (intros; first | (simp; done) | ((repeat' split) <;> simp))) [*]; done)

@[simp] theorem elementInputs_fr (u : ℕ) (a : Armed) (e : Option UpdEntry) (j : ℕ) (s : State) :
    (elementInputs u a e j s).2.pending = s.pending ∧ (elementInputs u a e j s).2.sec = s.sec := by
  simp only [elementInputs]; (repeat' split) <;> (simp [*]; done)

@[simp] theorem coveredElement_fr (u : ℕ) (a : Armed) (e : UpdEntry) (g : ℕ) (w : ℕ) (m : ℕ) (vp : ℕ) (j : ℕ) (s : State) :
    (coveredElement u a e g w m vp j s).2.pending = s.pending ∧
    (coveredElement u a e g w m vp j s).2.sec = s.sec := by
  simp only [coveredElement]; (repeat' split) <;> (simp [*]; done)

@[simp] theorem acceptGradient_fr (u : ℕ) (a : Armed) (g : ℕ) (s : State) :
    (acceptGradient u a g s).2.pending = s.pending ∧ (acceptGradient u a g s).2.sec = s.sec := by
  simp only [acceptGradient]; (repeat' split) <;> (simp [*]; done)

@[simp] theorem gradient_fr (u : ℕ) (bits : ℕ) (s : State) :
    (gradient u bits s).pending = s.pending ∧ (gradient u bits s).sec = s.sec := by
  unfold gradient
  try dsimp only
  repeat' (split <;> (try (rename_i heq; first | (have hp := (congrArg (fun r => r.2.pending) heq).symm; have hq := (congrArg (fun r => r.2.sec) heq).symm; simp at hp hq) | (have hp := (congrArg (fun r => r.2.2.pending) heq).symm; have hq := (congrArg (fun r => r.2.2.sec) heq).symm; simp at hp hq))))
  all_goals simp [*]

@[simp] theorem applyStaged_fr (u : ℕ) (s : State) :
    (applyStaged u s).pending = s.pending ∧ (applyStaged u s).sec = s.sec := by
  simp only [applyStaged]; (repeat' split) <;> (simp [*]; done)

@[simp] theorem runCommit_fr (q : ℕ) (n : ℕ) (s : State) :
    (runCommit q n s).pending = s.pending ∧ (runCommit q n s).sec = s.sec := by
  unfold runCommit
  try dsimp only
  repeat' (split <;> (try (rename_i heq; first | (have hp := (congrArg (fun r => r.2.pending) heq).symm; have hq := (congrArg (fun r => r.2.sec) heq).symm; simp at hp hq) | (have hp := (congrArg (fun r => r.2.2.pending) heq).symm; have hq := (congrArg (fun r => r.2.2.sec) heq).symm; simp at hp hq))))
  all_goals simp [*]

@[simp] theorem namedSlots_fr (h : ℕ) (q : ℕ) (w : DWords) (s : State) :
    (namedSlots h q w s).2.pending = s.pending ∧ (namedSlots h q w s).2.sec = s.sec := by
  unfold namedSlots
  try dsimp only
  repeat' (split <;> (try (rename_i heq; first | (have hp := (congrArg (fun r => r.2.pending) heq).symm; have hq := (congrArg (fun r => r.2.sec) heq).symm; simp at hp hq) | (have hp := (congrArg (fun r => r.2.2.pending) heq).symm; have hq := (congrArg (fun r => r.2.2.sec) heq).symm; simp at hp hq))))
  all_goals simp [*]

@[simp] theorem seqMalformed_fr (q : ℕ) (n : ℕ) (result : Option W64) (s : State) :
    (seqMalformed q n result s).pending = s.pending ∧ (seqMalformed q n result s).sec = s.sec := by
  simp only [seqMalformed]; (repeat' split) <;> (simp [*]; done)

@[simp] theorem runOpen_fr (h : ℕ) (q : ℕ) (n : ℕ) (w : DWords) (s : State) :
    (runOpen h q n w s).pending = s.pending ∧ (runOpen h q n w s).sec = s.sec := by
  simp only [runOpen]; (repeat' split) <;> (simp [*]; done)

@[simp] theorem runClose_fr (h : ℕ) (q : ℕ) (n : ℕ) (w : DWords) (s : State) :
    (runClose h q n w s).pending = s.pending ∧ (runClose h q n w s).sec = s.sec := by
  simp only [runClose]; (repeat' split) <;> (simp [*]; done)

@[simp] theorem blockEntry_fr (h : ℕ) (id : DescId) (j : ℕ) (blk : ℕ) (s : State) :
    (blockEntry h id j blk s).2.pending = s.pending ∧ (blockEntry h id j blk s).2.sec = s.sec := by
  unfold blockEntry; dsimp only; (repeat' split) <;> (first | (simp (disch := (intros; first | (simp; done) | ((repeat' split) <;> simp))) [*]; done) | grind [vaRead_fr, modSeqRun_fr, notePages_fr])

theorem okRead_keep {r : List (Byte × Bool) × State} {s : State} (h : r.2.pending = s.pending ∧ r.2.sec = s.sec) :
    ((Except.ok r.1, r.2) : Except XOut (List (Byte × Bool)) × State).2.pending = s.pending
    ∧ ((Except.ok r.1, r.2) : Except XOut (List (Byte × Bool)) × State).2.sec = s.sec := h

@[simp] theorem memRead_fr (q : ℕ) (w : DWords) (a : ℕ) (n : ℕ) (s : State) :
    (memRead q w a n s).2.pending = s.pending ∧ (memRead q w a n s).2.sec = s.sec := by
  by_cases h : sKind w = 1
  · rw [memRead, if_pos h]
    exact okRead_keep (by simp only [physRead_fr, and_self])
  · rw [memRead, if_neg h]
    simp only [vaRead_fr, and_self]

@[simp] theorem memWrite_fr (id : DescId) (w : DWords) (a : ℕ) (bs : List (Byte × Bool)) (s : State) :
    (memWrite id w a bs s).2.pending = s.pending ∧ (memWrite id w a bs s).2.sec = s.sec := by
  simp only [memWrite]; (repeat' split) <;> (simp [*]; done)

@[simp] theorem movePiece_fr (h : ℕ) (id : DescId) (w : DWords) (j : ℕ) (o : ℕ) (a : ℕ) (n : ℕ) (s : State) :
    (movePiece h id w j o a n s).2.pending = s.pending ∧ (movePiece h id w j o a n s).2.sec = s.sec := by
  unfold movePiece
  try dsimp only
  repeat' (split <;> (try (rename_i heq; first | (have hp := (congrArg (fun r => r.2.pending) heq).symm; have hq := (congrArg (fun r => r.2.sec) heq).symm; simp at hp hq) | (have hp := (congrArg (fun r => r.2.2.pending) heq).symm; have hq := (congrArg (fun r => r.2.2.sec) heq).symm; simp at hp hq))))
  all_goals simp [*]

@[simp] theorem moveRow_fr (h : ℕ) (id : DescId) (w : DWords) (j : ℕ) (a4 : ℕ) (a5 : ℕ) (a6 : ℕ) (a7 : ℕ) (a8 : State) :
    (moveRow h id w j a4 a5 a6 a7 a8).2.pending = a8.pending ∧
    (moveRow h id w j a4 a5 a6 a7 a8).2.sec = a8.sec := by
  fun_induction moveRow h id w j a4 a5 a6 a7 a8 <;> (first | (simp (disch := (intros; first | (simp; done) | ((repeat' split) <;> simp))) [*]; done) | grind [movePiece_fr])

@[simp] theorem moveRows_fr (h : ℕ) (id : DescId) (w : DWords) (slots : List ℕ) (a4 : ℕ) (a5 : ℕ) (a6 : State) :
    (moveRows h id w slots a4 a5 a6).2.pending = a6.pending ∧
    (moveRows h id w slots a4 a5 a6).2.sec = a6.sec := by
  induction a4 generalizing a5 a6 with
  | zero => simp [moveRows]
  | succ n ih =>
    simp only [moveRows]
    split
    · rename_i s1 heq
      have h := moveRow_fr h id w (slots.getD (a5 / sRows w) 0 % 128) 3
      rw [(ih _ _).1, (ih _ _).2]
      have hp := (congrArg (fun r => r.2.pending) heq).symm
      have hq := (congrArg (fun r => r.2.sec) heq).symm
      simp at hp hq
      simp [hp, hq]
    · simp

@[simp] theorem runKv_fr (h : ℕ) (r : SeqRun) (w : DWords) (s : State) :
    (runKv h r w s).pending = s.pending ∧ (runKv h r w s).sec = s.sec := by
  unfold runKv; dsimp only; (repeat' split) <;> (first | (simp (disch := (intros; first | (simp; done) | ((repeat' split) <;> simp))) [*]; done) | grind [seqMalformed_fr, landSeq_fr, moveRows_fr])

theorem foldl_snd_keep {α β : Type} (f : α × State → β → α × State) (l : List β) (a : α × State)
    (h : ∀ a e, (f a e).2.pending = a.2.pending ∧ (f a e).2.sec = a.2.sec) :
    (l.foldl f a).2.pending = a.2.pending ∧ (l.foldl f a).2.sec = a.2.sec := by
  induction l generalizing a with
  | nil => exact ⟨rfl, rfl⟩
  | cons e l ih => rw [List.foldl_cons]; exact ⟨(ih _).1.trans (h a e).1, (ih _).2.trans (h a e).2⟩

@[simp] theorem selectToken_fr (l : List ℕ) (w : DWords) (x : SlotSt) (s : State) :
    (selectToken l w x s).2.pending = s.pending ∧ (selectToken l w x s).2.sec = s.sec := by
  unfold selectToken
  dsimp only
  split
  · exact ⟨rfl, rfl⟩
  · split
    · exact ⟨rfl, rfl⟩
    · split
      all_goals
        simp only [freshWord_fr]
        refine foldl_snd_keep _ _ ([], s) ?_
        intro a e
        dsimp only
        split
        · exact ⟨rfl, rfl⟩
        · split <;> simp

@[simp] theorem writeToken_fr (h : ℕ) (id : DescId) (r : ℕ × ℕ) (s : State) :
    (writeToken h id r s).2.pending = s.pending ∧ (writeToken h id r s).2.sec = s.sec := by
  unfold writeToken
  try dsimp only
  repeat' (split <;> (try (rename_i heq; first | (have hp := (congrArg (fun r => r.2.pending) heq).symm; have hq := (congrArg (fun r => r.2.sec) heq).symm; simp at hp hq) | (have hp := (congrArg (fun r => r.2.2.pending) heq).symm; have hq := (congrArg (fun r => r.2.2.sec) heq).symm; simp at hp hq))))
  all_goals simp [*]

@[simp] theorem advanceSlot_fr (h : ℕ) (j : ℕ) (k : SeqToken) (s : State) :
    (advanceSlot h j k s).pending = s.pending ∧ (advanceSlot h j k s).sec = s.sec := by
  simp only [advanceSlot]; (repeat' split) <;> (simp [*]; done)

@[simp] theorem sampleToken_fr (h : ℕ) (id : DescId) (w : DWords) (i : ℕ) (g : ℕ) (s : State) :
    (sampleToken h id w i g s).2.pending = s.pending ∧ (sampleToken h id w i g s).2.sec = s.sec := by
  unfold sampleToken
  try dsimp only
  repeat' (split <;> (try (rename_i heq; first | (have hp := (congrArg (fun r => r.2.pending) heq).symm; have hq := (congrArg (fun r => r.2.sec) heq).symm; simp at hp hq) | (have hp := (congrArg (fun r => r.2.2.pending) heq).symm; have hq := (congrArg (fun r => r.2.2.sec) heq).symm; simp at hp hq))))
  all_goals simp [*]

@[simp] theorem sampleSlots_fr (h : ℕ) (id : DescId) (w : DWords) (slots : List ℕ) (a4 : ℕ) (a5 : ℕ) (a6 : State) :
    (sampleSlots h id w slots a4 a5 a6).pending = a6.pending ∧
    (sampleSlots h id w slots a4 a5 a6).sec = a6.sec := by
  induction a4 generalizing a5 a6 with
  | zero => simp [sampleSlots]
  | succ n ih =>
    unfold sampleSlots
    dsimp only
    split
    · exact ⟨rfl, rfl⟩
    · rename_i r hr
      split
      · simp
      · cases htk : r.token with
        | none =>
          dsimp only
          repeat' (split <;> (try (rename_i heq; first | (have hp := (congrArg (fun r => r.2.pending) heq).symm; have hq := (congrArg (fun r => r.2.sec) heq).symm; simp at hp hq) | (have hp := (congrArg (fun r => r.2.2.pending) heq).symm; have hq := (congrArg (fun r => r.2.2.sec) heq).symm; simp at hp hq))))
          all_goals simp [*]
        | some k =>
          dsimp only
          repeat' (split <;> (try (rename_i heq; first | (have hp := (congrArg (fun r => r.2.pending) heq).symm; have hq := (congrArg (fun r => r.2.sec) heq).symm; simp at hp hq) | (have hp := (congrArg (fun r => r.2.2.pending) heq).symm; have hq := (congrArg (fun r => r.2.2.sec) heq).symm; simp at hp hq))))
          all_goals simp [*]

@[simp] theorem runSample_fr (h : ℕ) (r : SeqRun) (w : DWords) (s : State) :
    (runSample h r w s).pending = s.pending ∧ (runSample h r w s).sec = s.sec := by
  simp only [runSample]; (repeat' split) <;> (simp [*]; done)

@[simp] theorem runSeq_fr (q : ℕ) (n : ℕ) (s : State) :
    (runSeq q n s).pending = s.pending ∧ (runSeq q n s).sec = s.sec := by
  simp only [runSeq]; (repeat' split) <;> (simp [*]; done)

@[simp] theorem startSeq_fr (q : ℕ) (op : ℕ) (s : State) :
    (startSeq q op s).pending = s.pending ∧ (startSeq q op s).sec = s.sec := by
  unfold startSeq
  try dsimp only
  repeat' (split <;> (try (rename_i heq; first | (have hp := (congrArg (fun r => r.2.pending) heq).symm; have hq := (congrArg (fun r => r.2.sec) heq).symm; simp at hp hq) | (have hp := (congrArg (fun r => r.2.2.pending) heq).symm; have hq := (congrArg (fun r => r.2.2.sec) heq).symm; simp at hp hq))))
  all_goals simp [*]

@[simp] theorem resumeSeqs_fr (h : ℕ) (s : State) :
    (resumeSeqs h s).pending = s.pending ∧ (resumeSeqs h s).sec = s.sec := by
  simp only [resumeSeqs]; (repeat' split) <;> (simp [*]; done)

@[simp] theorem raiseFlags_fr (n : ℕ) (f : FFlags) (s : State) :
    (raiseFlags n f s).pending = s.pending ∧ (raiseFlags n f s).sec = s.sec := by
  simp only [raiseFlags]; (repeat' split) <;> (simp [*]; done)

@[simp] theorem VDest_freed_fr (d : VDest) (s : State) :
    (VDest.freed d s).2.pending = s.pending ∧ (VDest.freed d s).2.sec = s.sec := by
  simp only [VDest.freed]; (repeat' split) <;> (simp [*]; done)

@[simp] theorem writeVDest_fr (n : ArrayId) (d : VDest) (s : State) :
    (writeVDest n d s).pending = s.pending ∧ (writeVDest n d s).sec = s.sec := by
  simp only [writeVDest]; (repeat' split) <;> (simp [*]; done)

@[simp] theorem writeResult_fr (n : ArrayId) (r : VResult) (s : State) :
    (writeResult n r s).pending = s.pending ∧ (writeResult n r s).sec = s.sec := by
  simp only [writeResult]; (repeat' split) <;> (simp [*]; done)

@[simp] theorem writeResults_fr (n : ArrayId) (rs : List VResult) (s : State) :
    (writeResults n rs s).pending = s.pending ∧ (writeResults n rs s).sec = s.sec := by
  simp only [writeResults]; (repeat' split) <;> (simp [*]; done)

@[simp] theorem resultsNow_fr (n : ArrayId) (s : State) :
    (resultsNow n s).pending = s.pending ∧ (resultsNow n s).sec = s.sec := by
  simp only [resultsNow]; (repeat' split) <;> (simp [*]; done)

@[simp] theorem vectorResultWrite_fr (n : ArrayId) (s : State) :
    (vectorResultWrite n s).pending = s.pending ∧ (vectorResultWrite n s).sec = s.sec := by
  simp only [vectorResultWrite]; (repeat' split) <;> (simp [*]; done)

@[simp] theorem vecPass_fr (n : ArrayId) (s : State) :
    (vecPass n s).pending = s.pending ∧ (vecPass n s).sec = s.sec := by
  simp only [vecPass]; (repeat' split) <;> (simp [*]; done)

@[simp] theorem vecHold_fr (n : ArrayId) (h : HoldAt) (s : State) :
    (vecHold n h s).pending = s.pending ∧ (vecHold n h s).sec = s.sec := by
  simp only [vecHold]; (repeat' split) <;> (simp [*]; done)

@[simp] theorem vecActions_fr (n : ArrayId) (m : Strm) (v : VInst) (x : VInst) (s : State) :
    (vecActions n m v x s).pending = s.pending ∧ (vecActions n m v x s).sec = s.sec := by
  simp only [vecActions]; (repeat' split) <;> (simp [*]; done)

@[simp] theorem vecRun_fr (n : ArrayId) (m : Strm) (v : VInst) (x : VInst) (s : State) :
    (vecRun n m v x s).pending = s.pending ∧ (vecRun n m v x s).sec = s.sec := by
  simp only [vecRun]; (repeat' split) <;> (simp [*]; done)

@[simp] theorem openVecCycle_fr (n : ArrayId) (s : State) :
    (openVecCycle n s).pending = s.pending ∧ (openVecCycle n s).sec = s.sec := by
  simp only [openVecCycle]; (repeat' split) <;> (simp [*]; done)

@[simp] theorem vectorBundleIssue_fr (n : ArrayId) (s : State) :
    (vectorBundleIssue n s).pending = s.pending ∧ (vectorBundleIssue n s).sec = s.sec := by
  simp only [vectorBundleIssue]; (repeat' split) <;> (simp [*]; done)

@[simp] theorem takeBack_fr (e : StreamEng) (p : ℕ) (s : State) :
    (takeBack e p s).pending = s.pending ∧ (takeBack e p s).sec = s.sec := by
  simp only [takeBack]; (repeat' split) <;> (simp [*]; done)

@[simp] theorem issueOf_fr (e : StreamEng) (s : State) :
    (issueOf e s).pending = s.pending ∧ (issueOf e s).sec = s.sec := by
  simp only [issueOf]; (repeat' split) <;> (simp [*]; done)

@[simp] theorem issueTogether_fr (e : StreamEng) (s : State) :
    (issueTogether e s).pending = s.pending ∧ (issueTogether e s).sec = s.sec := by
  simp only [issueTogether]; (repeat' split) <;> (simp [*]; done)

@[simp] theorem runProg_fr (q : ℕ) (n : ℕ) (s : State) :
    (runProg q n s).pending = s.pending ∧ (runProg q n s).sec = s.sec := by
  simp only [runProg]; (repeat' split) <;> (simp [*]; done)

@[simp] theorem grantEngine_fr (code : ℕ) (s : State) :
    (grantEngine code s).pending = s.pending ∧ (grantEngine code s).sec = s.sec := by
  simp only [grantEngine]; (repeat' split) <;> (simp [*]; done)

@[simp] theorem resumeUpdates_fr (s : State) :
    (resumeUpdates s).pending = s.pending ∧ (resumeUpdates s).sec = s.sec := by
  simp only [resumeUpdates]; (repeat' split) <;> (simp [*]; done)

@[simp] theorem resumeColls_fr (s : State) :
    (resumeColls s).pending = s.pending ∧ (resumeColls s).sec = s.sec := by
  simp only [resumeColls]; (repeat' split) <;> (simp [*]; done)

@[simp] theorem resumeHeld_fr (s : State) :
    (resumeHeld s).pending = s.pending ∧ (resumeHeld s).sec = s.sec := by
  simp only [resumeHeld]; (repeat' split) <;> (simp [*]; done)

@[simp] theorem invalidateComplete_fr (q : ℕ) (s : State) :
    (invalidateComplete q s).pending = s.pending ∧ (invalidateComplete q s).sec = s.sec := by
  simp only [invalidateComplete]; (repeat' split) <;> (simp [*]; done)

@[simp] theorem setPhase_fr (vpage : ℕ) (ph : FaultPhase) (s : State) :
    (setPhase vpage ph s).pending = s.pending ∧ (setPhase vpage ph s).sec = s.sec := by
  simp only [setPhase]; (repeat' split) <;> (simp [*]; done)

@[simp] theorem serveStep_fr (r : FaultRec) (s : State) :
    (serveStep r s).pending = s.pending ∧ (serveStep r s).sec = s.sec := by
  simp only [serveStep]; (repeat' split) <;> (simp [*]; done)

@[simp] theorem returnPage_fr (pa : ℕ) (big : Bool) (s : State) :
    (returnPage pa big s).pending = s.pending ∧ (returnPage pa big s).sec = s.sec := by
  simp only [returnPage]; (repeat' split) <;> (simp [*]; done)

@[simp] theorem copyIn_fr (pa : ℕ) (big : Bool) (leaf : W64) (s : State) :
    (copyIn pa big leaf s).pending = s.pending ∧ (copyIn pa big leaf s).sec = s.sec := by
  simp only [copyIn]; (repeat' split) <;> (simp [*]; done)

@[simp] theorem copyComplete_fr (vpage : ℕ) (ok : Bool) (s : State) :
    (copyComplete vpage ok s).pending = s.pending ∧ (copyComplete vpage ok s).sec = s.sec := by
  unfold copyComplete
  try dsimp only
  repeat' (split <;> (try (rename_i heq; first | (have hp := (congrArg (fun r => r.2.pending) heq).symm; have hq := (congrArg (fun r => r.2.sec) heq).symm; simp at hp hq) | (have hp := (congrArg (fun r => r.2.2.pending) heq).symm; have hq := (congrArg (fun r => r.2.2.sec) heq).symm; simp at hp hq))))
  all_goals simp [*]

@[simp] theorem memConfig_fr (c : MCmd) (s : State) :
    (memConfig c s).pending = s.pending ∧ (memConfig c s).sec = s.sec := by
  simp only [memConfig]; (repeat' split) <;> (simp [*]; done)

@[simp] theorem memErrorLog_fr (c : MCmd) (s : State) :
    (memErrorLog c s).pending = s.pending ∧ (memErrorLog c s).sec = s.sec := by
  simp only [memErrorLog]; (repeat' split) <;> (simp [*]; done)

@[simp] theorem pcRetune_fr (c : MCmd) (s : State) :
    (pcRetune c s).pending = s.pending ∧ (pcRetune c s).sec = s.sec := by
  simp only [pcRetune]; (repeat' split) <;> (simp [*]; done)

@[simp] theorem retuneEnd_fr (p : ℕ) (ok : Bool) (s : State) :
    (retuneEnd p ok s).pending = s.pending ∧ (retuneEnd p ok s).sec = s.sec := by
  simp only [retuneEnd]; (repeat' split) <;> (simp [*]; done)

@[simp] theorem dropStarts_fr (k : ℕ) (s : State) :
    (dropStarts k s).pending = s.pending ∧ (dropStarts k s).sec = s.sec := by
  simp only [dropStarts]; (repeat' split) <;> (simp [*]; done)

@[simp] theorem stackOffline_fr (c : MCmd) (s : State) :
    (stackOffline c s).pending = s.pending ∧ (stackOffline c s).sec = s.sec := by
  simp only [stackOffline]; (repeat' split) <;> (simp [*]; done)

@[simp] theorem stackMargin_fr (c : MCmd) (s : State) :
    (stackMargin c s).pending = s.pending ∧ (stackMargin c s).sec = s.sec := by
  simp only [stackMargin]; (repeat' split) <;> (simp [*]; done)

@[simp] theorem endMargin_fr (o : RunOp) (ok : Bool) (data : List Byte) (s : State) :
    (endMargin o ok data s).pending = s.pending ∧ (endMargin o ok data s).sec = s.sec := by
  unfold endMargin
  generalize (((data ++ List.replicate 4608 0).take 4608).map fun b => (b, false)) = out
  dsimp only
  split
  · simp
  · have h := fun x => pastInvals_fr (vaWrite codeNone (o.le 8 8 % 2 ^ 52) out false .none)
      x (fun y => by simp only [vaWrite_fr, and_self])
    split
    all_goals (rename_i hx; have h1 := h (s.modStack (o.le 0 1) fun x => { x with mode := .offline }); rw [hx] at h1; simp at h1; simp [h1])

@[simp] theorem stackOnline_fr (c : MCmd) (s : State) :
    (stackOnline c s).pending = s.pending ∧ (stackOnline c s).sec = s.sec := by
  simp only [stackOnline]; (repeat' split) <;> (simp [*]; done)

@[simp] theorem zeroStack_fr (k : ℕ) (s : State) :
    (zeroStack k s).pending = s.pending ∧ (zeroStack k s).sec = s.sec := by
  simp only [zeroStack]; (repeat' split) <;> (simp [*]; done)

@[simp] theorem endOnline_fr (o : RunOp) (ok : Bool) (s : State) :
    (endOnline o ok s).pending = s.pending ∧ (endOnline o ok s).sec = s.sec := by
  simp only [endOnline]; (repeat' split) <;> (simp [*]; done)

@[simp] theorem lockLine_fr (s : State) (line : ℕ) :
    (lockLine s line).pending = s.pending ∧ (lockLine s line).sec = s.sec := by
  unfold lockLine; dsimp only; (repeat' split) <;> (simp [*]; done)

@[simp] theorem cacheLock_fr (c : MCmd) (s : State) :
    (cacheLock c s).pending = s.pending ∧ (cacheLock c s).sec = s.sec := by
  simp only [cacheLock]; (repeat' split) <;> (simp [*]; done)

@[simp] theorem unlockLine_fr (s : State) (line : ℕ) :
    (unlockLine s line).pending = s.pending ∧ (unlockLine s line).sec = s.sec := by
  simp only [unlockLine]; (repeat' split) <;> (simp [*]; done)

@[simp] theorem cacheUnlock_fr (c : MCmd) (s : State) :
    (cacheUnlock c s).pending = s.pending ∧ (cacheUnlock c s).sec = s.sec := by
  simp only [cacheUnlock]; (repeat' split) <;> (simp [*]; done)

@[simp] theorem xltNotifyRing_fr (c : MCmd) (s : State) :
    (xltNotifyRing c s).pending = s.pending ∧ (xltNotifyRing c s).sec = s.sec := by
  unfold xltNotifyRing
  refine checked_fr _ _ _ _ _ _ ?_
  intro x
  dsimp only
  have h := foldl_snd_keep (fun (r : Bool × State) u =>
      ((r.1 && (firmwareWalk (u * 0x4000000) r.2).1.isSome, (firmwareWalk (u * 0x4000000) r.2).2) : Bool × State))
      (pagesOf (c.le 0 8) (32 * c.le 8 2)) (true, x) (fun a e => by simp)
  split <;> simp [h]

@[simp] theorem pageSupply_fr (c : MCmd) (s : State) :
    (pageSupply c s).pending = s.pending ∧ (pageSupply c s).sec = s.sec := by
  unfold pageSupply; dsimp only; (repeat' split) <;> (first | (simp (disch := (intros; first | (simp; done) | ((repeat' split) <;> simp))) [*]; done) | grind [checked_fr, pinnedRead_fr, refuse_fr, answer_fr])

@[simp] theorem startMove_fr (c : MCmd) (vpage : ℕ) (inward : Bool) (attach : Bool) (dest : ℕ) (at_ : ℕ) (leaf : W64) (big : Bool) (s : State) :
    (startMove c vpage inward attach dest at_ leaf big s).pending = s.pending ∧
    (startMove c vpage inward attach dest at_ leaf big s).sec = s.sec := by
  simp only [startMove]; (repeat' split) <;> (simp [*]; done)

@[simp] theorem pageMigrate_fr (c : MCmd) (s : State) :
    (pageMigrate c s).pending = s.pending ∧ (pageMigrate c s).sec = s.sec := by
  simp only [pageMigrate]; (repeat' split) <;> (simp [*]; done)

@[simp] theorem copyOut_fr (pa : ℕ) (dest : ℕ) (n : ℕ) (s : State) :
    (copyOut pa dest n s).pending = s.pending ∧ (copyOut pa dest n s).sec = s.sec := by
  simp only [copyOut]; (repeat' split) <;> (simp [*]; done)

@[simp] theorem endMigrate_fr (o : RunOp) (ok : Bool) (s : State) :
    (endMigrate o ok s).pending = s.pending ∧ (endMigrate o ok s).sec = s.sec := by
  simp only [endMigrate]; (repeat' split) <;> (simp [*]; done)

@[simp] theorem keyMap_fr (c : MCmd) (s : State) :
    (keyMap c s).pending = s.pending ∧ (keyMap c s).sec = s.sec := by
  simp only [keyMap]; (repeat' split) <;> (simp [*]; done)

@[simp] theorem setGroupEnvelope_fr (f : ℕ) (cl : ℕ) (sl : ℕ) (sg : ℕ) (cg : ℕ) (cover : Bool) (s : State) :
    (setGroupEnvelope f cl sl sg cg cover s).pending = s.pending ∧
    (setGroupEnvelope f cl sl sg cg cover s).sec = s.sec := by
  simp only [setGroupEnvelope]; (repeat' split) <;> (simp [*]; done)

@[simp] theorem envelopeSet_fr (c : MCmd) (s : State) :
    (envelopeSet c s).pending = s.pending ∧ (envelopeSet c s).sec = s.sec := by
  simp only [envelopeSet]; (repeat' split) <;> (simp [*]; done)

@[simp] theorem powerGroupJoin_fr (c : MCmd) (s : State) :
    (powerGroupJoin c s).pending = s.pending ∧ (powerGroupJoin c s).sec = s.sec := by
  simp only [powerGroupJoin]; (repeat' split) <;> (simp [*]; done)

@[simp] theorem announce_fr (s : State) :
    (announce s).pending = s.pending ∧ (announce s).sec = s.sec := by
  simp only [announce]; (repeat' split) <;> (simp [*]; done)

@[simp] theorem takeRole_fr (c : MCmd) (role : ℕ) (list : List NodeId) (s : State) :
    (takeRole c role list s).pending = s.pending ∧ (takeRole c role list s).sec = s.sec := by
  simp only [takeRole]; (repeat' split) <;> (simp [*]; done)

@[simp] theorem stewardRole_fr (c : MCmd) (s : State) :
    (stewardRole c s).pending = s.pending ∧ (stewardRole c s).sec = s.sec := by
  unfold stewardRole; dsimp only; (repeat' split) <;> (first | (simp (disch := (intros; first | (simp; done) | ((repeat' split) <;> simp))) [*]; done) | grind [answer_fr, checked_fr, pinnedRead_fr, refuse_fr, takeRole_fr])

@[simp] theorem stewardHandover_fr (c : MCmd) (s : State) :
    (stewardHandover c s).pending = s.pending ∧ (stewardHandover c s).sec = s.sec := by
  simp only [stewardHandover]; (repeat' split) <;> (simp [*]; done)

@[simp] theorem takeClaim_fr (m : PermitMsg) (s : State) :
    (takeClaim m s).pending = s.pending ∧ (takeClaim m s).sec = s.sec := by
  simp only [takeClaim]; (repeat' split) <;> (simp [*]; done)

@[simp] theorem paceSet_fr (c : MCmd) (s : State) :
    (paceSet c s).pending = s.pending ∧ (paceSet c s).sec = s.sec := by
  simp only [paceSet]; (repeat' split) <;> (simp [*]; done)

@[simp] theorem envelopeStatus_fr (c : MCmd) (s : State) :
    (envelopeStatus c s).pending = s.pending ∧ (envelopeStatus c s).sec = s.sec := by
  simp only [envelopeStatus]; (repeat' split) <;> (simp [*]; done)

@[simp] theorem powerTrim_fr (c : MCmd) (s : State) :
    (powerTrim c s).pending = s.pending ∧ (powerTrim c s).sec = s.sec := by
  simp only [powerTrim]; (repeat' split) <;> (simp [*]; done)

@[simp] theorem capTags_fr (c : MCmd) (s : State) :
    (capTags c s).pending = s.pending ∧ (capTags c s).sec = s.sec := by
  simp only [capTags]; (repeat' split) <;> (simp [*]; done)

@[simp] theorem fixedRate_fr (c : MCmd) (s : State) :
    (fixedRate c s).pending = s.pending ∧ (fixedRate c s).sec = s.sec := by
  simp only [fixedRate]; (repeat' split) <;> (simp [*]; done)

@[simp] theorem droopMode_fr (c : MCmd) (s : State) :
    (droopMode c s).pending = s.pending ∧ (droopMode c s).sec = s.sec := by
  simp only [droopMode]; (repeat' split) <;> (simp [*]; done)

@[simp] theorem weighCalibrate_fr (c : MCmd) (s : State) :
    (weighCalibrate c s).pending = s.pending ∧ (weighCalibrate c s).sec = s.sec := by
  simp only [weighCalibrate]; (repeat' split) <;> (simp [*]; done)

@[simp] theorem recalibrationEnd_fr (s : State) :
    (recalibrationEnd s).pending = s.pending ∧ (recalibrationEnd s).sec = s.sec := by
  simp only [recalibrationEnd]; (repeat' split) <;> (simp [*]; done)

@[simp] theorem identityRead_fr (c : MCmd) (s : State) :
    (identityRead c s).pending = s.pending ∧ (identityRead c s).sec = s.sec := by
  simp only [identityRead]; (repeat' split) <;> (simp [*]; done)

@[simp] theorem fwLoad_fr (readOk : Bool) (c : MCmd) (s : State) :
    (fwLoad readOk c s).pending = s.pending ∧ (fwLoad readOk c s).sec = s.sec := by
  simp only [fwLoad]; (repeat' split) <;> (simp [*]; done)

@[simp] theorem writeBootPage_fr (img : Image) (s : State) :
    (writeBootPage img s).pending = s.pending ∧ (writeBootPage img s).sec = s.sec := by
  simp only [writeBootPage]; (repeat' split) <;> (simp [*]; done)

@[simp] theorem startImage_fr (img : Image) (s : State) :
    (startImage img s).pending = s.pending ∧ (startImage img s).sec = s.sec := by
  simp only [startImage]; (repeat' split) <;> (simp [*]; done)

@[simp] theorem endFwLoad_fr (o : RunOp) (s : State) :
    (endFwLoad o s).pending = s.pending ∧ (endFwLoad o s).sec = s.sec := by
  simp only [endFwLoad]; (repeat' split) <;> (simp [*]; done)

@[simp] theorem fwStatus_fr (c : MCmd) (s : State) :
    (fwStatus c s).pending = s.pending ∧ (fwStatus c s).sec = s.sec := by
  simp only [fwStatus]; (repeat' split) <;> (simp [*]; done)

@[simp] theorem releaseCores_fr (s : State) :
    (releaseCores s).pending = s.pending ∧ (releaseCores s).sec = s.sec := by
  simp only [releaseCores]; (repeat' split) <;> (simp [*]; done)

@[simp] theorem firmwareReady_fr (s : State) :
    (firmwareReady s).pending = s.pending ∧ (firmwareReady s).sec = s.sec := by
  simp only [firmwareReady]; (repeat' split) <;> (simp [*]; done)

@[simp] theorem failOp_fr (o : RunOp) (s : State) :
    (failOp o s).pending = s.pending ∧ (failOp o s).sec = s.sec := by
  simp only [failOp]; (repeat' split) <;> (simp [*]; done)

@[simp] theorem longEnd_fr (o : RunOp) (ok : Bool) (data : List Byte) (s : State) :
    (longEnd o ok data s).pending = s.pending ∧ (longEnd o ok data s).sec = s.sec := by
  simp only [longEnd]; (repeat' split) <;> (simp [*]; done)

@[simp] theorem longOperationEnd_fr (m : MbxId) (slot : Option (Fin 8)) (ok : Bool) (data : List Byte) (s : State) :
    (longOperationEnd m slot ok data s).pending = s.pending ∧
    (longOperationEnd m slot ok data s).sec = s.sec := by
  simp only [longOperationEnd]; (repeat' split) <;> (simp [*]; done)

@[simp] theorem fwActivate_fr (c : MCmd) (s : State) :
    (fwActivate c s).pending = s.pending ∧ (fwActivate c s).sec = s.sec := by
  simp only [fwActivate]; (repeat' split) <;> (simp [*]; done)

@[simp] theorem activationFails_fr (e : Byte) (s : State) :
    (activationFails e s).pending = s.pending ∧ (activationFails e s).sec = s.sec := by
  simp only [activationFails]; (repeat' split) <;> (simp [*]; done)

@[simp] theorem firmwareStart_fr (accepts : Bool) (s : State) :
    (firmwareStart accepts s).pending = s.pending ∧ (firmwareStart accepts s).sec = s.sec := by
  simp only [firmwareStart]; (repeat' split) <;> (simp [*]; done)

@[simp] theorem activationComplete_fr (s : State) :
    (activationComplete s).pending = s.pending ∧ (activationComplete s).sec = s.sec := by
  simp only [activationComplete]; (repeat' split) <;> (simp [*]; done)

@[simp] theorem startTraining_fr (n : ℕ) (by_ : TrainBy) (s : State) :
    (startTraining n by_ s).pending = s.pending ∧ (startTraining n by_ s).sec = s.sec := by
  simp only [startTraining]; (repeat' split) <;> (simp [*]; done)

@[simp] theorem linkOpStep_fr (n : ℕ) (s : State) :
    (linkOpStep n s).pending = s.pending ∧ (linkOpStep n s).sec = s.sec := by
  simp only [linkOpStep]; (repeat' split) <;> (simp [*]; done)

@[simp] theorem linkOpsAfterDown_fr (n : ℕ) (s : State) :
    (linkOpsAfterDown n s).pending = s.pending ∧ (linkOpsAfterDown n s).sec = s.sec := by
  simp only [linkOpsAfterDown]; (repeat' split) <;> (simp [*]; done)

@[simp] theorem trained_fr (n : ℕ) (g : ℕ) (s : State) :
    (trained n g s).pending = s.pending ∧ (trained n g s).sec = s.sec := by
  simp only [trained]; (repeat' split) <;> (simp [*]; done)

@[simp] theorem trainingEnd_fr (n : ℕ) (gen : Option (Fin 3)) (s : State) :
    (trainingEnd n gen s).pending = s.pending ∧ (trainingEnd n gen s).sec = s.sec := by
  simp only [trainingEnd]; (repeat' split) <;> (simp [*]; done)

@[simp] theorem dropPacket_fr (p : Packet) (s : State) :
    (dropPacket p s).pending = s.pending ∧ (dropPacket p s).sec = s.sec := by
  simp only [dropPacket]; (repeat' split) <;> (simp [*]; done)

@[simp] theorem rerouted_fr (t : TxPkt) (s : State) :
    (rerouted t s).pending = s.pending ∧ (rerouted t s).sec = s.sec := by
  unfold rerouted
  dsimp only
  have hf : ∀ (l : List HeldSlots) (x : State), (l.foldl (fun s b => oweSlots b s) x).pending = x.pending
      ∧ (l.foldl (fun s b => oweSlots b s) x).sec = x.sec := fun l x => foldl_keep _ _ _ _ (fun y e => by simp) ⟨rfl, rfl⟩
  split
  · simp
  · rw [(dropPacket_fr _ _).1, (dropPacket_fr _ _).2, (hf _ _).1, (hf _ _).2]
    simp

@[simp] theorem failLink_fr (n : ℕ) (cause : Byte) (s : State) :
    (failLink n cause s).pending = s.pending ∧ (failLink n cause s).sec = s.sec := by
  simp only [failLink]; (repeat' split) <;> (simp [*]; done)

@[simp] theorem linkDown_fr (n : ℕ) (cause : Byte) (s : State) :
    (linkDown n cause s).pending = s.pending ∧ (linkDown n cause s).sec = s.sec := by
  simp only [linkDown]; (repeat' split) <;> (simp [*]; done)

@[simp] theorem sendWithdrawAck_fr (n : ℕ) (s : State) :
    (sendWithdrawAck n s).pending = s.pending ∧ (sendWithdrawAck n s).sec = s.sec := by
  simp only [sendWithdrawAck]; (repeat' split) <;> (simp [*]; done)

@[simp] theorem beginWithdraw_fr (n : ℕ) (s : State) :
    (beginWithdraw n s).pending = s.pending ∧ (beginWithdraw n s).sec = s.sec := by
  simp only [beginWithdraw]; (repeat' split) <;> (simp [*]; done)

@[simp] theorem peerWithdraw_fr (n : ℕ) (s : State) :
    (peerWithdraw n s).pending = s.pending ∧ (peerWithdraw n s).sec = s.sec := by
  simp only [peerWithdraw]; (repeat' split) <;> (simp [*]; done)

@[simp] theorem withdrawAck_fr (n : ℕ) (s : State) :
    (withdrawAck n s).pending = s.pending ∧ (withdrawAck n s).sec = s.sec := by
  simp only [withdrawAck]; (repeat' split) <;> (simp [*]; done)

@[simp] theorem linkRestored_fr (n : ℕ) (s : State) :
    (linkRestored n s).pending = s.pending ∧ (linkRestored n s).sec = s.sec := by
  simp only [linkRestored]; (repeat' split) <;> (simp [*]; done)

@[simp] theorem sendNodeDown_fr (node : NodeId) (s : State) (n : ℕ) :
    (sendNodeDown node s n).pending = s.pending ∧ (sendNodeDown node s n).sec = s.sec := by
  simp only [sendNodeDown]; (repeat' split) <;> (simp [*]; done)

@[simp] theorem fabricLost_fr (node : NodeId) (s : State) :
    (fabricLost node s).pending = s.pending ∧ (fabricLost node s).sec = s.sec := by
  simp only [fabricLost]; (repeat' split) <;> (simp [*]; done)

@[simp] theorem nodeDown_fr (from_ : Option ℕ) (node : NodeId) (s : State) :
    (nodeDown from_ node s).pending = s.pending ∧ (nodeDown from_ node s).sec = s.sec := by
  simp only [nodeDown]; (repeat' split) <;> (simp [*]; done)

@[simp] theorem execClaim_out (m : PermitMsg) (s : State) :
    (outState (execClaim m s) s).pending = s.pending ∧ (outState (execClaim m s) s).sec = s.sec := by
  unfold execClaim receive
  try dsimp only
  (repeat' split) <;> simp [outState, apply_ite]

@[simp] theorem execEnvelope_out (m : PermitMsg) (s : State) :
    (outState (execEnvelope m s) s).pending = s.pending ∧ (outState (execEnvelope m s) s).sec = s.sec := by
  unfold execEnvelope receive
  try dsimp only
  (repeat' split) <;> simp [outState, apply_ite]

@[simp] theorem execExcursion_out (m : PermitMsg) (s : State) :
    (outState (execExcursion m s) s).pending = s.pending ∧ (outState (execExcursion m s) s).sec = s.sec := by
  unfold execExcursion receive
  try dsimp only
  (repeat' split) <;> simp [outState, apply_ite]

@[simp] theorem execGrant_out (m : PermitMsg) (s : State) :
    (outState (execGrant m s) s).pending = s.pending ∧ (outState (execGrant m s) s).sec = s.sec := by
  unfold execGrant receive
  try dsimp only
  (repeat' split) <;> simp [outState, apply_ite]

@[simp] theorem execHeartbeat_out (m : PermitMsg) (s : State) :
    (outState (execHeartbeat m s) s).pending = s.pending ∧ (outState (execHeartbeat m s) s).sec = s.sec := by
  unfold execHeartbeat receive
  try dsimp only
  (repeat' split) <;> simp [outState, apply_ite]

@[simp] theorem execReport_out (m : PermitMsg) (s : State) :
    (outState (execReport m s) s).pending = s.pending ∧ (outState (execReport m s) s).sec = s.sec := by
  unfold execReport receive
  try dsimp only
  (repeat' split) <;> simp [outState, apply_ite]

@[simp] theorem execRequest_out (m : PermitMsg) (s : State) :
    (outState (execRequest m s) s).pending = s.pending ∧ (outState (execRequest m s) s).sec = s.sec := by
  unfold execRequest receive
  try dsimp only
  (repeat' split) <;> simp [outState, apply_ite]

@[simp] theorem permitPacket_fr (p : Packet) (s : State) :
    (permitPacket p s).pending = s.pending ∧ (permitPacket p s).sec = s.sec := by
  simp only [permitPacket]; (repeat' split) <;> (simp [*]; done)

@[simp] theorem mailboxPacket_fr (p : Packet) (s : State) :
    (mailboxPacket p s).pending = s.pending ∧ (mailboxPacket p s).sec = s.sec := by
  simp only [mailboxPacket]; (repeat' split) <;> (simp [*]; done)

@[simp] theorem deliver_fr (from_ : Option ℕ) (p : Packet) (s : State) :
    (deliver from_ p s).pending = s.pending ∧ (deliver from_ p s).sec = s.sec := by
  simp only [deliver]; (repeat' split) <;> (simp [*]; done)

@[simp] theorem routeHeld_fr (from_ : Option ℕ) (back : Option HeldSlots) (p : Packet) (s : State) :
    (routeHeld from_ back p s).pending = s.pending ∧ (routeHeld from_ back p s).sec = s.sec := by
  unfold routeHeld
  dsimp only
  have hf : (back.toList.foldl (fun s b => oweSlots b s) s).pending = s.pending
      ∧ (back.toList.foldl (fun s b => oweSlots b s) s).sec = s.sec := foldl_keep _ _ _ _ (fun y e => by simp) ⟨rfl, rfl⟩
  generalize back.toList.foldl (fun s b => oweSlots b s) s = u at *
  (repeat' split) <;> simp [hf]

@[simp] theorem routePacket_fr (from_ : Option ℕ) (p : Packet) (s : State) :
    (routePacket from_ p s).pending = s.pending ∧ (routePacket from_ p s).sec = s.sec := by
  simp only [routePacket]; (repeat' split) <;> (simp [*]; done)

@[simp] theorem askRetry_fr (n : ℕ) (s : State) :
    (askRetry n s).pending = s.pending ∧ (askRetry n s).sec = s.sec := by
  simp only [askRetry]; (repeat' split) <;> (simp [*]; done)

@[simp] theorem discardFlit_fr (n : ℕ) (s : State) :
    (discardFlit n s).pending = s.pending ∧ (discardFlit n s).sec = s.sec := by
  simp only [discardFlit]; (repeat' split) <;> (simp [*]; done)

@[simp] theorem retryReq_fr (n : ℕ) (fseq : ℕ) (s : State) :
    (retryReq n fseq s).pending = s.pending ∧ (retryReq n fseq s).sec = s.sec := by
  simp only [retryReq]; (repeat' split) <;> (simp [*]; done)

@[simp] theorem ident_fr (n : ℕ) (node : NodeId) (link : BitVec 7) (gen : BitVec 2) (part : BitVec 2) (s : State) :
    (ident n node link gen part s).pending = s.pending ∧ (ident n node link gen part s).sec = s.sec := by
  simp only [ident]; (repeat' split) <;> (simp [*]; done)

@[simp] theorem control_fr (n : ℕ) (pay : List Byte) (s : State) :
    (control n pay s).pending = s.pending ∧ (control n pay s).sec = s.sec := by
  simp only [control]; (repeat' split) <;> (simp [*]; done)

@[simp] theorem takeHeader_fr (n : ℕ) (ack : ℕ) (cvl : ℕ) (credits : ℕ) (s : State) :
    (takeHeader n ack cvl credits s).pending = s.pending ∧
    (takeHeader n ack cvl credits s).sec = s.sec := by
  simp only [takeHeader]; (repeat' split) <;> (simp [*]; done)

@[simp] theorem acceptData_fr (n : ℕ) (vl : ℕ) (sop : ℕ) (pay : List Byte) (s : State) :
    (acceptData n vl sop pay s).pending = s.pending ∧ (acceptData n vl sop pay s).sec = s.sec := by
  simp only [acceptData]; (repeat' split) <;> (simp [*]; done)

@[simp] theorem takeFlit_fr (n : ℕ) (bytes : List Byte) (s : State) :
    (takeFlit n bytes s).pending = s.pending ∧ (takeFlit n bytes s).sec = s.sec := by
  simp only [takeFlit]; (repeat' split) <;> (simp [*]; done)

@[simp] theorem countWords_fr (n : ℕ) (words : List (ℕ × ℕ)) (s : State) :
    (countWords n words s).pending = s.pending ∧ (countWords n words s).sec = s.sec := by
  simp only [countWords]; (repeat' split) <;> (simp [*]; done)

@[simp] theorem flitReceive_fr (n : ℕ) (bytes : List Byte) (words : List (ℕ × ℕ)) (s : State) :
    (flitReceive n bytes words s).pending = s.pending ∧ (flitReceive n bytes words s).sec = s.sec := by
  simp only [flitReceive]; (repeat' split) <;> (simp [*]; done)

@[simp] theorem nodeIdSet_fr (c : MCmd) (s : State) :
    (nodeIdSet c s).pending = s.pending ∧ (nodeIdSet c s).sec = s.sec := by
  simp only [nodeIdSet]; (repeat' split) <;> (simp [*]; done)

@[simp] theorem writeRoutes_fr (first : ℕ) (bs : List Byte) (n : ℕ) (s : State) :
    (writeRoutes first bs n s).pending = s.pending ∧ (writeRoutes first bs n s).sec = s.sec := by
  simp only [writeRoutes]; (repeat' split) <;> (simp [*]; done)

@[simp] theorem routeWrite_fr (c : MCmd) (s : State) :
    (routeWrite c s).pending = s.pending ∧ (routeWrite c s).sec = s.sec := by
  unfold routeWrite; dsimp only; (repeat' split) <;> (first | (simp (disch := (intros; first | (simp; done) | ((repeat' split) <;> simp))) [*]; done) | grind [checked_fr, answer_fr, writeRoutes_fr, pinnedRead_fr, refuse_fr])

@[simp] theorem routeRead_fr (c : MCmd) (s : State) :
    (routeRead c s).pending = s.pending ∧ (routeRead c s).sec = s.sec := by
  simp only [routeRead]; (repeat' split) <;> (simp [*]; done)

@[simp] theorem linkConfig_fr (c : MCmd) (s : State) :
    (linkConfig c s).pending = s.pending ∧ (linkConfig c s).sec = s.sec := by
  simp only [linkConfig]; (repeat' split) <;> (simp [*]; done)

@[simp] theorem linkWithdraw_fr (c : MCmd) (s : State) :
    (linkWithdraw c s).pending = s.pending ∧ (linkWithdraw c s).sec = s.sec := by
  simp only [linkWithdraw]; (repeat' split) <;> (simp [*]; done)

@[simp] theorem linkRetrain_fr (c : MCmd) (s : State) :
    (linkRetrain c s).pending = s.pending ∧ (linkRetrain c s).sec = s.sec := by
  simp only [linkRetrain]; (repeat' split) <;> (simp [*]; done)

@[simp] theorem linkRestore_fr (c : MCmd) (s : State) :
    (linkRestore c s).pending = s.pending ∧ (linkRestore c s).sec = s.sec := by
  simp only [linkRestore]; (repeat' split) <;> (simp [*]; done)

@[simp] theorem freeCopy_fr (eng : ℕ) (w : DWords) (s : State) :
    (freeCopy eng w s).pending = s.pending ∧ (freeCopy eng w s).sec = s.sec := by
  simp only [freeCopy]; (repeat' split) <;> (simp [*]; done)

@[simp] theorem freeTargets_fr (eng : ℕ) (m : Strm) (s : State) :
    (freeTargets eng m s).pending = s.pending ∧ (freeTargets eng m s).sec = s.sec := by
  simp only [freeTargets]; (repeat' split) <;> (simp [*]; done)

@[simp] theorem freeRange52_fr (code : ℕ) (va : ℕ) (n : ℕ) (s : State) :
    (freeRange52 code va n s).pending = s.pending ∧ (freeRange52 code va n s).sec = s.sec := by
  simp only [freeRange52]; (repeat' split) <;> (simp [*]; done)

@[simp] theorem freeKv_fr (q : ℕ) (r : SeqRun) (w : DWords) (s : State) :
    (freeKv q r w s).pending = s.pending ∧ (freeKv q r w s).sec = s.sec := by
  unfold freeKv
  dsimp only
  refine foldl_keep _ _ _ _ ?_ ⟨rfl, rfl⟩
  intro x k
  split
  · split <;> simp
  · refine foldl_keep _ _ _ _ ?_ ⟨rfl, rfl⟩
    intro y i
    split
    · split <;> simp
    · simp

@[simp] theorem freeSeqs_fr (h : ℕ) (s : State) :
    (freeSeqs h s).pending = s.pending ∧ (freeSeqs h s).sec = s.sec := by
  simp only [freeSeqs]; (repeat' split) <;> (simp (disch := (intros; first | (simp; done) | ((repeat' split) <;> simp))) [*]; done)

@[simp] theorem freeDestinations_fr (s : State) :
    (freeDestinations s).pending = s.pending ∧ (freeDestinations s).sec = s.sec := by
  unfold freeDestinations
  dsimp only
  refine foldl_keep _ _ _ _ ?_ ?_
  · intro x n
    split <;> split <;> simp
  · rw [(freeSeqs_fr _ _).1, (freeSeqs_fr _ _).2, (freeSeqs_fr _ _).1, (freeSeqs_fr _ _).2]
    refine foldl_keep _ _ _ _ ?_ (foldl_keep _ _ _ _ (fun x e => by simp) ⟨rfl, rfl⟩)
    intro x r
    split
    · rename_i g _
      exact pastInvals_fr (fun s => ((), freeDest r g s)) x (fun y => by simp)
    · simp

@[simp] theorem zeroIdleStacks_fr (s : State) :
    (zeroIdleStacks s).pending = s.pending ∧ (zeroIdleStacks s).sec = s.sec := by
  simp only [zeroIdleStacks]; (repeat' split) <;> (simp [*]; done)

@[simp] theorem deviceResetCmd_fr (c : MCmd) (s : State) :
    (deviceResetCmd c s).pending = s.pending ∧ (deviceResetCmd c s).sec = s.sec := by
  simp only [deviceResetCmd]; (repeat' split) <;> (simp [*]; done)

@[simp] theorem resetWriteBackEnd_fr (s : State) :
    (resetWriteBackEnd s).pending = s.pending ∧ (resetWriteBackEnd s).sec = s.sec := by
  simp only [resetWriteBackEnd]; (repeat' split) <;> (simp [*]; done)

@[simp] theorem stackTrainingEnd_fr (failed : BitVec 24) (s : State) :
    (stackTrainingEnd failed s).pending = s.pending ∧ (stackTrainingEnd failed s).sec = s.sec := by
  simp only [stackTrainingEnd]; (repeat' split) <;> (simp [*]; done)

@[simp] theorem poolReady_fr (s : State) :
    (poolReady s).pending = s.pending ∧ (poolReady s).sec = s.sec := by
  simp only [poolReady]; (repeat' split) <;> (simp [*]; done)

@[simp] theorem testPort_fr (op : TestOp) (s : State) :
    (testPort op s).pending = s.pending ∧ (testPort op s).sec = s.sec := by
  simp only [testPort]; (repeat' split) <;> (simp [*]; done)

@[simp] theorem chooseSource_fr (s : State) :
    (chooseSource s).pending = s.pending ∧ (chooseSource s).sec = s.sec := by
  simp only [chooseSource]; (repeat' split) <;> (simp [*]; done)

@[simp] theorem firstLock_fr (offset : ℤ) (s : State) :
    (firstLock offset s).pending = s.pending ∧ (firstLock offset s).sec = s.sec := by
  simp only [firstLock]; (repeat' split) <;> (simp [*]; done)

@[simp] theorem measured_fr (i : ℕ) (offset : ℤ) (s : State) :
    (measured i offset s).pending = s.pending ∧ (measured i offset s).sec = s.sec := by
  simp only [measured]; (repeat' split) <;> (simp [*]; done)

@[simp] theorem measuredBy_fr (kind : ℕ) (port : ℕ) (offset : ℤ) (s : State) :
    (measuredBy kind port offset s).pending = s.pending ∧
    (measuredBy kind port offset s).sec = s.sec := by
  simp only [measuredBy]; (repeat' split) <;> (simp [*]; done)

@[simp] theorem sendTimeSync_fr (n : ℕ) (s : State) :
    (sendTimeSync n s).pending = s.pending ∧ (sendTimeSync n s).sec = s.sec := by
  simp only [sendTimeSync]; (repeat' split) <;> (simp [*]; done)

@[simp] theorem timeSyncMessage_fr (n : ℕ) (offset : ℤ) (s : State) :
    (timeSyncMessage n offset s).pending = s.pending ∧ (timeSyncMessage n offset s).sec = s.sec := by
  simp only [timeSyncMessage]; (repeat' split) <;> (simp [*]; done)

@[simp] theorem ppsEdge_fr (clean : Bool) (offset : ℤ) (s : State) :
    (ppsEdge clean offset s).pending = s.pending ∧ (ppsEdge clean offset s).sec = s.sec := by
  simp only [ppsEdge]; (repeat' split) <;> (simp [*]; done)

@[simp] theorem timeSourceSet_fr (c : MCmd) (s : State) :
    (timeSourceSet c s).pending = s.pending ∧ (timeSourceSet c s).sec = s.sec := by
  simp only [timeSourceSet]; (repeat' split) <;> (simp [*]; done)

@[simp] theorem timeStep_fr (c : MCmd) (s : State) :
    (timeStep c s).pending = s.pending ∧ (timeStep c s).sec = s.sec := by
  simp only [timeStep]; (repeat' split) <;> (simp [*]; done)

@[simp] theorem ethRead_fr (p : ℕ) (va : ℕ) (n : ℕ) (s : State) :
    (ethRead p va n s).2.pending = s.pending ∧ (ethRead p va n s).2.sec = s.sec := by
  simp only [ethRead]; (repeat' split) <;> (simp [*]; done)

@[simp] theorem ethWrite_fr (p : ℕ) (va : ℕ) (bs : List Byte) (s : State) :
    (ethWrite p va bs s).2.pending = s.pending ∧ (ethWrite p va bs s).2.sec = s.sec := by
  simp only [ethWrite]; (repeat' split) <;> (simp [*]; done)

@[simp] theorem rawWord_fr (p : ℕ) (va : ℕ) (s : State) :
    (rawWord p va s).2.pending = s.pending ∧ (rawWord p va s).2.sec = s.sec := by
  unfold rawWord
  try dsimp only
  repeat' (split <;> (try (rename_i heq; first | (have hp := (congrArg (fun r => r.2.pending) heq).symm; have hq := (congrArg (fun r => r.2.sec) heq).symm; simp at hp hq) | (have hp := (congrArg (fun r => r.2.2.pending) heq).symm; have hq := (congrArg (fun r => r.2.2.sec) heq).symm; simp at hp hq))))
  all_goals simp [*]

@[simp] theorem ethSend_fr (p : ℕ) (prio : ℕ) (o : Output) (s : State) :
    (ethSend p prio o s).pending = s.pending ∧ (ethSend p prio o s).sec = s.sec := by
  simp only [ethSend]; (repeat' split) <;> (simp [*]; done)

@[simp] theorem roceSend_fr (p : ℕ) (o : Output) (s : State) :
    (roceSend p o s).pending = s.pending ∧ (roceSend p o s).sec = s.sec := by
  simp only [roceSend]; (repeat' split) <;> (simp [*]; done)

@[simp] theorem rawReceive_fr (p : ℕ) (bytes : List Byte) (s : State) :
    (rawReceive p bytes s).pending = s.pending ∧ (rawReceive p bytes s).sec = s.sec := by
  unfold rawReceive
  try dsimp only
  repeat' (split <;> (try (rename_i heq; first | (have hp := (congrArg (fun r => r.2.pending) heq).symm; have hq := (congrArg (fun r => r.2.sec) heq).symm; simp at hp hq) | (have hp := (congrArg (fun r => r.2.2.pending) heq).symm; have hq := (congrArg (fun r => r.2.2.sec) heq).symm; simp at hp hq))))
  all_goals simp [*]

@[simp] theorem sendCnp_fr (p : ℕ) (qpn : BitVec 12) (s : State) :
    (sendCnp p qpn s).pending = s.pending ∧ (sendCnp p qpn s).sec = s.sec := by
  simp only [sendCnp]; (repeat' split) <;> (simp [*]; done)

@[simp] theorem ethFrame_fr (p : ℕ) (f : EthFrame) (s : State) :
    (ethFrame p f s).pending = s.pending ∧ (ethFrame p f s).sec = s.sec := by
  simp only [ethFrame]; (repeat' split) <;> (simp [*]; done)

@[simp] theorem cnpReceive_fr (p : ℕ) (q : ℕ) (s : State) :
    (cnpReceive p q s).pending = s.pending ∧ (cnpReceive p q s).sec = s.sec := by
  simp only [cnpReceive]; (repeat' split) <;> (simp [*]; done)

@[simp] theorem rateIncrease_fr (p : ℕ) (q : ℕ) (s : State) :
    (rateIncrease p q s).pending = s.pending ∧ (rateIncrease p q s).sec = s.sec := by
  simp only [rateIncrease]; (repeat' split) <;> (simp [*]; done)

@[simp] theorem qpRecord_fr (p : ℕ) (q : ℕ) (opcode : ℕ) (seq : ℕ) (st : BitVec 16) (tag : ℕ) (result : ℕ) (s : State) :
    (qpRecord p q opcode seq st tag result s).pending = s.pending ∧
    (qpRecord p q opcode seq st tag result s).sec = s.sec := by
  simp only [qpRecord]; (repeat' split) <;> (simp [*]; done)

@[simp] theorem endWork_fr (p : ℕ) (q : ℕ) (r : WorkReq) (st : BitVec 16) (result : ℕ) (s : State) :
    (endWork p q r st result s).pending = s.pending ∧ (endWork p q r st result s).sec = s.sec := by
  simp only [endWork]; (repeat' split) <;> (simp [*]; done)

@[simp] theorem qpError_fr (p : ℕ) (q : ℕ) (s : State) :
    (qpError p q s).pending = s.pending ∧ (qpError p q s).sec = s.sec := by
  simp only [qpError]; (repeat' split) <;> (simp [*]; done)

@[simp] theorem failWork_fr (p : ℕ) (q : ℕ) (st : BitVec 16) (result : ℕ) (s : State) :
    (failWork p q st result s).pending = s.pending ∧ (failWork p q st result s).sec = s.sec := by
  simp only [failWork]; (repeat' split) <;> (simp [*]; done)

@[simp] theorem startWork_fr (p : EthId) (qpn : BitVec 12) (r : WorkReq) (s : State) :
    (startWork p qpn r s).pending = s.pending ∧ (startWork p qpn r s).sec = s.sec := by
  unfold startWork
  try dsimp only
  repeat' (split <;> (try (rename_i heq; first | (have hp := (congrArg (fun r => r.2.pending) heq).symm; have hq := (congrArg (fun r => r.2.sec) heq).symm; simp at hp hq) | (have hp := (congrArg (fun r => r.2.2.pending) heq).symm; have hq := (congrArg (fun r => r.2.2.sec) heq).symm; simp at hp hq))))
  all_goals simp [*]

@[simp] theorem fetchWork_fr (p : EthId) (qpn : BitVec 12) (a2 : ℕ) (a3 : State) :
    (fetchWork p qpn a2 a3).pending = a3.pending ∧ (fetchWork p qpn a2 a3).sec = a3.sec := by
  induction a2 generalizing a3 with
  | zero => simp [fetchWork]
  | succ n ih =>
    unfold fetchWork
    try dsimp only
    repeat' (split <;> (try (rename_i heq; first | (have hp := (congrArg (fun r => r.2.pending) heq).symm; have hq := (congrArg (fun r => r.2.sec) heq).symm; simp at hp hq) | (have hp := (congrArg (fun r => r.2.2.pending) heq).symm; have hq := (congrArg (fun r => r.2.2.sec) heq).symm; simp at hp hq))))
    all_goals simp [*]

@[simp] theorem fetchAll_fr (p : EthId) (qpn : BitVec 12) (s : State) :
    (fetchAll p qpn s).pending = s.pending ∧ (fetchAll p qpn s).sec = s.sec := by
  simp only [fetchAll]; (repeat' split) <;> (simp [*]; done)

@[simp] theorem ethDoorbell_fr (p : EthId) (v : W64) (s : State) :
    (ethDoorbell p v s).pending = s.pending ∧ (ethDoorbell p v s).sec = s.sec := by
  simp only [ethDoorbell]; (repeat' split) <;> (simp [*]; done)

@[simp] theorem sendWaiting_fr (p : ℕ) (s : State) :
    (sendWaiting p s).pending = s.pending ∧ (sendWaiting p s).sec = s.sec := by
  simp only [sendWaiting]; (repeat' split) <;> (simp [*]; done)

@[simp] theorem pfcFrame_fr (p : EthId) (mask : BitVec 8) (pause : Bool) (s : State) :
    (pfcFrame p mask pause s).pending = s.pending ∧ (pfcFrame p mask pause s).sec = s.sec := by
  simp only [pfcFrame]; (repeat' split) <;> (simp [*]; done)

@[simp] theorem rdmaResponse_fr (p : ℕ) (q : ℕ) (rsp : RdmaRsp) (s : State) :
    (rdmaResponse p q rsp s).pending = s.pending ∧ (rdmaResponse p q rsp s).sec = s.sec := by
  unfold rdmaResponse
  try dsimp only
  repeat' (split <;> (try (rename_i heq; first | (have hp := (congrArg (fun r => r.2.pending) heq).symm; have hq := (congrArg (fun r => r.2.sec) heq).symm; simp at hp hq) | (have hp := (congrArg (fun r => r.2.2.pending) heq).symm; have hq := (congrArg (fun r => r.2.2.sec) heq).symm; simp at hp hq))))
  all_goals simp [*]

@[simp] theorem bumpRq_fr (p : ℕ) (q : ℕ) (n : ℕ) (s : State) :
    (bumpRq p q n s).pending = s.pending ∧ (bumpRq p q n s).sec = s.sec := by
  simp only [bumpRq]; (repeat' split) <;> (simp [*]; done)

@[simp] theorem peerWrite_fr (p : EthId) (qpn : BitVec 12) (va : W64) (key : BitVec 32) (data : List Byte) (then_ : State → State) (s : State) (h_then_ : ∀ x0, (then_ x0).pending = x0.pending ∧ (then_ x0).sec = x0.sec) :
    (peerWrite p qpn va key data then_ s).pending = s.pending ∧
    (peerWrite p qpn va key data then_ s).sec = s.sec := by
  unfold peerWrite
  try dsimp only
  repeat' (split <;> (try (rename_i heq; first | (have hp := (congrArg (fun r => r.2.pending) heq).symm; have hq := (congrArg (fun r => r.2.sec) heq).symm; simp at hp hq) | (have hp := (congrArg (fun r => r.2.2.pending) heq).symm; have hq := (congrArg (fun r => r.2.2.sec) heq).symm; simp at hp hq))))
  all_goals simp [*]

@[simp] theorem rdmaRequest_fr (p : EthId) (qpn : BitVec 12) (req : RdmaReq) (s : State) :
    (rdmaRequest p qpn req s).pending = s.pending ∧ (rdmaRequest p qpn req s).sec = s.sec := by
  unfold rdmaRequest; dsimp only; (repeat' split) <;> (first | (simp (disch := (intros; first | (simp; done) | ((repeat' split) <;> simp))) [*]; done) | grind [peerWrite_fr, qpRecord_fr, roceSend_fr, ethRead_fr, bumpRq_fr])

@[simp] theorem ethConfig_fr (c : MCmd) (s : State) :
    (ethConfig c s).pending = s.pending ∧ (ethConfig c s).sec = s.sec := by
  simp only [ethConfig]; (repeat' split) <;> (simp [*]; done)

@[simp] theorem rangePinned_fr (va : ℕ) (n : ℕ) (s : State) :
    (rangePinned va n s).2.pending = s.pending ∧ (rangePinned va n s).2.sec = s.sec := by
  simp only [rangePinned]; (repeat' split) <;> (simp [*]; done)

@[simp] theorem rdmaMrReg_fr (c : MCmd) (s : State) :
    (rdmaMrReg c s).pending = s.pending ∧ (rdmaMrReg c s).sec = s.sec := by
  unfold rdmaMrReg
  refine checked_fr _ _ _ _ _ _ ?_
  intro x
  dsimp only
  repeat' (split <;> (try (rename_i heq; first | (have hp := (congrArg (fun r => r.2.pending) heq).symm; have hq := (congrArg (fun r => r.2.sec) heq).symm; simp at hp hq) | (have hp := (congrArg (fun r => r.2.2.pending) heq).symm; have hq := (congrArg (fun r => r.2.2.sec) heq).symm; simp at hp hq))))
  all_goals simp [*]

@[simp] theorem rdmaQpSet_fr (c : MCmd) (s : State) :
    (rdmaQpSet c s).pending = s.pending ∧ (rdmaQpSet c s).sec = s.sec := by
  simp only [rdmaQpSet]; (repeat' split) <;> (simp [*]; done)

@[simp] theorem attest_fr (c : MCmd) (s : State) :
    (attest c s).pending = s.pending := by
  simp only [attest]; (repeat' split) <;> (simp [*]; done)

@[simp] theorem certRead_fr (c : MCmd) (s : State) :
    (certRead c s).pending = s.pending ∧ (certRead c s).sec = s.sec := by
  simp only [certRead]; (repeat' split) <;> (simp [*]; done)

@[simp] theorem eraseKey_fr (sel : ℕ) (s : State) :
    (eraseKey sel s).pending = s.pending ∧ (eraseKey sel s).sec = s.sec := by
  simp only [eraseKey]; (repeat' split) <;> (simp [*]; done)

@[simp] theorem keyErase_fr (c : MCmd) (s : State) :
    (keyErase c s).pending = s.pending ∧ (keyErase c s).sec = s.sec := by
  simp only [keyErase]; (repeat' split) <;> (simp [*]; done)

@[simp] theorem keyLoad_fr (c : MCmd) (s : State) :
    (keyLoad c s).pending = s.pending ∧ (keyLoad c s).sec = s.sec := by
  simp only [keyLoad]; (repeat' split) <;> (simp [*]; done)

@[simp] theorem debugChallenge_fr (c : MCmd) (s : State) :
    (debugChallenge c s).pending = s.pending := by
  simp only [debugChallenge]; (repeat' split) <;> (simp [*]; done)

@[simp] theorem authorised_fr (c : MCmd) (off : ℕ) (purpose : ℕ) (most : ℕ) (k : List Byte → State → State) (s : State) (h_k : ∀ x0 x1, (k x0 x1).pending = x1.pending) :
    (authorised c off purpose most k s).pending = s.pending := by
  simp only [authorised]; (repeat' split) <;> (simp [*, h_k]; done)

@[simp] theorem debugAuth_fr (c : MCmd) (s : State) :
    (debugAuth c s).pending = s.pending := by
  simp only [debugAuth]; (repeat' split) <;> (simp [*]; done)

theorem checked_pending (c : MCmd) (range busy conflict : List (Bool × Nat)) (k : State → State) (s : State)
    (hk : ∀ x, (k x).pending = x.pending) : (checked c range busy conflict k s).pending = s.pending := by
  simp only [checked]; (repeat' split) <;> simp [hk]

@[simp] theorem rootRevoke_fr (c : MCmd) (s : State) :
    (rootRevoke c s).pending = s.pending := by
  unfold rootRevoke
  refine checked_pending _ _ _ _ _ _ ?_
  intro x
  refine authorised_fr _ _ _ _ _ _ ?_
  intro a y
  refine checked_pending _ _ _ _ _ _ ?_
  intro z
  simp

@[simp] theorem svnAdvance_fr (c : MCmd) (s : State) :
    (svnAdvance c s).pending = s.pending := by
  unfold svnAdvance
  refine checked_pending _ _ _ _ _ _ ?_
  intro x
  dsimp only
  split
  · simp
  · refine checked_pending _ _ _ _ _ _ ?_
    intro z
    simp

@[simp] theorem endDebug_fr (s : State) :
    (endDebug s).pending = s.pending := by
  simp only [endDebug]; (repeat' split) <;> (simp [*]; done)

@[simp] theorem groupTableSet_fr (c : MCmd) (s : State) :
    (groupTableSet c s).pending = s.pending ∧ (groupTableSet c s).sec = s.sec := by
  simp only [groupTableSet]; (repeat' split) <;> (simp [*]; done)

@[simp] theorem groupLoad_fr (c : MCmd) (s : State) :
    (groupLoad c s).pending = s.pending ∧ (groupLoad c s).sec = s.sec := by
  unfold groupLoad
  refine checked_fr _ _ _ _ _ _ ?_
  intro x
  dsimp only
  split
  all_goals (rename_i heq; have hp := (congrArg (fun r => r.2.pending) heq).symm; have hq := (congrArg (fun r => r.2.sec) heq).symm; simp at hp hq)
  · simp [*]
  · rw [← hp, ← hq]
    refine checked_fr _ _ _ _ _ _ ?_
    intro y
    split
    all_goals (rename_i heq; have hp := (congrArg (fun r => r.2.pending) heq).symm; have hq := (congrArg (fun r => r.2.sec) heq).symm; simp at hp hq)
    · simp [*]
    · rw [← hp, ← hq]
      refine checked_fr _ _ _ _ _ _ ?_
      intro z
      simp

@[simp] theorem groupUnload_fr (c : MCmd) (s : State) :
    (groupUnload c s).pending = s.pending ∧ (groupUnload c s).sec = s.sec := by
  simp only [groupUnload]; (repeat' split) <;> (simp [*]; done)

@[simp] theorem tallyClear_fr (c : MCmd) (s : State) :
    (tallyClear c s).pending = s.pending ∧ (tallyClear c s).sec = s.sec := by
  simp only [tallyClear]; (repeat' split) <;> (simp [*]; done)

@[simp] theorem groupStatus_fr (c : MCmd) (s : State) :
    (groupStatus c s).pending = s.pending ∧ (groupStatus c s).sec = s.sec := by
  simp only [groupStatus]; (repeat' split) <;> (simp (disch := (intros; first | (simp; done) | ((repeat' split) <;> simp))) [*]; done)

@[simp] theorem winBaseWrite_fr (p : ℕ) (v : W64) (s : State) :
    (winBaseWrite p v s).pending = s.pending ∧ (winBaseWrite p v s).sec = s.sec := by
  simp only [winBaseWrite]; (repeat' split) <;> (simp [*]; done)

@[simp] theorem windowRead_fr (p : PortId) (off : ℕ) (n : ℕ) (s : State) :
    (windowRead p off n s).pending = s.pending ∧ (windowRead p off n s).sec = s.sec := by
  simp only [windowRead]; (repeat' split) <;> (simp [*]; done)

@[simp] theorem poisonReceived_fr (p : ℕ) (s : State) :
    (poisonReceived p s).pending = s.pending ∧ (poisonReceived p s).sec = s.sec := by
  simp only [poisonReceived]; (repeat' split) <;> (simp [*]; done)

@[simp] theorem windowWrite_fr (p : PortId) (off : ℕ) (data : List Byte) (ep : Bool) (s : State) :
    (windowWrite p off data ep s).pending = s.pending ∧ (windowWrite p off data ep s).sec = s.sec := by
  simp only [windowWrite]; (repeat' split) <;> (simp [*]; done)

@[simp] theorem portDown_fr (p : ℕ) (s : State) :
    (portDown p s).pending = s.pending ∧ (portDown p s).sec = s.sec := by
  simp only [portDown]; (repeat' split) <;> (simp [*]; done)

@[simp] theorem poisonHost_fr (a : ℕ) (n : ℕ) (s : State) :
    (poisonHost a n s).pending = s.pending ∧ (poisonHost a n s).sec = s.sec := by
  simp only [poisonHost]; (repeat' split) <;> (simp [*]; done)

@[simp] theorem hostSeen_fr (a : ℕ) (data : List Byte) (s : State) :
    (hostSeen a data s).pending = s.pending ∧ (hostSeen a data s).sec = s.sec := by
  simp only [hostSeen]; (repeat' split) <;> (simp [*]; done)

@[simp] theorem fillHostLines_fr (p : ℕ) (a : ℕ) (data : List Byte) (s : State) :
    (fillHostLines p a data s).pending = s.pending ∧ (fillHostLines p a data s).sec = s.sec := by
  simp only [fillHostLines]; (repeat' split) <;> (simp [*]; done)

@[simp] theorem attachCompletion_fr (p : ℕ) (a : ℕ) (data : List Byte) (st : HostStatus) (streaming : Bool) (s : State) :
    (attachCompletion p a data st streaming s).pending = s.pending ∧
    (attachCompletion p a data st streaming s).sec = s.sec := by
  simp only [attachCompletion]; (repeat' split) <;> (simp [*]; done)

@[simp] theorem configRead_fr (p : PortId) (off : ℕ) (s : State) :
    (configRead p off s).pending = s.pending ∧ (configRead p off s).sec = s.sec := by
  simp only [configRead]; (repeat' split) <;> (simp [*]; done)

@[simp] theorem enWrite_fr (src : BitVec 16) (mask : ℕ) (m : W64) (v : W64) (s : State) :
    (enWrite src mask m v s).pending = s.pending ∧ (enWrite src mask m v s).sec = s.sec := by
  simp only [enWrite]; (repeat' split) <;> (simp [*]; done)

@[simp] theorem execBootCounterClear_out (v : W64) (s : State) :
    (outState (execBootCounterClear v s) s).pending = s.pending ∧ (outState (execBootCounterClear v s) s).sec = s.sec := by
  unfold execBootCounterClear
  simp only [outState]
  (repeat' split) <;> simp

@[simp] theorem bootWrite_fr (r : ℕ) (m : W64) (v : W64) (s : State) :
    (bootWrite r m v s).pending = s.pending ∧ (bootWrite r m v s).sec = s.sec := by
  simp only [bootWrite]; (repeat' split) <;> (simp [*]; done)

@[simp] theorem execMbxCounterClear_out (m : MbxId) (v : W64) (s : State) :
    (outState (execMbxCounterClear m v s) s).pending = s.pending ∧ (outState (execMbxCounterClear m v s) s).sec = s.sec := by
  unfold execMbxCounterClear
  split
  · simp [outState]
  · simp only [outState]
    (repeat' split) <;> simp

@[simp] theorem mbxWrite_fr (n : ℕ) (r : ℕ) (m : W64) (v : W64) (s : State) :
    (mbxWrite n r m v s).pending = s.pending ∧ (mbxWrite n r m v s).sec = s.sec := by
  simp only [mbxWrite]; (repeat' split) <;> (simp [*]; done)

@[simp] theorem msixWrite_fr (p : ℕ) (t : ℕ) (m : W64) (v : W64) (s : State) :
    (msixWrite p t m v s).pending = s.pending ∧ (msixWrite p t m v s).sec = s.sec := by
  simp only [msixWrite]; (repeat' split) <;> (simp [*]; done)

@[simp] theorem execWinCounterClear_out (v : W64) (s : State) :
    (outState (execWinCounterClear v s) s).pending = s.pending ∧ (outState (execWinCounterClear v s) s).sec = s.sec := by
  unfold execWinCounterClear
  split
  · simp [outState]
  · simp only [outState]
    (repeat' split) <;> simp

@[simp] theorem winWrite_fr (r : ℕ) (m : W64) (v : W64) (s : State) :
    (winWrite r m v s).pending = s.pending ∧ (winWrite r m v s).sec = s.sec := by
  unfold winWrite; dsimp only; (repeat' split) <;> (simp [*]; done)

@[simp] theorem qCtrlWrite_fr (q : ℕ) (v : W64) (s : State) :
    (qCtrlWrite q v s).pending = s.pending ∧ (qCtrlWrite q v s).sec = s.sec := by
  simp only [qCtrlWrite]; (repeat' split) <;> (simp [*]; done)

@[simp] theorem qSetup_fr (q : ℕ) (f : QState → QState) (s : State) :
    (qSetup q f s).pending = s.pending ∧ (qSetup q f s).sec = s.sec := by
  simp only [qSetup]; (repeat' split) <;> (simp [*]; done)

@[simp] theorem execCqHeadWrite_out (q : QueueId) (v : W64) (s : State) :
    (outState (execCqHeadWrite q v s) s).pending = s.pending ∧ (outState (execCqHeadWrite q v s) s).sec = s.sec := by
  unfold execCqHeadWrite
  split
  · simp [outState]
  · simp only [outState]
    (repeat' split) <;> simp

@[simp] theorem execDoorbell_out (q : QueueId) (v : W64) (s : State) :
    (outState (execDoorbell q v s) s).pending = s.pending ∧ (outState (execDoorbell q v s) s).sec = s.sec := by
  unfold execDoorbell
  split
  · simp [outState]
  · simp only [outState]
    (repeat' split) <;> simp

@[simp] theorem execQdbCounterClear_out (q : QueueId) (v : W64) (s : State) :
    (outState (execQdbCounterClear q v s) s).pending = s.pending ∧ (outState (execQdbCounterClear q v s) s).sec = s.sec := by
  unfold execQdbCounterClear
  split
  · simp [outState]
  · simp only [outState]
    (repeat' split) <;> simp

@[simp] theorem qdbWrite_fr (q : ℕ) (r : ℕ) (m : W64) (v : W64) (s : State) :
    (qdbWrite q r m v s).pending = s.pending ∧ (qdbWrite q r m v s).sec = s.sec := by
  simp only [qdbWrite]; (repeat' split) <;> (simp [*]; done)

@[simp] theorem execTimeCounterClear_out (v : W64) (s : State) :
    (outState (execTimeCounterClear v s) s).pending = s.pending ∧ (outState (execTimeCounterClear v s) s).sec = s.sec := by
  unfold execTimeCounterClear
  split
  · simp [outState]
  · simp only [outState]
    (repeat' split) <;> simp

@[simp] theorem timeWrite_fr (r : ℕ) (m : W64) (v : W64) (s : State) :
    (timeWrite r m v s).pending = s.pending ∧ (timeWrite r m v s).sec = s.sec := by
  simp only [timeWrite]; (repeat' split) <;> (simp [*]; done)

@[simp] theorem execPwrCounterClear_out (v : W64) (s : State) :
    (outState (execPwrCounterClear v s) s).pending = s.pending ∧ (outState (execPwrCounterClear v s) s).sec = s.sec := by
  unfold execPwrCounterClear
  simp only [outState]
  (repeat' split) <;> simp

@[simp] theorem execPwrEnvCounterClear_out (v : W64) (s : State) :
    (outState (execPwrEnvCounterClear v s) s).pending = s.pending ∧ (outState (execPwrEnvCounterClear v s) s).sec = s.sec := by
  unfold execPwrEnvCounterClear
  simp only [outState]
  (repeat' split) <;> simp

@[simp] theorem pwrWrite_fr (r : ℕ) (m : W64) (v : W64) (s : State) :
    (pwrWrite r m v s).pending = s.pending ∧ (pwrWrite r m v s).sec = s.sec := by
  simp only [pwrWrite]; (repeat' split) <;> (simp [*]; done)

@[simp] theorem cntClear_fr (v : W64) (s : State) :
    (cntClear v s).pending = s.pending ∧ (cntClear v s).sec = s.sec := by
  simp only [cntClear]; (repeat' split) <;> (simp [*]; done)

@[simp] theorem cntWrite_fr (r : ℕ) (m : W64) (v : W64) (s : State) :
    (cntWrite r m v s).pending = s.pending ∧ (cntWrite r m v s).sec = s.sec := by
  simp only [cntWrite]; (repeat' split) <;> (simp [*]; done)

@[simp] theorem execXltCounterClear_out (v : W64) (s : State) :
    (outState (execXltCounterClear v s) s).pending = s.pending ∧ (outState (execXltCounterClear v s) s).sec = s.sec := by
  unfold execXltCounterClear
  simp only [outState]
  (repeat' split) <;> simp


@[simp] theorem xltWrite_fr (r : ℕ) (m : W64) (v : W64) (s : State) :
    (xltWrite r m v s).pending = s.pending ∧ (xltWrite r m v s).sec = s.sec := by
  simp only [xltWrite]; (repeat' split) <;> (simp [*]; done)

@[simp] theorem execLnkCounterClear_out (v : W64) (s : State) :
    (outState (execLnkCounterClear v s) s).pending = s.pending ∧ (outState (execLnkCounterClear v s) s).sec = s.sec := by
  unfold execLnkCounterClear
  split
  · simp [outState]
  · simp only [outState]
    (repeat' split) <;> simp

@[simp] theorem lnkWrite_fr (r : ℕ) (m : W64) (v : W64) (s : State) :
    (lnkWrite r m v s).pending = s.pending ∧ (lnkWrite r m v s).sec = s.sec := by
  simp only [lnkWrite]; (repeat' split) <;> (simp [*]; done)

@[simp] theorem execHbmCounterClear_out (v : W64) (s : State) :
    (outState (execHbmCounterClear v s) s).pending = s.pending ∧ (outState (execHbmCounterClear v s) s).sec = s.sec := by
  unfold execHbmCounterClear
  simp only [outState]
  (repeat' split) <;> simp

@[simp] theorem hbmWrite_fr (r : ℕ) (m : W64) (v : W64) (s : State) :
    (hbmWrite r m v s).pending = s.pending ∧ (hbmWrite r m v s).sec = s.sec := by
  simp only [hbmWrite]; (repeat' split) <;> (simp [*]; done)

@[simp] theorem execDbgCounterClear_out (v : W64) (s : State) :
    (outState (execDbgCounterClear v s) s).pending = s.pending ∧ (outState (execDbgCounterClear v s) s).sec = s.sec := by
  unfold execDbgCounterClear
  simp only [outState]
  (repeat' split) <;> simp

@[simp] theorem dbgWrite_fr (r : ℕ) (m : W64) (v : W64) (s : State) :
    (dbgWrite r m v s).pending = s.pending := by
  simp only [dbgWrite]; (repeat' split) <;> (simp [*]; done)

@[simp] theorem regWrite_fr (a : ℕ) (m : W64) (v : W64) (s : State) :
    (regWrite a m v s).pending = s.pending := by
  simp only [regWrite]; (repeat' split) <;> (simp [*]; done)

@[simp] theorem execAryCounterClear_out (n : ArrayId) (v : W64) (s : State) :
    (outState (execAryCounterClear n v s) s).pending = s.pending ∧ (outState (execAryCounterClear n v s) s).sec = s.sec := by
  unfold execAryCounterClear
  simp only [outState]
  (repeat' split) <;> simp

@[simp] theorem aryWrite_fr (n : ℕ) (r : ℕ) (m : W64) (v : W64) (s : State) :
    (aryWrite n r m v s).pending = s.pending ∧ (aryWrite n r m v s).sec = s.sec := by
  simp only [aryWrite]; (repeat' split) <;> (simp [*]; done)

@[simp] theorem execAryStreamClear_out (n : ArrayId) (v : W64) (s : State) :
    (outState (execAryStreamClear n v s) s).pending = s.pending ∧ (outState (execAryStreamClear n v s) s).sec = s.sec := by
  unfold execAryStreamClear
  simp only [outState]
  (repeat' split) <;> simp

@[simp] theorem aryStreamWrite_fr (n : ℕ) (r : ℕ) (v : W64) (s : State) :
    (aryStreamWrite n r v s).pending = s.pending ∧ (aryStreamWrite n r v s).sec = s.sec := by
  simp only [aryStreamWrite]; (repeat' split) <;> (simp [*]; done)

@[simp] theorem fcsrWrite_fr (n : ℕ) (v : W64) (s : State) :
    (fcsrWrite n v s).pending = s.pending ∧ (fcsrWrite n v s).sec = s.sec := by
  simp only [fcsrWrite]; (repeat' split) <;> (simp [*]; done)

@[simp] theorem execVecCounterClear_out (n : ArrayId) (v : W64) (s : State) :
    (outState (execVecCounterClear n v s) s).pending = s.pending ∧ (outState (execVecCounterClear n v s) s).sec = s.sec := by
  unfold execVecCounterClear
  simp only [outState]
  (repeat' split) <;> simp

@[simp] theorem vecWrite_fr (n : ℕ) (r : ℕ) (m : W64) (v : W64) (s : State) :
    (vecWrite n r m v s).pending = s.pending ∧ (vecWrite n r m v s).sec = s.sec := by
  simp only [vecWrite]; (repeat' split) <;> (simp [*]; done)

@[simp] theorem execUpdCounterClear_out (u : EngId) (v : W64) (s : State) :
    (outState (execUpdCounterClear u v s) s).pending = s.pending ∧ (outState (execUpdCounterClear u v s) s).sec = s.sec := by
  unfold execUpdCounterClear
  split
  · simp [outState]
  · simp only [outState]
    (repeat' split) <;> simp

@[simp] theorem updBlockWrite_fr (u : ℕ) (r : ℕ) (m : W64) (v : W64) (s : State) :
    (updBlockWrite u r m v s).pending = s.pending ∧ (updBlockWrite u r m v s).sec = s.sec := by
  simp only [updBlockWrite]; (repeat' split) <;> (simp [*]; done)

@[simp] theorem execSeqCounterClear_out (e : EngId) (v : W64) (s : State) :
    (outState (execSeqCounterClear e v s) s).pending = s.pending ∧ (outState (execSeqCounterClear e v s) s).sec = s.sec := by
  unfold execSeqCounterClear
  split
  · simp [outState]
  · simp only [outState]
    (repeat' split) <;> simp

@[simp] theorem execSeqRingCfgWrite_out (e : EngId) (v : W64) (s : State) :
    (outState (execSeqRingCfgWrite e v s) s).pending = s.pending ∧ (outState (execSeqRingCfgWrite e v s) s).sec = s.sec := by
  unfold execSeqRingCfgWrite
  split
  · simp [outState]
  · simp only [outState]
    (repeat' split) <;> simp

@[simp] theorem execSeqRingHeadWrite_out (e : EngId) (v : W64) (s : State) :
    (outState (execSeqRingHeadWrite e v s) s).pending = s.pending ∧ (outState (execSeqRingHeadWrite e v s) s).sec = s.sec := by
  unfold execSeqRingHeadWrite
  split
  · simp [outState]
  · simp only [outState]
    (repeat' split) <;> simp

@[simp] theorem seqBlockWrite_fr (h : ℕ) (r : ℕ) (m : W64) (v : W64) (s : State) :
    (seqBlockWrite h r m v s).pending = s.pending ∧ (seqBlockWrite h r m v s).sec = s.sec := by
  simp only [seqBlockWrite]; (repeat' split) <;> (simp [*]; done)

@[simp] theorem blockWrite1_fr (code : ℕ) (sub : ℕ) (r : ℕ) (m : W64) (v : W64) (s : State) :
    (blockWrite1 code sub r m v s).pending = s.pending ∧ (blockWrite1 code sub r m v s).sec = s.sec := by
  simp only [blockWrite1]; (repeat' split) <;> (simp [*]; done)

@[simp] theorem accessError_fr (p : Path) (write : Bool) (cause : ℕ) (off : ℕ) (s : State) :
    (accessError p write cause off s).pending = s.pending ∧
    (accessError p write cause off s).sec = s.sec := by
  simp only [accessError]; (repeat' split) <;> (simp [*]; done)

theorem regRead_keep {a : Nat} {s t : State} {w : W64} (h : regRead a s = some (w, t)) :
    t.pending = s.pending ∧ t.sec = s.sec := by
  have hm : ∀ n r, mbxRead n r s = some (w, t) → t.pending = s.pending ∧ t.sec = s.sec := by
    intro n r h
    unfold mbxRead at h
    split at h <;> grind [mbxRspRead_fr]
  have hp : ∀ o : Option W64, (o.map fun w => (w, s)) = some (w, t) → t.pending = s.pending ∧ t.sec = s.sec := by
    intro o h
    cases o with
    | none => simp at h
    | some v => simp at h; simp [h.2]
  unfold regRead at h
  dsimp only at h
  repeat' split at h
  all_goals first | exact hp _ h | exact hm _ _ h | simp at h

theorem pathRead_keep {p : Path} {a : Nat} {s t : State} {w : W64} (h : pathRead p a s = some (w, t)) :
    t.pending = s.pending ∧ t.sec = s.sec := by
  unfold pathRead at h
  dsimp only at h
  split at h
  · rw [Option.map_eq_some_iff] at h
    obtain ⟨x, -, hx⟩ := h
    simp only [Prod.mk.injEq] at hx
    simp [← hx.2]
  · exact regRead_keep h

@[simp] theorem spaceRead_fr (p : Path) (off : ℕ) (width : ℕ) (s : State) :
    (spaceRead p off width s).2.pending = s.pending ∧ (spaceRead p off width s).2.sec = s.sec := by
  unfold spaceRead
  split
  · simp
  · split
    · simp
    · rename_i w s1 h
      exact pathRead_keep h

@[simp] theorem spaceWrite_fr (p : Path) (off : ℕ) (width : ℕ) (v : W64) (s : State) :
    (spaceWrite p off width v s).pending = s.pending := by
  simp only [spaceWrite]; (repeat' split) <;> (simp [*]; done)

@[simp] theorem replyRead_fr (p : Path) (bytes : ℕ) (w : W64) (s : State) :
    (replyRead p bytes w s).pending = s.pending ∧ (replyRead p bytes w s).sec = s.sec := by
  simp only [replyRead]; (repeat' split) <;> (simp [*]; done)

@[simp] theorem debugError_fr (write : Bool) (cause : ℕ) (s : State) :
    (debugError write cause s).pending = s.pending ∧ (debugError write cause s).sec = s.sec := by
  simp only [debugError]; (repeat' split) <;> (simp [*]; done)

@[simp] theorem debugAccess_fr (code : ℕ) (sub : ℕ) (off : ℕ) (width : ℕ) (write : Option W64) (s : State) :
    (debugAccess code sub off width write s).pending = s.pending ∧
    (debugAccess code sub off width write s).sec = s.sec := by
  simp only [debugAccess]; (repeat' split) <;> (simp [*]; done)

@[simp] theorem blockRead_fr (c : MCmd) (s : State) :
    (blockRead c s).pending = s.pending ∧ (blockRead c s).sec = s.sec := by
  simp only [blockRead]; (repeat' split) <;> (simp [*]; done)

@[simp] theorem blockWrite_fr (c : MCmd) (s : State) :
    (blockWrite c s).pending = s.pending ∧ (blockWrite c s).sec = s.sec := by
  simp only [blockWrite]; (repeat' split) <;> (simp [*]; done)

theorem coreLoaded_keep (c a : Nat) (kind : LoadKind) (r : List (Byte × Bool) × State) :
    (coreLoaded c a kind r).pending = r.2.pending ∧ (coreLoaded c a kind r).sec = r.2.sec := by
  unfold coreLoaded
  split <;> simp

@[simp] theorem coreLoad_fr (c : CoreId) (pa : PAddr) (n : ℕ) (kind : LoadKind) (s : State) :
    (coreLoad c pa n kind s).pending = s.pending ∧ (coreLoad c pa n kind s).sec = s.sec := by
  unfold coreLoad
  dsimp only
  split
  · simp only [homeRequest_fr, and_self]
  · simp only [coreFault_fr, and_self]
  · split
    · simp only [coreFault_fr, and_self]
    · split
      · simp only [replyRead_fr, spaceRead_fr, and_self]
      · simp only [coreLoaded_keep, and_self]
      · simp only [coreLoaded_keep, hostRead_fr, and_self]

@[simp] theorem coreStore_fr (c : CoreId) (pa : PAddr) (data : List Byte) (kind : StoreKind) (s : State) :
    (coreStore c pa data kind s).pending = s.pending := by
  simp only [coreStore]; (repeat' split) <;> (simp [*]; done)

@[simp] theorem eventRoute_fr (c : MCmd) (s : State) :
    (eventRoute c s).pending = s.pending ∧ (eventRoute c s).sec = s.sec := by
  simp only [eventRoute]; (repeat' split) <;> (simp [*]; done)

@[simp] theorem sendRouted_fr (src : ℕ) (s : State) :
    (sendRouted src s).pending = s.pending ∧ (sendRouted src s).sec = s.sec := by
  simp only [sendRouted]; (repeat' split) <;> (simp [*]; done)

@[simp] theorem appendRecord_fr (r : EvRec) (s : State) :
    (appendRecord r s).pending = s.pending ∧ (appendRecord r s).sec = s.sec := by
  simp only [appendRecord]; (repeat' split) <;> (simp [*]; done)

@[simp] theorem eventLogRead_fr (c : MCmd) (s : State) :
    (eventLogRead c s).pending = s.pending ∧ (eventLogRead c s).sec = s.sec := by
  simp only [eventLogRead]; (repeat' split) <;> (simp [*]; done)

@[simp] theorem telemetryWindow_fr (c : MCmd) (s : State) :
    (telemetryWindow c s).pending = s.pending ∧ (telemetryWindow c s).sec = s.sec := by
  simp only [telemetryWindow]; (repeat' split) <;> (simp [*]; done)

@[simp] theorem telValues_fr (a0 : List (BitVec 32)) (a1 : State) :
    (telValues a0 a1).2.pending = a1.pending ∧ (telValues a0 a1).2.sec = a1.sec := by
  induction a0 generalizing a1 with
  | nil => simp [telValues]
  | cons r rs ih =>
    unfold telValues
    dsimp only
    rw [(ih _).1, (ih _).2]
    cases h : regRead r.toNat a1 with
    | none => simp
    | some x => exact regRead_keep (w := x.1) h

@[simp] theorem telemetryPeriod_fr (k : ℕ) (s : State) :
    (telemetryPeriod k s).pending = s.pending ∧ (telemetryPeriod k s).sec = s.sec := by
  simp only [telemetryPeriod]; (repeat' split) <;> (simp [*]; done)

end Sys2Proof.Machine
end

