-- ==== Sys2Proof/Laws/Keeps.lean ====
section
/-! SUPPORT. For each command: it completes, and the commands that wait stay as they are. Device time passing
keeps them too. -/

set_option linter.all false

namespace Sys2Proof.Machine

@[simp] theorem wiped_pending (s : State) : (wiped s).pending = s.pending := rfl

@[simp] theorem shutDown_pending (cause : Byte) (s : State) : (shutDown cause s).pending = s.pending := by
  unfold shutDown
  split <;> rfl

@[simp] theorem powerOn_pending (s : State) : (powerOn s).pending = s.pending := by
  unfold powerOn
  dsimp only
  split <;> simp

@[simp] theorem resetBase_pending (kind : Byte) (keep dropped : Bool) (s : State) :
    (resetBase kind keep dropped s).pending = s.pending := rfl

@[simp] theorem deviceReset_pending (kind : Byte) (preserve : Bool) (s : State) :
    (deviceReset kind preserve s).pending = s.pending := by
  unfold deviceReset
  dsimp only
  split <;> simp

theorem serve_pending (m : MbxId) (id : Nat) (f : MCmd → State → State) (s : State)
    (h : ∀ c x, (f c x).pending = x.pending) : (serve m id f s).pending = s.pending := by
  unfold serve
  split
  · rfl
  · dsimp only
    split <;> simp [h]

@[simp] theorem resetNAssert_pending (s : State) : (resetNAssert s).pending = s.pending := by
  unfold resetNAssert
  dsimp only
  split <;> simp

@[simp] theorem bridgeSegmentDown_pending (seg : Nat) (s : State) :
    (bridgeSegmentDown seg s).pending = s.pending := by
  unfold bridgeSegmentDown
  (repeat' split) <;> simp

theorem execRegisterWrite_keeps (p : Path) (off : BitVec 24) (width : Nat) (v : W64) (s : State) :
    ∃ t_, execRegisterWrite p off width v s = .next t_ ∧ t_.pending = s.pending := by
  unfold execRegisterWrite
  try dsimp only
  first
  | exact ⟨_, rfl, rfl⟩
  | (refine ⟨_, rfl, ?_⟩; (repeat' split) <;> (simp; done))
  | ((repeat' split) <;> (refine ⟨_, rfl, ?_⟩; (repeat' split) <;> (simp; done)))

theorem execDeviceTimeCompare_keeps (drift : Int) (s : State) :
    ∃ t_, execDeviceTimeCompare drift s = .next t_ ∧ t_.pending = s.pending := by
  unfold execDeviceTimeCompare
  try dsimp only
  first
  | exact ⟨_, rfl, rfl⟩
  | (refine ⟨_, rfl, ?_⟩; (repeat' split) <;> (simp; done))
  | ((repeat' split) <;> (refine ⟨_, rfl, ?_⟩; (repeat' split) <;> (simp; done)))

theorem execCoreLoad_keeps (c : CoreId) (pa : PAddr) (bytes : Nat) (kind : LoadKind) (s : State) :
    ∃ t_, execCoreLoad c pa bytes kind s = .next t_ ∧ t_.pending = s.pending := by
  unfold execCoreLoad
  try dsimp only
  first
  | exact ⟨_, rfl, rfl⟩
  | (refine ⟨_, rfl, ?_⟩; (repeat' split) <;> (simp; done))
  | ((repeat' split) <;> (refine ⟨_, rfl, ?_⟩; (repeat' split) <;> (simp; done)))

theorem execCoreStore_keeps (c : CoreId) (pa : PAddr) (data : List Byte) (kind : StoreKind) (s : State) :
    ∃ t_, execCoreStore c pa data kind s = .next t_ ∧ t_.pending = s.pending := by
  unfold execCoreStore
  try dsimp only
  first
  | exact ⟨_, rfl, rfl⟩
  | (refine ⟨_, rfl, ?_⟩; (repeat' split) <;> (simp; done))
  | ((repeat' split) <;> (refine ⟨_, rfl, ?_⟩; (repeat' split) <;> (simp; done)))

theorem execCboClean_keeps (c : CoreId) (pa : PAddr) (s : State) :
    ∃ t_, execCboClean c pa s = .next t_ ∧ t_.pending = s.pending := by
  unfold execCboClean
  try dsimp only
  first
  | exact ⟨_, rfl, rfl⟩
  | (refine ⟨_, rfl, ?_⟩; (repeat' split) <;> (simp; done))
  | ((repeat' split) <;> (refine ⟨_, rfl, ?_⟩; (repeat' split) <;> (simp; done)))

theorem execCboFlush_keeps (c : CoreId) (pa : PAddr) (s : State) :
    ∃ t_, execCboFlush c pa s = .next t_ ∧ t_.pending = s.pending := by
  unfold execCboFlush
  try dsimp only
  first
  | exact ⟨_, rfl, rfl⟩
  | (refine ⟨_, rfl, ?_⟩; (repeat' split) <;> (simp; done))
  | ((repeat' split) <;> (refine ⟨_, rfl, ?_⟩; (repeat' split) <;> (simp; done)))

theorem execCboInval_keeps (c : CoreId) (pa : PAddr) (s : State) :
    ∃ t_, execCboInval c pa s = .next t_ ∧ t_.pending = s.pending := by
  unfold execCboInval
  try dsimp only
  first
  | exact ⟨_, rfl, rfl⟩
  | (refine ⟨_, rfl, ?_⟩; (repeat' split) <;> (simp; done))
  | ((repeat' split) <;> (refine ⟨_, rfl, ?_⟩; (repeat' split) <;> (simp; done)))

theorem execCboZero_keeps (c : CoreId) (pa : PAddr) (s : State) :
    ∃ t_, execCboZero c pa s = .next t_ ∧ t_.pending = s.pending := by
  unfold execCboZero
  try dsimp only
  first
  | exact ⟨_, rfl, rfl⟩
  | (refine ⟨_, rfl, ?_⟩; (repeat' split) <;> (simp; done))
  | ((repeat' split) <;> (refine ⟨_, rfl, ?_⟩; (repeat' split) <;> (simp; done)))

theorem execMipisend_keeps (c : CoreId) (v : W64) (s : State) :
    ∃ t_, execMipisend c v s = .next t_ ∧ t_.pending = s.pending := by
  unfold execMipisend
  try dsimp only
  first
  | exact ⟨_, rfl, rfl⟩
  | (refine ⟨_, rfl, ?_⟩; (repeat' split) <;> (simp; done))
  | ((repeat' split) <;> (refine ⟨_, rfl, ?_⟩; (repeat' split) <;> (simp; done)))

theorem execSipisend_keeps (c : CoreId) (v : W64) (s : State) :
    ∃ t_, execSipisend c v s = .next t_ ∧ t_.pending = s.pending := by
  unfold execSipisend
  try dsimp only
  first
  | exact ⟨_, rfl, rfl⟩
  | (refine ⟨_, rfl, ?_⟩; (repeat' split) <;> (simp; done))
  | ((repeat' split) <;> (refine ⟨_, rfl, ?_⟩; (repeat' split) <;> (simp; done)))

theorem execMerrinfoRead_keeps (c : CoreId) (s : State) :
    ∃ t_, execMerrinfoRead c s = .next t_ ∧ t_.pending = s.pending := by
  unfold execMerrinfoRead
  try dsimp only
  first
  | exact ⟨_, rfl, rfl⟩
  | (refine ⟨_, rfl, ?_⟩; (repeat' split) <;> (simp; done))
  | ((repeat' split) <;> (refine ⟨_, rfl, ?_⟩; (repeat' split) <;> (simp; done)))

theorem execMachineTimer_keeps (c : CoreId) (cmp : W64) (s : State) :
    ∃ t_, execMachineTimer c cmp s = .next t_ ∧ t_.pending = s.pending := by
  unfold execMachineTimer
  try dsimp only
  first
  | exact ⟨_, rfl, rfl⟩
  | (refine ⟨_, rfl, ?_⟩; (repeat' split) <;> (simp; done))
  | ((repeat' split) <;> (refine ⟨_, rfl, ?_⟩; (repeat' split) <;> (simp; done)))

theorem execHomeCoreRead_keeps (c : CoreId) (pa : PAddr) (depth : Nat) (s : State) :
    ∃ t_, execHomeCoreRead c pa depth s = .next t_ ∧ t_.pending = s.pending := by
  unfold execHomeCoreRead
  try dsimp only
  first
  | exact ⟨_, rfl, rfl⟩
  | (refine ⟨_, rfl, ?_⟩; (repeat' split) <;> (simp; done))
  | ((repeat' split) <;> (refine ⟨_, rfl, ?_⟩; (repeat' split) <;> (simp; done)))

theorem execHomeCoreWrite_keeps (c : CoreId) (pa : PAddr) (s : State) :
    ∃ t_, execHomeCoreWrite c pa s = .next t_ ∧ t_.pending = s.pending := by
  unfold execHomeCoreWrite
  try dsimp only
  first
  | exact ⟨_, rfl, rfl⟩
  | (refine ⟨_, rfl, ?_⟩; (repeat' split) <;> (simp; done))
  | ((repeat' split) <;> (refine ⟨_, rfl, ?_⟩; (repeat' split) <;> (simp; done)))

theorem execHomeEngineRead_keeps (eng : BitVec 8) (pa : PAddr) (bytes : Nat) (streaming noRemote : Bool) (depth : Nat) (s : State) :
    ∃ t_, execHomeEngineRead eng pa bytes streaming noRemote depth s = .next t_ ∧ t_.pending = s.pending := by
  unfold execHomeEngineRead
  try dsimp only
  first
  | exact ⟨_, rfl, rfl⟩
  | (refine ⟨_, rfl, ?_⟩; (repeat' split) <;> (simp; done))
  | ((repeat' split) <;> (refine ⟨_, rfl, ?_⟩; (repeat' split) <;> (simp; done)))

theorem execHomeEngineWrite_keeps (_eng : BitVec 8) (pa : PAddr) (data : List Byte) (poison streaming : Bool) (s : State) :
    ∃ t_, execHomeEngineWrite _eng pa data poison streaming s = .next t_ ∧ t_.pending = s.pending := by
  unfold execHomeEngineWrite
  try dsimp only
  first
  | exact ⟨_, rfl, rfl⟩
  | (refine ⟨_, rfl, ?_⟩; (repeat' split) <;> (simp; done))
  | ((repeat' split) <;> (refine ⟨_, rfl, ?_⟩; (repeat' split) <;> (simp; done)))

theorem execHolderAcknowledge_keeps (pa : PAddr) (holder : Holder) (s : State) :
    ∃ t_, execHolderAcknowledge pa holder s = .next t_ ∧ t_.pending = s.pending := by
  unfold execHolderAcknowledge
  try dsimp only
  first
  | exact ⟨_, rfl, rfl⟩
  | (refine ⟨_, rfl, ?_⟩; (repeat' split) <;> (simp; done))
  | ((repeat' split) <;> (refine ⟨_, rfl, ?_⟩; (repeat' split) <;> (simp; done)))

theorem execEvictionBufferDrain_keeps (c : CisternId) (s : State) :
    ∃ t_, execEvictionBufferDrain c s = .next t_ ∧ t_.pending = s.pending := by
  unfold execEvictionBufferDrain
  try dsimp only
  first
  | exact ⟨_, rfl, rfl⟩
  | (refine ⟨_, rfl, ?_⟩; (repeat' split) <;> (simp; done))
  | ((repeat' split) <;> (refine ⟨_, rfl, ?_⟩; (repeat' split) <;> (simp; done)))

theorem execSectorRead_keeps (pc : PcId) (sector : Nat) (errs : List (Fin 36 × Byte)) (s : State) :
    ∃ t_, execSectorRead pc sector errs s = .next t_ ∧ t_.pending = s.pending := by
  unfold execSectorRead
  try dsimp only
  first
  | exact ⟨_, rfl, rfl⟩
  | (refine ⟨_, rfl, ?_⟩; (repeat' split) <;> (simp; done))
  | ((repeat' split) <;> (refine ⟨_, rfl, ?_⟩; (repeat' split) <;> (simp; done)))

theorem execCorrectedWriteBack_keeps (pc : PcId) (sector : Nat) (s : State) :
    ∃ t_, execCorrectedWriteBack pc sector s = .next t_ ∧ t_.pending = s.pending := by
  unfold execCorrectedWriteBack
  try dsimp only
  first
  | exact ⟨_, rfl, rfl⟩
  | (refine ⟨_, rfl, ?_⟩; (repeat' split) <;> (simp; done))
  | ((repeat' split) <;> (refine ⟨_, rfl, ?_⟩; (repeat' split) <;> (simp; done)))

theorem execWcbEntryTimeout_keeps (k : StackId) (s : State) :
    ∃ t_, execWcbEntryTimeout k s = .next t_ ∧ t_.pending = s.pending := by
  unfold execWcbEntryTimeout
  try dsimp only
  first
  | exact ⟨_, rfl, rfl⟩
  | (refine ⟨_, rfl, ?_⟩; (repeat' split) <;> (simp; done))
  | ((repeat' split) <;> (refine ⟨_, rfl, ?_⟩; (repeat' split) <;> (simp; done)))

theorem execPatrolScrub_keeps (k : StackId) (errs : List (Fin 36 × Byte)) (s : State) :
    ∃ t_, execPatrolScrub k errs s = .next t_ ∧ t_.pending = s.pending := by
  unfold execPatrolScrub
  try dsimp only
  first
  | exact ⟨_, rfl, rfl⟩
  | (refine ⟨_, rfl, ?_⟩; (repeat' split) <;> (simp; done))
  | ((repeat' split) <;> (refine ⟨_, rfl, ?_⟩; (repeat' split) <;> (simp; done)))

theorem execRetuneSchedule_keeps (k : StackId) (temp : BitVec 8) (s : State) :
    ∃ t_, execRetuneSchedule k temp s = .next t_ ∧ t_.pending = s.pending := by
  unfold execRetuneSchedule
  try dsimp only
  first
  | exact ⟨_, rfl, rfl⟩
  | (refine ⟨_, rfl, ?_⟩; (repeat' split) <;> (simp; done))
  | ((repeat' split) <;> (refine ⟨_, rfl, ?_⟩; (repeat' split) <;> (simp; done)))

theorem execRetuneStart_keeps (p : PcId) (s : State) :
    ∃ t_, execRetuneStart p s = .next t_ ∧ t_.pending = s.pending := by
  unfold execRetuneStart
  try dsimp only
  first
  | exact ⟨_, rfl, rfl⟩
  | (refine ⟨_, rfl, ?_⟩; (repeat' split) <;> (simp; done))
  | ((repeat' split) <;> (refine ⟨_, rfl, ?_⟩; (repeat' split) <;> (simp; done)))

theorem execRetuneEnd_keeps (p : PcId) (ok : Bool) (s : State) :
    ∃ t_, execRetuneEnd p ok s = .next t_ ∧ t_.pending = s.pending := by
  unfold execRetuneEnd
  try dsimp only
  first
  | exact ⟨_, rfl, rfl⟩
  | (refine ⟨_, rfl, ?_⟩; (repeat' split) <;> (simp; done))
  | ((repeat' split) <;> (refine ⟨_, rfl, ?_⟩; (repeat' split) <;> (simp; done)))

theorem execMemConfig_keeps (m : MbxId) (s : State) :
    ∃ t_, execMemConfig m s = .next t_ ∧ t_.pending = s.pending := by
  unfold execMemConfig
  try dsimp only
  first
  | exact ⟨_, rfl, rfl⟩
  | (refine ⟨_, rfl, ?_⟩; (repeat' split) <;> (simp; done))
  | ((repeat' split) <;> (refine ⟨_, rfl, ?_⟩; (repeat' split) <;> (simp; done)))

theorem execMemErrorLog_keeps (m : MbxId) (s : State) :
    ∃ t_, execMemErrorLog m s = .next t_ ∧ t_.pending = s.pending := by
  unfold execMemErrorLog
  try dsimp only
  first
  | exact ⟨_, rfl, rfl⟩
  | (refine ⟨_, rfl, ?_⟩; (repeat' split) <;> (simp; done))
  | ((repeat' split) <;> (refine ⟨_, rfl, ?_⟩; (repeat' split) <;> (simp; done)))

theorem execPcRetune_keeps (m : MbxId) (s : State) :
    ∃ t_, execPcRetune m s = .next t_ ∧ t_.pending = s.pending := by
  unfold execPcRetune
  try dsimp only
  first
  | exact ⟨_, rfl, rfl⟩
  | (refine ⟨_, rfl, ?_⟩; (repeat' split) <;> (simp; done))
  | ((repeat' split) <;> (refine ⟨_, rfl, ?_⟩; (repeat' split) <;> (simp; done)))

theorem execStackMargin_keeps (m : MbxId) (s : State) :
    ∃ t_, execStackMargin m s = .next t_ ∧ t_.pending = s.pending := by
  unfold execStackMargin
  try dsimp only
  first
  | exact ⟨_, rfl, rfl⟩
  | (refine ⟨_, rfl, ?_⟩; (repeat' split) <;> (simp; done))
  | ((repeat' split) <;> (refine ⟨_, rfl, ?_⟩; (repeat' split) <;> (simp; done)))

theorem execStackOffline_keeps (m : MbxId) (s : State) :
    ∃ t_, execStackOffline m s = .next t_ ∧ t_.pending = s.pending := by
  unfold execStackOffline
  try dsimp only
  first
  | exact ⟨_, rfl, rfl⟩
  | (refine ⟨_, rfl, ?_⟩; (repeat' split) <;> (simp; done))
  | ((repeat' split) <;> (refine ⟨_, rfl, ?_⟩; (repeat' split) <;> (simp; done)))

theorem execStackOnline_keeps (m : MbxId) (s : State) :
    ∃ t_, execStackOnline m s = .next t_ ∧ t_.pending = s.pending := by
  unfold execStackOnline
  try dsimp only
  first
  | exact ⟨_, rfl, rfl⟩
  | (refine ⟨_, rfl, ?_⟩; (repeat' split) <;> (simp; done))
  | ((repeat' split) <;> (refine ⟨_, rfl, ?_⟩; (repeat' split) <;> (simp; done)))

theorem execCacheLock_keeps (m : MbxId) (s : State) :
    ∃ t_, execCacheLock m s = .next t_ ∧ t_.pending = s.pending := by
  unfold execCacheLock
  try dsimp only
  first
  | exact ⟨_, rfl, rfl⟩
  | (refine ⟨_, rfl, ?_⟩; (repeat' split) <;> (simp; done))
  | ((repeat' split) <;> (refine ⟨_, rfl, ?_⟩; (repeat' split) <;> (simp; done)))

theorem execCacheUnlock_keeps (m : MbxId) (s : State) :
    ∃ t_, execCacheUnlock m s = .next t_ ∧ t_.pending = s.pending := by
  unfold execCacheUnlock
  try dsimp only
  first
  | exact ⟨_, rfl, rfl⟩
  | (refine ⟨_, rfl, ?_⟩; (repeat' split) <;> (simp; done))
  | ((repeat' split) <;> (refine ⟨_, rfl, ?_⟩; (repeat' split) <;> (simp; done)))

theorem execStreamLaunch_keeps (q : QueueId) (s : State) :
    ∃ t_, execStreamLaunch q s = .next t_ ∧ t_.pending = s.pending := by
  unfold execStreamLaunch
  try dsimp only
  first
  | exact ⟨_, rfl, rfl⟩
  | (refine ⟨_, rfl, ?_⟩; (repeat' split) <;> (simp; done))
  | ((repeat' split) <;> (refine ⟨_, rfl, ?_⟩; (repeat' split) <;> (simp; done)))

theorem execStreamLoadComplete_keeps (e : StreamEng) (s : State) :
    ∃ t_, execStreamLoadComplete e s = .next t_ ∧ t_.pending = s.pending := by
  unfold execStreamLoadComplete
  try dsimp only
  first
  | exact ⟨_, rfl, rfl⟩
  | (refine ⟨_, rfl, ?_⟩; (repeat' split) <;> (simp; done))
  | ((repeat' split) <;> (refine ⟨_, rfl, ?_⟩; (repeat' split) <;> (simp; done)))

theorem execLockGroupStart_keeps (e : StreamEng) (s : State) :
    ∃ t_, execLockGroupStart e s = .next t_ ∧ t_.pending = s.pending := by
  unfold execLockGroupStart
  try dsimp only
  first
  | exact ⟨_, rfl, rfl⟩
  | (refine ⟨_, rfl, ?_⟩; (repeat' split) <;> (simp; done))
  | ((repeat' split) <;> (refine ⟨_, rfl, ?_⟩; (repeat' split) <;> (simp; done)))

theorem execBundleIssue_keeps (n : ArrayId) (s : State) :
    ∃ t_, execBundleIssue n s = .next t_ ∧ t_.pending = s.pending := by
  unfold execBundleIssue
  try dsimp only
  first
  | exact ⟨_, rfl, rfl⟩
  | (refine ⟨_, rfl, ?_⟩; (repeat' split) <;> (simp; done))
  | ((repeat' split) <;> (refine ⟨_, rfl, ?_⟩; (repeat' split) <;> (simp; done)))

theorem execAccumulatorRowWrite_keeps (n : ArrayId) (s : State) :
    ∃ t_, execAccumulatorRowWrite n s = .next t_ ∧ t_.pending = s.pending := by
  unfold execAccumulatorRowWrite
  try dsimp only
  first
  | exact ⟨_, rfl, rfl⟩
  | (refine ⟨_, rfl, ?_⟩; (repeat' split) <;> (simp; done))
  | ((repeat' split) <;> (refine ⟨_, rfl, ?_⟩; (repeat' split) <;> (simp; done)))

theorem execPreloadEnd_keeps (n : ArrayId) (buf : Bool) (s : State) :
    ∃ t_, execPreloadEnd n buf s = .next t_ ∧ t_.pending = s.pending := by
  unfold execPreloadEnd
  try dsimp only
  first
  | exact ⟨_, rfl, rfl⟩
  | (refine ⟨_, rfl, ?_⟩; (repeat' split) <;> (simp; done))
  | ((repeat' split) <;> (refine ⟨_, rfl, ?_⟩; (repeat' split) <;> (simp; done)))

theorem execTriggerComplete_keeps (e : StreamEng) (k : Fin 32) (s : State) :
    ∃ t_, execTriggerComplete e k s = .next t_ ∧ t_.pending = s.pending := by
  unfold execTriggerComplete
  try dsimp only
  first
  | exact ⟨_, rfl, rfl⟩
  | (refine ⟨_, rfl, ?_⟩; (repeat' split) <;> (simp; done))
  | ((repeat' split) <;> (refine ⟨_, rfl, ?_⟩; (repeat' split) <;> (simp; done)))

theorem execSemaphoreWaitPass_keeps (e : StreamEng) (s : State) :
    ∃ t_, execSemaphoreWaitPass e s = .next t_ ∧ t_.pending = s.pending := by
  unfold execSemaphoreWaitPass
  try dsimp only
  first
  | exact ⟨_, rfl, rfl⟩
  | (refine ⟨_, rfl, ?_⟩; (repeat' split) <;> (simp; done))
  | ((repeat' split) <;> (refine ⟨_, rfl, ?_⟩; (repeat' split) <;> (simp; done)))

theorem execGroupWaitRelease_keeps (e : StreamEng) (s : State) :
    ∃ t_, execGroupWaitRelease e s = .next t_ ∧ t_.pending = s.pending := by
  unfold execGroupWaitRelease
  try dsimp only
  first
  | exact ⟨_, rfl, rfl⟩
  | (refine ⟨_, rfl, ?_⟩; (repeat' split) <;> (simp; done))
  | ((repeat' split) <;> (refine ⟨_, rfl, ?_⟩; (repeat' split) <;> (simp; done)))

theorem execWithheldCycle_keeps (n : ArrayId) (s : State) :
    ∃ t_, execWithheldCycle n s = .next t_ ∧ t_.pending = s.pending := by
  unfold execWithheldCycle
  try dsimp only
  first
  | exact ⟨_, rfl, rfl⟩
  | (refine ⟨_, rfl, ?_⟩; (repeat' split) <;> (simp; done))
  | ((repeat' split) <;> (refine ⟨_, rfl, ?_⟩; (repeat' split) <;> (simp; done)))

theorem execDutyBoundary_keeps (n : ArrayId) (s : State) :
    ∃ t_, execDutyBoundary n s = .next t_ ∧ t_.pending = s.pending := by
  unfold execDutyBoundary
  try dsimp only
  first
  | exact ⟨_, rfl, rfl⟩
  | (refine ⟨_, rfl, ?_⟩; (repeat' split) <;> (simp; done))
  | ((repeat' split) <;> (refine ⟨_, rfl, ?_⟩; (repeat' split) <;> (simp; done)))

theorem execDroopStretch_keeps (_t : CisternId) (s : State) :
    ∃ t_, execDroopStretch _t s = .next t_ ∧ t_.pending = s.pending := by
  unfold execDroopStretch
  try dsimp only
  first
  | exact ⟨_, rfl, rfl⟩
  | (refine ⟨_, rfl, ?_⟩; (repeat' split) <;> (simp; done))
  | ((repeat' split) <;> (refine ⟨_, rfl, ?_⟩; (repeat' split) <;> (simp; done)))

theorem execStreamComplete_keeps (e : StreamEng) (s : State) :
    ∃ t_, execStreamComplete e s = .next t_ ∧ t_.pending = s.pending := by
  unfold execStreamComplete
  try dsimp only
  first
  | exact ⟨_, rfl, rfl⟩
  | (refine ⟨_, rfl, ?_⟩; (repeat' split) <;> (simp; done))
  | ((repeat' split) <;> (refine ⟨_, rfl, ?_⟩; (repeat' split) <;> (simp; done)))

theorem execAryCounterClear_keeps (n : ArrayId) (v : W64) (s : State) :
    ∃ t_, execAryCounterClear n v s = .next t_ ∧ t_.pending = s.pending := by
  unfold execAryCounterClear
  try dsimp only
  first
  | exact ⟨_, rfl, rfl⟩
  | (refine ⟨_, rfl, ?_⟩; (repeat' split) <;> (simp; done))
  | ((repeat' split) <;> (refine ⟨_, rfl, ?_⟩; (repeat' split) <;> (simp; done)))

theorem execAryStreamClear_keeps (n : ArrayId) (v : W64) (s : State) :
    ∃ t_, execAryStreamClear n v s = .next t_ ∧ t_.pending = s.pending := by
  unfold execAryStreamClear
  try dsimp only
  first
  | exact ⟨_, rfl, rfl⟩
  | (refine ⟨_, rfl, ?_⟩; (repeat' split) <;> (simp; done))
  | ((repeat' split) <;> (refine ⟨_, rfl, ?_⟩; (repeat' split) <;> (simp; done)))

theorem execVectorBundleIssue_keeps (n : ArrayId) (s : State) :
    ∃ t_, execVectorBundleIssue n s = .next t_ ∧ t_.pending = s.pending := by
  unfold execVectorBundleIssue
  try dsimp only
  first
  | exact ⟨_, rfl, rfl⟩
  | (refine ⟨_, rfl, ?_⟩; (repeat' split) <;> (simp; done))
  | ((repeat' split) <;> (refine ⟨_, rfl, ?_⟩; (repeat' split) <;> (simp; done)))

theorem execVectorResultWrite_keeps (n : ArrayId) (s : State) :
    ∃ t_, execVectorResultWrite n s = .next t_ ∧ t_.pending = s.pending := by
  unfold execVectorResultWrite
  try dsimp only
  first
  | exact ⟨_, rfl, rfl⟩
  | (refine ⟨_, rfl, ?_⟩; (repeat' split) <;> (simp; done))
  | ((repeat' split) <;> (refine ⟨_, rfl, ?_⟩; (repeat' split) <;> (simp; done)))

theorem execVecCounterClear_keeps (n : ArrayId) (v : W64) (s : State) :
    ∃ t_, execVecCounterClear n v s = .next t_ ∧ t_.pending = s.pending := by
  unfold execVecCounterClear
  try dsimp only
  first
  | exact ⟨_, rfl, rfl⟩
  | (refine ⟨_, rfl, ?_⟩; (repeat' split) <;> (simp; done))
  | ((repeat' split) <;> (refine ⟨_, rfl, ?_⟩; (repeat' split) <;> (simp; done)))

theorem execDoorbell_keeps (q : QueueId) (v : W64) (s : State) :
    ∃ t_, execDoorbell q v s = .next t_ ∧ t_.pending = s.pending := by
  unfold execDoorbell
  try dsimp only
  first
  | exact ⟨_, rfl, rfl⟩
  | (refine ⟨_, rfl, ?_⟩; (repeat' split) <;> (simp; done))
  | ((repeat' split) <;> (refine ⟨_, rfl, ?_⟩; (repeat' split) <;> (simp; done)))

theorem execDescriptorFetchReturn_keeps (q : QueueId) (s : State) :
    ∃ t_, execDescriptorFetchReturn q s = .next t_ ∧ t_.pending = s.pending := by
  unfold execDescriptorFetchReturn
  try dsimp only
  first
  | exact ⟨_, rfl, rfl⟩
  | (refine ⟨_, rfl, ?_⟩; (repeat' split) <;> (simp; done))
  | ((repeat' split) <;> (refine ⟨_, rfl, ?_⟩; (repeat' split) <;> (simp; done)))

theorem execDescriptorRefetch_keeps (q : QueueId) (s : State) :
    ∃ t_, execDescriptorRefetch q s = .next t_ ∧ t_.pending = s.pending := by
  unfold execDescriptorRefetch
  try dsimp only
  first
  | exact ⟨_, rfl, rfl⟩
  | (refine ⟨_, rfl, ?_⟩; (repeat' split) <;> (simp; done))
  | ((repeat' split) <;> (refine ⟨_, rfl, ?_⟩; (repeat' split) <;> (simp; done)))

theorem execQueueEnable_keeps (q : QueueId) (s : State) :
    ∃ t_, execQueueEnable q s = .next t_ ∧ t_.pending = s.pending := by
  unfold execQueueEnable
  try dsimp only
  first
  | exact ⟨_, rfl, rfl⟩
  | (refine ⟨_, rfl, ?_⟩; (repeat' split) <;> (simp; done))
  | ((repeat' split) <;> (refine ⟨_, rfl, ?_⟩; (repeat' split) <;> (simp; done)))

theorem execQueueDisable_keeps (q : QueueId) (s : State) :
    ∃ t_, execQueueDisable q s = .next t_ ∧ t_.pending = s.pending := by
  unfold execQueueDisable
  try dsimp only
  first
  | exact ⟨_, rfl, rfl⟩
  | (refine ⟨_, rfl, ?_⟩; (repeat' split) <;> (simp; done))
  | ((repeat' split) <;> (refine ⟨_, rfl, ?_⟩; (repeat' split) <;> (simp; done)))

theorem execQueueDrainEnd_keeps (q : QueueId) (s : State) :
    ∃ t_, execQueueDrainEnd q s = .next t_ ∧ t_.pending = s.pending := by
  unfold execQueueDrainEnd
  try dsimp only
  first
  | exact ⟨_, rfl, rfl⟩
  | (refine ⟨_, rfl, ?_⟩; (repeat' split) <;> (simp; done))
  | ((repeat' split) <;> (refine ⟨_, rfl, ?_⟩; (repeat' split) <;> (simp; done)))

theorem execQueueStop_keeps (q : QueueId) (s : State) :
    ∃ t_, execQueueStop q s = .next t_ ∧ t_.pending = s.pending := by
  unfold execQueueStop
  try dsimp only
  first
  | exact ⟨_, rfl, rfl⟩
  | (refine ⟨_, rfl, ?_⟩; (repeat' split) <;> (simp; done))
  | ((repeat' split) <;> (refine ⟨_, rfl, ?_⟩; (repeat' split) <;> (simp; done)))

theorem execQueueResume_keeps (q : QueueId) (s : State) :
    ∃ t_, execQueueResume q s = .next t_ ∧ t_.pending = s.pending := by
  unfold execQueueResume
  try dsimp only
  first
  | exact ⟨_, rfl, rfl⟩
  | (refine ⟨_, rfl, ?_⟩; (repeat' split) <;> (simp; done))
  | ((repeat' split) <;> (refine ⟨_, rfl, ?_⟩; (repeat' split) <;> (simp; done)))

theorem execCqHeadWrite_keeps (q : QueueId) (v : W64) (s : State) :
    ∃ t_, execCqHeadWrite q v s = .next t_ ∧ t_.pending = s.pending := by
  unfold execCqHeadWrite
  try dsimp only
  first
  | exact ⟨_, rfl, rfl⟩
  | (refine ⟨_, rfl, ?_⟩; (repeat' split) <;> (simp; done))
  | ((repeat' split) <;> (refine ⟨_, rfl, ?_⟩; (repeat' split) <;> (simp; done)))

theorem execIrqHoldoffExpiry_keeps (q : QueueId) (s : State) :
    ∃ t_, execIrqHoldoffExpiry q s = .next t_ ∧ t_.pending = s.pending := by
  unfold execIrqHoldoffExpiry
  try dsimp only
  first
  | exact ⟨_, rfl, rfl⟩
  | (refine ⟨_, rfl, ?_⟩; (repeat' split) <;> (simp; done))
  | ((repeat' split) <;> (refine ⟨_, rfl, ?_⟩; (repeat' split) <;> (simp; done)))

theorem execQdbCounterClear_keeps (q : QueueId) (v : W64) (s : State) :
    ∃ t_, execQdbCounterClear q v s = .next t_ ∧ t_.pending = s.pending := by
  unfold execQdbCounterClear
  try dsimp only
  first
  | exact ⟨_, rfl, rfl⟩
  | (refine ⟨_, rfl, ?_⟩; (repeat' split) <;> (simp; done))
  | ((repeat' split) <;> (refine ⟨_, rfl, ?_⟩; (repeat' split) <;> (simp; done)))

theorem execNop_keeps (q : QueueId) (s : State) :
    ∃ t_, execNop q s = .next t_ ∧ t_.pending = s.pending := by
  unfold execNop
  try dsimp only
  first
  | exact ⟨_, rfl, rfl⟩
  | (refine ⟨_, rfl, ?_⟩; (repeat' split) <;> (simp; done))
  | ((repeat' split) <;> (refine ⟨_, rfl, ?_⟩; (repeat' split) <;> (simp; done)))

theorem execCopy_keeps (q : QueueId) (s : State) :
    ∃ t_, execCopy q s = .next t_ ∧ t_.pending = s.pending := by
  unfold execCopy
  try dsimp only
  first
  | exact ⟨_, rfl, rfl⟩
  | (refine ⟨_, rfl, ?_⟩; (repeat' split) <;> (simp; done))
  | ((repeat' split) <;> (refine ⟨_, rfl, ?_⟩; (repeat' split) <;> (simp; done)))

theorem execCopy2d_keeps (q : QueueId) (s : State) :
    ∃ t_, execCopy2d q s = .next t_ ∧ t_.pending = s.pending := by
  unfold execCopy2d
  try dsimp only
  first
  | exact ⟨_, rfl, rfl⟩
  | (refine ⟨_, rfl, ?_⟩; (repeat' split) <;> (simp; done))
  | ((repeat' split) <;> (refine ⟨_, rfl, ?_⟩; (repeat' split) <;> (simp; done)))

theorem execFill_keeps (q : QueueId) (s : State) :
    ∃ t_, execFill q s = .next t_ ∧ t_.pending = s.pending := by
  unfold execFill
  try dsimp only
  first
  | exact ⟨_, rfl, rfl⟩
  | (refine ⟨_, rfl, ?_⟩; (repeat' split) <;> (simp; done))
  | ((repeat' split) <;> (refine ⟨_, rfl, ?_⟩; (repeat' split) <;> (simp; done)))

theorem execWriteImm_keeps (q : QueueId) (s : State) :
    ∃ t_, execWriteImm q s = .next t_ ∧ t_.pending = s.pending := by
  unfold execWriteImm
  try dsimp only
  first
  | exact ⟨_, rfl, rfl⟩
  | (refine ⟨_, rfl, ?_⟩; (repeat' split) <;> (simp; done))
  | ((repeat' split) <;> (refine ⟨_, rfl, ?_⟩; (repeat' split) <;> (simp; done)))

theorem execTransferComplete_keeps (q : QueueId) (s : State) :
    ∃ t_, execTransferComplete q s = .next t_ ∧ t_.pending = s.pending := by
  unfold execTransferComplete
  try dsimp only
  first
  | exact ⟨_, rfl, rfl⟩
  | (refine ⟨_, rfl, ?_⟩; (repeat' split) <;> (simp; done))
  | ((repeat' split) <;> (refine ⟨_, rfl, ?_⟩; (repeat' split) <;> (simp; done)))

theorem execInvalidate_keeps (q : QueueId) (s : State) :
    ∃ t_, execInvalidate q s = .next t_ ∧ t_.pending = s.pending := by
  unfold execInvalidate
  try dsimp only
  split
  · exact ⟨_, rfl, rfl⟩
  · refine ⟨_, rfl, ?_⟩
    repeat' (split <;> (try (rename_i heq; have hp := (congrArg (fun r => r.2.pending) heq).symm; simp at hp)))
    all_goals simp [*]

theorem execInvalidateComplete_keeps (q : QueueId) (s : State) :
    ∃ t_, execInvalidateComplete q s = .next t_ ∧ t_.pending = s.pending := by
  unfold execInvalidateComplete
  try dsimp only
  first
  | exact ⟨_, rfl, rfl⟩
  | (refine ⟨_, rfl, ?_⟩; (repeat' split) <;> (simp; done))
  | ((repeat' split) <;> (refine ⟨_, rfl, ?_⟩; (repeat' split) <;> (simp; done)))

theorem execMigrationService_keeps (s : State) :
    ∃ t_, execMigrationService s = .next t_ ∧ t_.pending = s.pending := by
  unfold execMigrationService
  try dsimp only
  first
  | exact ⟨_, rfl, rfl⟩
  | (refine ⟨_, rfl, ?_⟩; (repeat' split) <;> (simp; done))
  | ((repeat' split) <;> (refine ⟨_, rfl, ?_⟩; (repeat' split) <;> (simp; done)))

theorem execMigrationCopyComplete_keeps (vpage : PAddr) (ok : Bool) (s : State) :
    ∃ t_, execMigrationCopyComplete vpage ok s = .next t_ ∧ t_.pending = s.pending := by
  unfold execMigrationCopyComplete
  try dsimp only
  first
  | exact ⟨_, rfl, rfl⟩
  | (refine ⟨_, rfl, ?_⟩; (repeat' split) <;> (simp; done))
  | ((repeat' split) <;> (refine ⟨_, rfl, ?_⟩; (repeat' split) <;> (simp; done)))

theorem execFaultTimeout_keeps (vpage : PAddr) (s : State) :
    ∃ t_, execFaultTimeout vpage s = .next t_ ∧ t_.pending = s.pending := by
  unfold execFaultTimeout
  try dsimp only
  first
  | exact ⟨_, rfl, rfl⟩
  | (refine ⟨_, rfl, ?_⟩; (repeat' split) <;> (simp; done))
  | ((repeat' split) <;> (refine ⟨_, rfl, ?_⟩; (repeat' split) <;> (simp; done)))

theorem execXltNotifyRing_keeps (m : MbxId) (s : State) :
    ∃ t_, execXltNotifyRing m s = .next t_ ∧ t_.pending = s.pending := by
  unfold execXltNotifyRing
  try dsimp only
  first
  | exact ⟨_, rfl, rfl⟩
  | (refine ⟨_, rfl, ?_⟩; (repeat' split) <;> (simp; done))
  | ((repeat' split) <;> (refine ⟨_, rfl, ?_⟩; (repeat' split) <;> (simp; done)))

theorem execPageSupply_keeps (m : MbxId) (s : State) :
    ∃ t_, execPageSupply m s = .next t_ ∧ t_.pending = s.pending := by
  unfold execPageSupply
  try dsimp only
  first
  | exact ⟨_, rfl, rfl⟩
  | (refine ⟨_, rfl, ?_⟩; (repeat' split) <;> (simp; done))
  | ((repeat' split) <;> (refine ⟨_, rfl, ?_⟩; (repeat' split) <;> (simp; done)))

theorem execPageMigrate_keeps (m : MbxId) (s : State) :
    ∃ t_, execPageMigrate m s = .next t_ ∧ t_.pending = s.pending := by
  unfold execPageMigrate
  try dsimp only
  first
  | exact ⟨_, rfl, rfl⟩
  | (refine ⟨_, rfl, ?_⟩; (repeat' split) <;> (simp; done))
  | ((repeat' split) <;> (refine ⟨_, rfl, ?_⟩; (repeat' split) <;> (simp; done)))

theorem execKeyMap_keeps (m : MbxId) (s : State) :
    ∃ t_, execKeyMap m s = .next t_ ∧ t_.pending = s.pending := by
  unfold execKeyMap
  try dsimp only
  first
  | exact ⟨_, rfl, rfl⟩
  | (refine ⟨_, rfl, ?_⟩; (repeat' split) <;> (simp; done))
  | ((repeat' split) <;> (refine ⟨_, rfl, ?_⟩; (repeat' split) <;> (simp; done)))

theorem execXltCounterClear_keeps (v : W64) (s : State) :
    ∃ t_, execXltCounterClear v s = .next t_ ∧ t_.pending = s.pending := by
  unfold execXltCounterClear
  try dsimp only
  first
  | exact ⟨_, rfl, rfl⟩
  | (refine ⟨_, rfl, ?_⟩; (repeat' split) <;> (simp; done))
  | ((repeat' split) <;> (refine ⟨_, rfl, ?_⟩; (repeat' split) <;> (simp; done)))

theorem execAllReduce_keeps (q : QueueId) (s : State) :
    ∃ t_, execAllReduce q s = .next t_ ∧ t_.pending = s.pending := by
  unfold execAllReduce
  try dsimp only
  first
  | exact ⟨_, rfl, rfl⟩
  | (refine ⟨_, rfl, ?_⟩; (repeat' split) <;> (simp; done))
  | ((repeat' split) <;> (refine ⟨_, rfl, ?_⟩; (repeat' split) <;> (simp; done)))

theorem execReduceScatter_keeps (q : QueueId) (s : State) :
    ∃ t_, execReduceScatter q s = .next t_ ∧ t_.pending = s.pending := by
  unfold execReduceScatter
  try dsimp only
  first
  | exact ⟨_, rfl, rfl⟩
  | (refine ⟨_, rfl, ?_⟩; (repeat' split) <;> (simp; done))
  | ((repeat' split) <;> (refine ⟨_, rfl, ?_⟩; (repeat' split) <;> (simp; done)))

theorem execAllGather_keeps (q : QueueId) (s : State) :
    ∃ t_, execAllGather q s = .next t_ ∧ t_.pending = s.pending := by
  unfold execAllGather
  try dsimp only
  first
  | exact ⟨_, rfl, rfl⟩
  | (refine ⟨_, rfl, ?_⟩; (repeat' split) <;> (simp; done))
  | ((repeat' split) <;> (refine ⟨_, rfl, ?_⟩; (repeat' split) <;> (simp; done)))

theorem execBroadcast_keeps (q : QueueId) (s : State) :
    ∃ t_, execBroadcast q s = .next t_ ∧ t_.pending = s.pending := by
  unfold execBroadcast
  try dsimp only
  first
  | exact ⟨_, rfl, rfl⟩
  | (refine ⟨_, rfl, ?_⟩; (repeat' split) <;> (simp; done))
  | ((repeat' split) <;> (refine ⟨_, rfl, ?_⟩; (repeat' split) <;> (simp; done)))

theorem execReduce_keeps (q : QueueId) (s : State) :
    ∃ t_, execReduce q s = .next t_ ∧ t_.pending = s.pending := by
  unfold execReduce
  try dsimp only
  first
  | exact ⟨_, rfl, rfl⟩
  | (refine ⟨_, rfl, ?_⟩; (repeat' split) <;> (simp; done))
  | ((repeat' split) <;> (refine ⟨_, rfl, ?_⟩; (repeat' split) <;> (simp; done)))

theorem execAllToAll_keeps (q : QueueId) (s : State) :
    ∃ t_, execAllToAll q s = .next t_ ∧ t_.pending = s.pending := by
  unfold execAllToAll
  try dsimp only
  first
  | exact ⟨_, rfl, rfl⟩
  | (refine ⟨_, rfl, ?_⟩; (repeat' split) <;> (simp; done))
  | ((repeat' split) <;> (refine ⟨_, rfl, ?_⟩; (repeat' split) <;> (simp; done)))

theorem execBarrier_keeps (q : QueueId) (s : State) :
    ∃ t_, execBarrier q s = .next t_ ∧ t_.pending = s.pending := by
  unfold execBarrier
  try dsimp only
  first
  | exact ⟨_, rfl, rfl⟩
  | (refine ⟨_, rfl, ?_⟩; (repeat' split) <;> (simp; done))
  | ((repeat' split) <;> (refine ⟨_, rfl, ?_⟩; (repeat' split) <;> (simp; done)))

theorem execFlagReduce_keeps (q : QueueId) (s : State) :
    ∃ t_, execFlagReduce q s = .next t_ ∧ t_.pending = s.pending := by
  unfold execFlagReduce
  try dsimp only
  first
  | exact ⟨_, rfl, rfl⟩
  | (refine ⟨_, rfl, ?_⟩; (repeat' split) <;> (simp; done))
  | ((repeat' split) <;> (refine ⟨_, rfl, ?_⟩; (repeat' split) <;> (simp; done)))

theorem execCollectiveStartTime_keeps (g : GroupId) (s : State) :
    ∃ t_, execCollectiveStartTime g s = .next t_ ∧ t_.pending = s.pending := by
  unfold execCollectiveStartTime
  try dsimp only
  first
  | exact ⟨_, rfl, rfl⟩
  | (refine ⟨_, rfl, ?_⟩; (repeat' split) <;> (simp; done))
  | ((repeat' split) <;> (refine ⟨_, rfl, ?_⟩; (repeat' split) <;> (simp; done)))

theorem execSignatureMessage_keeps (m : SigMsg) (s : State) :
    ∃ t_, execSignatureMessage m s = .next t_ ∧ t_.pending = s.pending := by
  unfold execSignatureMessage
  try dsimp only
  first
  | exact ⟨_, rfl, rfl⟩
  | (refine ⟨_, rfl, ?_⟩; (repeat' split) <;> (simp; done))
  | ((repeat' split) <;> (refine ⟨_, rfl, ?_⟩; (repeat' split) <;> (simp; done)))

theorem execCollectiveDataMessage_keeps (m : DataMsg) (s : State) :
    ∃ t_, execCollectiveDataMessage m s = .next t_ ∧ t_.pending = s.pending := by
  unfold execCollectiveDataMessage
  try dsimp only
  first
  | exact ⟨_, rfl, rfl⟩
  | (refine ⟨_, rfl, ?_⟩; (repeat' split) <;> (simp; done))
  | ((repeat' split) <;> (refine ⟨_, rfl, ?_⟩; (repeat' split) <;> (simp; done)))

theorem execAbortNotice_keeps (g : GroupId) (seq : BitVec 20) (src : Nat) (c : AbortCause) (s : State) :
    ∃ t_, execAbortNotice g seq src c s = .next t_ ∧ t_.pending = s.pending := by
  unfold execAbortNotice
  try dsimp only
  first
  | exact ⟨_, rfl, rfl⟩
  | (refine ⟨_, rfl, ?_⟩; (repeat' split) <;> (simp; done))
  | ((repeat' split) <;> (refine ⟨_, rfl, ?_⟩; (repeat' split) <;> (simp; done)))

theorem execMemberTimeout_keeps (g : GroupId) (member : Nat) (s : State) :
    ∃ t_, execMemberTimeout g member s = .next t_ ∧ t_.pending = s.pending := by
  unfold execMemberTimeout
  try dsimp only
  first
  | exact ⟨_, rfl, rfl⟩
  | (refine ⟨_, rfl, ?_⟩; (repeat' split) <;> (simp; done))
  | ((repeat' split) <;> (refine ⟨_, rfl, ?_⟩; (repeat' split) <;> (simp; done)))

theorem execCollectiveDone_keeps (g : GroupId) (s : State) :
    ∃ t_, execCollectiveDone g s = .next t_ ∧ t_.pending = s.pending := by
  unfold execCollectiveDone
  try dsimp only
  first
  | exact ⟨_, rfl, rfl⟩
  | (refine ⟨_, rfl, ?_⟩; (repeat' split) <;> (simp; done))
  | ((repeat' split) <;> (refine ⟨_, rfl, ?_⟩; (repeat' split) <;> (simp; done)))

theorem execGroupTableSet_keeps (m : MbxId) (s : State) :
    ∃ t_, execGroupTableSet m s = .next t_ ∧ t_.pending = s.pending := by
  unfold execGroupTableSet
  try dsimp only
  first
  | exact ⟨_, rfl, rfl⟩
  | (refine ⟨_, rfl, ?_⟩; (repeat' split) <;> (simp; done))
  | ((repeat' split) <;> (refine ⟨_, rfl, ?_⟩; (repeat' split) <;> (simp; done)))

theorem execGroupLoad_keeps (m : MbxId) (s : State) :
    ∃ t_, execGroupLoad m s = .next t_ ∧ t_.pending = s.pending := by
  unfold execGroupLoad
  try dsimp only
  first
  | exact ⟨_, rfl, rfl⟩
  | (refine ⟨_, rfl, ?_⟩; (repeat' split) <;> (simp; done))
  | ((repeat' split) <;> (refine ⟨_, rfl, ?_⟩; (repeat' split) <;> (simp; done)))

theorem execGroupUnload_keeps (m : MbxId) (s : State) :
    ∃ t_, execGroupUnload m s = .next t_ ∧ t_.pending = s.pending := by
  unfold execGroupUnload
  try dsimp only
  first
  | exact ⟨_, rfl, rfl⟩
  | (refine ⟨_, rfl, ?_⟩; (repeat' split) <;> (simp; done))
  | ((repeat' split) <;> (refine ⟨_, rfl, ?_⟩; (repeat' split) <;> (simp; done)))

theorem execTallyClear_keeps (m : MbxId) (s : State) :
    ∃ t_, execTallyClear m s = .next t_ ∧ t_.pending = s.pending := by
  unfold execTallyClear
  try dsimp only
  first
  | exact ⟨_, rfl, rfl⟩
  | (refine ⟨_, rfl, ?_⟩; (repeat' split) <;> (simp; done))
  | ((repeat' split) <;> (refine ⟨_, rfl, ?_⟩; (repeat' split) <;> (simp; done)))

theorem execGroupStatus_keeps (m : MbxId) (s : State) :
    ∃ t_, execGroupStatus m s = .next t_ ∧ t_.pending = s.pending := by
  unfold execGroupStatus
  try dsimp only
  first
  | exact ⟨_, rfl, rfl⟩
  | (refine ⟨_, rfl, ?_⟩; (repeat' split) <;> (simp; done))
  | ((repeat' split) <;> (refine ⟨_, rfl, ?_⟩; (repeat' split) <;> (simp; done)))

theorem execUpdApply_keeps (q : QueueId) (s : State) :
    ∃ t_, execUpdApply q s = .next t_ ∧ t_.pending = s.pending := by
  unfold execUpdApply
  try dsimp only
  split
  · exact ⟨_, rfl, rfl⟩
  · refine ⟨_, rfl, ?_⟩
    repeat' (split <;> (try (rename_i heq; have hp := (congrArg (fun r => r.2.pending) heq).symm; simp at hp)))
    all_goals simp [*]

theorem execGradientDelivery_keeps (u : EngId) (bits : BitVec 32) (s : State) :
    ∃ t_, execGradientDelivery u bits s = .next t_ ∧ t_.pending = s.pending := by
  unfold execGradientDelivery
  try dsimp only
  first
  | exact ⟨_, rfl, rfl⟩
  | (refine ⟨_, rfl, ?_⟩; (repeat' split) <;> (simp; done))
  | ((repeat' split) <;> (refine ⟨_, rfl, ?_⟩; (repeat' split) <;> (simp; done)))

theorem execStateArrival_keeps (u : EngId) (upto : Nat) (s : State) :
    ∃ t_, execStateArrival u upto s = .next t_ ∧ t_.pending = s.pending := by
  unfold execStateArrival
  try dsimp only
  first
  | exact ⟨_, rfl, rfl⟩
  | (refine ⟨_, rfl, ?_⟩; (repeat' split) <;> (simp; done))
  | ((repeat' split) <;> (refine ⟨_, rfl, ?_⟩; (repeat' split) <;> (simp; done)))

theorem execStallBoundExpiry_keeps (u : EngId) (s : State) :
    ∃ t_, execStallBoundExpiry u s = .next t_ ∧ t_.pending = s.pending := by
  unfold execStallBoundExpiry
  try dsimp only
  first
  | exact ⟨_, rfl, rfl⟩
  | (refine ⟨_, rfl, ?_⟩; (repeat' split) <;> (simp; done))
  | ((repeat' split) <;> (refine ⟨_, rfl, ?_⟩; (repeat' split) <;> (simp; done)))

theorem execApplyStaged_keeps (u : EngId) (s : State) :
    ∃ t_, execApplyStaged u s = .next t_ ∧ t_.pending = s.pending := by
  unfold execApplyStaged
  try dsimp only
  first
  | exact ⟨_, rfl, rfl⟩
  | (refine ⟨_, rfl, ?_⟩; (repeat' split) <;> (simp; done))
  | ((repeat' split) <;> (refine ⟨_, rfl, ?_⟩; (repeat' split) <;> (simp; done)))

theorem execUpdCommit_keeps (q : QueueId) (s : State) :
    ∃ t_, execUpdCommit q s = .next t_ ∧ t_.pending = s.pending := by
  unfold execUpdCommit
  try dsimp only
  split
  · exact ⟨_, rfl, rfl⟩
  · refine ⟨_, rfl, ?_⟩
    repeat' (split <;> (try (rename_i heq; have hp := (congrArg (fun r => r.2.pending) heq).symm; simp at hp)))
    all_goals simp [*]

theorem execUpdCounterClear_keeps (u : EngId) (v : W64) (s : State) :
    ∃ t_, execUpdCounterClear u v s = .next t_ ∧ t_.pending = s.pending := by
  unfold execUpdCounterClear
  try dsimp only
  first
  | exact ⟨_, rfl, rfl⟩
  | (refine ⟨_, rfl, ?_⟩; (repeat' split) <;> (simp; done))
  | ((repeat' split) <;> (refine ⟨_, rfl, ?_⟩; (repeat' split) <;> (simp; done)))

theorem execSlotOpen_keeps (q : QueueId) (s : State) :
    ∃ t_, execSlotOpen q s = .next t_ ∧ t_.pending = s.pending := by
  unfold execSlotOpen
  try dsimp only
  first
  | exact ⟨_, rfl, rfl⟩
  | (refine ⟨_, rfl, ?_⟩; (repeat' split) <;> (simp; done))
  | ((repeat' split) <;> (refine ⟨_, rfl, ?_⟩; (repeat' split) <;> (simp; done)))

theorem execSlotClose_keeps (q : QueueId) (s : State) :
    ∃ t_, execSlotClose q s = .next t_ ∧ t_.pending = s.pending := by
  unfold execSlotClose
  try dsimp only
  first
  | exact ⟨_, rfl, rfl⟩
  | (refine ⟨_, rfl, ?_⟩; (repeat' split) <;> (simp; done))
  | ((repeat' split) <;> (refine ⟨_, rfl, ?_⟩; (repeat' split) <;> (simp; done)))

theorem execKvGather_keeps (q : QueueId) (s : State) :
    ∃ t_, execKvGather q s = .next t_ ∧ t_.pending = s.pending := by
  unfold execKvGather
  try dsimp only
  first
  | exact ⟨_, rfl, rfl⟩
  | (refine ⟨_, rfl, ?_⟩; (repeat' split) <;> (simp; done))
  | ((repeat' split) <;> (refine ⟨_, rfl, ?_⟩; (repeat' split) <;> (simp; done)))

theorem execKvPut_keeps (q : QueueId) (s : State) :
    ∃ t_, execKvPut q s = .next t_ ∧ t_.pending = s.pending := by
  unfold execKvPut
  try dsimp only
  first
  | exact ⟨_, rfl, rfl⟩
  | (refine ⟨_, rfl, ?_⟩; (repeat' split) <;> (simp; done))
  | ((repeat' split) <;> (refine ⟨_, rfl, ?_⟩; (repeat' split) <;> (simp; done)))

theorem execSample_keeps (q : QueueId) (s : State) :
    ∃ t_, execSample q s = .next t_ ∧ t_.pending = s.pending := by
  unfold execSample
  try dsimp only
  first
  | exact ⟨_, rfl, rfl⟩
  | (refine ⟨_, rfl, ?_⟩; (repeat' split) <;> (simp; done))
  | ((repeat' split) <;> (refine ⟨_, rfl, ?_⟩; (repeat' split) <;> (simp; done)))

theorem execSeqRingHeadWrite_keeps (e : EngId) (v : W64) (s : State) :
    ∃ t_, execSeqRingHeadWrite e v s = .next t_ ∧ t_.pending = s.pending := by
  unfold execSeqRingHeadWrite
  try dsimp only
  first
  | exact ⟨_, rfl, rfl⟩
  | (refine ⟨_, rfl, ?_⟩; (repeat' split) <;> (simp; done))
  | ((repeat' split) <;> (refine ⟨_, rfl, ?_⟩; (repeat' split) <;> (simp; done)))

theorem execSeqRingCfgWrite_keeps (e : EngId) (v : W64) (s : State) :
    ∃ t_, execSeqRingCfgWrite e v s = .next t_ ∧ t_.pending = s.pending := by
  unfold execSeqRingCfgWrite
  try dsimp only
  first
  | exact ⟨_, rfl, rfl⟩
  | (refine ⟨_, rfl, ?_⟩; (repeat' split) <;> (simp; done))
  | ((repeat' split) <;> (refine ⟨_, rfl, ?_⟩; (repeat' split) <;> (simp; done)))

theorem execSeqCounterClear_keeps (e : EngId) (v : W64) (s : State) :
    ∃ t_, execSeqCounterClear e v s = .next t_ ∧ t_.pending = s.pending := by
  unfold execSeqCounterClear
  try dsimp only
  first
  | exact ⟨_, rfl, rfl⟩
  | (refine ⟨_, rfl, ?_⟩; (repeat' split) <;> (simp; done))
  | ((repeat' split) <;> (refine ⟨_, rfl, ?_⟩; (repeat' split) <;> (simp; done)))

theorem execLinkTrainingEnd_keeps (n : LinkId) (gen : Option (Fin 3)) (s : State) :
    ∃ t_, execLinkTrainingEnd n gen s = .next t_ ∧ t_.pending = s.pending := by
  unfold execLinkTrainingEnd
  try dsimp only
  first
  | exact ⟨_, rfl, rfl⟩
  | (refine ⟨_, rfl, ?_⟩; (repeat' split) <;> (simp; done))
  | ((repeat' split) <;> (refine ⟨_, rfl, ?_⟩; (repeat' split) <;> (simp; done)))

theorem execFlitReceive_keeps (n : LinkId) (bytes : List Byte) (words : List (Nat × Nat)) (s : State) :
    ∃ t_, execFlitReceive n bytes words s = .next t_ ∧ t_.pending = s.pending := by
  unfold execFlitReceive
  try dsimp only
  first
  | exact ⟨_, rfl, rfl⟩
  | (refine ⟨_, rfl, ?_⟩; (repeat' split) <;> (simp; done))
  | ((repeat' split) <;> (refine ⟨_, rfl, ?_⟩; (repeat' split) <;> (simp; done)))

theorem execRetryReq_keeps (n : LinkId) (fseq : BitVec 12) (s : State) :
    ∃ t_, execRetryReq n fseq s = .next t_ ∧ t_.pending = s.pending := by
  unfold execRetryReq
  try dsimp only
  first
  | exact ⟨_, rfl, rfl⟩
  | (refine ⟨_, rfl, ?_⟩; (repeat' split) <;> (simp; done))
  | ((repeat' split) <;> (refine ⟨_, rfl, ?_⟩; (repeat' split) <;> (simp; done)))

theorem execRetryReqRepeat_keeps (n : LinkId) (s : State) :
    ∃ t_, execRetryReqRepeat n s = .next t_ ∧ t_.pending = s.pending := by
  unfold execRetryReqRepeat
  try dsimp only
  first
  | exact ⟨_, rfl, rfl⟩
  | (refine ⟨_, rfl, ?_⟩; (repeat' split) <;> (simp; done))
  | ((repeat' split) <;> (refine ⟨_, rfl, ?_⟩; (repeat' split) <;> (simp; done)))

theorem execIdent_keeps (n : LinkId) (node : NodeId) (link : BitVec 7) (gen part : BitVec 2) (s : State) :
    ∃ t_, execIdent n node link gen part s = .next t_ ∧ t_.pending = s.pending := by
  unfold execIdent
  try dsimp only
  first
  | exact ⟨_, rfl, rfl⟩
  | (refine ⟨_, rfl, ?_⟩; (repeat' split) <;> (simp; done))
  | ((repeat' split) <;> (refine ⟨_, rfl, ?_⟩; (repeat' split) <;> (simp; done)))

theorem execWithdraw_keeps (n : LinkId) (s : State) :
    ∃ t_, execWithdraw n s = .next t_ ∧ t_.pending = s.pending := by
  unfold execWithdraw
  try dsimp only
  first
  | exact ⟨_, rfl, rfl⟩
  | (refine ⟨_, rfl, ?_⟩; (repeat' split) <;> (simp; done))
  | ((repeat' split) <;> (refine ⟨_, rfl, ?_⟩; (repeat' split) <;> (simp; done)))

theorem execWithdrawAck_keeps (n : LinkId) (s : State) :
    ∃ t_, execWithdrawAck n s = .next t_ ∧ t_.pending = s.pending := by
  unfold execWithdrawAck
  try dsimp only
  first
  | exact ⟨_, rfl, rfl⟩
  | (refine ⟨_, rfl, ?_⟩; (repeat' split) <;> (simp; done))
  | ((repeat' split) <;> (refine ⟨_, rfl, ?_⟩; (repeat' split) <;> (simp; done)))

theorem execRestore_keeps (n : LinkId) (s : State) :
    ∃ t_, execRestore n s = .next t_ ∧ t_.pending = s.pending := by
  unfold execRestore
  try dsimp only
  first
  | exact ⟨_, rfl, rfl⟩
  | (refine ⟨_, rfl, ?_⟩; (repeat' split) <;> (simp; done))
  | ((repeat' split) <;> (refine ⟨_, rfl, ?_⟩; (repeat' split) <;> (simp; done)))

theorem execCreditStall_keeps (n : LinkId) (vl : Fin 4) (s : State) :
    ∃ t_, execCreditStall n vl s = .next t_ ∧ t_.pending = s.pending := by
  unfold execCreditStall
  try dsimp only
  first
  | exact ⟨_, rfl, rfl⟩
  | (refine ⟨_, rfl, ?_⟩; (repeat' split) <;> (simp; done))
  | ((repeat' split) <;> (refine ⟨_, rfl, ?_⟩; (repeat' split) <;> (simp; done)))

theorem execPacketRoute_keeps (from_ : Option LinkId) (p : Packet) (s : State) :
    ∃ t_, execPacketRoute from_ p s = .next t_ ∧ t_.pending = s.pending := by
  unfold execPacketRoute
  try dsimp only
  first
  | exact ⟨_, rfl, rfl⟩
  | (refine ⟨_, rfl, ?_⟩; (repeat' split) <;> (simp; done))
  | ((repeat' split) <;> (refine ⟨_, rfl, ?_⟩; (repeat' split) <;> (simp; done)))

theorem execWrite_keeps (p : Packet) (s : State) :
    ∃ t_, execWrite p s = .next t_ ∧ t_.pending = s.pending := by
  unfold execWrite
  try dsimp only
  first
  | exact ⟨_, rfl, rfl⟩
  | (refine ⟨_, rfl, ?_⟩; (repeat' split) <;> (simp; done))
  | ((repeat' split) <;> (refine ⟨_, rfl, ?_⟩; (repeat' split) <;> (simp; done)))

theorem execWriteAck_keeps (txn : BitVec 32) (st : BitVec 16) (s : State) :
    ∃ t_, execWriteAck txn st s = .next t_ ∧ t_.pending = s.pending := by
  unfold execWriteAck
  try dsimp only
  first
  | exact ⟨_, rfl, rfl⟩
  | (refine ⟨_, rfl, ?_⟩; (repeat' split) <;> (simp; done))
  | ((repeat' split) <;> (refine ⟨_, rfl, ?_⟩; (repeat' split) <;> (simp; done)))

theorem execUnreachable_keeps (txn : BitVec 32) (_node : NodeId) (s : State) :
    ∃ t_, execUnreachable txn _node s = .next t_ ∧ t_.pending = s.pending := by
  unfold execUnreachable
  try dsimp only
  first
  | exact ⟨_, rfl, rfl⟩
  | (refine ⟨_, rfl, ?_⟩; (repeat' split) <;> (simp; done))
  | ((repeat' split) <;> (refine ⟨_, rfl, ?_⟩; (repeat' split) <;> (simp; done)))

theorem execWriteAckTimeout_keeps (txn : BitVec 32) (s : State) :
    ∃ t_, execWriteAckTimeout txn s = .next t_ ∧ t_.pending = s.pending := by
  unfold execWriteAckTimeout
  try dsimp only
  first
  | exact ⟨_, rfl, rfl⟩
  | (refine ⟨_, rfl, ?_⟩; (repeat' split) <;> (simp; done))
  | ((repeat' split) <;> (refine ⟨_, rfl, ?_⟩; (repeat' split) <;> (simp; done)))

theorem execLinkDown_keeps (n : LinkId) (cause : BitVec 8) (s : State) :
    ∃ t_, execLinkDown n cause s = .next t_ ∧ t_.pending = s.pending := by
  unfold execLinkDown
  try dsimp only
  first
  | exact ⟨_, rfl, rfl⟩
  | (refine ⟨_, rfl, ?_⟩; (repeat' split) <;> (simp; done))
  | ((repeat' split) <;> (refine ⟨_, rfl, ?_⟩; (repeat' split) <;> (simp; done)))

theorem execNodeDownTimer_keeps (node : NodeId) (s : State) :
    ∃ t_, execNodeDownTimer node s = .next t_ ∧ t_.pending = s.pending := by
  unfold execNodeDownTimer
  try dsimp only
  first
  | exact ⟨_, rfl, rfl⟩
  | (refine ⟨_, rfl, ?_⟩; (repeat' split) <;> (simp; done))
  | ((repeat' split) <;> (refine ⟨_, rfl, ?_⟩; (repeat' split) <;> (simp; done)))

theorem execNodeDown_keeps (n : LinkId) (node : NodeId) (s : State) :
    ∃ t_, execNodeDown n node s = .next t_ ∧ t_.pending = s.pending := by
  unfold execNodeDown
  try dsimp only
  first
  | exact ⟨_, rfl, rfl⟩
  | (refine ⟨_, rfl, ?_⟩; (repeat' split) <;> (simp; done))
  | ((repeat' split) <;> (refine ⟨_, rfl, ?_⟩; (repeat' split) <;> (simp; done)))

theorem execAutoRetrainAttempt_keeps (n : LinkId) (s : State) :
    ∃ t_, execAutoRetrainAttempt n s = .next t_ ∧ t_.pending = s.pending := by
  unfold execAutoRetrainAttempt
  try dsimp only
  first
  | exact ⟨_, rfl, rfl⟩
  | (refine ⟨_, rfl, ?_⟩; (repeat' split) <;> (simp; done))
  | ((repeat' split) <;> (refine ⟨_, rfl, ?_⟩; (repeat' split) <;> (simp; done)))

theorem execNodeIdSet_keeps (m : MbxId) (s : State) :
    ∃ t_, execNodeIdSet m s = .next t_ ∧ t_.pending = s.pending := by
  unfold execNodeIdSet
  try dsimp only
  first
  | exact ⟨_, rfl, rfl⟩
  | (refine ⟨_, rfl, ?_⟩; (repeat' split) <;> (simp; done))
  | ((repeat' split) <;> (refine ⟨_, rfl, ?_⟩; (repeat' split) <;> (simp; done)))

theorem execRouteWrite_keeps (m : MbxId) (s : State) :
    ∃ t_, execRouteWrite m s = .next t_ ∧ t_.pending = s.pending := by
  unfold execRouteWrite
  try dsimp only
  first
  | exact ⟨_, rfl, rfl⟩
  | (refine ⟨_, rfl, ?_⟩; (repeat' split) <;> (simp; done))
  | ((repeat' split) <;> (refine ⟨_, rfl, ?_⟩; (repeat' split) <;> (simp; done)))

theorem execRouteRead_keeps (m : MbxId) (s : State) :
    ∃ t_, execRouteRead m s = .next t_ ∧ t_.pending = s.pending := by
  unfold execRouteRead
  try dsimp only
  first
  | exact ⟨_, rfl, rfl⟩
  | (refine ⟨_, rfl, ?_⟩; (repeat' split) <;> (simp; done))
  | ((repeat' split) <;> (refine ⟨_, rfl, ?_⟩; (repeat' split) <;> (simp; done)))

theorem execLinkConfig_keeps (m : MbxId) (s : State) :
    ∃ t_, execLinkConfig m s = .next t_ ∧ t_.pending = s.pending := by
  unfold execLinkConfig
  try dsimp only
  first
  | exact ⟨_, rfl, rfl⟩
  | (refine ⟨_, rfl, ?_⟩; (repeat' split) <;> (simp; done))
  | ((repeat' split) <;> (refine ⟨_, rfl, ?_⟩; (repeat' split) <;> (simp; done)))

theorem execLinkWithdraw_keeps (m : MbxId) (s : State) :
    ∃ t_, execLinkWithdraw m s = .next t_ ∧ t_.pending = s.pending := by
  unfold execLinkWithdraw
  try dsimp only
  first
  | exact ⟨_, rfl, rfl⟩
  | (refine ⟨_, rfl, ?_⟩; (repeat' split) <;> (simp; done))
  | ((repeat' split) <;> (refine ⟨_, rfl, ?_⟩; (repeat' split) <;> (simp; done)))

theorem execLinkRetrain_keeps (m : MbxId) (s : State) :
    ∃ t_, execLinkRetrain m s = .next t_ ∧ t_.pending = s.pending := by
  unfold execLinkRetrain
  try dsimp only
  first
  | exact ⟨_, rfl, rfl⟩
  | (refine ⟨_, rfl, ?_⟩; (repeat' split) <;> (simp; done))
  | ((repeat' split) <;> (refine ⟨_, rfl, ?_⟩; (repeat' split) <;> (simp; done)))

theorem execLinkRestore_keeps (m : MbxId) (s : State) :
    ∃ t_, execLinkRestore m s = .next t_ ∧ t_.pending = s.pending := by
  unfold execLinkRestore
  try dsimp only
  first
  | exact ⟨_, rfl, rfl⟩
  | (refine ⟨_, rfl, ?_⟩; (repeat' split) <;> (simp; done))
  | ((repeat' split) <;> (refine ⟨_, rfl, ?_⟩; (repeat' split) <;> (simp; done)))

theorem execEthConfig_keeps (m : MbxId) (s : State) :
    ∃ t_, execEthConfig m s = .next t_ ∧ t_.pending = s.pending := by
  unfold execEthConfig
  try dsimp only
  first
  | exact ⟨_, rfl, rfl⟩
  | (refine ⟨_, rfl, ?_⟩; (repeat' split) <;> (simp; done))
  | ((repeat' split) <;> (refine ⟨_, rfl, ?_⟩; (repeat' split) <;> (simp; done)))

theorem execRdmaMrReg_keeps (m : MbxId) (s : State) :
    ∃ t_, execRdmaMrReg m s = .next t_ ∧ t_.pending = s.pending := by
  unfold execRdmaMrReg
  try dsimp only
  first
  | exact ⟨_, rfl, rfl⟩
  | (refine ⟨_, rfl, ?_⟩; (repeat' split) <;> (simp; done))
  | ((repeat' split) <;> (refine ⟨_, rfl, ?_⟩; (repeat' split) <;> (simp; done)))

theorem execRdmaQpSet_keeps (m : MbxId) (s : State) :
    ∃ t_, execRdmaQpSet m s = .next t_ ∧ t_.pending = s.pending := by
  unfold execRdmaQpSet
  try dsimp only
  first
  | exact ⟨_, rfl, rfl⟩
  | (refine ⟨_, rfl, ?_⟩; (repeat' split) <;> (simp; done))
  | ((repeat' split) <;> (refine ⟨_, rfl, ?_⟩; (repeat' split) <;> (simp; done)))

theorem execEthFrameReceive_keeps (p : EthId) (f : EthFrame) (s : State) :
    ∃ t_, execEthFrameReceive p f s = .next t_ ∧ t_.pending = s.pending := by
  unfold execEthFrameReceive
  try dsimp only
  first
  | exact ⟨_, rfl, rfl⟩
  | (refine ⟨_, rfl, ?_⟩; (repeat' split) <;> (simp; done))
  | ((repeat' split) <;> (refine ⟨_, rfl, ?_⟩; (repeat' split) <;> (simp; done)))

theorem execPfcFrame_keeps (p : EthId) (mask : BitVec 8) (pause : Bool) (s : State) :
    ∃ t_, execPfcFrame p mask pause s = .next t_ ∧ t_.pending = s.pending := by
  unfold execPfcFrame
  try dsimp only
  first
  | exact ⟨_, rfl, rfl⟩
  | (refine ⟨_, rfl, ?_⟩; (repeat' split) <;> (simp; done))
  | ((repeat' split) <;> (refine ⟨_, rfl, ?_⟩; (repeat' split) <;> (simp; done)))

theorem execCnpReceive_keeps (p : EthId) (qpn : BitVec 12) (s : State) :
    ∃ t_, execCnpReceive p qpn s = .next t_ ∧ t_.pending = s.pending := by
  unfold execCnpReceive
  try dsimp only
  first
  | exact ⟨_, rfl, rfl⟩
  | (refine ⟨_, rfl, ?_⟩; (repeat' split) <;> (simp; done))
  | ((repeat' split) <;> (refine ⟨_, rfl, ?_⟩; (repeat' split) <;> (simp; done)))

theorem execRoceRateIncrease_keeps (p : EthId) (qpn : BitVec 12) (s : State) :
    ∃ t_, execRoceRateIncrease p qpn s = .next t_ ∧ t_.pending = s.pending := by
  unfold execRoceRateIncrease
  try dsimp only
  first
  | exact ⟨_, rfl, rfl⟩
  | (refine ⟨_, rfl, ?_⟩; (repeat' split) <;> (simp; done))
  | ((repeat' split) <;> (refine ⟨_, rfl, ?_⟩; (repeat' split) <;> (simp; done)))

theorem execEthDoorbell_keeps (p : EthId) (v : W64) (s : State) :
    ∃ t_, execEthDoorbell p v s = .next t_ ∧ t_.pending = s.pending := by
  unfold execEthDoorbell
  try dsimp only
  first
  | exact ⟨_, rfl, rfl⟩
  | (refine ⟨_, rfl, ?_⟩; (repeat' split) <;> (simp; done))
  | ((repeat' split) <;> (refine ⟨_, rfl, ?_⟩; (repeat' split) <;> (simp; done)))

theorem execRdmaRequestReceive_keeps (p : EthId) (qpn : BitVec 12) (req : RdmaReq) (s : State) :
    ∃ t_, execRdmaRequestReceive p qpn req s = .next t_ ∧ t_.pending = s.pending := by
  unfold execRdmaRequestReceive
  try dsimp only
  first
  | exact ⟨_, rfl, rfl⟩
  | (refine ⟨_, rfl, ?_⟩; (repeat' split) <;> (simp; done))
  | ((repeat' split) <;> (refine ⟨_, rfl, ?_⟩; (repeat' split) <;> (simp; done)))

theorem execRdmaNak_keeps (p : EthId) (qpn : BitVec 12) (syndrome : BitVec 8) (s : State) :
    ∃ t_, execRdmaNak p qpn syndrome s = .next t_ ∧ t_.pending = s.pending := by
  unfold execRdmaNak
  try dsimp only
  first
  | exact ⟨_, rfl, rfl⟩
  | (refine ⟨_, rfl, ?_⟩; (repeat' split) <;> (simp; done))
  | ((repeat' split) <;> (refine ⟨_, rfl, ?_⟩; (repeat' split) <;> (simp; done)))

theorem execRdmaRetryExceeded_keeps (p : EthId) (qpn : BitVec 12) (s : State) :
    ∃ t_, execRdmaRetryExceeded p qpn s = .next t_ ∧ t_.pending = s.pending := by
  unfold execRdmaRetryExceeded
  try dsimp only
  first
  | exact ⟨_, rfl, rfl⟩
  | (refine ⟨_, rfl, ?_⟩; (repeat' split) <;> (simp; done))
  | ((repeat' split) <;> (refine ⟨_, rfl, ?_⟩; (repeat' split) <;> (simp; done)))

theorem execLnkCounterClear_keeps (v : W64) (s : State) :
    ∃ t_, execLnkCounterClear v s = .next t_ ∧ t_.pending = s.pending := by
  unfold execLnkCounterClear
  try dsimp only
  first
  | exact ⟨_, rfl, rfl⟩
  | (refine ⟨_, rfl, ?_⟩; (repeat' split) <;> (simp; done))
  | ((repeat' split) <;> (refine ⟨_, rfl, ?_⟩; (repeat' split) <;> (simp; done)))

theorem execWinBaseWrite_keeps (p : PortId) (v : W64) (s : State) :
    ∃ t_, execWinBaseWrite p v s = .next t_ ∧ t_.pending = s.pending := by
  unfold execWinBaseWrite
  try dsimp only
  first
  | exact ⟨_, rfl, rfl⟩
  | (refine ⟨_, rfl, ?_⟩; (repeat' split) <;> (simp; done))
  | ((repeat' split) <;> (refine ⟨_, rfl, ?_⟩; (repeat' split) <;> (simp; done)))

theorem execWindowRead_keeps (p : PortId) (off : BitVec 32) (bytes : Nat) (s : State) :
    ∃ t_, execWindowRead p off bytes s = .next t_ ∧ t_.pending = s.pending := by
  unfold execWindowRead
  try dsimp only
  first
  | exact ⟨_, rfl, rfl⟩
  | (refine ⟨_, rfl, ?_⟩; (repeat' split) <;> (simp; done))
  | ((repeat' split) <;> (refine ⟨_, rfl, ?_⟩; (repeat' split) <;> (simp; done)))

theorem execWindowWrite_keeps (p : PortId) (off : BitVec 32) (data : List Byte) (ep : Bool) (s : State) :
    ∃ t_, execWindowWrite p off data ep s = .next t_ ∧ t_.pending = s.pending := by
  unfold execWindowWrite
  try dsimp only
  first
  | exact ⟨_, rfl, rfl⟩
  | (refine ⟨_, rfl, ?_⟩; (repeat' split) <;> (simp; done))
  | ((repeat' split) <;> (refine ⟨_, rfl, ?_⟩; (repeat' split) <;> (simp; done)))

theorem execPortLinkUp_keeps (p : PortId) (width : BitVec 5) (rate : BitVec 3) (cxl : BitVec 2) (s : State) :
    ∃ t_, execPortLinkUp p width rate cxl s = .next t_ ∧ t_.pending = s.pending := by
  unfold execPortLinkUp
  try dsimp only
  first
  | exact ⟨_, rfl, rfl⟩
  | (refine ⟨_, rfl, ?_⟩; (repeat' split) <;> (simp; done))
  | ((repeat' split) <;> (refine ⟨_, rfl, ?_⟩; (repeat' split) <;> (simp; done)))

theorem execPortLinkDown_keeps (p : PortId) (s : State) :
    ∃ t_, execPortLinkDown p s = .next t_ ∧ t_.pending = s.pending := by
  unfold execPortLinkDown
  try dsimp only
  first
  | exact ⟨_, rfl, rfl⟩
  | (refine ⟨_, rfl, ?_⟩; (repeat' split) <;> (simp; done))
  | ((repeat' split) <;> (refine ⟨_, rfl, ?_⟩; (repeat' split) <;> (simp; done)))

theorem execPortHotReset_keeps (p : PortId) (s : State) :
    ∃ t_, execPortHotReset p s = .next t_ ∧ t_.pending = s.pending := by
  unfold execPortHotReset
  try dsimp only
  first
  | exact ⟨_, rfl, rfl⟩
  | (refine ⟨_, rfl, ?_⟩; (repeat' split) <;> (simp; done))
  | ((repeat' split) <;> (refine ⟨_, rfl, ?_⟩; (repeat' split) <;> (simp; done)))

theorem execHostSnoop_keeps (p : PortId) (addr : BitVec 43) (s : State) :
    ∃ t_, execHostSnoop p addr s = .next t_ ∧ t_.pending = s.pending := by
  unfold execHostSnoop
  try dsimp only
  first
  | exact ⟨_, rfl, rfl⟩
  | (refine ⟨_, rfl, ?_⟩; (repeat' split) <;> (simp; done))
  | ((repeat' split) <;> (refine ⟨_, rfl, ?_⟩; (repeat' split) <;> (simp; done)))

theorem execAttachReadCompletion_keeps (p : PortId) (addr : BitVec 43) (data : List Byte) (st : HostStatus) (streaming : Bool) (s : State) :
    ∃ t_, execAttachReadCompletion p addr data st streaming s = .next t_ ∧ t_.pending = s.pending := by
  unfold execAttachReadCompletion
  try dsimp only
  first
  | exact ⟨_, rfl, rfl⟩
  | (refine ⟨_, rfl, ?_⟩; (repeat' split) <;> (simp; done))
  | ((repeat' split) <;> (refine ⟨_, rfl, ?_⟩; (repeat' split) <;> (simp; done)))

theorem execFlushReadCompletion_keeps (q : QueueId) (p : PortId) (ok : Bool) (s : State) :
    ∃ t_, execFlushReadCompletion q p ok s = .next t_ ∧ t_.pending = s.pending := by
  unfold execFlushReadCompletion
  try dsimp only
  first
  | exact ⟨_, rfl, rfl⟩
  | (refine ⟨_, rfl, ?_⟩; (repeat' split) <;> (simp; done))
  | ((repeat' split) <;> (refine ⟨_, rfl, ?_⟩; (repeat' split) <;> (simp; done)))

theorem execMsixPendingSend_keeps (p : PortId) (vec : BitVec 8) (s : State) :
    ∃ t_, execMsixPendingSend p vec s = .next t_ ∧ t_.pending = s.pending := by
  unfold execMsixPendingSend
  try dsimp only
  first
  | exact ⟨_, rfl, rfl⟩
  | (refine ⟨_, rfl, ?_⟩; (repeat' split) <;> (simp; done))
  | ((repeat' split) <;> (refine ⟨_, rfl, ?_⟩; (repeat' split) <;> (simp; done)))

theorem execWinCounterClear_keeps (v : W64) (s : State) :
    ∃ t_, execWinCounterClear v s = .next t_ ∧ t_.pending = s.pending := by
  unfold execWinCounterClear
  try dsimp only
  first
  | exact ⟨_, rfl, rfl⟩
  | (refine ⟨_, rfl, ?_⟩; (repeat' split) <;> (simp; done))
  | ((repeat' split) <;> (refine ⟨_, rfl, ?_⟩; (repeat' split) <;> (simp; done)))

theorem execTimeSourceSet_keeps (m : MbxId) (s : State) :
    ∃ t_, execTimeSourceSet m s = .next t_ ∧ t_.pending = s.pending := by
  unfold execTimeSourceSet
  try dsimp only
  first
  | exact ⟨_, rfl, rfl⟩
  | (refine ⟨_, rfl, ?_⟩; (repeat' split) <;> (simp; done))
  | ((repeat' split) <;> (refine ⟨_, rfl, ?_⟩; (repeat' split) <;> (simp; done)))

theorem execTimeStep_keeps (m : MbxId) (s : State) :
    ∃ t_, execTimeStep m s = .next t_ ∧ t_.pending = s.pending := by
  unfold execTimeStep
  try dsimp only
  first
  | exact ⟨_, rfl, rfl⟩
  | (refine ⟨_, rfl, ?_⟩; (repeat' split) <;> (simp; done))
  | ((repeat' split) <;> (refine ⟨_, rfl, ?_⟩; (repeat' split) <;> (simp; done)))

theorem execTimeSyncSend_keeps (s : State) :
    ∃ t_, execTimeSyncSend s = .next t_ ∧ t_.pending = s.pending := by
  unfold execTimeSyncSend
  try dsimp only
  first
  | exact ⟨_, rfl, rfl⟩
  | (refine ⟨_, rfl, ?_⟩; (repeat' split) <;> (simp; done))
  | ((repeat' split) <;> (refine ⟨_, rfl, ?_⟩; (repeat' split) <;> (simp; done)))

theorem execTimeSyncMessage_keeps (n : LinkId) (offset : Int) (s : State) :
    ∃ t_, execTimeSyncMessage n offset s = .next t_ ∧ t_.pending = s.pending := by
  unfold execTimeSyncMessage
  try dsimp only
  first
  | exact ⟨_, rfl, rfl⟩
  | (refine ⟨_, rfl, ?_⟩; (repeat' split) <;> (simp; done))
  | ((repeat' split) <;> (refine ⟨_, rfl, ?_⟩; (repeat' split) <;> (simp; done)))

theorem execPpsEdge_keeps (clean : Bool) (offset : Int) (s : State) :
    ∃ t_, execPpsEdge clean offset s = .next t_ ∧ t_.pending = s.pending := by
  unfold execPpsEdge
  try dsimp only
  first
  | exact ⟨_, rfl, rfl⟩
  | (refine ⟨_, rfl, ?_⟩; (repeat' split) <;> (simp; done))
  | ((repeat' split) <;> (refine ⟨_, rfl, ?_⟩; (repeat' split) <;> (simp; done)))

theorem execTimeCounterClear_keeps (v : W64) (s : State) :
    ∃ t_, execTimeCounterClear v s = .next t_ ∧ t_.pending = s.pending := by
  unfold execTimeCounterClear
  try dsimp only
  first
  | exact ⟨_, rfl, rfl⟩
  | (refine ⟨_, rfl, ?_⟩; (repeat' split) <;> (simp; done))
  | ((repeat' split) <;> (refine ⟨_, rfl, ?_⟩; (repeat' split) <;> (simp; done)))

theorem execWeighHouseEstimate_keeps (act : Activity) (s : State) :
    ∃ t_, execWeighHouseEstimate act s = .next t_ ∧ t_.pending = s.pending := by
  unfold execWeighHouseEstimate
  try dsimp only
  first
  | (refine ⟨_, rfl, ?_⟩; (repeat' split) <;> (simp; done))
  | ((repeat' split) <;> (refine ⟨_, rfl, ?_⟩; (repeat' split) <;> (simp; done)))

theorem execRampStep_keeps (s : State) :
    ∃ t_, execRampStep s = .next t_ ∧ t_.pending = s.pending := by
  unfold execRampStep
  try dsimp only
  first
  | (refine ⟨_, rfl, ?_⟩; (repeat' split) <;> (simp; done))
  | ((repeat' split) <;> (refine ⟨_, rfl, ?_⟩; (repeat' split) <;> (simp; done)))

theorem execStartGrant_keeps (s : State) :
    ∃ t_, execStartGrant s = .next t_ ∧ t_.pending = s.pending := by
  unfold execStartGrant
  try dsimp only
  split
  · exact ⟨_, rfl, rfl⟩
  · refine ⟨_, rfl, ?_⟩
    repeat' (split <;> (try (rename_i heq; have hp := (congrArg (fun r => r.2.pending) heq).symm; simp at hp)))
    all_goals simp [*]

theorem execReservationExpiry_keeps (s : State) :
    ∃ t_, execReservationExpiry s = .next t_ ∧ t_.pending = s.pending := by
  unfold execReservationExpiry
  try dsimp only
  first
  | exact ⟨_, rfl, rfl⟩
  | (refine ⟨_, rfl, ?_⟩; (repeat' split) <;> (simp; done))
  | ((repeat' split) <;> (refine ⟨_, rfl, ?_⟩; (repeat' split) <;> (simp; done)))

theorem execHeldBelowNeed_keeps (needW : Nat) (s : State) :
    ∃ t_, execHeldBelowNeed needW s = .next t_ ∧ t_.pending = s.pending := by
  unfold execHeldBelowNeed
  try dsimp only
  first
  | exact ⟨_, rfl, rfl⟩
  | (refine ⟨_, rfl, ?_⟩; (repeat' split) <;> (simp; done))
  | ((repeat' split) <;> (refine ⟨_, rfl, ?_⟩; (repeat' split) <;> (simp; done)))

theorem execDownRequest_keeps (s : State) :
    ∃ t_, execDownRequest s = .next t_ ∧ t_.pending = s.pending := by
  unfold execDownRequest
  try dsimp only
  first
  | exact ⟨_, rfl, rfl⟩
  | (refine ⟨_, rfl, ?_⟩; (repeat' split) <;> (simp; done))
  | ((repeat' split) <;> (refine ⟨_, rfl, ?_⟩; (repeat' split) <;> (simp; done)))

theorem execBallastShort_keeps (holdW milliJ : Nat) (s : State) :
    ∃ t_, execBallastShort holdW milliJ s = .next t_ ∧ t_.pending = s.pending := by
  unfold execBallastShort
  try dsimp only
  first
  | exact ⟨_, rfl, rfl⟩
  | (refine ⟨_, rfl, ?_⟩; (repeat' split) <;> (simp; done))
  | ((repeat' split) <;> (refine ⟨_, rfl, ?_⟩; (repeat' split) <;> (simp; done)))

theorem execStewardSlot_keeps (s : State) :
    ∃ t_, execStewardSlot s = .next t_ ∧ t_.pending = s.pending := by
  unfold execStewardSlot
  try dsimp only
  first
  | exact ⟨_, rfl, rfl⟩
  | (refine ⟨_, rfl, ?_⟩; (repeat' split) <;> (simp; done))
  | ((repeat' split) <;> (refine ⟨_, rfl, ?_⟩; (repeat' split) <;> (simp; done)))

theorem execRequest_keeps (m : PermitMsg) (s : State) :
    ∃ t_, execRequest m s = .next t_ ∧ t_.pending = s.pending := by
  unfold execRequest receive
  try dsimp only
  first
  | exact ⟨_, rfl, rfl⟩
  | (refine ⟨_, rfl, ?_⟩; (repeat' split) <;> (simp; done))
  | ((repeat' split) <;> (refine ⟨_, rfl, ?_⟩; (repeat' split) <;> (simp; done)))

theorem execGrant_keeps (m : PermitMsg) (s : State) :
    ∃ t_, execGrant m s = .next t_ ∧ t_.pending = s.pending := by
  unfold execGrant receive
  try dsimp only
  first
  | exact ⟨_, rfl, rfl⟩
  | (refine ⟨_, rfl, ?_⟩; (repeat' split) <;> (simp; done))
  | ((repeat' split) <;> (refine ⟨_, rfl, ?_⟩; (repeat' split) <;> (simp; done)))

theorem execReport_keeps (m : PermitMsg) (s : State) :
    ∃ t_, execReport m s = .next t_ ∧ t_.pending = s.pending := by
  unfold execReport receive
  try dsimp only
  first
  | exact ⟨_, rfl, rfl⟩
  | (refine ⟨_, rfl, ?_⟩; (repeat' split) <;> (simp; done))
  | ((repeat' split) <;> (refine ⟨_, rfl, ?_⟩; (repeat' split) <;> (simp; done)))

theorem execEnvelope_keeps (m : PermitMsg) (s : State) :
    ∃ t_, execEnvelope m s = .next t_ ∧ t_.pending = s.pending := by
  unfold execEnvelope receive
  try dsimp only
  first
  | exact ⟨_, rfl, rfl⟩
  | (refine ⟨_, rfl, ?_⟩; (repeat' split) <;> (simp; done))
  | ((repeat' split) <;> (refine ⟨_, rfl, ?_⟩; (repeat' split) <;> (simp; done)))

theorem execHeartbeat_keeps (m : PermitMsg) (s : State) :
    ∃ t_, execHeartbeat m s = .next t_ ∧ t_.pending = s.pending := by
  unfold execHeartbeat receive
  try dsimp only
  first
  | exact ⟨_, rfl, rfl⟩
  | (refine ⟨_, rfl, ?_⟩; (repeat' split) <;> (simp; done))
  | ((repeat' split) <;> (refine ⟨_, rfl, ?_⟩; (repeat' split) <;> (simp; done)))

theorem execExcursion_keeps (m : PermitMsg) (s : State) :
    ∃ t_, execExcursion m s = .next t_ ∧ t_.pending = s.pending := by
  unfold execExcursion receive
  try dsimp only
  first
  | exact ⟨_, rfl, rfl⟩
  | (refine ⟨_, rfl, ?_⟩; (repeat' split) <;> (simp; done))
  | ((repeat' split) <;> (refine ⟨_, rfl, ?_⟩; (repeat' split) <;> (simp; done)))

theorem execSnapshot_keeps (m : PermitMsg) (body : SnapBody) (s : State) :
    ∃ t_, execSnapshot m body s = .next t_ ∧ t_.pending = s.pending := by
  unfold execSnapshot receive
  try dsimp only
  first
  | exact ⟨_, rfl, rfl⟩
  | (refine ⟨_, rfl, ?_⟩; (repeat' split) <;> (simp; done))
  | ((repeat' split) <;> (refine ⟨_, rfl, ?_⟩; (repeat' split) <;> (simp; done)))

theorem execClaim_keeps (m : PermitMsg) (s : State) :
    ∃ t_, execClaim m s = .next t_ ∧ t_.pending = s.pending := by
  unfold execClaim receive
  try dsimp only
  first
  | exact ⟨_, rfl, rfl⟩
  | (refine ⟨_, rfl, ?_⟩; (repeat' split) <;> (simp; done))
  | ((repeat' split) <;> (refine ⟨_, rfl, ?_⟩; (repeat' split) <;> (simp; done)))

theorem execReportInterval_keeps (s : State) :
    ∃ t_, execReportInterval s = .next t_ ∧ t_.pending = s.pending := by
  unfold execReportInterval
  try dsimp only
  first
  | exact ⟨_, rfl, rfl⟩
  | (refine ⟨_, rfl, ?_⟩; (repeat' split) <;> (simp; done))
  | ((repeat' split) <;> (refine ⟨_, rfl, ?_⟩; (repeat' split) <;> (simp; done)))

theorem execHeartbeatInterval_keeps (s : State) :
    ∃ t_, execHeartbeatInterval s = .next t_ ∧ t_.pending = s.pending := by
  unfold execHeartbeatInterval
  try dsimp only
  first
  | exact ⟨_, rfl, rfl⟩
  | (refine ⟨_, rfl, ?_⟩; (repeat' split) <;> (simp; done))
  | ((repeat' split) <;> (refine ⟨_, rfl, ?_⟩; (repeat' split) <;> (simp; done)))

theorem execSnapshotInterval_keeps (s : State) :
    ∃ t_, execSnapshotInterval s = .next t_ ∧ t_.pending = s.pending := by
  unfold execSnapshotInterval
  try dsimp only
  first
  | exact ⟨_, rfl, rfl⟩
  | (refine ⟨_, rfl, ?_⟩; (repeat' split) <;> (simp; done))
  | ((repeat' split) <;> (refine ⟨_, rfl, ?_⟩; (repeat' split) <;> (simp; done)))

theorem execEnvelopeInterval_keeps (s : State) :
    ∃ t_, execEnvelopeInterval s = .next t_ ∧ t_.pending = s.pending := by
  unfold execEnvelopeInterval
  try dsimp only
  first
  | exact ⟨_, rfl, rfl⟩
  | (refine ⟨_, rfl, ?_⟩; (repeat' split) <;> (simp; done))
  | ((repeat' split) <;> (refine ⟨_, rfl, ?_⟩; (repeat' split) <;> (simp; done)))

theorem execRequestResend_keeps (s : State) :
    ∃ t_, execRequestResend s = .next t_ ∧ t_.pending = s.pending := by
  unfold execRequestResend
  try dsimp only
  first
  | exact ⟨_, rfl, rfl⟩
  | (refine ⟨_, rfl, ?_⟩; (repeat' split) <;> (simp; done))
  | ((repeat' split) <;> (refine ⟨_, rfl, ?_⟩; (repeat' split) <;> (simp; done)))

theorem execHeadShareInterval_keeps (s : State) :
    ∃ t_, execHeadShareInterval s = .next t_ ∧ t_.pending = s.pending := by
  unfold execHeadShareInterval
  try dsimp only
  first
  | exact ⟨_, rfl, rfl⟩
  | (refine ⟨_, rfl, ?_⟩; (repeat' split) <;> (simp; done))
  | ((repeat' split) <;> (refine ⟨_, rfl, ?_⟩; (repeat' split) <;> (simp; done)))

theorem execHeartbeatTimeout_keeps (s : State) :
    ∃ t_, execHeartbeatTimeout s = .next t_ ∧ t_.pending = s.pending := by
  unfold execHeartbeatTimeout
  try dsimp only
  first
  | exact ⟨_, rfl, rfl⟩
  | (refine ⟨_, rfl, ?_⟩; (repeat' split) <;> (simp; done))
  | ((repeat' split) <;> (refine ⟨_, rfl, ?_⟩; (repeat' split) <;> (simp; done)))

theorem execSnapshotTimeout_keeps (s : State) :
    ∃ t_, execSnapshotTimeout s = .next t_ ∧ t_.pending = s.pending := by
  unfold execSnapshotTimeout
  try dsimp only
  first
  | exact ⟨_, rfl, rfl⟩
  | (refine ⟨_, rfl, ?_⟩; (repeat' split) <;> (simp; done))
  | ((repeat' split) <;> (refine ⟨_, rfl, ?_⟩; (repeat' split) <;> (simp; done)))

theorem execMemberReportTimeout_keeps (node : NodeId) (s : State) :
    ∃ t_, execMemberReportTimeout node s = .next t_ ∧ t_.pending = s.pending := by
  unfold execMemberReportTimeout
  try dsimp only
  first
  | exact ⟨_, rfl, rfl⟩
  | (refine ⟨_, rfl, ?_⟩; (repeat' split) <;> (simp; done))
  | ((repeat' split) <;> (refine ⟨_, rfl, ?_⟩; (repeat' split) <;> (simp; done)))

theorem execPaceHoldExpiry_keeps (set : Fin 64) (s : State) :
    ∃ t_, execPaceHoldExpiry set s = .next t_ ∧ t_.pending = s.pending := by
  unfold execPaceHoldExpiry
  try dsimp only
  first
  | exact ⟨_, rfl, rfl⟩
  | (refine ⟨_, rfl, ?_⟩; (repeat' split) <;> (simp; done))
  | ((repeat' split) <;> (refine ⟨_, rfl, ?_⟩; (repeat' split) <;> (simp; done)))

theorem execDutyCapRaise_keeps (set : Fin 64) (s : State) :
    ∃ t_, execDutyCapRaise set s = .next t_ ∧ t_.pending = s.pending := by
  unfold execDutyCapRaise
  try dsimp only
  first
  | exact ⟨_, rfl, rfl⟩
  | (refine ⟨_, rfl, ?_⟩; (repeat' split) <;> (simp; done))
  | ((repeat' split) <;> (refine ⟨_, rfl, ?_⟩; (repeat' split) <;> (simp; done)))

theorem execEnvelopeSet_keeps (m : MbxId) (s : State) :
    ∃ t_, execEnvelopeSet m s = .next t_ ∧ t_.pending = s.pending := by
  unfold execEnvelopeSet
  try dsimp only
  first
  | exact ⟨_, rfl, rfl⟩
  | (refine ⟨_, rfl, ?_⟩; (repeat' split) <;> (simp; done))
  | ((repeat' split) <;> (refine ⟨_, rfl, ?_⟩; (repeat' split) <;> (simp; done)))

theorem execPowerGroupJoin_keeps (m : MbxId) (s : State) :
    ∃ t_, execPowerGroupJoin m s = .next t_ ∧ t_.pending = s.pending := by
  unfold execPowerGroupJoin
  try dsimp only
  first
  | exact ⟨_, rfl, rfl⟩
  | (refine ⟨_, rfl, ?_⟩; (repeat' split) <;> (simp; done))
  | ((repeat' split) <;> (refine ⟨_, rfl, ?_⟩; (repeat' split) <;> (simp; done)))

theorem execStewardRole_keeps (m : MbxId) (s : State) :
    ∃ t_, execStewardRole m s = .next t_ ∧ t_.pending = s.pending := by
  unfold execStewardRole
  try dsimp only
  first
  | exact ⟨_, rfl, rfl⟩
  | (refine ⟨_, rfl, ?_⟩; (repeat' split) <;> (simp; done))
  | ((repeat' split) <;> (refine ⟨_, rfl, ?_⟩; (repeat' split) <;> (simp; done)))

theorem execStewardHandover_keeps (m : MbxId) (s : State) :
    ∃ t_, execStewardHandover m s = .next t_ ∧ t_.pending = s.pending := by
  unfold execStewardHandover
  try dsimp only
  first
  | exact ⟨_, rfl, rfl⟩
  | (refine ⟨_, rfl, ?_⟩; (repeat' split) <;> (simp; done))
  | ((repeat' split) <;> (refine ⟨_, rfl, ?_⟩; (repeat' split) <;> (simp; done)))

theorem execPaceSet_keeps (m : MbxId) (s : State) :
    ∃ t_, execPaceSet m s = .next t_ ∧ t_.pending = s.pending := by
  unfold execPaceSet
  try dsimp only
  first
  | exact ⟨_, rfl, rfl⟩
  | (refine ⟨_, rfl, ?_⟩; (repeat' split) <;> (simp; done))
  | ((repeat' split) <;> (refine ⟨_, rfl, ?_⟩; (repeat' split) <;> (simp; done)))

theorem execEnvelopeStatus_keeps (m : MbxId) (s : State) :
    ∃ t_, execEnvelopeStatus m s = .next t_ ∧ t_.pending = s.pending := by
  unfold execEnvelopeStatus
  try dsimp only
  first
  | exact ⟨_, rfl, rfl⟩
  | (refine ⟨_, rfl, ?_⟩; (repeat' split) <;> (simp; done))
  | ((repeat' split) <;> (refine ⟨_, rfl, ?_⟩; (repeat' split) <;> (simp; done)))

theorem execPwrEnvCounterClear_keeps (v : W64) (s : State) :
    ∃ t_, execPwrEnvCounterClear v s = .next t_ ∧ t_.pending = s.pending := by
  unfold execPwrEnvCounterClear
  try dsimp only
  first
  | exact ⟨_, rfl, rfl⟩
  | (refine ⟨_, rfl, ?_⟩; (repeat' split) <;> (simp; done))
  | ((repeat' split) <;> (refine ⟨_, rfl, ?_⟩; (repeat' split) <;> (simp; done)))

theorem execInputPowerSample_keeps (dw : Nat) (s : State) :
    ∃ t_, execInputPowerSample dw s = .next t_ ∧ t_.pending = s.pending := by
  unfold execInputPowerSample
  try dsimp only
  first
  | exact ⟨_, rfl, rfl⟩
  | (refine ⟨_, rfl, ?_⟩; (repeat' split) <;> (simp; done))
  | ((repeat' split) <;> (refine ⟨_, rfl, ?_⟩; (repeat' split) <;> (simp; done)))

theorem execInputStageFault_keeps (s : State) :
    ∃ t_, execInputStageFault s = .next t_ ∧ t_.pending = s.pending := by
  unfold execInputStageFault
  try dsimp only
  first
  | exact ⟨_, rfl, rfl⟩
  | (refine ⟨_, rfl, ?_⟩; (repeat' split) <;> (simp; done))
  | ((repeat' split) <;> (refine ⟨_, rfl, ?_⟩; (repeat' split) <;> (simp; done)))

theorem execPeakClamp_keeps (watts : Nat) (s : State) :
    ∃ t_, execPeakClamp watts s = .next t_ ∧ t_.pending = s.pending := by
  unfold execPeakClamp
  try dsimp only
  first
  | exact ⟨_, rfl, rfl⟩
  | (refine ⟨_, rfl, ?_⟩; (repeat' split) <;> (simp; done))
  | ((repeat' split) <;> (refine ⟨_, rfl, ?_⟩; (repeat' split) <;> (simp; done)))

theorem execPeakClampEnd_keeps (s : State) :
    ∃ t_, execPeakClampEnd s = .next t_ ∧ t_.pending = s.pending := by
  unfold execPeakClampEnd
  try dsimp only
  first
  | exact ⟨_, rfl, rfl⟩
  | (refine ⟨_, rfl, ?_⟩; (repeat' split) <;> (simp; done))
  | ((repeat' split) <;> (refine ⟨_, rfl, ?_⟩; (repeat' split) <;> (simp; done)))

theorem execOverRatedEnd_keeps (s : State) :
    ∃ t_, execOverRatedEnd s = .next t_ ∧ t_.pending = s.pending := by
  unfold execOverRatedEnd
  try dsimp only
  first
  | exact ⟨_, rfl, rfl⟩
  | (refine ⟨_, rfl, ?_⟩; (repeat' split) <;> (simp; done))
  | ((repeat' split) <;> (refine ⟨_, rfl, ?_⟩; (repeat' split) <;> (simp; done)))

theorem execWeighHouseCompare_keeps (s : State) :
    ∃ t_, execWeighHouseCompare s = .next t_ ∧ t_.pending = s.pending := by
  unfold execWeighHouseCompare
  try dsimp only
  first
  | exact ⟨_, rfl, rfl⟩
  | (refine ⟨_, rfl, ?_⟩; (repeat' split) <;> (simp; done))
  | ((repeat' split) <;> (refine ⟨_, rfl, ?_⟩; (repeat' split) <;> (simp; done)))

theorem execDeltaRecompute_keeps (s : State) :
    ∃ t_, execDeltaRecompute s = .next t_ ∧ t_.pending = s.pending := by
  unfold execDeltaRecompute
  try dsimp only
  first
  | exact ⟨_, rfl, rfl⟩
  | (refine ⟨_, rfl, ?_⟩; (repeat' split) <;> (simp; done))
  | ((repeat' split) <;> (refine ⟨_, rfl, ?_⟩; (repeat' split) <;> (simp; done)))

theorem execMeasurementAbsent_keeps (s : State) :
    ∃ t_, execMeasurementAbsent s = .next t_ ∧ t_.pending = s.pending := by
  unfold execMeasurementAbsent
  try dsimp only
  first
  | exact ⟨_, rfl, rfl⟩
  | (refine ⟨_, rfl, ?_⟩; (repeat' split) <;> (simp; done))
  | ((repeat' split) <;> (refine ⟨_, rfl, ?_⟩; (repeat' split) <;> (simp; done)))

theorem execRecalibrationAttempt_keeps (s : State) :
    ∃ t_, execRecalibrationAttempt s = .next t_ ∧ t_.pending = s.pending := by
  unfold execRecalibrationAttempt
  try dsimp only
  first
  | exact ⟨_, rfl, rfl⟩
  | (refine ⟨_, rfl, ?_⟩; (repeat' split) <;> (simp; done))
  | ((repeat' split) <;> (refine ⟨_, rfl, ?_⟩; (repeat' split) <;> (simp; done)))

theorem execRecalibrationEnd_keeps (s : State) :
    ∃ t_, execRecalibrationEnd s = .next t_ ∧ t_.pending = s.pending := by
  unfold execRecalibrationEnd
  try dsimp only
  first
  | exact ⟨_, rfl, rfl⟩
  | (refine ⟨_, rfl, ?_⟩; (repeat' split) <;> (simp; done))
  | ((repeat' split) <;> (refine ⟨_, rfl, ?_⟩; (repeat' split) <;> (simp; done)))

theorem execThermalSensorRead_keeps (t : Temps) (s : State) :
    ∃ t_, execThermalSensorRead t s = .next t_ ∧ t_.pending = s.pending := by
  unfold execThermalSensorRead
  try dsimp only
  first
  | exact ⟨_, rfl, rfl⟩
  | (refine ⟨_, rfl, ?_⟩; (repeat' split) <;> (simp; done))
  | ((repeat' split) <;> (refine ⟨_, rfl, ?_⟩; (repeat' split) <;> (simp; done)))

theorem execThermalTrip_keeps (tempC : Nat) (s : State) :
    ∃ t_, execThermalTrip tempC s = .next t_ ∧ t_.pending = s.pending := by
  unfold execThermalTrip
  try dsimp only
  first
  | exact ⟨_, rfl, rfl⟩
  | (refine ⟨_, rfl, ?_⟩; (repeat' split) <;> (simp; done))
  | ((repeat' split) <;> (refine ⟨_, rfl, ?_⟩; (repeat' split) <;> (simp; done)))

theorem execMarginEvaluation_keeps (slack : List Nat) (s : State) :
    ∃ t_, execMarginEvaluation slack s = .next t_ ∧ t_.pending = s.pending := by
  unfold execMarginEvaluation
  try dsimp only
  first
  | exact ⟨_, rfl, rfl⟩
  | (refine ⟨_, rfl, ?_⟩; (repeat' split) <;> (simp; done))
  | ((repeat' split) <;> (refine ⟨_, rfl, ?_⟩; (repeat' split) <;> (simp; done)))

theorem execPowerTrim_keeps (m : MbxId) (s : State) :
    ∃ t_, execPowerTrim m s = .next t_ ∧ t_.pending = s.pending := by
  unfold execPowerTrim
  try dsimp only
  first
  | exact ⟨_, rfl, rfl⟩
  | (refine ⟨_, rfl, ?_⟩; (repeat' split) <;> (simp; done))
  | ((repeat' split) <;> (refine ⟨_, rfl, ?_⟩; (repeat' split) <;> (simp; done)))

theorem execCapTags_keeps (m : MbxId) (s : State) :
    ∃ t_, execCapTags m s = .next t_ ∧ t_.pending = s.pending := by
  unfold execCapTags
  try dsimp only
  first
  | exact ⟨_, rfl, rfl⟩
  | (refine ⟨_, rfl, ?_⟩; (repeat' split) <;> (simp; done))
  | ((repeat' split) <;> (refine ⟨_, rfl, ?_⟩; (repeat' split) <;> (simp; done)))

theorem execFixedRate_keeps (m : MbxId) (s : State) :
    ∃ t_, execFixedRate m s = .next t_ ∧ t_.pending = s.pending := by
  unfold execFixedRate
  try dsimp only
  first
  | exact ⟨_, rfl, rfl⟩
  | (refine ⟨_, rfl, ?_⟩; (repeat' split) <;> (simp; done))
  | ((repeat' split) <;> (refine ⟨_, rfl, ?_⟩; (repeat' split) <;> (simp; done)))

theorem execDroopMode_keeps (m : MbxId) (s : State) :
    ∃ t_, execDroopMode m s = .next t_ ∧ t_.pending = s.pending := by
  unfold execDroopMode
  try dsimp only
  first
  | exact ⟨_, rfl, rfl⟩
  | (refine ⟨_, rfl, ?_⟩; (repeat' split) <;> (simp; done))
  | ((repeat' split) <;> (refine ⟨_, rfl, ?_⟩; (repeat' split) <;> (simp; done)))

theorem execWeighCalibrate_keeps (m : MbxId) (s : State) :
    ∃ t_, execWeighCalibrate m s = .next t_ ∧ t_.pending = s.pending := by
  unfold execWeighCalibrate
  try dsimp only
  first
  | exact ⟨_, rfl, rfl⟩
  | (refine ⟨_, rfl, ?_⟩; (repeat' split) <;> (simp; done))
  | ((repeat' split) <;> (refine ⟨_, rfl, ?_⟩; (repeat' split) <;> (simp; done)))

theorem execPwrCounterClear_keeps (v : W64) (s : State) :
    ∃ t_, execPwrCounterClear v s = .next t_ ∧ t_.pending = s.pending := by
  unfold execPwrCounterClear
  try dsimp only
  first
  | exact ⟨_, rfl, rfl⟩
  | (refine ⟨_, rfl, ?_⟩; (repeat' split) <;> (simp; done))
  | ((repeat' split) <;> (refine ⟨_, rfl, ?_⟩; (repeat' split) <;> (simp; done)))

theorem execMbxDoorbellGo_keeps (m : MbxId) (v : W64) (s : State) :
    ∃ t_, execMbxDoorbellGo m v s = .next t_ ∧ t_.pending = s.pending := by
  unfold execMbxDoorbellGo
  try dsimp only
  first
  | exact ⟨_, rfl, rfl⟩
  | (refine ⟨_, rfl, ?_⟩; (repeat' split) <;> (simp; done))
  | ((repeat' split) <;> (refine ⟨_, rfl, ?_⟩; (repeat' split) <;> (simp; done)))

theorem execMbxOpDoneWrite_keeps (m : MbxId) (v : W64) (s : State) :
    ∃ t_, execMbxOpDoneWrite m v s = .next t_ ∧ t_.pending = s.pending := by
  unfold execMbxOpDoneWrite
  try dsimp only
  first
  | exact ⟨_, rfl, rfl⟩
  | (refine ⟨_, rfl, ?_⟩; (repeat' split) <;> (simp; done))
  | ((repeat' split) <;> (refine ⟨_, rfl, ?_⟩; (repeat' split) <;> (simp; done)))

theorem execLongOperationEnd_keeps (m : MbxId) (slot : Option (Fin 8)) (ok : Bool) (data : List Byte) (s : State) :
    ∃ t_, execLongOperationEnd m slot ok data s = .next t_ ∧ t_.pending = s.pending := by
  unfold execLongOperationEnd
  try dsimp only
  first
  | exact ⟨_, rfl, rfl⟩
  | (refine ⟨_, rfl, ?_⟩; (repeat' split) <;> (simp; done))
  | ((repeat' split) <;> (refine ⟨_, rfl, ?_⟩; (repeat' split) <;> (simp; done)))

theorem execMbxCounterClear_keeps (m : MbxId) (v : W64) (s : State) :
    ∃ t_, execMbxCounterClear m v s = .next t_ ∧ t_.pending = s.pending := by
  unfold execMbxCounterClear
  try dsimp only
  first
  | exact ⟨_, rfl, rfl⟩
  | (refine ⟨_, rfl, ?_⟩; (repeat' split) <;> (simp; done))
  | ((repeat' split) <;> (refine ⟨_, rfl, ?_⟩; (repeat' split) <;> (simp; done)))

theorem execMailbox2Command_keeps (src : NodeId) (bytes : List Byte) (s : State) :
    ∃ t_, execMailbox2Command src bytes s = .next t_ ∧ t_.pending = s.pending := by
  unfold execMailbox2Command
  try dsimp only
  first
  | exact ⟨_, rfl, rfl⟩
  | (refine ⟨_, rfl, ?_⟩; (repeat' split) <;> (simp; done))
  | ((repeat' split) <;> (refine ⟨_, rfl, ?_⟩; (repeat' split) <;> (simp; done)))

theorem execFabricMailbox_keeps (m : MbxId) (s : State) :
    ∃ t_, execFabricMailbox m s = .next t_ ∧ t_.pending = s.pending := by
  unfold execFabricMailbox
  try dsimp only
  first
  | exact ⟨_, rfl, rfl⟩
  | (refine ⟨_, rfl, ?_⟩; (repeat' split) <;> (simp; done))
  | ((repeat' split) <;> (refine ⟨_, rfl, ?_⟩; (repeat' split) <;> (simp; done)))

theorem execFabricMailboxResponse_keeps (src : NodeId) (bytes : List Byte) (s : State) :
    ∃ t_, execFabricMailboxResponse src bytes s = .next t_ ∧ t_.pending = s.pending := by
  unfold execFabricMailboxResponse
  try dsimp only
  first
  | exact ⟨_, rfl, rfl⟩
  | (refine ⟨_, rfl, ?_⟩; (repeat' split) <;> (simp; done))
  | ((repeat' split) <;> (refine ⟨_, rfl, ?_⟩; (repeat' split) <;> (simp; done)))

theorem execFabricMailboxTimeout_keeps (s : State) :
    ∃ t_, execFabricMailboxTimeout s = .next t_ ∧ t_.pending = s.pending := by
  unfold execFabricMailboxTimeout
  try dsimp only
  first
  | exact ⟨_, rfl, rfl⟩
  | (refine ⟨_, rfl, ?_⟩; (repeat' split) <;> (simp; done))
  | ((repeat' split) <;> (refine ⟨_, rfl, ?_⟩; (repeat' split) <;> (simp; done)))

theorem execWatchdogExpiry_keeps (s : State) :
    ∃ t_, execWatchdogExpiry s = .next t_ ∧ t_.pending = s.pending := by
  unfold execWatchdogExpiry
  try dsimp only
  first
  | exact ⟨_, rfl, rfl⟩
  | (refine ⟨_, rfl, ?_⟩; (repeat' split) <;> (simp; done))
  | ((repeat' split) <;> (refine ⟨_, rfl, ?_⟩; (repeat' split) <;> (simp; done)))

theorem execIdentityRead_keeps (m : MbxId) (s : State) :
    ∃ t_, execIdentityRead m s = .next t_ ∧ t_.pending = s.pending := by
  unfold execIdentityRead
  try dsimp only
  first
  | exact ⟨_, rfl, rfl⟩
  | (refine ⟨_, rfl, ?_⟩; (repeat' split) <;> (simp; done))
  | ((repeat' split) <;> (refine ⟨_, rfl, ?_⟩; (repeat' split) <;> (simp; done)))

theorem execGeometryRead_keeps (m : MbxId) (s : State) :
    ∃ t_, execGeometryRead m s = .next t_ ∧ t_.pending = s.pending := by
  unfold execGeometryRead
  try dsimp only
  first
  | exact ⟨_, rfl, rfl⟩
  | (refine ⟨_, rfl, ?_⟩; (repeat' split) <;> (simp; done))
  | ((repeat' split) <;> (refine ⟨_, rfl, ?_⟩; (repeat' split) <;> (simp; done)))

theorem execBlockRead_keeps (m : MbxId) (s : State) :
    ∃ t_, execBlockRead m s = .next t_ ∧ t_.pending = s.pending := by
  unfold execBlockRead
  try dsimp only
  first
  | exact ⟨_, rfl, rfl⟩
  | (refine ⟨_, rfl, ?_⟩; (repeat' split) <;> (simp; done))
  | ((repeat' split) <;> (refine ⟨_, rfl, ?_⟩; (repeat' split) <;> (simp; done)))

theorem execBlockWrite_keeps (m : MbxId) (s : State) :
    ∃ t_, execBlockWrite m s = .next t_ ∧ t_.pending = s.pending := by
  unfold execBlockWrite
  try dsimp only
  first
  | exact ⟨_, rfl, rfl⟩
  | (refine ⟨_, rfl, ?_⟩; (repeat' split) <;> (simp; done))
  | ((repeat' split) <;> (refine ⟨_, rfl, ?_⟩; (repeat' split) <;> (simp; done)))

theorem execEventRoute_keeps (m : MbxId) (s : State) :
    ∃ t_, execEventRoute m s = .next t_ ∧ t_.pending = s.pending := by
  unfold execEventRoute
  try dsimp only
  first
  | exact ⟨_, rfl, rfl⟩
  | (refine ⟨_, rfl, ?_⟩; (repeat' split) <;> (simp; done))
  | ((repeat' split) <;> (refine ⟨_, rfl, ?_⟩; (repeat' split) <;> (simp; done)))

theorem execEventLogRead_keeps (m : MbxId) (s : State) :
    ∃ t_, execEventLogRead m s = .next t_ ∧ t_.pending = s.pending := by
  unfold execEventLogRead
  try dsimp only
  first
  | exact ⟨_, rfl, rfl⟩
  | (refine ⟨_, rfl, ?_⟩; (repeat' split) <;> (simp; done))
  | ((repeat' split) <;> (refine ⟨_, rfl, ?_⟩; (repeat' split) <;> (simp; done)))

theorem execTelemetryWindow_keeps (m : MbxId) (s : State) :
    ∃ t_, execTelemetryWindow m s = .next t_ ∧ t_.pending = s.pending := by
  unfold execTelemetryWindow
  try dsimp only
  first
  | exact ⟨_, rfl, rfl⟩
  | (refine ⟨_, rfl, ?_⟩; (repeat' split) <;> (simp; done))
  | ((repeat' split) <;> (refine ⟨_, rfl, ?_⟩; (repeat' split) <;> (simp; done)))

theorem execTelemetryPeriod_keeps (w : Fin 16) (s : State) :
    ∃ t_, execTelemetryPeriod w s = .next t_ ∧ t_.pending = s.pending := by
  unfold execTelemetryPeriod
  try dsimp only
  first
  | exact ⟨_, rfl, rfl⟩
  | (refine ⟨_, rfl, ?_⟩; (repeat' split) <;> (simp; done))
  | ((repeat' split) <;> (refine ⟨_, rfl, ?_⟩; (repeat' split) <;> (simp; done)))

theorem execEventLogWrite_keeps (s : State) :
    ∃ t_, execEventLogWrite s = .next t_ ∧ t_.pending = s.pending := by
  unfold execEventLogWrite
  try dsimp only
  first
  | exact ⟨_, rfl, rfl⟩
  | (refine ⟨_, rfl, ?_⟩; (repeat' split) <;> (simp; done))
  | ((repeat' split) <;> (refine ⟨_, rfl, ?_⟩; (repeat' split) <;> (simp; done)))

theorem execFwLoad_keeps (m : MbxId) (readOk : Bool) (s : State) :
    ∃ t_, execFwLoad m readOk s = .next t_ ∧ t_.pending = s.pending := by
  unfold execFwLoad
  try dsimp only
  first
  | exact ⟨_, rfl, rfl⟩
  | (refine ⟨_, rfl, ?_⟩; (repeat' split) <;> (simp; done))
  | ((repeat' split) <;> (refine ⟨_, rfl, ?_⟩; (repeat' split) <;> (simp; done)))

theorem execFwActivate_keeps (m : MbxId) (s : State) :
    ∃ t_, execFwActivate m s = .next t_ ∧ t_.pending = s.pending := by
  unfold execFwActivate
  try dsimp only
  first
  | exact ⟨_, rfl, rfl⟩
  | (refine ⟨_, rfl, ?_⟩; (repeat' split) <;> (simp; done))
  | ((repeat' split) <;> (refine ⟨_, rfl, ?_⟩; (repeat' split) <;> (simp; done)))

theorem execFirmwareStart_keeps (accepts : Bool) (s : State) :
    ∃ t_, execFirmwareStart accepts s = .next t_ ∧ t_.pending = s.pending := by
  unfold execFirmwareStart
  try dsimp only
  first
  | exact ⟨_, rfl, rfl⟩
  | (refine ⟨_, rfl, ?_⟩; (repeat' split) <;> (simp; done))
  | ((repeat' split) <;> (refine ⟨_, rfl, ?_⟩; (repeat' split) <;> (simp; done)))

theorem execActivationComplete_keeps (s : State) :
    ∃ t_, execActivationComplete s = .next t_ ∧ t_.pending = s.pending := by
  unfold execActivationComplete
  try dsimp only
  first
  | exact ⟨_, rfl, rfl⟩
  | (refine ⟨_, rfl, ?_⟩; (repeat' split) <;> (simp; done))
  | ((repeat' split) <;> (refine ⟨_, rfl, ?_⟩; (repeat' split) <;> (simp; done)))

theorem execActivationTimeout_keeps (s : State) :
    ∃ t_, execActivationTimeout s = .next t_ ∧ t_.pending = s.pending := by
  unfold execActivationTimeout
  try dsimp only
  first
  | exact ⟨_, rfl, rfl⟩
  | (refine ⟨_, rfl, ?_⟩; (repeat' split) <;> (simp; done))
  | ((repeat' split) <;> (refine ⟨_, rfl, ?_⟩; (repeat' split) <;> (simp; done)))

theorem execFwStatus_keeps (m : MbxId) (s : State) :
    ∃ t_, execFwStatus m s = .next t_ ∧ t_.pending = s.pending := by
  unfold execFwStatus
  try dsimp only
  first
  | exact ⟨_, rfl, rfl⟩
  | (refine ⟨_, rfl, ?_⟩; (repeat' split) <;> (simp; done))
  | ((repeat' split) <;> (refine ⟨_, rfl, ?_⟩; (repeat' split) <;> (simp; done)))

theorem execFwStartTimeout_keeps (s : State) :
    ∃ t_, execFwStartTimeout s = .next t_ ∧ t_.pending = s.pending := by
  unfold execFwStartTimeout
  try dsimp only
  first
  | exact ⟨_, rfl, rfl⟩
  | (refine ⟨_, rfl, ?_⟩; (repeat' split) <;> (simp; done))
  | ((repeat' split) <;> (refine ⟨_, rfl, ?_⟩; (repeat' split) <;> (simp; done)))

theorem execDeviceReset_keeps (m : MbxId) (s : State) :
    ∃ t_, execDeviceReset m s = .next t_ ∧ t_.pending = s.pending := by
  unfold execDeviceReset
  try dsimp only
  first
  | exact ⟨_, rfl, rfl⟩
  | (refine ⟨_, rfl, ?_⟩; (repeat' split) <;> (simp; done))
  | ((repeat' split) <;> (refine ⟨_, rfl, ?_⟩; (repeat' split) <;> (simp; done)))

theorem execDeviceResetBegin_keeps (s : State) :
    ∃ t_, execDeviceResetBegin s = .next t_ ∧ t_.pending = s.pending := by
  unfold execDeviceResetBegin
  try dsimp only
  first
  | exact ⟨_, rfl, rfl⟩
  | (refine ⟨_, rfl, ?_⟩; (repeat' split) <;> (simp; done))
  | ((repeat' split) <;> (refine ⟨_, rfl, ?_⟩; (repeat' split) <;> (simp; done)))

theorem execPowerOnReset_keeps (s : State) :
    ∃ t_, execPowerOnReset s = .next t_ ∧ t_.pending = s.pending := by
  unfold execPowerOnReset
  try dsimp only
  first
  | exact ⟨_, rfl, rfl⟩
  | (refine ⟨_, rfl, ?_⟩; (repeat' split) <;> (simp; done))
  | ((repeat' split) <;> (refine ⟨_, rfl, ?_⟩; (repeat' split) <;> (simp; done)))

theorem execResetNAssert_keeps (s : State) :
    ∃ t_, execResetNAssert s = .next t_ ∧ t_.pending = s.pending := by
  unfold execResetNAssert
  try dsimp only
  first
  | exact ⟨_, rfl, rfl⟩
  | (refine ⟨_, rfl, ?_⟩; (repeat' split) <;> (simp; done))
  | ((repeat' split) <;> (refine ⟨_, rfl, ?_⟩; (repeat' split) <;> (simp; done)))

theorem execResetNRelease_keeps (s : State) :
    ∃ t_, execResetNRelease s = .next t_ ∧ t_.pending = s.pending := by
  unfold execResetNRelease
  try dsimp only
  first
  | exact ⟨_, rfl, rfl⟩
  | (refine ⟨_, rfl, ?_⟩; (repeat' split) <;> (simp; done))
  | ((repeat' split) <;> (refine ⟨_, rfl, ?_⟩; (repeat' split) <;> (simp; done)))

theorem execResetWriteBackEnd_keeps (s : State) :
    ∃ t_, execResetWriteBackEnd s = .next t_ ∧ t_.pending = s.pending := by
  unfold execResetWriteBackEnd
  try dsimp only
  first
  | exact ⟨_, rfl, rfl⟩
  | (refine ⟨_, rfl, ?_⟩; (repeat' split) <;> (simp; done))
  | ((repeat' split) <;> (refine ⟨_, rfl, ?_⟩; (repeat' split) <;> (simp; done)))

theorem execStackTrainingEnd_keeps (failed : BitVec 24) (s : State) :
    ∃ t_, execStackTrainingEnd failed s = .next t_ ∧ t_.pending = s.pending := by
  unfold execStackTrainingEnd
  try dsimp only
  first
  | exact ⟨_, rfl, rfl⟩
  | (refine ⟨_, rfl, ?_⟩; (repeat' split) <;> (simp; done))
  | ((repeat' split) <;> (refine ⟨_, rfl, ?_⟩; (repeat' split) <;> (simp; done)))

theorem execPoolReady_keeps (s : State) :
    ∃ t_, execPoolReady s = .next t_ ∧ t_.pending = s.pending := by
  unfold execPoolReady
  try dsimp only
  first
  | exact ⟨_, rfl, rfl⟩
  | (refine ⟨_, rfl, ?_⟩; (repeat' split) <;> (simp; done))
  | ((repeat' split) <;> (refine ⟨_, rfl, ?_⟩; (repeat' split) <;> (simp; done)))

theorem execFirmwareReady_keeps (s : State) :
    ∃ t_, execFirmwareReady s = .next t_ ∧ t_.pending = s.pending := by
  unfold execFirmwareReady
  try dsimp only
  first
  | exact ⟨_, rfl, rfl⟩
  | (refine ⟨_, rfl, ?_⟩; (repeat' split) <;> (simp; done))
  | ((repeat' split) <;> (refine ⟨_, rfl, ?_⟩; (repeat' split) <;> (simp; done)))

theorem execBootCounterClear_keeps (v : W64) (s : State) :
    ∃ t_, execBootCounterClear v s = .next t_ ∧ t_.pending = s.pending := by
  unfold execBootCounterClear
  try dsimp only
  first
  | exact ⟨_, rfl, rfl⟩
  | (refine ⟨_, rfl, ?_⟩; (repeat' split) <;> (simp; done))
  | ((repeat' split) <;> (refine ⟨_, rfl, ?_⟩; (repeat' split) <;> (simp; done)))

theorem execCertRead_keeps (m : MbxId) (s : State) :
    ∃ t_, execCertRead m s = .next t_ ∧ t_.pending = s.pending := by
  unfold execCertRead
  try dsimp only
  first
  | exact ⟨_, rfl, rfl⟩
  | (refine ⟨_, rfl, ?_⟩; (repeat' split) <;> (simp; done))
  | ((repeat' split) <;> (refine ⟨_, rfl, ?_⟩; (repeat' split) <;> (simp; done)))

theorem execAttest_keeps (m : MbxId) (s : State) :
    ∃ t_, execAttest m s = .next t_ ∧ t_.pending = s.pending := by
  exact ⟨_, rfl, serve_pending _ _ _ _ (fun c x => by simp [attest])⟩

theorem execDebugChallenge_keeps (m : MbxId) (s : State) :
    ∃ t_, execDebugChallenge m s = .next t_ ∧ t_.pending = s.pending := by
  exact ⟨_, rfl, serve_pending _ _ _ _ (fun c x => by simp [debugChallenge])⟩

theorem execDebugAuth_keeps (m : MbxId) (s : State) :
    ∃ t_, execDebugAuth m s = .next t_ ∧ t_.pending = s.pending := by
  exact ⟨_, rfl, serve_pending _ _ _ _ (fun c x => by simp [debugAuth])⟩

theorem execRootRevoke_keeps (m : MbxId) (s : State) :
    ∃ t_, execRootRevoke m s = .next t_ ∧ t_.pending = s.pending := by
  exact ⟨_, rfl, serve_pending _ _ _ _ (fun c x => by simp)⟩

theorem execSvnAdvance_keeps (m : MbxId) (s : State) :
    ∃ t_, execSvnAdvance m s = .next t_ ∧ t_.pending = s.pending := by
  exact ⟨_, rfl, serve_pending _ _ _ _ (fun c x => by simp)⟩

theorem execKeyLoad_keeps (m : MbxId) (s : State) :
    ∃ t_, execKeyLoad m s = .next t_ ∧ t_.pending = s.pending := by
  unfold execKeyLoad
  try dsimp only
  first
  | exact ⟨_, rfl, rfl⟩
  | (refine ⟨_, rfl, ?_⟩; (repeat' split) <;> (simp; done))
  | ((repeat' split) <;> (refine ⟨_, rfl, ?_⟩; (repeat' split) <;> (simp; done)))

theorem execKeyErase_keeps (m : MbxId) (s : State) :
    ∃ t_, execKeyErase m s = .next t_ ∧ t_.pending = s.pending := by
  unfold execKeyErase
  try dsimp only
  first
  | exact ⟨_, rfl, rfl⟩
  | (refine ⟨_, rfl, ?_⟩; (repeat' split) <;> (simp; done))
  | ((repeat' split) <;> (refine ⟨_, rfl, ?_⟩; (repeat' split) <;> (simp; done)))

theorem execDebugEnd_keeps (v : W64) (s : State) :
    ∃ t_, execDebugEnd v s = .next t_ ∧ t_.pending = s.pending := by
  unfold execDebugEnd
  try dsimp only
  first
  | exact ⟨_, rfl, rfl⟩
  | (refine ⟨_, rfl, ?_⟩; (repeat' split) <;> (simp; done))
  | ((repeat' split) <;> (refine ⟨_, rfl, ?_⟩; (repeat' split) <;> (simp; done)))

theorem execNotAfterExpiry_keeps (s : State) :
    ∃ t_, execNotAfterExpiry s = .next t_ ∧ t_.pending = s.pending := by
  unfold execNotAfterExpiry
  try dsimp only
  first
  | exact ⟨_, rfl, rfl⟩
  | (refine ⟨_, rfl, ?_⟩; (repeat' split) <;> (simp; done))
  | ((repeat' split) <;> (refine ⟨_, rfl, ?_⟩; (repeat' split) <;> (simp; done)))

theorem execChallengeExpiry_keeps (s : State) :
    ∃ t_, execChallengeExpiry s = .next t_ ∧ t_.pending = s.pending := by
  unfold execChallengeExpiry
  try dsimp only
  first
  | exact ⟨_, rfl, rfl⟩
  | (refine ⟨_, rfl, ?_⟩; (repeat' split) <;> (simp; done))
  | ((repeat' split) <;> (refine ⟨_, rfl, ?_⟩; (repeat' split) <;> (simp; done)))

theorem execDbgCounterClear_keeps (v : W64) (s : State) :
    ∃ t_, execDbgCounterClear v s = .next t_ ∧ t_.pending = s.pending := by
  unfold execDbgCounterClear
  try dsimp only
  first
  | exact ⟨_, rfl, rfl⟩
  | (refine ⟨_, rfl, ?_⟩; (repeat' split) <;> (simp; done))
  | ((repeat' split) <;> (refine ⟨_, rfl, ?_⟩; (repeat' split) <;> (simp; done)))

theorem execBridgeSegmentDown_keeps (seg : Fin 2) (s : State) :
    ∃ t_, execBridgeSegmentDown seg s = .next t_ ∧ t_.pending = s.pending := by
  unfold execBridgeSegmentDown
  refine ⟨_, rfl, ?_⟩
  unfold clocked
  split <;> simp

theorem execCntCounterClear_keeps (v : W64) (s : State) :
    ∃ t_, execCntCounterClear v s = .next t_ ∧ t_.pending = s.pending := by
  unfold execCntCounterClear
  try dsimp only
  first
  | exact ⟨_, rfl, rfl⟩
  | (refine ⟨_, rfl, ?_⟩; (repeat' split) <;> (simp; done))
  | ((repeat' split) <;> (refine ⟨_, rfl, ?_⟩; (repeat' split) <;> (simp; done)))

theorem execHbmCounterClear_keeps (v : W64) (s : State) :
    ∃ t_, execHbmCounterClear v s = .next t_ ∧ t_.pending = s.pending := by
  unfold execHbmCounterClear
  try dsimp only
  first
  | exact ⟨_, rfl, rfl⟩
  | (refine ⟨_, rfl, ?_⟩; (repeat' split) <;> (simp; done))
  | ((repeat' split) <;> (refine ⟨_, rfl, ?_⟩; (repeat' split) <;> (simp; done)))

theorem execInputUndervoltage_keeps (s : State) :
    ∃ t_, execInputUndervoltage s = .next t_ ∧ t_.pending = s.pending := by
  unfold execInputUndervoltage
  try dsimp only
  first
  | exact ⟨_, rfl, rfl⟩
  | (refine ⟨_, rfl, ?_⟩; (repeat' split) <;> (simp; done))
  | ((repeat' split) <;> (refine ⟨_, rfl, ?_⟩; (repeat' split) <;> (simp; done)))

theorem execRefclkLoss_keeps (s : State) :
    ∃ t_, execRefclkLoss s = .next t_ ∧ t_.pending = s.pending := by
  unfold execRefclkLoss
  try dsimp only
  first
  | exact ⟨_, rfl, rfl⟩
  | (refine ⟨_, rfl, ?_⟩; (repeat' split) <;> (simp; done))
  | ((repeat' split) <;> (refine ⟨_, rfl, ?_⟩; (repeat' split) <;> (simp; done)))

theorem execRegisterRead_keeps (p : Path) (off : BitVec 24) (width : Nat) (s : State) :
    ∃ t_, execRegisterRead p off width s = .next t_ ∧ t_.pending = s.pending := by
  unfold execRegisterRead
  try dsimp only
  first
  | exact ⟨_, rfl, rfl⟩
  | (refine ⟨_, rfl, ?_⟩; (repeat' split) <;> (simp; done))
  | ((repeat' split) <;> (refine ⟨_, rfl, ?_⟩; (repeat' split) <;> (simp; done)))

theorem execDebugPathAccess_keeps (eng : BitVec 8) (sub : Bool) (off : BitVec 12) (op : DebugOp) (s : State) :
    ∃ t_, execDebugPathAccess eng sub off op s = .next t_ ∧ t_.pending = s.pending := by
  unfold execDebugPathAccess
  try dsimp only
  first
  | exact ⟨_, rfl, rfl⟩
  | (refine ⟨_, rfl, ?_⟩; (repeat' split) <;> (simp; done))
  | ((repeat' split) <;> (refine ⟨_, rfl, ?_⟩; (repeat' split) <;> (simp; done)))

theorem execTestPortAccess_keeps (op : TestOp) (s : State) :
    ∃ t_, execTestPortAccess op s = .next t_ ∧ t_.pending = s.pending := by
  unfold execTestPortAccess
  try dsimp only
  first
  | exact ⟨_, rfl, rfl⟩
  | (refine ⟨_, rfl, ?_⟩; (repeat' split) <;> (simp; done))
  | ((repeat' split) <;> (refine ⟨_, rfl, ?_⟩; (repeat' split) <;> (simp; done)))

theorem execConfigurationRequest_keeps (p : PortId) (req : CfgReq) (s : State) :
    ∃ t_, execConfigurationRequest p req s = .next t_ ∧ t_.pending = s.pending := by
  unfold execConfigurationRequest
  try dsimp only
  first
  | exact ⟨_, rfl, rfl⟩
  | (refine ⟨_, rfl, ?_⟩; (repeat' split) <;> (simp; done))
  | ((repeat' split) <;> (refine ⟨_, rfl, ?_⟩; (repeat' split) <;> (simp; done)))

theorem execRdmaResponseReceive_keeps (p : EthId) (qpn : BitVec 12) (rsp : RdmaRsp) (s : State) :
    ∃ t_, execRdmaResponseReceive p qpn rsp s = .next t_ ∧ t_.pending = s.pending := by
  unfold execRdmaResponseReceive
  try dsimp only
  first
  | exact ⟨_, rfl, rfl⟩
  | (refine ⟨_, rfl, ?_⟩; (repeat' split) <;> (simp; done))
  | ((repeat' split) <;> (refine ⟨_, rfl, ?_⟩; (repeat' split) <;> (simp; done)))

theorem execCompletionTimeout_keeps (p : PortId) (req : TimedOut) (s : State) :
    ∃ t_, execCompletionTimeout p req s = .next t_ ∧ t_.pending = s.pending := by
  unfold execCompletionTimeout
  try dsimp only
  first
  | exact ⟨_, rfl, rfl⟩
  | (refine ⟨_, rfl, ?_⟩; (repeat' split) <;> (simp; done))
  | ((repeat' split) <;> (refine ⟨_, rfl, ?_⟩; (repeat' split) <;> (simp; done)))

theorem execWatchdogRestart_keeps (s : State) :
    ∃ t_, execWatchdogRestart s = .next t_ ∧ t_.pending = s.pending := by
  unfold execWatchdogRestart
  try dsimp only
  first
  | exact ⟨_, rfl, rfl⟩
  | (refine ⟨_, rfl, ?_⟩; (repeat' split) <;> (simp; done))
  | ((repeat' split) <;> (refine ⟨_, rfl, ?_⟩; (repeat' split) <;> (simp; done)))

theorem execPpsOutEdge_keeps (s : State) :
    ∃ t_, execPpsOutEdge s = .next t_ ∧ t_.pending = s.pending := by
  unfold execPpsOutEdge
  try dsimp only
  first
  | exact ⟨_, rfl, rfl⟩
  | (refine ⟨_, rfl, ?_⟩; (repeat' split) <;> (simp; done))
  | ((repeat' split) <;> (refine ⟨_, rfl, ?_⟩; (repeat' split) <;> (simp; done)))

theorem countWhere_keep (k : Nat) (l : List (Bool × Nat)) (s : State) :
    (countWhere k l s).pending = s.pending ∧ (countWhere k l s).sec = s.sec :=
  foldl_keep _ _ _ _ (fun x e => by split <;> simp) ⟨rfl, rfl⟩

@[simp] theorem romReady_fr (s : State) : (romReady s).pending = s.pending ∧ (romReady s).sec = s.sec := by
  unfold romReady
  dsimp only
  split <;> simp

@[simp] theorem linksBegin_fr (s : State) : (linksBegin s).pending = s.pending ∧ (linksBegin s).sec = s.sec := by
  unfold linksBegin
  extract_lets wait
  split
  · exact foldl_keep _ _ _ _ (fun x n => by simp) (by simp)
  · exact ⟨rfl, rfl⟩

@[simp] theorem onlineInitialises_fr (s : State) :
    (onlineInitialises s).pending = s.pending ∧ (onlineInitialises s).sec = s.sec := by
  unfold onlineInitialises
  refine foldl_keep _ _ _ _ ?_ ⟨rfl, rfl⟩
  intro x o
  dsimp only
  split <;> simp

@[simp] theorem handoverTimeout_fr (s : State) :
    (handoverTimeout s).pending = s.pending ∧ (handoverTimeout s).sec = s.sec := by
  unfold handoverTimeout
  split <;> simp

@[simp] theorem refetchWork_fr (p : EthId) (qpn : BitVec 12) (s : State) :
    (refetchWork p qpn s).pending = s.pending ∧ (refetchWork p qpn s).sec = s.sec := by
  unfold refetchWork
  split
  · split <;> simp
  · exact ⟨rfl, rfl⟩

@[simp] theorem withdrawTimeout_fr (n : Nat) (s : State) :
    (withdrawTimeout n s).pending = s.pending ∧ (withdrawTimeout n s).sec = s.sec := by
  unfold withdrawTimeout
  (repeat' split) <;> simp

@[simp] theorem rawTransmit_fr (p : Nat) (s : State) :
    (rawTransmit p s).pending = s.pending ∧ (rawTransmit p s).sec = s.sec := by
  unfold rawTransmit
  dsimp only
  repeat' (split <;> (try (rename_i heq; have hp := (congrArg (fun r => r.2.pending) heq).symm; have hq := (congrArg (fun r => r.2.sec) heq).symm; simp at hp hq)))
  all_goals simp [*]

@[simp] theorem sendIdles_fr (s : State) : (sendIdles s).pending = s.pending ∧ (sendIdles s).sec = s.sec :=
  foldl_keep _ _ _ _ (fun x n => by simp) ⟨rfl, rfl⟩

@[simp] theorem deadlines_fr (s : State) : (deadlines s).pending = s.pending ∧ (deadlines s).sec = s.sec := by
  unfold deadlines
  have h1 : ∀ x : State, ((x.net.links.map Prod.fst).foldl (fun s n => withdrawTimeout n s) x).pending = x.pending
      ∧ ((x.net.links.map Prod.fst).foldl (fun s n => withdrawTimeout n s) x).sec = x.sec :=
    fun x => foldl_keep _ _ _ _ (fun y n => by simp) ⟨rfl, rfl⟩
  have h2 : ∀ x : State, (x.eth.ports.foldl (fun s p => p.2.qps.foldl (fun s q =>
      refetchWork (Fin.ofNat 16 p.1) (BitVec.ofNat 12 q.1) s) s) x).pending = x.pending
      ∧ (x.eth.ports.foldl (fun s p => p.2.qps.foldl (fun s q =>
      refetchWork (Fin.ofNat 16 p.1) (BitVec.ofNat 12 q.1) s) s) x).sec = x.sec :=
    fun x => foldl_keep _ _ _ _ (fun y n => foldl_keep _ _ _ _ (fun z n => by simp) ⟨rfl, rfl⟩) ⟨rfl, rfl⟩
  have h3 : ∀ x : State, ((x.eth.ports.map Prod.fst).foldl (fun s p => rawTransmit p s) x).pending = x.pending
      ∧ ((x.eth.ports.map Prod.fst).foldl (fun s p => rawTransmit p s) x).sec = x.sec :=
    fun x => foldl_keep _ _ _ _ (fun y n => by simp) ⟨rfl, rfl⟩
  dsimp only
  constructor <;> simp only [sendIdles_fr, releaseReads_fr, syncTimers_fr, handoverTimeout_fr, onlineInitialises_fr,
    linksBegin_fr, romReady_fr] <;> (repeat' split) <;> simp [h1, h2, h3]

theorem tick_keep (s : State) : (tick s).pending = s.pending ∧ (tick s).sec = s.sec := by
  unfold tick
  split
  · exact ⟨rfl, rfl⟩
  · dsimp only
    rw [(deadlines_fr _).1, (deadlines_fr _).2]
    exact countWhere_keep _ _ s

end Sys2Proof.Machine
end

