-- ==== Sys2Proof/Laws/Link.lean ====
section
/-! SUPPORT. Laws of links: what sending on one leaves of it and of the others. -/

namespace Sys2Proof.Machine

/-- What sending on link n may change of links: of n its numbering, lanes, replay buffer, credits and the times
its lanes ran dry; of any link the credits owed for slots that a packet sent whole has freed. -/
def SentOn (n : Nat) (s t : State) : Prop :=
  (∀ k, k ≠ n → ∃ f, t.link k = { s.link k with owed := f }) ∧ ∃ a b c d e f g h, t.link n =
    { s.link n with nextFseq := a, sent := b, used := c, collLast := d, tx := e, owed := f, dry := g, bare := h }

theorem SentOn.refl (n : Nat) (s : State) : SentOn n s s :=
  ⟨fun _ _ => ⟨_, rfl⟩, _, _, _, _, _, _, _, _, rfl⟩

theorem SentOn.trans {n : Nat} {s t u : State} (h1 : SentOn n s t) (h2 : SentOn n t u) : SentOn n s u := by
  obtain ⟨o1, a, b, c, d, e, f, g, x, e1⟩ := h1
  obtain ⟨o2, a', b', c', d', e', f', g', x', e2⟩ := h2
  refine ⟨fun k hk => ?_, a', b', c', d', e', f', g', x', by rw [e2, e1]⟩
  obtain ⟨w, hw⟩ := o1 k hk
  obtain ⟨w', hw'⟩ := o2 k hk
  exact ⟨w', by rw [hw', hw]⟩

theorem returnCredits_link (hold : Bool) (l : LinkSt) : ∃ w, (returnCredits hold l).2.2 = { l with owed := w } := by
  unfold returnCredits
  split
  · exact ⟨_, rfl⟩
  · exact ⟨l.owed, rfl⟩

/-- A flit leaves: only the credits owed may change, and one output is added. -/
theorem putFlit_link (n kind vl fseq sop : Nat) (pay : List Byte) (s : State) :
    (∀ k, k ≠ n → (putFlit n kind vl fseq sop pay s).link k = s.link k)
    ∧ (∃ w, (putFlit n kind vl fseq sop pay s).link n = { s.link n with owed := w })
    ∧ (putFlit n kind vl fseq sop pay s).outbox.length = s.outbox.length + 1 := by
  obtain ⟨w, hw⟩ := returnCredits_link (collHeld s n) (s.link n)
  refine ⟨fun k hk => ?_, ⟨w, ?_⟩, ?_⟩
  · show ((s.modLink n fun _ => _).link k) = _
    rw [State.link_modLink, if_neg hk]
  · show ((s.modLink n fun _ => _).link n) = _
    rw [State.link_modLink, if_pos rfl, ← hw]; rfl
  · unfold putFlit emit; simp

theorem putFlit_sentOn (n kind vl fseq sop : Nat) (pay : List Byte) (s : State) : SentOn n s (putFlit n kind vl fseq sop pay s) := by
  obtain ⟨h1, ⟨w, h2⟩, _⟩ := putFlit_link n kind vl fseq sop pay s
  exact ⟨fun k hk => ⟨_, h1 k hk⟩, _, _, _, _, _, _, _, _, h2⟩

theorem modLink_sentOn (n : Nat) (f : LinkSt → LinkSt) (s : State)
    (h : ∀ l : LinkSt, ∃ a b c d e g k x, f l = { l with
      nextFseq := a, sent := b, used := c, collLast := d, tx := e, owed := g, dry := k, bare := x }) :
    SentOn n s (s.modLink n f) := by
  obtain ⟨a, b, c, d, e, g, k, x, hf⟩ := h (s.link n)
  exact ⟨fun k hk => ⟨_, by rw [State.link_modLink, if_neg hk]⟩, a, b, c, d, e, g, k, x, by rw [State.link_modLink, if_pos rfl, hf]⟩

/-- Slots freed: credits owed on their link, nothing else. -/
theorem oweSlots_sentOn (n : Nat) (b : HeldSlots) (s : State) : SentOn n s (oweSlots b s) := by
  unfold oweSlots
  by_cases h : b.1 = n
  · rw [h]; exact modLink_sentOn n _ s fun l => ⟨_, _, _, _, _, _, _, _, rfl⟩
  · refine ⟨fun k _ => ?_, _, _, _, _, _, _, _, _, by rw [State.link_modLink, if_neg (Ne.symm h)]⟩
    rw [State.link_modLink]
    split
    · next hk => subst hk; exact ⟨_, rfl⟩
    · exact ⟨_, rfl⟩

theorem oweAll_sentOn (n : Nat) (bs : List HeldSlots) : ∀ s : State, SentOn n s (bs.foldl (fun s b => oweSlots b s) s) := by
  induction bs with
  | nil => intro s; exact .refl n s
  | cons b bs ih => intro s; exact (oweSlots_sentOn n b s).trans (ih _)

theorem sendData_sentOn (n vl : Nat) (s : State) : SentOn n s (sendData n vl s) := by
  unfold sendData
  dsimp only
  split
  · exact .refl n s
  · exact ((modLink_sentOn n _ s fun l => ⟨_, _, _, _, _, _, _, _, rfl⟩).trans (oweAll_sentOn n _ _)).trans (putFlit_sentOn _ _ _ _ _ _ _)

theorem pumpFuel_sentOn (n : Nat) : ∀ (k : Nat) (s : State), SentOn n s (pumpFuel n k s)
  | 0, s => .refl n s
  | k + 1, s => by
    unfold pumpFuel
    dsimp only
    split
    · exact .refl n s
    · split
      · exact .refl n s
      · exact (sendData_sentOn n _ s).trans (pumpFuel_sentOn n k _)

theorem pump_sentOn (n : Nat) (s : State) : SentOn n s (pump n s) := by
  unfold pump
  dsimp only
  split
  · exact (pumpFuel_sentOn n _ s).trans (modLink_sentOn n _ _ fun l => ⟨_, _, _, _, _, _, _, _, rfl⟩)
  · exact .refl n s

/-- Everything a command has to say of a link with no operation under way. -/
theorem linkOp_none (n : Nat) (s : State) (h : linkHeld n s = false) (id : Nat) (hi : id = 0x0504 ∨ id = 0x0505 ∨ id = 0x0506) :
    linkOp n id s = none := by
  unfold linkOp
  rw [List.find?_eq_none]
  intro o ho hc
  have := List.any_eq_false.1 h o ho
  rcases hi with rfl | rfl | rfl <;> simp_all

theorem endOps_none (n : Nat) (s : State) (p : RunOp → Bool) (st : BitVec 16) (r : List Byte)
    (h : linkHeld n s = false) (hp : ∀ o, p o = true → (o.id = 0x0504 ∨ o.id = 0x0505 ∨ o.id = 0x0506) ∧ o.le 0 1 = n) :
    endOps p st r s = s := by
  unfold endOps
  have : s.mgr.ops.filter p = [] := by
    rw [List.filter_eq_nil_iff]
    intro o ho hc
    have := List.any_eq_false.1 h o ho
    obtain ⟨h1, h2⟩ := hp o hc
    rcases h1 with h1 | h1 | h1 <;> simp_all
  rw [this]; rfl

end Sys2Proof.Machine
end

