-- ==== Sys2Proof/Laws/Mailbox.lean ====
section
/-! SUPPORT. Laws of the mailbox exchange: what a response writes, and a command served alone. -/

namespace Sys2Proof.Machine

/-- A response leaves the doorbells, operations and everything else of the manager as they are. -/
theorem respond_mgr (m : MbxId) (tag : Nat) (st : BitVec 16) (d : Nat) (pay : List Byte) (s : State) :
    (respond m tag st d pay s).mgr = (s.modMbx m.val fun x => { x with
      rsp := some (responseBytes tag st d (if st.toNat < 0x8000 then pay else [])), busy := false, done := true }).mgr := by
  unfold respond responseBytes
  dsimp only
  split <;> split <;> simp

/-- Every mailbox after a response. -/
theorem respond_mbx (m : MbxId) (tag : Nat) (st : BitVec 16) (d : Nat) (pay : List Byte) (s : State) (k : Nat) :
    (respond m tag st d pay s).mbx k = if k = m.val then { s.mbx m.val with
      rsp := some (responseBytes tag st d (if st.toNat < 0x8000 then pay else [])), busy := false, done := true }
      else s.mbx k := by
  rw [State.mbx, respond_mgr]
  exact State.mbx_modMbx s m.val k _

theorem respond_order (m : MbxId) (tag : Nat) (st : BitVec 16) (d : Nat) (pay : List Byte) (s : State) :
    (respond m tag st d pay s).mgr.order = s.mgr.order := by rw [respond_mgr]; rfl

theorem settle_empty (s : State) (h : s.mgr.order = []) : settle s = s := by
  unfold settle
  rw [h]
  simp only [settleMgr, h]

/-- A command served alone does what its meaning says, once its doorbell is taken. -/
theorem serve_served (m : MbxId) (id : Nat) (f : MCmd → State → State) (s : State) (h : Served m id s)
    (ho : (f (cmdAt m s) (taken s)).mgr.order = []) : serve m id f s = f (cmdAt m s) (taken s) := by
  obtain ⟨h1, h2, h3, h4⟩ := h
  unfold serve
  simp only [h1]
  rw [if_pos ⟨trivial, h2, h3, by rw [h4]; rfl⟩]
  exact settle_empty _ ho

/-- A command that is answered. -/
theorem serve_answer (m : MbxId) (id : Nat) (f : MCmd → State → State) (s t : State) (pay : List Byte)
    (h : Served m id s) (hf : f (cmdAt m s) (taken s) = answer (cmdAt m s) pay t) (ho : t.mgr.order = []) :
    serve m id f s = answer (cmdAt m s) pay t := by
  rw [serve_served m id f s h (by rw [hf]; simpa [answer, respond_order] using ho), hf]

/-- A command that is refused. -/
theorem serve_refuse (m : MbxId) (id : Nat) (f : MCmd → State → State) (s t : State) (st : BitVec 16) (d : Nat)
    (h : Served m id s) (hf : f (cmdAt m s) (taken s) = refuse (cmdAt m s) st d t) (ho : t.mgr.order = []) :
    serve m id f s = refuse (cmdAt m s) st d t := by
  rw [serve_served m id f s h (by rw [hf]; simpa [refuse, respond_order] using ho), hf]

theorem firstFail_none (st : BitVec 16) (xs : List (Bool × Nat)) (h : ∀ x ∈ xs, x.1 = false) : firstFail st xs = none := by
  unfold firstFail
  rw [List.find?_eq_none.2 (by simpa using fun x y => h (x, y))]; rfl

theorem pass_nil : ∀ x ∈ ([] : List (Bool × Nat)), x.1 = false := by simp

theorem pass_cons {b : Bool} {d : Nat} {l : List (Bool × Nat)} (h : b = false) (hl : ∀ x ∈ l, x.1 = false) :
    ∀ x ∈ (b, d) :: l, x.1 = false := by
  intro x hx
  rcases List.mem_cons.1 hx with rfl | hx
  · exact h
  · exact hl x hx

/-- A command whose checks all pass goes on. -/
theorem checked_pass (c : MCmd) (range busy conflict : List (Bool × Nat)) (k : State → State) (s : State)
    (hr : ∀ x ∈ range, x.1 = false) (hb : ∀ x ∈ busy, x.1 = false) (hc : ∀ x ∈ conflict, x.1 = false) :
    checked c range busy conflict k s = k s := by
  unfold checked
  rw [firstFail_none _ _ hr, firstFail_none _ _ hb, firstFail_none _ _ hc]; rfl

theorem taken_order (s : State) : (taken s).mgr.order = [] := rfl

/-- A command served alone, whatever its meaning leaves in the order. -/
theorem served_settle (m : MbxId) (id : Nat) (f : MCmd → State → State) (s : State) (h : Served m id s) :
    serve m id f s = settle (f (cmdAt m s) (taken s)) := by
  obtain ⟨h1, h2, h3, h4⟩ := h
  unfold serve
  simp only [h1]
  rw [if_pos ⟨trivial, h2, h3, by rw [h4]; rfl⟩]
  rfl

/-- A long command whose checks all pass, with a slot free or none needed, starts. -/
theorem long_pass (c : MCmd) (range busy conflict : List (Bool × Nat)) (start : State → State) (s : State)
    (hr : ∀ x ∈ range, x.1 = false) (hb : ∀ x ∈ busy, x.1 = false) (hc : ∀ x ∈ conflict, x.1 = false)
    (hf : keepsMailbox c s = true ∨ (freeSlot? c.m s).isSome = true) :
    Machine.long c range busy conflict start s = start (placeOp c s) := by
  unfold Machine.long
  refine checked_pass _ _ _ _ _ _ hr ?_ hc
  intro x hx
  rcases List.mem_append.1 hx with h | h
  · exact hb x h
  · simp only [List.mem_singleton] at h
    subst h
    rcases hf with h | h
    · simp [h]
    · cases hh : freeSlot? c.m s <;> simp [hh] at h ⊢

theorem slot_taken (c : MCmd) (s : State) (h : keepsMailbox c s = true ∨ (freeSlot? c.m s).isSome = true) :
    keepsMailbox c (taken s) = true ∨ (freeSlot? c.m (taken s)).isSome = true := by
  have h1 : keepsMailbox c (taken s) = keepsMailbox c s := rfl
  have h2 : ∀ k, (taken s).mbx k = s.mbx k := fun _ => rfl
  unfold freeSlot? at *
  simp only [h1, h2]
  exact h

end Sys2Proof.Machine
end

