-- ==== Sys2Proof/Laws/Vector.lean ====
section
/-! SUPPORT. Laws of the vector engines: flags raised, places touched. -/

namespace Sys2Proof.Machine

/-- The flags a result raises, and what raising them leaves alone. -/
theorem raiseFlags_ev (n : ArrayId) (f : FFlags) (s : State) :
    (∀ j, j < 5 → bitOf ((raiseFlags n.val f s).evBits (srcVecFlags n.val)) j = (bitOf (s.evBits (srcVecFlags n.val)) j || f.getLsbD j))
    ∧ (raiseFlags n.val f s).vecs = s.vecs ∧ (raiseFlags n.val f s).arrays = s.arrays ∧ (raiseFlags n.val f s).hbm = s.hbm ∧ (raiseFlags n.val f s).coh = s.coh := by
  unfold raiseFlags
  suffices h : ∀ (l : List Nat) (t : State), (∀ j, j < 5 → bitOf ((l.foldl (fun s k => if f.getLsbD k then raiseEv (srcVecFlags n.val) k s else s) t).evBits (srcVecFlags n.val)) j = (bitOf (t.evBits (srcVecFlags n.val)) j || (f.getLsbD j && l.contains j)))
    ∧ (l.foldl (fun s k => if f.getLsbD k then raiseEv (srcVecFlags n.val) k s else s) t).vecs = t.vecs ∧ (l.foldl (fun s k => if f.getLsbD k then raiseEv (srcVecFlags n.val) k s else s) t).arrays = t.arrays
    ∧ (l.foldl (fun s k => if f.getLsbD k then raiseEv (srcVecFlags n.val) k s else s) t).hbm = t.hbm ∧ (l.foldl (fun s k => if f.getLsbD k then raiseEv (srcVecFlags n.val) k s else s) t).coh = t.coh by
    obtain ⟨g1, g2⟩ := h (List.range 5) s
    refine ⟨fun j hj => ?_, g2⟩
    rw [g1 j hj]; simp [hj]
  intro l
  induction l with
  | nil => intro t; simp
  | cons a l ih =>
    intro t
    simp only [List.foldl_cons]
    obtain ⟨g1, g2, g3, g4, g5⟩ := ih (if f.getLsbD a then raiseEv (srcVecFlags n.val) a t else t)
    refine ⟨fun j hj => ?_, ?_, ?_, ?_, ?_⟩
    · rw [g1 j hj]
      split
      · next h => rw [raiseEv_bit _ _ _ _ _ (by omega)]; by_cases hja : j = a
                  · subst hja; simp [h]
                  · simp [hja]
      · next h => by_cases hja : j = a
                  · subst hja; simp at h; simp [h]
                  · simp [hja]
    · rw [g2]; split <;> simp
    · rw [g3]; split <;> simp
    · rw [g4]; split <;> simp
    · rw [g5]; split <;> simp

/-- The record of what a vector stream touched is all that changes. -/
theorem touch_vec (n : ArrayId) (c : Nat) (x : Touch) (s : State) :
    (∃ l, (touch (.vec n) c x s).vec n.val = { s.vec n.val with su := { (s.vec n.val).su with touched := l } })
    ∧ (touch (.vec n) c x s).events = s.events ∧ (touch (.vec n) c x s).arrays = s.arrays
    ∧ (touch (.vec n) c x s).hbm = s.hbm ∧ (touch (.vec n) c x s).coh = s.coh := by
  unfold touch
  refine ⟨?_, by simp [State.modUnit]⟩
  by_cases h : (s.vec n.val).su.touched.contains (c, x)
  · exact ⟨(s.vec n.val).su.touched, by simp only [State.modUnit, State.vec_modVec, if_true, h]⟩
  · exact ⟨(s.vec n.val).su.touched ++ [(c, x)], by simp only [State.modUnit, State.vec_modVec, if_true, h]; simp⟩

end Sys2Proof.Machine
end

