-- ==== Sys2Proof/Tests/Slice0.lean ====
section
/-! SUPPORT. Tests of the model's own words: an ill-formed command for each check, values worked out by
hand from the spec's rules and tables, and a witness for the hypotheses of each statement. -/

set_option Elab.async false

namespace Sys2Proof.Tests
open Sys2Proof Sys2Proof.Machine

/-! ## Witnesses: arrays and streams -/

/-- The package in service at device time 1 s, as node 5. -/
def run : State :=
  { State.reset with
    now := 1000000000, ticks := 1000000000, node := 5
    boot := { State.reset.boot with
      stage := 5, fwReady := true, poolReady := true, trained := true, everReady := true } }

/-- Running stream units: one bundle, of the word w. -/
def strm (w : BitVec 128) : Strm := ⟨⟨⟨0, 0⟩, 0, 1, 0, 0, 0, false, 0, 0⟩, true, [w, w], []⟩
def unitOf (w : BitVec 128) : StreamUnit := { status := .running, cur := some (strm w) }

/-- Array 0 with a preload begun, a duty waiting and a step due. -/
def arrState (w : BitVec 128) (f : FlyStep) : State :=
  run.modArr 0 fun x => { x with
    su := { unitOf w with cycle := 40 }, buf1 := { x.buf1 with busy := some (0, 0) }, dutyNext := some 10, fly := [f] }

/-- A step into row 3: every operand byte zero. -/
def flyOf (m : AryMode) : FlyStep := ⟨20, 3, m, true, [], [], false⟩

/-- 04 Table 4-3: an INIT F19 step into row 3, not the last bundle. -/
def stepWord : BitVec 128 := BitVec.ofNat 128 (2 ^ 125 + 3 * 2 ^ 107)

theorem witness_array_rows : let s := arrState stepWord (flyOf .f19)
    (s.arr 0).fly = [flyOf .f19] ∧ (flyOf .f19).free = false ∧ (s.arr 0).su.undef ((flyOf .f19).due - latRowAcc) = false ∧ powered s = true
    ∧ (flyOf .f19).due ≤ (s.arr 0).su.cycle
    ∧ ((arrState stepWord (flyOf .int4)).arr 0).fly = [flyOf .int4]
    ∧ ((arrState stepWord (flyOf .cascade)).arr 0).fly = [flyOf .cascade] := by decide +kernel

theorem witness_preload_duty : let s := arrState stepWord (flyOf .f19)
    ((s.arr 0).buf true).busy = some (0, 0) ∧ 0 + ((s.arr 0).buf true).mode.preloadCycles ≤ (s.arr 0).su.cycle
    ∧ (s.arr 0).dutyNext = some 10 ∧ (s.arr 0).pos % 64 = 0
    ∧ powered s = true
    ∧ (run.modPwr fun p => { p with droop := true }).pwr.droop = true ∧ run.pwr.droop = false ∧ powered run = true := by decide +kernel

/-- Array 0 in a withheld cycle: duty 1, position 5. -/
theorem witness_withheld : let s := run.modArr 0 fun x => { x with su := unitOf stepWord, duty := 1, pos := 5 }
    let x := dutyBoundary (s.arr 0)
    powered s = true ∧ x.su.status = .running ∧ x.su.lastIssued = false ∧ issuingCycle x.duty x.pos = false := by decide +kernel

/-- Array 0 about to issue its step against a buffer that is ready. -/
theorem witness_bundle_issue : let s := run.modArr 0 fun x => { x with su := unitOf stepWord, buf0 := { x.buf0 with valid := true } }
    let x := dutyBoundary (s.arr 0)
    let y := (settleArray 0 (openCycle 0 s)).arr 0
    let b := Bundle.ofWord ((strm stepWord).bundles.getD y.su.idx 0)
    powered s = true ∧ (∀ e ∈ maskMembers (.arr 0) (s.unit (.arr 0)).lockMask, e = .arr 0)
    ∧ x.su.cur = some (strm stepWord) ∧ x.su.status = .running ∧ x.su.lastIssued = false ∧ issuingCycle x.duty x.pos = true
    ∧ b.illegal 0 (y.su.idx + 1 == 2) = false ∧ b.mode.isInt = false ∧ b.waitEn = false ∧ b.stepEn = true
    ∧ b.trigEn = false ∧ b.sigEn = false ∧ b.preEn = false ∧ b.phaseEn = false
    ∧ hazards y b y.su.rep y.su.cycle none = [] ∧ y.su.rep = 0
    ∧ (y.su.raced.any fun r => (bundleTouches b none (y.mode == .cascade)).any fun t => overlap r.1 r.2 t.1 t.2) = false
    ∧ tilePoisoned y (b.aAddr + y.su.rep * b.aStride) b.mode.rowSectors = false ∧ (y.buf b.buf).poisoned = false
    ∧ b.last = false := by decide +kernel

/-- Reserved bits set make the bundle illegal (04 R87); an INT8 bundle on array 1 is of a mode it has not. -/
theorem witness_illegal : let w : BitVec 128 := 1
    let s := run.modArr 1 fun x => { x with su := unitOf w }
    let y := (settleArray 1 (openCycle 1 s)).arr 1
    let b := Bundle.ofWord ((strm w).bundles.getD y.su.idx 0)
    let x := dutyBoundary (s.arr 1)
    powered s = true ∧ (∀ e ∈ maskMembers (.arr 1) (s.unit (.arr 1)).lockMask, e = .arr 1)
    ∧ x.su.cur = some (strm w) ∧ x.su.status = .running ∧ x.su.lastIssued = false ∧ issuingCycle x.duty x.pos = true
    ∧ y.su.rep = 0 ∧ b.illegal 0 (y.su.idx + 1 == 2) = true
    ∧ (Bundle.ofWord (BitVec.ofNat 128 (2 ^ 126 + 2 ^ 120))).mode.isInt = true ∧ intCapable 1 = false := by decide +kernel

/-- A stream-launch descriptor in the window of queue 0, bound to array 0. -/
def launchWords : DWords := [w64 (opStream * 2 ^ 48), 0, 0, 0, 0, 0, 0, 0]
def launchState : State :=
  run.modQueue 0 fun x => { x with engine := 0x00, mode := .active, enable := true, window := [⟨0, launchWords, false⟩] }

theorem witness_launch : let s := launchState
    let busy := s.modUnit (.arr 0) fun u => { u with cur := some (strm stepWord) }
    let m : Strm := ⟨launchOf ⟨0, 0⟩ launchWords, false, [], []⟩
    Startable 0 opStream ⟨0, launchWords, false⟩ [] s ∧ (s.queue 0).code = engCode (.arr 0)
    ∧ (s.unit (.arr 0)).status ≠ .halted ∧ (s.unit (.arr 0)).nxt = none ∧ (s.unit (.arr 0)).cur = none
    ∧ disagrees (.arr 0) m.launch s = false
    ∧ Startable 0 opStream ⟨0, launchWords, false⟩ [] busy ∧ (busy.unit (.arr 0)).cur.isSome = true
    ∧ (busy.unit (.arr 0)).status ≠ .halted ∧ (busy.unit (.arr 0)).nxt = none := by
  unfold Startable
  decide +kernel

/-- A load of no bundles passes; one whose table cannot be translated fails. -/
def unloaded (count : Nat) : Strm := ⟨⟨⟨0, 0⟩, 0x4000000, count, 0, 0, 0, false, 0, 0⟩, false, [], []⟩
theorem witness_load : let s (k : Nat) := run.modArr 0 fun x => { x with su := { x.su with cur := some (unloaded k) } }
    powered (s 0) = true ∧ ((s 0).unit (.arr 0)).cur = some (unloaded 0) ∧ (unloaded 0).loaded = false
    ∧ (match (loadStream 0 (unloaded 0).launch (s 0)).1 with | some (.ok _) => true | _ => false) = true
    ∧ (match (loadStream 0 (unloaded 1).launch (s 1)).1 with | some (.error _) => true | _ => false) = true := by decide +kernel

/-- Outstanding triggers: one moved and one not, into the tile store from no bytes. -/
def trigOut (moved : Bool) (sem : Bool := true) : OutTrig := ⟨7, ⟨.poolToTile, sem, 2, 0, 0, 0, false, []⟩, false, moved, 0, false⟩
theorem witness_trigger : let s (m : Bool) (v : Nat) := run.modArr 0 fun x => { x with su := { x.su with trigs := [trigOut m], sems := [(2, v)] } }
    ((s true 3).unit (.arr 0)).trigs[0]? = some (trigOut true) ∧ tagClear (.trig (.arr 0) 7) (s true 3) = true
    ∧ Sparse.get 0 ((s true 3).unit (.arr 0)).sems 2 ≠ 255 ∧ Sparse.get 0 ((s true 255).unit (.arr 0)).sems 2 = 255
    ∧ ((run.modArr 0 fun x => { x with su := { x.su with trigs := [trigOut true false] } }).unit (.arr 0)).trigs[0]? = some (trigOut true false)
    ∧ powered (s true 3) = true ∧ ((s false 3).unit (.arr 0)).trigs[0]? = some (trigOut false)
    ∧ (moveTrigger (.arr 0) (trigOut false) (s false 3)).1 = false
    ∧ tagClear (.trig (.arr 0) 7) (moveTrigger (.arr 0) (trigOut false) (s false 3)).2 = true := by decide +kernel

theorem witness_retire : let s := run.modArr 0 fun x => { x with su := { unitOf stepWord with lastIssued := true } }
    (s.unit (.arr 0)).prev = [] ∧ (s.unit (.arr 0)).trigs = [] ∧ resultsDue (.arr 0) none s = false
    ∧ (s.unit (.arr 0)).cur = some (strm stepWord) ∧ (s.unit (.arr 0)).haltStatus = none ∧ (s.unit (.arr 0)).lastIssued = true
    ∧ (s.unit (.arr 0)).taintAt = none ∧ powered s = true := by
  decide +kernel

/-- Arrays 0 and 1 ready as one lock group; each waits in its first bundle. -/
def lockLaunch : Launch := ⟨⟨0, 0⟩, 0, 1, 0, 0, 0, false, 3, 0⟩
def lockUnit : StreamUnit := { status := .waitingForLock, cur := some ⟨lockLaunch, true, [0], []⟩, readyAt := some 5 }
theorem witness_lock : let s := (run.modArr 0 fun x => { x with su := lockUnit }).modArr 1 fun x => { x with su := lockUnit }
    let mask := ownMask (.arr 0) lockLaunch.lockMask
    let ms := maskMembers (.arr 0) mask
    powered s = true ∧ curLaunch (s.unit (.arr 0)) = some lockLaunch ∧ ms = [.arr 0, .arr 1]
    ∧ (∀ x ∈ ms, memberReady mask 0 x s = true) ∧ (groupStart 2 0 5).1 ≤ s.now ∧ (groupStart 2 6 5).2 = true := by decide +kernel

def waitUnit (h : HoldAt) : StreamUnit :=
  { unitOf 0 with holding := h, sems := [(0, 1)], inGroup := true, lockMask := 3 }
theorem witness_waits : let s (h : HoldAt) := (run.modArr 0 fun x => { x with su := waitUnit h }).modArr 1 fun x => { x with su := waitUnit h }
    powered (s .wait) = true ∧ ((s .wait).unit (.arr 0)).status = .running ∧ ((s .wait).unit (.arr 0)).holding = .wait ∧ semOk (.arr 0) (s .wait) = true
    ∧ ((s .groupWait).unit (.arr 0)).holding = .groupWait
    ∧ (∀ x ∈ maskMembers (.arr 0) 3, memberArrived 3 (s .groupWait) x = true) := by decide +kernel

/-- A vector bundle of two empty slots that is not the last. -/
theorem witness_vector : let m : Strm := ⟨⟨⟨0, 0⟩, 0, 2, 0, 0, 0, false, 0, 0⟩, true, [0, 0], []⟩
    let s := run.modVec 0 fun x => { x with su := { status := .running, cur := some m } }
    let s1 := openVecCycle 0 s
    let y := s1.vec 0
    let cx := vectorCtx 0 s1
    let b := vSlots (m.bundles.getD y.su.idx 0)
    powered s = true ∧ (∀ e ∈ maskMembers (.vec 0) (s.unit (.vec 0)).lockMask, e = .vec 0) ∧ y.su.inGroup = false
    ∧ (s.unit (.vec 0)).cur = some m ∧ (s.unit (.vec 0)).issuing = true ∧ bundleLegal m y.su.idx b.1 b.2 cx = true
    ∧ b.2.op ≠ 0xD0 ∧ b.2.op ≠ 0x01 ∧ b.2.op ≠ 0xD1 ∧ b.2.op ≠ 0xD2 ∧ vectorHazards b.1 b.2 y (s1.arr 0) = []
    ∧ b.1.op ≠ 0xA0 := by decide +kernel

theorem witness_vector_results : let r (d : VDest) : VResult := ⟨0, d, 1, 0, false⟩
    let s (d : VDest) := run.modVec 0 fun x => { x with results := [r d] }
    ((s (.scalar 3 9)).vec 0).su.issuing = false ∧ ((s (.scalar 3 9)).vec 0).results = [r (.scalar 3 9)]
    ∧ ((s (.mask 1 0xFF 1)).vec 0).results = [r (.mask 1 0xFF 1)] ∧ ((s (.vl 1024)).vec 0).results = [r (.vl 1024)]
    ∧ ((s (.vl 1024)).vec 0).su.undef 0 = false
    ∧ powered (s (.vl 1024)) = true := by decide +kernel

/-! ## Witnesses: queues, translation, pages -/

/-- Queue 0 bound to array 0, rings in one cached pinned page. -/
def pinnedLeaf (a : Nat) : W64 := w64 (a + 0x4F)
def qBase : QState := { engine := 0x00, ringBase := 0x4000000, cqBase := 0x4002000 }
def qState (x : QState) : State :=
  { run.setQueue 0 x with xlt := { run.xlt with en := true, tlb := [(0, [⟨0x4000000, false, pinnedLeaf 0x8000000⟩])] } }

theorem witness_doorbell : let s (m : QMode) := qState { qBase with mode := m, tail := 3 }
    powered (s .active) = true ∧ powered (s .disabled) = true ∧ ((s .active).queue 0).mode ≠ .disabled ∧ (5 + 2 * 64 - 0 % (2 * 64)) % (2 * 64) ≤ ((s .active).queue 0).entries
    ∧ ((s .disabled).queue 0).mode = .disabled ∧ ((s .active).queue 0).entries < (65 + 2 * 64 - 0 % (2 * 64)) % (2 * 64)
    ∧ ((s .active).queue 0).filled < (1 + 2 * 64 - 0) % (2 * 64)
    ∧ (0 + 2 * 64 - 0) % (2 * 64) ≤ ((s .active).queue 0).filled ∧ ((s .active).queue 0).stalePending = false
    ∧ ((s .active).queue 0).progs = [] ∧ ((s .active).queue 0).cqWait = false := by decide +kernel

/-- O15 at the ring's last count: 64 entries waiting are taken, 65 are not. -/
theorem test_doorbell_bounds : let s := qState { qBase with mode := .active }
    (match exec (.doorbell 0 64) s, exec (.doorbell 0 65) s with
    | .next t, .next u => (t.queue 0).tail == 64 && (u.queue 0).tail == 0 && bitOf (u.evBits (srcQdb 0)) 3
    | _, _ => false) = true := by decide +kernel

theorem witness_enable : let s := qState qBase
    let s := s.modQueue 0 fun x => { x with enabling := false }
    let x := s.queue 0
    powered (qState qBase) = true ∧ x.mode = .disabled ∧ configBad 0 x s = false
    ∧ (match ringPages x.code false 4 x.ringBase (64 * x.entries) s with
      | (some (.ok _), s1) => (match ringPages x.code true 4 x.cqBase (32 * x.cqEntries) s1 with | (some (.ok _), _) => true | _ => false)
      | _ => false) = true
    ∧ configBad 0 { x with engine := 0xFF } s = true ∧ configBad 200 x s = true := by decide +kernel

/-- A ring in the tile store: slot 0 holds a NOP of the first pass, or a poisoned sector. -/
def fetchState (tile : Mem) (bad : Sparse Bool) : State :=
  { run with
    arrays := [(0, { tile := tile, poison := bad })]
    queues := [(0, { qBase with mode := .active, enable := true, tail := 2, ringSegs := [(storeBase, 4096)] })] }
theorem witness_fetch : let s := fetchState [(7, 0x80)] []
    let x := s.queue 0
    let r := readSegs x.code false false (segsAt x.ringSegs (64 * (x.fetched % x.entries)) 64) s
    let w := (chunk 8 8 (r.1.map Prod.fst)).map fun b => w64 (leNat b)
    powered s = true ∧ mayFetch x = true ∧ x.refetchAt = none ∧ matchesSlot x x.fetched w = true
    ∧ x.window = [] ∧ r.1.any Prod.snd = false ∧ malformedDesc x.code w s = false
    ∧ (let s := fetchState [] [(0, true)]
      (readSegs 0 false false (segsAt [(storeBase, 4096)] 0 64) s).1.any Prod.snd = true) := by decide +kernel

theorem witness_refetch_stop : let s (m : QMode) := qState { qBase with mode := m, engine := 0x20, refetchAt := some 5 }
    powered (s .active) = true ∧ powered (s .halted) = true ∧ powered (s .draining) = true
    ∧ ((s .halted).queue 0).window = [] ∧ ((s .draining).queue 0).progs = [] ∧ ((s .active).queue 0).refetchAt = some 5 ∧ 5 ≤ (s .active).now ∧ ((s .active).queue 0).mode = .active
    ∧ 0x20 ≤ ((s .active).queue 0).code ∧ ((s .halted).queue 0).mode = .halted ∧ ((s .active).queue 0).window = []
    ∧ ((s .active).queue 0).progs = [] ∧ ((s .draining).queue 0).mode = .draining := by decide +kernel

/-- Copy engine 0x20 busy on queue 1, a descriptor of opcode op at the head of queue 0. -/
def descWords (op : Nat) : DWords := [w64 (op * 2 ^ 48), 0, 0, 0, 0, 0, 0, 0]
def busyOn (code : Nat) (w : DWords) : State :=
  (run.setQueue 0 { engine := BitVec.ofNat 8 code, mode := .active, enable := true, window := [⟨0, w, false⟩] }).setQueue 1
    { engine := BitVec.ofNat 8 code, mode := .active, enable := true, progs := [newProg 0 w 1 0] }

theorem witness_start : let s := busyOn 0x20 (descWords opNop)
    let x := s.queue 0
    Startable 0 opNop ⟨0, descWords opNop, false⟩ [] s ∧ Permitted 0 s
    ∧ (let s' := s.modQueue 0 fun x => { x with cqTail := 64 }
      dOpcode (descWords opNop) = opNop ∧ headMayStart 0 s' = true ∧ hasTurn 0 s' = true ∧ (s'.queue 0).room 1 = false
      ∧ (s'.queue 0).cqWait = false)
    ∧ headMayStart 0 (s.modQueue 0 fun x => { x with mode := .halted }) = false ∧ dOpcode (descWords opNop) ≠ opCopy
    ∧ x.progs = [] ∧ x.stalePending = false ∧ dDomain (descWords opNop) = 0 ∧ tagClear (.desc ⟨0, 0⟩) s = true
    ∧ engKind ((busyOn 0 (descWords opNop)).queue 0).code = .array := by
  unfold Startable Permitted
  decide +kernel

/-- Every stack in service. -/
def active (s : State) : State :=
  { s with hbm := { s.hbm with stks := (List.range 24).map fun k => (k, { mode := .active }) } }

/-- Copies of 64 bytes inside one page, each with its opcode. -/
def copyWords (op : Nat) : DWords := [w64 (op * 2 ^ 48), 0, 0x4000000, 0x4000100, 64, 0, 0, 0]
def copyState (op : Nat) : State :=
  let s := active (busyOn 0x20 (copyWords op))
  { s with xlt := { s.xlt with en := true, tlb := [(0x20, [⟨0x4000000, false, pinnedLeaf 0x8000000⟩])] } }

theorem witness_copies : ∀ op ∈ [opCopy, opCopy2d, opFill, opWriteImm], let s := copyState op
    let f : Fetched := ⟨0, copyWords op, false⟩
    Startable 0 op f [] s ∧ Permitted 0 s ∧ dRemote f.w = false
    ∧ (let rows := xferRows f.w 0
      let r := pieceWalk 0x20 (readsSource op) true (rows.length * (2 * (dLength f.w / 0x4000000) + 6) + 4) rows (running 0 f [] s)
      r.2.1 = none ∧ ((readPieces 0x20 f.w r.1 r.2.2).1.any fun d => d.2.any Prod.snd) = false) := by
  unfold Startable Permitted
  decide +kernel

theorem witness_invalidate : Startable 0 opInvalidate ⟨0, descWords opInvalidate, false⟩ [] (busyOn 0x20 (descWords opInvalidate))
    ∧ Permitted 0 (busyOn 0x20 (descWords opInvalidate)) ∧ dSpan (descWords opInvalidate) = 0 := by
  unfold Startable Permitted
  decide +kernel

def packetTo (n : NodeId) : Packet := ⟨n, 7, typeWrite, false, 0, 0, 0, 0, []⟩

/-- Writes between nodes: one sent and waiting, one received, and a descriptor waiting on a flush read. -/
def sentWrite : OutWrite := ⟨9, ⟨0, 0⟩, 7, 0, 64⟩
theorem witness_writes : let s := { run with net := { run.net with writes := [sentWrite] } }.modQueue 0 fun x =>
      { x with progs := [{ newProg 0 (descWords opCopy) 1 0 with flush := [0] }] }
    let p := packetTo 5
    powered s = true ∧ s.net.writes.find? (·.txn == 9) = some sentWrite ∧ sentWrite.sent + s.net.ackMs * 1000000 ≤ s.now
    ∧ s.prog 0 0 = some { newProg 0 (descWords opCopy) 1 0 with flush := [0] }
    ∧ p.dst = s.node ∧ p.typ = typeWrite ∧ (packetTo 6).dst ≠ s.node
    ∧ (writeIncoming p (.inWrite 0) (s.modNet fun t => { t with nextIn := 1 })).1 = some stDone
    ∧ ((s.queue 0).progs.find? (fun r => r.flush.contains 0)).isSome = true := by decide +kernel

/-- Records served: one posted, one without a page, one being copied whose leaf reads back. -/
def faultRec (p : FaultPhase) : FaultRec := ⟨0x8000000, false, 1, 1, 0, p, none⟩
def absentLeaf : W64 := 0x2F
def recState (p : FaultPhase) : State := { run with xlt := { run.xlt with records := [faultRec p], supply := [(0x10000000, false)], en := true } }
theorem witness_pages : (recState .posted).xlt.records.find? (fun r => r.served (recState .posted)) = some (faultRec .posted)
    ∧ fwRuns (recState .posted) = true ∧ powered (recState .posted) = true ∧ (recState (.noPage 0)).xlt.ninth = []
    ∧ (recState (.noPage 0)).xlt.records.find? (·.vpage == 0x8000000) = some (faultRec (.noPage 0))
    ∧ 0 + (recState (.noPage 0)).xlt.timeoutMs * 1000000 ≤ (recState (.noPage 0)).now
    ∧ (recState (.copying 0x14000000 absentLeaf)).xlt.records.find? (·.vpage == 0x8000000) = some (faultRec (.copying 0x14000000 absentLeaf))
    ∧ copyReadable 0x14000000 absentLeaf (recState (.copying 0x14000000 absentLeaf)) = true := by decide +kernel

/-- Page tables in the pool that give page 0x8000000 the absent leaf. -/
def tables : State :=
  let put (a v : Nat) (s : State) : State := poolWrite a (leBytes 8 v) .none s
  let s := put 0x4000000 0x4010001 (put 0x4010000 0x4020001 (put 0x4020010 0x2F (active (recState (.copying 0x14000000 absentLeaf)))))
  { s with xlt := { s.xlt with root := 0x4000000 } }
theorem witness_copied : tables.xlt.records.find? (·.vpage == 0x8000000) = some (faultRec (.copying 0x14000000 absentLeaf))
    ∧ fwRuns tables = true ∧ powered tables = true ∧ pageWaiters 0x8000000 tables = [] ∧ tables.xlt.ninth = []
    ∧ (let x := { tables with xlt := { tables.xlt with records := [faultRec .posted] } }
      (faultRec .posted).move = none ∧ (findLeaf 0x8000000 x).1 = some (0x4020010, absentLeaf, false)
      ∧ leafRes absentLeaf = resAbsent ∧ x.xlt.supply.find? (·.2 == false) = some (0x10000000, false)
      ∧ x.xlt.records.find? (fun r => r.served x) = some (faultRec .posted))
    ∧ copyReadable 0x14000000 absentLeaf tables = true
    ∧ (findLeaf 0x8000000 (copyIn 0x14000000 false absentLeaf tables)).1 = some (0x4020010, absentLeaf, false) := by decide +kernel

def invalOne : Inval := ⟨⟨0, 0⟩, 0, 1, [], [], [], [], false⟩
theorem witness_invalidate_complete : let s := { run with xlt := { run.xlt with invals := [invalOne] } }.modQueue 0 fun x =>
      { x with progs := [newProg 0 (descWords opInvalidate) 1 0] }
    powered s = true ∧ s.xlt.invals.find? (fun i => i.id.q == 0 && i.ready s && !(i.flush s).2) = some invalOne
    ∧ s.prog 0 0 = some (newProg 0 (descWords opInvalidate) 1 0) ∧ (invalOne.flush s).1 = false
    ∧ (let p : Prog := { newProg 0 (descWords opCopy) 1 0 with phase := .ended }
      let u := run.modQueue 0 fun x => { x with progs := [p] }
      (u.queue 0).progs = [p] ∧ tagClear (.desc ⟨0, 0⟩) u = true ∧ p.txns = [] ∧ wantsAttach p = false
      ∧ p.reserved ≠ 0 ∧ (u.queue 0).stalePending = false)
    ∧ (let s' (b : Bool) := run.modQueue 0 fun x => { x with holdUntil := some 5, qualified := b }
      ((s' true).queue 0).holdUntil = some 5 ∧ 5 ≤ (s' true).now ∧ ((s' true).queue 0).qualified = true
      ∧ ((s' false).queue 0).qualified = false ∧ recordsVisible 0 (s' true) = true) := by decide +kernel
theorem witness_settled (p : Prog) : settleSeqs (run.modQueue 0 fun x => { x with progs := [p] })
    = run.modQueue 0 fun x => { x with progs := [p] } := rfl

/-! ## Witnesses: mailbox commands, groups and collectives, updates, sequences -/

/-- Mailbox m alone waits with this command. -/
def cmdOf (m : MbxId) (id : Nat) (pay : List Byte) (s : State) : State :=
  s.modMgr fun g => { g with
    order := [m]
    mbx := Sparse.set {} g.mbx m.val { cmd := Mem.writeN [] 0 (leBytes 2 id ++ leBytes 2 pay.length ++ leBytes 4 7 ++ leBytes 8 0 ++ pay), busy := true } }

/-- The first translated page, 0x4000000, of an engine, in a package with all stacks in service. -/
def mapped (eng : Nat) (s : State) : State :=
  { active s with xlt := { s.xlt with en := true, tlb := [(eng, [⟨0x4000000, false, pinnedLeaf 0x8000000⟩])] } }

/-- Group 0: this node alone. -/
def alone : GroupSt := ⟨false, 0, 0, 0, 10, [5], 0⟩
def grouped (s : State) : State := { s with coll := { s.coll with groups := [(0, some alone)] } }

theorem witness_group_commands :
    (let s := cmdOf 0 0x0A01 (leBytes 8 0x4000000 ++ leBytes 8 0x4001000) run
      let c := cmdAt 0 s
      Served 0 0x0A01 s ∧ c.le 0 8 % 4096 = 0 ∧ c.le 0 8 < 2 ^ 52 ∧ c.le 8 8 < 2 ^ 52 ∧ groupsLoaded s = false)
    ∧ (let s := cmdOf 0 0x0A03 (leBytes 8 0) (grouped run)
      Served 0 0x0A03 s ∧ (cmdAt 0 s).le 0 2 ≤ 4095 ∧ groupBusy ((cmdAt 0 s).le 0 2) s = false)
    ∧ (let s := cmdOf 0 0x0A04 (leBytes 8 0) run
      Served 0 0x0A04 s ∧ (cmdAt 0 s).le 2 1 % 2 = 0 ∧ (cmdAt 0 s).le 0 2 ≤ 4095)
    ∧ (let s := cmdOf 0 0x0A04 (leBytes 8 0x10000) run
      Served 0 0x0A04 s ∧ (cmdAt 0 s).le 2 1 % 2 = 1)
    ∧ (let s := cmdOf 0 0x0A05 (leBytes 8 0) (grouped run)
      Served 0 0x0A05 s ∧ (cmdAt 0 s).le 0 2 ≤ 4095 ∧ s.group ((cmdAt 0 s).le 0 2) = some alone) := by
  unfold Served; decide +kernel

/-- Group table entry 0 and its member list in the first page. -/
def groupTable : State :=
  let put (a v : Nat) (s : State) : State := poolWrite a (leBytes 8 v) .none s
  let s := put 0x8000000 (2 ^ 63 + 0x4001000) (put 0x8000008 1 (put 0x8000018 10 (put 0x8001000 5 (mapped codeNone run))))
  cmdOf 0 0x0A02 (leBytes 8 0) { s with coll := { s.coll with table := some (0x4000000, 0x4002000) } }
theorem witness_group_load : let s := groupTable
    Served 0 0x0A02 s ∧ (cmdAt 0 s).le 0 2 ≤ 4095 ∧ s.group ((cmdAt 0 s).le 0 2) = none
    ∧ (match readGroupEntry 0 (taken s) with
      | (some e, s1) => e.valid && e.inRange && decide (e.self < e.members) && (match pinnedRead e.listVa (2 * e.members) s1 with
        | (some bs, _) => (let l : List NodeId := (List.range e.members).map fun k => BitVec.ofNat 16 (leAt bs (2 * k) 2)
          decide l.Nodup && l.getD e.self 0xFFFF == s.node && s.node != 0xFFFF)
        | _ => false)
      | _ => false) = true := by
  unfold Served; decide +kernel

/-- A collective descriptor at the head of queue 0, its engine busy on queue 1; it starts now or at START_TIME. -/
def collWords (op : Nat) (start : Nat := 0) : DWords := [w64 (op * 2 ^ 48), 0, 0, 0, 0, 0, w64 start, 0]
def collState (op : Nat) (start : Nat := 0) : State := grouped (busyOn 0x40 (collWords op start))
theorem witness_collectives : ∀ op ∈ [opAllReduce, opReduceScatter, opAllGather, opBroadcast, opReduce, opAllToAll,
      opBarrier, opFlagReduce], let s := collState op
    let w := collWords op
    Startable 0 op ⟨0, w, false⟩ [] s ∧ Permitted 0 s ∧ engKind (s.queue 0).code = .coll
    ∧ slotsUsed ((s.queue 0).code - 0x40) s < 16 ∧ groupFree (cGroup w) s = true ∧ s.group (cGroup w) = some alone
    ∧ s.coll.heldAborts.find? (fun a => a.group == cGroup w && a.seq == takesSeq (cGroup w) alone s) = none
    ∧ lostMember alone s = none ∧ (newRun ⟨0, 0⟩ w alone 0 s.now).startTime ≤ s.now := by
  unfold Startable Permitted
  decide +kernel

/-- Well-formed descriptors: a BARRIER at once, and one that waits for its START_TIME. -/
theorem witness_barrier : ∀ start ∈ [0, 2000000000], let s := collState opBarrier start
    malformedDesc (s.queue 0).code (collWords opBarrier start) s = false
    ∧ ((newRun ⟨0, 0⟩ (collWords opBarrier start) alone 0 s.now).startTime ≤ s.now ↔ start = 0) := by decide +kernel

/-- Group 0 of two members, this node the first, and a collective of it in progress on queue 1. -/
def pair : GroupSt := ⟨false, 0, 0, 0, 10, [5, 7], 3⟩
def collRun (op : Nat) (p : CollPhase) (g : GroupSt := alone) : CollRun := { newRun ⟨1, 0⟩ (descWords op) g 3 0 with phase := p }
def inColl (r : CollRun) (g : GroupSt := alone) : State :=
  let s : State := { run with coll := { run.coll with groups := [(0, some g)], runs := [r] } }
  s.modQueue 1 fun x => { x with engine := 0x40, progs := [{ newProg 0 (descWords opBarrier) 1 0 with coll := some 0 }] }
def sigOf (q : BitVec 20) : SigMsg := ⟨0, q, 0, 1, 0, true, 0, 0, 0, 0⟩
theorem witness_collective_events : let r (p : CollPhase) := collRun opBarrier p pair
    let s (p : CollPhase) := inColl (r p) pair
    powered (s .waiting) = true ∧ (s .waiting).group 0 = some pair
    ∧ (s .waiting).runIn 0 .waiting = some (r .waiting) ∧ (r .waiting).startTime ≤ (s .waiting).now
    ∧ (s .waiting).runSeq 0 3 = some (r .waiting) ∧ (s .waiting).runOf (r .waiting).id = some (r .waiting)
    ∧ (s .signing).runSeq 0 3 = some (r .signing) ∧ (s .signing).runOf (r .signing).id = some (r .signing)
    ∧ (r .signing).round < roundsOf 2 ∧ (sigOf 3).round = (r .signing).round ∧ (sigOf 3).src = (0 + 2 - 2 ^ 0 % 2) % 2
    ∧ (s .signing).coll.heldSigs = []
    ∧ (s .signing).runSeq 0 4 = none ∧ seqNext 0 4 (s .signing) = true ∧ (s .signing).runSeq 0 9 = none ∧ seqNext 0 9 (s .signing) = false
    ∧ (s .data).runSeq 0 3 = some (r .data) ∧ (r .data).phase = .data
    ∧ ((s .signing).prog (r .signing).id.q (r .signing).id.n).map (·.phase) = some .running
    ∧ (s .signing).coll.runs.find? (fun r => r.group == 0 && r.phase != .ended && memberOverdue r pair 1 (s .signing)) = some (r .signing)
    ∧ (s .data).runIn 0 .data = some (r .data) ∧ dataComplete (r .data) = true ∧ sinkLeft (r .data) pair = 0
    ∧ (tallyDone (r .data) 0 0 (s .data)).1 = true := by decide +kernel

theorem witness_reductions : [1, 2].Perm [2, 1] ∧ 0 < 3 ∧ (3 = 3 → 96 % 32 = 0) := by decide

/-- A start waits at Sluice, a stream or an engine whose descriptor waits, at a level. -/
def waitingStart (id : StartId) (level : Nat := 1000) : State :=
  let s := run.modEnv fun e => { e with starts := [⟨id, 10⟩], level := level }
  (s.modQueue 0 fun x => { x with engine := 0x40, progs := [{ newProg 0 (descWords opBarrier) 1 0 with phase := .waitingForPermit }] }).modArr 0
    fun x => { x with su := { status := .waitingForPermit, cur := some (strm stepWord) } }
theorem witness_grants : let x (id : StartId) : Start := ⟨id, 10⟩
    powered run = true ∧ run.env.starts = [] ∧ fits 10 (waitingStart (.stream 1)) = true ∧ fits 10 (waitingStart (.stream 1) 0) = false
    ∧ (waitingStart (.stream 1)).env.starts = [x (.stream 1)] ∧ (waitingStart (.engine 0x40)).env.starts = [x (.engine 0x40)]
    ∧ (let s := waitingStart (.stream 1)
      (1 : BitVec 32).getLsbD (engBit (.arr 0)) = true ∧ (s.unit (.arr 0)).waits = true
      ∧ curLaunch (s.unit (.arr 0)) = some (strm stepWord).launch ∧ ownMask (.arr 0) (strm stepWord).launch.lockMask = 1)
    ∧ permitWaiter 0x40 (waitingStart (.engine 0x40)) = some (0, 0)
    ∧ (let s : State := { run with coh := { run.coh with held := [⟨5, [], false, [.remote], .none⟩] } }
      (s.coh.held.any fun w => w.line == (640 : PAddr).toNat / 128 && w.acks.contains .remote) = true
      ∧ (run.coh.held.any fun w => w.line == (640 : PAddr).toNat / 128 && w.acks.contains .remote) = false) := by decide +kernel

/-! ### Updates -/

/-- An APPLY of 32 elements by group 0 on update engine 0, its table without entries. -/
def applyWords : DWords := [w64 (opUpdApply * 2 ^ 48), 0, 0x4000000, 0x4001000, 0x4002000, 0x4003000, 32, w64 (2 ^ 32)]
def applying : State := grouped (mapped 0x42 (busyOn 0x42 applyWords))
theorem witness_apply : let s := applying
    let f : Fetched := ⟨0, applyWords, false⟩
    let t := running 0 f [] s
    Startable 0 opUpdApply f [] s ∧ Permitted 0 s ∧ engKind (s.queue 0).code = .update ∧ (s.upd1 0).armed = none
    ∧ s.group (uGroup applyWords) = some alone ∧ s.coll.runs = []
    ∧ (let x := translateAll 0x42 (uTable applyWords) (128 * uEntries applyWords) false t
      let b := readSegs 0x42 false false x.1 x.2.2
      let es := (chunk 128 (uEntries applyWords) (b.1.map Prod.fst)).map entryOf
      let m := translateEach 0x42 (applyRanges applyWords 0 32 es) b.2
      let e := updRead 0 m.2.1 (uEpoch applyWords) 8 m.2.2
      x.2.1 = none ∧ b.1.any Prod.snd = false ∧ (shardOf 1 (uCount applyWords) 1 0) = (0, 32)
      ∧ (es.all fun e => e.ok 0 32) = true ∧ entriesApart es = true ∧ m.1 = none ∧ e.1.2 = false
      ∧ (withRbar 0 m.2.1 e.1.1 es e.2).1.2 = false) := by
  unfold Startable Permitted
  decide +kernel

/-- The APPLY armed and paired with a sink of INT32 values on queue 1, the reduced element 5. -/
def sinkRun : CollRun := { collRun opReduceScatter .data with ty := 4, sink := true, count := 32, acc := [(5, 0)] }
def armedOf (pos arrived : Nat) : Armed :=
  ⟨⟨0, 0⟩, 0, 32, 0x4001000, 0x4002000, 0x4003000, 1, 2000, 0, [], 0, 32, pos, 0, arrived,
    [(0x4001000, 128, [(0x8001000, 128)]), (0x4002000, 128, [(0x8002000, 128)]), (0x4003000, 32, [(0x8003000, 32)])],
    some ⟨1, 0⟩, 0, 0, false, [], [], false⟩
def armedState (a : Armed) (stall : Option Nat) : State :=
  let s := mapped 0x42 (inColl sinkRun)
  (s.modUpd 0 fun _ => ⟨some a, stall, stall.map fun _ => ⟨1, 0⟩⟩).modQueue 0 fun x =>
    { x with engine := 0x42, progs := [{ newProg 0 applyWords 1 0 with flushed := true }] }
theorem witness_gradient : let a := armedOf 0 1
    let s := armedState a none
    powered s = true ∧ (s.upd1 0).armed = some a
    ∧ s.coll.runs.find? (fun r => a.paired == some r.id && r.phase == .data) = some sinkRun
    ∧ s.group sinkRun.group = some alone ∧ a.lo + a.pos < a.hi ∧ dataComplete sinkRun = true
    ∧ (sinkRun.acc.getD (a.lo + a.pos) (0, 0)).1 = (5 : BitVec 32).toNat ∧ a.present = true
    ∧ (acceptGradient 0 a (widen sinkRun.ty 5) s).1.isSome = true
    ∧ (armedOf 0 0).present = false ∧ ((armedState (armedOf 0 0) none).upd1 0).stall = none := by decide +kernel
theorem witness_stall_and_stage : let s := armedState (armedOf 32 32) (some 5)
    powered s = true ∧ (s.upd1 0).stall = some 5 ∧ (s.upd1 0).stalledBy = some ⟨1, 0⟩ ∧ 5 + stallBound (s.upd1 0) * 1000 ≤ s.now
    ∧ s.runOf ⟨1, 0⟩ = some sinkRun ∧ s.group sinkRun.group = some alone ∧ (s.prog 1 0).map (·.phase) = some .running
    ∧ (s.upd1 0).armed = some (armedOf 32 32) ∧ (s.prog 0 0).map (·.phase) = some .running ∧ (armedOf 32 32).paired.isSome = true
    ∧ (armedOf 32 32).hi ≤ (armedOf 32 32).lo + (armedOf 32 32).pos
    ∧ tagClear (.desc (armedOf 32 32).id) s = true ∧ (armedOf 32 32).attach = false
    ∧ (s.prog 0 0).map (·.flush) = some [] := by decide +kernel

/-- 12 Table 12-8: a staged shard commits, and a repeated commit finds it done. -/
def commitWords : DWords := [w64 (opUpdCommit * 2 ^ 48), 0, 0x4003000, 0, 0, 0, 0, 0]
theorem witness_commit : 2 ^ 63 / 2 ^ 62 = 2 ∧ 2 ^ 63 / 2 ^ 61 % 2 = 0 ∧ (2 ^ 63 + 8) % 2 ^ 61 = ((7 : W64) + 1).toNat % 2 ^ 61
    ∧ (let s := mapped 0x42 (busyOn 0x42 commitWords)
      let t := running 0 ⟨0, commitWords, false⟩ [] s
      Startable 0 opUpdCommit ⟨0, commitWords, false⟩ [] s ∧ Permitted 0 s
      ∧ (match vaRead 0x42 (dSrc commitWords) 32 false false t with
        | (.ok bs, _) => !bs.any Prod.snd && (commitOutcome (wordAt commitWords 4) (wordAt commitWords 3) (leAt (bs.map Prod.fst) 0 8)
            (leAt (bs.map Prod.fst) 8 8) (leAt (bs.map Prod.fst) 16 8)).2.1.isNone
        | _ => false) = true) := by
  unfold Startable Permitted
  decide +kernel

/-! ### Sequences -/

/-- SLOT 1 for the slot commands, a list of one for the others; one token of a vocabulary of four. -/
def seqWords (op : Nat) : DWords := [w64 (op * 2 ^ 48), 0, w64 (2 ^ 56 + 0x4000000), 0x4001000, 4, 0x3F800000, 0, 0x4002000]
def seqState (op : Nat) (slots : Sparse SlotSt) : State :=
  let s := mapped 0x44 (busyOn 0x44 (seqWords op))
  poolWrite 0x8000000 (leBytes 2 1) .none (s.modSeq 0 fun x => { x with slots := slots })
def seqOne (op : Nat) : State := seqState op [(1, { mode := .open, capacity := 1 })]
theorem witness_seq_start : ∀ op ∈ [opSlotOpen, opSlotClose, opKvGather, opKvPut, opSample],
    let s := if op = opSlotOpen then seqState op [] else seqOne op
    let n := namedSlots 0 0 (seqWords op) s
    Startable 0 op ⟨0, seqWords op, false⟩ [] s ∧ Startable 0 op ⟨0, seqWords op, false⟩ [] n.2 ∧ Permitted 0 n.2
    ∧ seqOf s 0 = 0 ∧ (seqLive 0 s).length < 8 ∧ (match n.1 with | some (.ok l) => l == [1] | _ => false) = true
    ∧ (s.seq 0).live = [] ∧ slotConflict 0 op [1] s = false ∧ sSlot (seqWords op) = 1
    ∧ (s.slot 0 1).mode = (if op = opSlotOpen then .free else .open) ∧ (s.seq 0).en = false := by
  unfold Startable Permitted
  decide +kernel

/-- The descriptor as it runs: a gather of no bytes, and the sample. -/
def seqGo (op : Nat) : State :=
  (running 0 ⟨0, seqWords op, false⟩ [] (seqOne op)).modSeq 0 fun x => { x with live := x.live ++ [{ id := ⟨0, 0⟩, op := op, slots := [1] }] }
theorem witness_seq_rows : let w := seqWords opKvGather
    let r := moveRows 0 ⟨0, 0⟩ w [1] (1 * sRows w) 0 (notePages ⟨0, 0⟩ (dSrc w) 2 (seqGo opKvGather))
    rowsFit w 1 = true ∧ (match r.1 with | .ok => true | _ => false) = true ∧ tagClear (.desc ⟨0, 0⟩) r.2 = true
    ∧ (r.2.prog 0 0).map (·.phase) = some .running := by decide +kernel
theorem witness_seq_token : let w := seqWords opSample
    (match (sampleToken 0 ⟨0, 0⟩ w 0 1 (notePages ⟨0, 0⟩ (dSrc w) 2 (seqGo opSample))).1 with | .ok _ => true | _ => false) = true := by
  decide +kernel

/-- Descriptor 0 of queue 0 live on sequence engine 0 with slot 1, in a mode. -/
def seqLiveState (op : Nat) (m : SlotMode) : State :=
  let s := (busyOn 0x44 []).modQueue 0 fun x => { x with progs := [newProg 0 (seqWords op) 1 0] }
  (s.modSlot 0 1 fun x => { x with mode := m, capacity := 1 }).modSeq 0 fun x => { x with live := [{ id := ⟨0, 0⟩, op := op, slots := [1] }] }
theorem witness_seq_run : let s := seqLiveState opKvGather .open
    let r : SeqRun := { id := ⟨0, 0⟩, op := opKvGather, slots := [1] }
    s.prog 0 0 = some (newProg 0 (seqWords opKvGather) 1 0) ∧ (s.seq 0).live.find? (fun r => r.id == (⟨0, 0⟩ : DescId)) = some r
    ∧ (newProg 0 (seqWords opKvGather) 1 0).phase = .running ∧ r.landing = none ∧ r.at_ = 0 ∧ (∀ g ∈ r.slots, g / 128 = 0)
    ∧ (∀ g ∈ r.slots, (s.slot 0 (g % 128)).mode = .open)
    ∧ (∀ g ∈ r.slots, rowsFit (seqWords opKvGather) (s.slot 0 (g % 128)).capacity = true)
    ∧ (match moveRows 0 r.id (seqWords opKvGather) r.slots (r.slots.length * sRows (seqWords opKvGather)) 0 s with | (.ok, _) => true | _ => false) = true
    ∧ ((seqLiveState opSlotOpen .free).slot 0 0).mode = .free ∧ ((seqLiveState opSlotOpen .open).slot 0 1).mode ≠ .free
    ∧ sSlot (seqWords opSlotOpen) = 1 ∧ r.token = none ∧ r.slots.eraseDups.length = r.slots.length := by decide +kernel

theorem witness_ring : let s (e : Bool) := run.modSeq 0 fun x => { x with en := e }
    powered (s true) = true ∧ powered (s false) = true ∧ ((s true).seq 0).en = true ∧ bitOf 0x100 8 = true ∧ ((s false).seq 0).en = false ∧ ((s true).seq 0).live = [] := by decide +kernel

/-- 13 R295's worked example: tokens 902, 40, 5 and 17 of 3.0, 2.0, 1.0 and 1.0; here with four tokens only. -/
def logits : List Nat := [0x3F800000, 0x40400000, 0x3F800000, 0x40000000]
def sampleWords (mode : Nat) : DWords := [0, 0, 0, 0, w64 (0x3F4CCCCD * 2 ^ 32 + mode * 2 ^ 30 + 4), 0x3F800000, 0, 0]
theorem witness_sample : sMode (sampleWords 0) = 0 ∧ (∀ v ∈ logits, v < 2 ^ 32)
    ∧ (1 < logits.length ∧ (r32 (logits.getD 1 0)).isNan = false ∧ logits.getD 1 0 ≠ 0xFF800000)
    ∧ pickToken [1, 3] [2, 1] 0x3F800000 0 = some 1 := by decide +kernel
/-- The same example sampled: stream 0 draws 0x784E7EDC and picks the largest, stream 1 draws 0xBB537DB8 and
picks the next (13 R295). -/
theorem test_sample_stream0 : (selectToken logits (sampleWords 1) {} run).1 = some 1 := by decide +kernel
theorem test_sample_stream1 : (selectToken logits (sampleWords 1) { stream := 1 } run).1 = some 3 := by decide +kernel
theorem test_noise : noise 0 0 0 = 0x784E7EDC ∧ noise 0 1 0 = 0xBB537DB8 ∧ noise 0 0 1 = 0x4D95C930 := by decide +kernel



/-! ## Witnesses: links, flits, packets, routes, Ethernet and RDMA -/

/-- Payload fields, each of a size in bytes and a value. -/
def pay (l : List (Nat × Nat)) : List Byte := l.flatMap fun x => leBytes x.1 x.2
/-- A command of one long payload word: its first fields, then zeros up to n bytes. -/
def payTo (n : Nat) (l : List (Nat × Nat)) : List Byte := let p := pay l; p ++ List.replicate (n - p.length) 0

/-- Link 3 in this state. -/
def linkIs (l : LinkSt) (s : State) : State := s.modLink 3 fun _ => l
def upLink : LinkSt := { mode := .up, gen := 2, peer := 9, peerPart := 1 }

theorem witness_links : let s (l : LinkSt) := linkIs l run
    powered (s upLink) = true ∧ linkHeld 3 (s {}) = false ∧ linkHeld 3 (s { mode := .training, train := some .startup }) = false
    ∧ linkHeld 3 (s { upLink with withdrawing := some 5 }) = false ∧ linkHeld 3 (s { upLink with mode := .withdrawn }) = false
    ∧ linkHeld 3 (s upLink) = false ∧ ((s upLink).link 3).mode = .up
    ∧ ((s { mode := .training, train := some .startup }).link 3).mode = .training
    ∧ ((s { mode := .training, train := some .startup }).link 3).eth = false
    ∧ ((s { mode := .ethernet }).link 3).mode = .ethernet ∧ linkHeld 3 (s { mode := .ethernet }) = false
    ∧ (s {}).net.autoRetrain = true ∧ ((s {}).link 3).mode = .down ∧ ((s {}).link 3).lastTry + 1000000000 ≤ (s {}).now
    ∧ ((s { upLink with withdrawing := some 5 }).link 3).withdrawing.isSome = true
    ∧ ((s { upLink with mode := .withdrawn }).link 3).mode = .withdrawn := by decide +kernel

/-- O32: training ends at the lower of what was reached and what is offered; a failure has cause 4. -/
theorem test_link_training : let s := linkIs { mode := .training, train := some .startup, maxGen := 1 } run
    (match exec (.linkTrainingEnd 3 (some 1)) s, exec (.linkTrainingEnd 3 none) s with
    | .next t, .next u => (t.link 3).mode == .up && (t.link 3).gen == 1 && (u.link 3).mode == .down && (u.link 3).cause == 4
    | _, _ => false) = true := by decide +kernel

/-- 128 bytes with a CRC field: DATA, FSEQ 0, lane 0, a flit in which no packet begins (14 R301). -/
def flitBody : List Byte := 127 :: List.replicate 123 0
def flitOf (crc : Nat) : List Byte := flitBody ++ leBytes 4 crc
theorem flit_crc (v : Nat) : leAt (flitOf v) 124 4 = v % 2 ^ 32 ∧ (flitOf v).take 124 = flitBody := by
  refine ⟨?_, by simp [flitOf, flitBody]⟩
  unfold flitOf
  rw [leAt_append_right _ _ _ _ (by simp [flitBody])]
  have h : flitBody.length = 124 := by simp [flitBody]
  rw [h, leAt_leBytes _ _ _ _ (by omega)]
  simp
theorem witness_flit_crc : (∃ bs : List Byte, leAt bs 124 4 = (crc32 (bs.take 124)).toNat)
    ∧ ∃ bs : List Byte, leAt bs 124 4 ≠ (crc32 (bs.take 124)).toNat := by
  have h := (crc32 flitBody).isLt
  refine ⟨⟨flitOf (crc32 flitBody).toNat, ?_⟩, flitOf ((crc32 flitBody).toNat + 1), ?_⟩ <;>
    rw [(flit_crc _).1, (flit_crc _).2] <;> omega
theorem witness_plain_flit (v : Nat) : let l := (linkIs upLink run).link 3
    leAt (flitOf v) 0 6 = 127 ∧ 127 / 2 ^ 46 % 2 ^ 2 = 0 ∧ 127 / 2 ^ 32 % 2 ^ 12 = l.expect
    ∧ (splitPackets 6 (laneBytes (Sparse.get [] l.rx 0) (((flitOf v).drop 6).take 118) 127)).1 = [] := by
  have h1 : leAt (flitOf v) 0 6 = leAt flitBody 0 6 := by simp [flitOf, flitBody, leAt]
  have h2 : ((flitOf v).drop 6).take 118 = flitBody.drop 6 := by simp [flitOf, flitBody]
  dsimp only
  rw [h1, h2]
  exact ⟨by decide +kernel, by decide +kernel, by decide +kernel, by decide +kernel⟩
/-- The IEEE 802.3 check value, of the digits 1 to 9 (01 R26). -/
theorem test_crc32 : crc32 [0x31, 0x32, 0x33, 0x34, 0x35, 0x36, 0x37, 0x38, 0x39] = 0xCBF43926#32 := by decide +kernel

theorem witness_flits : let s := linkIs { upLink with retryAt := some 5, dry := [(2, 1)] } run
    powered s = true ∧ (s.link 3).mode = .up ∧ (([(0, 9)] : List (Nat × Nat)).any fun w => decide (7 < w.2)) = true
    ∧ (([(0, 7)] : List (Nat × Nat)).any fun w => decide (7 < w.2)) = false
    ∧ (((s.link 3).replays.filter fun t => decide (s.now < t + 1000000)) ++ [s.now]).length ≤ s.net.retryLimit
    ∧ (s.link 3).retryAt = some 5 ∧ 5 + 200 ≤ s.now
    ∧ Sparse.get 0 (s.link 3).dry 2 ≠ 0 ∧ Sparse.get 0 (s.link 3).dry 2 - 1 + s.net.stallMs * 1000000 ≤ s.now := by decide +kernel

/-- O33: a flit that overlaps an uncorrectable codeword is counted and asked for again. -/
theorem test_bad_flit :
    (match execFlitReceive 3 flitBody [(0, 9), (1, 3)] (linkIs upLink run) with
    | .next t => (t.link 3).retryAt == some run.now && t.ctr (fecUncorrCount 3) == 1 && t.ctr (fecCorrCount 3) == 1
    | _ => false) = true := by decide +kernel

/-- Node 9 is reached over link 3. -/
def toNine : State :=
  let s := linkIs upLink run
  { s with net := { s.net with routes := [(9, { valid := true, prim := 8 })] } }
def hopping (n : NodeId) : Packet := { packetTo n with hops := 4 }
theorem witness_packets : powered toNine = true ∧ (toNine.route 9).unreach = false ∧ toNine.node ≠ 0xFFFF ∧ (hopping 9).typ.toNat ≠ 0 ∧ (hopping 9).typ.toNat ≤ 5 ∧ (packetTo 5).dst = toNine.node
    ∧ (hopping 9).dst ≠ toNine.node ∧ pickLink (hopping 9) toNine = some 3 ∧ pickLink (hopping 10) toNine = none
    ∧ ({ packetTo 9 with typ := 3 } : Packet).typ ≠ typeWrite ∧ (⟨5, 7, typeColl, false, 0, 0, 0, 0, []⟩ : Packet).typ = typeColl ∧ pickLink { packetTo 9 with typ := 3 } toNine = none
    ∧ 5 < ({ packetTo 9 with typ := 6 } : Packet).typ.toNat
    ∧ (toNine.route 9).valid = true ∧ (toNine.route 10).valid = false ∧ (packetTo 9).hops = 0 ∧ (toNine.route 9).unreach = false
    ∧ nodeGone 9 (linkIs { upLink with mode := .down } toNine) = true
    ∧ (({ toNine with net := { toNine.net with routes := [(9, { valid := true, unreach := true })] } } : State).route 9).unreach = true := by
  decide +kernel

/-- Whether a witness meets the conditions common to all link commands of O35. -/
def linkFree (n : Nat) (s : State) : Bool := decide (n < 96) && !linkHeld n s && (freeSlot? 0 s).isSome
theorem witness_link_commands :
    (let s := cmdOf 0 0x0501 (payTo 8 [(2, 7)]) run
     Served 0 0x0501 s ∧ (cmdAt 0 s).le 0 2 ≠ 0xFFFF ∧ groupsLoaded s = false)
    ∧ (let s := cmdOf 0 0x0502 (payTo 48 [(2, 65535), (2, 1), (1, 1)]) run
      Served 0 0x0502 s ∧ (cmdAt 0 s).le 4 1 % 2 = 1 ∧ (cmdAt 0 s).le 2 2 = 1 ∧ (cmdAt 0 s).le 0 2 + (cmdAt 0 s).le 2 2 ≤ 65536
      ∧ (routeOf (((cmdAt 0 s).pay.drop 16).drop 0)).unreach = false)
    ∧ (let s := cmdOf 0 0x0503 (payTo 8 [(2, 65505), (2, 31)]) run
      Served 0 0x0503 s ∧ (cmdAt 0 s).le 2 2 = 31 ∧ (cmdAt 0 s).le 0 2 + (cmdAt 0 s).le 2 2 ≤ 65536)
    ∧ (let s := cmdOf 0 0x0504 (payTo 8 [(1, 3), (1, 0), (1, 1)]) (linkIs upLink run)
      Served 0 0x0504 s ∧ linkFree 3 s = true ∧ (cmdAt 0 s).le 0 1 = 3 ∧ (cmdAt 0 s).le 1 1 = 0 ∧ (s.link 3).off = false
      ∧ (s.link 3).eth = false ∧ (cmdAt 0 s).le 2 1 = 1)
    ∧ (let s := cmdOf 0 0x0504 (payTo 8 [(1, 3), (1, 2)]) (linkIs upLink run)
      Served 0 0x0504 s ∧ linkFree 3 s = true ∧ (cmdAt 0 s).le 1 1 = 2 ∧ (s.link 3).mode = .up)
    ∧ (let s := cmdOf 0 0x0505 (payTo 8 [(1, 3)]) (linkIs upLink run)
      Served 0 0x0505 s ∧ linkFree 3 s = true ∧ (s.link 3).mode = .up)
    ∧ (let s (m : LinkMode) := cmdOf 0 0x0506 (payTo 8 [(1, 3)]) (linkIs { upLink with mode := m } run)
      Served 0 0x0506 (s .up) ∧ linkFree 3 (s .up) = true ∧ ((s .up).link 3).mode = .up
      ∧ Served 0 0x0506 (s .down) ∧ ((s .down).link 3).mode = .down ∧ ((s .withdrawn).link 3).mode = .withdrawn)
    ∧ (let s := cmdOf 0 0x0507 (payTo 8 [(1, 3)]) (linkIs { upLink with mode := .withdrawn } run)
      Served 0 0x0507 s ∧ linkFree 3 s = true ∧ (s.link 3).mode = .withdrawn) := by
  refine ⟨?_, ?_, ?_, ?_, ?_, ?_, ?_, ?_⟩ <;> (unfold Served; decide +kernel)

/-- Ethernet port 0 on link 0, at 400 Gb/s, its raw receive ring of two entries in the page of code 0x50. -/
def ethBase : EthSt := { configured := true, pfcMask := 8, rxVa := 0x4000000, rxEntries := 2, txVa := 0x4100000, txEntries := 2 }
def ethRun (x : EthSt) : State :=
  let s := (mapped (codeEth 0) run).modLink 0 fun l => { l with mode := .ethernet, eth := true, ethRate := 3, maxGen := 3 }
  s.modEth 0 fun _ => x
def qpBase : QpSt := { valid := true, mtu := 4096, sqVa := 0x4200000, sqEntries := 64, cqVa := 0x4300000, cqLog2 := 6, retry := 7 }
def qpRun (y : QpSt) : State := ethRun { ethBase with qps := [(7, y)] }

theorem witness_ethernet : let s := ethRun ethBase
    powered s = true ∧ ethUp s 0 = true ∧ ([1, 2, 3] : List Byte).length ≤ 9216 ∧ (s.ethPort 0).rxEntries ≠ 0
    ∧ (let r := rawWord 0 0x4000000 s
      r.1 = some 0 ∧ (ethWrite 0 (0x4000000 + 64) [1, 2, 3] r.2).1.isNone = true)
    ∧ (rawWord 0 0x4000000 (poolWrite 0x8000000 [9] .none s)).1 ≠ some 0
    ∧ ((qpRun { qpBase with rate := 5000 }).qp 0 7).valid = true ∧ ethUp (qpRun { qpBase with rate := 5000 }) 0 = true
    ∧ ((qpRun { qpBase with rate := 5000 }).qp 0 7).lastCnpRx + 100000 ≤ s.now ∧ (s.ethPort 0).qps = []
    ∧ ((qpRun qpBase).qp 0 7).lastCnpTx = none ∧ ((qpRun { qpBase with lastCnpTx := some 999999999 }).qp 0 7).lastCnpTx = some 999999999
    ∧ ((qpRun qpBase).qp 0 8).valid = false ∧ ((qpRun { qpBase with rate := 5000 }).qp 0 7).rate = 5000
    ∧ (let y := (qpRun qpBase).qp 0 7
      y.sqEntries ≠ 0 ∧ (64 + 2 * y.sqEntries - y.head % (2 * y.sqEntries)) % (2 * y.sqEntries) ≤ y.sqEntries
      ∧ y.sqEntries < (65 + 2 * y.sqEntries - y.head % (2 * y.sqEntries)) % (2 * y.sqEntries)) := by decide +kernel

/-- O36: a congestion notification halves the rate, down to 1 Gb/s. -/
theorem test_cnp :
    (match exec (.cnpReceive 0 7) (qpRun qpBase), exec (.cnpReceive 0 7) (qpRun { qpBase with rate := 1500 }) with
    | .next t, .next u => (t.qp 0 7).rate == 200000 && (u.qp 0 7).rate == 1000 && t.ctr (cnpRxCount 0) == 1
    | _, _ => false) = true := by decide +kernel

def workReq (op : Nat) : WorkReq := ⟨0, [w64 (op * 2 ^ 48), 0x4400000, 0, 64, 0, 0, 0, 0], false⟩
def outOf (op : Nat) : State := qpRun { qpBase with out := [workReq op] }
/-- A region of 4 KiB at 0x4500000 with key 77, for reads and writes. -/
def withRegion (s : State) : State := { s with eth := { s.eth with regions := [(77, ⟨0x4500000, 4096, true, true, true⟩)] } }
theorem witness_rdma : powered (outOf 2) = true ∧ powered (outOf 3) = true ∧ powered (withRegion (qpRun qpBase)) = true ∧ ((outOf 2).qp 0 7).out = [workReq 2] ∧ ((outOf 3).qp 0 7).out = [workReq 3] ∧ dOpcode (workReq 3).w = 3 ∧ dOpcode (workReq 2).w ≠ 3
    ∧ (let s1 := (outOf 3).modQp 0 7 fun x => { x with out := [] }
      (ethWrite 0 (wrLocal (workReq 3).w) ((List.replicate 64 1).take (wrLength (workReq 3).w)) s1).1.isNone = true)
    ∧ (let s := withRegion (qpRun qpBase)
      (s.qp 0 7).valid = true ∧ (s.qp 0 7).error = false ∧ regionGrants 77 0x4500000 4096 true s = true
      ∧ regionGrants 77 0x4500000 4097 true s = false ∧ regionGrants 78 0x4500000 1 false s = false
      ∧ (ethWrite 0 0x4500000 [1, 2, 3] s).1.isNone = true
      ∧ (match ethRead 0 0x4500000 8 s with | (.ok bs, _) => !bs.any Prod.snd | _ => false) = true) := by decide +kernel

theorem witness_eth_commands :
    (let s := cmdOf 0 0x0508 (payTo 56 [(1, 15)]) run
     Served 0 0x0508 s ∧ (cmdAt 0 s).le 0 1 < 16)
    ∧ (let s := cmdOf 0 0x0509 (payTo 24 [(8, 0), (8, 0), (4, 77), (1, 0), (1, 1)]) (withRegion run)
      Served 0 0x0509 s ∧ (cmdAt 0 s).le 21 1 = 1 ∧ (Sparse.get ({} : MemRegion) s.eth.regions ((cmdAt 0 s).le 16 4)).valid = true)
    ∧ (let s := cmdOf 0 0x0509 (payTo 24 [(8, 0x4500000), (8, 4096), (4, 0), (1, 3), (1, 0)]) (mapped (codeEth 0) run)
      let c := cmdAt 0 s
      Served 0 0x0509 s ∧ c.le 21 1 = 0 ∧ c.le 8 8 ≠ 0 ∧ c.le 0 8 + c.le 8 8 ≤ 2 ^ 52 ∧ s.eth.regions.length < 65536
      ∧ (rangePinned (c.le 0 8) (c.le 8 8) (taken s)).1 = true)
    ∧ (let s := cmdOf 0 0x050A (payTo 64 [(1, 15), (1, 0), (2, 4095), (8, 0), (8, 0), (8, 0), (2, 0), (1, 3), (1, 7), (8, 0x4200000), (2, 4096), (2, 16)]) run
      let c := cmdAt 0 s
      Served 0 0x050A s ∧ c.le 0 1 < 16 ∧ c.le 2 2 < 4096 ∧ c.le 60 1 = 0 ∧ c.le 30 1 ≠ 0 ∧ c.le 30 1 ≤ 3 ∧ c.le 31 1 ≤ 7
      ∧ 64 ≤ c.le 40 2 ∧ c.le 40 2 ≤ 4096 ∧ 6 ≤ c.le 42 2 ∧ c.le 42 2 ≤ 16)
    ∧ (let s := cmdOf 0 0x050A (payTo 64 [(1, 0), (1, 0), (2, 7), (8, 0), (8, 0), (8, 0), (8, 0), (8, 0), (8, 0), (8, 0), (1, 1)]) run
      Served 0 0x050A s ∧ (cmdAt 0 s).le 0 1 < 16 ∧ (cmdAt 0 s).le 2 2 < 4096 ∧ (cmdAt 0 s).le 60 1 = 1) := by
  refine ⟨?_, ?_, ?_, ?_, ?_⟩ <;> (unfold Served; decide +kernel)


/-! ## Witnesses: window, attach host, device time, cores, pool and stacks -/

/-- Port 0 up, with the bus master enabled. -/
def portIs (x : PortSt) (s : State) : State := s.modPort 0 fun _ => x
def portUp : PortSt := { linkUp := true, bme := true, width := 16, rate := 6 }
def early (s : State) : State := { s with boot := { s.boot with stage := 1, poolReady := false } }
/-- Host memory has not been set up: every stack is still training, so every sector reads poisoned. -/
theorem witness_window : let s := portIs portUp run
    powered s = true ∧ powered (early s) = true ∧ ((early s).port 0).linkUp = true ∧ fieldOf 0 26 26 ≤ maxWinBase ∧ maxWinBase < fieldOf (BitVec.allOnes 64) 26 26
    ∧ (s.port 0).linkUp = true ∧ 0xFFFFFFFF + 1 ≤ 0x100000000 ∧ (early s).boot.poolReady = false ∧ s.boot.poolReady = true
    ∧ ((poolRead (codePort 0) (windowAddr 0 0 (active s)) 4 false false (active s)).1.any Prod.snd) = false
    ∧ ((poolRead (codePort 0) (windowAddr 0 0 s) 4 false false s).1.any Prod.snd) = true
    ∧ (run.port 0).linkUp = false := by decide +kernel

theorem witness_attach : let s := portIs { portUp with msixEnable := true, msix := [(3, { masked := false })], pba := [(3, true)] } run
    powered s = true ∧ (s.port 0).cacheEn = false ∧ Sparse.get false (s.port 0).pba 3 = true ∧ canSendMsix s 0 3 = true ∧ (s.port 0).linkUp = true
    ∧ (early s).boot.stage ≤ 1 ∧ ((early s).port 0).linkUp = true ∧ 1 < s.boot.stage := by decide +kernel
theorem witness_serial : (BitVec.ofNat 12 (dsnAt + 4)).toNat = dsnAt + 4 ∧ (BitVec.ofNat 12 (dsnAt + 8)).toNat = dsnAt + 8 := by
  have h := Nat.mod_lt Config.dsnSlot (show 0 < 957 by decide)
  simp only [dsnAt, BitVec.toNat_ofNat]
  omega

/-- O39: a Configuration Request before the ROM is done gets retry status, and later the identity (15 R320). -/
theorem test_configuration :
    (match exec (.configurationRequest 0 (.read 0)) (portIs portUp run), exec (.configurationRequest 0 (.read 0)) (early (portIs portUp run)) with
    | .next t, .next u => t.outbox == [.completion 0 [0x9B, 0x1E, 0x20, 0x09] false] && u.outbox == [.retryStatus 0]
    | _, _ => false) = true := by decide +kernel

def src0 (bad : Nat) : TimeSrc := { kind := srcFabric, port := 3, locked := true, bad := bad }
def timed (x : TimeSrc) : State :=
  linkIs upLink { run with time := { run.time with srcs := [x], active := some 0, everLocked := true, set := true } }
theorem witness_time : let s := timed (src0 0)
    2 ≤ timeState s ∧ s.node ≠ 0xFFFF ∧ fwRoles s = true ∧ s.time.lastSync + 62500000 ≤ s.ticks ∧ powered s = true ∧ (s.link 3).mode = .up
    ∧ ((timed { src0 0 with kind := srcPps }).time.srcs.any fun x => x.kind == srcPps) = true
    ∧ s.time.srcs[0]? = some (src0 0) ∧ s.time.set = true ∧ (1000 : Int).natAbs ≤ 1000 ∧ 1000 < (1001 : Int).natAbs
    ∧ (src0 8).bad < 9 ∧ 9 ≤ (src0 9).bad ∧ (src0 9).locked = true ∧ (timed (src0 9)).time.srcs[0]? = some (src0 9)
    ∧ s.now / 1000000000 ≠ s.time.lastPps / 1000000000 ∧ s.time.lastCompare + 1000 ≤ s.ticks
    ∧ (s.time.srcs.findIdx? fun x => x.kind == srcFabric && (srcFabric == srcPps || x.port == 3)) = some 0
    ∧ ((timed { src0 0 with kind := srcPps }).time.srcs.findIdx? fun x => x.kind == srcPps && (srcPps == srcPps || x.port == 0)) = some 0
    ∧ (let e := { ethRun ethBase with time := { run.time with srcs := [{ src0 0 with kind := srcPtp, port := 0 }], set := true } }
      ethUp e 0 = true ∧ powered e = true
      ∧ (e.time.srcs.findIdx? fun x => x.kind == srcPtp && (srcPtp == srcPps || x.port == 0)) = some 0)
    ∧ (let f := { s with time := { s.time with set := false, srcs := [{ src0 0 with locked := false }] } }
      f.time.srcs[0]? = some { src0 0 with locked := false } ∧ allDisabled f = true
      ∧ allDisabled (f.modQueue 0 fun x => { x with mode := .active }) = false) := by decide +kernel
theorem witness_time_commands :
    (let s := cmdOf 0 0x0301 (payTo 48 [(1, 1), (7, 0), (1, 2), (1, 95)]) run
     let c := cmdAt 0 s
     Served 0 0x0301 s ∧ 1 ≤ c.le 0 1 ∧ c.le 0 1 ≤ 4 ∧ badEntry c (c.le 0 1) = none)
    ∧ (let s := cmdOf 0 0x0302 (payTo 8 [(8, 2 ^ 64 - 1000000000)]) run
      Served 0 0x0302 s ∧ 0 ≤ (s.now : Int) + sext 64 ((cmdAt 0 s).le 0 8) ∧ (s.now : Int) + sext 64 ((cmdAt 0 s).le 0 8) < 2 ^ 64
      ∧ allDisabled s = true) := by
  unfold Served; decide +kernel

/-- O40: ten offsets above 1 us unlock a source; an offset of exactly 1 us does not count. -/
theorem test_lock_loss :
    (match (measured 0 1001 (timed (src0 9))).time.srcs[0]?, (measured 0 1000 (timed (src0 9))).time.srcs[0]? with
    | some a, some b => !a.locked && b.locked && b.bad == 0
    | _, _ => false) = true := by decide +kernel

/-- The directory entry of line 5: owned by P-die 0. -/
def ownedBy0 : State := { run with coh := { run.coh with dir := [(5, { owned := true, pA := true, order := 1 })] } }
/-- A held write of line 5 waits for the remote half. -/
def heldAt5 : State := { run with coh := { run.coh with held := [⟨5, [], false, [.remote], .none⟩] } }
/-- Line 5 held by both P-dies, all zero; or with its first sector poisoned. -/
def sharedLine (bad : List Nat) : State :=
  (run.setPline 0 5 { held := true, data := List.replicate 128 0, poison := bad }).setPline 1 5 { held := true, data := List.replicate 128 0, poison := bad }
/-- Core 3 in a mode. -/
def inMode (m : CoreMode) : State := { run with cores := [(3, { mode := m })] }
theorem witness_cores : powered run = true ∧ powered heldAt5 = true ∧ lineHeld run 5 = false ∧ lineHeld heldAt5 5 = true ∧ (640 : Nat) < poolBytes
    ∧ (ownedBy0.dirE 5).owned = true ∧ (ownedBy0.dirE 5).hasP (3 / 64) = true ∧ (run.dirE 5).owned = false
    ∧ (640 : Nat) + 8 ≤ poolBytes ∧ linesOf 640 8 = [5] ∧ ((sharedLine []).pline 0 5).held = true ∧ lineHeld (sharedLine []) 5 = false
    ∧ (pdieBytes (sharedLine []) 0 640 8).any Prod.snd = false ∧ (pdieBytes (sharedLine [0]) 0 640 8).any Prod.snd = true
    ∧ (run.core 3).reservation ≠ some 5
    ∧ regionOf 640 = .pool ∧ regionOf (poolBytes - 1) = .pool ∧ regionOf poolBytes = .hole
    ∧ ((inMode .machine).core 3).mode = .machine ∧ ((inMode .supervisor).core 3).mode ≠ .machine ∧ ((inMode .supervisor).core 3).mode ≠ .user
    ∧ ((inMode .user).core 3).mode = .user ∧ powered (inMode .user) = true
    ∧ fieldOf (0x8301 : W64) 0 8 ≠ 0 ∧ bitOf (0x8301 : W64) 15 = true ∧ bitOf (0x0301 : W64) 15 = false ∧ fieldOf (0x8300 : W64) 0 8 = 0 := by
  decide +kernel

theorem witness_pool : (0 : Nat) + 32 ≤ poolBytes ∧ powered run = true ∧ 640 % 128 + 32 ≤ 128
    ∧ ((recallLine 5 run).dirE 5).holders = [] ∧ lineHeld (recallLine 5 run) 5 = false ∧ lineHeld (recallLine 5 heldAt5) 5 = true
    ∧ ((recallLine 5 ownedBy0).dirE 5).holders ≠ [] ∧ (run.cis 0).evict = []
    ∧ (let s1 := breakReservations 5 none (recallLine 5 run)
      (s1.dirE 5).holders = [] ∧ lineHeld s1 5 = false)
    ∧ (let s1 := breakReservations 5 none (recallLine 5 heldAt5)
      lineHeld s1 5 = true)
    ∧ (let s := active run
      (s.stack (s.stackOf (32 * 7))).mode = .active ∧ s.keyOf (s.selectorOf (32 * 7)) = some []) := by decide +kernel

/-- A sector of stack 0 to be written back corrected, and a write-combining entry born at 0. -/
def wcbOne : WcbEntry := ⟨0, [(0, 7)], 0⟩
def stackRun : State :=
  let s := active run
  { s with hbm := { s.hbm with writeBacks := [(poolAddrOf s.hbm 0 0 / 32, List.replicate 32 3)], wcb := [(0, [wcbOne])] } }
theorem witness_stacks : let s := stackRun
    powered s = true ∧ stalled s 0 = false ∧ stalled (s.modPc 0 fun x => { x with active := some (999999999, .auto) }) 0 = true
    ∧ mayLeave s wcbOne = true ∧ s.stackOf (128 * wcbOne.line) = 0 ∧ s.keyOf (s.selectorOf 0) = some []
    ∧ ((s.wcbOf 5).find? fun e => e.line == 9 / 4) = none ∧ (s.mark 9).errs = []
    ∧ scrubDue s.hbm.scrubHours (s.stack 0).scrubFrom (s.stack 0).scrubPos ≤ s.ticks ∧ (s.pc 7).degraded = false
    ∧ (s.stack (s.stackOf (poolAddrOf s.hbm 0 0))).mode = .active ∧ (List.replicate 32 (3 : Byte)).length = 32 ∧ (0 : Nat) < 25165824 ∧ (s.stack (0 / 64)).mode = .active ∧ storedSector s 9 = (List.replicate 32 0, false) ∧ (run.stack 0).mode ≠ .active
    ∧ s.hbm.writeBacks.find? (fun w => w.1 == poolAddrOf s.hbm 0 (32 * 0) / 32) = some (poolAddrOf s.hbm 0 0 / 32, List.replicate 32 3)
    ∧ (∀ w ∈ s.hbm.writeBacks, w.1 ≠ poolAddrOf s.hbm 0 (32 * 1) / 32)
    ∧ s.wcbOf 0 = [wcbOne] ∧ wcbOne.born + 2000 ≤ s.now ∧ ({ s with now := 1999 } : State).now < wcbOne.born + 2000
    ∧ s.hbm.scrubEn = true ∧ (s.pc (64 * 0 + (s.stack 0).scrubPos / 25165824 % 64)).active = none
    ∧ (9 : Nat) < (s.stack 0).tune.toNat + 10 ∧ (s.stack 0).tune.toNat + 10 ≤ 10 ∧ fwRuns s = true := by decide +kernel

/-- A retune of pseudo-channel 5 due, and one in progress. -/
theorem witness_retune : let s := active (run.modPc 5 fun x => { x with sched := [(7, .auto)] })
    powered s = true ∧ (s.pc 5).sched = [(7, .auto)] ∧ 7 ≤ s.now ∧ retuneFree 5 s = true ∧ (s.stack (5 / 64)).mode = .active
    ∧ ((run.modPc 5 fun x => { x with active := some (7, .auto) }).pc 5).active = some (7, .auto) := by decide +kernel


/-! ## Witnesses: the power envelope and power regulation -/

/-- A permit message from node n. -/
def msgFrom (n : NodeId) (amount : Int) : PermitMsg := ⟨n, 0, 7, 0, 0, amount, 5, 64, 0, 0, 300, 3200, 0, 0, 1, 3⟩
def askOne : Ask := ⟨{ msgFrom 5 40 with seq := 3 }, false, false, 0⟩
/-- A member of power group 0 whose Steward is node 9, with a start waiting at node 5 itself. -/
def memberOf (e : EnvState) : State := { run with env := e }
def memBase : EnvState := { member := true, steward := 9, level := 500 }

theorem witness_member : let s (e : EnvState) := memberOf e
    powered (s memBase) = true ∧ powered run = true ∧ 0 ≤ ((s memBase).env.level : Int) + ((s memBase).env.ramps.map fun r => r.upTo (s memBase).now - r.applied).sum
    ∧ (∀ r ∈ (s memBase).env.ramps, r.cover = false)
    ∧ (run.modPwr fun p => { p with heldSince := some 5 }).pwr.heldSince = some 5 ∧ 5 + 1000000 ≤ run.now ∧ upOutstanding run = false
    ∧ upOutstanding (s { memBase with asks := [askOne] }) = true ∧ run.pwr.heldSince = none
    ∧ (let s := s { memBase with window := [(1000000000, 9000)] }
      s.env.starts = [] ∧ (s.env.asks.any fun a => a.window) = false ∧ (s.env.ramps.any fun r => r.window) = false)
    ∧ (s { memBase with starts := [⟨.stream 1, 5⟩] }).env.starts ≠ []
    ∧ (s memBase).env.level ≤ 460 + 40 ∧ 459 + 40 < (s memBase).env.level
    ∧ accepts { msgFrom 9 40 with epoch := 0 } (s { memBase with epoch := 1 }) = false
    ∧ fwRoles (s memBase) = true ∧ accepts (msgFrom 9 40) (s memBase) = true ∧ (msgFrom 9 40).src = (s memBase).env.steward
    ∧ (s { memBase with asks := [askOne] }).env.asks.find? (fun a => a.msg.seq == (msgFrom 9 40).refSeq) = some askOne
    ∧ ((msgFrom 9 40).flags &&& flagCover) = 0 ∧ (s memBase).env.role ≠ 1 ∧ (s memBase).env.ceilW ≤ (msgFrom 9 40).ceilingW
    ∧ ((msgFrom 9 40).floorW : Int) ≤ planned (s memBase)
    ∧ (s memBase).env.steward ≠ (s memBase).node ∧ (s memBase).env.lastBeat + 30000000 ≤ (s memBase).now ∧ (s memBase).env.hold = false
    ∧ (s { memBase with lastBeat := 999999999 }).now < 999999999 + 30000000 
    ∧ fwRoles (s memBase) = true ∧ (s memBase).env.starts = [] ∧ (s memBase).env.member = true ∧ run.env.member = false
    ∧ (s memBase).env.short = false ∧ (s { memBase with short := true }).env.short = true
    ∧ (let w (e : EnvState) := (memberOf e).modPwr fun p => { p with heldSince := some 5 }
      1 ≤ min (shortfall 900 (w memBase)) ((effC (w memBase) : Int) - planned (w memBase)) ∧ upOutstanding (w memBase) = false
      ∧ 1 ≤ min (shortfall 4000 (w { level := 500 })) ((effC (w { level := 500 }) : Int) - planned (w { level := 500 }))
      ∧ (w { level := 500 }).env.member = false) := by decide +kernel

/-- The down-request window of R348 half full and above its margin: six samples stand for a 100 us delay's. -/
theorem witness_down_request : let s := memberOf { memBase with delayMs := 0, window := [] }
    let w := memberOf { memBase with delayMs := 1, window := (List.range 60).map fun _ => (1000000000, 9000) }
    powered s = true ∧ powered w = true ∧ s.env.delayMs * 1000000 ≤ 2 * (0 * 10000) ∧ w.env.starts = []
    ∧ (w.env.asks.any fun a => a.window) = false ∧ (w.env.ramps.any fun r => r.window) = false
    ∧ 1 ≤ min ((((List.range 60).map fun _ => 9000).sum / (10 * 60) : Nat) - (w.env.marginW / 2 : Nat) : Int) (plannedLow w - (w.env.floorW : Int))
    ∧ (let xs := w.env.window.filter fun x => w.now < x.1 + w.env.delayMs * 1000000
      w.env.delayMs * 1000000 ≤ 2 * (xs.length * 10000) ∧ 10 * w.env.marginW * xs.length < (xs.map Prod.snd).sum) := by decide +kernel

/-- O44: the down request of R348 asks for the mean less half the margin. -/
theorem test_down_request :
    (match exec .downRequest (memberOf { memBase with delayMs := 1, window := (List.range 60).map fun _ => (1000000000, 4000) }) with
    | .next t => t.env.asks.map (fun a => (a.msg.amount, a.window)) == [(-300, true)]
    | _ => false) = true := by decide +kernel

/-- The Steward of nodes 5 and 6, 600 us into slot 1000. -/
def stewOf (w : StewardState) (role : Nat) : State :=
  { run with now := 1000600000, env := { memBase with role := role, steward := 5, standby := 6 }, stew := w }
def stewBase : StewardState := { list := [5, 6], sg := 20, cg := 6400 }
def recOf (r : MemberRec) : StewardState := { stewBase with recs := [(6, r)], lossCover := false }
theorem witness_steward : let s := stewOf stewBase 1
    powered s = true ∧ powered (stewOf stewBase 2) = true ∧ (5 : NodeId) ∉ (stewOf { stewBase with list := [6] } 1).stew.list
    ∧ fwRoles (stewOf stewBase 3) = true ∧ fwRoles (stewOf stewBase 2) = true
    ∧ fwRoles s = true ∧ s.env.role = 1 ∧ s.stew.handing = false ∧ 500000 ≤ s.now % slotNs ∧ s.stew.lastSlot < slotOf s.now + 1
    ∧ -(s.stew.sg : Int) ≤ (s.stew.ramps.map fun r => r.changeIn (slotOf s.now + 1)).sum
    ∧ (s.stew.ramps.map fun r => r.changeIn (slotOf s.now + 1)).sum ≤ s.stew.sg ∧ run.now % slotNs < 500000
    ∧ accepts (msgFrom 6 40) s = true ∧ isSteward s = true ∧ s.stew.list.contains (msgFrom 6 40).src = true
    ∧ (msgFrom 6 40).pgroup = s.env.pgroup ∧ (s.stew.queue.any fun q => q.src == 6 && q.seq == 7) = false
    ∧ ({ msgFrom 6 40 with epoch := 0 } : PermitMsg).epoch.toNat ≤ s.env.epoch.toNat ∧ accepts { msgFrom 6 40 with epoch := 0 } s = true
    ∧ ((msgFrom 6 40).flags &&& flagLost) = 0 ∧ s.env.lastReport + 10000000 ≤ s.now ∧ s.env.member = true
    ∧ s.stew.lastBeat + 10000000 ≤ s.now ∧ s.stew.lastSnap + 10000000 ≤ s.now ∧ s.env.standby ≠ 0xFFFF
    ∧ s.stew.lastEnvelope + 1000000000 ≤ s.now ∧ s.stew.lastShare + 10000000 ≤ s.now
    ∧ (let t := stewOf (recOf { reported := some 5 }) 1
      (t.memberRec 6).reported = some 5 ∧ 5 + 30000000 ≤ t.now ∧ t.stew.list.contains 6 = true ∧ t.stew.lossCover = false ∧ (t.memberRec 6).lost = false)
    ∧ ((stewOf (recOf { lost := true }) 1).memberRec 6).lost = true
    ∧ (stewOf stewBase 2).env.role = 2 ∧ (stewOf stewBase 2).stew.lastSnap + 30000000 ≤ (stewOf stewBase 2).now
    ∧ ({ stewOf stewBase 2 with env := { memBase with role := 2, steward := 9 } } : State).env.steward = (msgFrom 9 0).src
    ∧ (stewOf {} 2).stew.list = [] ∧ (stewOf stewBase 3).env.role = 3 ∧ [(1 : Nat), 2] ≠ [] ∧ [(1 : Nat), 2].length ≤ 20 := by decide +kernel

theorem witness_pace : let s := stewOf { stewBase with
      sets := [(4, ⟨[6], 64, none, 0⟩), (5, { members := [6], cap := 62, slow := some 6 })],
      recs := [(6, { dutyCap := 40, below := some 5, clear := some 5 })] } 1
    powered s = true ∧ ((s.paceSet 4).members.find? fun n => match (s.memberRec n).below with
        | some b => decide (b + s.stew.paceHoldMs * 1000000 ≤ s.now) && (s.memberRec n).dutyCap < (s.paceSet 4).cap
        | none => false) = some 6
    ∧ 5 + s.stew.paceHoldMs * 1000000 ≤ s.now ∧ (s.paceSet 5).cap < 64
    ∧ s.paceSet 4 = ⟨[6], 64, none, 0⟩ ∧ (s.memberRec 6).below = some 5 ∧ 5 + s.stew.paceHoldMs * 1000000 ≤ s.now ∧ (s.memberRec 6).dutyCap < 64
    ∧ (s.paceSet 5).slow = some 6 ∧ (s.memberRec 6).clear = some 5 ∧ (s.paceSet 5).raised + 10000000 ≤ s.now ∧ (s.paceSet 5).cap + 1 < 64
    ∧ (∀ n ∈ (s.paceSet 9).members, (s.memberRec n).below = none) := by decide +kernel

/-- O46: 16 R353: 1 W/ms each, the rest by the amounts waiting, what rounding leaves to the first. -/
theorem test_head_shares : headShares 20 [0, 100, 200] = [2, 6, 12] ∧ headShares 20 [0, 0, 0] = [7, 7, 6] := by decide +kernel

/-! ### Regulation (17) -/

theorem witness_regulation : powered run = true ∧ run.env.starts = [] ∧ run.pwr.recal = none ∧ 14746 ≤ run.pwr.gain ∧ run.pwr.gain ≤ 18022 ∧ fwRuns run = true
    ∧ (let s := run.modPwr fun p => { p with samples := [(5, 100)], ests := [200 * 16384], over25 := 2 }
      let den := (s.pwr.samples.map Prod.snd).sum * s.pwr.ests.length * 16384
      0 < den ∧ 25 * den < 100 * ((s.pwr.ests.sum * s.pwr.samples.length : Nat) - (den : Int) : Int).natAbs ∧ s.pwr.over25 = 2
      ∧ s.pwr.samples = [(5, 100)] ∧ s.pwr.ests ≠ [])
    ∧ measurementGone run = true ∧ run.pwr.wh ≠ .fault ∧ measurementGone (run.modPwr fun p => { p with samples := [(999999999, 1)] }) = false
    ∧ (10 * ratedW : Nat) ≤ 10 * ratedW ∧ 10 * ratedW < 32001 ∧ run.pwr.overRun < 4
    ∧ 4 ≤ (run.modPwr fun p => { p with overRun := 4 }).pwr.overRun
    ∧ (run.modPwr fun p => { p with overUntil := some 5, clampUntil := some 5, wh := .untrusted }).pwr.overUntil = some 5 ∧ 5 ≤ run.now
    ∧ excursionW < 3501 ∧ run.pwr.nextTry ≤ run.now ∧ run.pwr.wh = .trusted
    ∧ run.pwr.droop = false ∧ (run.modPwr fun p => { p with nextEval := 5 }).pwr.nextEval ≤ run.now
    ∧ 25 ≤ marginOf run 0 ∧ marginOf run 0 ≤ 50 ∧ run.now < run.pwr.nextEval := by decide +kernel

/-- O47: the fifth sample above RATED_W opens the over-rated stretch, at 95 % of C (17 R371). -/
theorem test_over_rated :
    (match exec (.inputPowerSample 32001) (run.modPwr fun p => { p with overRun := 4 }) with
    | .next t => t.pwr.overUntil == some 1100000000 && effC t == 3040
    | _ => false) = true := by decide +kernel

theorem witness_power_commands :
    (let s := cmdOf 0 0x0201 (payTo 24 [(4, 700), (4, 3200), (2, 20)]) run
     let c := cmdAt 0 s
     Served 0 0x0201 s ∧ c.le 0 4 ≤ floorMaxW ∧ c.le 0 4 ≤ c.le 4 4 ∧ c.le 4 4 ≤ ratedW ∧ 1 ≤ c.le 8 2 ∧ c.le 8 2 ≤ slopeMax
     ∧ isSteward s = false ∧ s.env.member = false ∧ c.le 10 1 % 2 = 0 ∧ c.le 12 4 = 0 ∧ c.le 16 4 = 0)
    ∧ (let s := cmdOf 0 0x0201 (payTo 24 [(4, 700), (4, 3200), (2, 20), (2, 1), (4, 6400), (4, 20)]) (stewOf stewBase 3)
      Served 0 0x0201 s ∧ isSteward s = true ∧ s.env.role = 3 ∧ s.stew.head = 0xFFFF)
    ∧ (let s := cmdOf 0 0x0202 (payTo 8 [(2, 1), (2, 9), (2, 0xFFFF)]) run
      Served 0 0x0202 s ∧ (cmdAt 0 s).le 2 2 < 0xFFFF)
    ∧ (let s := cmdOf 0 0x0202 (payTo 8 [(2, 1), (2, 0xFFFF), (2, 0xFFFF)]) (memberOf memBase)
      Served 0 0x0202 s ∧ (cmdAt 0 s).le 2 2 = 0xFFFF ∧ s.env.starts = [])
    ∧ (let s := cmdOf 0 0x0203 (payTo 40 []) run
      Served 0 0x0203 s ∧ (cmdAt 0 s).le 2 1 = 0)
    ∧ (let s := cmdOf 0 0x0204 (payTo 8 [(2, 0)]) (stewOf stewBase 1)
      Served 0 0x0204 s ∧ s.stew.handing = false ∧ s.env.role = 1 ∧ inGroup (cmdAt 0 s) s = true ∧ s.env.standby ≠ 0xFFFF)
    ∧ (let s := cmdOf 0 0x0205 (payTo 8 [(2, 0), (2, 0), (1, 63), (1, 1)]) (stewOf stewBase 1)
      let c := cmdAt 0 s
      Served 0 0x0205 s ∧ c.le 4 1 ≤ 63 ∧ c.le 5 1 ≤ 1 ∧ c.le 6 2 = 0 ∧ s.env.role = 1 ∧ inGroup c s = true ∧ (s.paceSet (c.le 4 1)).members = [])
    ∧ (let s := cmdOf 0 0x0206 (payTo 8 []) (stewOf stewBase 1)
      Served 0 0x0206 s ∧ isSteward s = true ∧ inGroup (cmdAt 0 s) s = true)
    ∧ (let s := cmdOf 0 0x0207 (payTo 8 [(1, 1), (3, 0), (1, 25), (1, 50), (1, 30), (1, 45)]) run
      let c := cmdAt 0 s
      Served 0 0x0207 s ∧ s.pwr.droop = false ∧ c.le 0 1 = 1
      ∧ (∀ k, k < 4 → 25 ≤ c.le (4 + k) 1 ∧ c.le (4 + k) 1 ≤ 50 ∧ c.le (4 + k) 1 % 5 = 0)) := by
  refine ⟨?_, ?_, ?_, ?_, ?_, ?_, ?_, ?_, ?_⟩ <;> (unfold Served; decide +kernel)

theorem witness_power_modes :
    (∀ k < 3, let s := cmdOf 0 0x0208 (payTo 8 [(1, k), (1, 63)]) run
     Served 0 0x0208 s ∧ (cmdAt 0 s).le 0 1 = k ∧ (cmdAt 0 s).le 1 1 ≤ 63)
    ∧ (∀ k < 2, let s := cmdOf 0 0x0209 (payTo 8 [(1, k)]) run
      Served 0 0x0209 s ∧ (cmdAt 0 s).le 0 1 ≤ 1)
    ∧ (let busy (s : State) := (List.range 16).any fun n =>
        ((s.arr n).su.status != .idle && (s.arr n).su.status != .ballast) || ((s.vec n).su.status != .idle && (s.vec n).su.status != .ballast)
      let s := cmdOf 0 0x020A (payTo 8 [(1, 1)]) run
      let t := cmdOf 0 0x020A (payTo 8 [(1, 1)]) (run.modArr 3 fun x => { x with su := unitOf 0 })
      Served 0 0x020A s ∧ (cmdAt 0 s).le 0 1 ≤ 1 ∧ busy s = false ∧ Served 0 0x020A t ∧ busy t = true)
    ∧ (let s := cmdOf 0 0x020B [] run
      Served 0 0x020B s ∧ weighHeld s = false ∧ freeSlot? 0 s ≠ none)
    ∧ (let s := run.modPwr fun p => { p with recal := some { start := 5 } }
      s.pwr.recal = some { start := 5 } ∧ 5 + 200000000 ≤ s.now ∧ ({ start := 5 } : Recal).cmd = none ∧ powered s = true
      ∧ (run.modPwr fun p => { p with recal := some { start := 900000000 } }).now < 900000000 + 200000000) := by
  refine ⟨?_, ?_, ?_, ?_, ?_⟩ <;> (try unfold Served) <;> decide +kernel
theorem witness_claim : let s := memberOf memBase
    fwRoles s = true ∧ accepts (msgFrom 9 0) s = true ∧ s.env.member = true ∧ s.env.role = 0
    ∧ s.env.epoch.toNat < (msgFrom 9 0).epoch.toNat ∧ s.env.asks = [] := by decide +kernel


/-! ## Witnesses: memory commands, resets, firmware, keys -/

/-- Stack 2 isolated and out of service. -/
def isolated (s : State) : State :=
  { s with hbm := { s.hbm with iso := 4, stks := (2, { mode := .offline }) :: s.hbm.stks.filter fun e => e.1 != 2 } }
theorem witness_memory_commands :
    (let s := cmdOf 0 0x0401 (payTo 8 [(4, 0), (3, 4)]) run
     let c := cmdAt 0 s
     Served 0 0x0401 s ∧ c.le 0 1 = 0 ∧ (stacksOf (BitVec.ofNat 24 (c.le 4 3)) 0 false).isEmpty = false
     ∧ (stacksOf (BitVec.ofNat 24 (c.le 4 3)) 1 false).isEmpty = false)
    ∧ (let s := cmdOf 0 0x0401 (payTo 8 [(4, 1), (3, 4)]) run
      Served 0 0x0401 s ∧ (cmdAt 0 s).le 0 1 = 1 ∧ (BitVec.ofNat 24 ((cmdAt 0 s).le 4 3) : BitVec 24) ≠ 0)
    ∧ (let s := cmdOf 0 0x0401 (payTo 8 [(4, 0), (3, 0xFFF)]) run
      Served 0 0x0401 s ∧ (stacksOf (BitVec.ofNat 24 ((cmdAt 0 s).le 4 3)) 0 false).isEmpty = true)
    ∧ (∀ k < 2, let s := cmdOf 0 0x0402 (payTo 8 [(2, 0), (2, 127), (1, k)]) run
      Served 0 0x0402 s ∧ (cmdAt 0 s).le 2 2 = 127 ∧ (cmdAt 0 s).le 4 1 % 2 = k)
    ∧ (let s := cmdOf 0 0x0901 (payTo 16 [(2, 1535), (6, 0), (8, 1000100000)]) (active run)
      let c := cmdAt 0 s
      Served 0 0x0901 s ∧ (freeSlot? 0 s).isSome = true ∧ c.le 0 2 < 1536 ∧ s.now + 100000 ≤ c.le 8 8 ∧ stackHeld (c.le 0 2 / 64) s = false
      ∧ (s.stack (c.le 0 2 / 64)).mode = .active)
    ∧ (let s := cmdOf 0 0x0903 (payTo 8 [(1, 2)]) (isolated (active run))
      let k := (cmdAt 0 s).le 0 1
      Served 0 0x0903 s ∧ k = 2 ∧ stackHeld k s = false ∧ s.hbm.iso.getLsbD k = true ∧ (s.stack k).mode = .offline)
    ∧ (let s := cmdOf 0 0x0903 (payTo 8 [(1, 23)]) (isolated (active run))
      Served 0 0x0903 s ∧ (cmdAt 0 s).le 0 1 < 24 ∧ s.hbm.iso.getLsbD 23 = false ∧ stackHeld 23 s = false)
    ∧ (∀ k, k = 2 ∨ k = 3 → let s := cmdOf 0 0x0902 (payTo 16 [(1, k), (1, 2)]) (isolated (active run))
      Served 0 0x0902 s ∧ (freeSlot? 0 s).isSome = true ∧ (cmdAt 0 s).le 1 1 ≤ 2 ∧ stackHeld k s = false ∧ ((s.stack k).mode = .offline ↔ k = 2))
    ∧ (∀ k, k = 2 ∨ k = 3 → let s := cmdOf 0 0x0904 (payTo 8 [(1, k)]) (isolated (active run))
      Served 0 0x0904 s ∧ (freeSlot? 0 s).isSome = true ∧ stackHeld k s = false ∧ ((s.stack k).mode = .offline ↔ k = 2)) := by
  refine ⟨?_, ?_, ?_, ?_, ?_, ?_, ?_, ?_, ?_⟩
  case refine_8 | refine_9 => rintro k (rfl | rfl) <;> (unfold Served; decide +kernel)
  all_goals (unfold Served; decide +kernel)

theorem witness_cache_lock : ∀ id, id = 0x0410 ∨ id = 0x0411 → let s := cmdOf 0 id (payTo 16 [(8, 128), (8, 256)]) (active run)
    let c := cmdAt 0 s
    Served 0 id s ∧ (freeSlot? 0 s).isSome = true ∧ c.le 0 8 % 128 = 0 ∧ c.le 8 8 % 128 = 0 ∧ c.le 0 8 + c.le 8 8 ≤ poolBytes ∧ physHeld (c.le 0 8) (c.le 8 8) s = false
    ∧ (∀ l ∈ lockLines (c.le 0 8) (c.le 8 8), (s.stack (s.stackOf (128 * l))).mode = .active)
    ∧ (∀ l ∈ lockLines (c.le 0 8) (c.le 8 8), locksAfter s (lockLines (c.le 0 8) (c.le 8 8)) l ≤ 12) := by
  rintro id (rfl | rfl) <;> (unfold Served; decide +kernel)

/-- A range of one line that its Cistern holds. -/
theorem witness_lock_one : let s := cmdOf 0 0x0410 (payTo 16 [(8, 128), (8, 128)]) (lockLine (active run) 1)
    Served 0 0x0410 s ∧ lockLines 128 128 = [1] ∧ (s.findWay (s.cisOf 128) false 1).isSome = true ∧ locksAfter s [1] 1 ≤ 12
    ∧ physHeld 128 128 s = false ∧ (s.stack (s.stackOf 128)).mode = .active := by
  unfold Served; decide +kernel

/-- Page tables in the pool: page 0x4000000 has this leaf. -/
def leafTables (leaf : Nat) (s : State) : State :=
  let put (a v : Nat) (s : State) : State := poolWrite a (leBytes 8 v) .none s
  let s := put 0xC000000 0xC010001 (put 0xC010000 0xC020001 (put 0xC020008 leaf (active s)))
  { s with xlt := { s.xlt with root := 0xC000000, en := true } }

theorem witness_page_commands :
    (let s := cmdOf 0 0x0420 (payTo 16 [(8, 0x4000000), (2, 64)]) (leafTables 0x800004F run)
     let c := cmdAt 0 s
     Served 0 0x0420 s ∧ c.le 0 8 % 32 = 0 ∧ c.le 0 8 < 2 ^ 52 ∧ 64 ≤ c.le 8 2 ∧ c.le 8 2 ≤ 4096
     ∧ pagesOf (c.le 0 8) (32 * c.le 8 2) = [c.le 0 8 / 0x4000000] ∧ (firmwareWalk 0x4000000 (taken s)).1 ≠ none)
    ∧ (let s := cmdOf 0 0x0420 (payTo 16 [(8, 0x4000000), (2, 64)]) (leafTables 0 run)
      Served 0 0x0420 s ∧ (firmwareWalk 0x4000000 (taken s)).1 = none)
    ∧ (let s := cmdOf 0 0x0421 (payTo 16 [(8, 0x4000000), (2, 1)]) (mapped codeNone run)
      let c := cmdAt 0 s
      Served 0 0x0421 s ∧ 1 ≤ c.le 8 2 ∧ c.le 8 2 ≤ 1024 ∧ c.le 10 1 ≤ 1 ∧ (pinnedRead (c.le 0 8) (8 * c.le 8 2) (taken s)).1 = some (List.replicate 8 0)
      ∧ (∀ a ∈ ((List.range (c.le 8 2)).map fun k => leAt (List.replicate 8 0) (8 * k) 8), a % pageBytes false = 0 ∧ a + pageBytes false ≤ poolBytes))
    ∧ (let s := cmdOf 0 0x0421 (payTo 16 [(8, 0x8000000), (2, 1)]) run
      Served 0 0x0421 s ∧ (pinnedRead 0x8000000 8 (taken s)).1 = none)
    ∧ (let s := cmdOf 0 0x0422 (payTo 24 [(8, 0x4000000)]) (leafTables 0 run)
      let f := pastInvals (findLeaf 0x4000000) (taken s)
      Served 0 0x0422 s ∧ f.1 = none ∧ (s.xlt.records.any fun r => r.vpage == 0x4000000) = false
      ∧ (s.xlt.records.filter fun r => r.move.isSome).length < 8)
    ∧ (let s := cmdOf 0 0x0422 (payTo 24 [(8, 0x4000000), (8, 0), (1, 1)]) (leafTables 0x2F run)
      let f := pastInvals (findLeaf 0x4000000) (taken s)
      Served 0 0x0422 s ∧ (freeSlot? 0 s).isSome = true ∧ f.1 = some (0xC020008, 0x2F, false) ∧ (cmdAt 0 s).le 16 1 % 2 = 1
      ∧ leafPin 0x2F = false ∧ leafRes 0x2F = resAbsent ∧ (s.xlt.records.any fun r => r.vpage == 0x4000000) = false
      ∧ (s.xlt.records.filter fun r => r.move.isSome).length < 8)
    ∧ (let s := cmdOf 0 0x0423 (payTo 16 [(8, 0x4000000), (4, 1), (1, 3)]) { active run with keys := [(3, List.replicate 64 1)] }
      let c := cmdAt 0 s
      Served 0 0x0423 s ∧ (freeSlot? 0 s).isSome = true ∧ c.le 0 8 % 0x4000000 = 0 ∧ c.le 0 8 + c.le 8 4 * 0x4000000 ≤ poolBytes ∧ c.le 12 1 ≤ 63
      ∧ physHeld (c.le 0 8) (c.le 8 4 * 0x4000000) s = false ∧ s.coh.cis = [] ∧ (s.keyOf (c.le 12 1)).isSome = true ∧ c.le 13 1 % 2 = 0) := by
  refine ⟨?_, ?_, ?_, ?_, ?_, ?_, ?_⟩ <;> (unfold Served; decide +kernel)

/-! ### Resets and start -/

theorem witness_resets :
    (∀ k, k = 3 ∨ k = 2 → let s := cmdOf 0 0x0704 (payTo 8 [(1, k), (1, 1)]) run
     Served 0 0x0704 s ∧ s.env.member = false ∧ s.boot.resetAt = none ∧ (s.mgr.ops.any fun o => o.id == 0x0702) = false ∧ (cmdAt 0 s).le 0 1 = k)
    ∧ (let s := run.modBoot fun b => { b with resetAt := some (5, true) }
      powered s = true ∧ s.boot.resetAt = some (5, true) ∧ 5 ≤ s.now ∧ ({ s with now := 4 } : State).now < 5)
    ∧ (run.hbm.nextCfg = none ∧ run.boot.everReady = true ∧ State.reset.boot.everReady = false)
    ∧ (run.pins.input = true ∧ run.pins.converters = true ∧ run.pins.resetN = true ∧ writingBack run = false
      ∧ writingBack (run.modBoot fun b => { b with phase := .writeBack 3 }) = true ∧ powered run = true
      ∧ ({ run with pins := { run.pins with resetN := false } } : State).pins.resetN = false)
    ∧ (let s := State.reset
      startingUp s = true ∧ s.boot.trained = false ∧ s.boot.phase = .training ∧ s.mgr.order = [])
    ∧ (let s := run.modBoot fun b => { b with poolReady := false }
      s.boot.trained = true ∧ s.boot.poolFault = false ∧ s.boot.poolReady = false ∧ powered s = true ∧ s.boot.fwStart = none)
    ∧ (run.env.member = false ∧ run.pins.halted = false ∧ run.boot.activ = none ∧ romRuns run = false ∧ run.boot.dog + 250000000 ≤ run.now
      ∧ run.pins.refclk = true ∧ (run.modBoot fun b => { b with dog := 750000001 }).now < 750000001 + 250000000
      ∧ romRuns (run.modBoot fun b => { b with fwReady := false }) = true)
    ∧ (run.boot.bridgeDown = 0 ∧ (run.modBoot fun b => { b with bridgeDown := 2 }).boot.bridgeDown.getLsbD 0 = false
      ∧ (run.modBoot fun b => { b with bridgeDown := 2 }).boot.bridgeDown ≠ 0)
    ∧ (run.sec.level ≠ 2 ∧ (run.modSec fun x => { x with level := 2 }).sec.level = 2)
    ∧ ((run.modBoot fun b => { b with poolReady := true }).boot.poolReady = true) := by
  refine ⟨?_, ?_, ?_, ?_, ?_, ?_, ?_, ?_, ?_, ?_⟩
  case refine_1 => rintro k (rfl | rfl) <;> (unfold Served; decide +kernel)
  all_goals decide +kernel

/-- O50: the shutdown record keeps the cause over the next power-on (21 R438). -/
theorem test_shutdown_record :
    (match exec .powerOnReset (shutDown shutWatchdog run) with
    | .next t => t.boot.lastShut == shutWatchdog && t.boot.record == none && t.now == 0
    | _ => false) = true := by decide +kernel

/-! ### Firmware -/

def imageOne : Image := ⟨[], 1, 3, 0, true, 2, 2, 0, []⟩
def fwState (f : BootState → BootState) : State := run.modBoot fun b => f { b with running := some imageOne }
def opOne (id : Nat) : RunOp := ⟨0, some 0, id, 7, [], none⟩
theorem witness_firmware :
    (let s := cmdOf 0 0x0701 (payTo 16 [(8, 0), (4, 512)]) (portIs portUp run)
     Served 0 0x0701 s ∧ firmwareHeld s = false ∧ (freeSlot? 0 s).isSome = true ∧ (cmdAt 0 s).le 8 4 ≤ imageMax ∧ portCarries s 0 = true)
    ∧ (let s := cmdOf 0 0x0701 (payTo 16 [(8, 0), (4, 0xFFFFFFFF)]) run
      Served 0 0x0701 s ∧ imageMax < (cmdAt 0 s).le 8 4)
    ∧ (∀ id, id = 0x0701 ∨ id = 0x0410 ∨ id = 0x0423 → let s := run.modMgr fun g => { g with ops := [opOne id] }
      opAt 0 (some 0) s = some (opOne id) ∧ powered s = true ∧ mgrServes s = true ∧ (opOne id).id = id)
    ∧ (let s (v : Verdict) := (run.modBoot fun b => { b with verdict := some v }).modMgr fun g => { g with ops := [opOne 0x0701] }
      opAt 0 (some 0) (s (.pass imageOne)) = some (opOne 0x0701) ∧ mgrServes (s (.pass imageOne)) = true
      ∧ (s (.pass imageOne)).boot.fwReady = true ∧ (s (.fail mbxDenied errSvnLow)).boot.stage ≠ stVerify)
    ∧ (let s := fwState fun b => { b with fwStart := some 5 }
      powered s = true ∧ s.boot.fwStart = some 5 ∧ s.boot.running = some imageOne ∧ s.boot.poolReady = true ∧ (imageOne.segs.any fun g => g.kind == 4) = false
      ∧ s.mgr.order = [] ∧ ({ s with now := 5000000005 } : State).now ≥ 5 + 5000000000 ∧ s.now < 5 + 5000000000)
    ∧ (let s := cmdOf 0 0x0702 [] (fwState fun b => { b with staged := some imageOne })
      Served 0 0x0702 s ∧ firmwareHeld s = false ∧ (freeSlot? 0 s).isSome = true ∧ s.boot.running = some imageOne
      ∧ s.boot.staged = some imageOne ∧ imageOne.liveOk = true ∧ imageOne.accept = imageOne.emit ∧ s.sec.svn ≤ imageOne.svn)
    ∧ (let s (st : Bool) := fwState fun b => { b with activ := some ⟨999999999, 0, none, st⟩ }
      powered (s false) = true ∧ powered (s true) = true ∧ (s false).boot.activ = some ⟨999999999, 0, none, false⟩ ∧ (s false).now ≤ 999999999 + 20000000
      ∧ 999999999 + 20000000 ≤ ({ s false with now := 1019999999 } : State).now ∧ (s true).boot.activ = some ⟨999999999, 0, none, true⟩
      ∧ opAt 0 none (s true) = none ∧ (s true).mgr.order = [] ∧ (s true).mgr.ops = [])
    ∧ (∀ id, id = 0x0101 ∨ id = 0x0102 ∨ id = 0x0703 → Served 0 id (cmdOf 0 id [] (fwState fun b => b))) := by
  refine ⟨?_, ?_, ?_, ?_, ?_, ?_, ?_, ?_⟩
  case refine_3 => rintro id (rfl | rfl | rfl) <;> decide +kernel
  case refine_4 | refine_5 | refine_7 => decide +kernel
  case refine_8 => rintro id (rfl | rfl | rfl) <;> (unfold Served; decide +kernel)
  all_goals (unfold Served; decide +kernel)

/-- An image of one segment of one byte: its format is right (19 Tables 19-2, 19-3). -/
def imageBytes : List Byte :=
  let head := imageMagic ++ leBytes 2 1 ++ leBytes 2 1 ++ leBytes 4 partId ++ leBytes 4 1 ++ leBytes 4 512 ++ leBytes 8 3
  let segs := head ++ List.replicate (0x100 - head.length) 0 ++ leBytes 4 0x140 ++ leBytes 4 1 ++ leBytes 4 0 ++ leBytes 4 1
  segs ++ List.replicate (512 - segs.length) 0

/-! ### Keys and authorisations -/

theorem witness_keys :
    (Served 0 0x0802 (cmdOf 0 0x0802 (payTo 32 []) run) ∧ Served 0 0x0803 (cmdOf 0 0x0803 [] run)
      ∧ (∀ i < 3, let s := cmdOf 0 0x0801 (payTo 8 [(4, i)]) run
        Served 0 0x0801 s ∧ (cmdAt 0 s).le 0 1 = i))
    ∧ (let s := cmdOf 0 0x0431 (payTo 8 [(1, 63)]) { run with keys := [(63, [1])] }
      Served 0 0x0431 s ∧ (cmdAt 0 s).le 0 1 = 63 ∧ s.keyOf 63 ≠ none ∧ (s.mgr.ops.any fun o => o.id == 0x0423 && o.le 12 1 == 63) = false)
    ∧ (let s (l : Nat) := cmdOf 0 0x0430 (payTo 80 [(1, 63)]) (run.modSec fun x => { x with level := l, transport := [(0, some ⟨0, []⟩)] })
      (∀ l < 3, Served 0 0x0430 (s l) ∧ (cmdAt 0 (s l)).le 0 1 = 63 ∧ leAt (slice (cmdAt 0 (s l)).pay 8 72) 0 1 ≤ 1
        ∧ (s l).keyOf 63 = none ∧ Sparse.get none (s l).sec.transport 0 = some ⟨0, []⟩))
    ∧ (let s := cmdOf 0 0x0804 (payTo 248 []) run
      Served 0 0x0804 s ∧ authRange 1 2 (cmdAt 0 s).pay = some 0)
    ∧ (let s := cmdOf 0 0x0804 (payTo 248 [(4, 0x41395954), (1, 1), (1, 0), (1, 2)]) run
      Served 0 0x0804 s ∧ authRange 1 2 (cmdAt 0 s).pay = none)
    ∧ (let s := cmdOf 0 0x0805 (payTo 256 [(8, 4)]) run
      Served 0 0x0805 s ∧ 3 < (cmdAt 0 s).le 0 1)
    ∧ (let s := cmdOf 0 0x0805 (payTo 256 [(8, 3), (4, 0x41395954), (1, 2), (1, 1), (1, 3)]) (fwState fun b => b)
      Served 0 0x0805 s ∧ (cmdAt 0 s).le 0 1 = 3 ∧ authRange 2 255 ((cmdAt 0 s).pay.drop 8) = none ∧ leAt ((cmdAt 0 s).pay.drop 8) 6 1 = 3
      ∧ leAt ((cmdAt 0 s).pay.drop 8) 5 1 = 1 ∧ imageOne.slot ≠ 3 ∧ openSlots s ≠ 1)
    ∧ (∀ k, k = 3 ∨ k = 2 → let s := cmdOf 0 0x0806 (payTo 8 [(1, k)]) ((fwState fun b => b).modSec fun x => { x with svn := 3 })
      Served 0 0x0806 s ∧ (cmdAt 0 s).le 0 1 = k ∧ s.sec.level ≠ 2 ∧ (k = 3 → s.sec.svn ≤ k ∧ k ≤ imageOne.svn) ∧ (k = 2 → k < s.sec.svn))
    ∧ ((run.modSec fun x => { x with level := 1, notAfter := 5, challenge := some ([], 5) }).sec.notAfter ≠ 0 ∧ powered run = true
      ∧ (run.modSec fun x => { x with level := 1 }).sec.level ≠ 0 ∧ run.mgr.order = [] ∧ 5 ≤ run.now
      ∧ 5 + 60000000000 ≤ ({ run with now := 60000000005 } : State).now ∧ run.now < 5 + 60000000000) := by
  refine ⟨?_, ?_, ?_, ?_, ?_, ?_, ?_, ?_, ?_⟩
  case refine_8 => rintro id (rfl | rfl) <;> (unfold Served; decide +kernel)
  case refine_9 => decide +kernel
  all_goals (unfold Served; decide +kernel)

/-- O51, O52: the signature and digests are opaque; where they hold for these bytes, every condition does. -/
theorem witness_image (hr : Config.sha384 (slice imageBytes 0x40 96) = Config.rootDigest 0)
    (hv : Config.ecdsaVerify (slice imageBytes 0x40 96) (imageOf imageBytes).digest (imageBytes.drop 416) = true) :
    formatOk imageBytes 512 = true ∧ rootKnown (leAt imageBytes 0x30 1) (slice imageBytes 0x40 96) run = true
    ∧ Config.ecdsaVerify (slice imageBytes 0x40 96) (imageOf imageBytes).digest (imageBytes.drop (imageBytes.length - 96)) = true
    ∧ run.sec.svn ≤ leAt imageBytes 0x18 8 ∧ rootKnown 3 [] (run.modSec fun x => { x with revoked := 8 }) = false := by
  have h0 : leAt imageBytes 0x30 1 = 0 := by decide +kernel
  have hl : imageBytes.length - 96 = 416 := by decide +kernel
  refine ⟨by decide +kernel, ?_, by rw [hl]; exact hv, by decide +kernel, by simp [rootKnown, run, State.modSec]⟩
  rw [h0]
  have hrev : run.sec.revoked.getLsbD 0 = false := by decide +kernel
  simp only [rootKnown, show (0 : Nat) < 4 from by omega, dite_true, hrev]
  simpa using hr
/-- O51: the signed version below the fuses' is refused. -/
theorem witness_image_svn : leAt imageBytes 0x18 8 < (run.modSec fun x => { x with svn := 4 }).sec.svn := by decide +kernel

/-- O52: an authorisation that passes, where the opaque primitives accept it. -/
theorem witness_authorised (a : List Byte) (s : State) (hr : rootKnown (leAt a 5 1) (slice a 56 96) s = true)
    (hv : Config.ecdsaVerify (slice a 56 96) (Config.sha384 (a.take 152)) (slice a 152 96) = true)
    (hs : leAt a 8 8 = Config.fuseSerial.toNat) (hc : s.sec.challenge.map Prod.fst = some (slice a 16 32)) (hn : leAt a 48 8 = 0) :
    authChecks a s = (none, true) := by
  simp [authChecks, hr, hv, hs, hc, hn]


/-! ## Witnesses: registers, mailboxes, events -/

theorem witness_registers : pathOpen (.port 0) (portIs portUp run) = true ∧ pathOpen (.core 3) run = true
    ∧ ¬ ((32 = 32 ∧ (6 : BitVec 24).toNat % 4 = 0) ∨ (32 = 64 ∧ (6 : BitVec 24).toNat % 8 = 0))
    ∧ ((64 = 64 ∧ (0x200000 : BitVec 24).toNat % 8 = 0) ∧ (regRead 0x200000 run).isSome = true)
    ∧ powered run = true ∧ powered (shutDown shutWatchdog run) = false ∧ run.sec.level = 0 ∧ (run.modSec fun x => { x with level := 1 }).sec.level ≠ 0
    ∧ accessRegion 0 8 = .pool ∧ accessRegion poolBytes 8 = .hole ∧ accessRegion storeBase 8 = .store ∧ accessRegion registerBase 8 = .registers
    ∧ ((slotRead (run.arr (storePlace storeBase).1) (storePlace storeBase).2 8).any Prod.snd) = false
    ∧ (blockRead1 0 0 0 run).isSome = true ∧ blockRead1 0 0 0xFF8 run = none ∧ (8 : BitVec 12).toNat % 8 = 0 ∧ (4 : BitVec 12).toNat % 4 = 0
    ∧ ¬ ((32 = 32 ∧ (6 : BitVec 12).toNat % 4 = 0) ∨ (32 = 64 ∧ (6 : BitVec 12).toNat % 8 = 0))
    ∧ powered (run.modSec fun x => { x with level := 1 }) = true
    ∧ (0x508000 : BitVec 24).toNat = 0x508000 + 8 * 0 ∧ (0x5088F8 : BitVec 24).toNat = 0x508000 + 8 * 287 := by
  decide +kernel

theorem witness_block_commands :
    (let s := cmdOf 0 0x0601 (payTo 8 [(1, 0), (1, 0), (2, 0), (2, 508)]) run
     let c := cmdAt 0 s
     Served 0 0x0601 s ∧ hasBlock (c.le 0 1) 0 = true ∧ hasBlock (c.le 0 1) (c.le 1 1) = true ∧ c.le 2 2 % 8 = 0 ∧ c.le 2 2 + 8 * c.le 4 2 ≤ 0x1000
     ∧ 1 ≤ c.le 4 2 ∧ c.le 4 2 ≤ 508)
    ∧ (let s := cmdOf 0 0x0602 (payTo 16 [(1, 0), (1, 0), (2, 0xFF8), (2, 1)]) run
      let c := cmdAt 0 s
      Served 0 0x0602 s ∧ hasBlock (c.le 0 1) 0 = true ∧ hasBlock (c.le 0 1) (c.le 1 1) = true ∧ c.le 2 2 % 8 = 0
      ∧ c.le 2 2 + 8 * c.le 4 2 ≤ 0x1000 ∧ c.le 4 2 = 1) := by
  unfold Served; decide +kernel

/-- A fabric exchange of mailbox 0 with node 9, its inner tag 4, and a response of node 9 to it. -/
def waitOne : FabricWait := ⟨0, 7, 9, 4, 999⟩
def waiting : State := run.modMgr fun g => { g with fabric := [waitOne] }
theorem witness_mailboxes :
    powered run = true ∧ powered (early run) = true ∧ powered waiting = true ∧ (1 : W64).getLsbD 0 = true ∧ (0 : W64).getLsbD 0 = false ∧ (run.mbx 0).busy = false ∧ mgrServes run = true ∧ run.mgr.order = []
    ∧ mbxCheck (cmdAt 0 run) (run.modMbx 0 fun x => { x with busy := true, done := false }) = some (mbxBadCommand, 0)
    ∧ ((cmdOf 0 0x0101 [] run).mbx 0).busy = true ∧ (0 : MbxId) ≠ 2 ∧ mgrServes (early run) = false
    ∧ (run.mbx 2).busy = false ∧ (early run).mgr.order = [] ∧ (((run.modMbx 2 fun x => { x with busy := true }).mbx 2).busy = true)
    ∧ waiting.mgr.fabric = [waitOne] ∧ waitOne.node = 9 ∧ waitOne.inner.toNat = leAt (leBytes 8 (4 * 2 ^ 32 + mbxOk.toNat)) 4 4
    ∧ BitVec.ofNat 16 (leAt (leBytes 8 (4 * 2 ^ 32 + mbxOk.toNat)) 0 2) = mbxOk ∧ waitOne.until_ ≤ waiting.now ∧ waiting.mgr.order = []
    ∧ (∀ w ∈ waiting.mgr.fabric, w.node ≠ 8) ∧ (∀ w ∈ waiting.mgr.fabric, ({ waiting with now := 998 } : State).now < w.until_) := by
  decide +kernel
theorem witness_fabric_mailbox : ∀ un : Bool,
    let s := cmdOf 0 0x0520 (payTo 24 [(2, 9)]) { run with net := { run.net with routes := [(9, { valid := true, unreach := un })] } }
    let c := cmdAt 0 s
    Served 0 0x0520 s ∧ c.pay.length ≤ 1032 ∧ (s.route (BitVec.ofNat 16 (c.le 0 2) : NodeId).toNat).unreach = un := by
  intro un; cases un <;> (unfold Served; decide +kernel)

/-- O55: a command with an ID outside the catalogue is answered at once. -/
theorem test_bad_command :
    (match exec (.mbxDoorbellGo 0 1) run with
    | .next t => (t.mbx 0).rsp == some (responseBytes 0 mbxBadCommand 0 []) && !(t.mbx 0).busy
    | _ => false) = true := by decide +kernel

def edgeOne : Edge := ⟨5, srcCnt, 1, 0⟩
theorem witness_events :
    (let s := cmdOf 0 0x0603 (payTo 8 [(2, 0x0101), (1, 2), (1, 1), (1, 127)]) run
     let c := cmdAt 0 s
     Served 0 0x0603 s ∧ validSource (c.le 0 2) = true ∧ c.le 2 1 = 2 ∧ c.le 3 1 ≤ 1 ∧ c.le 4 1 ≤ 127)
    ∧ (let s := cmdOf 0 0x0603 (payTo 8 [(2, 0x01FF)]) run
      Served 0 0x0603 s ∧ validSource ((cmdAt 0 s).le 0 2) = true ∧ (cmdAt 0 s).le 0 2 % 256 = 255)
    ∧ (let s := cmdOf 0 0x0603 (payTo 8 [(2, 0xFE00)]) run
      Served 0 0x0603 s ∧ validSource ((cmdAt 0 s).le 0 2) = false)
    ∧ (let s := cmdOf 0 0x0604 (payTo 8 [(2, 0), (2, 127)]) run
      Served 0 0x0604 s ∧ (cmdAt 0 s).le 2 2 = 127)
    ∧ (let s := cmdOf 0 0x0605 (payTo 40 [(1, 15), (1, 0), (6, 0), (8, 0), (8, 0), (8, 0), (2, 0), (2, 1)]) run
      Served 0 0x0605 s ∧ (cmdAt 0 s).le 0 1 = 15 ∧ (cmdAt 0 s).le 1 1 = 0)
    ∧ (let s := cmdOf 0 0x0605 (payTo 40 [(1, 15), (1, 1), (6, 0), (8, 0), (4, 10), (4, 0), (8, 0x4000000), (2, 64), (2, 1), (4, 0x200000)]) run
      let c := cmdAt 0 s
      Served 0 0x0605 s ∧ c.le 0 1 ≤ 15 ∧ c.le 1 1 = 1 ∧ c.le 16 4 = 10 ∧ 1 ≤ c.le 32 2 ∧ c.le 34 2 = 1 ∧ telBadReg c = none)
    ∧ (run.edges = [] ∧ firstEdge [edgeOne] = some edgeOne ∧ fwRuns run = true ∧ powered run = true ∧ edgeBefore edgeOne edgeOne = false
      ∧ run.mgr.log.length < 1024 ∧ 1024 ≤ (List.replicate 1024 (recordOf edgeOne run)).length)
    ∧ (let s (p : Nat × Nat) : State := { (run.modMgr fun g => { g with windows := [(0, { on := true, start := 5, periodUs := 10, entries := 64 })] }) with
        boot := { run.boot with lastPause := p } }
      let w := Sparse.get {} (s (0, 0)).mgr.windows 0
      w.on = true ∧ w.due ≤ (s (0, 0)).now ∧ (s (0, 0)).boot.lastPause.2 ≤ w.due ∧ (s (0, 999999999)).boot.lastPause.1 ≤ w.due
      ∧ w.due < (s (0, 999999999)).boot.lastPause.2 ∧ (Sparse.get {} run.mgr.windows 1).on = false) := by
  refine ⟨?_, ?_, ?_, ?_, ?_, ?_, ?_, ?_⟩
  case refine_7 | refine_8 => decide +kernel
  all_goals (unfold Served; decide +kernel)

theorem witness_whole : State.reset.pending = [] ∧ SecInv State.reset ∧ MemWf State.reset = true
    ∧ (Mem.writeN [] 36 [1, 2, 3, 4]).read 40 = 0 := by
  unfold SecInv; decide +kernel

/-- From reset with nothing waiting, the one step that runs answers a next state, and it is O59's premise. -/
theorem witness_step : ∃ t, step { State.reset with pending := [.refclkLoss] } = .next t ∧ t.pins.refclk = false := ⟨_, rfl, rfl⟩

/-! ## Well-formedness: a command that each check refuses -/

theorem refused_core : (Instr.coreLoad 0 0 3 .scalar).wf = false ∧ (Instr.coreLoad 0 0 0 .vector).wf = false
    ∧ (Instr.coreLoad 0 4 8 .reserved).wf = false ∧ (Instr.coreStore 0 0 [1, 2, 3] .scalar).wf = false
    ∧ (Instr.coreStore 0 0 [] .vector).wf = false ∧ (Instr.coreStore 0 2 [1, 2, 3, 4] .conditional).wf = false
    ∧ (Instr.coreStore 0 0 [1, 2] (.amo .add)).wf = false ∧ (Instr.coreLoad 0 8 8 .reserved).wf = true := by decide
theorem refused_engine : (Instr.homeEngineRead 0x46 0 32 false false 0).wf = false ∧ (Instr.homeEngineRead 0x20 0 0 false false 0).wf = false
    ∧ (Instr.homeEngineWrite 0x46 0 [1] false false).wf = false ∧ (Instr.homeEngineWrite 0x20 0 [] false false).wf = false := by decide
theorem refused_stack : (Instr.sectorRead 0 25165824 []).wf = false ∧ (Instr.sectorRead 0 0 [(3, 1), (3, 2)]).wf = false
    ∧ (Instr.correctedWriteBack 0 25165824).wf = false ∧ (Instr.patrolScrub 0 [(3, 1), (3, 2)]).wf = false := by decide
theorem refused_link : (Instr.flitReceive 0 [] [(0, 0)]).wf = false ∧ (Instr.flitReceive 0 (List.replicate 128 0) []).wf = false
    ∧ (Instr.flitReceive 0 (List.replicate 128 0) [(0, 0), (2, 0)]).wf = false ∧ (Instr.flitReceive 0 (List.replicate 128 0) [(0, 0), (1, 0)]).wf = true ∧ (Instr.linkDown 0 0).wf = false ∧ (Instr.linkDown 0 5).wf = false := by decide +kernel
theorem refused_port : (Instr.windowRead 0 0 0).wf = false ∧ (Instr.windowRead 0 0xFFFFFFFF 2).wf = false ∧ (Instr.windowWrite 0 0 [] false).wf = false
    ∧ (Instr.windowWrite 0 0xFFFFFFFF [1, 2] false).wf = false ∧ (Instr.portLinkUp 0 3 4 0).wf = false ∧ (Instr.portLinkUp 0 4 0 0).wf = false
    ∧ (Instr.portLinkUp 0 4 5 0).wf = false := by decide
theorem refused_power : (Instr.weighHouseEstimate ⟨0, 0, [(3, 0, 0), (3, 1, 1)]⟩).wf = false ∧ (Instr.thermalSensorRead ⟨[], [], [], []⟩).wf = false
    ∧ (Instr.marginEvaluation [1, 2, 3]).wf = false := by decide
theorem refused_mailbox : (Instr.mailbox2Command 0 []).wf = false ∧ (Instr.fabricMailboxResponse 0 []).wf = false
    ∧ (Instr.mailbox2Command 0 (List.replicate 16 0)).wf = true ∧ (Instr.mailbox2Command 0 (List.replicate 1025 0)).wf = false := by decide +kernel

/-- The table gives no row bits, so no word spells a command. -/
theorem test_no_word_decodes : decodeTableWord 32 0xFFFFFFFF = none := rfl

/-! ## The spec's worked examples -/

/-- 03 Table 3-6: three products and the accumulator value 1.0 give 0x3F800000 with NX. -/
theorem test_f19_column : stepF19 [0x24C00, 0x64C00, 0x5C200] [0x24C00, 0x24C00, 0x1C000] (some 0x3F800000) = (0x3F800000, [aryNX]) := by
  decide +kernel
/-- 03 R67: a total above the range saturates once, and the next step goes on from what was written. -/
theorem test_int_column : stepInt [100] [100] (some 2147480000) = (2147483647, [arySAT])
    ∧ stepInt [-200] [100] (some 2147483647) = (2147463647, []) := by decide +kernel
/-- 04, "encoding one block of 256 sequences": the fields of its bundle word. -/
theorem test_bundle_word : let b := Bundle.ofWord 0x3C000330100C0030001FE00000000000
    b.mode = .f19 ∧ b.stepEn = true ∧ b.acc = true ∧ b.buf = true ∧ b.preEn = true ∧ b.preBuf = false ∧ b.last = false ∧ b.accRow = 0
    ∧ b.aAddr = 0x66020 ∧ b.aStride = 96 ∧ b.preAddr = 0x1800 ∧ b.rep = 255 ∧ b.illegal 0 false = false := by decide +kernel

end Sys2Proof.Tests
end

section
/-! Proofs about the register space (spec 00 R5, log 14): the bits of a register that an access covers, what an
access error leaves behind, the words of the streaming marks, and O53. -/

namespace Sys2Proof.Machine

/-! ## The bits an access covers -/

theorem properAccess_iff (off width : Nat) :
    properAccess off width = true ↔ (width = 32 ∧ off % 4 = 0) ∨ (width = 64 ∧ off % 8 = 0) := by
  simp [properAccess]

/-- A proper access lies within one 64-bit register. -/
theorem lane_fits {off width : Nat} (h : properAccess off width = true) : width + 8 * (off % 8) ≤ 64 := by
  rw [properAccess_iff] at h
  omega

theorem laneOfAccess_of_proper {off width : Nat} (h : properAccess off width = true) :
    laneOfAccess off width = (8 * (off % 8), w64 ((2 ^ width - 1) * 2 ^ (8 * (off % 8)))) := by
  obtain ⟨rfl, _⟩ | ⟨rfl, h8⟩ := (properAccess_iff off width).mp h
  · rfl
  · simp only [laneOfAccess, h8]
    rfl

/-- A number cut to a width that a register has is that register's value. -/
theorem toNat_w64_mod (n : Nat) {width : Nat} (h : width ≤ 64) : (w64 (n % 2 ^ width)).toNat = n % 2 ^ width := by
  rw [w64, BitVec.toNat_ofNat]
  exact Nat.mod_eq_of_lt ((Nat.mod_lt _ (Nat.two_pow_pos _)).trans_le (Nat.pow_le_pow_right two_pos h))

/-- The bits of a word under a mask of `width` ones at `sh`, moved down. -/
theorem and_lane_toNat (x : W64) {width sh : Nat} (h : width + sh ≤ 64) :
    (x &&& w64 ((2 ^ width - 1) * 2 ^ sh)).toNat / 2 ^ sh = x.toNat / 2 ^ sh % 2 ^ width := by
  have hmask : (2 ^ width - 1) * 2 ^ sh < 2 ^ 64 :=
    calc (2 ^ width - 1) * 2 ^ sh < 2 ^ width * 2 ^ sh :=
          Nat.mul_lt_mul_of_pos_right (Nat.sub_lt (Nat.two_pow_pos _) one_pos) (Nat.two_pow_pos _)
      _ = 2 ^ (width + sh) := (Nat.pow_add 2 width sh).symm
      _ ≤ 2 ^ 64 := Nat.pow_le_pow_right two_pos h
  rw [BitVec.toNat_and, w64, BitVec.toNat_ofNat, Nat.mod_eq_of_lt hmask, ← Nat.shiftLeft_eq,
    ← Nat.shiftRight_eq_div_pow, ← Nat.shiftRight_eq_div_pow, Nat.shiftRight_and_distrib, Nat.shiftLeft_shiftRight,
    Nat.and_two_pow_sub_one_eq_mod]

/-- A value moved up and cut by the mask is its `width` low bits, moved up. -/
theorem shifted_and_lane (v width sh : Nat) :
    w64 (v * 2 ^ sh) &&& w64 ((2 ^ width - 1) * 2 ^ sh) = w64 (v % 2 ^ width * 2 ^ sh) := by
  simp only [w64, ← BitVec.ofNat_and, ← Nat.shiftLeft_eq, ← Nat.shiftLeft_and_distrib, Nat.and_two_pow_sub_one_eq_mod]

theorem merge_getLsbD (old m v : W64) (i : Nat) :
    (merge old m v).getLsbD i = if m.getLsbD i then v.getLsbD i else old.getLsbD i := by
  by_cases hi : i < 64
  · cases hm : m.getLsbD i <;> simp_all [merge]
  · simp [BitVec.getLsbD_of_ge _ i (not_lt.mp hi)]

/-- Merging the `width` low bits of a value leaves the bits above them. -/
theorem merge_low_toNat (old : W64) (v : Nat) {width : Nat} (h : width ≤ 64) :
    (merge old (w64 (2 ^ width - 1)) (w64 (v % 2 ^ width))).toNat = old.toNat / 2 ^ width * 2 ^ width + v % 2 ^ width := by
  apply Nat.eq_of_testBit_eq
  intro i
  have hmask : (w64 (2 ^ width - 1)).getLsbD i = decide (i < width) := by
    rw [w64, BitVec.getLsbD_ofNat, Nat.testBit_two_pow_sub_one, Bool.eq_iff_iff]
    simp only [Bool.and_eq_true, decide_eq_true_eq]
    omega
  rw [Nat.mul_comm, Nat.testBit_two_pow_mul_add _ (Nat.mod_lt _ (Nat.two_pow_pos _)), BitVec.testBit_toNat,
    merge_getLsbD, hmask]
  by_cases hi : i < width
  · simp only [hi, decide_true, if_true, w64, BitVec.getLsbD_ofNat, show i < 64 by omega, Bool.true_and]
  · simp only [hi, decide_false, Bool.false_eq_true, if_false, Nat.testBit_div_two_pow, Nat.sub_add_cancel (not_lt.mp hi),
      BitVec.testBit_toNat]

/-! ## Accesses of the register space -/

theorem exec_registerRead {p : Path} {s : State} (h : pathOpen p s = true) (off : BitVec 24) (width : Nat) :
    exec (.registerRead p off width) s
      = .next (replyRead p (width / 8) (spaceRead p off.toNat width s).1 (spaceRead p off.toNat width s).2) := by
  change execRegisterRead p off width s = _
  rw [execRegisterRead, if_pos h]

theorem exec_registerWrite {p : Path} {s : State} (h : pathOpen p s = true) (off : BitVec 24) (width : Nat) (v : W64) :
    exec (.registerWrite p off width v) s = .next (spaceWrite p off.toNat width v s) := by
  change execRegisterWrite p off width v s = _
  rw [execRegisterWrite, if_pos h]

theorem spaceRead_of_improper {off width : Nat} (h : properAccess off width = false) (p : Path) (s : State) :
    spaceRead p off width s = (0, accessError p false 1 off s) := by
  simp [spaceRead, h]

theorem spaceWrite_of_improper {off width : Nat} (h : properAccess off width = false) (p : Path) (v : W64) (s : State) :
    spaceWrite p off width v s = accessError p true 1 off s := by
  simp [spaceWrite, h]

/-- A proper read of a register yields its lane of what the path reads there. -/
theorem spaceRead_of_proper {p : Path} {off width : Nat} {s t : State} {x : W64} (h : properAccess off width = true)
    (hr : pathRead p (off / 8 * 8) s = some (x, t)) :
    spaceRead p off width s = (w64 (x.toNat / 2 ^ (8 * (off % 8)) % 2 ^ width), t) := by
  simp only [spaceRead, h, hr, laneOfAccess_of_proper h, and_lane_toNat x (lane_fits h), Bool.not_true, Bool.false_eq_true,
    if_false]

/-- A proper write of a register hands it the value's lane, under the lane's mask. -/
theorem spaceWrite_of_proper {off width : Nat} {s t : State} {x : W64} (h : properAccess off width = true)
    (hr : regRead (off / 8 * 8) s = some (x, t)) (p : Path) (v : W64) :
    spaceWrite p off width v s = regWrite (off / 8 * 8) (w64 ((2 ^ width - 1) * 2 ^ (8 * (off % 8))))
      (w64 (v.toNat % 2 ^ width * 2 ^ (8 * (off % 8)))) s := by
  simp only [spaceWrite, h, hr, laneOfAccess_of_proper h, shifted_and_lane, Bool.not_true, Bool.false_eq_true, if_false]

/-! ## Access errors (21 R437) -/

/-- Whatever it notes, an access error counts one and raises bit 0 of CNT's events. -/
theorem accessError_eq (p : Path) (write : Bool) (cause off : Nat) (s : State) :
    ∃ note, accessError p write cause off s = raiseEv srcCnt 0 (count accessErrCount 1 { s with accInfo := note }) := by
  unfold accessError
  split
  · exact ⟨s.accInfo, rfl⟩
  · exact ⟨_, rfl⟩

/-- An access error counts one and changes, beyond that, the event registers and the note alone. -/
theorem accessError_counts (p : Path) (write : Bool) (cause off : Nat) (s : State) :
    Counts accessErrCount 1 s { accessError p write cause off s with accInfo := s.accInfo } := by
  obtain ⟨note, h⟩ := accessError_eq p write cause off s
  have hctr : ∀ k, (accessError p write cause off s).ctr k = (count accessErrCount 1 { s with accInfo := note }).ctr k :=
    fun k => by simp only [h, raiseEv_fields]
  obtain ⟨hkey, hothers, _⟩ := count_counts accessErrCount 1 { s with accInfo := note }
  refine ⟨(hctr _).trans hkey, fun k hk => (hctr k).trans (hothers k hk), ?_⟩
  rw [h]
  apply State.ext_fields <;> simp

theorem accessError_raises (p : Path) (write : Bool) (cause off : Nat) (s : State) :
    bitOf ((accessError p write cause off s).evBits srcCnt) 0 = true := by
  rw [accessError, raiseEv_bit _ _ _ _ _ (by decide)]
  simp

/-! ## Answers -/

/-- A read answered to a core touches that core's loaded bytes and no other core. -/
theorem replyRead_core (c : CoreId) (bytes : Nat) (x : W64) (s : State) :
    ((replyRead (.core c) bytes x s).core c.val).loaded = leBytes bytes x.toNat
      ∧ (∀ k, k ≠ c.val → (replyRead (.core c) bytes x s).core k = s.core k)
      ∧ { replyRead (.core c) bytes x s with cores := s.cores } = s := by
  refine ⟨?_, fun k hk => ?_, ?_⟩
  · simp only [replyRead, State.core_modCore_self]
  · simp only [replyRead, State.core_modCore_other _ _ _ _ hk]
  · rfl

/-! ## The words of the streaming marks (09 Table 9-8) -/

theorem regRead_xlt {a : Nat} (h : 0x500000 ≤ a ∧ a < 0x510000) (s : State) :
    regRead a s = (xltRead (a % 0x10000) s).map fun w => (w, s) := by
  have hblock : a / 0x10000 = 0x50 := by omega
  unfold regRead
  dsimp only
  rw [if_neg (by omega), if_neg (by omega), if_neg (by omega), if_neg (by omega), hblock]
  rfl

theorem regWrite_xlt {a : Nat} (h : 0x500000 ≤ a ∧ a < 0x510000) (m v : W64) (s : State) :
    regWrite a m v s = xltWrite (a % 0x10000) m v s := by
  have hblock : a / 0x10000 = 0x50 := by omega
  unfold regWrite
  rw [if_neg (by omega), if_neg (by omega), if_neg (by omega), if_neg (by omega), hblock]
  rfl

theorem regRead_streamMark {k : Nat} (h : k < 288) (s : State) :
    regRead (0x508000 + 8 * k) s = some (Sparse.get 0 s.xlt.streamBits k, s) := by
  rw [regRead_xlt (by omega), show (0x508000 + 8 * k) % 0x10000 = 0x8000 + 8 * k by omega]
  unfold xltRead
  rw [if_neg (by omega), if_pos (by omega), show (0x8000 + 8 * k - 0x8000) / 8 = k by omega, Option.map_some]

theorem regWrite_streamMark {k : Nat} (h : k < 288) (m v : W64) (s : State) :
    regWrite (0x508000 + 8 * k) m v s = { s with xlt := { s.xlt with
      streamBits := Sparse.set 0 s.xlt.streamBits k (merge (Sparse.get 0 s.xlt.streamBits k) m v) } } := by
  rw [regWrite_xlt (by omega), show (0x508000 + 8 * k) % 0x10000 = 0x8000 + 8 * k by omega]
  unfold xltWrite
  rw [if_pos (by omega), show (0x8000 + 8 * k - 0x8000) / 8 = k by omega]

/-- A write of the low `width` bits at a word of the marks, and of nothing else. -/
theorem exec_registerWrite_streamMark {p : Path} {s : State} (hp : pathOpen p s = true) {off : BitVec 24} {k width : Nat}
    (hk : k < 288) (hoff : off.toNat = 0x508000 + 8 * k) (hw : width = 32 ∨ width = 64) (v : W64) :
    Yields (.registerWrite p off width v) s fun t =>
      (Sparse.get 0 t.xlt.streamBits k).toNat
          = (Sparse.get 0 s.xlt.streamBits k).toNat / 2 ^ width * 2 ^ width + v.toNat % 2 ^ width
        ∧ (∀ j, j ≠ k → Sparse.get 0 t.xlt.streamBits j = Sparse.get 0 s.xlt.streamBits j) ∧ { t with xlt := s.xlt } = s := by
  have hproper : properAccess off.toNat width = true := by rw [properAccess_iff]; omega
  have halign : off.toNat / 8 * 8 = 0x508000 + 8 * k := by omega
  have hlane : 8 * (off.toNat % 8) = 0 := by omega
  have hread := halign ▸ regRead_streamMark hk s
  refine ⟨_, exec_registerWrite hp off width v, ?_⟩
  rw [spaceWrite_of_proper hproper hread, hlane, halign, regWrite_streamMark hk, pow_zero, Nat.mul_one, Nat.mul_one]
  refine ⟨?_, fun j hj => ?_, rfl⟩
  · simp only [Sparse.get_set_self]
    exact merge_low_toNat _ _ (by omega)
  · simp only [Sparse.get_set_other _ _ _ _ _ hj]

/-! ## O53 -/

/-- Settles O53: an improper access is an access error of cause 1 and nothing more; a proper one reads, or hands to
the register, its lane (00 R5), and a half written at a word of the streaming marks is merged into it (log 14). -/
theorem improperAccessesHaveNoEffect : Obligations.ImproperAccessesHaveNoEffect := by
  unfold Obligations.ImproperAccessesHaveNoEffect
  intro p off w v s hp
  rw [← properAccess_iff, Bool.not_eq_true]
  refine ⟨fun himproper => ⟨?_, ?_⟩, fun hproper => ⟨fun x t hr => ?_, fun x t hr => ?_⟩, fun k hk hoff => ⟨?_, ?_⟩⟩
  · refine ⟨accessError p false 1 off.toNat s, ?_, accessError_counts .., accessError_raises ..⟩
    rw [exec_registerRead hp, spaceRead_of_improper himproper]
  · refine ⟨_, exec_registerWrite hp off w v, ?_⟩
    rw [spaceWrite_of_improper himproper]
    exact ⟨accessError_counts .., accessError_raises ..⟩
  · have hread := (exec_registerRead hp off w).trans (by rw [spaceRead_of_proper hproper hr])
    have hlane := toNat_w64_mod (x.toNat / 2 ^ (8 * (off.toNat % 8))) (width := w)
      (by have := lane_fits hproper; omega)
    refine ⟨hread, _, hread, ?_⟩
    cases p with
    | port q => simp only [replyRead, emit, hlane]
    | core c =>
      obtain ⟨hloaded, hothers, hframe⟩ := replyRead_core c (w / 8) _ t
      exact ⟨hloaded.trans (by rw [hlane]), hothers, hframe⟩
    | debug => simp only [replyRead, emit, hlane]
  · rw [exec_registerWrite hp, spaceWrite_of_proper hproper hr]
  · rintro rfl
    obtain ⟨t, ht, hword, hothers⟩ := exec_registerWrite_streamMark hp hk hoff (.inr rfl) v
    refine ⟨t, ht, BitVec.eq_of_toNat_eq ?_, hothers⟩
    have hold := (Sparse.get 0 s.xlt.streamBits k).isLt
    have hv := v.isLt
    omega
  · rintro rfl
    exact exec_registerWrite_streamMark hp hk hoff (.inl rfl) v

end Sys2Proof.Machine
end

section
/-! Proofs about an attach-host port (spec 15, 19 R393): the host-line caches, attach-host memory as last seen, failed
reads, pending messages and configuration requests, and O39. -/

namespace Sys2Proof.Machine

/-! ## Commands of a package with power and clock -/

theorem clocked_of_powered {s : State} (h : powered s = true) (f : State → State) : clocked f s = f s := if_pos h

/-- A map after the same value is written at every key of a list. -/
theorem Sparse.get_foldl_set {α : Type} [DecidableEq α] (d v : α) (l : List Nat) (k : Nat) : ∀ m : Sparse α,
    Sparse.get d (l.foldl (fun m j => Sparse.set d m j v) m) k = if k ∈ l then v else Sparse.get d m k := by
  induction l with
  | nil => intro m; simp
  | cons j l ih =>
    intro m
    rw [List.foldl_cons, ih, Sparse.get_set]
    by_cases hl : k ∈ l <;> by_cases hj : k = j <;> simp [hl, hj]

/-! ## Attach-host memory (R328, R329) -/

theorem hostSeen_frame (a : Nat) (data : List Byte) (s : State) :
    (hostSeen a data s).host.mem = s.host.mem.writeN a data ∧ { hostSeen a data s with host := s.host } = s := ⟨rfl, rfl⟩

theorem host_frame_trans {s t u : State} (hst : { t with host := s.host } = s) (htu : { u with host := t.host } = t) :
    { u with host := s.host } = s :=
  calc { u with host := s.host } = { { u with host := t.host } with host := s.host } := rfl
    _ = { t with host := s.host } := by rw [htu]
    _ = s := hst

/-- Filling a port's host-line cache changes neither what memory is seen to hold nor anything outside the ports. -/
theorem foldl_fillHostLine_frame (p : Nat) (bytes : Nat → List Byte) (lines : List Nat) : ∀ s : State,
    (lines.foldl (fun s l => s.modPort p (fillHostLine l (bytes l))) s).host.mem = s.host.mem
      ∧ { lines.foldl (fun s l => s.modPort p (fillHostLine l (bytes l))) s with host := s.host } = s := by
  induction lines with
  | nil => exact fun _ => ⟨rfl, rfl⟩
  | cons l lines ih =>
    intro s
    obtain ⟨hmem, hframe⟩ := ih (s.modPort p (fillHostLine l (bytes l)))
    exact ⟨hmem, host_frame_trans (t := s.modPort p (fillHostLine l (bytes l))) rfl hframe⟩

theorem fillHostLines_frame (p a : Nat) (data : List Byte) (s : State) :
    (fillHostLines p a data s).host.mem = s.host.mem ∧ { fillHostLines p a data s with host := s.host } = s :=
  foldl_fillHostLine_frame p _ _ s

theorem poisonHost_get (a n k : Nat) (s : State) : Sparse.get false (poisonHost a n s).host.poison k
    = (decide (k ∈ sectorsOf a n) || Sparse.get false s.host.poison k) := by
  rw [poisonHost, Sparse.get_foldl_set]
  by_cases h : k ∈ sectorsOf a n <;> simp [h]

/-- A read of `n` bytes at `a` has failed: its sectors are poisoned from now on, `key` counts one more, bit `ev` of WIN's
events is set, and nothing else differs. -/
def ReadFailed (a n key ev : Nat) (s t : State) : Prop :=
  (∀ k, Sparse.get false t.host.poison k = (decide (k ∈ sectorsOf a n) || Sparse.get false s.host.poison k))
    ∧ t.host.mem = s.host.mem ∧ t.host.ports = s.host.ports
    ∧ t.ctr key = w64 (min ((s.ctr key).toNat + 1) (2 ^ 64 - 1)) ∧ bitOf (t.evBits srcWin) ev = true
    ∧ { t with host := s.host, counters := s.counters, events := s.events, edges := s.edges } = s

theorem readFailed_poisonHost (a n key : Nat) {ev : Nat} (hev : ev < 64) (s : State) :
    ReadFailed a n key ev s (raiseEv srcWin ev (count key 1 (poisonHost a n s))) := by
  have hhost : (raiseEv srcWin ev (count key 1 (poisonHost a n s))).host = (poisonHost a n s).host := by
    simp only [raiseEv_fields, count_fields]
  refine ⟨fun k => by rw [hhost]; exact poisonHost_get a n k s, by rw [hhost]; rfl, by rw [hhost]; rfl, ?_, ?_, ?_⟩
  · simp only [raiseEv_fields, ctr_count, if_true]
    rfl
  · rw [raiseEv_bit _ _ _ _ _ hev]
    simp
  · apply State.ext_fields <;> simp [poisonHost]

theorem exec_attachReadCompletion {s : State} (hp : powered s = true) (p : PortId) (a : BitVec 43) (data : List Byte)
    (st : HostStatus) (str : Bool) :
    exec (.attachReadCompletion p a data st str) s = .next (attachCompletion p.val (apertureBase + a.toNat) data st str s) :=
  congrArg Host.Outcome.next (clocked_of_powered hp _)

/-- A completion with data: seen, and cached at most in the port's host-line cache. -/
theorem attachCompletion_ok (p a : Nat) (data : List Byte) (str : Bool) (s : State) :
    (attachCompletion p a data .ok str s).host.mem = s.host.mem.writeN a data
      ∧ { attachCompletion p a data .ok str s with host := s.host } = s := by
  unfold attachCompletion
  dsimp only
  split
  · obtain ⟨hmem, hframe⟩ := fillHostLines_frame p a data (hostSeen a data s)
    exact ⟨hmem, host_frame_trans (hostSeen_frame a data s).2 hframe⟩
  · exact hostSeen_frame a data s

theorem attachCompletion_uncached {p : Nat} {str : Bool} {s : State} (h : str = true ∨ (s.port p).cacheEn = false)
    (a : Nat) (data : List Byte) : attachCompletion p a data .ok str s = hostSeen a data s := by
  unfold attachCompletion
  dsimp only
  rw [if_neg]
  obtain h | h := h <;> simp [h]

/-- Every status but success and poison is a failed request. -/
theorem attachCompletion_error {st : HostStatus} (h1 : st ≠ .ok) (h2 : st ≠ .poisoned) (p a : Nat) (data : List Byte)
    (str : Bool) (s : State) :
    attachCompletion p a data st str s = reqFail p (poisonHost a data.length s) := by
  cases st with
  | ok => exact absurd rfl h1
  | poisoned => exact absurd rfl h2
  | unsupportedRequest => rfl
  | completerAbort => rfl

theorem exec_completionTimeout_hostRead {s : State} (hp : powered s = true) (p : PortId) (a n : Nat) :
    exec (.completionTimeout p (.hostRead a n)) s = .next (reqFail p.val (poisonHost (apertureBase + a) n s)) :=
  if_neg (by simp [hp])

theorem exec_completionTimeout_flushRead {s : State} (hp : powered s = true) (p : PortId) (q : QueueId) :
    exec (.completionTimeout p (.flushRead q)) s = .next (flushDone q.val p false s) :=
  if_neg (by simp [hp])

/-! ## Snoops and pending messages (R328, R333) -/

theorem exec_hostSnoop {s : State} (hp : powered s = true) (p : PortId) (a : BitVec 43) :
    exec (.hostSnoop p a) s = .next (count (snoopCount p.val) 1 (s.modPort p.val fun x =>
      { x with cache := x.cache.filter fun l => l.1 != (apertureBase + a.toNat) / 64 })) := by
  change execHostSnoop p a s = _
  unfold execHostSnoop
  rw [if_neg (by simp [hp])]

theorem exec_msixPendingSend {s : State} (hp : powered s = true) {p : PortId} {v : BitVec 8}
    (hpend : Sparse.get false (s.port p.val).pba v.toNat = true) (hsend : canSendMsix s p.val v.toNat = true) :
    exec (.msixPendingSend p v) s = .next (emit (.msix p v.toNat) (s.modPort p.val fun x =>
      { x with pba := Sparse.set false x.pba v.toNat false })) := by
  change execMsixPendingSend p v s = _
  unfold execMsixPendingSend
  rw [if_neg (by simp [hp])]
  simp only [hpend, hsend, Bool.and_self, if_true]

/-! ## Configuration requests (R320, 19 R393) -/

theorem exec_configurationRequest_early {s : State} (hp : powered s = true) {p : PortId}
    (hup : (s.port p.val).linkUp = true) (hstage : s.boot.stage ≤ 1) (req : CfgReq) :
    exec (.configurationRequest p req) s = .next (emit (.retryStatus p) s) := by
  change execConfigurationRequest p req s = _
  unfold execConfigurationRequest
  rw [if_neg (by simp [hp]), if_neg (by simp [hup]), if_pos hstage]

/-- What a port does with a configuration request that is served. -/
def configServed (p : PortId) (s : State) : CfgReq → State
  | .read off => configRead p off.toNat s
  | .writeBusMaster on => s.modPort p.val fun x => { x with bme := on }
  | .writeMsix en mask => s.modPort p.val fun x => { x with msixEnable := en, functionMask := mask }
  | .writeBar bar2 high v => s.modPort p.val (barWrite bar2 high v)

theorem exec_configurationRequest_served {s : State} (hp : powered s = true) {p : PortId}
    (hup : (s.port p.val).linkUp = true) (hstage : 1 < s.boot.stage) (req : CfgReq) :
    exec (.configurationRequest p req) s = .next (configServed p s req) := by
  change execConfigurationRequest p req s = _
  unfold execConfigurationRequest
  rw [if_neg (by simp [hp]), if_neg (by simp [hup]), if_neg (by omega)]
  cases req <;> rfl

/-- The serial number capability lies on a dword, past the header. -/
theorem dsnAt_bounds : dsnAt % 4 = 0 ∧ 0x100 ≤ dsnAt ∧ dsnAt ≤ 0xFF0 := by
  have := Nat.mod_lt Config.dsnSlot (show 957 > 0 by decide)
  unfold dsnAt
  omega

/-- The dwords of the serial number capability that hold the number, whatever the port. -/
theorem configDword_serial (p : PortId) (s : State) :
    configDword p (dsnAt + 4) s = some (fieldOf Config.fuseSerial 0 32)
      ∧ configDword p (dsnAt + 8) s = some (fieldOf Config.fuseSerial 32 32) := by
  obtain ⟨_, hlow, _⟩ := dsnAt_bounds
  unfold configDword
  constructor
  · simp only [List.mem_cons, List.not_mem_nil, or_false]
    rw [if_neg (by omega), if_neg (by omega), if_neg (by omega), if_neg (by omega), if_neg (by omega), if_neg (by omega),
      if_pos trivial]
  · simp only [List.mem_cons, List.not_mem_nil, or_false]
    rw [if_neg (by omega), if_neg (by omega), if_neg (by omega), if_neg (by omega), if_neg (by omega), if_neg (by omega),
      if_neg (by omega), if_pos trivial]

/-- A read of a stated dword is completed with it. -/
theorem configRead_stated {p : PortId} {off v : Nat} {s : State} (h4 : off % 4 = 0) (h : configDword p off s = some v) :
    configRead p off s = emit (.completion p (leBytes 4 v) false) s := by
  unfold configRead
  rw [show off / 4 * 4 = off by omega, h]

/-! ## O39 -/

/-- Settles O39: a snoop drops its line; a completion with data is what memory is last seen to hold, one without
poisons its sectors (15 R328, R329); configuration requests are retried until the boot ROM serves (19 R393). -/
theorem attachHostAndMessages : Obligations.AttachHostAndMessages := by
  unfold Obligations.AttachHostAndMessages
  intro p s hp x plus poisoned sends
  have portWritten (f : PortSt → PortSt) : (s.modPort p.val f).port p.val = f x
      ∧ (∀ k, k ≠ p.val → (s.modPort p.val f).port k = s.port k) ∧ { s.modPort p.val f with host := s.host } = s :=
    ⟨State.port_modPort_self .., fun k hk => State.port_modPort_other _ _ _ _ hk, rfl⟩
  refine ⟨fun a => ⟨_, exec_hostSnoop hp p a, ?_, fun k hk => ?_, ?_⟩, fun a data str h => ?_, fun a data str => ?_,
    fun a data => hostSeen_frame a data s, fun a data str => ?_, fun a data st str h1 h2 => ?_, fun a n => ?_, fun q => ?_,
    fun v hpend hsend => ⟨_, exec_msixPendingSend hp hpend hsend, rfl, fun k => ?_⟩,
    fun hup => ⟨fun hstage req => ⟨_, exec_configurationRequest_early hp hup hstage req, rfl, rfl⟩, fun hstage => ?_⟩⟩
  · simp only [count_fields, State.port_modPort_self]
    rfl
  · simp only [count_fields, State.port_modPort_other _ _ _ _ hk]
  · exact (count_counts _ _ _).1
  · rw [exec_attachReadCompletion hp, attachCompletion_uncached h]
  · exact ⟨_, exec_attachReadCompletion hp .., attachCompletion_ok ..⟩
  · exact ⟨_, exec_attachReadCompletion hp .., readFailed_poisonHost _ _ _ (by decide) s⟩
  · exact ⟨_, (exec_attachReadCompletion hp ..).trans (by rw [attachCompletion_error h1 h2]; rfl),
      readFailed_poisonHost _ _ _ (by decide) s⟩
  · exact ⟨_, exec_completionTimeout_hostRead hp p a n, readFailed_poisonHost _ _ _ (by decide) s⟩
  · exact exec_completionTimeout_flushRead hp p q
  · simp only [emit_fields, State.port_modPort_self, Sparse.get_set]
    rfl
  · have served := exec_configurationRequest_served hp hup hstage
    have stated {off : BitVec 12} {v : Nat} (h4 : off.toNat % 4 = 0) (h : configDword p off.toNat s = some v) :
        Yields (.configurationRequest p (.read off)) s (sends (.completion p (leBytes 4 v) false)) :=
      ⟨_, (served _).trans (congrArg Host.Outcome.next (configRead_stated h4 h)), rfl, rfl⟩
    obtain ⟨h4, _⟩ := dsnAt_bounds
    refine ⟨stated rfl rfl, fun off => ⟨fun h => ?_, fun h => ?_⟩, fun on => ⟨_, served _, portWritten _⟩,
      fun en mask => ⟨_, served _, portWritten _⟩, fun bar2 high v => ⟨_, served _, portWritten _⟩⟩
    · exact stated (by omega) (h ▸ (configDword_serial p s).1)
    · exact stated (by omega) (h ▸ (configDword_serial p s).2)

end Sys2Proof.Machine
end

section
/-! What an answer of the manager leaves alone (spec 18 R383, R386): the mailbox that holds it, the boot state, the
operations, and the event bits that stand. -/

namespace Sys2Proof.Machine

/-! ## Event bits that stand -/

/-- Every event bit set before is set after. -/
def EventsStand (s t : State) : Prop := ∀ src k, bitOf (s.evBits src) k = true → bitOf (t.evBits src) k = true

theorem EventsStand.refl (s : State) : EventsStand s s := fun _ _ h => h

theorem EventsStand.trans {s t u : State} (h1 : EventsStand s t) (h2 : EventsStand t u) : EventsStand s u :=
  fun src k h => h2 src k (h1 src k h)

theorem eventsStand_of_eq {s t : State} (h : t.events = s.events) : EventsStand s t := by
  intro src k hb
  simpa only [State.evBits, State.ev, h] using hb

theorem raiseEv_eventsStand (src : BitVec 16) (k : Nat) (s : State) : EventsStand s (raiseEv src k s) := by
  intro x j hb
  obtain ⟨⟨hbits, _⟩, hothers⟩ := raiseEv_ev src k s
  by_cases hx : x = src
  · rw [hx] at hb ⊢
    rw [hbits, bitOf_or, hb, Bool.true_or]
  · rwa [State.evBits, hothers x hx]

theorem count_eventsStand (key n : Nat) (s : State) : EventsStand s (count key n s) := by
  unfold count
  dsimp only
  split
  · refine .trans ?_ (raiseEv_eventsStand _ _ _)
    exact eventsStand_of_eq rfl
  · exact eventsStand_of_eq rfl

theorem noteMbx_eventsStand (m k : Nat) (s : State) : EventsStand s (noteMbx m k s) := by
  intro src j hb
  unfold noteMbx State.evBits
  rw [State.ev_setEv]
  split
  · next h => subst h; exact hb
  · exact hb

theorem sendIrq_eventsStand (irq : W64) (s : State) : EventsStand s (sendIrq irq s) := eventsStand_of_eq (by simp)

theorem sendMgmt_eventsStand (dst : NodeId) (cls : Nat) (pay : List Byte) (s : State) :
    EventsStand s (sendMgmt dst cls pay s) := by
  unfold sendMgmt sendPacket forward
  split
  · exact .refl s
  · split
    · exact eventsStand_of_eq (by simp)
    · exact (count_eventsStand _ _ _).trans (raiseEv_eventsStand _ _ _)

/-! ## A response, and the answers to commands that fail a generic check -/

theorem respond_eventsStand (m : MbxId) (tag : Nat) (st : BitVec 16) (d : Nat) (pay : List Byte) (s : State) :
    EventsStand s (respond m tag st d pay s) := by
  have hnote (x : State) (f : MbxSt → MbxSt) : EventsStand x (noteMbx m.val 1 (count (cmdCount m.val) 1 (x.modMbx m.val f))) :=
    (eventsStand_of_eq (by simp)).trans ((count_eventsStand _ _ _).trans (noteMbx_eventsStand _ _ _))
  unfold respond
  dsimp only
  split <;> split
  · exact ((hnote _ _).trans (sendIrq_eventsStand _ _)).trans (sendMgmt_eventsStand _ _ _ _)
  · exact (hnote _ _).trans (sendMgmt_eventsStand _ _ _ _)
  · exact (hnote _ _).trans (sendIrq_eventsStand _ _)
  · exact hnote _ _

/-- What every refusal of a command at the head of the order keeps, settling keeps. -/
theorem settle_preserves {P : State → Prop} (h : ∀ c st d rest s, P s → P (refuse c st d (s.modMgr fun g => { g with order := rest })))
    (s : State) (hs : P s) : P (settle s) := by
  have hfuel : ∀ fuel s, P s → P (settleMgr fuel s) := by
    intro fuel
    induction fuel with
    | zero => exact fun _ hs => hs
    | succ fuel ih =>
      intro s hs
      unfold settleMgr
      split
      · exact hs
      · split
        · exact hs
        · split
          · exact ih _ (h _ _ _ _ _ hs)
          · exact hs
  exact hfuel _ s hs

theorem settle_boot (s : State) : (settle s).boot = s.boot :=
  settle_preserves (P := fun t => t.boot = s.boot) (fun _ _ _ _ _ h => by simpa [refuse] using h) s rfl

theorem settle_hbm (s : State) : (settle s).hbm = s.hbm :=
  settle_preserves (P := fun t => t.hbm = s.hbm) (fun _ _ _ _ _ h => by simpa [refuse] using h) s rfl

theorem settle_coh (s : State) : (settle s).coh = s.coh :=
  settle_preserves (P := fun t => t.coh = s.coh) (fun _ _ _ _ _ h => by simpa [refuse] using h) s rfl

theorem settle_ops (s : State) : (settle s).mgr.ops = s.mgr.ops :=
  settle_preserves (P := fun t => t.mgr.ops = s.mgr.ops) (fun _ _ _ _ _ h => by rw [refuse, respond_mgr]; exact h) s rfl

theorem settle_eventsStand (s : State) : EventsStand s (settle s) :=
  settle_preserves (P := EventsStand s)
    (fun _ _ _ _ _ h => h.trans ((eventsStand_of_eq (by simp)).trans (respond_eventsStand _ _ _ _ _ _))) s (.refl s)

/-! ## Answers -/

/-- The mailbox of a command that is answered holds the answer and is free again. -/
theorem answer_answered (c : MCmd) (pay : List Byte) (s : State) : Answered c.m c.tag mbxOk 0 pay (answer c pay s) := by
  unfold Answered answer
  rw [respond_mbx, if_pos rfl]
  exact ⟨rfl, rfl, rfl⟩

@[simp] theorem answer_boot (c : MCmd) (pay : List Byte) (s : State) : (answer c pay s).boot = s.boot := by simp [answer]
@[simp] theorem answer_time (c : MCmd) (pay : List Byte) (s : State) : (answer c pay s).time = s.time := by simp [answer]
@[simp] theorem answer_now (c : MCmd) (pay : List Byte) (s : State) : (answer c pay s).now = s.now := by simp [answer]

/-- A command served alone that is answered: its mailbox holds the answer. -/
theorem serve_answered {m : MbxId} {id : Nat} {f : MCmd → State → State} {s t : State} {pay : List Byte}
    (h : Served m id s) (hf : f (cmdAt m s) (taken s) = answer (cmdAt m s) pay t) (ho : t.mgr.order = []) :
    serve m id f s = answer (cmdAt m s) pay t
      ∧ Answered m (cmdAt m s).tag mbxOk 0 pay (answer (cmdAt m s) pay t) :=
  ⟨serve_answer m id f s t pay h hf ho, answer_answered (cmdAt m s) pay t⟩

end Sys2Proof.Machine
end

section
/-! Proofs about device time (spec 16 R335-R339, 22 R450, 01 R16): time-sync packets, measurements of a source, the first
lock, PPS, the halves' counters and the commands, and O40. -/

namespace Sys2Proof.Machine

/-! ## Time-sync packets (R337) -/

/-- Sending on a link touches the outbox and the links alone. -/
theorem sendTimeSync_frame (n : Nat) (s : State) :
    { sendTimeSync n s with outbox := s.outbox, net := s.net } = s := by
  apply State.ext_fields <;> simp [sendTimeSync, sendOn]

/-- Filling a link's flits moves no link's mode, transmit timestamp or numbering of packets. -/
theorem pump_link (n k : Nat) (s : State) : ((pump n s).link k).mode = (s.link k).mode
    ∧ ((pump n s).link k).syncAt = (s.link k).syncAt ∧ ((pump n s).link k).nextSerial = (s.link k).nextSerial := by
  obtain ⟨hothers, _, _, _, _, _, _, _, _, hself⟩ := pump_sentOn n s
  by_cases hk : k = n
  · rw [hk, hself]
    exact ⟨rfl, rfl, rfl⟩
  · obtain ⟨_, hother⟩ := hothers k hk
    rw [hother]
    exact ⟨rfl, rfl, rfl⟩

/-- What a packet leaves of every link: its transmit timestamp and one more packet on its own link. -/
theorem sendTimeSync_link (n k : Nat) (s : State) :
    ((sendTimeSync n s).link k).syncAt = (if k = n then s.now else (s.link k).syncAt)
      ∧ ((sendTimeSync n s).link k).nextSerial = (s.link k).nextSerial + (if k = n then 1 else 0) := by
  unfold sendTimeSync sendOn sendHeld
  obtain ⟨_, hsync, hserial⟩ := pump_link n k _
  rw [hsync, hserial]
  by_cases hk : k = n
  · subst hk
    simp only [State.link_modLink_self, if_true, and_self]
  · simp only [State.link_modLink_other _ _ _ _ hk, if_neg hk, Nat.add_zero, and_self]

/-- A packet has been queued on each link of `l`, and on no other. -/
def TimeSyncsSent (l : List Nat) (s t : State) : Prop :=
  (∀ k, (t.link k).syncAt = (if k ∈ l then s.now else (s.link k).syncAt)
      ∧ (t.link k).nextSerial = (s.link k).nextSerial + (if k ∈ l then 1 else 0))
    ∧ { t with outbox := s.outbox, net := s.net } = s

theorem foldl_sendTimeSync : ∀ (l : List Nat) (s : State), l.Nodup →
    TimeSyncsSent l s (l.foldl (fun s n => sendTimeSync n s) s)
  | [], s, _ => ⟨fun k => by simp, rfl⟩
  | n :: l, s, hl => by
    obtain ⟨hn, hl⟩ := List.nodup_cons.mp hl
    obtain ⟨hlinks, hframe⟩ := foldl_sendTimeSync l (sendTimeSync n s) hl
    have hfirst := sendTimeSync_frame n s
    have hnow : (sendTimeSync n s).now = s.now := (congrArg State.now hfirst :)
    refine ⟨fun k => ?_, ?_⟩
    · obtain ⟨hsync, hserial⟩ := sendTimeSync_link n k s
      rw [List.foldl_cons, (hlinks k).1, (hlinks k).2, hsync, hserial, hnow]
      by_cases hk : k = n
      · subst hk
        simp [hn]
      · simp [hk]
    · rw [List.foldl_cons]
      calc _ = { { l.foldl (fun s n => sendTimeSync n s) (sendTimeSync n s) with
              outbox := (sendTimeSync n s).outbox, net := (sendTimeSync n s).net } with outbox := s.outbox, net := s.net } := rfl
        _ = { sendTimeSync n s with outbox := s.outbox, net := s.net } := by rw [hframe]
        _ = s := hfirst

theorem mem_upLinks {n : Nat} {s : State} : n ∈ upLinks s ↔ n < 96 ∧ (s.link n).mode = .up := by
  simp [upLinks]

theorem upLinks_nodup (s : State) : (upLinks s).Nodup := List.nodup_range.filter _

theorem exec_timeSyncSend {s : State} (hstate : 2 ≤ timeState s) (hnode : s.node ≠ 0xFFFF) (hroles : fwRoles s = true)
    (hdue : s.time.lastSync + 62500000 ≤ s.ticks) :
    exec .timeSyncSend s = .next ((upLinks s).foldl (fun s n => sendTimeSync n s)
      (s.modTime fun t => { t with lastSync := s.ticks })) := by
  change execTimeSyncSend s = _
  unfold execTimeSyncSend
  rw [if_pos ⟨hstate, hnode, hroles, hdue⟩]

/-! ## The source in use (R336) -/

theorem chooseSource_frame (s : State) :
    { chooseSource s with time := s.time, events := s.events, edges := s.edges } = s := by
  unfold chooseSource
  dsimp only
  split
  · rfl
  · apply State.ext_fields <;> simp

theorem chooseSource_now (s : State) : (chooseSource s).now = s.now := (congrArg State.now (chooseSource_frame s) :)
theorem chooseSource_mgr (s : State) : (chooseSource s).mgr = s.mgr := (congrArg State.mgr (chooseSource_frame s) :)

theorem chooseSource_time (s : State) : (chooseSource s).time = { s.time with active := bestSource s.time.srcs } := by
  unfold chooseSource
  dsimp only
  split
  · next h => rw [h]
  · simp

theorem chooseSource_eventsStand (s : State) : EventsStand s (chooseSource s) := by
  unfold chooseSource
  dsimp only
  split
  · exact .refl s
  · refine .trans ?_ (raiseEv_eventsStand _ _ _)
    exact eventsStand_of_eq rfl

/-- The source in use follows the list, and a reading of that source is device time's offset, to be slewed. -/
def followReading (i : Nat) (off : Int) (s : State) : State :=
  if (chooseSource s).time.active = some i then
    let t := (chooseSource s).modTime fun x => { x with offset := off, everLocked := true, slew := off }
    if 10000000 < off.natAbs then raiseEv srcTime evOffsetLarge t else t
  else chooseSource s

theorem followReading_keeps (i : Nat) (off : Int) (s : State) :
    (followReading i off s).time.srcs = s.time.srcs ∧ (followReading i off s).time.ppsSecond = s.time.ppsSecond
      ∧ (∀ k, (followReading i off s).ctr k = s.ctr k) ∧ EventsStand s (followReading i off s)
      ∧ { followReading i off s with time := s.time, events := s.events, edges := s.edges } = s := by
  have hframe := chooseSource_frame s
  have hctr : ∀ k, (chooseSource s).ctr k = s.ctr k := fun k => (congrArg (State.ctr · k) hframe :)
  have hev := chooseSource_eventsStand s
  unfold followReading
  dsimp only
  split
  · split
    · refine ⟨?_, ?_, fun k => ?_, hev.trans (.trans ?_ (raiseEv_eventsStand _ _ _)), ?_⟩
      · simp [chooseSource_time]
      · simp [chooseSource_time]
      · simpa using hctr k
      · exact eventsStand_of_eq rfl
      · refine Eq.trans ?_ hframe
        apply State.ext_fields <;> simp
    · exact ⟨by simp [chooseSource_time], by simp [chooseSource_time], hctr, hev.trans (eventsStand_of_eq rfl), hframe⟩
  · exact ⟨by simp [chooseSource_time], by simp [chooseSource_time], hctr, hev, hframe⟩

/-! ## Measurements (R338, R339) -/

/-- Source i of the list becomes x. -/
def withSource (i : Nat) (x : TimeSrc) (s : State) : State := s.modTime fun t => { t with srcs := t.srcs.set i x }

theorem withSource_get {i : Nat} {x y : TimeSrc} {s : State} (h : s.time.srcs[i]? = some x) :
    (withSource i y s).time.srcs[i]? = some y :=
  List.getElem?_set_self (List.getElem?_eq_some_iff.mp h).1

section
variable {i : Nat} {off : Int} {s : State} {x : TimeSrc}

/-- A reading within 1 us locks. -/
theorem measured_near (hx : s.time.srcs[i]? = some x) (hset : s.time.set = true) (hoff : off.natAbs ≤ 1000) :
    measured i off s = followReading i off (withSource i { x with locked := true, bad := 0 } s) := by
  simp [measured, hx, hset, not_lt.mpr hoff, followReading, withSource]
  rfl

/-- One above 1 us of a LOCKED source is counted, up to the ninth in a row. -/
theorem measured_far (hx : s.time.srcs[i]? = some x) (hset : s.time.set = true) (hoff : 1000 < off.natAbs)
    (hlocked : x.locked = true) (hbad : x.bad < 9) :
    measured i off s = followReading i off (withSource i { x with bad := x.bad + 1 } s) := by
  simp [measured, hx, hset, hoff, hlocked, show x.bad + 1 < 10 by omega, followReading, withSource]

/-- The tenth in a row loses the lock. -/
theorem measured_tenth (hx : s.time.srcs[i]? = some x) (hset : s.time.set = true) (hoff : 1000 < off.natAbs)
    (hlocked : x.locked = true) (hbad : 9 ≤ x.bad) :
    measured i off s = followReading i off (raiseEv srcTime evTimeLockLost (count lockLossCount 1
      (withSource i { x with locked := false, bad := 0 } s))) := by
  simp [measured, hx, hset, hoff, hlocked, show ¬ x.bad + 1 < 10 by omega, followReading, withSource]
  rfl

/-- One above 1 us of a source that is acquiring leaves it so. -/
theorem measured_acquiring (hx : s.time.srcs[i]? = some x) (hset : s.time.set = true) (hoff : 1000 < off.natAbs)
    (hlocked : x.locked = false) :
    measured i off s = followReading i off (withSource i { x with locked := false, bad := x.bad + 1 } s) := by
  simp [measured, hx, hset, hoff, hlocked, followReading, withSource]
  rfl

end

/-- A reading `off` of source i, which was x, has been taken in s and has led to t (R339). -/
def ReadingTaken (i : Nat) (off : Int) (x : TimeSrc) (s t : State) : Prop :=
  (off.natAbs ≤ 1000 → (t.time.srcs[i]?).map TimeSrc.locked = some true)
    ∧ (1000 < off.natAbs → x.locked = true → x.bad < 9 → t.time.srcs[i]? = some { x with bad := x.bad + 1 })
    ∧ (1000 < off.natAbs → x.locked = true → 9 ≤ x.bad → t.time.srcs[i]? = some { x with locked := false, bad := 0 }
      ∧ t.ctr lockLossCount = w64 (min ((s.ctr lockLossCount).toNat + 1) (2 ^ 64 - 1)) ∧ bitOf (t.evBits srcTime) evTimeLockLost = true)
    ∧ { t with time := s.time, net := s.net, outbox := s.outbox, counters := s.counters, events := s.events, edges := s.edges } = s

/-- Every reading once device time is set, whatever its size and its source's state: it is taken, and the second that the
next PPS edge marks stays. -/
theorem measured_taken {i : Nat} {s : State} {x : TimeSrc} (hx : s.time.srcs[i]? = some x) (hset : s.time.set = true) (off : Int) :
    ReadingTaken i off x s (measured i off s) ∧ (measured i off s).time.ppsSecond = s.time.ppsSecond := by
  have wide {t u : State} (h : { u with time := t.time, events := t.events, edges := t.edges } = t)
      (ht : { t with time := s.time, counters := s.counters, events := s.events, edges := s.edges } = s) :
      { u with time := s.time, net := s.net, outbox := s.outbox, counters := s.counters, events := s.events, edges := s.edges } = s := by
    calc _ = { { u with time := t.time, events := t.events, edges := t.edges } with
            time := s.time, net := s.net, outbox := s.outbox, counters := s.counters, events := s.events, edges := s.edges } := rfl
      _ = { t with time := s.time, net := s.net, outbox := s.outbox, counters := s.counters, events := s.events, edges := s.edges } := by
        rw [h]
      _ = { { t with time := s.time, counters := s.counters, events := s.events, edges := s.edges } with
            net := s.net, outbox := s.outbox } := rfl
      _ = s := by rw [ht]
  by_cases hoff : off.natAbs ≤ 1000
  · rw [measured_near hx hset hoff]
    obtain ⟨hsrcs, hpps, _, _, hframe⟩ := followReading_keeps i off (withSource i { x with locked := true, bad := 0 } s)
    refine ⟨⟨fun _ => ?_, fun h => absurd h (not_lt.mpr hoff), fun h => absurd h (not_lt.mpr hoff), wide hframe rfl⟩, hpps⟩
    rw [hsrcs, withSource_get hx]
    rfl
  have hfar := not_le.mp hoff
  cases hlocked : x.locked with
  | false =>
    rw [measured_acquiring hx hset hfar hlocked]
    obtain ⟨_, hpps, _, _, hframe⟩ := followReading_keeps i off (withSource i { x with locked := false, bad := x.bad + 1 } s)
    exact ⟨⟨fun h => absurd h hoff, fun _ h => by simp [hlocked] at h, fun _ h => by simp [hlocked] at h, wide hframe rfl⟩, hpps⟩
  | true =>
    by_cases hbad : x.bad < 9
    · rw [measured_far hx hset hfar hlocked hbad]
      obtain ⟨hsrcs, hpps, _, _, hframe⟩ := followReading_keeps i off (withSource i { x with bad := x.bad + 1 } s)
      exact ⟨⟨fun h => absurd h hoff, fun _ _ _ => by rw [hsrcs, withSource_get hx],
        fun _ _ h => absurd h (not_le.mpr hbad), wide hframe rfl⟩, hpps⟩
    · rw [measured_tenth hx hset hfar hlocked (not_lt.mp hbad)]
      obtain ⟨hsrcs, hpps, hctr, hev, hframe⟩ := followReading_keeps i off (raiseEv srcTime evTimeLockLost
        (count lockLossCount 1 (withSource i { x with locked := false, bad := 0 } s)))
      refine ⟨⟨fun h => absurd h hoff, fun _ _ h => absurd h hbad, fun _ _ _ => ⟨?_, ?_, hev _ _ ?_⟩, wide hframe ?_⟩, ?_⟩
      · rw [hsrcs]
        simpa using withSource_get hx
      · rw [hctr]
        simp only [raiseEv_fields, ctr_count, if_true]
        rfl
      · rw [raiseEv_bit _ _ _ _ _ (by decide)]
        simp
      · apply State.ext_fields <;> simp [withSource]
      · rw [hpps]
        simp [withSource]

/-- A reading taken after a message has been sent, or the next edge named, is taken of the state before. -/
theorem ReadingTaken.of_frame {i : Nat} {off : Int} {x : TimeSrc} {s s' t : State}
    (h : { s' with time := s.time, net := s.net, outbox := s.outbox } = s) (ht : ReadingTaken i off x s' t) :
    ReadingTaken i off x s t := by
  obtain ⟨hnear, hfar, htenth, hframe⟩ := ht
  have hctr : s'.ctr lockLossCount = s.ctr lockLossCount := (congrArg (State.ctr · lockLossCount) h :)
  rw [hctr] at htenth
  refine ⟨hnear, hfar, htenth, ?_⟩
  have hcounters : s'.counters = s.counters := (congrArg State.counters h :)
  have hevents : s'.events = s.events := (congrArg State.events h :)
  have hedges : s'.edges = s.edges := (congrArg State.edges h :)
  rw [hcounters, hevents, hedges] at hframe
  calc _ = { { t with time := s'.time, net := s'.net, outbox := s'.outbox, counters := s.counters, events := s.events, edges := s.edges } with
          time := s.time, net := s.net, outbox := s.outbox } := rfl
    _ = { s' with time := s.time, net := s.net, outbox := s.outbox } := by rw [hframe]
    _ = s := h

theorem measuredBy_of_found {kind port i : Nat} {s : State}
    (h : (s.time.srcs.findIdx? fun x => x.kind == kind && (kind == srcPps || x.port == port)) = some i) (off : Int) :
    measuredBy kind port off s = measured i off s := by
  rw [measuredBy, h]

/-! ## The first measurement (R338) -/

theorem syncTimers_frame (s : State) : { syncTimers s with cores := s.cores } = s := by
  unfold syncTimers
  generalize hl : s.cores.map Prod.fst = l
  clear hl
  have hstep (u : State) (c : Nat) : { syncTimer u c with cores := u.cores } = u := rfl
  induction l generalizing s with
  | nil => rfl
  | cons c l ih =>
    rw [List.foldl_cons]
    calc _ = { { l.foldl syncTimer (syncTimer s c) with cores := (syncTimer s c).cores } with cores := s.cores } := rfl
      _ = { syncTimer s c with cores := s.cores } := by rw [ih]
      _ = s := hstep s c

theorem syncTimers_time (s : State) : (syncTimers s).time = s.time := (congrArg State.time (syncTimers_frame s) :)
theorem syncTimers_now (s : State) : (syncTimers s).now = s.now := (congrArg State.now (syncTimers_frame s) :)

theorem syncTimers_mgr (s : State) : (syncTimers s).mgr = s.mgr := (congrArg State.mgr (syncTimers_frame s) :)

theorem firstLock_set (off : Int) (s : State) : (firstLock off s).time.set = true := by
  unfold firstLock
  dsimp only
  split
  · rw [syncTimers_time]
  · split <;> simp

theorem firstLock_now (off : Int) (s : State) :
    (firstLock off s).now = if allDisabled s = true then ((s.now : Int) + off).toNat else s.now := by
  unfold firstLock
  dsimp only
  split
  · rw [syncTimers_now]
  · split <;> simp

/-- The first measurement of all, of any size, locks its source and sets device time. -/
theorem measured_first {i : Nat} {s : State} {x : TimeSrc} (hx : s.time.srcs[i]? = some x) (hset : s.time.set = false)
    (hlocked : x.locked = false) (off : Int) : ∃ y f, measured i off s =
      if (firstLock off (chooseSource (withSource i y s))).time.active = some i then
        (firstLock off (chooseSource (withSource i y s))).modTime fun t => { t with offset := f, everLocked := true }
      else firstLock off (chooseSource (withSource i y s)) := by
  refine ⟨{ x with locked := true, bad := if 1000 < off.natAbs then x.bad + 1 else 0 }, off, ?_⟩
  by_cases hoff : 1000 < off.natAbs
  · simp [measured, hx, hset, hlocked, hoff, withSource]
  · simp [measured, hx, hset, hlocked, hoff, withSource]

theorem measured_first_set {i : Nat} {s : State} {x : TimeSrc} (hx : s.time.srcs[i]? = some x) (hset : s.time.set = false)
    (hlocked : x.locked = false) (off : Int) : (measured i off s).time.set = true := by
  obtain ⟨y, f, hfirst⟩ := measured_first hx hset hlocked off
  rw [hfirst]
  split <;> exact firstLock_set off _

theorem measured_first_now {i : Nat} {s : State} {x : TimeSrc} (hx : s.time.srcs[i]? = some x) (hset : s.time.set = false)
    (hlocked : x.locked = false) (off : Int) :
    (measured i off s).now = if allDisabled s = true then ((s.now : Int) + off).toNat else s.now := by
  obtain ⟨y, f, hfirst⟩ := measured_first hx hset hlocked off
  have hlock := firstLock_now off (chooseSource (withSource i y s))
  have hqueues : (chooseSource (withSource i y s)).queues = s.queues := (congrArg State.queues (chooseSource_frame _) :)
  rw [chooseSource_now, allDisabled, hqueues] at hlock
  rw [hfirst]
  split <;> exact hlock

/-! ## What measures a source (R336, R337, 22 R450) -/

theorem exec_timeSyncMessage {s : State} (hp : powered s = true) {n : LinkId} (hup : (s.link n.val).mode = .up) (off : Int) :
    exec (.timeSyncMessage n off) s = .next (measuredBy srcFabric n.val off
      (if timeState s < 2 ∧ s.node ≠ 0xFFFF then sendTimeSync n.val s else s)) :=
  congrArg Host.Outcome.next ((clocked_of_powered hp _).trans (if_neg (not_not.mpr hup)))

/-- The message's reading is of its source, whether or not the package answers. -/
theorem timeSyncMessage_taken {s : State} (hp : powered s = true) {n : LinkId} (hup : (s.link n.val).mode = .up) {i : Nat}
    {x : TimeSrc} (hx : s.time.srcs[i]? = some x) (hset : s.time.set = true)
    (hfind : (s.time.srcs.findIdx? fun x => x.kind == srcFabric && (srcFabric == srcPps || x.port == n.val)) = some i) (off : Int) :
    Yields (.timeSyncMessage n off) s (ReadingTaken i off x s) := by
  refine ⟨_, exec_timeSyncMessage hp hup off, ?_⟩
  split
  · have hframe := sendTimeSync_frame n.val s
    have htime : (sendTimeSync n.val s).time = s.time := (congrArg State.time hframe :)
    have hwide : { sendTimeSync n.val s with time := s.time, net := s.net, outbox := s.outbox } = s := by
      rw [← htime]
      exact hframe
    rw [← htime] at hx hset hfind
    rw [measuredBy_of_found hfind]
    exact (measured_taken hx hset off).1.of_frame hwide
  · rw [measuredBy_of_found hfind]
    exact (measured_taken hx hset off).1

/-- The next edge of the PPS source marks the second after the one named. -/
def nextPpsSecond (s : State) : State := s.modTime fun t => { t with ppsSecond := t.ppsSecond + 1000000000 }

theorem exec_ppsEdge_clean {s : State} (hp : powered s = true) (hany : (s.time.srcs.any fun x => x.kind == srcPps) = true)
    (hset : s.time.set = true) (off : Int) :
    exec (.ppsEdge true off) s = .next (measuredBy srcPps 0 off (nextPpsSecond s)) := by
  change Host.Outcome.next (clocked (ppsEdge true off) s) = _
  rw [clocked_of_powered hp, ppsEdge, nextPpsSecond]
  simp only [hany, hset, Bool.not_true, Bool.false_eq_true, or_self, if_false, if_true]

/-- A clean edge is a reading of source PPS, and names the second of the next one. -/
theorem ppsEdge_taken {s : State} (hp : powered s = true) {i : Nat} {x : TimeSrc} (hx : s.time.srcs[i]? = some x)
    (hset : s.time.set = true)
    (hfind : (s.time.srcs.findIdx? fun x => x.kind == srcPps && (srcPps == srcPps || x.port == 0)) = some i) (off : Int) :
    Yields (.ppsEdge true off) s fun t => ReadingTaken i off x s t ∧ t.time.ppsSecond = s.time.ppsSecond + 1000000000 := by
  have hany : (s.time.srcs.any fun x => x.kind == srcPps) = true := by
    obtain ⟨hi, hkind, _⟩ := List.findIdx?_eq_some_iff_getElem.mp hfind
    rw [List.any_eq_true]
    exact ⟨_, List.getElem_mem hi, by simpa using hkind⟩
  have hexec := exec_ppsEdge_clean hp hany hset off
  rw [measuredBy_of_found (s := nextPpsSecond s) hfind] at hexec
  obtain ⟨htaken, hpps⟩ := measured_taken (s := nextPpsSecond s) hx hset off
  exact ⟨_, hexec, htaken.of_frame (s' := nextPpsSecond s) rfl, hpps⟩

theorem ptpFrame_taken {s : State} (hp : powered s = true) {p : EthId} (hup : ethUp s p.val = true) {i : Nat} {x : TimeSrc}
    (hx : s.time.srcs[i]? = some x) (hset : s.time.set = true)
    (hfind : (s.time.srcs.findIdx? fun x => x.kind == srcPtp && (srcPtp == srcPps || x.port == p.val)) = some i) (off : Int) :
    Yields (.ethFrameReceive p (.ptp off)) s (ReadingTaken i off x s) := by
  have hexec : exec (.ethFrameReceive p (.ptp off)) s = .next (measuredBy srcPtp p.val off s) := by
    change Host.Outcome.next (clocked (ethFrame p.val (.ptp off)) s) = _
    rw [clocked_of_powered hp, ethFrame, if_neg (by simp [hup])]
  refine ⟨_, hexec, ?_⟩
  rw [measuredBy_of_found hfind]
  exact (measured_taken hx hset off).1

/-! ## The PPS output and the halves' counters (22 R450, 01 R16) -/

theorem exec_ppsOutEdge {s : State} (hp : powered s = true) (hnew : s.now / 1000000000 ≠ s.time.lastPps / 1000000000) :
    exec .ppsOutEdge s = .next { s with
      time := { s.time with lastPps := s.now }
      pins := { s.pins with ppsOut := true, ppsUntil := s.now / 1000000000 * 1000000000 + 100000000 } } := by
  change execPpsOutEdge s = _
  rw [execPpsOutEdge, if_neg (by simp [hp]), if_neg hnew]

theorem exec_deviceTimeCompare {s : State} (hp : powered s = true) (hdue : s.time.lastCompare + 1000 ≤ s.ticks) (d : Int) :
    exec (.deviceTimeCompare d) s = .next (syncTimers (s.modTime fun t =>
      { t with lastCompare := s.ticks, halfB := max (-2) (min 2 (t.halfB + d)) })) := by
  change execDeviceTimeCompare d s = _
  rw [execDeviceTimeCompare, if_neg (by simp [hp]), if_pos hdue]

/-! ## Commands (R336, R338) -/

/-- The list a TIME_SOURCE_SET names. -/
def namedSources (c : MCmd) : List TimeSrc :=
  (List.range (c.le 0 1)).map fun k => { kind := (timeEntry c k).1, port := (timeEntry c k).2 }

/-- A source just named is not LOCKED. -/
theorem bestSource_namedSources (c : MCmd) : bestSource (namedSources c) = none := by
  simp [bestSource, namedSources]

theorem timeSourceSet_valid {c : MCmd} (h1 : 1 ≤ c.le 0 1) (h4 : c.le 0 1 ≤ 4) (hgood : badEntry c (c.le 0 1) = none) (s : State) :
    timeSourceSet c s = answer c [] (chooseSource (s.modTime fun t => { t with srcs := namedSources c, ppsSecond := c.le 40 8 })) := by
  unfold timeSourceSet
  dsimp only
  rw [if_neg (by omega), hgood]
  rfl

theorem timeStep_valid {c : MCmd} {s : State} (h0 : 0 ≤ (s.now : Int) + sext 64 (c.le 0 8))
    (h64 : (s.now : Int) + sext 64 (c.le 0 8) < 2 ^ 64) (hdis : allDisabled s = true) :
    timeStep c s = answer c [] (syncTimers { s with now := ((s.now : Int) + sext 64 (c.le 0 8)).toNat }) := by
  unfold timeStep
  refine checked_pass _ _ _ _ _ _ (pass_cons ?_ pass_nil) pass_nil (pass_cons (by rw [hdis]; rfl) pass_nil)
  rw [decide_eq_false (not_lt.mpr h0), decide_eq_false (not_le.mpr h64), Bool.or_false]

/-! ## O40 -/

/-- Settles O40: a time-sync packet goes out on every UP link and on no other (R337); every measurement of a source is
one and the same reading, whichever message or edge brings it (R339); the first one sets device time (R338). -/
theorem deviceTimeFollowsItsSources : Obligations.DeviceTimeFollowsItsSources := by
  unfold Obligations.DeviceTimeFollowsItsSources
  refine ⟨fun s hstate hnode hroles hdue => ⟨_, exec_timeSyncSend hstate hnode hroles hdue, ?_⟩,
    fun i off s x hx hset hp => ⟨(measured_taken hx hset off).1, fun n hup hfind => timeSyncMessage_taken hp hup hx hset hfind off,
      fun hfind => ppsEdge_taken hp hx hset hfind off, fun p hup hfind => ptpFrame_taken hp hup hx hset hfind off⟩,
    fun n off s hp hup => exec_timeSyncMessage hp hup off, fun i off s x hx hset hlocked => ?_,
    fun s hp hnew => ⟨_, exec_ppsOutEdge hp hnew, rfl, rfl, rfl, rfl⟩,
    fun d s hp hdue => ⟨_, exec_deviceTimeCompare hp hdue d, ?_⟩, fun m s => ⟨fun hs h1 h4 hgood => ?_, fun hs h0 h64 hdis => ?_⟩⟩
  · obtain ⟨hlinks, hframe⟩ := foldl_sendTimeSync (upLinks s) (s.modTime fun t => { t with lastSync := s.ticks }) (upLinks_nodup s)
    refine ⟨(congrArg State.time hframe :), fun n hn hup => ?_, fun n hdown => ?_, ?_⟩
    · obtain ⟨hsync, hserial⟩ := hlinks n
      rw [if_pos (mem_upLinks.mpr ⟨hn, hup⟩)] at hsync hserial
      exact ⟨hsync, hserial⟩
    · obtain ⟨hsync, hserial⟩ := hlinks n
      have hout : n ∉ upLinks s := fun h => hdown (mem_upLinks.mp h).2
      rw [if_neg hout] at hsync hserial
      exact ⟨hsync, hserial⟩
    · exact (congrArg (fun t : State => { t with time := s.time }) hframe :)
  · have hnow := measured_first_now hx hset hlocked off
    exact ⟨measured_first_set hx hset hlocked off, fun hdis => by rw [hnow, if_pos hdis], fun hdis => by rw [hnow, if_neg (by simp [hdis])]⟩
  · have hframe := syncTimers_frame (s.modTime fun t => { t with lastCompare := s.ticks, halfB := max (-2) (min 2 (t.halfB + d)) })
    simp only [syncTimers_time, State.modTime_time]
    exact ⟨le_max_left _ _, by omega, by omega, trivial, (congrArg (fun t : State => { t with time := s.time }) hframe :)⟩
  · obtain ⟨hserve, hanswered⟩ := serve_answered hs (timeSourceSet_valid h1 h4 hgood _)
      (by rw [chooseSource_mgr]; rfl)
    refine ⟨_, congrArg Host.Outcome.next hserve, hanswered, ?_⟩
    simp only [answer_time, answer_now, chooseSource_time, chooseSource_now, State.modTime_time, bestSource_namedSources, true_and]
    exact ⟨rfl, rfl⟩
  · obtain ⟨hserve, hanswered⟩ := serve_answered hs (timeStep_valid (s := taken s) h0 h64 hdis)
      (by rw [syncTimers_mgr]; rfl)
    refine ⟨_, congrArg Host.Outcome.next hserve, hanswered, ?_, ?_⟩
    · rw [answer_now, syncTimers_now]
      dsimp only
      rw [show (taken s).now = s.now from rfl, Int.toNat_of_nonneg h0]
    · rw [answer_time, syncTimers_time]
      rfl

end Sys2Proof.Machine
end

section
/-! Proofs about firmware images and their replacement (spec 19 R393-R399, R408-R410, 18 R387, 01 R26): the checks of an
image, the end of operations, what a failed activation leaves, and O51. -/

namespace Sys2Proof.Machine

/-! ## The checks of an image (R397, R398) -/

section
variable {img : List Byte} {len : Nat} {s : State}

theorem checkImage_pass_iff (ok : Bool) (img : List Byte) (len : Nat) (s : State) :
    checkImage ok img len s = .pass (imageOf img) ↔ ok = true ∧ formatOk img len = true
      ∧ rootKnown (leAt img 0x30 1) (slice img 0x40 96) s = true
      ∧ Config.ecdsaVerify (slice img 0x40 96) (imageOf img).digest (img.drop (img.length - 96)) = true
      ∧ s.sec.svn ≤ leAt img 0x18 8 := by
  unfold checkImage
  dsimp only
  split_ifs <;> simp_all

theorem checkImage_svnLow (hformat : formatOk img len = true) (hroot : rootKnown (leAt img 0x30 1) (slice img 0x40 96) s = true)
    (hsigned : Config.ecdsaVerify (slice img 0x40 96) (imageOf img).digest (img.drop (img.length - 96)) = true)
    (hsvn : leAt img 0x18 8 < s.sec.svn) : checkImage true img len s = .fail mbxDenied errSvnLow := by
  simp [checkImage, hformat, hroot, hsigned, hsvn]

theorem checkImage_keyUnknown (hformat : formatOk img len = true)
    (hroot : rootKnown (leAt img 0x30 1) (slice img 0x40 96) s = false) :
    checkImage true img len s = .fail mbxBadSignature errKeyUnknown := by
  simp [checkImage, hformat, hroot]

end

theorem rootKnown_congr {s t : State} (h : t.sec = s.sec) (slot : Nat) (key : List Byte) : rootKnown slot key t = rootKnown slot key s := by
  unfold rootKnown
  rw [h]

/-- The checks ask the state for the fuses alone. -/
theorem checkImage_congr {s t : State} (h : t.sec = s.sec) (ok : Bool) (img : List Byte) (len : Nat) :
    checkImage ok img len t = checkImage ok img len s := by
  unfold checkImage
  simp only [rootKnown_congr h, h]

theorem rootKnown_of_revoked {slot : Nat} {s : State} (h : s.sec.revoked.getLsbD slot = true) (key : List Byte) :
    rootKnown slot key s = false := by
  simp [rootKnown, h]

/-! ## What the end of an operation leaves alone (18 R387) -/

theorem endOp_boot (o : RunOp) (st : BitVec 16) (result : List Byte) (s : State) : (endOp o st result s).boot = s.boot := by
  unfold endOp
  dsimp only
  split
  · simp [settle_boot]
  · split <;> simp

theorem endOp_hbm (o : RunOp) (st : BitVec 16) (result : List Byte) (s : State) : (endOp o st result s).hbm = s.hbm := by
  unfold endOp
  dsimp only
  split
  · simp [settle_hbm]
  · split <;> simp

theorem endOp_coh (o : RunOp) (st : BitVec 16) (result : List Byte) (s : State) : (endOp o st result s).coh = s.coh := by
  unfold endOp
  dsimp only
  split
  · simp [settle_coh]
  · split <;> simp

/-- The operation is gone, and no other one. -/
theorem endOp_ops (o : RunOp) (st : BitVec 16) (result : List Byte) (s : State) :
    (endOp o st result s).mgr.ops = s.mgr.ops.erase o := by
  unfold endOp
  dsimp only
  split
  · rw [settle_ops, respond_mgr]
    rfl
  · split
    · simp only [sendIrq_fr, noteMbx_fr]
      rfl
    · simp only [noteMbx_fr]
      rfl

theorem endOp_eventsStand (o : RunOp) (st : BitVec 16) (result : List Byte) (s : State) : EventsStand s (endOp o st result s) := by
  unfold endOp
  dsimp only
  split
  · refine .trans ?_ ((respond_eventsStand _ _ _ _ _ _).trans (settle_eventsStand _))
    exact eventsStand_of_eq rfl
  · have hnote (g : MgrState → MgrState) (n k : Nat) (f : MbxSt → MbxSt) :
        EventsStand s (noteMbx n k ((s.modMgr g).modMbx n f)) :=
      (eventsStand_of_eq rfl).trans (noteMbx_eventsStand n k ((s.modMgr g).modMbx n f))
    split
    · exact .trans (hnote _ _ _ _) (sendIrq_eventsStand _ _)
    · exact hnote _ _ _ _

/-! ## A failed activation (R410): every operation fails, and the boot state stays as the failure has set it -/

theorem firmwareWalk_boot (va : Nat) (s : State) : (firmwareWalk va s).2.boot = s.boot := by
  have hwalk : (walk codeNone va s).2.boot = s.boot := by simp only [walk_fr]
  unfold firmwareWalk
  split
  · rfl
  · split
    · next h =>
      rw [h] at hwalk
      split <;> exact hwalk
    · next h =>
      rw [h] at hwalk
      exact hwalk

theorem writeNotice_boot (n : Notice) (s : State) : (writeNotice n s).boot = s.boot := by
  unfold writeNotice
  split
  · simp [dropNotice]
  · next r _ =>
    have hwalk := firmwareWalk_boot (r.va + 32 * (r.m % r.entries)) s
    dsimp only
    split
    · next h =>
      rw [h] at hwalk
      simpa [dropNotice] using hwalk
    · next h =>
      rw [h] at hwalk
      split
      · simpa [dropNotice] using hwalk
      · simpa [poolWrite] using hwalk

theorem writeNotices_boot : ∀ (l : List Notice) (s : State), (writeNotices l s).boot = s.boot
  | [], _ => rfl
  | n :: l, s => by
    unfold writeNotices
    split
    · rw [writeNotices_boot l, writeNotice_boot]
    · rfl

theorem postFault_boot (eng vpage : Nat) (big : Bool) (s : State) : (postFault eng vpage big s).boot = s.boot := by
  unfold postFault
  dsimp only
  split <;> simp

theorem postNinth_boot : ∀ (l : List (DescId × Nat × Bool)) (s : State), (postNinth l s).boot = s.boot
  | [], _ => rfl
  | (d, vp, big) :: l, s => by
    unfold postNinth
    split
    · rw [postNinth_boot l, postFault_boot]
    · exact postNinth_boot l s

theorem moveOutcome_boot (mv : Option MoveReq) (st : BitVec 16) (result : List Byte) (s : State) :
    (moveOutcome mv st result s).boot = s.boot := by
  cases mv <;> rfl

theorem failPage_boot (vpage cause : Nat) (s : State) : (failPage vpage cause s).boot = s.boot := by
  unfold failPage
  dsimp only
  split
  · rfl
  · rw [postNinth_boot, postNotice, writeNotices_boot]
    simp only [raiseEv_fields]
    rw [foldl_boot]
    · rw [dropRecord, moveOutcome_boot]
    · intro t d
      split
      · simp only [finishQueue_fr, endProg_fr]
      · rfl

theorem failOp_boot (o : RunOp) (s : State) : (failOp o s).boot = s.boot := by
  unfold failOp
  split
  · simp [endMargin, endOp_boot]
  · simp [endOnline, endOp_boot]
  · rw [endOp_boot]
    dsimp only
    split
    · exact failPage_boot _ _ _
    · rfl
  · exact endOp_boot _ _ _ _

theorem activationFails_boot (e : Byte) (s : State) : (activationFails e s).boot = { s.boot with
    activ := none, running := none, staged := none, fwReady := false, stage := stActivateFailed, error := e
    lastPause := (s.boot.lastPause.1, s.now) } := by
  rw [activationFails, settle_boot, foldl_boot _ _ _ fun t o => failOp_boot o t]
  simp

/-! ## FW_LOAD (R398) -/

/-- What an interrupt may not move of the attach host: what memory is seen to hold, and whether a port carries requests. -/
def HostStands (s t : State) : Prop :=
  t.host.mem = s.host.mem ∧ t.host.poison = s.host.poison ∧ ∀ p, portCarries t p = portCarries s p

theorem HostStands.trans {s t u : State} (h1 : HostStands s t) (h2 : HostStands t u) : HostStands s u := by
  obtain ⟨hmem, hpoison, hports⟩ := h1
  obtain ⟨hmem', hpoison', hports'⟩ := h2
  exact ⟨hmem'.trans hmem, hpoison'.trans hpoison, fun p => (hports' p).trans (hports p)⟩

theorem hostStands_of_eq {s t : State} (h : t.host = s.host) : HostStands s t := by
  simp only [HostStands, portCarries, State.port, h, implies_true, and_self]

theorem sendIrq_hostStands (irq : W64) (s : State) : HostStands s (sendIrq irq s) := by
  unfold sendIrq
  split
  · exact hostStands_of_eq (by simp)
  · unfold sendMsix
    split
    · exact hostStands_of_eq rfl
    · refine ⟨rfl, rfl, fun p => ?_⟩
      simp only [portCarries, State.port_modPort]
      split
      · next h => rw [h]
      · rfl

theorem respond_hostStands (m : MbxId) (tag : Nat) (st : BitVec 16) (d : Nat) (pay : List Byte) (s : State) :
    HostStands s (respond m tag st d pay s) := by
  have hnote (f : MbxSt → MbxSt) : HostStands s (noteMbx m.val 1 (count (cmdCount m.val) 1 (s.modMbx m.val f))) :=
    hostStands_of_eq (by simp)
  have hmgmt (dst : NodeId) (cls : Nat) (bytes : List Byte) (t : State) : HostStands t (sendMgmt dst cls bytes t) :=
    hostStands_of_eq (by simp)
  unfold respond
  dsimp only
  split <;> split
  · exact ((hnote _).trans (sendIrq_hostStands _ _)).trans (hmgmt _ _ _ _)
  · exact (hnote _).trans (hmgmt _ _ _ _)
  · exact (hnote _).trans (sendIrq_hostStands _ _)
  · exact hnote _

/-- What the start of an operation leaves alone, whether or not it answers ACCEPTED. -/
theorem placeOp_keeps (c : MCmd) (s : State) : (placeOp c s).boot = s.boot ∧ (placeOp c s).now = s.now
    ∧ (placeOp c s).mgr.order = s.mgr.order ∧ HostStands s (placeOp c s) := by
  unfold placeOp
  dsimp only
  split
  · exact ⟨rfl, rfl, rfl, hostStands_of_eq rfl⟩
  · refine ⟨by simp, by simp, ?_, .trans ?_ (respond_hostStands _ _ _ _ _ _)⟩
    · rw [respond_order]
      rfl
    · exact hostStands_of_eq rfl

/-- A sector of the image that an FW_LOAD names was last read as poison. -/
def imagePoisoned (c : MCmd) (s : State) : Bool :=
  (List.range (c.le 8 4 / 32 + 2)).any fun k => decide (32 * k < c.le 0 8 % 32 + c.le 8 4)
    && Sparse.get false s.host.poison ((apertureBase + c.le 0 8) / 32 + k)

/-- The bytes of the image that an FW_LOAD names. -/
def imageBytes (c : MCmd) (s : State) : List Byte := s.host.mem.readN (apertureBase + c.le 0 8) (c.le 8 4)

/-- What the read of an image counts and raises. -/
def noteImageRead (ok bad : Bool) (s : State) : State :=
  if !ok then reqFail 0 s else if bad then raiseEv srcWin 3 (count (poisonRxCount 0) 1 s) else s

theorem noteImageRead_keeps (ok bad : Bool) (s : State) :
    (noteImageRead ok bad s).boot = s.boot ∧ (noteImageRead ok bad s).mgr = s.mgr := by
  unfold noteImageRead
  split
  · simp [reqFail]
  · split <;> simp

/-- An FW_LOAD whose checks pass, over a port that carries its read. -/
theorem fwLoad_starts {c : MCmd} {s : State} (hlen : c.le 8 4 ≤ imageMax) (hheld : firmwareHeld s = false)
    (hslot : keepsMailbox c s = true ∨ (freeSlot? c.m s).isSome = true) (hport : portCarries s 0 = true) (ok : Bool) :
    fwLoad ok c s = noteImageRead ok (imagePoisoned c s) (emit (.hostRead 0 (apertureBase + c.le 0 8) (c.le 8 4))
      ((placeOp c s).modBoot fun b => { b with
        verdict := some (checkImage (ok && !imagePoisoned c s) (imageBytes c s) (c.le 8 4) s), staged := none
        stage := if !b.fwReady && b.stage == stWaitImage then stVerify else b.stage })) := by
  obtain ⟨_, _, _, _, hpoison, hports⟩ := placeOp_keeps c s
  have hsec : (placeOp c s).sec = s.sec := (placeOp_fr c s).2
  have hcarries : portCarries (placeOp c s) 0 = true := (hports 0).trans hport
  unfold fwLoad
  dsimp only
  rw [long_pass _ _ _ _ _ _ (pass_cons (decide_eq_false (not_lt.mpr hlen)) pass_nil) (pass_cons hheld pass_nil) pass_nil hslot]
  simp only [hcarries, hpoison, checkImage_congr hsec, Bool.not_true, Bool.false_eq_true, if_false, Bool.and_true]
  rfl

/-- The boot state an FW_LOAD leaves: the checks' verdict, and nothing staged. -/
theorem fwLoad_boot {c : MCmd} {s : State} (hlen : c.le 8 4 ≤ imageMax) (hheld : firmwareHeld s = false)
    (hslot : keepsMailbox c s = true ∨ (freeSlot? c.m s).isSome = true) (hport : portCarries s 0 = true) (ok : Bool) :
    (fwLoad ok c s).mgr.order = s.mgr.order ∧ (fwLoad ok c s).boot.staged = none
      ∧ (fwLoad ok c s).boot.running = s.boot.running
      ∧ (fwLoad ok c s).boot.verdict = some (checkImage (ok && !imagePoisoned c s) (imageBytes c s) (c.le 8 4) s) := by
  obtain ⟨hboot, _, horder, _⟩ := placeOp_keeps c s
  rw [fwLoad_starts hlen hheld hslot hport, (noteImageRead_keeps _ _ _).1, (noteImageRead_keeps _ _ _).2]
  simp only [emit_fields, State.modBoot_boot, State.modBoot_fields, hboot, horder, and_self]

theorem imagePoisoned_of_clean {s : State} (h : ∀ k, Sparse.get false s.host.poison k = false) (c : MCmd) :
    imagePoisoned c s = false := by
  simp [imagePoisoned, h]

/-! ## The end of long operations (R387, R399) -/

theorem exec_longOperationEnd {s : State} (hp : powered s = true) (hserves : mgrServes s = true) {m : MbxId}
    {slot : Option (Fin 8)} {o : RunOp} (hop : opAt m slot s = some o) (ok : Bool) (d : List Byte) :
    exec (.longOperationEnd m slot ok d) s = .next (longEnd o ok d s) := by
  change Host.Outcome.next (clocked (longOperationEnd m slot ok d) s) = _
  rw [clocked_of_powered hp, longOperationEnd, hop]
  simp only [hserves, if_true]

theorem longEnd_fwLoad {o : RunOp} (h : o.id = 0x0701) (ok : Bool) (d : List Byte) (s : State) :
    longEnd o ok d s = endFwLoad o s := by
  simp only [longEnd, h]

/-- CACHE_LOCK and KEY_MAP have nothing left to do at their end. -/
theorem longEnd_done {o : RunOp} (h : o.id = 0x0410 ∨ o.id = 0x0423) (ok : Bool) (d : List Byte) (s : State) :
    longEnd o ok d s = endOp o mbxOk [] s := by
  obtain h | h := h <;> simp only [longEnd, h]

theorem endFwLoad_pass {img : Image} {s : State} (hv : s.boot.verdict = some (.pass img)) (hready : s.boot.fwReady = true)
    (o : RunOp) : endFwLoad o s = endOp o mbxOk (fit 48 img.digest ++ leBytes 8 img.svn ++ leBytes 4 img.version)
      { s with boot := { s.boot with verdict := none, staged := some img } } := by
  unfold endFwLoad
  rw [hv]
  exact if_pos hready

theorem endFwLoad_fail {st : BitVec 16} {e : Byte} {s : State} (hv : s.boot.verdict = some (.fail st e))
    (hstage : s.boot.stage ≠ stVerify) (o : RunOp) : endFwLoad o s = endOp o st []
      (raiseEv srcBoot evLoadFail (count loadFailCount 1 { s with boot := { s.boot with verdict := none, error := e } })) := by
  unfold endFwLoad
  rw [hv]
  have hkeep : { s.boot with
        verdict := none, error := e, stage := if s.boot.stage == stVerify then stWaitImage else s.boot.stage }
      = { s.boot with verdict := none, error := e } := by
    rw [if_neg (by simpa using hstage)]
  exact congrArg (fun b => endOp o st [] (raiseEv srcBoot evLoadFail (count loadFailCount 1 { s with boot := b }))) hkeep

/-! ## FIRMWARE_READY and its deadline (R393-R395) -/

theorem exec_firmwareReady {s : State} (hp : powered s = true) : exec .firmwareReady s = .next (firmwareReady s) :=
  congrArg Host.Outcome.next (clocked_of_powered hp _)

theorem firmwareReady_started {x : Nat} {img : Image} {s : State} (hstart : s.boot.fwStart = some x)
    (hrun : s.boot.running = some img) (hpool : s.boot.poolReady = true)
    (hboot : (img.segs.any fun g => g.kind == 4) = false) (horder : s.mgr.order = []) :
    firmwareReady s = raiseEv srcBoot evReady (s.modBoot fun b => { b with fwStart := none, fwReady := true, stage := stReady }) := by
  unfold firmwareReady
  simp only [hstart, hrun, hpool, hboot, if_true, Bool.false_eq_true, if_false]
  exact settle_empty _ (by simpa using horder)

theorem firmwareReady_waiting {x : Nat} {img : Image} {s : State} (hstart : s.boot.fwStart = some x)
    (hrun : s.boot.running = some img) (hpool : s.boot.poolReady = false) (hfault : s.boot.poolFault = false) :
    firmwareReady s = s := by
  unfold firmwareReady
  simp only [hstart, hrun, hpool, hfault, Bool.false_eq_true, if_false]

theorem exec_fwStartTimeout {x : Nat} {s : State} (hp : powered s = true) (hstart : s.boot.fwStart = some x) :
    exec .fwStartTimeout s = .next (if x + 5000000000 ≤ s.now then
      s.modBoot fun b => { b with fwStart := none, running := none, error := errFwStartTimeout, stage := stWaitImage }
    else s) := by
  change execFwStartTimeout s = _
  rw [execFwStartTimeout, if_neg (by simp [hp]), hstart]

/-! ## Live activation (R408-R410) -/

/-- The staged image may take over: it accepts what the running one hands over, and its SVN is not below the fused one. -/
theorem fwActivate_fits {c : MCmd} {s : State} {n r : Image} (hheld : firmwareHeld s = false)
    (hslot : keepsMailbox c s = true ∨ (freeSlot? c.m s).isSome = true) (hrun : s.boot.running = some r)
    (hstaged : s.boot.staged = some n) (hlive : n.liveOk = true) (haccept : n.accept = r.emit) (hsvn : s.sec.svn ≤ n.svn) :
    (fwActivate c s).mgr.order = s.mgr.order ∧ ∃ slot, (fwActivate c s).boot = { s.boot with
      activ := some ⟨s.now, c.m, slot, false⟩, stage := stActivating, handover := some r.emit, lastPause := (s.now, s.now) } := by
  obtain ⟨hboot, hnow, horder, _⟩ := placeOp_keeps c s
  unfold fwActivate
  dsimp only
  rw [long_pass _ _ _ _ _ _ pass_nil (pass_cons hheld pass_nil)
    (pass_cons (by simp [hstaged, hrun, hlive, haccept, hsvn]) pass_nil) hslot]
  exact ⟨horder, _, by rw [State.modBoot_boot, hboot, hnow, hrun]; rfl⟩

theorem fwActivate_conflict {c : MCmd} {s : State} {n r : Image} (hheld : firmwareHeld s = false)
    (hslot : keepsMailbox c s = true ∨ (freeSlot? c.m s).isSome = true) (hrun : s.boot.running = some r)
    (hbad : s.boot.staged = none ∨ (s.boot.staged = some n ∧ (n.liveOk = false ∨ n.accept ≠ r.emit ∨ n.svn < s.sec.svn))) :
    fwActivate c s = refuse c mbxConflict noField s := by
  have hfull : (!keepsMailbox c s && (freeSlot? c.m s).isNone) = false := by
    obtain h | h := hslot
    · simp [h]
    · obtain ⟨j, hj⟩ := Option.isSome_iff_exists.mp h
      simp [hj]
  unfold fwActivate
  dsimp only
  rw [Machine.long, checked, firstFail_none _ _ pass_nil, List.cons_append, List.nil_append,
    firstFail_none _ _ (pass_cons hheld (pass_cons hfull pass_nil))]
  obtain h | ⟨h, hno⟩ := hbad
  · simp only [h]
    rfl
  · have hfits : (n.liveOk && n.accept == r.emit && decide (s.sec.svn ≤ n.svn)) = false := by
      simp only [Bool.and_eq_false_iff, beq_eq_false_iff_ne, decide_eq_false_iff_not, not_le]
      tauto
    simp only [h, hrun, hfits]
    rfl

theorem exec_firmwareStart {a : Activ} {s : State} (hp : powered s = true) (hactiv : s.boot.activ = some a)
    (hnew : a.started = false) (htime : s.now ≤ a.start + 20000000) (accepts : Bool) :
    exec (.firmwareStart accepts) s = .next (if accepts then s.modBoot fun b => { b with
      running := b.staged, staged := none, dog := s.now, activ := some { a with started := true } }
    else activationFails errStateRejected s) := by
  change Host.Outcome.next (clocked (firmwareStart accepts) s) = _
  rw [clocked_of_powered hp, firmwareStart, hactiv]
  dsimp only
  rw [if_neg (by simp [hnew]; omega)]

theorem exec_activationTimeout {a : Activ} {s : State} (hp : powered s = true) (hactiv : s.boot.activ = some a)
    (hnew : a.started = false) (htime : a.start + 20000000 ≤ s.now) :
    exec .activationTimeout s = .next (activationFails errFwStartTimeout s) := by
  change execActivationTimeout s = _
  rw [execActivationTimeout, if_neg (by simp [hp]), hactiv]
  dsimp only
  rw [if_pos ⟨by simp [hnew], htime⟩]

theorem exec_activationComplete {s : State} (hp : powered s = true) : exec .activationComplete s = .next (activationComplete s) :=
  congrArg Host.Outcome.next (clocked_of_powered hp _)

/-- An activation whose new firmware has not started is not complete. -/
theorem activationComplete_early {a : Activ} {s : State} (hactiv : s.boot.activ = some a) (hnew : a.started = false) :
    activationComplete s = s := by
  unfold activationComplete
  simp only [hactiv, hnew, Bool.not_false, if_true]

/-- The end of an activation: the boot state it leaves, with the pause, and its event. -/
theorem activationComplete_boot {a : Activ} {s : State} (hactiv : s.boot.activ = some a) (hstarted : a.started = true) :
    (activationComplete s).boot = { s.boot with
        activ := none, handover := none, stage := stReady, lastPause := (a.start, s.now) }
      ∧ bitOf ((activationComplete s).evBits srcBoot) evActivated = true := by
  unfold activationComplete
  simp only [hactiv, hstarted, Bool.not_true, Bool.false_eq_true, if_false, settle_boot]
  constructor
  · split
    · rw [endOp_boot]
      simp
    · simp
  · refine settle_eventsStand _ _ _ ?_
    split
    · refine endOp_eventsStand _ _ _ _ _ _ ?_
      rw [raiseEv_bit _ _ _ _ _ (by decide)]
      simp
    · rw [raiseEv_bit _ _ _ _ _ (by decide)]
      simp

/-! ## The geometry table (01 R26) -/

theorem length_fit (n : Nat) (l : List Byte) : (fit n l).length = n := by
  simp [fit]

theorem length_geometryTable : geometryTable.length = 512 := by
  rw [geometryTable, List.length_append, geometryBody, length_fit, length_leBytes]

/-- The last four bytes are the CRC-32 of the 508 before them. -/
theorem geometryTable_crc : leAt geometryTable 508 4 = (crc32 (geometryTable.take 508)).toNat := by
  have hlen : geometryBody.length = 508 := length_fit _ _
  have hcrc := (crc32 geometryBody).isLt
  rw [geometryTable, leAt_append_right _ _ _ _ hlen.le, hlen, leAt_leBytes _ _ _ _ (by decide), List.take_left' hlen]
  omega

/-! ## O51 -/

/-- Settles O51: an image passes the checks of R397 and R398 in order; a load, its end, firmware's readiness, a live
activation and its failure each leave the boot state that R393-R399 and R408-R410 name (logs 40, 81). -/
theorem firmwareIsLoadedAndReplaced : Obligations.FirmwareIsLoadedAndReplaced := by
  unfold Obligations.FirmwareIsLoadedAndReplaced
  intro s
  refine ⟨fun ok img len => ⟨checkImage_pass_iff ok img len s, ?_, ?_⟩, fun slot key _ h => rootKnown_of_revoked h key,
    fun m ok hs hheld hslot hlen hport => ?_, fun m d hs hlen => ?_, fun m slot o ok d hop hp hserves hid => ⟨?_, ?_⟩,
    fun m slot o ok d hop hp hserves hid => ?_, fun x img hp hstart hrun => ⟨?_, ?_, ?_, ?_⟩,
    fun m hs hheld hslot n r hrun => ⟨?_, ?_⟩, fun a hp hactiv hnew => ⟨?_, ?_, ?_, ?_⟩,
    fun e => ?_, fun a hactiv hstarted hp => ?_, fun m => ⟨?_, ?_, ?_⟩, length_geometryTable, geometryTable_crc⟩
  · rintro rfl hformat hroot hsigned hsvn
    exact checkImage_svnLow hformat hroot hsigned hsvn
  · rintro rfl hformat hroot
    exact checkImage_keyUnknown hformat hroot
  · obtain ⟨horder, hstaged, hrunning, hverdict⟩ := fwLoad_boot (s := taken s) hlen hheld (slot_taken _ _ hslot) hport ok
    refine ⟨_, congrArg Host.Outcome.next (serve_served m 0x0701 (fwLoad ok) s hs horder), fun hclean => ?_, ?_, hstaged, hrunning⟩
    · rw [hverdict, imagePoisoned_of_clean (s := taken s) hclean, Bool.not_false, Bool.and_true]
      rfl
    · rw [hverdict]
      rfl
  · refine congrArg Host.Outcome.next (serve_refuse m 0x0701 (fwLoad d) s (taken s) mbxRange 8 hs ?_ rfl)
    simp [fwLoad, Machine.long, checked, firstFail, show imageMax < (cmdAt m s).le 8 4 from hlen]
  · intro img hv hready
    have hend := exec_longOperationEnd hp hserves hop ok d
    rw [longEnd_fwLoad hid, endFwLoad_pass hv hready] at hend
    exact ⟨_, hend, rfl, endOp_boot .., endOp_ops ..⟩
  · intro st e hv hstage
    rw [exec_longOperationEnd hp hserves hop, longEnd_fwLoad hid, endFwLoad_fail hv hstage]
  · have hend := exec_longOperationEnd hp hserves hop ok d
    rw [longEnd_done hid] at hend
    exact ⟨hend, _, hend, endOp_ops .., endOp_boot .., endOp_coh .., endOp_hbm ..⟩
  · intro hpool hboot horder
    refine ⟨_, (exec_firmwareReady hp).trans (by rw [firmwareReady_started hstart hrun hpool hboot horder]), ?_, ?_⟩
    · simp only [raiseEv_fields, State.modBoot_boot]
    · rw [raiseEv_bit _ _ _ _ _ (by decide)]
      simp
  · intro hpool hfault
    rw [exec_firmwareReady hp, firmwareReady_waiting hstart hrun hpool hfault]
  · intro hdue
    have hexec := exec_fwStartTimeout hp hstart
    rw [if_pos hdue] at hexec
    exact ⟨_, hexec, rfl, rfl⟩
  · intro hearly
    rw [exec_fwStartTimeout hp hstart, if_neg (by omega)]
  · intro hstaged hlive haccept hsvn
    obtain ⟨horder, slot, hboot⟩ :=
      fwActivate_fits (s := taken s) hheld (slot_taken _ _ hslot) hrun hstaged hlive haccept hsvn
    refine ⟨_, congrArg Host.Outcome.next (serve_served m 0x0702 fwActivate s hs horder), ?_⟩
    beta_reduce
    rw [hboot]
    exact ⟨rfl, rfl, rfl, hrun, hstaged⟩
  · intro hbad
    exact congrArg Host.Outcome.next (serve_refuse m 0x0702 fwActivate s (taken s) mbxConflict noField hs
      (fwActivate_conflict (s := taken s) hheld (slot_taken _ _ hslot) hrun hbad) rfl)
  · intro htime
    exact ⟨_, exec_firmwareStart hp hactiv hnew htime true, rfl, rfl⟩
  · intro htime
    exact exec_firmwareStart hp hactiv hnew htime false
  · intro htime
    have hexec := exec_activationTimeout hp hactiv hnew htime
    refine ⟨hexec, _, hexec, ?_⟩
    beta_reduce
    rw [activationFails_boot]
    exact ⟨rfl, rfl, rfl, rfl, rfl, rfl⟩
  · rw [exec_activationComplete hp, activationComplete_early hactiv hnew]
  · intro t
    have hboot := activationFails_boot e s
    exact ⟨congrArg BootState.running hboot, congrArg BootState.staged hboot, congrArg BootState.fwReady hboot,
      congrArg BootState.stage hboot, congrArg BootState.error hboot⟩
  · obtain ⟨hboot, hevent⟩ := activationComplete_boot hactiv hstarted
    refine ⟨_, exec_activationComplete hp, ?_⟩
    beta_reduce
    rw [hboot]
    exact ⟨rfl, rfl, rfl, rfl, hevent⟩
  · intro hs
    obtain ⟨hserve, _, hbusy, hdone⟩ := serve_answered (f := identityRead) (t := taken s) hs rfl rfl
    exact ⟨_, congrArg Host.Outcome.next hserve, hbusy, hdone, answer_boot ..⟩
  · intro hs
    obtain ⟨hserve, hanswered⟩ := serve_answered (f := fun c => answer c geometryTable) (t := taken s) hs rfl rfl
    exact ⟨_, congrArg Host.Outcome.next hserve, hanswered, answer_boot ..⟩
  · intro hs r hrun
    obtain ⟨hserve, hanswered⟩ := serve_answered (f := fwStatus) (t := taken s) hs rfl rfl
    refine ⟨_, congrArg Host.Outcome.next hserve, answer_boot .., ?_⟩
    have hrunning : (taken s).boot.running = some r := hrun
    rw [hrunning] at hanswered ⊢
    exact hanswered

end Sys2Proof.Machine
end

section
/-! Proofs about the counter-clear registers (spec 21 R434, R436 and each block's own rule), and O2. -/

namespace Sys2Proof.Machine

theorem clearCounters_cleared (lo hi : Nat) (s : State) : Cleared lo hi s (clearCounters lo hi s) := by
  have hread (k : Nat) : (clearCounters lo hi s).ctr k = if lo ≤ k ∧ k < hi then 0 else s.ctr k := by
    simp only [State.ctr, clearCounters, Sparse.get_dropWhere, decide_eq_true_eq]
  refine ⟨fun k hlo hhi => ?_, fun k hout => ?_, rfl⟩
  · rw [hread, if_pos ⟨hlo, hhi⟩]
  · rw [hread, if_neg (by omega)]

/-- A command that is the clock-gated `clearOn` of a range clears exactly that range. -/
theorem clearsOn_of_exec {c : Instr} {v : W64} {lo hi : Nat} {s : State}
    (h : exec c s = .next (clocked (clearOn v lo hi) s)) : ClearsOn c v lo hi s := by
  unfold ClearsOn
  split
  · next hon =>
    obtain ⟨hp, hbit⟩ := hon
    refine ⟨_, h, ?_⟩
    rw [clocked_of_powered hp, clearOn, bitOf, if_pos hbit]
    exact clearCounters_cleared lo hi s
  · next hoff =>
    rw [h, clocked, clearOn, bitOf]
    by_cases hp : powered s = true
    · rw [if_pos hp, if_neg fun hbit => hoff ⟨hp, hbit⟩]
    · rw [if_neg hp]

/-- The same for a command that tests for power first. -/
theorem clearsOn_of_exec_guarded {c : Instr} {v : W64} {lo hi : Nat} {s : State}
    (h : exec c s = if !powered s then .next s else .next (if bitOf v 0 then clearCounters lo hi s else s)) :
    ClearsOn c v lo hi s := by
  refine clearsOn_of_exec (h.trans ?_)
  cases hp : powered s <;> simp [clocked, clearOn, hp]

/-- The ranges of a queue's and of a mailbox's counters, from the start of the register space. -/
theorem qCtr_eq (q off : Nat) : qCtr q off = 0x100000 + off + 0x1000 * q := by unfold qCtr; omega

theorem mbxCtr_eq (m off : Nat) : mbxCtr m off = 0x10000 + off + 0x4000 * m := by unfold mbxCtr; omega

/-- Settles O2: each clear command is `clearOn` of its block's range, gated by power and clock (log 70). -/
theorem clearRegistersClearTheirCounters : Obligations.ClearRegistersClearTheirCounters := by
  unfold Obligations.ClearRegistersClearTheirCounters
  intro s v
  refine ⟨fun n => ⟨clearsOn_of_exec rfl, clearsOn_of_exec rfl, clearsOn_of_exec rfl⟩, fun q => ?queue,
    fun e => ⟨clearsOn_of_exec_guarded rfl, clearsOn_of_exec_guarded rfl⟩, fun m => ?mailbox, clearsOn_of_exec rfl,
    clearsOn_of_exec_guarded rfl, clearsOn_of_exec_guarded rfl, clearsOn_of_exec_guarded rfl, clearsOn_of_exec rfl,
    clearsOn_of_exec rfl, clearsOn_of_exec rfl, clearsOn_of_exec rfl, clearsOn_of_exec rfl, clearsOn_of_exec rfl⟩
  case queue => exact clearsOn_of_exec_guarded (by rw [← qCtr_eq q.val 0x100, ← qCtr_eq q.val 0x200]; rfl)
  case mailbox => exact clearsOn_of_exec_guarded (by rw [← mbxCtr_eq m.val 0x2400, ← mbxCtr_eq m.val 0x2410]; rfl)

end Sys2Proof.Machine
end

section
/-! Proofs about the rows of a matrix array (spec 03 R58, R63, R65): the step of a stream that has kept the timing
contract is written as its mode computes it, and O3. -/

namespace Sys2Proof.Machine

/-- What a step of the array writes into its row, and the flags it sets. -/
def stepResult (f : FlyStep) (x : AryState) : List Byte × List Nat :=
  stepRow f.mode f.acc f.a f.b (x.acc.readN (128 * (f.mode.units f.row).1) (128 * (f.mode.units f.row).2))

/-- The array once the row of a step is written: bytes, written bits, and the step out of the pipeline. -/
def AryState.withRow (f : FlyStep) (x : AryState) : AryState := { x with
  fly := x.fly.erase f
  acc := x.acc.writeN (128 * (f.mode.units f.row).1) (stepResult f x).1
  written := markUnits x.written (f.mode.units f.row).1 (f.mode.units f.row).2 }

/-- The state once the row is written and the stream remembers what it touched; the flags follow. -/
def rowWritten (n : ArrayId) (f : FlyStep) (s : State) : State :=
  touch (.arr n) (f.due - latRowAcc) (.accUnits (f.mode.units f.row).1 (f.mode.units f.row).2)
    ((s.modArr n.val fun x => { x with fly := x.fly.erase f }).modArr n.val fun x => { x with
      acc := x.acc.writeN (128 * (f.mode.units f.row).1) (stepResult f (s.arr n.val)).1
      written := markUnits x.written (f.mode.units f.row).1 (f.mode.units f.row).2 })

theorem rowWritten_arr (n : ArrayId) (f : FlyStep) (s : State) (m : Nat) : ∃ l,
    (rowWritten n f s).arr m = if m = n.val
      then { (s.arr n.val).withRow f with su := { (s.arr n.val).su with touched := l } } else s.arr m := by
  unfold rowWritten
  refine (touch_arr n _ _ _ m).imp fun l hl => hl.trans ?_
  split
  · simp only [State.arr_modArr_self]
    rfl
  · next hm => simp only [State.arr_modArr_other _ _ _ _ hm]

theorem rowWritten_events (n : ArrayId) (f : FlyStep) (s : State) : (rowWritten n f s).events = s.events := rfl

/-- A step that is not undefined writes its row and then raises its flags (R58, R65). -/
theorem landRow_of_defined {n : ArrayId} {f : FlyStep} {s : State} (hfree : f.free = false)
    (hundef : (s.arr n.val).su.undef (f.due - latRowAcc) = false) :
    landRow n f s = (stepResult f (s.arr n.val)).2.foldl (fun s k => raiseEv (srcAry n.val) k s) (rowWritten n f s) := by
  unfold landRow
  dsimp only
  rw [if_neg (by simp [hfree, hundef]), rowWritten, stepResult]

/-- The oldest step of the pipeline lands once it is due, or once the stream issues no more (R58). -/
theorem exec_accumulatorRowWrite_of_due {n : ArrayId} {s : State} {f : FlyStep} {rest : List FlyStep}
    (hp : powered s = true) (hfly : (s.arr n.val).fly = f :: rest)
    (hdue : f.due ≤ (s.arr n.val).su.cycle ∨ (s.arr n.val).su.issuing = false) :
    exec (.accumulatorRowWrite n) s = .next (landRow n f s) := by
  change execAccumulatorRowWrite n s = _
  unfold execAccumulatorRowWrite
  simp only [hfly]
  rw [if_pos ⟨hp, hdue.imp_right fun h => by simp [h]⟩]

theorem stepResult_length (f : FlyStep) (x : AryState) : (stepResult f x).1.length = 128 * (f.mode.units f.row).2 :=
  stepRow_length ..

/-- The row reads as the step wrote it. -/
theorem withRow_readN (f : FlyStep) (x : AryState) :
    (x.withRow f).acc.readN (128 * (f.mode.units f.row).1) (128 * (f.mode.units f.row).2) = (stepResult f x).1 := by
  rw [← stepResult_length f x]
  exact readN_writeN ..

theorem withRow_read_outside (f : FlyStep) (x : AryState) {a : Nat} (h : a < 128 * (f.mode.units f.row).1
    ∨ 128 * ((f.mode.units f.row).1 + (f.mode.units f.row).2) ≤ a) : (x.withRow f).acc.read a = x.acc.read a :=
  Mem.read_writeN_outside _ _ _ _ (by rw [stepResult_length]; omega)

/-- What the landing of a defined step leaves of the array and of the other arrays. -/
theorem landRow_arr_of_defined {n : ArrayId} {f : FlyStep} {s : State} (hfree : f.free = false)
    (hundef : (s.arr n.val).su.undef (f.due - latRowAcc) = false) (m : Nat) : ∃ l,
    (landRow n f s).arr m = if m = n.val
      then { (s.arr n.val).withRow f with su := { (s.arr n.val).su with touched := l } } else s.arr m := by
  obtain ⟨l, hl⟩ := rowWritten_arr n f s m
  refine ⟨l, ?_⟩
  simp only [landRow_of_defined hfree hundef, raiseAll_fields, hl]

/-- Settles O3: a due step lands as `landRow_of_defined` says; its flags are events of the array alone. -/
theorem accumulatorRowWriteWritesTheRow : Obligations.AccumulatorRowWriteWritesTheRow := by
  unfold Obligations.AccumulatorRowWriteWritesTheRow
  intro n s f rest hp hfly hfree hundef hdue x u r
  have harr := landRow_arr_of_defined hfree hundef
  obtain ⟨l, hself⟩ := harr n.val
  rw [if_pos rfl] at hself
  have hland := landRow_of_defined hfree hundef
  obtain ⟨hothers, hflags⟩ := raiseAll_ev (srcAry n.val) r.2 (rowWritten n f s)
  refine ⟨_, exec_accumulatorRowWrite_of_due hp hfly hdue, ?_⟩
  beta_reduce
  rw [hself]
  refine ⟨withRow_readN f x, fun a ha => withRow_read_outside f x ha, fun k => get_markUnits .., fun k hk => ?_, fun src hsrc => ?_,
    ?_, rfl, rfl, fun m hm => ?_, ?_⟩
  · rw [hland]
    exact hflags k hk
  · rw [hland]
    exact hothers src hsrc
  · simp only [AryState.withRow, hfly, List.erase_cons_head]
  · obtain ⟨_, hm'⟩ := harr m
    rw [hm', if_neg hm]
  · rw [hland]
    apply State.ext_fields <;> simp [rowWritten, touch, State.modUnit]

end Sys2Proof.Machine
end

section
/-! Proofs about preloads, duties and droop stretches (spec 03 R59, R69, 17 R374), and O4. -/

namespace Sys2Proof.Machine

/-- A preload that has had its cycles, or whose stream issues no more, leaves the buffer valid (R59). -/
theorem endPreload_of_done {x : AryState} {b : StatBuf} {p k : Nat} (hbusy : b.busy = some (p, k))
    (hdone : p + b.mode.preloadCycles ≤ x.su.cycle ∨ x.su.issuing = false) :
    endPreload x b = { b with valid := true, busy := none } := by
  unfold endPreload
  simp only [hbusy]
  rw [if_pos (hdone.imp_right fun h => by simp [h])]

theorem exec_preloadEnd {n : ArrayId} {s : State} (hp : powered s = true) (buf : Bool) :
    exec (.preloadEnd n buf) s = .next (s.modArr n.val fun x =>
      if buf then { x with buf1 := endPreload x x.buf1 } else { x with buf0 := endPreload x x.buf0 }) := by
  change execPreloadEnd n buf s = _
  unfold execPreloadEnd
  simp only [hp, Bool.not_true, Bool.false_eq_true, if_false]

/-- A position takes a duty of at most 64 one step of 64ths further, or none: of the first n positions,
⌊n·d/64⌋ issue (R69). -/
theorem length_filter_issuingCycle {d : Nat} (hd : d ≤ 64) (n : Nat) :
    ((List.range n).filter fun j => issuingCycle d j).length = n * d / 64 := by
  induction n with
  | zero => simp
  | succ n ih =>
    have hstep : (n + 1) * d = n * d + d := Nat.succ_mul n d
    rw [List.range_succ, List.filter_append, List.length_append, ih]
    by_cases h : issuingCycle d n = true
    · rw [List.filter_cons_of_pos h]
      simp only [issuingCycle, beq_iff_eq] at h
      simp only [List.filter_nil, List.length_singleton]
      omega
    · rw [List.filter_cons_of_neg h]
      simp only [issuingCycle, beq_iff_eq] at h
      simp only [List.filter_nil, List.length_nil]
      omega

/-- A waiting duty takes effect at a multiple of 64, or in an array that does not run (R69). -/
theorem dutyBoundary_of_waiting {x : AryState} {d : Nat} (hnext : x.dutyNext = some d)
    (hpos : x.pos % 64 = 0 ∨ x.su.status ≠ .running) : dutyBoundary x = { x with duty := d, dutyNext := none } := by
  unfold dutyBoundary
  simp only [hnext]
  rw [if_pos hpos]

/-- Settles O4: the droop clause with droop mode off is the model's own (log 1: nothing happens). -/
theorem preloadsEndAndDutiesChange : Obligations.PreloadsEndAndDutiesChange := by
  unfold Obligations.PreloadsEndAndDutiesChange
  refine ⟨?preload, fun d => ?duty,
    fun n s hp => ⟨fun d hnext hpos => ?boundary, fun c hdroop => ?droopOn, fun c hdroop => ?droopOff⟩⟩
  case preload =>
    intro n buf s p k x b hp hbusy hdone
    refine ⟨_, exec_preloadEnd hp buf, ?_⟩
    have hend : endPreload (s.arr n.val) b = { b with valid := true, busy := none } := endPreload_of_done hbusy hdone
    refine ⟨?_, ?_, ?_, fun m hm => State.arr_modArr_other _ _ _ _ hm, rfl⟩ <;> rw [State.arr_modArr_self]
    · cases buf <;> exact hend
    · cases buf <;> rfl
    · cases buf <;> rfl
  case duty =>
    rw [length_filter_issuingCycle (Nat.le_of_lt_succ d.isLt)]
    omega
  case boundary =>
    refine ⟨_, congrArg Host.Outcome.next (clocked_of_powered hp _), ?_, fun m hm => State.arr_modArr_other _ _ _ _ hm, rfl⟩
    rw [State.arr_modArr_self, dutyBoundary_of_waiting hnext hpos]
  case droopOn =>
    exact ⟨_, congrArg Host.Outcome.next ((clocked_of_powered hp _).trans (if_pos hdroop)), count_counts ..⟩
  case droopOff =>
    exact congrArg Host.Outcome.next ((clocked_of_powered hp _).trans (if_neg (by simp [hdroop])))

end Sys2Proof.Machine
end

section
/-! Proofs about integer and Cascade steps (spec 03 R67, R68): the columns of a row as numbers, sums of products,
saturation, and O9 and O10. -/

namespace Sys2Proof.Machine

/-! ## Numbers and bytes -/

theorem foldl_add_mul_eq (a : List Int) : ∀ (b : List Int) (c : Int),
    (a.zip b).foldl (fun acc p => acc + p.1 * p.2) c = c + (List.zipWith (· * ·) a b).sum := by
  induction a with
  | nil => intro b c; simp
  | cons x a ih =>
    intro b c
    cases b with
    | nil => simp
    | cons y b =>
      rw [List.zip_cons_cons, List.foldl_cons, ih, List.zipWith_cons_cons, List.sum_cons]
      ring

/-- Column c of a row laid out in columns of k bytes. -/
theorem leAt_flatMap_leBytes {α : Type} (k : Nat) (g : α → Nat) (l : List α) : ∀ (c : Nat) (h : c < l.length),
    leAt (l.flatMap fun x => leBytes k (g x)) (k * c) k = g l[c] % 256 ^ k := by
  induction l with
  | nil => intro c h; exact absurd h (Nat.not_lt_zero _)
  | cons x l ih =>
    intro c h
    rw [List.flatMap_cons]
    cases c with
    | zero =>
      rw [leAt_append_left _ _ _ _ (by rw [length_leBytes]; omega), leAt_leBytes _ _ _ _ (by omega)]
      simp
    | succ c =>
      have hoff : k * (c + 1) = k * c + k := Nat.mul_succ k c
      rw [leAt_append_right _ _ _ _ (by rw [length_leBytes]; omega), length_leBytes, hoff, Nat.add_sub_cancel,
        ih c (by simpa using h)]
      rfl

/-- A number in the range of 32-bit two's complement is read back from its 32 bits. -/
theorem sext_wrapNat_32 {v : Int} (hlo : -2 ^ 31 ≤ v) (hhi : v ≤ 2 ^ 31 - 1) : sext 32 (wrapNat 32 v) = v := by
  unfold sext wrapNat
  dsimp only
  split <;> omega

/-- The sign bit of w bits counts 2^w less or more, which is nothing modulo 2^w. -/
theorem sext_emod (w n : Nat) : sext w n % 2 ^ w = (n : Int) % 2 ^ w := by
  simp only [sext]
  split
  · rw [Int.sub_emod_right]
    push_cast
    exact Int.emod_emod_of_dvd _ dvd_rfl
  · push_cast
    exact Int.emod_emod_of_dvd _ dvd_rfl

theorem wrapNat_lt (w : Nat) (v : Int) : wrapNat w v < 2 ^ w := by
  have hpos : (0 : Int) < 2 ^ w := by positivity
  have hlt := Int.emod_lt_of_pos v hpos
  have hnn := Int.emod_nonneg v hpos.ne'
  unfold wrapNat
  zify
  rwa [Int.toNat_of_nonneg hnn]

theorem wrapNat_congr {w : Nat} {u v : Int} (h : u % 2 ^ w = v % 2 ^ w) : wrapNat w u = wrapNat w v := by
  rw [wrapNat, wrapNat, h]

/-! ## Integer steps (R67) -/

/-- The exact total of one column: the former value, if any, and the sum of the products. -/
def intTotal (a b : List Int) (c : Option Int) : Int := c.getD 0 + (List.zipWith (· * ·) a b).sum

/-- A total as an integer step writes it: cut to the 32-bit range once, with SAT where it lay outside. -/
def saturated (t : Int) : Int × List Nat :=
  (max (-2 ^ 31) (min (2 ^ 31 - 1) t), if t < -2 ^ 31 ∨ 2 ^ 31 - 1 < t then [arySAT] else [])

theorem stepInt_eq (a b : List Int) (c : Option Int) : stepInt a b c = saturated (intTotal a b c) := by
  unfold stepInt saturated
  rw [foldl_add_mul_eq, ← intTotal]
  generalize intTotal a b c = t
  dsimp only
  split
  · next h => rw [if_pos (.inr h), min_eq_left (by omega), max_eq_right (by norm_num)]
  · next h =>
    split
    · next h' => rw [if_pos (.inl h'), min_eq_right (by omega), max_eq_left (by omega)]
    · next h' => rw [if_neg (by omega), min_eq_right (by omega), max_eq_right (by omega)]

/-- Elements of an operand in an integer mode. -/
def intElems (m : AryMode) (bs : List Byte) : List Int := if m = .int8 then int8s bs else nibbles bs

/-- The exact total of column c of an integer step. -/
def columnTotal (m : AryMode) (acc : Bool) (a b old : List Byte) (c : Nat) : Int :=
  intTotal (intElems m a) (intElems m ((b.drop (4096 * c)).take 4096))
    (if acc then some (sext 32 (leAt old (4 * c) 4)) else none)

theorem stepRow_of_int {m : AryMode} (hm : m = .int8 ∨ m = .int4) (acc : Bool) (a b old : List Byte) :
    stepRow m acc a b old =
      ((List.range 32).flatMap fun c => leBytes 4 (wrapNat 32 (saturated (columnTotal m acc a b old c)).1),
        (List.range 32).flatMap fun c => (saturated (columnTotal m acc a b old c)).2) := by
  obtain rfl | rfl := hm <;>
    simp only [stepRow, List.flatMap_map, stepInt_eq, columnTotal, intElems, if_true, reduceCtorEq, if_false]

theorem mem_flatMap_saturated (t : Nat → Int) (l : List Nat) (k : Nat) :
    k ∈ (l.flatMap fun c => (saturated (t c)).2) ↔ k = arySAT ∧ ∃ c ∈ l, t c < -2 ^ 31 ∨ 2 ^ 31 - 1 < t c := by
  simp only [List.mem_flatMap, saturated]
  constructor
  · rintro ⟨c, hc, hk⟩
    split at hk
    · next hout => exact ⟨List.mem_singleton.mp hk, c, hc, hout⟩
    · exact absurd hk List.not_mem_nil
  · rintro ⟨rfl, c, hc, hout⟩
    exact ⟨c, hc, by rw [if_pos hout]; exact List.mem_singleton_self _⟩

/-- What the landing of a defined step leaves in its row, `len` bytes from `a` up, and in the events register of its
array. -/
theorem landRow_of_defined_row {n : ArrayId} {f : FlyStep} {s : State} (hfree : f.free = false)
    (hundef : (s.arr n.val).su.undef (f.due - latRowAcc) = false) {a len : Nat}
    (ha : 128 * (f.mode.units f.row).1 = a) (hlen : 128 * (f.mode.units f.row).2 = len) :
    let r := stepRow f.mode f.acc f.a f.b ((s.arr n.val).acc.readN a len)
    ((landRow n f s).arr n.val).acc.readN a len = r.1
      ∧ ∀ k, k < 64 → bitOf ((landRow n f s).evBits (srcAry n.val)) k
        = (bitOf (s.evBits (srcAry n.val)) k || r.2.contains k) := by
  subst ha hlen
  obtain ⟨l, hl⟩ := landRow_arr_of_defined hfree hundef n.val
  rw [if_pos rfl] at hl
  refine ⟨?_, fun k hk => ?_⟩
  · rw [hl]
    exact withRow_readN f _
  · rw [landRow_of_defined hfree hundef]
    exact (raiseAll_ev (srcAry n.val) _ (rowWritten n f s)).2 k hk

/-- Settles O9: each column is `saturated` of its exact total, and SAT is its only flag. -/
theorem integerStepsSaturateOnce : Obligations.IntegerStepsSaturateOnce := by
  unfold Obligations.IntegerStepsSaturateOnce
  intro n s f rest hp hfly hfree hundef hm hdue vals total
  have hunits : f.mode.units f.row = (f.row, 1) := by obtain h | h := hm <;> rw [h] <;> rfl
  obtain ⟨hrow, hflags⟩ := landRow_of_defined_row (a := 128 * f.row) (len := 128) hfree hundef
    (congrArg (128 * Prod.fst ·) hunits) (congrArg (128 * Prod.snd ·) hunits)
  rw [stepRow_of_int hm] at hrow hflags
  have htotal (c : Nat) : columnTotal f.mode f.acc f.a f.b ((s.arr n.val).acc.readN (128 * f.row) 128) c = total c := by
    simp only [columnTotal, intTotal, total, vals, intElems]
    congr 1
    cases f.acc <;> rfl
  refine ⟨_, exec_accumulatorRowWrite_of_due hp hfly hdue, fun c hc => ?_, ?_, fun k hk hsat => ?_⟩
  · rw [hrow, leAt_flatMap_leBytes _ _ _ _ (by simpa using hc), List.getElem_range, htotal,
      Nat.mod_eq_of_lt (b := 256 ^ 4) (wrapNat_lt 32 _)]
    exact sext_wrapNat_32 (le_max_left _ _) (max_le (by norm_num) (min_le_left _ _))
  · rw [hflags arySAT (by decide), Bool.or_eq_true, List.contains_iff_mem, mem_flatMap_saturated]
    simp only [htotal, List.mem_range, true_and]
  · rw [hflags k hk, Bool.or_eq_left_iff_imp, List.contains_iff_mem, mem_flatMap_saturated]
    exact fun h => absurd h.1 hsat

/-! ## Cascade steps (R68) -/

theorem stepCascade_eq (a b : List Int) (c : Option Int) :
    stepCascade a b c = c.getD 0 + (List.zipWith (· * ·) a b).sum := foldl_add_mul_eq a b _

/-- The S11 digits of a packed operand. -/
def digits (bs : List Byte) : List Int := (unpackSlots 1024 bs).map (sext 11)

/-- Column c of a Cascade step before it is cut to 64 bits. -/
def cascadeTotal (acc : Bool) (a b old : List Byte) (c : Nat) : Int :=
  (if acc then (leAt old (8 * c) 8 : Int) else 0) + (List.zipWith (· * ·) (digits a) (digits (b.drop (3072 * c)))).sum

/-- A Cascade step writes its totals modulo 2^64, whether the former value counts as signed or not, and sets no flag. -/
theorem stepRow_cascade (acc : Bool) (a b old : List Byte) : stepRow .cascade acc a b old =
    ((List.range 32).flatMap fun c => leBytes 8 (wrapNat 64 (cascadeTotal acc a b old c)), []) := by
  have hcol (c : Nat) : wrapNat 64 (stepCascade (digits a) (digits (b.drop (3072 * c)))
      (if acc then some (sext 64 (leAt old (8 * c) 8)) else none)) = wrapNat 64 (cascadeTotal acc a b old c) := by
    apply wrapNat_congr
    rw [stepCascade_eq, cascadeTotal]
    cases acc
    · rfl
    · exact Int.ModEq.add_right _ (sext_emod 64 _)
  simp only [← hcol]
  rfl

theorem natAbs_sext_11_le (x : Nat) : (sext 11 x).natAbs ≤ 2 ^ 10 := by
  unfold sext
  dsimp only
  split <;> omega

theorem natAbs_digit_mul_le (x y : Nat) : (sext 11 x * sext 11 y).natAbs ≤ 2 ^ 20 := by
  rw [Int.natAbs_mul]
  exact (Nat.mul_le_mul (natAbs_sext_11_le x) (natAbs_sext_11_le y)).trans_eq (by norm_num)

theorem natAbs_sum_digit_mul_le (ps : List (Nat × Nat)) :
    (ps.map fun p => sext 11 p.1 * sext 11 p.2).sum.natAbs ≤ ps.length * 2 ^ 20 := by
  induction ps with
  | nil => simp
  | cons p ps ih =>
    have := natAbs_digit_mul_le p.1 p.2
    rw [List.map_cons, List.sum_cons, List.length_cons]
    omega

/-- Settles O10: a Cascade row is `cascadeTotal` modulo 2^64, and digits of 11 bits bound its products. -/
theorem cascadeStepsAddExactly : Obligations.CascadeStepsAddExactly := by
  unfold Obligations.CascadeStepsAddExactly
  refine ⟨?row, natAbs_digit_mul_le, fun ps hlen => ?bound⟩
  case row =>
    intro n s f rest hp hfly hfree hundef hm hdue digits
    obtain ⟨hrow, -⟩ := landRow_of_defined_row (a := 256 * f.row) (len := 256) hfree hundef
      (by rw [hm, AryMode.units, if_pos rfl]; omega) (by rw [hm]; rfl)
    have hnoFlags : (stepResult f (s.arr n.val)).2 = [] := by rw [stepResult, hm]; rfl
    rw [hm, stepRow_cascade] at hrow
    refine ⟨_, exec_accumulatorRowWrite_of_due hp hfly hdue, ?_, fun c hc => ?_⟩
    · rw [landRow_of_defined hfree hundef, hnoFlags]
      exact rowWritten_events n f s
    · rw [hrow, leAt_flatMap_leBytes _ _ _ _ (by simpa using hc), List.getElem_range]
      exact Nat.mod_eq_of_lt (wrapNat_lt 64 _)
  case bound =>
    have := natAbs_sum_digit_mul_le ps
    omega

end Sys2Proof.Machine
end

section
/-! Proofs about the F19 step (spec 03 R64): its terms are looked at in no order, and O8. -/

namespace Sys2Proof.Machine

theorem maxExp_perm {ts us : List Term} (h : ts.Perm us) : maxExp ts = maxExp us := by
  unfold maxExp
  refine h.foldl_eq' (fun x _ y _ z => ?_) none
  cases termExp x <;> cases termExp y <;> cases z <;> simp [max_comm, max_left_comm]

/-- The exact total of the window parts, in any order. -/
theorem foldl_add_fst_perm {ps qs : List (Int × Bool)} (h : ps.Perm qs) :
    ps.foldl (fun acc p => acc + p.1) 0 = qs.foldl (fun acc p => acc + p.1) 0 :=
  h.foldl_eq' (fun x _ y _ z => by ring) 0

/-- The result of a column depends on its terms alone, not on their order. -/
theorem sumTerms_perm {ts us : List Term} (h : ts.Perm us) : sumTerms ts = sumTerms us := by
  have htotal (w : Int) := foldl_add_fst_perm (h.map (windowPart w))
  have hinexact (w : Int) : (ts.map (windowPart w)).any (·.2) = (us.map (windowPart w)).any (·.2) :=
    (h.map (windowPart w)).any_eq
  unfold sumTerms
  simp only [maxExp_perm h, h.any_eq, h.all_eq, htotal, hinexact]

/-- The products of a step, each with the flags it sets. -/
def products (ps : List (Nat × Nat)) : List (Term × List Nat) :=
  ps.map fun p => productTerm (decodeF .f19 p.1) (decodeF .f19 p.2)

/-- The accumulator's term. -/
def accTerm : Option Nat → List Term
  | none => []
  | some x => [decodeF .fp32 x]

theorem stepF19_eq (ps : List (Nat × Nat)) (c : Option Nat) :
    stepF19 (ps.map Prod.fst) (ps.map Prod.snd) c =
      ((sumTerms ((products ps).map Prod.fst ++ accTerm c)).1,
        (products ps).flatMap Prod.snd ++ (sumTerms ((products ps).map Prod.fst ++ accTerm c)).2) := by
  have hzip : (ps.map Prod.fst).zip (ps.map Prod.snd) = ps := by
    rw [← List.unzip_fst, ← List.unzip_snd, List.zip_unzip]
  unfold stepF19
  rw [hzip]
  cases c <;> rfl

/-- Settles O8: terms and product flags of a permuted list are permuted, and `sumTerms` does not see the order. -/
theorem stepOrderDoesNotMatter : Obligations.StepOrderDoesNotMatter := by
  unfold Obligations.StepOrderDoesNotMatter
  intro ps qs c h
  have hproducts : (products ps).Perm (products qs) := h.map _
  have hsum := sumTerms_perm ((hproducts.map Prod.fst).append_right (accTerm c))
  rw [stepF19_eq, stepF19_eq, hsum]
  refine ⟨rfl, fun k => ?_⟩
  simp only [List.mem_append, (hproducts.flatMap_right Prod.snd).mem_iff]

end Sys2Proof.Machine
end

section
/-! Proofs about the cycles of a matrix array (spec 03 R58, R69, R70, R73, 04 R86, R87): what a cycle finds done, the cycle
withheld, the bundle refused and the step issued, and O5, O6 and O7. -/

namespace Sys2Proof.Machine

/-! ## A cycle that is withheld (R69, R70) -/

theorem exec_withheldCycle {n : ArrayId} {s : State} (hp : powered s = true)
    (hissuing : (dutyBoundary (s.arr n.val)).su.issuing = true)
    (hpos : issuingCycle (dutyBoundary (s.arr n.val)).duty (dutyBoundary (s.arr n.val)).pos = false) :
    exec (.withheldCycle n) s = .next (passCycle n (count (aryWithheldCount n.val) 1 (openCycle n s))) :=
  congrArg Host.Outcome.next (if_pos (by simp [hp, hissuing, hpos]))

theorem issuing_of_running {u : StreamUnit} (hrun : u.status = .running) (hmore : u.lastIssued = false) :
    u.issuing = true := by
  simp [StreamUnit.issuing, hrun, hmore]

theorem passCycle_arr_self (n : ArrayId) (s : State) :
    (passCycle n s).arr n.val = { s.arr n.val with pos := ((s.arr n.val).pos + 1) % 64 } := State.arr_modArr_self ..

theorem passCycle_fields (n : ArrayId) (s : State) : (passCycle n s).counters = s.counters
    ∧ (passCycle n s).outbox = s.outbox ∧ (passCycle n s).queues = s.queues
    ∧ (∀ k, (passCycle n s).ctr k = s.ctr k) ∧ ∀ m, m ≠ n.val → (passCycle n s).arr m = s.arr m :=
  ⟨rfl, rfl, rfl, fun _ => rfl, fun _ hm => State.arr_modArr_other _ _ _ _ hm⟩

/-- Settles O5: the beginning of the cycle changes semaphores alone (`openCycle_arr`), and the rest is one position and
one count. -/
theorem withheldCycleAdvancesNothing : Obligations.WithheldCycleAdvancesNothing := by
  unfold Obligations.WithheldCycleAdvancesNothing
  intro n s x hp hrun hmore hpos
  obtain ⟨⟨sems, incs, semIn, hself⟩, hothers, hctr, houtbox, hqueues⟩ := openCycle_arr n s
  obtain ⟨-, houtbox', hqueues', hctr', hothers'⟩ := passCycle_fields n (count (aryWithheldCount n.val) 1 (openCycle n s))
  have hcounted (k : Nat) : (count (aryWithheldCount n.val) 1 (openCycle n s)).ctr k
      = if k = aryWithheldCount n.val then w64 (min ((s.ctr (aryWithheldCount n.val)).toNat + 1) (2 ^ 64 - 1))
        else s.ctr k := by
    rw [ctr_count]
    simp only [State.ctr, hctr]
  refine ⟨_, exec_withheldCycle hp (issuing_of_running hrun hmore) hpos, ?_⟩
  dsimp only
  simp only [passCycle_arr_self, count_fields, hself, hctr', houtbox', hqueues', houtbox, hqueues]
  refine ⟨rfl, rfl, by rw [hcounted, if_pos rfl], fun k hk => by rw [hcounted, if_neg hk], rfl, rfl, rfl, hrun, rfl, rfl,
    rfl, rfl, rfl, rfl, rfl, fun m hm => ?_, trivial, trivial⟩
  rw [hothers' m hm]
  simp only [count_fields, hothers m hm]

/-! ## An issuing cycle (04 R86) -/

/-- The running stream m of array n issues in this cycle, and no other member of its group holds at a group wait. -/
structure IssuesIn (n : ArrayId) (m : Strm) (s : State) : Prop where
  hasPower : powered s = true
  alone : NoneHolds (.arr n) s
  current : (dutyBoundary (s.arr n.val)).su.cur = some m
  running : (dutyBoundary (s.arr n.val)).su.status = .running
  more : (dutyBoundary (s.arr n.val)).su.lastIssued = false
  position : issuingCycle (dutyBoundary (s.arr n.val)).duty (dutyBoundary (s.arr n.val)).pos = true

/-- The state once the rows and preloads due are done; kept closed, for it is long to unfold. -/
@[irreducible] def settled (n : ArrayId) (s : State) : State := settleArray n (openCycle n s)

theorem settled_def (n : ArrayId) (s : State) : settleArray n (openCycle n s) = settled n s := by rw [settled]

theorem State.unit_arr (s : State) (n : ArrayId) : s.unit (.arr n) = (s.arr n.val).su := rfl

/-- The bundle in which stream m stands. -/
def presentBundle (n : ArrayId) (m : Strm) (s : State) : Bundle := Bundle.ofWord (m.bundles.getD (s.arr n.val).su.idx 0)

/-- The present bundle is illegal (04 R87). -/
def presentIllegal (n : ArrayId) (m : Strm) (s : State) : Bool :=
  (presentBundle n m s).illegal m.launch.trigCount ((s.arr n.val).su.idx + 1 == m.launch.bundleCount)

/-- What a cycle finds done leaves the stream where it was. -/
theorem settled_su (n : ArrayId) (s : State) : ∃ a b c l, ((settled n s).arr n.val).su
    = { (dutyBoundary (s.arr n.val)).su with sems := a, incs := b, semIn := c, touched := l } := by
  obtain ⟨⟨a, b, c, hopen⟩, -⟩ := openCycle_arr n s
  obtain ⟨l, hl⟩ := settle_su n (openCycle n s)
  exact ⟨a, b, c, l, by rw [settled, hl, hopen]⟩

theorem settled_current {n : ArrayId} {m : Strm} {s : State} (h : IssuesIn n m s) :
    ((settled n s).arr n.val).su.cur = some m ∧ ((settled n s).arr n.val).su.status = .running := by
  obtain ⟨a, b, c, l, hsu⟩ := settled_su n s
  rw [hsu]
  exact ⟨h.current, h.running⟩

/-- Where nobody else holds at a group wait, the edge is the issuing engine's alone (04 R99). -/
theorem issueTogether_of_noneHolds {e : StreamEng} {s : State} (h : NoneHolds e s) : issueTogether e s = issueOf e s := by
  have hnone : ((maskMembers e (s.unit e).lockMask).filter fun x => x != e && (s.unit x).inGroup
      && (s.unit x).lockMask == (s.unit e).lockMask && (s.unit x).status == .running && (s.unit x).holding == .groupWait
      && cyclePos x s == (cyclePos e s + 1) % 64) = [] := by
    rw [List.filter_eq_nil_iff]
    intro x hx hheld
    simp only [Bool.and_eq_true, bne_iff_ne, beq_iff_eq] at hheld
    obtain ⟨⟨⟨⟨⟨hne, -⟩, -⟩, -⟩, hholding⟩, -⟩ := hheld
    exact h x hx hne hholding
  unfold issueTogether
  simp only [hnone, List.filter_nil, List.foldl_nil]

theorem exec_bundleIssue {n : ArrayId} {m : Strm} {s : State} (h : IssuesIn n m s) :
    exec (.bundleIssue n) s = .next (bundleIssue n s) :=
  congrArg Host.Outcome.next ((clocked_of_powered h.hasPower _).trans (issueTogether_of_noneHolds h.alone))

section
variable {n : ArrayId} {m : Strm} {s : State} (h : IssuesIn n m s)
include h

/-- The first cycle of an illegal bundle halts the stream (04 R87). -/
theorem bundleIssue_of_illegal (hrep : ((settled n s).arr n.val).su.rep = 0) (hbad : presentIllegal n m (settled n s) = true) :
    bundleIssue n s = haltStream (.arr n) causeIllegal stQueueHalted qcEngineHalted (settled n s) := by
  unfold bundleIssue
  simp only [h.current, settled_def, State.unit_arr]
  rw [if_neg (by simp [issuing_of_running h.running h.more, h.position])]
  exact if_pos ⟨hrep, hbad⟩

/-- So does that of a legal one of an integer mode, on an array without integer modes (R73). -/
theorem bundleIssue_of_mode_missing (hrep : ((settled n s).arr n.val).su.rep = 0)
    (hlegal : presentIllegal n m (settled n s) = false) (hint : (presentBundle n m (settled n s)).mode.isInt = true)
    (hlacks : intCapable n = false) :
    bundleIssue n s = haltStream (.arr n) causeMode stQueueHalted qcEngineHalted (settled n s) := by
  unfold bundleIssue
  simp only [h.current, settled_def, State.unit_arr]
  rw [if_neg (by simp [issuing_of_running h.running h.more, h.position])]
  exact (if_neg fun hc => Bool.eq_false_iff.mp hlegal hc.2).trans (if_pos ⟨hrep, hint, by simp [hlacks]⟩)

/-- A legal bundle whose wait, if any, has passed runs its cycle. -/
theorem bundleIssue_of_legal (hlegal : presentIllegal n m (settled n s) = false)
    (hmode : (presentBundle n m (settled n s)).mode.isInt = true → intCapable n = true)
    (hwait : (presentBundle n m (settled n s)).waitEn = false ∨ ((settled n s).arr n.val).su.waitPassed = true
      ∨ ((settled n s).arr n.val).su.rep ≠ 0) :
    bundleIssue n s = runCycle n m (presentBundle n m (settled n s)) (settled n s) := by
  unfold bundleIssue
  simp only [h.current, settled_def, State.unit_arr]
  rw [if_neg (by simp [issuing_of_running h.running h.more, h.position])]
  refine (if_neg fun hc => Bool.eq_false_iff.mp hlegal hc.2).trans ((if_neg fun hc => ?_).trans (if_neg fun hc => ?_))
  · exact absurd (hmode hc.2.1) (by simpa using hc.2.2)
  · obtain ⟨hrep, hen, hpassed⟩ := hc
    obtain hoff | hdone | hlater := hwait
    · exact Bool.eq_false_iff.mp hoff hen
    · exact absurd hdone (by simpa using hpassed)
    · exact hlater hrep

end

/-! ## A bundle that is refused (R73, 04 R85, R87) -/

/-- Settles O7: both refusals are `haltStream`, which keeps stores and pipeline (`haltStream_arr`). -/
theorem illegalBundleHaltsTheStream : Obligations.IllegalBundleHaltsTheStream := by
  unfold Obligations.IllegalBundleHaltsTheStream
  intro n s m
  rw [settled_def]
  intro x y b bad hp hnone hcur hrun hmore hpos hrep hcase
  have h : IssuesIn n m s := ⟨hp, hnone, hcur, hrun, hmore, hpos⟩
  have halts : bundleIssue n s
      = haltStream (.arr n) (if bad then 1 else 2) stQueueHalted qcEngineHalted (settled n s) := by
    cases hbad : bad with
    | true => exact bundleIssue_of_illegal h hrep hbad
    | false =>
      obtain hb | ⟨hint, hlacks⟩ := hcase
      · exact absurd hb (by simp [hbad])
      · exact bundleIssue_of_mode_missing h hrep hbad hint hlacks
  obtain ⟨aligned, harr⟩ := haltStream_arr n m (if bad then 1 else 2) stQueueHalted qcEngineHalted (settled n s)
    (settled_current h).1
  refine ⟨_, exec_bundleIssue h, ?_⟩
  dsimp only
  rw [halts, harr]
  exact ⟨rfl, rfl, rfl, rfl, rfl, rfl, rfl, rfl, rfl⟩

end Sys2Proof.Machine
end

section
/-! Proofs about the step that an array issues (spec 03 R58, 04 R86): the bundle's opening, the step in the pipeline, the
stream's advance, and O6. -/

namespace Sys2Proof.Machine

/-! ## A cycle that carries its step alone -/

/-- Repeat i of the bundle carries no trigger, signal, preload or phase tag; these stand in a bundle's first cycle. -/
def Bundle.carriesNoMore (b : Bundle) (i : Nat) : Prop :=
  i ≠ 0 ∨ (b.trigEn = false ∧ b.sigEn = false ∧ b.preEn = false ∧ b.phaseEn = false)

theorem Bundle.carriesNoMore_flags {b : Bundle} {i : Nat} (h : b.carriesNoMore i) : (b.trigEn && i == 0) = false
    ∧ (b.sigEn && i == 0) = false ∧ (b.preEn && i == 0) = false ∧ (b.phaseEn && i == 0) = false := by
  obtain hi | ⟨htrig, hsig, hpre, hphase⟩ := h
  · simp [hi]
  · simp [htrig, hsig, hpre, hphase]

/-- A bundle whose locations nobody outside has written is remembered, and no more (01 R23). -/
theorem openBundle_of_unraced {n : ArrayId} {ts : List (Nat × Nat)} {s : State}
    (h : ((s.arr n.val).su.raced.any fun r => ts.any fun t => overlap r.1 r.2 t.1 t.2) = false) :
    (openBundle n ts s).counters = s.counters ∧ ∃ r, (openBundle n ts s).arr n.val
      = { s.arr n.val with su := { (s.arr n.val).su with ran := r } } := by
  unfold openBundle
  simp only [State.unit_arr, h, Bool.false_eq_true, if_false, State.modUnit, State.arr_modArr_self]
  exact ⟨rfl, _, rfl⟩

/-- The state in which a cycle's actions begin: a bundle's first cycle opens it. -/
def cycleOpened (n : ArrayId) (b : Bundle) (i : Nat) (s : State) : State :=
  if i = 0 then openBundle n (bundleTouches b none ((s.arr n.val).mode == .cascade)) s else s

theorem cycleOpened_of_unraced {n : ArrayId} {b : Bundle} {i : Nat} {s : State}
    (h : i = 0 → ((s.arr n.val).su.raced.any fun r => (bundleTouches b none ((s.arr n.val).mode == .cascade)).any fun t =>
      overlap r.1 r.2 t.1 t.2) = false) :
    (cycleOpened n b i s).counters = s.counters ∧ ∃ r, (cycleOpened n b i s).arr n.val
      = { s.arr n.val with su := { (s.arr n.val).su with ran := r } } := by
  unfold cycleOpened
  split
  · next hi => exact openBundle_of_unraced (h hi)
  · exact ⟨rfl, _, rfl⟩

/-- A cycle that meets no hazard and carries its step alone opens the bundle and acts. -/
theorem runCycle_of_clean {n : ArrayId} {m : Strm} {b : Bundle} {s : State} (hmore : b.carriesNoMore (s.arr n.val).su.rep)
    (hhazards : hazards (s.arr n.val) b (s.arr n.val).su.rep (s.arr n.val).su.cycle none = []) :
    runCycle n m b s = cycleActions n b (s.arr n.val).su.rep none (cycleOpened n b (s.arr n.val).su.rep s) := by
  obtain ⟨htrig, -, -, hphase⟩ := b.carriesNoMore_flags hmore
  unfold runCycle cycleOpened
  simp only [State.unit_arr, htrig, hphase, hhazards, Bool.false_eq_true, if_false, Option.isSome_none, false_and]

/-! ## The step in the pipeline (R58) -/

/-- The step that repeat i of the bundle issues. -/
def stepOf (b : Bundle) (i : Nat) (x : AryState) : FlyStep :=
  ⟨x.su.cycle + latRowAcc, b.accRow + i, b.mode, b.acc, tileBytesOf x (b.aAddr + i * b.aStride) b.mode.rowSectors,
    (x.buf b.buf).data, x.su.undef x.su.cycle⟩

/-- A step that meets no poison enters the pipeline and counts; only the mode and the marks of the contract move beside. -/
theorem issueStep_of_clean {n : ArrayId} {b : Bundle} {i : Nat} {s : State}
    (htile : tilePoisoned (s.arr n.val) (b.aAddr + i * b.aStride) b.mode.rowSectors = false)
    (hbuf : ((s.arr n.val).buf b.buf).poisoned = false) : ∃ hist, issueStep n b i s
      = (false, count (aryStepCount n.val) 1 (s.modArr n.val fun x => { x with
          fly := x.fly ++ [stepOf b i (s.arr n.val)], mode := b.mode, lastBuf := b.buf, hist := hist })) := by
  unfold issueStep
  simp only [htile, hbuf, Bool.or_self, Bool.false_eq_true, if_false]
  exact ⟨_, rfl⟩

/-! ## The stream's advance (04 R102) -/

/-- The stream unit after a cycle of a bundle that is not the last: the next repeat, or the next bundle. -/
def StreamUnit.advanced (repeats : Nat) (u : StreamUnit) : StreamUnit :=
  if u.rep < repeats then { u with cycle := u.cycle + 1, holding := .none, rep := u.rep + 1 }
  else { u with cycle := u.cycle + 1, holding := .none, idx := u.idx + 1, rep := 0, waitPassed := false }

theorem StreamUnit.advanced_place (repeats : Nat) (u : StreamUnit) : (u.advanced repeats).cycle = u.cycle + 1
    ∧ (u.advanced repeats).status = u.status ∧ ((u.advanced repeats).idx, (u.advanced repeats).rep)
      = if u.rep < repeats then (u.idx, u.rep + 1) else (u.idx + 1, 0) := by
  unfold StreamUnit.advanced
  split <;> exact ⟨rfl, rfl, rfl⟩

theorem advanceStream_of_not_last {n : ArrayId} {b : Bundle} (s : State) (hlast : b.last = false) :
    (advanceStream n b s).counters = s.counters ∧ (advanceStream n b s).arr n.val = { s.arr n.val with
      pos := ((s.arr n.val).pos + 1) % 64, su := (s.arr n.val).su.advanced b.rep } := by
  unfold advanceStream StreamUnit.advanced
  dsimp only
  generalize hmarked : (if (s.unit (.arr n)).cycle + 1 = 2 ^ 64 - 1 then raiseEv (srcAryStream n.val) 3 s else s) = s0
  obtain ⟨hctr, harr⟩ : s0.counters = s.counters ∧ s0.arr n.val = s.arr n.val := by rw [← hmarked]; split <;> simp
  simp only [State.unit_arr, hlast, Bool.false_eq_true, if_false]
  split <;> exact ⟨hctr, by simp only [State.modUnit, State.arr_modArr_self, passCycle_arr_self, harr]⟩

/-- A cycle that carries its step alone, and meets no poison: the step enters the pipeline and the stream moves on. -/
theorem cycleActions_of_step {n : ArrayId} {b : Bundle} {i : Nat} {s : State} (hstep : b.stepEn = true)
    (hmore : b.carriesNoMore i) (hlast : b.last = false)
    (htile : tilePoisoned (s.arr n.val) (b.aAddr + i * b.aStride) b.mode.rowSectors = false)
    (hbuf : ((s.arr n.val).buf b.buf).poisoned = false) :
    (cycleActions n b i none s).ctr (aryStepCount n.val)
        = w64 (min ((s.ctr (aryStepCount n.val)).toNat + 1) (2 ^ 64 - 1))
      ∧ ∃ hist, (cycleActions n b i none s).arr n.val = { s.arr n.val with
        fly := (s.arr n.val).fly ++ [stepOf b i (s.arr n.val)], mode := b.mode, lastBuf := b.buf, hist := hist
        pos := ((s.arr n.val).pos + 1) % 64, su := (s.arr n.val).su.advanced b.rep } := by
  obtain ⟨-, hsig, hpre, -⟩ := b.carriesNoMore_flags hmore
  obtain ⟨hist, hissue⟩ := issueStep_of_clean htile hbuf
  unfold cycleActions
  simp only [hsig, hpre, hstep, hissue, Bool.false_eq_true, if_false, if_true]
  obtain ⟨hctr, harr⟩ := advanceStream_of_not_last (n := n) (count (aryStepCount n.val) 1 (s.modArr n.val fun x => { x with
    fly := x.fly ++ [stepOf b i (s.arr n.val)], mode := b.mode, lastBuf := b.buf, hist := hist })) hlast
  refine ⟨?_, hist, ?_⟩
  · rw [State.ctr, hctr, ← State.ctr, ctr_count, if_pos rfl]
    rfl
  · rw [harr]
    simp only [count_fields, State.arr_modArr_self]

/-- Settles O6: nothing keeps the cycle from issuing (`bundleIssue_of_legal`, `runCycle_of_clean`), and what it then does
is the one step (`cycleActions_of_step`). -/
theorem bundleIssueIssuesItsStep : Obligations.BundleIssueIssuesItsStep := by
  unfold Obligations.BundleIssueIssuesItsStep
  intro n s m
  rw [settled_def]
  intro x y b hp hnone hcur hrun hmore hpos hlegal hmode hwait hstep hcarries hhazards hunraced htile hbuf hlast
  have h : IssuesIn n m s := ⟨hp, hnone, hcur, hrun, hmore, hpos⟩
  have hissue : bundleIssue n s = cycleActions n b y.su.rep none (cycleOpened n b y.su.rep (settled n s)) :=
    (bundleIssue_of_legal h hlegal hmode hwait).trans (runCycle_of_clean hcarries hhazards)
  obtain ⟨hctr, ran, hopened⟩ := cycleOpened_of_unraced hunraced
  have hopened' : (cycleOpened n b y.su.rep (settled n s)).arr n.val = { y with su := { y.su with ran := ran } } := hopened
  obtain ⟨hcount, hist, harr⟩ := cycleActions_of_step (n := n) (i := y.su.rep)
    (s := cycleOpened n b y.su.rep (settled n s)) hstep hcarries hlast (by rw [hopened']; exact htile)
    (by rw [hopened']; exact hbuf)
  rw [hopened'] at harr
  obtain ⟨hcycle, hstatus, hplace⟩ := StreamUnit.advanced_place b.rep { y.su with ran := ran }
  refine ⟨_, exec_bundleIssue h, ?_⟩
  dsimp only
  rw [hissue, harr]
  refine ⟨rfl, rfl, hcycle, rfl, hplace, ?_, rfl, rfl, rfl, hstatus.trans (settled_current h).2⟩
  rw [hcount, State.ctr, hctr]
  rfl

end Sys2Proof.Machine
end

section
/-! Proofs about lock groups and waits (spec 04 R94, R97-R99): the members of a group, what a list of engines does one
after the other, the group's start, the waits that pass, and O12. -/

namespace Sys2Proof.Machine

/-! ## Engines that act one after the other -/

/-- Where each engine of a list without repeats acts on its own unit alone, its unit is acted on once. -/
theorem foldl_unit_of_nodup {f : State → StreamEng → State} {g : StreamUnit → StreamUnit}
    (h : ∀ s e x, (f s e).unit x = if x = e then g (s.unit e) else s.unit x) (x : StreamEng) :
    ∀ (l : List StreamEng) (s : State), l.Nodup → (l.foldl f s).unit x = if x ∈ l then g (s.unit x) else s.unit x
  | [], _, _ => rfl
  | e :: l, s, hnodup => by
    obtain ⟨hnot, hrest⟩ := List.nodup_cons.mp hnodup
    rw [List.foldl_cons, foldl_unit_of_nodup h x l _ hrest, h]
    by_cases hx : x = e
    · subst hx
      simp [hnot]
    · simp [hx]

/-- What an engine's turn brings about, and no other turn undoes, holds once the list is through. -/
theorem foldl_of_mem {P : State → Prop} {f : State → StreamEng → State} {x : StreamEng} (hset : ∀ s, P (f s x))
    (hkeep : ∀ s y, P s → P (f s y)) {l : List StreamEng} (hx : x ∈ l) (s : State) : P (l.foldl f s) := by
  obtain ⟨before, after, rfl⟩ := List.append_of_mem hx
  rw [List.foldl_append, List.foldl_cons]
  exact List.foldlRecOn after f (hset _) fun t ht y _ => hkeep t y ht

/-- A stream unit stands in its array or vector engine. -/
theorem State.unit_congr {s t : State} (ha : t.arrays = s.arrays) (hv : t.vecs = s.vecs) (e : StreamEng) :
    t.unit e = s.unit e := by
  cases e <;> simp only [State.unit, State.arr, State.vec, ha, hv]

/-- An event raised for an engine of a list reads as set. -/
theorem foldl_raiseEv_bit {x : StreamEng} {l : List StreamEng} (hx : x ∈ l) {k : Nat} (hk : k < 64) (s : State) :
    bitOf ((l.foldl (fun s x => raiseEv (streamSrc x) k s) s).evBits (streamSrc x)) k = true :=
  foldl_of_mem (P := fun s => bitOf (s.evBits (streamSrc x)) k = true)
    (fun s => by rw [raiseEv_bit _ _ _ _ _ hk]; simp) (fun s y => raiseEv_eventsStand (streamSrc y) k s (streamSrc x) k) hx s

/-! ## The start of a lock group (R97) -/

theorem allEngines_nodup : allEngines.Nodup := by decide

theorem maskMembers_nodup (e : StreamEng) (mask : BitVec 32) : (maskMembers e mask).Nodup := by
  unfold maskMembers
  split
  · exact List.nodup_singleton e
  · exact allEngines_nodup.filter _

/-- The members of the group in which engine e's launch l starts. -/
def lockGroupOf (e : StreamEng) (l : Launch) : List StreamEng := maskMembers e (ownMask e l.lockMask)

/-- The group's start time S, and whether it is late. -/
def lockStartOf (e : StreamEng) (l : Launch) (s : State) : Nat × Bool :=
  groupStart (lockGroupOf e l).length l.startTime (((lockGroupOf e l).map fun x => (s.unit x).readyAt.getD 0).foldl max 0)

/-- The state in which every member has started. -/
def membersStarted (e : StreamEng) (l : Launch) (s : State) : State :=
  (lockGroupOf e l).foldl (fun t x =>
    startMember (lockStartOf e l s).1 (startDuty (lockGroupOf e l) s) (decide (1 < (lockGroupOf e l).length)) x t) s

theorem membersStarted_unit {e x : StreamEng} {l : Launch} (hx : x ∈ lockGroupOf e l) (s : State) :
    (membersStarted e l s).unit x = beginUnit (lockStartOf e l s).1 (decide (1 < (lockGroupOf e l).length)) (s.unit x) :=
  (foldl_unit_of_nodup (fun t y x => startMember_unit _ _ _ y x t) x _ s (maskMembers_nodup _ _)).trans (if_pos hx)

/-- Engine e holds launch l, every member of its group is ready, and S has come. -/
structure GroupDue (e : StreamEng) (l : Launch) (s : State) : Prop where
  current : curLaunch (s.unit e) = some l
  ready : ∀ x ∈ lockGroupOf e l, memberReady (ownMask e l.lockMask) l.startTime x s = true
  come : (lockStartOf e l s).1 ≤ s.now

/-- A group that is due starts; a late one notes it, and the permit it held is used up. -/
theorem startGroup_of_due {e : StreamEng} {l : Launch} {s : State} (h : GroupDue e l s) :
    startGroup e s = (if (lockStartOf e l s).2 then
        (lockGroupOf e l).foldl (fun s x => raiseEv (streamSrc x) evLockLate s) (membersStarted e l s)
      else membersStarted e l s).modEnv fun v => { v with permits := v.permits.filter (· != ownMask e l.lockMask) } := by
  unfold startGroup
  simp only [h.current]
  exact (if_pos (List.all_eq_true.mpr h.ready)).trans (if_pos h.come)

theorem startGroup_unit {e x : StreamEng} {l : Launch} {s : State} (h : GroupDue e l s) (hx : x ∈ lockGroupOf e l) :
    (startGroup e s).unit x = beginUnit (lockStartOf e l s).1 (decide (1 < (lockGroupOf e l).length)) (s.unit x) := by
  rw [startGroup_of_due h, ← membersStarted_unit hx]
  exact State.unit_congr (by simp) (by simp) x

theorem startGroup_late {e x : StreamEng} {l : Launch} {s : State} (h : GroupDue e l s) (hx : x ∈ lockGroupOf e l)
    (hlate : (lockStartOf e l s).2 = true) : bitOf ((startGroup e s).evBits (streamSrc x)) evLockLate = true := by
  rw [startGroup_of_due h, if_pos hlate]
  exact foldl_raiseEv_bit hx (by decide) _

theorem exec_lockGroupStart {s : State} (hp : powered s = true) (e : StreamEng) :
    exec (.lockGroupStart e) s = .next (startGroup e s) :=
  congrArg Host.Outcome.next (clocked_of_powered hp _)

/-! ## Waits that pass (R94, R99) -/

theorem exec_semaphoreWaitPass {e : StreamEng} {s : State} (hp : powered s = true) (hrun : (s.unit e).status = .running)
    (hwait : (s.unit e).holding = .wait) (hsem : semOk e s = true) :
    exec (.semaphoreWaitPass e) s = .next (passWait e (waitSem (s.unit e) (isVec e)) s) :=
  congrArg Host.Outcome.next (if_pos ⟨hp, hrun, hwait, hsem⟩)

theorem exec_groupWaitRelease {s : State} (hp : powered s = true) (e : StreamEng) :
    exec (.groupWaitRelease e) s = .next (groupRelease e s) :=
  congrArg Host.Outcome.next (clocked_of_powered hp _)

/-- A member of the group of this mask that runs and holds at a group wait. -/
def holdsAtGroupWait (mask : BitVec 32) (s : State) (x : StreamEng) : Bool :=
  (s.unit x).inGroup && (s.unit x).lockMask == mask && (s.unit x).status == .running && (s.unit x).holding == .groupWait

/-- The engine's group wait passes, and the engine is aligned with its group. -/
def releaseMember (s : State) (x : StreamEng) : State :=
  (passWait x (waitSem (s.unit x) (isVec x)) s).modUnit x fun u => { u with aligned := true }

/-- The engine's wait has passed, and it is aligned with its group. -/
def Released (x : StreamEng) (s : State) : Prop :=
  (s.unit x).waitPassed = true ∧ (s.unit x).holding = .none ∧ (s.unit x).aligned = true

theorem releaseMember_released (s : State) (x : StreamEng) : Released x (releaseMember s x) := by
  obtain ⟨-, _, hpass⟩ := passWait_unit x x (waitSem (s.unit x) (isVec x)) s
  unfold Released releaseMember
  rw [State.unit_modUnit_self, hpass]
  exact ⟨rfl, rfl, rfl⟩

theorem releaseMember_keeps_released (x : StreamEng) (s : State) (y : StreamEng) (h : Released x s) :
    Released x (releaseMember s y) := by
  by_cases hx : x = y
  · exact hx ▸ releaseMember_released s x
  · obtain ⟨hother, -⟩ := passWait_unit y x (waitSem (s.unit y) (isVec y)) s
    unfold Released releaseMember
    rw [State.unit_modUnit, if_neg hx, hother hx]
    exact h

/-- Once every member has arrived, those that hold at the group wait are released. -/
theorem groupRelease_of_arrived {e : StreamEng} {s : State} (hrun : (s.unit e).status = .running)
    (hwait : (s.unit e).holding = .groupWait)
    (harrived : ∀ x ∈ maskMembers e (s.unit e).lockMask, memberArrived (s.unit e).lockMask s x = true) :
    groupRelease e s = ((maskMembers e (s.unit e).lockMask).filter (holdsAtGroupWait (s.unit e).lockMask s)).foldl
      releaseMember s :=
  (if_pos ⟨hrun, hwait⟩).trans (if_pos (List.all_eq_true.mpr harrived))

/-! ## O12 -/

/-- Settles O12: the group's start acts once on each member (`startGroup_unit`, `startGroup_late`), a wait that passes
consumes its own semaphore (`passWait_unit`), and no later release of a group wait undoes an earlier one
(`releaseMember_keeps_released`). -/
theorem streamsStartAndWaitTogether : Obligations.StreamsStartAndWaitTogether := by
  unfold Obligations.StreamsStartAndWaitTogether
  refine ⟨?start, fun e s hp => ⟨fun hrun hwait hsem => ?pass, fun hrun hwait harrived => ?release⟩⟩
  case start =>
    intro e s l mask ms g hp hcur hready hnow
    have hdue : GroupDue e l s := ⟨hcur, hready, hnow⟩
    refine ⟨_, exec_lockGroupStart hp e, fun x hx => ?_⟩
    rw [startGroup_unit hdue hx]
    exact ⟨rfl, rfl, rfl, rfl, rfl, rfl, rfl, startGroup_late hdue hx⟩
  case pass =>
    obtain ⟨-, _, hpass⟩ := passWait_unit e e (waitSem (s.unit e) (isVec e)) s
    refine ⟨_, exec_semaphoreWaitPass hp hrun hwait hsem, ?_⟩
    dsimp only
    rw [hpass]
    exact ⟨Sparse.get_set_self .., fun j hj => Sparse.get_set_other _ _ _ _ _ hj, rfl, rfl, rfl, rfl, rfl⟩
  case release =>
    refine ⟨_, exec_groupWaitRelease hp e, fun x hx hgroup hmask hxrun hxwait => ?_⟩
    rw [groupRelease_of_arrived hrun hwait harrived]
    exact foldl_of_mem (fun t => releaseMember_released t x) (releaseMember_keeps_released x)
      (List.mem_filter.mpr ⟨hx, by simp [holdsAtGroupWait, hgroup, hmask, hxrun, hxwait]⟩) s

end Sys2Proof.Machine
end

section
/-! Proofs about what launches, permits and records leave of the launches that engines hold (spec 04 R83, R84, R97,
10 R237): a unit keeps its launch, semaphores and lock mask, and stands where it stood or at its start. -/

namespace Sys2Proof.Machine

/-! ## Launches that stand -/

/-- Unit v holds the launch of unit u, with its semaphores and lock mask, and stands in u's cycle or at its start. -/
structure KeepsLaunch (u v : StreamUnit) : Prop where
  cur : v.cur = u.cur
  sems : v.sems = u.sems
  lockMask : v.lockMask = u.lockMask
  cycle : v.cycle = u.cycle ∨ v.cycle = 0

theorem KeepsLaunch.refl (u : StreamUnit) : KeepsLaunch u u := ⟨rfl, rfl, rfl, .inl rfl⟩

theorem KeepsLaunch.trans {u v w : StreamUnit} (huv : KeepsLaunch u v) (hvw : KeepsLaunch v w) : KeepsLaunch u w where
  cur := hvw.cur.trans huv.cur
  sems := hvw.sems.trans huv.sems
  lockMask := hvw.lockMask.trans huv.lockMask
  cycle := hvw.cycle.elim (fun h => huv.cycle.imp h.trans h.trans) .inr

theorem beginUnit_keepsLaunch (start : Nat) (several : Bool) (u : StreamUnit) : KeepsLaunch u (beginUnit start several u) :=
  ⟨rfl, rfl, rfl, .inr rfl⟩

/-- Every engine of s keeps its launch in t. -/
def LaunchesStand (s t : State) : Prop := ∀ e, KeepsLaunch (s.unit e) (t.unit e)

theorem LaunchesStand.refl (s : State) : LaunchesStand s s := fun e => .refl (s.unit e)

theorem LaunchesStand.trans {s t u : State} (hst : LaunchesStand s t) (htu : LaunchesStand t u) : LaunchesStand s u :=
  fun e => (hst e).trans (htu e)

theorem launchesStand_of_unit_eq {s t : State} (h : ∀ e, t.unit e = s.unit e) : LaunchesStand s t :=
  fun e => h e ▸ .refl (s.unit e)

theorem launchesStand_of_stores_eq {s t : State} (ha : t.arrays = s.arrays) (hv : t.vecs = s.vecs) : LaunchesStand s t :=
  launchesStand_of_unit_eq (State.unit_congr ha hv)

theorem launchesStand_modUnit {f : StreamUnit → StreamUnit} (e : StreamEng) (s : State)
    (h : ∀ u, KeepsLaunch u (f u) := by exact fun _ => ⟨rfl, rfl, rfl, .inl rfl⟩) : LaunchesStand s (s.modUnit e f) := by
  intro x
  rw [State.unit_modUnit]
  split
  · next hx => exact hx ▸ h (s.unit x)
  · exact .refl (s.unit x)

theorem launchesStand_foldl {β : Type} {f : State → β → State} (h : ∀ s b, LaunchesStand s (f s b)) (l : List β)
    (s : State) : LaunchesStand s (l.foldl f s) :=
  List.foldlRecOn l f (.refl s) fun t ht b _ => ht.trans (h t b)

/-! ## Writes (01 R21-R23) -/

theorem slotWriteRun_su (off : Nat) (bs : List Byte) (bad : Bool) (x : AryState) : (slotWriteRun off bs bad x).su = x.su := by
  unfold slotWriteRun
  dsimp only
  split
  · rfl
  split
  · rfl
  split <;> rfl

/-- A write through the aperture reaches an array's stores, never its stream unit. -/
theorem slotWrite_su (off : Nat) (bs : List (Byte × Bool)) (x : AryState) : (slotWrite off bs x).su = x.su := by
  have hruns : ∀ (runs : List (Nat × List Byte × Bool)) (x : AryState),
      (runs.foldl (fun x r => slotWriteRun r.1 r.2.1 r.2.2 x) x).su = x.su := fun runs x =>
    List.foldlRecOn (motive := fun y => y.su = x.su) runs _ rfl fun y hy r _ => (slotWriteRun_su r.1 r.2.1 r.2.2 y).trans hy
  exact (hruns _ _).trans (hruns _ _)

theorem physPut_unit (eng a : Nat) (bs : List (Byte × Bool)) (streaming : Bool) (tag : HoldTag) (s : State)
    (e : StreamEng) : (physPut eng a bs streaming tag s).unit e = s.unit e := by
  unfold physPut
  split
  · exact State.unit_congr (by simp) (by simp) e
  · exact State.unit_congr (by simp) (by simp) e
  · exact State.unit_modArr _ _ _ (slotWrite_su _ bs) e
  · rfl

/-- Undefined values reach stores and registers, never a stream unit. -/
theorem freshTouch_unit (n : Nat) (t : Touch) (s : State) (e : StreamEng) : (freshTouch n t s).unit e = s.unit e := by
  have hbytes (k : Nat) (s : State) : (freshBytes k s).2.unit e = s.unit e := State.unit_congr rfl rfl e
  have hword (s : State) : (freshWord s).2.unit e = s.unit e := State.unit_congr rfl rfl e
  cases t with
  | accUnits first k => simp [freshTouch, State.unit_modArr, hbytes]
  | tileSectors first k => simp [freshTouch, State.unit_modArr, hbytes]
  | pool segs =>
    exact List.foldlRecOn (motive := fun t => t.unit e = s.unit e) segs _ rfl fun t ht g _ =>
      (physPut_unit _ _ _ _ _ _ e).trans ((hbytes _ t).trans ht)
  | vreg k => simp [freshTouch, State.unit_modVec, hbytes]
  | mreg k => simp [freshTouch, State.unit_modVec, hbytes]
  | sreg k => simp [freshTouch, State.unit_modVec, hword]
  | vl => simp [freshTouch, State.unit_modVec]

theorem taintFrom_launchesStand (e : StreamEng) (k : Nat) (s : State) : LaunchesStand s (taintFrom e k s) := by
  have hmarked (l : List (Nat × Touch)) (k : Nat) : LaunchesStand s (freeFlags e
      ((l.foldl (fun s t => freshTouch (engArray e) t.2 s) s).modUnit e fun u => { u with taintAt := some k })) := by
    have htouched := launchesStand_foldl (f := fun s (t : Nat × Touch) => freshTouch (engArray e) t.2 s)
      (fun t b => launchesStand_of_unit_eq (freshTouch_unit _ b.2 t)) l s
    have hflags (t : State) : LaunchesStand t (freeFlags e t) := launchesStand_of_stores_eq (by simp) (by simp)
    exact (htouched.trans (launchesStand_modUnit e _)).trans (hflags _)
  have hshown (n : ArrayId) (v : Option Nat) (t : State) :
      LaunchesStand t ((freshWord t).2.modVec n.val fun x => { x with vlShown := v }) :=
    launchesStand_of_unit_eq fun x =>
      (State.unit_modVec _ _ _ (by intro _; rfl) x).trans (State.unit_congr rfl rfl x)
  unfold taintFrom
  dsimp only
  split
  · exact .refl s
  · cases e with
    | arr n => exact hmarked _ _
    | vec n =>
      dsimp only
      split
      · exact (hmarked _ _).trans (hshown n _ _)
      · exact hmarked _ _

theorem raceArray_launchesStand (n off len : Nat) (s : State) : LaunchesStand s (raceArray n off len s) := by
  unfold raceArray
  dsimp only
  split
  · exact .refl s
  split
  · exact taintFrom_launchesStand _ _ s
  · next hstatus _ _ =>
    have hn : n < 16 := by omega
    exact launchesStand_modUnit (f := fun u => { u with raced := u.raced ++ [(off, len)] }) (.arr ⟨n, hn⟩) s

theorem physWrite_launchesStand (eng a : Nat) (bs : List (Byte × Bool)) (streaming : Bool) (tag : HoldTag) (s : State) :
    LaunchesStand s (physWrite eng a bs streaming tag s) := by
  refine .trans (launchesStand_of_unit_eq (physPut_unit eng a bs streaming tag s)) ?_
  unfold physWrite
  dsimp only
  split
  · exact raceArray_launchesStand _ _ _ _
  · exact launchesStand_of_stores_eq (by simp) (by simp)
  · exact .refl _

theorem writeSegs_launchesStand (eng : Nat) (streaming : Bool) (tag : HoldTag) :
    ∀ (segs : List (Nat × Nat)) (bs : List (Byte × Bool)) (s : State), LaunchesStand s (writeSegs eng streaming tag segs bs s)
  | [], _, s => .refl s
  | (a, n) :: rest, bs, s =>
    (physWrite_launchesStand eng a (bs.take n) streaming tag s).trans (writeSegs_launchesStand eng streaming tag rest _ _)

/-! ## Records (10 R237) -/

theorem modQueue_launchesStand (q : Nat) (f : QState → QState) (s : State) : LaunchesStand s (s.modQueue q f) :=
  launchesStand_of_stores_eq rfl rfl

theorem writeRecord_launchesStand (q : Nat) (r : Rec) (s : State) : LaunchesStand s (writeRecord q r s) :=
  (modQueue_launchesStand q _ s).trans (writeSegs_launchesStand _ _ _ _ _ _)

theorem notePermit_launchesStand (q n : Nat) (s : State) : LaunchesStand s (notePermit q n s) := by
  unfold notePermit
  split
  · split
    · exact (modQueue_launchesStand q _ s).trans ((writeRecord_launchesStand q _ _).trans (modQueue_launchesStand q _ _))
    · exact .refl s
  · exact .refl s

/-! ## Starts and permits (R84, R97) -/

theorem startMember_launchesStand (start duty : Nat) (several : Bool) (e : StreamEng) (s : State) :
    LaunchesStand s (startMember start duty several e s) := by
  intro x
  rw [startMember_unit]
  split
  · next hx => exact hx ▸ beginUnit_keepsLaunch start several (s.unit x)
  · exact .refl (s.unit x)

/-- A group that is not due does not start. -/
theorem startGroup_cases (e : StreamEng) (s : State) : startGroup e s = s ∨ ∃ l, GroupDue e l s := by
  unfold startGroup
  split
  · exact .inl rfl
  · next l hcur =>
    dsimp only
    split
    · next hready =>
      split
      · next hcome => exact .inr ⟨l, hcur, List.all_eq_true.mp hready, hcome⟩
      · exact .inl rfl
    · exact .inl rfl

theorem startGroup_launchesStand (e : StreamEng) (s : State) : LaunchesStand s (startGroup e s) := by
  rcases startGroup_cases e s with hsame | ⟨l, hdue⟩
  · rw [hsame]
    exact .refl s
  · have hstarted : LaunchesStand s (membersStarted e l s) :=
      launchesStand_foldl (fun t x => startMember_launchesStand _ _ _ x t) (lockGroupOf e l) s
    rw [startGroup_of_due hdue]
    exact hstarted.trans (launchesStand_of_stores_eq (by simp) (by simp))

theorem checkReady_launchesStand (e : StreamEng) (s : State) : LaunchesStand s (checkReady e s) := by
  unfold checkReady
  dsimp only
  split
  · split
    · have hready : LaunchesStand s (s.modUnit e fun u => { u with readyAt := some s.now, status := .waitingForLock }) :=
        launchesStand_modUnit e s
      split
      · exact hready.trans (startGroup_launchesStand e _)
      · exact hready
    · exact .refl s
  · exact .refl s

theorem grantStream_launchesStand (mask : BitVec 32) (s : State) : LaunchesStand s (grantStream mask s) := by
  unfold grantStream
  dsimp only
  refine .trans (launchesStand_of_stores_eq (by simp) (by simp)) (launchesStand_foldl (fun t x => ?_) _ _)
  exact .trans (launchesStand_modUnit x t) (checkReady_launchesStand x _)

/-- A launch that joins its group is held as it is: the permit, or the wait for it, changes nothing else. -/
theorem joinPermit_launchesStand (e : StreamEng) (l : Launch) (s : State) : LaunchesStand s (joinPermit e l s) := by
  have hwaiting (t : State) : LaunchesStand t
      (notePermit l.id.q l.id.n (t.modUnit e fun u => { u with status := .waitingForPermit })) :=
    .trans (launchesStand_modUnit e t) (notePermit_launchesStand _ _ _)
  have hsluice (id : StartId) (d : Nat) : LaunchesStand s (sluice id d s).2 :=
    launchesStand_of_stores_eq (by simp) (by simp)
  unfold joinPermit
  dsimp only
  split
  · exact launchesStand_modUnit e s
  split
  · exact hwaiting s
  split
  · exact hwaiting s
  · next tag _ =>
    have hasked := hsluice (.stream (ownMask e l.lockMask)) (maskDemand tag (maskMembers e (ownMask e l.lockMask)) s)
    split
    · next s1 hgranted =>
      rw [hgranted] at hasked
      exact hasked.trans (grantStream_launchesStand _ s1)
    · next s1 hwaits =>
      rw [hwaits] at hasked
      exact hasked.trans (hwaiting s1)

end Sys2Proof.Machine
end

section
/-! Proofs about launches, loads, triggers and ends of streams (spec 04 R80-R85, R92-R94, 10 R224, R236), and O11. -/

namespace Sys2Proof.Machine

/-! ## A descriptor that starts (10 R224, R236) -/

/-- A descriptor that may start leaves the window as a started one. -/
theorem beginDesc_of_startable {q : QueueId} {op : Nat} {f : Fetched} {rest : List Fetched} {s : State}
    (h : Startable q op f rest s) : beginDesc q.val op s = (some f.n, started q f rest s) := by
  obtain ⟨-, hwindow, hop, hmay, hturn, hroom, -⟩ := h
  unfold beginDesc
  simp only [hwindow, hop, hmay, hturn, hroom, and_self, if_true, Bool.not_true, Bool.false_eq_true, if_false]
  rfl

theorem queueHalt_progs (q : Nat) (c : Byte) (s : State) : ((queueHalt q c s).queue q).progs = (s.queue q).progs := by
  unfold queueHalt
  split <;> simp

theorem endUnstarted_progs (q : Nat) (f : Fetched) (st : BitVec 16) (s : State) :
    ∃ p, ((endUnstarted q f st s).queue q).progs = (s.queue q).progs ++ [p] :=
  ⟨_, congrArg QState.progs (State.queue_modQueue_self (freshWord s).2 q _)⟩

/-- A head that cannot be executed ends behind the descriptors in progress. -/
theorem settleHead_progs (q : Nat) (s : State) : ∃ l, ((settleHead q s).queue q).progs = (s.queue q).progs ++ l := by
  have hended (c : Byte) (f : Fetched) (rest : List Fetched) (st : BitVec 16) : ∃ l,
      ((queueHalt q c (endUnstarted q f st (s.modQueue q fun x => { x with window := rest }))).queue q).progs
        = (s.queue q).progs ++ l := by
    obtain ⟨p, hp⟩ := endUnstarted_progs q f st (s.modQueue q fun x => { x with window := rest })
    exact ⟨[p], by rw [queueHalt_progs, hp, State.queue_modQueue_self]⟩
  unfold settleHead
  dsimp only
  split
  · exact ⟨[], (List.append_nil _).symm⟩
  split
  · exact ⟨[], (List.append_nil _).symm⟩
  split
  · exact hended _ _ _ _
  split
  · exact hended _ _ _ _
  · exact ⟨[], (List.append_nil _).symm⟩

/-- The started descriptor is found under its number. -/
theorem started_prog {q : QueueId} {op : Nat} {f : Fetched} {rest : List Fetched} {s : State}
    (h : Startable q op f rest s) :
    (started q f rest s).prog q.val f.n = some (newProg f.n f.w (entriesOf f.w) s.now) := by
  obtain ⟨-, -, -, -, -, -, hnew⟩ := h
  unfold started State.prog
  dsimp only
  obtain ⟨l, hl⟩ := settleHead_progs q.val (({ s with
    served := Sparse.set 0 s.served (s.queue q.val).code (q.val + 1) } : State).modQueue q.val fun x => { x with
      window := rest, progs := x.progs ++ [newProg f.n f.w (entriesOf f.w) s.now], cqWait := false })
  have hnone : (s.queue q.val).progs.find? (·.n == f.n) = none :=
    List.find?_eq_none.mpr fun p hp => by simpa using hnew p hp
  rw [hl, State.queue_modQueue_self, List.append_assoc, List.find?_append]
  simp only [State.queue] at hnone ⊢
  rw [hnone]
  simp [newProg]

theorem started_unit (q : QueueId) (f : Fetched) (rest : List Fetched) (s : State) (e : StreamEng) :
    (started q f rest s).unit e = s.unit e :=
  State.unit_congr (by simp [started]) (by simp [started]) e

/-! ## STREAM_LAUNCH (R80, R83, R84) -/

/-- What a launch rests on: queue q serves engine e, whose idle half is free and which is not halted, and the STREAM
descriptor f at the queue's head may start. -/
structure Launching (q : QueueId) (e : StreamEng) (f : Fetched) (rest : List Fetched) (s : State) : Prop where
  code : (s.queue q.val).code = engCode e
  released : (s.unit e).status ≠ .halted
  free : (s.unit e).nxt = none
  startable : Startable q opStream f rest s

/-- The launch of descriptor f of queue q, not loaded. -/
def launchStrm (q : QueueId) (f : Fetched) : Strm := ⟨launchOf ⟨q.val, f.n⟩ f.w, false, [], []⟩

theorem exec_streamLaunch {q : QueueId} {e : StreamEng} {f : Fetched} {rest : List Fetched} {s : State}
    (hp : powered s = true) (h : Launching q e f rest s) : exec (.streamLaunch q) s
      = .next (if (s.unit e).cur.isSome then (started q f rest s).modUnit e fun u => { u with nxt := some (launchStrm q f) }
        else fromIdle e (launchStrm q f) (started q f rest s)) := by
  obtain ⟨heng, hcode⟩ := streamEng_engCode e
  refine congrArg Host.Outcome.next ((clocked_of_powered hp _).trans ?_)
  unfold streamLaunch
  simp only [h.code, hcode, heng, h.released, h.free, beginDesc_of_startable h.startable, started_prog h.startable,
    not_true_eq_false, if_false, Option.isSome_none, Bool.false_eq_true, or_self]
  rfl

/-- The engines that disagree with a launch are told by the stream units. -/
theorem disagrees_congr {s t : State} (h : ∀ x, t.unit x = s.unit x) (e : StreamEng) (l : Launch) :
    disagrees e l t = disagrees e l s := by
  simp only [disagrees, h]

/-- A launch that its group agrees with becomes the current one, from semaphores 0 and stream cycle 0 (R84, R96). -/
theorem fromIdle_of_agrees {e : StreamEng} {m : Strm} {s : State} (h : disagrees e m.launch s = false) :
    ((fromIdle e m s).unit e).cur = some m ∧ ((fromIdle e m s).unit e).sems = [] ∧ ((fromIdle e m s).unit e).cycle = 0
      ∧ ((fromIdle e m s).unit e).lockMask = m.launch.lockMask := by
  have hstands (u : State) : LaunchesStand u (checkReady e (joinPermit e m.launch u)) :=
    (joinPermit_launchesStand e m.launch u).trans (checkReady_launchesStand e _)
  have hkept := hstands (s.modUnit e (launchUnit m.launch (decide (1 < (maskMembers e m.launch.lockMask).length)) m)) e
  rw [State.unit_modUnit_self] at hkept
  unfold fromIdle
  simp only [h, Bool.false_eq_true, if_false]
  exact ⟨hkept.cur, hkept.sems, hkept.cycle.elim id id, hkept.lockMask⟩

/-! ## STREAM_LOAD_COMPLETE (R81) -/

theorem length_chunk {α : Type} (k : Nat) : ∀ (n : Nat) (l : List α), (chunk k n l).length = n
  | 0, _ => rfl
  | n + 1, l => congrArg (· + 1) (length_chunk k n (l.drop k))

/-- A load that passes the checks gives the launch its bundles. -/
theorem loadStream_ok {code : Nat} {l : Launch} {s s' : State} {m : Strm}
    (h : loadStream code l s = (some (.ok m), s')) :
    m.loaded = true ∧ m.launch = l ∧ m.bundles.length = l.bundleCount := by
  unfold loadStream at h
  dsimp only at h
  repeat' split at h
  all_goals simp only [Prod.mk.injEq, Option.some.injEq, Except.ok.injEq, reduceCtorEq, false_and] at h
  obtain ⟨rfl, -⟩ := h
  exact ⟨rfl, rfl, by simp [length_chunk]⟩

theorem exec_streamLoadComplete {s : State} (hp : powered s = true) (e : StreamEng) :
    exec (.streamLoadComplete e) s = .next (streamLoad e s) :=
  congrArg Host.Outcome.next (clocked_of_powered hp _)

section
variable {e : StreamEng} {m : Strm} {s s' : State} (hcur : (s.unit e).cur = some m) (hload : m.loaded = false)
include hcur hload

/-- The current launch is loaded first; one that passes the checks becomes loaded. -/
theorem streamLoad_of_ok {m' : Strm} (h : loadStream (engCode e) m.launch s = (some (.ok m'), s')) :
    streamLoad e s = checkReady e (s'.modUnit e fun u => { u with cur := some m' }) := by
  unfold streamLoad
  cases hnxt : (s.unit e).nxt <;> simp [hcur, hload, h, hnxt]

/-- One that fails a check ends. -/
theorem streamLoad_of_error {st : BitVec 16} (h : loadStream (engCode e) m.launch s = (some (.error st), s')) :
    streamLoad e s = loadFailed e true m.launch st s' := by
  unfold streamLoad
  cases hnxt : (s.unit e).nxt <;> simp [hcur, hload, h, hnxt]

end

/-! ## TRIGGER_COMPLETE (R92-R94) -/

theorem exec_triggerComplete {s : State} (hp : powered s = true) (e : StreamEng) (k : Fin 32) :
    exec (.triggerComplete e k) s = .next (triggerComplete e k.val s) :=
  congrArg Host.Outcome.next (clocked_of_powered hp _)

/-- A trigger whose data has moved retires once it is visible. -/
theorem triggerComplete_of_moved {e : StreamEng} {k : Nat} {o : OutTrig} {s : State} (ho : (s.unit e).trigs[k]? = some o)
    (hmoved : o.moved = true) (hclear : tagClear (.trig e o.id) s = true) :
    triggerComplete e k s = retireTrigger e o true s := by
  unfold triggerComplete
  simp [ho, hmoved, hclear]

/-- One whose data has not moved moves it, and retires if it met no poison and is visible. -/
theorem triggerComplete_of_unmoved {e : StreamEng} {k : Nat} {o : OutTrig} {s : State}
    (ho : (s.unit e).trigs[k]? = some o) (hmoved : o.moved = false) (hgood : (moveTrigger e o s).1 = false)
    (hclear : tagClear (.trig e o.id) (moveTrigger e o s).2 = true) :
    triggerComplete e k s = retireTrigger e o true (moveTrigger e o s).2 := by
  unfold triggerComplete
  simp [ho, hmoved, hgood, hclear]

/-- An increment arrives: the semaphore grows by one. -/
theorem incSem_unit {e : StreamEng} {k : Nat} {s : State} (hsem : Sparse.get 0 (s.unit e).sems k ≠ 255) (src : IncSrc) :
    (incSem e k src s).unit e = { s.unit e with
      sems := Sparse.set 0 (s.unit e).sems k (Sparse.get 0 (s.unit e).sems k + 1), incs := (s.unit e).incs ++ [(k, src)] } :=
  (congrArg (State.unit · e) (if_neg hsem)).trans (State.unit_modUnit_self s e _)

/-- One at a semaphore of 255 sets SEM_OVF instead. -/
theorem incSem_of_full {e : StreamEng} {k : Nat} {s : State} (hsem : Sparse.get 0 (s.unit e).sems k = 255) (src : IncSrc) :
    (incSem e k src s).unit e = s.unit e ∧ bitOf ((incSem e k src s).evBits (streamSrc e)) evSemOvf = true := by
  have hraise : incSem e k src s = raiseEv (streamSrc e) evSemOvf s := if_pos hsem
  rw [hraise, raiseEv_bit _ _ _ _ _ (by decide)]
  exact ⟨State.unit_congr (by simp) (by simp) e, by simp⟩

/-- The state in which trigger o is outstanding no more. -/
def withoutTrigger (e : StreamEng) (o : OutTrig) (s : State) : State :=
  s.modUnit e fun u => { u with trigs := u.trigs.filter (·.id != o.id) }

theorem withoutTrigger_unit (e : StreamEng) (o : OutTrig) (s : State) :
    (withoutTrigger e o s).unit e = { s.unit e with trigs := (s.unit e).trigs.filter (·.id != o.id) } :=
  State.unit_modUnit_self s e _

theorem retireTrigger_of_semEn {e : StreamEng} {o : OutTrig} (h : o.t.semEn = true) (s : State) :
    retireTrigger e o true s = incSem e o.t.sem (.trig o.id) (withoutTrigger e o s) := if_pos h

theorem retireTrigger_of_not_semEn {e : StreamEng} {o : OutTrig} (h : o.t.semEn = false) (s : State) :
    retireTrigger e o true s = withoutTrigger e o s := if_neg (by simp [h])

/-- What a trigger that retires does to its engine's triggers and semaphores. -/
theorem retireTrigger_effect (e : StreamEng) (o : OutTrig) (s : State) :
    let t := retireTrigger e o true s
    (t.unit e).trigs = (s.unit e).trigs.filter (·.id != o.id)
      ∧ (o.t.semEn = true → Sparse.get 0 (s.unit e).sems o.t.sem ≠ 255 →
          Sparse.get 0 (t.unit e).sems o.t.sem = Sparse.get 0 (s.unit e).sems o.t.sem + 1)
      ∧ (o.t.semEn = true → Sparse.get 0 (s.unit e).sems o.t.sem = 255 →
          bitOf (t.evBits (streamSrc e)) 2 = true ∧ (t.unit e).sems = (s.unit e).sems)
      ∧ (o.t.semEn = false → (t.unit e).sems = (s.unit e).sems) := by
  have hunit := withoutTrigger_unit e o s
  have hsems : ((withoutTrigger e o s).unit e).sems = (s.unit e).sems := by rw [hunit]
  have htrigs : ((withoutTrigger e o s).unit e).trigs = (s.unit e).trigs.filter (·.id != o.id) := by rw [hunit]
  dsimp only
  cases hen : o.t.semEn with
  | false =>
    rw [retireTrigger_of_not_semEn hen]
    exact ⟨htrigs, nofun, nofun, fun _ => hsems⟩
  | true =>
    rw [retireTrigger_of_semEn hen, ← hsems, ← htrigs]
    by_cases hfull : Sparse.get 0 ((withoutTrigger e o s).unit e).sems o.t.sem = 255
    · obtain ⟨hsame, hovf⟩ := incSem_of_full hfull (.trig o.id)
      rw [hsame]
      exact ⟨rfl, fun _ h => absurd hfull h, fun _ _ => ⟨hovf, rfl⟩, nofun⟩
    · rw [incSem_unit hfull]
      exact ⟨rfl, fun _ _ => by simp, fun _ h => absurd h hfull, nofun⟩

/-! ## STREAM_COMPLETE (R85) -/

/-- A stream that has kept its rules leaves nothing undefined. -/
theorem endTaint_of_none {e : StreamEng} {s : State} (h : (s.unit e).taintAt = none) : endTaint e s = s := by
  unfold endTaint
  simp only [h]

/-- The current stream m of engine e has kept its rules, and everything it issued is done. -/
structure StreamEnded (e : StreamEng) (m : Strm) (s : State) : Prop where
  noEarlier : (s.unit e).prev = []
  noTrigger : (s.unit e).trigs = []
  noResult : resultsDue e none s = false
  current : (s.unit e).cur = some m
  notHalted : (s.unit e).haltStatus = none
  lastIssued : (s.unit e).lastIssued = true
  untainted : (s.unit e).taintAt = none

theorem streamComplete_of_ended {e : StreamEng} {m : Strm} {s : State} (h : StreamEnded e m s) :
    streamComplete e s = promote e (endLaunch m.launch.id stDone (s.modUnit e (clearCur .idle))) := by
  unfold streamComplete
  simp [h.noEarlier, h.noTrigger, h.noResult, h.current, h.notHalted, h.lastIssued, endTaint_of_none h.untainted]

theorem exec_streamComplete {s : State} (hp : powered s = true) (e : StreamEng) :
    exec (.streamComplete e) s = .next (streamComplete e s) :=
  congrArg Host.Outcome.next (clocked_of_powered hp _)

/-! ## O11 -/

/-- What STREAM_LAUNCH does with the head of queue q, of engine e. -/
theorem streamLaunch_effect {q : QueueId} {e : StreamEng} {f : Fetched} {rest : List Fetched} {s : State}
    (hp : powered s = true) (h : Launching q e f rest s) :
    ((s.unit e).cur.isSome = true → Yields (.streamLaunch q) s fun t =>
        t.unit e = { s.unit e with nxt := some (launchStrm q f) } ∧ (∀ x, x ≠ e → t.unit x = s.unit x)
          ∧ t.coh = s.coh ∧ t.env = s.env)
      ∧ ((s.unit e).cur = none → disagrees e (launchStrm q f).launch s = false → Yields (.streamLaunch q) s fun t =>
        (t.unit e).cur = some (launchStrm q f) ∧ (t.unit e).sems = [] ∧ (t.unit e).cycle = 0
          ∧ (t.unit e).lockMask = (launchStrm q f).launch.lockMask) := by
  have hexec := exec_streamLaunch hp h
  refine ⟨fun hbusy => ⟨_, hexec.trans (congrArg Host.Outcome.next (if_pos hbusy)), ?_, fun x hx => ?_, ?_, ?_⟩,
    fun hidle hagrees => ⟨_, hexec.trans (congrArg Host.Outcome.next (if_neg (by simp [hidle]))), ?_⟩⟩
  · rw [State.unit_modUnit_self, started_unit]
  · rw [State.unit_modUnit, if_neg hx, started_unit]
  · simp [started]
  · simp [started]
  · exact fromIdle_of_agrees ((disagrees_congr (started_unit q f rest s) e _).trans hagrees)

/-- Settles O11: a launch, load, trigger or end that meets its conditions does what its own lemma says
(`streamLaunch_effect`, `streamLoad_of_ok`, `streamLoad_of_error`, `retireTrigger_effect`, `streamComplete_of_ended`), and
neither the permit asked for nor the check for readiness takes a launch from its engine (`LaunchesStand`). -/
theorem streamsLoadAndRetire : Obligations.StreamsLoadAndRetire := by
  unfold Obligations.StreamsLoadAndRetire
  refine ⟨fun s e hp => ⟨?launch, fun m m' s' hcur hload hok => ?loaded, fun m st s' hcur hload hfails => ?failed⟩,
    fun e s hp => ⟨fun k o ho hmoved hclear => ?moved, fun k o ho hmoved hgood hclear => ?unmoved,
      fun m hprev htrigs hdue hcur hhalt hlast htaint => ?complete⟩⟩
  case launch =>
    intro q f rest m t hcode hstatus hnxt hstart
    have h : Launching q e f rest s := ⟨hcode, hstatus, hnxt, hstart⟩
    exact ⟨exec_streamLaunch hp h, streamLaunch_effect hp h⟩
  case loaded =>
    have hexec := (exec_streamLoadComplete hp e).trans (congrArg _ (streamLoad_of_ok hcur hload hok))
    have hcur' := (checkReady_launchesStand e (s'.modUnit e fun u => { u with cur := some m' }) e).cur
    rw [State.unit_modUnit_self] at hcur'
    exact ⟨hexec, _, hexec, hcur', loadStream_ok hok⟩
  case failed => exact (exec_streamLoadComplete hp e).trans (congrArg _ (streamLoad_of_error hcur hload hfails))
  case moved =>
    exact ⟨_, (exec_triggerComplete hp e k).trans (congrArg _ (triggerComplete_of_moved ho hmoved hclear)),
      retireTrigger_effect e o s⟩
  case unmoved =>
    exact (exec_triggerComplete hp e k).trans (congrArg _ (triggerComplete_of_unmoved ho hmoved hgood hclear))
  case complete =>
    refine ⟨_, (exec_streamComplete hp e).trans (congrArg _ (streamComplete_of_ended
      ⟨hprev, htrigs, hdue, hcur, hhalt, hlast, htaint⟩)), s.modUnit e (clearCur .idle), rfl, ?_⟩
    rw [State.unit_modUnit_self]
    exact ⟨rfl, rfl, rfl, rfl, rfl, rfl, by simp, by simp, by simp⟩

end Sys2Proof.Machine
end

section
/-! Proofs about the cycles and results of a vector engine (spec 06 R119, R121, R126): the bundle that issues both its
slots, the result written to its register, and O13 and O14. -/

namespace Sys2Proof.Machine

theorem State.unit_vec (s : State) (n : ArrayId) : s.unit (.vec n) = (s.vec n.val).su := rfl

/-! ## An issuing cycle (R119, R124) -/

/-- The running stream m of vector engine n issues, and no other member of its group holds at a group wait. -/
structure VecIssuesIn (n : ArrayId) (m : Strm) (s : State) : Prop where
  hasPower : powered s = true
  alone : NoneHolds (.vec n) s
  current : (s.unit (.vec n)).cur = some m
  issuing : (s.unit (.vec n)).issuing = true

/-- The V slot and the X slot of the bundle in which stream m stands. -/
def presentSlots (n : ArrayId) (m : Strm) (s : State) : VInst × VInst := vSlots (m.bundles.getD (s.vec n.val).su.idx 0)

theorem exec_vectorBundleIssue {n : ArrayId} {m : Strm} {s : State} (h : VecIssuesIn n m s) :
    exec (.vectorBundleIssue n) s = .next (vectorBundleIssue n s) :=
  congrArg Host.Outcome.next ((clocked_of_powered h.hasPower _).trans (issueTogether_of_noneHolds h.alone))

/-- In a cycle that is not withheld, a legal bundle whose wait, if any, has passed runs once the cycle has begun. -/
theorem vectorBundleIssue_of_legal {n : ArrayId} {m : Strm} {s t : State} {v x : VInst} (h : VecIssuesIn n m s)
    (hopen : openVecCycle n s = t) (hslots : presentSlots n m t = (v, x))
    (hpos : (t.vec n.val).su.inGroup = false ∨ issuingCycle (t.vec n.val).duty (t.vec n.val).pos = true)
    (hlegal : bundleLegal m (t.vec n.val).su.idx v x (vectorCtx n t) = true)
    (hwait : x.op ≠ 0xD0 ∨ (t.vec n.val).su.waitPassed = true) : vectorBundleIssue n s = vecRun n m v x t := by
  have hkept : ¬ ((t.vec n.val).su.inGroup && !issuingCycle (t.vec n.val).duty (t.vec n.val).pos) = true := by
    obtain hfree | hissues := hpos
    · simp [hfree]
    · simp [hissues]
  have hpassed : ¬ (x.op = 0xD0 ∧ (!(t.vec n.val).su.waitPassed) = true) := by
    rintro ⟨hop, hnot⟩
    obtain hother | hdone := hwait
    · exact hother hop
    · simp [hdone] at hnot
  unfold presentSlots at hslots
  unfold vectorBundleIssue
  simp only [h.current, h.issuing, hopen, hslots, hlegal, Bool.not_true, Bool.false_eq_true, if_false]
  rw [if_neg hkept, if_neg hpassed]

/-- If the V slot is a vld, the bytes it loads from the tile store hold no poison. -/
def LoadsClean (n : ArrayId) (v : VInst) (s : State) : Prop :=
  v.op ≠ 0xA0 ∨ ∀ f k, tileAccess v (s.vec n.val) = some (f, k) → tilePoisoned (s.arr n.val) f k = false

/-- A bundle that breaks no limit and meets no poison takes effect. Triggers are left out: one can
still find its queue full, and then the engine holds (04 R94). -/
theorem vecRun_of_clean {n : ArrayId} {m : Strm} {v x : VInst} {s : State} (htrig : x.op ≠ 0xD2)
    (hhazards : vectorHazards v x (s.vec n.val) (s.arr n.val) = []) (hclean : LoadsClean n v s) :
    vecRun n m v x s = vecActions n m v x s := by
  unfold vecRun
  simp only [htrig, false_and, if_false, hhazards]
  refine if_neg ?_
  obtain hother | hgood := hclean
  · simp [hother]
  · cases haccess : tileAccess v (s.vec n.val) with
    | none => simp
    | some range => simp [hgood range.1 range.2 haccess]

/-! ## What a bundle does (R119-R123) -/

/-- The results that both slots give, the V slot's first, each due at its latency after this cycle (R121). -/
def issuedResults (n : ArrayId) (v x : VInst) (s : State) : List VResult :=
  let cx := vectorCtx n s
  (vSlotResults v cx (vecFlags n.val s) ++ vSlotResults x cx (vecFlags n.val s)).map fun o =>
    ⟨cx.vs.su.cycle + o.2.2, o.1, o.2.1, cx.vs.su.cycle, false⟩

/-- A bundle whose X slot does not end, signal or trigger: its results are on their way, the stream stands at the bundle
and in the loops that the X slot gives, one bundle is counted, and only the marks of the timing rules move beside. -/
theorem vecActions_of_plain {n : ArrayId} {m : Strm} {v x : VInst} {s : State} (hend : x.op ≠ 0x01) (hsig : x.op ≠ 0xD1)
    (htrig : x.op ≠ 0xD2) :
    (vecActions n m v x s).ctr (vecBundleCount n.val)
        = w64 (min ((s.ctr (vecBundleCount n.val)).toNat + 1) (2 ^ 64 - 1))
      ∧ ∃ rows, (vecActions n m v x s).vec n.val = { s.vec n.val with
        results := (s.vec n.val).results ++ issuedResults n v x s
        rowIssue := rows
        loops := (xslotNext x (s.vec n.val) (s.vec n.val).su.idx).2
        pos := ((s.vec n.val).pos + 1) % 64
        su := { (s.vec n.val).su with
          cycle := (s.vec n.val).su.cycle + 1
          holding := .none
          idx := (xslotNext x (s.vec n.val) (s.vec n.val).su.idx).1
          waitPassed := false } } := by
  unfold vecActions
  simp only [hend, hsig, htrig, if_false, vecPass, State.modUnit, State.modVec_units, State.vec_modVec_self, count_fields,
    ctr_count, if_true]
  exact ⟨trivial, _, rfl⟩

/-- Settles O13: nothing keeps the bundle from issuing (`vectorBundleIssue_of_legal`, `vecRun_of_clean`), and what it then
does is said by `vecActions_of_plain`. -/
theorem vectorBundleIssueIssuesBothSlots : Obligations.VectorBundleIssueIssuesBothSlots := by
  unfold Obligations.VectorBundleIssueIssuesBothSlots
  intro n s m
  generalize hopen : openVecCycle n s = t
  intro s1 y cx b next hp hnone hcur hissuing hpos hlegal hwait hend hsig htrig hhazards hclean
  have h : VecIssuesIn n m s := ⟨hp, hnone, hcur, hissuing⟩
  have hissue : vectorBundleIssue n s = vecActions n m b.1 b.2 t :=
    (vectorBundleIssue_of_legal h hopen rfl hpos hlegal hwait).trans (vecRun_of_clean htrig hhazards hclean)
  obtain ⟨hcount, rows, hvec⟩ := vecActions_of_plain (n := n) (m := m) (v := b.1) (s := t) hend hsig htrig
  refine ⟨_, exec_vectorBundleIssue h, ?_⟩
  dsimp only
  rw [hissue, hvec]
  exact ⟨rfl, rfl, rfl, rfl, hcount, rfl, rfl, rfl, rfl⟩

/-! ## A result written (R121, R126) -/

/-- The result goes to a scalar, mask or length register. -/
def VDest.IsRegister : VDest → Prop
  | .scalar _ _ | .mask _ _ _ | .vl _ => True
  | _ => False

/-- The engine once such a register holds its result. -/
def VecState.withRegister (x : VecState) : VDest → VecState
  | .scalar k v => { x with sr := Sparse.set 0 x.sr k v }
  | .mask k sel v => { x with m := Sparse.set 0 x.m k ((Sparse.get 0 x.m k &&& ~~~ sel) ||| (v &&& sel)) }
  | .vl k => { x with vl := k }
  | _ => x

theorem VecState.withRegister_keeps (x : VecState) (d : VDest) : (x.withRegister d).v = x.v
    ∧ (x.withRegister d).rm = x.rm ∧ (x.withRegister d).results = x.results ∧ (x.withRegister d).su = x.su := by
  cases d <;> exact ⟨rfl, rfl, rfl, rfl⟩

/-- Events, arrays and memory of t are those of s. -/
structure KeepsBeside (s t : State) : Prop where
  events : t.events = s.events
  arrays : t.arrays = s.arrays
  hbm : t.hbm = s.hbm
  coh : t.coh = s.coh

theorem KeepsBeside.trans {s t u : State} (h : KeepsBeside s t) (h' : KeepsBeside t u) : KeepsBeside s u :=
  ⟨h'.events.trans h.events, h'.arrays.trans h.arrays, h'.hbm.trans h.hbm, h'.coh.trans h.coh⟩

/-- A register takes its result; the length shown of an undefined stream is a free value (R122). -/
theorem writeVDest_of_isRegister {d : VDest} (h : d.IsRegister) (n : ArrayId) (s : State) :
    KeepsBeside s (writeVDest n d s)
      ∧ ∃ shown, (writeVDest n d s).vec n.val = { (s.vec n.val).withRegister d with vlShown := shown } := by
  cases d with
  | scalar k v => exact ⟨⟨rfl, rfl, rfl, rfl⟩, _, State.vec_modVec_self ..⟩
  | mask k sel v => exact ⟨⟨rfl, rfl, rfl, rfl⟩, _, State.vec_modVec_self ..⟩
  | vl k =>
    unfold writeVDest
    dsimp only
    split
    · exact ⟨⟨rfl, rfl, rfl, rfl⟩, _, State.vec_modVec_self ..⟩
    · exact ⟨⟨rfl, rfl, rfl, rfl⟩, _, State.vec_modVec_self ..⟩
  | vec | nib | fcsr | store => exact h.elim

theorem VDest.touch_of_isRegister {d : VDest} (h : d.IsRegister) : ∃ place, d.touch = [place] := by
  cases d with
  | scalar | mask | vl => exact ⟨_, rfl⟩
  | vec | nib | fcsr | store => exact h.elim

theorem touch_keepsBeside (n : ArrayId) (c : Nat) (place : Touch) (s : State) : KeepsBeside s (touch (.vec n) c place s) := by
  obtain ⟨-, hevents, harrays, hhbm, hcoh⟩ := touch_vec n c place s
  exact ⟨hevents, harrays, hhbm, hcoh⟩

/-- A defined result of a register: the register takes it, and the stream remembers what it touched. -/
theorem writeResult_of_isRegister {n : ArrayId} {r : VResult} {s : State} (hreg : r.dest.IsRegister)
    (hfree : r.free = false) (hundef : (s.vec n.val).su.undef r.cyc = false) :
    KeepsBeside s (writeResult n r s) ∧ ∃ shown touched, (writeResult n r s).vec n.val
      = { (s.vec n.val).withRegister r.dest with
          vlShown := shown, su := { ((s.vec n.val).withRegister r.dest).su with touched := touched } } := by
  obtain ⟨place, hplace⟩ := VDest.touch_of_isRegister hreg
  have hwrite : writeResult n r s = touch (.vec n) r.cyc place (writeVDest n r.dest s) := by
    unfold writeResult
    simp only [State.unit_vec, hfree, hundef, Bool.false_and, Bool.or_self, Bool.false_eq_true, if_false, hplace,
      List.foldl_cons, List.foldl_nil]
  obtain ⟨hbeside, shown, hvec⟩ := writeVDest_of_isRegister hreg n s
  obtain ⟨⟨touched, htouch⟩, -⟩ := touch_vec n r.cyc place (writeVDest n r.dest s)
  rw [hwrite]
  exact ⟨hbeside.trans (touch_keepsBeside ..), shown, touched, by rw [htouch, hvec]⟩

/-- The state in which the results rs are on their way no more. -/
def withoutResults (n : ArrayId) (rs : List VResult) (s : State) : State :=
  s.modVec n.val fun x => { x with results := x.results.filter fun r => !rs.contains r }

/-- A cycle's one result, of a register, is written and its flags are raised; nothing of it is undefined. -/
theorem writeResults_of_isRegister {n : ArrayId} {r : VResult} {s : State} (hreg : r.dest.IsRegister)
    (hfree : r.free = false) (hundef : (s.vec n.val).su.undef r.cyc = false) :
    writeResults n [r] s = raiseFlags n.val r.flags (writeResult n r (withoutResults n [r] s)) := by
  have hundef' : ((withoutResults n [r] s).vec n.val).su.undef r.cyc = false := by
    rw [withoutResults, State.vec_modVec_self]
    exact hundef
  obtain ⟨-, shown, touched, hvec⟩ := writeResult_of_isRegister hreg hfree hundef'
  have hdefined : ((writeResult n r (withoutResults n [r] s)).vec n.val).su.undef r.cyc = false := by
    obtain ⟨-, -, -, hsu⟩ := ((withoutResults n [r] s).vec n.val).withRegister_keeps r.dest
    rw [hvec, hsu]
    exact hundef'
  have horder : [r].filter VResult.isFcsr ++ ([r].filter fun r => !r.isFcsr) = [r] := by
    cases hfcsr : r.isFcsr <;> simp [hfcsr]
  unfold writeResults
  simp only [horder, List.foldl_cons, List.foldl_nil, List.any_cons, List.any_nil, Bool.or_false, hfree, Bool.false_or]
  refine (if_neg ?_).trans (congrArg (raiseFlags n.val · _) (BitVec.zero_or (x := r.flags)))
  rw [Bool.not_eq_true]
  exact hdefined

/-- With no cycle left to issue, the one result on its way comes next. -/
theorem vectorResultWrite_of_single {n : ArrayId} {r : VResult} {s : State} (hissuing : (s.vec n.val).su.issuing = false)
    (hresults : (s.vec n.val).results = [r]) : vectorResultWrite n s = writeResults n [r] s := by
  unfold vectorResultWrite
  simp [hissuing, hresults]

theorem exec_vectorResultWrite {s : State} (hp : powered s = true) (n : ArrayId) :
    exec (.vectorResultWrite n) s = .next (vectorResultWrite n s) :=
  congrArg Host.Outcome.next (clocked_of_powered hp _)

/-- The engine with nothing on its way any more. -/
def VecState.drained (x : VecState) : VecState := { x with results := [] }

theorem withoutResults_of_single {n : ArrayId} {r : VResult} {s : State} (hresults : (s.vec n.val).results = [r]) :
    (withoutResults n [r] s).vec n.val = (s.vec n.val).drained := by
  simp [withoutResults, VecState.drained, hresults]

/-- The one result on its way is written: what that leaves of engine, flags, arrays and memory. -/
theorem vectorResultWrite_effect {n : ArrayId} {r : VResult} {s : State} (hissuing : (s.vec n.val).su.issuing = false)
    (hresults : (s.vec n.val).results = [r]) (hfree : r.free = false) (hundef : (s.vec n.val).su.undef r.cyc = false)
    (hreg : r.dest.IsRegister) :
    (∃ shown su, (vectorResultWrite n s).vec n.val
        = { (s.vec n.val).drained.withRegister r.dest with vlShown := shown, su := su })
      ∧ (∀ j, j < 5 → bitOf ((vectorResultWrite n s).evBits (srcVecFlags n.val)) j
          = (bitOf (s.evBits (srcVecFlags n.val)) j || r.flags.getLsbD j))
      ∧ (vectorResultWrite n s).arrays = s.arrays ∧ (vectorResultWrite n s).hbm = s.hbm
      ∧ (vectorResultWrite n s).coh = s.coh := by
  have hwithout := withoutResults_of_single hresults
  obtain ⟨hbeside, shown, touched, hvec⟩ := writeResult_of_isRegister (s := withoutResults n [r] s) hreg hfree
    (by rw [hwithout]; exact hundef)
  rw [hwithout] at hvec
  have hbits (src : BitVec 16) : (writeResult n r (withoutResults n [r] s)).evBits src = s.evBits src := by
    simp only [State.evBits, State.ev, hbeside.events]
    rfl
  obtain ⟨hflags, hvecs, harrays, hhbm, hcoh⟩ := raiseFlags_ev n r.flags (writeResult n r (withoutResults n [r] s))
  have hengine : (raiseFlags n.val r.flags (writeResult n r (withoutResults n [r] s))).vec n.val
      = (writeResult n r (withoutResults n [r] s)).vec n.val := by simp only [State.vec, hvecs]
  rw [vectorResultWrite_of_single hissuing hresults, writeResults_of_isRegister hreg hfree hundef]
  exact ⟨⟨shown, _, hengine.trans hvec⟩, fun j hj => by rw [hflags j hj, hbits], harrays.trans hbeside.arrays,
    hhbm.trans hbeside.hbm, hcoh.trans hbeside.coh⟩

/-- Settles O14: the engine is the one before, drained and with the one register written (`vectorResultWrite_effect`). -/
theorem vectorResultWriteWritesItsRegister : Obligations.VectorResultWriteWritesItsRegister := by
  unfold Obligations.VectorResultWriteWritesItsRegister
  intro n s r y hp hissuing hresults hfree hundef hreg
  obtain ⟨⟨shown, su, hvec⟩, hflags, hframe⟩ := vectorResultWrite_effect hissuing hresults hfree hundef hreg
  obtain ⟨hv, hrm, hempty, -⟩ := (s.vec n.val).drained.withRegister_keeps r.dest
  refine ⟨_, exec_vectorResultWrite hp n, ?_⟩
  dsimp only
  rw [hvec]
  refine ⟨fun k v hdest => ?scalar, fun k sel v hdest => ?mask, fun k hdest => ?length, hflags, hempty, hv, hrm, hframe⟩
  case scalar =>
    rw [hdest]
    exact ⟨fun j => Sparse.get_set .., rfl, rfl⟩
  case mask =>
    rw [hdest]
    exact ⟨fun j => Sparse.get_set .., rfl, rfl⟩
  case length =>
    rw [hdest]
    exact ⟨rfl, rfl, rfl⟩

end Sys2Proof.Machine
end

section
/-! Proofs about the contents of the stacks and of attach-host memory (spec 07 R151, R152, R156, 19 R404): what the write
of a sector does, that every write and reset keeps the canonical form of the memories, and O60. -/

namespace Sys2Proof.Machine

/-! ## The write of a sector (07 R152, R156) -/

/-- A sector of an ACTIVE stack takes its bytes, and its mark the key they are written under; a corrected write-back
still to come is dropped (R155). -/
def sectorWritten (sn : Nat) (d : List Byte) (poison : Bool) (key : List Byte) (s : State) : State :=
  { s with hbm := { s.hbm with
    cells := s.hbm.cells.writeN (32 * sn) (d.take 32)
    marks := Sparse.set {} s.hbm.marks sn { poison := poison, key := key, epoch := s.keyEpoch (32 * sn), errs := [] }
    writeBacks := s.hbm.writeBacks.filter fun w => w.1 != sn } }

/-- A poisoned sector that is written leaves a record (R159). -/
def poisonRecorded (sn : Nat) (poison : Bool) (s : State) : State :=
  if poison then logError ⟨s.now, 32 * sn, s.pcOf (32 * sn), .poisonWritten, 0⟩ s else s

theorem stackWrite_of_inactive {sn : Nat} {s : State} (h : (s.stack (s.stackOf (32 * sn))).mode ≠ .active) (d : List Byte)
    (poison : Bool) : stackWrite sn d poison s = offlineAccess (s.stackOf (32 * sn)) s := if_pos h

theorem stackWrite_of_erased {sn : Nat} {s : State} (h : (s.stack (s.stackOf (32 * sn))).mode = .active)
    (hkey : s.keyOf (s.selectorOf (32 * sn)) = none) (d : List Byte) (poison : Bool) : stackWrite sn d poison s = s := by
  unfold stackWrite
  simp only [h, hkey, ne_eq, not_true_eq_false, if_false]

theorem stackWrite_of_key {sn : Nat} {key : List Byte} {s : State} (h : (s.stack (s.stackOf (32 * sn))).mode = .active)
    (hkey : s.keyOf (s.selectorOf (32 * sn)) = some key) (d : List Byte) (poison : Bool) :
    stackWrite sn d poison s = poisonRecorded sn poison (sectorWritten sn d poison key s) := by
  unfold stackWrite
  simp only [h, hkey, ne_eq, not_true_eq_false, if_false]
  rfl

/-- All that the write of a sector can do: it is counted, discarded, or done. -/
theorem stackWrite_cases (sn : Nat) (d : List Byte) (poison : Bool) (s : State) :
    stackWrite sn d poison s = offlineAccess (s.stackOf (32 * sn)) s ∨ stackWrite sn d poison s = s
      ∨ ∃ key, stackWrite sn d poison s = poisonRecorded sn poison (sectorWritten sn d poison key s) := by
  by_cases h : (s.stack (s.stackOf (32 * sn))).mode = .active
  · cases hkey : s.keyOf (s.selectorOf (32 * sn)) with
    | none => exact .inr (.inl (stackWrite_of_erased h hkey d poison))
    | some key => exact .inr (.inr ⟨key, stackWrite_of_key h hkey d poison⟩)
  · exact .inl (stackWrite_of_inactive h d poison)

@[simp] theorem offlineAccess_hbm (st : Nat) (s : State) : (offlineAccess st s).hbm = s.hbm := by
  simp [offlineAccess, hbmEvent]

/-- A record changes the error log and nothing else of the controllers. -/
theorem poisonRecorded_hbm (sn : Nat) (poison : Bool) (s : State) :
    ∃ l, (poisonRecorded sn poison s).hbm = { s.hbm with errLog := l } := by
  unfold poisonRecorded
  split
  · exact ⟨_, rfl⟩
  · exact ⟨_, rfl⟩

/-! ## The canonical form -/

theorem memWf_iff {s : State} : MemWf s = true ↔ Sparse.wf 0 s.hbm.cells = true ∧ Sparse.wf 0 s.host.mem = true := by
  simp [MemWf]

theorem wf_stackWrite_cells (sn : Nat) (d : List Byte) (poison : Bool) {s : State} (h : Sparse.wf 0 s.hbm.cells = true) :
    Sparse.wf 0 (stackWrite sn d poison s).hbm.cells = true := by
  obtain heq | heq | ⟨key, heq⟩ := stackWrite_cases sn d poison s <;> rw [heq]
  · rwa [offlineAccess_hbm]
  · exact h
  · obtain ⟨l, hlog⟩ := poisonRecorded_hbm sn poison (sectorWritten sn d poison key s)
    rw [hlog]
    exact Mem.wf_writeN _ _ _ h

theorem memWf_stackWrite (sn : Nat) (d : List Byte) (poison : Bool) {s : State} (h : MemWf s = true) :
    MemWf (stackWrite sn d poison s) = true := by
  obtain ⟨hcells, hhost⟩ := memWf_iff.1 h
  exact memWf_iff.2 ⟨wf_stackWrite_cells sn d poison hcells, by simpa using hhost⟩

/-- Dropping what stands between a range and its stacks leaves both memories alone. -/
theorem dropRange_memories (lo n : Nat) (s : State) :
    (dropRange lo n s).hbm.cells = s.hbm.cells ∧ (dropRange lo n s).host.mem = s.host.mem := by
  unfold dropRange
  dsimp only
  exact List.foldlRecOn (motive := fun t : State => t.hbm.cells = s.hbm.cells ∧ t.host.mem = s.host.mem) _ _ ⟨rfl, rfl⟩
    fun _ ht _ _ => ht

theorem memWf_writePage (pa n : Nat) (data : Mem) (bad : List Nat) {s : State} (h : MemWf s = true) :
    MemWf (writePage pa n data bad s) = true := by
  obtain ⟨hcells, hhost⟩ := memWf_iff.1 h
  unfold writePage
  split
  · exact h
  · refine List.foldlRecOn (motive := fun t : State => MemWf t = true) bad _ (memWf_iff.2 ⟨?_, hhost⟩)
      fun _ ht _ _ => memWf_stackWrite _ _ _ ht
    refine List.foldlRecOn (motive := fun m : Mem => Sparse.wf 0 m = true) data _ (Sparse.wf_dropWhere 0 _ _ hcells)
      fun m hm e _ => ?_
    split
    · exact Sparse.wf_set 0 _ _ _ hm
    · exact hm

theorem memWf_fillPage (pa n : Nat) (data : Mem) (bad : List Nat) {s : State} (h : MemWf s = true) :
    MemWf (fillPage pa n data bad s) = true := by
  obtain ⟨hcells, hhost⟩ := dropRange_memories pa n s
  refine memWf_writePage pa n data bad ?_
  rw [MemWf, hcells, hhost]
  exact h

theorem memWf_hostWriteRun (half a : Nat) (bs : List Byte) (ep : Bool) {s : State} (h : MemWf s = true) :
    MemWf (hostWriteRun half a bs ep s) = true := by
  obtain ⟨hcells, hhost⟩ := memWf_iff.1 h
  unfold hostWriteRun
  split
  · exact memWf_iff.2 ⟨by simpa [reqFail] using hcells, by simpa [reqFail] using hhost⟩
  · exact memWf_iff.2 ⟨hcells, Mem.wf_writeN bs _ _ hhost⟩

theorem memWf_hostWrite (half a : Nat) (bs : List (Byte × Bool)) {s : State} (h : MemWf s = true) :
    MemWf (hostWrite half a bs s) = true := by
  unfold hostWrite
  exact List.foldlRecOn (motive := fun t : State => MemWf t = true) _ _ h fun _ ht _ _ => memWf_hostWriteRun _ _ _ _ ht

/-- Of both memories a wiped package keeps attach-host memory, and the stacks hold nothing (19 R404). -/
theorem memWf_of_wiped {s t : State} (hcells : t.hbm.cells = []) (hhost : t.host.mem = s.host.mem) (h : MemWf s = true) :
    MemWf t = true := by
  refine memWf_iff.2 ⟨?_, ?_⟩
  · rw [hcells]; rfl
  · rw [hhost]; exact (memWf_iff.1 h).2

theorem powerOn_memories (s : State) : (powerOn s).hbm.cells = [] ∧ (powerOn s).host.mem = s.host.mem := by
  unfold powerOn
  simp only [ite_hbm, ite_host, raiseEv_fields, ite_self]
  exact ⟨rfl, rfl⟩

theorem deviceReset_memories (kind : Byte) (s : State) :
    (deviceReset kind false s).hbm.cells = [] ∧ (deviceReset kind false s).host.mem = s.host.mem := by
  unfold deviceReset
  simp only [Bool.false_and, Bool.false_eq_true, if_false, count_fields]
  exact ⟨rfl, rfl⟩

/-- Settles O60: each write keeps the canonical form because `Sparse.set` does, and a reset without the pool kept leaves
empty stacks and attach-host memory as it was. -/
theorem memoriesKeepTheirCanonicalForm : Obligations.MemoriesKeepTheirCanonicalForm := by
  unfold Obligations.MemoriesKeepTheirCanonicalForm
  refine ⟨fun sn d p s => memWf_stackWrite sn d p, fun pa n data bad s => memWf_fillPage pa n data bad,
    fun pt a bs s => memWf_hostWrite pt a bs, fun kind s h => ?_, fun s h => ⟨memWf_of_wiped (s := s) rfl rfl h, ?_⟩,
    fun m a bs => ⟨readN_writeN bs m a, fun b => Mem.read_writeN_outside bs m a b⟩⟩
  · obtain ⟨hcells, hhost⟩ := deviceReset_memories kind s
    exact memWf_of_wiped hcells hhost h
  · obtain ⟨hcells, hhost⟩ := powerOn_memories s
    exact memWf_of_wiped hcells hhost h

end Sys2Proof.Machine
end


section
/-! Proofs that the controllers of the stacks do not depend on the Cisterns and the directory (spec 07): what they do in a
state with other Cisterns is what they do in this one. -/

namespace Sys2Proof.Machine

/-- The state with these Cisterns, directory and core copies. -/
def State.withCoh (c : CohState) (s : State) : State := { s with coh := c }

/-- What a controller looks at is no part of the Cisterns. -/
@[simp] theorem State.withCoh_fields (c : CohState) (s : State) :
    (s.withCoh c).hbm = s.hbm ∧ (s.withCoh c).now = s.now ∧ (s.withCoh c).coh = c
      ∧ (∀ k, (s.withCoh c).stack k = s.stack k) ∧ (∀ p, (s.withCoh c).pc p = s.pc p)
      ∧ (∀ k, (s.withCoh c).wcbOf k = s.wcbOf k) ∧ (∀ a, (s.withCoh c).pcOf a = s.pcOf a)
      ∧ (∀ a, (s.withCoh c).stackOf a = s.stackOf a) ∧ (∀ n, (s.withCoh c).mark n = s.mark n)
      ∧ (∀ a, (s.withCoh c).selectorOf a = s.selectorOf a) ∧ (∀ k, (s.withCoh c).keyOf k = s.keyOf k)
      ∧ (∀ a, (s.withCoh c).keyEpoch a = s.keyEpoch a) ∧ (∀ n, sectorDecode (s.withCoh c) n = sectorDecode s n)
      ∧ (∀ n, storedSector (s.withCoh c) n = storedSector s n)
      ∧ (∀ n fix, patchedSector (s.withCoh c) n fix = patchedSector s n fix)
      ∧ (∀ p, stalled (s.withCoh c) p = stalled s p) ∧ mayLeave (s.withCoh c) = mayLeave s := by
  repeat' apply And.intro
  all_goals intros; rfl

theorem raiseArg_withCoh (src : BitVec 16) (k : Nat) (arg : W64) (c : CohState) (s : State) :
    raiseArg src k arg (s.withCoh c) = (raiseArg src k arg s).withCoh c := by
  unfold raiseArg
  dsimp only [State.withCoh, State.ev, State.setEv]
  (repeat' split) <;> rfl

theorem count_withCoh (key n : Nat) (c : CohState) (s : State) : count key n (s.withCoh c) = (count key n s).withCoh c := by
  unfold count
  dsimp only
  rw [apply_ite (State.withCoh c)]
  exact ite_congr rfl (fun _ => Eq.symm (raiseArg_withCoh _ _ _ c _).symm) fun _ => rfl

theorem hbmEvent_withCoh (k st : Nat) (c : CohState) (s : State) : hbmEvent k st (s.withCoh c) = (hbmEvent k st s).withCoh c :=
  raiseArg_withCoh _ _ _ c s

theorem offlineAccess_withCoh (st : Nat) (c : CohState) (s : State) :
    offlineAccess st (s.withCoh c) = (offlineAccess st s).withCoh c := by
  unfold offlineAccess
  rw [count_withCoh, hbmEvent_withCoh]

theorem stackWrite_withCoh (sn : Nat) (d : List Byte) (poison : Bool) (c : CohState) (s : State) :
    stackWrite sn d poison (s.withCoh c) = (stackWrite sn d poison s).withCoh c := by
  unfold stackWrite
  simp only [State.withCoh_fields, offlineAccess_withCoh]
  split
  · rfl
  · split
    · rfl
    · split <;> rfl

theorem logError_withCoh (r : ErrRec) (c : CohState) (s : State) : logError r (s.withCoh c) = (logError r s).withCoh c := rfl

theorem setWcb_withCoh (k : Nat) (l : List WcbEntry) (c : CohState) (s : State) :
    (s.withCoh c).setWcb k l = (s.setWcb k l).withCoh c := rfl

theorem pageCorrection_withCoh (st page : Nat) (c : CohState) (s : State) :
    pageCorrection st page (s.withCoh c) = (pageCorrection st page s).withCoh c := by
  unfold pageCorrection
  dsimp only
  rw [apply_ite (State.withCoh c)]
  exact ite_congr rfl (fun _ => Eq.symm (hbmEvent_withCoh _ _ c _).symm) fun _ => rfl

theorem pinCorrection_withCoh (pc pin : Nat) (c : CohState) (s : State) :
    pinCorrection pc pin (s.withCoh c) = (pinCorrection pc pin s).withCoh c := by
  unfold pinCorrection
  dsimp only
  rw [apply_ite (State.withCoh c)]
  exact ite_congr rfl (fun _ => Eq.symm (hbmEvent_withCoh _ _ c _).symm) fun _ => rfl

theorem foldl_withCoh {α : Type} {f : State → α → State} {c : CohState} (h : ∀ s a, f (s.withCoh c) a = (f s a).withCoh c)
    (l : List α) (s : State) : l.foldl f (s.withCoh c) = (l.foldl f s).withCoh c :=
  List.foldl_hom (State.withCoh c) h

/-- The pins of a correction, counted one by one. -/
theorem pinCorrections_withCoh (pc : Nat) (fix : List (Nat × Nat)) (c : CohState) (s : State) :
    fix.foldl (fun x e => pinCorrection pc e.1 x) (s.withCoh c)
      = (fix.foldl (fun x e => pinCorrection pc e.1 x) s).withCoh c :=
  foldl_withCoh (fun t e => pinCorrection_withCoh pc e.1 c t) fix s

theorem noteCorrected_withCoh (pc sn : Nat) (fix : List (Nat × Nat)) (d : List Byte) (c : CohState) (s : State) :
    noteCorrected pc sn fix d (s.withCoh c) = (noteCorrected pc sn fix d s).withCoh c := by
  unfold noteCorrected
  simp only [State.withCoh_fields, count_withCoh, hbmEvent_withCoh, logError_withCoh, pageCorrection_withCoh,
    pinCorrections_withCoh]
  rfl

theorem noteUncorrectable_withCoh (pc sn : Nat) (c : CohState) (s : State) :
    noteUncorrectable pc sn (s.withCoh c) = (noteUncorrectable pc sn s).withCoh c := by
  unfold noteUncorrectable
  simp only [State.withCoh_fields, count_withCoh, hbmEvent_withCoh, logError_withCoh]
  exact Eq.symm (hbmEvent_withCoh _ _ c _).symm

theorem stackRead_withCoh (sn : Nat) (c : CohState) (s : State) :
    stackRead sn (s.withCoh c) = ((stackRead sn s).1, (stackRead sn s).2.withCoh c) := by
  unfold stackRead
  simp only [State.withCoh_fields, noteCorrected_withCoh, noteUncorrectable_withCoh]
  split <;> rfl

theorem mergeRead_withCoh (sn : Nat) (c : CohState) (s : State) :
    mergeRead sn (s.withCoh c) = ((mergeRead sn s).1, (mergeRead sn s).2.withCoh c) := by
  unfold mergeRead
  simp only [State.withCoh_fields, count_withCoh, stackRead_withCoh]
  split <;> rfl

theorem flushSector_withCoh (e : WcbEntry) (k : Nat) (c : CohState) (s : State) :
    flushSector e k (s.withCoh c) = (flushSector e k s).withCoh c := by
  unfold flushSector
  simp only [mergeRead_withCoh, stackWrite_withCoh]
  split
  · rfl
  · split <;> rfl

theorem leaveEntry_withCoh (e : WcbEntry) (c : CohState) (s : State) :
    leaveEntry e (s.withCoh c) = (leaveEntry e s).withCoh c := by
  unfold leaveEntry
  simp only [State.withCoh_fields, setWcb_withCoh,
    flushSector_withCoh]

theorem dropWriteBacks_withCoh (l : List Nat) (c : CohState) (s : State) :
    l.foldl (fun s sn => dropWriteBack sn s) (s.withCoh c) = (l.foldl (fun s sn => dropWriteBack sn s) s).withCoh c :=
  foldl_withCoh (fun _ _ => rfl) l s

/-- A full buffer lets its oldest entry that may leave make room (R151). -/
def roomMade (st : Nat) (s : State) : State :=
  match (s.wcbOf st).find? (mayLeave s) with
  | some old => if (s.wcbOf st).length ≥ 256 then leaveEntry old s else s
  | none => s

/-- A whole entry leaves at once if it may (R151, R161). -/
def leaveIfWhole (e : WcbEntry) (s : State) : State := if e.bytes.length = 128 ∧ mayLeave s e then leaveEntry e s else s

theorem roomMade_withCoh (st : Nat) (c : CohState) (s : State) : roomMade st (s.withCoh c) = (roomMade st s).withCoh c := by
  have hsame : ((s.withCoh c).wcbOf st).find? (mayLeave (s.withCoh c)) = (s.wcbOf st).find? (mayLeave s) := rfl
  unfold roomMade
  rw [hsame]
  cases (s.wcbOf st).find? (mayLeave s) with
  | none => rfl
  | some old =>
    simp only [State.withCoh_fields, leaveEntry_withCoh]
    split <;> rfl

theorem leaveIfWhole_withCoh (e : WcbEntry) (c : CohState) (s : State) :
    leaveIfWhole e (s.withCoh c) = (leaveIfWhole e s).withCoh c := by
  unfold leaveIfWhole
  simp only [State.withCoh_fields, leaveEntry_withCoh]
  split <;> rfl

/-- A write into the buffer: bytes for an entry that stands, or a new entry in the room made for it. -/
theorem wcbWrite_eq (line : Nat) (bs : List (Nat × Byte)) (s : State) : wcbWrite line bs s =
    let st := s.stackOf (128 * line)
    let t := ((bs.map fun b => 4 * line + b.1 / 32).eraseDups).foldl (fun s sn => dropWriteBack sn s) s
    if (s.stack st).mode ≠ .active then offlineAccess st s
    else match (t.wcbOf st).find? (·.line == line) with
      | some e =>
        let e' : WcbEntry := { e with bytes := bs.foldl (fun m b => Sparse.insert m b.1 b.2) e.bytes }
        leaveIfWhole e' (count (mergeCount st) 1 (t.setWcb st ((t.wcbOf st).map fun x => if x.line == line then e' else x)))
      | none =>
        let e : WcbEntry := ⟨line, bs.foldl (fun m b => Sparse.insert m b.1 b.2) [], t.now⟩
        leaveIfWhole e ((roomMade st t).setWcb st ((roomMade st t).wcbOf st ++ [e])) := rfl

theorem wcbWrite_withCoh (line : Nat) (bs : List (Nat × Byte)) (c : CohState) (s : State) :
    wcbWrite line bs (s.withCoh c) = (wcbWrite line bs s).withCoh c := by
  rw [wcbWrite_eq, wcbWrite_eq]
  simp only [State.withCoh_fields, offlineAccess_withCoh, dropWriteBacks_withCoh, setWcb_withCoh, count_withCoh,
    roomMade_withCoh, leaveIfWhole_withCoh]
  split
  · rfl
  · split <;> rfl

theorem controllerWrite_withCoh (sn : Nat) (d : List Byte) (poison : Bool) (c : CohState) (s : State) :
    controllerWrite sn d poison (s.withCoh c) = (controllerWrite sn d poison s).withCoh c := by
  unfold controllerWrite
  simp only [State.withCoh_fields, setWcb_withCoh,
    wcbWrite_withCoh, stackWrite_withCoh]
  split
  · split <;> rfl
  · split <;> rfl

theorem writeBackDirty_withCoh (l : CLine) (c : CohState) (s : State) :
    writeBackDirty l (s.withCoh c) = (writeBackDirty l s).withCoh c := by
  unfold writeBackDirty
  refine foldl_withCoh (fun s k => ?_) _ s
  dsimp only
  split
  · exact controllerWrite_withCoh _ _ _ c s
  · rfl

end Sys2Proof.Machine
end


section
/-! Proofs about writes at the home of a line (spec 08 R151, R173, R177, R184): the writes that are held there, the
reservations that end, a sector that reads back as written, and O42. -/

namespace Sys2Proof.Machine

/-! ## Writes held at a home: only an engine's write adds one (R184) -/

@[simp] theorem modCis_held (s : State) (k : Nat) (f : CisState → CisState) : (s.modCis k f).coh.held = s.coh.held := rfl
@[simp] theorem setWay_held (s : State) (c set w : Nat) (l : CLine) : (s.setWay c set w l).coh.held = s.coh.held := rfl

theorem drainEvict_held (c : Nat) (s : State) : (drainEvict c s).coh.held = s.coh.held := by
  unfold drainEvict
  split <;> simp

theorem drainLine_held (c line : Nat) (s : State) : (drainLine c line s).coh.held = s.coh.held := by
  unfold drainLine
  exact List.foldlRecOn (motive := fun t : State => t.coh.held = s.coh.held) _ _ rfl fun t ht l _ => by simpa using ht

theorem makeEvictRoom_held (c : Nat) (s : State) : (makeEvictRoom c s).coh.held = s.coh.held := by
  unfold makeEvictRoom
  split
  · simp [drainEvict_held]
  · rfl

theorem chooseVictim_held (c set : Nat) (remote : Bool) (s : State) :
    (chooseVictim c set remote s).2.coh.held = s.coh.held := by
  unfold chooseVictim
  dsimp only
  split
  · rfl
  · exact List.foldlRecOn (motive := fun t : State => t.coh.held = s.coh.held) _ _ rfl fun _ ht _ _ => ht

theorem evictWay_held (c set w : Nat) (s : State) : (evictWay c set w s).coh.held = s.coh.held := by
  unfold evictWay
  dsimp only
  rw [setWay_held]
  split
  · rfl
  · split <;> rfl

theorem allocWay_held (c line : Nat) (remote : Bool) (age : Nat) (s : State) :
    (allocWay c line remote age s).2.coh.held = s.coh.held := by
  unfold allocWay
  split
  · rfl
  · simp only [setWay_held, evictWay_held, chooseVictim_held, makeEvictRoom_held]

theorem fillSectors_held (c line : Nat) (remote dirty : Bool) (age : Nat) (xs : List (Nat × List Byte × Bool)) (s : State) :
    (fillSectors c line remote dirty age xs s).coh.held = s.coh.held := by
  unfold fillSectors
  simp only [setWay_held, allocWay_held]

theorem hitAge_held (c line : Nat) (remote streaming : Bool) (s : State) :
    (hitAge c line remote streaming s).coh.held = s.coh.held := by
  unfold hitAge
  split
  · split <;> rfl
  · rfl

theorem homeWriteSector_held (c sn off : Nat) (bs : List Byte) (poison streaming : Bool) (s : State) :
    (homeWriteSector c sn off bs poison streaming s).coh.held = s.coh.held := by
  unfold homeWriteSector
  dsimp only
  split
  · simp
  · split
    · rfl
    · split
      · simp [cisternWriteWhole, fillSectors_held, drainLine_held]
      · split
        · split
          · simp [hitAge_held, drainLine_held]
          · simp [drainLine_held]
        · simp [drainLine_held]

theorem homeWrite_held (a : Nat) (bs : List Byte) (poison streaming : Bool) (s : State) :
    (homeWrite a bs poison streaming s).coh.held = s.coh.held := by
  unfold homeWrite
  exact List.foldlRecOn (motive := fun t : State => t.coh.held = s.coh.held) _ _ rfl
    fun t ht p _ => (homeWriteSector_held _ _ _ _ _ _ t).trans ht

theorem countWrite_coh (line : Nat) (ks : List Nat) (before after : State) :
    (countWrite line ks before after).coh = after.coh := by
  unfold countWrite
  dsimp only
  split
  · simp
  · split <;> simp

theorem homeWriteLine_held (line : Nat) (ws : List (Nat × List Byte × Bool)) (streaming : Bool) (s : State) :
    (homeWriteLine line ws streaming s).coh.held = s.coh.held := by
  have hwrites : (ws.foldl (fun s w => homeWrite w.1 w.2.1 w.2.2 streaming s) s).coh.held = s.coh.held :=
    List.foldlRecOn (motive := fun t : State => t.coh.held = s.coh.held) _ _ rfl
      fun t ht w _ => (homeWrite_held _ _ _ _ t).trans ht
  unfold homeWriteLine
  dsimp only
  split
  · rw [countWrite_coh, hwrites]
  · exact hwrites

/-! ## An engine's write of a line (R184) -/

/-- The home in which an engine's write of a line is taken: a modified copy has been recalled, and no reservation stands. -/
def readyForWrite (line : Nat) (s : State) : State := breakReservations line none (recallLine line s)

/-- The write's place in the list of the held. -/
def heldBehind (line : Nat) (ws : List (Nat × List Byte × Bool)) (streaming : Bool) (tag : HoldTag) (s : State) : State :=
  { s with coh := { s.coh with held := s.coh.held ++ [⟨line, ws, streaming, (s.dirE line).holders, tag⟩] } }

theorem lineWrite_of_free {line : Nat} {s : State} (hholders : ((readyForWrite line s).dirE line).holders = [])
    (hheld : lineHeld (readyForWrite line s) line = false) (ws : List (Nat × List Byte × Bool)) (streaming : Bool)
    (tag : HoldTag) : lineWrite line ws streaming tag s = homeWriteLine line ws streaming (readyForWrite line s) :=
  if_pos ⟨List.isEmpty_iff.2 hholders, hheld⟩

theorem lineWrite_of_busy {line : Nat} {s : State}
    (h : ((readyForWrite line s).dirE line).holders ≠ [] ∨ lineHeld (readyForWrite line s) line = true)
    (ws : List (Nat × List Byte × Bool)) (streaming : Bool) (tag : HoldTag) :
    lineWrite line ws streaming tag s = heldBehind line ws streaming tag (readyForWrite line s) := by
  refine if_neg ?_
  rintro ⟨hempty, hfree⟩
  obtain hholders | hheld := h
  · exact hholders (List.isEmpty_iff.1 hempty)
  · exact Bool.false_ne_true (hfree.symm.trans hheld)

/-- Either way, what lies outside the stacks and their caches is as the write found it. -/
theorem lineWrite_cores (line : Nat) (ws : List (Nat × List Byte × Bool)) (streaming : Bool) (tag : HoldTag) (s : State) :
    (lineWrite line ws streaming tag s).cores = (readyForWrite line s).cores := by
  by_cases h : ((readyForWrite line s).dirE line).holders = [] ∧ lineHeld (readyForWrite line s) line = false
  · rw [lineWrite_of_free h.1 h.2]
    simp
  · rw [lineWrite_of_busy (by simpa [imp_iff_not_or] using h)]
    rfl

/-- What the default and every changed value meet, every value of the changed map meets. -/
theorem Sparse.get_filterMap_of {α : Type} [DecidableEq α] {P : α → Prop} {d : α} {g : Nat × α → α} (hd : P d)
    (hg : ∀ e, P (g e)) (l : Sparse α) (k : Nat) :
    P (Sparse.get d (l.filterMap fun e => if g e = d then none else some (e.1, g e)) k) := by
  induction l with
  | nil => exact hd
  | cons e l ih =>
    rw [List.filterMap_cons]
    by_cases hdrop : g e = d
    · simpa only [hdrop, if_true] using ih
    · simp only [hdrop, if_false]
      rw [Sparse.get_cons]
      split
      · exact hg e
      · exact ih

/-- No core's reservation on a line outlives the write of another agent (R187, log 47). -/
theorem breakReservations_reservation (line : Nat) (s : State) (k : Nat) :
    ((breakReservations line none s).core k).reservation ≠ some line := by
  refine Sparse.get_filterMap_of (P := fun x : CoreState => x.reservation ≠ some line) (by simp) (fun e => ?_) s.cores k
  split
  · simp
  · next hother => exact fun h => hother ⟨h, by simp⟩

/-- Bytes written within one line are one write of that line. -/
theorem poolWriteMarked_of_line {a : Nat} {bs : List (Byte × Bool)} (hne : bs ≠ []) (hfit : a % 128 + bs.length ≤ 128)
    (streaming : Bool) (tag : HoldTag) (s : State) : poolWriteMarked a bs streaming tag s
      = lineWrite (a / 128) (markRuns a (spreadMarks a bs)) streaming tag s := by
  have hlen : (spreadMarks a bs).length = bs.length := by simp [spreadMarks]
  have hspread : spreadMarks a bs ≠ [] := by
    rw [← List.length_pos_iff, hlen]
    exact List.length_pos_iff.2 hne
  have hwhole : min (spreadMarks a bs).length (128 - a % 128) = (spreadMarks a bs).length := by omega
  unfold poolWriteMarked
  rw [engineWrite, if_neg hspread]
  dsimp only
  rw [hwhole, List.take_length, List.drop_length, engineWrite, if_pos rfl]

/-! ## A sector reads back as written (07 R156, R157) -/

theorem Mem.readN_congr {m m' : Mem} : ∀ {n a : Nat}, (∀ b, a ≤ b → b < a + n → m.read b = m'.read b) →
    m.readN a n = m'.readN a n := by
  intro n
  induction n with
  | zero => exact fun _ => rfl
  | succ n ih =>
    intro a h
    rw [Mem.readN, Mem.readN, h a (Nat.le_refl a) (by omega), ih fun b h1 h2 => h b (by omega) (by omega)]

theorem applyPattern_nil (d : List Byte) : applyPattern [] d = d := by
  unfold applyPattern
  simp only [List.filter_nil, List.foldl_nil, BitVec.xor_zero]
  exact List.map_snd_zip (by simp)

theorem storedSector_of_key {s : State} {sn : Nat} {key : List Byte} (hkey : s.keyOf (s.selectorOf (32 * sn)) = some key) :
    storedSector s sn = (readUnder s sn key (s.hbm.cells.readN (32 * sn) 32) [], (s.mark sn).poison) := by
  unfold storedSector
  simp only [hkey]

/-- What a sector reads as rests on its bytes, its mark, the selectors and the keys. -/
theorem storedSector_congr {s t : State} {sn : Nat} (hx : t.xlt = s.xlt) (hkeys : t.keys = s.keys)
    (hmark : t.mark sn = s.mark sn) (hbytes : t.hbm.cells.readN (32 * sn) 32 = s.hbm.cells.readN (32 * sn) 32) :
    storedSector t sn = storedSector s sn := by
  unfold storedSector readUnder State.keyOf State.selectorOf State.keyEpoch
  rw [hx, hkeys, hmark, hbytes]

theorem storedSector_poisonRecorded (sn : Nat) (poison : Bool) (s : State) (j : Nat) :
    storedSector (poisonRecorded sn poison s) j = storedSector s j := by
  unfold poisonRecorded
  split <;> rfl

theorem sectorWritten_mark (sn : Nat) (d : List Byte) (poison : Bool) (key : List Byte) (s : State) (j : Nat) :
    (sectorWritten sn d poison key s).mark j
      = if j = sn then { poison := poison, key := key, epoch := s.keyEpoch (32 * sn), errs := [] } else s.mark j :=
  Sparse.get_set ..

theorem storedSector_sectorWritten_self {sn : Nat} {d : List Byte} {key : List Byte} {s : State}
    (hkey : s.keyOf (s.selectorOf (32 * sn)) = some key) (hd : d.length = 32) (poison : Bool) :
    storedSector (sectorWritten sn d poison key s) sn = (d, poison) := by
  have hbytes : (sectorWritten sn d poison key s).hbm.cells.readN (32 * sn) 32 = d := by
    have h := readN_writeN d s.hbm.cells (32 * sn)
    rw [hd] at h
    rw [sectorWritten, List.take_of_length_le hd.le, h]
  rw [storedSector_of_key (s := sectorWritten sn d poison key s) hkey, hbytes]
  unfold readUnder
  simp only [sectorWritten_mark, if_true, applyPattern_nil, beq_self_eq_true, and_self]
  rw [if_neg fun h => h rfl]

theorem storedSector_sectorWritten_other {sn j : Nat} (hj : j ≠ sn) {d : List Byte} (hd : d.length = 32) (poison : Bool)
    (key : List Byte) (s : State) : storedSector (sectorWritten sn d poison key s) j = storedSector s j := by
  refine storedSector_congr rfl rfl ?_ (Mem.readN_congr fun b hlo hhi => ?_)
  · rw [sectorWritten_mark, if_neg hj]
  · refine Mem.read_writeN_outside _ _ _ _ ?_
    rw [List.length_take, hd]
    omega

/-- A sector handed to an ACTIVE stack under a loaded key reads back as written, and no other changes. -/
theorem storedSector_stackWrite {sn : Nat} {d key : List Byte} {s : State}
    (hactive : (s.stack (s.stackOf (32 * sn))).mode = .active) (hkey : s.keyOf (s.selectorOf (32 * sn)) = some key)
    (hd : d.length = 32) (poison : Bool) : storedSector (stackWrite sn d poison s) sn = (d, poison)
      ∧ ∀ j, j ≠ sn → storedSector (stackWrite sn d poison s) j = storedSector s j := by
  rw [stackWrite_of_key hactive hkey]
  simp only [storedSector_poisonRecorded]
  exact ⟨storedSector_sectorWritten_self hkey hd poison, fun j hj => storedSector_sectorWritten_other hj hd poison key s⟩

/-! ## The commands -/

theorem exec_homeEngineRead {s : State} (hp : powered s = true) (e : BitVec 8) {pa : PAddr} {n : Nat}
    (hfit : pa.toNat + n ≤ poolBytes) (streaming noRemote : Bool) (d : Nat) :
    exec (.homeEngineRead e pa n streaming noRemote d) s =
      let r := engineRead e.toNat streaming noRemote d (n / 128 + 2) pa.toNat n s
      .next { r.2 with hbm := { r.2.hbm with delivered := some (r.1.map Prod.fst, r.1.any Prod.snd) } } := by
  change execHomeEngineRead e pa n streaming noRemote d s = _
  unfold execHomeEngineRead
  rw [if_neg (by simp [hp]), if_pos hfit]

theorem exec_homeEngineWrite {s : State} (hp : powered s = true) (e : BitVec 8) {pa : PAddr} {bs : List Byte}
    (hfit : pa.toNat + bs.length ≤ poolBytes) (poison streaming : Bool) :
    exec (.homeEngineWrite e pa bs poison streaming) s
      = .next (poolWriteMarked pa.toNat (bs.map fun b => (b, poison)) streaming .none s) := by
  change execHomeEngineWrite e pa bs poison streaming s = _
  unfold execHomeEngineWrite
  rw [if_neg (by simp [hp]), if_pos hfit]

theorem exec_evictionBufferDrain {s : State} (hp : powered s = true) (c : CisternId) :
    exec (.evictionBufferDrain c) s = .next (drainEvict c.val s) :=
  congrArg Host.Outcome.next (clocked_of_powered hp _)

/-- The state after the oldest line of an eviction buffer has left it for the controllers, which look at no Cistern. -/
theorem drainEvict_of_cons {c : Nat} {l : CLine} {rest : List CLine} {s : State} (h : (s.cis c).evict = l :: rest) :
    drainEvict c s = (writeBackDirty l s).withCoh (s.modCis c fun x => { x with evict := rest }).coh := by
  unfold drainEvict
  simp only [h]
  exact writeBackDirty_withCoh l _ s

theorem lineWrite_effect {line : Nat} {ws : List (Nat × List Byte × Bool)} {streaming : Bool} {tag : HoldTag} {s t : State}
    (ht : lineWrite line ws streaming tag s = t) : let s1 := recallLine line s
    (∀ k, (t.core k).reservation ≠ some line) ∧ t.queues = s.queues ∧ t.xlt = s.xlt
      ∧ ((s1.dirE line).holders = [] → lineHeld s1 line = false → t.coh.held = s1.coh.held)
      ∧ ((s1.dirE line).holders ≠ [] ∨ lineHeld s1 line = true → t.hbm = s1.hbm ∧ t.coh.cis = s1.coh.cis
        ∧ t.coh.dir = s1.coh.dir ∧ t.coh.held.map HeldWrite.line = s1.coh.held.map HeldWrite.line ++ [line]) := by
  subst ht
  refine ⟨fun k => ?_, by simp, by simp, fun hholders hheld => ?_, fun hbusy => ?_⟩
  · rw [State.core, lineWrite_cores]
    exact breakReservations_reservation line (recallLine line s) k
  · rw [lineWrite_of_free (s := s) hholders hheld, homeWriteLine_held]
    rfl
  · rw [lineWrite_of_busy (s := s) hbusy]
    exact ⟨rfl, rfl, rfl, List.map_append ..⟩

/-- Settles O42: an engine's write of a line is done or held (`lineWrite_effect`), an eviction is the controllers' work alone
(`drainEvict_of_cons`), and a sector reads back as written (`storedSector_stackWrite`). -/
theorem poolAccessesOfEngines : Obligations.PoolAccessesOfEngines := by
  unfold Obligations.PoolAccessesOfEngines
  refine ⟨?read, ?write, fun line ws st tag s => ⟨?free, ?busy⟩, fun c s hp => ⟨?empty, ?drain⟩, ?sector⟩
  case read =>
    intro e pa n d st nr s hp hfit
    exact ⟨_, exec_homeEngineRead hp e hfit st nr d, rfl, rfl⟩
  case write =>
    intro e pa bs p st s hp hfit
    have hexec := exec_homeEngineWrite hp e hfit p st
    refine ⟨hexec, fun hne hline => ⟨_, hexec, ?_⟩⟩
    exact lineWrite_effect (poolWriteMarked_of_line (by simpa using hne) (by simpa using hline) st .none s).symm
  case free => exact fun hholders hheld => lineWrite_of_free (s := s) hholders hheld ws st tag
  case busy => exact fun hbusy => lineWrite_of_busy (s := s) hbusy ws st tag
  case empty =>
    intro hempty
    rw [exec_evictionBufferDrain hp, drainEvict, hempty]
  case drain =>
    intro l rest hevict
    refine ⟨_, exec_evictionBufferDrain hp c, ?_⟩
    rw [drainEvict_of_cons hevict]
    refine ⟨?_, fun k hk => ?_, rfl, ?_, rfl⟩
    · exact Sparse.get_set_self ..
    · exact Sparse.get_set_other _ _ _ _ _ hk
    · change (writeBackDirty l s).cores = s.cores
      simp
  case sector =>
    intro sn d p k s hactive hkey hd
    exact storedSector_stackWrite hactive hkey hd p

end Sys2Proof.Machine
end


section
/-! Proofs about the controllers of the stacks (spec 07 R151-R163): what a decoded read leaves alone, entries that leave the
write-combining buffer, retunes from their schedule to their end, and O43. -/

namespace Sys2Proof.Machine

/-! ## What the controllers leave alone -/

/-- Every pseudo-channel's retune, and its count of failures, stand. -/
structure RetunesStand (s t : State) : Prop where
  active : ∀ p, (t.pc p).active = (s.pc p).active
  fails : ∀ p, (t.pc p).fails = (s.pc p).fails

/-- The stacks' modes, temperatures and positions and the write-combining buffers stand too. -/
structure BuffersStand (s t : State) : Prop extends RetunesStand s t where
  stks : t.hbm.stks = s.hbm.stks
  wcb : t.hbm.wcb = s.hbm.wcb

/-- What a read leaves: the bytes in the stacks stand too. -/
structure ContentsStand (s t : State) : Prop extends BuffersStand s t where
  cells : t.hbm.cells = s.hbm.cells

theorem RetunesStand.refl (s : State) : RetunesStand s s := ⟨fun _ => rfl, fun _ => rfl⟩

theorem RetunesStand.trans {s t u : State} (h : RetunesStand s t) (h' : RetunesStand t u) : RetunesStand s u :=
  ⟨fun p => (h'.active p).trans (h.active p), fun p => (h'.fails p).trans (h.fails p)⟩

theorem BuffersStand.trans {s t u : State} (h : BuffersStand s t) (h' : BuffersStand t u) : BuffersStand s u :=
  ⟨h.toRetunesStand.trans h'.toRetunesStand, h'.stks.trans h.stks, h'.wcb.trans h.wcb⟩

theorem ContentsStand.trans {s t u : State} (h : ContentsStand s t) (h' : ContentsStand t u) : ContentsStand s u :=
  ⟨h.toBuffersStand.trans h'.toBuffersStand, h'.cells.trans h.cells⟩

theorem retunesStand_of_pcs {s t : State} (h : t.hbm.pcs = s.hbm.pcs) : RetunesStand s t := by
  constructor <;> intro p <;> unfold State.pc <;> rw [h]

theorem contentsStand_of_hbm {s t : State} (h : t.hbm = s.hbm) : ContentsStand s t :=
  ⟨⟨retunesStand_of_pcs (by rw [h]), by rw [h], by rw [h]⟩, by rw [h]⟩

theorem ContentsStand.refl (s : State) : ContentsStand s s := contentsStand_of_hbm rfl

/-- A change of the logs, marks and reports alone. -/
theorem contentsStand_of_fields {s t : State} (hpcs : t.hbm.pcs = s.hbm.pcs) (hstks : t.hbm.stks = s.hbm.stks)
    (hwcb : t.hbm.wcb = s.hbm.wcb) (hcells : t.hbm.cells = s.hbm.cells) : ContentsStand s t :=
  ⟨⟨retunesStand_of_pcs hpcs, hstks, hwcb⟩, hcells⟩

theorem hbmEvent_hbm (k st : Nat) (s : State) : (hbmEvent k st s).hbm = s.hbm := by simp [hbmEvent]

theorem ContentsStand.count {s t : State} (h : ContentsStand s t) (key n : Nat) : ContentsStand s (count key n t) :=
  h.trans (contentsStand_of_hbm (by simp))

theorem ContentsStand.hbmEvent {s t : State} (h : ContentsStand s t) (k st : Nat) : ContentsStand s (hbmEvent k st t) :=
  h.trans (contentsStand_of_hbm (hbmEvent_hbm k st t))

theorem ContentsStand.logError {s t : State} (h : ContentsStand s t) (r : ErrRec) : ContentsStand s (logError r t) :=
  h.trans (contentsStand_of_fields rfl rfl rfl rfl)

theorem pageCorrection_contentsStand (st page : Nat) (s : State) : ContentsStand s (pageCorrection st page s) := by
  unfold pageCorrection
  dsimp only
  split
  · refine ContentsStand.hbmEvent ?_ _ _
    exact contentsStand_of_fields rfl rfl rfl rfl
  · exact contentsStand_of_fields rfl rfl rfl rfl

/-- An update of a pseudo-channel that keeps its retune and its failures. -/
theorem ContentsStand.modPc {s t : State} (h : ContentsStand s t) (p : Nat) {f : PcSt → PcSt}
    (hactive : ∀ x, (f x).active = x.active) (hfails : ∀ x, (f x).fails = x.fails) : ContentsStand s (t.modPc p f) := by
  refine h.trans ⟨⟨⟨fun k => ?_, fun k => ?_⟩, rfl, rfl⟩, rfl⟩ <;> rw [State.pc_modPc] <;> split
  · next h => rw [hactive, h]
  · rfl
  · next h => rw [hfails, h]
  · rfl

/-- A pin that is marked changes nothing of the retune. -/
theorem pinCorrection_contentsStand (pc pin : Nat) (s : State) : ContentsStand s (pinCorrection pc pin s) := by
  unfold pinCorrection
  dsimp only
  split
  · refine (ContentsStand.modPc ?_ pc ?_ ?_).hbmEvent _ _
    · exact contentsStand_of_fields rfl rfl rfl rfl
    · exact fun _ => rfl
    · exact fun _ => rfl
  · exact contentsStand_of_fields rfl rfl rfl rfl

theorem ContentsStand.pinCorrections {s t : State} (h : ContentsStand s t) (pc : Nat) (fix : List (Nat × Nat)) :
    ContentsStand s (fix.foldl (fun x e => pinCorrection pc e.1 x) t) :=
  List.foldlRecOn (motive := ContentsStand s) fix _ h fun u hu e _ => hu.trans (pinCorrection_contentsStand pc e.1 u)

theorem noteCorrected_contentsStand (pc sn : Nat) (fix : List (Nat × Nat)) (d : List Byte) (s : State) :
    ContentsStand s (noteCorrected pc sn fix d s) := by
  have hlogged := (((ContentsStand.refl s).count (ceCount (pc / 64)) 1).hbmEvent 0 (pc / 64)).logError
    ⟨s.now, 32 * sn, pc, .corrected, patternMask fix⟩
  have hpins := (hlogged.trans (pageCorrection_contentsStand (pc / 64) (32 * sn / 0x4000000) _)).pinCorrections pc fix
  exact hpins.trans (contentsStand_of_fields rfl rfl rfl rfl)

theorem noteUncorrectable_contentsStand (pc sn : Nat) (s : State) : ContentsStand s (noteUncorrectable pc sn s) := by
  have hlogged := (((ContentsStand.refl s).count (ueCount (pc / 64)) 1).hbmEvent 1 (pc / 64)).logError
    ⟨s.now, 32 * sn, pc, .uncorrectable, 0⟩
  refine ContentsStand.hbmEvent (hlogged.trans ?_) _ _
  exact contentsStand_of_fields rfl rfl rfl rfl

theorem stackRead_contentsStand (sn : Nat) (s : State) : ContentsStand s (stackRead sn s).2 := by
  unfold stackRead
  dsimp only
  split
  · exact .refl s
  · exact .refl s
  · exact noteCorrected_contentsStand _ _ _ _ s
  · exact noteUncorrectable_contentsStand _ _ s

theorem offlineAccess_contentsStand (st : Nat) (s : State) : ContentsStand s (offlineAccess st s) :=
  contentsStand_of_hbm (offlineAccess_hbm st s)

theorem controllerRead_contentsStand (sn : Nat) (s : State) : ContentsStand s (controllerRead sn s).2 := by
  unfold controllerRead
  dsimp only
  split
  · exact offlineAccess_contentsStand _ s
  · split
    · split
      · exact .refl s
      · exact stackRead_contentsStand sn s
    · split
      · exact .refl s
      · exact stackRead_contentsStand sn s

theorem decodeSector_contentsStand (pc sn : Nat) (errs : List (Fin 36 × Byte)) (s : State) :
    ContentsStand s (decodeSector pc sn errs s) := by
  unfold decodeSector
  dsimp only
  refine .trans ?_ ((controllerRead_contentsStand sn _).trans (contentsStand_of_fields rfl rfl rfl rfl))
  split
  · exact .refl s
  · exact contentsStand_of_fields rfl rfl rfl rfl

theorem decodeSector_coh (pc sn : Nat) (errs : List (Fin 36 × Byte)) (s : State) : (decodeSector pc sn errs s).coh = s.coh := by
  unfold decodeSector
  dsimp only
  rw [(controllerRead_fr sn _).2.2.2.2.2.2.2.1]
  split <;> rfl

theorem stackWrite_buffersStand (sn : Nat) (d : List Byte) (poison : Bool) (s : State) :
    BuffersStand s (stackWrite sn d poison s) := by
  obtain heq | heq | ⟨key, heq⟩ := stackWrite_cases sn d poison s <;> rw [heq]
  · exact (offlineAccess_contentsStand _ s).toBuffersStand
  · exact (ContentsStand.refl s).toBuffersStand
  · obtain ⟨l, hlog⟩ := poisonRecorded_hbm sn poison (sectorWritten sn d poison key s)
    exact ⟨retunesStand_of_pcs (by rw [hlog]; rfl), by rw [hlog]; rfl, by rw [hlog]; rfl⟩

theorem mergeRead_contentsStand (sn : Nat) (s : State) : ContentsStand s (mergeRead sn s).2 := by
  have hread := ((ContentsStand.refl s).count (rmwCount (s.stackOf (32 * sn))) 1).trans (stackRead_contentsStand sn _)
  unfold mergeRead
  dsimp only
  split
  · exact hread.count _ _
  · exact hread

theorem flushSector_buffersStand (e : WcbEntry) (k : Nat) (s : State) : BuffersStand s (flushSector e k s) := by
  unfold flushSector
  dsimp only
  split
  · exact (ContentsStand.refl s).toBuffersStand
  · split
    · exact stackWrite_buffersStand _ _ _ s
    · exact (mergeRead_contentsStand _ s).toBuffersStand.trans (stackWrite_buffersStand _ _ _ _)

/-! ## Entries of the write-combining buffer (R151) -/

/-- Stack st's buffer without entry e. -/
def entryTaken (e : WcbEntry) (s : State) : State :=
  s.setWcb (s.stackOf (128 * e.line)) ((s.wcbOf (s.stackOf (128 * e.line))).erase e)

/-- An entry that leaves is taken from its buffer; the write of its sectors touches no buffer. -/
theorem leaveEntry_buffersStand (e : WcbEntry) (s : State) : BuffersStand (entryTaken e s) (leaveEntry e s) := by
  unfold leaveEntry
  exact (flushSector_buffersStand e 0 _).trans <| (flushSector_buffersStand e 1 _).trans <|
    (flushSector_buffersStand e 2 _).trans (flushSector_buffersStand e 3 _)

theorem leaveEntry_retunesStand (e : WcbEntry) (s : State) : RetunesStand s (leaveEntry e s) :=
  .trans (t := entryTaken e s) (retunesStand_of_pcs rfl) (leaveEntry_buffersStand e s).toRetunesStand

theorem leaveEntry_wcbOf (e : WcbEntry) (s : State) (k : Nat) : (leaveEntry e s).wcbOf k
    = if k = s.stackOf (128 * e.line) then (s.wcbOf (s.stackOf (128 * e.line))).erase e else s.wcbOf k := by
  unfold State.wcbOf
  rw [(leaveEntry_buffersStand e s).wcb]
  exact Sparse.get_set ..

/-! ## Decoded reads (R154, R164) -/

theorem sectorDecode_clean {s : State} {sn : Nat} (herrs : (s.mark sn).errs = []) (hgood : (storedSector s sn).2 = false) :
    sectorDecode s sn = .clean := by
  unfold sectorDecode
  simp [herrs, hgood]

/-- With no failed symbol the decoder gives what is stored. -/
theorem patchedSector_nil {s : State} {sn : Nat} (herrs : (s.mark sn).errs = []) :
    patchedSector s sn [] = (storedSector s sn).1 := by
  unfold patchedSector storedSector
  simp only [herrs, List.append_nil, applyPattern_nil]
  split <;> rfl

theorem stackRead_clean {s : State} {sn : Nat} (herrs : (s.mark sn).errs = []) (hgood : (storedSector s sn).2 = false) :
    stackRead sn s = (((storedSector s sn).1, false), s) := by
  unfold stackRead
  simp only [sectorDecode_clean herrs hgood, patchedSector_nil herrs]

/-- A sector of which the buffer holds no byte is read from its stack. -/
theorem controllerRead_unbuffered {s : State} {sn : Nat} (hactive : (s.stack (s.stackOf (32 * sn))).mode = .active)
    (hbuf : ((s.wcbOf (s.stackOf (32 * sn))).find? fun e => e.line == sn / 4) = none) :
    controllerRead sn s = stackRead sn s := by
  unfold controllerRead
  simp only [hactive, ne_eq, not_true_eq_false, if_false, hbuf]
  rfl

theorem decodeSector_clean {s : State} {sn : Nat} (hactive : (s.stack (s.stackOf (32 * sn))).mode = .active)
    (hbuf : ((s.wcbOf (s.stackOf (32 * sn))).find? fun e => e.line == sn / 4) = none) (herrs : (s.mark sn).errs = [])
    (hgood : (storedSector s sn).2 = false) (pc : Nat) :
    decodeSector pc sn [] s = { s with hbm := { s.hbm with delivered := some ((storedSector s sn).1, false) } } := by
  unfold decodeSector
  simp only [List.map_nil, List.filter_nil, true_or, if_true, controllerRead_unbuffered hactive hbuf,
    stackRead_clean herrs hgood]

/-- A read of a stack out of service is counted and delivers poison (R164). -/
theorem decodeSector_offline {s : State} {sn : Nat} (hmode : (s.stack (s.stackOf (32 * sn))).mode ≠ .active) (pc : Nat)
    (errs : List (Fin 36 × Byte)) : decodeSector pc sn errs s =
      let t := offlineAccess (s.stackOf (32 * sn)) s
      { t with hbm := { t.hbm with delivered := some (List.replicate 32 0, true) } } := by
  unfold decodeSector controllerRead
  simp only [hmode, ne_eq, not_false_eq_true, or_true, if_true]

theorem offlineAccess_ctr (st : Nat) (s : State) : (offlineAccess st s).ctr (offlineCount st)
    = w64 (min ((s.ctr (offlineCount st)).toNat + 1) (2 ^ 64 - 1)) := by
  simp [offlineAccess, hbmEvent, ctr_count]

/-! ## Patrol scrubbing (R158) -/

theorem scrubNext_keeps (hours tick : Nat) (x : StackSt) : (scrubNext hours tick x).mode = x.mode
    ∧ (scrubNext hours tick x).scrubPos = if x.scrubPos + 1 = 64 * 25165824 then 0 else x.scrubPos + 1 := by
  unfold scrubNext
  split <;> exact ⟨rfl, rfl⟩

/-! ## Schedules (R162) -/

theorem mem_insertStart (t : Nat) (b : RetuneBy) (l : List (Nat × RetuneBy)) (x : Nat × RetuneBy) :
    x ∈ insertStart t b l ↔ x = (t, b) ∨ x ∈ l := by
  induction l with
  | nil => simp [insertStart]
  | cons y l ih =>
    unfold insertStart
    split
    · simp
    · simp only [List.mem_cons, ih]
      tauto

/-- A start that the stack's temperature has asked for waits for the pseudo-channel. -/
def AutoStart (p : Nat) (s : State) : Prop := ∃ e ∈ (s.pc p).sched, e.2 = .auto

theorem scheduleAll_frame (base : Nat) : ∀ (l : List Nat) (first : Nat) (s : State),
    (scheduleAll base first l s).hbm.stks = s.hbm.stks ∧ { scheduleAll base first l s with hbm := s.hbm } = s
  | [], _, _ => ⟨rfl, rfl⟩
  | k :: ks, first, s => by
    unfold scheduleAll
    dsimp only
    split
    · exact scheduleAll_frame base ks first s
    · obtain ⟨hstks, hframe⟩ := scheduleAll_frame base ks (first + 100000)
        (s.modPc (base + k) fun x => { x with sched := insertStart first .auto x.sched })
      exact ⟨hstks, congrArg (fun t : State => { t with hbm := s.hbm }) hframe⟩

/-- Scheduling a start at a pseudo-channel keeps every start that waits, and which of them are DEGRADED. -/
theorem addStart_keeps (q first : Nat) (s : State) (p : Nat) :
    let t := s.modPc q fun x => { x with sched := insertStart first .auto x.sched }
    (t.pc p).degraded = (s.pc p).degraded ∧ (AutoStart p s → AutoStart p t) := by
  dsimp only
  unfold AutoStart
  rw [State.pc_modPc]
  split
  · next h =>
    subst h
    exact ⟨rfl, fun ⟨e, he, hauto⟩ => ⟨e, (mem_insertStart ..).2 (.inr he), hauto⟩⟩
  · exact ⟨rfl, id⟩

theorem scheduleAll_keeps_autoStart (base p : Nat) : ∀ (l : List Nat) (first : Nat) (s : State),
    AutoStart p s → AutoStart p (scheduleAll base first l s)
  | [], _, _, h => h
  | k :: ks, first, s, h => by
    unfold scheduleAll
    dsimp only
    split
    · exact scheduleAll_keeps_autoStart base p ks first s h
    · exact scheduleAll_keeps_autoStart base p ks _ _ ((addStart_keeps (base + k) first s p).2 h)

theorem scheduleAll_autoStart (base : Nat) {j : Nat} {l : List Nat} (hj : j ∈ l) : ∀ (first : Nat) (s : State),
    (s.pc (base + j)).degraded = false → AutoStart (base + j) (scheduleAll base first l s) := by
  induction l with
  | nil => exact absurd hj List.not_mem_nil
  | cons k ks ih =>
    intro first s hgood
    unfold scheduleAll
    dsimp only
    obtain rfl | hj := List.mem_cons.1 hj
    · split
      · next hkept =>
        simp only [hgood, Bool.false_or, List.any_eq_true, beq_iff_eq] at hkept
        exact scheduleAll_keeps_autoStart base _ ks _ _ hkept
      · refine scheduleAll_keeps_autoStart base _ ks _ _ ⟨(first, .auto), ?_, rfl⟩
        rw [State.pc_modPc_self]
        exact (mem_insertStart ..).2 (.inl rfl)
    · split
      · exact ih hj _ _ hgood
      · exact ih hj _ _ (((addStart_keeps (base + k) first s (base + j)).1).trans hgood)

/-! ## The end of a retune (R161, R163) -/

theorem afterStall_retunesStand (k : Nat) (s : State) : RetunesStand s (afterStall k s) := by
  have hreads : RetunesStand s (releaseReads s) := by
    unfold releaseReads
    dsimp only
    split
    · exact .refl s
    · exact List.foldlRecOn (motive := RetunesStand s) _ _ (retunesStand_of_pcs rfl) fun t ht r _ =>
        ht.trans (decodeSector_contentsStand r.1 r.2 [] t).toRetunesStand
  unfold afterStall releaseEntries
  refine List.foldlRecOn (motive := RetunesStand s) _ _ hreads fun t ht e _ => ?_
  split
  · exact ht.trans (leaveEntry_retunesStand e t)
  · exact ht

/-- A retune that has ended is under way no more; a success clears the failures, a failure counts one more. -/
theorem retuneEnded_pc (p : Nat) (ok : Bool) (s : State) : ((retuneEnded p ok s).pc p).active = none
    ∧ ((retuneEnded p ok s).pc p).fails = if ok then 0 else min 3 ((s.pc p).fails + 1) := by
  unfold retuneEnded
  dsimp only
  split
  · have h := afterStall_retunesStand (p / 64)
      ((s.modPc p fun x => { x with active := none, fails := 0 }).modStack (p / 64) fun x => { x with tune := x.temp })
    rw [h.active, h.fails, show ∀ (t : State) k f, (t.modStack k f).pc p = t.pc p from fun _ _ _ => rfl, State.pc_modPc_self]
    exact ⟨rfl, rfl⟩
  · have h := fun r t => (((ContentsStand.refl t).logError r).hbmEvent 3 (p / 64)).toRetunesStand.trans
      (afterStall_retunesStand (p / 64) _)
    rw [(h _ _).active, (h _ _).fails, State.pc_modPc_self]
    exact ⟨rfl, rfl⟩

end Sys2Proof.Machine
end


section
/-! The commands of the stacks' controllers (spec 07 R151-R163), and O43. -/

namespace Sys2Proof.Machine

/-! ## Reads and write-backs (R154, R155) -/

theorem exec_sectorRead {s : State} (hp : powered s = true) (pc : PcId) {k : Nat} (hk : k < 25165824)
    (errs : List (Fin 36 × Byte)) :
    exec (.sectorRead pc k errs) s = .next (sectorRead pc.val (poolAddrOf s.hbm pc.val (32 * k) / 32) errs s) := by
  change execSectorRead pc k errs s = _
  unfold execSectorRead
  rw [if_neg (by simp [hp]), if_pos hk]

theorem exec_correctedWriteBack {s : State} (hp : powered s = true) (pc : PcId) (k : Nat) :
    exec (.correctedWriteBack pc k) s = .next
      (match s.hbm.writeBacks.find? (·.1 == poolAddrOf s.hbm pc.val (32 * k) / 32) with
      | none => s
      | some w => stackWrite (poolAddrOf s.hbm pc.val (32 * k) / 32) w.2 false s) := by
  change execCorrectedWriteBack pc k s = _
  unfold execCorrectedWriteBack
  exact if_neg (by simp [hp])

/-- A corrected sector goes to its stack, where it reads as corrected, and is written back once. -/
theorem correctedWriteBack_effect {sn : Nat} {d key : List Byte} {s : State}
    (hactive : (s.stack (s.stackOf (32 * sn))).mode = .active) (hkey : s.keyOf (s.selectorOf (32 * sn)) = some key)
    (hd : d.length = 32) : let t := stackWrite sn d false s
    storedSector t sn = (d, false) ∧ (∀ j, j ≠ sn → storedSector t j = storedSector s j)
      ∧ (∀ x ∈ t.hbm.writeBacks, x.1 ≠ sn) ∧ { t with hbm := s.hbm } = s := by
  obtain ⟨hself, hother⟩ := storedSector_stackWrite hactive hkey hd false
  refine ⟨hself, hother, ?_⟩
  rw [stackWrite_of_key hactive hkey]
  exact ⟨fun x hx => by simpa using List.of_mem_filter hx, rfl⟩

/-! ## The write-combining buffer (R151) -/

theorem exec_wcbEntryTimeout {s : State} (hp : powered s = true) {k : StackId} {e : WcbEntry} {rest : List WcbEntry}
    (hbuf : s.wcbOf k.val = e :: rest) : exec (.wcbEntryTimeout k) s
      = .next (if e.born + 2000 ≤ s.now ∧ mayLeave s e = true then leaveEntry e s else s) := by
  change execWcbEntryTimeout k s = _
  unfold execWcbEntryTimeout
  rw [if_neg (by simp [hp]), hbuf]

theorem leaveEntry_of_oldest {e : WcbEntry} {rest : List WcbEntry} {k : Nat} {s : State} (hbuf : s.wcbOf k = e :: rest)
    (hstack : s.stackOf (128 * e.line) = k) : (leaveEntry e s).wcbOf k = rest
      ∧ ∀ j, j ≠ k → (leaveEntry e s).wcbOf j = s.wcbOf j := by
  simp only [leaveEntry_wcbOf, hstack, if_true, hbuf, List.erase_cons_head]
  exact ⟨trivial, fun j hj => if_neg hj⟩

/-! ## Patrol scrubbing (R158) -/

/-- The next sector of stack k is due. -/
structure ScrubDue (k : Nat) (s : State) : Prop where
  enabled : s.hbm.scrubEn = true
  active : (s.stack k).mode = .active
  free : (s.pc (64 * k + (s.stack k).scrubPos / 25165824 % 64)).active = none
  due : scrubDue s.hbm.scrubHours (s.stack k).scrubFrom (s.stack k).scrubPos ≤ s.ticks

theorem exec_patrolScrub {s : State} (hp : powered s = true) {k : StackId} (h : ScrubDue k.val s)
    (errs : List (Fin 36 × Byte)) : exec (.patrolScrub k errs) s =
      let pos := (s.stack k.val).scrubPos
      let pc := 64 * k.val + pos / 25165824 % 64
      .next (decodeSector pc (poolAddrOf s.hbm pc (32 * (pos % 25165824)) / 32) errs
        (s.modStack k.val (scrubNext s.hbm.scrubHours s.ticks))) := by
  change execPatrolScrub k errs s = _
  unfold execPatrolScrub
  rw [if_neg (by simp [hp])]
  dsimp only
  rw [if_pos ⟨h.enabled, h.active, h.free, h.due⟩]

/-- A scrub read steps its stack's position and leaves the bytes of the stacks and the Cisterns alone. -/
theorem scrub_effect (k pc sn : Nat) (errs : List (Fin 36 × Byte)) (s : State) :
    let t := decodeSector pc sn errs (s.modStack k (scrubNext s.hbm.scrubHours s.ticks))
    (t.stack k).mode = (s.stack k).mode ∧ t.coh = s.coh ∧ t.hbm.cells = s.hbm.cells
      ∧ (t.stack k).scrubPos = if (s.stack k).scrubPos + 1 = 64 * 25165824 then 0 else (s.stack k).scrubPos + 1 := by
  intro t
  have hread := decodeSector_contentsStand pc sn errs (s.modStack k (scrubNext s.hbm.scrubHours s.ticks))
  have hstack : t.stack k = scrubNext s.hbm.scrubHours s.ticks (s.stack k) := by
    rw [State.stack, hread.stks]
    exact Sparse.get_set_self ..
  obtain ⟨hmode, hpos⟩ := scrubNext_keeps s.hbm.scrubHours s.ticks (s.stack k)
  rw [hstack, hmode, hpos]
  exact ⟨rfl, decodeSector_coh .., hread.cells, rfl⟩

/-! ## Retunes (R161-R163) -/

/-- When the first of a stack's retunes may start (R162). -/
def firstStart (k : Nat) (s : State) : Nat :=
  match (s.stack k).lastStart with | none => s.now | some t => max s.now (t + 100000)

/-- The stack's temperature as reported. -/
def withTemp (k : Nat) (temp : Byte) (s : State) : State := s.modStack k fun x => { x with temp := temp }

theorem exec_retuneSchedule_near {k : StackId} {temp : BitVec 8} {s : State}
    (h1 : temp.toNat < (s.stack k.val).tune.toNat + 10) (h2 : (s.stack k.val).tune.toNat < temp.toNat + 10) :
    exec (.retuneSchedule k temp) s = .next (withTemp k.val temp s) := by
  change execRetuneSchedule k temp s = _
  unfold execRetuneSchedule
  dsimp only
  rw [if_neg (by omega)]
  rfl

theorem exec_retuneSchedule_far {k : StackId} {temp : BitVec 8} {s : State} (hruns : fwRuns s = true)
    (hactive : (s.stack k.val).mode = .active)
    (hfar : (s.stack k.val).tune.toNat + 10 ≤ temp.toNat ∨ temp.toNat + 10 ≤ (s.stack k.val).tune.toNat) :
    exec (.retuneSchedule k temp) s
      = .next (scheduleAll (64 * k.val) (firstStart k.val s) (List.range 64) (withTemp k.val temp s)) := by
  change execRetuneSchedule k temp s = _
  unfold execRetuneSchedule
  dsimp only
  rw [if_pos ⟨hruns, hactive, by omega⟩]
  rfl

theorem exec_retuneStart {s : State} (hp : powered s = true) {p : PcId} {x : Nat} {b : RetuneBy}
    {rest : List (Nat × RetuneBy)} (hsched : (s.pc p.val).sched = (x, b) :: rest) (hdue : x ≤ s.now)
    (hfree : retuneFree p.val s = true) (hactive : (s.stack (p.val / 64)).mode = .active) : exec (.retuneStart p) s =
      .next ((s.modPc p.val fun y => { y with sched := rest, active := some (s.now, b) }).modStack (p.val / 64)
        fun y => { y with lastStart := some s.now }) := by
  change execRetuneStart p s = _
  unfold execRetuneStart
  rw [if_neg (by simp [hp]), hsched]
  dsimp only
  rw [if_pos ⟨hdue, hfree, hactive⟩]

theorem exec_retuneEnd_auto {s : State} (hp : powered s = true) {p : PcId} {x : Nat}
    (hactive : (s.pc p.val).active = some (x, .auto)) (ok : Bool) :
    exec (.retuneEnd p ok) s = .next (retuneEnded p.val ok s) := by
  refine congrArg Host.Outcome.next ((clocked_of_powered hp _).trans ?_)
  unfold retuneEnd
  simp only [hactive]

/-! ## O43 -/

/-- Settles O43: reads leave the contents alone (`ContentsStand`), a corrected sector is written back once
(`correctedWriteBack_effect`), every pseudo-channel not DEGRADED is scheduled (`scheduleAll_autoStart`), and nothing that a
stall held back starts or ends a retune (`retuneEnded_pc`). -/
theorem stackControllersAct : Obligations.StackControllersAct := by
  unfold Obligations.StackControllersAct
  refine ⟨?read, ?writeBack, ?timeout, ?scrub, ?schedule, ?start, ?finish⟩
  case read =>
    intro pc k errs s hp hk
    have hexec := exec_sectorRead hp pc hk errs
    unfold sectorRead at hexec
    refine ⟨fun hstall => ⟨_, hexec, by rw [if_pos hstall]⟩, fun hstall => ?_⟩
    rw [if_neg (by simp [hstall])] at hexec
    refine ⟨hexec, fun hactive hbuf hmark hgood hclean => ⟨_, hexec, ?_⟩, fun hmode => ⟨_, hexec, ?_⟩⟩
    · rw [hclean]
      exact decodeSector_clean hactive hbuf hmark hgood _
    · rw [decodeSector_offline hmode]
      exact ⟨rfl, by simp only [offlineAccess_hbm], by simp only [offlineAccess_hbm], offlineAccess_ctr _ s⟩
  case writeBack =>
    intro pc k s hp
    have hexec := exec_correctedWriteBack hp pc k
    refine ⟨fun w key hw hactive hkey hd => ?_, fun hnone => ?_⟩
    · rw [hw] at hexec
      exact ⟨_, hexec, correctedWriteBack_effect hactive hkey hd⟩
    · rwa [List.find?_eq_none.2 fun w hw => by simpa using hnone w hw] at hexec
  case timeout =>
    intro k s e rest hp hbuf
    have hexec := exec_wcbEntryTimeout hp hbuf
    refine ⟨fun hold hmay => ?_, fun hkept => ?_⟩
    · rw [if_pos ⟨hold, hmay⟩] at hexec
      refine ⟨hexec, fun hstack => ⟨_, hexec, ?_⟩⟩
      obtain ⟨hself, hother⟩ := leaveEntry_of_oldest hbuf hstack
      exact ⟨hself, hother, by simp, by simp⟩
    · have hstays : ¬ (e.born + 2000 ≤ s.now ∧ mayLeave s e = true) := fun ⟨hold, hmay⟩ =>
        hkept.elim (fun h => absurd hold (Nat.not_le.2 h)) fun h => Bool.false_ne_true (h.symm.trans hmay)
      rwa [if_neg hstays] at hexec
  case scrub =>
    intro k errs s pos pc hp hen hactive hfree hdue
    have hexec := exec_patrolScrub hp ⟨hen, hactive, hfree, hdue⟩ errs
    refine ⟨hexec, _, hexec, ?_⟩
    obtain ⟨hmode, hcoh, hcells, hpos⟩ := scrub_effect k.val pc (poolAddrOf s.hbm pc (32 * (pos % 25165824)) / 32) errs s
    exact ⟨hmode.trans hactive, hcoh, hcells, hpos⟩
  case schedule =>
    intro k temp s
    refine ⟨fun h1 h2 => ⟨_, exec_retuneSchedule_near h1 h2, ?_⟩, fun hruns hactive hfar => ?_⟩
    · exact ⟨State.stack_modStack_self .., fun j hj => State.stack_modStack_other _ _ _ _ hj, fun _ => rfl, rfl⟩
    · have hexec := exec_retuneSchedule_far hruns hactive hfar
      obtain ⟨hstks, hframe⟩ := scheduleAll_frame (64 * k.val) (List.range 64) (firstStart k.val s) (withTemp k.val temp s)
      refine ⟨hexec, _, hexec, ?_, congrArg (fun t : State => { t with hbm := s.hbm }) hframe, fun j hj hgood => ?_⟩
      · rw [State.stack, hstks]
        exact congrArg StackSt.temp (State.stack_modStack_self s k.val _)
      · exact scheduleAll_autoStart _ (List.mem_range.2 hj) _ _ hgood
  case start =>
    intro p s x b rest hp hsched hdue hfree hactive
    refine ⟨_, exec_retuneStart hp hsched hdue hfree hactive, ?_, fun k hk => ?_, ?_, rfl⟩
    · exact Sparse.get_set_self ..
    · exact Sparse.get_set_other _ _ _ _ _ hk
    · exact congrArg StackSt.lastStart (State.stack_modStack_self ..)
  case finish =>
    intro p ok s x hp hactive
    exact ⟨_, exec_retuneEnd_auto hp hactive ok, retuneEnded_pc p.val ok s⟩

end Sys2Proof.Machine
end


section
/-! Proofs about the memory commands of a mailbox (spec 18 Table 18-3, R387, 08 R190): the interrupt that announces ACCEPTED, and
the refutation of O49. -/

namespace Sys2Proof.Machine

/-! ## The interrupt of a response -/

/-- A message to a supervisor file sets the bit of its identity. -/
theorem imsicSend_supervisorFile {target identity : Nat} (hid : identity ≠ 0) (hmax : identity ≤ 255) (htarget : target < 128)
    (s : State) : ((imsicSend target identity false s).core target).supervisorFile.getLsbD identity = true := by
  unfold imsicSend
  rw [if_neg (by omega), State.core_modCore_self]
  simp only [Bool.false_eq_true, if_false, BitVec.getLsbD_or, BitVec.getLsbD_ofNat, Nat.testBit_two_pow_self,
    decide_eq_true (show identity < 256 by omega), Bool.and_self, Bool.or_true]

/-- MBXm_CTRL names an identity of a core's supervisor file, and responses are announced there (18 Table 18-3). -/
structure AnnouncesTo (target identity : Nat) (x : MbxSt) : Prop where
  announces : bitOf x.ctrl 31 = true
  toImsic : bitOf x.ctrl 29 = true
  toSupervisor : bitOf x.ctrl 23 = false
  target_eq : fieldOf x.ctrl 16 7 = target
  identity_eq : fieldOf x.ctrl 0 8 = identity

/-- A response of such a mailbox changes the interrupt file of the core that it names. -/
theorem respond_supervisorFile {target identity : Nat} {m : MbxId} {s : State} (h : AnnouncesTo target identity (s.mbx m.val))
    (hid : identity ≠ 0) (tag : Nat) (st : BitVec 16) (d : Nat) (pay : List Byte) :
    ((respond m tag st d pay s).core target).supervisorFile.getLsbD identity = true := by
  have hmax : identity ≤ 255 := by
    rw [← h.identity_eq, fieldOf]
    omega
  have htarget : target < 128 := by
    rw [← h.target_eq, fieldOf]
    omega
  have hsent := fun t => imsicSend_supervisorFile hid hmax htarget t
  unfold respond
  simp only [h.announces, if_true, sendIrq, h.toImsic, h.toSupervisor, h.target_eq, h.identity_eq]
  split
  · rw [State.core, (show ∀ n l p u, (sendMgmt n l p u).cores = u.cores by simp)]
    exact hsent _
  · exact hsent _

/-! ## STACK_ONLINE accepted in a slot -/

/-- A long command that takes a slot is answered ACCEPTED, which a mailbox may announce to a core. -/
theorem placeOp_supervisorFile {target identity : Nat} {c : MCmd} {s : State} (hleaves : keepsMailbox c s = false)
    {j : Fin 8} (hslot : freeSlot? c.m s = some j) (h : AnnouncesTo target identity (s.mbx c.m.val)) (hid : identity ≠ 0) :
    ((placeOp c s).core target).supervisorFile.getLsbD identity = true := by
  unfold placeOp
  simp only [hleaves, Bool.false_eq_true, if_false, hslot]
  refine respond_supervisorFile ?_ hid _ _ _ _
  have hctrl : ∀ (f : MbxSt → MbxSt) (t : State), (t.modMbx c.m.val f).mbx c.m.val = f (t.mbx c.m.val) :=
    fun f t => (State.mbx_modMbx t c.m.val c.m.val f).trans (if_pos rfl)
  rw [hctrl]
  exact ⟨h.announces, h.toImsic, h.toSupervisor, h.target_eq, h.identity_eq⟩

/-- A STACK_ONLINE whose checks pass touches the cores by its answer alone. -/
theorem stackOnline_accepted {c : MCmd} {s : State} (hk : c.le 0 1 < 24) (hheld : stackHeld (c.le 0 1) s = false)
    (hslot : (freeSlot? c.m s).isSome = true) (hmode : (s.stack (c.le 0 1)).mode = .offline) :
    (∀ k, (stackOnline c s).core k = (placeOp c s).core k) ∧ (stackOnline c s).mgr.order = s.mgr.order := by
  unfold stackOnline
  dsimp only
  rw [long_pass _ _ _ _ _ _ (pass_cons (decide_eq_false (not_le.2 hk)) pass_nil) (pass_cons hheld pass_nil)
    (pass_cons (by simp [hmode]) pass_nil) (.inr hslot)]
  obtain ⟨-, -, horder, -⟩ := placeOp_keeps c s
  unfold dropStarts State.core
  rw [foldl_cores, foldl_mgr]
  · exact ⟨fun _ => rfl, horder⟩
  all_goals intros; rfl

theorem exec_stackOnline (m : MbxId) (s : State) : exec (.stackOnline m) s = .next (serve m 0x0904 stackOnline s) := rfl

/-- STACK_ONLINE of stack 0, without WAIT, on mailbox 0, which announces its responses by identity 1 to core 0. -/
def announcingMailbox : MbxSt where
  cmd := [(0, 0x04), (1, 0x09), (2, 8)]
  ctrl := 0xA0000001
  busy := true

/-- A package in service whose stack 0 is OFFLINE, with that command waiting. -/
def onlineAnnounced : State where
  boot := { stage := 5, fwReady := true }
  hbm := { stks := [(0, { mode := .offline })] }
  mgr := { order := [0], mbx := [(0, announcingMailbox)] }

theorem onlineAnnounced_served : Served 0 0x0904 onlineAnnounced := by
  unfold Served
  decide +kernel

theorem onlineAnnounced_command : keepsMailbox (cmdAt 0 onlineAnnounced) (taken onlineAnnounced) = false
    ∧ (cmdAt 0 onlineAnnounced).le 0 1 = 0 := by decide +kernel

theorem onlineAnnounced_announces : AnnouncesTo 0 1 ((taken onlineAnnounced).mbx 0) where
  announces := by decide
  toImsic := by decide
  toSupervisor := by decide
  target_eq := by decide
  identity_eq := by decide

theorem onlineAnnounced_mailbox : (cmdAt 0 onlineAnnounced).m = 0 := rfl

/-- What the model does with it: core 0 finds identity 1 pending. -/
theorem onlineAnnounced_step {t : State} (h : exec (.stackOnline 0) onlineAnnounced = .next t) :
    (t.core 0).supervisorFile.getLsbD 1 = true := by
  obtain ⟨hleaves, hk⟩ := onlineAnnounced_command
  have hslot : freeSlot? (cmdAt 0 onlineAnnounced).m (taken onlineAnnounced) = some 0 := by
    rw [onlineAnnounced_mailbox]
    decide
  obtain ⟨hcores, horder⟩ := stackOnline_accepted (c := cmdAt 0 onlineAnnounced) (s := taken onlineAnnounced)
    (by rw [hk]; decide) (by rw [hk]; rfl) (by rw [hslot]; rfl) (by rw [hk]; rfl)
  obtain rfl := Host.Outcome.next.inj ((exec_stackOnline 0 onlineAnnounced).symm.trans h)
  rw [serve_served 0 0x0904 stackOnline _ onlineAnnounced_served horder, hcores]
  refine placeOp_supervisorFile hleaves hslot ?_ Nat.one_ne_zero
  rw [onlineAnnounced_mailbox]
  exact onlineAnnounced_announces

/-- Refutes O49: STACK_ONLINE of an OFFLINE stack does not leave the cores as they were when its mailbox announces its
responses to a core (18 Table 18-3: DONE_IRQ and TARGET set): the ACCEPTED answer sets a bit of that core's interrupt file
(08 R190), as `onlineAnnounced_step` shows. -/
theorem not_memoryCommandsAct : ¬ Obligations.MemoryCommandsAct := by
  unfold Obligations.MemoryCommandsAct
  intro h
  obtain ⟨-, -, -, -, -, -, hoffline, -⟩ := h 0 onlineAnnounced
  obtain ⟨hleaves, hk⟩ := onlineAnnounced_command
  obtain ⟨-, honline⟩ := hoffline (by rw [hk]; decide) (by rw [hk]; rfl) (.inr rfl) (by rw [hk]; rfl)
  obtain ⟨t, hexec, ⟨-, -, hcores⟩, -⟩ := honline onlineAnnounced_served
  have hbit := onlineAnnounced_step hexec
  rw [State.core, hcores] at hbit
  exact absurd hbit (by decide)

end Sys2Proof.Machine
end


section
/-! Proofs about the holders of a line (spec 08 R183-R185, R187): no write at a home adds one, and an invalidation drops
the holder it is for. -/

namespace Sys2Proof.Machine

/-! ## Reads and writes of the directory and of a P-die's copies -/

theorem State.dirE_setDir (s : State) (l k : Nat) (e : DirEntry) : (s.setDir l e).dirE k = if k = l then e else s.dirE k :=
  Sparse.get_set ..

@[simp] theorem State.dirE_setDir_self (s : State) (l : Nat) (e : DirEntry) : (s.setDir l e).dirE l = e :=
  Sparse.get_set_self ..

@[simp] theorem State.dirE_setPline (s : State) (h l k : Nat) (p : PLine) : (s.setPline h l p).dirE k = s.dirE k := by
  unfold State.setPline
  split <;> rfl

theorem State.pline_setPline (s : State) (h l k : Nat) (p : PLine) :
    (s.setPline h l p).pline h k = if k = l then p else s.pline h k := by
  unfold State.pline State.setPline
  split <;> exact Sparse.get_set ..

@[simp] theorem State.pline_setPline_self (s : State) (h l : Nat) (p : PLine) : (s.setPline h l p).pline h l = p := by
  rw [State.pline_setPline, if_pos rfl]

theorem State.dirE_congr {s t : State} (h : t.coh.dir = s.coh.dir) (line : Nat) : t.dirE line = s.dirE line := by
  rw [State.dirE, State.dirE, h]

@[simp] theorem modCis_dir (s : State) (k : Nat) (f : CisState → CisState) : (s.modCis k f).coh.dir = s.coh.dir := rfl
@[simp] theorem setWay_dir (s : State) (c set w : Nat) (l : CLine) : (s.setWay c set w l).coh.dir = s.coh.dir := rfl

/-! ## The holders an entry names -/

theorem engId_cases : ∀ h : EngId, h = 0 ∨ h = 1 := by decide

/-- Does the entry name this holder? -/
def DirEntry.names (e : DirEntry) : Holder → Bool
  | .pdie h => e.hasP h.val
  | .remote => e.remote

theorem DirEntry.mem_holders (e : DirEntry) (x : Holder) : x ∈ e.holders ↔ e.names x = true := by
  cases x with
  | pdie h =>
    obtain rfl | rfl := engId_cases h
    all_goals simp [DirEntry.holders, DirEntry.names, DirEntry.hasP]
  | remote => simp [DirEntry.holders, DirEntry.names]

theorem DirEntry.norm_names (e : DirEntry) (x : Holder) : e.norm.names x = e.names x := by
  unfold DirEntry.norm
  split
  · rfl
  · next h =>
    simp only [DirEntry.any, Bool.or_eq_true, not_or, Bool.not_eq_true] at h
    cases x <;> simp [DirEntry.names, DirEntry.hasP, h]

/-- The entry once a holder has left it. -/
def DirEntry.without (e : DirEntry) : Holder → DirEntry
  | .pdie h => ({ e with owned := false }.setP h.val false).norm
  | .remote => { e with remote := false }.norm

theorem DirEntry.names_without {e : DirEntry} {x y : Holder} (h : (e.without x).names y = true) :
    e.names y = true ∧ y ≠ x := by
  cases x with
  | pdie i =>
    rw [DirEntry.without, DirEntry.norm_names] at h
    cases y with
    | pdie j =>
      obtain rfl | rfl := engId_cases i
      all_goals
        obtain rfl | rfl := engId_cases j
        all_goals simp_all [DirEntry.names, DirEntry.hasP, DirEntry.setP]
    | remote =>
      unfold DirEntry.setP at h
      split at h <;> exact ⟨h, nofun⟩
  | remote =>
    rw [DirEntry.without, DirEntry.norm_names] at h
    cases y with
    | pdie j => exact ⟨h, nofun⟩
    | remote => exact absurd h Bool.false_ne_true

theorem invalidate_dirE (line : Nat) (x : Holder) (s : State) :
    (invalidate line x s).dirE line = (s.dirE line).without x := by
  cases x with
  | pdie h => exact State.dirE_setDir_self ..
  | remote =>
    unfold invalidate
    dsimp only
    rw [State.dirE_setDir_self]
    split <;> rfl

/-! ## No write at a home adds a holder -/

/-- Whoever holds a line in t held it in s. -/
structure HoldersStay (s t : State) : Prop where
  held : ∀ line x, (t.dirE line).names x = true → (s.dirE line).names x = true

theorem HoldersStay.refl (s : State) : HoldersStay s s := ⟨fun _ _ h => h⟩

theorem HoldersStay.trans {s t u : State} (hst : HoldersStay s t) (htu : HoldersStay t u) : HoldersStay s u :=
  ⟨fun line x hx => hst.held line x (htu.held line x hx)⟩

theorem holdersStay_of_dir_eq {s t : State} (h : t.coh.dir = s.coh.dir) : HoldersStay s t :=
  ⟨fun line _ hx => State.dirE_congr h line ▸ hx⟩

theorem holdersStay_foldl {β : Type} {f : State → β → State} (h : ∀ s b, HoldersStay s (f s b)) (l : List β) (s : State) :
    HoldersStay s (l.foldl f s) :=
  List.foldlRecOn l f (.refl s) fun t ht b _ => ht.trans (h t b)

theorem holdersStay_setDir {s : State} {l : Nat} {e : DirEntry} (h : ∀ x, e.names x = true → (s.dirE l).names x = true) :
    HoldersStay s (s.setDir l e) := by
  refine ⟨fun line x hx => ?_⟩
  rw [State.dirE_setDir] at hx
  split at hx
  · next hline => exact hline ▸ h x hx
  · exact hx

theorem setWay_holdersStay (c set w : Nat) (l : CLine) (s : State) : HoldersStay s (s.setWay c set w l) :=
  holdersStay_of_dir_eq rfl

theorem drainEvict_dir (c : Nat) (s : State) : (drainEvict c s).coh.dir = s.coh.dir := by
  unfold drainEvict
  split <;> simp

theorem drainLine_dir (c line : Nat) (s : State) : (drainLine c line s).coh.dir = s.coh.dir := by
  unfold drainLine
  exact List.foldlRecOn (motive := fun t : State => t.coh.dir = s.coh.dir) _ _ rfl fun t ht l _ => by simpa using ht

theorem makeEvictRoom_dir (c : Nat) (s : State) : (makeEvictRoom c s).coh.dir = s.coh.dir := by
  unfold makeEvictRoom
  split
  · simp [drainEvict_dir]
  · rfl

theorem chooseVictim_dir (c set : Nat) (remote : Bool) (s : State) :
    (chooseVictim c set remote s).2.coh.dir = s.coh.dir := by
  unfold chooseVictim
  dsimp only
  split
  · rfl
  · exact List.foldlRecOn (motive := fun t : State => t.coh.dir = s.coh.dir) _ _ rfl fun _ ht _ _ => ht

theorem hitAge_dir (c line : Nat) (remote streaming : Bool) (s : State) :
    (hitAge c line remote streaming s).coh.dir = s.coh.dir := by
  unfold hitAge
  split
  · split <;> rfl
  · rfl

/-- A remote copy that leaves its Cistern is a holder less. -/
theorem evictWay_holdersStay (c set w : Nat) (s : State) : HoldersStay s (evictWay c set w s) := by
  unfold evictWay
  dsimp only
  refine .trans ?_ (setWay_holdersStay ..)
  split
  · exact holdersStay_of_dir_eq rfl
  · split
    · exact holdersStay_setDir fun x hx => (DirEntry.names_without (x := .remote) hx).1
    · exact .refl s

theorem allocWay_holdersStay (c line : Nat) (remote : Bool) (age : Nat) (s : State) :
    HoldersStay s (allocWay c line remote age s).2 := by
  have hchosen (set : Nat) : HoldersStay s (chooseVictim c set remote (makeEvictRoom c s)).2 :=
    holdersStay_of_dir_eq ((chooseVictim_dir ..).trans (makeEvictRoom_dir c s))
  unfold allocWay
  split
  · exact .refl s
  · exact (hchosen _).trans ((evictWay_holdersStay ..).trans (setWay_holdersStay ..))

theorem fillSectors_holdersStay (c line : Nat) (remote dirty : Bool) (age : Nat) (xs : List (Nat × List Byte × Bool))
    (s : State) : HoldersStay s (fillSectors c line remote dirty age xs s) :=
  (allocWay_holdersStay c line remote age s).trans (setWay_holdersStay ..)

theorem homeWriteSector_holdersStay (c sn off : Nat) (bs : List Byte) (poison streaming : Bool) (s : State) :
    HoldersStay s (homeWriteSector c sn off bs poison streaming s) := by
  unfold homeWriteSector
  dsimp only
  split
  · exact holdersStay_of_dir_eq (by simp)
  · split
    · exact .refl s
    · split
      · refine .trans (holdersStay_of_dir_eq (t := drainLine c (sn / 4) (dropWriteBack sn s)) ?_) (fillSectors_holdersStay ..)
        simp [drainLine_dir]
      · refine holdersStay_of_dir_eq ?_
        split
        · split
          · simp [hitAge_dir, drainLine_dir]
          · simp [drainLine_dir]
        · simp [drainLine_dir]

theorem homeWrite_holdersStay (a : Nat) (bs : List Byte) (poison streaming : Bool) (s : State) :
    HoldersStay s (homeWrite a bs poison streaming s) := by
  unfold homeWrite
  exact holdersStay_foldl (fun t p => homeWriteSector_holdersStay _ _ _ _ _ _ t) _ s

theorem homeWriteLine_holdersStay (line : Nat) (ws : List (Nat × List Byte × Bool)) (streaming : Bool) (s : State) :
    HoldersStay s (homeWriteLine line ws streaming s) := by
  have hwrites := holdersStay_foldl (fun t (w : Nat × List Byte × Bool) =>
    homeWrite_holdersStay w.1 w.2.1 w.2.2 streaming t) ws s
  unfold homeWriteLine
  dsimp only
  split
  · exact hwrites.trans (holdersStay_of_dir_eq (by rw [countWrite_coh]))
  · exact hwrites

theorem pdieWriteBack_holdersStay (h line : Nat) (s : State) : HoldersStay s (pdieWriteBack h line s) := by
  unfold pdieWriteBack
  dsimp only
  split
  · exact homeWriteLine_holdersStay ..
  · exact .refl s

theorem setPline_holdersStay (h line : Nat) (p : PLine) (s : State) : HoldersStay s (s.setPline h line p) :=
  ⟨fun l x hx => by rwa [State.dirE_setPline] at hx⟩

theorem recallLine_holdersStay (line : Nat) (s : State) : HoldersStay s (recallLine line s) := by
  unfold recallLine
  dsimp only
  split
  · exact ((pdieWriteBack_holdersStay _ line s).trans (setPline_holdersStay _ line _ _)).trans
      (holdersStay_setDir fun x hx => hx)
  · exact .refl s

/-- A recalled line is owned by no P-die. -/
theorem recallLine_owned (line : Nat) (s : State) : ((recallLine line s).dirE line).owned = false := by
  unfold recallLine
  dsimp only
  split
  · rw [State.dirE_setDir_self]
  · next h => exact Bool.eq_false_iff.2 h

/-! ## An invalidation drops its holder (R184) -/

theorem names_of_foldl_invalidate {line : Nat} {y : Holder} : ∀ {l : List Holder} {s : State},
    ((l.foldl (fun s x => invalidate line x s) s).dirE line).names y = true → (s.dirE line).names y = true ∧ y ∉ l
  | [], _, hy => ⟨hy, List.not_mem_nil⟩
  | x :: l, s, hy => by
    obtain ⟨hleft, hnot⟩ := names_of_foldl_invalidate (l := l) hy
    rw [invalidate_dirE] at hleft
    obtain ⟨hheld, hne⟩ := DirEntry.names_without hleft
    exact ⟨hheld, by simp [hne, hnot]⟩

theorem DirEntry.holders_of_names {e : DirEntry} (h : ∀ x, e.names x ≠ true) : e.holders = [] :=
  List.eq_nil_iff_forall_not_mem.2 fun x hx => h x ((e.mem_holders x).1 hx)

/-- Once every holder has been invalidated, nobody holds the line. -/
theorem invalidateAll_names (line : Nat) (s : State) (y : Holder) : ((invalidateAll line s).dirE line).names y ≠ true := by
  intro hy
  obtain ⟨hheld, hnot⟩ := names_of_foldl_invalidate (l := (s.dirE line).holders) (s := recallLine line s) hy
  exact hnot (((s.dirE line).mem_holders y).2 ((recallLine_holdersStay line s).held line y hheld))

/-! ## Cache-block operations (R187) -/

@[simp] theorem writeBackDirty_dir (l : CLine) (s : State) : (writeBackDirty l s).coh.dir = s.coh.dir := by simp

/-- What a flush leaves to the P-dies: their copies have been recalled and dropped. -/
def pdiesDropped (line : Nat) (s : State) : State :=
  ((((recallLine line s).dirE line).holders.filter (· != .remote)).foldl (fun s x => invalidate line x s) (recallLine line s))

/-- What follows at the home touches no directory entry. -/
theorem flushLine_dir (line : Nat) (s : State) : (flushLine line s).coh.dir = (pdiesDropped line s).coh.dir := by
  unfold flushLine
  dsimp only
  split
  · exact drainLine_dir ..
  · rw [setWay_dir, writeBackDirty_dir]
    exact drainLine_dir ..

/-- A flushed line is held by no P-die. -/
theorem flushLine_names (line : Nat) (s : State) (h : EngId) : ((flushLine line s).dirE line).names (.pdie h) = false := by
  refine Bool.eq_false_iff.2 fun hy => ?_
  rw [State.dirE_congr (flushLine_dir line s)] at hy
  obtain ⟨hheld, hnot⟩ := names_of_foldl_invalidate hy
  exact hnot (List.mem_filter.2 ⟨(DirEntry.mem_holders _ _).2 hheld, rfl⟩)

theorem flushLine_frame (line : Nat) (s : State) : (flushLine line s).cores = s.cores ∧ (flushLine line s).queues = s.queues := by
  unfold flushLine cleanLine
  dsimp only
  split <;> simp

/-- A zeroed line is held by no one. -/
theorem zeroLine_holders (line : Nat) (s : State) : ((zeroLine line s).dirE line).holders = [] := by
  refine DirEntry.holders_of_names fun y hy => invalidateAll_names line s y ?_
  have hbefore := (homeWriteLine_holdersStay _ _ _ _).held line y hy
  rwa [State.dirE_congr (s := invalidateAll line s) (by simp)] at hbefore

theorem zeroLine_reservation (line : Nat) (s : State) (k : Nat) : ((zeroLine line s).core k).reservation ≠ some line := by
  have hcores : (zeroLine line s).cores = (breakReservations line none (invalidateAll line s)).cores := by simp [zeroLine]
  rw [State.core, hcores]
  exact breakReservations_reservation line _ k

theorem zeroLine_queues (line : Nat) (s : State) : (zeroLine line s).queues = s.queues := by simp [zeroLine]

end Sys2Proof.Machine
end


section
/-! Proofs about the stores of cores to the pool (spec 08 R184): the bytes of a P-die's copies that a store leaves, piece
by piece. -/

namespace Sys2Proof.Machine

/-! ## Bytes laid over a line -/

/-- Bytes laid over others from place o on. -/
def overlayRun (d : List Byte) (o : Nat) (bs : List Byte) : List Byte :=
  overlay d (((List.range bs.length).zip bs).map fun q => (o + q.1, q.2))

theorem overlayRun_cons (d : List Byte) (o : Nat) (b : Byte) (bs : List Byte) :
    overlayRun d o (b :: bs) = overlayRun (d.set o b) (o + 1) bs := by
  unfold overlayRun overlay
  rw [List.length_cons, List.range_succ_eq_map, List.zip_cons_cons, List.map_cons, List.foldl_cons, List.zip_map_left,
    List.map_map]
  refine congrArg (List.foldl _ _) (List.map_congr_left fun q _ => ?_)
  simp only [Function.comp_apply, Prod.map_fst, Prod.map_snd, id_eq, Prod.mk.injEq, and_true]
  omega

theorem length_overlayRun : ∀ (bs d : List Byte) (o : Nat), (overlayRun d o bs).length = d.length
  | [], _, _ => rfl
  | b :: bs, d, o => by rw [overlayRun_cons, length_overlayRun, List.length_set]

theorem getD_overlayRun_outside : ∀ {bs d : List Byte} {o j : Nat}, (j < o ∨ o + bs.length ≤ j) →
    (overlayRun d o bs).getD j 0 = d.getD j 0
  | [], _, _, _, _ => rfl
  | b :: bs, d, o, j, h => by
    rw [List.length_cons] at h
    rw [overlayRun_cons, getD_overlayRun_outside (by omega), List.getD_eq_getElem?_getD, List.getElem?_set_ne (by omega),
      List.getD_eq_getElem?_getD]

theorem getD_overlayRun_inside : ∀ {bs d : List Byte} {o i : Nat}, i < bs.length → o + bs.length ≤ d.length →
    (overlayRun d o bs).getD (o + i) 0 = bs.getD i 0
  | b :: bs, d, o, 0, _, hfit => by
    rw [List.length_cons] at hfit
    rw [overlayRun_cons, getD_overlayRun_outside (by omega), Nat.add_zero, List.getD_eq_getElem?_getD,
      List.getElem?_set_self (by omega)]
    rfl
  | b :: bs, d, o, i + 1, hi, hfit => by
    rw [List.length_cons] at hi hfit
    rw [overlayRun_cons, show o + (i + 1) = o + 1 + i by omega]
    exact getD_overlayRun_inside (by omega) (by rw [List.length_set]; omega)

/-! ## What a store leaves (R184) -/

/-- From s to t, P-die h has stored bytes bs from address a on: its copies of the lines touched are modified and hold
them, and nothing else has changed. -/
structure StoredBy (h a : Nat) (bs : List Byte) (s t : State) : Prop where
  touched : ∀ l, (∃ i < bs.length, (a + i) / 128 = l) → (t.pline h l).modified = true
  kept : ∀ l, (s.pline h l).modified = true → (t.pline h l).modified = true
  untouched : ∀ l, (∀ i < bs.length, (a + i) / 128 ≠ l) → t.pline h l = s.pline h l
  length_eq : ∀ l, (t.pline h l).data.length = (s.pline h l).data.length
  inside : ∀ i < bs.length, (s.pline h ((a + i) / 128)).data.length = 128 →
    (t.pline h ((a + i) / 128)).data.getD ((a + i) % 128) 0 = bs.getD i 0
  outside : ∀ b, (b < a ∨ a + bs.length ≤ b) →
    (t.pline h (b / 128)).data.getD (b % 128) 0 = (s.pline h (b / 128)).data.getD (b % 128) 0
  frame : t.withCoh s.coh = s

theorem StoredBy.nil (h a : Nat) (s : State) : StoredBy h a [] s s where
  touched := fun _ ⟨_, hi, _⟩ => absurd hi (Nat.not_lt_zero _)
  kept := fun _ hl => hl
  untouched := fun _ _ => rfl
  length_eq := fun _ => rfl
  inside := fun _ hi => absurd hi (Nat.not_lt_zero _)
  outside := fun _ _ => rfl
  frame := rfl

/-- Stores that follow on one another are one store. -/
theorem StoredBy.append {h a : Nat} {bs cs : List Byte} {s t u : State} (hst : StoredBy h a bs s t)
    (htu : StoredBy h (a + bs.length) cs t u) : StoredBy h a (bs ++ cs) s u where
  touched := by
    rintro l ⟨i, hi, hl⟩
    by_cases hfirst : i < bs.length
    · exact htu.kept l (hst.touched l ⟨i, hfirst, hl⟩)
    · refine htu.touched l ⟨i - bs.length, ?_, ?_⟩
      · rw [List.length_append] at hi
        omega
      · rwa [show a + bs.length + (i - bs.length) = a + i by omega]
  kept := fun l hl => htu.kept l (hst.kept l hl)
  untouched := by
    intro l hl
    rw [List.length_append] at hl
    rw [htu.untouched l fun i hi => Nat.add_assoc a .. ▸ hl _ (by omega), hst.untouched l fun i hi => hl i (by omega)]
  length_eq := fun l => (htu.length_eq l).trans (hst.length_eq l)
  inside := by
    intro i hi hfull
    rw [List.length_append] at hi
    by_cases hfirst : i < bs.length
    · rw [htu.outside _ (.inl (by omega)), hst.inside i hfirst hfull, List.getD_append _ _ _ _ hfirst]
    · have hlast := htu.inside (i - bs.length) (by omega)
      rw [show a + bs.length + (i - bs.length) = a + i by omega] at hlast
      rw [hlast ((hst.length_eq _).trans hfull), List.getD_append_right _ _ _ _ (by omega)]
  outside := by
    intro b hb
    rw [List.length_append] at hb
    rw [htu.outside b (by omega), hst.outside b (by omega)]
  frame := (congrArg (State.withCoh s.coh) htu.frame).trans hst.frame

/-- One piece of a store: bytes within one sector, given by the sector's number and their place in it. -/
def storePiece (h : Nat) (s : State) (p : Nat × Nat × List Byte) : State :=
  s.setPline h (p.1 / 4) { s.pline h (p.1 / 4) with
    modified := true
    data := overlayRun (s.pline h (p.1 / 4)).data (32 * (p.1 % 4) + p.2.1) p.2.2
    poison := if p.2.2.length = 32 then (s.pline h (p.1 / 4)).poison.filter (· != p.1 % 4) else (s.pline h (p.1 / 4)).poison }

theorem storeOwned_eq (h a : Nat) (data : List Byte) (s : State) :
    storeOwned h a data s = (sectorPieces a data (data.length + 1)).foldl (storePiece h) s := rfl

theorem setPline_frame (h l : Nat) (p : PLine) (s : State) : (s.setPline h l p).withCoh s.coh = s := by
  unfold State.setPline
  split <;> rfl

/-- A piece that lies in one sector is stored in the line of its address. -/
theorem storePiece_stored {h a : Nat} {bs : List Byte} (hne : bs ≠ []) (hfit : a % 32 + bs.length ≤ 32) (s : State) :
    StoredBy h a bs s (storePiece h s (a / 32, a % 32, bs)) := by
  have hlen := List.length_pos_iff.2 hne
  have hline : a / 32 / 4 = a / 128 := Nat.div_div_eq_div_mul a 32 4
  have hplace : 32 * (a / 32 % 4) + a % 32 = a % 128 := by omega
  have hin (i : Nat) (hi : i < bs.length) : (a + i) / 128 = a / 128 ∧ (a + i) % 128 = a % 128 + i := by omega
  have hpline (l : Nat) : (storePiece h s (a / 32, a % 32, bs)).pline h l = if l = a / 128 then
      { s.pline h (a / 128) with
        modified := true
        data := overlayRun (s.pline h (a / 128)).data (a % 128) bs
        poison := if bs.length = 32 then (s.pline h (a / 128)).poison.filter (· != a / 32 % 4) else (s.pline h (a / 128)).poison }
      else s.pline h l := by
    rw [storePiece, State.pline_setPline]
    simp only [hline, hplace]
  refine ⟨?touched, ?kept, ?untouched, ?length, ?inside, ?outside, setPline_frame ..⟩
  case touched =>
    rintro l ⟨i, hi, rfl⟩
    rw [hpline, if_pos (hin i hi).1]
  case kept =>
    intro l hl
    rw [hpline]
    split
    · rfl
    · exact hl
  case untouched =>
    intro l hl
    rw [hpline, if_neg fun heq => hl 0 hlen heq.symm]
  case length =>
    intro l
    rw [hpline]
    split
    · next heq => rw [heq, length_overlayRun]
    · rfl
  case inside =>
    intro i hi hfull
    obtain ⟨hsame, hmod⟩ := hin i hi
    rw [hsame] at hfull ⊢
    rw [hpline, if_pos rfl, hmod]
    exact getD_overlayRun_inside hi (by omega)
  case outside =>
    intro b hb
    rw [hpline]
    split
    · next heq =>
      rw [heq]
      exact getD_overlayRun_outside (by omega)
    · rfl

theorem sectorPieces_stored (h : Nat) : ∀ (fuel a : Nat) (bs : List Byte) (s : State), bs.length < fuel →
    StoredBy h a bs s ((sectorPieces a bs fuel).foldl (storePiece h) s)
  | 0, _, _, _, hfuel => absurd hfuel (Nat.not_lt_zero _)
  | fuel + 1, a, bs, s, hfuel => by
    rw [sectorPieces]
    split
    · next hnil => exact hnil ▸ .nil h a s
    · next hne =>
      have hlen := List.length_pos_iff.2 hne
      have htake : (bs.take (min (32 - a % 32) bs.length)).length = min (32 - a % 32) bs.length :=
        List.length_take_of_le (Nat.min_le_right ..)
      have hfirst := storePiece_stored (h := h) (a := a) (bs := bs.take (min (32 - a % 32) bs.length))
        (List.length_pos_iff.1 (by omega)) (by omega) s
      have hrest := sectorPieces_stored h fuel (a + (bs.take (min (32 - a % 32) bs.length)).length)
        (bs.drop (min (32 - a % 32) bs.length)) (storePiece h s (a / 32, a % 32, bs.take (min (32 - a % 32) bs.length)))
        (by rw [List.length_drop]; omega)
      have hboth := hfirst.append hrest
      rw [List.take_append_drop, htake] at hboth
      exact hboth

/-- A store of owned lines leaves its bytes in the P-die's copies. -/
theorem storeOwned_stored (h a : Nat) (data : List Byte) (s : State) : StoredBy h a data s (storeOwned h a data s) := by
  rw [storeOwned_eq]
  exact sectorPieces_stored h _ a data s (Nat.lt_succ_self _)

theorem mem_linesOf {a n l : Nat} (hn : n ≠ 0) : l ∈ linesOf a n ↔ ∃ i < n, (a + i) / 128 = l := by
  simp only [linesOf, List.mem_map, List.mem_range]
  constructor
  · rintro ⟨j, hj, rfl⟩
    exact ⟨max a (128 * (a / 128 + j)) - a, by omega, by omega⟩
  · rintro ⟨i, hi, rfl⟩
    exact ⟨(a + i) / 128 - a / 128, by omega, by omega⟩

end Sys2Proof.Machine
end


section
/-! Proofs about what cores ask of the homes and of their own registers (spec 08 R184-R192), and O41. -/

namespace Sys2Proof.Machine

/-! ## One core changes -/

/-- The state in which core c alone has changed. -/
theorem modCore_sets (c : Nat) (f : CoreState → CoreState) (s : State) : (s.modCore c f).core c = f (s.core c)
    ∧ (∀ k, k ≠ c → (s.modCore c f).core k = s.core k) ∧ { s.modCore c f with cores := s.cores } = s :=
  ⟨State.core_modCore_self .., fun _ hk => State.core_modCore_other _ _ _ _ hk, rfl⟩

/-! ## Reads and writes of a P-die at the home (R184) -/

theorem homeCoreRead_frame (c line depth : Nat) (s : State) :
    (homeCoreRead c line depth s).cores = s.cores ∧ (homeCoreRead c line depth s).queues = s.queues := by
  unfold homeCoreRead
  dsimp only
  split <;> simp

theorem homeCoreWrite_frame (c line depth : Nat) (s : State) :
    (homeCoreWrite c line depth s).cores = s.cores ∧ (homeCoreWrite c line depth s).queues = s.queues := by
  unfold homeCoreWrite
  dsimp only
  split
  · exact ⟨rfl, rfl⟩
  · simp [homeCoreRead_frame]

theorem homeCoreRead_of_owner {c line : Nat} {s : State} (howned : (s.dirE line).owned = true)
    (hholds : (s.dirE line).hasP (c / 64) = true) (depth : Nat) : homeCoreRead c line depth s = s := by
  unfold homeCoreRead
  exact if_pos (by rw [howned, hholds]; rfl)

theorem homeCoreWrite_of_owner {c line : Nat} {s : State} (howned : (s.dirE line).owned = true)
    (hholds : (s.dirE line).hasP (c / 64) = true) (depth : Nat) : homeCoreWrite c line depth s = s := by
  unfold homeCoreWrite
  exact if_pos (by rw [howned, hholds]; rfl)

/-- A line that is fetched is held, and not modified. -/
theorem homeCoreRead_pline {c line : Nat} {s : State}
    (h : ¬((s.dirE line).owned = true ∧ (s.dirE line).hasP (c / 64) = true)) (depth : Nat) :
    ((homeCoreRead c line depth s).pline (c / 64) line).held = true
      ∧ ((homeCoreRead c line depth s).pline (c / 64) line).modified = false := by
  unfold homeCoreRead
  dsimp only
  rw [if_neg (by simpa using h), State.pline_setPline_self]
  exact ⟨rfl, rfl⟩

theorem homeCoreWrite_owned (c line depth : Nat) (s : State) : ((homeCoreWrite c line depth s).dirE line).owned = true := by
  unfold homeCoreWrite
  dsimp only
  split
  · next h => exact (Bool.and_eq_true_iff.1 h).1
  · rw [State.dirE_setDir_self]

/-! ## Requests that a held write delays (R184) -/

theorem homeRequest_of_free {r : HomeReq} {s : State} (h : ∀ l ∈ r.lines, lineHeld s l = false) :
    homeRequest r s = r.perform s :=
  if_neg (by simpa using h)

/-- The request's place in the list of those that wait. -/
def parkedAt (r : HomeReq) (s : State) : State := { s with coh := { s.coh with waiting := s.coh.waiting ++ [r] } }

theorem homeRequest_of_held {r : HomeReq} {s : State} {l : Nat} (hl : l ∈ r.lines) (h : lineHeld s l = true) :
    homeRequest r s = parkedAt r s :=
  if_pos (List.any_eq_true.2 ⟨l, hl, h⟩)

/-- An access whose bytes lie in the pool is one to the pool. -/
theorem accessRegion_pool {a n : Nat} (hn : n ≠ 0) (hfit : a + n ≤ poolBytes) : accessRegion a n = .pool := by
  have hfirst : regionOf a = .pool := if_pos (by omega)
  have hlast : regionOf (a + n - 1) = .pool := if_pos (by omega)
  rw [accessRegion, hfirst, hlast, if_pos rfl]

section
variable {s : State} (hp : powered s = true)
include hp

theorem exec_homeCoreRead (c : CoreId) {pa : PAddr} (hpool : pa.toNat < poolBytes) (d : Nat) :
    exec (.homeCoreRead c pa d) s = .next (homeRequest (.read c pa d) s) := by
  change execHomeCoreRead c pa d s = _
  unfold execHomeCoreRead
  rw [if_neg (by simp [hp]), if_pos hpool]

theorem exec_homeCoreWrite (c : CoreId) {pa : PAddr} (hpool : pa.toNat < poolBytes) :
    exec (.homeCoreWrite c pa) s = .next (homeRequest (.own c pa) s) := by
  change execHomeCoreWrite c pa s = _
  unfold execHomeCoreWrite
  rw [if_neg (by simp [hp]), if_pos hpool]

theorem exec_cboClean (c : CoreId) (pa : PAddr) :
    exec (.cboClean c pa) s = .next (cboAt c pa (homeRequest (.clean c pa)) s) :=
  if_neg (by simp [hp])

theorem exec_cboFlush (c : CoreId) (pa : PAddr) :
    exec (.cboFlush c pa) s = .next (cboAt c pa (homeRequest (.flush c pa)) s) :=
  if_neg (by simp [hp])

theorem exec_cboInval (c : CoreId) (pa : PAddr) :
    exec (.cboInval c pa) s = .next (cboAt c pa (homeRequest (.flush c pa)) s) :=
  if_neg (by simp [hp])

theorem exec_cboZero (c : CoreId) (pa : PAddr) : exec (.cboZero c pa) s
    = .next (if pa.toNat < poolBytes then homeRequest (.zero c pa) s else coreFault c.val 7 pa.toNat s) :=
  if_neg (by simp [hp])

theorem exec_coreLoad_pool (c : CoreId) {pa : PAddr} {n : Nat} (hn : n ≠ 0) (hfit : pa.toNat + n ≤ poolBytes) (kind : LoadKind) :
    exec (.coreLoad c pa n kind) s = .next (homeRequest (.load c pa n kind) s) := by
  change execCoreLoad c pa n kind s = _
  unfold execCoreLoad coreLoad
  dsimp only
  rw [if_neg (by simp [hn, hp]), accessRegion_pool hn hfit]

theorem exec_coreStore_pool (c : CoreId) {pa : PAddr} {data : List Byte} (hne : data ≠ [])
    (hfit : pa.toNat + data.length ≤ poolBytes) (kind : StoreKind) :
    exec (.coreStore c pa data kind) s = .next (homeRequest (.store c pa data kind) s) := by
  change execCoreStore c pa data kind s = _
  unfold execCoreStore coreStore
  dsimp only
  rw [if_neg (by simp [hne, hp]), accessRegion_pool (by simpa using hne) hfit]

end

/-! ## Loads (R184, R192) -/

/-- The lines of a load that the P-die does not hold have been fetched. -/
def linesFetched (c a n : Nat) (s : State) : State :=
  (linesOf a n).foldl (fun s l => if (s.pline (c / 64) l).held then s else homeCoreRead c l 0 s) s

theorem linesFetched_cores (c a n : Nat) (s : State) : (linesFetched c a n s).cores = s.cores :=
  foldl_cores _ _ _ fun t l => by
    split
    · rfl
    · exact (homeCoreRead_frame c l 0 t).1

theorem linesFetched_of_held {c a n : Nat} {s : State} (h : ∀ l ∈ linesOf a n, (s.pline (c / 64) l).held = true) :
    linesFetched c a n s = s :=
  List.foldlRecOn (motive := fun t => t = s) _ _ rfl fun t ht l hl => by
    rw [ht, if_pos (h l hl)]

/-- A fault that a poisoned load takes: its cause, and merrinfo with the address (R192). -/
theorem corePoison_core {c cause pa : Nat} (hpa : pa < 2 ^ 52) (s : State) : let x := (corePoison c cause pa s).core c
    x.faultCause = cause ∧ x.faults = (s.core c).faults + 1 ∧ x.merrinfo = w64 (2 ^ 63 + 2 ^ 60 + pa)
      ∧ x.loaded = (s.core c).loaded := by
  unfold corePoison coreFault
  simp only [State.core_modCore_self, Nat.mod_eq_of_lt hpa, and_self]

theorem linesFetched_core (c a n : Nat) (s : State) (k : Nat) : (linesFetched c a n s).core k = s.core k := by
  rw [State.core, linesFetched_cores]
  rfl

/-- A load without poison delivers the P-die's copies. -/
theorem poolLoadNow_of_good {c a n : Nat} {s : State} (h : (pdieBytes (linesFetched c a n s) (c / 64) a n).any Prod.snd = false)
    (kind : LoadKind) : let t := poolLoadNow c a n kind s
    (t.core c = { s.core c with
        loaded := (pdieBytes (linesFetched c a n s) (c / 64) a n).map Prod.fst
        reservation := if kind = .reserved then some (a / 128) else (s.core c).reservation }
      ∧ ∀ k, k ≠ c → t.core k = s.core k) ∧ { t with cores := s.cores } = linesFetched c a n s := by
  have hnow : poolLoadNow c a n kind s = (linesFetched c a n s).modCore c fun x => { x with
      loaded := (pdieBytes (linesFetched c a n s) (c / 64) a n).map Prod.fst
      reservation := if kind = .reserved then some (a / 128) else x.reservation } := if_neg (Bool.eq_false_iff.1 h)
  obtain ⟨hself, hothers, hframe⟩ := modCore_sets c (fun x : CoreState => { x with
    loaded := (pdieBytes (linesFetched c a n s) (c / 64) a n).map Prod.fst
    reservation := if kind = .reserved then some (a / 128) else x.reservation }) (linesFetched c a n s)
  rw [linesFetched_core] at hself
  rw [linesFetched_cores] at hframe
  rw [hnow]
  exact ⟨⟨hself, fun k hk => (hothers k hk).trans (linesFetched_core c a n s k)⟩, hframe⟩

/-- A load that meets poison faults. -/
theorem poolLoadNow_of_poisoned {c a n : Nat} {s : State} (ha : a < 2 ^ 52)
    (h : (pdieBytes (linesFetched c a n s) (c / 64) a n).any Prod.snd = true) (kind : LoadKind) :
    let x := (poolLoadNow c a n kind s).core c
    x.faultCause = loadCause kind ∧ x.faults = (s.core c).faults + 1 ∧ x.merrinfo = w64 (2 ^ 63 + 2 ^ 60 + a)
      ∧ x.loaded = (s.core c).loaded := by
  have hnow : poolLoadNow c a n kind s = corePoison c (loadCause kind) a (linesFetched c a n s) := if_pos h
  have heffect := corePoison_core (c := c) (cause := loadCause kind) ha (linesFetched c a n s)
  rw [linesFetched_core] at heffect
  rw [hnow]
  exact heffect

theorem loadCause_eq (kind : LoadKind) : loadCause kind = if kind = .fetch then 1 else 5 := by
  cases kind <;> rfl

/-! ## Stores (R184) -/

/-- The lines of a store are the P-die's own, and no other core has a reservation on them. -/
def linesOwned (c a n : Nat) (s : State) : State :=
  (linesOf a n).foldl (fun s l => breakReservations l (some c) (homeCoreWrite c l 0 s)) s

/-- A plain store takes its lines and leaves its bytes in them. -/
theorem poolStoreNow_stored {kind : StoreKind} (h : kind = .scalar ∨ kind = .vector) (c a : Nat) (data : List Byte) (s : State) :
    StoredBy (c / 64) a data (linesOwned c a data.length s) (poolStoreNow c a data kind s) := by
  have hnow : poolStoreNow c a data kind s = storeOwned (c / 64) a data (linesOwned c a data.length s) := by
    obtain rfl | rfl := h <;> rfl
  exact hnow ▸ storeOwned_stored ..

theorem poolStoreNow_of_unreserved {c a : Nat} {s : State} (h : (s.core c).reservation ≠ some (a / 128)) (data : List Byte) :
    poolStoreNow c a data .conditional s = s.modCore c fun x => { x with reservation := none, loaded := [1] } :=
  if_neg h

/-! ## Cache-block operations (R187) -/

theorem cboAt_pool {c : CoreId} {pa : PAddr} (h : regionOf pa.toNat = .pool) (f : State → State) (s : State) :
    cboAt c pa f s = f s := by
  rw [cboAt, h]

theorem cboAt_hole {c : CoreId} {pa : PAddr} (h : regionOf pa.toNat = .hole) (f : State → State) (s : State) :
    cboAt c pa f s = coreFault c.val 7 pa.toNat s := by
  rw [cboAt, h]

theorem lt_poolBytes_of_pool {a : Nat} (h : regionOf a = .pool) : a < poolBytes := by
  by_contra hout
  unfold regionOf at h
  rw [if_neg hout] at h
  revert h
  (repeat' split) <;> exact nofun

/-! ## Registers of a core (R190, R191) -/

theorem csrAccess_of_level {c : Nat} {needs : CoreMode} {s : State} (h : needs.level ≤ (s.core c).mode.level)
    (f : State → State) : csrAccess c needs f s = f s := if_pos h

theorem csrAccess_below {c : Nat} {needs : CoreMode} {s : State} (h : (s.core c).mode.level < needs.level)
    (f : State → State) : csrAccess c needs f s = coreFault c 2 0 s := if_neg (by omega)

theorem level_lt_machine {m : CoreMode} (h : m ≠ .machine) : m.level < CoreMode.machine.level := by
  cases m with
  | user | supervisor => decide
  | machine => exact absurd rfl h

theorem supervisor_le_level {m : CoreMode} (h : m ≠ .user) : CoreMode.supervisor.level ≤ m.level := by
  cases m with
  | user => exact absurd rfl h
  | supervisor | machine => decide

/-- The interrupt file once the bit of an identity is set. -/
def withIdentity (identity : Nat) (machine : Bool) (x : CoreState) : CoreState :=
  if machine then { x with machineFile := x.machineFile ||| BitVec.ofNat 256 (2 ^ identity) }
  else { x with supervisorFile := x.supervisorFile ||| BitVec.ofNat 256 (2 ^ identity) }

theorem imsicSend_zero (target : Nat) (machine : Bool) (s : State) : imsicSend target 0 machine s = s := if_pos (.inl rfl)

/-- The message that a word of MIPISEND or SIPISEND names. -/
theorem imsicSend_fields {v : W64} (h : fieldOf v 0 8 ≠ 0) (machine : Bool) (s : State) :
    imsicSend (fieldOf v 8 7) (fieldOf v 0 8) machine s = s.modCore (fieldOf v 8 7) (withIdentity (fieldOf v 0 8) machine) := by
  have hidentity : fieldOf v 0 8 < 256 := Nat.mod_lt _ (by decide)
  have htarget : fieldOf v 8 7 < 128 := Nat.mod_lt _ (by decide)
  exact if_neg (by omega)

section
variable {s : State} (hp : powered s = true)
include hp

theorem exec_mipisend (c : CoreId) (v : W64) : exec (.mipisend c v) s
    = .next (csrAccess c.val .machine (imsicSend (fieldOf v 8 7) (fieldOf v 0 8) (bitOf v 15)) s) :=
  congrArg Host.Outcome.next (clocked_of_powered hp _)

theorem exec_sipisend (c : CoreId) (v : W64) : exec (.sipisend c v) s
    = .next (csrAccess c.val .supervisor (imsicSend (fieldOf v 8 7) (fieldOf v 0 8) false) s) :=
  congrArg Host.Outcome.next (clocked_of_powered hp _)

theorem exec_merrinfoRead (c : CoreId) :
    exec (.merrinfoRead c) s = .next (csrAccess c.val .machine (merrinfoRead c.val) s) :=
  congrArg Host.Outcome.next (clocked_of_powered hp _)

theorem exec_machineTimer (c : CoreId) (v : W64) :
    exec (.machineTimer c v) s = .next (csrAccess c.val .machine (machineTimer c.val v) s) :=
  congrArg Host.Outcome.next (clocked_of_powered hp _)

end

/-- Reading merrinfo clears its bit 63 and no other. -/
theorem bitOf_clear63 (w : W64) : bitOf (w &&& ~~~ (oneBit 63)) 63 = false
    ∧ ∀ i, i < 63 → (w &&& ~~~ (oneBit 63)).getLsbD i = w.getLsbD i := by
  have hbit (i : Nat) (hi : i < 64) : (w &&& ~~~ (oneBit 63)).getLsbD i = (w.getLsbD i && !decide (i = 63)) := by
    have hone := bitOf_oneBit 63 i hi
    rw [bitOf] at hone
    rw [BitVec.getLsbD_and, BitVec.getLsbD_not, hone, decide_eq_true hi, Bool.true_and]
  refine ⟨by rw [bitOf, hbit 63 (by omega)]; simp, fun i hi => ?_⟩
  rw [hbit i (by omega), decide_eq_false (by omega), Bool.not_false, Bool.and_true]

/-- A write of mtimecmp sets MTIP by the time of the core's half. -/
theorem machineTimer_sets (c : Nat) (v : W64) (s : State) : (machineTimer c v s).core c
      = { s.core c with mtimecmp := v, mtip := decide (v.toNat ≤ timeOnHalf (c / 64) s) }
    ∧ (∀ k, k ≠ c → (machineTimer c v s).core k = s.core k) ∧ { machineTimer c v s with cores := s.cores } = s := by
  unfold machineTimer syncTimer
  refine ⟨?_, fun k hk => ?_, rfl⟩
  · rw [State.core_modCore_self, State.core_modCore_self]
    rfl
  · rw [State.core_modCore_other _ _ _ _ hk, State.core_modCore_other _ _ _ _ hk]

/-- Settles O41: each command comes to its request at the home or to its change of one core's registers, whose effect the
lemmas above state; the bytes of a store follow from `storeOwned_stored`, the holders after a cache-block operation from
`flushLine_names` and `zeroLine_holders`. What is said of reservations is the model's choice of log 47. -/
theorem coreCommandsAct : Obligations.CoreCommandsAct := by
  unfold Obligations.CoreCommandsAct
  intro c s hp
  refine ⟨fun pa d hpool => ⟨fun hfree => ?homeFree, fun hheld => ?homeHeld⟩, ?owner, ?load, ?store,
    fun pa => ⟨fun hpool hfree => ?cboPool, fun hhole => ?cboHole, fun hout => ?zeroOut⟩, ?send, ?merrinfo, ?timer⟩
  case homeFree =>
    have hread := (exec_homeCoreRead hp c hpool d).trans
      (congrArg Host.Outcome.next (homeRequest_of_free (by simpa [HomeReq.lines] using hfree)))
    have hwrite := (exec_homeCoreWrite hp c hpool).trans
      (congrArg Host.Outcome.next (homeRequest_of_free (by simpa [HomeReq.lines] using hfree)))
    refine ⟨hread, hwrite, fun hnot => ⟨_, hread, ?_⟩, ⟨_, hwrite, homeCoreWrite_owned .., homeCoreWrite_frame ..⟩⟩
    obtain ⟨hholds, hclean⟩ := homeCoreRead_pline hnot d
    exact ⟨hholds, hclean, homeCoreRead_frame ..⟩
  case homeHeld =>
    have hlines (r : HomeReq) (hr : r.lines = [pa.toNat / 128]) : homeRequest r s = parkedAt r s :=
      homeRequest_of_held (hr ▸ List.mem_singleton_self _) hheld
    exact ⟨⟨_, exec_homeCoreRead hp c hpool d, hlines _ rfl⟩, ⟨_, exec_homeCoreWrite hp c hpool, hlines _ rfl⟩⟩
  case owner =>
    exact fun line howned hholds => ⟨homeCoreRead_of_owner howned hholds 0, homeCoreWrite_of_owner howned hholds 0⟩
  case load =>
    intro pa n kind hn hfit hfree
    have hexec := (exec_coreLoad_pool hp c hn hfit kind).trans (congrArg Host.Outcome.next (homeRequest_of_free hfree))
    refine ⟨linesFetched_of_held, fun hgood => ⟨_, hexec, poolLoadNow_of_good hgood kind⟩, fun hbad => ⟨_, hexec, ?_⟩⟩
    rw [← loadCause_eq]
    exact poolLoadNow_of_poisoned pa.isLt hbad kind
  case store =>
    intro pa data kind hne hfit hfree
    have hexec (k : StoreKind) := (exec_coreStore_pool hp c hne hfit k).trans
      (congrArg Host.Outcome.next (homeRequest_of_free hfree))
    refine ⟨fun hplain => ⟨_, hexec kind, ?_⟩, fun hnone => ⟨_, hexec .conditional, ?_⟩⟩
    · have hstored := poolStoreNow_stored hplain c.val pa.toNat data s
      have hmem (l : Nat) := mem_linesOf (a := pa.toNat) (l := l) (mt List.length_eq_zero_iff.1 hne)
      exact ⟨fun l hl => hstored.touched l ((hmem l).1 hl),
        fun l hl => hstored.untouched l fun i hi heq => hl ((hmem l).2 ⟨i, hi, heq⟩), hstored.inside, hstored.frame⟩
    · obtain ⟨hself, hothers, hframe⟩ := modCore_sets c.val
        (fun x : CoreState => { x with reservation := none, loaded := [1] }) s
      rw [HomeReq.perform, poolStoreNow_of_unreserved hnone]
      exact ⟨⟨hself, hothers⟩, hframe⟩
  case cboPool =>
    have hat (f : State → State) : cboAt c pa f s = f s := cboAt_pool hpool f s
    have hdone (r : HomeReq) (hr : r.lines = [pa.toNat / 128]) : homeRequest r s = r.perform s :=
      homeRequest_of_free (by simpa [hr] using hfree)
    have hflush : (homeRequest (.flush c pa) s = flushLine (pa.toNat / 128) s) := hdone _ rfl
    have hpdies := flushLine_names (pa.toNat / 128) s
    refine ⟨⟨_, exec_cboClean hp c pa, ?_⟩, ⟨_, exec_cboFlush hp c pa, ?_⟩, ⟨_, exec_cboInval hp c pa, ?_⟩,
      ⟨_, exec_cboZero hp c pa, ?_⟩⟩
    · rw [hat, hdone _ rfl]
      exact ⟨rfl, recallLine_owned .., by simp [HomeReq.perform, cleanLine]⟩
    · rw [hat, hflush]
      exact ⟨hpdies 0, hpdies 1, flushLine_frame ..⟩
    · rw [hat, hflush]
      exact ⟨hpdies 0, hpdies 1, flushLine_frame ..⟩
    · rw [if_pos (lt_poolBytes_of_pool hpool), hdone _ rfl]
      exact ⟨zeroLine_holders .., zeroLine_reservation _ s, zeroLine_queues ..⟩
  case cboHole =>
    have hat (f : State → State) : cboAt c pa f s = coreFault c.val 7 pa.toNat s := cboAt_hole hhole f s
    exact ⟨⟨_, exec_cboClean hp c pa, hat _⟩, ⟨_, exec_cboFlush hp c pa, hat _⟩, ⟨_, exec_cboInval hp c pa, hat _⟩⟩
  case zeroOut => exact ⟨_, exec_cboZero hp c pa, if_neg (by omega)⟩
  case send =>
    intro v
    have hfile (machine : Bool) (hk : fieldOf v 0 8 ≠ 0) := imsicSend_fields hk machine s
    refine ⟨fun hmode => ⟨fun hk => ?_, fun hk => ⟨_, exec_mipisend hp c v, ?_⟩⟩,
      fun hmode => ⟨_, exec_mipisend hp c v, csrAccess_below (level_lt_machine hmode) _⟩,
      fun hmode => ⟨fun hk => ?_, fun hk => ⟨_, exec_sipisend hp c v, ?_⟩⟩,
      fun hmode => ⟨_, exec_sipisend hp c v, csrAccess_below (by rw [hmode]; decide) _⟩⟩
    · rw [exec_mipisend hp, csrAccess_of_level (by rw [hmode]), hk, imsicSend_zero]
    · rw [csrAccess_of_level (by rw [hmode]), hfile _ hk]
      obtain ⟨hself, hrest⟩ := modCore_sets (fieldOf v 8 7) (withIdentity (fieldOf v 0 8) (bitOf v 15)) s
      refine ⟨hself.trans ?_, hrest⟩
      cases bitOf v 15 <;> rfl
    · rw [exec_sipisend hp, csrAccess_of_level (supervisor_le_level hmode), hk, imsicSend_zero]
    · rw [csrAccess_of_level (supervisor_le_level hmode), hfile _ hk]
      exact modCore_sets (fieldOf v 8 7) (withIdentity (fieldOf v 0 8) false) s
  case merrinfo =>
    intro hmode
    refine ⟨_, exec_merrinfoRead hp c, ?_⟩
    obtain ⟨hself, hrest⟩ := modCore_sets c.val (fun x : CoreState => { x with
      loaded := leBytes 8 x.merrinfo.toNat, merrinfo := x.merrinfo &&& ~~~ (oneBit 63) }) s
    obtain ⟨hclear, hkeep⟩ := bitOf_clear63 (s.core c.val).merrinfo
    rw [csrAccess_of_level (by rw [hmode]), merrinfoRead, hself]
    exact ⟨rfl, hclear, hkeep, hrest⟩
  case timer =>
    intro v hmode
    obtain ⟨hself, hrest⟩ := machineTimer_sets c.val v s
    refine ⟨_, exec_machineTimer hp c v, ?_⟩
    rw [csrAccess_of_level (by rw [hmode])]
    dsimp only
    rw [hself]
    exact ⟨rfl, decide_eq_true_iff, hrest⟩

end Sys2Proof.Machine
end


section
/-! What the work of a started descriptor leaves of the power envelope: copies, collectives, updates and sequences ask for
no permit and change no demand (spec 16 R345, R346). -/

namespace Sys2Proof.Machine

/-! ## Steps that answer values beside their state -/

theorem env_of_eq {α : Type} {r : α × State} {a : α} {t : State} (h : r = (a, t)) : t.env = r.2.env := by rw [h]

theorem env_of_eq₂ {α β : Type} {r : α × β × State} {a : α} {b : β} {t : State} (h : r = (a, b, t)) :
    t.env = r.2.2.env := by rw [h]

theorem env_of_some {α : Type} {a b : α} {s t u : State} (h : some (a, t) = some (b, u)) (ht : t.env = s.env) :
    u.env = s.env := by
  obtain ⟨-, rfl⟩ := Prod.mk.inj (Option.some.inj h)
  exact ht

theorem ite_env_of {p : Prop} [Decidable p] {s a b : State} (ha : a.env = s.env) (hb : b.env = s.env) :
    (if p then a else b).env = s.env := by
  split
  · exact ha
  · exact hb

theorem env_of_read {α β γ : Type} {r : α × State} {s : State} {f : α → Except β γ} (h : r.2.env = s.env) :
    ((f r.1, r.2) : Except β γ × State).2.env = s.env := h

/-! ## Copies (10 R232-R235, 14 R305) -/

@[simp] theorem freshByte_env (s : State) : (freshByte s).2.env = s.env := by simp [freshByte]

@[simp] theorem freeOverlap_env (srcs : List (Nat × Nat)) (a : Nat) (bs : List (Byte × Bool)) (s : State) :
    (freeOverlap srcs a bs s).2.env = s.env := by
  induction bs generalizing a s with
  | nil => rfl
  | cons b bs ih =>
    unfold freeOverlap
    dsimp only
    rw [ih]
    split <;> simp

@[simp] theorem freeEarlier_env (eng : Nat) (streaming : Bool) (tag : HoldTag) (srcs dst : List (Nat × Nat)) (s : State) :
    (freeEarlier eng streaming tag srcs dst s).env = s.env := by simp [freeEarlier]

@[simp] theorem sideXlt_env (used : Bool) (eng va n : Nat) (write : Bool) (s : State) :
    (sideXlt used eng va n write s).2.env = s.env := by
  unfold sideXlt
  split <;> simp

@[simp] theorem pieceWalk_env (eng : Nat) (rd loc : Bool) (fuel : Nat) (rows : List (Nat × Nat × Nat × Nat)) (s : State) :
    (pieceWalk eng rd loc fuel rows s).2.2.env = s.env := by
  induction fuel generalizing rows s with
  | zero => rfl
  | succ fuel ih =>
    cases rows with
    | nil => rfl
    | cons row rest =>
      unfold pieceWalk
      dsimp only
      split
      · exact ih ..
      · split
        · next s1 hsrc =>
          have hs1 : s1.env = s.env := by simp [env_of_eq hsrc]
          split
          · next hdst => split <;> simp [ih, env_of_eq hdst, hs1]
          · next hdst => simp [env_of_eq hdst, hs1]
        · next hsrc => simp [env_of_eq hsrc]

@[simp] theorem pieceData_env (eng : Nat) (w : DWords) (p : Piece) (s : State) :
    (pieceData eng w p s).2.env = s.env := by simp [pieceData]

@[simp] theorem readPieces_env (eng : Nat) (w : DWords) (ps : List Piece) (s : State) :
    (readPieces eng w ps s).2.env = s.env := by
  induction ps generalizing s with
  | nil => rfl
  | cons p ps ih => simp [readPieces, ih]

@[simp] theorem endUnreachable_env (q n : Nat) (s : State) : (endUnreachable q n s).env = s.env := by
  simp [endUnreachable]

@[simp] theorem writeIncoming_env (p : Packet) (tag : HoldTag) (s : State) : (writeIncoming p tag s).2.env = s.env := by
  unfold writeIncoming
  dsimp only
  split
  · next h => simp [env_of_eq h]
  · rfl
  · next h => simp [env_of_eq h]

@[simp] theorem parkWrite_env (p : Packet) (own : Option DescId) (s : State) : (parkWrite p own s).env = s.env := by
  simp [parkWrite]

@[simp] theorem ownWrite_env (d : DescId) (p : Packet) (s : State) : (ownWrite d p s).env = s.env := by
  unfold ownWrite
  split
  · simp
  · next h => simp [env_of_eq h]

@[simp] theorem sendWrite_env (q n : Nat) (node : NodeId) (va : Nat) (bs : List (Byte × Bool)) (s : State) :
    (sendWrite q n node va bs s).env = s.env := by
  unfold sendWrite
  split <;> simp

@[simp] theorem sendWrites_env (q n : Nat) (node : NodeId) (va : Nat) (bs : List (Byte × Bool)) (s : State) :
    (sendWrites q n node va bs s).env = s.env := by simp [sendWrites]

@[simp] theorem writePiece_env (q n eng : Nat) (w : DWords) (srcs : List (Nat × Nat)) (s : State)
    (pd : Piece × List (Byte × Bool)) :
    (writePiece q n eng w srcs s pd).env = s.env := by simp [writePiece]

@[simp] theorem postFault_env (eng vpage : Nat) (big : Bool) (s : State) : (postFault eng vpage big s).env = s.env := by
  unfold postFault
  dsimp only
  (repeat' split) <;> simp

@[simp] theorem stopAtPage_env (q n vpage : Nat) (big : Bool) (s : State) :
    (stopAtPage q n vpage big s).env = s.env := by simp [stopAtPage]

@[simp] theorem copyRun_env (q n : Nat) (s : State) : (copyRun q n s).env = s.env := by
  unfold copyRun
  dsimp only
  (repeat' split) <;> simp

@[simp] theorem beginInval_env (q n : Nat) (w : DWords) (s : State) : (beginInval q n w s).env = s.env := by
  simp [beginInval]

/-! ## Collectives (11 R245-R256) -/

@[simp] theorem modRun_env (id : DescId) (f : CollRun → CollRun) (s : State) : (modRun id f s).env = s.env := by
  simp [modRun]

@[simp] theorem dropHeld_env (g : Nat) (seq : BitVec 20) (s : State) : (dropHeld g seq s).env = s.env := by
  simp [dropHeld]

@[simp] theorem setTally_env (g e : Nat) (t : Tally) (s : State) : (setTally g e t s).env = s.env := by simp [setTally]

@[simp] theorem writeTally_env (g e : Nat) (tag : HoldTag) (s : State) : (writeTally g e tag s).2.env = s.env := by
  unfold writeTally
  split
  · split
    · rfl
    · next h => simp [env_of_eq h]
  · rfl

@[simp] theorem tallyFailed_env (r : CollRun) (e : Nat) (mismatch : Bool) (s : State) :
    (tallyFailed r e mismatch s).env = s.env := by
  unfold tallyFailed
  dsimp only
  split
  · next h => simp [env_of_eq h]
  · simp

@[simp] theorem sendColl_env (gi : Nat) (g : GroupSt) (seq : BitVec 20) (i word : Nat) (bs : List Byte) (s : State) :
    (sendColl gi g seq i word bs s).env = s.env := by simp [sendColl]

@[simp] theorem sendAborts_env (r : CollRun) (g : GroupSt) (c : AbortCause) (s : State) :
    (sendAborts r g c s).env = s.env := by simp [sendAborts]

@[simp] theorem sendRound_env (id : DescId) (s : State) : (sendRound id s).env = s.env := by
  unfold sendRound
  split
  · rfl
  · split
    · rfl
    · split <;> simp

@[simp] theorem sendPiece_env (r : CollRun) (g : GroupSt) (peer first size : Nat) (k : CollPart) (flags : FFlags)
    (elems : List W64) (s : State) :
    (sendPiece r g peer first size k flags elems s).env = s.env := by simp [sendPiece]

@[simp] theorem sendSpan_env (r : CollRun) (g : GroupSt) (peer lo hi : Nat) (k : CollPart) (s : State) :
    (sendSpan r g peer lo hi k s).env = s.env := by simp [sendSpan]

@[simp] theorem sendBlock_env (r : CollRun) (g : GroupSt) (peer : Nat) (s : State) :
    (sendBlock r g peer s).env = s.env := by simp [sendBlock]

@[simp] theorem endRun_env (r : CollRun) (st : BitVec 16) (result : W64) (s : State) :
    (endRun r st result s).env = s.env := by simp [endRun]

@[simp] theorem freeRange_env (eng : Nat) (tag : HoldTag) (fuel va n : Nat) (s : State) :
    (freeRange eng tag fuel va n s).env = s.env := by
  induction fuel generalizing va n s with
  | zero => rfl
  | succ fuel ih =>
    unfold freeRange
    dsimp only
    split
    · rfl
    · simp [ih]

@[simp] theorem freeDest_env (r : CollRun) (g : GroupSt) (s : State) : (freeDest r g s).env = s.env := by simp [freeDest]

@[simp] theorem returnHeld_env (u : Nat) (s : State) : (returnHeld u s).env = s.env := by simp [returnHeld]

@[simp] theorem endStall_env (u : Nat) (s : State) : (endStall u s).env = s.env := by simp [endStall]

@[simp] theorem beginStall_env (u : Nat) (id : DescId) (s : State) : (beginStall u id s).env = s.env := by
  simp [beginStall]

@[simp] theorem endApply_env (u : Nat) (a : Armed) (st : BitVec 16) (s : State) : (endApply u a st s).env = s.env := by
  simp [endApply]

@[simp] theorem applyFollows_env (r : CollRun) (e : Nat) (st : BitVec 16) (s : State) :
    (applyFollows r e st s).env = s.env := by
  unfold applyFollows
  dsimp only
  (repeat' split) <;> simp

@[simp] theorem endEarly_env (r : CollRun) (st : BitVec 16) (member : Nat) (c : AbortCause) (s : State) :
    (endEarly r st member c s).env = s.env := by
  unfold endEarly
  split <;> simp

theorem stepData_env {r r1 : CollRun} {g : GroupSt} {s s1 : State} (h : stepData r g s = some (r1, s1)) :
    s1.env = s.env := by
  unfold stepData at h
  split at h
  · exact nomatch h
  · dsimp only at h
    split at h
    · exact env_of_some h (sendSpan_env ..)
    · exact env_of_some h (sendBlock_env ..)
    · exact env_of_some h rfl
    · exact env_of_some h rfl
    · split at h
      · exact env_of_some h rfl
      · split at h
        · exact nomatch h
        · exact env_of_some h rfl

@[simp] theorem advanceData_env (id : DescId) (fuel : Nat) (s : State) : (advanceData id fuel s).env = s.env := by
  induction fuel generalizing s with
  | zero => rfl
  | succ fuel ih =>
    unfold advanceData
    split
    · rfl
    split
    · rfl
    split
    · rfl
    split
    · rfl
    · next h => rw [ih, modRun_env, stepData_env h]

@[simp] theorem runData_env (id : DescId) (s : State) : (runData id s).env = s.env := by simp [runData]

@[simp] theorem pairSink_env (r : CollRun) (e : Nat) (s : State) : (pairSink r e s).env = s.env := by
  unfold pairSink
  dsimp only
  (repeat' split) <;> simp

@[simp] theorem settleSink_env (u : Nat) (s : State) : (settleSink u s).env = s.env := by
  unfold settleSink
  split <;> simp

@[simp] theorem beginData_env (id : DescId) (s : State) : (beginData id s).env = s.env := by
  unfold beginData
  dsimp only
  (repeat' split) <;> simp

@[simp] theorem closeRound_env (id : DescId) (s : State) : (closeRound id s).env = s.env := by
  unfold closeRound
  split
  · rfl
  · split <;> simp

@[simp] theorem advanceRound_env (id : DescId) (fuel : Nat) (s : State) : (advanceRound id fuel s).env = s.env := by
  induction fuel generalizing s with
  | zero => rfl
  | succ fuel ih =>
    unfold advanceRound
    split
    · rfl
    split
    · rfl
    split
    · rfl
    split
    · exact closeRound_env ..
    dsimp only
    split
    · rfl
    · simp [ih]

@[simp] theorem launchRound_env (r : CollRun) (s : State) : (launchRound r s).env = s.env := by simp [launchRound]

@[simp] theorem enterColl_env (q n : Nat) (s : State) : (enterColl q n s).env = s.env := by
  unfold enterColl
  dsimp only
  (repeat' split) <;> simp

/-! ## Updates (12 R259-R278) -/

@[simp] theorem updRead_env (u : Nat) (m : UpdMaps) (va n : Nat) (s : State) : (updRead u m va n s).2.env = s.env := by
  simp [updRead]

@[simp] theorem armApply_env (q n : Nat) (s : State) : (armApply q n s).env = s.env := by
  unfold armApply
  dsimp only
  split
  · rfl
  · split
    · simp
    · split
      · rfl
      · next h => simp [env_of_eq₂ h]
      · next s1 h =>
        have hs1 : s1.env = s.env := by simp [env_of_eq₂ h]
        split
        · simp [hs1]
        · split
          · simp [hs1]
          · split
            · rfl
            · next h' => simp [env_of_eq₂ h', hs1]
            · next h' => split <;> simp [env_of_eq₂ h', hs1]

@[simp] theorem runCommit_env (q n : Nat) (s : State) : (runCommit q n s).env = s.env := by
  unfold runCommit
  dsimp only
  split
  · rfl
  · split
    · rfl
    · next h => simp [env_of_eq h]
    · next s1 h =>
      have hs1 : s1.env = s.env := by simp [env_of_eq h]
      split
      · simp [hs1]
      · split
        · simp [hs1]
        · split
          · rfl
          all_goals next hwrite => simp [env_of_eq hwrite, hs1]

/-! ## Sequences (13 R281-R295) -/

@[simp] theorem seqMalformed_env (q n : Nat) (result : Option W64) (s : State) :
    (seqMalformed q n result s).env = s.env := by simp [seqMalformed]

@[simp] theorem runOpen_env (h q n : Nat) (w : DWords) (s : State) : (runOpen h q n w s).env = s.env := by simp [runOpen]

@[simp] theorem runClose_env (h q n : Nat) (w : DWords) (s : State) : (runClose h q n w s).env = s.env := by
  simp [runClose]

@[simp] theorem memRead_env (q : Nat) (w : DWords) (a n : Nat) (s : State) : (memRead q w a n s).2.env = s.env := by
  by_cases h : sKind w = 1
  · rw [memRead, if_pos h]
    exact env_of_read (f := .ok) (by simp only [physRead_fr])
  · rw [memRead, if_neg h]
    simp only [vaRead_fr]

@[simp] theorem memWrite_env (id : DescId) (w : DWords) (a : Nat) (bs : List (Byte × Bool)) (s : State) :
    (memWrite id w a bs s).2.env = s.env := by simp [memWrite]

@[simp] theorem blockEntry_env (h : Nat) (id : DescId) (j blk : Nat) (s : State) :
    (blockEntry h id j blk s).2.env = s.env := by
  unfold blockEntry
  dsimp only
  split
  · rfl
  · split
    · rfl
    · next h => simp [env_of_eq h]
    · next h => split <;> simp [env_of_eq h]

@[simp] theorem movePiece_env (h : Nat) (id : DescId) (w : DWords) (j o a n : Nat) (s : State) :
    (movePiece h id w j o a n s).2.env = s.env := by
  unfold movePiece
  dsimp only
  split
  · next h => simp [env_of_eq h]
  · next h => simp [env_of_eq h]
  · next s1 h =>
    have hs1 : s1.env = s.env := by simp [env_of_eq h]
    split
    · exact hs1
    · split
      · exact hs1
      · next hread => simp [env_of_eq hread, hs1]
      · next hread =>
        split
        · exact hs1
        all_goals next hwrite => simp [env_of_eq hwrite, env_of_eq hread, hs1]

@[simp] theorem moveRow_env (h : Nat) (id : DescId) (w : DWords) (j fuel o a n : Nat) (s : State) :
    (moveRow h id w j fuel o a n s).2.env = s.env := by
  induction fuel generalizing o a n s with
  | zero => rfl
  | succ fuel ih =>
    unfold moveRow
    dsimp only
    split
    · rfl
    · split
      · next h => rw [ih, env_of_eq h, movePiece_env]
      · exact movePiece_env ..

@[simp] theorem moveRows_env (h : Nat) (id : DescId) (w : DWords) (slots : List Nat) (fuel k : Nat) (s : State) :
    (moveRows h id w slots fuel k s).2.env = s.env := by
  induction fuel generalizing k s with
  | zero => rfl
  | succ fuel ih =>
    unfold moveRows
    dsimp only
    split
    · next h => simp [ih, env_of_eq h]
    · exact moveRow_env ..

@[simp] theorem runKv_env (h : Nat) (r : SeqRun) (w : DWords) (s : State) : (runKv h r w s).env = s.env := by
  unfold runKv
  dsimp only
  refine ite_env_of (by simp) (ite_env_of (by simp) (ite_env_of (by simp) ?_))
  split <;> next hmoved => simp [env_of_eq hmoved]

@[simp] theorem selectToken_env (l : List Nat) (w : DWords) (x : SlotSt) (s : State) :
    (selectToken l w x s).2.env = s.env := by
  unfold selectToken
  dsimp only
  split
  · rfl
  · split
    · rfl
    · have hweights (l : List (Nat × Nat)) (f : List Nat × State → Nat × Nat → List Nat × State)
          (hf : ∀ acc e, (f acc e).2.env = acc.2.env) : (l.foldl f ([], s)).2.env = s.env :=
        List.foldlRecOn (motive := fun acc => acc.2.env = s.env) l f rfl fun acc hacc e _ => (hf acc e).trans hacc
      split
      all_goals
        simp only [freshWord_fr]
        refine hweights _ _ fun acc e => ?_
        dsimp only
        split
        · rfl
        · split <;> simp

@[simp] theorem writeToken_env (h : Nat) (id : DescId) (r : Nat × Nat) (s : State) :
    (writeToken h id r s).2.env = s.env := by
  unfold writeToken
  dsimp only
  split <;> next h' => simp [env_of_eq h']

@[simp] theorem advanceSlot_env (h j : Nat) (k : SeqToken) (s : State) : (advanceSlot h j k s).env = s.env := by
  unfold advanceSlot
  split <;> simp

@[simp] theorem sampleToken_env (h : Nat) (id : DescId) (w : DWords) (i g : Nat) (s : State) :
    (sampleToken h id w i g s).2.env = s.env := by
  unfold sampleToken
  dsimp only
  split
  · split
    · rfl
    all_goals next h => simp [env_of_eq h]
  · split
    · rfl
    · next h => simp [env_of_eq h]
    · next h =>
      split
      · simp [env_of_eq h]
      · split
        · simp [env_of_eq h]
        all_goals next h' => simp [env_of_eq h', env_of_eq h]

@[simp] theorem sampleSlots_env (h : Nat) (id : DescId) (w : DWords) (slots : List Nat) (fuel i : Nat) (s : State) :
    (sampleSlots h id w slots fuel i s).env = s.env := by
  induction fuel generalizing i s with
  | zero => rfl
  | succ fuel ih =>
    unfold sampleSlots
    dsimp only
    split
    · rfl
    split
    · simp
    split
    · rfl
    · next hfound =>
      simp only [endSeq_fr, env_of_eq hfound]
      split <;> simp
    · next s1 hfound =>
      have hs1 : s1.env = s.env := by
        rw [env_of_eq hfound]
        split <;> simp
      split
      · split <;> simp [hs1]
      · split
        · simp [hs1]
        all_goals next hwrite => simp [ih, env_of_eq hwrite, hs1]

@[simp] theorem runSample_env (h : Nat) (r : SeqRun) (w : DWords) (s : State) : (runSample h r w s).env = s.env := by
  simp [runSample]

@[simp] theorem runSeq_env (q n : Nat) (s : State) : (runSeq q n s).env = s.env := by
  unfold runSeq
  dsimp only
  (repeat' split) <;> simp

/-! ## Any descriptor -/

@[simp] theorem runProg_env (q n : Nat) (s : State) : (runProg q n s).env = s.env := by
  unfold runProg
  dsimp only
  (repeat' split) <;> simp

end Sys2Proof.Machine
end


section
/-! Proofs about grants of waiting starts (spec 16 R346, 04 R84, R97) and acknowledgements of holders (08 R184), and
O26. -/

namespace Sys2Proof.Machine

/-! ## Starts that wait (16 R345, R346) -/

/-- The first waiting start has left the queue, its demand taken from the headroom. -/
def granted (x : Start) (rest : List Start) (s : State) : State :=
  reserve x.demand (s.modEnv fun e => { e with starts := rest })

theorem granted_env (x : Start) (rest : List Start) (s : State) : (granted x rest s).env.starts = rest
    ∧ (granted x rest s).env.resv = s.env.resv ++ [(x.demand, s.now + 1000000)] := ⟨rfl, rfl⟩

theorem granted_unit (x : Start) (rest : List Start) (s : State) (e : StreamEng) :
    (granted x rest s).unit e = s.unit e := State.unit_congr rfl rfl e

theorem sluiceNext_of_none {s : State} (h : s.env.starts = []) : sluiceNext s = (none, s) := by
  rw [sluiceNext, h]

theorem sluiceNext_of_unfit {s : State} {x : Start} {rest : List Start} (h : s.env.starts = x :: rest)
    (hfit : fits x.demand s = false) : sluiceNext s = (none, s) := by
  rw [sluiceNext, h]
  exact if_neg (Bool.eq_false_iff.1 hfit)

theorem sluiceNext_of_fit {s : State} {x : Start} {rest : List Start} (h : s.env.starts = x :: rest)
    (hfit : fits x.demand s = true) : sluiceNext s = (some x, granted x rest s) := by
  rw [sluiceNext, h]
  exact if_pos hfit

section
variable {s : State} (hp : powered s = true)
include hp

theorem exec_startGrant_of_none (h : sluiceNext s = (none, s)) : exec .startGrant s = .next s := by
  change execStartGrant s = _
  rw [execStartGrant, h]
  exact if_neg (by simp [hp])

theorem exec_startGrant_stream {x : Start} {t : State} {mask : BitVec 32} (h : sluiceNext s = (some x, t))
    (hid : x.id = .stream mask) : exec .startGrant s = .next (grantStream mask t) := by
  change execStartGrant s = _
  rw [execStartGrant, h]
  dsimp only
  rw [hid]
  exact if_neg (by simp [hp])

theorem exec_startGrant_engine {x : Start} {t : State} {code : Nat} (h : sluiceNext s = (some x, t))
    (hid : x.id = .engine code) : exec .startGrant s = .next (grantEngine code t) := by
  change execStartGrant s = _
  rw [execStartGrant, h]
  dsimp only
  rw [hid]
  exact if_neg (by simp [hp])

end

/-! ## Permits of streams (04 R84, R97) -/

/-- From s to t every engine's permit is as it was, and of the power envelope at most the permits of groups differ. -/
structure PermitsStand (s t : State) : Prop where
  permit : ∀ e, (t.unit e).permit = (s.unit e).permit
  starts : t.env.starts = s.env.starts
  resv : t.env.resv = s.env.resv

theorem PermitsStand.refl (s : State) : PermitsStand s s := ⟨fun _ => rfl, rfl, rfl⟩

theorem PermitsStand.trans {s t u : State} (hst : PermitsStand s t) (htu : PermitsStand t u) : PermitsStand s u :=
  ⟨fun e => (htu.permit e).trans (hst.permit e), htu.starts.trans hst.starts, htu.resv.trans hst.resv⟩

theorem permitsStand_foldl {β : Type} {f : State → β → State} (h : ∀ s b, PermitsStand s (f s b)) (l : List β)
    (s : State) : PermitsStand s (l.foldl f s) :=
  List.foldlRecOn l f (.refl s) fun t ht b _ => ht.trans (h t b)

theorem startMember_permitsStand (start duty : Nat) (several : Bool) (e : StreamEng) (s : State) :
    PermitsStand s (startMember start duty several e s) := by
  have henv : (startMember start duty several e s).env = s.env := by
    unfold startMember
    cases e <;> simp [stopBallast]
  refine ⟨fun x => ?_, by rw [henv], by rw [henv]⟩
  rw [startMember_unit]
  split
  · next hx => exact hx ▸ rfl
  · rfl

theorem raiseEv_permitsStand (src : BitVec 16) (k : Nat) (s : State) : PermitsStand s (raiseEv src k s) :=
  ⟨fun e => congrArg StreamUnit.permit (State.unit_congr (by simp) (by simp) e), by simp, by simp⟩

theorem startGroup_permitsStand (e : StreamEng) (s : State) : PermitsStand s (startGroup e s) := by
  rcases startGroup_cases e s with hsame | ⟨l, hdue⟩
  · rw [hsame]
    exact .refl s
  · have hstarted : PermitsStand s (membersStarted e l s) :=
      permitsStand_foldl (fun t x => startMember_permitsStand _ _ _ x t) (lockGroupOf e l) s
    have hlate (t : State) : PermitsStand t ((lockGroupOf e l).foldl (fun s x => raiseEv (streamSrc x) evLockLate s) t) :=
      permitsStand_foldl (fun t x => raiseEv_permitsStand _ _ t) _ t
    have hused (t : State) : PermitsStand t
        (t.modEnv fun v => { v with permits := v.permits.filter (· != ownMask e l.lockMask) }) :=
      ⟨fun x => congrArg StreamUnit.permit (State.unit_congr rfl rfl x), rfl, rfl⟩
    rw [startGroup_of_due hdue]
    refine .trans ?_ (hused _)
    split
    · exact hstarted.trans (hlate _)
    · exact hstarted

theorem checkReady_permitsStand (e : StreamEng) (s : State) : PermitsStand s (checkReady e s) := by
  have hready : PermitsStand s (s.modUnit e fun u => { u with readyAt := some s.now, status := .waitingForLock }) := by
    refine ⟨fun x => ?_, by simp, by simp⟩
    rw [State.unit_modUnit]
    split
    · next hx => exact hx ▸ rfl
    · rfl
  unfold checkReady
  dsimp only
  split
  · split
    · split
      · exact hready.trans (startGroup_permitsStand e _)
      · exact hready
    · exact .refl s
  · exact .refl s

theorem mem_allEngines (e : StreamEng) : e ∈ allEngines := by
  obtain ⟨hcode, hlt⟩ := streamEng_engCode e
  exact List.mem_map.2 ⟨engCode e, List.mem_range.2 hlt, hcode⟩

/-- One waiting member takes its permit. -/
def takePermit (s : State) (x : StreamEng) : State :=
  checkReady x (s.modUnit x fun u => { u with
    permit := true, status := if u.status = .waitingForPermit then .idle else u.status })

/-- The permit is held in the mask's group before its members take it. -/
def groupPermit (mask : BitVec 32) (s : State) : State :=
  if 1 < (allEngines.filter fun x => mask.getLsbD (engBit x)).length then
    s.modEnv fun v => { v with permits := v.permits ++ [mask] } else s

/-- Does engine x hold a launch of the mask's group that waits? -/
def awaitsPermit (mask : BitVec 32) (s : State) (x : StreamEng) : Bool :=
  (s.unit x).waits && match curLaunch (s.unit x) with
    | some l => ownMask x l.lockMask == mask
    | none => false

theorem grantStream_eq (mask : BitVec 32) (s : State) : grantStream mask s
    = ((allEngines.filter fun x => mask.getLsbD (engBit x)).filter (awaitsPermit mask (groupPermit mask s))).foldl
      takePermit (groupPermit mask s) := rfl

theorem groupPermit_permitsStand (mask : BitVec 32) (s : State) : PermitsStand s (groupPermit mask s) := by
  unfold groupPermit
  split
  · exact ⟨fun e => congrArg StreamUnit.permit (State.unit_congr rfl rfl e), rfl, rfl⟩
  · exact .refl s

theorem groupPermit_unit (mask : BitVec 32) (s : State) (e : StreamEng) : (groupPermit mask s).unit e = s.unit e := by
  unfold groupPermit
  split
  · exact State.unit_congr rfl rfl e
  · rfl

theorem takePermit_permit (s : State) (x e : StreamEng) :
    ((takePermit s x).unit e).permit = if e = x then true else (s.unit e).permit := by
  rw [takePermit, (checkReady_permitsStand x _).permit, State.unit_modUnit]
  split <;> rfl

theorem takePermit_env (s : State) (x : StreamEng) :
    (takePermit s x).env.starts = s.env.starts ∧ (takePermit s x).env.resv = s.env.resv := by
  have hready := checkReady_permitsStand x (s.modUnit x fun u => { u with
    permit := true, status := if u.status = .waitingForPermit then .idle else u.status })
  exact ⟨hready.starts.trans (by simp), hready.resv.trans (by simp)⟩

/-- A grant takes no start from the queue and no demand. -/
theorem grantStream_env (mask : BitVec 32) (s : State) : (grantStream mask s).env.starts = s.env.starts
    ∧ (grantStream mask s).env.resv = s.env.resv := by
  have hgroup := groupPermit_permitsStand mask s
  rw [grantStream_eq]
  refine List.foldlRecOn (motive := fun t : State => t.env.starts = s.env.starts ∧ t.env.resv = s.env.resv) _ _
    ⟨hgroup.starts, hgroup.resv⟩ fun t ht x _ => ?_
  obtain ⟨hstarts, hresv⟩ := takePermit_env t x
  exact ⟨hstarts.trans ht.1, hresv.trans ht.2⟩

/-- Every launch of the mask's group that waits holds its permit. -/
theorem grantStream_permit {mask : BitVec 32} {s : State} {e : StreamEng} {l : Launch} (hmask : mask.getLsbD (engBit e) = true)
    (hwaits : (s.unit e).waits = true) (hlaunch : curLaunch (s.unit e) = some l) (hgroup : ownMask e l.lockMask = mask) :
    ((grantStream mask s).unit e).permit = true := by
  rw [grantStream_eq]
  refine foldl_of_mem (P := fun t => (t.unit e).permit = true) (fun t => ?_) (fun t x ht => ?_) (x := e) ?_ _
  · rw [takePermit_permit, if_pos rfl]
  · rw [takePermit_permit]
    split
    · rfl
    · exact ht
  · simp only [List.mem_filter, mem_allEngines, hmask, awaitsPermit, groupPermit_unit, hwaits, hlaunch, hgroup, beq_self_eq_true,
      Bool.and_self, and_self]

/-! ## Engines (16 R346) -/

theorem permitWaiter_granted (code : Nat) (x : Start) (rest : List Start) (s : State) :
    permitWaiter code (granted x rest s) = permitWaiter code s := rfl

theorem grantEngine_of_waiter {code q n : Nat} {s : State} (h : permitWaiter code s = some (q, n)) :
    grantEngine code s = runProg q n (modProg q n (fun p => { p with phase := .running }) s) := by
  rw [grantEngine, h]

/-! ## Acknowledgements of holders (08 R184) -/

/-- The held writes of a line wait no more for a holder, whose copy is gone. -/
def acknowledged (line : Nat) (h : Holder) (s : State) : State :=
  let s1 := invalidate line h s
  { s1 with coh := { s1.coh with
    held := s1.coh.held.map fun w => if w.line == line then { w with acks := w.acks.filter (· != h) } else w } }

theorem invalidate_held (line : Nat) (h : Holder) (s : State) : (invalidate line h s).coh.held = s.coh.held := by
  have hpline (k : Nat) (p : PLine) : (s.setPline k line p).coh.held = s.coh.held := by
    unfold State.setPline
    split <;> rfl
  unfold invalidate
  split
  · exact hpline _ _
  · dsimp only
    split <;> rfl

theorem acknowledged_held (line : Nat) (h : Holder) (s : State) : (acknowledged line h s).coh.held
    = s.coh.held.map fun w => if w.line == line then { w with acks := w.acks.filter (· != h) } else w :=
  congrArg (List.map _) (invalidate_held line h s)

theorem acknowledged_acks {line : Nat} {h : Holder} {s : State} {w : HeldWrite} (hw : w ∈ (acknowledged line h s).coh.held)
    (hline : w.line = line) : h ∉ w.acks := by
  rw [acknowledged_held, List.mem_map] at hw
  obtain ⟨v, -, rfl⟩ := hw
  by_cases hv : (v.line == line) = true
  · simp [hv]
  · rw [if_neg hv] at hline
    exact absurd (beq_iff_eq.2 hline) hv

theorem acknowledged_writes (line : Nat) (h : Holder) (s : State) :
    ((acknowledged line h s).coh.held.map fun w => (w.line, w.writes, w.tag)) = s.coh.held.map fun w => (w.line, w.writes, w.tag) := by
  rw [acknowledged_held, List.map_map]
  refine List.map_congr_left fun w _ => ?_
  rw [Function.comp_apply]
  split <;> rfl

theorem holderAcknowledge_of_awaited {line : Nat} {h : Holder} {s : State}
    (hw : (s.coh.held.any fun w => w.line == line && w.acks.contains h) = true) :
    holderAcknowledge line h s = replayWaiting (releaseHeld line (acknowledged line h s)) := if_pos hw

theorem holderAcknowledge_of_unawaited {line : Nat} {h : Holder} {s : State}
    (hw : (s.coh.held.any fun w => w.line == line && w.acks.contains h) = false) : holderAcknowledge line h s = s :=
  if_neg (Bool.eq_false_iff.1 hw)

theorem exec_holderAcknowledge {s : State} (hp : powered s = true) (pa : PAddr) (h : Holder) :
    exec (.holderAcknowledge pa h) s
      = .next (drainNotices (settleSeqs (sendAcks (holderAcknowledge (pa.toNat / 128) h s)))) :=
  if_neg (by simp [hp])

/-- Settles O26: a grant's members take their permits one by one and keep them (`grantStream_permit`), an engine's
descriptor runs and leaves the power envelope alone (`runProg_env`), and an acknowledgement takes its holder from the held
writes of the line (`acknowledged_acks`). That a start which does not fit changes nothing is log 1. -/
theorem grantsAndAcknowledgementsLetWorkGo : Obligations.GrantsAndAcknowledgementsLetWorkGo := by
  unfold Obligations.GrantsAndAcknowledgementsLetWorkGo
  intro s hp
  refine ⟨fun x rest hstarts hfit => exec_startGrant_of_none hp (sluiceNext_of_unfit hstarts hfit),
    fun hnone => exec_startGrant_of_none hp (sluiceNext_of_none hnone), ?stream, ?engine, ?awaited, ?unawaited⟩
  case stream =>
    intro x rest mask hstarts hfit hid
    obtain ⟨hqueue, hresv⟩ := granted_env x rest s
    obtain ⟨hsame, hdemand⟩ := grantStream_env mask (granted x rest s)
    refine ⟨_, exec_startGrant_stream hp (sluiceNext_of_fit hstarts hfit) hid, hsame.trans hqueue, hdemand.trans hresv,
      fun e l hmask hwaits hlaunch hgroup => ?_⟩
    rw [← granted_unit x rest s e] at hwaits hlaunch ⊢
    exact ⟨grantStream_permit hmask hwaits hlaunch hgroup, (grantStream_launchesStand mask (granted x rest s) e).cur⟩
  case engine =>
    intro x rest code q n hstarts hfit hid hwaiter
    obtain ⟨hqueue, hresv⟩ := granted_env x rest s
    refine ⟨_, exec_startGrant_engine hp (sluiceNext_of_fit hstarts hfit) hid, ?_⟩
    rw [grantEngine_of_waiter ((permitWaiter_granted code x rest s).trans hwaiter)]
    exact ⟨by simp [hqueue], by simp [hresv], rfl⟩
  case awaited =>
    intro pa h hw
    refine ⟨_, exec_holderAcknowledge hp pa h, acknowledged (pa.toNat / 128) h s, ?_, fun w => acknowledged_acks,
      acknowledged_writes .., ?_, ?_⟩
    · rw [holderAcknowledge_of_awaited hw]
    · simp [acknowledged]
    · simp [acknowledged]
  case unawaited =>
    intro pa h hw
    rw [exec_holderAcknowledge hp, holderAcknowledge_of_unawaited hw]

end Sys2Proof.Machine
end


section
/-! Proofs about invalidations that begin (spec 09 R215, R216), and O18. -/

namespace Sys2Proof.Machine

/-- A TLB entry covers a 64 MiB unit of an invalidation's range; SPAN 0 is every address. -/
def TlbEntry.meets (base span : Nat) (e : TlbEntry) : Prop :=
  span = 0 ∨ ∃ k, k < (if e.big then 32 else 1)
    ∧ base ≤ e.base / 0x4000000 + k ∧ e.base / 0x4000000 + k < base + span

/-- The model's test of a TLB entry against an invalidation's range. -/
def TlbEntry.hit (base span : Nat) (e : TlbEntry) : Bool :=
  unitsHit base span ((List.range (if e.big then 32 else 1)).map (e.base / 0x4000000 + ·))

theorem unitsHit_iff {base span : Nat} {units : List Nat} (hne : units ≠ []) : unitsHit base span units = true
    ↔ span = 0 ∨ ∃ u ∈ units, base ≤ u ∧ u < base + span := by
  obtain ⟨v, hv⟩ := List.exists_mem_of_ne_nil units hne
  simp only [unitsHit, List.any_eq_true, Bool.or_eq_true, beq_iff_eq, Bool.and_eq_true, decide_eq_true_eq]
  constructor
  · rintro ⟨u, hu, hspan | hin⟩
    · exact .inl hspan
    · exact .inr ⟨u, hu, hin⟩
  · rintro (hspan | ⟨u, hu, hin⟩)
    · exact ⟨v, hv, .inl hspan⟩
    · exact ⟨u, hu, .inr hin⟩

theorem TlbEntry.hit_iff (base span : Nat) (e : TlbEntry) : e.hit base span = true ↔ e.meets base span := by
  have hunits : (List.range (if e.big then 32 else 1)).map (e.base / 0x4000000 + ·) ≠ [] := by
    cases e.big <;> simp
  rw [TlbEntry.hit, unitsHit_iff hunits]
  simp [TlbEntry.meets]

/-- What an invalidation leaves of one engine's TLB; an empty TLB is not listed. -/
def keptTlb (base span : Nat) (c : Nat × List TlbEntry) : Option (Nat × List TlbEntry) :=
  let l := c.2.filter fun e => !e.hit base span
  if l = [] then none else some (c.1, l)

theorem beginInval_tlb (q n : Nat) (w : DWords) (s : State) :
    (beginInval q n w s).xlt.tlb = s.xlt.tlb.filterMap (keptTlb (dSrc w / 0x4000000) (dSpan w)) := rfl

theorem mem_keptTlb {base span c : Nat} {l : List TlbEntry} {x : Nat × List TlbEntry}
    (h : keptTlb base span x = some (c, l)) : x.1 = c ∧ l = x.2.filter fun e => !e.hit base span := by
  obtain ⟨-, hx⟩ := Option.ite_none_left_eq_some.1 h
  obtain ⟨hc, hl⟩ := Prod.mk.inj (Option.some.inj hx)
  exact ⟨hc, hl.symm⟩

/-- No TLB entry of the range is left. -/
theorem not_meets_of_mem_keptTlb {base span c : Nat} {l : List TlbEntry} {tlb : Sparse (List TlbEntry)} {e : TlbEntry}
    (hl : (c, l) ∈ tlb.filterMap (keptTlb base span)) (he : e ∈ l) : ¬ e.meets base span := by
  obtain ⟨x, -, hx⟩ := List.mem_filterMap.1 hl
  obtain ⟨-, rfl⟩ := mem_keptTlb hx
  have hmiss := (List.mem_filter.1 he).2
  rw [← TlbEntry.hit_iff]
  simpa using hmiss

/-- A TLB entry outside the range stays with its engine. -/
theorem mem_keptTlb_of_not_meets {base span c : Nat} {l : List TlbEntry} {tlb : Sparse (List TlbEntry)} {e : TlbEntry}
    (hl : (c, l) ∈ tlb) (he : e ∈ l) (hmiss : ¬ e.meets base span) :
    ∃ l', (c, l') ∈ tlb.filterMap (keptTlb base span) ∧ e ∈ l' := by
  rw [← TlbEntry.hit_iff] at hmiss
  have hkept : e ∈ l.filter fun e => !e.hit base span := List.mem_filter.2 ⟨he, by simpa using hmiss⟩
  exact ⟨_, List.mem_filterMap.2 ⟨_, hl, if_neg (List.ne_nil_of_mem hkept)⟩, hkept⟩

/-- Settles O18: the TLBs that are left are `keptTlb` of the old ones, which drops the entries that meet the range and no
others; the rest is read off the state that `beginInval` writes. -/
theorem invalidationsDropTranslations : Obligations.InvalidationsDropTranslations := by
  unfold Obligations.InvalidationsDropTranslations
  intro q n w s
  dsimp only
  rw [beginInval_tlb]
  exact ⟨fun c l hl e he => not_meets_of_mem_keptTlb hl he, fun c l hl e he hmiss => mem_keptTlb_of_not_meets hl he hmiss,
    rfl, ⟨_, rfl, rfl⟩, rfl, rfl, rfl, rfl⟩

end Sys2Proof.Machine
end

section
/-! What page copies, notices and records leave of the translation state and the queues (spec 09 R209-R213, 10 R235-R240). -/

namespace Sys2Proof.Machine

/-! ## Work that serves no record -/

/-- From s to t no fault record, page of the supply, transfer without a record, invalidation in progress, error register or
queue has changed. -/
structure RecordsStand (s t : State) : Prop where
  records : t.xlt.records = s.xlt.records
  supply : t.xlt.supply = s.xlt.supply
  ninth : t.xlt.ninth = s.xlt.ninth
  invals : t.xlt.invals = s.xlt.invals
  errInfo : t.xlt.errInfo = s.xlt.errInfo
  queues : t.queues = s.queues

theorem RecordsStand.refl (s : State) : RecordsStand s s := ⟨rfl, rfl, rfl, rfl, rfl, rfl⟩

theorem RecordsStand.trans {s t u : State} (hst : RecordsStand s t) (htu : RecordsStand t u) : RecordsStand s u where
  records := htu.records.trans hst.records
  supply := htu.supply.trans hst.supply
  ninth := htu.ninth.trans hst.ninth
  invals := htu.invals.trans hst.invals
  errInfo := htu.errInfo.trans hst.errInfo
  queues := htu.queues.trans hst.queues

theorem recordsStand_of_xlt_eq {s t : State} (hx : t.xlt = s.xlt) (hq : t.queues = s.queues) : RecordsStand s t := by
  constructor <;> simp only [hx, hq]

theorem recordsStand_of_eq {α : Type} {r : α × State} {a : α} {s t : State} (hs : RecordsStand s r.2) (h : r = (a, t)) :
    RecordsStand s t := by
  rw [h] at hs
  exact hs

theorem pageWaiters_congr {s t : State} (h : RecordsStand s t) (vpage : Nat) : pageWaiters vpage t = pageWaiters vpage s := by
  unfold pageWaiters
  rw [h.queues, h.ninth]

/-! ## Reads and writes of the pool -/

theorem poolRead_recordsStand (req a n : Nat) (streaming noRemote : Bool) (s : State) :
    RecordsStand s (poolRead req a n streaming noRemote s).2 := recordsStand_of_xlt_eq (by simp) (by simp)

theorem poolWrite_recordsStand (a : Nat) (bs : List Byte) (tag : HoldTag) (s : State) :
    RecordsStand s (poolWrite a bs tag s) := recordsStand_of_xlt_eq (by simp [poolWrite]) (by simp [poolWrite])

theorem count_recordsStand (key n : Nat) (s : State) : RecordsStand s (count key n s) :=
  recordsStand_of_xlt_eq (by simp) (by simp)

/-- The firmware's reads of the leaf's path change the Cisterns, and nothing of the translation. -/
theorem findLeaf_recordsStand (va : Nat) (s : State) : RecordsStand s (findLeaf va s).2 := by
  have hread {a : Nat} {t u : State} {e : W64 × Bool} (ht : RecordsStand s t)
      (h : (let r := poolRead codeNone a 8 false false t; ((w64 (markedNat r.1).1, (markedNat r.1).2), r.2)) = (e, u)) :
      RecordsStand s u := by
    rw [← marked_snd h]
    exact ht.trans (poolRead_recordsStand ..)
  fun_cases findLeaf va s
  case case1 => exact .refl s
  case case2 h0 _ => exact hread (.refl s) h0
  case case3 h0 _ _ _ _ h1 _ | case4 h0 _ _ _ _ h1 _ _ => exact hread (hread (.refl s) h0) h1
  case case5 h0 _ _ _ _ h1 _ _ _ _ _ h2 _ | case6 h0 _ _ _ _ h1 _ _ _ _ _ h2 _ =>
    exact hread (hread (hread (.refl s) h0) h1) h2

/-! ## The page's contents and its key -/

theorem dropRange_recordsStand (lo n : Nat) (s : State) : RecordsStand s (dropRange lo n s) :=
  recordsStand_of_xlt_eq (by simp [dropRange]) (by simp [dropRange])

/-- A page written whole changes the key epochs of the translation state alone (R217). -/
theorem writePage_recordsStand (pa n : Nat) (data : Mem) (bad : List Nat) (s : State) :
    RecordsStand s (writePage pa n data bad s) := by
  unfold writePage
  split
  · exact .refl s
  · constructor <;> simp

theorem fillPage_recordsStand (pa n : Nat) (data : Mem) (bad : List Nat) (s : State) :
    RecordsStand s (fillPage pa n data bad s) :=
  (dropRange_recordsStand pa n s).trans (writePage_recordsStand pa n data bad _)

theorem copyIn_recordsStand (pa : Nat) (big : Bool) (leaf : W64) (s : State) : RecordsStand s (copyIn pa big leaf s) := by
  unfold copyIn
  dsimp only
  split
  · exact fillPage_recordsStand _ _ _ _ s
  · refine .trans ?_ (fillPage_recordsStand _ _ _ _ _)
    split
    · exact recordsStand_of_xlt_eq (by simp) (by simp)
    · exact .refl s

theorem flushRange_recordsStand (lo n : Nat) (s : State) : RecordsStand s (flushRange lo n s) :=
  recordsStand_of_xlt_eq (by simp [flushRange]) (by simp [flushRange])

theorem foldl_setSelector (sel : Nat) (pages : List Nat) (x : XltState) :
    ∃ m e, pages.foldl (setSelector sel) x = { x with keyMap := m, keyEpoch := e } := by
  induction pages generalizing x with
  | nil => exact ⟨_, _, rfl⟩
  | cons page pages ih => exact ih (setSelector sel x page)

theorem setSelectors_xlt (lo pages sel : Nat) (s : State) : (setSelectors lo pages sel s).xlt
    = ((List.range pages).map (lo / 0x4000000 + ·)).foldl (setSelector sel) (flushRange lo (pages * 0x4000000) s).xlt := by
  rw [setSelectors]

theorem setSelectors_queues (lo pages sel : Nat) (s : State) :
    (setSelectors lo pages sel s).queues = (flushRange lo (pages * 0x4000000) s).queues := by
  rw [setSelectors]

/-- Setting selectors changes the key map and the key epochs alone (R217). -/
theorem setSelectors_recordsStand (lo pages sel : Nat) (s : State) : RecordsStand s (setSelectors lo pages sel s) := by
  refine (flushRange_recordsStand lo (pages * 0x4000000) s).trans ?_
  obtain ⟨m, e, hkeys⟩ := foldl_setSelector sel ((List.range pages).map (lo / 0x4000000 + ·))
    (flushRange lo (pages * 0x4000000) s).xlt
  constructor <;> simp only [setSelectors_xlt, hkeys, setSelectors_queues]

/-! ## Notices (R213) -/

/-- A walker's read of an entry changes the walk caches alone. -/
theorem readEntry_recordsStand (eng level addr : Nat) (s : State) : RecordsStand s (readEntry eng level addr s).2 := by
  unfold readEntry
  dsimp only
  split
  · exact ⟨rfl, rfl, rfl, rfl, rfl, rfl⟩
  · refine (poolRead_recordsStand eng addr 8 false false s).trans ?_
    dsimp only
    split
    · exact ⟨rfl, rfl, rfl, rfl, rfl, rfl⟩
    · exact .refl _

theorem walk_recordsStand (eng va : Nat) (s : State) : RecordsStand s (walk eng va s).2 := by
  have hcount := count_recordsStand walkCount 1 s
  have hread {level addr : Nat} {t u : State} {e : W64 × Bool} (ht : RecordsStand s t)
      (h : readEntry eng level addr t = (e, u)) : RecordsStand s u :=
    ht.trans (recordsStand_of_eq (readEntry_recordsStand eng level addr t) h)
  fun_cases walk eng va s
  case case1 => exact hcount
  case case2 | case3 | case4 => exact hread hcount ‹readEntry eng 0 _ _ = _›
  case case5 | case6 | case7 | case8 => exact hread (hread hcount ‹readEntry eng 0 _ _ = _›) ‹readEntry eng 1 _ _ = _›
  case case9 | case10 | case11 | case12 =>
    exact hread (hread (hread hcount ‹readEntry eng 0 _ _ = _›) ‹readEntry eng 1 _ _ = _›) ‹readEntry eng 2 _ _ = _›

theorem firmwareWalk_recordsStand (va : Nat) (s : State) : RecordsStand s (firmwareWalk va s).2 := by
  have hwalk := walk_recordsStand codeNone va s
  unfold firmwareWalk
  split
  · exact .refl s
  split
  · next h => split <;> exact recordsStand_of_eq hwalk h
  · next h => exact recordsStand_of_eq hwalk h

theorem modRing_recordsStand (r : Option NoticeRing) (s : State) :
    RecordsStand s { s with xlt := { s.xlt with ring := r } } := ⟨rfl, rfl, rfl, rfl, rfl, rfl⟩

theorem writeNotice_recordsStand (n : Notice) (s : State) : RecordsStand s (writeNotice n s) := by
  unfold writeNotice
  split
  · exact count_recordsStand _ _ s
  · next r _ =>
    have hwalk := firmwareWalk_recordsStand (r.va + 32 * (r.m % r.entries)) s
    dsimp only
    split
    · next h => exact (recordsStand_of_eq hwalk h).trans (count_recordsStand ..)
    · next pa s1 h =>
      have hread := (recordsStand_of_eq hwalk h).trans (poolRead_recordsStand codeNone pa 8 false false s1)
      split
      · exact hread.trans (count_recordsStand ..)
      · exact (hread.trans (poolWrite_recordsStand ..)).trans (modRing_recordsStand ..)

theorem writeNotices_recordsStand : ∀ (l : List Notice) (s : State), RecordsStand s (writeNotices l s)
  | [], _ => ⟨rfl, rfl, rfl, rfl, rfl, rfl⟩
  | n :: l, s => by
    unfold writeNotices
    split
    · exact (writeNotice_recordsStand n s).trans (writeNotices_recordsStand l _)
    · exact ⟨rfl, rfl, rfl, rfl, rfl, rfl⟩

theorem postNotice_recordsStand (n : Notice) (s : State) : RecordsStand s (postNotice n s) := writeNotices_recordsStand _ s

/-! ## Records of a completion ring (10 R235-R238) -/

theorem State.queue_congr {s t : State} (h : t.queues = s.queues) (q : Nat) : t.queue q = s.queue q := by
  rw [State.queue, State.queue, h]

/-- A record is no descriptor's write to attach-host memory, so no invalidation waits for it. -/
theorem physWrite_record (eng a : Nat) (bs : List (Byte × Bool)) (streaming : Bool) (q m : Nat) (s : State) :
    (physWrite eng a bs streaming (.record q m) s).xlt = s.xlt
      ∧ (physWrite eng a bs streaming (.record q m) s).queues = s.queues := by
  unfold physWrite
  dsimp only
  split <;> simp [noteHost]

theorem writeSegs_record (eng : Nat) (streaming : Bool) (q m : Nat) :
    ∀ (segs : List (Nat × Nat)) (bs : List (Byte × Bool)) (s : State),
      (writeSegs eng streaming (.record q m) segs bs s).xlt = s.xlt
        ∧ (writeSegs eng streaming (.record q m) segs bs s).queues = s.queues
  | [], _, _ => ⟨rfl, rfl⟩
  | (a, n) :: rest, bs, s => by
    obtain ⟨hxlt, hqueues⟩ := physWrite_record eng a (bs.take n) streaming q m s
    obtain ⟨hxlt', hqueues'⟩ := writeSegs_record eng streaming q m rest (bs.drop n)
      (physWrite eng a (bs.take n) streaming (.record q m) s)
    exact ⟨hxlt'.trans hxlt, hqueues'.trans hqueues⟩

@[simp] theorem writeRecord_xlt (q : Nat) (r : Rec) (s : State) : (writeRecord q r s).xlt = s.xlt :=
  (writeSegs_record ..).1

theorem writeRecord_queue (q : Nat) (r : Rec) (s : State) : (writeRecord q r s).queue q = { s.queue q with
    written := (s.queue q).written + 1, cqTail := ((s.queue q).cqTail + 1) % (2 * (s.queue q).cqEntries) } := by
  have hqueues : (writeRecord q r s).queues = (s.modQueue q fun x => { x with
      written := (s.queue q).written + 1, cqTail := (x.cqTail + 1) % (2 * x.cqEntries) }).queues := (writeSegs_record ..).2
  exact (State.queue_congr hqueues q).trans (State.queue_modQueue_self ..)

/-- An interrupt, sent or owed, changes nothing of its queue but whether one is owed and until when. -/
theorem qualify_queue (q : Nat) (s : State) :
    ∃ b d, (qualify q s).queue q = { s.queue q with qualified := b, holdUntil := d } := by
  have hsent (irq : W64) (f : QState → QState) : (sendIrq irq (s.modQueue q f)).queue q = f (s.queue q) :=
    (State.queue_congr (by simp only [sendIrq_fr]) q).trans (State.queue_modQueue_self ..)
  unfold qualify
  extract_lets x hold busy
  by_cases hwaits : (busy || !recordsVisible q s) = true
  · rw [if_pos hwaits, State.queue_modQueue_self]
    exact ⟨_, _, rfl⟩
  · rw [if_neg hwaits, hsent]
    exact ⟨_, _, rfl⟩

@[simp] theorem writeStale_xlt (q : Nat) (s : State) : (writeStale q s).xlt = s.xlt := by
  unfold writeStale
  dsimp only
  split
  · simp
  split <;> simp

@[simp] theorem finalRecord_xlt (q : Nat) (p : Prog) (s : State) : (finalRecord q p s).xlt = s.xlt := by
  unfold finalRecord
  dsimp only
  split <;> simp

@[simp] theorem finishFuel_xlt (q fuel : Nat) (s : State) : (finishFuel q fuel s).xlt = s.xlt := by
  induction fuel generalizing s with
  | zero => rfl
  | succ fuel ih =>
    unfold finishFuel
    (repeat' split) <;> simp [ih]

@[simp] theorem settleSpace_xlt (q : Nat) (s : State) : (settleSpace q s).xlt = s.xlt := by
  unfold settleSpace
  dsimp only
  split <;> split <;> simp

@[simp] theorem finishQueue_xlt (q : Nat) (s : State) : (finishQueue q s).xlt = s.xlt := by
  rw [finishQueue, settleSpace_xlt, finishFuel_xlt]

end Sys2Proof.Machine
end

section
/-! Proofs about fault records, page copies, invalidations that end, and completed work (spec 09 R209-R215, 10 R224, R238,
R240), and O20. -/

namespace Sys2Proof.Machine

/-! ## Faults served (09 R209) -/

theorem exec_migrationService {r : FaultRec} {s : State} (hr : s.xlt.records.find? (fun r => r.served s) = some r)
    (hfw : fwRuns s = true) : exec .migrationService s = .next (serveStep r s) := by
  change execMigrationService s = _
  rw [execMigrationService, hr]
  exact congrArg _ (if_pos hfw)

/-- Page pg has left the supply, and the backing page of leaf e is being copied to it for record r. -/
def copyBegun (r : FaultRec) (pg : Nat × Bool) (e : W64) (big : Bool) (s : State) : State :=
  { s with xlt := { s.xlt with
    supply := s.xlt.supply.erase pg
    records := s.xlt.records.map fun x => if x.vpage = r.vpage then { x with phase := .copying pg.1 e, big := big } else x } }

theorem serveStep_of_absent {r : FaultRec} {a : Nat} {e : W64} {big : Bool} {pg : Nat × Bool} {s s1 : State}
    (hfault : r.move = none) (hleaf : findLeaf r.vpage s = (some (a, e, big), s1)) (habsent : leafRes e = resAbsent)
    (hpage : s1.xlt.supply.find? (·.2 == big) = some pg) :
    serveStep r s = setSelectors pg.1 (if big then 32 else 1) (leafKey e) (copyBegun r pg e big s1) := by
  rw [serveStep, hfault]
  dsimp only
  rw [serveRecord, hleaf]
  dsimp only
  rw [if_neg fun h => h.1 habsent, hpage]
  rfl

/-- A fault whose page the supply has is being copied, and no queue or invalidation has changed. -/
theorem serveStep_effect {r : FaultRec} {a : Nat} {e : W64} {big : Bool} {pg : Nat × Bool} {s s1 : State}
    (hfault : r.move = none) (hleaf : findLeaf r.vpage s = (some (a, e, big), s1)) (habsent : leafRes e = resAbsent)
    (hpage : s.xlt.supply.find? (·.2 == big) = some pg) :
    let t := serveStep r s
    t.xlt.supply = s.xlt.supply.erase pg
      ∧ t.xlt.records = (s.xlt.records.map fun x => if x.vpage = r.vpage then { x with phase := .copying pg.1 e, big := big } else x)
      ∧ t.queues = s.queues ∧ t.xlt.invals = s.xlt.invals := by
  have hread : RecordsStand s s1 := recordsStand_of_eq (findLeaf_recordsStand r.vpage s) hleaf
  have hkeys := setSelectors_recordsStand pg.1 (if big then 32 else 1) (leafKey e) (copyBegun r pg e big s1)
  dsimp only
  rw [serveStep_of_absent hfault hleaf habsent (hread.supply ▸ hpage), hkeys.supply, hkeys.records, hkeys.queues, hkeys.invals]
  simp only [copyBegun, hread.supply, hread.records, hread.queues, hread.invals, and_self]

/-! ## Records that end (R209 step 6, R210) -/

@[simp] theorem moveOutcome_xlt (mv : Option MoveReq) (st : BitVec 16) (result : List Byte) (s : State) :
    (moveOutcome mv st result s).xlt = s.xlt := by
  cases mv <;> rfl

@[simp] theorem moveOutcome_queues (mv : Option MoveReq) (st : BitVec 16) (result : List Byte) (s : State) :
    (moveOutcome mv st result s).queues = s.queues := by
  cases mv <;> rfl

@[simp] theorem dropRecord_xlt (vpage : Nat) (s : State) :
    (dropRecord vpage s).xlt = { s.xlt with records := s.xlt.records.filter (·.vpage != vpage) } := moveOutcome_xlt ..

@[simp] theorem dropRecord_queues (vpage : Nat) (s : State) : (dropRecord vpage s).queues = s.queues :=
  moveOutcome_queues ..

theorem resumePage_of_no_waiters {vpage : Nat} {s : State} (hw : pageWaiters vpage s = []) (hninth : s.xlt.ninth = []) :
    resumePage vpage s = dropRecord vpage s := by
  have hnone : (dropRecord vpage s).xlt.ninth = [] := by rw [dropRecord_xlt, hninth]
  unfold resumePage
  simp only [hw, List.foldl_nil, hnone, postNinth]

/-- A transfer that waited for a page ends with PERMISSION. -/
def transferFails (s : State) (d : DescId) : State :=
  match s.prog d.q d.n with
  | some p => finishQueue d.q (endProg d.q d.n stPermission (copyResult p) s)
  | none => s

theorem transferFails_xlt (s : State) (d : DescId) : (transferFails s d).xlt = s.xlt := by
  unfold transferFails
  split
  · simp
  · rfl

/-- The record of a page has ended with its transfers, and XLT_ERR_INFO and the event name the page. -/
def pageFailed (vpage cause : Nat) (s : State) : State :=
  let s1 := (pageWaiters vpage s).foldl transferFails (dropRecord vpage s)
  raiseEv srcXlt 1 { s1 with xlt := { s1.xlt with
    errInfo := w64 (cause * 2 ^ 56 + 0xFF * 2 ^ 48 + vpage / 0x4000000 % 2 ^ 26) } }

theorem failPage_of_record {vpage cause : Nat} {r : FaultRec} {s : State}
    (hr : s.xlt.records.find? (·.vpage == vpage) = some r) : failPage vpage cause s
      = let t := postNotice ⟨3, r.big, vpage, 0, 0, r.waiters, r.engines⟩ (pageFailed vpage cause s)
        postNinth t.xlt.ninth t := by
  rw [failPage, hr]
  rfl

/-- The ends of the transfers touch no translation state. -/
theorem pageFailed_xlt (vpage cause : Nat) (s : State) : (pageFailed vpage cause s).xlt = { s.xlt with
    records := s.xlt.records.filter (·.vpage != vpage)
    errInfo := w64 (cause * 2 ^ 56 + 0xFF * 2 ^ 48 + vpage / 0x4000000 % 2 ^ 26) } := by
  simp only [pageFailed, raiseEv_fields, foldl_xlt _ _ _ transferFails_xlt, dropRecord_xlt]

theorem failPage_effect {vpage cause : Nat} {r : FaultRec} {s : State}
    (hr : s.xlt.records.find? (·.vpage == vpage) = some r) (hninth : s.xlt.ninth = []) :
    let t := failPage vpage cause s
    t.xlt.records = s.xlt.records.filter (·.vpage != vpage)
      ∧ t.xlt.errInfo = w64 (cause * 2 ^ 56 + 0xFF * 2 ^ 48 + vpage / 0x4000000 % 2 ^ 26) ∧ t.xlt.supply = s.xlt.supply := by
  have hnotice := postNotice_recordsStand ⟨3, r.big, vpage, 0, 0, r.waiters, r.engines⟩ (pageFailed vpage cause s)
  have hnone := hnotice.ninth.trans ((congrArg XltState.ninth (pageFailed_xlt vpage cause s)).trans hninth)
  rw [failPage_of_record hr]
  dsimp only
  rw [hnone, postNinth, hnotice.records, hnotice.errInfo, hnotice.supply, pageFailed_xlt]
  exact ⟨rfl, rfl, rfl⟩

/-! ## Pages that were not supplied (R211) -/

theorem exec_faultTimeout {v : PAddr} {r : FaultRec} {since : Nat} {s : State} (hp : powered s = true)
    (hr : s.xlt.records.find? (·.vpage == v.toNat) = some r) (hphase : r.phase = .noPage since) (hfw : fwRuns s = true)
    (hlate : since + s.xlt.timeoutMs * 1000000 ≤ s.now) : exec (.faultTimeout v) s = .next (failPage v.toNat 8 s) := by
  refine congrArg Host.Outcome.next ((clocked_of_powered hp _).trans ?_)
  rw [faultTimeout, hr]
  dsimp only
  rw [hphase]
  exact if_pos ⟨hfw, hlate⟩

/-! ## The end of a page copy (R209 steps 4 to 7, R210) -/

/-- The leaf names the pool page, and a move that the record belongs to has its outcome; the record has not ended. -/
def leafMoved (r : FaultRec) (pa a : Nat) (leaf : W64) (s : State) : State :=
  moveOutcome r.move 0 (leBytes 8 pa ++ leBytes 8 (leafAddr leaf))
    (poolWrite a (leBytes 8 (pooledLeaf leaf pa).toNat) .none s)

section
variable {v : PAddr} {r : FaultRec} {pa : Nat} {leaf : W64} {s : State}
  (hr : s.xlt.records.find? (·.vpage == v.toNat) = some r) (hphase : r.phase = .copying pa leaf) (hfw : fwRuns s = true)
include hr hphase hfw

theorem exec_migrationCopyComplete_failed :
    exec (.migrationCopyComplete v false) s = .next (failPage v.toNat 7 (returnPage pa r.big s)) := by
  refine congrArg Host.Outcome.next ((if_pos hfw).trans ?_)
  rw [copyComplete, hr]
  dsimp only
  rw [hphase]
  rfl

theorem exec_migrationCopyComplete_moved {a : Nat} {big : Bool} {s2 : State} (hread : copyReadable pa leaf s = true)
    (hleaf : findLeaf v.toNat (copyIn pa r.big leaf s) = (some (a, leaf, big), s2)) :
    exec (.migrationCopyComplete v true) s
      = .next (postNotice ⟨1, r.big, v.toNat, pa, leafAddr leaf, r.waiters, r.engines⟩
        (count migrateCount 1 (resumePage v.toNat (leafMoved r pa a leaf s2)))) := by
  refine congrArg Host.Outcome.next ((if_pos hfw).trans ?_)
  rw [copyComplete, hr]
  dsimp only
  rw [hphase]
  dsimp only
  rw [if_neg (by simp [hread]), hleaf]
  exact if_pos rfl

end

/-- The copy, the walk and the leaf's write change no record and no queue. -/
theorem leafMoved_recordsStand {vpage : Nat} {r : FaultRec} {pa a : Nat} {leaf : W64} {big : Bool} {s s2 : State}
    (hleaf : findLeaf vpage (copyIn pa r.big leaf s) = (some (a, leaf, big), s2)) :
    RecordsStand s (leafMoved r pa a leaf s2) :=
  ((copyIn_recordsStand pa r.big leaf s).trans (recordsStand_of_eq (findLeaf_recordsStand _ _) hleaf)).trans
    ((poolWrite_recordsStand ..).trans (recordsStand_of_xlt_eq (moveOutcome_xlt ..) (moveOutcome_queues ..)))

/-- With no transfer waiting, the end of a record takes it from the list and changes no queue. -/
theorem resumePage_of_recordsStand {vpage : Nat} {s t : State} (h : RecordsStand s t) (hw : pageWaiters vpage s = [])
    (hninth : s.xlt.ninth = []) : (resumePage vpage t).xlt.records = s.xlt.records.filter (·.vpage != vpage)
      ∧ (resumePage vpage t).queues = s.queues := by
  rw [resumePage_of_no_waiters ((pageWaiters_congr h vpage).trans hw) (h.ninth.trans hninth), dropRecord_xlt, dropRecord_queues,
    h.records, h.queues]
  exact ⟨rfl, rfl⟩

/-! ## Invalidations that end (R215) -/

theorem exec_invalidateComplete {q : QueueId} {i : Inval} {p : Prog} {s : State} (hp : powered s = true)
    (hi : s.xlt.invals.find? (fun i => i.id.q == q.val && i.ready s && !(i.flush s).2) = some i)
    (hprog : s.prog q.val i.id.n = some p) (hflush : (i.flush s).1 = false) :
    exec (.invalidateComplete q) s = .next (resumeHeld (finishQueue q.val (endFree q.val i.id.n stDone
      (count invalCount 1 { s with xlt := { s.xlt with invals := s.xlt.invals.erase i } })))) := by
  refine congrArg Host.Outcome.next ((clocked_of_powered hp _).trans ?_)
  rw [invalidateComplete, hi]
  dsimp only
  rw [hprog]
  exact if_neg (by simp [hflush])

/-! ## Final records (10 R224, R238) -/

theorem exec_transferComplete {s : State} (hp : powered s = true) (q : QueueId) :
    exec (.transferComplete q) s = .next (finishQueue q.val (settleSeqs s)) := if_neg (by simp [hp])

/-- Descriptor p is the only one of queue q in progress; it has ended with everything visible that its record promises,
no attach-host write of it wants a flush read, and a completion entry is reserved for it. -/
structure RecordDue (q : Nat) (p : Prog) (s : State) : Prop where
  alone : (s.queue q).progs = [p]
  ended : p.phase = .ended
  written : tagClear (.desc ⟨q, p.n⟩) s = true
  acked : p.txns = []
  noFlush : wantsAttach p = false
  reserved : p.reserved ≠ 0

theorem RecordDue.progVisible {q : Nat} {p : Prog} {s : State} (h : RecordDue q p s) : progVisible q p s = true := by
  simp [Machine.progVisible, h.ended, h.written, h.acked]

/-- A final record takes its descriptor from the queue and one entry of the ring. -/
theorem finalRecord_queue (q : Nat) (p : Prog) (s : State) : ∃ b d, (finalRecord q p s).queue q = { s.queue q with
    progs := (s.queue q).progs.filter (·.n != p.n), written := (s.queue q).written + 1
    cqTail := ((s.queue q).cqTail + 1) % (2 * (s.queue q).cqEntries), qualified := b, holdUntil := d } := by
  have htaken (t : State) : (dropSeqRun q p.n (advanceSeq q p t)).queue q = t.queue q := State.queue_congr (by simp) q
  have hrecord (r : Rec) : (count (descCount q) 1 (writeRecord q r (dropSeqRun q p.n (advanceSeq q p (s.modQueue q fun x =>
      { x with progs := x.progs.filter fun r => r.n != p.n }))))).queue q = { s.queue q with
        progs := (s.queue q).progs.filter (·.n != p.n), written := (s.queue q).written + 1
        cqTail := ((s.queue q).cqTail + 1) % (2 * (s.queue q).cqEntries) } := by
    simp only [count_fields, writeRecord_queue, htaken, State.queue_modQueue_self]
    rfl
  unfold finalRecord
  extract_lets x s1 r s2
  split
  · obtain ⟨b, d, hq⟩ := qualify_queue q s2
    exact ⟨b, d, hq.trans (by rw [hrecord])⟩
  · exact ⟨_, _, hrecord r⟩

/-- A queue whose only descriptor has its record due writes it, and then settles its space. -/
theorem finishQueue_of_recordDue {q : Nat} {p : Prog} {s : State} (h : RecordDue q p s) :
    finishQueue q s = settleSpace q (finalRecord q p s) := by
  obtain ⟨b, d, hq⟩ := finalRecord_queue q p s
  have hempty : ((finalRecord q p s).queue q).progs = [] := by
    rw [hq, h.alone]
    simp
  have hdone (fuel : Nat) : finishFuel q (fuel + 1) (finalRecord q p s) = finalRecord q p s := by
    rw [finishFuel, hempty]
  have hfirst (fuel : Nat) : finishFuel q (fuel + 1) s = finishFuel q fuel (finalRecord q p s) := by
    rw [finishFuel, h.alone]
    simp [nopRuns, h.ended, h.progVisible, h.noFlush, h.reserved]
  rw [finishQueue, h.alone]
  exact congrArg (settleSpace q) ((hfirst 3).trans (hdone 2))

/-- With no STALE_DESCRIPTOR record waiting, settling the space can only end the queue's wait for it. -/
theorem settleSpace_queue {q : Nat} {s : State} (h : (s.queue q).stalePending = false) :
    ∃ b, (settleSpace q s).queue q = { s.queue q with cqWait := b } := by
  have hsame : (if (s.queue q).stalePending then writeStale q s else s) = s := if_neg (by simp [h])
  unfold settleSpace
  dsimp only
  rw [hsame]
  by_cases hroom : ((s.queue q).cqWait && ((s.queue q).needs == 0 || (s.queue q).room (s.queue q).needs)) = true
  · rw [if_pos hroom, State.queue_modQueue_self]
    exact ⟨_, rfl⟩
  · rw [if_neg hroom]
    exact ⟨_, rfl⟩

theorem finishQueue_queue_of_recordDue {q : Nat} {p : Prog} {s : State} (h : RecordDue q p s)
    (hstale : (s.queue q).stalePending = false) : ((finishQueue q s).queue q).progs = []
      ∧ ((finishQueue q s).queue q).written = (s.queue q).written + 1
      ∧ ((finishQueue q s).queue q).cqTail = ((s.queue q).cqTail + 1) % (2 * (s.queue q).cqEntries)
      ∧ ((finishQueue q s).queue q).window = (s.queue q).window := by
  obtain ⟨b, d, hrecord⟩ := finalRecord_queue q p s
  obtain ⟨c, hspace⟩ := settleSpace_queue (q := q) (s := finalRecord q p s) (by rw [hrecord]; exact hstale)
  rw [finishQueue_of_recordDue h, hspace, hrecord, h.alone]
  simp

/-! ## The end of a holdoff (10 R240) -/

section
variable {q : QueueId} {d : Nat} {s : State} (hp : powered s = true) (hhold : (s.queue q.val).holdUntil = some d)
  (hdue : d ≤ s.now)
include hp hhold hdue

theorem exec_irqHoldoffExpiry_idle (hq : (s.queue q.val).qualified = false) :
    exec (.irqHoldoffExpiry q) s = .next (s.modQueue q.val fun x => { x with holdUntil := none }) := by
  change execIrqHoldoffExpiry q s = _
  rw [execIrqHoldoffExpiry, if_neg (by simp [hp])]
  simp [hhold, hdue, hq]

theorem exec_irqHoldoffExpiry_owed (hq : (s.queue q.val).qualified = true) (hv : recordsVisible q.val s = true) :
    exec (.irqHoldoffExpiry q) s = .next (qualify q.val (s.modQueue q.val fun x => { x with holdUntil := none })) := by
  change execIrqHoldoffExpiry q s = _
  rw [execIrqHoldoffExpiry, if_neg (by simp [hp])]
  simp [hhold, hdue, hq, hv]

end

/-! ## O20 -/

/-- Settles O20: each command that meets its conditions does what its own lemma says. What the walks, copies, notices and
records in between leave alone is `RecordsStand`, so the lists of the end are those of the beginning; that a failed copy
gives its page back is log 64. -/
theorem pagesAreServed : Obligations.PagesAreServed := by
  unfold Obligations.PagesAreServed
  intro s hp
  refine ⟨fun r => exec_migrationService, ?absent, ?late, fun v r pa leaf => exec_migrationCopyComplete_failed, ?moved,
    ?invalidated, exec_transferComplete hp, ?record, ?idle, fun q d hhold hdue => exec_irqHoldoffExpiry_owed hp hhold hdue⟩
  case absent =>
    intro r a e big s1 pg hr hfw hfault hleaf habsent hpage
    exact ⟨_, exec_migrationService hr hfw, serveStep_effect hfault hleaf habsent hpage⟩
  case late =>
    intro v r since hr hphase hfw hlate
    have hexec := exec_faultTimeout hp hr hphase hfw hlate
    exact ⟨hexec, fun hninth => ⟨_, hexec, failPage_effect hr hninth⟩⟩
  case moved =>
    intro v r pa leaf a big s2 hr hphase hfw hread hleaf
    refine ⟨_, exec_migrationCopyComplete_moved hr hphase hfw hread hleaf, _, rfl, rfl, fun hw hninth => ?_⟩
    simp only [count_fields]
    exact resumePage_of_recordsStand (leafMoved_recordsStand hleaf) hw hninth
  case invalidated =>
    intro q i p hi hprog hflush
    refine ⟨_, exec_invalidateComplete hp hi hprog hflush, _, rfl, ?_, ?_, ?_, ?_⟩
    · simp
    · rw [ctr_count, if_pos rfl]
      rfl
    · simp
    · simp
  case record =>
    intro q p
    dsimp only
    intro hseqs halone hended hwritten hacked hflush hreserved hstale
    refine ⟨_, exec_transferComplete hp q, ?_⟩
    rw [hseqs]
    exact finishQueue_queue_of_recordDue ⟨halone, hended, hwritten, hacked, hflush, hreserved⟩ hstale
  case idle =>
    intro q d hhold hdue hq
    exact ⟨_, exec_irqHoldoffExpiry_idle hp hhold hdue hq, State.queue_modQueue_self .., rfl⟩

end Sys2Proof.Machine
end

section
/-! Proofs about doorbells and completion heads (spec 10 R228, R236), and O15. -/

namespace Sys2Proof.Machine

/-! ## Rejected writes (R228) -/

/-- A rejected write sets BAD_DOORBELL and counts; the queues, and all else but events and counters, are as before. -/
theorem badDoorbell_effect (q : Nat) (s : State) : bitOf ((badDoorbell q s).evBits (srcQdb q)) 3 = true
    ∧ (badDoorbell q s).ctr (badDoorbellCount q)
      = w64 (min ((s.ctr (badDoorbellCount q)).toNat + 1) (2 ^ 64 - 1))
    ∧ { badDoorbell q s with counters := s.counters, events := s.events, edges := s.edges } = s := by
  refine ⟨?_, ?_, ?_⟩
  · simp [badDoorbell, raiseEv_bit, evBadDoorbell]
  · simp [badDoorbell, ctr_count]
  · apply State.ext_fields <;> simp [badDoorbell]

/-! ## A queue written alone -/

/-- Changing one queue leaves the others and the rest of the state. -/
theorem modQueue_alone (q : Nat) (f : QState → QState) (s : State) : (s.modQueue q f).queue q = f (s.queue q)
    ∧ (∀ k, k ≠ q → (s.modQueue q f).queue k = s.queue k) ∧ { s.modQueue q f with queues := s.queues } = s :=
  ⟨State.queue_modQueue_self .., fun _ => State.queue_modQueue_other _ _ _ _, rfl⟩

/-- A queue with nothing in progress and nothing waiting for room has nothing to finish. -/
theorem finishQueue_of_idle {q : Nat} {s : State} (hprogs : (s.queue q).progs = [])
    (hstale : (s.queue q).stalePending = false) (hwait : (s.queue q).cqWait = false) : finishQueue q s = s := by
  have hfuel : finishFuel q (3 * (s.queue q).progs.length + 1) s = s := by rw [finishFuel, hprogs]
  rw [finishQueue, hfuel, settleSpace]
  simp [hstale, hwait]

/-! ## Commands -/

/-- Entries between head and tail when DOORBELL writes tail t (R228). -/
def QState.waitingAt (x : QState) (t : Nat) : Nat := (t + 2 * x.entries - x.head % (2 * x.entries)) % (2 * x.entries)

/-- Records that a completion head h takes from the ring (R236). -/
def QState.consumedBy (x : QState) (h : Nat) : Nat := (h + 2 * x.cqEntries - x.cqHead) % (2 * x.cqEntries)

section
variable {q : QueueId} {v : W64} {s : State} (hp : powered s = true)
include hp

theorem exec_doorbell : exec (.doorbell q v) s = .next
    (if (s.queue q.val).mode = .disabled ∨ (s.queue q.val).entries < (s.queue q.val).waitingAt (fieldOf v 0 17)
      then badDoorbell q.val s
      else s.modQueue q.val fun x => { x with
        tail := fieldOf v 0 17, staleWait := false, tries := if x.staleWait then 0 else x.tries }) :=
  if_neg (by simp [hp])

theorem exec_cqHeadWrite : exec (.cqHeadWrite q v) s = .next
    (if (s.queue q.val).filled < (s.queue q.val).consumedBy (fieldOf v 0 17) then badDoorbell q.val s
      else finishQueue q.val (s.modQueue q.val fun x => { x with cqHead := fieldOf v 0 17 % (2 * x.cqEntries) })) :=
  if_neg (by simp [hp])

theorem exec_cqHeadWrite_within (h : (s.queue q.val).consumedBy (fieldOf v 0 17) ≤ (s.queue q.val).filled) :
    exec (.cqHeadWrite q v) s = .next (finishQueue q.val
      (s.modQueue q.val fun x => { x with cqHead := fieldOf v 0 17 % (2 * x.cqEntries) })) := by
  rw [exec_cqHeadWrite hp, if_neg (Nat.not_lt.2 h)]

end

/-! ## O15 -/

/-- Settles O15: either write is rejected, which changes events and counters alone (`badDoorbell_effect`), or changes its
one queue (`modQueue_alone`); a queue with nothing in progress and nothing waiting then has nothing to finish. -/
theorem doorbellsMoveTheRing : Obligations.DoorbellsMoveTheRing := by
  unfold Obligations.DoorbellsMoveTheRing
  intro q v s hp
  refine ⟨fun hmode htail => ?taken, fun hbad => ?rejected, fun hbeyond => ?beyond, exec_cqHeadWrite_within hp,
    fun hwithin hprogs hstale hwait => ?within⟩
  case taken =>
    exact ⟨_, (exec_doorbell hp).trans (congrArg _ (if_neg (not_or.2 ⟨hmode, Nat.not_lt.2 htail⟩))), modQueue_alone ..⟩
  case rejected => exact ⟨_, (exec_doorbell hp).trans (congrArg _ (if_pos hbad)), badDoorbell_effect ..⟩
  case beyond => exact ⟨_, (exec_cqHeadWrite hp).trans (congrArg _ (if_pos hbeyond)), badDoorbell_effect ..⟩
  case within =>
    have hexec := exec_cqHeadWrite_within hp hwithin
    rw [finishQueue_of_idle (by simp [hprogs]) (by simp [hstale]) (by simp [hwait])] at hexec
    exact ⟨_, hexec, modQueue_alone ..⟩

end Sys2Proof.Machine
end

section
/-! Proofs about starts of descriptors: completion space, turns and permits (spec 10 R224, R236, 16 R344, R345). -/

namespace Sys2Proof.Machine

/-! ## Heads that do not start (R224, R236) -/

section
variable {q op : Nat} {f : Fetched} {rest : List Fetched} {s : State} (hwindow : (s.queue q).window = f :: rest)
include hwindow

theorem startDesc_of_noRoom (hop : dOpcode f.w = op) (hmay : headMayStart q s = true) (hturn : hasTurn q s = true)
    (hroom : (s.queue q).room (entriesOf f.w) = false) : startDesc q op s = (none, waitSpace q s) := by
  have hbegin : beginDesc q op s = (none, waitSpace q s) := by
    simp [beginDesc, hwindow, hop, hmay, hturn, hroom]
  rw [startDesc, hbegin]

theorem startDesc_of_not_due (h : dOpcode f.w ≠ op ∨ headMayStart q s = false ∨ hasTurn q s = false) :
    startDesc q op s = (none, s) := by
  have hnot : ¬ (dOpcode f.w = op ∧ headMayStart q s = true ∧ hasTurn q s = true) := by
    rintro ⟨hop, hmay, hturn⟩
    simp [hop, hmay, hturn] at h
  have hbegin : beginDesc q op s = (none, s) := by
    rw [beginDesc, hwindow]
    exact if_neg hnot
  rw [startDesc, hbegin]

end

theorem waitSpace_queue (q : Nat) (s : State) : (waitSpace q s).queue q = { s.queue q with cqWait := true } := by
  unfold waitSpace
  split
  · next h => rw [← h]
  · simp

/-- The wait for space is noted as an event when it begins. -/
theorem waitSpace_bit {q : Nat} {s : State} (h : (s.queue q).cqWait = false) :
    bitOf ((waitSpace q s).evBits (srcQdb q)) 4 = true := by
  simp [waitSpace, h, raiseEv_bit, evCqWait]

/-! ## Heads that start (R224, 16 R344, R345) -/

theorem Startable.hasPower {q : QueueId} {op : Nat} {f : Fetched} {rest : List Fetched} {s : State}
    (h : Startable q op f rest s) : powered s = true := by
  obtain ⟨hp, -⟩ := h
  exact hp

theorem Startable.opcode {q : QueueId} {op : Nat} {f : Fetched} {rest : List Fetched} {s : State}
    (h : Startable q op f rest s) : dOpcode f.w = op := by
  obtain ⟨-, -, hop, -⟩ := h
  exact hop

theorem fits_congr {s t : State} (henv : t.env = s.env) (hnow : t.now = s.now) (hpwr : t.pwr = s.pwr) (d : Nat) :
    fits d t = fits d s := by
  unfold fits liveResv effC
  rw [henv, hnow, hpwr]

/-- A start that waits behind no other and whose demand fits is granted at once. -/
theorem sluice_of_fits {d : Nat} {s : State} (id : StartId) (hnone : s.env.starts = []) (hfit : fits d s = true) :
    sluice id d s = (true, reserve d s) := if_pos ⟨hnone, hfit⟩

theorem started_env (q : QueueId) (f : Fetched) (rest : List Fetched) (s : State) : (started q f rest s).env = s.env := by
  simp [started]

theorem startDesc_of_permitted {q : QueueId} {op : Nat} {f : Fetched} {rest : List Fetched} {s : State}
    (h : Startable q op f rest s) (hperm : Permitted q s) :
    startDesc q.val op s = (some (f.n, true), running q f rest s) := by
  unfold startDesc running
  simp only [beginDesc_of_startable h]
  by_cases hidle : (engineProgs (s.queue q.val).code s).isEmpty = true
  · obtain ⟨hnone, hfit⟩ := hperm.resolve_left (not_not.2 (List.isEmpty_iff.1 hidle))
    have hgrant := sluice_of_fits (d := engineDemand (s.queue q.val).code) (s := started q f rest s)
      (.engine (s.queue q.val).code) (by rw [started_env, hnone])
      ((fits_congr (started_env q f rest s) (by simp [started]) (by simp [started]) _).trans hfit)
    simp [hidle, hgrant]
  · simp [hidle]

/-- What the start of a descriptor, and the demand it takes from the headroom, leave alone. -/
@[simp] theorem running_fields (q : QueueId) (f : Fetched) (rest : List Fetched) (s : State) :
    (running q f rest s).queues = (started q f rest s).queues ∧ (running q f rest s).coh = s.coh
    ∧ (running q f rest s).hbm = s.hbm ∧ (running q f rest s).xlt = s.xlt ∧ (running q f rest s).coll = s.coll
    ∧ (running q f rest s).upd = s.upd ∧ (running q f rest s).seqs = s.seqs ∧ (running q f rest s).net = s.net := by
  unfold running
  split <;> simp [started]

theorem running_prog {q : QueueId} {op : Nat} {f : Fetched} {rest : List Fetched} {s : State}
    (h : Startable q op f rest s) :
    (running q f rest s).prog q.val f.n = some (newProg f.n f.w (entriesOf f.w) s.now) := by
  rw [← started_prog h, State.prog, State.prog, State.queue_congr (running_fields q f rest s).1]

theorem queueHalt_engine (q : Nat) (c : Byte) (s : State) : ((queueHalt q c s).queue q).engine = (s.queue q).engine := by
  unfold queueHalt
  split <;> simp

theorem endUnstarted_engine (q : Nat) (f : Fetched) (st : BitVec 16) (s : State) :
    ((endUnstarted q f st s).queue q).engine = (s.queue q).engine := by
  rw [endUnstarted, State.queue_modQueue_self]
  rfl

theorem settleHead_engine (q : Nat) (s : State) : ((settleHead q s).queue q).engine = (s.queue q).engine := by
  unfold settleHead
  dsimp only
  (repeat' split) <;> simp [queueHalt_engine, endUnstarted_engine]

/-- A queue keeps its engine when a descriptor of it runs. -/
theorem running_code (q : QueueId) (f : Fetched) (rest : List Fetched) (s : State) :
    ((running q f rest s).queue q.val).code = (s.queue q.val).code := by
  rw [State.queue_congr (running_fields q f rest s).1]
  unfold QState.code started
  rw [settleHead_engine, State.queue_modQueue_self]
  rfl

end Sys2Proof.Machine
end

section
/-! Proofs about the work of copies inside the package (spec 10 R231, R232). -/

namespace Sys2Proof.Machine

/-! ## What the accesses of a copy leave alone -/

/-- From s to t descriptor n of queue q is as it was, but for a note that it has written attach-host memory; collectives,
updates, sequences and the network are as they were. -/
structure CopyStands (q n : Nat) (s t : State) : Prop where
  prog : ∀ p, s.prog q n = some p → ∃ b, t.prog q n = some { p with host := b }
  coll : t.coll = s.coll
  upd : t.upd = s.upd
  seqs : t.seqs = s.seqs
  net : t.net = s.net

theorem CopyStands.trans {q n : Nat} {s t u : State} (hst : CopyStands q n s t) (htu : CopyStands q n t u) :
    CopyStands q n s u where
  prog p hp := by
    obtain ⟨b, ht⟩ := hst.prog p hp
    obtain ⟨b', hu⟩ := htu.prog _ ht
    exact ⟨b', hu⟩
  coll := htu.coll.trans hst.coll
  upd := htu.upd.trans hst.upd
  seqs := htu.seqs.trans hst.seqs
  net := htu.net.trans hst.net

theorem copyStands_of_eq {q n : Nat} {s t : State} (hqueues : t.queues = s.queues := by simp)
    (hcoll : t.coll = s.coll := by simp) (hupd : t.upd = s.upd := by simp) (hseqs : t.seqs = s.seqs := by simp)
    (hnet : t.net = s.net := by simp) : CopyStands q n s t where
  prog p hp := ⟨p.host, by rw [State.prog, State.queue_congr hqueues]; exact hp⟩
  coll := hcoll
  upd := hupd
  seqs := hseqs
  net := hnet

theorem CopyStands.refl (q n : Nat) (s : State) : CopyStands q n s s := copyStands_of_eq

theorem copyStands_foldl {α : Type} {q n : Nat} {f : State → α → State} (hf : ∀ s a, CopyStands q n s (f s a))
    (l : List α) (s : State) : CopyStands q n s (l.foldl f s) := by
  induction l generalizing s with
  | nil => exact .refl q n s
  | cons a l ih => exact (hf s a).trans (ih (f s a))

theorem prog_modProg {q n : Nat} {f : Prog → Prog} (hn : ∀ p, (f p).n = p.n) (s : State) :
    (modProg q n f s).prog q n = (s.prog q n).map f := by
  have hkeeps : ((fun p : Prog => p.n == n) ∘ fun p => if p.n = n then f p else p) = fun p => p.n == n := by
    funext p
    dsimp only [Function.comp]
    split <;> simp [hn]
  rw [State.prog, modProg, State.queue_modQueue_self, List.find?_map, hkeeps, ← State.prog]
  refine Option.map_congr fun p hp => if_pos ?_
  simpa using List.find?_some hp

/-! ## Writes (R232) -/

theorem noteHost_copyStands (q n : Nat) (s : State) : CopyStands q n s (noteHost (.desc ⟨q, n⟩) s) where
  prog p hp := ⟨true, by
    have hmark := prog_modProg (q := q) (n := n) (f := fun p => { p with host := true }) (fun _ => rfl) s
    rw [hp] at hmark
    exact hmark⟩
  coll := by simp
  upd := by simp
  seqs := by simp
  net := by simp

theorem physWrite_copyStands (q n eng a : Nat) (bs : List (Byte × Bool)) (streaming : Bool) (s : State) :
    CopyStands q n s (physWrite eng a bs streaming (.desc ⟨q, n⟩) s) := by
  have hput : CopyStands q n s (physPut eng a bs streaming (.desc ⟨q, n⟩) s) := copyStands_of_eq
  unfold physWrite
  dsimp only
  split
  · exact hput.trans copyStands_of_eq
  · exact hput.trans (noteHost_copyStands q n _)
  · exact hput

theorem freeOverlap_copyStands (q n : Nat) (srcs : List (Nat × Nat)) (a : Nat) (bs : List (Byte × Bool)) (s : State) :
    CopyStands q n s (freeOverlap srcs a bs s).2 := by
  induction bs generalizing a s with
  | nil => exact .refl q n s
  | cons b bs ih =>
    unfold freeOverlap
    dsimp only
    refine .trans ?_ (ih _ _)
    split
    · exact copyStands_of_eq rfl rfl rfl rfl rfl
    · exact .refl q n s

theorem freeEarlier_copyStands (q n eng : Nat) (streaming : Bool) (srcs dst : List (Nat × Nat)) (s : State) :
    CopyStands q n s (freeEarlier eng streaming (.desc ⟨q, n⟩) srcs dst s) := by
  refine copyStands_foldl (fun s d => copyStands_foldl (fun s g => ?_) srcs s) dst s
  dsimp only
  split
  · exact .trans copyStands_of_eq (physWrite_copyStands ..)
  · exact .refl q n s

theorem writePiece_copyStands {w : DWords} (hlocal : dRemote w = false) (q n eng : Nat) (srcs : List (Nat × Nat))
    (s : State) (d : Piece × List (Byte × Bool)) : CopyStands q n s (writePiece q n eng w srcs s d) := by
  rw [writePiece, hlocal]
  exact (freeOverlap_copyStands q n srcs d.1.dstPa d.2 s).trans (physWrite_copyStands ..)

/-! ## Translations and reads -/

theorem sideXlt_copyStands (q n : Nat) (used : Bool) (eng va len : Nat) (write : Bool) (s : State) :
    CopyStands q n s (sideXlt used eng va len write s).2 := by
  unfold sideXlt
  split
  · exact copyStands_of_eq
  · exact .refl q n s

theorem copyStands_of_result {α : Type} {q n : Nat} {r : α × State} {a : α} {s t : State} (hs : CopyStands q n s r.2)
    (h : r = (a, t)) : CopyStands q n s t := by
  rw [h] at hs
  exact hs

theorem pieceWalk_copyStands (q n eng : Nat) (rd loc : Bool) (fuel : Nat) (rows : List (Nat × Nat × Nat × Nat))
    (s : State) : CopyStands q n s (pieceWalk eng rd loc fuel rows s).2.2 := by
  induction fuel generalizing rows s with
  | zero => exact .refl q n s
  | succ fuel ih =>
    cases rows with
    | nil => exact .refl q n s
    | cons row rest =>
      unfold pieceWalk
      dsimp only
      split
      · exact ih ..
      · split
        · next s1 hsrc =>
          have hs1 := copyStands_of_result (sideXlt_copyStands q n ..) hsrc
          split
          · next s2 hdst =>
            have hs2 := hs1.trans (copyStands_of_result (sideXlt_copyStands q n ..) hdst)
            split
            · exact hs2
            · exact hs2.trans (ih ..)
          · next hdst => exact hs1.trans (copyStands_of_result (sideXlt_copyStands q n ..) hdst)
        · next hsrc => exact copyStands_of_result (sideXlt_copyStands q n ..) hsrc

theorem pieceData_copyStands (q n eng : Nat) (w : DWords) (x : Piece) (s : State) :
    CopyStands q n s (pieceData eng w x s).2 := by
  unfold pieceData
  split
  · exact copyStands_of_eq
  · exact .refl q n s

theorem readPieces_copyStands (q n eng : Nat) (w : DWords) (ps : List Piece) (s : State) :
    CopyStands q n s (readPieces eng w ps s).2 := by
  induction ps generalizing s with
  | nil => exact .refl q n s
  | cons x ps ih => exact (pieceData_copyStands q n eng w x s).trans (ih _)

/-! ## A copy that runs (R232) -/

/-- The pieces that descriptor p of queue q moves from where it stands, what stops it, and the state once they are
translated. -/
def copyPieces (q : Nat) (p : Prog) (s : State) : List Piece × Option XOut × State :=
  let rows := xferRows p.w p.pos
  pieceWalk (s.queue q).code (readsSource (dOpcode p.w)) (!dRemote p.w)
    (rows.length * (2 * (dLength p.w / 0x4000000) + 6) + 4) rows s

/-- The data of those pieces, and the state once they are read. -/
def copyData (q : Nat) (p : Prog) (s : State) : List (Piece × List (Byte × Bool)) × State :=
  readPieces (s.queue q).code p.w (copyPieces q p s).1 (copyPieces q p s).2.2

def copyPoisoned (q : Nat) (p : Prog) (s : State) : Bool := (copyData q p s).1.any fun d => d.2.any Prod.snd

/-- Bytes that those pieces hold. -/
def copyMoved (q : Nat) (p : Prog) (s : State) : Nat := ((copyPieces q p s).1.map (·.n)).sum

/-- Physical pieces that it reads. -/
def copySrcs (q : Nat) (p : Prog) (s : State) : List (Nat × Nat) :=
  if readsSource (dOpcode p.w) then (copyPieces q p s).1.map fun x => (x.srcPa, x.n) else []

/-- Physical pieces that it writes. -/
def copyDsts (q : Nat) (p : Prog) (s : State) : List (Nat × Nat) :=
  if !dRemote p.w then (copyPieces q p s).1.map fun x => (x.dstPa, x.n) else []

/-- Virtual pages that it uses. -/
def copyPages (q : Nat) (p : Prog) (s : State) : List Nat :=
  (copyPieces q p s).1.flatMap fun x => (if !dRemote p.w then pagesOf x.dstVa x.n else [])
    ++ (if readsSource (dOpcode p.w) then pagesOf x.srcVa x.n else [])

/-- The descriptor once its pieces have been read. -/
def copyNoted (q : Nat) (p0 : Prog) (s : State) (p : Prog) : Prog := { p with
  phase := .running
  status := if copyPoisoned q p0 s ∧ p.status = stDone then stPoisoned else p.status
  pos := p.pos + copyMoved q p0 s, pages := (p.pages ++ copyPages q p0 s).eraseDups
  src := p.src ++ copySrcs q p0 s, dst := p.dst ++ copyDsts q p0 s }

/-- The state once its pieces have been written. -/
def copyWritten (q n : Nat) (p : Prog) (s : State) : State :=
  (copyData q p s).1.foldl (writePiece q n (s.queue q).code p.w (p.src ++ copySrcs q p s))
    (freeEarlier (s.queue q).code (dStreaming p.w) (.desc ⟨q, n⟩) (copySrcs q p s) p.dst
      (modProg q n (copyNoted q p s) (copyData q p s).2))

/-- Where a transfer whose pieces are written goes, by what stopped it. -/
def copySettled (q n : Nat) (stop : Option XOut) (s : State) : State :=
  match s.prog q n with
  | none => s
  | some p =>
    if p.phase = .ended then s
    else match stop with
      | none => endProg q n p.status (copyResult p) s
      | some (.err st) => endProg q n st (copyResult p) s
      | some (.absent vp big) => stopAtPage q n vp big s
      | some _ => s

theorem copySettled_of_unstopped {q n : Nat} {p : Prog} {s : State} (hprog : s.prog q n = some p) (hrun : p.phase = .running) :
    copySettled q n none s = endProg q n p.status (copyResult p) s := by
  rw [copySettled, hprog]
  exact if_neg (by simp [hrun])

section
variable {q n : Nat} {p : Prog} {s : State} (hprog : s.prog q n = some p)
include hprog

/-- A transfer that runs writes its pieces and goes where they leave it. -/
theorem copyRun_of_running (hrun : p.phase = .running) :
    copyRun q n s = copySettled q n (copyPieces q p s).2.1 (copyWritten q n p s) := by
  rw [copyRun, hprog]
  exact if_neg (by simp [hrun])

/-- What stands once the pieces have been written inside the package. -/
theorem copyWritten_effect (hlocal : dRemote p.w = false) :
    (∃ b, (copyWritten q n p s).prog q n = some { copyNoted q p s p with host := b })
    ∧ (copyWritten q n p s).coll = s.coll ∧ (copyWritten q n p s).upd = s.upd ∧ (copyWritten q n p s).seqs = s.seqs
    ∧ (copyWritten q n p s).net = s.net := by
  have hread : CopyStands q n s (copyData q p s).2 :=
    (pieceWalk_copyStands q n ..).trans (readPieces_copyStands q n ..)
  have hput : CopyStands q n (modProg q n (copyNoted q p s) (copyData q p s).2) (copyWritten q n p s) :=
    (freeEarlier_copyStands q n ..).trans (copyStands_foldl (writePiece_copyStands hlocal q n _ _) _ _)
  obtain ⟨b, hb⟩ := hread.prog p hprog
  have hnoted := prog_modProg (f := copyNoted q p s) (q := q) (n := n) (fun _ => rfl) (copyData q p s).2
  rw [hb] at hnoted
  obtain ⟨b', hb'⟩ := hput.prog _ hnoted
  refine ⟨⟨b', hb'⟩, ?_, ?_, ?_, ?_⟩
  · simp [hput.coll, hread.coll]
  · simp [hput.upd, hread.upd]
  · simp [hput.seqs, hread.seqs]
  · simp [hput.net, hread.net]

/-- A copy inside the package that nothing stops, and that reads no poison, ends with DONE and the bytes it has moved as its
RESULT. -/
theorem copyRun_ended (hrun : p.phase = .running) (hdone : p.status = stDone) (hlocal : dRemote p.w = false)
    (hstop : (copyPieces q p s).2.1 = none) (hgood : copyPoisoned q p s = false) :
    (∃ p', (copyRun q n s).prog q n = some p' ∧ p'.phase = .ended ∧ p'.status = stDone
      ∧ p'.result = w64 (p.pos + copyMoved q p s) ∧ p'.w = p.w)
    ∧ (copyRun q n s).coll = s.coll ∧ (copyRun q n s).upd = s.upd ∧ (copyRun q n s).seqs = s.seqs
    ∧ (copyRun q n s).net = s.net := by
  obtain ⟨⟨b, hwritten⟩, hcoll, hupd, hseqs, hnet⟩ := copyWritten_effect hprog hlocal
  rw [copyRun_of_running hprog hrun, hstop, copySettled_of_unstopped hwritten rfl]
  refine ⟨?_, by simp [hcoll], by simp [hupd], by simp [hseqs], by simp [hnet]⟩
  rw [endProg, prog_modProg (fun _ => by split <;> rfl), hwritten]
  exact ⟨_, rfl, rfl, by simp [copyNoted, hgood, hdone], by simp [copyResult, copyNoted, hlocal], rfl⟩

end

end Sys2Proof.Machine
end

section
/-! Proofs about descriptors that start and run (spec 10 R224, R227, R229-R236), and O17. -/

namespace Sys2Proof.Machine

/-! ## NOP (R227) -/

/-- Two steps of the final records write a record that is due, and find nothing more in progress. -/
theorem finishFuel_of_recordDue {q fuel : Nat} {p : Prog} {s : State} (h : RecordDue q p s) :
    finishFuel q (fuel + 2) s = finalRecord q p s := by
  obtain ⟨b, d, hq⟩ := finalRecord_queue q p s
  have hempty : ((finalRecord q p s).queue q).progs = [] := by
    rw [hq, h.alone]
    simp
  rw [finishFuel, h.alone]
  simp [nopRuns, h.ended, h.progVisible, h.noFlush, h.reserved, finishFuel, hempty]

/-- NOP p is the only descriptor of queue q in progress, with a completion entry reserved and no attach-host domain. -/
structure NopAlone (q : Nat) (p : Prog) (s : State) : Prop where
  alone : (s.queue q).progs = [p]
  nop : nopRuns p = true
  written : tagClear (.desc ⟨q, p.n⟩) s = true
  acked : p.txns = []
  noFlush : wantsAttach p = false
  reserved : p.reserved ≠ 0

/-- The only descriptor of a queue ends. -/
theorem endProg_queue_of_alone {q : Nat} {p : Prog} {s : State} (h : (s.queue q).progs = [p]) (hrun : p.phase ≠ .ended)
    (st : BitVec 16) (result : W64) : (endProg q p.n st result s).queue q = { s.queue q with
      progs := [{ p with phase := .ended, status := st, result := result, endTime := s.now }] } := by
  simp [endProg, modProg, h, hrun]

theorem NopAlone.notEnded {q : Nat} {p : Prog} {s : State} (h : NopAlone q p s) : p.phase ≠ .ended := by
  have hnop := h.nop
  intro hended
  simp [nopRuns, hended] at hnop

theorem NopAlone.recordDue {q : Nat} {p : Prog} {s : State} (h : NopAlone q p s) :
    RecordDue q { p with phase := .ended, status := stDone, result := 0, endTime := s.now } (endProg q p.n stDone 0 s) where
  alone := by rw [endProg_queue_of_alone h.alone h.notEnded]
  ended := rfl
  written := by simpa [tagClear] using h.written
  acked := h.acked
  noFlush := h.noFlush
  reserved := h.reserved

/-- A NOP that is the oldest of its queue ends, and its record follows. -/
theorem finishQueue_of_nopAlone {q : Nat} {p : Prog} {s : State} (h : NopAlone q p s) :
    finishQueue q s = finishQueue q (endProg q p.n stDone 0 s) := by
  have hfirst : finishFuel q (3 + 1) s = finishFuel q 3 (endProg q p.n stDone 0 s) := by
    rw [finishFuel, h.alone]
    simp [h.nop, h.noFlush]
  rw [finishQueue_of_recordDue h.recordDue, finishQueue, h.alone]
  exact congrArg (settleSpace q) (hfirst.trans (finishFuel_of_recordDue h.recordDue))

theorem finishQueue_queue_of_nopAlone {q : Nat} {p : Prog} {s : State} (h : NopAlone q p s)
    (hstale : (s.queue q).stalePending = false) : ((finishQueue q s).queue q).progs = []
      ∧ ((finishQueue q s).queue q).window = (s.queue q).window
      ∧ ((finishQueue q s).queue q).written = (s.queue q).written + 1
      ∧ ((finishQueue q s).queue q).cqTail = ((s.queue q).cqTail + 1) % (2 * (s.queue q).cqEntries) := by
  have hended := endProg_queue_of_alone h.alone h.notEnded stDone 0
  obtain ⟨hprogs, hcount, htail, hwindow⟩ := finishQueue_queue_of_recordDue h.recordDue (by rw [hended]; exact hstale)
  rw [finishQueue_of_nopAlone h]
  rw [hended] at hcount htail hwindow
  exact ⟨hprogs, hwindow, hcount, htail⟩

/-- The queue of a descriptor that has started with none behind it. -/
theorem started_queue_of_last (q : QueueId) (f : Fetched) (s : State) : (started q f [] s).queue q.val = { s.queue q.val with
    window := [], progs := (s.queue q.val).progs ++ [newProg f.n f.w (entriesOf f.w) s.now], cqWait := false } := by
  have hlast (t : State) (h : (t.queue q.val).window = []) : settleHead q.val t = t := by
    rw [settleHead, h]
    exact ite_self _
  rw [started, hlast _ (by simp), State.queue_modQueue_self]
  rfl

theorem entriesOf_ne_zero (w : DWords) : entriesOf w ≠ 0 := by
  unfold entriesOf
  split <;> simp

/-- NOP starts its descriptor, with a permit where its engine asks for one, and writes what records it can. -/
theorem exec_nop {q : QueueId} {f : Fetched} {rest : List Fetched} {s : State} (h : Startable q opNop f rest s)
    (hperm : engKind (s.queue q.val).code = .array ∨ engKind (s.queue q.val).code = .vector ∨ Permitted q s) :
    ∃ u, exec (.nop q) s = .next (finishQueue q.val u) ∧ u.queues = (started q f rest s).queues ∧ u.coh = s.coh := by
  have hexec : exec (.nop q) s = .next (if engKind (s.queue q.val).code = .array ∨ engKind (s.queue q.val).code = .vector
      then finishQueue q.val (beginDesc q.val opNop s).2 else finishQueue q.val (startDesc q.val opNop s).2) :=
    if_neg (by simp [h.hasPower])
  by_cases hstream : engKind (s.queue q.val).code = .array ∨ engKind (s.queue q.val).code = .vector
  · rw [if_pos hstream, beginDesc_of_startable h] at hexec
    exact ⟨_, hexec, rfl, by simp [started]⟩
  · rw [if_neg hstream, startDesc_of_permitted h ((or_assoc.2 hperm).resolve_left hstream)] at hexec
    exact ⟨_, hexec, by simp, by simp⟩

/-- A NOP alone on its queue that names no attach-host domain ends with its record written. -/
theorem nop_effect {q : QueueId} {f : Fetched} {s : State} (h : Startable q opNop f [] s)
    (hperm : engKind (s.queue q.val).code = .array ∨ engKind (s.queue q.val).code = .vector ∨ Permitted q s)
    (hprogs : (s.queue q.val).progs = []) (hstale : (s.queue q.val).stalePending = false) (hattach : dDomain f.w ≠ 1)
    (hboth : dDomain f.w ≠ 3) (hclear : tagClear (.desc ⟨q.val, f.n⟩) s = true) :
    Yields (.nop q) s fun t => (t.queue q.val).progs = [] ∧ (t.queue q.val).window = []
      ∧ (t.queue q.val).written = (s.queue q.val).written + 1
      ∧ (t.queue q.val).cqTail = ((s.queue q.val).cqTail + 1) % (2 * (s.queue q.val).cqEntries) := by
  obtain ⟨u, hexec, hqueues, hcoh⟩ := exec_nop h hperm
  have hq := (State.queue_congr hqueues q.val).trans (started_queue_of_last q f s)
  have halone : NopAlone q.val (newProg f.n f.w (entriesOf f.w) s.now) u := {
    alone := by simp [hq, hprogs]
    nop := by simp [nopRuns, newProg, h.opcode]
    written := by simpa [tagClear, hcoh, newProg] using hclear
    acked := rfl
    noFlush := by simp [wantsAttach, newProg, hattach, hboth]
    reserved := entriesOf_ne_zero f.w }
  have heffect := finishQueue_queue_of_nopAlone halone (by rw [hq]; exact hstale)
  rw [hq] at heffect
  exact ⟨_, hexec, heffect⟩

/-! ## COPY, COPY_2D, FILL and WRITE_IMM (R231, R232) -/

theorem startCopy_of_permitted {q : QueueId} {op : Nat} {f : Fetched} {rest : List Fetched} {s : State}
    (h : Startable q op f rest s) (hperm : Permitted q s) :
    startCopy q.val op s = finishQueue q.val (copyRun q.val f.n (running q f rest s)) := by
  rw [startCopy, startDesc_of_permitted h hperm]

/-- Each of the four is the start of a copy of its opcode. -/
theorem exec_copies {q : QueueId} {c : Instr} {op : Nat} {f : Fetched} {rest : List Fetched} {s : State}
    (hc : (c, op) ∈ [(Instr.copy q, opCopy), (.copy2d q, opCopy2d), (.fill q, opFill), (.writeImm q, opWriteImm)])
    (h : Startable q op f rest s) (hperm : Permitted q s) :
    exec c s = .next (finishQueue q.val (copyRun q.val f.n (running q f rest s))) := by
  have hexec : exec c s = .next (clocked (startCopy q.val op) s) := by
    simp only [List.mem_cons, Prod.mk.injEq, List.not_mem_nil, or_false] at hc
    obtain ⟨rfl, rfl⟩ | ⟨rfl, rfl⟩ | ⟨rfl, rfl⟩ | ⟨rfl, rfl⟩ := hc <;> rfl
  rw [hexec, clocked_of_powered h.hasPower, startCopy_of_permitted h hperm]

/-- The pieces of a transfer that has just started are those of its rows from their beginning. -/
theorem copyPieces_running {q : QueueId} {op : Nat} {f : Fetched} {rest : List Fetched} {s : State}
    (h : Startable q op f rest s) (hlocal : dRemote f.w = false) :
    copyPieces q.val (newProg f.n f.w (entriesOf f.w) s.now) (running q f rest s)
      = pieceWalk (s.queue q.val).code (readsSource op) true
        ((xferRows f.w 0).length * (2 * (dLength f.w / 0x4000000) + 6) + 4) (xferRows f.w 0) (running q f rest s) := by
  rw [copyPieces, running_code]
  simp [newProg, h.opcode, hlocal]

/-- One inside the package whose pages all translate and whose source has no poison ends with the bytes it has written. -/
theorem copies_effect {q : QueueId} {c : Instr} {op : Nat} {f : Fetched} {rest : List Fetched} {s : State}
    (hc : (c, op) ∈ [(Instr.copy q, opCopy), (.copy2d q, opCopy2d), (.fill q, opFill), (.writeImm q, opWriteImm)])
    (h : Startable q op f rest s) (hperm : Permitted q s) :
    let rows := xferRows f.w 0
    let r := pieceWalk (s.queue q.val).code (readsSource op) true
      (rows.length * (2 * (dLength f.w / 0x4000000) + 6) + 4) rows (running q f rest s)
    dRemote f.w = false → r.2.1 = none →
    ((readPieces (s.queue q.val).code f.w r.1 r.2.2).1.any fun d => d.2.any Prod.snd) = false →
    Yields c s fun t => ∃ u p, t = finishQueue q.val u ∧ u.prog q.val f.n = some p ∧ p.phase = .ended
      ∧ p.status = stDone ∧ p.result = w64 ((r.1.map (·.n)).sum) ∧ p.w = f.w
      ∧ u.coll = s.coll ∧ u.upd = s.upd ∧ u.seqs = s.seqs ∧ u.net = s.net := by
  intro rows r hlocal hstop hgood
  have hpieces : copyPieces q.val (newProg f.n f.w (entriesOf f.w) s.now) (running q f rest s) = r :=
    copyPieces_running h hlocal
  have hclean : copyPoisoned q.val (newProg f.n f.w (entriesOf f.w) s.now) (running q f rest s) = false := by
    rw [copyPoisoned, copyData, hpieces, running_code]
    exact hgood
  obtain ⟨⟨p, hp, hended, hstatus, hresult, hw⟩, hcoll, hupd, hseqs, hnet⟩ :=
    copyRun_ended (running_prog h) rfl rfl hlocal (hpieces ▸ hstop) hclean
  rw [copyMoved, hpieces] at hresult
  refine ⟨_, exec_copies hc h hperm, _, p, rfl, hp, hended, hstatus, ?_, hw, ?_, ?_, ?_, ?_⟩
  · simpa [newProg] using hresult
  · simp [hcoll]
  · simp [hupd]
  · simp [hseqs]
  · simp [hnet]

/-! ## INVALIDATE (R233) -/

theorem exec_invalidate {q : QueueId} {f : Fetched} {rest : List Fetched} {s : State}
    (h : Startable q opInvalidate f rest s) (hperm : Permitted q s) :
    exec (.invalidate q) s = .next (beginInval q.val f.n f.w (running q f rest s)) := by
  change execInvalidate q s = _
  rw [execInvalidate, if_neg (by simp [h.hasPower]), startDesc_of_permitted h hperm]
  dsimp only
  rw [running_prog h]
  rfl

/-- An invalidation of every address leaves no engine a translation. -/
theorem keptTlb_of_span_zero (base : Nat) (c : Nat × List TlbEntry) : keptTlb base 0 c = none := by
  have hall : c.2.filter (fun e => !e.hit base 0) = [] :=
    List.filter_eq_nil_iff.2 fun e _ => by simp [(TlbEntry.hit_iff base 0 e).2 (.inl rfl)]
  exact if_pos hall

theorem beginInval_tlb_of_span_zero (q n : Nat) {w : DWords} (s : State) (h : dSpan w = 0) :
    (beginInval q n w s).xlt.tlb = [] := by
  rw [beginInval_tlb, h]
  exact List.filterMap_eq_nil_iff.2 fun c _ => keptTlb_of_span_zero _ c

/-! ## O17 -/

/-- Settles O17: a head starts, waits for space or does nothing (`startDesc_of_permitted`, `startDesc_of_noRoom`,
`startDesc_of_not_due`; turns are log 109, a command that is not due log 1); a NOP's record is due as soon as it has ended;
what a copy's accesses leave alone is `CopyStands`, so it ends as `copyRun_ended` says. -/
theorem descriptorsStartAndRun : Obligations.DescriptorsStartAndRun := by
  unfold Obligations.DescriptorsStartAndRun
  refine ⟨fun q op s f rest => ?starts, fun q s f rest => ?runs⟩
  case starts =>
    intro x hwindow
    refine ⟨fun h => ⟨beginDesc_of_startable h, startDesc_of_permitted h⟩, fun hop hmay hturn hroom => ?_,
      startDesc_of_not_due hwindow⟩
    rw [startDesc_of_noRoom hwindow hop hmay hturn hroom]
    exact ⟨rfl, waitSpace_queue q.val s, waitSpace_bit⟩
  case runs =>
    intro x t code
    refine ⟨?nop, fun c op hc h hperm => ⟨exec_copies hc h hperm, copies_effect hc h hperm⟩,
      fun h hperm => ⟨exec_invalidate h hperm, ?inval⟩⟩
    case nop =>
      rintro rfl hprogs hstale hattach hboth hclear h hperm
      exact nop_effect h hperm hprogs hstale hattach hboth hclear
    case inval =>
      have hxlt : t.xlt = s.xlt := by simp [t]
      refine ⟨_, exec_invalidate h hperm, rfl, ⟨_, congrArg (·.invals ++ _) hxlt, rfl, rfl, rfl⟩,
        beginInval_tlb_of_span_zero _ _ _, congrArg (·.records) hxlt, congrArg (·.root) hxlt, ?_⟩
      simp [beginInval]

end Sys2Proof.Machine
end

section
/-! Proofs about what a collective computes (spec 11 R250-R252): parts joined in any order, shards that partition a vector,
and O23. -/

namespace Sys2Proof.Machine

/-! ## Parts joined in any order (R251, R252) -/

/-- Two parts put together, with the flags of both and those their sum raises. -/
def joinTwo (add : Nat → Nat → Nat × FFlags) (a b : Nat × FFlags) : Nat × FFlags :=
  ((add a.1 b.1).1, a.2 ||| b.2 ||| (add a.1 b.1).2)

theorem joinParts_cons (add : Nat → Nat → Nat × FFlags) (x : Nat × FFlags) (xs : List (Nat × FFlags)) :
    joinParts add (x :: xs) = xs.foldl (joinTwo add) x := rfl

/-- An addition of parts that raises no flags, and whose sums depend on neither order nor grouping. -/
structure AddsInAnyOrder (add : Nat → Nat → Nat × FFlags) : Prop where
  noFlags : ∀ a b, (add a b).2 = 0
  comm : ∀ a b, (add a b).1 = (add b a).1
  assoc : ∀ a b c, (add (add a b).1 c).1 = (add a (add b c).1).1

section
variable {add : Nat → Nat → Nat × FFlags} (h : AddsInAnyOrder add)
include h

theorem AddsInAnyOrder.joinTwo_comm (a b : Nat × FFlags) : joinTwo add a b = joinTwo add b a := by
  simp only [joinTwo, h.noFlags, h.comm a.1, BitVec.or_comm a.2]

theorem AddsInAnyOrder.joinTwo_right_comm (a b c : Nat × FFlags) :
    joinTwo add (joinTwo add a b) c = joinTwo add (joinTwo add a c) b := by
  simp [joinTwo, h.noFlags, h.assoc, h.comm b.1, BitVec.or_assoc, BitVec.or_comm b.2]

theorem AddsInAnyOrder.joinParts_perm {xs ys : List (Nat × FFlags)} (hperm : xs.Perm ys) :
    joinParts add xs = joinParts add ys := by
  induction hperm with
  | nil => rfl
  | cons x hperm _ =>
    exact hperm.foldl_eq' (fun a _ b _ c => h.joinTwo_right_comm c a b) x
  | swap x y l =>
    rw [joinParts_cons, joinParts_cons, List.foldl_cons, List.foldl_cons, h.joinTwo_comm]
  | trans _ _ ihxs ihys => exact ihxs.trans ihys

end

/-! ## Reproducible sums (R252) -/

theorem add_mod_assoc (m a b c : Nat) : ((a + b) % m + c) % m = (a + (b + c) % m) % m := by
  rw [Nat.mod_add_mod, Nat.add_mod_mod, Nat.add_assoc]

/-- Classes are joined as sets, integers added modulo 2^48. -/
theorem reproAdd_inAnyOrder (c : Nat) : AddsInAnyOrder fun a b => (reproAdd c a b, 0) where
  noFlags _ _ := rfl
  comm a b := by
    simp only [reproAdd, Nat.or_comm a, Nat.add_comm a]
  assoc a b d := by
    simp only [reproAdd]
    split
    · exact Nat.or_assoc a b d
    · exact add_mod_assoc _ a b d

theorem reproElem_perm (f : Fmt) (c : Nat) {xs ys : List Nat} (h : xs.Perm ys) : reproElem f c xs = reproElem f c ys := by
  unfold reproElem
  rw [(reproAdd_inAnyOrder c).joinParts_perm (h.map (reproPart f c))]

/-! ## Integer reductions (R251) -/

/-- A number read from w bits is read back from its own w bits. -/
theorem sext_wrapNat_sext (w a : Nat) : sext w (wrapNat w (sext w a)) = sext w a := by
  have hwrap : wrapNat w (sext w a) = a % 2 ^ w := by
    rw [wrapNat, sext_emod]
    norm_cast
  rw [hwrap]
  simp only [sext, Nat.mod_mod]

theorem sext_wrapNat_max (w a b : Nat) :
    sext w (wrapNat w (max (sext w a) (sext w b))) = max (sext w a) (sext w b) := by
  obtain h | h := max_choice (sext w a) (sext w b) <;> rw [h, sext_wrapNat_sext]

theorem sext_wrapNat_min (w a b : Nat) :
    sext w (wrapNat w (min (sext w a) (sext w b))) = min (sext w a) (sext w b) := by
  obtain h | h := min_choice (sext w a) (sext w b) <;> rw [h, sext_wrapNat_sext]

/-- Two parts of an integer reduction as one. -/
def intAdd (n redop a b : Nat) : Nat :=
  match redop with
  | 0 => (a + b) % 2 ^ 48
  | 1 => wrapNat n (max (sext n a) (sext n b))
  | 2 => wrapNat n (min (sext n a) (sext n b))
  | 3 => a ||| b
  | _ => a &&& b

theorem plainAdd_of_int {ty : Nat} (hty : 4 ≤ ty) (redop a b : Nat) :
    plainAdd ty redop a b = (intAdd (intBits ty) redop a b, 0) := by
  unfold plainAdd
  rw [if_neg (by omega)]
  match redop with
  | 0 | 1 | 2 | 3 | _ + 4 => rfl

theorem intAdd_comm (n a b : Nat) : ∀ redop, intAdd n redop a b = intAdd n redop b a
  | 0 => by simp only [intAdd, Nat.add_comm]
  | 1 => by simp only [intAdd, max_comm]
  | 2 => by simp only [intAdd, min_comm]
  | 3 => Nat.or_comm a b
  | _ + 4 => Nat.and_comm a b

theorem intAdd_assoc (n a b c : Nat) :
    ∀ redop, intAdd n redop (intAdd n redop a b) c = intAdd n redop a (intAdd n redop b c)
  | 0 => add_mod_assoc _ a b c
  | 1 => by simp only [intAdd, sext_wrapNat_max, max_assoc]
  | 2 => by simp only [intAdd, sext_wrapNat_min, min_assoc]
  | 3 => Nat.or_assoc a b c
  | _ + 4 => Nat.and_assoc a b c

theorem plainAdd_inAnyOrder {ty : Nat} (hty : 4 ≤ ty) (redop : Nat) : AddsInAnyOrder (plainAdd ty redop) where
  noFlags a b := by rw [plainAdd_of_int hty]
  comm a b := by simp only [plainAdd_of_int hty, intAdd_comm _ a]
  assoc a b c := by simp only [plainAdd_of_int hty, intAdd_assoc]

theorem reduceElem_perm {ty : Nat} (hty : 4 ≤ ty) (redop : Nat) {xs ys : List Nat} (h : xs.Perm ys) :
    reduceElem ty redop xs = reduceElem ty redop ys := by
  unfold reduceElem
  rw [(plainAdd_inAnyOrder hty redop).joinParts_perm (h.map (plainPart ty redop))]

/-! ## Shards (R250) -/

theorem shardOf_zero_lo (ty count n : Nat) : (shardOf ty count n 0).1 = 0 := by
  unfold shardOf
  split <;> simp

theorem shardOf_last_hi {ty count n : Nat} (hn : 0 < n) (hblocks : ty = 3 → count % 32 = 0) :
    (shardOf ty count n (n - 1)).2 = count := by
  unfold shardOf
  split
  · next hty =>
    rw [Nat.sub_add_cancel hn, Nat.mul_div_cancel_left _ hn]
    exact Nat.mul_div_cancel' (Nat.dvd_of_mod_eq_zero (hblocks hty))
  · rw [Nat.sub_add_cancel hn, Nat.mul_div_cancel_left _ hn]

theorem shardOf_hi_eq_next_lo (ty count n i : Nat) : (shardOf ty count n i).2 = (shardOf ty count n (i + 1)).1 := by
  unfold shardOf
  split <;> rfl

theorem shardOf_lo_le_hi (ty count n i : Nat) : (shardOf ty count n i).1 ≤ (shardOf ty count n i).2 := by
  unfold shardOf
  split
  · exact Nat.mul_le_mul_left 32 (Nat.div_le_div_right (Nat.mul_le_mul_right _ (Nat.le_succ i)))
  · exact Nat.div_le_div_right (Nat.mul_le_mul_right _ (Nat.le_succ i))

/-! ## O23 -/

/-- Settles O23: a reproducible sum adds integers modulo 2^48 or joins class bits, an integer reduction keeps numbers that
their own bits give back, so both are sums in any order; the end of a shard is by definition the beginning of the next. -/
theorem reductionsAndShards : Obligations.ReductionsAndShards := by
  unfold Obligations.ReductionsAndShards
  refine ⟨fun xs ys h => ⟨fun f c => reproElem_perm f c h, fun ty redop hty => reduceElem_perm hty redop h⟩, ?_⟩
  intro ty count n hn hblocks
  exact ⟨shardOf_zero_lo ty count n, shardOf_last_hi hn hblocks,
    fun i => ⟨shardOf_hi_eq_next_lo ty count n i, shardOf_lo_le_hi ty count n i⟩⟩

end Sys2Proof.Machine
end

section
/-! Proofs about descriptors that enter a collective (spec 11 R245, R249, R255, R256, R260), and the refutation of O21. -/

namespace Sys2Proof.Machine

/-! ## A collective descriptor that starts (R245, R256) -/

/-- A head that can be executed stays in its window. -/
theorem settleHead_of_executable {q : Nat} {f : Fetched} {rest : List Fetched} {s : State}
    (hwindow : (s.queue q).window = f :: rest) (hread : f.poisoned = false)
    (hformed : malformedDesc (s.queue q).code f.w s = false) : settleHead q s = s := by
  rw [settleHead, hwindow]
  simp [hread, hformed]

theorem Startable.inWindow {q : QueueId} {op : Nat} {f : Fetched} {rest : List Fetched} {s : State}
    (h : Startable q op f rest s) : (s.queue q.val).window = f :: rest := by
  obtain ⟨-, hwindow, -⟩ := h
  exact hwindow

theorem Startable.notPoisoned {q : QueueId} {op : Nat} {f : Fetched} {rest : List Fetched} {s : State}
    (h : Startable q op f rest s) : f.poisoned = false := by
  obtain ⟨-, hwindow, -, hmay, -⟩ := h
  simp only [headMayStart, hwindow, Bool.and_eq_true, Bool.not_eq_true'] at hmay
  obtain ⟨-, ⟨⟨hread, -⟩, -⟩, -⟩ := hmay
  exact hread

/-- A head of a collective engine that starts, runs and finds room in its engine and its group. -/
structure CollStarts (q : QueueId) (op : Nat) (f : Fetched) (rest : List Fetched) (s : State) : Prop where
  startable : Startable q op f rest s
  permitted : Permitted q s
  formed : malformedDesc (s.queue q.val).code f.w s = false
  engine : engKind (s.queue q.val).code = .coll
  slot : slotsUsed ((s.queue q.val).code - 0x40) s < 16
  free : groupFree (cGroup f.w) s = true

/-- The commands of the eight collectives, each with its opcode. -/
def collCommands (q : QueueId) : List (Instr × Nat) :=
  [(.allReduce q, opAllReduce), (.reduceScatter q, opReduceScatter), (.allGather q, opAllGather),
    (.broadcast q, opBroadcast), (.reduce q, opReduce), (.allToAll q, opAllToAll), (.barrier q, opBarrier),
    (.flagReduce q, opFlagReduce)]

section
variable {q : QueueId} {op : Nat} {f : Fetched} {rest : List Fetched} {s : State} (h : CollStarts q op f rest s)
include h

theorem startColl_of_starts : startColl q.val op s = enterColl q.val f.n (running q f rest s) := by
  unfold startColl
  rw [settleHead_of_executable h.startable.inWindow h.startable.notPoisoned h.formed]
  simp only [h.startable.inWindow]
  rw [if_pos ⟨h.engine, h.slot, h.free⟩, startDesc_of_permitted h.startable h.permitted]

theorem exec_collective {c : Instr} (hc : (c, op) ∈ collCommands q) :
    exec c s = .next (enterColl q.val f.n (running q f rest s)) := by
  have hexec : exec c s = .next (clocked (startColl q.val op) s) := by
    have hall : ∀ e ∈ collCommands q, exec e.1 s = .next (clocked (startColl q.val e.2) s) := by
      simp only [collCommands, List.forall_mem_cons]
      exact ⟨rfl, rfl, rfl, rfl, rfl, rfl, rfl, rfl, nofun⟩
    exact hall (c, op) hc
  rw [hexec, clocked_of_powered h.startable.hasPower, startColl_of_starts h]

end

/-! ## Entering (R255, R260) -/

/-- Run r is in progress, and its descriptor has taken its number. -/
def withRun (r : CollRun) (s : State) : State :=
  modProg r.id.q r.id.n (fun p => { p with coll := some r.group })
    { s with coll := { s.coll with runs := s.coll.runs ++ [r] } }

theorem withRun_coll (r : CollRun) (s : State) : (withRun r s).coll = { s.coll with runs := s.coll.runs ++ [r] } := rfl

theorem withRun_group (r : CollRun) (s : State) (gi : Nat) : (withRun r s).group gi = s.group gi := rfl

theorem withRun_prog {r : CollRun} {s : State} {p : Prog} (h : s.prog r.id.q r.id.n = some p) :
    (withRun r s).prog r.id.q r.id.n = some { p with coll := some r.group } := by
  rw [withRun, prog_modProg (f := fun p => { p with coll := some r.group }) (fun _ => rfl)]
  exact congrArg (Option.map _) h

/-- A descriptor that no abort notice waits for and whose group is whole enters its collective. -/
theorem enterColl_of_clear {q n : Nat} {p : Prog} {g : GroupSt} {s : State} (hp : s.prog q n = some p)
    (hg : s.group (cGroup p.w) = some g)
    (hnotice : s.coll.heldAborts.find? (fun a => a.group == cGroup p.w && a.seq == takesSeq (cGroup p.w) g s) = none)
    (hwhole : lostMember g s = none) :
    let r := newRun ⟨q, n⟩ p.w g (takesSeq (cGroup p.w) g s) s.now
    enterColl q n s = if s.now < r.startTime then withRun r s else launchRound r (withRun r s) := by
  intro r
  unfold enterColl
  simp only [hp, hg]
  split
  · next hheld => exact nomatch hnotice.symm.trans hheld
  split
  · next hlost => exact nomatch hwhole.symm.trans hlost
  · rfl

/-! ## A descriptor that starts and enters -/

theorem running_now (q : QueueId) (f : Fetched) (rest : List Fetched) (s : State) : (running q f rest s).now = s.now := by
  unfold running
  split <;> simp [started]

/-- What a head that starts enters its collective as, by the number its group gives it once the queues hold it. -/
def enteringRun (q : QueueId) (f : Fetched) (rest : List Fetched) (g : GroupSt) (s : State) : CollRun :=
  newRun ⟨q.val, f.n⟩ f.w g (takesSeq (cGroup f.w) g (running q f rest s)) s.now

/-- A head that starts enters its collective: it waits for its START_TIME, and from then on its round starts. -/
theorem exec_collective_of_clear {q : QueueId} {c : Instr} {op : Nat} {f : Fetched} {rest : List Fetched} {g : GroupSt}
    {r : CollRun} {s : State} (hc : (c, op) ∈ collCommands q) (h : CollStarts q op f rest s)
    (hg : s.group (cGroup f.w) = some g) (hr : enteringRun q f rest g s = r)
    (hnotice : s.coll.heldAborts.find? (fun a => a.group == cGroup f.w && a.seq == r.seq) = none)
    (hwhole : lostMember g s = none) :
    exec c s = .next (if s.now < r.startTime then withRun r (running q f rest s)
      else launchRound r (withRun r (running q f rest s))) := by
  subst hr
  obtain ⟨-, -, -, -, hcoll, -, -, hnet⟩ := running_fields q f rest s
  have hroute : (running q f rest s).route = s.route := by
    funext k
    rw [State.route, hnet]
    rfl
  have henter := enterColl_of_clear (running_prog h.startable) (g := g) (by rw [State.group, hcoll]; exact hg)
    (by rw [hcoll]; exact hnotice) (by rw [lostMember, hroute]; exact hwhole)
  rw [running_now] at henter
  rw [exec_collective h hc]
  exact congrArg Host.Outcome.next henter

/-! ## Numbers taken (R255): a list of queues in canonical form holds every queue once -/

section
variable {α : Type} {d : α}

theorem Sparse.get_of_sortedAbove {l k : Nat} (hk : k ≤ l) : ∀ {m : Sparse α}, Sparse.sortedAbove (some l) m = true →
    Sparse.get d m k = d
  | [], _ => rfl
  | (j, v) :: m, h => by
    simp only [Sparse.sortedAbove, Option.all_some, Bool.and_eq_true, decide_eq_true_eq] at h
    obtain ⟨hlt, hrest⟩ := h
    rw [Sparse.get, if_neg (by omega)]
    exact Sparse.get_of_sortedAbove (by omega) hrest

/-- The sum of a number c over the entries of a map. -/
def Sparse.sumOf (c : α → Nat) (m : Sparse α) : Nat := (m.map fun e => c e.2).sum

theorem Sparse.sumOf_cons (c : α → Nat) (j : Nat) (w : α) (m : Sparse α) :
    Sparse.sumOf c ((j, w) :: m) = c w + Sparse.sumOf c m := by simp [Sparse.sumOf]

variable {c : α → Nat} (hd : c d = 0) {k : Nat}
include hd

/-- A sorted map lists its key k once, so an entry in its place that counts as much keeps the sum. -/
theorem Sparse.sumOf_insert {v : α} : ∀ {lo : Option Nat} {m : Sparse α}, Sparse.sortedAbove lo m = true →
    c v = c (Sparse.get d m k) → Sparse.sumOf c (Sparse.insert m k v) = Sparse.sumOf c m
  | _, [], _, hv => by simpa [Sparse.sumOf, Sparse.insert, hd] using hv
  | lo, (j, w) :: m, h, hv => by
    simp only [Sparse.sortedAbove, Bool.and_eq_true] at h
    obtain ⟨-, hrest⟩ := h
    unfold Sparse.insert
    split
    · next hk =>
      rw [Sparse.get, if_pos hk] at hv
      rw [Sparse.sumOf_cons, Sparse.sumOf_cons, hv]
    · next hk =>
      rw [Sparse.get, if_neg hk] at hv
      split
      · next hlt =>
        rw [Sparse.get_of_sortedAbove hlt.le hrest, hd] at hv
        rw [Sparse.sumOf_cons, hv, Nat.zero_add]
      · rw [Sparse.sumOf_cons, Sparse.sumOf_cons, Sparse.sumOf_insert hrest hv]

theorem Sparse.sumOf_erase : ∀ {lo : Option Nat} {m : Sparse α}, Sparse.sortedAbove lo m = true →
    c (Sparse.get d m k) = 0 → Sparse.sumOf c (Sparse.erase m k) = Sparse.sumOf c m
  | _, [], _, _ => rfl
  | lo, (j, w) :: m, h, hv => by
    simp only [Sparse.sortedAbove, Bool.and_eq_true] at h
    obtain ⟨-, hrest⟩ := h
    by_cases hk : k = j
    · rw [Sparse.get, if_pos hk] at hv
      have hgone : Sparse.erase ((j, w) :: m) k = Sparse.erase m k := List.filter_cons_of_neg (by simp [hk])
      rw [hgone, Sparse.sumOf_cons, hv, Nat.zero_add,
        Sparse.sumOf_erase hrest (by rw [Sparse.get_of_sortedAbove hk.le hrest, hd])]
    · rw [Sparse.get, if_neg hk] at hv
      have hkept : Sparse.erase ((j, w) :: m) k = (j, w) :: Sparse.erase m k :=
        List.filter_cons_of_pos (by simpa using Ne.symm hk)
      rw [hkept, Sparse.sumOf_cons, Sparse.sumOf_cons, Sparse.sumOf_erase hrest hv]

theorem Sparse.sumOf_set [DecidableEq α] {v : α} {m : Sparse α} (hwf : Sparse.wf d m = true)
    (hv : c v = c (Sparse.get d m k)) : Sparse.sumOf c (Sparse.set d m k v) = Sparse.sumOf c m := by
  simp only [Sparse.wf, Bool.and_eq_true] at hwf
  obtain ⟨hsorted, -⟩ := hwf
  unfold Sparse.set
  split
  · next hdef => exact Sparse.sumOf_erase hd hsorted (by rw [← hv, hdef, hd])
  · exact Sparse.sumOf_insert hd hsorted hv

end

/-- Descriptors of a queue that have taken a number of a group. -/
def QState.numbered (gi : Nat) (x : QState) : Nat := (x.progs.filter fun p => p.coll == some gi).length

theorem unrecorded_eq (gi : Nat) (s : State) : unrecorded gi s = Sparse.sumOf (QState.numbered gi) s.queues := rfl

/-- From s to t the list of queues stays in canonical form, and as many descriptors have taken a number. -/
def KeepsNumbers (gi : Nat) (s t : State) : Prop :=
  Sparse.wf {} s.queues = true → Sparse.wf {} t.queues = true ∧ unrecorded gi t = unrecorded gi s

theorem KeepsNumbers.trans {gi : Nat} {s t u : State} (hst : KeepsNumbers gi s t) (htu : KeepsNumbers gi t u) :
    KeepsNumbers gi s u := by
  intro hwf
  obtain ⟨hwf', hnumber⟩ := hst hwf
  obtain ⟨hwf'', hnumber'⟩ := htu hwf'
  exact ⟨hwf'', hnumber'.trans hnumber⟩

theorem keepsNumbers_of_queues {gi : Nat} {s t : State} (h : t.queues = s.queues) : KeepsNumbers gi s t := fun hwf =>
  ⟨h ▸ hwf, by rw [unrecorded, h]; rfl⟩

theorem modQueue_keepsNumbers {gi : Nat} {f : QState → QState} (h : ∀ x, (f x).numbered gi = x.numbered gi) (q : Nat)
    (s : State) : KeepsNumbers gi s (s.modQueue q f) := fun hwf =>
  ⟨Sparse.wf_set _ _ _ _ hwf, Sparse.sumOf_set (c := QState.numbered gi) rfl hwf (h _)⟩

theorem endUnstarted_keepsNumbers (gi q : Nat) (f : Fetched) (st : BitVec 16) (s : State) :
    KeepsNumbers gi s (endUnstarted q f st s) := by
  have hdrawn : KeepsNumbers gi s (freshWord s).2 := keepsNumbers_of_queues (by simp)
  refine hdrawn.trans (modQueue_keepsNumbers (fun x => ?_) q _)
  simp [QState.numbered, endedProg, newProg]

theorem queueHalt_keepsNumbers (gi q : Nat) (c : Byte) (s : State) : KeepsNumbers gi s (queueHalt q c s) := by
  unfold queueHalt
  split
  · have hhalted : KeepsNumbers gi s (s.modQueue q fun x => { x with mode := .halted, cause := c }) :=
      modQueue_keepsNumbers (by intro _; rfl) q s
    exact hhalted.trans (keepsNumbers_of_queues (by simp))
  · exact keepsNumbers_of_queues rfl

theorem settleHead_keepsNumbers (gi q : Nat) (s : State) : KeepsNumbers gi s (settleHead q s) := by
  have hended (c : Byte) (f : Fetched) (rest : List Fetched) (st : BitVec 16) : KeepsNumbers gi s
      (queueHalt q c (endUnstarted q f st (s.modQueue q fun x => { x with window := rest }))) := by
    have hpopped : KeepsNumbers gi s (s.modQueue q fun x => { x with window := rest }) :=
      modQueue_keepsNumbers (by intro _; rfl) q s
    exact (hpopped.trans (endUnstarted_keepsNumbers gi q f st _)).trans (queueHalt_keepsNumbers gi q c _)
  unfold settleHead
  dsimp only
  split
  · exact keepsNumbers_of_queues rfl
  split
  · exact keepsNumbers_of_queues rfl
  split
  · exact hended _ _ _ _
  split
  · exact hended _ _ _ _
  · exact keepsNumbers_of_queues rfl

/-- A descriptor that starts has taken no number yet. -/
theorem running_keepsNumbers (gi : Nat) (q : QueueId) (f : Fetched) (rest : List Fetched) (s : State) :
    KeepsNumbers gi s (running q f rest s) := by
  obtain ⟨hqueues, -⟩ := running_fields q f rest s
  have hstarted : KeepsNumbers gi s (started q f rest s) := by
    refine .trans (.trans (keepsNumbers_of_queues ?_) (modQueue_keepsNumbers (fun x => ?_) _ _))
      (settleHead_keepsNumbers _ _ _)
    · rfl
    · simp [QState.numbered, newProg]
  exact hstarted.trans (keepsNumbers_of_queues hqueues)

/-- Run r is in progress, its group is as it was, and descriptor f stands in it. -/
def Entered (q : QueueId) (f : Fetched) (g : GroupSt) (r : CollRun) (s u : State) : Prop :=
  u.coll.runs = s.coll.runs ++ [r] ∧ u.group (cGroup f.w) = some g
    ∧ ∃ p, u.prog q.val f.n = some p ∧ p.coll = some (cGroup f.w) ∧ p.w = f.w

/-- Where the queues are listed in canonical form, the number is the one that the group gave before the start, and what
O21 says holds. -/
theorem collective_enters_of_canonical {q : QueueId} {c : Instr} {op : Nat} {f : Fetched} {rest : List Fetched}
    {g : GroupSt} {s : State} (hwf : Sparse.wf {} s.queues = true) (hc : (c, op) ∈ collCommands q)
    (h : CollStarts q op f rest s) (hg : s.group (cGroup f.w) = some g)
    (hnotice : s.coll.heldAborts.find? (fun a => a.group == cGroup f.w && a.seq == takesSeq (cGroup f.w) g s) = none)
    (hwhole : lostMember g s = none) :
    let r := newRun ⟨q.val, f.n⟩ f.w g (takesSeq (cGroup f.w) g s) s.now
    (s.now < r.startTime → Yields c s (Entered q f g r s))
    ∧ (r.startTime ≤ s.now → Yields c s fun t => ∃ u, t = launchRound r u ∧ Entered q f g r s u) := by
  intro r
  obtain ⟨-, hnumber⟩ := running_keepsNumbers (cGroup f.w) q f rest s hwf
  have hrun : enteringRun q f rest g s = r := by rw [enteringRun, takesSeq, hnumber]; rfl
  have hexec := exec_collective_of_clear hc h hg hrun hnotice hwhole
  obtain ⟨-, -, -, -, hcoll, -⟩ := running_fields q f rest s
  have hentered : Entered q f g r s (withRun r (running q f rest s)) := by
    refine ⟨by rw [withRun_coll, hcoll], by rw [withRun_group, State.group, hcoll]; exact hg, _,
      withRun_prog (running_prog h.startable), rfl, rfl⟩
  refine ⟨fun hearly => ?_, fun hdue => ?_⟩
  · rw [if_pos hearly] at hexec
    exact ⟨_, hexec, hentered⟩
  · rw [if_neg (not_lt.2 hdue)] at hexec
    exact ⟨_, hexec, _, rfl, hentered⟩

/-! ## A list of queues that is not in canonical form -/

/-- A BARRIER of group 0 that waits for device time 5. -/
def laterBarrier : DWords := [w64 (opBarrier * 2 ^ 48), 0, 0, 0, 0, 0, 5, 0]

/-- Queue 0 of collective engine 0: one BARRIER has taken its number, the next is at the head of the window. -/
def barrierQueue : QState where
  engine := 0x40
  mode := .active
  window := [⟨1, laterBarrier, false⟩]
  progs := [{ newProg 0 laterBarrier 1 0 with coll := some 0 }]

/-- A group of this node alone. -/
def soloGroup : GroupSt := ⟨false, 0, 0, 0, 10, [5], 0⟩

/-- A package that lists queue 0 behind queue 1, with group 0 of one member. -/
def misplacedQueue : State where
  queues := [(1, {}), (0, barrierQueue)]
  coll := { groups := [(0, some soloGroup)] }

theorem misplacedQueue_starts : CollStarts 0 opBarrier ⟨1, laterBarrier, false⟩ [] misplacedQueue where
  startable := by unfold Startable; decide +kernel
  permitted := .inl (by decide +kernel)
  formed := by decide +kernel
  engine := by decide +kernel
  slot := by decide +kernel
  free := by decide +kernel

/-- The start writes queue 0 in front of queue 1 and leaves its old entry behind, so its BARRIER is counted twice. -/
theorem misplacedQueue_numbers : takesSeq 0 soloGroup misplacedQueue = 1
    ∧ takesSeq 0 soloGroup (running 0 ⟨1, laterBarrier, false⟩ [] misplacedQueue) = 2 := by
  decide +kernel

/-- Refutes O21: it asks no canonical form of the list of queues. In `misplacedQueue` queue 0 stands behind queue 1, which the
canonical form that every write keeps (`Sparse.wf_set`) rules out; there the start of a BARRIER leaves an old entry of its
queue in the list, and it enters with another number than its group gave before. Where the list is in canonical form what
O21 says holds (`collective_enters_of_canonical`). -/
theorem not_collectivesEnterTheirGroup : ¬ Obligations.CollectivesEnterTheirGroup := by
  unfold Obligations.CollectivesEnterTheirGroup
  intro h
  have hstarts := misplacedQueue_starts
  have hc : (Instr.barrier 0, opBarrier) ∈ collCommands 0 := by simp [collCommands]
  obtain ⟨-, henters⟩ := h 0 misplacedQueue ⟨1, laterBarrier, false⟩ [] (.barrier 0) opBarrier hc hstarts.startable
    hstarts.permitted hstarts.formed hstarts.engine hstarts.slot hstarts.free
  obtain ⟨-, hearly, -⟩ := henters soloGroup (by decide) rfl (by decide)
  obtain ⟨t, hexec, hruns, -⟩ := hearly (by decide)
  have hentered := exec_collective_of_clear (g := soloGroup) hc hstarts (by decide) rfl rfl (by decide)
  rw [if_pos (by decide)] at hentered
  obtain rfl := Host.Outcome.next.inj (hexec.symm.trans hentered)
  obtain ⟨-, -, -, -, hcoll, -⟩ := running_fields 0 ⟨1, laterBarrier, false⟩ [] misplacedQueue
  rw [withRun_coll, hcoll] at hruns
  obtain ⟨hrun, -⟩ := List.cons.inj (List.append_cancel_left hruns)
  obtain ⟨hbefore, hafter⟩ := misplacedQueue_numbers
  exact absurd (hafter.symm.trans ((congrArg CollRun.seq hrun).trans hbefore)) (by decide)

end Sys2Proof.Machine
end

section
/-! Proofs about collectives that proceed and end (spec 11 R255-R264): what messages between members, Tally records and
destinations leave of the descriptor, its end, the messages and timers of a group, and O22. -/

namespace Sys2Proof.Machine

/-! ## A descriptor that is under way -/

theorem UnderWay.congr {q n : Nat} {s t : State} (h : UnderWay q n s) (hqueues : t.queues = s.queues) : UnderWay q n t := by
  obtain ⟨p, hp, hphase⟩ := h
  exact ⟨p, by rw [State.prog, State.queue_congr hqueues]; exact hp, hphase⟩

/-- Its own accesses leave a descriptor under way. -/
theorem UnderWay.of_copyStands {q n : Nat} {s t : State} (h : UnderWay q n s) (hstands : CopyStands q n s t) :
    UnderWay q n t := by
  obtain ⟨p, hp, hphase⟩ := h
  obtain ⟨b, hb⟩ := hstands.prog p hp
  exact ⟨_, hb, hphase⟩

theorem endProg_endsWith {q n : Nat} {s : State} (h : UnderWay q n s) (st : BitVec 16) (result : W64) :
    EndsWith q n st result (endProg q n st result s) := by
  obtain ⟨p, hp, hphase⟩ := h
  rw [EndsWith, endProg, prog_modProg (fun _ => by split <;> rfl), hp, Option.map_some, if_neg hphase]
  exact ⟨_, rfl, rfl, rfl, rfl⟩

/-! ## The writes of a collective (R250, R262) -/

theorem writeSegs_copyStands (q n eng : Nat) (streaming : Bool) :
    ∀ (segs : List (Nat × Nat)) (bs : List (Byte × Bool)) (s : State),
      CopyStands q n s (writeSegs eng streaming (.desc ⟨q, n⟩) segs bs s)
  | [], _, s => .refl q n s
  | (a, len) :: rest, bs, s =>
    (physWrite_copyStands q n eng a (bs.take len) streaming s).trans (writeSegs_copyStands q n eng streaming rest _ _)

theorem vaWrite_copyStands (q n eng va : Nat) (bs : List (Byte × Bool)) (streaming : Bool) (s : State) :
    CopyStands q n s (vaWrite eng va bs streaming (.desc ⟨q, n⟩) s).2 := by
  have hxlt : CopyStands q n s (translateAll eng va bs.length true s).2.2 := copyStands_of_eq
  unfold vaWrite
  split
  · next h =>
    rw [h] at hxlt
    exact hxlt.trans (writeSegs_copyStands ..)
  · next h =>
    rw [h] at hxlt
    exact hxlt

theorem freshBytes_copyStands (q n k : Nat) (s : State) : CopyStands q n s (freshBytes k s).2 := copyStands_of_eq

theorem freeRange_copyStands (q n eng : Nat) : ∀ (fuel va len : Nat) (s : State),
    CopyStands q n s (freeRange eng (.desc ⟨q, n⟩) fuel va len s)
  | 0, _, _, s => .refl q n s
  | fuel + 1, va, len, s => by
    unfold freeRange
    split
    · exact .refl q n s
    · exact ((freshBytes_copyStands ..).trans (vaWrite_copyStands ..)).trans (freeRange_copyStands q n eng fuel _ _ _)

theorem freeDest_copyStands (r : CollRun) (g : GroupSt) (s : State) : CopyStands r.id.q r.id.n s (freeDest r g s) := by
  unfold freeDest
  dsimp only
  split
  · exact .refl _ _ s
  split
  · exact freeRange_copyStands ..
  · exact (freshBytes_copyStands ..).trans (writeSegs_copyStands ..)

theorem writeDest_copyStands (r : CollRun) (g : GroupSt) (s : State) : CopyStands r.id.q r.id.n s (writeDest r g s) := by
  unfold writeDest
  dsimp only
  split
  · exact (freshBytes_copyStands ..).trans (writeSegs_copyStands ..)
  · exact writeSegs_copyStands ..

theorem writeTally_copyStands (gi e : Nat) (id : DescId) (s : State) :
    CopyStands id.q id.n s (writeTally gi e (.desc id) s).2 := by
  unfold writeTally
  split
  · split
    · exact .refl _ _ s
    · next h => exact copyStands_of_result (vaWrite_copyStands ..) h
  · exact .refl _ _ s

theorem setTally_queues (gi e : Nat) (t : Tally) (s : State) : (setTally gi e t s).queues = s.queues := rfl

theorem tallyFailed_underWay (r : CollRun) (e : Nat) (mismatch : Bool) {s : State} (h : UnderWay r.id.q r.id.n s) :
    UnderWay r.id.q r.id.n (tallyFailed r e mismatch s) := by
  unfold tallyFailed
  dsimp only
  split
  · next hwritten =>
    exact (h.congr (setTally_queues ..)).of_copyStands (copyStands_of_result (writeTally_copyStands ..) hwritten)
  · exact h.congr rfl

/-! ## Ends (R245, R258, R259, R264) -/

/-- Every entry of a run has ended. -/
def RunOver (id : DescId) (s : State) : Prop := ∀ x ∈ s.coll.runs, x.id = id → x.phase = .ended

/-- The state in which a run and its descriptor have ended; the final records of its queue follow. -/
def withEnd (r : CollRun) (st : BitVec 16) (result : W64) (s : State) : State :=
  endProg r.id.q r.id.n st result (dropHeld r.group r.seq (modRun r.id (fun r => { r with phase := .ended }) s))

theorem endRun_eq (r : CollRun) (st : BitVec 16) (result : W64) (s : State) :
    endRun r st result s = finishQueue r.id.q (withEnd r st result s) := rfl

theorem withEnd_endsWith {r : CollRun} {s : State} (h : UnderWay r.id.q r.id.n s) (st : BitVec 16) (result : W64) :
    EndsWith r.id.q r.id.n st result (withEnd r st result s) := endProg_endsWith (h.congr rfl) st result

theorem withEnd_runOver (r : CollRun) (st : BitVec 16) (result : W64) (s : State) :
    RunOver r.id (withEnd r st result s) := by
  have hruns : (withEnd r st result s).coll.runs
      = s.coll.runs.map fun x => if x.id = r.id then { x with phase := .ended } else x := rfl
  intro x hx hid
  rw [hruns, List.mem_map] at hx
  obtain ⟨y, -, rfl⟩ := hx
  split at hid
  · next h => rw [if_pos h]
  · next h => exact absurd hid h

theorem withEnd_tally (r : CollRun) (st : BitVec 16) (result : W64) (s : State) (gi : Nat) :
    (withEnd r st result s).tally gi = s.tally gi := rfl

/-- An end other than DONE leaves the descriptor ended; an APPLY of its sums follows it. -/
theorem endEarly_effect {r : CollRun} {g : GroupSt} {s : State} (hg : s.group r.group = some g)
    (h : UnderWay r.id.q r.id.n s) (st : BitVec 16) (member : Nat) (c : AbortCause) :
    ∃ u, endEarly r st member c s = applyFollows r g.engine st (finishQueue r.id.q u)
      ∧ EndsWith r.id.q r.id.n st (failResult r member) u ∧ RunOver r.id u := by
  have hsent : UnderWay r.id.q r.id.n (sendAborts r g c s) := h.congr (by simp [sendAborts, sendColl])
  have hfreed : UnderWay r.id.q r.id.n (if (r.phase == .data || r.phase == .closed) && c != .mismatch then
      freeDest r g (sendAborts r g c s) else sendAborts r g c s) := by
    split
    · exact hsent.of_copyStands (freeDest_copyStands ..)
    · exact hsent
  rw [endEarly, hg]
  exact ⟨_, rfl, withEnd_endsWith (tallyFailed_underWay r g.engine _ hfreed) _ _, withEnd_runOver _ _ _ _⟩

/-- The count of collectives that have ended DONE, once this one's record is in Tally. -/
theorem setTally_doneCount (r : CollRun) (self e : Nat) (s : State) :
    ((setTally r.group e (tallyAfter r self (s.tally r.group)) s).tally r.group).doneCount
      = min ((s.tally r.group).doneCount + 1) (2 ^ 64 - 1) := by
  have hset (t : Tally) : (setTally r.group e t s).tally r.group
      = { t with ovf := t.ovf ||| tallyOvf t, binOvf := t.binOvf ||| tallyBinOvf t } := Sparse.get_set_self ..
  rw [hset]
  rfl

theorem tallyDone_effect {r : CollRun} {self e : Nat} {s s1 : State} (h : UnderWay r.id.q r.id.n s)
    (hdone : tallyDone r self e s = (true, s1)) :
    UnderWay r.id.q r.id.n s1
      ∧ (s1.tally r.group).doneCount = min ((s.tally r.group).doneCount + 1) (2 ^ 64 - 1) := by
  have hstands := copyStands_of_result (writeTally_copyStands r.group e r.id _) hdone
  refine ⟨(h.congr (setTally_queues ..)).of_copyStands hstands, ?_⟩
  rw [State.tally, hstands.coll]
  exact setTally_doneCount r self e s

/-- A collective that ends DONE: its descriptor has ended with its RESULT, and Tally counts it. -/
theorem endDone_effect {r : CollRun} {g : GroupSt} {s s1 : State} (h : UnderWay r.id.q r.id.n s)
    (hdone : tallyDone r g.self g.engine (modRun r.id (fun x =>
      { x with slowBefore := ((s.tally r.group).slowest, (s.tally r.group).slowestLate) }) s) = (true, s1)) :
    ∃ u, endDone r g s = finishQueue r.id.q u ∧ EndsWith r.id.q r.id.n stDone (doneResult r g) u ∧ RunOver r.id u
      ∧ (u.tally r.group).doneCount = min ((s.tally r.group).doneCount + 1) (2 ^ 64 - 1) := by
  obtain ⟨hunder, hcount⟩ := tallyDone_effect (h.congr (by rfl)) hdone
  have hwritten : CopyStands r.id.q r.id.n s1 (if dstLen r g = 0 then s1 else writeDest r g s1) := by
    split
    · exact .refl _ _ s1
    · exact writeDest_copyStands ..
  rw [endDone]
  simp only [hdone, endRun_eq]
  refine ⟨_, rfl, withEnd_endsWith (hunder.of_copyStands hwritten) _ _, withEnd_runOver _ _ _ _, ?_⟩
  rw [withEnd_tally, State.tally, hwritten.coll]
  exact hcount

/-! ## The runs of a group -/

theorem runSeq_some {s : State} {gi : Nat} {seq : BitVec 20} {r : CollRun} (h : s.runSeq gi seq = some r) :
    r.group = gi ∧ r.seq = seq := by simpa using List.find?_some h

theorem runIn_some {s : State} {gi : Nat} {ph : CollPhase} {r : CollRun} (h : s.runIn gi ph = some r) :
    r.group = gi ∧ r.phase = ph := by simpa using List.find?_some h

/-! ## The signature round (R255, R256, R260) -/

/-- A signature message waits to be taken. -/
def holdSig (m : SigMsg) (s : State) : State := { s with coll := { s.coll with heldSigs := s.coll.heldSigs ++ [m] } }

theorem exec_signatureMessage_of_open {m : SigMsg} {s : State} {r : CollRun} (hp : powered s = true)
    (hr : s.runSeq m.group.val m.seq = some r) (hopen : r.phase = .signing ∨ r.phase = .waiting) :
    exec (.signatureMessage m) s
      = .next (advanceRound r.id (roundFuel m.group.val (holdSig m s)) (holdSig m s)) := by
  change execSignatureMessage m s = _
  rw [execSignatureMessage, if_neg (by simp [hp])]
  simp only [hr, if_pos hopen, holdSig]

theorem exec_signatureMessage_of_none {m : SigMsg} {s : State} (hp : powered s = true)
    (hr : s.runSeq m.group.val m.seq = none) :
    exec (.signatureMessage m) s = .next (if seqNext m.group.val m.seq s then holdSig m s else s) := by
  change execSignatureMessage m s = _
  rw [execSignatureMessage, if_neg (by simp [hp])]
  simp only [hr, holdSig]

theorem roundFuel_of_group {gi : Nat} {g : GroupSt} {s : State} (h : s.group gi = some g) :
    roundFuel gi s = roundsOf g.members.length + 1 := by rw [roundFuel, h]

theorem advanceRound_of_closed {id : DescId} {r : CollRun} {s : State} (hr : s.runOf id = some r)
    (hphase : r.phase ≠ .signing) : ∀ fuel, advanceRound id fuel s = s
  | 0 => rfl
  | fuel + 1 => by
    rw [advanceRound, hr]
    dsimp only
    split
    · rfl
    · rw [if_pos hphase]

/-- The message m that the open round of run r waits for, in group g. -/
structure Awaits (r : CollRun) (g : GroupSt) (m : SigMsg) : Prop where
  signing : r.phase = .signing
  notLast : r.round < roundsOf g.members.length
  group : m.group.val = r.group
  seq : m.seq = r.seq
  round : m.round = r.round
  src : m.src = (g.self + g.members.length - 2 ^ r.round % g.members.length) % g.members.length

/-- That message is taken, and the next round is sent. -/
theorem advanceRound_of_awaited {r : CollRun} {g : GroupSt} {m : SigMsg} {s : State} (hr : s.runOf r.id = some r)
    (hg : s.group r.group = some g) (h : Awaits r g m) (honly : s.coll.heldSigs = [m]) (fuel : Nat) :
    advanceRound r.id (fuel + 1) s = advanceRound r.id fuel (sendRound r.id (modRun r.id (takeSig m)
      { s with coll := { s.coll with heldSigs := [] } })) := by
  rw [advanceRound, hr]
  simp [hg, h.signing, not_le.2 h.notLast, honly, h.group, h.seq, h.round, h.src]

/-! ## The data phase and its end (R251, R258, R264) -/

/-- A data message waits for its data phase. -/
def holdData (m : DataMsg) (s : State) : State := { s with coll := { s.coll with heldData := s.coll.heldData ++ [m] } }

theorem exec_dataMessage_of_data {m : DataMsg} {s : State} {r : CollRun} (hp : powered s = true)
    (hr : s.runSeq m.group.val m.seq = some r) (hdata : r.phase = .data) :
    exec (.collectiveDataMessage m) s
      = .next (runData r.id (modRun r.id (fun r => { r with got := r.got ++ [m], heard := s.now }) s)) := by
  change execCollectiveDataMessage m s = _
  rw [execCollectiveDataMessage, if_neg (by simp [hp])]
  simp only [hr, if_pos hdata]

theorem exec_dataMessage_of_early {m : DataMsg} {s : State} {r : CollRun} (hp : powered s = true)
    (hr : s.runSeq m.group.val m.seq = some r) (hdata : r.phase ≠ .data) (hended : r.phase ≠ .ended) :
    exec (.collectiveDataMessage m) s = .next (holdData m s) := by
  change execCollectiveDataMessage m s = _
  rw [execCollectiveDataMessage, if_neg (by simp [hp])]
  simp only [hr, if_neg hdata, if_neg hended, holdData]

theorem exec_abortNotice_of_run {g : GroupId} {seq : BitVec 20} {s : State} {r : CollRun} (hp : powered s = true)
    (hr : s.runSeq g.val seq = some r) (hended : r.phase ≠ .ended) (src : Nat) (c : AbortCause) :
    exec (.abortNotice g seq src c) s
      = .next (startNext g.val (endEarly r (abortStatus c) (noticeMember r src c) c s)) := by
  change execAbortNotice g seq src c s = _
  rw [execAbortNotice, if_neg (by simp [hp])]
  simp only [hr, if_neg hended]

theorem exec_abortNotice_of_next {g : GroupId} {seq : BitVec 20} {s : State} (hp : powered s = true)
    (hr : s.runSeq g.val seq = none) (hnext : seqNext g.val seq s = true) (src : Nat) (c : AbortCause) :
    exec (.abortNotice g seq src c) s = .next { s with coll := { s.coll with
      heldAborts := s.coll.heldAborts ++ [⟨g.val, seq, src, c⟩] } } := by
  change execAbortNotice g seq src c s = _
  rw [execAbortNotice, if_neg (by simp [hp])]
  simp only [hr, if_pos hnext]

theorem exec_memberTimeout_of_overdue {g : GroupId} {gs : GroupSt} {member : Nat} {s : State} {r : CollRun}
    (hp : powered s = true) (hg : s.group g.val = some gs)
    (hr : (s.coll.runs.find? fun r => r.group == g.val && r.phase != .ended && memberOverdue r gs member s) = some r) :
    exec (.memberTimeout g member) s = .next (startNext g.val (endEarly r stMemberTimeout member .timeout s)) := by
  change execMemberTimeout g member s = _
  rw [execMemberTimeout, if_neg (by simp [hp])]
  simp only [hg, hr]

theorem exec_collectiveDone_of_complete {g : GroupId} {gs : GroupSt} {s : State} {r : CollRun} (hp : powered s = true)
    (hg : s.group g.val = some gs) (hr : s.runIn g.val .data = some r) (hdone : dataComplete r = true)
    (hsink : sinkLeft r gs = 0) : exec (.collectiveDone g) s = .next (startNext g.val (endDone r gs s)) := by
  change execCollectiveDone g s = _
  rw [execCollectiveDone, clocked_of_powered hp, collDone, hr, hg]
  simp [hdone, hsink]

theorem exec_startTime_of_due {g : GroupId} {s : State} {r : CollRun} (hp : powered s = true)
    (hr : s.runIn g.val .waiting = some r) (hdue : r.startTime ≤ s.now) :
    exec (.collectiveStartTime g) s = .next (launchRound r s) := by
  change execCollectiveStartTime g s = _
  rw [execCollectiveStartTime, if_neg (by simp [hp])]
  simp only [hr, if_pos hdue]

/-! ## O22 -/

/-- Settles O22: each message and timer does what its `exec_` lemma above says; the writes of an end leave its descriptor
under way (`UnderWay.of_copyStands`), so it ends with the status that `endEarly_effect` and `endDone_effect` give. -/
theorem collectivesProceedAndEnd : Obligations.CollectivesProceedAndEnd := by
  unfold Obligations.CollectivesProceedAndEnd
  intro g s gs hp hg marks gone held kept
  refine ⟨?start, ?message, ?early, ?awaited, ?next, ?other, ?data, ?dataHeld, ?abort, ?abortHeld, ?overdue, ?done⟩
  case start =>
    intro r hr hdue
    exact ⟨_, exec_startTime_of_due hp hr hdue, rfl, _, _, rfl, rfl, rfl⟩
  case message =>
    rintro r m rfl hr hopen
    rw [exec_signatureMessage_of_open hp hr hopen, roundFuel_of_group (s := holdSig m s) hg]
    rfl
  case early =>
    rintro r m rfl hr hrun hphase
    exact ⟨_, exec_signatureMessage_of_open hp hr (.inr hphase),
      advanceRound_of_closed (s := holdSig m s) hrun (by simp [hphase]) _⟩
  case awaited =>
    rintro r m n rfl hr hrun hphase hround hmround hsrc hnone
    obtain ⟨hgroup, hseq⟩ := runSeq_some hr
    have hawaits : Awaits r gs m := ⟨hphase, hround, hgroup.symm, hseq.symm, hmround, hsrc⟩
    have honly : (holdSig m s).coll.heldSigs = [m] := by simp [holdSig, hnone]
    have hexec := exec_signatureMessage_of_open hp hr (.inl hphase)
    rw [roundFuel_of_group (s := holdSig m s) hg,
      advanceRound_of_awaited (s := holdSig m s) hrun (hgroup ▸ hg) hawaits honly] at hexec
    exact ⟨_, hexec, _, _, rfl, rfl, rfl, rfl⟩
  case next =>
    rintro m rfl hr hnext
    exact ⟨_, exec_signatureMessage_of_none hp hr, if_pos hnext⟩
  case other =>
    rintro m rfl hr hnext
    rw [exec_signatureMessage_of_none hp hr, hnext]
    rfl
  case data =>
    rintro r m rfl hr hdata
    exact ⟨_, exec_dataMessage_of_data hp hr hdata, _, rfl, rfl, rfl⟩
  case dataHeld =>
    rintro m rfl ⟨r, hr, hdata, hended⟩
    exact ⟨_, exec_dataMessage_of_early hp hr hdata hended, rfl⟩
  case abort =>
    intro seq src c r hr hended hunder
    obtain ⟨hgroup, -⟩ := runSeq_some hr
    obtain ⟨u, hu, hends, hover⟩ := endEarly_effect (hgroup ▸ hg) hunder (abortStatus c) (noticeMember r src c) c
    have hexec := exec_abortNotice_of_run hp hr hended src c
    exact ⟨hexec, _, hexec, u, by rw [hu], hends, hover⟩
  case abortHeld =>
    intro seq src c hr hnext
    exact ⟨_, exec_abortNotice_of_next hp hr hnext src c, rfl⟩
  case overdue =>
    intro member r hr hunder
    have hfound := List.find?_some hr
    simp only [Bool.and_eq_true, beq_iff_eq] at hfound
    obtain ⟨⟨hgroup, -⟩, -⟩ := hfound
    obtain ⟨u, hu, hends, hover⟩ := endEarly_effect (hgroup ▸ hg) hunder stMemberTimeout member .timeout
    exact ⟨_, exec_memberTimeout_of_overdue hp hg hr, u, by rw [hu], hends, hover⟩
  case done =>
    intro r s1 hr hdone hsink hunder htally
    obtain ⟨hgroup, -⟩ := runIn_some hr
    obtain ⟨u, hu, hends, hover, hcount⟩ := endDone_effect hunder (hgroup ▸ htally)
    exact ⟨_, exec_collectiveDone_of_complete hp hg hr hdone hsink, u, by rw [hu], hends, hover, hgroup ▸ hcount⟩

end Sys2Proof.Machine
end

section
/-! Proofs about the mailbox commands for groups (spec 11 R246, R247, R262, 18 Table 18-18), and O24. -/

namespace Sys2Proof.Machine

/-! ## What an answered command leaves of the groups -/

@[simp] theorem answer_coll (c : MCmd) (pay : List Byte) (s : State) : (answer c pay s).coll = s.coll := by simp [answer]

/-- A command served alone that is answered: its mailbox holds the answer, and groups, collectives and Tally are as its
meaning left them. -/
theorem yields_answer {i : Instr} {m : MbxId} {id : Nat} {f : MCmd → State → State} {s t : State} {pay : List Byte}
    (hexec : exec i s = .next (serve m id f s)) (h : Served m id s) (hf : f (cmdAt m s) (taken s) = answer (cmdAt m s) pay t)
    (ho : t.mgr.order = []) :
    Yields i s fun u => Answered m (cmdAt m s).tag mbxOk 0 pay u ∧ u.coll = t.coll := by
  obtain ⟨hserve, hanswered⟩ := serve_answered h hf ho
  exact ⟨_, hexec.trans (congrArg _ hserve), hanswered, answer_coll ..⟩

theorem Yields.imp {i : Instr} {s : State} {P Q : State → Prop} (h : Yields i s P) (himp : ∀ t, P t → Q t) :
    Yields i s Q := by
  obtain ⟨t, hexec, hP⟩ := h
  exact ⟨t, hexec, himp t hP⟩

theorem group_of_set {s t : State} {g : Nat} {x : Option GroupSt} (h : t.coll.groups = Sparse.set none s.coll.groups g x)
    (k : Nat) : t.group k = if k = g then x else s.group k := by
  rw [State.group, h, Sparse.get_set]
  rfl

theorem tally_of_set {s t : State} {g : Nat} {x : Tally} (h : t.coll.tallies = Sparse.set {} s.coll.tallies g x) (k : Nat) :
    t.tally k = if k = g then x else s.tally k := by
  rw [State.tally, h, Sparse.get_set]
  rfl

@[simp] theorem taken_coll (s : State) : (taken s).coll = s.coll := rfl

theorem groupBusy_taken (g : Nat) (s : State) : groupBusy g (taken s) = groupBusy g s := rfl

theorem groupRuns_taken (g : Nat) (s : State) : groupRuns g (taken s) = groupRuns g s := rfl

section
variable {m : MbxId} {s : State}

/-! ## GROUP_TABLE_SET (R246) -/

theorem groupTableSet_pass {c : MCmd} (halign : c.le 0 8 % 4096 = 0) (htable : c.le 0 8 < 2 ^ 52)
    (htally : c.le 8 8 < 2 ^ 52) (hnone : groupsLoaded s = false) :
    groupTableSet c s = answer c [] (s.modColl fun x => { x with table := some (c.le 0 8, c.le 8 8) }) :=
  checked_pass _ _ _ _ _ _ (pass_cons (by simpa [halign] using htable) (pass_cons (by simpa using htally) pass_nil)) pass_nil
    (pass_cons hnone pass_nil)

theorem yields_groupTableSet (h : Served m 0x0A01 s) (halign : (cmdAt m s).le 0 8 % 4096 = 0)
    (htable : (cmdAt m s).le 0 8 < 2 ^ 52) (htally : (cmdAt m s).le 8 8 < 2 ^ 52) (hnone : groupsLoaded s = false) :
    Yields (.groupTableSet m) s fun t => Answered m (cmdAt m s).tag mbxOk 0 [] t
      ∧ t.coll = { s.coll with table := some ((cmdAt m s).le 0 8, (cmdAt m s).le 8 8) } :=
  yields_answer rfl h (groupTableSet_pass (s := taken s) halign htable htally hnone) rfl

/-! ## GROUP_LOAD (R247) -/

/-- The nodes that the bytes of a member list name. -/
def memberList (n : Nat) (bs : List Byte) : List NodeId := (List.range n).map fun k => BitVec.ofNat 16 (leAt bs (2 * k) 2)

/-- Group g may be loaded from its entry e and the bytes bs of its list, with this node at its place. -/
structure Loadable (g : Nat) (e : GroupEntry) (bs : List Byte) (s s1 s2 : State) : Prop where
  entry : readGroupEntry g s = (some e, s1)
  valid : e.valid = true
  inRange : e.inRange = true
  unloaded : s.group g = none
  list : pinnedRead e.listVa (2 * e.members) s1 = (some bs, s2)
  distinct : (memberList e.members bs).Nodup
  place : e.self < e.members
  self : (memberList e.members bs).getD e.self 0xFFFF = s.node
  node : s.node ≠ 0xFFFF

section
variable {g : Nat} {e : GroupEntry} {bs : List Byte} {s s1 s2 : State} (h : Loadable g e bs s s1 s2)
include h

/-- Reading the entry and the list changes neither the groups nor the manager nor the node's number. -/
theorem Loadable.reads : s1.coll = s.coll ∧ s2.coll = s.coll ∧ s2.mgr = s.mgr ∧ s2.node = s.node := by
  have h1 : s1 = (readGroupEntry g s).2 := by rw [h.entry]
  have h2 : s2 = (pinnedRead e.listVa (2 * e.members) s1).2 := by rw [h.list]
  subst h2 h1
  simp

theorem groupLoad_pass {c : MCmd} (hg : c.le 0 2 = g) (hmax : g ≤ 4095) :
    groupLoad c s = answer c [] (s2.modColl fun x => { x with
      groups := Sparse.set none x.groups g (some (e.load (memberList e.members bs))) }) := by
  obtain ⟨hcoll1, -, -, hnode⟩ := h.reads
  have hunloaded : s1.group g = none := by
    rw [State.group, hcoll1]
    exact h.unloaded
  unfold groupLoad
  simp only [hg]
  rw [checked_pass _ _ _ _ _ _ (pass_cons (by simpa using hmax) pass_nil) pass_nil pass_nil]
  simp only [h.entry]
  rw [checked_pass _ _ _ _ _ _ (pass_cons (by simp [h.inRange]) pass_nil) pass_nil
    (pass_cons (by simp [h.valid, hunloaded]) pass_nil)]
  simp only [h.list]
  have hmine : (decide (e.self < e.members) && (memberList e.members bs).getD e.self 0xFFFF == s2.node && s2.node != 0xFFFF)
      = true := by
    rw [hnode, h.self]
    simpa [h.place] using h.node
  have hdistinct : decide (memberList e.members bs).Nodup = true := decide_eq_true h.distinct
  exact checked_pass _ _ _ _ _ _ pass_nil pass_nil
    (pass_cons (Bool.or_eq_false_iff.2 ⟨congrArg not hdistinct, congrArg not hmine⟩) pass_nil)

end

theorem yields_groupLoad {e : GroupEntry} {bs : List Byte} {s1 s2 : State} (h : Served m 0x0A02 s)
    (hmax : (cmdAt m s).le 0 2 ≤ 4095) (hload : Loadable ((cmdAt m s).le 0 2) e bs (taken s) s1 s2) :
    Yields (.groupLoad m) s fun t => Answered m (cmdAt m s).tag mbxOk 0 [] t
      ∧ t.coll = { s.coll with
        groups := Sparse.set none s.coll.groups ((cmdAt m s).le 0 2) (some (e.load (memberList e.members bs))) } := by
  obtain ⟨-, hcoll, hmgr, -⟩ := hload.reads
  refine (yields_answer rfl h (groupLoad_pass hload rfl hmax) ?_).imp fun t ⟨hok, ht⟩ => ⟨hok, ht.trans ?_⟩
  · exact congrArg MgrState.order hmgr
  · rw [State.modColl_coll, hcoll]
    rfl

/-! ## GROUP_UNLOAD (R247) -/

theorem groupUnload_pass {c : MCmd} (hmax : c.le 0 2 ≤ 4095) (hidle : groupBusy (c.le 0 2) s = false) :
    groupUnload c s = answer c [] (s.modColl (unloadGroup (c.le 0 2))) := by
  unfold groupUnload
  exact checked_pass _ _ _ _ _ _ (pass_cons (by simpa using hmax) pass_nil) pass_nil (pass_cons hidle pass_nil)

theorem yields_groupUnload (h : Served m 0x0A03 s) (hmax : (cmdAt m s).le 0 2 ≤ 4095)
    (hidle : groupBusy ((cmdAt m s).le 0 2) s = false) :
    Yields (.groupUnload m) s fun t => Answered m (cmdAt m s).tag mbxOk 0 [] t
      ∧ t.coll = unloadGroup ((cmdAt m s).le 0 2) s.coll :=
  yields_answer rfl h (groupUnload_pass (s := taken s) hmax hidle) rfl

/-! ## TALLY_CLEAR (R262) -/

theorem tallyClear_of_group {c : MCmd} (hone : c.le 2 1 % 2 = 0) (hmax : c.le 0 2 ≤ 4095) :
    tallyClear c s = answer c [] (zeroTally (c.le 0 2) 1 (s.modColl fun x => { x with
      tallies := Sparse.set {} x.tallies (c.le 0 2) {} })) := by
  unfold tallyClear
  simp only [hone]
  exact checked_pass _ _ _ _ _ _ (pass_cons (by simpa using hmax) pass_nil) pass_nil pass_nil

theorem tallyClear_of_all {c : MCmd} (hall : c.le 2 1 % 2 = 1) :
    tallyClear c s = answer c [] (zeroTally 0 4096 (s.modColl fun x => { x with tallies := [] })) := by
  unfold tallyClear
  simp only [hall]
  exact checked_pass _ _ _ _ _ _ (pass_cons rfl pass_nil) pass_nil pass_nil

theorem yields_tallyClear_of_group (h : Served m 0x0A04 s) (hone : (cmdAt m s).le 2 1 % 2 = 0)
    (hmax : (cmdAt m s).le 0 2 ≤ 4095) :
    Yields (.tallyClear m) s fun t => Answered m (cmdAt m s).tag mbxOk 0 [] t
      ∧ t.coll = { s.coll with tallies := Sparse.set {} s.coll.tallies ((cmdAt m s).le 0 2) {} } :=
  (yields_answer rfl h (tallyClear_of_group (s := taken s) hone hmax) (by simp [taken_order])).imp
    fun t ⟨hok, ht⟩ => ⟨hok, ht.trans (by simp)⟩

theorem yields_tallyClear_of_all (h : Served m 0x0A04 s) (hall : (cmdAt m s).le 2 1 % 2 = 1) :
    Yields (.tallyClear m) s fun t => Answered m (cmdAt m s).tag mbxOk 0 [] t ∧ t.coll = { s.coll with tallies := [] } :=
  (yields_answer rfl h (tallyClear_of_all (s := taken s) hall) (by simp [taken_order])).imp
    fun t ⟨hok, ht⟩ => ⟨hok, ht.trans (by simp)⟩

/-! ## GROUP_STATUS (Table 18-18) -/

theorem groupStatus_of_loaded {c : MCmd} {g : GroupSt} (hmax : c.le 0 2 ≤ 4095) (hg : s.group (c.le 0 2) = some g) :
    groupStatus c s = answer c (leBytes 1 (if groupBusy (c.le 0 2) s then 2 else 1) ++ leBytes 1 (groupRuns (c.le 0 2) s)
      ++ leBytes 2 0 ++ leBytes 4 g.nextSeq.toNat) s := by
  unfold groupStatus
  dsimp only
  rw [checked_pass _ _ _ _ _ _ (pass_cons (by simpa using hmax) pass_nil) pass_nil pass_nil, hg]

theorem yields_groupStatus {g : GroupSt} (h : Served m 0x0A05 s) (hmax : (cmdAt m s).le 0 2 ≤ 4095)
    (hg : s.group ((cmdAt m s).le 0 2) = some g) :
    Yields (.groupStatus m) s fun t => Answered m (cmdAt m s).tag mbxOk 0
      (leBytes 1 (if groupBusy ((cmdAt m s).le 0 2) s then 2 else 1) ++ leBytes 1 (groupRuns ((cmdAt m s).le 0 2) s)
        ++ leBytes 2 0 ++ leBytes 4 g.nextSeq.toNat) t ∧ t.coll = s.coll := by
  have hstatus := groupStatus_of_loaded (s := taken s) hmax hg
  rw [groupBusy_taken, groupRuns_taken] at hstatus
  exact yields_answer (t := taken s) rfl h hstatus rfl

end

/-! ## O24 -/

/-- Settles O24: each command passes its checks and is answered (`yields_answer`), with the collective state that its meaning
gives. That GROUP_UNLOAD of an unloaded group is OK, that any TALLY_VA is taken and that TALLY_CLEAR writes the region as
well are log 77. -/
theorem groupCommandsAreServed : Obligations.GroupCommandsAreServed := by
  unfold Obligations.GroupCommandsAreServed
  intro m s c ok
  refine ⟨yields_groupTableSet, ?load, ?unload, ?clear, yields_tallyClear_of_all, fun _ => yields_groupStatus⟩
  case load =>
    intro e bs s1 s2 h hmax hentry hvalid hrange hnone hlist list hdistinct hplace hself hnode
    refine (yields_groupLoad h hmax ⟨hentry, hvalid, hrange, hnone, hlist, hdistinct, hplace, hself, hnode⟩).imp ?_
    rintro t ⟨hok, hcoll⟩
    have hgroup (k : Nat) : t.group k = if k = c.le 0 2 then some (e.load list) else s.group k :=
      group_of_set (by rw [hcoll]; rfl) k
    exact ⟨hok, (hgroup _).trans (if_pos rfl), fun k hk => (hgroup k).trans (if_neg hk), by rw [hcoll]⟩
  case unload =>
    intro h hmax hidle
    refine (yields_groupUnload h hmax hidle).imp ?_
    rintro t ⟨hok, hcoll⟩
    have hgroup : t.coll.groups = Sparse.set none s.coll.groups (c.le 0 2) none := by
      rw [hcoll]
      rfl
    exact ⟨hok, hcoll, (group_of_set hgroup _).trans (if_pos rfl)⟩
  case clear =>
    intro h hone hmax
    refine (yields_tallyClear_of_group h hone hmax).imp ?_
    rintro t ⟨hok, hcoll⟩
    have htally (k : Nat) : t.tally k = if k = c.le 0 2 then {} else s.tally k := tally_of_set (by rw [hcoll]) k
    exact ⟨hok, (htally _).trans (if_pos rfl), fun k hk => (htally k).trans (if_neg hk), by rw [hcoll]⟩

end Sys2Proof.Machine
end

section
/-! Proofs about commits (spec 12 R278): the outcomes of Table 12-8, the commit that runs, and O28. -/

namespace Sys2Proof.Machine

/-! ## The outcome of a commit (Table 12-8) -/

theorem w64_succ_ne (x : W64) : (x + 1).toNat ≠ x.toNat := by
  bv_omega

theorem commitOutcome_of_staged {expect : W64} {word1 : Nat} (skips : Nat) (hstage : word1 / 2 ^ 62 = 2)
    (hgood : word1 / 2 ^ 61 % 2 = 0) (hepoch : word1 % 2 ^ 61 = (expect + 1).toNat % 2 ^ 61) :
    commitOutcome 0 expect expect.toNat word1 skips = (stDone, some (0, 8, (expect + 1).toNat), (expect + 1).toNat) :=
  if_pos ⟨rfl, rfl, hstage, hepoch, hgood⟩

theorem commitOutcome_of_committed (expect : W64) (word1 skips : Nat) :
    commitOutcome 0 expect (expect + 1).toNat word1 skips = (stDone, none, (expect + 1).toNat) :=
  (if_neg fun ⟨_, h, _⟩ => w64_succ_ne expect h).trans (if_pos ⟨rfl, rfl⟩)

theorem commitOutcome_of_flagged {flag : W64} (hflag : flag ≠ 0) (expect : W64) (word1 skips : Nat) :
    commitOutcome flag expect expect.toNat word1 skips
      = (stSkipped, some (8, 16, word1 % 2 ^ 62 + min (skips + 1) (2 ^ 64 - 1) * 2 ^ 64), expect.toNat) := by
  simp only [commitOutcome, hflag, false_and, if_false, ne_eq, not_false_eq_true, true_and, if_true]

theorem commitOutcome_of_otherEpoch (flag : W64) {expect : W64} {epoch : Nat} (hold : epoch ≠ expect.toNat)
    (hnew : epoch ≠ (expect + 1).toNat) (word1 skips : Nat) :
    commitOutcome flag expect epoch word1 skips = (stEpochMismatch, none, epoch) := by
  simp only [commitOutcome, hold, hnew, false_and, and_false, if_false]

/-- Only the commit of a clean staging moves the epoch. -/
theorem commitOutcome_of_advance {flag expect : W64} {epoch word1 skips : Nat}
    (h : (commitOutcome flag expect epoch word1 skips).2.2 ≠ epoch) : flag = 0 ∧ epoch = expect.toNat
      ∧ commitOutcome flag expect epoch word1 skips = (stDone, some (0, 8, (expect + 1).toNat), (expect + 1).toNat) := by
  unfold commitOutcome at h ⊢
  dsimp only at h ⊢
  split at h
  · next hstaged =>
    have ⟨hflag, hepoch, _⟩ := hstaged
    exact ⟨hflag, hepoch, if_pos hstaged⟩
  · (repeat' split at h) <;> exact absurd rfl h

/-! ## A commit that runs (R278) -/

section
variable {q n : Nat} {s s1 : State} {p : Prog} {bs : List (Byte × Bool)}

/-- What the block that a commit has read decides. -/
def blockOutcome (w : DWords) (bs : List (Byte × Bool)) : BitVec 16 × Option (Nat × Nat × Nat) × Nat :=
  let b := bs.map Prod.fst
  commitOutcome (wordAt w 4) (wordAt w 3) (leAt b 0 8) (leAt b 8 8) (leAt b 16 8)

theorem runCommit_of_noWrite (hprog : s.prog q n = some p)
    (hread : vaRead (s.queue q).code (dSrc p.w) 32 false false s = (.ok bs, s1)) (hclean : bs.any Prod.snd = false)
    (hnone : (blockOutcome p.w bs).2.1 = none) : runCommit q n s
      = finishQueue q (endProg q n (blockOutcome p.w bs).1 (w64 (blockOutcome p.w bs).2.2) s1) := by
  unfold blockOutcome at hnone ⊢
  rw [runCommit, hprog]
  dsimp only at hnone ⊢
  rw [hread]
  simp only [hclean, hnone, Bool.false_eq_true, if_false]

theorem runCommit_of_write {s2 : State} {off len v : Nat} (hprog : s.prog q n = some p)
    (hread : vaRead (s.queue q).code (dSrc p.w) 32 false false s = (.ok bs, s1)) (hclean : bs.any Prod.snd = false)
    (hsome : (blockOutcome p.w bs).2.1 = some (off, len, v))
    (hwrite : vaWrite (s.queue q).code (dSrc p.w + off) ((leBytes len v).map fun b => (b, false)) false (.desc ⟨q, n⟩) s1
      = (none, s2)) : runCommit q n s
      = finishQueue q (endProg q n (blockOutcome p.w bs).1 (w64 (blockOutcome p.w bs).2.2)
          (count (updCtr ((s.queue q).code - 0x42) (if (blockOutcome p.w bs).1 = stDone then 0x130 else 0x138)) 1 s2)) := by
  unfold blockOutcome at hsome ⊢
  rw [runCommit, hprog]
  dsimp only at hsome ⊢
  rw [hread]
  simp only [hclean, hsome, hwrite, Bool.false_eq_true, if_false]

end

/-! ## O28 -/

/-- Settles O28: of the four outcomes only that of a clean staging moves the epoch (`commitOutcome_of_advance`), and after it
the epoch is one above EXPECT, where the outcome writes nothing (`commitOutcome_of_committed`). -/
theorem commitsAdvanceTheEpochOnce : Obligations.CommitsAdvanceTheEpochOnce := by
  unfold Obligations.CommitsAdvanceTheEpochOnce
  refine ⟨fun expect word1 skips hstage hgood hepoch => ⟨commitOutcome_of_staged skips hstage hgood hepoch,
    commitOutcome_of_committed expect⟩, fun flag expect epoch word1 skips => ⟨?advance, ?flagged, ?other⟩,
    fun q n s s1 p bs hprog hread hclean => runCommit_of_noWrite hprog hread hclean⟩
  case advance =>
    intro h
    obtain ⟨hflag, hepoch, hr⟩ := commitOutcome_of_advance h
    rw [hr]
    exact ⟨rfl, hflag, hepoch, rfl, rfl⟩
  case flagged =>
    rintro hflag rfl
    rw [commitOutcome_of_flagged hflag]
    exact ⟨rfl, rfl⟩
  case other =>
    intro hold hnew
    rw [commitOutcome_of_otherEpoch flag hold hnew]
    exact ⟨rfl, rfl⟩

end Sys2Proof.Machine
end

section
/-! Proofs about the update engines (spec 12 R271-R282): what their accesses leave alone, arming, gradients, stalls, staging,
and O27. -/

namespace Sys2Proof.Machine

theorem State.upd1_congr {s t : State} (h : t.upd = s.upd) (u : Nat) : t.upd1 u = s.upd1 u := by
  rw [State.upd1, h, State.upd1]

theorem State.group_congr {s t : State} (h : t.coll = s.coll) (g : Nat) : t.group g = s.group g := by
  rw [State.group, h, State.group]

theorem State.ctr_congr {s t : State} (h : t.counters = s.counters) (k : Nat) : t.ctr k = s.ctr k := by
  rw [State.ctr, h, State.ctr]

/-! ## What the accesses of an update engine leave alone -/

theorem copyStands_of_result₂ {α β : Type} {q n : Nat} {r : α × β × State} {a : α} {b : β} {s t : State}
    (hs : CopyStands q n s r.2.2) (h : r = (a, b, t)) : CopyStands q n s t := by
  rw [h] at hs
  exact hs

theorem upd_of_result₂ {α β : Type} {r : α × β × State} {a : α} {b : β} {t u : State} (h : r = (a, b, t))
    (hr : r.2.2.upd = u.upd) : t.upd = u.upd := by rw [← hr, h]

theorem updRead_copyStands (q n u : Nat) (m : UpdMaps) (va len : Nat) (s : State) :
    CopyStands q n s (updRead u m va len s).2 := by
  unfold updRead
  exact copyStands_of_eq

theorem updWrite_copyStands (u : Nat) (m : UpdMaps) (id : DescId) (va len v : Nat) (s : State) :
    CopyStands id.q id.n s (updWrite u m id va len v s) := writeSegs_copyStands ..

theorem priorV_copyStands (q n u : Nat) (m : UpdMaps) (e : UpdEntry) (base k : Nat) (s : State) :
    CopyStands q n s (priorV u m e base k s).2 := by
  unfold priorV
  dsimp only
  split
  · exact .refl q n s
  split
  · exact (updRead_copyStands ..).trans (updRead_copyStands ..)
  split
  · exact updRead_copyStands ..
  · exact (updRead_copyStands ..).trans (updRead_copyStands ..)

theorem elementInputs_copyStands (q n u : Nat) (a : Armed) (e : Option UpdEntry) (j : Nat) (s : State) :
    CopyStands q n s (elementInputs u a e j s).2 := by
  unfold elementInputs
  dsimp only
  split
  · exact updRead_copyStands ..
  · exact ((updRead_copyStands ..).trans (updRead_copyStands ..)).trans (priorV_copyStands ..)

theorem factorsEnd_copyStands (u : Nat) (m : UpdMaps) (id : DescId) (e : UpdEntry) (epoch : Nat) (gs : List Nat)
    (s : State) : CopyStands id.q id.n s (factorsEnd u m id e epoch gs s) :=
  (copyStands_foldl (fun _ _ => (updRead_copyStands ..).trans (updWrite_copyStands ..)) _ _).trans
    (copyStands_foldl (fun _ _ => (updRead_copyStands ..).trans (updWrite_copyStands ..)) _ _)

theorem blockEnd_copyStands (u : Nat) (m : UpdMaps) (id : DescId) (e : UpdEntry) (epoch b : Nat) (vs : List Nat)
    (s : State) : CopyStands id.q id.n s (blockEnd u m id e epoch b vs s) := by
  refine (updWrite_copyStands ..).trans (copyStands_foldl (fun s x => ?_) _ _)
  have hfree : CopyStands id.q id.n s (freshByte s).2 := copyStands_of_eq rfl rfl rfl rfl rfl
  dsimp only
  split
  · exact updWrite_copyStands ..
  · exact hfree.trans (updWrite_copyStands ..)

theorem copyStands_ite {q n : Nat} {s t u : State} {c : Prop} [Decidable c] (ht : CopyStands q n s t)
    (hu : CopyStands q n s u) : CopyStands q n s (if c then t else u) := by
  split
  · exact ht
  · exact hu

theorem coveredElement_copyStands (u : Nat) (a : Armed) (e : UpdEntry) (g w m vp j : Nat) (s : State) :
    CopyStands a.id.q a.id.n s (coveredElement u a e g w m vp j s).2 := by
  unfold coveredElement
  extract_lets k ep o new s3 s4 s5 last gs vs s6 s7
  have h3 : CopyStands a.id.q a.id.n s s3 := updWrite_copyStands ..
  have h4 : CopyStands a.id.q a.id.n s s4 := copyStands_ite (h3.trans (updWrite_copyStands ..)) h3
  have h5 : CopyStands a.id.q a.id.n s s5 := h4.trans (updWrite_copyStands ..)
  have h6 : CopyStands a.id.q a.id.n s s6 := copyStands_ite (h5.trans (factorsEnd_copyStands ..)) h5
  exact copyStands_ite (h6.trans (blockEnd_copyStands ..)) h6

/-- A gradient is accepted by reads and by writes of its own APPLY. -/
theorem acceptGradient_copyStands (u : Nat) (a : Armed) (g : Nat) (s : State) :
    CopyStands a.id.q a.id.n s (acceptGradient u a g s).2 := by
  unfold acceptGradient
  extract_lets j e
  clear_value e
  split
  next x s1 hx =>
  have h1 : CopyStands a.id.q a.id.n s s1 := copyStands_of_result (elementInputs_copyStands ..) hx
  split
  · exact h1
  · extract_lets s2 r
    have h2 : CopyStands a.id.q a.id.n s s2 := copyStands_ite (h1.trans (updWrite_copyStands ..)) h1
    have hr : CopyStands a.id.q a.id.n s2 r.2 := by
      cases e with
      | some e => exact coveredElement_copyStands ..
      | none => exact updWrite_copyStands ..
    exact (h2.trans hr).trans copyStands_of_eq

theorem acceptGradient_pos {u : Nat} {a a' : Armed} {g : Nat} {s s1 : State}
    (h : acceptGradient u a g s = (some a', s1)) : a'.pos = a.pos + 1 := by
  unfold acceptGradient at h
  dsimp only at h
  split at h
  · cases h
  · rw [← Option.some.inj (congrArg Prod.fst h)]

/-! ## Stalls (R282) -/

@[simp] theorem returnHeld_frame (u : Nat) (s : State) : (returnHeld u s).queues = s.queues
    ∧ (returnHeld u s).hbm = s.hbm ∧ (returnHeld u s).coh = s.coh ∧ (returnHeld u s).coll = s.coll
    ∧ (returnHeld u s).upd = s.upd := by simp [returnHeld]

@[simp] theorem endStall_frame (u : Nat) (s : State) : (endStall u s).queues = s.queues
    ∧ (endStall u s).hbm = s.hbm ∧ (endStall u s).coh = s.coh ∧ (endStall u s).coll = s.coll := by simp [endStall]

/-- A stall that ends leaves what is armed. -/
theorem endStall_upd1 (u : Nat) (s : State) :
    ((endStall u s).upd1 u).stall = none ∧ ((endStall u s).upd1 u).armed = (s.upd1 u).armed := by
  unfold endStall
  split
  · next h => exact ⟨Option.isNone_iff_eq_none.1 h, rfl⟩
  · have hkept (t : State) : (returnHeld u t).upd1 u = t.upd1 u := State.upd1_congr (by simp) u
    simp [hkept]

/-- The state in which run `id` makes engine u stall. -/
theorem beginStall_effect {u : Nat} {id : DescId} {s : State} (h : (s.upd1 u).stall = none) :
    (beginStall u id s).upd1 u = { s.upd1 u with stall := some s.now, stalledBy := some id }
    ∧ bitOf ((beginStall u id s).evBits (srcUpd u)) evUpdStall = true
    ∧ (beginStall u id s).ctr (updCtr u 0x118) = w64 (min ((s.ctr (updCtr u 0x118)).toNat + 1) (2 ^ 64 - 1))
    ∧ (beginStall u id s).coll = s.coll ∧ (beginStall u id s).hbm = s.hbm ∧ (beginStall u id s).coh = s.coh := by
  have hbegin : beginStall u id s = (raiseEv (srcUpd u) evUpdStall (count (updCtr u 0x118) 1
      (s.modUpd u fun x => { x with stall := some s.now, stalledBy := some id }))).modNet fun t =>
        { t with collHold := Sparse.set false t.collHold u true } := if_neg (by simp [h])
  have hctr (t : State) (f : NetState → NetState) (k : Nat) :
      ((raiseEv (srcUpd u) evUpdStall t).modNet f).ctr k = t.ctr k := State.ctr_congr (by simp) k
  rw [hbegin]
  refine ⟨by simp, ?_, ?_, by simp, by simp, by simp⟩
  · exact (raiseEv_bit _ _ _ _ _ (by decide)).trans (by simp)
  · rw [hctr, ctr_count, if_pos rfl]
    rfl

/-! ## STATE_ARRIVAL and STALL_BOUND_EXPIRY (R281, R282) -/

section
variable {u : EngId} {s : State} (hp : powered s = true)
include hp

/-- What has arrived is armed, and a stall of the paired reduce-scatter ends once the next element's state is there. -/
theorem exec_stateArrival {a : Armed} (harmed : (s.upd1 u.val).armed = some a) (upto : Nat) :
    let t := s.modUpd u.val fun x => { x with armed := some (a.arrive upto) }
    exec (.stateArrival u upto) s = .next (if a.paired.isSome = true ∧ (s.upd1 u.val).stalledBy = a.paired
      ∧ (a.arrive upto).present = true then endStall u.val t else t) := by
  change execStateArrival u upto s = _
  rw [execStateArrival, if_neg (by simp [hp]), harmed]

theorem exec_stallBoundExpiry {x : Nat} {id : DescId} {r : CollRun} {g : GroupSt} (hstall : (s.upd1 u.val).stall = some x)
    (hby : (s.upd1 u.val).stalledBy = some id) (hr : s.runOf id = some r) (hg : s.group r.group = some g)
    (hdue : x + stallBound (s.upd1 u.val) * 1000 ≤ s.now) : exec (.stallBoundExpiry u) s
      = .next (startNext r.group (endEarly r stStateLate g.self .stateLate s)) := by
  change execStallBoundExpiry u s = _
  rw [execStallBoundExpiry, if_neg (by simp [hp])]
  simp only [hstall, hby, Option.bind_some, hr, hg, if_pos hdue]

end

theorem Armed.le_slowTo_arrive (a : Armed) (upto : Nat) : a.slowTo ≤ (a.arrive upto).slowTo := by
  simp only [Armed.arrive]
  split <;> simp

theorem Armed.le_fastTo_arrive (a : Armed) (upto : Nat) : a.fastTo ≤ (a.arrive upto).fastTo := by
  simp only [Armed.arrive]
  split <;> simp

theorem stateArrival_effect {u : EngId} {upto : Nat} {s : State} {a : Armed} (hp : powered s = true)
    (harmed : (s.upd1 u.val).armed = some a) :
    Yields (.stateArrival u upto) s fun t => (t.upd1 u.val).armed = some (a.arrive upto)
      ∧ a.slowTo ≤ (a.arrive upto).slowTo ∧ a.fastTo ≤ (a.arrive upto).fastTo
      ∧ (t.upd1 u.val).stall = (if a.paired.isSome = true ∧ (s.upd1 u.val).stalledBy = a.paired
          ∧ (a.arrive upto).present = true then none else (s.upd1 u.val).stall)
      ∧ t.queues = s.queues ∧ t.hbm = s.hbm ∧ t.coh = s.coh ∧ t.coll = s.coll := by
  refine ⟨_, exec_stateArrival hp harmed upto, ?_⟩
  split
  · obtain ⟨hstall, hkept⟩ := endStall_upd1 u.val (s.modUpd u.val fun x => { x with armed := some (a.arrive upto) })
    exact ⟨by simp [hkept], a.le_slowTo_arrive upto, a.le_fastTo_arrive upto, hstall, by simp⟩
  · exact ⟨by simp, a.le_slowTo_arrive upto, a.le_fastTo_arrive upto, by simp⟩

/-! ## GRADIENT_DELIVERY (R273, R274) -/

/-- The next element that armed APPLY a of engine u waits for is complete in the run r paired with it: these bits. -/
structure Delivers (u bits : Nat) (a : Armed) (r : CollRun) (s : State) : Prop where
  armed : (s.upd1 u).armed = some a
  run : (s.coll.runs.find? fun r => a.paired == some r.id && r.phase == .data) = some r
  group : ∃ g, s.group r.group = some g
  left : a.lo + a.pos < a.hi
  complete : dataComplete r = true
  bits : (r.acc.getD (a.lo + a.pos) (0, 0)).1 = bits

theorem Delivers.not_idle {u bits : Nat} {a : Armed} {r : CollRun} {s : State} (h : Delivers u bits a r s) :
    ¬ (a.hi ≤ a.lo + a.pos ∨ (!dataComplete r) = true ∨ (r.acc.getD (a.lo + a.pos) (0, 0)).1 ≠ bits) := by
  rw [h.complete, h.bits]
  simp [h.left]

theorem gradient_of_absent {u bits : Nat} {a : Armed} {r : CollRun} {s : State} (h : Delivers u bits a r s)
    (habsent : a.present = false) : gradient u bits s = beginStall u r.id s := by
  obtain ⟨g, hg⟩ := h.group
  rw [gradient, h.armed]
  simp only [h.run, hg]
  rw [if_neg h.not_idle, if_pos (by simp [habsent])]

theorem gradient_of_present {u bits : Nat} {a a' : Armed} {r : CollRun} {s s1 : State} (h : Delivers u bits a r s)
    (hpresent : a.present = true) (haccept : acceptGradient u a (widen r.ty bits) s = (some a', s1)) :
    gradient u bits s = modRun r.id (fun r => { r with fed := r.fed + 1 })
      (s1.modUpd u fun x => { x with armed := some a' }) := by
  obtain ⟨g, hg⟩ := h.group
  rw [gradient, h.armed]
  simp only [h.run, hg]
  rw [if_neg h.not_idle, if_neg (by simp [hpresent]), haccept]

theorem exec_gradientDelivery {u : EngId} {bits : BitVec 32} {s : State} (hp : powered s = true) :
    exec (.gradientDelivery u bits) s = .next (gradient u.val bits.toNat s) :=
  congrArg Host.Outcome.next (clocked_of_powered hp _)

/-- An accepted gradient is counted as fed in the runs as they were before it. -/
theorem gradientDelivery_accepted {u : EngId} {bits : BitVec 32} {a a' : Armed} {r : CollRun} {s s1 : State}
    (hp : powered s = true) (h : Delivers u.val bits.toNat a r s) (hpresent : a.present = true)
    (haccept : acceptGradient u.val a (widen r.ty bits.toNat) s = (some a', s1)) :
    Yields (.gradientDelivery u bits) s fun t => (t.upd1 u.val).armed = some a' ∧ a'.pos = a.pos + 1
      ∧ t.coll.runs = (s.coll.runs.map fun x => if x.id = r.id then { x with fed := x.fed + 1 } else x)
      ∧ t.hbm = s1.hbm ∧ t.coh = s1.coh ∧ t.queues = s1.queues := by
  have hstands := copyStands_of_result (acceptGradient_copyStands ..) haccept
  refine ⟨_, (exec_gradientDelivery hp).trans (congrArg _ (gradient_of_present h hpresent haccept)), ?_,
    acceptGradient_pos haccept, ?_, rfl, rfl, rfl⟩
  · exact congrArg UpdState.armed ((State.upd1_congr rfl u.val).trans (State.upd1_modUpd_self s1 u.val fun x =>
      { x with armed := some a' }))
  · rw [← hstands.coll]
    rfl

theorem gradientDelivery_stalled {u : EngId} {bits : BitVec 32} {a : Armed} {r : CollRun} {s : State}
    (hp : powered s = true) (h : Delivers u.val bits.toNat a r s) (habsent : a.present = false)
    (hnone : (s.upd1 u.val).stall = none) : Yields (.gradientDelivery u bits) s fun t =>
      t.upd1 u.val = { s.upd1 u.val with stall := some s.now, stalledBy := some r.id }
      ∧ bitOf (t.evBits (srcUpd u.val)) evUpdStall = true
      ∧ t.ctr (updCtr u.val 0x118) = w64 (min ((s.ctr (updCtr u.val 0x118)).toNat + 1) (2 ^ 64 - 1))
      ∧ t.coll = s.coll ∧ t.hbm = s.hbm ∧ t.coh = s.coh :=
  ⟨_, (exec_gradientDelivery hp).trans (congrArg _ (gradient_of_absent h habsent)), beginStall_effect hnone⟩

/-! ## APPLY_STAGED (R277) -/

/-- The state in which APPLY a of engine u and its descriptor have ended; the final records of its queue follow. -/
def applyOver (u : Nat) (a : Armed) (st : BitVec 16) (s : State) : State :=
  let s0 := s.modUpd u fun x => { x with armed := none }
  let s1 := if (s.upd1 u).stalledBy = a.paired then endStall u s0 else s0
  let s2 := if st = stStateLate then raiseEv (srcUpd u) evUpdLate (count (updCtr u 0x128) 1 s1) else s1
  let s3 := if a.bad then raiseEv (srcUpd u) evUpdBad s2 else s2
  endProg a.id.q a.id.n st (w64 (a.nonfinite * 2 ^ 40 + a.absurd * 2 ^ 16 + b2n a.bad)) s3

theorem endApply_eq (u : Nat) (a : Armed) (st : BitVec 16) (s : State) :
    endApply u a st s = finishQueue a.id.q (applyOver u a st s) := rfl

theorem applyOver_armed (u : Nat) (a : Armed) (st : BitVec 16) (s : State) :
    ((applyOver u a st s).upd1 u).armed = none := by
  unfold applyOver
  extract_lets s0 s1 s2 s3
  have h0 : (s0.upd1 u).armed = none := congrArg UpdState.armed (State.upd1_modUpd_self s u _)
  have h1 : (s1.upd1 u).armed = none := by
    unfold s1
    split
    · obtain ⟨-, hkept⟩ := endStall_upd1 u s0
      rw [hkept, h0]
    · exact h0
  have h3 : s3.upd = s1.upd := by simp [s3, s2]
  rw [State.upd1_congr (by simp : (endProg _ _ _ _ s3).upd = s3.upd), State.upd1_congr h3, h1]

theorem applyOver_endsWith {u : Nat} {a : Armed} {s : State} (h : UnderWay a.id.q a.id.n s) (st : BitVec 16) :
    EndsWith a.id.q a.id.n st (w64 (a.nonfinite * 2 ^ 40 + a.absurd * 2 ^ 16 + b2n a.bad)) (applyOver u a st s) := by
  refine endProg_endsWith (h.congr ?_) _ _
  simp

/-- APPLY a of engine u, of descriptor p, has its whole shard staged and visible where its state lies. -/
structure Staged (u : Nat) (a : Armed) (p : Prog) (s : State) : Prop where
  armed : (s.upd1 u).armed = some a
  prog : s.prog a.id.q a.id.n = some p
  paired : a.paired.isSome = true
  whole : a.hi ≤ a.lo + a.pos
  visible : tagClear (.desc a.id) s = true
  reached : a.attach = false ∨ (p.flushed = true ∧ p.flushFail = false)
  noFlush : p.flush = []

/-- The state in which STAGED is written and the apply counted. -/
def stagedCounted (u : Nat) (a : Armed) (s : State) : State :=
  let s1 := count (updCtr u 0x100) 1 (updWrite u a.maps a.id (a.epochVa + 8) 8 (stageWord 2 a.bad (a.epoch + 1)) s)
  if a.bad then count (updCtr u 0x110) 1 s1 else s1

theorem stagedCounted_underWay {u : Nat} {a : Armed} {s : State} (h : UnderWay a.id.q a.id.n s) :
    UnderWay a.id.q a.id.n (stagedCounted u a s) :=
  (h.of_copyStands (updWrite_copyStands u a.maps a.id (a.epochVa + 8) 8 (stageWord 2 a.bad (a.epoch + 1)) s)).congr
    (by simp [stagedCounted])

theorem applyStaged_of_staged {u : Nat} {a : Armed} {p : Prog} {s : State} (h : Staged u a p s) :
    applyStaged u s = settleSink u (endApply u a stDone (stagedCounted u a s)) := by
  have hwaits : ¬ (a.paired.isNone = true ∨ a.lo + a.pos < a.hi ∨ (!tagClear (.desc a.id) s) = true) := by
    rw [h.visible]
    simp [h.whole, Option.isSome_iff_ne_none.1 h.paired]
  have hflushed : ¬ (a.attach = true ∧ (!p.flushed) = true) := by
    rintro ⟨hattach, hnot⟩
    obtain ⟨hdone, -⟩ := h.reached.resolve_left (by simp [hattach])
    simp [hdone] at hnot
  have hreached : ¬ (a.attach = true ∧ p.flushFail = true) := by
    rintro ⟨hattach, hfail⟩
    obtain ⟨-, hgood⟩ := h.reached.resolve_left (by simp [hattach])
    simp [hgood] at hfail
  rw [applyStaged, h.armed]
  simp only [h.prog]
  rw [if_neg hwaits, if_neg hflushed, if_neg (not_not.2 h.noFlush), if_neg hreached]
  rfl

theorem exec_applyStaged {u : EngId} {a : Armed} {p : Prog} {s : State} (hp : powered s = true)
    (h : Staged u.val a p s) : exec (.applyStaged u) s
      = .next (settleSink u.val (endApply u.val a stDone (stagedCounted u.val a s))) :=
  congrArg Host.Outcome.next ((clocked_of_powered hp _).trans (applyStaged_of_staged h))

/-! ## UPD_APPLY (R271) -/

/-- The shard of this member, and the entries of its update table. -/
def applyShard (w : DWords) (g : GroupSt) : Nat × Nat := shardOf 1 (uCount w) g.members.length g.self

def applyTable (w : DWords) (bs : List (Byte × Bool)) : List UpdEntry :=
  (chunk 128 (uEntries w) (bs.map Prod.fst)).map entryOf

/-- What a starting APPLY finds: entries es that meet R270, translations maps, the epoch, entries with their RBAR, and no
poison; t is the state once all of it is read. -/
def ApplyLoads (code : Nat) (w : DWords) (g : GroupSt) (s : State) (es : List UpdEntry) (maps : UpdMaps) (epoch : Nat)
    (ready : List UpdEntry) (t : State) : Prop :=
  ∃ segs s1 bs s2 s3 s4, translateAll code (uTable w) (128 * uEntries w) false s = (segs, none, s1)
    ∧ readSegs code false false segs s1 = (bs, s2) ∧ bs.any Prod.snd = false ∧ es = applyTable w bs
    ∧ (es.all fun e => e.ok (applyShard w g).1 (applyShard w g).2) = true ∧ entriesApart es = true
    ∧ translateEach code (applyRanges w (applyShard w g).1 (applyShard w g).2 es) s2 = (none, maps, s3)
    ∧ updRead (code - 0x42) maps (uEpoch w) 8 s3 = ((epoch, false), s4)
    ∧ withRbar (code - 0x42) maps epoch es s4 = ((ready, false), t)

/-- The update that such an APPLY arms. -/
def armedFor (id : DescId) (w : DWords) (g : GroupSt) (es : List UpdEntry) (maps : UpdMaps) (epoch : Nat)
    (ready : List UpdEntry) : Armed where
  id := id
  group := uGroup w
  count := uCount w
  wVa := uW w
  stageVa := uStage w
  epochVa := uEpoch w
  limit := uLimit w
  stallUs := if uStall w = 0 then 2000 else uStall w
  epoch := w64 epoch
  entries := ready
  lo := (applyShard w g).1
  hi := (applyShard w g).2
  pos := 0
  slowTo := 0
  fastTo := 0
  maps := maps
  paired := none
  nonfinite := 0
  absurd := 0
  bad := false
  gs := []
  vs := []
  attach := stateAttached es maps

/-- The state with this update armed and the pages of the APPLY noted. -/
def withArmed (id : DescId) (code : Nat) (w : DWords) (g : GroupSt) (es : List UpdEntry) (a : Armed) (s : State) : State :=
  (((uTable w, 128 * uEntries w, false) :: applyRanges w (applyShard w g).1 (applyShard w g).2 es).foldl
    (fun s r => notePages id r.1 r.2.1 s) s).modUpd (code - 0x42) fun x => { x with armed := some a }

theorem ApplyLoads.stands {code : Nat} {w : DWords} {g : GroupSt} {s t : State} {es ready : List UpdEntry}
    {maps : UpdMaps} {epoch : Nat} (h : ApplyLoads code w g s es maps epoch ready t) (q n : Nat) : CopyStands q n s t := by
  obtain ⟨segs, s1, bs, s2, s3, s4, htable, hread, -, -, -, -, hmaps, hepoch, hready⟩ := h
  have h1 : CopyStands q n s s1 := copyStands_of_result₂ copyStands_of_eq htable
  have h2 : CopyStands q n s1 s2 := copyStands_of_result copyStands_of_eq hread
  have h3 : CopyStands q n s2 s3 := copyStands_of_result₂ copyStands_of_eq hmaps
  have h4 : CopyStands q n s3 s4 := copyStands_of_result (updRead_copyStands ..) hepoch
  have h5 : CopyStands q n s4 t := copyStands_of_result copyStands_of_eq hready
  exact (((h1.trans h2).trans h3).trans h4).trans h5

section
variable {q n : Nat} {s t : State} {p : Prog} {g : GroupSt} {es ready : List UpdEntry} {maps : UpdMaps} {epoch : Nat}

theorem armApply_of_loads (hprog : s.prog q n = some p) (hg : s.group (uGroup p.w) = some g)
    (h : ApplyLoads (s.queue q).code p.w g s es maps epoch ready t) : armApply q n s
      = settleSink ((s.queue q).code - 0x42) (withArmed ⟨q, n⟩ (s.queue q).code p.w g es
          (armedFor ⟨q, n⟩ p.w g es maps epoch ready) t) := by
  obtain ⟨segs, s1, bs, s2, s3, s4, htable, hread, hclean, rfl, hok, hapart, hmaps, hepoch, hready⟩ := h
  unfold applyTable applyShard at *
  rw [armApply, hprog]
  simp only [hg, htable, hread, hclean, hok, hapart, hmaps, hepoch, hready, Bool.not_true, Bool.or_self,
    Bool.false_eq_true, if_false]
  rfl

/-- An APPLY leaves the update engines alone unless it loads. -/
theorem armApply_upd_or_loads (hprog : s.prog q n = some p) (hg : s.group (uGroup p.w) = some g) :
    (armApply q n s).upd = s.upd
    ∨ ∃ es maps epoch ready t, ApplyLoads (s.queue q).code p.w g s es maps epoch ready t := by
  rw [armApply, hprog]
  simp only [hg]
  split
  · exact .inl rfl
  · next h => exact .inl (by simp [upd_of_result₂ h (u := s) (by simp)])
  next segs s1 htable =>
  have h1 : s1.upd = s.upd := upd_of_result₂ htable (by simp)
  split
  · exact .inl (by simp [h1])
  next hclean =>
  split
  · exact .inl (by simp [h1])
  next hentries =>
  split
  · exact .inl rfl
  · next h => exact .inl (by simp [upd_of_result₂ h (u := s) (by simp [h1])])
  next maps s3 hmaps =>
  have h3 : s3.upd = s.upd := upd_of_result₂ hmaps (by simp [h1])
  split
  · exact .inl (by simp [updRead, h3])
  next hgood =>
  simp only [Bool.or_eq_true, Bool.not_eq_true', not_or, Bool.not_eq_false, Bool.not_eq_true] at hclean hentries hgood
  obtain ⟨hok, hapart⟩ := hentries
  obtain ⟨hepoch, hready⟩ := hgood
  exact .inr ⟨_, maps, _, _, _, segs, s1, _, _, s3, _, htable, rfl, hclean, rfl, hok, hapart, hmaps,
    Prod.ext (Prod.ext rfl hepoch) rfl, Prod.ext (Prod.ext rfl hready) rfl⟩

theorem settleSink_of_noRuns {u : Nat} (h : s.coll.runs = []) : settleSink u s = s := by
  simp [settleSink, waitingSink, h]

/-- With no collective in progress nothing meets the engine: it is armed with the update of its descriptor. -/
theorem armApply_armed (hprog : s.prog q n = some p) (hg : s.group (uGroup p.w) = some g)
    (h : ApplyLoads (s.queue q).code p.w g s es maps epoch ready t) (hruns : s.coll.runs = []) :
    ((armApply q n s).upd1 ((s.queue q).code - 0x42)).armed = some (armedFor ⟨q, n⟩ p.w g es maps epoch ready) := by
  have hidle (a : Armed) : (withArmed ⟨q, n⟩ (s.queue q).code p.w g es a t).coll.runs = [] := by
    simp [withArmed, (h.stands q n).coll, hruns]
  rw [armApply_of_loads hprog hg h, settleSink_of_noRuns (hidle _)]
  simp [withArmed]

end

theorem exec_updApply {q : QueueId} {s : State} {f : Fetched} {rest : List Fetched} (h : Startable q opUpdApply f rest s)
    (hperm : Permitted q s) (hkind : engKind (s.queue q.val).code = .update)
    (hidle : (s.upd1 ((s.queue q.val).code - 0x42)).armed = none) :
    exec (.updApply q) s = .next (armApply q.val f.n (running q f rest s)) := by
  change execUpdApply q s = _
  rw [execUpdApply, if_neg (by simp [h.hasPower])]
  dsimp only
  rw [if_pos ⟨hkind, by simp [hidle]⟩, startDesc_of_permitted h hperm]

/-- A descriptor that starts on an idle engine, with no collective in progress, arms it. -/
theorem updApply_armed {q : QueueId} {s t : State} {f : Fetched} {rest : List Fetched} {g : GroupSt}
    {es ready : List UpdEntry} {maps : UpdMaps} {epoch : Nat} (h : Startable q opUpdApply f rest s)
    (hg : s.group (uGroup f.w) = some g)
    (hloads : ApplyLoads (s.queue q.val).code f.w g (running q f rest s) es maps epoch ready t)
    (hruns : s.coll.runs = []) : ((armApply q.val f.n (running q f rest s)).upd1 ((s.queue q.val).code - 0x42)).armed
      = some (armedFor ⟨q.val, f.n⟩ f.w g es maps epoch ready) := by
  have hcoll : (running q f rest s).coll = s.coll := by simp
  have hcode := running_code q f rest s
  rw [← hcode] at hloads ⊢
  exact armApply_armed (running_prog h) ((State.group_congr hcoll _).trans hg) hloads (by rw [hcoll, hruns])

/-! ## UPD_COMMIT (R278) -/

theorem exec_updCommit {q : QueueId} {s : State} {f : Fetched} {rest : List Fetched} (h : Startable q opUpdCommit f rest s)
    (hperm : Permitted q s) : exec (.updCommit q) s = .next (runCommit q.val f.n (running q f rest s)) := by
  change execUpdCommit q s = _
  rw [execUpdCommit, if_neg (by simp [h.hasPower]), startDesc_of_permitted h hperm]

/-- The one write of a commit, if its outcome asks for one, proceeds. -/
def CommitWrites (q n : Nat) (code : Nat) (w : DWords) (write : Option (Nat × Nat × Nat)) (s : State) : Prop :=
  write = none ∨ ∃ off len v s2, write = some (off, len, v) ∧ vaWrite code (dSrc w + off)
    ((leBytes len v).map fun b => (b, false)) false (.desc ⟨q, n⟩) s = (none, s2)

/-- A commit whose block reads well ends with its outcome. -/
theorem runCommit_effect {q n : Nat} {s s1 : State} {p : Prog} {bs : List (Byte × Bool)} (hprog : s.prog q n = some p)
    (hrun : p.phase ≠ .ended) (hread : vaRead (s.queue q).code (dSrc p.w) 32 false false s = (.ok bs, s1))
    (hclean : bs.any Prod.snd = false) (hwrites : CommitWrites q n (s.queue q).code p.w (blockOutcome p.w bs).2.1 s1) :
    ∃ v, runCommit q n s = finishQueue q v
      ∧ EndsWith q n (blockOutcome p.w bs).1 (w64 (blockOutcome p.w bs).2.2) v := by
  have h1 : UnderWay q n s1 :=
    UnderWay.of_copyStands ⟨p, hprog, hrun⟩ (copyStands_of_result copyStands_of_eq hread)
  obtain hnone | ⟨off, len, v, s2, hsome, hwrite⟩ := hwrites
  · exact ⟨_, runCommit_of_noWrite hprog hread hclean hnone, endProg_endsWith h1 _ _⟩
  · have h2 : UnderWay q n s2 := h1.of_copyStands (copyStands_of_result (vaWrite_copyStands ..) hwrite)
    exact ⟨_, runCommit_of_write hprog hread hclean hsome hwrite, endProg_endsWith (h2.congr (by simp)) _ _⟩

theorem updCommit_effect {q : QueueId} {s s1 : State} {f : Fetched} {rest : List Fetched} {bs : List (Byte × Bool)}
    (h : Startable q opUpdCommit f rest s) (hperm : Permitted q s)
    (hread : vaRead (s.queue q.val).code (dSrc f.w) 32 false false (running q f rest s) = (.ok bs, s1))
    (hclean : bs.any Prod.snd = false)
    (hwrites : CommitWrites q.val f.n (s.queue q.val).code f.w (blockOutcome f.w bs).2.1 s1) :
    Yields (.updCommit q) s fun t => ∃ v, t = finishQueue q.val v
      ∧ EndsWith q.val f.n (blockOutcome f.w bs).1 (w64 (blockOutcome f.w bs).2.2) v := by
  rw [← running_code q f rest s] at hread hwrites
  exact ⟨_, exec_updCommit h hperm, runCommit_effect (running_prog h) (fun h => nomatch h) hread hclean hwrites⟩

/-! ## O27 -/

/-- Settles O27: an APPLY that loads arms its engine (`armApply_armed`) and no other one does (`armApply_upd_or_loads`); a
gradient is accepted, or the engine stalls; what has arrived is `Armed.arrive` (log 111); the writes of an APPLY or commit
leave its descriptor under way (`UnderWay.of_copyStands`), so it ends with the status and RESULT that its end gives. -/
theorem updateWorkTakesEffect : Obligations.UpdateWorkTakesEffect := by
  unfold Obligations.UpdateWorkTakesEffect
  refine ⟨?apply, ?armed, ?gradient, fun u upto s a hp harmed => stateArrival_effect hp harmed, ?expiry, ?staged, ?commit⟩
  case apply =>
    intro q s f rest t w code u h hperm hkind hidle
    refine ⟨exec_updApply h hperm hkind hidle, ?_⟩
    intro g segs s1 bs s2 maps s3 ep s4 rb s5 hg sh es htable hread hclean hok hapart hmaps hepoch hgood hrbar hgood' hruns
    have hloads : ApplyLoads code w g t es maps ep.1 rb.1 s5 := ⟨segs, s1, bs, s2, s3, s4, htable, hread, hclean, rfl,
      hok, hapart, hmaps, hepoch.trans (by rw [← hgood]), hrbar.trans (by rw [← hgood'])⟩
    exact ⟨_, exec_updApply h hperm hkind hidle, _, updApply_armed h hg hloads hruns, rfl, rfl, rfl, rfl, rfl, rfl, rfl,
      rfl, rfl⟩
  case armed =>
    intro q n t p g a hprog hg hidle hruns harmed
    obtain hsame | ⟨es, maps, epoch, ready, t', hloads⟩ := armApply_upd_or_loads hprog hg
    · rw [State.upd1_congr hsame, hidle] at harmed
      exact nomatch harmed
    · rw [armApply_armed hprog hg hloads hruns] at harmed
      obtain rfl := Option.some.inj harmed
      exact ⟨rfl, rfl, rfl, rfl, rfl, rfl, rfl, rfl, rfl, rfl, rfl⟩
  case gradient =>
    intro u bits s a r g hp harmed hrun hg hleft hcomplete hbits
    have hdelivers : Delivers u.val bits.toNat a r s := ⟨harmed, hrun, ⟨g, hg⟩, hleft, hcomplete, hbits⟩
    exact ⟨fun a' s1 => gradientDelivery_accepted hp hdelivers, gradientDelivery_stalled hp hdelivers⟩
  case expiry =>
    intro u s x id r g hp hstall hby hr hg hdue hunder
    have hexec := exec_stallBoundExpiry hp hstall hby hr hg hdue
    obtain ⟨v, hv, hends, -⟩ := endEarly_effect hg hunder stStateLate g.self .stateLate
    exact ⟨hexec, _, hexec, v, by rw [hv], hends⟩
  case staged =>
    intro u s a p hp harmed hprog hrun hpaired hwhole hvisible hreached hflush s1
    have hstaged : Staged u.val a p s := ⟨harmed, hprog, hpaired, hwhole, hvisible, hreached, hflush⟩
    exact ⟨exec_applyStaged hp hstaged, _, exec_applyStaged hp hstaged, _, rfl, applyOver_armed ..,
      applyOver_endsWith (stagedCounted_underWay ⟨p, hprog, hrun⟩) stDone⟩
  case commit =>
    intro q s f rest t code h hperm
    exact ⟨exec_updCommit h hperm, fun bs s1 hread hclean => updCommit_effect h hperm hread hclean⟩

end Sys2Proof.Machine
end

section
/-! Proofs about a step (spec 00, 98, log 1, log 3): every command completes and keeps the queue, what a step does to fuses
and debug level (spec 20 R412, R416, R424, R425, 19 R404), and O1, O58, O59. -/

namespace Sys2Proof.Machine

/-! ## Every command completes -/

/-- Executing a command answers a next state with the same commands waiting: each arm has its own lemma. -/
theorem exec_keeps_queue (c : Instr) (s : State) : Yields c s fun t => t.pending = s.pending :=
  match c with
  | .registerWrite .. => execRegisterWrite_keeps ..
  | .deviceTimeCompare .. => execDeviceTimeCompare_keeps ..
  | .coreLoad .. => execCoreLoad_keeps ..
  | .coreStore .. => execCoreStore_keeps ..
  | .cboClean .. => execCboClean_keeps ..
  | .cboFlush .. => execCboFlush_keeps ..
  | .cboInval .. => execCboInval_keeps ..
  | .cboZero .. => execCboZero_keeps ..
  | .mipisend .. => execMipisend_keeps ..
  | .sipisend .. => execSipisend_keeps ..
  | .merrinfoRead .. => execMerrinfoRead_keeps ..
  | .machineTimer .. => execMachineTimer_keeps ..
  | .homeCoreRead .. => execHomeCoreRead_keeps ..
  | .homeCoreWrite .. => execHomeCoreWrite_keeps ..
  | .homeEngineRead .. => execHomeEngineRead_keeps ..
  | .homeEngineWrite eng .. => execHomeEngineWrite_keeps eng ..
  | .holderAcknowledge .. => execHolderAcknowledge_keeps ..
  | .evictionBufferDrain .. => execEvictionBufferDrain_keeps ..
  | .sectorRead .. => execSectorRead_keeps ..
  | .correctedWriteBack .. => execCorrectedWriteBack_keeps ..
  | .wcbEntryTimeout .. => execWcbEntryTimeout_keeps ..
  | .patrolScrub .. => execPatrolScrub_keeps ..
  | .retuneSchedule .. => execRetuneSchedule_keeps ..
  | .retuneStart .. => execRetuneStart_keeps ..
  | .retuneEnd .. => execRetuneEnd_keeps ..
  | .memConfig .. => execMemConfig_keeps ..
  | .memErrorLog .. => execMemErrorLog_keeps ..
  | .pcRetune .. => execPcRetune_keeps ..
  | .stackMargin .. => execStackMargin_keeps ..
  | .stackOffline .. => execStackOffline_keeps ..
  | .stackOnline .. => execStackOnline_keeps ..
  | .cacheLock .. => execCacheLock_keeps ..
  | .cacheUnlock .. => execCacheUnlock_keeps ..
  | .streamLaunch .. => execStreamLaunch_keeps ..
  | .streamLoadComplete .. => execStreamLoadComplete_keeps ..
  | .lockGroupStart .. => execLockGroupStart_keeps ..
  | .bundleIssue .. => execBundleIssue_keeps ..
  | .accumulatorRowWrite .. => execAccumulatorRowWrite_keeps ..
  | .preloadEnd .. => execPreloadEnd_keeps ..
  | .triggerComplete .. => execTriggerComplete_keeps ..
  | .semaphoreWaitPass .. => execSemaphoreWaitPass_keeps ..
  | .groupWaitRelease .. => execGroupWaitRelease_keeps ..
  | .withheldCycle .. => execWithheldCycle_keeps ..
  | .dutyBoundary .. => execDutyBoundary_keeps ..
  | .droopStretch t => execDroopStretch_keeps t s
  | .streamComplete .. => execStreamComplete_keeps ..
  | .aryCounterClear .. => execAryCounterClear_keeps ..
  | .aryStreamClear .. => execAryStreamClear_keeps ..
  | .vectorBundleIssue .. => execVectorBundleIssue_keeps ..
  | .vectorResultWrite .. => execVectorResultWrite_keeps ..
  | .vecCounterClear .. => execVecCounterClear_keeps ..
  | .doorbell .. => execDoorbell_keeps ..
  | .descriptorFetchReturn .. => execDescriptorFetchReturn_keeps ..
  | .descriptorRefetch .. => execDescriptorRefetch_keeps ..
  | .queueEnable .. => execQueueEnable_keeps ..
  | .queueDisable .. => execQueueDisable_keeps ..
  | .queueDrainEnd .. => execQueueDrainEnd_keeps ..
  | .queueStop .. => execQueueStop_keeps ..
  | .queueResume .. => execQueueResume_keeps ..
  | .cqHeadWrite .. => execCqHeadWrite_keeps ..
  | .irqHoldoffExpiry .. => execIrqHoldoffExpiry_keeps ..
  | .qdbCounterClear .. => execQdbCounterClear_keeps ..
  | .nop .. => execNop_keeps ..
  | .copy .. => execCopy_keeps ..
  | .copy2d .. => execCopy2d_keeps ..
  | .fill .. => execFill_keeps ..
  | .writeImm .. => execWriteImm_keeps ..
  | .transferComplete .. => execTransferComplete_keeps ..
  | .invalidate .. => execInvalidate_keeps ..
  | .invalidateComplete .. => execInvalidateComplete_keeps ..
  | .migrationService .. => execMigrationService_keeps ..
  | .migrationCopyComplete .. => execMigrationCopyComplete_keeps ..
  | .faultTimeout .. => execFaultTimeout_keeps ..
  | .xltNotifyRing .. => execXltNotifyRing_keeps ..
  | .pageSupply .. => execPageSupply_keeps ..
  | .pageMigrate .. => execPageMigrate_keeps ..
  | .keyMap .. => execKeyMap_keeps ..
  | .xltCounterClear .. => execXltCounterClear_keeps ..
  | .allReduce .. => execAllReduce_keeps ..
  | .reduceScatter .. => execReduceScatter_keeps ..
  | .allGather .. => execAllGather_keeps ..
  | .broadcast .. => execBroadcast_keeps ..
  | .reduce .. => execReduce_keeps ..
  | .allToAll .. => execAllToAll_keeps ..
  | .barrier .. => execBarrier_keeps ..
  | .flagReduce .. => execFlagReduce_keeps ..
  | .collectiveStartTime .. => execCollectiveStartTime_keeps ..
  | .signatureMessage .. => execSignatureMessage_keeps ..
  | .collectiveDataMessage .. => execCollectiveDataMessage_keeps ..
  | .abortNotice .. => execAbortNotice_keeps ..
  | .memberTimeout .. => execMemberTimeout_keeps ..
  | .collectiveDone .. => execCollectiveDone_keeps ..
  | .groupTableSet .. => execGroupTableSet_keeps ..
  | .groupLoad .. => execGroupLoad_keeps ..
  | .groupUnload .. => execGroupUnload_keeps ..
  | .tallyClear .. => execTallyClear_keeps ..
  | .groupStatus .. => execGroupStatus_keeps ..
  | .updApply .. => execUpdApply_keeps ..
  | .gradientDelivery .. => execGradientDelivery_keeps ..
  | .stateArrival .. => execStateArrival_keeps ..
  | .stallBoundExpiry .. => execStallBoundExpiry_keeps ..
  | .applyStaged .. => execApplyStaged_keeps ..
  | .updCommit .. => execUpdCommit_keeps ..
  | .updCounterClear .. => execUpdCounterClear_keeps ..
  | .slotOpen .. => execSlotOpen_keeps ..
  | .slotClose .. => execSlotClose_keeps ..
  | .kvGather .. => execKvGather_keeps ..
  | .kvPut .. => execKvPut_keeps ..
  | .sample .. => execSample_keeps ..
  | .seqRingHeadWrite .. => execSeqRingHeadWrite_keeps ..
  | .seqRingCfgWrite .. => execSeqRingCfgWrite_keeps ..
  | .seqCounterClear .. => execSeqCounterClear_keeps ..
  | .linkTrainingEnd .. => execLinkTrainingEnd_keeps ..
  | .flitReceive .. => execFlitReceive_keeps ..
  | .retryReq .. => execRetryReq_keeps ..
  | .retryReqRepeat .. => execRetryReqRepeat_keeps ..
  | .ident .. => execIdent_keeps ..
  | .withdraw .. => execWithdraw_keeps ..
  | .withdrawAck .. => execWithdrawAck_keeps ..
  | .restore .. => execRestore_keeps ..
  | .creditStall .. => execCreditStall_keeps ..
  | .packetRoute .. => execPacketRoute_keeps ..
  | .write .. => execWrite_keeps ..
  | .writeAck .. => execWriteAck_keeps ..
  | .unreachable _ node => execUnreachable_keeps _ node s
  | .writeAckTimeout .. => execWriteAckTimeout_keeps ..
  | .linkDown .. => execLinkDown_keeps ..
  | .nodeDownTimer .. => execNodeDownTimer_keeps ..
  | .nodeDown .. => execNodeDown_keeps ..
  | .autoRetrainAttempt .. => execAutoRetrainAttempt_keeps ..
  | .nodeIdSet .. => execNodeIdSet_keeps ..
  | .routeWrite .. => execRouteWrite_keeps ..
  | .routeRead .. => execRouteRead_keeps ..
  | .linkConfig .. => execLinkConfig_keeps ..
  | .linkWithdraw .. => execLinkWithdraw_keeps ..
  | .linkRetrain .. => execLinkRetrain_keeps ..
  | .linkRestore .. => execLinkRestore_keeps ..
  | .ethConfig .. => execEthConfig_keeps ..
  | .rdmaMrReg .. => execRdmaMrReg_keeps ..
  | .rdmaQpSet .. => execRdmaQpSet_keeps ..
  | .ethFrameReceive .. => execEthFrameReceive_keeps ..
  | .pfcFrame .. => execPfcFrame_keeps ..
  | .cnpReceive .. => execCnpReceive_keeps ..
  | .roceRateIncrease .. => execRoceRateIncrease_keeps ..
  | .ethDoorbell .. => execEthDoorbell_keeps ..
  | .rdmaRequestReceive .. => execRdmaRequestReceive_keeps ..
  | .rdmaNak .. => execRdmaNak_keeps ..
  | .rdmaRetryExceeded .. => execRdmaRetryExceeded_keeps ..
  | .lnkCounterClear .. => execLnkCounterClear_keeps ..
  | .winBaseWrite .. => execWinBaseWrite_keeps ..
  | .windowRead .. => execWindowRead_keeps ..
  | .windowWrite .. => execWindowWrite_keeps ..
  | .portLinkUp .. => execPortLinkUp_keeps ..
  | .portLinkDown .. => execPortLinkDown_keeps ..
  | .portHotReset .. => execPortHotReset_keeps ..
  | .hostSnoop .. => execHostSnoop_keeps ..
  | .attachReadCompletion .. => execAttachReadCompletion_keeps ..
  | .flushReadCompletion .. => execFlushReadCompletion_keeps ..
  | .msixPendingSend .. => execMsixPendingSend_keeps ..
  | .winCounterClear .. => execWinCounterClear_keeps ..
  | .timeSourceSet .. => execTimeSourceSet_keeps ..
  | .timeStep .. => execTimeStep_keeps ..
  | .timeSyncSend .. => execTimeSyncSend_keeps ..
  | .timeSyncMessage .. => execTimeSyncMessage_keeps ..
  | .ppsEdge .. => execPpsEdge_keeps ..
  | .timeCounterClear .. => execTimeCounterClear_keeps ..
  | .weighHouseEstimate .. => execWeighHouseEstimate_keeps ..
  | .rampStep .. => execRampStep_keeps ..
  | .startGrant .. => execStartGrant_keeps ..
  | .reservationExpiry .. => execReservationExpiry_keeps ..
  | .heldBelowNeed .. => execHeldBelowNeed_keeps ..
  | .downRequest .. => execDownRequest_keeps ..
  | .ballastShort .. => execBallastShort_keeps ..
  | .stewardSlot .. => execStewardSlot_keeps ..
  | .request .. => execRequest_keeps ..
  | .grant .. => execGrant_keeps ..
  | .report .. => execReport_keeps ..
  | .envelope .. => execEnvelope_keeps ..
  | .heartbeat .. => execHeartbeat_keeps ..
  | .excursion .. => execExcursion_keeps ..
  | .snapshot .. => execSnapshot_keeps ..
  | .claim .. => execClaim_keeps ..
  | .reportInterval .. => execReportInterval_keeps ..
  | .heartbeatInterval .. => execHeartbeatInterval_keeps ..
  | .snapshotInterval .. => execSnapshotInterval_keeps ..
  | .envelopeInterval .. => execEnvelopeInterval_keeps ..
  | .requestResend .. => execRequestResend_keeps ..
  | .headShareInterval .. => execHeadShareInterval_keeps ..
  | .heartbeatTimeout .. => execHeartbeatTimeout_keeps ..
  | .snapshotTimeout .. => execSnapshotTimeout_keeps ..
  | .memberReportTimeout .. => execMemberReportTimeout_keeps ..
  | .paceHoldExpiry .. => execPaceHoldExpiry_keeps ..
  | .dutyCapRaise .. => execDutyCapRaise_keeps ..
  | .envelopeSet .. => execEnvelopeSet_keeps ..
  | .powerGroupJoin .. => execPowerGroupJoin_keeps ..
  | .stewardRole .. => execStewardRole_keeps ..
  | .stewardHandover .. => execStewardHandover_keeps ..
  | .paceSet .. => execPaceSet_keeps ..
  | .envelopeStatus .. => execEnvelopeStatus_keeps ..
  | .pwrEnvCounterClear .. => execPwrEnvCounterClear_keeps ..
  | .inputPowerSample .. => execInputPowerSample_keeps ..
  | .inputStageFault .. => execInputStageFault_keeps ..
  | .peakClamp .. => execPeakClamp_keeps ..
  | .peakClampEnd .. => execPeakClampEnd_keeps ..
  | .overRatedEnd .. => execOverRatedEnd_keeps ..
  | .weighHouseCompare .. => execWeighHouseCompare_keeps ..
  | .deltaRecompute .. => execDeltaRecompute_keeps ..
  | .measurementAbsent .. => execMeasurementAbsent_keeps ..
  | .recalibrationAttempt .. => execRecalibrationAttempt_keeps ..
  | .recalibrationEnd .. => execRecalibrationEnd_keeps ..
  | .thermalSensorRead .. => execThermalSensorRead_keeps ..
  | .thermalTrip .. => execThermalTrip_keeps ..
  | .marginEvaluation .. => execMarginEvaluation_keeps ..
  | .powerTrim .. => execPowerTrim_keeps ..
  | .capTags .. => execCapTags_keeps ..
  | .fixedRate .. => execFixedRate_keeps ..
  | .droopMode .. => execDroopMode_keeps ..
  | .weighCalibrate .. => execWeighCalibrate_keeps ..
  | .pwrCounterClear .. => execPwrCounterClear_keeps ..
  | .mbxDoorbellGo .. => execMbxDoorbellGo_keeps ..
  | .mbxOpDoneWrite .. => execMbxOpDoneWrite_keeps ..
  | .longOperationEnd .. => execLongOperationEnd_keeps ..
  | .mbxCounterClear .. => execMbxCounterClear_keeps ..
  | .mailbox2Command .. => execMailbox2Command_keeps ..
  | .fabricMailbox .. => execFabricMailbox_keeps ..
  | .fabricMailboxResponse .. => execFabricMailboxResponse_keeps ..
  | .fabricMailboxTimeout .. => execFabricMailboxTimeout_keeps ..
  | .watchdogExpiry .. => execWatchdogExpiry_keeps ..
  | .identityRead .. => execIdentityRead_keeps ..
  | .geometryRead .. => execGeometryRead_keeps ..
  | .blockRead .. => execBlockRead_keeps ..
  | .blockWrite .. => execBlockWrite_keeps ..
  | .eventRoute .. => execEventRoute_keeps ..
  | .eventLogRead .. => execEventLogRead_keeps ..
  | .telemetryWindow .. => execTelemetryWindow_keeps ..
  | .telemetryPeriod .. => execTelemetryPeriod_keeps ..
  | .eventLogWrite .. => execEventLogWrite_keeps ..
  | .fwLoad .. => execFwLoad_keeps ..
  | .fwActivate .. => execFwActivate_keeps ..
  | .firmwareStart .. => execFirmwareStart_keeps ..
  | .activationComplete .. => execActivationComplete_keeps ..
  | .activationTimeout .. => execActivationTimeout_keeps ..
  | .fwStatus .. => execFwStatus_keeps ..
  | .fwStartTimeout .. => execFwStartTimeout_keeps ..
  | .deviceReset .. => execDeviceReset_keeps ..
  | .deviceResetBegin .. => execDeviceResetBegin_keeps ..
  | .powerOnReset .. => execPowerOnReset_keeps ..
  | .resetNAssert .. => execResetNAssert_keeps ..
  | .resetNRelease .. => execResetNRelease_keeps ..
  | .resetWriteBackEnd .. => execResetWriteBackEnd_keeps ..
  | .stackTrainingEnd .. => execStackTrainingEnd_keeps ..
  | .poolReady .. => execPoolReady_keeps ..
  | .firmwareReady .. => execFirmwareReady_keeps ..
  | .bootCounterClear .. => execBootCounterClear_keeps ..
  | .certRead .. => execCertRead_keeps ..
  | .attest .. => execAttest_keeps ..
  | .debugChallenge .. => execDebugChallenge_keeps ..
  | .debugAuth .. => execDebugAuth_keeps ..
  | .rootRevoke .. => execRootRevoke_keeps ..
  | .svnAdvance .. => execSvnAdvance_keeps ..
  | .keyLoad .. => execKeyLoad_keeps ..
  | .keyErase .. => execKeyErase_keeps ..
  | .debugEnd .. => execDebugEnd_keeps ..
  | .notAfterExpiry .. => execNotAfterExpiry_keeps ..
  | .challengeExpiry .. => execChallengeExpiry_keeps ..
  | .dbgCounterClear .. => execDbgCounterClear_keeps ..
  | .bridgeSegmentDown .. => execBridgeSegmentDown_keeps ..
  | .cntCounterClear .. => execCntCounterClear_keeps ..
  | .hbmCounterClear .. => execHbmCounterClear_keeps ..
  | .inputUndervoltage .. => execInputUndervoltage_keeps ..
  | .refclkLoss .. => execRefclkLoss_keeps ..
  | .registerRead .. => execRegisterRead_keeps ..
  | .debugPathAccess .. => execDebugPathAccess_keeps ..
  | .testPortAccess .. => execTestPortAccess_keeps ..
  | .configurationRequest .. => execConfigurationRequest_keeps ..
  | .rdmaResponseReceive .. => execRdmaResponseReceive_keeps ..
  | .completionTimeout .. => execCompletionTimeout_keeps ..
  | .watchdogRestart .. => execWatchdogRestart_keeps ..
  | .ppsOutEdge .. => execPpsOutEdge_keeps ..

theorem step_of_front {c : Instr} {s : State} {rest : List Instr} :
    step { s with pending := c :: rest } = exec c { s with pending := rest } := rfl

theorem step_of_empty {s : State} (h : s.pending = []) : step s = .next (tick s) := by
  unfold step
  rw [h]

theorem tick_of_unpowered {s : State} (h : powered s = false) : tick s = s := by
  unfold tick
  rw [h]
  rfl

/-! ## Fuses and the level -/

/-- The fused SVN has not fallen, what was revoked is revoked, and the invariant of fuses and level is kept. -/
def FusesGrow (s t : State) : Prop :=
  s.sec.svn ≤ t.sec.svn ∧ (∀ k, s.sec.revoked.getLsbD k = true → t.sec.revoked.getLsbD k = true) ∧ (SecInv s → SecInv t)

theorem FusesGrow.refl (s : State) : FusesGrow s s := ⟨le_rfl, fun _ h => h, id⟩

theorem FusesGrow.trans {s t u : State} (h1 : FusesGrow s t) (h2 : FusesGrow t u) : FusesGrow s u := by
  obtain ⟨hsvn1, hrev1, hinv1⟩ := h1
  obtain ⟨hsvn2, hrev2, hinv2⟩ := h2
  exact ⟨hsvn1.trans hsvn2, fun k h => hrev2 k (hrev1 k h), hinv2 ∘ hinv1⟩

/-- The fuses are as before, and the level is one of Table 20-6 if it was. -/
theorem fusesGrow_of_kept {s t : State} (hsvn : t.sec.svn = s.sec.svn) (hrev : t.sec.revoked = s.sec.revoked)
    (hlevel : s.sec.level ≤ 2 → t.sec.level ≤ 2) : FusesGrow s t := by
  refine ⟨hsvn.ge, fun k h => by rwa [hrev], fun ⟨hs, hl, hr⟩ => ⟨?_, hlevel hl, ?_⟩⟩
  · rwa [hsvn]
  · rwa [hrev]

theorem fusesGrow_of_sec {s t : State} (h : t.sec = s.sec) : FusesGrow s t :=
  fusesGrow_of_kept (by rw [h]) (by rw [h]) (by rw [h]; exact id)

/-! ### Commands that a mailbox serves -/

theorem refuse_fusesGrow (c : MCmd) (st : BitVec 16) (d : Nat) (s : State) : FusesGrow s (refuse c st d s) :=
  fusesGrow_of_sec (refuse_fr c st d s).2

theorem answer_fusesGrow {c : MCmd} {pay : List Byte} {s t : State} (h : FusesGrow s t) : FusesGrow s (answer c pay t) :=
  h.trans (fusesGrow_of_sec (answer_fr c pay t).2)

theorem serve_fusesGrow {m : MbxId} {id : Nat} {f : MCmd → State → State} {s : State} (hf : ∀ c x, FusesGrow x (f c x)) :
    FusesGrow s (serve m id f s) := by
  unfold serve
  split
  · exact .refl s
  · dsimp only
    split
    · refine .trans (t := s.modMgr _) (fusesGrow_of_sec rfl) ((hf _ _).trans (fusesGrow_of_sec (settle_fr _).2))
    · exact .refl s

theorem firstFail_eq_none {st : BitVec 16} {l : List (Bool × Nat)} (h : firstFail st l = none) : ∀ x ∈ l, x.1 = false := by
  intro x hx
  unfold firstFail at h
  simpa using List.find?_eq_none.1 (Option.map_eq_none_iff.1 h) x hx

/-- Either some check refuses the command, or all of them let it pass. -/
theorem checked_cases (c : MCmd) (range busy conflict : List (Bool × Nat)) (k : State → State) (s : State) :
    (∃ st d, checked c range busy conflict k s = refuse c st d s)
      ∨ ((∀ x ∈ range, x.1 = false) ∧ (∀ x ∈ conflict, x.1 = false) ∧ checked c range busy conflict k s = k s) := by
  unfold checked
  cases hall : ((firstFail mbxRange range).or (firstFail mbxBusy busy)).or (firstFail mbxConflict conflict) with
  | some e => exact .inl ⟨_, _, rfl⟩
  | none =>
    obtain ⟨hfirst, hconflict⟩ := Option.or_eq_none_iff.1 hall
    exact .inr ⟨firstFail_eq_none (Option.or_eq_none_iff.1 hfirst).1, firstFail_eq_none hconflict, rfl⟩

theorem checked_fusesGrow {c : MCmd} {range busy conflict : List (Bool × Nat)} {k : State → State} {s : State}
    (hk : (∀ x ∈ range, x.1 = false) → (∀ x ∈ conflict, x.1 = false) → FusesGrow s (k s)) :
    FusesGrow s (checked c range busy conflict k s) := by
  obtain ⟨st, d, h⟩ | ⟨hrange, hconflict, h⟩ := checked_cases c range busy conflict k s
  · rw [h]
    exact refuse_fusesGrow c st d s
  · rw [h]
    exact hk hrange hconflict

/-! ### Authorisations (20 R414-R416, R424, R425) -/

/-- An authorisation whose fields are in range names a level not above the most its command allows. -/
theorem authRange_level {purpose most : Nat} {a : List Byte} (h : authRange purpose most a = none) : leAt a 6 1 ≤ most := by
  unfold authRange at h
  have hall := List.find?_eq_none.1 (Option.map_eq_none_iff.1 h)
  simpa using hall (decide (most < leAt a 6 1), 6) (by simp)

theorem authorised_fusesGrow {c : MCmd} {off purpose most : Nat} {k : List Byte → State → State} {s : State}
    (hk : ∀ a x, leAt a 6 1 ≤ most → FusesGrow x (k a x)) : FusesGrow s (authorised c off purpose most k s) := by
  have hfail (st : BitVec 16) (d : Nat) (x : State) :
      FusesGrow x (refuse c st d (raiseEv srcDbg evAuthFail (count authFailCount 1 x))) :=
    .trans (fusesGrow_of_sec (by simp)) (refuse_fusesGrow c st d _)
  have hused (b : Bool) : FusesGrow s (if b then s.modSec fun x => { x with challenge := none } else s) := by
    cases b
    · exact .refl s
    · exact fusesGrow_of_kept rfl rfl id
  unfold authorised
  dsimp only
  split
  · exact hfail _ _ s
  · next hrange =>
    split
    · exact (hused _).trans (hfail _ _ _)
    · exact (hused _).trans (hk _ _ (authRange_level hrange))

theorem attest_fusesGrow (c : MCmd) (s : State) : FusesGrow s (attest c s) :=
  answer_fusesGrow (fusesGrow_of_kept rfl rfl id)

theorem debugChallenge_fusesGrow (c : MCmd) (s : State) : FusesGrow s (debugChallenge c s) :=
  answer_fusesGrow (fusesGrow_of_kept rfl rfl id)

theorem debugAuth_fusesGrow (c : MCmd) (s : State) : FusesGrow s (debugAuth c s) := by
  refine authorised_fusesGrow fun a x hlevel => answer_fusesGrow ?_
  have herased : (if leAt a 6 1 = 2 then (List.range 64).foldl (fun s k => eraseKey k s) x else x).sec = x.sec := by
    split <;> simp
  exact fusesGrow_of_kept (by simp [herased]) (by simp [herased]) fun _ => by simpa using hlevel

/-- Revoking a slot leaves a slot when it was revoked already or was not the last (R416). -/
theorem revoke_leaves_slot : ∀ (r : BitVec 4) (k : Fin 4), r ≠ 15 →
    (r.getLsbD k = true ∨ ((List.range 4).filter fun k => !r.getLsbD k).length ≠ 1) →
    r ||| BitVec.ofNat 4 (2 ^ k.val) ≠ 15 := by decide

theorem rootRevoke_fusesGrow (c : MCmd) (s : State) : FusesGrow s (rootRevoke c s) := by
  refine checked_fusesGrow fun hslot _ => authorised_fusesGrow fun a x _ => checked_fusesGrow fun _ hlast => answer_fusesGrow ?_
  have hlt : c.le 0 1 < 4 := by simpa [Nat.lt_succ_iff] using hslot _ (List.mem_singleton_self _)
  have hleft : x.sec.revoked.getLsbD (c.le 0 1) = true ∨ openSlots x ≠ 1 := by
    have := (Bool.or_eq_false_iff.1 (hlast _ (List.mem_singleton_self _))).2
    by_cases hr : x.sec.revoked.getLsbD (c.le 0 1) = true
    · exact .inl hr
    · simp only [Bool.not_eq_true] at hr
      exact .inr (by simpa [hr] using this)
  refine ⟨le_rfl, fun k h => ?_, fun ⟨hsvn, hlevel, hrev⟩ => ⟨hsvn, hlevel, revoke_leaves_slot _ ⟨_, hlt⟩ hrev hleft⟩⟩
  simp [h]

theorem svnAdvance_fusesGrow (c : MCmd) (s : State) : FusesGrow s (svnAdvance c s) := by
  refine checked_fusesGrow fun hnew _ => ?_
  split
  · exact refuse_fusesGrow ..
  · refine checked_fusesGrow fun _ hconflict => answer_fusesGrow ?_
    have hmost : c.le 0 1 ≤ 64 := by simpa using (Bool.or_eq_false_iff.1 (hnew _ (List.mem_singleton_self _))).2
    have hge : s.sec.svn ≤ c.le 0 1 := by
      have := hconflict _ (List.mem_singleton_self _)
      simp at this
      omega
    exact ⟨hge, fun _ h => h, fun ⟨_, hlevel, hrev⟩ => ⟨hmost, hlevel, hrev⟩⟩

theorem endDebug_fusesGrow (s : State) : FusesGrow s (endDebug s) := by
  unfold endDebug
  split
  · exact .refl s
  · refine .trans (t := s.modSec fun x => { x with level := 0, signer := 0, notAfter := 0 }) ?_ (fusesGrow_of_sec (by simp))
    exact fusesGrow_of_kept rfl rfl fun _ => Nat.zero_le 2

/-! ### Accesses of the register space: a write of DBG_CTRL ends the level in force (R425) -/

theorem dbgWrite_fusesGrow (r : Nat) (m v : W64) (s : State) : FusesGrow s (dbgWrite r m v s) := by
  unfold dbgWrite
  split
  · split
    · exact endDebug_fusesGrow s
    · exact .refl s
  all_goals exact fusesGrow_of_sec (by simp)

theorem regWrite_fusesGrow (a : Nat) (m v : W64) (s : State) : FusesGrow s (regWrite a m v s) := by
  unfold regWrite
  split
  · exact fusesGrow_of_sec (bootWrite_fr ..).2
  split
  · exact fusesGrow_of_sec (mbxWrite_fr ..).2
  split
  · exact fusesGrow_of_sec (winWrite_fr ..).2
  split
  · exact fusesGrow_of_sec (qdbWrite_fr ..).2
  split
  · exact fusesGrow_of_sec (timeWrite_fr ..).2
  · exact fusesGrow_of_sec (pwrWrite_fr ..).2
  · exact fusesGrow_of_sec (cntWrite_fr ..).2
  · exact fusesGrow_of_sec (xltWrite_fr ..).2
  · exact fusesGrow_of_sec (lnkWrite_fr ..).2
  · exact fusesGrow_of_sec (hbmWrite_fr ..).2
  · exact dbgWrite_fusesGrow _ m v s
  · exact .refl s

theorem spaceWrite_fusesGrow (p : Path) (off width : Nat) (v : W64) (s : State) : FusesGrow s (spaceWrite p off width v s) := by
  have herror (cause : Nat) : FusesGrow s (accessError p true cause off s) := fusesGrow_of_sec (accessError_fr ..).2
  unfold spaceWrite
  split
  · exact herror 1
  · split
    · exact herror 2
    · exact regWrite_fusesGrow _ _ _ s

theorem coreStore_fusesGrow (c : CoreId) (pa : PAddr) (data : List Byte) (kind : StoreKind) (s : State) :
    FusesGrow s (coreStore c pa data kind s) := by
  unfold coreStore
  dsimp only
  repeat' split
  all_goals first | exact spaceWrite_fusesGrow _ _ _ _ s | exact fusesGrow_of_sec (by simp)

/-! ### Resets and shutdowns (19 R404) -/

theorem wiped_fusesGrow (s : State) : FusesGrow s (wiped s) := fusesGrow_of_kept rfl rfl fun _ => Nat.zero_le 2

theorem shutDown_fusesGrow (cause : Byte) (s : State) : FusesGrow s (shutDown cause s) := by
  unfold shutDown
  split
  · exact .refl s
  · exact (wiped_fusesGrow s).trans (fusesGrow_of_sec rfl)

theorem powerOn_sec (s : State) : (powerOn s).sec = (wiped s).sec := by
  unfold powerOn
  dsimp only
  split <;> simp

theorem powerOn_fusesGrow (s : State) : FusesGrow s (powerOn s) := (wiped_fusesGrow s).trans (fusesGrow_of_sec (powerOn_sec s))

theorem resetBase_fusesGrow (kind : Byte) (keep dropped : Bool) (s : State) : FusesGrow s (resetBase kind keep dropped s) :=
  (wiped_fusesGrow s).trans (fusesGrow_of_sec rfl)

theorem deviceReset_fusesGrow (kind : Byte) (preserve : Bool) (s : State) : FusesGrow s (deviceReset kind preserve s) := by
  have hfreed (b : Bool) : FusesGrow s (if b then freeDestinations s else s) := by
    cases b
    · exact .refl s
    · exact fusesGrow_of_sec (freeDestinations_fr s).2
  have hcount (x : State) : FusesGrow x (count resetCount 1 x) := fusesGrow_of_sec (by simp)
  exact (hfreed _).trans ((resetBase_fusesGrow ..).trans (hcount _))

theorem resetNAssert_fusesGrow (s : State) : FusesGrow s (resetNAssert s) := by
  have hpin : FusesGrow s { s with pins := { s.pins with resetN := false } } := fusesGrow_of_sec rfl
  unfold resetNAssert
  dsimp only
  split
  · exact hpin
  · exact hpin.trans (deviceReset_fusesGrow 2 _ _)

theorem bridgeSegmentDown_fusesGrow (seg : Nat) (s : State) : FusesGrow s (bridgeSegmentDown seg s) := by
  unfold bridgeSegmentDown
  split
  · exact .refl s
  · dsimp only
    split
    · exact .trans (t := s.modBoot _) (fusesGrow_of_sec rfl) (shutDown_fusesGrow _ _)
    · exact fusesGrow_of_sec (by simp)

/-! ### Every command -/

/-- The next state that an outcome answers, if it answers one, has fuses that have grown. -/
def Grows (s : State) (o : Host.Outcome State Fault Refusal) : Prop := ∀ t, o = .next t → FusesGrow s t

theorem grows_next {s u : State} (h : FusesGrow s u) : Grows s (.next u) := by
  intro t ht
  cases ht
  exact h

theorem grows_sec {s u : State} (h : u.sec = s.sec) : Grows s (.next u) := grows_next (fusesGrow_of_sec h)

theorem grows_gated {s u : State} (h : FusesGrow s u) : Grows s (if !powered s then .next s else .next u) := by
  split
  · exact grows_next (.refl s)
  · exact grows_next h

theorem grows_gated_sec {s u : State} (h : u.sec = s.sec) : Grows s (if !powered s then .next s else .next u) :=
  grows_gated (fusesGrow_of_sec h)

theorem grows_of_out {s : State} {o : Host.Outcome State Fault Refusal} (h : (outState o s).sec = s.sec) : Grows s o := by
  rintro t rfl
  exact fusesGrow_of_sec h

theorem grows_ite {s u : State} {p : Prop} [Decidable p] (h : FusesGrow s u) : Grows s (.next (if p then u else s)) := by
  refine grows_next ?_
  split
  · exact h
  · exact .refl s

theorem execCoreStore_grows (c : CoreId) (pa : PAddr) (data : List Byte) (kind : StoreKind) (s : State) :
    Grows s (execCoreStore c pa data kind s) := by
  refine grows_next ?_
  split
  · exact .refl s
  · exact coreStore_fusesGrow c pa data kind s

theorem execInvalidate_grows (q : QueueId) (s : State) : Grows s (execInvalidate q s) := by
  have hsec : (startDesc q.val opInvalidate s).2.sec = s.sec := by simp
  refine grows_gated_sec ?_
  split
  · next heq =>
    rw [heq] at hsec
    split <;> simpa using hsec
  · next heq =>
    rwa [heq] at hsec

theorem execUpdApply_grows (q : QueueId) (s : State) : Grows s (execUpdApply q s) := by
  have hsec : (startDesc q.val opUpdApply s).2.sec = s.sec := by simp
  refine grows_gated_sec ?_
  split
  · split
    · next heq =>
      rw [heq] at hsec
      simpa using hsec
    · next heq =>
      rwa [heq] at hsec
  · rfl

theorem execUpdCommit_grows (q : QueueId) (s : State) : Grows s (execUpdCommit q s) := by
  have hsec : (startDesc q.val opUpdCommit s).2.sec = s.sec := by simp
  refine grows_gated_sec ?_
  split
  · next heq =>
    rw [heq] at hsec
    simpa using hsec
  · next heq =>
    rwa [heq] at hsec

theorem execStartGrant_grows (s : State) : Grows s (execStartGrant s) := by
  have hsec := (sluiceNext_fr s).2
  refine grows_gated_sec ?_
  split
  · next heq =>
    rwa [heq] at hsec
  · next heq =>
    rw [heq] at hsec
    split <;> simpa using hsec

theorem execSnapshot_grows (m : PermitMsg) (body : SnapBody) (s : State) : Grows s (execSnapshot m body s) := by
  refine grows_sec ?_
  split
  · dsimp only
    split <;> simp
  · rfl

theorem execThermalTrip_grows (tempC : Nat) (s : State) : Grows s (execThermalTrip tempC s) := by
  have htold : FusesGrow s (if s.env.member && fwRoles s then excursion 6 true s else s) := fusesGrow_of_sec (by split <;> simp)
  exact grows_ite (htold.trans (shutDown_fusesGrow _ _))

theorem execDeviceResetBegin_grows (s : State) : Grows s (execDeviceResetBegin s) := by
  refine grows_gated ?_
  split
  · split
    · exact deviceReset_fusesGrow 3 _ s
    · exact .refl s
  · exact .refl s

theorem execBridgeSegmentDown_grows (seg : Fin 2) (s : State) : Grows s (execBridgeSegmentDown seg s) :=
  grows_ite (bridgeSegmentDown_fusesGrow seg.val s)

theorem execInputUndervoltage_grows (s : State) : Grows s (execInputUndervoltage s) :=
  grows_next ((wiped_fusesGrow s).trans (fusesGrow_of_sec rfl))

theorem execDebugEnd_grows (v : W64) (s : State) : Grows s (execDebugEnd v s) := by
  refine grows_gated ?_
  split
  · exact endDebug_fusesGrow s
  · exact .refl s

theorem execNotAfterExpiry_grows (s : State) : Grows s (execNotAfterExpiry s) := by
  refine grows_gated ?_
  split
  · exact endDebug_fusesGrow s
  · exact .refl s

theorem execChallengeExpiry_grows (s : State) : Grows s (execChallengeExpiry s) := by
  refine grows_gated ?_
  split
  · split
    · exact fusesGrow_of_kept rfl rfl id
    · exact .refl s
  · exact .refl s

/-- No command lowers a fuse, and each keeps the invariant of fuses and level: most leave the security state alone, as the
operations that they are made of do. -/
theorem exec_grows (c : Instr) (s : State) : Grows s (exec c s) :=
  match c with
  | .registerWrite .. => grows_ite (spaceWrite_fusesGrow ..)
  | .deviceTimeCompare .. => grows_gated_sec (by simp)
  | .coreLoad .. => grows_sec (by simp)
  | .coreStore c pa data kind => execCoreStore_grows c pa data kind s
  | .cboClean .. => grows_gated_sec (by simp)
  | .cboFlush .. => grows_gated_sec (by simp)
  | .cboInval .. => grows_gated_sec (by simp)
  | .cboZero .. => grows_gated_sec (by simp)
  | .mipisend .. => grows_sec (by simp)
  | .sipisend .. => grows_sec (by simp)
  | .merrinfoRead .. => grows_sec (clocked_fr _ s fun _ => csrAccess_fr _ _ _ _ fun _ => merrinfoRead_fr ..).2
  | .machineTimer .. => grows_sec (clocked_fr _ s fun _ => csrAccess_fr _ _ _ _ fun _ => machineTimer_fr ..).2
  | .homeCoreRead .. => grows_gated_sec (by simp)
  | .homeCoreWrite .. => grows_gated_sec (by simp)
  | .homeEngineRead .. => grows_gated_sec (by simp)
  | .homeEngineWrite .. => grows_gated_sec (by simp)
  | .holderAcknowledge .. => grows_gated_sec (by simp)
  | .evictionBufferDrain .. => grows_sec (clocked_fr _ s fun _ => by simp).2
  | .sectorRead .. => grows_gated_sec (by simp)
  | .correctedWriteBack .. => grows_gated_sec (by (repeat' split) <;> simp)
  | .wcbEntryTimeout .. => grows_gated_sec (by (repeat' split) <;> simp)
  | .patrolScrub .. => grows_gated_sec (by simp)
  | .retuneSchedule .. => grows_sec (by simp)
  | .retuneStart .. => grows_gated_sec (by (repeat' split) <;> simp)
  | .retuneEnd .. => grows_sec (clocked_fr _ s fun _ => retuneEnd_fr ..).2
  | .memConfig .. => grows_sec (serve_fr _ _ _ s fun _ _ => memConfig_fr ..).2
  | .memErrorLog .. => grows_sec (serve_fr _ _ _ s fun _ _ => memErrorLog_fr ..).2
  | .pcRetune .. => grows_sec (serve_fr _ _ _ s fun _ _ => pcRetune_fr ..).2
  | .stackMargin .. => grows_sec (serve_fr _ _ _ s fun _ _ => stackMargin_fr ..).2
  | .stackOffline .. => grows_sec (serve_fr _ _ _ s fun _ _ => stackOffline_fr ..).2
  | .stackOnline .. => grows_sec (serve_fr _ _ _ s fun _ _ => stackOnline_fr ..).2
  | .cacheLock .. => grows_sec (serve_fr _ _ _ s fun _ _ => cacheLock_fr ..).2
  | .cacheUnlock .. => grows_sec (serve_fr _ _ _ s fun _ _ => cacheUnlock_fr ..).2
  | .streamLaunch .. => grows_sec (clocked_fr _ s fun _ => streamLaunch_fr ..).2
  | .streamLoadComplete .. => grows_sec (clocked_fr _ s fun _ => streamLoad_fr ..).2
  | .lockGroupStart .. => grows_sec (clocked_fr _ s fun _ => startGroup_fr ..).2
  | .bundleIssue .. => grows_sec (clocked_fr _ s fun _ => issueTogether_fr ..).2
  | .accumulatorRowWrite .. => grows_sec (by (repeat' split) <;> simp)
  | .preloadEnd .. => grows_sec (by simp)
  | .triggerComplete .. => grows_sec (clocked_fr _ s fun _ => triggerComplete_fr ..).2
  | .semaphoreWaitPass .. => grows_sec (by simp)
  | .groupWaitRelease .. => grows_sec (clocked_fr _ s fun _ => groupRelease_fr ..).2
  | .withheldCycle .. => grows_sec (by simp)
  | .dutyBoundary .. => grows_sec (by simp)
  | .droopStretch .. => grows_sec (by simp)
  | .streamComplete .. => grows_sec (clocked_fr _ s fun _ => streamComplete_fr ..).2
  | .aryCounterClear .. => grows_sec (by simp)
  | .aryStreamClear .. => grows_sec (by simp)
  | .vectorBundleIssue .. => grows_sec (clocked_fr _ s fun _ => issueTogether_fr ..).2
  | .vectorResultWrite .. => grows_sec (clocked_fr _ s fun _ => vectorResultWrite_fr ..).2
  | .vecCounterClear .. => grows_sec (by simp)
  | .doorbell .. => grows_gated_sec (by simp)
  | .descriptorFetchReturn .. => grows_sec (clocked_fr _ s fun _ => fetchReturn_fr ..).2
  | .descriptorRefetch .. => grows_gated_sec (by (repeat' split) <;> simp)
  | .queueEnable .. => grows_sec (clocked_fr _ s fun _ => queueEnable_fr ..).2
  | .queueDisable .. => grows_sec (clocked_fr _ s fun _ => queueDisable_fr ..).2
  | .queueDrainEnd .. => grows_sec (clocked_fr _ s fun _ => queueDrainEnd_fr ..).2
  | .queueStop .. => grows_sec (clocked_fr _ s fun _ => queueStop_fr ..).2
  | .queueResume .. => grows_sec (clocked_fr _ s fun _ => queueResume_fr ..).2
  | .cqHeadWrite .. => grows_gated_sec (by simp)
  | .irqHoldoffExpiry .. => grows_gated_sec (by (repeat' split) <;> simp)
  | .qdbCounterClear .. => grows_gated_sec (by simp)
  | .nop .. => grows_gated_sec (by simp)
  | .copy .. => grows_sec (clocked_fr _ s fun _ => startCopy_fr ..).2
  | .copy2d .. => grows_sec (clocked_fr _ s fun _ => startCopy_fr ..).2
  | .fill .. => grows_sec (clocked_fr _ s fun _ => startCopy_fr ..).2
  | .writeImm .. => grows_sec (clocked_fr _ s fun _ => startCopy_fr ..).2
  | .transferComplete .. => grows_gated_sec (by simp)
  | .invalidate q => execInvalidate_grows q s
  | .invalidateComplete .. => grows_sec (clocked_fr _ s fun _ => invalidateComplete_fr ..).2
  | .migrationService .. => grows_sec (by (repeat' split) <;> simp)
  | .migrationCopyComplete .. => grows_sec (by simp)
  | .faultTimeout .. => grows_sec (clocked_fr _ s fun _ => faultTimeout_fr ..).2
  | .xltNotifyRing .. => grows_sec (serve_fr _ _ _ s fun _ _ => xltNotifyRing_fr ..).2
  | .pageSupply .. => grows_sec (serve_fr _ _ _ s fun _ _ => pageSupply_fr ..).2
  | .pageMigrate .. => grows_sec (serve_fr _ _ _ s fun _ _ => pageMigrate_fr ..).2
  | .keyMap .. => grows_sec (serve_fr _ _ _ s fun _ _ => keyMap_fr ..).2
  | .xltCounterClear .. => grows_sec (clocked_fr _ s fun _ => clearOn_fr ..).2
  | .allReduce .. => grows_sec (clocked_fr _ s fun _ => startColl_fr ..).2
  | .reduceScatter .. => grows_sec (clocked_fr _ s fun _ => startColl_fr ..).2
  | .allGather .. => grows_sec (clocked_fr _ s fun _ => startColl_fr ..).2
  | .broadcast .. => grows_sec (clocked_fr _ s fun _ => startColl_fr ..).2
  | .reduce .. => grows_sec (clocked_fr _ s fun _ => startColl_fr ..).2
  | .allToAll .. => grows_sec (clocked_fr _ s fun _ => startColl_fr ..).2
  | .barrier .. => grows_sec (clocked_fr _ s fun _ => startColl_fr ..).2
  | .flagReduce .. => grows_sec (clocked_fr _ s fun _ => startColl_fr ..).2
  | .collectiveStartTime .. => grows_gated_sec (by (repeat' split) <;> simp)
  | .signatureMessage .. => grows_gated_sec (by (repeat' split) <;> simp)
  | .collectiveDataMessage .. => grows_gated_sec (by (repeat' split) <;> simp)
  | .abortNotice .. => grows_gated_sec (by (repeat' split) <;> simp)
  | .memberTimeout .. => grows_gated_sec (by (repeat' split) <;> simp)
  | .collectiveDone .. => grows_sec (clocked_fr _ s fun _ => collDone_fr ..).2
  | .groupTableSet .. => grows_sec (serve_fr _ _ _ s fun _ _ => groupTableSet_fr ..).2
  | .groupLoad .. => grows_sec (serve_fr _ _ _ s fun _ _ => groupLoad_fr ..).2
  | .groupUnload .. => grows_sec (serve_fr _ _ _ s fun _ _ => groupUnload_fr ..).2
  | .tallyClear .. => grows_sec (serve_fr _ _ _ s fun _ _ => tallyClear_fr ..).2
  | .groupStatus .. => grows_sec (serve_fr _ _ _ s fun _ _ => groupStatus_fr ..).2
  | .updApply q => execUpdApply_grows q s
  | .gradientDelivery .. => grows_sec (clocked_fr _ s fun _ => gradient_fr ..).2
  | .stateArrival .. => grows_gated_sec (by (repeat' split) <;> simp)
  | .stallBoundExpiry .. => grows_gated_sec (by (repeat' split) <;> simp)
  | .applyStaged .. => grows_sec (clocked_fr _ s fun _ => applyStaged_fr ..).2
  | .updCommit q => execUpdCommit_grows q s
  | .updCounterClear .. => grows_gated_sec (by simp)
  | .slotOpen .. => grows_sec (clocked_fr _ s fun _ => startSeq_fr ..).2
  | .slotClose .. => grows_sec (clocked_fr _ s fun _ => startSeq_fr ..).2
  | .kvGather .. => grows_sec (clocked_fr _ s fun _ => startSeq_fr ..).2
  | .kvPut .. => grows_sec (clocked_fr _ s fun _ => startSeq_fr ..).2
  | .sample .. => grows_sec (clocked_fr _ s fun _ => startSeq_fr ..).2
  | .seqRingHeadWrite .. => grows_gated_sec (by simp)
  | .seqRingCfgWrite .. => grows_gated_sec (by simp)
  | .seqCounterClear .. => grows_gated_sec (by simp)
  | .linkTrainingEnd .. => grows_sec (clocked_fr _ s fun _ => trainingEnd_fr ..).2
  | .flitReceive .. => grows_sec (clocked_fr _ s fun _ => flitReceive_fr ..).2
  | .retryReq .. => grows_sec (clocked_fr _ s fun _ => retryReq_fr ..).2
  | .retryReqRepeat .. => grows_gated_sec (by (repeat' split) <;> simp)
  | .ident .. => grows_sec (clocked_fr _ s fun _ => ident_fr ..).2
  | .withdraw .. => grows_sec (clocked_fr _ s fun _ => peerWithdraw_fr ..).2
  | .withdrawAck .. => grows_sec (clocked_fr _ s fun _ => withdrawAck_fr ..).2
  | .restore .. => grows_sec (clocked_fr _ s fun _ => linkRestored_fr ..).2
  | .creditStall .. => grows_gated_sec (by simp)
  | .packetRoute .. => grows_sec (clocked_fr _ s fun _ => routePacket_fr ..).2
  | .write .. => grows_gated_sec (by simp)
  | .writeAck .. => grows_sec (clocked_fr _ s fun _ => ackWrite_fr ..).2
  | .unreachable .. => grows_sec (clocked_fr _ s fun _ => unreachable_fr ..).2
  | .writeAckTimeout .. => grows_gated_sec (by (repeat' split) <;> simp)
  | .linkDown .. => grows_sec (clocked_fr _ s fun _ => linkDown_fr ..).2
  | .nodeDownTimer .. => grows_gated_sec (by simp)
  | .nodeDown .. => grows_sec (clocked_fr _ s fun _ => nodeDown_fr ..).2
  | .autoRetrainAttempt .. => grows_gated_sec (by simp)
  | .nodeIdSet .. => grows_sec (serve_fr _ _ _ s fun _ _ => nodeIdSet_fr ..).2
  | .routeWrite .. => grows_sec (serve_fr _ _ _ s fun _ _ => routeWrite_fr ..).2
  | .routeRead .. => grows_sec (serve_fr _ _ _ s fun _ _ => routeRead_fr ..).2
  | .linkConfig .. => grows_sec (serve_fr _ _ _ s fun _ _ => linkConfig_fr ..).2
  | .linkWithdraw .. => grows_sec (serve_fr _ _ _ s fun _ _ => linkWithdraw_fr ..).2
  | .linkRetrain .. => grows_sec (serve_fr _ _ _ s fun _ _ => linkRetrain_fr ..).2
  | .linkRestore .. => grows_sec (serve_fr _ _ _ s fun _ _ => linkRestore_fr ..).2
  | .ethConfig .. => grows_sec (serve_fr _ _ _ s fun _ _ => ethConfig_fr ..).2
  | .rdmaMrReg .. => grows_sec (serve_fr _ _ _ s fun _ _ => rdmaMrReg_fr ..).2
  | .rdmaQpSet .. => grows_sec (serve_fr _ _ _ s fun _ _ => rdmaQpSet_fr ..).2
  | .ethFrameReceive .. => grows_sec (clocked_fr _ s fun _ => ethFrame_fr ..).2
  | .pfcFrame .. => grows_gated_sec (by simp)
  | .cnpReceive .. => grows_sec (clocked_fr _ s fun _ => cnpReceive_fr ..).2
  | .roceRateIncrease .. => grows_sec (clocked_fr _ s fun _ => rateIncrease_fr ..).2
  | .ethDoorbell .. => grows_sec (clocked_fr _ s fun _ => ethDoorbell_fr ..).2
  | .rdmaRequestReceive .. => grows_sec (clocked_fr _ s fun _ => rdmaRequest_fr ..).2
  | .rdmaNak .. => grows_sec (clocked_fr _ s fun _ => failWork_fr ..).2
  | .rdmaRetryExceeded .. => grows_sec (clocked_fr _ s fun _ => failWork_fr ..).2
  | .lnkCounterClear .. => grows_gated_sec (by simp)
  | .winBaseWrite .. => grows_sec (clocked_fr _ s fun _ => winBaseWrite_fr ..).2
  | .windowRead .. => grows_sec (clocked_fr _ s fun _ => windowRead_fr ..).2
  | .windowWrite .. => grows_sec (clocked_fr _ s fun _ => windowWrite_fr ..).2
  | .portLinkUp .. => grows_gated_sec (by simp)
  | .portLinkDown .. => grows_sec (clocked_fr _ s fun _ => portDown_fr ..).2
  | .portHotReset .. => grows_sec (clocked_fr _ s fun _ => portDown_fr ..).2
  | .hostSnoop .. => grows_gated_sec (by simp)
  | .attachReadCompletion .. => grows_sec (clocked_fr _ s fun _ => attachCompletion_fr ..).2
  | .flushReadCompletion .. => grows_sec (clocked_fr _ s fun _ => flushDone_fr ..).2
  | .msixPendingSend .. => grows_gated_sec (by simp)
  | .winCounterClear .. => grows_gated_sec (by simp)
  | .timeSourceSet .. => grows_sec (serve_fr _ _ _ s fun _ _ => timeSourceSet_fr ..).2
  | .timeStep .. => grows_sec (serve_fr _ _ _ s fun _ _ => timeStep_fr ..).2
  | .timeSyncSend .. => grows_sec (by simp)
  | .timeSyncMessage .. => grows_sec (clocked_fr _ s fun _ => timeSyncMessage_fr ..).2
  | .ppsEdge .. => grows_sec (clocked_fr _ s fun _ => ppsEdge_fr ..).2
  | .timeCounterClear .. => grows_gated_sec (by simp)
  | .weighHouseEstimate .. => grows_sec (by simp)
  | .rampStep .. => grows_gated_sec (by simp)
  | .startGrant => execStartGrant_grows s
  | .reservationExpiry .. => grows_gated_sec (by simp)
  | .heldBelowNeed .. => grows_gated_sec (by (repeat' split) <;> simp)
  | .downRequest .. => grows_gated_sec (by simp)
  | .ballastShort .. => grows_gated_sec (by simp)
  | .stewardSlot .. => grows_sec (by simp)
  | .request .. => grows_of_out (execRequest_out ..).2
  | .grant .. => grows_of_out (execGrant_out ..).2
  | .report .. => grows_of_out (execReport_out ..).2
  | .envelope .. => grows_of_out (execEnvelope_out ..).2
  | .heartbeat .. => grows_of_out (execHeartbeat_out ..).2
  | .excursion .. => grows_of_out (execExcursion_out ..).2
  | .snapshot msg body => execSnapshot_grows msg body s
  | .claim .. => grows_of_out (execClaim_out ..).2
  | .reportInterval .. => grows_sec (by simp)
  | .heartbeatInterval .. => grows_sec (by simp)
  | .snapshotInterval .. => grows_sec (by simp)
  | .envelopeInterval .. => grows_sec (by simp)
  | .requestResend .. => grows_sec (by simp)
  | .headShareInterval .. => grows_sec (by simp)
  | .heartbeatTimeout .. => grows_gated_sec (by simp)
  | .snapshotTimeout .. => grows_gated_sec (by simp)
  | .memberReportTimeout .. => grows_gated_sec (by (repeat' split) <;> simp)
  | .paceHoldExpiry .. => grows_gated_sec (by (repeat' split) <;> simp)
  | .dutyCapRaise .. => grows_gated_sec (by (repeat' split) <;> simp)
  | .envelopeSet .. => grows_sec (serve_fr _ _ _ s fun _ _ => envelopeSet_fr ..).2
  | .powerGroupJoin .. => grows_sec (serve_fr _ _ _ s fun _ _ => powerGroupJoin_fr ..).2
  | .stewardRole .. => grows_sec (serve_fr _ _ _ s fun _ _ => stewardRole_fr ..).2
  | .stewardHandover .. => grows_sec (serve_fr _ _ _ s fun _ _ => stewardHandover_fr ..).2
  | .paceSet .. => grows_sec (serve_fr _ _ _ s fun _ _ => paceSet_fr ..).2
  | .envelopeStatus .. => grows_sec (serve_fr _ _ _ s fun _ _ => envelopeStatus_fr ..).2
  | .pwrEnvCounterClear .. => grows_sec (clocked_fr _ s fun _ => clearOn_fr ..).2
  | .inputPowerSample .. => grows_gated_sec (by simp)
  | .inputStageFault .. => grows_next (shutDown_fusesGrow _ s)
  | .peakClamp .. => grows_gated_sec (by simp)
  | .peakClampEnd .. => grows_gated_sec (by (repeat' split) <;> simp)
  | .overRatedEnd .. => grows_gated_sec (by (repeat' split) <;> simp)
  | .weighHouseCompare .. => grows_sec (by simp)
  | .deltaRecompute .. => grows_gated_sec (by (repeat' split) <;> simp)
  | .measurementAbsent .. => grows_gated_sec (by simp)
  | .recalibrationAttempt .. => grows_sec (by simp)
  | .recalibrationEnd .. => grows_sec (clocked_fr _ s fun _ => recalibrationEnd_fr ..).2
  | .thermalSensorRead .. => grows_gated_sec (by simp)
  | .thermalTrip tempC => execThermalTrip_grows tempC s
  | .marginEvaluation .. => grows_sec (by simp)
  | .powerTrim .. => grows_sec (serve_fr _ _ _ s fun _ _ => powerTrim_fr ..).2
  | .capTags .. => grows_sec (serve_fr _ _ _ s fun _ _ => capTags_fr ..).2
  | .fixedRate .. => grows_sec (serve_fr _ _ _ s fun _ _ => fixedRate_fr ..).2
  | .droopMode .. => grows_sec (serve_fr _ _ _ s fun _ _ => droopMode_fr ..).2
  | .weighCalibrate .. => grows_sec (serve_fr _ _ _ s fun _ _ => weighCalibrate_fr ..).2
  | .pwrCounterClear .. => grows_sec (clocked_fr _ s fun _ => clearOn_fr ..).2
  | .mbxDoorbellGo .. => grows_sec (clocked_fr _ s fun _ => doorbellGo_fr ..).2
  | .mbxOpDoneWrite .. => grows_sec (clocked_fr _ s fun _ => opDoneWrite_fr ..).2
  | .longOperationEnd .. => grows_sec (clocked_fr _ s fun _ => longOperationEnd_fr ..).2
  | .mbxCounterClear .. => grows_gated_sec (by simp)
  | .mailbox2Command .. => grows_sec (clocked_fr _ s fun _ => mailbox2Command_fr ..).2
  | .fabricMailbox .. => grows_sec (serve_fr _ _ _ s fun _ _ => fabricMailbox_fr ..).2
  | .fabricMailboxResponse .. => grows_sec (clocked_fr _ s fun _ => fabricResponse_fr ..).2
  | .fabricMailboxTimeout .. => grows_gated_sec (by (repeat' split) <;> simp)
  | .watchdogExpiry .. => grows_ite (shutDown_fusesGrow _ s)
  | .identityRead .. => grows_sec (serve_fr _ _ _ s fun _ _ => identityRead_fr ..).2
  | .geometryRead .. => grows_sec (by simp)
  | .blockRead .. => grows_sec (serve_fr _ _ _ s fun _ _ => blockRead_fr ..).2
  | .blockWrite .. => grows_sec (serve_fr _ _ _ s fun _ _ => blockWrite_fr ..).2
  | .eventRoute .. => grows_sec (serve_fr _ _ _ s fun _ _ => eventRoute_fr ..).2
  | .eventLogRead .. => grows_sec (serve_fr _ _ _ s fun _ _ => eventLogRead_fr ..).2
  | .telemetryWindow .. => grows_sec (serve_fr _ _ _ s fun _ _ => telemetryWindow_fr ..).2
  | .telemetryPeriod .. => grows_sec (clocked_fr _ s fun _ => telemetryPeriod_fr ..).2
  | .eventLogWrite .. => grows_sec (by (repeat' split) <;> simp)
  | .fwLoad .. => grows_sec (serve_fr _ _ _ s fun _ _ => fwLoad_fr ..).2
  | .fwActivate .. => grows_sec (serve_fr _ _ _ s fun _ _ => fwActivate_fr ..).2
  | .firmwareStart .. => grows_sec (clocked_fr _ s fun _ => firmwareStart_fr ..).2
  | .activationComplete .. => grows_sec (clocked_fr _ s fun _ => activationComplete_fr ..).2
  | .activationTimeout .. => grows_gated_sec (by (repeat' split) <;> simp)
  | .fwStatus .. => grows_sec (serve_fr _ _ _ s fun _ _ => fwStatus_fr ..).2
  | .fwStartTimeout .. => grows_gated_sec (by (repeat' split) <;> simp)
  | .deviceReset .. => grows_sec (serve_fr _ _ _ s fun _ _ => deviceResetCmd_fr ..).2
  | .deviceResetBegin => execDeviceResetBegin_grows s
  | .powerOnReset .. => grows_next (powerOn_fusesGrow s)
  | .resetNAssert .. => grows_next (resetNAssert_fusesGrow s)
  | .resetNRelease .. => grows_sec (by simp)
  | .resetWriteBackEnd .. => grows_sec (clocked_fr _ s fun _ => resetWriteBackEnd_fr ..).2
  | .stackTrainingEnd .. => grows_sec (clocked_fr _ s fun _ => stackTrainingEnd_fr ..).2
  | .poolReady .. => grows_sec (clocked_fr _ s fun _ => poolReady_fr ..).2
  | .firmwareReady .. => grows_sec (clocked_fr _ s fun _ => firmwareReady_fr ..).2
  | .bootCounterClear .. => grows_sec (clocked_fr _ s fun _ => clearOn_fr ..).2
  | .certRead .. => grows_sec (serve_fr _ _ _ s fun _ _ => certRead_fr ..).2
  | .attest .. => grows_next (serve_fusesGrow attest_fusesGrow)
  | .debugChallenge .. => grows_next (serve_fusesGrow debugChallenge_fusesGrow)
  | .debugAuth .. => grows_next (serve_fusesGrow debugAuth_fusesGrow)
  | .rootRevoke .. => grows_next (serve_fusesGrow rootRevoke_fusesGrow)
  | .svnAdvance .. => grows_next (serve_fusesGrow svnAdvance_fusesGrow)
  | .keyLoad .. => grows_sec (serve_fr _ _ _ s fun _ _ => keyLoad_fr ..).2
  | .keyErase .. => grows_sec (serve_fr _ _ _ s fun _ _ => keyErase_fr ..).2
  | .debugEnd v => execDebugEnd_grows v s
  | .notAfterExpiry => execNotAfterExpiry_grows s
  | .challengeExpiry => execChallengeExpiry_grows s
  | .dbgCounterClear .. => grows_sec (clocked_fr _ s fun _ => clearOn_fr ..).2
  | .bridgeSegmentDown seg => execBridgeSegmentDown_grows seg s
  | .cntCounterClear .. => grows_sec (clocked_fr _ s fun _ => cntClear_fr ..).2
  | .hbmCounterClear .. => grows_sec (clocked_fr _ s fun _ => clearOn_fr ..).2
  | .inputUndervoltage => execInputUndervoltage_grows s
  | .refclkLoss .. => grows_sec (by simp)
  | .registerRead .. => grows_sec (by simp)
  | .debugPathAccess .. => grows_sec (by simp)
  | .testPortAccess .. => grows_sec (by simp)
  | .configurationRequest .. => grows_gated_sec (by (repeat' split) <;> simp)
  | .rdmaResponseReceive .. => grows_sec (clocked_fr _ s fun _ => rdmaResponse_fr ..).2
  | .completionTimeout .. => grows_gated_sec (by (repeat' split) <;> simp)
  | .watchdogRestart .. => grows_sec (by simp)
  | .ppsOutEdge .. => grows_gated_sec (by simp)

/-! ## O1, O58, O59 -/

/-- Settles O1. -/
theorem stepRunsFrontCommand : Obligations.StepRunsFrontCommand := fun _ _ _ => step_of_front

/-- Settles O58: each command completes and keeps the queue (`exec_keeps_queue`); with no command waiting, a tick keeps it
too (`tick_keep`). -/
theorem everyCommandCompletesAndKeepsTheQueue : Obligations.EveryCommandCompletesAndKeepsTheQueue :=
  ⟨exec_keeps_queue, fun c s rest => exec_keeps_queue c { s with pending := rest },
    fun s h => ⟨_, step_of_empty h, (tick_keep s).1.trans h, tick_of_unpowered⟩⟩

/-- Settles O59: a step is a command (`exec_grows`) or a tick, which leaves the security state alone (`tick_keep`). -/
theorem fusesOnlyGrowAndLevelsStayLegal : Obligations.FusesOnlyGrowAndLevelsStayLegal := by
  have hstep (s t : State) (hs : step s = .next t) : FusesGrow s t := by
    unfold step at hs
    split at hs
    · cases hs
      exact fusesGrow_of_sec (tick_keep s).2
    · next c rest _ =>
      exact exec_grows c { s with pending := rest } t hs
  intro s t hinv hs
  obtain ⟨hsvn, hrev, hkeep⟩ := hstep s t hs
  exact ⟨hkeep hinv, hsvn, hrev⟩

end Sys2Proof.Machine
end

section
/-! Proofs about the tokens that a SAMPLE chooses (spec 13 R294, R295), and O31. -/

namespace Sys2Proof.Machine

/-! ## The order of values: infinities outside, numbers by their value -/

/-- The place of a value that is no NaN in the order of values. -/
def rankF : FVal → ℤ ×ₗ ℚ
  | .nan _ => toLex (0, 0)
  | .inf s => toLex (if s then -1 else 1, 0)
  | .zero _ => toLex (0, 0)
  | .fin s m e => toLex (0, (signed s m : ℚ) * 2 ^ e)

/-- A finite value that is not written as a zero is not zero. -/
def FVal.proper : FVal → Prop
  | .fin _ m _ => m ≠ 0
  | _ => True

theorem decodeF_proper (f : Fmt) (w : Nat) : (decodeF f w).proper := by
  unfold decodeF
  dsimp only
  split
  · split
    · trivial
    · split <;> trivial
  · split
    · split
      · trivial
      · assumption
    · exact Nat.ne_of_gt (Nat.add_pos_right _ (Nat.two_pow_pos _))

theorem dyAdd_neg_iff (m n : ℤ) (e g : ℤ) : (dyAdd m e (-n) g).1 < 0 ↔ (m : ℚ) * 2 ^ e < n * 2 ^ g := by
  have hpow (k : ℤ) (h : min e g ≤ k) : ((2 ^ (k - min e g).toNat : ℤ) : ℚ) * 2 ^ min e g = 2 ^ k := by
    push_cast
    rw [← zpow_natCast, ← zpow_add₀ two_ne_zero, Int.toNat_of_nonneg (by omega)]
    congr 1
    omega
  have hpos : (0 : ℚ) < 2 ^ min e g := zpow_pos two_pos _
  have hcast : ((dyAdd m e (-n) g).1 : ℚ) * 2 ^ min e g = m * 2 ^ e - n * 2 ^ g := by
    rw [← hpow e (min_le_left _ _), ← hpow g (min_le_right _ _)]
    simp only [dyAdd]
    push_cast
    ring
  rw [← sub_neg (a := (m : ℚ) * 2 ^ e), ← hcast, mul_neg_iff]
  constructor
  · exact fun h => .inr ⟨by exact_mod_cast h, hpos⟩
  · rintro (⟨_, h⟩ | ⟨h, _⟩)
    · exact absurd h (not_lt.2 hpos.le)
    · exact_mod_cast h

theorem signed_pos_iff {s : Bool} {m : Nat} (hm : m ≠ 0) (e : ℤ) : (0 : ℚ) < (signed s m : ℚ) * 2 ^ e ↔ s = false := by
  have hpow : (0 : ℚ) < 2 ^ e := zpow_pos two_pos _
  have hm' : (0 : ℚ) < m := by exact_mod_cast Nat.pos_of_ne_zero hm
  cases s
  · simp [signed, hpow, hm']
  · simpa [signed] using (mul_pos hm' hpow).le

theorem signed_neg_iff {s : Bool} {m : Nat} (hm : m ≠ 0) (e : ℤ) : (signed s m : ℚ) * 2 ^ e < 0 ↔ s = true := by
  have hpow : (0 : ℚ) < 2 ^ e := zpow_pos two_pos _
  have hm' : (0 : ℚ) < m := by exact_mod_cast Nat.pos_of_ne_zero hm
  cases s
  · simpa [signed] using (mul_pos hm' hpow).le
  · simp [signed, hpow, hm']

/-- The comparison of two values that are no NaN is that of their places in the order. -/
theorem ltF_iff_rank {a b : FVal} (ha : a.isNan = false) (hb : b.isNan = false) (pa : a.proper) (pb : b.proper) :
    ltF a b = true ↔ rankF a < rankF b := by
  cases a with
  | nan => exact absurd ha Bool.noConfusion
  | inf s =>
    cases b with
    | nan => exact absurd hb Bool.noConfusion
    | inf t => cases s <;> cases t <;> simp [ltF, rankF, Prod.Lex.toLex_lt_toLex]
    | zero t => cases s <;> simp [ltF, rankF, Prod.Lex.toLex_lt_toLex]
    | fin t n g => cases s <;> simp [ltF, rankF, Prod.Lex.toLex_lt_toLex]
  | zero s =>
    cases b with
    | nan => exact absurd hb Bool.noConfusion
    | inf t => cases t <;> simp [ltF, rankF, Prod.Lex.toLex_lt_toLex]
    | zero t => simp [ltF, rankF]
    | fin t n g => simp [ltF, rankF, Prod.Lex.toLex_lt_toLex, signed_pos_iff (s := t) (show n ≠ 0 from pb)]
  | fin s m e =>
    cases b with
    | nan => exact absurd hb Bool.noConfusion
    | inf t => cases t <;> simp [ltF, rankF, Prod.Lex.toLex_lt_toLex]
    | zero t => simp [ltF, rankF, Prod.Lex.toLex_lt_toLex, signed_neg_iff (s := s) (show m ≠ 0 from pa)]
    | fin t n g => simpa [ltF, rankF, Prod.Lex.toLex_lt_toLex] using dyAdd_neg_iff (signed s m) (signed t n) e g

theorem ltF_r32 {x y : Nat} (hx : (r32 x).isNan = false) (hy : (r32 y).isNan = false) :
    ltF (r32 x) (r32 y) = true ↔ rankF (r32 x) < rankF (r32 y) :=
  ltF_iff_rank hx hy (decodeF_proper _ _) (decodeF_proper _ _)

/-! ## The first of the greatest -/

/-- Of the tokens seen, e is the lowest among those of the greatest value. -/
def BestOf (seen : List (Nat × Nat)) (e : Nat × Nat) : Prop :=
  e ∈ seen ∧ ∀ f ∈ seen, rankF (r32 f.2) ≤ rankF (r32 e.2) ∧ (f.1 < e.1 → rankF (r32 f.2) < rankF (r32 e.2))

theorem insertTop_nil (t x : Nat) : insertTop 1 t x [] = [(t, x)] := rfl

theorem insertTop_single (t x : Nat) (e : Nat × Nat) :
    insertTop 1 t x [e] = if ltF (r32 e.2) (r32 x) = true then [(t, x)] else [e] := by
  cases h : ltF (r32 e.2) (r32 x) <;> simp [insertTop, List.span, List.span.loop, h]

/-- A later token takes the place of the best one only if its value is greater. -/
theorem bestOf_insertTop {seen : List (Nat × Nat)} {e f : Nat × Nat} (h : BestOf seen e) (hlater : ∀ x ∈ seen, x.1 < f.1)
    (hnum : ∀ x ∈ seen ++ [f], (r32 x.2).isNan = false) :
    ∃ e', insertTop 1 f.1 f.2 [e] = [e'] ∧ BestOf (seen ++ [f]) e' := by
  obtain ⟨hmem, hbest⟩ := h
  have hlt : ltF (r32 e.2) (r32 f.2) = true ↔ rankF (r32 e.2) < rankF (r32 f.2) :=
    ltF_r32 (hnum e (List.mem_append_left _ hmem)) (hnum f (by simp))
  rw [insertTop_single]
  split
  · next hgreater =>
    refine ⟨f, rfl, by simp, fun x hx => ?_⟩
    obtain hx | hx := List.mem_append.1 hx
    · have hless := (hbest x hx).1.trans_lt (hlt.1 hgreater)
      exact ⟨hless.le, fun _ => hless⟩
    · obtain rfl := List.mem_singleton.1 hx
      exact ⟨le_rfl, fun h => absurd h (lt_irrefl _)⟩
  · next hnot =>
    refine ⟨e, rfl, List.mem_append_left _ hmem, fun x hx => ?_⟩
    obtain hx | hx := List.mem_append.1 hx
    · exact hbest x hx
    · obtain rfl := List.mem_singleton.1 hx
      exact ⟨not_lt.1 (mt hlt.2 hnot), fun h => absurd (hlater e hmem) (lt_asymm h)⟩

/-- Going over tokens in rising order keeps the best of those seen. -/
theorem foldl_insertTop_best (l : List (Nat × Nat)) : ∀ (seen : List (Nat × Nat)) (e : Nat × Nat), BestOf seen e →
    (seen ++ l).Pairwise (fun x y => x.1 < y.1) → (∀ x ∈ seen ++ l, (r32 x.2).isNan = false) →
    ∃ e', l.foldl (fun acc x => insertTop 1 x.1 x.2 acc) [e] = [e'] ∧ BestOf (seen ++ l) e' := by
  induction l with
  | nil => exact fun seen e h _ _ => ⟨e, rfl, by rwa [List.append_nil]⟩
  | cons f l ih =>
    intro seen e h hsorted hnum
    have hlater : ∀ x ∈ seen, x.1 < f.1 := fun x hx => (List.pairwise_append.1 hsorted).2.2 x hx f (List.mem_cons_self ..)
    have hassoc : seen ++ f :: l = (seen ++ [f]) ++ l := by simp
    rw [hassoc] at hsorted hnum ⊢
    obtain ⟨e1, hstep, hbest⟩ := bestOf_insertTop h hlater fun x hx => hnum x (List.mem_append_left _ hx)
    obtain ⟨e2, hrest, hall⟩ := ih _ e1 hbest hsorted hnum
    exact ⟨e2, by rw [List.foldl_cons, hstep, hrest], hall⟩

theorem topCandidates_one {l : List (Nat × Nat)} (hne : l ≠ []) (hsorted : l.Pairwise fun x y => x.1 < y.1)
    (hnum : ∀ x ∈ l, (r32 x.2).isNan = false) : ∃ e, topCandidates 1 l = [e] ∧ BestOf l e := by
  cases l with
  | nil => exact absurd rfl hne
  | cons f l =>
    refine foldl_insertTop_best l [f] f ⟨by simp, fun x hx => ?_⟩ hsorted hnum
    obtain rfl := List.mem_singleton.1 hx
    exact ⟨le_rfl, fun h => absurd h (lt_irrefl _)⟩

/-! ## The valid logits of a row (R294) -/

/-- Tokens whose logit is no NaN and not minus infinity, with it. -/
def validLogits (l : List Nat) : List (Nat × Nat) :=
  ((List.range l.length).zip l).filter fun e => !(r32 e.2).isNan && e.2 != 0xFF800000

theorem mem_zip_range (l : List Nat) (e : Nat × Nat) :
    e ∈ (List.range l.length).zip l ↔ e.1 < l.length ∧ l.getD e.1 0 = e.2 := by
  obtain ⟨t, x⟩ := e
  simp only [List.mem_iff_getElem, List.length_zip, List.length_range, List.getElem_zip, List.getElem_range, Prod.mk.injEq]
  constructor
  · rintro ⟨i, hi, rfl, rfl⟩
    have hlt : i < l.length := by omega
    exact ⟨hlt, List.getD_eq_getElem _ _ hlt⟩
  · rintro ⟨ht, hx⟩
    exact ⟨t, by omega, rfl, by rw [← hx, List.getD_eq_getElem _ _ ht]⟩

theorem mem_validLogits {l : List Nat} {e : Nat × Nat} :
    e ∈ validLogits l ↔ (e.1 < l.length ∧ (r32 (l.getD e.1 0)).isNan = false ∧ l.getD e.1 0 ≠ 0xFF800000)
      ∧ l.getD e.1 0 = e.2 := by
  unfold validLogits
  rw [List.mem_filter, mem_zip_range]
  constructor
  · rintro ⟨⟨ht, hx⟩, hvalid⟩
    rw [hx]
    simpa [ht] using hvalid
  · rintro ⟨⟨ht, hnum, hinf⟩, hx⟩
    rw [hx] at hnum hinf
    exact ⟨⟨ht, hx⟩, by simp [hnum, hinf]⟩

theorem validLogits_sorted (l : List Nat) : (validLogits l).Pairwise fun x y => x.1 < y.1 := by
  refine List.Pairwise.filter _ (List.pairwise_map.1 ?_)
  rw [List.map_fst_zip (by simp)]
  exact List.pairwise_lt_range

theorem selectToken_greedy {l : List Nat} {w : DWords} (hmode : sMode w = 0) (x : SlotSt) (s : State) :
    selectToken l w x s = if validLogits l = [] then (none, s) else ((topCandidates 1 (validLogits l)).head?.map Prod.fst, s) := by
  unfold selectToken validLogits
  dsimp only
  rw [if_pos hmode]

/-! ## O31 -/

/-- A token that the noise picks is one of the candidates. -/
theorem pickToken_mem {cand ws : List Nat} {p u t : Nat} (h : pickToken cand ws p u = some t) : t ∈ cand := by
  unfold pickToken at h
  obtain ⟨i, _, hi⟩ := Option.bind_eq_some_iff.1 h
  exact List.mem_of_getElem? hi

/-- Settles O31: of the valid logits, which come in rising order of their tokens, the candidate kept is the first of the
greatest (`topCandidates_one`), and the order of values is a linear one (`ltF_iff_rank`). -/
theorem sampledTokensAreCandidates : Obligations.SampledTokensAreCandidates := by
  unfold Obligations.SampledTokensAreCandidates
  refine ⟨?_, fun cand ws p u t h => pickToken_mem h⟩
  intro l w x s valid hmode _
  rw [selectToken_greedy hmode]
  constructor
  · rintro ⟨k, hk⟩
    have hne : validLogits l ≠ [] := List.ne_nil_of_mem (mem_validLogits (e := (k, l.getD k 0)).2 ⟨hk, rfl⟩)
    have hnum : ∀ e ∈ validLogits l, (r32 e.2).isNan = false := by
      intro e he
      obtain ⟨⟨_, hnan, _⟩, hx⟩ := mem_validLogits.1 he
      rwa [← hx]
    obtain ⟨e, htop, hmem, hbest⟩ := topCandidates_one hne (validLogits_sorted l) hnum
    obtain ⟨hvalid, hx⟩ := mem_validLogits.1 hmem
    refine ⟨e.1, by rw [if_neg hne, htop]; rfl, hvalid, fun j hj => ?_, fun j hj hlt => ?_⟩
    · have hle := (hbest (j, l.getD j 0) (mem_validLogits.2 ⟨hj, rfl⟩)).1
      rw [← Bool.not_eq_true, ltF_r32 hvalid.2.1 hj.2.1, hx]
      exact not_lt.2 hle
    · rw [ltF_r32 hj.2.1 hvalid.2.1, hx]
      exact (hbest (j, l.getD j 0) (mem_validLogits.2 ⟨hj, rfl⟩)).2 hlt
  · intro hnone
    rw [if_pos]
    exact List.eq_nil_iff_forall_not_mem.2 fun e he => hnone e.1 (mem_validLogits.1 he).1

end Sys2Proof.Machine
end

section
/-! Proofs about the token ring of a sequence engine (spec 13 R296, R298, Table 13-8), and O30. -/

namespace Sys2Proof.Machine

section
variable {s : State}

theorem exec_seqRingCfgWrite (h : powered s = true) (e : EngId) (v : W64) :
    exec (.seqRingCfgWrite e v) s = .next (resumeSeqs e.val (s.modSeq e.val fun _ => ringCfgWrite v (s.seq e.val))) := by
  simp only [exec, execSeqRingCfgWrite, h]
  rfl

theorem exec_seqRingHeadWrite (h : powered s = true) (e : EngId) (v : W64) :
    exec (.seqRingHeadWrite e v) s
      = .next (resumeSeqs e.val (s.modSeq e.val fun _ => { s.seq e.val with head := fieldOf v 0 17 })) := by
  simp only [exec, execSeqRingHeadWrite, h]
  rfl

theorem ringCfgWrite_ignored {v : W64} {x : SeqState} (hen : x.en = true) (hset : bitOf v 8 = true) : ringCfgWrite v x = x := by
  simp [ringCfgWrite, hen, hset]

theorem ringCfgWrite_taken {v : W64} {x : SeqState} (h : x.en = false ∨ bitOf v 8 = false) :
    ringCfgWrite v x = { x with en := bitOf v 8, log2 := fieldOf v 0 5, tail := if bitOf v 8 then 0 else x.tail } := by
  obtain h | h := h <;> simp [ringCfgWrite, h]

theorem ringCfgWrite_eq (v : W64) (x : SeqState) : ringCfgWrite v x = if x.en = true ∧ bitOf v 8 = true then x
    else { x with en := bitOf v 8, log2 := fieldOf v 0 5, tail := if bitOf v 8 then 0 else x.tail } := by
  split
  · next h => exact ringCfgWrite_ignored h.1 h.2
  · next h => exact ringCfgWrite_taken (by cases hx : x.en <;> simp_all)

theorem ringCfgWrite_live (v : W64) (x : SeqState) : (ringCfgWrite v x).live = x.live := by
  rw [ringCfgWrite_eq]
  split <;> rfl

/-- With no descriptor live on the engine, none goes on. -/
theorem resumeSeqs_of_idle {h : Nat} (hlive : (s.seq h).live = []) : resumeSeqs h s = s := by
  simp [resumeSeqs, seqLive, hlive]

/-- A register write that leaves an idle engine's descriptors alone writes its engine's state and nothing else. -/
theorem resumeSeqs_written {e : Nat} {y : SeqState} (hlive : y.live = []) :
    let t := resumeSeqs e (s.modSeq e fun _ => y)
    t.seq e = y ∧ (∀ k, k ≠ e → t.seq k = s.seq k) ∧ { t with seqs := s.seqs } = s := by
  have hself : (s.modSeq e fun _ => y).seq e = y := State.seq_modSeq_self ..
  rw [resumeSeqs_of_idle (by rw [hself]; exact hlive)]
  exact ⟨hself, fun k hk => State.seq_modSeq_other _ _ _ _ hk, rfl⟩

end

/-- Settles O30: each write is a write of its engine's ring state (`exec_seqRingCfgWrite`, `exec_seqRingHeadWrite`) after
which the engine's live descriptors go on; with none of them nothing else changes (`resumeSeqs_written`). -/
theorem tokenRingWritesAct : Obligations.TokenRingWritesAct := by
  unfold Obligations.TokenRingWritesAct
  intro e v s hp x
  refine ⟨fun hen hset => ?_, fun h => ?_, exec_seqRingHeadWrite hp e v, fun hlive => ?_, fun hlive => ?_⟩
  · rw [exec_seqRingCfgWrite hp, ringCfgWrite_ignored hen hset]
  · rw [exec_seqRingCfgWrite hp, ringCfgWrite_taken h]
  · exact ⟨_, exec_seqRingHeadWrite hp e v, resumeSeqs_written hlive⟩
  · refine ⟨_, exec_seqRingCfgWrite hp e v, ?_⟩
    rw [← ringCfgWrite_eq]
    exact resumeSeqs_written ((ringCfgWrite_live v x).trans hlive)

end Sys2Proof.Machine
end

section
/-! Laws of links that go down, train and are withdrawn (spec 14 R299, R307, R309-R312): what the traffic a link drops leaves
of it and of the others, and what sending packets on other links changes. -/

namespace Sys2Proof.Machine

/-! ## Changes of the network alone -/

/-- Nothing but the network's state may differ. -/
def OnlyNet (s t : State) : Prop := t = { s with net := t.net }

theorem OnlyNet.refl (s : State) : OnlyNet s s := rfl

theorem OnlyNet.trans {s t u : State} (h1 : OnlyNet s t) (h2 : OnlyNet t u) : OnlyNet s u := by
  unfold OnlyNet at h1 h2 ⊢
  rw [h2, h1]

theorem OnlyNet.frame {s t : State} (h : OnlyNet s t) : { t with net := s.net } = s := by
  rw [h]

theorem modLink_onlyNet (n : Nat) (f : LinkSt → LinkSt) (s : State) : OnlyNet s (s.modLink n f) := rfl

theorem modNet_onlyNet (f : NetState → NetState) (s : State) : OnlyNet s (s.modNet f) := rfl

theorem oweAll_onlyNet (bs : List HeldSlots) : ∀ s : State, OnlyNet s (bs.foldl (fun s b => oweSlots b s) s) := by
  induction bs with
  | nil => exact OnlyNet.refl
  | cons b bs ih => exact fun s => .trans (modLink_onlyNet ..) (ih _)

/-! ## Sending on links that are up -/

/-- What sending may change of a link that is up. -/
def SentBy (l l' : LinkSt) : Prop := ∃ a b c d e f g h i, l' = { l with
  nextFseq := a, nextSerial := b, sent := c, used := d, collLast := e, tx := f, owed := g, dry := h, bare := i }

/-- Packets have left on links that are UP or WITHDRAWN; of the others only the credits they owe have changed. -/
structure Sends (s t : State) : Prop where
  sentBy : ∀ k, SentBy (s.link k) (t.link k)
  owing : ∀ k, (s.link k).mode ≠ .up → (s.link k).mode ≠ .withdrawn → ∃ w, t.link k = { s.link k with owed := w }

theorem SentBy.refl (l : LinkSt) : SentBy l l := ⟨_, _, _, _, _, _, _, _, _, rfl⟩

theorem SentBy.trans {l l' l'' : LinkSt} (h1 : SentBy l l') (h2 : SentBy l' l'') : SentBy l l'' := by
  obtain ⟨_, _, _, _, _, _, _, _, _, rfl⟩ := h1
  obtain ⟨_, _, _, _, _, _, _, _, _, rfl⟩ := h2
  exact ⟨_, _, _, _, _, _, _, _, _, rfl⟩

theorem SentBy.mode {l l' : LinkSt} (h : SentBy l l') : l'.mode = l.mode := by
  obtain ⟨_, _, _, _, _, _, _, _, _, rfl⟩ := h
  rfl

theorem Sends.refl (s : State) : Sends s s := ⟨fun _ => .refl _, fun _ _ _ => ⟨_, rfl⟩⟩

theorem Sends.trans {s t u : State} (h1 : Sends s t) (h2 : Sends t u) : Sends s u := by
  refine ⟨fun k => (h1.sentBy k).trans (h2.sentBy k), fun k hup hwd => ?_⟩
  obtain ⟨w, hw⟩ := h1.owing k hup hwd
  obtain ⟨w', hw'⟩ := h2.owing k (by rwa [hw]) (by rwa [hw])
  exact ⟨w', by rw [hw', hw]⟩

theorem sends_of_links {s t : State} (h : t.net.links = s.net.links) : Sends s t := by
  have hlink (k : Nat) : t.link k = s.link k := by rw [State.link, State.link, h]
  exact ⟨fun k => hlink k ▸ .refl _, fun k _ _ => ⟨_, hlink k⟩⟩

/-- A change of one link that is UP or WITHDRAWN, as sending makes it. -/
theorem modLink_sends {n : Nat} {f : LinkSt → LinkSt} {s : State} (hup : (s.link n).mode = .up ∨ (s.link n).mode = .withdrawn)
    (hf : SentBy (s.link n) (f (s.link n))) : Sends s (s.modLink n f) := by
  refine ⟨fun k => ?_, fun k hnup hnwd => ?_⟩
  · rw [State.link_modLink]
    split
    · next hk => exact hk ▸ hf
    · exact .refl _
  · rw [State.link_modLink_other _ _ _ _ fun hk : k = n => absurd hup (hk ▸ not_or.2 ⟨hnup, hnwd⟩)]
    exact ⟨_, rfl⟩

theorem Sends.foldl {α : Type} {f : State → α → State} (hf : ∀ s x, Sends s (f s x)) (l : List α) :
    ∀ s, Sends s (l.foldl f s) := by
  induction l with
  | nil => exact Sends.refl
  | cons x l ih => exact fun s => (hf s x).trans (ih _)

theorem SentOn.sentBy {n : Nat} {s t : State} (h : SentOn n s t) (k : Nat) : SentBy (s.link k) (t.link k) := by
  obtain ⟨hothers, a, b, c, d, e, f, g, i, hself⟩ := h
  by_cases hk : k = n
  · rw [hk, hself]
    exact ⟨_, _, _, _, _, _, _, _, _, rfl⟩
  · obtain ⟨w, hw⟩ := hothers k hk
    rw [hw]
    exact ⟨_, _, _, _, _, _, _, _, _, rfl⟩

theorem SentOn.sends {n : Nat} {s t : State} (h : SentOn n s t) (hup : (s.link n).mode = .up ∨ (s.link n).mode = .withdrawn) :
    Sends s t :=
  ⟨h.sentBy, fun k hnup hnwd => h.1 k fun hk => absurd hup (hk ▸ not_or.2 ⟨hnup, hnwd⟩)⟩

theorem oweSlots_link (b : HeldSlots) (s : State) (k : Nat) : ∃ w, (oweSlots b s).link k = { s.link k with owed := w } := by
  unfold oweSlots
  rw [State.link_modLink]
  split
  · next hk => exact ⟨_, by rw [hk]⟩
  · exact ⟨_, rfl⟩

theorem oweSlots_sends (b : HeldSlots) (s : State) : Sends s (oweSlots b s) := by
  refine ⟨fun k => ?_, fun k _ _ => oweSlots_link b s k⟩
  obtain ⟨w, hw⟩ := oweSlots_link b s k
  exact ⟨_, _, _, _, _, _, _, _, _, hw⟩

theorem oweAll_sends (bs : List HeldSlots) (s : State) : Sends s (bs.foldl (fun s b => oweSlots b s) s) :=
  Sends.foldl (fun s b => oweSlots_sends b s) bs s

theorem sendHeld_sends {n : Nat} {s : State} (hup : (s.link n).mode = .up ∨ (s.link n).mode = .withdrawn)
    (back : Option HeldSlots) (p : Packet) : Sends s (sendHeld n back p s) := by
  unfold sendHeld
  refine .trans (modLink_sends hup ⟨_, _, _, _, _, _, _, _, _, rfl⟩) ((pump_sentOn n _).sends ?_)
  rw [State.link_modLink_self]
  exact hup

/-! ## The route algorithm (R307) -/

theorem mostCredits_mem (s : State) (vl : Nat) {set : List Nat} (hset : set ≠ []) : mostCredits s vl set ∈ set := by
  have hfold (l : List Nat) : ∀ b, l.foldl (fun b n => if (s.link n).credits vl > (s.link b).credits vl then n else b) b = b
      ∨ l.foldl (fun b n => if (s.link n).credits vl > (s.link b).credits vl then n else b) b ∈ l := by
    induction l with
    | nil => exact fun b => .inl rfl
    | cons n l ih =>
      intro b
      rw [List.foldl_cons]
      obtain h | h := ih (if (s.link n).credits vl > (s.link b).credits vl then n else b)
      · rw [h]
        split
        · exact .inr (List.mem_cons_self ..)
        · exact .inl rfl
      · exact .inr (List.mem_cons_of_mem _ h)
  cases set with
  | nil => exact absurd rfl hset
  | cons n set =>
    obtain h | h := hfold (n :: set) n
    · rw [mostCredits, List.headD_cons, h]
      exact List.mem_cons_self ..
    · exact h

/-- The links that a packet may leave on: those of its route that are UP, the secondary ones where R307 says so. -/
def routeLinks (p : Packet) (s : State) : List Nat :=
  let prim := (upLinks s).filter fun n => (s.route p.dst.toNat).prim.getLsbD n
  let sec := (upLinks s).filter fun n => (s.route p.dst.toNat).sec.getLsbD n
  if (prim = [] ∨ (!p.ordered ∧ allDry s (laneOf p.typ) prim)) ∧ sec ≠ [] then sec else prim

theorem pickLink_eq (p : Packet) (s : State) : pickLink p s =
    if !(s.route p.dst.toNat).valid || (s.route p.dst.toNat).unreach || p.hops == 0 then none
    else if routeLinks p s = [] then none
    else if p.ordered then
      some ((routeLinks p s).getD ((p.src.toNat ^^^ p.dst.toNat ^^^ laneOf p.typ) % (routeLinks p s).length) 0)
    else some (mostCredits s (laneOf p.typ) (routeLinks p s)) := rfl

theorem mem_routeLinks {p : Packet} {s : State} {n : Nat} (h : n ∈ routeLinks p s) : n ∈ upLinks s
    ∧ ((s.route p.dst.toNat).prim.getLsbD n = true ∨ (s.route p.dst.toNat).sec.getLsbD n = true) := by
  unfold routeLinks at h
  dsimp only at h
  split at h
  · exact ⟨(List.mem_filter.1 h).1, .inr (List.mem_filter.1 h).2⟩
  · exact ⟨(List.mem_filter.1 h).1, .inl (List.mem_filter.1 h).2⟩

/-- The link found is UP and in the route. -/
theorem pickLink_some {p : Packet} {s : State} {n : Nat} (h : pickLink p s = some n) : n ∈ upLinks s
    ∧ ((s.route p.dst.toNat).prim.getLsbD n = true ∨ (s.route p.dst.toNat).sec.getLsbD n = true) := by
  refine mem_routeLinks ?_
  rw [pickLink_eq] at h
  split at h
  · exact nomatch h
  · split at h
    · exact nomatch h
    · next hne =>
      split at h <;> obtain rfl := Option.some.inj h
      · rw [List.getD_eq_getElem _ _ (Nat.mod_lt _ (List.length_pos_of_ne_nil hne))]
        exact List.getElem_mem _
      · exact mostCredits_mem s _ hne

theorem pickLink_none {p : Packet} {s : State}
    (h : p.hops = 0 ∨ (s.route p.dst.toNat).valid = false ∨ (s.route p.dst.toNat).unreach = true) : pickLink p s = none := by
  rw [pickLink_eq, if_pos]
  obtain h | h | h := h <;> simp [h]

/-! ## Packets sent on, dropped and routed again (R304, R307, R310) -/

theorem noteDrop_links (s : State) : (noteDrop s).net = s.net := by simp

theorem forward_sends (back : Option HeldSlots) (p : Packet) (s : State) : Sends s (forward back p s).2 := by
  unfold forward
  split
  · next n h => exact sendHeld_sends (.inl (mem_upLinks.1 (pickLink_some h).1).2) back _
  · exact sends_of_links (congrArg _ (noteDrop_links s))

theorem sendPacket_sends (p : Packet) (s : State) : Sends s (sendPacket p s).2 := by
  unfold sendPacket
  split
  · exact .refl s
  · exact forward_sends none p s

theorem sendMgmt_sends (dst : NodeId) (cls : Nat) (pay : List Byte) (s : State) : Sends s (sendMgmt dst cls pay s) :=
  sendPacket_sends _ s

theorem unreachable_links (txn : BitVec 32) (s : State) : (unreachable txn s).net.links = s.net.links := by
  unfold unreachable endUnreachable modProg
  split <;> simp

theorem unreachable_mgr (txn : BitVec 32) (s : State) : (unreachable txn s).mgr = s.mgr := by
  unfold unreachable endUnreachable modProg
  split <;> simp

theorem unreachable_now (txn : BitVec 32) (s : State) : (unreachable txn s).now = s.now := by
  unfold unreachable endUnreachable modProg
  split <;> simp

theorem dropPacket_sends (p : Packet) (s : State) : Sends s (dropPacket p s) := by
  unfold dropPacket
  split
  · exact .refl s
  · split
    · exact sends_of_links (unreachable_links _ s)
    · exact sendPacket_sends _ s

theorem dropPacket_mgr (p : Packet) (s : State) : (dropPacket p s).mgr = s.mgr := by
  unfold dropPacket
  split
  · rfl
  · split
    · exact unreachable_mgr _ s
    · simp

theorem rerouted_sends (t : TxPkt) (s : State) : Sends s (rerouted t s) := by
  unfold rerouted
  dsimp only
  split
  · exact forward_sends ..
  · exact (forward_sends ..).trans ((oweAll_sends ..).trans (dropPacket_sends ..))

theorem rerouted_mgr (t : TxPkt) (s : State) : (rerouted t s).mgr = s.mgr := by
  unfold rerouted
  dsimp only
  split
  · simp
  · rw [dropPacket_mgr, oweAll_onlyNet]
    simp

/-! ## Traffic dropped (R309) -/

/-- A link without its traffic. -/
def LinkSt.emptied (l : LinkSt) : LinkSt := { l with
  nextFseq := 0, expect := 0, retryAt := none, tx := [], sent := [], used := [], owed := [], dry := [], bare := []
  rx := [], rxHeld := [], replays := [], withdrawing := none, peerWithdrew := false, ackSent := false }

theorem oweAll_link (bs : List HeldSlots) (k : Nat) : ∀ s : State,
    ∃ w, (bs.foldl (fun s b => oweSlots b s) s).link k = { s.link k with owed := w } := by
  induction bs with
  | nil => exact fun s => ⟨_, rfl⟩
  | cons b bs ih =>
    intro s
    obtain ⟨w, hw⟩ := ih (oweSlots b s)
    obtain ⟨w', hw'⟩ := oweSlots_link b s k
    exact ⟨w, hw.trans (by rw [hw'])⟩

theorem Sparse.get_map {α : Type} (d : α) {f : α → α} (hf : f d = d) (m : Sparse α) (k : Nat) :
    Sparse.get d (m.map fun e => (e.1, f e.2)) k = f (Sparse.get d m k) := by
  induction m with
  | nil => exact hf.symm
  | cons e m ih =>
    rw [List.map_cons, Sparse.get_cons, Sparse.get_cons, ih]
    split <;> rfl

/-- A waiting packet that holds no receive buffer slots of link n any more. -/
def unheld (n : Nat) (p : TxPkt) : TxPkt :=
  match p.back with
  | some b => if b.1 = n then { p with back := none } else p
  | none => p

/-- A link none of whose waiting packets holds slots of link n. -/
def LinkSt.unheld (n : Nat) (l : LinkSt) : LinkSt := { l with tx := l.tx.map fun e => (e.1, e.2.map (Machine.unheld n)) }

/-- The slots that the packets waiting on a link hold elsewhere. -/
def LinkSt.holds (l : LinkSt) : List HeldSlots := ([0, 1, 2, 3] : List Nat).flatMap fun v => (txOf l v).filterMap (·.back)

theorem dropTraffic_eq (n : Nat) (s : State) : dropTraffic n s = ((s.link n).holds.foldl (fun s b => oweSlots b s)
    (s.modNet fun t => { t with links := t.links.map fun e => (e.1, e.2.unheld n) })).modLink n LinkSt.emptied := rfl

theorem dropTraffic_onlyNet (n : Nat) (s : State) : OnlyNet s (dropTraffic n s) := by
  rw [dropTraffic_eq]
  exact .trans (modNet_onlyNet _ s) (.trans (oweAll_onlyNet _ _) (modLink_onlyNet ..))

/-- The link is empty; of the others, waiting packets hold no slots of it, and credits that its packets held are owed. -/
theorem dropTraffic_link (n : Nat) (s : State) : (dropTraffic n s).link n = (s.link n).emptied
    ∧ ∀ k, k ≠ n → ∃ a b, (dropTraffic n s).link k = { s.link k with tx := a, owed := b } := by
  have hunheld (k : Nat) : (s.modNet fun t => { t with links := t.links.map fun e => (e.1, e.2.unheld n) }).link k
      = (s.link k).unheld n := Sparse.get_map (d := ({} : LinkSt)) (f := LinkSt.unheld n) rfl s.net.links k
  rw [dropTraffic_eq]
  constructor
  · obtain ⟨w, hw⟩ := oweAll_link (s.link n).holds n (s.modNet fun t => { t with links := t.links.map fun e => (e.1, e.2.unheld n) })
    rw [State.link_modLink_self, hw, hunheld]
    rfl
  · intro k hk
    obtain ⟨w, hw⟩ := oweAll_link (s.link n).holds k (s.modNet fun t => { t with links := t.links.map fun e => (e.1, e.2.unheld n) })
    exact ⟨_, w, by rw [State.link_modLink_other _ _ _ _ hk, hw, hunheld]; rfl⟩

/-! ## Links that go DOWN (R309, R310) -/

theorem linkGoesDown_on {n : Nat} {s : State} (h : (s.link n).mode = .up ∨ (s.link n).mode = .withdrawn ∨ (s.link n).mode = .training)
    (cause : Byte) : linkGoesDown n cause s = raiseArg srcLnk evLinkDown (w64 n) (count (lostPacketCount n) (s.link n).inFlight.length
      ((dropTraffic n s).modLink n fun l => { l with
        mode := .down, cause := cause, downAt := s.now, gen := 0, lastTry := s.now, train := none })) := by
  unfold linkGoesDown
  exact if_neg (by obtain h | h | h := h <;> simp [h])

/-- What a link that goes DOWN becomes; the others keep all but their lanes and the credits owed. -/
theorem linkGoesDown_link {n : Nat} {s : State} (h : (s.link n).mode = .up ∨ (s.link n).mode = .withdrawn ∨ (s.link n).mode = .training)
    (cause : Byte) : (linkGoesDown n cause s).link n = { (s.link n).emptied with
        mode := .down, cause := cause, downAt := s.now, gen := 0, lastTry := s.now, train := none }
    ∧ ∀ k, k ≠ n → ∃ a b, (linkGoesDown n cause s).link k = { s.link k with tx := a, owed := b } := by
  obtain ⟨hself, hothers⟩ := dropTraffic_link n s
  have hlink (k : Nat) : (linkGoesDown n cause s).link k = ((dropTraffic n s).modLink n fun l => { l with
      mode := .down, cause := cause, downAt := s.now, gen := 0, lastTry := s.now, train := none }).link k := by
    rw [linkGoesDown_on h]
    simp
  constructor
  · rw [hlink, State.link_modLink_self, hself]
  · intro k hk
    obtain ⟨a, b, hab⟩ := hothers k hk
    exact ⟨a, b, by rw [hlink, State.link_modLink_other _ _ _ _ hk, hab]⟩

theorem raiseArg_ctr (src : BitVec 16) (k : Nat) (arg : W64) (s : State) (key : Nat) : (raiseArg src k arg s).ctr key = s.ctr key := by
  simp [State.ctr]

/-- The packets in flight are counted as lost and LINK_DOWN is raised. -/
theorem linkGoesDown_noted {n : Nat} {s : State} (h : (s.link n).mode = .up ∨ (s.link n).mode = .withdrawn ∨ (s.link n).mode = .training)
    (cause : Byte) : (linkGoesDown n cause s).ctr (lostPacketCount n)
        = w64 (min ((s.ctr (lostPacketCount n)).toNat + (s.link n).inFlight.length) (2 ^ 64 - 1))
      ∧ bitOf ((linkGoesDown n cause s).evBits srcLnk) evLinkDown = true := by
  rw [linkGoesDown_on h]
  constructor
  · rw [raiseArg_ctr, ctr_count, if_pos rfl]
    rw [State.ctr, modLink_onlyNet n _ (dropTraffic n s), dropTraffic_onlyNet n s]
    rfl
  · rw [(raiseArg_ev ..).1.1, bitOf_or, bitOf_oneBit _ _ (by decide)]
    simp

theorem linkGoesDown_mgr (n : Nat) (cause : Byte) (s : State) : (linkGoesDown n cause s).mgr = s.mgr := by
  unfold linkGoesDown
  dsimp only
  split
  · rfl
  · rw [dropTraffic_onlyNet n s]
    simp

theorem linkGoesDown_now (n : Nat) (cause : Byte) (s : State) : (linkGoesDown n cause s).now = s.now := by
  unfold linkGoesDown
  dsimp only
  split
  · rfl
  · rw [dropTraffic_onlyNet n s]
    simp

/-- The waiting packets of which a link has sent nothing. -/
def LinkSt.idle (l : LinkSt) : List TxPkt := ([0, 1, 2, 3] : List Nat).flatMap fun v => (txOf l v).filter (!·.begun)

/-- The link without them. -/
def LinkSt.kept (l : LinkSt) : LinkSt := { l with
  tx := ([0, 1, 2, 3] : List Nat).foldl (fun m v => Sparse.set [] m v ((txOf l v).filter (·.begun))) l.tx }

theorem failLink_eq (n : Nat) (cause : Byte) (s : State) : failLink n cause s
    = (s.link n).idle.foldl (fun s t => rerouted t s) (linkGoesDown n cause (s.modLink n LinkSt.kept)) := rfl

theorem txOf_kept (l : LinkSt) {v : Nat} (hv : v < 4) : txOf l.kept v = (txOf l v).filter (·.begun) := by
  unfold LinkSt.kept
  simp only [List.foldl_cons, List.foldl_nil]
  rw [txOf]
  simp only [Sparse.get_set]
  have : v = 0 ∨ v = 1 ∨ v = 2 ∨ v = 3 := by omega
  obtain rfl | rfl | rfl | rfl := this <;> rfl

/-- Where every packet has begun, no packet is idle and all stay in flight. -/
theorem idle_of_begun {l : LinkSt} (h : ∀ v, v < 4 → ∀ p ∈ txOf l v, p.begun = true) : l.idle = [] ∧ l.kept.inFlight = l.inFlight := by
  have hall : ∀ v ∈ ([0, 1, 2, 3] : List Nat), v < 4 := by decide
  constructor
  · refine List.flatMap_eq_nil_iff.2 fun v hv => List.filter_eq_nil_iff.2 fun p hp => ?_
    rw [h v (hall v hv) p hp]
    decide
  · have htx : ∀ v ∈ ([0, 1, 2, 3] : List Nat), (txOf l.kept v).map (·.serial) = (txOf l v).map (·.serial) := by
      intro v hv
      rw [txOf_kept l (hall v hv), List.filter_eq_self.2 (h v (hall v hv))]
    unfold LinkSt.inFlight
    rw [List.flatMap_congr htx]
    rfl

/-- Link n is DOWN with a cause since now, with nothing to send or kept; the others have kept state, generation, cause and
peer. -/
def WentDown (n : Nat) (cause : Byte) (s t : State) : Prop :=
  (t.link n).mode = .down ∧ (t.link n).cause = cause ∧ (t.link n).gen = 0 ∧ (t.link n).tx = [] ∧ (t.link n).sent = []
    ∧ (t.link n).downAt = s.now ∧ ∀ k, k ≠ n → (t.link k).mode = (s.link k).mode ∧ (t.link k).gen = (s.link k).gen
      ∧ (t.link k).cause = (s.link k).cause ∧ (t.link k).peer = (s.link k).peer

theorem linkGoesDown_wentDown {n : Nat} {s : State}
    (h : (s.link n).mode = .up ∨ (s.link n).mode = .withdrawn ∨ (s.link n).mode = .training) (cause : Byte) :
    WentDown n cause s (linkGoesDown n cause s) := by
  obtain ⟨hself, hothers⟩ := linkGoesDown_link h cause
  refine ⟨by rw [hself], by rw [hself], by rw [hself], by rw [hself]; rfl, by rw [hself]; rfl, by rw [hself], fun k hk => ?_⟩
  obtain ⟨a, b, hab⟩ := hothers k hk
  rw [hab]
  exact ⟨rfl, rfl, rfl, rfl⟩

/-- What is sent on other links afterwards leaves it so. -/
theorem WentDown.sends {n : Nat} {cause : Byte} {s t u : State} (h : WentDown n cause s t) (hsends : Sends t u) :
    WentDown n cause s u := by
  obtain ⟨hmode, hcause, hgen, htx, hsent, hat, hothers⟩ := h
  obtain ⟨w, hw⟩ := hsends.owing n (by simp [hmode]) (by simp [hmode])
  rw [WentDown, hw]
  refine ⟨hmode, hcause, hgen, htx, hsent, hat, fun k hk => ?_⟩
  obtain ⟨_, _, _, _, _, _, _, _, _, hl⟩ := hsends.sentBy k
  rw [hl]
  exact hothers k hk

theorem failLink_wentDown {n : Nat} {s : State}
    (h : (s.link n).mode = .up ∨ (s.link n).mode = .withdrawn ∨ (s.link n).mode = .training) (cause : Byte) :
    WentDown n cause s (failLink n cause s) := by
  have hkept : (s.modLink n LinkSt.kept).link n = (s.link n).kept := State.link_modLink_self ..
  have hdown := linkGoesDown_wentDown (s := s.modLink n LinkSt.kept) (n := n) (by rw [hkept]; exact h) cause
  rw [failLink_eq]
  refine .sends ?_ (Sends.foldl (fun s t => rerouted_sends t s) _ _)
  obtain ⟨hmode, hcause, hgen, htx, hsent, hat, hothers⟩ := hdown
  refine ⟨hmode, hcause, hgen, htx, hsent, hat, fun k hk => ?_⟩
  rw [← State.link_modLink_other s n k LinkSt.kept hk]
  exact hothers k hk

theorem failLink_mgr (n : Nat) (cause : Byte) (s : State) : (failLink n cause s).mgr = s.mgr := by
  rw [failLink_eq, foldl_mgr (fun s t => rerouted t s) _ _ fun s t => rerouted_mgr t s]
  exact linkGoesDown_mgr ..

/-- Where every packet of the link had begun, those in flight are counted as lost, and LINK_DOWN is raised. -/
theorem failLink_noted {n : Nat} {s : State}
    (h : (s.link n).mode = .up ∨ (s.link n).mode = .withdrawn ∨ (s.link n).mode = .training) (cause : Byte)
    (hbegun : ∀ v, v < 4 → ∀ p ∈ txOf (s.link n) v, p.begun = true) :
    (failLink n cause s).ctr (lostPacketCount n)
        = w64 (min ((s.ctr (lostPacketCount n)).toNat + (s.link n).inFlight.length) (2 ^ 64 - 1))
      ∧ bitOf ((failLink n cause s).evBits srcLnk) evLinkDown = true := by
  have hkept : (s.modLink n LinkSt.kept).link n = (s.link n).kept := State.link_modLink_self ..
  obtain ⟨hidle, hflight⟩ := idle_of_begun hbegun
  obtain ⟨hlost, hbit⟩ := linkGoesDown_noted (s := s.modLink n LinkSt.kept) (n := n) (by rw [hkept]; exact h) cause
  rw [failLink_eq, hidle]
  rw [hkept, hflight] at hlost
  exact ⟨hlost, hbit⟩

/-! ## Operations of a link that no command holds (18 R387) -/

theorem linkHeld_of_mgr {n : Nat} {s t : State} (h : t.mgr = s.mgr) (hfree : linkHeld n s = false) : linkHeld n t = false := by
  rwa [linkHeld, h]

theorem linkOpStep_of_free {n : Nat} {s : State} (h : linkHeld n s = false) : linkOpStep n s = s := by
  unfold linkOpStep
  rw [linkOp_none n s h _ (.inl rfl), linkOp_none n s h _ (.inr (.inr rfl))]

theorem linkOpsAfterDown_of_free {n : Nat} {s : State} (h : linkHeld n s = false) : linkOpsAfterDown n s = s := by
  unfold linkOpsAfterDown
  rw [linkOp_none n s h _ (.inr (.inl rfl))]
  exact linkOpStep_of_free h

theorem endOps_of_free {n : Nat} {s : State} (h : linkHeld n s = false) (id : Nat) (hid : id = 0x0504 ∨ id = 0x0505 ∨ id = 0x0506)
    (st : BitVec 16) (r : List Byte) : endOps (fun o => o.id == id && o.le 0 1 == n) st r s = s := by
  refine endOps_none n s _ st r h fun o ho => ?_
  obtain ⟨ho, hle⟩ := Bool.and_eq_true_iff.1 ho
  exact ⟨(eq_of_beq ho) ▸ hid, eq_of_beq hle⟩

theorem linkDown_of_free {n : Nat} {s : State} (h : (s.link n).mode ≠ .ethernet) (hfree : linkHeld n s = false) (cause : Byte) :
    linkDown n cause s = failLink n cause s := by
  unfold linkDown
  rw [if_neg h]
  exact linkOpsAfterDown_of_free (linkHeld_of_mgr (failLink_mgr ..) hfree)

end Sys2Proof.Machine
end

section
/-! What training, failure, withdrawal and restoration make of a link (spec 14 R299, R309, R311, R312): O32. -/

namespace Sys2Proof.Machine

/-- A command that acts in a package with power and clock, served in one. -/
theorem yields_clocked {c : Instr} {s : State} {f : State → State} {P : State → Prop} (hpow : powered s = true)
    (hexec : exec c s = .next (clocked f s)) (h : P (f s)) : Yields c s P :=
  ⟨f s, by rw [hexec, clocked_of_powered hpow], h⟩

/-- The links but one have kept state, generation, cause and peer. -/
def OthersStand (n : Nat) (s t : State) : Prop := ∀ k, k ≠ n → (t.link k).mode = (s.link k).mode
  ∧ (t.link k).gen = (s.link k).gen ∧ (t.link k).cause = (s.link k).cause ∧ (t.link k).peer = (s.link k).peer

theorem modLink_othersStand (n : Nat) (f : LinkSt → LinkSt) (s : State) : OthersStand n s (s.modLink n f) := fun k hk => by
  rw [State.link_modLink_other _ _ _ _ hk]
  exact ⟨rfl, rfl, rfl, rfl⟩

theorem SentOn.othersStand {n : Nat} {s t u : State} (hs : OthersStand n s t) (h : SentOn n t u) : OthersStand n s u := fun k hk => by
  obtain ⟨w, hw⟩ := h.1 k hk
  rw [hw]
  exact hs k hk

/-- Sending on a link leaves its state, generation, peer and withdrawal. -/
theorem SentOn.self {n : Nat} {s t : State} (h : SentOn n s t) : (t.link n).mode = (s.link n).mode
    ∧ (t.link n).gen = (s.link n).gen ∧ (t.link n).peerWithdrew = (s.link n).peerWithdrew
    ∧ (t.link n).withdrawing = (s.link n).withdrawing := by
  obtain ⟨-, _, _, _, _, _, _, _, _, hl⟩ := h
  rw [hl]
  exact ⟨rfl, rfl, rfl, rfl⟩

theorem sendWithdrawAck_sentOn (n : Nat) (s : State) : ∃ b, SentOn n (s.modLink n fun l => { l with ackSent := b }) (sendWithdrawAck n s) := by
  unfold sendWithdrawAck
  dsimp only
  split
  · exact ⟨true, putFlit_sentOn ..⟩
  · have hlink (k : Nat) : (s.modLink n fun l => { l with ackSent := (s.link n).ackSent }).link k = s.link k := by
      rw [State.link_modLink]
      split
      · next hk => rw [hk]
      · rfl
    exact ⟨(s.link n).ackSent, fun k _ => ⟨_, (hlink k).symm⟩, _, _, _, _, _, _, _, _, (hlink n).symm⟩

/-- What begins an operation on link n: nothing, on a link that no command holds. -/
theorem endOps_trained_of_free {n : Nat} {s : State} (h : linkHeld n s = false) (r r' : List Byte) :
    endOps (fun o => o.id == 0x0506 && o.le 0 1 == n) mbxOk r (endOps (fun o => o.id == 0x0504 && o.le 0 1 == n) mbxOk r' s) = s := by
  rw [endOps_of_free h 0x0504 (.inl rfl), endOps_of_free h 0x0506 (.inr (.inr rfl))]

/-- Training that ends well, of a Llynvan link that no command holds. -/
theorem trained_llynvan {n : Nat} {s : State} (heth : (s.link n).eth = false) (hfree : linkHeld n s = false) (g : Nat) :
    ((trained n g s).link n).mode = (if (s.link n).train = some .startup then .up else .withdrawn)
      ∧ ((trained n g s).link n).gen = min (min g (s.link n).maxGen) 2 ∧ OthersStand n s (trained n g s)
      ∧ (trained n g s).mgr = s.mgr := by
  unfold trained
  dsimp only
  rw [if_neg (by simp [heth])]
  let s0 := s.modLink n fun l => { l with
    mode := if (s.link n).train == some .startup then .up else .withdrawn, gen := min (min g (s.link n).maxGen) 2, train := none }
  have hsent : SentOn n s0 (sendIdent n s0) := putFlit_sentOn ..
  have hlinks (k : Nat) : (if (s.link n).train == some .startup then raiseArg srcLnk evLinkUp (w64 n) (sendIdent n s0)
      else sendIdent n s0).link k = (sendIdent n s0).link k := by
    split
    · simp
    · rfl
  have hmgr : (if (s.link n).train == some .startup then raiseArg srcLnk evLinkUp (w64 n) (sendIdent n s0)
      else sendIdent n s0).mgr = s.mgr := by
    split
    · simp [s0, sendIdent, sendControl]
    · simp [s0, sendIdent, sendControl]
  rw [endOps_trained_of_free (linkHeld_of_mgr hmgr hfree)]
  obtain ⟨hmode, hgen, -, -⟩ := hsent.self
  refine ⟨?_, ?_, fun k hk => ?_, hmgr⟩
  · rw [hlinks, hmode, State.link_modLink_self]
    simp
  · rw [hlinks, hgen, State.link_modLink_self]
  · rw [hlinks]
    exact hsent.othersStand (modLink_othersStand _ _ _) k hk

/-- Training that fails brings the link DOWN with cause 4; no command that waits for it stands to be ended. -/
theorem trainingEnd_failed {n : Nat} {s : State} (h : (s.link n).mode = .training) (hfree : linkHeld n s = false) :
    trainingEnd n none s = linkGoesDown n 4 s := by
  unfold trainingEnd
  rw [if_neg (not_not_intro h)]
  refine endOps_none n _ _ _ _ (linkHeld_of_mgr (linkGoesDown_mgr ..) hfree) fun o ho => ?_
  obtain ⟨hid, hle⟩ := Bool.and_eq_true_iff.1 ho
  obtain hid | hid := Bool.or_eq_true_iff.1 hid
  · exact ⟨.inl (eq_of_beq hid), eq_of_beq hle⟩
  · exact ⟨.inr (.inr (eq_of_beq hid)), eq_of_beq hle⟩

theorem startTraining_onlyNet (n : Nat) (by_ : TrainBy) (s : State) : OnlyNet s (startTraining n by_ s) :=
  .trans (dropTraffic_onlyNet n s) (modLink_onlyNet ..)

/-- A link in training carries nothing; the others keep all but their lanes and the credits owed. -/
theorem startTraining_link (n : Nat) (by_ : TrainBy) (s : State) :
    (startTraining n by_ s).link n = { (s.link n).emptied with
      mode := .training, gen := 0, ethRate := 0, train := some by_, lastTry := s.now, nextWord := 0 }
    ∧ ∀ k, k ≠ n → ∃ a b, (startTraining n by_ s).link k = { s.link k with tx := a, owed := b } := by
  obtain ⟨hself, hothers⟩ := dropTraffic_link n s
  refine ⟨by rw [startTraining, State.link_modLink_self, hself], fun k hk => ?_⟩
  rw [startTraining, State.link_modLink_other _ _ _ _ hk]
  exact hothers k hk

theorem startTraining_othersStand (n : Nat) (by_ : TrainBy) (s : State) : OthersStand n s (startTraining n by_ s) := fun k hk => by
  obtain ⟨a, b, hab⟩ := (startTraining_link n by_ s).2 k hk
  rw [hab]
  exact ⟨rfl, rfl, rfl, rfl⟩

theorem peerWithdraw_link {n : Nat} {s : State} (h : (s.link n).mode = .up ∨ (s.link n).mode = .withdrawn) :
    ((peerWithdraw n s).link n).mode = .withdrawn ∧ ((peerWithdraw n s).link n).peerWithdrew = true
      ∧ OthersStand n s (peerWithdraw n s) := by
  unfold peerWithdraw
  rw [if_pos h]
  obtain ⟨b, hb⟩ := sendWithdrawAck_sentOn n (s.modLink n fun l => { l with
    mode := .withdrawn, peerWithdrew := true, ackSent := l.ackSent && l.withdrawing.isSome })
  obtain ⟨hmode, -, hpeer, -⟩ := hb.self
  rw [hmode, hpeer, State.link_modLink_self, State.link_modLink_self]
  refine ⟨rfl, rfl, hb.othersStand fun k hk => ?_⟩
  rw [State.link_modLink_other _ _ _ _ hk, State.link_modLink_other _ _ _ _ hk]
  exact ⟨rfl, rfl, rfl, rfl⟩

theorem withdrawAck_of_free {n : Nat} {s : State} (h : (s.link n).withdrawing.isSome = true) (hfree : linkHeld n s = false) :
    withdrawAck n s = s.modLink n fun l => { l with withdrawing := none } := by
  unfold withdrawAck
  rw [if_neg (by simpa [Option.isNone_iff_eq_none, Option.isSome_iff_ne_none] using h)]
  have hnone := linkOp_none n (s.modLink n fun l => { l with withdrawing := none }) hfree 0x0505 (.inr (.inl rfl))
  dsimp only
  rw [hnone]
  exact linkOpStep_of_free hfree

theorem linkRestored_link {n : Nat} {s : State} (h : (s.link n).mode = .withdrawn) :
    ((linkRestored n s).link n).mode = .up ∧ ((linkRestored n s).link n).withdrawing = none ∧ OthersStand n s (linkRestored n s) := by
  unfold linkRestored
  rw [if_pos h]
  have hsent := pump_sentOn n (raiseArg srcLnk evLinkUp (w64 n) (s.modLink n fun l => { l with
    mode := .up, withdrawing := none, peerWithdrew := false, ackSent := false }))
  obtain ⟨hmode, -, -, hwd⟩ := hsent.self
  have hlinks (k : Nat) : (raiseArg srcLnk evLinkUp (w64 n) (s.modLink n fun l => { l with
      mode := .up, withdrawing := none, peerWithdrew := false, ackSent := false })).link k = (s.modLink n fun l => { l with
      mode := .up, withdrawing := none, peerWithdrew := false, ackSent := false }).link k := by simp
  rw [hmode, hwd, hlinks, State.link_modLink_self]
  refine ⟨rfl, rfl, hsent.othersStand fun k hk => ?_⟩
  rw [hlinks]
  exact modLink_othersStand n _ s k hk

/-- Settles O32, command by command: each reduces to one transition of the link, since no command holds it. -/
theorem linksTrainFailAndReturn : Obligations.LinksTrainFailAndReturn := by
  unfold Obligations.LinksTrainFailAndReturn
  intro n s l others isDown hpow hfree
  have isDown_of {cause : Byte} {t : State} (hdown : WentDown n.val cause s t)
      (hnoted : (∀ v, v < 4 → ∀ p ∈ txOf l v, p.begun = true) →
        t.ctr (lostPacketCount n.val) = w64 (min ((s.ctr (lostPacketCount n.val)).toNat + l.inFlight.length) (2 ^ 64 - 1))
        ∧ bitOf (t.evBits srcLnk) evLinkDown = true) : isDown cause t := by
    obtain ⟨hmode, hcause, hgen, htx, hsent, hat, hothers⟩ := hdown
    exact ⟨hmode, hcause, hgen, htx, hsent, hat, hothers, hnoted⟩
  refine ⟨fun g hmode heth => ?_, fun hmode => ?_, fun c hmode => ?_, fun c hmode => ?_, fun hauto hmode htime => ?_,
    fun hmode => ?_, fun hwd => ?_, fun hmode => ?_⟩
  · refine yields_clocked hpow rfl ?_
    rw [show trainingEnd n.val (some g) s = trained n.val (g.val + 1) s from if_neg (not_not_intro hmode)]
    exact trained_llynvan heth hfree _
  · refine yields_clocked hpow rfl ?_
    rw [trainingEnd_failed hmode hfree]
    exact isDown_of (linkGoesDown_wentDown (.inr (.inr hmode)) 4) fun _ => linkGoesDown_noted (.inr (.inr hmode)) 4
  · refine yields_clocked hpow rfl ?_
    rw [linkDown_of_free (by obtain h | h | h := hmode <;> simp [l] at h <;> simp [h]) hfree]
    exact isDown_of (failLink_wentDown hmode c) (failLink_noted hmode c)
  · refine yields_clocked hpow rfl ?_
    rw [show linkDown n.val c s = s.modLink n.val fun l => { l with ethRate := 0 } from if_pos hmode]
    exact ⟨State.link_modLink_self .., modLink_othersStand _ _ _, (modLink_onlyNet ..).frame⟩
  · refine ⟨startTraining n.val .auto s, ?_, ?_⟩
    · show execAutoRetrainAttempt n s = _
      unfold execAutoRetrainAttempt
      rw [if_neg (by simp [hpow])]
      dsimp only
      rw [if_pos (by simpa [hauto, htime, l] using hmode)]
    · have hself := (startTraining_link n.val .auto s).1
      exact ⟨by rw [hself], by rw [hself], by rw [hself], startTraining_othersStand _ _ _, (startTraining_onlyNet ..).frame⟩
  · exact yields_clocked hpow rfl (peerWithdraw_link hmode)
  · refine yields_clocked hpow rfl ?_
    rw [withdrawAck_of_free hwd hfree]
    exact ⟨State.link_modLink_self .., modLink_othersStand _ _ _, (modLink_onlyNet ..).frame⟩
  · exact yields_clocked hpow rfl (linkRestored_link hmode)

end Sys2Proof.Machine
end

section
/-! What a response leaves of the package besides its mailbox (spec 18 R383, R384): O25. -/

namespace Sys2Proof.Machine

theorem noteMbx_ctr (m k : Nat) (s : State) (key : Nat) : (noteMbx m k s).ctr key = s.ctr key := by simp [State.ctr]

/-- A response on a mailbox other than 2, with no interrupt asked for, counts its command and nothing else. -/
theorem respond_ctr {m : MbxId} {s : State} (hm : m ≠ 2) (hirq : bitOf (s.mbx m.val).ctrl 31 = false) (tag : Nat) (st : BitVec 16)
    (d : Nat) (pay : List Byte) (k : Nat) : (respond m tag st d pay s).ctr k
      = if k = cmdCount m.val then w64 (min ((s.ctr k).toNat + 1) (2 ^ 64 - 1)) else s.ctr k := by
  unfold respond
  dsimp only
  rw [if_neg hm, hirq, if_neg (by decide), noteMbx_ctr, ctr_count]
  split
  · next hk => rw [hk]; rfl
  · rfl

/-- A response leaves all but the mailboxes, what it counts and notes, and what it sends. -/
theorem respond_frame (m : MbxId) (tag : Nat) (st : BitVec 16) (d : Nat) (pay : List Byte) (s : State) :
    { respond m tag st d pay s with
      mgr := s.mgr, counters := s.counters, events := s.events, edges := s.edges
      outbox := s.outbox, net := s.net, host := s.host, cores := s.cores } = s := by
  apply State.ext_fields <;> simp

/-- Settles O25, from what a response makes of each mailbox. -/
theorem responsesFreeTheMailbox : Obligations.ResponsesFreeTheMailbox := by
  unfold Obligations.ResponsesFreeTheMailbox
  intro m tag st d pay s t
  have hself := respond_mbx m tag st d pay s m.val
  rw [if_pos rfl] at hself
  refine ⟨⟨by rw [hself], by rw [hself], by rw [hself]⟩, by rw [hself], fun k hk => ?_, ?_, fun hm hirq => ?_, ?_⟩
  · exact (respond_mbx m tag st d pay s k).trans (if_neg hk)
  · rw [show t.mgr = _ from respond_mgr ..]
    rfl
  · exact respond_ctr hm hirq tag st d pay
  · exact respond_frame ..

end Sys2Proof.Machine
end

section
/-! The slope limit that a Steward's grants keep (spec 16 R349, R352): O45. -/

namespace Sys2Proof.Machine

/-- What the ramps granted change the group by in a slot. -/
def rampChange (k : Nat) (rs : List SRamp) : Int := (rs.map fun r => r.changeIn k).sum

theorem rampChange_append (k : Nat) (rs : List SRamp) (r : SRamp) : rampChange k (rs ++ [r]) = rampChange k rs + r.changeIn k := by
  simp [rampChange]

/-! ## Single ramps -/

/-- A ramp with nothing left after a slot changes nothing in the next. -/
theorem changeIn_of_ended {r : SRamp} {k : Nat} (h : r.leftFrom k = 0) : r.changeIn (k + 1) = 0 := by
  unfold SRamp.leftFrom at h
  unfold SRamp.changeIn
  dsimp only at h ⊢
  by_cases hlater : k + 1 < r.first
  · exact if_pos hlater
  · rw [if_neg hlater]
    have hnone : r.amount.natAbs - min r.amount.natAbs (r.slope * (k + 1 - r.first)) = 0 := by
      by_cases hbefore : k < r.first
      · rw [if_pos hbefore] at h
        simp [h]
      · rw [if_neg hbefore] at h
        have hle : r.slope * (k - r.first) ≤ r.slope * (k + 1 - r.first) := Nat.mul_le_mul_left _ (by omega)
        split at h <;> omega
    rw [hnone]
    simp

theorem rampChange_pruned (k : Nat) (rs : List SRamp) :
    rampChange (k + 1) (rs.filter fun r => r.leftFrom k != 0) = rampChange (k + 1) rs := by
  induction rs with
  | nil => rfl
  | cons r rs ih =>
    rw [List.filter_cons]
    unfold rampChange at ih ⊢
    split
    · rw [List.map_cons, List.sum_cons, ih, List.map_cons, List.sum_cons]
    · next h =>
      rw [ih, List.map_cons, List.sum_cons, changeIn_of_ended (by simpa using h), zero_add]

/-- In its first slot a ramp changes the lesser of its slope and its amount, up. -/
theorem changeIn_first_up (node : NodeId) {a sl : Int} (ha : 1 ≤ a) (hsl : 1 ≤ sl) (k : Nat) (cover : Bool) :
    (SRamp.mk node a sl.toNat k cover).changeIn k = min sl a := by
  unfold SRamp.changeIn
  dsimp only
  rw [if_neg (Nat.lt_irrefl k), if_neg (by omega), Nat.sub_self, Nat.mul_zero]
  omega

/-- And down. -/
theorem changeIn_first_down (node : NodeId) {a sl : Int} (ha : 1 ≤ a) (hsl : 1 ≤ sl) (k : Nat) (cover : Bool) :
    (SRamp.mk node (-a) sl.toNat k cover).changeIn k = -min sl a := by
  unfold SRamp.changeIn
  dsimp only
  rw [if_neg (Nat.lt_irrefl k), if_pos (by omega), Nat.sub_self, Nat.mul_zero]
  omega

/-! ## What grants leave of the Steward's ramps -/

/-- The Steward's ramps, slope limit and last slot are as before. -/
def SameRamps (s t : State) : Prop := t.stew.ramps = s.stew.ramps ∧ t.stew.sg = s.stew.sg ∧ t.stew.lastSlot = s.stew.lastSlot

theorem SameRamps.refl (s : State) : SameRamps s s := ⟨rfl, rfl, rfl⟩

theorem SameRamps.trans {s t u : State} (h1 : SameRamps s t) (h2 : SameRamps t u) : SameRamps s u :=
  ⟨h2.1.trans h1.1, h2.2.1.trans h1.2.1, h2.2.2.trans h1.2.2⟩

theorem sameRamps_of_stew {s t : State} (h : t.stew = s.stew) : SameRamps s t := by
  rw [SameRamps, h]
  exact ⟨rfl, rfl, rfl⟩

theorem modRec_sameRamps (n : NodeId) (f : MemberRec → MemberRec) (s : State) : SameRamps s (s.modRec n f) := ⟨rfl, rfl, rfl⟩

theorem stewardRequest_sameRamps (m : PermitMsg) (s : State) : SameRamps s (stewardRequest m s) := by
  unfold stewardRequest
  split
  · exact ⟨rfl, rfl, rfl⟩
  · exact .refl s

theorem sendRequest_sameRamps (dst : NodeId) (m : PermitMsg) (s : State) : SameRamps s (sendUp dst kindRequest m s) := by
  unfold sendUp
  dsimp only
  split
  · rw [if_pos rfl]
    exact .trans (sameRamps_of_stew (by simp)) (stewardRequest_sameRamps _ _)
  · split
    · exact sameRamps_of_stew (by simp)
    · exact sameRamps_of_stew (by simp)

theorem askSteward_sameRamps (a : Int) (down urgent window : Bool) (s : State) : SameRamps s (askSteward a down urgent window s) := by
  unfold askSteward
  refine .trans ?_ (sendRequest_sameRamps _ _ _)
  exact ⟨rfl, rfl, rfl⟩

theorem requestUp_sameRamps (a : Int) (s : State) : SameRamps s (requestUp a s) := by
  unfold requestUp
  dsimp only
  split
  · exact .refl s
  · split
    · exact askSteward_sameRamps ..
    · exact sameRamps_of_stew (by simp)

theorem sluiceAsk_sameRamps (s : State) : SameRamps s (sluiceAsk s) := by
  unfold sluiceAsk
  split
  · exact .refl s
  · exact requestUp_sameRamps ..

theorem memberGrant_sameRamps (m : PermitMsg) (s : State) : SameRamps s (memberGrant m s) := by
  unfold memberGrant
  dsimp only
  split
  · exact .trans (sameRamps_of_stew (by simp)) (sluiceAsk_sameRamps _)
  · exact .refl s

theorem sendGrant_sameRamps (dst : NodeId) (m : PermitMsg) (s : State) : SameRamps s (sendDown dst kindGrant m s) := by
  unfold sendDown
  dsimp only
  split
  · rw [if_pos rfl]
    exact .trans (sameRamps_of_stew (by simp)) (memberGrant_sameRamps _ _)
  · split
    · exact sameRamps_of_stew (by simp)
    · exact sameRamps_of_stew (by simp)

theorem pruneRamps_ramps (k : Nat) (s : State) : (pruneRamps k s).stew.ramps = s.stew.ramps.filter (fun r => r.leftFrom k != 0)
    ∧ (pruneRamps k s).stew.sg = s.stew.sg := by
  have hfold (l : List SRamp) : ∀ s : State, SameRamps s (l.foldl (fun s r => s.modRec r.node fun x => { x with
      extra := x.extra + r.amount.natAbs }) s) := by
    induction l with
    | nil => exact SameRamps.refl
    | cons r l ih => exact fun s => .trans (modRec_sameRamps ..) (ih _)
  obtain ⟨hramps, hsg, -⟩ := hfold ((s.stew.ramps.filter fun r => r.leftFrom k == 0).filter (·.cover)) s
  exact ⟨by rw [← hramps]; rfl, hsg⟩

/-! ## The grants of one direction -/

/-- The Steward's books after a direction: the change reckoned is that of the ramps granted, and it is within the limit if it
was before. -/
structure Booked (k : Nat) (net : Int) (s : State) (net' : Int) (t : State) : Prop where
  change : rampChange (k + 1) t.stew.ramps = net'
  sg : t.stew.sg = s.stew.sg
  lastSlot : t.stew.lastSlot = s.stew.lastSlot
  within : -(s.stew.sg : Int) ≤ net → net ≤ s.stew.sg → -(s.stew.sg : Int) ≤ net' ∧ net' ≤ s.stew.sg

theorem grantDir_booked (down : Bool) (k : Nat) (qs : List PermitMsg) : ∀ (net plan : Int) (s : State),
    rampChange (k + 1) s.stew.ramps = net →
    Booked k net s (grantDir down k qs net plan s).1 (grantDir down k qs net plan s).2.2 := by
  induction qs with
  | nil => exact fun net plan s hnet => ⟨hnet, rfl, rfl, fun h1 h2 => ⟨h1, h2⟩⟩
  | cons q qs ih =>
    intro net plan s hnet
    unfold grantDir
    dsimp only
    let room : Int := if down then s.stew.sg + net else s.stew.sg - net
    let a : Int := if down then q.amount.natAbs else min (q.amount.natAbs : Int) ((s.stew.cg : Int) - plan)
    let sl : Int := min (q.slope : Int) room
    let signed : Int := if down then -a else a
    let step : Int := min sl a
    by_cases hnone : sl < 1 ∨ a < 1
    · rw [if_pos hnone]
      exact ⟨hnet, rfl, rfl, fun h1 h2 => ⟨h1, h2⟩⟩
    · rw [if_neg hnone]
      let s1 := s.modStew fun w => { w with
        queue := w.queue.filter fun x => !(x.src == q.src && x.seq == q.seq && x.flags == q.flags)
        ramps := w.ramps ++ [⟨q.src, signed, sl.toNat, k + 1, (q.flags &&& flagCover) ≠ 0⟩] }
      obtain ⟨hramps, hsg, hlast⟩ := sendGrant_sameRamps q.src { permitMsg s1 with
        time := k + 1, amount := signed, slope := sl.toNat, refSeq := q.seq, flags := q.flags } s1
      have ha : 1 ≤ a := by omega
      have hsl : 1 ≤ sl := by omega
      have hstep : (SRamp.mk q.src signed sl.toNat (k + 1) (decide ((q.flags &&& flagCover) ≠ 0))).changeIn (k + 1)
          = if down then -step else step := by
        cases down
        · exact changeIn_first_up _ ha hsl _ _
        · exact changeIn_first_down _ ha hsl _ _
      have hchange := rampChange_append (k + 1) s.stew.ramps
        ⟨q.src, signed, sl.toNat, k + 1, decide ((q.flags &&& flagCover) ≠ 0)⟩
      rw [hstep, hnet] at hchange
      have hnet' : rampChange (k + 1) s1.stew.ramps = if down then net - step else net + step :=
        hchange.trans (by cases down <;> rfl)
      obtain ⟨hch, hg, hl, hwithin⟩ := ih (if down then net - step else net + step) (if down then plan - a else plan + a)
        (sendDown q.src kindGrant { permitMsg s1 with
          time := k + 1, amount := signed, slope := sl.toNat, refSeq := q.seq, flags := q.flags } s1)
        (by rw [hramps]; exact hnet')
      rw [hsg] at hg hwithin
      have hpos : 1 ≤ step := le_min hsl ha
      have hroom : step ≤ room := (min_le_left _ _).trans (min_le_right _ _)
      have hbounds (h1 : -(s.stew.sg : Int) ≤ net) (h2 : net ≤ s.stew.sg) :
          -(s.stew.sg : Int) ≤ (if down then net - step else net + step) ∧ (if down then net - step else net + step) ≤ s.stew.sg := by
        by_cases hd : down = true
        · have : step ≤ s.stew.sg + net := hroom.trans_eq (if_pos hd)
          rw [if_pos hd]
          omega
        · have : step ≤ s.stew.sg - net := hroom.trans_eq (if_neg hd)
          rw [if_neg hd]
          omega
      exact ⟨hch, hg, hl.trans hlast, fun h1 h2 => hwithin (hbounds h1 h2).1 (hbounds h1 h2).2⟩

/-- Settles O45: the change reckoned while granting is that of the ramps granted, and each grant takes at most the room left. -/
theorem stewardsKeepTheSlopeLimit : Obligations.StewardsKeepTheSlopeLimit := by
  unfold Obligations.StewardsKeepTheSlopeLimit
  intro s k
  constructor
  · intro hroles hrole hhand htime hslot
    refine ⟨stewardSlot k s, ?_, ?_⟩
    · show execStewardSlot s = _
      unfold execStewardSlot
      exact congrArg _ (if_pos ⟨hroles, hrole, by simp [hhand], htime, hslot⟩)
    · let s1 := (pruneRamps k s).modStew fun w => { w with lastSlot := k + 1 }
      obtain ⟨hramps, hsg⟩ := pruneRamps_ramps k s
      have hstart : rampChange (k + 1) s1.stew.ramps = rampChange (k + 1) s.stew.ramps :=
        (congrArg _ hramps).trans (rampChange_pruned k _)
      let plan := ((s1.stew.list.filter fun n => !(s1.memberRec n).lost).map (memberEnd s1)).sum
      let sorted := sortReqs s1.stew.queue
      let r := grantDir true k (sorted.filter fun q => (q.flags &&& flagUp) == 0) (rampChange (k + 1) s1.stew.ramps) plan s1
      have hdown : Booked k _ s1 r.1 r.2.2 := grantDir_booked true k _ _ plan s1 rfl
      have hup : Booked k r.1 r.2.2 _ (stewardSlot k s) :=
        grantDir_booked false k (sorted.filter fun q => (q.flags &&& flagUp) != 0) _ r.2.1 r.2.2 hdown.change
      have hg : s1.stew.sg = s.stew.sg := hsg
      refine ⟨hup.lastSlot.trans hdown.lastSlot, hup.sg.trans (hdown.sg.trans hg), fun h1 h2 => ?_⟩
      have h := hdown.within (by rw [hstart, hg]; exact h1) (by rw [hstart, hg]; exact h2)
      rw [← hdown.sg] at h
      have hend := hup.within h.1 h.2
      rw [hdown.sg, hg, ← hup.change] at hend
      exact hend
  · intro h
    show execStewardSlot s = _
    unfold execStewardSlot
    refine congrArg _ (if_neg ?_)
    rintro ⟨-, hrole, hhand, htime, hslot⟩
    obtain h | h | h | h := h
    · omega
    · omega
    · simp [h] at hhand
    · exact h hrole

end Sys2Proof.Machine
end

section
/-! How packets are routed and node failures are marked (spec 14 R304, R307, R310): O34. -/

namespace Sys2Proof.Machine

/-! ## What sending leaves of the network -/

/-- Of the network only what the links hold may differ. -/
def LinksOnly (s t : State) : Prop := t.net = { s.net with links := t.net.links }

theorem LinksOnly.refl (s : State) : LinksOnly s s := rfl

theorem LinksOnly.trans {s t u : State} (h1 : LinksOnly s t) (h2 : LinksOnly t u) : LinksOnly s u := by
  unfold LinksOnly at h1 h2 ⊢
  rw [h2, h1]

theorem LinksOnly.routes {s t : State} (h : LinksOnly s t) : t.net.routes = s.net.routes := by rw [h]

theorem modLink_linksOnly (n : Nat) (f : LinkSt → LinkSt) (s : State) : LinksOnly s (s.modLink n f) := rfl

theorem oweAll_linksOnly (bs : List HeldSlots) : ∀ s : State, LinksOnly s (bs.foldl (fun s b => oweSlots b s) s) := by
  induction bs with
  | nil => exact LinksOnly.refl
  | cons b bs ih => exact fun s => .trans (modLink_linksOnly ..) (ih _)

theorem putFlit_linksOnly (n kind vl fseq sop : Nat) (pay : List Byte) (s : State) : LinksOnly s (putFlit n kind vl fseq sop pay s) := rfl

theorem sendData_linksOnly (n vl : Nat) (s : State) : LinksOnly s (sendData n vl s) := by
  unfold sendData
  dsimp only
  split
  · exact .refl s
  · exact .trans (modLink_linksOnly ..) (.trans (oweAll_linksOnly ..) (putFlit_linksOnly ..))

theorem pumpFuel_linksOnly (n : Nat) : ∀ (k : Nat) (s : State), LinksOnly s (pumpFuel n k s)
  | 0, s => .refl s
  | k + 1, s => by
    unfold pumpFuel
    dsimp only
    split
    · exact .refl s
    · split
      · exact .refl s
      · exact .trans (sendData_linksOnly ..) (pumpFuel_linksOnly n k _)

theorem pump_linksOnly (n : Nat) (s : State) : LinksOnly s (pump n s) := by
  unfold pump
  dsimp only
  split
  · exact .trans (pumpFuel_linksOnly ..) (modLink_linksOnly ..)
  · exact .refl s

theorem sendHeld_linksOnly (n : Nat) (back : Option HeldSlots) (p : Packet) (s : State) : LinksOnly s (sendHeld n back p s) :=
  .trans (modLink_linksOnly ..) (pump_linksOnly ..)

/-- A packet sent takes the next serial number of its link, and no other link's; the link's state stays. -/
theorem sendHeld_serial (n : Nat) (back : Option HeldSlots) (p : Packet) (s : State) :
    ((sendHeld n back p s).link n).nextSerial = (s.link n).nextSerial + 1 ∧ ((sendHeld n back p s).link n).mode = (s.link n).mode
      ∧ ∀ k, k ≠ n → ((sendHeld n back p s).link k).nextSerial = (s.link k).nextSerial := by
  obtain ⟨hothers, _, _, _, _, _, _, _, _, hself⟩ := pump_sentOn n (s.modLink n fun l => { l with
    nextSerial := l.nextSerial + 1
    tx := Sparse.set [] l.tx (laneOf p.typ) (txOf l (laneOf p.typ) ++ [⟨l.nextSerial, packetBytes p, false, back⟩]) })
  unfold sendHeld
  refine ⟨by rw [hself, State.link_modLink_self], by rw [hself, State.link_modLink_self], fun k hk => ?_⟩
  obtain ⟨w, hw⟩ := hothers k hk
  rw [hw, State.link_modLink_other _ _ _ _ hk]

/-! ## Packets at this node -/

theorem routePacket_deliver {p : Packet} {s : State} (hnode : s.node ≠ 0xFFFF) (h0 : p.typ.toNat ≠ 0) (h5 : p.typ.toNat ≤ 5)
    (hdst : p.dst = s.node) (from_ : Option Nat) : routePacket from_ p s = deliver from_ p s := by
  unfold routePacket routeHeld
  dsimp only [Option.toList, List.foldl]
  rw [if_neg (by omega), if_neg hnode, if_pos hdst]

theorem routePacket_sent {p : Packet} {s : State} {n : Nat} (hnode : s.node ≠ 0xFFFF) (h0 : p.typ.toNat ≠ 0) (h5 : p.typ.toNat ≤ 5)
    (hdst : p.dst ≠ s.node) (h : pickLink p s = some n) (from_ : Option Nat) :
    routePacket from_ p s = sendOn n { p with hops := p.hops - 1 } s := by
  unfold routePacket routeHeld forward
  dsimp only [Option.toList, List.foldl]
  rw [if_neg (by omega), if_neg hnode, if_neg hdst, h]
  rfl

theorem routePacket_dropped {p : Packet} {s : State} (hnode : s.node ≠ 0xFFFF) (h0 : p.typ.toNat ≠ 0) (h5 : p.typ.toNat ≤ 5)
    (hdst : p.dst ≠ s.node) (h : pickLink p s = none) (from_ : Option Nat) :
    routePacket from_ p s = dropPacket p (noteDrop s) := by
  unfold routePacket routeHeld forward
  dsimp only [Option.toList, List.foldl]
  rw [if_neg (by omega), if_neg hnode, if_neg hdst, h]
  rfl

theorem routePacket_reserved {p : Packet} (h : p.typ.toNat = 0 ∨ 5 < p.typ.toNat) (from_ : Option Nat) (s : State) :
    routePacket from_ p s = noteDrop s := if_pos h

theorem deliver_coll {p : Packet} (h : p.typ = typeColl) (from_ : Option Nat) (s : State) :
    deliver from_ p s = { s with net := { s.net with arrived := s.net.arrived ++ [p] } } := by
  unfold deliver
  rw [h]
  rfl

/-- A drop is counted and raised, and nothing else. -/
theorem noteDrop_noted (s : State) : (noteDrop s).ctr dropCount = w64 (min ((s.ctr dropCount).toNat + 1) (2 ^ 64 - 1))
    ∧ bitOf ((noteDrop s).evBits srcLnk) evDrop = true
    ∧ { noteDrop s with counters := s.counters, events := s.events, edges := s.edges } = s := by
  unfold noteDrop
  refine ⟨?_, ?_, ?_⟩
  · rw [State.ctr, (raiseEv_fields ..).2.2.2.2.2.1]
    exact (count_counts ..).1
  · rw [raiseEv_bit _ _ _ _ _ (by decide)]
    simp
  · apply State.ext_fields <;> simp

/-! ## Nodes that go down -/

/-- The node marked unreachable and counted, and NODE_DOWN raised. -/
def nodeMarked (node : NodeId) (s : State) : State := raiseEv srcLnk evNodeDown (count nodeDownCount 1 (s.modNet fun t => { t with
  routes := Sparse.set {} s.net.routes node.toNat { s.route node.toNat with unreach := true } }))

/-- What follows where a node has been marked: other links are told, and everything with the node is ended. -/
def nodeMourned (from_ : Option Nat) (node : NodeId) (s : State) : State :=
  let told := ((upLinks s).filter fun k => some k != from_).foldl (sendNodeDown node) s
  fabricLost node (envNodeDown node (collNodeLost node
    ((told.net.writes.filter fun o => o.node == node).foldl (fun s o => unreachable o.txn s) told)))

theorem nodeDown_eq (from_ : Option Nat) (node : NodeId) (s : State) : nodeDown from_ node s
    = if (s.route node.toNat).unreach = true then s else nodeMourned from_ node (nodeMarked node s) := rfl

theorem nodeMarked_route (node : NodeId) (s : State) (k : Nat) : (nodeMarked node s).route k
    = if k = node.toNat then { s.route node.toNat with unreach := true } else s.route k := by
  have hroutes : (nodeMarked node s).net.routes
      = Sparse.set {} s.net.routes node.toNat { s.route node.toNat with unreach := true } := by
    simp [nodeMarked]
  rw [State.route, hroutes, Sparse.get_set]
  rfl

theorem nodeMarked_noted (node : NodeId) (s : State) : bitOf ((nodeMarked node s).evBits srcLnk) evNodeDown = true
    ∧ (nodeMarked node s).ctr nodeDownCount = w64 (min ((s.ctr nodeDownCount).toNat + 1) (2 ^ 64 - 1))
    ∧ { nodeMarked node s with net := s.net, counters := s.counters, events := s.events, edges := s.edges } = s := by
  unfold nodeMarked
  refine ⟨?_, ?_, ?_⟩
  · rw [raiseEv_bit _ _ _ _ _ (by decide)]
    simp
  · rw [State.ctr, (raiseEv_fields ..).2.2.2.2.2.1]
    exact (count_counts ..).1
  · apply State.ext_fields <;> simp

/-- Settles O34: where a packet goes follows its destination and the link that R307 picks; a node is marked before the rest
is told of it. -/
theorem packetsAreRoutedOrDropped : Obligations.PacketsAreRoutedOrDropped := by
  unfold Obligations.PacketsAreRoutedOrDropped
  refine ⟨fun p from_ s hpow hnode h0 h5 => ?_, fun p from_ s hpow htyp => ?_, fun p s h => pickLink_none h,
    fun p s n h => ?_, fun n d s hdown => ?_, fun n d s hpow hup => ?_⟩
  · have hexec : exec (.packetRoute from_ p) s = .next (routePacket (from_.map Fin.val) p s) :=
      congrArg _ (clocked_of_powered hpow _)
    refine ⟨fun hdst => ?_, fun hdst htyp => ?_, fun n hdst hlink => ?_, fun hdst hlink => ?_, fun hdst hlink htyp => ?_⟩
    · rw [hexec, routePacket_deliver hnode h0 h5 hdst]
    · exact ⟨_, by rw [hexec, routePacket_deliver hnode h0 h5 hdst], deliver_coll htyp _ s⟩
    · rw [routePacket_sent hnode h0 h5 hdst hlink] at hexec
      obtain ⟨hserial, hmode, hothers⟩ := sendHeld_serial n none { p with hops := p.hops - 1 } s
      exact ⟨hexec, _, hexec, hserial, hmode.trans (mem_upLinks.1 (pickLink_some hlink).1).2, hothers,
        (sendHeld_linksOnly ..).routes, by simp [sendOn], by simp [sendOn], by simp [sendOn]⟩
    · rw [hexec, routePacket_dropped hnode h0 h5 hdst hlink]
    · rw [routePacket_dropped hnode h0 h5 hdst hlink, dropPacket, if_pos htyp] at hexec
      exact ⟨_, hexec, noteDrop_noted s⟩
  · exact congrArg _ ((clocked_of_powered hpow _).trans (routePacket_reserved htyp _ s))
  · obtain ⟨hup, hroute⟩ := pickLink_some h
    exact ⟨(mem_upLinks.1 hup).1, (mem_upLinks.1 hup).2, hroute⟩
  · show Host.Outcome.next (clocked (nodeDown (some n.val) d) s) = _
    unfold clocked
    rw [nodeDown_eq, if_pos hdown, ite_self]
  · intro go lost
    have hlost (from_ : Option Nat) : lost from_ (nodeDown from_ d s) := by
      rw [nodeDown_eq, if_neg (by simp [hup])]
      exact ⟨nodeMarked d s, rfl, by rw [nodeMarked_route, if_pos rfl], fun k hk => by rw [nodeMarked_route, if_neg hk],
        nodeMarked_noted d s⟩
    refine ⟨yields_clocked hpow rfl (hlost _), fun hgone => ⟨_, ?_, hlost none⟩⟩
    show execNodeDownTimer d s = _
    unfold execNodeDownTimer
    rw [if_neg (by simp [hpow]), if_pos hgone]

end Sys2Proof.Machine
end

section
/-! How flits are taken, refused and sent again (spec 14 R300-R303): O33. -/

namespace Sys2Proof.Machine

/-! ## Flits that leave -/

/-- So many flits have left on link n, where only the credits owed may have changed. -/
def PutOn (n k : Nat) (s t : State) : Prop :=
  (∃ w, t.link n = { s.link n with owed := w }) ∧ t.outbox.length = s.outbox.length + k ∧ t.counters = s.counters

theorem putFlit_putOn (n kind vl fseq sop : Nat) (pay : List Byte) (s : State) : PutOn n 1 s (putFlit n kind vl fseq sop pay s) := by
  obtain ⟨-, hself, hout⟩ := putFlit_link n kind vl fseq sop pay s
  exact ⟨hself, hout, by simp⟩

theorem PutOn.trans {n i j : Nat} {s t u : State} (h1 : PutOn n i s t) (h2 : PutOn n j t u) : PutOn n (i + j) s u := by
  obtain ⟨⟨w, hw⟩, hout, hctr⟩ := h1
  obtain ⟨⟨w', hw'⟩, hout', hctr'⟩ := h2
  exact ⟨⟨w', by rw [hw', hw]⟩, by omega, hctr'.trans hctr⟩

theorem resent_putOn (n : Nat) (fs : List SentFlit) : ∀ s : State,
    PutOn n fs.length s (fs.foldl (fun s x => putFlit n kindData x.vl x.fseq x.sop x.payload s) s) := by
  induction fs with
  | nil => exact fun s => ⟨⟨_, rfl⟩, rfl, rfl⟩
  | cons f fs ih =>
    intro s
    rw [List.length_cons, Nat.add_comm]
    exact (putFlit_putOn ..).trans (ih _)

theorem count_link (key k : Nat) (s : State) (n : Nat) : (count key k s).link n = s.link n := by simp

theorem count_ctr_other {key k j : Nat} (h : j ≠ key) (s : State) : (count key k s).ctr j = s.ctr j := by rw [ctr_count, if_neg h]

/-! ## Flits that are discarded -/

theorem askRetry_putOn (n : Nat) (s : State) : PutOn n 1 (s.modLink n fun l => { l with retryAt := some s.now }) (askRetry n s) :=
  putFlit_putOn ..

/-- A retry is being asked for, since before or from now on; no lane has gained a byte. -/
theorem discardFlit_link (n : Nat) (s : State) : ∃ w, (discardFlit n s).link n = { s.link n with
    owed := w, retryAt := if (s.link n).retryAt.isSome then (s.link n).retryAt else some s.now } := by
  unfold discardFlit
  split
  · exact ⟨_, rfl⟩
  · obtain ⟨⟨w, hw⟩, -, -⟩ := askRetry_putOn n s
    exact ⟨w, hw.trans (by rw [State.link_modLink_self])⟩

theorem discardFlit_frame (n : Nat) (s : State) : (discardFlit n s).counters = s.counters ∧ (discardFlit n s).hbm = s.hbm
    ∧ (discardFlit n s).coh = s.coh ∧ (discardFlit n s).mgr = s.mgr ∧ (discardFlit n s).coll = s.coll := by
  unfold discardFlit askRetry sendControl
  split
  · exact ⟨rfl, rfl, rfl, rfl, rfl⟩
  · refine ⟨?_, ?_, ?_, ?_, ?_⟩ <;> simp

/-- Codewords counted: the link but for the next word, and what else is kept. -/
theorem countWords_link (n : Nat) (words : List (Nat × Nat)) (s : State) :
    ∃ w, (countWords n words s).link n = { s.link n with nextWord := w } := by
  unfold countWords
  dsimp only
  exact ⟨_, by rw [count_link, count_link, State.link_modLink_self]⟩

theorem countWords_frame (n : Nat) (words : List (Nat × Nat)) (s : State) : (countWords n words s).now = s.now
    ∧ (countWords n words s).hbm = s.hbm ∧ (countWords n words s).coh = s.coh ∧ (countWords n words s).mgr = s.mgr
    ∧ (countWords n words s).coll = s.coll := by
  unfold countWords
  refine ⟨?_, ?_, ?_, ?_, ?_⟩ <;> simp

/-! ## What is counted of a flit -/

theorem linkCtr_ne {a b : Nat} (h : a ≠ b) (n : Nat) : linkCtr n a ≠ linkCtr n b := by
  unfold linkCtr lnkCtr
  omega

theorem flitCounters_distinct (n : Nat) : fecUncorrCount n ≠ fecCorrCount n ∧ fecCorrCount n ≠ fecUncorrCount n
    ∧ crcErrCount n ≠ fecCorrCount n ∧ crcErrCount n ≠ fecUncorrCount n :=
  ⟨linkCtr_ne (by decide) n, linkCtr_ne (by decide) n, linkCtr_ne (by decide) n, linkCtr_ne (by decide) n⟩

/-- A counter that has gone up by k, as far as it can. -/
def Up (key k : Nat) (s t : State) : Prop := t.ctr key = w64 (min ((s.ctr key).toNat + k) (2 ^ 64 - 1))

theorem up_zero {key : Nat} {s t : State} (h : t.ctr key = s.ctr key) : Up key 0 s t := by
  rw [Up, h, Nat.add_zero, Nat.min_eq_left (Nat.le_sub_one_of_lt (s.ctr key).isLt)]
  simp [w64]

theorem count_up (key k : Nat) (s : State) : Up key k s (count key k s) := (count_counts ..).1

theorem Up.of_ctr {key k : Nat} {s t u : State} (h : Up key k s t) (hctr : u.ctr key = t.ctr key) : Up key k s u := hctr.trans h

/-- The codewords not met before are counted, and nothing else. -/
theorem countWords_up (n : Nat) (words : List (Nat × Nat)) (s : State) :
    let new := words.filter fun w => decide ((s.link n).nextWord ≤ w.1)
    Up (fecUncorrCount n) (new.filter fun w => decide (7 < w.2)).length s (countWords n words s)
      ∧ Up (fecCorrCount n) (new.filter fun w => decide (0 < w.2) && decide (w.2 ≤ 7)).length s (countWords n words s)
      ∧ (countWords n words s).ctr (crcErrCount n) = s.ctr (crcErrCount n) := by
  intro new
  obtain ⟨huncorr, hcorr, hcrc, hcrc'⟩ := flitCounters_distinct n
  unfold countWords
  dsimp only
  refine ⟨?_, ?_, ?_⟩
  · rw [Up, ctr_count, if_pos rfl, count_ctr_other huncorr]
    rfl
  · rw [Up, count_ctr_other hcorr, ctr_count, if_pos rfl]
    rfl
  · rw [count_ctr_other hcrc', count_ctr_other hcrc]
    rfl

/-- A flit refused: what is counted, and what is asked for again. -/
structure Refused (n : Nat) (words : List (Nat × Nat)) (crc : Nat) (s t : State) : Prop where
  link : ∃ w x, t.link n = { s.link n with
    owed := w, nextWord := x, retryAt := if (s.link n).retryAt.isSome then (s.link n).retryAt else some s.now }
  uncorr : Up (fecUncorrCount n) ((words.filter fun w => decide ((s.link n).nextWord ≤ w.1)).filter fun w => decide (7 < w.2)).length s t
  corr : Up (fecCorrCount n)
    ((words.filter fun w => decide ((s.link n).nextWord ≤ w.1)).filter fun w => decide (0 < w.2) && decide (w.2 ≤ 7)).length s t
  crcErr : Up (crcErrCount n) crc s t
  frame : t.hbm = s.hbm ∧ t.coh = s.coh ∧ t.mgr = s.mgr ∧ t.coll = s.coll

theorem discard_refused (n : Nat) (words : List (Nat × Nat)) (s : State) : Refused n words 0 s (discardFlit n (countWords n words s)) := by
  obtain ⟨x, hx⟩ := countWords_link n words s
  obtain ⟨hnow, hhbm, hcoh, hmgr, hcoll⟩ := countWords_frame n words s
  obtain ⟨w, hw⟩ := discardFlit_link n (countWords n words s)
  obtain ⟨hctrs, hhbm', hcoh', hmgr', hcoll'⟩ := discardFlit_frame n (countWords n words s)
  obtain ⟨huncorr, hcorr, hcrc⟩ := countWords_up n words s
  have hctr (k : Nat) : (discardFlit n (countWords n words s)).ctr k = (countWords n words s).ctr k := by
    rw [State.ctr, hctrs]
    rfl
  exact ⟨⟨w, x, by rw [hw, hx, hnow]⟩, huncorr.of_ctr (hctr _), hcorr.of_ctr (hctr _), up_zero ((hctr _).trans hcrc),
    hhbm'.trans hhbm, hcoh'.trans hcoh, hmgr'.trans hmgr, hcoll'.trans hcoll⟩

theorem discard_crc_refused (n : Nat) (words : List (Nat × Nat)) (s : State) :
    Refused n words 1 s (discardFlit n (count (crcErrCount n) 1 (countWords n words s))) := by
  obtain ⟨x, hx⟩ := countWords_link n words s
  obtain ⟨hnow, hhbm, hcoh, hmgr, hcoll⟩ := countWords_frame n words s
  obtain ⟨w, hw⟩ := discardFlit_link n (count (crcErrCount n) 1 (countWords n words s))
  obtain ⟨hctrs, hhbm', hcoh', hmgr', hcoll'⟩ := discardFlit_frame n (count (crcErrCount n) 1 (countWords n words s))
  obtain ⟨huncorr, hcorr, hcrc⟩ := countWords_up n words s
  have hctr (k : Nat) : (discardFlit n (count (crcErrCount n) 1 (countWords n words s))).ctr k
      = (count (crcErrCount n) 1 (countWords n words s)).ctr k := by
    rw [State.ctr, hctrs]
    rfl
  refine ⟨⟨w, x, ?_⟩, huncorr.of_ctr ?_, hcorr.of_ctr ?_, ?_, ?_, ?_, ?_, ?_⟩
  · rw [hw, count_link, hx, (count_fields ..).2.2.2.1, hnow]
  · rw [hctr, count_ctr_other (flitCounters_distinct n).2.2.2.symm]
  · rw [hctr, count_ctr_other (flitCounters_distinct n).2.2.1.symm]
  · have := count_up (crcErrCount n) 1 (countWords n words s)
    rw [Up, hcrc] at this
    exact (hctr _).trans this
  · rw [hhbm', ← hhbm]
    simp
  · rw [hcoh', ← hcoh]
    simp
  · rw [hmgr', ← hmgr]
    simp
  · rw [hcoll', ← hcoll]
    simp

/-- A flit that overlaps an uncorrectable codeword, or fails its CRC. -/
theorem flitReceive_refused {n : Nat} {s : State} {bytes : List Byte} {words : List (Nat × Nat)}
    (hup : (s.link n).mode = .up ∨ (s.link n).mode = .withdrawn)
    (hbad : (words.any fun w => decide (7 < w.2)) = true ∨ leAt bytes 124 4 ≠ (crc32 (bytes.take 124)).toNat) :
    Refused n words (if (words.any fun w => decide (7 < w.2)) = true then 0 else 1) s (flitReceive n bytes words s) := by
  unfold flitReceive correctable
  rw [if_neg (not_and_or.2 (hup.imp not_not_intro not_not_intro))]
  dsimp only
  split
  · exact discard_refused n words s
  · next hwords =>
    rw [if_pos (hbad.resolve_left hwords)]
    exact discard_crc_refused n words s

/-! ## Flits that are taken -/

theorem flitReceive_taken {n : Nat} {s : State} {bytes : List Byte} {words : List (Nat × Nat)}
    (hup : (s.link n).mode = .up ∨ (s.link n).mode = .withdrawn) (hgood : (words.any fun w => decide (7 < w.2)) = false)
    (hcrc : leAt bytes 124 4 = (crc32 (bytes.take 124)).toNat) :
    flitReceive n bytes words s = takeFlit n bytes (countWords n words s) := by
  unfold flitReceive correctable
  rw [if_neg (not_and_or.2 (hup.imp not_not_intro not_not_intro))]
  dsimp only
  rw [if_neg (by rw [hgood]; decide), if_neg (not_not_intro hcrc)]

/-- The link's state, expected FSEQ, retry and received bytes. -/
def Receives (l l' : LinkSt) : Prop := l'.mode = l.mode ∧ l'.expect = l.expect ∧ l'.retryAt = l.retryAt ∧ l'.rx = l.rx

theorem Receives.trans {l l' l'' : LinkSt} (h1 : Receives l l') (h2 : Receives l' l'') : Receives l l'' :=
  ⟨h2.1.trans h1.1, h2.2.1.trans h1.2.1, h2.2.2.1.trans h1.2.2.1, h2.2.2.2.trans h1.2.2.2⟩

theorem SentOn.receives {n : Nat} {s t : State} (h : SentOn n s t) : Receives (s.link n) (t.link n) := by
  obtain ⟨-, _, _, _, _, _, _, _, _, hl⟩ := h
  rw [hl]
  exact ⟨rfl, rfl, rfl, rfl⟩

theorem sendIdle_sentOn (n : Nat) (s : State) : SentOn n s (sendIdle n s) := by
  unfold sendIdle
  dsimp only
  split
  · exact putFlit_sentOn ..
  · exact .refl n s

theorem sendWithdrawAck_receives (n : Nat) (s : State) : Receives (s.link n) ((sendWithdrawAck n s).link n) := by
  obtain ⟨b, hb⟩ := sendWithdrawAck_sentOn n s
  refine .trans ?_ hb.receives
  rw [State.link_modLink_self]
  exact ⟨rfl, rfl, rfl, rfl⟩

/-- A DATA flit in order that completes no packet: the next is expected, and its bytes are on its lane. -/
theorem acceptData_waiting {n vl sop : Nat} {pay : List Byte} {s : State}
    (h : (splitPackets 6 (laneBytes (Sparse.get [] (s.link n).rx vl) pay sop)).1 = []) :
    Receives { s.link n with
      expect := ((s.link n).expect + 1) % 4096, retryAt := none
      rx := Sparse.set [] (s.link n).rx vl (laneRest (splitPackets 6 (laneBytes (Sparse.get [] (s.link n).rx vl) pay sop)).2) }
    ((acceptData n vl sop pay s).link n) := by
  unfold acceptData
  dsimp only
  rw [h]
  refine .trans ?_ (sendIdle_sentOn n _).receives
  refine .trans ?_ (oweAll_sentOn n _ _).receives
  dsimp only [List.dropLast, List.foldl]
  rw [State.link_modLink_self]
  exact ⟨rfl, rfl, rfl, rfl⟩

/-- A DATA flit of the FSEQ expected is accepted once its header is taken. -/
theorem takeFlit_data {n : Nat} {bytes : List Byte} {s : State} (hkind : leAt bytes 0 6 / 2 ^ 46 % 2 ^ 2 = 0)
    (hseq : leAt bytes 0 6 / 2 ^ 32 % 2 ^ 12 = (s.link n).expect) : ∃ a c k, takeFlit n bytes s = sendWithdrawAck n (pump n
      (acceptData n (leAt bytes 0 6 / 2 ^ 44 % 2 ^ 2) (leAt bytes 0 6 % 2 ^ 7) ((bytes.drop 6).take 118) (takeHeader n a c k s))) := by
  unfold takeFlit
  dsimp only
  rw [if_pos (show _ = kindData from hkind), if_pos hseq, Nat.pow_zero, Nat.div_one]
  exact ⟨_, _, _, rfl⟩

theorem takeHeader_receives (n a c k : Nat) (s : State) : Receives (s.link n) ((takeHeader n a c k s).link n) := by
  unfold takeHeader
  rw [State.link_modLink_self]
  exact ⟨rfl, rfl, rfl, rfl⟩

/-- Such a flit that completes no packet: the next FSEQ is expected and no retry asked for. -/
theorem takeFlit_waiting {n : Nat} {bytes : List Byte} {s : State} (hkind : leAt bytes 0 6 / 2 ^ 46 % 2 ^ 2 = 0)
    (hseq : leAt bytes 0 6 / 2 ^ 32 % 2 ^ 12 = (s.link n).expect)
    (hwait : (splitPackets 6 (laneBytes (Sparse.get [] (s.link n).rx (leAt bytes 0 6 / 2 ^ 44 % 2 ^ 2))
      ((bytes.drop 6).take 118) (leAt bytes 0 6 % 2 ^ 7))).1 = []) :
    ((takeFlit n bytes s).link n).expect = ((s.link n).expect + 1) % 4096 ∧ ((takeFlit n bytes s).link n).retryAt = none
      ∧ ((takeFlit n bytes s).link n).mode = (s.link n).mode ∧ ((takeFlit n bytes s).link n).rx
        = Sparse.set [] (s.link n).rx (leAt bytes 0 6 / 2 ^ 44 % 2 ^ 2)
          (laneRest (splitPackets 6 (laneBytes (Sparse.get [] (s.link n).rx (leAt bytes 0 6 / 2 ^ 44 % 2 ^ 2))
            ((bytes.drop 6).take 118) (leAt bytes 0 6 % 2 ^ 7))).2) := by
  obtain ⟨a, c, k, htake⟩ := takeFlit_data hkind hseq
  obtain ⟨hmode, hexpect, -, hrx⟩ := takeHeader_receives n a c k s
  rw [← hrx] at hwait
  have haccept := acceptData_waiting hwait
  obtain ⟨hmode', hexpect', hretry', hrx'⟩ := haccept.trans ((pump_sentOn n _).receives.trans (sendWithdrawAck_receives n _))
  rw [← htake] at hmode' hexpect' hretry' hrx'
  rw [hrx] at hrx'
  exact ⟨hexpect'.trans (by rw [hexpect]), hretry', hmode'.trans hmode, hrx'⟩

/-! ## Replays -/

theorem retryReq_within {n f : Nat} {s : State} (hup : (s.link n).mode = .up ∨ (s.link n).mode = .withdrawn)
    (hlimit : ((((s.link n).replays.filter fun t => decide (s.now < t + 1000000)) ++ [s.now]).length) ≤ s.net.retryLimit) :
    retryReq n f s = (sentFrom (s.link n) f).foldl (fun s x => putFlit n kindData x.vl x.fseq x.sop x.payload s)
      (count (retryCount n) 1 (s.modLink n fun l => { l with
        replays := ((s.link n).replays.filter fun t => decide (s.now < t + 1000000)) ++ [s.now] })) := by
  unfold retryReq
  dsimp only
  rw [if_neg (not_and_or.2 (hup.imp not_not_intro not_not_intro)), if_neg (Nat.not_lt.2 hlimit)]

/-- Settles O33: a flit refused and a flit taken both act on the link alone until packets are complete. -/
theorem flitsAreTakenOrReplayed : Obligations.FlitsAreTakenOrReplayed := by
  unfold Obligations.FlitsAreTakenOrReplayed
  intro n s hpow l up plus bad
  have hreceive (bytes : List Byte) (words : List (Nat × Nat)) :
      exec (.flitReceive n bytes words) s = .next (flitReceive n.val bytes words s) := congrArg _ (clocked_of_powered hpow _)
  refine ⟨?_, fun bytes words hup hgood hcrc => ⟨?_, ?_⟩, ?_, fun x hretry htime => ?_, fun node link gen part => ?_, ?_⟩
  · intro bytes words hup hbad new
    obtain ⟨⟨w, x, hlink⟩, huncorr, hcorr, hcrc, hframe⟩ := flitReceive_refused hup hbad
    exact ⟨_, hreceive .., by rw [hlink], by rw [hlink], by rw [hlink], by rw [hlink], huncorr, hcorr, hcrc, hframe⟩
  · rw [hreceive, flitReceive_taken hup hgood hcrc]
  · intro h vl r hkind hseq hwait
    obtain ⟨x, hx⟩ := countWords_link n.val words s
    have hwords := takeFlit_waiting (n := n.val) (s := countWords n.val words s) hkind (by rw [hx]; exact hseq) (by rw [hx]; exact hwait)
    rw [hx] at hwords
    obtain ⟨hexpect, hretry, hmode, hrx⟩ := hwords
    refine ⟨_, hreceive .., ?_⟩
    rw [flitReceive_taken hup hgood hcrc]
    refine ⟨hexpect, hretry, ?_, fun v hv => ?_, hmode⟩
    · rw [hrx, Sparse.get_set, if_pos rfl]
    · rw [hrx, Sparse.get_set_other _ _ _ _ _ hv]
  · intro f recent hup hlimit
    have hexec : exec (.retryReq n f) s = .next (retryReq n.val f.toNat s) := congrArg _ (clocked_of_powered hpow _)
    rw [retryReq_within hup hlimit] at hexec
    obtain ⟨⟨w, hlink⟩, hout, hctrs⟩ := resent_putOn n.val (sentFrom l f.toNat)
      (count (retryCount n.val) 1 (s.modLink n.val fun l => { l with replays := recent }))
    rw [count_link, State.link_modLink_self] at hlink
    refine ⟨hexec, _, hexec, by rw [hlink], ?_, hout.trans (by simp), by rw [hlink], by rw [hlink], by rw [hlink]⟩
    show State.ctr _ _ = _
    rw [State.ctr, hctrs]
    exact (count_counts ..).1
  · refine ⟨askRetry n.val s, ?_, ?_⟩
    · show execRetryReqRepeat n s = _
      unfold execRetryReqRepeat
      rw [if_neg (by simp [hpow]), show (s.link n.val).retryAt = some x from hretry]
      dsimp only
      rw [if_pos htime]
    · obtain ⟨⟨w, hw⟩, hout, -⟩ := askRetry_putOn n.val s
      rw [State.link_modLink_self] at hw
      exact ⟨by rw [hw], by rw [hw], hout⟩
  · exact yields_clocked hpow rfl ⟨State.link_modLink_self .., fun k hk => State.link_modLink_other _ _ _ _ hk, (modLink_onlyNet ..).frame⟩
  · intro v d hdry htime
    refine ⟨raiseEv srcLnk evCreditStall s, ?_, ?_, ?_⟩
    · show execCreditStall n v s = _
      unfold execCreditStall
      rw [if_neg (by simp [hpow])]
      dsimp only
      rw [if_pos (by simp only [Bool.and_eq_true, bne_iff_ne, decide_eq_true_eq]; exact ⟨hdry, htime⟩)]
    · rw [raiseEv_bit _ _ _ _ _ (by decide)]
      simp
    · apply State.ext_fields <;> simp

end Sys2Proof.Machine
end

section
/-! The mailbox commands for links and routes, and the route table's entries (spec 14 R306, R307, R311, R314; spec 18): O35. -/

namespace Sys2Proof.Machine

/-! ## What answers leave of the links -/

theorem LinksOnly.of_net {s t : State} (h : t.net = s.net) : LinksOnly s t := by
  rw [LinksOnly, h]

theorem Sends.of_net {s t : State} (h : t.net = s.net) : Sends s t := sends_of_links (congrArg NetState.links h)

theorem forward_linksOnly (back : Option HeldSlots) (p : Packet) (s : State) : LinksOnly s (forward back p s).2 := by
  unfold forward
  split
  · exact sendHeld_linksOnly ..
  · exact .of_net (noteDrop_links s)

theorem sendMgmt_linksOnly (dst : NodeId) (cls : Nat) (pay : List Byte) (s : State) : LinksOnly s (sendMgmt dst cls pay s) := by
  unfold sendMgmt sendPacket
  split
  · exact .refl s
  · exact forward_linksOnly ..

/-- A response sends a message where it goes to mailbox 2, and leaves the network besides. -/
theorem respond_cases (m : MbxId) (tag : Nat) (st : BitVec 16) (d : Nat) (pay : List Byte) (s : State) : ∃ u, u.net = s.net
    ∧ (respond m tag st d pay s = u ∨ ∃ dst bytes, respond m tag st d pay s = sendMgmt dst 1 bytes u) := by
  unfold respond
  dsimp only
  generalize hnoted : noteMbx m.val 1 _ = s1
  have hs1 : s1.net = s.net := by
    rw [← hnoted]
    simp
  generalize hasked : (if bitOf (s.mbx m.val).ctrl 31 = true then sendIrq (s.mbx m.val).ctrl s1 else s1) = s2
  have hs2 : s2.net = s.net := by
    rw [← hasked]
    split
    · simpa using hs1
    · exact hs1
  refine ⟨s2, hs2, ?_⟩
  split
  · exact .inr ⟨_, _, rfl⟩
  · exact .inl rfl

/-- What a response sends leaves the network as sending on links that are up does. -/
theorem respond_sends (m : MbxId) (tag : Nat) (st : BitVec 16) (d : Nat) (pay : List Byte) (s : State) :
    Sends s (respond m tag st d pay s) ∧ LinksOnly s (respond m tag st d pay s) := by
  obtain ⟨u, hu, h | ⟨dst, bytes, h⟩⟩ := respond_cases m tag st d pay s
  · rw [h]
    exact ⟨.of_net hu, .of_net hu⟩
  · rw [h]
    exact ⟨.trans (.of_net hu) (sendMgmt_sends ..), .trans (.of_net hu) (sendMgmt_linksOnly ..)⟩

theorem answer_sends (c : MCmd) (pay : List Byte) (s : State) : Sends s (answer c pay s) := (respond_sends ..).1

theorem answer_routes (c : MCmd) (pay : List Byte) (s : State) : (answer c pay s).net.routes = s.net.routes :=
  (respond_sends ..).2.routes

/-! ## Operations placed and ended -/

/-- The operation of a command. -/
def opOf (c : MCmd) (s : State) : RunOp :=
  ⟨c.m, if keepsMailbox c s then none else freeSlot? c.m s, c.id, BitVec.ofNat 32 c.tag, c.pay, none⟩

theorem placeOp_mgr (c : MCmd) (s : State) : (placeOp c s).mgr.ops = s.mgr.ops ++ [opOf c s]
    ∧ (placeOp c s).mgr.order = s.mgr.order := by
  unfold placeOp opOf
  dsimp only
  split
  · next h => rw [h]; exact ⟨rfl, rfl⟩
  · next j h =>
    rw [h, respond_mgr]
    exact ⟨rfl, rfl⟩

theorem placeOp_now (c : MCmd) (s : State) : (placeOp c s).now = s.now := by
  unfold placeOp
  dsimp only
  split
  · rfl
  · simp

theorem placeOp_sends (c : MCmd) (s : State) : Sends s (placeOp c s) := by
  unfold placeOp
  dsimp only
  split
  · exact .of_net rfl
  · refine .trans ?_ (respond_sends _ _ _ _ _ _).1
    exact .of_net rfl

/-- An operation that ends where no doorbell waits: only its answer is sent. -/
theorem endOp_sends (o : RunOp) (st : BitVec 16) (r : List Byte) {s : State} (h : s.mgr.order = []) :
    Sends s (endOp o st r s) ∧ (endOp o st r s).mgr.order = [] := by
  unfold endOp
  dsimp only
  split
  · rw [settle_empty _ (by rw [respond_order]; exact h)]
    refine ⟨.trans ?_ (respond_sends _ _ _ _ _ _).1, by rw [respond_order]; exact h⟩
    exact .of_net rfl
  · split
    · exact ⟨.of_net (by simp), by simp; exact h⟩
    · exact ⟨.of_net (by simp), by simp; exact h⟩

theorem endOps_sends (p : RunOp → Bool) (st : BitVec 16) (r : List Byte) {s : State} (h : s.mgr.order = []) :
    Sends s (endOps p st r s) ∧ (endOps p st r s).mgr.order = [] := by
  have hfold (l : List RunOp) : ∀ s : State, s.mgr.order = [] →
      Sends s (l.foldl (fun s o => endOp o st r s) s) ∧ (l.foldl (fun s o => endOp o st r s) s).mgr.order = [] := by
    induction l with
    | nil => exact fun s h => ⟨.refl s, h⟩
    | cons o l ih =>
      intro s h
      obtain ⟨hsends, horder⟩ := endOp_sends o st r h
      obtain ⟨hsends', horder'⟩ := ih _ horder
      exact ⟨hsends.trans hsends', horder'⟩
  exact hfold _ s h

/-! ## Withdrawals and training that commands begin -/

theorem sendWithdrawAck_mgr (n : Nat) (s : State) : (sendWithdrawAck n s).mgr = s.mgr := by
  unfold sendWithdrawAck sendControl
  dsimp only
  split <;> simp

theorem beginWithdraw_mgr (n : Nat) (s : State) : (beginWithdraw n s).mgr = s.mgr := by
  unfold beginWithdraw sendControl
  rw [sendWithdrawAck_mgr]
  simp

/-- The link is withdrawn by this end, since now. -/
theorem beginWithdraw_link (n : Nat) (s : State) : ((beginWithdraw n s).link n).mode = .withdrawn
    ∧ ((beginWithdraw n s).link n).withdrawing = some s.now ∧ ((beginWithdraw n s).link n).peerWithdrew = false := by
  unfold beginWithdraw
  generalize hnow : (s.modLink n fun l => { l with
    mode := .withdrawn, withdrawing := some s.now, peerWithdrew := false, ackSent := false }) = t
  have hsent : SentOn n t (sendControl n ctlWithdraw [] t) := putFlit_sentOn ..
  obtain ⟨b, hb⟩ := sendWithdrawAck_sentOn n (sendControl n ctlWithdraw [] t)
  obtain ⟨hmode, -, hpeer, hwd⟩ := hb.self
  obtain ⟨hmode', -, hpeer', hwd'⟩ := hsent.self
  rw [State.link_modLink_self] at hmode hpeer hwd
  have ht : t.link n = { s.link n with
      mode := .withdrawn, withdrawing := some s.now, peerWithdrew := false, ackSent := false } := by
    rw [← hnow, State.link_modLink_self]
  rw [ht] at hmode' hpeer' hwd'
  exact ⟨hmode.trans hmode', hwd.trans hwd', hpeer.trans hpeer'⟩

/-- The retraining just placed, on a link that no command held. -/
theorem linkOpStep_placed {c : MCmd} {s : State} (hid : c.id = 0x0506) (hfree : linkHeld (c.le 0 1) s = false) :
    linkOpStep (c.le 0 1) (placeOp c s)
      = startTraining (c.le 0 1) (.cmd c.m (if keepsMailbox c s then none else freeSlot? c.m s)) (placeOp c s) := by
  have hnone := linkOp_none (c.le 0 1) s hfree
  have hop (id : Nat) (hi : id = 0x0504 ∨ id = 0x0505 ∨ id = 0x0506) :
      linkOp (c.le 0 1) id (placeOp c s) = [opOf c s].find? fun o => o.id == id && o.le 0 1 == c.le 0 1 := by
    rw [linkOp, (placeOp_mgr c s).1, List.find?_append, show s.mgr.ops.find? _ = none from hnone id hi]
    rfl
  have hle : (opOf c s).le 0 1 = c.le 0 1 := rfl
  have h504 : linkOp (c.le 0 1) 0x0504 (placeOp c s) = none := by
    rw [hop _ (.inl rfl)]
    simp [opOf, hid]
  have h506 : linkOp (c.le 0 1) 0x0506 (placeOp c s) = some (opOf c s) := by
    rw [hop _ (.inr (.inr rfl)), List.find?_cons_of_pos]
    rw [hle]
    simp [opOf, hid]
  unfold linkOpStep
  rw [h504, h506]
  rfl

theorem startTraining_mgr (n : Nat) (by_ : TrainBy) (s : State) : (startTraining n by_ s).mgr = s.mgr := by
  rw [startTraining_onlyNet n by_ s]

/-! ## Route entries (Table 14-8) -/

theorem routeEntry_bytes_length (e : RouteEntry) : e.bytes.length = 32 := by simp [RouteEntry.bytes, length_leBytes]

theorem leAt_routeBytes (a b c d : Nat) (off len : Nat) (h : off % 8 + len ≤ 8) (hoff : off < 32) :
    leAt (leBytes 8 a ++ leBytes 8 b ++ leBytes 8 c ++ leBytes 8 d) off len
      = (if off < 8 then a else if off < 16 then b else if off < 24 then c else d) / 256 ^ (off % 8) % 256 ^ len := by
  have hlen (k v : Nat) : (leBytes k v).length = k := length_leBytes k v
  by_cases h1 : off < 8
  · rw [if_pos h1, leAt_append_left _ _ _ _ (by simp [hlen]; omega), leAt_append_left _ _ _ _ (by simp [hlen]; omega),
      leAt_append_left _ _ _ _ (by simp [hlen]; omega), leAt_leBytes _ _ _ _ (by omega), Nat.mod_eq_of_lt h1]
  · rw [if_neg h1]
    by_cases h2 : off < 16
    · rw [if_pos h2, leAt_append_left _ _ _ _ (by simp [hlen]; omega), leAt_append_left _ _ _ _ (by simp [hlen]; omega),
        leAt_append_right _ _ _ _ (by simp [hlen]; omega), leAt_leBytes _ _ _ _ (by simp [hlen]; omega), hlen,
        show off - 8 = off % 8 by omega]
    · rw [if_neg h2]
      by_cases h3 : off < 24
      · rw [if_pos h3, leAt_append_left _ _ _ _ (by simp [hlen]; omega), leAt_append_right _ _ _ _ (by simp [hlen]; omega),
          leAt_leBytes _ _ _ _ (by simp [hlen]; omega), List.length_append, hlen, hlen, show off - (8 + 8) = off % 8 by omega]
      · rw [if_neg h3, leAt_append_right _ _ _ _ (by simp [hlen]; omega), leAt_leBytes _ _ _ _ (by simp [hlen]; omega),
          List.length_append, List.length_append, hlen, hlen, hlen, show off - (8 + 8 + 8) = off % 8 by omega]

/-- The entry decoded from its 32 bytes. -/
theorem routeOf_bytes (e : RouteEntry) : routeOf e.bytes = e := by
  obtain ⟨valid, unreach, prim, sec⟩ := e
  have hprim : prim.toNat < 2 ^ 96 := prim.isLt
  have hsec : sec.toNat < 2 ^ 96 := sec.isLt
  unfold routeOf RouteEntry.bytes
  rw [leAt_routeBytes _ _ _ _ 0 8 (by decide) (by decide), leAt_routeBytes _ _ _ _ 8 4 (by decide) (by decide),
    leAt_routeBytes _ _ _ _ 15 1 (by decide) (by decide), leAt_routeBytes _ _ _ _ 16 8 (by decide) (by decide),
    leAt_routeBytes _ _ _ _ 24 4 (by decide) (by decide)]
  have hflag (b : Bool) : b2n b ≤ 1 := by cases b <;> decide
  have hb (b : Bool) : (decide (1 ≤ b2n b)) = b := by cases b <;> rfl
  have hv := hflag valid
  have hu := hflag unreach
  congr 1
  · refine .trans (decide_eq_decide.2 ?_) (hb valid)
    norm_num
    omega
  · rw [beq_eq_decide]
    refine .trans (decide_eq_decide.2 ?_) (hb unreach)
    norm_num
    omega
  · apply BitVec.eq_of_toNat_eq
    rw [BitVec.toNat_ofNat]
    norm_num
    omega
  · apply BitVec.eq_of_toNat_eq
    rw [BitVec.toNat_ofNat]
    norm_num
    omega

/-! ## Writes to the route table -/

/-- The table with entries written from a first node on. -/
def routesWritten (first : Nat) (bs : List Byte) (n : Nat) (m : Sparse RouteEntry) : Sparse RouteEntry :=
  (List.range n).foldl (fun m k => Sparse.set {} m (first + k) (routeOf (bs.drop (32 * k)))) m

theorem get_routesWritten (first : Nat) (bs : List Byte) (m : Sparse RouteEntry) (d : Nat) : ∀ n,
    Sparse.get {} (routesWritten first bs n m) d
      = if first ≤ d ∧ d < first + n then routeOf (bs.drop (32 * (d - first))) else Sparse.get {} m d := by
  intro n
  induction n with
  | zero => rw [if_neg (by omega)]; rfl
  | succ n ih =>
    rw [routesWritten, List.range_succ, List.foldl_append]
    show Sparse.get {} (Sparse.set {} (routesWritten first bs n m) (first + n) _) d = _
    rw [Sparse.get_set, ih]
    by_cases hd : d = first + n
    · rw [if_pos hd, if_pos (by omega), hd, Nat.add_sub_cancel_left]
    · rw [if_neg hd]
      by_cases hin : first ≤ d ∧ d < first + n
      · rw [if_pos hin, if_pos (by omega)]
      · rw [if_neg hin, if_neg (by omega)]

theorem collNodeLost_idle {s : State} (h : s.coll.runs = []) (node : NodeId) : collNodeLost node s = s := by
  unfold collNodeLost
  rw [h]
  rfl

/-- Where no node is marked unreachable anew, or no collective runs, a write changes the table alone. -/
theorem writeRoutes_eq {first n : Nat} {bs : List Byte} {s : State}
    (h : s.coll.runs = [] ∨ ∀ k, k < n → (routeOf (bs.drop (32 * k))).unreach = true → (s.route (first + k)).unreach = true) :
    writeRoutes first bs n s = s.modNet fun t => { t with routes := routesWritten first bs n t.routes } := by
  unfold writeRoutes
  dsimp only
  obtain h | h := h
  · have hfold (l : List Nat) : ∀ s : State, s.coll.runs = [] → l.foldl (fun s k => collNodeLost (BitVec.ofNat 16 (first + k)) s) s = s := by
      induction l with
      | nil => exact fun _ _ => rfl
      | cons k l ih =>
        intro s hs
        rw [List.foldl_cons, collNodeLost_idle hs]
        exact ih s hs
    exact hfold _ _ h
  · rw [List.filter_eq_nil_iff.2]
    · rfl
    · intro k hk hlost
      obtain ⟨hnew, hold⟩ := Bool.and_eq_true_iff.1 hlost
      have hroute : Sparse.get {} (routesWritten first bs n s.net.routes) (first + k) = routeOf (bs.drop (32 * k)) := by
        rw [get_routesWritten, if_pos (by have := List.mem_range.1 hk; omega), Nat.add_sub_cancel_left]
      have := h k (List.mem_range.1 hk) (by rw [← hroute]; exact hnew)
      simp [this] at hold

theorem writeRoutes_route {first n : Nat} {bs : List Byte} {s : State}
    (h : s.coll.runs = [] ∨ ∀ k, k < n → (routeOf (bs.drop (32 * k))).unreach = true → (s.route (first + k)).unreach = true) (d : Nat) :
    (writeRoutes first bs n s).route d
      = if first ≤ d ∧ d < first + n then routeOf (bs.drop (32 * (d - first))) else s.route d := by
  rw [writeRoutes_eq h]
  exact get_routesWritten first bs s.net.routes d n

theorem writeRoutes_written {first n : Nat} {bs : List Byte} {s : State}
    (h : s.coll.runs = [] ∨ ∀ k, k < n → (routeOf (bs.drop (32 * k))).unreach = true → (s.route (first + k)).unreach = true) :
    (∀ k, k < n → (writeRoutes first bs n s).route (first + k) = routeOf (bs.drop (32 * k)))
      ∧ ∀ d, (d < first ∨ first + n ≤ d) → (writeRoutes first bs n s).route d = s.route d := by
  constructor
  · intro k hk
    rw [writeRoutes_route h, if_pos (by omega), Nat.add_sub_cancel_left]
  · intro d hd
    rw [writeRoutes_route h, if_neg (by omega)]

end Sys2Proof.Machine
end

section
/-! Each mailbox command for links and routes, served alone with its fields in range (spec 14 R306, R307, R311, R314): O35. -/

namespace Sys2Proof.Machine

/-- A command served alone whose meaning leaves no doorbell waiting. -/
theorem yields_served {i : Instr} {m : MbxId} {id : Nat} {f : MCmd → State → State} {s t : State} {P : State → Prop}
    (hexec : exec i s = .next (serve m id f s)) (h : Served m id s) (hf : f (cmdAt m s) (taken s) = t) (ho : t.mgr.order = [])
    (hP : P t) : Yields i s P :=
  ⟨t, by rw [hexec, serve_served m id f s h (by rw [hf]; exact ho), hf], hP⟩

theorem yields_answered {i : Instr} {m : MbxId} {id : Nat} {f : MCmd → State → State} {s t : State} {pay : List Byte}
    {P : State → Prop} (hexec : exec i s = .next (serve m id f s)) (h : Served m id s)
    (hf : f (cmdAt m s) (taken s) = answer (cmdAt m s) pay t) (ho : t.mgr.order = [])
    (hP : P (answer (cmdAt m s) pay t)) : Yields i s fun u => Answered m (cmdAt m s).tag mbxOk 0 pay u ∧ P u :=
  yields_served hexec h hf (by rw [answer, respond_order]; exact ho) ⟨answer_answered (cmdAt m s) pay t, hP⟩

/-! ## What each command does once its checks pass -/

/-- A link that no command holds, and a slot for the operation. -/
def Free (c : MCmd) (s : State) : Prop := (c.le 0 1 < 96 ∧ linkHeld (c.le 0 1) s = false)
  ∧ (keepsMailbox c s = true ∨ (freeSlot? c.m s).isSome = true)

theorem Free.taken {c : MCmd} {s : State} (h : Free c s) : Free c (taken s) := ⟨h.1, slot_taken c s h.2⟩

theorem pass_lt {n d : Nat} (h : n < 96) : ∀ x ∈ [(decide (96 ≤ n), d)], x.1 = false :=
  pass_cons (decide_eq_false (Nat.not_le.2 h)) pass_nil

/-- The state with the node ID set and every UP link told. -/
def nodeNamed (c : MCmd) (s : State) : State :=
  (upLinks { s with node := BitVec.ofNat 16 (c.le 0 2) }).foldl (fun s n => sendIdent n s) { s with node := BitVec.ofNat 16 (c.le 0 2) }

theorem nodeIdSet_passes {c : MCmd} {s : State} (hid : c.le 0 2 ≠ 0xFFFF) (hgroups : groupsLoaded s = false) :
    nodeIdSet c s = answer c [] (nodeNamed c s) := by
  unfold nodeIdSet
  exact checked_pass _ _ _ _ _ _ (pass_cons (beq_eq_false_iff_ne.2 hid) pass_nil) pass_nil (pass_cons hgroups pass_nil)

theorem routeWrite_passes {c : MCmd} {s : State} (hinl : c.le 4 1 % 2 = 1) (h0 : c.le 2 2 ≠ 0) (h31 : c.le 2 2 ≤ 31)
    (hend : c.le 0 2 + c.le 2 2 ≤ 65536) :
    routeWrite c s = answer c [] (writeRoutes (c.le 0 2) (c.pay.drop 16) (c.le 2 2) s) := by
  unfold routeWrite
  dsimp only
  have hflag : (c.le 4 1 % 2 == 1) = true := beq_iff_eq.2 hinl
  rw [hflag, checked_pass _ _ _ _ _ _ (pass_cons ?_ pass_nil) pass_nil pass_nil]
  · rfl
  · simp only [Bool.or_eq_false_iff, beq_eq_false_iff_ne, decide_eq_false_iff_not, if_true]
    refine ⟨⟨h0, ?_⟩, by omega⟩
    split <;> omega

theorem routeRead_passes {c : MCmd} {s : State} (h0 : c.le 2 2 ≠ 0) (h31 : c.le 2 2 ≤ 31) (hend : c.le 0 2 + c.le 2 2 ≤ 65536) :
    routeRead c s = answer c ((List.range (c.le 2 2)).flatMap fun k => (s.route (c.le 0 2 + k)).bytes) s := by
  unfold routeRead
  dsimp only
  rw [checked_pass _ _ _ _ _ _ (pass_cons ?_ pass_nil) pass_nil pass_nil]
  simp only [Bool.or_eq_false_iff, beq_eq_false_iff_ne, decide_eq_false_iff_not]
  refine ⟨⟨h0, ?_⟩, by omega⟩
  split <;> omega

/-- The link may train to the generation named, and LINK_CONFIG is answered. -/
def linkConfigured (c : MCmd) (s : State) : State :=
  endOps (fun o => o.id == 0x0504 && o.le 0 1 == c.le 0 1) mbxOk [] ((placeOp c s).modLink (c.le 0 1) fun l => { l with maxGen := c.le 2 1 })

theorem linkConfig_same {c : MCmd} {s : State} (hfree : Free c s) (hmode : c.le 1 1 = 0) (hoff : (s.link (c.le 0 1)).off = false)
    (heth : (s.link (c.le 0 1)).eth = false) (h0 : c.le 2 1 ≠ 0) (h2 : c.le 2 1 ≤ 2) : linkConfig c s = linkConfigured c s := by
  obtain ⟨⟨h96, hheld⟩, hslot⟩ := hfree
  unfold linkConfig
  dsimp only
  rw [hmode, hoff, heth, long_pass _ _ _ _ _ _
    (pass_cons (decide_eq_false (Nat.not_le.2 h96)) (pass_cons (by simp) (pass_cons (by simp [h0, h2]) pass_nil)))
    (pass_cons hheld pass_nil) pass_nil hslot]
  rfl

theorem linkConfig_other {c : MCmd} {s : State} (hfree : Free c s) (hmode : c.le 1 1 = 2) (hup : (s.link (c.le 0 1)).mode = .up) :
    linkConfig c s = beginWithdraw (c.le 0 1) (placeOp c s) := by
  obtain ⟨⟨h96, hheld⟩, hslot⟩ := hfree
  unfold linkConfig
  dsimp only
  rw [hmode, hup, long_pass _ _ _ _ _ _
    (pass_cons (decide_eq_false (Nat.not_le.2 h96)) (pass_cons (by simp) (pass_cons (by simp) pass_nil)))
    (pass_cons hheld pass_nil) pass_nil hslot]
  rfl

theorem linkWithdraw_passes {c : MCmd} {s : State} (h96 : c.le 0 1 < 96) (hheld : linkHeld (c.le 0 1) s = false)
    (hup : (s.link (c.le 0 1)).mode = .up) : linkWithdraw c s = beginWithdraw (c.le 0 1) (s.modMgr fun g => { g with
      ops := g.ops ++ [⟨c.m, none, c.id, BitVec.ofNat 32 c.tag, c.pay, none⟩] }) := by
  unfold linkWithdraw
  dsimp only
  rw [hup, checked_pass _ _ _ _ _ _ (pass_lt h96) (pass_cons hheld pass_nil) (pass_cons (by decide) pass_nil)]
  exact if_neg (by decide)

theorem linkRetrain_passes {c : MCmd} {s : State} (hfree : Free c s) (hmode : (s.link (c.le 0 1)).mode = .up
      ∨ (s.link (c.le 0 1)).mode = .withdrawn ∨ (s.link (c.le 0 1)).mode = .down) :
    linkRetrain c s = if (s.link (c.le 0 1)).mode = .up then beginWithdraw (c.le 0 1) (placeOp c s)
      else linkOpStep (c.le 0 1) (placeOp c s) := by
  obtain ⟨⟨h96, hheld⟩, hslot⟩ := hfree
  unfold linkRetrain
  dsimp only
  rw [long_pass _ _ _ _ _ _ (pass_lt h96) (pass_cons hheld pass_nil) (pass_cons ?_ pass_nil) hslot]
  obtain h | h | h := hmode <;> rw [h] <;> decide

theorem linkRestore_passes {c : MCmd} {s : State} (h96 : c.le 0 1 < 96) (hheld : linkHeld (c.le 0 1) s = false)
    (hmode : (s.link (c.le 0 1)).mode = .withdrawn) :
    linkRestore c s = answer c [] (linkRestored (c.le 0 1) (sendControl (c.le 0 1) ctlRestore [] s)) := by
  unfold linkRestore
  dsimp only
  rw [hmode, checked_pass _ _ _ _ _ _ (pass_lt h96) (pass_cons hheld pass_nil) (pass_cons (by decide) pass_nil)]

/-! ## Node ID and routes -/

theorem nodeNamed_kept (c : MCmd) (s : State) : (nodeNamed c s).mgr = s.mgr ∧ (nodeNamed c s).node = BitVec.ofNat 16 (c.le 0 2) :=
  ⟨foldl_mgr _ _ _ fun s n => by simp [sendIdent, sendControl], foldl_node _ _ _ fun s n => by simp [sendIdent, sendControl]⟩

theorem yields_nodeIdSet {m : MbxId} {s : State} (h : Served m 0x0501 s) (hid : (cmdAt m s).le 0 2 ≠ 0xFFFF)
    (hgroups : groupsLoaded s = false) : Yields (.nodeIdSet m) s fun t =>
      Answered m (cmdAt m s).tag mbxOk 0 [] t ∧ t.node = BitVec.ofNat 16 ((cmdAt m s).le 0 2) := by
  obtain ⟨hmgr, hnode⟩ := nodeNamed_kept (cmdAt m s) (taken s)
  refine yields_answered rfl h (nodeIdSet_passes hid hgroups) (by rw [hmgr]; rfl) ?_
  rw [answer, (respond_fr ..).2.2.2.2.2.2.2.2.2.2.2.1, hnode]

theorem answer_route (c : MCmd) (pay : List Byte) (s : State) (d : Nat) : (answer c pay s).route d = s.route d := by
  rw [State.route, answer_routes]
  rfl

theorem yields_routeWrite {m : MbxId} {s : State} (h : Served m 0x0502 s) (hinl : (cmdAt m s).le 4 1 % 2 = 1)
    (h0 : (cmdAt m s).le 2 2 ≠ 0) (h31 : (cmdAt m s).le 2 2 ≤ 31) (hend : (cmdAt m s).le 0 2 + (cmdAt m s).le 2 2 ≤ 65536)
    (hnew : ∀ k, k < (cmdAt m s).le 2 2 → (routeOf (((cmdAt m s).pay.drop 16).drop (32 * k))).unreach = true →
      (s.route ((cmdAt m s).le 0 2 + k)).unreach = true) :
    Yields (.routeWrite m) s fun t => Answered m (cmdAt m s).tag mbxOk 0 [] t
      ∧ (∀ k, k < (cmdAt m s).le 2 2 → t.route ((cmdAt m s).le 0 2 + k) = routeOf (((cmdAt m s).pay.drop 16).drop (32 * k)))
      ∧ ∀ d, (d < (cmdAt m s).le 0 2 ∨ (cmdAt m s).le 0 2 + (cmdAt m s).le 2 2 ≤ d) → t.route d = s.route d := by
  obtain ⟨hin, hout⟩ := writeRoutes_written (s := taken s) (bs := (cmdAt m s).pay.drop 16) (.inr hnew)
  refine yields_answered rfl h (routeWrite_passes hinl h0 h31 hend) ?_ ⟨fun k hk => ?_, fun d hd => ?_⟩
  · rw [writeRoutes_eq (s := taken s) (.inr hnew)]
    rfl
  · rw [answer_route, hin k hk]
  · rw [answer_route, hout d hd]
    rfl

theorem yields_routeRead {m : MbxId} {s : State} (h : Served m 0x0503 s) (h0 : (cmdAt m s).le 2 2 ≠ 0)
    (h31 : (cmdAt m s).le 2 2 ≤ 31) (hend : (cmdAt m s).le 0 2 + (cmdAt m s).le 2 2 ≤ 65536) :
    Yields (.routeRead m) s fun t => Answered m (cmdAt m s).tag mbxOk 0
      ((List.range ((cmdAt m s).le 2 2)).flatMap fun k => (s.route ((cmdAt m s).le 0 2 + k)).bytes) t ∧ t.net.routes = s.net.routes :=
  yields_answered rfl h (routeRead_passes h0 h31 hend) (taken_order s) (answer_routes _ _ _)

/-! ## Links -/

/-- A link withdrawn by this end since now. -/
def WithdrawnNow (n : Nat) (s t : State) : Prop := (t.link n).mode = .withdrawn ∧ (t.link n).withdrawing = some s.now
  ∧ (t.link n).peerWithdrew = false

theorem beginWithdraw_now {n : Nat} {s t : State} (h : t.now = s.now) : WithdrawnNow n s (beginWithdraw n t) := by
  have hlink := beginWithdraw_link n t
  rwa [h] at hlink

theorem placeOp_taken_now (c : MCmd) (s : State) : (placeOp c (taken s)).now = s.now := placeOp_now c (taken s)

theorem placeOp_taken_order (c : MCmd) (s : State) : (placeOp c (taken s)).mgr.order = [] := (placeOp_mgr c (taken s)).2

theorem withdrawPlaced_order (n : Nat) (c : MCmd) (s : State) : (beginWithdraw n (placeOp c (taken s))).mgr.order = [] := by
  rw [beginWithdraw_mgr]
  exact placeOp_taken_order c s

theorem linkConfigured_kept (c : MCmd) (s : State) : ((linkConfigured c (taken s)).link (c.le 0 1)).maxGen = c.le 2 1
    ∧ ((linkConfigured c (taken s)).link (c.le 0 1)).mode = (s.link (c.le 0 1)).mode
    ∧ (linkConfigured c (taken s)).mgr.order = [] := by
  obtain ⟨hsends, horder⟩ := endOps_sends (fun o => o.id == 0x0504 && o.le 0 1 == c.le 0 1) mbxOk []
    (s := (placeOp c (taken s)).modLink (c.le 0 1) fun l => { l with maxGen := c.le 2 1 }) (placeOp_taken_order c s)
  obtain ⟨_, _, _, _, _, _, _, _, _, hlink⟩ := hsends.sentBy (c.le 0 1)
  unfold linkConfigured
  rw [hlink, State.link_modLink_self]
  exact ⟨rfl, ((placeOp_sends c (taken s)).sentBy _).mode, horder⟩

theorem yields_linkConfig_same {m : MbxId} {s : State} (h : Served m 0x0504 s) (hfree : Free (cmdAt m s) s)
    (hmode : (cmdAt m s).le 1 1 = 0) (hoff : (s.link ((cmdAt m s).le 0 1)).off = false)
    (heth : (s.link ((cmdAt m s).le 0 1)).eth = false) (h0 : (cmdAt m s).le 2 1 ≠ 0) (h2 : (cmdAt m s).le 2 1 ≤ 2) :
    Yields (.linkConfig m) s fun t => (t.link ((cmdAt m s).le 0 1)).maxGen = (cmdAt m s).le 2 1
      ∧ (t.link ((cmdAt m s).le 0 1)).mode = (s.link ((cmdAt m s).le 0 1)).mode := by
  obtain ⟨hgen, hstate, horder⟩ := linkConfigured_kept (cmdAt m s) s
  exact yields_served rfl h (linkConfig_same hfree.taken hmode hoff heth h0 h2) horder ⟨hgen, hstate⟩

theorem yields_linkConfig_other {m : MbxId} {s : State} (h : Served m 0x0504 s) (hfree : Free (cmdAt m s) s)
    (hmode : (cmdAt m s).le 1 1 = 2) (hup : (s.link ((cmdAt m s).le 0 1)).mode = .up) :
    Yields (.linkConfig m) s (WithdrawnNow ((cmdAt m s).le 0 1) s) :=
  yields_served rfl h (linkConfig_other hfree.taken hmode hup) (withdrawPlaced_order ..) (beginWithdraw_now (placeOp_taken_now ..))

theorem yields_linkWithdraw {m : MbxId} {s : State} (h : Served m 0x0505 s) (h96 : (cmdAt m s).le 0 1 < 96)
    (hheld : linkHeld ((cmdAt m s).le 0 1) s = false) (hup : (s.link ((cmdAt m s).le 0 1)).mode = .up) :
    Yields (.linkWithdraw m) s fun t => WithdrawnNow ((cmdAt m s).le 0 1) s t
      ∧ t.mgr.ops = s.mgr.ops ++ [⟨(cmdAt m s).m, none, (cmdAt m s).id, BitVec.ofNat 32 (cmdAt m s).tag, (cmdAt m s).pay, none⟩] := by
  refine yields_served rfl h (linkWithdraw_passes (s := taken s) h96 hheld hup) ?_ ⟨beginWithdraw_now rfl, ?_⟩
  · rw [beginWithdraw_mgr]
    rfl
  · rw [beginWithdraw_mgr]
    rfl

theorem yields_linkRetrain_up {m : MbxId} {s : State} (h : Served m 0x0506 s) (hfree : Free (cmdAt m s) s)
    (hup : (s.link ((cmdAt m s).le 0 1)).mode = .up) : Yields (.linkRetrain m) s (WithdrawnNow ((cmdAt m s).le 0 1) s) :=
  yields_served rfl h ((linkRetrain_passes hfree.taken (.inl hup)).trans (if_pos hup)) (withdrawPlaced_order ..)
    (beginWithdraw_now (placeOp_taken_now ..))

theorem yields_linkRetrain_down {m : MbxId} {s : State} (h : Served m 0x0506 s) (hfree : Free (cmdAt m s) s)
    (hmode : (s.link ((cmdAt m s).le 0 1)).mode = .withdrawn ∨ (s.link ((cmdAt m s).le 0 1)).mode = .down) :
    Yields (.linkRetrain m) s fun t => (t.link ((cmdAt m s).le 0 1)).mode = .training ∧ (t.link ((cmdAt m s).le 0 1)).gen = 0
      ∧ (t.link ((cmdAt m s).le 0 1)).lastTry = s.now := by
  have hnot : ¬ ((taken s).link ((cmdAt m s).le 0 1)).mode = .up := fun hup => by
    obtain h | h := hmode <;> exact nomatch h.symm.trans hup
  refine yields_served rfl h ((linkRetrain_passes hfree.taken (.inr hmode)).trans
    ((if_neg hnot).trans (linkOpStep_placed h.2.2.1 hfree.taken.1.2))) ?_ ?_
  · rw [startTraining_mgr]
    exact placeOp_taken_order ..
  · have hlink := (startTraining_link ((cmdAt m s).le 0 1) (.cmd (cmdAt m s).m (if keepsMailbox (cmdAt m s) (taken s) then none
      else freeSlot? (cmdAt m s).m (taken s))) (placeOp (cmdAt m s) (taken s))).1
    rw [placeOp_taken_now] at hlink
    exact ⟨by rw [hlink], by rw [hlink], by rw [hlink]⟩

theorem linkRestored_mgr (n : Nat) (s : State) : (linkRestored n s).mgr = s.mgr := by
  unfold linkRestored
  split
  · simp
  · rfl

theorem sendControl_mgr (n code : Nat) (args : List Byte) (s : State) : (sendControl n code args s).mgr = s.mgr := by
  simp [sendControl]

theorem yields_linkRestore {m : MbxId} {s : State} (h : Served m 0x0507 s) (h96 : (cmdAt m s).le 0 1 < 96)
    (hheld : linkHeld ((cmdAt m s).le 0 1) s = false) (hmode : (s.link ((cmdAt m s).le 0 1)).mode = .withdrawn) :
    Yields (.linkRestore m) s fun t => Answered m (cmdAt m s).tag mbxOk 0 [] t
      ∧ (t.link ((cmdAt m s).le 0 1)).mode = .up ∧ (t.link ((cmdAt m s).le 0 1)).withdrawing = none := by
  have hsent : SentOn ((cmdAt m s).le 0 1) (taken s) (sendControl ((cmdAt m s).le 0 1) ctlRestore [] (taken s)) := putFlit_sentOn ..
  obtain ⟨hup, hwd, -⟩ := linkRestored_link (hsent.self.1.trans hmode)
  refine yields_answered rfl h (linkRestore_passes (s := taken s) h96 hheld hmode) ?_ ?_
  · rw [linkRestored_mgr, sendControl_mgr]
    rfl
  · obtain ⟨_, _, _, _, _, _, _, _, _, hlink⟩ := (answer_sends (cmdAt m s) []
      (linkRestored ((cmdAt m s).le 0 1) (sendControl ((cmdAt m s).le 0 1) ctlRestore [] (taken s)))).sentBy ((cmdAt m s).le 0 1)
    rw [hlink]
    exact ⟨hup, hwd⟩

/-- Settles O35: each command by what it leaves of the link or the route table, then the entries' layout and the table's
writes. -/
theorem linkCommandsAndRoutes : Obligations.LinkCommandsAndRoutes := by
  unfold Obligations.LinkCommandsAndRoutes
  refine ⟨?_, fun e => ⟨routeEntry_bytes_length e, routeOf_bytes e⟩, fun first n bs s h => ?_⟩
  · intro m s c n l free slotted withdrawing
    exact ⟨yields_nodeIdSet, fun h hinl h0 h31 hend hnew => yields_routeWrite h hinl h0 h31 hend hnew,
      fun h h0 h31 hend => yields_routeRead h h0 h31 hend,
      fun h hfree hslot hmode hoff heth h0 h2 => yields_linkConfig_same h ⟨hfree, hslot⟩ hmode hoff heth h0 h2,
      fun h hfree hslot hmode hup => yields_linkConfig_other h ⟨hfree, hslot⟩ hmode hup,
      fun h hfree hup => yields_linkWithdraw h hfree.1 hfree.2 hup,
      fun h hfree hslot hup => yields_linkRetrain_up h ⟨hfree, hslot⟩ hup,
      fun h hfree hslot hmode => yields_linkRetrain_down h ⟨hfree, hslot⟩ hmode,
      fun h hfree hmode => yields_linkRestore h hfree.1 hfree.2 hmode⟩
  · obtain ⟨hin, hout⟩ := writeRoutes_written h
    refine ⟨hin, hout, ?_⟩
    rw [writeRoutes_eq h]
    exact (modNet_onlyNet _ s).frame

end Sys2Proof.Machine
end

section
/-! The event log that holds more than its 1,024 records (spec 21 R432): O56. -/

namespace Sys2Proof.Machine

/-- A record appended to a log that is full takes the place of the oldest: the log keeps its length. -/
theorem appendRecord_length_of_full (r : EvRec) {s : State} (h : 1024 ≤ s.mgr.log.length) :
    (appendRecord r s).mgr.log.length = s.mgr.log.length := by
  have hfull : decide (logMax ≤ s.mgr.log.length) = true := decide_eq_true h
  unfold appendRecord
  dsimp only
  rw [hfull, if_pos rfl]
  simp
  omega

theorem sendRouted_mgr (src : Nat) (s : State) : (sendRouted src s).mgr = s.mgr := by
  unfold sendRouted
  split
  · rfl
  · split
    · simp
    · split
      · simp
      · rfl

theorem exec_eventLogWrite {e : Edge} {s : State} (he : firstEdge s.edges = some e) (hruns : fwRuns s = true) :
    exec .eventLogWrite s
      = .next (sendRouted e.src.toNat (appendRecord (recordOf e s) { s with edges := s.edges.erase e })) := by
  show execEventLogWrite s = _
  unfold execEventLogWrite
  rw [he]
  dsimp only
  rw [if_pos hruns]

/-- Firmware runs, one edge waits, and the log holds 1,025 records, one more than R432 allows. -/
def overfullLog : State := { State.reset with
  boot := { State.reset.boot with fwReady := true }
  edges := [⟨0, 0, 0, 0⟩]
  mgr := { State.reset.mgr with log := List.replicate 1025 ⟨0, 0, 0, 0, false, 0, 0⟩ } }

/-- Refutes O56: EVENT_LOG_WRITE drops one record of a full log, so a log of 1,025 records (which no run from reset reaches, but
which the statement's every state admits) has 1,025 after it, not 1,024. -/
theorem not_eventsAreLoggedAndRouted : ¬ Obligations.EventsAreLoggedAndRouted := by
  unfold Obligations.EventsAreLoggedAndRouted
  intro h
  obtain ⟨-, -, -, hwrite, -⟩ := h overfullLog
  have hedge : firstEdge overfullLog.edges = some ⟨0, 0, 0, 0⟩ := rfl
  have hruns : fwRuns overfullLog = true := rfl
  obtain ⟨-, t, hexec, -, -, hlength, -⟩ := hwrite _ hedge hruns
  rw [exec_eventLogWrite hedge hruns] at hexec
  obtain rfl := Host.Outcome.next.inj hexec
  have hold : overfullLog.mgr.log.length = 1025 := List.length_replicate ..
  rw [sendRouted_mgr, appendRecord_length_of_full] at hlength
  · exact absurd (hold.symm.trans (hlength.trans (by rw [hold]))) (by decide)
  · show 1024 ≤ overfullLog.mgr.log.length
    rw [hold]
    decide

end Sys2Proof.Machine
end

section
/-! The window, the link events and the resets of a PCIe port (spec 15 R319-R327, 19 R406): O38. -/

namespace Sys2Proof.Machine

theorem raiseEv_ctr (src : BitVec 16) (k : Nat) (s : State) (key : Nat) : (raiseEv src k s).ctr key = s.ctr key := by
  simp [State.ctr]

theorem emit_ctr (o : Output) (s : State) (key : Nat) : (emit o s).ctr key = s.ctr key := rfl

/-- A bit raised is set. -/
theorem raiseEv_set (src : BitVec 16) {k : Nat} (hk : k < 64) (s : State) : bitOf ((raiseEv src k s).evBits src) k = true := by
  rw [raiseEv_bit _ _ _ _ _ hk]
  simp

/-! ## The window -/

/-- A request failed: counted and raised, and nothing else. -/
theorem reqFail_failed (p : Nat) (s : State) : (reqFail p s).ctr (reqFailCount p)
      = w64 (min ((s.ctr (reqFailCount p)).toNat + 1) (2 ^ 64 - 1))
    ∧ bitOf ((reqFail p s).evBits srcWin) 4 = true
    ∧ { reqFail p s with counters := s.counters, events := s.events, edges := s.edges, outbox := s.outbox } = s := by
  refine ⟨?_, raiseEv_set _ (by decide) _, ?_⟩
  · unfold reqFail
    rw [raiseEv_ctr]
    exact (count_counts ..).1
  · apply State.ext_fields <;> simp

theorem windowTlp_inside {p off n : Nat} {s : State} (hup : (s.port p).linkUp = true) (hin : off + n ≤ 0x100000000) :
    windowTlp p off n s = true := by
  unfold windowTlp
  rw [hup, Bool.true_and]
  exact decide_eq_true hin

theorem windowRead_unready {p : PortId} {off n : Nat} {s : State} (htlp : windowTlp p.val off n s = true)
    (hready : s.boot.poolReady = false) : windowRead p off n s = emit (.unsupported p n) (reqFail p.val s) := by
  unfold windowRead
  rw [htlp, hready]
  rfl

/-- Data read for the window, counted, with its poison noted where a sector was poisoned. -/
def windowData (p n : Nat) (bad : Bool) (s : State) : State :=
  if bad then count (poisonTxCount p) 1 ((count (readBytesCount p) n s).modPort p fun x => { x with aerSent := true })
  else count (readBytesCount p) n s

theorem windowRead_ready {p : PortId} {off n : Nat} {s : State} (htlp : windowTlp p.val off n s = true)
    (hready : s.boot.poolReady = true) : windowRead p off n s =
      let r := poolRead (codePort p.val) (windowAddr p.val off s) n false false s
      emit (.completion p (r.1.map fun b => if b.2 then 0xFF else b.1) (r.1.any Prod.snd))
        (windowData p.val n (r.1.any Prod.snd) r.2) := by
  unfold windowRead
  rw [htlp, hready]
  rfl

theorem readBytes_ne_poisonTx (p : Nat) : readBytesCount p ≠ poisonTxCount p := by
  unfold readBytesCount poisonTxCount winCtr
  omega

theorem windowData_ctr (p n : Nat) (bad : Bool) (s : State) :
    (windowData p n bad s).ctr (readBytesCount p) = w64 (min ((s.ctr (readBytesCount p)).toNat + n) (2 ^ 64 - 1))
    ∧ (windowData p n bad s).ctr (poisonTxCount p)
      = w64 (min ((s.ctr (poisonTxCount p)).toNat + if bad then 1 else 0) (2 ^ 64 - 1)) := by
  have hread := count_up (readBytesCount p) n s
  have htx : (count (readBytesCount p) n s).ctr (poisonTxCount p) = s.ctr (poisonTxCount p) :=
    count_ctr_other (readBytes_ne_poisonTx p).symm s
  unfold windowData
  cases bad
  · rw [if_neg (by decide)]
    exact ⟨hread, up_zero htx⟩
  · rw [if_pos rfl]
    refine ⟨(count_ctr_other (readBytes_ne_poisonTx p) _).trans hread, ?_⟩
    rw [(count_counts ..).1]
    show w64 (min (((count (readBytesCount p) n s).ctr (poisonTxCount p)).toNat + 1) _) = _
    rw [htx]
    rfl

theorem windowData_frame (p n : Nat) (bad : Bool) (s : State) : (windowData p n bad s).outbox = s.outbox
    ∧ ((windowData p n bad s).port p).aerSent = ((s.port p).aerSent || bad) ∧ (windowData p n bad s).hbm = s.hbm
    ∧ (windowData p n bad s).coh = s.coh ∧ (windowData p n bad s).queues = s.queues ∧ (windowData p n bad s).xlt = s.xlt := by
  unfold windowData
  cases bad
  · rw [if_neg (by decide)]
    refine ⟨?_, ?_, ?_, ?_, ?_, ?_⟩ <;> simp
  · rw [if_pos rfl]
    refine ⟨?_, ?_, ?_, ?_, ?_, ?_⟩ <;> simp

theorem windowWrite_unready {p : PortId} {off : Nat} {d : List Byte} {s : State} (htlp : windowTlp p.val off d.length s = true)
    (hready : s.boot.poolReady = false) (ep : Bool) : windowWrite p off d ep s = reqFail p.val s := by
  unfold windowWrite
  rw [htlp, hready]
  rfl

theorem windowWrite_ready {p : PortId} {off : Nat} {d : List Byte} {s : State} (htlp : windowTlp p.val off d.length s = true)
    (hready : s.boot.poolReady = true) (ep : Bool) : windowWrite p off d ep s =
      if ep then poisonReceived p.val (s.modPort p.val fun x => { x with aerReceived := true })
      else poolWrite (windowAddr p.val off s) d .none (count (writeBytesCount p.val) d.length s) := by
  unfold windowWrite
  rw [htlp, hready]
  rfl

/-! ## Link and reset events -/

/-- A port that is down: its link and configuration space at reset, its window base kept, and nothing else changed. -/
theorem portDown_down (p : Nat) (s : State) : ((portDown p s).port p).linkUp = false ∧ ((portDown p s).port p).bme = false
    ∧ ((portDown p s).port p).msixEnable = false ∧ ((portDown p s).port p).bar0 = 0 ∧ ((portDown p s).port p).bar2 = 0
    ∧ ((portDown p s).port p).cache = [] ∧ ((portDown p s).port p).winBase = (s.port p).winBase
    ∧ (∀ k, k ≠ p → (portDown p s).port k = s.port k)
    ∧ ((s.port p).linkUp = true → bitOf ((portDown p s).evBits srcWin) evPortDown = true)
    ∧ { portDown p s with host := s.host, events := s.events, edges := s.edges } = s := by
  unfold portDown
  dsimp only
  by_cases hup : (s.port p).linkUp = true
  · rw [if_pos hup]
    refine ⟨?_, ?_, ?_, ?_, ?_, ?_, ?_, fun k hk => ?_, fun _ => raiseEv_set _ (by decide) _, ?_⟩
    case refine_9 => apply State.ext_fields <;> simp
    all_goals simp [*]
  · rw [if_neg hup]
    refine ⟨?_, ?_, ?_, ?_, ?_, ?_, ?_, fun k hk => ?_, fun h => absurd h hup, ?_⟩
    case refine_9 => rfl
    all_goals simp [*]

/-- Settles O38: each access is decided by the pool's readiness and poison, each event sets or clears the port alone. -/
theorem windowAccessesAndPortEvents : Obligations.WindowAccessesAndPortEvents := by
  unfold Obligations.WindowAccessesAndPortEvents
  intro p s hpow x failed
  refine ⟨fun v => ⟨fun hbad => ?_, fun hgood => ?_⟩, fun off n hup hin => ⟨fun hready => ?_, ?_⟩,
    fun off d ep hup hin => ⟨fun hready => ?_, fun hready hep => ?_, fun hready hep => ?_⟩, fun w r c hdown => ?_,
    fun w r c hup => ?_, yields_clocked hpow rfl (portDown_down p.val s), yields_clocked hpow rfl (portDown_down p.val s)⟩
  · refine yields_clocked hpow rfl ?_
    rw [winBaseWrite, if_pos hbad]
    refine ⟨raiseEv_set _ (by decide) _, ?_⟩
    apply State.ext_fields <;> simp
  · refine yields_clocked hpow rfl ?_
    rw [winBaseWrite, if_neg (Nat.not_lt.2 hgood)]
    exact ⟨State.port_modPort_self .., fun k hk => State.port_modPort_other _ _ _ _ hk, rfl⟩
  · refine yields_clocked hpow rfl ?_
    rw [windowRead_unready (windowTlp_inside hup hin) hready]
    obtain ⟨hctr, hbit, hframe⟩ := reqFail_failed p.val s
    exact ⟨⟨hctr, hbit, hframe⟩, by simp [emit]⟩
  · intro hready r bad
    refine yields_clocked hpow rfl ?_
    rw [windowRead_ready (windowTlp_inside hup hin) hready]
    obtain ⟨hread, htx⟩ := windowData_ctr p.val n bad r.2
    obtain ⟨hout, haer, hhbm, hcoh, hqueues, hxlt⟩ := windowData_frame p.val n bad r.2
    have hport : r.2.port p.val = x := by simp [r, x, State.port]
    refine ⟨?_, haer.trans (by rw [hport]), hhbm, hcoh, hqueues.trans (by simp [r]), hxlt.trans (by simp [r]), hread, htx⟩
    show (windowData p.val n bad r.2).outbox ++ _ = _
    rw [hout]
    simp [r, bad]
  · refine yields_clocked hpow rfl ?_
    rw [windowWrite_unready (windowTlp_inside hup hin) hready]
    exact reqFail_failed p.val s
  · refine yields_clocked hpow rfl ?_
    rw [windowWrite_ready (windowTlp_inside hup hin) hready, if_pos hep, poisonReceived]
    refine ⟨by simp, by simp, by simp, raiseEv_set _ (by decide) _, ?_⟩
    rw [raiseEv_ctr]
    exact (count_counts ..).1
  · have hexec : exec (.windowWrite p off d ep) s
        = .next (poolWrite (windowAddr p.val off.toNat s) d .none (count (writeBytesCount p.val) d.length s)) := by
      refine (congrArg _ (clocked_of_powered hpow _)).trans (congrArg _ ?_)
      rw [windowWrite_ready (windowTlp_inside hup hin) hready, hep]
      rfl
    refine ⟨hexec, _, hexec, ?_, ?_, ?_, ?_, ?_, ?_, ?_, ?_⟩ <;> simp [poolWrite, poolWriteMarked]
  · refine ⟨raiseEv srcWin evPortUp (s.modPort p.val fun x => { x with
      linkUp := true, width := w.toNat, rate := r.toNat, cxl := if 3 ≤ r.toNat then c.toNat else 0
      cacheEn := (if 3 ≤ r.toNat then c.toNat else 0) != 0 }), ?_, ?_⟩
    · show execPortLinkUp p w r c s = _
      unfold execPortLinkUp
      rw [if_neg (by simp [hpow]), show (s.port p.val).linkUp = false from hdown]
      rfl
    · refine ⟨by simp, by simp, by simp, by simp, raiseEv_set _ (by decide) _, fun k hk => by simp [hk]⟩
  · show execPortLinkUp p w r c s = _
    unfold execPortLinkUp
    rw [if_neg (by simp [hpow]), show (s.port p.val).linkUp = true from hup]
    rfl

end Sys2Proof.Machine
end

section
/-! Power regulation (spec 17 R362-R373): estimates, samples, comparisons, the peak clamp, sensors and margins: O47. -/

namespace Sys2Proof.Machine

/-! ## Estimates -/

/-- Estimates, gain, trust and the envelope are as before. -/
def SameEst (s t : State) : Prop := t.pwr.ests = s.pwr.ests ∧ t.pwr.gain = s.pwr.gain ∧ t.pwr.wh = s.pwr.wh ∧ t.env = s.env

theorem SameEst.refl (s : State) : SameEst s s := ⟨rfl, rfl, rfl, rfl⟩

theorem SameEst.trans {s t u : State} (h1 : SameEst s t) (h2 : SameEst t u) : SameEst s u := by
  obtain ⟨he, hg, hw, hv⟩ := h1
  obtain ⟨he', hg', hw', hv'⟩ := h2
  exact ⟨he'.trans he, hg'.trans hg, hw'.trans hw, hv'.trans hv⟩

theorem SameEst.of_fields {s t : State} (hpwr : t.pwr = s.pwr) (henv : t.env = s.env) : SameEst s t := by
  rw [SameEst, hpwr, henv]
  exact ⟨rfl, rfl, rfl, rfl⟩

theorem SameEst.foldl {α : Type} {f : State → α → State} (hf : ∀ s x, SameEst s (f s x)) (l : List α) :
    ∀ s, SameEst s (l.foldl f s) := by
  induction l with
  | nil => exact SameEst.refl
  | cons x l ih => exact fun s => (hf s x).trans (ih _)

theorem learnTag_sameEst (xs : List (Nat × Nat × Nat)) (s : State) (t : Nat) : SameEst s (learnTag xs s t) := by
  unfold learnTag
  dsimp only
  split
  · exact .refl s
  · exact ⟨rfl, rfl, rfl, rfl⟩

theorem syncVecs_fields (s : State) : (syncVecs s).pwr = s.pwr ∧ (syncVecs s).env = s.env ∧ (syncVecs s).arrays = s.arrays
    ∧ (syncVecs s).events = s.events := by
  unfold syncVecs
  refine ⟨foldl_pwr _ _ _ ?_, foldl_env _ _ _ ?_, foldl_arrays _ _ _ ?_, foldl_events _ _ _ ?_⟩ <;>
  · intro s n
    dsimp only
    split <;> rfl

theorem raiseEv_pwr (src : BitVec 16) (k : Nat) (s : State) : (raiseEv src k s).pwr = s.pwr := by simp

theorem raiseEv_env (src : BitVec 16) (k : Nat) (s : State) : (raiseEv src k s).env = s.env := by simp

theorem modPwr_sameEst {f : PwrState → PwrState} (h : ∀ p, (f p).ests = p.ests ∧ (f p).gain = p.gain ∧ (f p).wh = p.wh) (s : State) :
    SameEst s (s.modPwr f) := ⟨(h _).1, (h _).2.1, (h _).2.2, rfl⟩

theorem count_sameEst (key n : Nat) (s : State) : SameEst s (count key n s) := .of_fields (by simp) (by simp)

theorem capStep_sameEst (control ballast : Nat) (xs : List (Nat × Nat × Nat)) (s : State) :
    SameEst s (capStep control ballast xs s) := by
  have hduties (l : List (Nat × Nat)) (s : State) : SameEst s (syncVecs (l.foldl (fun s e => setDuty' e.1 e.2 s) s)) :=
    .trans (.foldl (f := fun s e => setDuty' e.1 e.2 s) (fun _ _ => .of_fields rfl rfl) l s)
      (.of_fields (syncVecs_fields _).1 (syncVecs_fields _).2.1)
  unfold capStep
  dsimp only
  split
  · refine .trans ?_ (.of_fields (raiseEv_pwr ..) (raiseEv_env ..))
    refine .trans (hduties _ s) (modPwr_sameEst ?_ _)
    exact fun _ => ⟨rfl, rfl, rfl⟩
  · refine .trans (hduties _ s) (modPwr_sameEst ?_ _)
    exact fun _ => ⟨rfl, rfl, rfl⟩

theorem setBallast_sameEst (a d : Nat) (s : State) : SameEst s (setBallast a d s) := ⟨rfl, rfl, rfl, rfl⟩

theorem spillway_sameEst (s : State) : SameEst s (spillway s) := by
  unfold spillway
  dsimp only
  refine .trans (.trans (.foldl (fun s a => count_sameEst ..) (List.range 16) s)
    (modPwr_sameEst (f := fun p => { p with spillAt := s.ticks }) (fun _ => ⟨rfl, rfl, rfl⟩) _)) (.foldl (fun s a => ?_) _ _)
  split
  · exact setBallast_sameEst ..
  · exact setBallast_sameEst ..

theorem recalGain_idle {s : State} (h : s.pwr.recal = none) : recalGain s = s := by
  unfold recalGain
  rw [h]

theorem recalRaw_idle {s : State} (h : s.pwr.recal = none) (raw : Nat) : recalRaw raw s = s := by
  unfold recalRaw
  rw [h]

theorem recalSample_idle {s : State} (h : s.pwr.recal = none) (dw : Nat) : recalSample dw s = s := by
  unfold recalSample
  rw [h]

/-- The level, its ramps, waiting starts and the draws are as before. -/
theorem endShort_fields (s : State) : (endShort s).pwr = s.pwr ∧ (endShort s).env.starts = s.env.starts
    ∧ (endShort s).env.ballastDw = s.env.ballastDw ∧ (endShort s).env.workDw = s.env.workDw
    ∧ (endShort s).env.level = s.env.level ∧ (endShort s).env.ramps = s.env.ramps := by
  unfold endShort
  split <;> exact ⟨rfl, rfl, rfl, rfl, rfl, rfl⟩

/-- The estimate and the draws that it gives are recorded. -/
def estimated (act : Activity) (s : State) : State :=
  let e := s.pwr.gain * act.rawDw
  let ballast := s.pwr.gain * act.ballastDw / 16384
  (count ballastMilliJ ((s.pwr.ballastRem + ballast) / 1000) (s.modPwr fun p => { p with
    ests := (e :: p.ests).take 1000, ballastRem := (p.ballastRem + ballast) % 1000 })).modEnv fun v => { v with
      workDw := controlOf e s / 16384 - ballast, ballastDw := ballast
      window := if collWaiting s then v.window
        else (v.window.filter fun x => s.now < x.1 + s.env.delayMs * 1000000) ++ [(s.now, ballast)] }

theorem exec_weighHouseEstimate {s : State} (h : s.pwr.recal = none) (act : Activity) : ∃ t, SameEst (estimated act s) t
    ∧ exec (.weighHouseEstimate act) s = .next (sluiceAsk (endShort t)) := by
  let xs := act.arrays.map fun x => (x.1.val, s.pwr.gain * x.2.1 / 16384, s.pwr.gain * x.2.2 / 16384)
  refine ⟨spillway (capStep (controlOf (s.pwr.gain * act.rawDw) s / 16384) (s.pwr.gain * act.ballastDw / 16384) xs
    (if fwRuns s then (List.range 64).foldl (learnTag xs) (estimated act s) else estimated act s)), ?_, ?_⟩
  · refine .trans ?_ (.trans (capStep_sameEst ..) (spillway_sameEst _))
    split
    · exact .foldl (learnTag_sameEst xs) _ _
    · exact .refl _
  · show execWeighHouseEstimate act s = _
    unfold execWeighHouseEstimate
    rw [recalGain_idle h, recalRaw_idle h]
    rfl

theorem sluiceAsk_of_noStarts {s : State} (h : s.env.starts = []) : sluiceAsk s = s := if_pos (.inl h)

/-! ## Comparisons -/

theorem excursion_pwr (cause : Byte) (lost : Bool) (s : State) : (excursion cause lost s).pwr = s.pwr := by simp

/-- A trust state entered: that, when an attempt is next due, and the gain kept. -/
theorem whEnter_pwr (w : WhState) (s : State) : (whEnter w s).pwr.wh = w ∧ (whEnter w s).pwr.gain = s.pwr.gain := by
  unfold whEnter
  split
  · next h => exact ⟨h, rfl⟩
  · dsimp only
    cases w
    · exact ⟨rfl, rfl⟩
    · dsimp only
      rw [excursion_pwr, raiseEv_pwr]
      exact ⟨rfl, rfl⟩
    · dsimp only
      rw [excursion_pwr, raiseEv_pwr]
      exact ⟨rfl, rfl⟩

theorem commonDuty_range (a : Int) (ns : List Nat) : 1 ≤ commonDuty a ns ∧ commonDuty a ns ≤ 64 := by
  unfold commonDuty
  split
  · decide
  · omega

/-- The gain after a comparison: only a TRUSTED Weigh-house within 8 % moves it, and within its bounds. -/
def comparedGain (p : PwrState) : Nat :=
  let es := p.ests.sum
  let den := (p.samples.map Prod.snd).sum * p.ests.length * 16384
  let diff := ((es * p.samples.length : Nat) - (den : Int) : Int).natAbs
  if p.wh = .trusted ∧ 100 * diff ≤ 8 * den then
    clampGain (max (p.gain - 32) (min (p.gain + 32) (if es = 0 then p.gain else p.gain * den / (es * p.samples.length))))
  else p.gain

theorem clampGain_near {g x : Nat} (hlo : 14746 ≤ g) (hhi : g ≤ 18022) (hx : g ≤ x + 32) (hx' : x ≤ g + 32) :
    clampGain x ≤ g + 32 ∧ g ≤ clampGain x + 32 ∧ 14746 ≤ clampGain x ∧ clampGain x ≤ 18022 := by
  unfold clampGain
  omega

theorem comparedGain_near {p : PwrState} (hlo : 14746 ≤ p.gain) (hhi : p.gain ≤ 18022) :
    comparedGain p ≤ p.gain + 32 ∧ p.gain ≤ comparedGain p + 32 ∧ 14746 ≤ comparedGain p ∧ comparedGain p ≤ 18022 := by
  unfold comparedGain
  dsimp only
  split
  · exact clampGain_near hlo hhi (by omega) (by omega)
  · omega

theorem comparedGain_untrusted {p : PwrState} (h : p.wh ≠ .trusted) : comparedGain p = p.gain :=
  if_neg fun h' => h h'.1

theorem gain_ite {p : Prop} [Decidable p] {a b : State} {g : Nat} (ha : a.pwr.gain = g) (hb : b.pwr.gain = g) :
    (if p then a else b).pwr.gain = g := by
  split
  · exact ha
  · exact hb

/-- What a comparison makes of the gain, where no recalibration runs. -/
theorem whCompare_gain {s : State} (h : s.pwr.recal = none) : (whCompare s).pwr.gain = s.pwr.gain
    ∨ (whCompare s).pwr.gain = comparedGain s.pwr := by
  unfold whCompare
  rw [recalGain_idle h]
  dsimp only
  split
  · exact .inl rfl
  · exact .inr (gain_ite (whEnter_pwr ..).2 (gain_ite (whEnter_pwr ..).2 rfl))

/-- A third D above 25 %. -/
theorem whCompare_fault {s : State} (h : s.pwr.recal = none)
    (hden : 0 < (s.pwr.samples.map Prod.snd).sum * s.pwr.ests.length * 16384)
    (hover : 25 * ((s.pwr.samples.map Prod.snd).sum * s.pwr.ests.length * 16384)
      < 100 * ((s.pwr.ests.sum * s.pwr.samples.length : Nat)
        - (((s.pwr.samples.map Prod.snd).sum * s.pwr.ests.length * 16384 : Nat) : Int) : Int).natAbs)
    (htwo : s.pwr.over25 = 2) : (whCompare s).pwr.wh = .fault ∧ (whCompare s).pwr.gain = s.pwr.gain := by
  unfold whCompare
  rw [recalGain_idle h]
  dsimp only
  rw [if_neg (Nat.ne_of_gt hden), if_pos hover, htwo, if_pos (by decide)]
  refine ⟨(whEnter_pwr ..).1, (whEnter_pwr ..).2.trans (if_neg ?_)⟩
  rintro ⟨-, hwithin⟩
  omega

/-! ## Measurements -/

theorem stewardExcursion_env (m : PermitMsg) (hflags : m.flags &&& flagLost = 0) (s : State) : (stewardExcursion m s).env = s.env := by
  unfold stewardExcursion
  split
  · dsimp only
    rw [if_neg (not_not_intro hflags)]
    rfl
  · rfl

theorem sendPermitPkt_env (dst : NodeId) (kind : Byte) (m : PermitMsg) (s : State) : (sendPermitPkt dst kind m s).env = s.env := by simp

/-- An EXCURSION of a package that is not lost: its cause is kept. -/
theorem excursion_cause (cause : Byte) (s : State) : (excursion cause false s).env.cause = cause := by
  unfold excursion
  dsimp only
  split
  · unfold sendUp
    dsimp only
    split
    · rw [if_neg (by decide), if_neg (by decide), if_pos rfl, stewardExcursion_env _ (show (0 : BitVec 16) &&& flagLost = 0 from BitVec.zero_and)]
      rfl
    · split
      · rfl
      · rw [sendPermitPkt_env]
        rfl
  · rfl

theorem excursion_whFault {s : State} (h : s.pwr.wh ≠ .fault) : (whEnter .fault s).pwr.wh = .fault
    ∧ (whEnter .fault s).pwr.nextTry = s.now + 10000000000 ∧ (whEnter .fault s).env.cause = 4 := by
  refine ⟨(whEnter_pwr ..).1, ?_, ?_⟩
  · unfold whEnter
    rw [if_neg h]
    dsimp only
    rw [excursion_pwr, raiseEv_pwr]
    rfl
  · unfold whEnter
    rw [if_neg h]
    exact excursion_cause ..

end Sys2Proof.Machine
end

section
/-! Samples, the peak clamp, recalibration, sensors and margins (spec 17 R362, R367, R371-R373): O47. -/

namespace Sys2Proof.Machine

/-- A map after a value of its own is written at every key of a list. -/
theorem Sparse.get_foldl_set_key {α : Type} [DecidableEq α] (d : α) (g : Nat → α) (l : List Nat) (k : Nat) : ∀ m : Sparse α,
    Sparse.get d (l.foldl (fun m j => Sparse.set d m j (g j)) m) k = if k ∈ l then g k else Sparse.get d m k := by
  induction l with
  | nil => exact fun m => by simp
  | cons j l ih =>
    intro m
    rw [List.foldl_cons, ih, Sparse.get_set]
    by_cases hl : k ∈ l
    · rw [if_pos hl, if_pos (List.mem_cons_of_mem _ hl)]
    · rw [if_neg hl]
      by_cases hj : k = j
      · rw [if_pos hj, if_pos (by simp [hj]), hj]
      · rw [if_neg hj, if_neg (by simp [hj, hl])]

/-! ## Samples of the input power -/

/-- A sample taken into the last ten, its energy counted. -/
def sampled (dw : Nat) (s : State) : State :=
  let run := if dw > 10 * ratedW then s.pwr.overRun + 1 else 0
  count energyMilliJ ((s.pwr.energyRem + dw) / 10) (s.modPwr fun p => { p with
    samples := ((s.now, dw) :: p.samples).take 10
    energyRem := (p.energyRem + dw) % 10
    overRun := if run ≥ 5 then 0 else run
    overUntil := if run ≥ 5 then some (s.now + 100000000) else p.overUntil })

theorem exec_inputPowerSample {s : State} (hpow : powered s = true) (h : s.pwr.recal = none) (dw : Nat) :
    exec (.inputPowerSample dw) s = .next (if (if dw > 10 * ratedW then s.pwr.overRun + 1 else 0) ≥ 5
      then raiseEv srcPwr evOverRated (sampled dw s) else sampled dw s) := by
  show execInputPowerSample dw s = _
  unfold execInputPowerSample
  rw [if_neg (by simp [hpow]), recalGain_idle h, recalSample_idle h]
  rfl

theorem count_pwr (key n : Nat) (s : State) : (count key n s).pwr = s.pwr := by simp

theorem sampled_fields (dw : Nat) (s : State) : (sampled dw s).pwr.samples = ((s.now, dw) :: s.pwr.samples).take 10
    ∧ Up energyMilliJ ((s.pwr.energyRem + dw) / 10) s (sampled dw s) ∧ (sampled dw s).env = s.env := by
  unfold sampled
  refine ⟨?_, (count_counts ..).1, by simp⟩
  rw [count_pwr]
  rfl

theorem sampled_overRun {dw : Nat} {s : State} (h : ¬ (if dw > 10 * ratedW then s.pwr.overRun + 1 else 0) ≥ 5) :
    (sampled dw s).pwr.overRun = (if dw > 10 * ratedW then s.pwr.overRun + 1 else 0)
      ∧ (sampled dw s).pwr.overUntil = s.pwr.overUntil := by
  unfold sampled
  rw [count_pwr]
  exact ⟨if_neg h, if_neg h⟩

theorem sampled_overUntil {dw : Nat} {s : State} (h : (if dw > 10 * ratedW then s.pwr.overRun + 1 else 0) ≥ 5) :
    (sampled dw s).pwr.overUntil = some (s.now + 100000000) := by
  unfold sampled
  rw [count_pwr]
  exact if_pos h

/-- The guard band is in force while a run above RATED_W is remembered. -/
theorem effC_over {s : State} {x : Nat} (h : s.pwr.overUntil = some x) : effC s = s.env.ceilW * 95 / 100 := by
  unfold effC
  rw [h]
  exact if_pos (.inr rfl)

/-! ## The peak clamp -/

/-- An array with a duty of at most 32 waiting for its boundary. -/
def clampedAry (x : AryState) : AryState :=
  { x with dutyNext := if x.duty = min 32 x.duty then none else some (min 32 x.duty) }

theorem clampedAry_idem (x : AryState) : clampedAry (clampedAry x) = clampedAry x := rfl

theorem clampAll_arr (l : List Nat) (a : Nat) : ∀ s : State,
    (l.foldl (fun s a => setDuty' a (min 32 (s.arr a).duty) s) s).arr a = if a ∈ l then clampedAry (s.arr a) else s.arr a := by
  induction l with
  | nil => exact fun s => by simp
  | cons b l ih =>
    intro s
    have hstep : (setDuty' b (min 32 (s.arr b).duty) s).arr a = if a = b then clampedAry (s.arr a) else s.arr a := by
      unfold setDuty'
      rw [State.arr_modArr]
      split
      · next hab => rw [hab]; rfl
      · rfl
    rw [List.foldl_cons, ih, hstep]
    by_cases hb : a = b
    · rw [if_pos hb, if_pos (hb ▸ List.mem_cons_self : a ∈ b :: l)]
      split
      · exact clampedAry_idem _
      · rfl
    · rw [if_neg hb]
      simp [hb]

theorem clampAll_fields (l : List Nat) (s : State) : (l.foldl (fun s a => setDuty' a (min 32 (s.arr a).duty) s) s).pwr = s.pwr
    ∧ (l.foldl (fun s a => setDuty' a (min 32 (s.arr a).duty) s) s).events = s.events :=
  ⟨foldl_pwr _ _ _ fun _ _ => rfl, foldl_events _ _ _ fun _ _ => rfl⟩

/-- The peak clamp in force until 100 us from now. -/
def peakClamped (s : State) : State :=
  syncVecs ((List.range 16).foldl (fun s a => setDuty' a (min 32 (s.arr a).duty) s)
    ((raiseEv srcPwr evPeakClamp (count peakClampCount 1 s)).modPwr fun p => { p with clampUntil := some (s.now + 100000) }))

theorem exec_peakClamp {s : State} (hpow : powered s = true) (w : Nat) :
    exec (.peakClamp w) s = .next (if w > excursionW then peakClamped s else s) := by
  show execPeakClamp w s = _
  unfold execPeakClamp
  rw [if_neg (by simp [hpow])]
  rfl

theorem peakClamped_pwr (s : State) : (peakClamped s).pwr = { s.pwr with clampUntil := some (s.now + 100000) } := by
  unfold peakClamped
  rw [(syncVecs_fields _).1, (clampAll_fields ..).1, State.modPwr_pwr, raiseEv_pwr, count_pwr]

theorem peakClamped_bit (s : State) : bitOf ((peakClamped s).evBits srcPwr) evPeakClamp = true := by
  have hevents : (peakClamped s).events = (raiseEv srcPwr evPeakClamp (count peakClampCount 1 s)).events := by
    unfold peakClamped
    rw [(syncVecs_fields _).2.2.2, (clampAll_fields ..).2]
    rfl
  have hset := raiseEv_set srcPwr (k := evPeakClamp) (by decide) (count peakClampCount 1 s)
  unfold State.evBits State.ev at hset ⊢
  rw [hevents]
  exact hset

theorem peakClamped_arr (s : State) (a : Nat) : (peakClamped s).arr a = if a ∈ List.range 16 then clampedAry (s.arr a) else s.arr a := by
  have harrays : (peakClamped s).arr a = ((List.range 16).foldl (fun s a => setDuty' a (min 32 (s.arr a).duty) s)
      ((raiseEv srcPwr evPeakClamp (count peakClampCount 1 s)).modPwr fun p => { p with clampUntil := some (s.now + 100000) })).arr a := by
    unfold peakClamped
    rw [State.arr, (syncVecs_fields _).2.2.1]
    rfl
  rw [harrays, clampAll_arr]
  simp [State.arr]

/-! ## Sensors -/

/-- Regions, gain and learnt entries are as before. -/
def SameTherm (s t : State) : Prop := t.pwr.therm = s.pwr.therm ∧ t.pwr.gain = s.pwr.gain ∧ t.pwr.tags = s.pwr.tags

theorem SameTherm.refl (s : State) : SameTherm s s := ⟨rfl, rfl, rfl⟩

theorem SameTherm.trans {s t u : State} (h1 : SameTherm s t) (h2 : SameTherm t u) : SameTherm s u :=
  ⟨h2.1.trans h1.1, h2.2.1.trans h1.2.1, h2.2.2.trans h1.2.2⟩

theorem SameTherm.of_pwr {s t : State} (h : t.pwr = s.pwr) : SameTherm s t := by
  rw [SameTherm, h]
  exact ⟨rfl, rfl, rfl⟩

theorem SameTherm.therm {s t : State} (h : SameTherm s t) (r : Nat) : t.therm r = s.therm r := by
  rw [State.therm, h.1]
  rfl

theorem SameTherm.anyCritical {s t : State} (h : SameTherm s t) : anyCritical t = anyCritical s := by
  unfold Machine.anyCritical
  simp only [h.therm]

theorem SameTherm.ite {p : Prop} [Decidable p] {s a b : State} (ha : SameTherm s a) (hb : SameTherm s b) :
    SameTherm s (if p then a else b) := by
  split
  · exact ha
  · exact hb

theorem requestDown_pwr (a : Int) (urgent window : Bool) (s : State) : (requestDown a urgent window s).pwr = s.pwr := by simp

theorem thermalAsk_sameTherm (s : State) : SameTherm s (thermalAsk s) := by
  unfold thermalAsk
  refine .trans ?_ (.of_pwr (requestDown_pwr ..))
  exact ⟨rfl, rfl, rfl⟩

/-- The clock a core steps to. -/
def nextClock (slow : Bool) (s : State) (c : Nat) : Nat :=
  if anyCritical s then 10
  else match s.therm (4 + c / 64) with
    | .hold => if slow then max 10 ((s.core c).clock - 1) else (s.core c).clock
    | _ => 36

/-- One core's clock stepped. -/
def stepClock (slow : Bool) (s : State) (c : Nat) : State :=
  if (s.core c).clock = nextClock slow s c then s else s.modCore c fun x => { x with clock := nextClock slow s c }

theorem stepClocks_eq (slow : Bool) (s : State) : stepClocks slow s = (List.range 128).foldl (stepClock slow) s := rfl

theorem stepClock_sameTherm (slow : Bool) (s : State) (c : Nat) : SameTherm s (stepClock slow s c) :=
  .ite (.refl s) (.of_pwr rfl)

theorem stepClock_critical (slow : Bool) {s : State} (h : anyCritical s = true) (c k : Nat) :
    ((stepClock slow s c).core k).clock = if k = c then 10 else (s.core k).clock := by
  have hten : nextClock slow s c = 10 := if_pos h
  unfold stepClock
  rw [hten]
  split
  · next hsame =>
    split
    · next hk => rw [hk]; exact hsame
    · rfl
  · rw [State.core_modCore]
    split <;> rfl

/-- While a region is CRITICAL every core stepped runs at 1.0 GHz. -/
theorem stepClocks_critical (slow : Bool) (l : List Nat) : ∀ s : State, anyCritical s = true → ∀ k,
    ((l.foldl (stepClock slow) s).core k).clock = if k ∈ l then 10 else (s.core k).clock := by
  induction l with
  | nil => exact fun s _ k => by simp
  | cons c l ih =>
    intro s h k
    rw [List.foldl_cons, ih _ ((stepClock_sameTherm slow s c).anyCritical.trans h), stepClock_critical slow h]
    by_cases hl : k ∈ l <;> by_cases hk : k = c <;> simp [hl, hk]

theorem stepClocks_sameTherm (slow : Bool) (s : State) : SameTherm s (stepClocks slow s) := by
  have hfold (l : List Nat) : ∀ s, SameTherm s (l.foldl (stepClock slow) s) := by
    induction l with
    | nil => exact SameTherm.refl
    | cons c l ih => exact fun s => (stepClock_sameTherm slow s c).trans (ih _)
  exact hfold _ s

/-- The sensors' readings recorded, and the regions stepped. -/
def sensed (temps : Temps) (s : State) : State := s.modPwr fun p => { p with
  temps := ((List.range 8).zip (temps.tdie.take 4 ++ temps.pdie.take 2 ++ temps.xdie.take 2)).foldl
    (fun m e => Sparse.set (0 : Byte) m e.1 (BitVec.ofNat 8 e.2)) s.pwr.temps
  therm := (List.range 6).foldl (fun m r => Sparse.set .normal m r (regionStep temps r (s.therm r))) p.therm
  thermDuty := (List.range 4).foldl (fun m r =>
    Sparse.set 64 m r (match regionStep temps r (s.therm r) with
      | .normal => 64
      | .hold => max 1 (min (Sparse.get 64 p.thermDuty r) p.commonDuty - 1)
      | .critical => 1)) p.thermDuty }

theorem sensed_therm (temps : Temps) (s : State) {r : Nat} (hr : r < 6) : (sensed temps s).therm r = regionStep temps r (s.therm r) :=
  (Sparse.get_foldl_set_key Therm.normal (fun r => regionStep temps r (s.therm r)) (List.range 6) r s.pwr.therm).trans
    (if_pos (List.mem_range.2 hr))

/-- What the regions' steps bring about: the stacks' readings, an event, an EXCURSION, a request. -/
def held (temps : Temps) (entered crit asks slow : Bool) (now : Nat) (s : State) : State :=
  let s2 := (List.range 24).foldl (fun s k => s.modStack k fun x => { x with temp := BitVec.ofNat 8 (tempOf temps.stks k) }) s
  let s3 := if entered then raiseEv srcPwr evThermal s2 else s2
  let s4 := if crit then excursion 1 false s3 else s3
  let s5 := if asks then thermalAsk s4 else s4
  if slow then s5.modPwr fun p => { p with lastClock := now } else s5

theorem held_sameTherm (temps : Temps) (entered crit asks slow : Bool) (now : Nat) (s : State) :
    SameTherm s (held temps entered crit asks slow now s) := by
  have hstacks : SameTherm s ((List.range 24).foldl (fun s k =>
      s.modStack k fun x => { x with temp := BitVec.ofNat 8 (tempOf temps.stks k) }) s) := .of_pwr (foldl_pwr _ _ _ fun _ _ => rfl)
  have hevent := SameTherm.ite (p := entered = true) (.trans hstacks (.of_pwr (raiseEv_pwr srcPwr evThermal _))) hstacks
  have hexcursion := SameTherm.ite (p := crit = true) (.trans hevent (.of_pwr (excursion_pwr 1 false _))) hevent
  have hask := SameTherm.ite (p := asks = true) (.trans hexcursion (thermalAsk_sameTherm _)) hexcursion
  refine .ite (.trans hask ?_) hask
  exact ⟨rfl, rfl, rfl⟩

theorem exec_thermalSensorRead {s : State} (hpow : powered s = true) (temps : Temps) : ∃ entered crit asks slow,
    exec (.thermalSensorRead temps) s = .next (stepClocks slow (held temps entered crit asks slow s.now (sensed temps s))) := by
  have hoff : ¬ (!powered s) = true := by simp [hpow]
  exact ⟨_, _, _, _, if_neg hoff⟩

/-! ## Margins -/

theorem trimmed_near {m : Int} (hlo : 25 ≤ m) (hhi : m ≤ 50) (slack : Nat) :
    25 ≤ trimmed slack m ∧ trimmed slack m ≤ 50 ∧ (trimmed slack m - m).natAbs ≤ 5 := by
  unfold trimmed
  split
  · omega
  · split <;> omega

theorem trimmed_within {slack : Nat} (hhi : slack < 20) (hlo : 10 ≤ slack) (m : Int) : trimmed slack m = m := by
  unfold trimmed
  rw [if_neg (by omega), if_neg (by omega)]

/-- The margins trimmed by the least slack of each T-die. -/
def trimmedMargins (slack : List Nat) (s : State) : State := s.modPwr fun p => { p with
  margins := (List.range 4).foldl (fun m c =>
    Sparse.set 0 m c (trimmed (tempOf slack c) (50 + Sparse.get 0 s.pwr.margins c) - 50)) p.margins
  slack := (List.range 4).map (tempOf slack), evalTime := s.now, nextEval := s.now + 86400000000000 }

theorem marginOf_native {s : State} (h : s.pwr.droop = false) (c : Nat) : marginOf s c = 50 + Sparse.get 0 s.pwr.margins c := by
  unfold marginOf
  rw [h]
  rfl

theorem trimmedMargins_margin {slack : List Nat} {s : State} (h : s.pwr.droop = false) {c : Nat} (hc : c < 4) :
    marginOf (trimmedMargins slack s) c = trimmed (tempOf slack c) (marginOf s c) := by
  rw [marginOf_native (s := trimmedMargins slack s) h, marginOf_native h]
  have hget := (Sparse.get_foldl_set_key (0 : Int) (fun c => trimmed (tempOf slack c) (50 + Sparse.get 0 s.pwr.margins c) - 50)
    (List.range 4) c s.pwr.margins).trans (if_pos (List.mem_range.2 hc))
  refine (congrArg (50 + ·) hget).trans ?_
  omega

theorem exec_marginEvaluation {slack : List Nat} {s : State} (hruns : fwRuns s = true) (hdroop : s.pwr.droop = false)
    (hdue : s.pwr.nextEval ≤ s.now) : ∃ t, exec (.marginEvaluation slack) s = .next t ∧ t.pwr = (trimmedMargins slack s).pwr := by
  have hgo : ¬ ((!fwRuns s) = true ∨ s.pwr.droop = true ∨ s.now < s.pwr.nextEval) := by
    simp [hruns, hdroop, hdue]
  refine ⟨_, (congrArg Host.Outcome.next (if_neg hgo) : execMarginEvaluation slack s = _), ?_⟩
  dsimp only
  split
  · rw [raiseEv_pwr]
    rfl
  · rfl

end Sys2Proof.Machine
end

section
/-! What estimates, samples, comparisons, the peak clamp, sensors and the margin evaluation do (spec 17): O47. -/

namespace Sys2Proof.Machine

theorem weighHouseEstimate_acts {s : State} (h : s.pwr.recal = none) (hstarts : s.env.starts = []) (act : Activity) :
    Yields (.weighHouseEstimate act) s fun t => t.pwr.ests = (s.pwr.gain * act.rawDw :: s.pwr.ests).take 1000
      ∧ t.pwr.gain = s.pwr.gain ∧ t.env.ballastDw = s.pwr.gain * act.ballastDw / 16384
      ∧ (s.pwr.wh = .trusted → t.env.workDw = s.pwr.gain * act.rawDw / 16384 - s.pwr.gain * act.ballastDw / 16384)
      ∧ t.env.level = s.env.level ∧ t.env.ramps = s.env.ramps ∧ t.pwr.wh = s.pwr.wh := by
  obtain ⟨u, ⟨hests, hgain, hwh, henv⟩, hexec⟩ := exec_weighHouseEstimate h act
  obtain ⟨hpwr, hst, hballast, hwork, hlevel, hramps⟩ := endShort_fields u
  have hcount : (estimated act s).pwr = { s.pwr with
      ests := (s.pwr.gain * act.rawDw :: s.pwr.ests).take 1000
      ballastRem := (s.pwr.ballastRem + s.pwr.gain * act.ballastDw / 16384) % 1000 } := by
    refine .trans ?_ (count_pwr ballastMilliJ ((s.pwr.ballastRem + s.pwr.gain * act.ballastDw / 16384) / 1000) (s.modPwr fun p => { p with
      ests := (s.pwr.gain * act.rawDw :: p.ests).take 1000
      ballastRem := (p.ballastRem + s.pwr.gain * act.ballastDw / 16384) % 1000 }))
    rfl
  have hestenv : (estimated act s).env = { s.env with
      workDw := controlOf (s.pwr.gain * act.rawDw) s / 16384 - s.pwr.gain * act.ballastDw / 16384
      ballastDw := s.pwr.gain * act.ballastDw / 16384, window := (estimated act s).env.window } := by
    unfold estimated
    rw [State.modEnv_env, (count_sameEst ..).2.2.2]
    rfl
  rw [hcount] at hests hgain hwh
  rw [hestenv] at henv
  rw [henv] at hst hballast hwork hlevel hramps
  rw [sluiceAsk_of_noStarts (hst.trans hstarts)] at hexec
  refine ⟨_, hexec, by rw [hpwr, hests], by rw [hpwr, hgain], hballast, fun htrusted => hwork.trans ?_, hlevel, hramps,
    by rw [hpwr, hwh]⟩
  unfold controlOf
  rw [htrusted]

theorem weighHouseCompare_acts {s : State} (h : s.pwr.recal = none) (hlo : 14746 ≤ s.pwr.gain) (hhi : s.pwr.gain ≤ 18022) :
    Yields .weighHouseCompare s fun t => t.pwr.gain ≤ s.pwr.gain + 32 ∧ s.pwr.gain ≤ t.pwr.gain + 32 ∧ 14746 ≤ t.pwr.gain
      ∧ t.pwr.gain ≤ 18022 ∧ (s.pwr.wh ≠ .trusted → t.pwr.gain = s.pwr.gain) := by
  refine ⟨if fwRuns s then whCompare s else s, rfl, ?_⟩
  have hgain : (if fwRuns s then whCompare s else s).pwr.gain = s.pwr.gain
      ∨ (if fwRuns s then whCompare s else s).pwr.gain = comparedGain s.pwr := by
    split
    · exact whCompare_gain h
    · exact .inl rfl
  dsimp only
  obtain hg | hg := hgain
  · rw [hg]
    exact ⟨by omega, by omega, hlo, hhi, fun _ => rfl⟩
  · rw [hg]
    obtain ⟨h1, h2, h3, h4⟩ := comparedGain_near hlo hhi
    exact ⟨h1, h2, h3, h4, comparedGain_untrusted⟩

theorem inputPowerSample_acts {s : State} (hpow : powered s = true) (h : s.pwr.recal = none) (dw : Nat) :
    Yields (.inputPowerSample dw) s fun t => t.pwr.samples = ((s.now, dw) :: s.pwr.samples).take 10
      ∧ Up energyMilliJ ((s.pwr.energyRem + dw) / 10) s t
      ∧ (dw ≤ 10 * ratedW → t.pwr.overRun = 0 ∧ t.pwr.overUntil = s.pwr.overUntil)
      ∧ (10 * ratedW < dw → s.pwr.overRun < 4 → t.pwr.overRun = s.pwr.overRun + 1 ∧ t.pwr.overUntil = s.pwr.overUntil)
      ∧ (10 * ratedW < dw → 4 ≤ s.pwr.overRun → t.pwr.overUntil = some (s.now + 100000000)
        ∧ bitOf (t.evBits srcPwr) evOverRated = true ∧ effC t = s.env.ceilW * 95 / 100) := by
  obtain ⟨hsamples, henergy, henv⟩ := sampled_fields dw s
  have hexec := exec_inputPowerSample hpow h dw
  by_cases hrun : (if dw > 10 * ratedW then s.pwr.overRun + 1 else 0) ≥ 5
  · rw [if_pos hrun] at hexec
    have hover : (raiseEv srcPwr evOverRated (sampled dw s)).pwr.overUntil = some (s.now + 100000000) := by
      rw [raiseEv_pwr]
      exact sampled_overUntil hrun
    refine ⟨_, hexec, by rw [raiseEv_pwr]; exact hsamples, henergy.of_ctr (raiseEv_ctr ..), fun hlow => ?_, fun _ hfour => ?_,
      fun _ _ => ⟨hover, raiseEv_set _ (by decide) _, ?_⟩⟩
    · rw [if_neg (Nat.not_lt.2 hlow)] at hrun
      omega
    · split at hrun <;> omega
    · rw [effC_over hover, raiseEv_env, henv]
  · rw [if_neg hrun] at hexec
    obtain ⟨hcount, huntil⟩ := sampled_overRun hrun
    refine ⟨_, hexec, hsamples, henergy, fun hlow => ⟨hcount.trans (if_neg (Nat.not_lt.2 hlow)), huntil⟩,
      fun hhigh _ => ⟨hcount.trans (if_pos hhigh), huntil⟩, fun hhigh hfour => absurd ?_ hrun⟩
    rw [if_pos hhigh]
    omega

theorem peakClamp_acts {s : State} (hpow : powered s = true) {w : Nat} (hw : excursionW < w) : Yields (.peakClamp w) s fun t =>
    t.pwr = { s.pwr with clampUntil := some (s.now + 100000) }
      ∧ (∀ a, a < 16 → (t.arr a).dutyNext = if (s.arr a).duty ≤ 32 then none else some 32)
      ∧ (∀ a, { t.arr a with dutyNext := (s.arr a).dutyNext } = s.arr a) ∧ bitOf (t.evBits srcPwr) evPeakClamp = true := by
  refine ⟨peakClamped s, (exec_peakClamp hpow w).trans (congrArg _ (if_pos hw)), peakClamped_pwr s, fun a ha => ?_, fun a => ?_,
    peakClamped_bit s⟩
  · rw [peakClamped_arr, if_pos (List.mem_range.2 ha)]
    show (if (s.arr a).duty = min 32 (s.arr a).duty then none else some (min 32 (s.arr a).duty)) = _
    by_cases hd : (s.arr a).duty ≤ 32
    · rw [if_pos hd, Nat.min_eq_right hd, if_pos rfl]
    · rw [if_neg hd, Nat.min_eq_left (by omega), if_neg (by omega)]
  · rw [peakClamped_arr]
    split <;> rfl

theorem thermalSensorRead_acts {s : State} (hpow : powered s = true) (temps : Temps) : Yields (.thermalSensorRead temps) s fun t =>
    (∀ r, r < 6 → t.therm r = regionStep temps r (s.therm r))
      ∧ (anyCritical t = true → ∀ c, c < 128 → (t.core c).clock = 10) ∧ t.pwr.gain = s.pwr.gain ∧ t.pwr.tags = s.pwr.tags := by
  obtain ⟨entered, crit, asks, slow, hexec⟩ := exec_thermalSensorRead hpow temps
  have hheld := held_sameTherm temps entered crit asks slow s.now (sensed temps s)
  have hclocks := stepClocks_sameTherm slow (held temps entered crit asks slow s.now (sensed temps s))
  have hall := hheld.trans hclocks
  refine ⟨_, hexec, fun r hr => (hall.therm r).trans (sensed_therm temps s hr), fun hcrit c hc => ?_, hall.2.1, hall.2.2⟩
  rw [hclocks.anyCritical] at hcrit
  exact (stepClocks_critical slow (List.range 128) _ hcrit c).trans (if_pos (List.mem_range.2 hc))

theorem marginEvaluation_acts {slack : List Nat} {s : State} (hruns : fwRuns s = true) (hdroop : s.pwr.droop = false)
    (hdue : s.pwr.nextEval ≤ s.now) : Yields (.marginEvaluation slack) s fun t =>
      (∀ c, c < 4 → 25 ≤ marginOf s c → marginOf s c ≤ 50 → 25 ≤ marginOf t c ∧ marginOf t c ≤ 50 ∧ (marginOf t c - marginOf s c).natAbs ≤ 5)
      ∧ (∀ c, c < 4 → slack.getD c 0 < 20 → 10 ≤ slack.getD c 0 → marginOf t c = marginOf s c)
      ∧ t.pwr.nextEval = s.now + 86400000000000 := by
  obtain ⟨t, hexec, hpwr⟩ := exec_marginEvaluation (slack := slack) hruns hdroop hdue
  have hmargin (c : Nat) (hc : c < 4) : marginOf t c = trimmed (tempOf slack c) (marginOf s c) := by
    rw [← trimmedMargins_margin hdroop hc, marginOf, marginOf, hpwr]
  refine ⟨t, hexec, fun c hc hlo hhi => ?_, fun c hc hhi hlo => ?_, by rw [hpwr]; rfl⟩
  · rw [hmargin c hc]
    exact trimmed_near hlo hhi _
  · rw [hmargin c hc]
    exact trimmed_within hhi hlo _

theorem recalibrationAttempt_acts {s : State} (hruns : fwRuns s = true) (hwh : s.pwr.wh ≠ .trusted) (hdue : s.pwr.nextTry ≤ s.now)
    (h : s.pwr.recal = none) : Yields .recalibrationAttempt s fun t =>
      t.pwr = { s.pwr with recal := some { start := s.now } } ∧ Up calCount 1 s t := by
  have hgo : fwRuns s = true ∧ s.pwr.wh ≠ .trusted ∧ s.pwr.nextTry ≤ s.now ∧ s.pwr.recal.isNone = true := by
    simp [hruns, hwh, hdue, h]
  refine ⟨_, (congrArg Host.Outcome.next (if_pos hgo) : execRecalibrationAttempt s = _), ?_, (count_counts ..).1⟩
  rw [count_pwr]
  rfl

/-- A command that only acts with power and clock. -/
theorem outcome_of_powered {s : State} (hpow : powered s = true) (o : Host.Outcome State Fault Refusal) :
    (if (!powered s) = true then .next s else o) = o := if_neg (by simp [hpow])

/-- Settles O47, command by command; the gain, the trust and the regions are followed through the steps behind each. -/
theorem powerRegulationActs : Obligations.PowerRegulationActs := by
  unfold Obligations.PowerRegulationActs
  intro s hpow
  refine ⟨fun act h hstarts => weighHouseEstimate_acts h hstarts act, commonDuty_range, fun h hlo hhi => weighHouseCompare_acts h hlo hhi,
    ?_, fun x rest hx hests => ?_, fun hgone hwh => ?_, fun hgone => ?_, fun dw h => inputPowerSample_acts hpow h dw,
    fun x hx hdue => ?_, fun w hw => peakClamp_acts hpow hw, fun w hw => ?_, fun x hx hdue => ?_,
    fun hruns hwh hdue h => recalibrationAttempt_acts hruns hwh hdue h, fun h => ?_, fun temps => thermalSensorRead_acts hpow temps,
    fun slack hruns hdroop hdue => marginEvaluation_acts hruns hdroop hdue, fun slack h => ?_⟩
  · intro den diff hruns h hden hover htwo
    exact ⟨whCompare s, congrArg Host.Outcome.next (if_pos hruns), whCompare_fault h hden hover htwo⟩
  · refine ⟨s.modPwr fun p => { p with delta := (16384 * x.2 : Nat) - ((s.pwr.ests.take 100).sum / (s.pwr.ests.take 100).length : Nat) },
      ?_, rfl, rfl⟩
    refine (outcome_of_powered hpow _).trans (congrArg _ ?_)
    rw [hx]
    exact if_neg (by simpa using hests)
  · exact ⟨whEnter .fault s, (outcome_of_powered hpow _).trans (congrArg _ (if_pos hgone)), excursion_whFault hwh⟩
  · exact (outcome_of_powered hpow _).trans (congrArg _ (if_neg (by simp [hgone])))
  · refine ⟨s.modPwr fun p => { p with overUntil := none }, (outcome_of_powered hpow _).trans (congrArg _ ?_), rfl, rfl⟩
    rw [hx]
    exact if_pos hdue
  · exact (exec_peakClamp hpow w).trans (congrArg _ (if_neg (Nat.not_lt.2 hw)))
  · refine ⟨s.modPwr fun p => { p with clampUntil := none }, (outcome_of_powered hpow _).trans (congrArg _ ?_), rfl, rfl⟩
    rw [hx]
    exact if_pos hdue
  · refine congrArg Host.Outcome.next (if_neg ?_)
    rintro ⟨-, hwh, hdue, -⟩
    obtain h | h := h
    · exact hwh h
    · omega
  · exact congrArg Host.Outcome.next (if_pos (.inr h))

end Sys2Proof.Machine
end

section
/-! Doorbells, mailbox 2 and commands for another package (spec 18 R383-R389): O55. -/

namespace Sys2Proof.Machine

/-! ## What the manager does with the order -/

/-- A manager that does not serve leaves the mailboxes waiting. -/
theorem settle_of_idle {s : State} (h : mgrServes s = false) : settle s = s := by
  unfold settle
  rw [settleMgr]
  split
  · rfl
  · rw [h]
    rfl

/-- The one command that waits fails a generic check: it is refused, and none waits. -/
theorem settle_refuses {m : MbxId} {s : State} {e : BitVec 16} {d : Nat} (ho : s.mgr.order = [m]) (hserves : mgrServes s = true)
    (hcheck : mbxCheck (cmdAt m s) s = some (e, d)) :
    settle s = refuse (cmdAt m s) e d (s.modMgr fun g => { g with order := [] }) := by
  have horder : (refuse (cmdAt m s) e d (s.modMgr fun g => { g with order := [] })).mgr.order = [] := by
    rw [refuse, respond_order]
    rfl
  unfold settle
  rw [ho, List.length_singleton, settleMgr, ho]
  dsimp only
  rw [hserves, hcheck]
  dsimp only
  rw [settleMgr, horder]
  rfl

theorem respond_answered (m : MbxId) (tag : Nat) (st : BitVec 16) (d : Nat) (pay : List Byte) (s : State) :
    Answered m tag st d (if st.toNat < 0x8000 then pay else []) (respond m tag st d pay s) := by
  unfold Answered
  rw [respond_mbx, if_pos rfl]
  exact ⟨rfl, rfl, rfl⟩

/-- A response without a payload. -/
theorem respond_answered_empty (m : MbxId) (tag : Nat) (st : BitVec 16) (d : Nat) (s : State) :
    Answered m tag st d [] (respond m tag st d [] s) := by
  have h := respond_answered m tag st d [] s
  rwa [ite_self] at h

/-! ## Doorbells -/

/-- A doorbell taken: the mailbox is busy, and waits behind the others. -/
def rung (m : MbxId) (s : State) : State :=
  (s.modMbx m.val fun x => { x with busy := true, done := false }).modMgr fun g => { g with order := g.order ++ [m] }

theorem rung_mbx (m : MbxId) (s : State) (k : Nat) :
    (rung m s).mbx k = if k = m.val then { s.mbx m.val with busy := true, done := false } else s.mbx k :=
  State.mbx_modMbx s m.val k fun x => { x with busy := true, done := false }

theorem cmdAt_rung (m : MbxId) (s : State) : cmdAt m (rung m s) = cmdAt m s := by
  have hcmd : ((rung m s).mbx m.val).cmd = (s.mbx m.val).cmd := by rw [rung_mbx, if_pos rfl]
  unfold cmdAt
  rw [hcmd]

/-- The generic checks look at the firmware and the debug level alone. -/
theorem mbxCheck_congr {c : MCmd} {s t : State} (hboot : t.boot = s.boot) (hsec : t.sec = s.sec) : mbxCheck c t = mbxCheck c s := by
  unfold mbxCheck
  rw [hboot, hsec]

theorem doorbellGo_rejected {m : MbxId} {v : W64} {s : State} (hgo : v.getLsbD 0 = true) (h : (s.mbx m.val).busy = true ∨ m = 2) :
    doorbellGo m v s = mbxReject m.val s := by
  unfold doorbellGo bitOf
  rw [hgo, if_neg (by decide), if_pos]
  obtain h | h := h <;> simp [h]

theorem doorbellGo_taken {m : MbxId} {v : W64} {s : State} (hgo : v.getLsbD 0 = true) (hfree : (s.mbx m.val).busy = false)
    (hm : m ≠ 2) : doorbellGo m v s = settle (rung m s) := by
  unfold doorbellGo bitOf
  rw [hgo, if_neg (by decide), if_neg (by simp [hfree, hm])]
  rfl

theorem mbxReject_rejected (m : Nat) (s : State) : (mbxReject m s).mbx m = { s.mbx m with overrun := true }
    ∧ (mbxReject m s).mgr.order = s.mgr.order ∧ Up (rejectCount m) 1 s (mbxReject m s)
    ∧ ∀ k, k ≠ m → (mbxReject m s).mbx k = s.mbx k := by
  have hmgr : (mbxReject m s).mgr = (s.modMbx m fun x => { x with overrun := true }).mgr := by simp [mbxReject]
  have hmbx (k : Nat) : (mbxReject m s).mbx k = (s.modMbx m fun x => { x with overrun := true }).mbx k := by
    rw [State.mbx, hmgr]
    rfl
  refine ⟨?_, by rw [hmgr]; rfl, ?_, fun k hk => ?_⟩
  · rw [hmbx, State.mbx_modMbx, if_pos rfl]
  · exact (noteMbx_ctr ..).trans (count_counts ..).1
  · rw [hmbx, State.mbx_modMbx, if_neg hk]

/-! ## Slots freed -/

/-- A slot that is freed where it has ended. -/
def OpSlot.freedIf (b : Bool) (o : OpSlot) : OpSlot := if b && o.ended then {} else o

theorem OpSlot.freedIf_idem (b : Bool) (o : OpSlot) : (o.freedIf b).freedIf b = o.freedIf b := by
  unfold OpSlot.freedIf
  by_cases h : (b && o.ended) = true
  · rw [if_pos h, ite_self]
  · rw [if_neg h, if_neg h]

theorem freed_slots (p : Nat → Bool) (l : List Nat) (j : Nat) : ∀ t : Sparse OpSlot,
    Sparse.get {} (l.foldl (fun t j => if p j && (Sparse.get {} t j).ended then Sparse.set {} t j {} else t) t) j
      = if j ∈ l then (Sparse.get {} t j).freedIf (p j) else Sparse.get {} t j := by
  induction l with
  | nil => exact fun t => by simp
  | cons i l ih =>
    intro t
    have hstep : Sparse.get {} (if p i && (Sparse.get {} t i).ended then Sparse.set {} t i {} else t) j
        = if j = i then (Sparse.get {} t j).freedIf (p j) else Sparse.get {} t j := by
      by_cases hj : j = i
      · subst hj
        rw [if_pos rfl, OpSlot.freedIf]
        split
        · rw [Sparse.get_set, if_pos rfl]
        · rfl
      · rw [if_neg hj]
        split
        · exact Sparse.get_set_other _ _ _ _ _ hj
        · rfl
    rw [List.foldl_cons, ih, hstep]
    by_cases hj : j = i
    · rw [if_pos hj, if_pos (hj ▸ List.mem_cons_self : j ∈ i :: l)]
      split
      · exact OpSlot.freedIf_idem ..
      · rfl
    · rw [if_neg hj]
      simp [hj]

theorem opDoneWrite_slots (m : Nat) (v : W64) (s : State) {j : Nat} (hj : j < 8) : Sparse.get {} ((opDoneWrite m v s).mbx m).slots j
    = if clearsMbx m (8 + j) (v.getLsbD j) s = true ∧ (Sparse.get {} (s.mbx m).slots j).ended = true then {}
      else Sparse.get {} (s.mbx m).slots j := by
  unfold opDoneWrite
  rw [State.mbx_modMbx, if_pos rfl]
  refine (freed_slots (fun j => clearsMbx m (8 + j) (bitOf v j) s) (List.range 8) j (s.mbx m).slots).trans ?_
  rw [if_pos (List.mem_range.2 hj), OpSlot.freedIf]
  simp only [Bool.and_eq_true, bitOf]

/-! ## Commands for another package -/

theorem sendMgmt_kept (dst : NodeId) (cls : Nat) (pay : List Byte) (s : State) : (sendMgmt dst cls pay s).mgr = s.mgr
    ∧ (sendMgmt dst cls pay s).queues = s.queues := by
  constructor <;> simp

/-- A command of another package in mailbox 2. -/
def called (src : NodeId) (bs : List Byte) (s : State) : State :=
  (s.modMbx 2 fun x => { x with cmd := (Mem.writeN [] 0 (bs.take 1024)), busy := true, done := false }).modMgr
    fun g => { g with order := g.order ++ [2], from2 := src }

theorem called_mbx (src : NodeId) (bs : List Byte) (s : State) :
    (called src bs s).mbx 2 = { s.mbx 2 with cmd := Mem.writeN [] 0 (bs.take 1024), busy := true, done := false } :=
  (State.mbx_modMbx s 2 2 fun x => { x with cmd := Mem.writeN [] 0 (bs.take 1024), busy := true, done := false }).trans (if_pos rfl)

theorem mailbox2Command_taken {src : NodeId} {bs : List Byte} {s : State} (hfree : (s.mbx 2).busy = false) :
    mailbox2Command src bs s = settle (called src bs s) := by
  unfold mailbox2Command
  rw [hfree]
  rfl

/-- An exchange that waits for another package's response. -/
def exchange (c : MCmd) (s : State) : FabricWait :=
  ⟨c.m, BitVec.ofNat 32 c.tag, BitVec.ofNat 16 (c.le 0 2), BitVec.ofNat 32 (leAt (c.pay.drop 8) 4 4),
    s.now + (if c.le 2 2 = 0 then 200 else c.le 2 2) * 1000000⟩

theorem fabricMailbox_passes {c : MCmd} {s : State} (hlen : c.pay.length ≤ 1032) : fabricMailbox c s =
    if (s.route (BitVec.ofNat 16 (c.le 0 2)).toNat).unreach = true then refuse c mbxFailed 0 s
    else sendMgmt (BitVec.ofNat 16 (c.le 0 2)) 1 (c.pay.drop 8) (s.modMgr fun g => { g with fabric := g.fabric ++ [exchange c s] }) := by
  unfold fabricMailbox
  dsimp only
  rw [checked_pass _ _ _ _ _ _ (pass_cons (by simp; omega) pass_nil) pass_nil pass_nil]
  rfl

theorem yields_fabricMailbox_lost {m : MbxId} {s : State} (h : Served m 0x0520 s) (hlen : (cmdAt m s).pay.length ≤ 1032)
    (hlost : (s.route (BitVec.ofNat 16 ((cmdAt m s).le 0 2)).toNat).unreach = true) :
    Yields (.fabricMailbox m) s (Answered m (cmdAt m s).tag mbxFailed 0 []) :=
  yields_served rfl h ((fabricMailbox_passes hlen).trans (if_pos hlost)) (by rw [refuse, respond_order]; rfl)
    (respond_answered_empty ..)

theorem fabricMailbox_sent {m : MbxId} {s : State} (hlen : (cmdAt m s).pay.length ≤ 1032)
    (hreach : (s.route (BitVec.ofNat 16 ((cmdAt m s).le 0 2)).toNat).unreach = false) : fabricMailbox (cmdAt m s) (taken s)
      = sendMgmt (BitVec.ofNat 16 ((cmdAt m s).le 0 2)) 1 ((cmdAt m s).pay.drop 8)
        ((taken s).modMgr fun g => { g with fabric := s.mgr.fabric ++ [exchange (cmdAt m s) s] }) := by
  have hreach' : ¬ ((taken s).route (BitVec.ofNat 16 ((cmdAt m s).le 0 2)).toNat).unreach = true := by
    show ¬ (s.route (BitVec.ofNat 16 ((cmdAt m s).le 0 2)).toNat).unreach = true
    rw [hreach]
    decide
  exact (fabricMailbox_passes hlen).trans (if_neg hreach')

theorem yields_fabricMailbox_sent {m : MbxId} {s : State} (h : Served m 0x0520 s) (hlen : (cmdAt m s).pay.length ≤ 1032)
    (hreach : (s.route (BitVec.ofNat 16 ((cmdAt m s).le 0 2)).toNat).unreach = false) :
    exec (.fabricMailbox m) s = .next (settle (sendMgmt (BitVec.ofNat 16 ((cmdAt m s).le 0 2)) 1 ((cmdAt m s).pay.drop 8)
        ((taken s).modMgr fun g => { g with fabric := s.mgr.fabric ++ [exchange (cmdAt m s) s] })))
      ∧ Yields (.fabricMailbox m) s fun t =>
        t.mgr = { s.mgr with order := [], fabric := s.mgr.fabric ++ [exchange (cmdAt m s) s] } ∧ t.queues = s.queues := by
  have hsent := fabricMailbox_sent hlen hreach
  obtain ⟨hmgr, hqueues⟩ := sendMgmt_kept (BitVec.ofNat 16 ((cmdAt m s).le 0 2)) 1 ((cmdAt m s).pay.drop 8)
    ((taken s).modMgr fun g => { g with fabric := s.mgr.fabric ++ [exchange (cmdAt m s) s] })
  refine ⟨?_, yields_served rfl h hsent (by rw [hmgr]; rfl) ⟨hmgr, hqueues⟩⟩
  have hserve := served_settle m 0x0520 fabricMailbox s h
  rw [hsent] at hserve
  exact congrArg Host.Outcome.next hserve

/-- The one exchange that waits is answered. -/
theorem respondExchange {w : FabricWait} {s : State} (ho : s.mgr.order = []) (hw : s.mgr.fabric = [w]) (st : BitVec 16) (d : Nat)
    (pay : List Byte) : let t := settle (respond w.m w.tag.toNat st d pay (s.modMgr fun g => { g with fabric := g.fabric.erase w }))
    Answered w.m w.tag.toNat st d (if st.toNat < 0x8000 then pay else []) t ∧ t.mgr.fabric = [] := by
  have horder : (respond w.m w.tag.toNat st d pay (s.modMgr fun g => { g with fabric := g.fabric.erase w })).mgr.order = [] := by
    rw [respond_order]
    exact ho
  dsimp only
  rw [settle_empty _ horder]
  refine ⟨respond_answered .., ?_⟩
  rw [respond_mgr]
  show s.mgr.fabric.erase w = []
  rw [hw, List.erase_cons_head]

/-- Settles O55: which mailbox a doorbell, a packet or a response reaches, and what the manager then does with the order. -/
theorem mailboxesExchangeCommands : Obligations.MailboxesExchangeCommands := by
  unfold Obligations.MailboxesExchangeCommands
  intro m s hpow
  refine ⟨fun v => ⟨fun hgo => ?_, fun hgo hbusy => ?_, fun hgo hfree hm hserves => ?_, fun hgo hfree hm hserves ho e d hcheck => ?_⟩,
    fun v => ?_, fun src bs => ⟨fun hfree hserves => ?_, fun hbusy => ?_⟩, ?_, fun src bs w ho => ⟨fun hw hnode hinner hst => ?_, fun hw hdue => ?_⟩,
    fun src bs hnone => ?_, fun hnone => ?_⟩
  · exact congrArg Host.Outcome.next ((clocked_of_powered hpow (doorbellGo m v)).trans (if_pos (by rw [bitOf, hgo]; rfl)))
  · refine yields_clocked hpow rfl ?_
    rw [doorbellGo_rejected hgo hbusy]
    exact mbxReject_rejected m.val s
  · refine yields_clocked hpow rfl ?_
    rw [doorbellGo_taken hgo hfree hm, settle_of_idle (s := rung m s) hserves]
    refine ⟨?_, rfl, fun k hk => ?_⟩
    · rw [rung_mbx, if_pos rfl]
    · rw [rung_mbx, if_neg hk]
  · refine yields_clocked hpow rfl ?_
    have hcheck' : mbxCheck (cmdAt m (rung m s)) (rung m s) = some (e, d) := by
      rw [cmdAt_rung, ← hcheck]
      exact mbxCheck_congr rfl rfl
    have horder : (rung m s).mgr.order = [m] := by
      show s.mgr.order ++ [m] = _
      rw [ho]
      rfl
    rw [doorbellGo_taken hgo hfree hm, settle_refuses horder hserves hcheck', cmdAt_rung]
    refine ⟨respond_answered_empty .., ?_⟩
    rw [refuse, respond_order]
    rfl
  · refine yields_clocked hpow rfl ⟨fun j hj => opDoneWrite_slots m.val v s hj, fun k hk => ?_, rfl⟩
    exact (State.mbx_modMbx s m.val k _).trans (if_neg hk)
  · refine yields_clocked hpow rfl ?_
    rw [mailbox2Command_taken hfree, settle_of_idle (s := called src bs s) hserves]
    have hmbx := called_mbx src bs s
    exact ⟨by rw [hmbx], by rw [hmbx], rfl, rfl⟩
  · refine (congrArg Host.Outcome.next ((clocked_of_powered hpow (mailbox2Command src bs)).trans (if_pos hbusy)) : _ = _)
  · intro c node ms h hlen
    exact ⟨yields_fabricMailbox_lost h hlen, yields_fabricMailbox_sent h hlen⟩
  · refine yields_clocked hpow rfl ?_
    have hfind : s.mgr.fabric.find? (fun w => w.node == src && w.inner.toNat == leAt bs 4 4) = some w := by
      rw [hw, List.find?_cons_of_pos]
      simp [hnode, hinner]
    unfold fabricResponse
    rw [hfind]
    obtain ⟨hanswered, hfabric⟩ := respondExchange ho hw mbxOk (leAt bs 8 4) ((bs.drop 16).take (leAt bs 2 2))
    dsimp only
    rw [hst]
    exact ⟨hanswered, hfabric⟩
  · have hfind : s.mgr.fabric.find? (fun w => decide (w.until_ ≤ s.now)) = some w := by
      rw [hw, List.find?_cons_of_pos]
      exact decide_eq_true hdue
    refine ⟨_, (outcome_of_powered hpow _).trans (congrArg _ (by rw [hfind])), respondExchange ho hw mbxTimeout 0 []⟩
  · have hfind : s.mgr.fabric.find? (fun w => w.node == src && w.inner.toNat == leAt bs 4 4) = none := by
      refine List.find?_eq_none.2 fun w hw => ?_
      simp [hnone w hw]
    refine (congrArg Host.Outcome.next ((clocked_of_powered hpow (fabricResponse src bs)).trans ?_) : _ = _)
    unfold fabricResponse
    rw [hfind]
  · have hfind : s.mgr.fabric.find? (fun w => decide (w.until_ ≤ s.now)) = none := by
      refine List.find?_eq_none.2 fun w hw => ?_
      simp [hnone w hw]
    exact (outcome_of_powered hpow _).trans (congrArg _ (by rw [hfind]))

end Sys2Proof.Machine
end

section
/-! Writes between nodes and their acknowledgements (spec 10 R232, 14 R305, 15 R331): O19. -/

namespace Sys2Proof.Machine

/-! ## An incoming WRITE -/

/-- Writing the bytes of an incoming WRITE touches nothing of the network. -/
theorem writeIncoming_net (p : Packet) (tag : HoldTag) (s : State) : (writeIncoming p tag s).2.net = s.net := by
  have h := fun bs => (vaWrite_fr codeNone (p.arg.toNat % 2 ^ 52) bs false tag s)
  unfold writeIncoming
  dsimp only
  split
  · next s1 hw => rw [show s1 = (vaWrite _ _ _ _ _ s).2 from (congrArg Prod.snd hw).symm]; simp
  · rfl
  · next s1 _ hw => rw [show s1 = (vaWrite _ _ _ _ _ s).2 from (congrArg Prod.snd hw).symm]; simp

/-- A WRITE whose bytes were written: its acknowledgement is owed, and those that may be sent are sent. -/
theorem receiveWrite_of_done {p : Packet} {s : State}
    (h : (writeIncoming p (.inWrite s.net.nextIn) (s.modNet fun t => { t with nextIn := s.net.nextIn + 1 })).1 = some stDone) :
    receiveWrite p s = sendAcks ((writeIncoming p (.inWrite s.net.nextIn) (s.modNet fun t => { t with nextIn := s.net.nextIn + 1 })).2.modNet
      fun t => { t with acks := t.acks ++ [⟨s.net.nextIn, p.src, p.txn, pagesOf (p.arg.toNat % 2 ^ 52) p.payload.length⟩] }) := by
  unfold receiveWrite
  dsimp only
  generalize writeIncoming p _ _ = r at h ⊢
  obtain ⟨st, s1⟩ := r
  obtain rfl : st = some stDone := h
  exact if_pos rfl

/-! ## What a descriptor's write ends with -/

/-- WRITE_ACK of an outstanding write. -/
theorem ackWrite_of_found {txn : BitVec 32} {st : BitVec 16} {s : State} {o : OutWrite}
    (ho : s.net.writes.find? (·.txn == txn) = some o) :
    ackWrite txn st s = finishQueue o.id.q (modProg o.id.q o.id.n (settleWrite txn o.bytes st)
      (s.modNet fun t => { t with writes := t.writes.filter (·.txn != txn) })) := by
  unfold ackWrite
  rw [ho]

/-- A remote descriptor whose destination is not reached: ended with NODE_UNREACHABLE, and nothing awaited. -/
def Unreached (id : DescId) (s u : State) : Prop :=
  ∃ p', u.prog id.q id.n = some p' ∧ p'.phase = .ended ∧ p'.status = stUnreachable ∧ p'.txns = []
    ∧ (∀ w ∈ u.net.writes, w.id ≠ id) ∧ { u with net := s.net, queues := s.queues } = s

/-- The descriptor after its destination was not reached. -/
def unreachedProg (now : Nat) (p : Prog) : Prog :=
  let y := { p with txns := [], status := stUnreachable }
  if y.phase = .ended then y else { y with phase := .ended, result := w64 y.acked, endTime := now }

theorem prog_modNet (q n : Nat) (f : NetState → NetState) (s : State) : (s.modNet f).prog q n = s.prog q n := rfl

theorem endUnreachable_prog (id : DescId) (s : State) :
    (endUnreachable id.q id.n s).prog id.q id.n = (s.prog id.q id.n).map (unreachedProg s.now) := by
  have hn : ∀ y : Prog, (if y.phase = .ended then y else { y with phase := .ended, result := w64 y.acked, endTime := s.now }).n = y.n := by
    intro y
    split <;> rfl
  unfold endUnreachable
  dsimp only
  rw [prog_modNet]
  refine (prog_modProg (q := id.q) (n := id.n) hn _).trans ?_
  rw [prog_modProg, Option.map_map]
  · rfl
  · intro y
    rfl

theorem endUnreachable_rest (q n : Nat) (s : State) :
    { endUnreachable q n s with net := s.net, queues := s.queues } = s := by
  unfold endUnreachable
  dsimp only [modProg, State.modQueue, State.setQueue, State.modNet]

theorem endUnreachable_unreached {id : DescId} {s : State} {p : Prog} (hp : s.prog id.q id.n = some p) :
    Unreached id s (endUnreachable id.q id.n s) := by
  refine ⟨unreachedProg s.now p, by rw [endUnreachable_prog, hp]; rfl, ?_, ?_, ?_, ?_, endUnreachable_rest _ _ s⟩
  · unfold unreachedProg
    dsimp only
    split
    · assumption
    · rfl
  · unfold unreachedProg
    dsimp only
    split <;> rfl
  · unfold unreachedProg
    dsimp only
    split <;> rfl
  · intro w hw
    simpa using (List.mem_filter.mp hw).2

theorem unreachable_of_found {txn : BitVec 32} {s : State} {o : OutWrite} {p : Prog}
    (ho : s.net.writes.find? (·.txn == txn) = some o) (hp : s.prog o.id.q o.id.n = some p) :
    ∃ u p', unreachable txn s = finishQueue o.id.q u ∧ u.prog o.id.q o.id.n = some p' ∧ p'.phase = .ended
      ∧ p'.status = stUnreachable ∧ p'.txns = [] ∧ (∀ w ∈ u.net.writes, w.id ≠ o.id)
      ∧ { u with net := s.net, queues := s.queues } = s := by
  obtain ⟨p', h⟩ := endUnreachable_unreached hp
  refine ⟨_, p', ?_, h⟩
  unfold unreachable
  rw [ho]

/-- A flush read of port `p` has come back with its data. -/
theorem flushDone_of_found {q : Nat} {p : PortId} {s : State} {r : Prog}
    (hr : (s.queue q).progs.find? (fun r => r.flush.contains p) = some r) :
    flushDone q p true s = finishQueue q (modProg q r.n (fun y => { y with flush := y.flush.filter (· != p) }) s) := by
  unfold flushDone
  rw [hr]
  simp only [Bool.not_true, Bool.or_false, if_true]

/-- Settles O19: each message is one update of the outstanding writes and of its descriptor, before the queue finishes what it can. -/
theorem writesBetweenNodesComplete : Obligations.WritesBetweenNodesComplete := by
  unfold Obligations.WritesBetweenNodesComplete
  intro s hpow
  have hwrite : ∀ p, exec (.write p) s = .next (if p.dst = s.node ∧ p.typ = typeWrite then receiveWrite p s else s) :=
    fun _ => if_neg (by simp [hpow])
  refine ⟨?_, ?_, ?_, ?_, ?_, ?_⟩
  · intro p hdst htyp
    rw [hwrite, if_pos ⟨hdst, htyp⟩]
  · intro p k r hdst htyp hdone
    refine ⟨receiveWrite p s, by rw [hwrite, if_pos ⟨hdst, htyp⟩], _, receiveWrite_of_done hdone, ?_, ?_, rfl, rfl, rfl, rfl⟩
    · exact congrArg (·.acks ++ _) (writeIncoming_net p (.inWrite k) _)
    · exact congrArg (·.nextIn) (writeIncoming_net p (.inWrite k) _)
  · intro p hnot
    rw [hwrite, if_neg (by rwa [not_and_or])]
  · intro txn st o p ho hp
    refine yields_clocked hpow rfl ⟨_, ackWrite_of_found ho, rfl, ?_, rfl⟩
    refine (prog_modProg (f := settleWrite txn o.bytes st) (fun _ => rfl) _).trans ?_
    exact congrArg (Option.map _) hp
  · intro txn node o p ho hp lost
    refine ⟨yields_clocked hpow rfl (unreachable_of_found ho hp), fun hlate => ?_⟩
    refine ⟨unreachable txn s, ?_, unreachable_of_found ho hp⟩
    exact (if_neg (by simp [hpow])).trans (by rw [ho]; exact congrArg _ (if_pos hlate))
  · intro q p r hr
    exact yields_clocked hpow rfl ⟨_, flushDone_of_found hr, State.queue_modQueue_self _ _ _, rfl⟩

end Sys2Proof.Machine
end

section
/-! The memory accesses and work requests of an Ethernet port (spec 14 R315-R317): what they change. -/

namespace Sys2Proof.Machine

/-! ## Ports and queue pairs -/

theorem State.qp_modQp (s : State) (p q k : Nat) (f : QpSt → QpSt) :
    (s.modQp p q f).qp p k = if k = q then f (s.qp p q) else s.qp p k := by
  unfold State.qp State.modQp
  rw [State.ethPort_modEth_self, Sparse.get_set]
  rfl

@[simp] theorem State.qp_modQp_self (s : State) (p q : Nat) (f : QpSt → QpSt) : (s.modQp p q f).qp p q = f (s.qp p q) := by
  rw [State.qp_modQp, if_pos rfl]

/-- Nothing but the one Ethernet port, and nothing of the network, the mailboxes and the groups, has changed. -/
structure OnPort (p : Nat) (s t : State) : Prop where
  others : ∀ k, k ≠ p → t.ethPort k = s.ethPort k
  net : t.net = s.net
  mgr : t.mgr = s.mgr
  coll : t.coll = s.coll

theorem OnPort.refl (p : Nat) (s : State) : OnPort p s s := ⟨fun _ _ => rfl, rfl, rfl, rfl⟩

theorem OnPort.trans {p : Nat} {s t u : State} (h : OnPort p s t) (h' : OnPort p t u) : OnPort p s u where
  others k hk := (h'.others k hk).trans (h.others k hk)
  net := h'.net.trans h.net
  mgr := h'.mgr.trans h.mgr
  coll := h'.coll.trans h.coll

theorem OnPort.modEth (p : Nat) (f : EthSt → EthSt) (s : State) : OnPort p s (s.modEth p f) :=
  ⟨fun k hk => State.ethPort_modEth_other s p k f hk, rfl, rfl, rfl⟩

theorem OnPort.modQp (p q : Nat) (f : QpSt → QpSt) (s : State) : OnPort p s (s.modQp p q f) := .modEth ..

theorem OnPort.emit (p : Nat) (o : Output) (s : State) : OnPort p s (emit o s) := ⟨fun _ _ => rfl, rfl, rfl, rfl⟩

/-! ## Memory accesses -/

/-- Neither the Ethernet ports and regions nor the network, the mailboxes and the groups have changed. -/
structure EthKept (s t : State) : Prop where
  eth : t.eth = s.eth
  net : t.net = s.net
  mgr : t.mgr = s.mgr
  coll : t.coll = s.coll

theorem EthKept.qp {s t : State} (h : EthKept s t) (p q : Nat) : t.qp p q = s.qp p q := by
  rw [State.qp, State.ethPort, h.eth]
  rfl

theorem EthKept.ethPort {s t : State} (h : EthKept s t) (k : Nat) : t.ethPort k = s.ethPort k := by
  rw [State.ethPort, h.eth]
  rfl

theorem EthKept.onPort {s t : State} (h : EthKept s t) (p : Nat) : OnPort p s t :=
  ⟨fun k _ => h.ethPort k, h.net, h.mgr, h.coll⟩

theorem EthKept.refl (s : State) : EthKept s s := ⟨rfl, rfl, rfl, rfl⟩

theorem EthKept.trans {s t u : State} (h : EthKept s t) (h' : EthKept t u) : EthKept s u :=
  ⟨h'.eth.trans h.eth, h'.net.trans h.net, h'.mgr.trans h.mgr, h'.coll.trans h.coll⟩

theorem ethRead_kept (p va n : Nat) (s : State) : EthKept s (ethRead p va n s).2 := by
  constructor <;> simp [ethRead]

theorem ethWrite_kept (p va : Nat) (bs : List Byte) (s : State) : EthKept s (ethWrite p va bs s).2 := by
  constructor <;> simp [ethWrite]

theorem rawWord_kept (p va : Nat) (s : State) : EthKept s (rawWord p va s).2 := by
  have h := ethRead_kept p va 8 s
  unfold rawWord
  generalize ethRead p va 8 s = r at h ⊢
  obtain ⟨bs | e, t⟩ := r
  · exact h
  · dsimp only
    split <;> exact h

/-! ## Sending -/

theorem ethSend_onPort (p prio : Nat) (o : Output) (s : State) : OnPort p s (ethSend p prio o s) := by
  unfold ethSend
  split
  · exact .modEth ..
  · exact .emit ..

theorem ethSend_qp (p prio : Nat) (o : Output) (s : State) (q : Nat) : (ethSend p prio o s).qp p q = s.qp p q := by
  unfold ethSend
  split
  · rw [State.qp, State.ethPort_modEth_self]
    rfl
  · rfl

theorem roceSend_onPort (p : Nat) (o : Output) (s : State) : OnPort p s (roceSend p o s) := ethSend_onPort ..

theorem roceSend_qp (p : Nat) (o : Output) (s : State) (q : Nat) : (roceSend p o s).qp p q = s.qp p q := ethSend_qp ..

/-! ## Records and the end of work -/

theorem qpRecord_onPort (p q opcode seq : Nat) (st : BitVec 16) (tag result : Nat) (s : State) :
    OnPort p s (qpRecord p q opcode seq st tag result s) :=
  (OnPort.modQp ..).trans ((ethWrite_kept ..).onPort p)

/-- A record counts as one more written. -/
theorem qpRecord_qp (p q opcode seq : Nat) (st : BitVec 16) (tag result : Nat) (s : State) :
    (qpRecord p q opcode seq st tag result s).qp p q = { s.qp p q with written := (s.qp p q).written + 1 } :=
  ((ethWrite_kept ..).qp p q).trans (State.qp_modQp_self ..)

theorem endWork_onPort (p q : Nat) (r : WorkReq) (st : BitVec 16) (result : Nat) (s : State) :
    OnPort p s (endWork p q r st result s) := by
  unfold endWork
  split <;> exact qpRecord_onPort ..

theorem endWork_qp (p q : Nat) (r : WorkReq) (st : BitVec 16) (result : Nat) (s : State) :
    (endWork p q r st result s).qp p q = { s.qp p q with written := (s.qp p q).written + 1 } := by
  unfold endWork
  split <;> exact qpRecord_qp ..

/-- Work that is flushed writes one record each. -/
theorem flush_qp (p q : Nat) (l : List WorkReq) : ∀ s : State,
    OnPort p s (l.foldl (fun s r => endWork p q r stRdmaFlushed 0 s) s)
    ∧ (l.foldl (fun s r => endWork p q r stRdmaFlushed 0 s) s).qp p q
      = { s.qp p q with written := (s.qp p q).written + l.length } := by
  induction l with
  | nil => exact fun s => ⟨.refl p s, rfl⟩
  | cons r l ih =>
    intro s
    obtain ⟨honly, hqp⟩ := ih (endWork p q r stRdmaFlushed 0 s)
    refine ⟨(endWork_onPort ..).trans honly, hqp.trans ?_⟩
    rw [endWork_qp, List.length_cons, Nat.add_assoc, Nat.add_comm 1]

theorem qpError_onPort (p q : Nat) (s : State) : OnPort p s (qpError p q s) := (OnPort.modQp ..).trans (flush_qp ..).1

/-- The error state holds nothing outstanding, and a record more for each that was. -/
theorem qpError_qp (p q : Nat) (s : State) : (qpError p q s).qp p q
    = { s.qp p q with error := true, out := [], written := (s.qp p q).written + (s.qp p q).out.length } := by
  refine (flush_qp ..).2.trans ?_
  rw [State.qp_modQp_self]

end Sys2Proof.Machine
end

section
/-! Work requests that end, requests of a peer, and the Ethernet commands (spec 14 R315-R317): O37. -/

namespace Sys2Proof.Machine

/-! ## Work that ends -/

/-- The oldest work has left a queue pair. -/
def dropped (p q : Nat) (rest : List WorkReq) (s : State) : State := s.modQp p q fun x => { x with out := rest }

theorem failWork_of_out {p q : Nat} {s : State} {r : WorkReq} {rest : List WorkReq} (h : (s.qp p q).out = r :: rest)
    (st : BitVec 16) (result : Nat) :
    failWork p q st result s = qpError p q (endWork p q r st result (dropped p q rest s)) := by
  unfold failWork
  rw [h]
  rfl

/-- The oldest fails: the queue pair is in the error state, with a record for each that was outstanding. -/
theorem failWork_broken {p q : Nat} {s : State} {r : WorkReq} {rest : List WorkReq} (h : (s.qp p q).out = r :: rest)
    (st : BitVec 16) (result : Nat) : let t := failWork p q st result s
    (t.qp p q).error = true ∧ (t.qp p q).out = [] ∧ (t.qp p q).written = (s.qp p q).written + rest.length + 1
      ∧ ∀ k, k ≠ p → t.ethPort k = s.ethPort k := by
  rw [failWork_of_out h]
  have honly := ((OnPort.modQp p q (fun x => { x with out := rest }) s).trans (endWork_onPort p q r st result _)).trans
    (qpError_onPort p q _)
  refine ⟨by rw [qpError_qp], by rw [qpError_qp], ?_, honly.others⟩
  rw [qpError_qp, endWork_qp, dropped, State.qp_modQp_self]
  exact Nat.add_right_comm ..

/-- Work that ends alone: one record, and the rest stays outstanding. -/
theorem endWork_served {p q : Nat} {s t : State} {rest : List WorkReq} (ht : EthKept (dropped p q rest s) t) (r : WorkReq)
    (st : BitVec 16) (result : Nat) : let u := endWork p q r st result t
    u.qp p q = { s.qp p q with out := rest, written := (s.qp p q).written + 1 } ∧ ∀ k, k ≠ p → u.ethPort k = s.ethPort k := by
  refine ⟨?_, (((OnPort.modQp ..).trans (ht.onPort p)).trans (endWork_onPort ..)).others⟩
  rw [endWork_qp, ht.qp, dropped, State.qp_modQp_self]

theorem rdmaResponse_of_ack {p q : Nat} {s : State} {r : WorkReq} {rest : List WorkReq} (h : (s.qp p q).out = r :: rest)
    (hop : dOpcode r.w ≠ 3) : rdmaResponse p q .ack s = endWork p q r stDone 0 (dropped p q rest s) := by
  unfold rdmaResponse
  rw [h]
  exact if_neg hop

/-- Read data ends a read with the status of its write at the local address. -/
theorem rdmaResponse_of_data {p q : Nat} {s : State} {r : WorkReq} {rest : List WorkReq} (h : (s.qp p q).out = r :: rest)
    (hop : dOpcode r.w = 3) (data : List Byte) :
    let w := ethWrite p (wrLocal r.w) (data.take (wrLength r.w)) (dropped p q rest s)
    rdmaResponse p q (.readData data) s = endWork p q r (match w.1 with | none => stDone | some o => o.status) 0 w.2 := by
  unfold rdmaResponse
  rw [h]
  dsimp only
  rw [if_neg (not_not_intro hop), ← dropped]
  generalize ethWrite p _ _ _ = w
  obtain ⟨_ | o, t⟩ := w <;> rfl

/-! ## Requests of a peer -/

theorem bumpRq_qp (p q n : Nat) (s : State) :
    (bumpRq p q n s).qp p q = { s.qp p q with rqPsn := (s.qp p q).rqPsn + BitVec.ofNat 32 (packetsOf (s.qp p q) n) } :=
  State.qp_modQp_self ..

/-- A request that took its packets of the sequence, and touched no other port. -/
theorem bumpRq_took {p q n : Nat} {s t : State} (ht : EthKept s t) (o : Output) : let y := s.qp p q
    ∃ u, roceSend p o (bumpRq p q n t) = roceSend p o u
      ∧ u.qp p q = { y with rqPsn := y.rqPsn + BitVec.ofNat 32 (packetsOf y n) }
      ∧ (∀ k, k ≠ p → u.ethPort k = s.ethPort k) ∧ u.net = s.net ∧ u.mgr = s.mgr ∧ u.coll = s.coll := by
  obtain ⟨hothers, hnet, hmgr, hcoll⟩ := (ht.onPort p).trans (OnPort.modQp p q _ t)
  exact ⟨_, rfl, by rw [bumpRq_qp, ht.qp], hothers, hnet, hmgr, hcoll⟩

theorem peerWrite_refused {p : EthId} {qpn : BitVec 12} {va : W64} {key : BitVec 32} {data : List Byte} {s : State}
    (h : regionGrants key va.toNat data.length true s = false) (f : State → State) :
    peerWrite p qpn va key data f s = roceSend p.val (.rdmaNak p qpn nakAccess) s := by
  unfold peerWrite
  rw [h]
  rfl

theorem peerWrite_granted {p : EthId} {qpn : BitVec 12} {va : W64} {key : BitVec 32} {data : List Byte} {s : State}
    (h : regionGrants key va.toNat data.length true s = true) (hw : (ethWrite p.val va.toNat data s).1 = none)
    (f : State → State) : peerWrite p qpn va key data f s = roceSend p.val (.rdmaResponse p qpn .ack)
      (f (bumpRq p.val qpn.toNat data.length (ethWrite p.val va.toNat data s).2)) := by
  unfold peerWrite
  rw [h]
  generalize ethWrite p.val va.toNat data s = w at hw ⊢
  obtain ⟨o, t⟩ := w
  obtain rfl : o = none := hw
  rfl

section
variable {p : EthId} {q : BitVec 12} {s : State} (hv : (s.qp p.val q.toNat).valid = true) (he : (s.qp p.val q.toNat).error = false)
include hv he

theorem rdmaRequest_unsupported : rdmaRequest p q .unsupported s = roceSend p.val (.rdmaNak p q nakInvalid) s :=
  if_neg (by simp [hv, he])

theorem rdmaRequest_write (va : W64) (key : BitVec 32) (data : List Byte) :
    rdmaRequest p q (.write va key data) s = peerWrite p q va key data id s :=
  if_neg (by simp [hv, he])

theorem rdmaRequest_writeImm (va : W64) (key : BitVec 32) (data : List Byte) (imm : BitVec 32) :
    rdmaRequest p q (.writeImm va key data imm) s
      = peerWrite p q va key data (fun s => qpRecord p.val q.toNat 0x81 0 stDone 0 imm.toNat s) s :=
  if_neg (by simp [hv, he])

theorem rdmaRequest_read_refused {va : W64} {key : BitVec 32} {n : Nat} (h : regionGrants key va.toNat n false s = false) :
    rdmaRequest p q (.read va key n) s = roceSend p.val (.rdmaNak p q nakAccess) s :=
  (if_neg (by simp [hv, he])).trans (if_pos (by simp [h]))

theorem rdmaRequest_read_granted {va : W64} {key : BitVec 32} {n : Nat} {bs : List (Byte × Bool)}
    (h : regionGrants key va.toNat n false s = true) (hr : (ethRead p.val va.toNat n s).1 = .ok bs)
    (hclean : bs.any Prod.snd = false) : rdmaRequest p q (.read va key n) s
      = roceSend p.val (.rdmaResponse p q (.readData (bs.map Prod.fst))) (bumpRq p.val q.toNat n (ethRead p.val va.toNat n s).2) := by
  refine (if_neg (by simp [hv, he])).trans ((if_neg (by simp [h])).trans ?_)
  generalize ethRead p.val va.toNat n s = r at hr ⊢
  obtain ⟨o, t⟩ := r
  obtain rfl : o = .ok bs := hr
  exact if_neg (by simp [hclean])

end

/-! ## Commands -/

theorem answer_eth (c : MCmd) (pay : List Byte) (s : State) : (answer c pay s).eth = s.eth := by simp [answer]

/-- The region of a key. -/
def regionAt (k : Nat) (s : State) : MemRegion := Sparse.get ({} : MemRegion) s.eth.regions k

/-- A region is set or removed, and the rest of the Ethernet state stands. -/
theorem answer_region (c : MCmd) (pay : List Byte) (k key : Nat) (r : MemRegion) (s t : State) (ht : t.eth = s.eth) :
    let u := answer c pay { t with eth := { t.eth with regions := Sparse.set {} t.eth.regions k r, nextKey := key } }
    regionAt k u = r ∧ (∀ j, j ≠ k → regionAt j u = regionAt j s) ∧ u.eth.ports = s.eth.ports := by
  dsimp only [regionAt]
  rw [answer_eth]
  dsimp only
  rw [ht]
  exact ⟨Sparse.get_set_self .., fun j hj => Sparse.get_set_other _ _ _ _ _ hj, rfl⟩

theorem rangePinned_kept (va n : Nat) (s : State) : EthKept s (rangePinned va n s).2 := by
  constructor <;> simp [rangePinned]

theorem newKey_congr {s t : State} (h : t.eth = s.eth) : newKey t = newKey s := by
  unfold newKey
  rw [h]

/-- A port as ETH_CONFIG sets it. -/
def configuredPort (c : MCmd) (x : EthSt) : EthSt := { x with
  configured := true
  mac := (c.pay.drop 2).take 6
  ip := (c.pay.drop 8).take 16
  vlan := BitVec.ofNat 16 (c.le 24 2)
  pfcMask := BitVec.ofNat 8 (c.le 26 1)
  prio := BitVec.ofNat 8 (c.le 27 1)
  xoff := c.le 28 4
  rxVa := c.le 32 8
  rxEntries := c.le 40 2
  txEntries := c.le 42 2
  txVa := c.le 48 8
  rxCount := 0
  txCount := 0 }

theorem ethConfig_of_range {c : MCmd} (hp : c.le 0 1 < 16) (s : State) :
    ethConfig c s = answer c [] (s.modEth (c.le 0 1) (configuredPort c)) := by
  unfold ethConfig
  exact checked_pass _ _ _ _ _ _ (by simpa using hp) (by simp) (by simp)

theorem answer_ethPort (c : MCmd) (pay : List Byte) (s : State) (k : Nat) : (answer c pay s).ethPort k = s.ethPort k := by
  rw [State.ethPort, answer_eth]
  rfl

theorem answer_qp (c : MCmd) (pay : List Byte) (s : State) (p q : Nat) : (answer c pay s).qp p q = s.qp p q := by
  rw [State.qp, answer_ethPort]
  rfl

section
variable {m : MbxId} {s : State}

theorem yields_ethConfig (h : Served m 0x0508 s) (hp : (cmdAt m s).le 0 1 < 16) : let c := cmdAt m s
    Yields (.ethConfig m) s fun t => Answered m c.tag mbxOk 0 [] t
      ∧ t.ethPort (c.le 0 1) = configuredPort c (s.ethPort (c.le 0 1)) ∧ (∀ k, k ≠ c.le 0 1 → t.ethPort k = s.ethPort k) := by
  intro c
  refine yields_answered rfl h (ethConfig_of_range hp _) rfl ⟨?_, fun k hk => ?_⟩
  · rw [answer_ethPort, State.ethPort_modEth_self]
    rfl
  · rw [answer_ethPort, State.ethPort_modEth_other _ _ _ _ hk]
    rfl

/-- The region of a key that holds one is removed. -/
theorem yields_unregister (h : Served m 0x0509 s) (hreg : (cmdAt m s).le 21 1 = 1)
    (hheld : (regionAt ((cmdAt m s).le 16 4) s).valid = true) : let c := cmdAt m s
    Yields (.rdmaMrReg m) s fun t => Answered m c.tag mbxOk 0 (leBytes 4 (c.le 16 4)) t
      ∧ regionAt (c.le 16 4) t = {} ∧ (∀ j, j ≠ c.le 16 4 → regionAt j t = regionAt j s) ∧ t.eth.ports = s.eth.ports := by
  intro c
  have hheld' : (Sparse.get ({} : MemRegion) (taken s).eth.regions (c.le 16 4)).valid = true := hheld
  refine yields_answered rfl h ?_ ?_ (answer_region c _ _ (taken s).eth.nextKey {} s (taken s) rfl)
  · unfold rdmaMrReg
    rw [checked_pass]
    · rw [if_neg (by simp [hreg])]
    · simp [hreg]
    · simp
    · simp [hreg, hheld', c]
  · rfl

/-- A range that is pinned is registered under the next key that is free. -/
theorem rdmaMrReg_of_pinned {c : MCmd} {s : State} (hreg : c.le 21 1 = 0) (hne : c.le 8 8 ≠ 0)
    (hend : c.le 0 8 + c.le 8 8 ≤ 2 ^ 52) (hroom : s.eth.regions.length < 65536)
    (hpin : (rangePinned (c.le 0 8) (c.le 8 8) s).1 = true) : let t := (rangePinned (c.le 0 8) (c.le 8 8) s).2
    rdmaMrReg c s = answer c (leBytes 4 (newKey s).toNat) { t with eth := { t.eth with
      regions := Sparse.set {} t.eth.regions (newKey s).toNat ⟨c.le 0 8, c.le 8 8, c.le 20 1 % 2 == 1, c.le 20 1 / 2 % 2 == 1, true⟩
      nextKey := t.eth.nextKey + 1 } } := by
  have hkey := newKey_congr (rangePinned_kept (c.le 0 8) (c.le 8 8) s).eth
  unfold rdmaMrReg
  rw [checked_pass]
  · rw [if_pos (by simp [hreg])]
    generalize rangePinned (c.le 0 8) (c.le 8 8) s = r at hpin hkey ⊢
    obtain ⟨b, t⟩ := r
    obtain rfl : b = true := hpin
    dsimp only at hkey ⊢
    rw [hkey]
  · simpa [hreg, hne] using hend
  · simp
  · have : ¬ 65536 ≤ s.eth.regions.length := by omega
    simp [hreg, this]

theorem yields_register (h : Served m 0x0509 s) (hreg : (cmdAt m s).le 21 1 = 0) (hne : (cmdAt m s).le 8 8 ≠ 0)
    (hend : (cmdAt m s).le 0 8 + (cmdAt m s).le 8 8 ≤ 2 ^ 52) (hroom : s.eth.regions.length < 65536)
    (hpin : (rangePinned ((cmdAt m s).le 0 8) ((cmdAt m s).le 8 8) (taken s)).1 = true) : let c := cmdAt m s
    Yields (.rdmaMrReg m) s fun t => Answered m c.tag mbxOk 0 (leBytes 4 (newKey s).toNat) t
      ∧ regionAt (newKey s).toNat t = ⟨c.le 0 8, c.le 8 8, c.le 20 1 % 2 == 1, c.le 20 1 / 2 % 2 == 1, true⟩
      ∧ (∀ j, j ≠ (newKey s).toNat → regionAt j t = regionAt j s) ∧ t.eth.ports = s.eth.ports := by
  intro c
  obtain ⟨heth, -, hmgr, -⟩ := rangePinned_kept (c.le 0 8) (c.le 8 8) (taken s)
  have hrun := rdmaMrReg_of_pinned (s := taken s) hreg hne hend hroom hpin
  rw [newKey_congr (rfl : (taken s).eth = s.eth)] at hrun
  generalize (rangePinned (c.le 0 8) (c.le 8 8) (taken s)).2 = t at hrun heth hmgr
  refine yields_answered rfl h hrun ?_ (answer_region c _ _ _ _ s t heth)
  exact congrArg MgrState.order hmgr

theorem rdmaQpSet_of_remove {c : MCmd} (hp : c.le 0 1 < 16) (hq : c.le 2 2 < 4096) (hset : c.le 60 1 = 1) (s : State) :
    rdmaQpSet c s = answer c [] (s.modQp (c.le 0 1) (c.le 2 2) fun _ => {}) := by
  unfold rdmaQpSet
  rw [checked_pass]
  · rw [if_neg (by simp [hset])]
  · simp [hset, hp, hq]
  · simp
  · simp

/-- A queue pair as RDMA_QP_SET sets it. -/
def qpOf (c : MCmd) : QpSt where
  valid := true
  peerQpn := BitVec.ofNat 32 (c.le 4 4)
  peerIp := (c.pay.drop 8).take 16
  mac := (c.pay.drop 24).take 6
  mtu := 512 * 2 ^ c.le 30 1
  retry := c.le 31 1
  sqVa := c.le 32 8
  sqEntries := c.le 40 2
  cqLog2 := c.le 42 2
  sqPsn := BitVec.ofNat 32 (c.le 44 4)
  cqVa := c.le 48 8
  rqPsn := BitVec.ofNat 32 (c.le 56 4)

theorem rdmaQpSet_of_set {c : MCmd} (hp : c.le 0 1 < 16) (hq : c.le 2 2 < 4096) (hset : c.le 60 1 = 0) (hmtu : c.le 30 1 ≠ 0)
    (hmtu3 : c.le 30 1 ≤ 3) (hretry : c.le 31 1 ≤ 7) (hsq : 64 ≤ c.le 40 2) (hsq' : c.le 40 2 ≤ 4096) (hcq : 6 ≤ c.le 42 2)
    (hcq' : c.le 42 2 ≤ 16) (s : State) : rdmaQpSet c s = answer c [] (s.modQp (c.le 0 1) (c.le 2 2) fun _ => qpOf c) := by
  unfold rdmaQpSet
  rw [checked_pass]
  · rw [if_pos (by simp [hset])]
    rfl
  · simp [*]
  · simp
  · simp

theorem yields_qpSet {x : QpSt} (h : Served m 0x050A s)
    (hrun : rdmaQpSet (cmdAt m s) (taken s) = answer (cmdAt m s) []
      ((taken s).modQp ((cmdAt m s).le 0 1) ((cmdAt m s).le 2 2) fun _ => x)) : let c := cmdAt m s
    Yields (.rdmaQpSet m) s fun t => Answered m c.tag mbxOk 0 [] t ∧ t.qp (c.le 0 1) (c.le 2 2) = x := by
  refine yields_answered rfl h hrun rfl ?_
  rw [answer_qp, State.qp_modQp_self]

end

/-- How the oldest work of a queue pair ends: the first clause of O37. -/
theorem work_ends (p : EthId) (q : BitVec 12) (s : State) (r : WorkReq) (rest : List WorkReq) (hpow : powered s = true)
    (hout : (s.qp p.val q.toNat).out = r :: rest) :
    let y := s.qp p.val q.toNat
    let s1 := dropped p.val q.toNat rest s
    let broken (t : State) : Prop := (t.qp p.val q.toNat).error = true ∧ (t.qp p.val q.toNat).out = []
      ∧ (t.qp p.val q.toNat).written = y.written + rest.length + 1 ∧ (∀ k, k ≠ p.val → t.ethPort k = s.ethPort k)
    let served (t : State) : Prop := t.qp p.val q.toNat = { y with out := rest, written := y.written + 1 }
      ∧ ∀ k, k ≠ p.val → t.ethPort k = s.ethPort k
    (∀ z, exec (.rdmaNak p q z) s = .next (qpError p.val q.toNat (endWork p.val q.toNat r stRdmaRemote z.toNat s1))
      ∧ Yields (.rdmaNak p q z) s broken)
    ∧ exec (.rdmaRetryExceeded p q) s = .next (qpError p.val q.toNat (endWork p.val q.toNat r stRdmaRetry 0 s1))
    ∧ Yields (.rdmaRetryExceeded p q) s broken
    ∧ (dOpcode r.w ≠ 3 → exec (.rdmaResponseReceive p q .ack) s = .next (endWork p.val q.toNat r stDone 0 s1)
      ∧ Yields (.rdmaResponseReceive p q .ack) s served)
    ∧ (∀ data, dOpcode r.w = 3 →
      let w := ethWrite p.val (wrLocal r.w) (data.take (wrLength r.w)) s1
      (w.1 = none → exec (.rdmaResponseReceive p q (.readData data)) s = .next (endWork p.val q.toNat r stDone 0 w.2))
      ∧ Yields (.rdmaResponseReceive p q (.readData data)) s served) := by
  intro y s1 broken served
  have hnak (z) : exec (.rdmaNak p q z) s = .next (failWork p.val q.toNat stRdmaRemote z.toNat s) :=
    congrArg _ (clocked_of_powered hpow _)
  have hretry : exec (.rdmaRetryExceeded p q) s = .next (failWork p.val q.toNat stRdmaRetry 0 s) :=
    congrArg _ (clocked_of_powered hpow _)
  have hrsp (x) : exec (.rdmaResponseReceive p q x) s = .next (rdmaResponse p.val q.toNat x s) :=
    congrArg _ (clocked_of_powered hpow _)
  refine ⟨fun z => ⟨?_, _, hnak z, failWork_broken hout ..⟩, ?_, ⟨_, hretry, failWork_broken hout ..⟩, fun hop => ?_, fun data hop => ?_⟩
  · rw [hnak, failWork_of_out hout]
  · rw [hretry, failWork_of_out hout]
  · rw [hrsp, rdmaResponse_of_ack hout hop]
    exact ⟨rfl, _, (hrsp _).trans (congrArg _ (rdmaResponse_of_ack hout hop)), endWork_served (.refl _) ..⟩
  · intro w
    have hrun : exec (.rdmaResponseReceive p q (.readData data)) s
        = .next (endWork p.val q.toNat r (match w.1 with | none => stDone | some o => o.status) 0 w.2) :=
      (hrsp _).trans (congrArg _ (rdmaResponse_of_data hout hop data))
    exact ⟨fun hw => by rw [hrun, hw], _, hrun, endWork_served (ethWrite_kept ..) ..⟩

/-- What a queue pair that serves makes of a request: the second clause of O37. -/
theorem requests_answered (p : EthId) (q : BitVec 12) (s : State) (hpow : powered s = true)
    (hv : (s.qp p.val q.toNat).valid = true) (he : (s.qp p.val q.toNat).error = false) :
    let y := s.qp p.val q.toNat
    let nak (c : Byte) (t : State) : Prop := t = roceSend p.val (.rdmaNak p q c) s
    let took (n : Nat) (o : Output) (t : State) : Prop := ∃ u, t = roceSend p.val o u
      ∧ u.qp p.val q.toNat = { y with rqPsn := y.rqPsn + BitVec.ofNat 32 (packetsOf y n) }
      ∧ (∀ k, k ≠ p.val → u.ethPort k = s.ethPort k) ∧ u.net = s.net ∧ u.mgr = s.mgr ∧ u.coll = s.coll
    Yields (.rdmaRequestReceive p q .unsupported) s (nak 0x61)
    ∧ (∀ va key data, regionGrants key va.toNat data.length true s = false →
      Yields (.rdmaRequestReceive p q (.write va key data)) s (nak 0x62)
      ∧ ∀ imm, Yields (.rdmaRequestReceive p q (.writeImm va key data imm)) s (nak 0x62))
    ∧ (∀ va key n, regionGrants key va.toNat n false s = false → Yields (.rdmaRequestReceive p q (.read va key n)) s (nak 0x62))
    ∧ (∀ va key data, let w := ethWrite p.val va.toNat data s
      regionGrants key va.toNat data.length true s = true → w.1 = none →
      exec (.rdmaRequestReceive p q (.write va key data)) s
        = .next (roceSend p.val (.rdmaResponse p q .ack) (bumpRq p.val q.toNat data.length w.2))
      ∧ Yields (.rdmaRequestReceive p q (.write va key data)) s (took data.length (.rdmaResponse p q .ack))
      ∧ ∀ imm, exec (.rdmaRequestReceive p q (.writeImm va key data imm)) s = .next (roceSend p.val (.rdmaResponse p q .ack)
        (qpRecord p.val q.toNat 0x81 0 stDone 0 imm.toNat (bumpRq p.val q.toNat data.length w.2))))
    ∧ (∀ va key n bs, let w := ethRead p.val va.toNat n s
      regionGrants key va.toNat n false s = true → w.1 = .ok bs → bs.any Prod.snd = false →
      Yields (.rdmaRequestReceive p q (.read va key n)) s (took n (.rdmaResponse p q (.readData (bs.map Prod.fst))))) := by
  intro y nak took
  have hreq (x) : exec (.rdmaRequestReceive p q x) s = .next (rdmaRequest p q x s) := congrArg _ (clocked_of_powered hpow _)
  refine ⟨⟨_, hreq _, rdmaRequest_unsupported hv he⟩, fun va key data hno => ⟨?_, fun imm => ?_⟩, fun va key n hno => ?_,
    fun va key data hyes hw => ?_, fun va key n bs hyes hr hclean => ?_⟩
  · exact ⟨_, hreq _, (rdmaRequest_write hv he ..).trans (peerWrite_refused hno _)⟩
  · exact ⟨_, hreq _, (rdmaRequest_writeImm hv he ..).trans (peerWrite_refused hno _)⟩
  · exact ⟨_, hreq _, rdmaRequest_read_refused hv he hno⟩
  · have hrun := (hreq (.write va key data)).trans
      (congrArg _ ((rdmaRequest_write hv he ..).trans (peerWrite_granted hyes hw id)))
    refine ⟨hrun, ⟨_, hrun, bumpRq_took (ethWrite_kept ..) _⟩, fun imm => ?_⟩
    rw [hreq, rdmaRequest_writeImm hv he, peerWrite_granted hyes hw]
  · exact ⟨_, (hreq _).trans (congrArg _ (rdmaRequest_read_granted hv he hyes hr hclean)), bumpRq_took (ethRead_kept ..) _⟩

/-- Settles O37, from what ends work, answers a request and carries out a command. -/
theorem rdmaWorkAndRequests : Obligations.RdmaWorkAndRequests := by
  unfold Obligations.RdmaWorkAndRequests
  refine ⟨work_ends, requests_answered, fun m s => ⟨fun h hp => ?_,
    fun h hreg hheld => ?_, fun h hreg hne hend hroom hpin => ?_, fun h hp hq hset hmtu hmtu3 hretry hsq hsq' hcq hcq' => ?_,
    fun h hp hq hset => ?_⟩⟩
  · obtain ⟨t, hexec, hans, hport, hothers⟩ := yields_ethConfig h hp
    exact ⟨t, hexec, hans, by rw [hport, configuredPort], by rw [hport, configuredPort], by rw [hport, configuredPort], by rw [hport, configuredPort], hothers⟩
  · exact yields_unregister h hreg hheld
  · exact yields_register h hreg hne hend hroom hpin
  · obtain ⟨t, hexec, hans, hqp⟩ := yields_qpSet h (rdmaQpSet_of_set hp hq hset hmtu hmtu3 hretry hsq hsq' hcq hcq' _)
    exact ⟨t, hexec, hans, by rw [hqp, qpOf], by rw [hqp, qpOf], by rw [hqp, qpOf], by rw [hqp, qpOf], by rw [hqp, qpOf]⟩
  · exact yields_qpSet h (rdmaQpSet_of_remove hp hq hset _)

end Sys2Proof.Machine
end

section
/-! Frames, congestion notifications, pauses and doorbells of an Ethernet port (spec 14 R315, R317): O36. -/

namespace Sys2Proof.Machine

/-! ## Work fetched from a send ring -/

/-- The queue pair keeps its send ring and its tail, and nothing beyond the port changes. -/
structure RingStands (p q : Nat) (s t : State) : Prop where
  tail : (t.qp p q).tail = (s.qp p q).tail
  valid : (t.qp p q).valid = (s.qp p q).valid
  sqVa : (t.qp p q).sqVa = (s.qp p q).sqVa
  port : OnPort p s t

section
variable {p q : Nat} {s t u : State}

theorem RingStands.of_qp (h : t.qp p q = s.qp p q) (hport : OnPort p s t) : RingStands p q s t := by
  refine ⟨?_, ?_, ?_, hport⟩ <;> rw [h]

theorem RingStands.refl (p q : Nat) (s : State) : RingStands p q s s := .of_qp rfl (.refl p s)

theorem RingStands.trans (h : RingStands p q s t) (h' : RingStands p q t u) : RingStands p q s u where
  tail := h'.tail.trans h.tail
  valid := h'.valid.trans h.valid
  sqVa := h'.sqVa.trans h.sqVa
  port := h.port.trans h'.port

theorem EthKept.ringStands (h : EthKept s t) : RingStands p q s t := .of_qp (h.qp p q) (h.onPort p)

end

theorem RingStands.modQp {f : QpSt → QpSt} (p q : Nat) (s : State)
    (hf : ∀ x, (f x).tail = x.tail ∧ (f x).valid = x.valid ∧ (f x).sqVa = x.sqVa := by intro; exact ⟨rfl, rfl, rfl⟩) :
    RingStands p q s (s.modQp p q f) := by
  obtain ⟨htail, hvalid, hsq⟩ := hf (s.qp p q)
  refine ⟨?_, ?_, ?_, .modQp ..⟩ <;> rwa [State.qp_modQp_self]

theorem roceSend_ringStands (p q : Nat) (o : Output) (s : State) : RingStands p q s (roceSend p o s) :=
  .of_qp (roceSend_qp ..) (roceSend_onPort ..)

theorem qpRecord_ringStands (p q opcode seq : Nat) (st : BitVec 16) (tag result : Nat) (s : State) :
    RingStands p q s (qpRecord p q opcode seq st tag result s) := by
  refine ⟨?_, ?_, ?_, qpRecord_onPort ..⟩ <;> rw [qpRecord_qp]

theorem endWork_ringStands (p q : Nat) (r : WorkReq) (st : BitVec 16) (result : Nat) (s : State) :
    RingStands p q s (endWork p q r st result s) := by
  refine ⟨?_, ?_, ?_, endWork_onPort ..⟩ <;> rw [endWork_qp]

theorem qpError_ringStands (p q : Nat) (s : State) : RingStands p q s (qpError p q s) := by
  refine ⟨?_, ?_, ?_, qpError_onPort ..⟩ <;> rw [qpError_qp]

theorem startWork_ringStands (p : EthId) (qpn : BitVec 12) (r : WorkReq) (s : State) :
    RingStands p.val qpn.toNat s (startWork p qpn r s) := by
  have hsend : ∀ req k t, RingStands p.val qpn.toNat t (roceSend p.val (.rdma p qpn req) (t.modQp p.val qpn.toNat fun x =>
      { x with out := x.out ++ [r], sqPsn := x.sqPsn + BitVec.ofNat 32 k })) := fun _ _ _ =>
    (RingStands.modQp _ _ _).trans (roceSend_ringStands ..)
  have hread := ethRead_kept p.val (wrLocal r.w) (wrLength r.w) s
  unfold startWork
  dsimp only
  split
  · exact endWork_ringStands ..
  split
  · generalize ethRead _ _ _ s = x at hread ⊢
    obtain ⟨e | bs, t⟩ := x
    · exact hread.ringStands.trans (endWork_ringStands ..)
    dsimp only
    split
    · exact hread.ringStands.trans (endWork_ringStands ..)
    · exact hread.ringStands.trans (hsend ..)
  split
  · exact hsend ..
  · exact (endWork_ringStands ..).trans (qpError_ringStands ..)

theorem fetchWork_ringStands (p : EthId) (qpn : BitVec 12) (fuel : Nat) : ∀ s,
    RingStands p.val qpn.toNat s (fetchWork p qpn fuel s) := by
  induction fuel with
  | zero => exact fun s => .refl _ _ s
  | succ fuel ih =>
    intro s
    have hread := ethRead_kept p.val ((s.qp p.val qpn.toNat).sqVa + 64 * ((s.qp p.val qpn.toNat).head % (s.qp p.val qpn.toNat).sqEntries)) 64 s
    have htook : ∀ t, RingStands p.val qpn.toNat t (t.modQp p.val qpn.toNat fun x =>
        { x with head := (s.qp p.val qpn.toNat).head + 1, tries := 0 }) := fun _ => .modQp _ _ _
    have hfails : ∀ r st t, RingStands p.val qpn.toNat t (qpError p.val qpn.toNat (endWork p.val qpn.toNat r st 0
        (t.modQp p.val qpn.toNat fun x => { x with head := (s.qp p.val qpn.toNat).head + 1, tries := 0 }))) := fun _ _ t =>
      ((htook t).trans (endWork_ringStands ..)).trans (qpError_ringStands ..)
    unfold fetchWork
    dsimp only
    split
    · exact .refl _ _ s
    generalize ethRead _ _ _ s = x at hread ⊢
    obtain ⟨e | bs, t⟩ := x
    · exact (hread.ringStands.trans (hfails ..)).trans (ih _)
    dsimp only
    split
    · exact (hread.ringStands.trans (hfails ..)).trans (ih _)
    split
    · exact ((hread.ringStands.trans (htook t)).trans (startWork_ringStands ..)).trans (ih _)
    split
    · exact hread.ringStands.trans (.modQp _ _ _)
    · exact (hread.ringStands.trans (.modQp _ _ _)).trans (qpRecord_ringStands ..)

/-! ## Raw frames -/

theorem rawReceive_refused {p : Nat} {bytes : List Byte} {s : State} (h : 9216 < bytes.length ∨ (s.ethPort p).rxEntries = 0) :
    rawReceive p bytes s = count (rxDropCount p) 1 s := if_pos h

/-- The next entry of a raw receive ring. -/
def rawNext (x : EthSt) : Nat := x.rxVa + rawEntry * (x.rxCount % x.rxEntries)

section
variable {p : Nat} {bytes : List Byte} {s : State} (hlen : bytes.length ≤ 9216) (hring : (s.ethPort p).rxEntries ≠ 0)
include hlen hring

theorem rawReceive_of_held (h : (rawWord p (rawNext (s.ethPort p)) s).1 ≠ some 0) :
    rawReceive p bytes s = count (rxDropCount p) 1 (rawWord p (rawNext (s.ethPort p)) s).2 := by
  refine (if_neg (by omega)).trans ?_
  rw [← rawNext]
  generalize rawWord p _ s = r at h ⊢
  obtain ⟨w, t⟩ := r
  dsimp only at h ⊢
  split
  · next heq => exact absurd (congrArg Prod.fst heq) h
  · next heq => exact congrArg (count _ 1) (congrArg Prod.snd heq).symm

theorem rawReceive_of_freed (h : (rawWord p (rawNext (s.ethPort p)) s).1 = some 0) :
    rawReceive p bytes s =
      let w := ethWrite p (rawNext (s.ethPort p) + 64) bytes (rawWord p (rawNext (s.ethPort p)) s).2
      if w.1 = none then (ethWrite p (rawNext (s.ethPort p))
        (leBytes 8 ((1 - (s.ethPort p).rxCount / (s.ethPort p).rxEntries % 2) * 2 ^ 63 + bytes.length))
        (w.2.modEth p fun x => { x with rxCount := x.rxCount + 1 })).2
      else count (rxDropCount p) 1 w.2 := by
  refine (if_neg (by omega)).trans ?_
  rw [← rawNext]
  generalize rawWord p _ s = r at h ⊢
  obtain ⟨w, t⟩ := r
  obtain rfl : w = some 0 := h
  dsimp only
  split
  · next s1 heq =>
    obtain rfl : t = s1 := congrArg Prod.snd heq
    generalize ethWrite p _ bytes t = w
    obtain ⟨_ | o, u⟩ := w <;> rfl
  · next hne heq => exact (hne (congrArg Prod.fst heq).symm).elim

end

/-- The entry of a frame is counted, and the rest of the port and of the network stands. -/
theorem rawPlaced_port {p va : Nat} {bs : List Byte} {s t : State} (h : EthKept s t) :
    let u := (ethWrite p va bs (t.modEth p fun x => { x with rxCount := x.rxCount + 1 })).2
    u.ethPort p = { s.ethPort p with rxCount := (s.ethPort p).rxCount + 1 } ∧ OnPort p s u := by
  have hw := ethWrite_kept p va bs (t.modEth p fun x => { x with rxCount := x.rxCount + 1 })
  refine ⟨?_, ((h.onPort p).trans (.modEth ..)).trans (hw.onPort p)⟩
  rw [hw.ethPort, State.ethPort_modEth_self, h.ethPort]

/-! ## Congestion notifications -/

/-- A notification is due: none has been sent for 50 us. -/
def CnpDue (x : QpSt) (now : Nat) : Prop := ∀ t, x.lastCnpTx = some t → t + 50000 ≤ now

theorem sendCnp_of_due {p : Nat} {q : BitVec 12} {s : State} (h : CnpDue (s.qp p q.toNat) s.now) :
    sendCnp p q s = roceSend p (.cnp (Fin.ofNat 16 p) q)
      (count (cnpTxCount p) 1 (s.modQp p q.toNat fun x => { x with lastCnpTx := some s.now })) := by
  refine if_pos ?_
  unfold CnpDue at h
  split
  · next t ht => exact decide_eq_true (h t ht)
  · rfl

theorem sendCnp_of_not_due {p : Nat} {q : BitVec 12} {s : State} (h : ¬ CnpDue (s.qp p q.toNat) s.now) : sendCnp p q s = s := by
  refine if_neg fun hdue => h fun t ht => ?_
  rw [ht] at hdue
  exact of_decide_eq_true hdue

theorem ethSend_ctr (p prio : Nat) (o : Output) (s : State) (key : Nat) : (ethSend p prio o s).ctr key = s.ctr key := by
  unfold ethSend
  split <;> rfl

/-- What is sent on a priority waits exactly while it is paused. -/
theorem ethSend_held (p prio : Nat) (o : Output) (s : State) : let t := ethSend p prio o s
    if prioPaused s p prio then t.outbox = s.outbox ∧ (t.ethPort p).waiting = (s.ethPort p).waiting ++ [(prio, o)]
    else t.outbox = s.outbox ++ [o] ∧ (t.ethPort p).waiting = (s.ethPort p).waiting := by
  unfold ethSend
  split
  · exact ⟨rfl, by rw [State.ethPort_modEth_self]⟩
  · exact ⟨rfl, rfl⟩

/-- A notification waits exactly while the RoCE priority is paused. -/
theorem roceSend_held {p : Nat} {s u : State} (hout : u.outbox = s.outbox) (hpaused : (u.ethPort p).paused = (s.ethPort p).paused)
    (hprio : (u.ethPort p).prio = (s.ethPort p).prio) (hwait : (u.ethPort p).waiting = (s.ethPort p).waiting) (o : Output) :
    let t := roceSend p o u
    if prioPaused s p (rocePrio s p) then t.outbox = s.outbox ∧ (t.ethPort p).waiting = (s.ethPort p).waiting ++ [(rocePrio s p, o)]
    else t.outbox = s.outbox ++ [o] ∧ (t.ethPort p).waiting = (s.ethPort p).waiting := by
  have hr : rocePrio u p = rocePrio s p := by unfold rocePrio; rw [hprio]
  have h := ethSend_held p (rocePrio u p) o u
  rw [hr, prioPaused, hpaused, ← prioPaused, hout, hwait] at h
  unfold roceSend
  rw [hr]
  exact h

theorem count_qp (key n : Nat) (s : State) (p q : Nat) : (count key n s).qp p q = s.qp p q := by simp [State.qp, State.ethPort]

theorem count_ethPort (key n : Nat) (s : State) (p : Nat) : (count key n s).ethPort p = s.ethPort p := by simp [State.ethPort]

/-- A notification sent is noted, counted, and leaves or waits. -/
theorem sendCnp_sent {p : Nat} {q : BitVec 12} {s : State} (h : CnpDue (s.qp p q.toNat) s.now) : let t := sendCnp p q s
    t.qp p q.toNat = { s.qp p q.toNat with lastCnpTx := some s.now }
    ∧ t.ctr (cnpTxCount p) = w64 (min ((s.ctr (cnpTxCount p)).toNat + 1) (2 ^ 64 - 1))
    ∧ (if prioPaused s p (rocePrio s p)
      then t.outbox = s.outbox ∧ (t.ethPort p).waiting = (s.ethPort p).waiting ++ [(rocePrio s p, .cnp (Fin.ofNat 16 p) q)]
      else t.outbox = s.outbox ++ [.cnp (Fin.ofNat 16 p) q] ∧ (t.ethPort p).waiting = (s.ethPort p).waiting) := by
  rw [sendCnp_of_due h]
  refine ⟨?_, ?_, roceSend_held (by simp) ?_ ?_ ?_ _⟩
  · rw [roceSend_qp, count_qp, State.qp_modQp_self]
  · rw [roceSend, ethSend_ctr, (count_counts ..).1]
    rfl
  all_goals
    rw [count_ethPort, State.modQp, State.ethPort_modEth_self]

theorem cnpReceive_halves {p q : Nat} {s : State} (hv : (s.qp p q).valid = true) (hup : ethUp s p = true) :
    let y := s.qp p q
    let t := cnpReceive p q s
    t.qp p q = { y with rate := max 1000 ((if y.rate = 0 then lineRate s p else y.rate) / 2), lastCnpRx := s.now }
    ∧ (∀ k, k ≠ q → t.qp p k = s.qp p k)
    ∧ t.ctr (cnpRxCount p) = w64 (min ((s.ctr (cnpRxCount p)).toNat + 1) (2 ^ 64 - 1)) := by
  dsimp only
  rw [cnpReceive, if_neg (by simp [hv, hup])]
  refine ⟨?_, fun k hk => ?_, (count_counts ..).1⟩
  · rw [count_qp, State.qp_modQp_self]
  · rw [count_qp, State.qp_modQp, if_neg hk]

theorem rateIncrease_raises {p q : Nat} {s : State} (hr : (s.qp p q).rate ≠ 0) (hdue : (s.qp p q).lastCnpRx + 100000 ≤ s.now) :
    let y := s.qp p q
    let r := y.rate + lineRate s p / 64
    let t := rateIncrease p q s
    t.qp p q = { y with rate := if lineRate s p ≤ r then 0 else r, lastCnpRx := s.now } ∧ { t with eth := s.eth } = s := by
  dsimp only
  rw [rateIncrease, if_neg (by omega)]
  exact ⟨State.qp_modQp_self .., rfl⟩

/-! ## Pauses -/

theorem pfcFrame_pauses (p : EthId) (mask : BitVec 8) (s : State) : let x := s.ethPort p.val
    let t := pfcFrame p mask true s
    t.ethPort p.val = { x with paused := x.paused ||| (mask &&& x.pfcMask) } ∧ { t with eth := s.eth } = s := by
  have h : pfcFrame p mask true s = s.modEth p.val fun x =>
      { x with paused := (s.ethPort p.val).paused ||| (mask &&& (s.ethPort p.val).pfcMask) } := rfl
  rw [h]
  exact ⟨State.ethPort_modEth_self .., rfl⟩

theorem emits_outbox {α : Type} (f : α → Output) (l : List α) : ∀ s : State,
    l.foldl (fun s e => emit (f e) s) s = { s with outbox := s.outbox ++ l.map f } := by
  induction l with
  | nil => exact fun s => by simp
  | cons e l ih => exact fun s => (ih _).trans (by simp [emit])

/-- A port without queue pairs that is released sends what waited for a priority no longer paused. -/
theorem pfcFrame_releases {p : EthId} {s : State} (hq : (s.ethPort p.val).qps = []) (mask : BitVec 8) : let x := s.ethPort p.val
    let left := x.paused &&& ~~~ mask
    let t := pfcFrame p mask false s
    t.ethPort p.val = { x with paused := left, waiting := x.waiting.filter fun e => left.getLsbD e.1 }
    ∧ t.outbox = s.outbox ++ (x.waiting.filter fun e => !left.getLsbD e.1).map Prod.snd
    ∧ { t with eth := s.eth, outbox := s.outbox } = s := by
  have h : pfcFrame p mask false s = sendWaiting p.val (s.modEth p.val fun x =>
      { x with paused := (s.ethPort p.val).paused &&& ~~~ mask }) := by
    unfold pfcFrame
    dsimp only
    rw [hq]
    rfl
  rw [h]
  unfold sendWaiting prioPaused
  rw [emits_outbox]
  have hport : ∀ (t : State) (o : List Output) k, ({ t with outbox := o } : State).ethPort k = t.ethPort k := fun _ _ _ => rfl
  refine ⟨?_, ?_, rfl⟩
  · rw [hport, State.ethPort_modEth_self, State.ethPort_modEth_self]
  · rw [State.ethPort_modEth_self]
    rfl

/-! ## Doorbells -/

theorem fetchAll_ringStands (p : EthId) (qpn : BitVec 12) (s : State) : RingStands p.val qpn.toNat s (fetchAll p qpn s) :=
  fetchWork_ringStands ..

/-- An empty send ring has nothing to fetch. -/
theorem fetchAll_of_empty {p : EthId} {qpn : BitVec 12} {s : State} (h : let x := s.qp p.val qpn.toNat
    x.head % (2 * x.sqEntries) = x.tail % (2 * x.sqEntries)) : fetchAll p qpn s = s := by
  unfold fetchAll
  rw [fetchWork]
  exact if_pos (by simp [h])

section
variable {p : EthId} {v : W64} {s : State}

/-- Entries that a doorbell names beyond what is consumed. -/
def rungAhead (v : W64) (y : QpSt) : Nat :=
  (fieldOf v 16 13 + 2 * y.sqEntries - y.head % (2 * y.sqEntries)) % (2 * y.sqEntries)

/-- A queue pair whose doorbell was rung. -/
def rungQp (v : W64) (y : QpSt) : QpSt :=
  { y with tail := fieldOf v 16 13, stale := false, tries := if y.stale then 0 else y.tries }

theorem ethDoorbell_beyond (h : (s.qp p.val (fieldOf v 0 12)).sqEntries < rungAhead v (s.qp p.val (fieldOf v 0 12))) :
    ethDoorbell p v s = s := if_pos (by rw [← rungAhead, decide_eq_true h, Bool.or_true])

theorem ethDoorbell_within (hv : (s.qp p.val (fieldOf v 0 12)).valid = true) (hne : (s.qp p.val (fieldOf v 0 12)).sqEntries ≠ 0)
    (h : rungAhead v (s.qp p.val (fieldOf v 0 12)) ≤ (s.qp p.val (fieldOf v 0 12)).sqEntries) :
    ethDoorbell p v s = fetchAll p (BitVec.ofNat 12 (fieldOf v 0 12))
      (s.modQp p.val (fieldOf v 0 12) fun _ => rungQp v (s.qp p.val (fieldOf v 0 12))) := by
  refine if_neg ?_
  rw [← rungAhead, decide_eq_false (by omega), hv]
  simpa using hne

/-- A doorbell that names nothing beyond what is consumed leaves nothing to fetch. -/
theorem rungQp_empty {y : QpSt} (hne : y.sqEntries ≠ 0) (h : rungAhead v y = 0) :
    (rungQp v y).head % (2 * y.sqEntries) = (rungQp v y).tail % (2 * y.sqEntries) := by
  have hlt := Nat.mod_lt y.head (show 2 * y.sqEntries > 0 by omega)
  have hmod : fieldOf v 16 13 + 2 * y.sqEntries ≡ y.head % (2 * y.sqEntries) [MOD 2 * y.sqEntries] :=
    ((Nat.modEq_iff_dvd' (by omega)).mpr (Nat.dvd_of_mod_eq_zero h)).symm
  simpa [Nat.ModEq, rungQp] using hmod.symm

theorem qpn_of_field (v : W64) : (BitVec.ofNat 12 (fieldOf v 0 12)).toNat = fieldOf v 0 12 := by
  rw [BitVec.toNat_ofNat]
  exact Nat.mod_eq_of_lt (Nat.mod_lt _ (by decide))

/-- A doorbell within the ring sets the tail, and the rest of the package but the port stands. -/
theorem ethDoorbell_rings (hv : (s.qp p.val (fieldOf v 0 12)).valid = true) (hne : (s.qp p.val (fieldOf v 0 12)).sqEntries ≠ 0)
    (h : rungAhead v (s.qp p.val (fieldOf v 0 12)) ≤ (s.qp p.val (fieldOf v 0 12)).sqEntries) :
    let y := s.qp p.val (fieldOf v 0 12)
    let t := ethDoorbell p v s
    (t.qp p.val (fieldOf v 0 12)).tail = fieldOf v 16 13 ∧ (t.qp p.val (fieldOf v 0 12)).valid = true
      ∧ (t.qp p.val (fieldOf v 0 12)).sqVa = y.sqVa ∧ t.net = s.net ∧ t.mgr = s.mgr ∧ t.coll = s.coll
      ∧ (rungAhead v y = 0 → t.qp p.val (fieldOf v 0 12) = rungQp v y) := by
  dsimp only
  rw [ethDoorbell_within hv hne h]
  have hq := qpn_of_field v
  obtain ⟨htail, hvalid, hsq, -, hnet, hmgr, hcoll⟩ := fetchAll_ringStands p (BitVec.ofNat 12 (fieldOf v 0 12))
    (s.modQp p.val (fieldOf v 0 12) fun _ => rungQp v (s.qp p.val (fieldOf v 0 12)))
  rw [hq, State.qp_modQp_self] at htail hvalid hsq
  refine ⟨htail, hvalid.trans hv, hsq, hnet, hmgr, hcoll, fun h0 => ?_⟩
  rw [fetchAll_of_empty, State.qp_modQp_self]
  rw [hq, State.qp_modQp_self]
  exact rungQp_empty hne h0

end

section
variable {p : EthId} {s : State}

theorem ethFrame_raw (hup : ethUp s p.val = true) {f : EthFrame} {bytes : List Byte}
    (hf : f = .other bytes ∨ ∃ q ce, f = .roce q ce bytes ∧ (s.qp p.val q.toNat).valid = false) :
    ethFrame p.val f s = rawReceive p.val bytes s := by
  refine (if_neg (by simp [hup])).trans ?_
  obtain rfl | ⟨q, ce, rfl, hq⟩ := hf
  · rfl
  · exact if_neg (by simp [hq])

theorem ethFrame_roce (hup : ethUp s p.val = true) {q : BitVec 12} (hv : (s.qp p.val q.toNat).valid = true) (ce : Bool)
    (bytes : List Byte) : ethFrame p.val (.roce q ce bytes) s = if ce then sendCnp p.val q s else s :=
  (if_neg (by simp [hup])).trans (if_pos hv)

end

/-- Settles O36, one clause per message, from what the port makes of it. -/
theorem ethernetFramesAndRates : Obligations.EthernetFramesAndRates := by
  unfold Obligations.EthernetFramesAndRates
  intro p s x entry r hpow hup
  have hframe : ∀ f, exec (.ethFrameReceive p f) s = .next (ethFrame p.val f s) := fun _ => congrArg _ (clocked_of_powered hpow _)
  have hid : (Fin.ofNat 16 p.val : EthId) = p := Fin.ext (Nat.mod_eq_of_lt p.isLt)
  refine ⟨fun f bytes hf => ?_, fun q bytes hv => ?_, fun offset => ?_, fun q hv => ?_, fun q hr hdue => ?_,
    fun mask => ?_, fun mask hq => ?_, fun v hv hne => ?_⟩
  · have hraw := (hframe f).trans (congrArg _ (ethFrame_raw hup hf))
    refine ⟨fun hlen hring => ⟨fun hfree hw => ?_, fun hfree hw => ?_, fun hheld => ?_⟩, fun hno => ?_⟩
    · have hrun := hraw.trans (congrArg _ ((rawReceive_of_freed hlen hring hfree).trans (if_pos hw)))
      obtain ⟨hport, hothers, hnet, hmgr, hcoll⟩ := rawPlaced_port (p := p.val) (va := entry)
        (bs := leBytes 8 ((1 - x.rxCount / x.rxEntries % 2) * 2 ^ 63 + bytes.length))
        (EthKept.trans (rawWord_kept p.val entry s) (ethWrite_kept p.val (entry + 64) bytes _))
      exact ⟨hrun, _, hrun, hport, hothers, hnet, hmgr, hcoll⟩
    · exact ⟨_, hraw.trans (congrArg _ ((rawReceive_of_freed hlen hring hfree).trans (if_neg hw))), count_counts ..⟩
    · exact ⟨_, hraw.trans (congrArg _ (rawReceive_of_held hlen hring hheld)), count_counts ..⟩
    · exact ⟨_, hraw.trans (congrArg _ (rawReceive_refused hno)), count_counts ..⟩
  · have hroce := fun ce => (hframe _).trans (congrArg _ (ethFrame_roce hup hv ce bytes))
    refine ⟨hroce false, fun hnot => (hroce true).trans (congrArg _ (sendCnp_of_not_due hnot)), fun hdue => ⟨_, hroce true, ?_⟩⟩
    have hsent := sendCnp_sent hdue
    rwa [hid] at hsent
  · exact (hframe _).trans (congrArg _ (if_neg (by simp [hup])))
  · exact yields_clocked hpow rfl (cnpReceive_halves hv hup)
  · exact yields_clocked hpow rfl (rateIncrease_raises hr hdue)
  · exact ⟨_, (if_neg (by simp [hpow])).trans (congrArg _ (if_pos hup)), pfcFrame_pauses p mask s⟩
  · exact ⟨_, (if_neg (by simp [hpow])).trans (congrArg _ (if_pos hup)), pfcFrame_releases hq mask⟩
  · have hbell : exec (.ethDoorbell p v) s = .next (ethDoorbell p v s) := congrArg _ (clocked_of_powered hpow _)
    exact ⟨fun h => hbell.trans (congrArg _ (ethDoorbell_beyond h)), fun h =>
      ⟨hbell.trans (congrArg _ (ethDoorbell_within hv hne h)), _, hbell, ethDoorbell_rings hv hne h⟩⟩

end Sys2Proof.Machine
end

section
/-! What a memory access leaves of the pins, from the controllers up to a write at a virtual address. -/

namespace Sys2Proof.Machine

@[simp] theorem pinCorrection_pins (pc : ℕ) (pin : ℕ) (s : State) :
    (pinCorrection pc pin s).pins = s.pins := by
  simp [pinCorrection]

@[simp] theorem noteCorrected_pins (pc : ℕ) (sn : ℕ) (fix : List (ℕ × ℕ)) (d : List Byte) (s : State) :
    (noteCorrected pc sn fix d s).pins = s.pins := by
  simp [noteCorrected]

@[simp] theorem stackRead_pins (sn : ℕ) (s : State) :
    (stackRead sn s).2.pins = s.pins := by
  unfold stackRead
  dsimp only
  (repeat' split) <;> simp [*]

@[simp] theorem mergeRead_pins (sn : ℕ) (s : State) :
    (mergeRead sn s).2.pins = s.pins := by
  simp [mergeRead]

@[simp] theorem flushSector_pins (e : WcbEntry) (k : ℕ) (s : State) :
    (flushSector e k s).pins = s.pins := by
  simp [flushSector]

@[simp] theorem leaveEntry_pins (e : WcbEntry) (s : State) :
    (leaveEntry e s).pins = s.pins := by
  simp [leaveEntry]

@[simp] theorem wcbWrite_pins (line : ℕ) (bs : List (ℕ × Byte)) (s : State) :
    (wcbWrite line bs s).pins = s.pins := by
  unfold wcbWrite
  dsimp only
  (repeat' split) <;> simp [*]

@[simp] theorem controllerRead_pins (sn : ℕ) (s : State) :
    (controllerRead sn s).2.pins = s.pins := by
  simp [controllerRead]

@[simp] theorem controllerWrite_pins (sn : ℕ) (d : List Byte) (poison : Bool) (s : State) :
    (controllerWrite sn d poison s).pins = s.pins := by
  unfold controllerWrite
  dsimp only
  (repeat' split) <;> simp [*]

@[simp] theorem controllerWritePart_pins (sn : ℕ) (off : ℕ) (bs : List Byte) (poison : Bool) (s : State) :
    (controllerWritePart sn off bs poison s).pins = s.pins := by
  simp [controllerWritePart]

@[simp] theorem writeBackDirty_pins (l : CLine) (s : State) :
    (writeBackDirty l s).pins = s.pins := by
  simp [writeBackDirty]

@[simp] theorem drainEvict_pins (c : ℕ) (s : State) :
    (drainEvict c s).pins = s.pins := by
  unfold drainEvict
  split <;> simp [*]

@[simp] theorem drainLine_pins (c : ℕ) (line : ℕ) (s : State) :
    (drainLine c line s).pins = s.pins := by
  simp [drainLine]

@[simp] theorem makeEvictRoom_pins (c : ℕ) (s : State) :
    (makeEvictRoom c s).pins = s.pins := by
  simp [makeEvictRoom]

@[simp] theorem allocWay_pins (c : ℕ) (line : ℕ) (remote : Bool) (age : ℕ) (s : State) :
    (allocWay c line remote age s).2.pins = s.pins := by
  unfold allocWay
  dsimp only
  (repeat' split) <;> simp [*]

@[simp] theorem fillSectors_pins (c : ℕ) (line : ℕ) (remote : Bool) (dirty : Bool) (age : ℕ) (xs : List (ℕ × List Byte × Bool)) (s : State) :
    (fillSectors c line remote dirty age xs s).pins = s.pins := by
  simp [fillSectors]

@[simp] theorem fetchSectors_pins (c : ℕ) (line : ℕ) (a2 : List ℕ) (a3 : State) :
    (fetchSectors c line a2 a3).2.pins = a3.pins := by
  fun_induction fetchSectors c line a2 a3 <;> grind [controllerRead_pins]

@[simp] theorem cisternRead_pins (c : ℕ) (line : ℕ) (ks : List ℕ) (streaming : Bool) (s : State) :
    (cisternRead c line ks streaming s).2.pins = s.pins := by
  simp [cisternRead]

@[simp] theorem prefetchLine_pins (c : ℕ) (line : ℕ) (streaming : Bool) (s : State) :
    (prefetchLine c line streaming s).pins = s.pins := by
  simp [prefetchLine]

@[simp] theorem prefetchAfter_pins (c : ℕ) (req : ℕ) (line : ℕ) (hit : Bool) (streaming : Bool) (depth : ℕ) (s : State) :
    (prefetchAfter c req line hit streaming depth s).pins = s.pins := by
  unfold prefetchAfter
  dsimp only
  (repeat' split) <;> simp [*]

@[simp] theorem cisternWriteWhole_pins (c : ℕ) (line : ℕ) (xs : List (ℕ × List Byte × Bool)) (streaming : Bool) (s : State) :
    (cisternWriteWhole c line xs streaming s).pins = s.pins := by
  simp [cisternWriteWhole]

@[simp] theorem homeWriteSector_pins (c : ℕ) (sn : ℕ) (off : ℕ) (bs : List Byte) (poison : Bool) (streaming : Bool) (s : State) :
    (homeWriteSector c sn off bs poison streaming s).pins = s.pins := by
  unfold homeWriteSector
  dsimp only
  (repeat' split) <;> simp [*]

@[simp] theorem homeWrite_pins (a : ℕ) (bs : List Byte) (poison : Bool) (streaming : Bool) (s : State) :
    (homeWrite a bs poison streaming s).pins = s.pins := by
  simp [homeWrite]

@[simp] theorem homeWriteLine_pins (line : ℕ) (ws : List (ℕ × List Byte × Bool)) (streaming : Bool) (s : State) :
    (homeWriteLine line ws streaming s).pins = s.pins := by
  simp [homeWriteLine]

@[simp] theorem pdieWriteBack_pins (h : ℕ) (line : ℕ) (s : State) :
    (pdieWriteBack h line s).pins = s.pins := by
  simp [pdieWriteBack]

@[simp] theorem recallLine_pins (line : ℕ) (s : State) :
    (recallLine line s).pins = s.pins := by
  simp [recallLine]

@[simp] theorem invalidateAll_pins (line : ℕ) (s : State) :
    (invalidateAll line s).pins = s.pins := by
  simp [invalidateAll]

@[simp] theorem dirRoom_pins (line : ℕ) (s : State) :
    (dirRoom line s).pins = s.pins := by
  simp [dirRoom]

@[simp] theorem addHolder_pins (line : ℕ) (x : Holder) (s : State) :
    (addHolder line x s).pins = s.pins := by
  simp [addHolder]

@[simp] theorem readSectors_pins (req : ℕ) (line : ℕ) (ks : List ℕ) (streaming : Bool) (noRemote : Bool) (depth : ℕ) (s : State) :
    (readSectors req line ks streaming noRemote depth s).2.pins = s.pins := by
  unfold readSectors
  dsimp only
  (repeat' split) <;> simp [*]

@[simp] theorem engineSectors_pins (req : ℕ) (line : ℕ) (ks : List ℕ) (streaming : Bool) (noRemote : Bool) (depth : ℕ) (s : State) :
    (engineSectors req line ks streaming noRemote depth s).2.pins = s.pins := by
  simp [engineSectors]

@[simp] theorem engineRead_pins (req : ℕ) (streaming : Bool) (noRemote : Bool) (depth : ℕ) (a4 : ℕ) (a5 : ℕ) (a6 : ℕ) (a7 : State) :
    (engineRead req streaming noRemote depth a4 a5 a6 a7).2.pins = a7.pins := by
  fun_induction engineRead req streaming noRemote depth a4 a5 a6 a7 <;> grind [engineSectors_pins]

@[simp] theorem poolRead_pins (req : ℕ) (a : ℕ) (n : ℕ) (streaming : Bool) (noRemote : Bool) (s : State) :
    (poolRead req a n streaming noRemote s).2.pins = s.pins := by
  simp [poolRead]

@[simp] theorem lineWrite_pins (line : ℕ) (ws : List (ℕ × List Byte × Bool)) (streaming : Bool) (tag : HoldTag) (s : State) :
    (lineWrite line ws streaming tag s).pins = s.pins := by
  simp [lineWrite]

@[simp] theorem engineWrite_pins (streaming : Bool) (tag : HoldTag) (a2 : ℕ) (a3 : ℕ) (a4 : List (Byte × Bool)) (a5 : State) :
    (engineWrite streaming tag a2 a3 a4 a5).pins = a5.pins := by
  fun_induction engineWrite streaming tag a2 a3 a4 a5 <;> grind [lineWrite_pins]

@[simp] theorem poolWriteMarked_pins (a : ℕ) (bs : List (Byte × Bool)) (streaming : Bool) (tag : HoldTag) (s : State) :
    (poolWriteMarked a bs streaming tag s).pins = s.pins := by
  simp [poolWriteMarked]

@[simp] theorem readEntry_pins (eng : ℕ) (level : ℕ) (addr : ℕ) (s : State) :
    (readEntry eng level addr s).2.pins = s.pins := by
  unfold readEntry
  dsimp only
  (repeat' split) <;> simp [*]

@[simp] theorem walk_pins (eng : ℕ) (va : ℕ) (s : State) :
    (walk eng va s).2.pins = s.pins := by
  simp [walk]

@[simp] theorem translatePin_pins (pin : Bool) (eng : ℕ) (va : ℕ) (write : Bool) (s : State) :
    (translatePin pin eng va write s).2.pins = s.pins := by
  unfold translatePin
  dsimp only
  (repeat' split) <;> grind [leafOutcome_fr, tlbInsert_fr, noteXltError_fr, walk_pins]

@[simp] theorem translate_pins (eng : ℕ) (va : ℕ) (write : Bool) (s : State) :
    (translate eng va write s).2.pins = s.pins := by
  simp [translate]

@[simp] theorem translateRange_pins (eng : ℕ) (write : Bool) (a2 : ℕ) (a3 : ℕ) (a4 : ℕ) (a5 : State) :
    (translateRange eng write a2 a3 a4 a5).2.2.pins = a5.pins := by
  fun_induction translateRange eng write a2 a3 a4 a5 <;> grind [translate_pins]

@[simp] theorem translateAll_pins (eng : ℕ) (va : ℕ) (n : ℕ) (write : Bool) (s : State) :
    (translateAll eng va n write s).2.2.pins = s.pins := by
  simp [translateAll]

@[simp] theorem physRead_pins (eng : ℕ) (a : ℕ) (n : ℕ) (streaming : Bool) (noRemote : Bool) (s : State) :
    (physRead eng a n streaming noRemote s).2.pins = s.pins := by
  unfold physRead
  dsimp only
  (repeat' split) <;> simp [*]

@[simp] theorem physPut_pins (eng : ℕ) (a : ℕ) (bs : List (Byte × Bool)) (streaming : Bool) (tag : HoldTag) (s : State) :
    (physPut eng a bs streaming tag s).pins = s.pins := by
  unfold physPut
  dsimp only
  (repeat' split) <;> simp [*]

@[simp] theorem freshTouch_pins (n : ℕ) (t : Touch) (s : State) :
    (freshTouch n t s).pins = s.pins := by
  unfold freshTouch
  dsimp only
  (repeat' split) <;> simp [*]

@[simp] theorem taintFrom_pins (e : StreamEng) (k : ℕ) (s : State) :
    (taintFrom e k s).pins = s.pins := by
  unfold taintFrom
  dsimp only
  (repeat' split) <;> simp [*]

@[simp] theorem raceArray_pins (n : ℕ) (off : ℕ) (len : ℕ) (s : State) :
    (raceArray n off len s).pins = s.pins := by
  unfold raceArray
  dsimp only
  (repeat' split) <;> simp [*]

@[simp] theorem physWrite_pins (eng : ℕ) (a : ℕ) (bs : List (Byte × Bool)) (streaming : Bool) (tag : HoldTag) (s : State) :
    (physWrite eng a bs streaming tag s).pins = s.pins := by
  unfold physWrite
  dsimp only
  (repeat' split) <;> simp [*]

@[simp] theorem writeSegs_pins (eng : ℕ) (streaming : Bool) (tag : HoldTag) (a3 : List (ℕ × ℕ)) (a4 : List (Byte × Bool)) (a5 : State) :
    (writeSegs eng streaming tag a3 a4 a5).pins = a5.pins := by
  fun_induction writeSegs eng streaming tag a3 a4 a5 <;> simp [*]

@[simp] theorem vaWrite_pins (eng : ℕ) (va : ℕ) (bs : List (Byte × Bool)) (streaming : Bool) (tag : HoldTag) (s : State) :
    (vaWrite eng va bs streaming tag s).2.pins = s.pins := by
  have h := translateAll_pins eng va bs.length true s
  unfold vaWrite
  split <;> (next e => rw [e] at h; simpa using h)

end Sys2Proof.Machine
end

section
/-! What the free values and the write-back of a reset leave of the package (spec 19 R403, R404). -/

namespace Sys2Proof.Machine

/-- The pins, the boot state and the time have stood. -/
structure BootStands (s t : State) : Prop where
  pins : t.pins = s.pins
  boot : t.boot = s.boot
  now : t.now = s.now

theorem BootStands.refl (s : State) : BootStands s s := ⟨rfl, rfl, rfl⟩

theorem BootStands.trans {s t u : State} (h : BootStands s t) (h' : BootStands t u) : BootStands s u :=
  ⟨h'.pins.trans h.pins, h'.boot.trans h.boot, h'.now.trans h.now⟩

theorem BootStands.ite {p : Prop} [Decidable p] {s t u : State} (h : BootStands s t) (h' : BootStands s u) :
    BootStands s (if p then t else u) := by
  split
  · exact h
  · exact h'

theorem BootStands.foldl {α : Type} {f : State → α → State} (h : ∀ s a, BootStands s (f s a)) (l : List α) :
    ∀ s, BootStands s (l.foldl f s) := by
  induction l with
  | nil => exact .refl
  | cons a l ih => exact fun s => (h s a).trans (ih _)

/-! ## Free values (R403) -/

theorem freshBytes_bootStands (n : Nat) (s : State) : BootStands s (freshBytes n s).2 := by constructor <;> simp

theorem vaWrite_bootStands (eng va : Nat) (bs : List (Byte × Bool)) (streaming : Bool) (tag : HoldTag) (s : State) :
    BootStands s (vaWrite eng va bs streaming tag s).2 := by constructor <;> simp

theorem writeSegs_bootStands (eng : Nat) (streaming : Bool) (tag : HoldTag) (segs : List (Nat × Nat)) (bs : List (Byte × Bool))
    (s : State) : BootStands s (writeSegs eng streaming tag segs bs s) := by constructor <;> simp

theorem pastInvals_bootStands {α : Type} {f : State → α × State} (h : ∀ s, BootStands s (f s).2) (s : State) :
    BootStands s (pastInvals f s).2 :=
  ⟨pastInvals_pins f s fun s => (h s).pins, pastInvals_boot f s fun s => (h s).boot, pastInvals_now f s fun s => (h s).now⟩

theorem freeRange52_bootStands (code va n : Nat) (s : State) : BootStands s (freeRange52 code va n s) :=
  (freshBytes_bootStands n s).trans (pastInvals_bootStands (fun _ => vaWrite_bootStands ..) _)

theorem freeCopy_bootStands (eng : Nat) (w : DWords) (s : State) : BootStands s (freeCopy eng w s) := by
  unfold freeCopy
  split
  · exact .refl s
  · exact .foldl (fun s r => (freshBytes_bootStands _ s).trans (pastInvals_bootStands (fun _ => vaWrite_bootStands ..) _)) _ s

theorem freeTargets_bootStands (eng : Nat) (m : Strm) (s : State) : BootStands s (freeTargets eng m s) :=
  .foldl (fun s _ => (freshBytes_bootStands _ s).trans (writeSegs_bootStands ..)) _ s

theorem freeRange_bootStands (eng : Nat) (tag : HoldTag) (fuel : Nat) : ∀ va n s, BootStands s (freeRange eng tag fuel va n s) := by
  induction fuel with
  | zero => exact fun _ _ s => .refl s
  | succ fuel ih =>
    intro va n s
    unfold freeRange
    split
    · exact .refl s
    · exact ((freshBytes_bootStands _ s).trans (vaWrite_bootStands ..)).trans (ih _ _ _)

theorem freeDest_bootStands (r : CollRun) (g : GroupSt) (s : State) : BootStands s (freeDest r g s) := by
  unfold freeDest
  dsimp only
  split
  · exact .refl s
  split
  · exact freeRange_bootStands ..
  · exact (freshBytes_bootStands _ s).trans (writeSegs_bootStands ..)

theorem freeKv_bootStands (q : Nat) (r : SeqRun) (w : DWords) (s : State) : BootStands s (freeKv q r w s) := by
  refine .foldl (fun s k => .ite (.ite (.refl s) (freeRange52_bootStands ..)) (.foldl (fun s i => ?_) _ s)) _ s
  dsimp only
  generalize r.ents.find? _ = e
  cases e with
  | none => exact .refl s
  | some e => exact .ite (.refl s) (freeRange52_bootStands ..)

theorem freeSeqs_bootStands (h : Nat) (s : State) : BootStands s (freeSeqs h s) := by
  refine .foldl (fun s r => ?_) _ s
  split
  · split
    · exact freeKv_bootStands ..
    · exact .refl s
  · exact .refl s

/-- The free values over what was not finished leave the pins, the boot state and the time. -/
theorem freeDestinations_bootStands (s : State) : BootStands s (freeDestinations s) := by
  unfold freeDestinations
  dsimp only
  refine .trans ?_ (.foldl (fun s n => ?_) _ _)
  · refine .trans (.trans ?_ (freeSeqs_bootStands 0 _)) (freeSeqs_bootStands 1 _)
    refine .trans (.foldl (fun _ _ => freeCopy_bootStands ..) _ _) (.foldl (fun s r => ?_) _ _)
    split
    · exact pastInvals_bootStands (fun _ => freeDest_bootStands ..) s
    · exact .refl s
  · cases (s.arr n).su.cur with
    | none =>
      dsimp only
      cases (s.vec n).su.cur with
      | none => exact .refl s
      | some m => exact freeTargets_bootStands ..
    | some a =>
      dsimp only
      have ha := freeTargets_bootStands (codeArray n) a s
      cases ((freeTargets (codeArray n) a s).vec n).su.cur with
      | none => exact ha
      | some m => exact ha.trans (freeTargets_bootStands ..)

/-! ## The end of a write-back (R404) -/

theorem flushRange_boot (lo n : Nat) (s : State) : (flushRange lo n s).boot = s.boot := by
  simp [flushRange]

theorem writePage_boot (pa n : Nat) (data : Mem) (bad : List Nat) (s : State) : (writePage pa n data bad s).boot = s.boot := by
  unfold writePage
  split
  · rfl
  · simp

theorem zeroStack_boot (k : Nat) (s : State) : (zeroStack k s).boot = s.boot :=
  foldl_boot _ _ _ fun _ _ => (writePage_boot ..).trans (by simp [dropRange])

theorem zeroIdleStacks_boot (s : State) : (zeroIdleStacks s).boot = s.boot := by
  refine foldl_boot _ _ _ fun s k => ?_
  split
  · exact zeroStack_boot ..
  · rfl

end Sys2Proof.Machine
end

section
/-! Resets, stack training, the pool's start, shutdowns and the pins (spec 16 R357, 17 R362, 18 R379, 19 R393-R404,
21 R428-R438, 22 R445-R453): O50. -/

namespace Sys2Proof.Machine

/-! ## What a reset leaves -/

/-- The array stores that a reset keeps. -/
theorem keptStores_get (s : State) (n : Nat) : Sparse.get ({} : AryState) (keptStores s) n
    = if n < 16 then { tile := (s.arr n).tile, poison := (s.arr n).poison, acc := (s.arr n).acc, written := (s.arr n).written } else {} := by
  have hfold : ∀ j, Sparse.get ({} : AryState) ((List.range j).foldl (fun m n => Sparse.set {} m n
      { tile := (s.arr n).tile, poison := (s.arr n).poison, acc := (s.arr n).acc, written := (s.arr n).written }) []) n
      = if n < j then { tile := (s.arr n).tile, poison := (s.arr n).poison, acc := (s.arr n).acc, written := (s.arr n).written } else {} := by
    intro j
    induction j with
    | zero => rfl
    | succ j ih =>
      rw [List.range_succ, List.foldl_append, List.foldl_cons, List.foldl_nil, Sparse.get_set, ih]
      by_cases hn : n = j
      · rw [if_pos hn, if_pos (by omega), hn]
      · rw [if_neg hn]
        exact if_congr (by omega) rfl rfl
  exact hfold 16

/-- What a reset of either kind leaves: fuses, time and record stand, and what runs is gone. -/
structure ResetTo (kind : Byte) (s t : State) : Prop where
  kind : t.boot.kind = kind
  svn : t.sec.svn = s.sec.svn
  revoked : t.sec.revoked = s.sec.revoked
  queues : t.queues = []
  cores : t.cores = []
  record : t.boot.record = s.boot.record
  now : t.now = s.now
  pins : t.pins = s.pins

theorem deviceReset_dropped {preserve : Bool} {s : State}
    (h : (preserve && s.hbm.nextCfg.isNone && s.boot.everReady) = false) (kind : Byte) :
    deviceReset kind preserve s = count resetCount 1 (resetBase kind false preserve s) := by
  unfold deviceReset
  dsimp only
  rw [h, Bool.not_false, Bool.and_true]
  rfl

theorem deviceReset_kept {preserve : Bool} {s : State}
    (h : (preserve && s.hbm.nextCfg.isNone && s.boot.everReady) = true) (kind : Byte) :
    deviceReset kind preserve s = count resetCount 1 (resetBase kind true false (freeDestinations s)) := by
  unfold deviceReset
  dsimp only
  rw [h, Bool.not_true, Bool.and_false]
  rfl

theorem deviceReset_resets (kind : Byte) (preserve : Bool) (s : State) : ResetTo kind s (deviceReset kind preserve s) := by
  have hbase : ∀ keep dropped t, BootStands s t → t.sec = s.sec →
      ResetTo kind s (count resetCount 1 (resetBase kind keep dropped t)) := by
    intro keep dropped t ⟨hpins, hboot, hnow⟩ hsec
    have hrecord : t.boot.record = s.boot.record := by rw [hboot]
    constructor <;> simp [resetBase, wiped, hpins, hrecord, hnow, hsec]
  by_cases hkeep : (preserve && s.hbm.nextCfg.isNone && s.boot.everReady) = true
  · rw [deviceReset_kept hkeep]
    exact hbase _ _ _ (freeDestinations_bootStands s) (freeDestinations_fr s).2
  · rw [deviceReset_dropped (Bool.eq_false_iff.mpr hkeep)]
    exact hbase _ _ _ (.refl s) rfl

theorem count_arr (key k : Nat) (s : State) (n : Nat) : (count key k s).arr n = s.arr n := by simp [State.arr]

theorem resetBase_arr (kind : Byte) (keep dropped : Bool) (s : State) (n : Nat) :
    (count resetCount 1 (resetBase kind keep dropped s)).arr n
      = if n < 16 then { tile := (s.arr n).tile, poison := (s.arr n).poison, acc := (s.arr n).acc, written := (s.arr n).written } else {} :=
  (count_arr ..).trans (keptStores_get s n)

theorem deviceReset_su (kind : Byte) (preserve : Bool) (s : State) (n : Nat) : ((deviceReset kind preserve s).arr n).su = {} := by
  unfold deviceReset
  dsimp only
  rw [resetBase_arr]
  split <;> rfl

/-- The pool's contents, keys and Cisterns after a reset that does not keep the pool. -/
theorem resetBase_unkept (kind : Byte) (dropped : Bool) (s : State) : let t := count resetCount 1 (resetBase kind false dropped s)
    t.hbm.cells = [] ∧ t.keys = [] ∧ t.coh = {} ∧ t.boot.dropped = dropped := by
  refine ⟨?_, ?_, ?_, ?_⟩ <;> simp [resetBase]

theorem resetBase_kept (kind : Byte) (s : State) : let t := count resetCount 1 (resetBase kind true false s)
    t.boot.phase = .writeBack kind ∧ t.boot.dropped = false := by
  constructor <;> simp [resetBase]

/-- The fourth clause of O50: what a device reset leaves, by whether it keeps the pool. -/
theorem deviceReset_leaves (s : State) (kind : Byte) (p : Bool) : let t := deviceReset kind p s
    t.boot.kind = kind ∧ t.sec.svn = s.sec.svn ∧ t.sec.revoked = s.sec.revoked ∧ t.queues = [] ∧ t.cores = []
    ∧ (∀ n, (t.arr n).su = {})
    ∧ (p = false → ∀ n, n < 16 → (t.arr n).tile = (s.arr n).tile ∧ (t.arr n).acc = (s.arr n).acc ∧ (t.arr n).written = (s.arr n).written)
    ∧ (p = false → t.hbm.cells = [] ∧ t.keys = [] ∧ t.coh = {} ∧ t.boot.dropped = false)
    ∧ (p = true → (s.hbm.nextCfg ≠ none ∨ s.boot.everReady = false) → t.hbm.cells = [] ∧ t.boot.dropped = true)
    ∧ (p = true → s.hbm.nextCfg = none → s.boot.everReady = true → t.boot.phase = .writeBack kind ∧ t.boot.dropped = false) := by
  obtain ⟨hkind, hsvn, hrevoked, hqueues, hcores, -, -, -⟩ := deviceReset_resets kind p s
  refine ⟨hkind, hsvn, hrevoked, hqueues, hcores, deviceReset_su kind p s, ?_, ?_, ?_, ?_⟩
  · rintro rfl n hn
    rw [deviceReset_dropped rfl, resetBase_arr, if_pos hn]
    exact ⟨rfl, rfl, rfl⟩
  · rintro rfl
    rw [deviceReset_dropped rfl]
    exact resetBase_unkept ..
  · rintro rfl hlost
    rw [deviceReset_dropped]
    · obtain ⟨hcells, -, -, hdropped⟩ := resetBase_unkept kind true s
      exact ⟨hcells, hdropped⟩
    · obtain hcfg | hready := hlost
      · simp [hcfg]
      · simp [hready]
  · rintro rfl hcfg hready
    rw [deviceReset_kept (by simp [hcfg, hready])]
    exact resetBase_kept ..

/-! ## Commands and pins that reset -/

theorem deviceResetCmd_of_check {c : MCmd} {s : State} (hcheck : c.le 0 1 = 3) (hmember : s.env.member = false)
    (hfree : (s.mgr.ops.any fun o => o.id == 0x0702) = false) (hnone : s.boot.resetAt = none) :
    ∃ t, deviceResetCmd c s = t ∧ t.mgr = (answer c [] s).mgr ∧ t.boot.stage = stResetPending
      ∧ t.boot.resetAt = some (s.now + 1000000, c.le 1 1 % 2 == 1) := by
  have hm : (answer c [] s).env.member = false := by simpa [answer] using hmember
  have hb : (answer c [] s).boot.resetAt = none := by simpa using hnone
  refine ⟨_, rfl, ?_⟩
  unfold deviceResetCmd
  dsimp only
  rw [checked_pass]
  · rw [hm, if_neg Bool.false_ne_true]
    refine ⟨rfl, rfl, ?_⟩
    dsimp only [State.modBoot]
    rw [hb]
  · simp [hcheck]
  · simp [hfree]
  · simp

theorem yields_deviceReset {m : MbxId} {s : State} (h : Served m 0x0704 s) (hmember : s.env.member = false)
    (hnone : s.boot.resetAt = none) (hfree : (s.mgr.ops.any fun o => o.id == 0x0702) = false) (hcheck : (cmdAt m s).le 0 1 = 3) :
    Yields (.deviceReset m) s fun t => Answered m (cmdAt m s).tag mbxOk 0 [] t
      ∧ t.boot.resetAt = some (s.now + 1000000, (cmdAt m s).le 1 1 % 2 == 1) ∧ t.boot.stage = stResetPending := by
  obtain ⟨t, ht, hmgr, hstage, hat⟩ := deviceResetCmd_of_check (s := taken s) hcheck hmember hfree hnone
  refine yields_served rfl h ht ?_ ⟨?_, hat, hstage⟩
  · rw [hmgr, answer, respond_order]
    rfl
  · have hans := answer_answered (cmdAt m s) [] (taken s)
    unfold Answered State.mbx at hans ⊢
    rw [hmgr]
    exact hans

/-- A range check that fails refuses the command. -/
theorem checked_out_of_range {range : List (Bool × Nat)} {d : Nat} (h : (range.find? (·.1)).map Prod.snd = some d) (c : MCmd)
    (busy conflict : List (Bool × Nat)) (k : State → State) (s : State) :
    checked c range busy conflict k s = refuse c mbxRange d s := by
  obtain ⟨e, he, rfl⟩ := Option.map_eq_some_iff.mp h
  unfold checked firstFail
  rw [he]
  rfl

theorem deviceResetCmd_out_of_range {c : MCmd} (h : c.le 0 1 ≠ 3) (s : State) : deviceResetCmd c s = refuse c mbxRange 0 s := by
  unfold deviceResetCmd
  exact checked_out_of_range (by simp [h]) ..

theorem deviceReset_refused {m : MbxId} {s : State} (h : Served m 0x0704 s) (hcheck : (cmdAt m s).le 0 1 ≠ 3) :
    exec (.deviceReset m) s = .next (refuse (cmdAt m s) mbxRange 0 (taken s)) := by
  exact congrArg _ (serve_refuse _ _ _ _ _ _ _ h (deviceResetCmd_out_of_range hcheck _) rfl)

theorem resetNAssert_held {s : State} (h : s.pins.resetN = false ∨ writingBack s = true ∨ s.pins.converters = false) :
    exec .resetNAssert s = .next { s with pins := { s.pins with resetN := false } } := by
  refine congrArg _ (if_pos ?_)
  obtain h | h | h := h <;> simp [h]

theorem resetNAssert_resets {s : State} (hin : s.pins.input = true) (hconv : s.pins.converters = true) (hn : s.pins.resetN = true)
    (hwb : writingBack s = false) : exec .resetNAssert s
      = .next (deviceReset 2 s.boot.pinPreserve { s with pins := { s.pins with resetN := false } }) :=
  congrArg _ (if_neg (by simp [hin, hconv, hn, hwb]))

/-- The write-back of a reset ends: the stacks retune, and no line is cached. -/
theorem resetWriteBackEnd_retunes {s : State} (h : writingBack s = true) : let t := resetWriteBackEnd s
    t.boot.phase = .retuning ∧ t.coh = {} ∧ t.boot.kind = s.boot.kind ∧ t.events = [] := by
  have hboot : (zeroIdleStacks (flushRange 0 poolBytes s)).boot = s.boot := (zeroIdleStacks_boot _).trans (flushRange_boot ..)
  unfold resetWriteBackEnd
  rw [h, if_neg (by decide)]
  dsimp only [State.modBoot]
  rw [hboot]
  exact ⟨rfl, rfl, rfl, rfl⟩

/-! ## Stack training and the pool -/

/-- An update of the first stacks, one after another, by the isolation that stands. -/
def eachStack (n : Nat) (g : BitVec 24 → Nat → StackSt → StackSt) (s : State) : State :=
  (List.range n).foldl (fun s k => s.modStack k (g s.hbm.iso k)) s

theorem eachStack_stacks (n : Nat) (g : BitVec 24 → Nat → StackSt → StackSt) (s : State) :
    ∃ h : HbmState, eachStack n g s = { s with hbm := h } ∧ h.iso = s.hbm.iso ∧ h.cells = s.hbm.cells
      ∧ ∀ k, Sparse.get {} h.stks k = if k < n then g s.hbm.iso k (s.stack k) else s.stack k := by
  induction n with
  | zero => exact ⟨s.hbm, rfl, rfl, rfl, fun _ => rfl⟩
  | succ n ih =>
    obtain ⟨h, heq, hiso, hcells, hstack⟩ := ih
    have hsucc : eachStack (n + 1) g s = (eachStack n g s).modStack n (g (eachStack n g s).hbm.iso n) := by
      unfold eachStack
      rw [List.range_succ, List.foldl_append, List.foldl_cons, List.foldl_nil]
    rw [hsucc, heq]
    refine ⟨_, rfl, hiso, hcells, fun k => ?_⟩
    refine (State.stack_modStack { s with hbm := h } n k _).trans ?_
    rw [State.stack, State.stack, hstack, hstack, hiso]
    by_cases hk : k = n
    · subst hk
      rw [if_pos rfl, if_pos (Nat.lt_succ_self _), if_neg (Nat.lt_irrefl _)]
    · rw [if_neg hk]
      exact if_congr (by omega) rfl rfl

/-- What the end of training makes of a stack. -/
def trainedStack (failed iso : BitVec 24) (k : Nat) (x : StackSt) : StackSt :=
  if failed.getLsbD k then (if iso.getLsbD k then { x with mode := .offline } else x)
  else { x with mode := .initialising, tune := x.temp }

theorem stackTrainingEnd_trains {failed : BitVec 24} {s : State} (hup : startingUp s = true) (htrained : s.boot.trained = false)
    (hphase : s.boot.phase = .training) (hidle : s.mgr.order = []) : let t := stackTrainingEnd failed s
    t.boot.trained = true ∧ (∀ k, k < 24 → t.stack k = trainedStack failed s.hbm.iso k (s.stack k))
    ∧ (t.boot.poolFault = true ↔ ∃ k, k < 24 ∧ failed.getLsbD k = true ∧ s.hbm.iso.getLsbD k = false) := by
  obtain ⟨h, heq, -, -, hstack⟩ := eachStack_stacks 24 (trainedStack failed) s
  unfold eachStack trainedStack at heq
  dsimp only
  unfold stackTrainingEnd
  rw [hphase]
  dsimp only
  rw [if_neg (by simp [htrained, hup]), heq, settle_empty]
  · refine ⟨rfl, fun k hk => (hstack k).trans (if_pos hk), ?_⟩
    simp [State.modBoot, List.any_eq_true]
  · exact hidle

/-- POOL_READY of a start whose stacks trained, before firmware: the stacks that initialised are ACTIVE. -/
theorem poolReady_activates {s : State} (htrained : s.boot.trained = true) (hfault : s.boot.poolFault = false)
    (hready : s.boot.poolReady = false) (hpow : powered s = true) (hfw : s.boot.fwStart = none) : let t := poolReady s
    t.boot.poolReady = true ∧ t.boot.everReady = true ∧ t.hbm.cells = s.hbm.cells
    ∧ (∀ k, k < 24 → (t.stack k).mode = if (s.stack k).mode = .initialising then .active else (s.stack k).mode) := by
  obtain ⟨h, heq, -, hcells, hstack⟩ :=
    eachStack_stacks 24 (fun _ _ x => if x.mode = .initialising then { x with mode := .active } else x) s
  unfold eachStack at heq
  dsimp only
  unfold poolReady
  rw [if_neg (by simp [htrained, hfault, hready, hpow]), heq]
  dsimp only [State.modBoot]
  rw [hfw]
  refine ⟨rfl, rfl, hcells, fun k hk => ?_⟩
  refine (congrArg StackSt.mode ((hstack k).trans (if_pos hk))).trans ?_
  split <;> rfl

end Sys2Proof.Machine
end

section
/-! Power-on, shutdowns, the watchdog, the bridge and the test port (spec 18 R379, 21 R428-R438, 22 R445-R453): O50. -/

namespace Sys2Proof.Machine

/-! ## Power-on -/

/-- A power-on keeps fuses, attach-host memory and the waiting commands, and reports the last shutdown. -/
theorem powerOn_leaves (s : State) : let t := powerOn s
    t.now = 0 ∧ t.sec.svn = s.sec.svn ∧ t.sec.revoked = s.sec.revoked ∧ t.sec.level = 0
    ∧ t.host.mem = s.host.mem ∧ t.pending = s.pending ∧ t.hbm = {} ∧ t.coh = {} ∧ t.queues = [] ∧ t.arrays = [] ∧ t.counters = []
    ∧ t.boot.lastShut = (match s.boot.record with | some r => r.1 | none => 0) ∧ t.boot.record = none ∧ t.boot.stage = 1
    ∧ t.pins.converters = true ∧ t.pins.refclk = true := by
  unfold powerOn
  cases s.boot.record with
  | none => exact ⟨rfl, rfl, rfl, rfl, rfl, rfl, rfl, rfl, rfl, rfl, rfl, rfl, rfl, rfl, rfl, rfl⟩
  | some r =>
    dsimp only
    split
    · exact ⟨rfl, rfl, rfl, rfl, rfl, rfl, rfl, rfl, rfl, rfl, rfl, rfl, rfl, rfl, rfl, rfl⟩
    · simp [wiped]

/-! ## Shutdowns -/

/-- A shutdown took place: the converters are off, and cause and time recorded. -/
def ShutBy (s : State) (cause : Byte) (t : State) : Prop :=
  t.pins.converters = false ∧ t.boot.record = some (cause, s.now) ∧ t.sec.svn = s.sec.svn
    ∧ t.sec.revoked = s.sec.revoked ∧ t.hbm = {} ∧ t.keys = [] ∧ t.queues = [] ∧ t.host.mem = s.host.mem

section
variable {s u : State}

theorem shutDown_shuts (hin : u.pins.input = true) (hconv : u.pins.converters = true) (hnow : u.now = s.now) (hsec : u.sec = s.sec)
    (hhost : u.host = s.host) (cause : Byte) : let t := shutDown cause u
    ShutBy s cause t ∧ t.sec.level = 0 ∧ (cause = shutThermal → t.pins.thermtripN = false) := by
  have h : ¬ ((!u.pins.input) = true ∨ (!u.pins.converters) = true) := by simp [hin, hconv]
  dsimp only
  unfold shutDown
  rw [if_neg h]
  refine ⟨⟨rfl, by rw [← hnow], by rw [← hsec]; rfl, by rw [← hsec]; rfl, rfl, rfl, rfl, by rw [← hhost]; rfl⟩, rfl, ?_⟩
  rintro rfl
  simp

theorem shutDown_of_off (h : s.pins.converters = false) (cause : Byte) : shutDown cause s = s := if_pos (by simp [h])

theorem up_of_powered (h : powered s = true) : s.pins.input = true ∧ s.pins.converters = true ∧ s.pins.refclk = true := by
  unfold powered at h
  obtain ⟨h, hclk⟩ := Bool.and_eq_true_iff.mp h
  obtain ⟨hin, hconv⟩ := Bool.and_eq_true_iff.mp h
  exact ⟨hin, hconv, hclk⟩

/-- A member that trips tells its Steward first. -/
theorem exec_thermalTrip {temp : Nat} (h : 115 ≤ temp) (hpow : powered s = true) : exec (.thermalTrip temp) s
    = .next (shutDown shutThermal (if s.env.member && fwRoles s then excursion 6 true s else s)) := congrArg _ (if_pos ⟨h, hpow⟩)

theorem thermalTrip_shuts {temp : Nat} (h : 115 ≤ temp) (hpow : powered s = true) :
    Yields (.thermalTrip temp) s fun t => ShutBy s shutThermal t ∧ t.pins.thermtripN = false := by
  obtain ⟨hin, hconv, -⟩ := up_of_powered hpow
  refine ⟨_, exec_thermalTrip h hpow, ?_⟩
  split
  · obtain ⟨hshut, -, htrip⟩ := shutDown_shuts (s := s) (u := excursion 6 true s) (by simpa using hin) (by simpa using hconv)
      (by simp) (by simp) (by simp) shutThermal
    exact ⟨hshut, htrip rfl⟩
  · obtain ⟨hshut, -, htrip⟩ := shutDown_shuts hin hconv rfl rfl rfl shutThermal
    exact ⟨hshut, htrip rfl⟩

/-! ## The watchdog -/

theorem watchdogRestart_restarts (hpow : powered s = true) (hrun : s.pins.halted = false) (hactiv : s.boot.activ = none) :
    Yields .watchdogRestart s fun t => t.boot = { s.boot with dog := s.now } ∧ { t with boot := s.boot } = s := by
  have hexec : exec .watchdogRestart s = .next (s.modBoot fun b => { b with dog := s.now }) := by
    refine congrArg Host.Outcome.next (if_pos ?_)
    rw [hpow, hrun, hactiv]
    decide
  exact ⟨_, hexec, rfl, rfl⟩

theorem watchdogExpiry_of_late (hrom : romRuns s = false) (hlate : s.boot.dog + 250000000 ≤ s.now) :
    exec .watchdogExpiry s = .next (shutDown shutWatchdog s) := congrArg _ (if_pos (by simp [hrom, hlate]))

theorem watchdogExpiry_in_time (hclk : s.pins.refclk = true) (hsoon : s.now < s.boot.dog + 250000000) :
    exec .watchdogExpiry s = .next s := congrArg _ (if_neg (by simp [hclk, hsoon]))

theorem watchdogExpiry_of_rom (hrom : romRuns s = true) : exec .watchdogExpiry s = .next s :=
  congrArg _ (if_neg (by simp [hrom]))

/-! ## The bridge -/

theorem one_segment_ne_both : ∀ seg : Fin 2, (0 : BitVec 2) ||| BitVec.ofNat 2 (2 ^ seg.val) ≠ 3 := by decide

theorem both_segments : ∀ (b : BitVec 2) (seg : Fin 2), b.getLsbD seg.val = false → b ≠ 0 → b ||| BitVec.ofNat 2 (2 ^ seg.val) = 3 := by
  decide

theorem bridgeSegmentDown_first (seg : Fin 2) (h : s.boot.bridgeDown = 0) : let t := bridgeSegmentDown seg.val s
    t.boot.bridgeDown = BitVec.ofNat 2 (2 ^ seg.val) ∧ t.pins = s.pins ∧ bitOf (t.evBits srcCnt) evBridgeDegraded = true := by
  dsimp only
  unfold bridgeSegmentDown
  rw [if_neg (by simp [h])]
  dsimp only [State.modBoot]
  rw [h, if_neg (one_segment_ne_both seg)]
  exact ⟨by simp, by simp, raiseEv_set _ (by decide) _⟩

theorem bridgeSegmentDown_second (seg : Fin 2) (h : s.boot.bridgeDown.getLsbD seg.val = false) (hne : s.boot.bridgeDown ≠ 0) :
    bridgeSegmentDown seg.val s = shutDown shutBridge { s with boot := { s.boot with bridgeDown := 3 } } := by
  unfold bridgeSegmentDown
  rw [if_neg (by simp [h])]
  dsimp only [State.modBoot]
  rw [both_segments _ _ h hne]
  rfl

end

/-- A command of the clocked package that changes nothing. -/
theorem exec_of_clocked_id {c : Instr} {s : State} {f : State → State} (hexec : exec c s = .next (clocked f s)) (h : f s = s) :
    exec c s = .next s := by
  rw [hexec, clocked, h, ite_id]

theorem exec_of_powered {c : Instr} {s : State} {f : State → State} (hpow : powered s = true)
    (hexec : exec c s = .next (clocked f s)) : exec c s = .next (f s) := by
  rw [hexec, clocked_of_powered hpow]

theorem exec_deviceResetBegin {s : State} {x : Nat} {p : Bool} (h : s.boot.resetAt = some (x, p)) :
    exec .deviceResetBegin s = .next (if powered s = true ∧ x ≤ s.now then deviceReset 3 p s else s) := by
  cases hpow : powered s with
  | false => exact (if_pos (by simp [hpow])).trans (congrArg _ (if_neg (by simp)).symm)
  | true =>
    refine (outcome_of_powered hpow _).trans (congrArg _ ?_)
    rw [h]
    exact if_congr (by simp) rfl rfl

/-- What the end of training makes of each stack's mode. -/
theorem trainedStack_modes (failed iso : BitVec 24) (k : Nat) (x : StackSt) :
    (failed.getLsbD k = false → (trainedStack failed iso k x).mode = .initialising ∧ (trainedStack failed iso k x).tune = x.temp)
    ∧ (failed.getLsbD k = true → (trainedStack failed iso k x).mode = if iso.getLsbD k = true then .offline else x.mode) := by
  unfold trainedStack
  refine ⟨fun h => ?_, fun h => ?_⟩
  · rw [h, if_neg Bool.false_ne_true]
    exact ⟨rfl, rfl⟩
  · rw [h, if_pos rfl]
    split <;> rfl

/-- Settles O50, clause by clause: what each reset, start, shutdown and pin leaves. -/
theorem resetsStartsAndShutdowns : Obligations.ResetsStartsAndShutdowns := by
  unfold Obligations.ResetsStartsAndShutdowns
  intro s shut up begun
  have hbegun : ∀ {kind p t}, ResetTo kind s (deviceReset kind p t) → begun kind (deviceReset kind p t) :=
    fun ⟨hkind, hsvn, _, hqueues, hcores, hrecord, hnow, _⟩ => ⟨hkind, hsvn, hqueues, hcores, hrecord, hnow⟩
  have hshut : ∀ cause, s.pins.input = true → s.pins.converters = true → ShutBy s cause (shutDown cause s) :=
    fun cause hin hconv => (shutDown_shuts hin hconv rfl rfl rfl cause).1
  refine ⟨⟨_, rfl, powerOn_leaves s⟩, fun m h hmember hnone hfree => ?_, fun x p hat => ⟨fun hdue hpow => ?_, fun hsoon => ?_⟩,
    deviceReset_leaves s, ⟨fun hin hconv hn hwb => ?_, resetNAssert_held⟩, fun hn => ?_, fun hwb => ?_, fun hwb hpow => ?_,
    fun f hup htrained hphase hidle => ?_, fun htrained hfault hready hpow hfw => ?_, fun hnot => ?_, fun cause hin hconv => ?_,
    fun cause hoff => shutDown_of_off hoff cause, fun temp => ⟨fun h hpow => ?_, fun h => ?_⟩, rfl,
    fun hup => ⟨_, rfl, hshut _ hup.1 hup.2⟩, watchdogRestart_restarts,
    ⟨fun hrom hlate => ⟨watchdogExpiry_of_late hrom hlate, fun hup => ⟨_, watchdogExpiry_of_late hrom hlate, hshut _ hup.1 hup.2⟩⟩,
      watchdogExpiry_in_time, watchdogExpiry_of_rom⟩,
    fun seg h hpow => yields_clocked hpow rfl (bridgeSegmentDown_first seg h),
    fun seg h hne hpow => (exec_of_powered hpow rfl).trans (congrArg _ (bridgeSegmentDown_second seg h hne)),
    ⟨_, rfl, rfl, rfl, rfl, rfl, rfl, rfl⟩, ⟨_, rfl, rfl, rfl⟩, fun hin => ?_⟩
  · exact ⟨yields_deviceReset h hmember hnone hfree, deviceReset_refused h⟩
  · have hrun : exec .deviceResetBegin s = .next (deviceReset 3 p s) :=
      (exec_deviceResetBegin hat).trans (congrArg _ (if_pos ⟨hpow, hdue⟩))
    exact ⟨hrun, _, hrun, hbegun (deviceReset_resets 3 p s)⟩
  · exact (exec_deviceResetBegin hat).trans (congrArg _ (if_neg (by omega)))
  · have hrun := resetNAssert_resets hin hconv hn hwb
    obtain ⟨hkind, hsvn, hrevoked, hqueues, hcores, hrecord, hnow, hpins⟩ :=
      deviceReset_resets 2 s.boot.pinPreserve { s with pins := { s.pins with resetN := false } }
    exact ⟨hrun, _, hrun, ⟨hkind, hsvn, hqueues, hcores, hrecord, hnow⟩, hpins⟩
  · exact ⟨_, congrArg Host.Outcome.next (if_neg (by simp [hn])), rfl, rfl, rfl⟩
  · exact exec_of_clocked_id rfl (if_pos (by simp [hwb]))
  · exact yields_clocked hpow rfl (resetWriteBackEnd_retunes hwb)
  · have hpow : powered s = true := (Bool.and_eq_true_iff.mp (Bool.and_eq_true_iff.mp hup).1).1
    obtain ⟨htrains, hstack, hfault⟩ := stackTrainingEnd_trains (failed := f) hup htrained hphase hidle
    refine yields_clocked hpow rfl ⟨htrains, fun k hk => ?_, fun k hk => ?_, hfault⟩
    · rw [hstack k hk]
      exact (trainedStack_modes ..).1
    · rw [hstack k hk]
      exact (trainedStack_modes ..).2
  · exact yields_clocked hpow rfl (poolReady_activates htrained hfault hready hpow hfw)
  · refine exec_of_clocked_id rfl (if_pos ?_)
    obtain h | h | h := hnot <;> simp [h]
  · obtain ⟨⟨hconv', hrecord, hsvn, -, hhbm, hkeys, -, -⟩, hlevel, htrip⟩ := shutDown_shuts hin hconv rfl rfl rfl cause
    exact ⟨hconv', hrecord, hsvn, hlevel, hhbm, hkeys, htrip⟩
  · exact ⟨fun hmember => (exec_thermalTrip h hpow).trans (by rw [hmember]; rfl), thermalTrip_shuts h hpow⟩
  · exact congrArg _ (if_neg (by omega))
  · have hport : ∀ op, exec (.testPortAccess op) s = .next (testPort op s) := fun _ => rfl
    refine ⟨congrArg _ (ite_id s), congrArg _ (ite_id s), fun hlevel hpow => ?_, fun hlevel => ?_, ?_⟩
    · exact congrArg _ ((if_neg (by simp [hin])).trans (if_pos ⟨hlevel, hpow⟩))
    · exact congrArg _ ((if_neg (by simp [hin])).trans (if_neg fun h => hlevel h.1))
    · exact ⟨_, congrArg Host.Outcome.next (if_neg (by simp [hin])), rfl, rfl⟩

end Sys2Proof.Machine
end
